-- ==== Sys2Proof/Word.lean ====
section
/-! DEFINITION. The word types of the block and the sparse maps that hold its registers, its memory and its unit records. -/

namespace Sys2Proof

/-- A byte of memory or of a message. -/
abbrev Byte := BitVec 8
/-- A register word (R10). -/
abbrev Word := BitVec 32
/-- A 64-bit register pair, address, counter value or time (R11). -/
abbrev DWord := BitVec 64

/-- A sparse map: key and value pairs, keys strictly rising, no entry equal to the value of an unlisted key. -/
abbrev SMap (α : Type) := List (Nat × α)

end Sys2Proof
end

