-- ==== Sys2Proof/Syntax.lean ====
section
/-! DEFINITION. The commands of the block: one constructor for each of the 253 rows of the operation table, with the operands that the spec's rule of the row names. -/

namespace Sys2Proof

/-- Which dispatched command or part a data-work step runs for (R29, R174, R618). `queue q n` is the command of ring index `n`
of this module's queue `q` (numbered as R566 numbers queues); `remote src ctag` is a command or group part that module `src`
sent under tag `ctag`. -/
inductive JobRef where
  | queue (q n : Nat)
  | remote (src ctag : Nat)
  deriving DecidableEq, Repr

/-- A torus packet as it arrives (R318): its header fields and payload, and whether it was poisoned or truncated (R321). Some fields are
no part of its 128-byte flits: `aux` holds what the rules need a CMD or an RPT to bring and the header of R318 has no place for (log
entry 17), `via` is the port through which a packet to a neighbour leaves, or by which a packet here came (log entry 62), and `born` is when it reached
injection (R385). On a packet that ROUTE finds corrupt in the router's buffer, `aux` numbers its 128-byte pieces that are (none: the first). -/
structure Pkt where
  op : Nat := 0
  cls : Nat := 0
  epoch : Bool := false
  ordered : Bool := false
  dlv : Bool := false
  ttl : Nat := 0
  dest : Nat := 0
  src : Nat := 0
  rtag : Nat := 0
  ctag : Nat := 0
  addr : DWord := 0
  arg : Word := 0
  status : Nat := 0
  payload : List Byte := []
  poisoned : Bool := false
  aux : List Nat := []
  via : Option Nat := none
  born : Nat := 0
  deriving DecidableEq, Repr

/-- An Acnis message (R422): header fields, LEN (payload bytes before encryption), the payload (as it travels, a ciphertext with its tag,
R425; inside SXU, the plaintext with no tag). -/
structure AMsg where
  ver : Nat := 1
  typ : Nat := 0
  keyEpoch : Nat := 0
  srcSite : Nat := 0
  dstSite : Nat := 0
  stale : Nat := 0
  exgroup : Nat := 0
  module : Nat := 0
  round : Word := 0
  item : Nat := 0
  seq : DWord := 0
  arg0 : Word := 0
  arg1 : Word := 0
  len : Nat := 0
  body : List Byte := []
  tag : List Byte := []
  deriving DecidableEq, Repr

/-- A control-protocol datagram (R517): the port it travels on (0 management, 1 ETH0, 2 ETH1), the host's IPv6 address and UDP port as
numbers, the module's UDP port to which it is addressed (R516), the header fields (`len`: payload bytes before padding), the payload as it travels, and the 16-byte tag of a sealed message. -/
structure CMsg where
  via : Nat := 0
  fromAddr : Nat := 0
  fromPort : Nat := 0
  toPort : Nat := 17401
  typ : Nat := 0
  ver : Nat := 1
  session : Nat := 0
  status : Nat := 0
  seq : DWord := 0
  ackSeq : DWord := 0
  len : Nat := 0
  body : List Byte := []
  sealed : Bool := false
  tag : List Byte := []
  deriving DecidableEq, Repr

/-- What the checkers saw in one pass (R105–R108). -/
inductive PassCheck where
  | clean
  | rowCheck (row : Nat)
  | colCheck (col : Nat)
  | residue (row col : Nat)
  | memUe (addr : Nat)
  deriving DecidableEq, Repr

/-- One code word that has gone wrong in a memory or a store (R200–R203): its address, whether it can be corrected, whether its cells have
failed (R548), whether it was the stack's own on-die code that met it (R225), and whether this scrub has found it: one not found waits for
the next read. -/
structure ScrubHit where
  addr : Nat
  correctable : Bool
  cellsFailed : Bool
  onDie : Bool
  found : Bool
  deriving DecidableEq, Repr

/-- What an access of a kernel is. -/
inductive KKind where
  | fetch | load | store
  deriving DecidableEq, Repr
/-- One access of a kernel, as the kernel's program made it (R156, R169): the program itself runs on a core whose instruction set the spec takes
from elsewhere. The pc of its instruction, its address, the bytes stored, and the count of bytes fetched or loaded. -/
structure KAccess where
  pc : DWord
  kind : KKind
  addr : Nat
  bytes : List Byte
  len : Nat
  deriving DecidableEq, Repr

/-- What a kernel did before its part ends: the pc at which it stands, and its accesses in order. -/
structure KEnd where
  pc : DWord
  acc : List KAccess
  deriving DecidableEq, Repr
/-- The drain of an engine's oldest block that has passed, with the place of a residue mismatch in it (R123), if any. -/
structure DrainEvt where
  engine : Nat
  residue : Option (Nat × Nat) := none
  deriving DecidableEq, Repr
/-- The fields of a Sync message that the client uses (R451). -/
structure SyncHdr where
  twoStep : Bool
  domain : Nat
  logInterval : Int
  deriving DecidableEq, Repr

/-- A received Ethernet frame (R389, R390): its class by the first rule that matches, its length and whether it is a fragment. -/
inductive EthClass where
  | ctrl | acnis | roce | other
  deriving DecidableEq, Repr

/-- One constructor per row of the operation table, in the table's order. -/
inductive Instr where
  | qTailWrite (q : Nat) (v : Word)
  | queueEnable (q : Nat) (v : Word)
  | resumeRetry (q : Nat)
  | resumeSkip (q : Nat)
  | commandAtHead (q : Nat)
  | commandDispatch (j : JobRef)
  | waitTimeout (j : JobRef)
  | commandComplete (j : JobRef)
  | commandFail (j : JobRef)
  | partComplete (j : JobRef) (p : Nat)
  | partFail (j : JobRef) (p : Nat)
  | cmd (pk : Pkt)
  | rpt (pk : Pkt)
  | partReportTimer (src ctag : Nat)
  | reportTimeout (j : JobRef) (p : Nat)
  | matmul (j : JobRef) (p : Nat)
  | pass (e : Nat) (chk : PassCheck)
  | drain (d : DrainEvt)
  | drainStreamResume (e : Nat)
  | rampUpStageEnd (e : Nat)
  | holdEnd (e : Nat)
  | rampDownStageEnd (e : Nat)
  | fenceEngine (e : Nat) (v : Word)
  | selftestStart (e : Nat) (v : Word)
  | selftestEnd (e : Nat) (failing : Option (Nat × Nat))
  | elemwiseAdd (j : JobRef) (p : Nat)
  | elemwiseSub (j : JobRef) (p : Nat)
  | elemwiseMul (j : JobRef) (p : Nat)
  | elemwiseDiv (j : JobRef) (p : Nat)
  | elemwiseSqrt (j : JobRef) (p : Nat)
  | elemwiseFma (j : JobRef) (p : Nat)
  | elemwiseMin (j : JobRef) (p : Nat)
  | elemwiseMax (j : JobRef) (p : Nat)
  | elemwiseMinnum (j : JobRef) (p : Nat)
  | elemwiseMaxnum (j : JobRef) (p : Nat)
  | cmpq (j : JobRef) (p : Nat)
  | cmps (j : JobRef) (p : Nat)
  | cvt (j : JobRef) (p : Nat)
  | cvtToInt (j : JobRef) (p : Nat)
  | cvtFromInt (j : JobRef) (p : Nat)
  | roundint (j : JobRef) (p : Nat)
  | augAdd (j : JobRef) (p : Nat)
  | augMul (j : JobRef) (p : Nat)
  | classOf (j : JobRef) (p : Nat)
  | copysign (j : JobRef) (p : Nat)
  | neg (j : JobRef) (p : Nat)
  | abs (j : JobRef) (p : Nat)
  | kernel (j : JobRef) (p : Nat) (core : Nat)
  | kernelEcall (core : Nat) (a7 : DWord) (k : KEnd)
  | kernelFault (core : Nat) (mcause mepc mtval : DWord) (acc : List KAccess)
  | kernelTimeout (core : Nat) (k : KEnd)
  | dmaCopyLocal (j : JobRef) (p : Nat)
  | dmaCopyRemoteWrite (j : JobRef) (p : Nat)
  | dmaCopyRemoteRead (j : JobRef) (p : Nat)
  | dmaCopyHost (j : JobRef) (p : Nat)
  | accumWriteLocal (j : JobRef) (p : Nat)
  | accumWriteRemote (j : JobRef) (p : Nat)
  | fenceQueue (j : JobRef) (p : Nat)
  | fenceIcache (j : JobRef) (p : Nat)
  | firnSeal (j : JobRef) (p : Nat)
  | firnRelearn (j : JobRef) (p : Nat)
  | firnExport (j : JobRef) (p : Nat)
  | firnImport (j : JobRef) (p : Nat)
  | firnDiscard (j : JobRef) (p : Nat)
  | firnBlockWrite (addr : Nat) (bytes : List Byte)
  | reEncodeStep (region block : Nat)
  | firnInitDone (region : Nat)
  | hbmScrub (ctl : Nat) (hits : List ScrubHit)
  | storeScrub (hits : List ScrubHit)
  | ingest (j : JobRef) (p : Nat)
  | init (j : JobRef) (p : Nat)
  | stepCommit (j : JobRef) (p : Nat)
  | audit (j : JobRef) (p : Nat)
  | idleLogReplay
  | retirementWaitMet (j : JobRef) (k : Nat)
  | genTimeout (j : JobRef) (k : Nat)
  | t2TransferDone (j : JobRef) (k : Nat)
  | tierTimeout (j : JobRef) (k : Nat)
  | updAdmit
  | updAbort (v : Word)
  | stepVote (j : JobRef) (p : Nat)
  | voteUp (pk : Pkt)
  | voteDown (pk : Pkt)
  | allReduce (j : JobRef) (p : Nat)
  | reduceScatter (j : JobRef) (p : Nat)
  | allGather (j : JobRef) (p : Nat)
  | allToAll (j : JobRef) (p : Nat)
  | broadcast (j : JobRef) (p : Nat)
  | barrier (j : JobRef) (p : Nat)
  | join (pk : Pkt)
  | grant (pk : Pkt)
  | data (pk : Pkt)
  | abort (pk : Pkt)
  | colTimeout (j : JobRef) (p : Nat)
  | contextGranted
  | gEnginesRefresh (group member live : Nat)
  | wait (j : JobRef) (p : Nat)
  | ticket (j : JobRef) (p : Nat)
  | signalAdd (j : JobRef) (p : Nat)
  | fetchAdd (j : JobRef) (p : Nat)
  | assign (j : JobRef) (p : Nat)
  | release (j : JobRef) (p : Nat)
  | sig (pk : Pkt)
  | fadd (pk : Pkt)
  | waitRegistration (pk : Pkt)
  | verdict (pk : Pkt)
  | counterWaitExpiry (wid : Nat)
  | waiterBackstop (wid : Nat)
  | registrationRetry (wid : Nat)
  | synPreempt (v : Word)
  | mbxPost (owner m : Nat) (v : Word)
  | mbxReceive (owner m : Nat)
  | mbxLockAcquire (owner m : Nat)
  | mbxLockRelease (owner m : Nat) (v : Word)
  | mbxForce (owner off : Nat) (v : Word)
  | mbxHb (owner a : Nat) (v : Word)
  | codeword (port seq : Nat) (uncorrectable : Bool) (lcw : Nat) (corrected : List Nat) (flits : List (Nat × List Byte))
  | nak (port seq : Nat)
  | ack (port seq : Nat)
  | credit (port vc flits : Nat)
  | trainingAttempt (port : Nat)
  | peer (port : Nat) (moduleId peerPort : Nat)
  | laneLockLoss (port lane : Nat)
  | noCodeword (port : Nat)
  | portEnable (port : Nat) (v : Word)
  | retrain (port : Nat)
  | route (inPort : Option Nat) (pk : Pkt)
  | wr (pk : Pkt)
  | acc (pk : Pkt)
  | rd (pk : Pkt)
  | rspAck (pk : Pkt)
  | rdata (pk : Pkt)
  | replyTimeout (slot : Nat)
  | poisonListExpiry (src ctag : Nat)
  | tfrQuiesce (v : Word)
  | tableWrite (owner off : Nat) (v : Word)
  | roundOpen
  | roundDeadline
  | send (j : JobRef) (p : Nat)
  | merge (j : JobRef) (p : Nat)
  | thawExch (j : JobRef) (p : Nat)
  | thawApply (j : JobRef) (p : Nat)
  | joinSite (j : JobRef) (p : Nat)
  | peerCtlIsolate (j : JobRef) (p : Nat)
  | peerCtlAbandon (j : JobRef) (p : Nat)
  | thawTimeout (peer : Nat)
  | joinTimeout
  | segmentTransmit (peer : Nat)
  | probe (m : AMsg)
  | probeReply (m : AMsg)
  | probePeriodic
  | delta (m : AMsg)
  | done (m : AMsg)
  | nack (m : AMsg)
  | acnisAck (m : AMsg)
  | acnisRto (peer : Nat)
  | deltaSendStop
  | thawDelta (m : AMsg)
  | thawDone (m : AMsg)
  | joinReq (m : AMsg)
  | joinReqRepeat
  | joinGrant (m : AMsg)
  | snapSend
  | snap (m : AMsg)
  | snapDone (m : AMsg)
  | snapDeadline
  | leave (m : AMsg)
  | ppsEdge (t : DWord)
  | ppsMissing
  | ptpSync (t1 : DWord) (followUp : Bool) (h : SyncHdr)
  | ptpDelayResp (t1 t2 t3 t4 : DWord)
  | ptpLock
  | ptpLoss
  | holdoverLimit
  | timerFire (n : Nat)
  | governorTick (power : Nat) (sensors : List Int)
  | staggerEnd
  | thermCrit (sensors : List Int)
  | grantEffective
  | coolant (bytes : List Byte)
  | grid (bytes : List Byte)
  | status (power : Nat)
  | grantLost
  | coolantTimeout
  | gridLossN (asserted : Bool)
  | park
  | parked
  | unpark
  | unparkDone
  | voltageAlarm
  | clockAlarm
  | lidAlarm
  | gcmSeal (j : JobRef) (p : Nat)
  | gcmOpen (j : JobRef) (p : Nat)
  | ctr (j : JobRef) (p : Nat)
  | cmac (j : JobRef) (p : Nat)
  | stream (j : JobRef) (p : Nat)
  | ctxSave (j : JobRef) (p : Nat)
  | ctxRestore (j : JobRef) (p : Nat)
  | derive (j : JobRef) (p : Nat)
  | erase (j : JobRef) (p : Nat)
  | cmdQueueEntryFreed
  | sxuCipherRequest (decrypt : Bool) (m : AMsg)
  | rootLoad (owner : Nat) (v : Word)
  | rootClear (owner : Nat) (v : Word)
  | lidEnWrite (v : Word)
  | openSession (m : CMsg)
  | certGet (m : CMsg)
  | keyx (m : CMsg)
  | read (m : CMsg)
  | write (m : CMsg)
  | eventAck (m : CMsg)
  | eventResend (session : Nat)
  | keyLoad (m : CMsg)
  | fwWrite (m : CMsg)
  | fwActivate (m : CMsg)
  | fwCommit (m : CMsg)
  | claim (m : CMsg)
  | close (m : CMsg)
  | keepalive (m : CMsg)
  | sessionIdleTimeout (session : Nat)
  | tpmMeasExt (owner : Nat) (v : Word)
  | roceAckTimeout (w : Nat)
  | congestionNotification (w : Nat)
  | rateRestore (w : Nat)
  | ethFrameReceive (port : Nat) (cls : EthClass) (len : Nat) (fragment : Bool)
  | neighbourSolicitation (target : Nat)
  | por
  | resetN (low : Bool)
  | computeReset
  | fabricReset
  | sxuReset
  | cphReset
  | moduleReset
  | glbFloeReset (v : Word)
  | resetComplete (kind : Nat)
  | bootRom
  | startUpStage
  | neighbourCheckTimeout
  | boardFrameEnd (bytes : List Byte)
  | blkCommitCommit (win gen : Nat)
  | blkCommitDiscard (win gen : Nat)
  | commitApply (win : Nat)
  | statClr (win gen : Nat)
  | evtTest (win gen : Nat)
  | morEnable (v : Word)
  | readClear (owner off : Nat)
  | registerWrite (owner off : Nat) (v : Word)
  | pwrgd (high : Bool)
  | ethLink (port : Nat) (up : Bool)
  | roceAck (w : Nat) (err : Bool) (bytes : List Byte)
  | fruWrite (addr : Nat) (v : Byte)
  | testAccessPort (opcode : Nat)
  deriving DecidableEq, Repr

end Sys2Proof
end

