-- ==== Sys2Proof/Decode.lean ====
section
/-! DEFINITION. The commands that a word spells by the table's bits: the table of this block gives no row any bits. -/

namespace Sys2Proof

/-- No row of spec/opcode_table.json has fields of bits (every row's list of fields is empty), so no word spells a command. -/
def decodeTableWord (_nbits _w : Nat) : Option Instr := none

end Sys2Proof
end

