-- ==== Sys2Proof/Config.lean ====
section
/-! DEFINITION. What the spec leaves open (free values: opaque constants, nothing can evaluate them) and what a part fixes by its fuses and its manufacture. -/

namespace Sys2Proof

/-- A fresh 32-bit free value for each value of State.free (log entry 2). -/
opaque Config.freeWord : Nat → BitVec 32
/-- A fresh free byte for each value of State.free and position (log entry 2). -/
opaque Config.freeByte : Nat → Nat → BitVec 8

/-- Whether fusedMultiplyAdd(0, ∞, quiet NaN) raises invalid: the standard that R45 names leaves it open. -/
opaque Config.fmaZeroInfNan : Bool
/-- The integer that CVT_TO_INT writes for a NaN, an infinity or a value out of range (width, source format, source code). -/
opaque Config.cvtInvalid : Nat → Nat → Nat → Nat
/-- R76 states the conversion to F32P of F32 values only: the halves of another value's pair (the value as F64, which half). -/
opaque Config.cvtPair : Nat → Nat → BitVec 32

/-- Which of the F32 numbers within 2 ulp of the exact result a function of R124 or the exponential of R127 gives (function, input):
R125 and R127 bound their error only. -/
opaque Config.ulpPick : Nat → BitVec 32 → Nat
/-- The Delub T5's activation functions in Delub-exact mode (R84, R126): function code and finite F32 input. -/
opaque Config.delubFn : Nat → BitVec 32 → BitVec 32

/-- The code lengths that Firn's table building gives to a histogram's 256 counts (R215): only a limit of 15 and that the same
histogram gives the same lengths is stated. -/
opaque Config.firnLengths : List Nat → Nat → Nat

/-- R478: root 0, the device key that FD's fuses form. -/
opaque Config.deviceKey : BitVec 256
/-- R613: bytes of the FRU memory that the table does not give, as written at manufacture. -/
opaque Config.fruByte : Nat → BitVec 8

/-- R507: module flash as it stands before the module runs. -/
opaque Config.flashByte : Nat → BitVec 8
/-- R614: the letters and digits of the serial number that the spec leaves to manufacture. -/
opaque Config.serialLetter : Nat → Nat
/-- R613, R614: the year and the week of manufacture. -/
opaque Config.madeYear : BitVec 16
opaque Config.madeWeek : BitVec 8
/-- R507: the identity record's certificate chain and key pair (modulus and private exponent; R514). -/
opaque Config.certChain : List (BitVec 8)
opaque Config.idModulus : Nat
opaque Config.idExponent : Nat
/-- R514: the IV under which the identity record's key was sealed at manufacture. -/
opaque Config.idIv : Nat → BitVec 8
/-- R549: what the configuration record in module flash gives for the registers of TFR, by offset: TFR_ID, TFR_DIM, the table sets and their
orders. The record's layout is not given. -/
opaque Config.tfrWord : List (BitVec 8) → Nat → BitVec 32
/-- R510: fuses: the SHA-512 of vendor key 0–3 (64 bytes) and its revocation bit. -/
opaque Config.vendorHash : Nat → List Nat
opaque Config.vendorRevoked : Nat → Bool
/-- R513: the SHA-512 of the ROM code and of the fuse words (64 bytes; the latter for a fuse floor). -/
opaque Config.romHash : List Nat
opaque Config.fuseHash : Nat → List Nat
/-- R536: the management port's MAC address. -/
opaque Config.mgmtMac : BitVec 48

end Sys2Proof
end

