-- ==== Sys2Proof/Machine/Formats.lean ====
section
/-! DEFINITION. Number formats (R42–R67, R75, R80–R83): decoding a code to its value, rounding a value to a code, block scales, packing and stochastic rounding. -/

namespace Sys2Proof.Machine

/-- The value a code stands for: NaN (signalling or quiet), an infinity, or (−1)^neg · m · 2^e exactly. -/
inductive FV where
  | nan (signalling : Bool)
  | inf (neg : Bool)
  | fin (neg : Bool) (m : Nat) (e : Int)
  deriving DecidableEq, Repr

/-- Rounding directions: R46's five, and round-ties-to-zero of the augmented operations (R45). -/
inductive Rm where
  | rne | rtz | rdn | rup | rta | rtiesZero
  deriving DecidableEq, Repr

/-- R46: the RM field. Values 5–7 are refused at dispatch. -/
def rmOf (c : Nat) : Rm :=
  if c = 1 then .rtz else if c = 2 then .rdn else if c = 3 then .rup else if c = 4 then .rta else .rne

/-- A binary interchange layout: sign, `eb` exponent bits, `fb` fraction bits, bias 2^(eb−1) − 1. -/
structure Ieee where
  eb : Nat
  fb : Nat
  deriving DecidableEq, Repr

def ieeeF64 : Ieee := ⟨11, 52⟩
def ieeeF32 : Ieee := ⟨8, 23⟩
def ieeeF16 : Ieee := ⟨5, 10⟩
def ieeeB16 : Ieee := ⟨8, 7⟩
def ieeeP8B : Ieee := ⟨5, 2⟩

def ieeeBias (f : Ieee) : Int := (2 : Int) ^ (f.eb - 1) - 1
/-- The code of +∞ without the sign bit. -/
def ieeeInf (f : Ieee) : Nat := (2 ^ f.eb - 1) * 2 ^ f.fb
def ieeeSign (f : Ieee) (neg : Bool) : Nat := if neg then 2 ^ (f.eb + f.fb) else 0
/-- R48: the canonical quiet NaN. P8B's is 0x7E, as the same formula gives. -/
def ieeeNaN (f : Ieee) : Nat := ieeeInf f + 2 ^ (f.fb - 1)

/-- R45, R51, R53: the value of a code. DESIGN CHOICE (log entry 84): of B16's and P8B's NaN codes, which the spec does not divide, those with a clear
top fraction bit are signalling (R48), as in the IEEE formats. -/
def ieeeDec (f : Ieee) (c : Nat) : FV :=
  let s := c / 2 ^ (f.eb + f.fb) % 2 == 1
  let x := c / 2 ^ f.fb % 2 ^ f.eb
  let r := c % 2 ^ f.fb
  if x = 2 ^ f.eb - 1 then (if r = 0 then .inf s else .nan (r < 2 ^ (f.fb - 1)))
  else if x = 0 then .fin s r (1 - ieeeBias f - f.fb)
  else .fin s (r + 2 ^ f.fb) (x - ieeeBias f - f.fb)

/-- Rounds m · 2^e (and, with `st`, a little more, below one unit of m) to a whole number of 2^q; also whether that was inexact. -/
def roundMag (rm : Rm) (neg : Bool) (m : Nat) (e : Int) (st : Bool) (q : Int) : Nat × Bool :=
  if q ≤ e then (m * 2 ^ (e - q).toNat, st)
  else
    let d := (q - e).toNat
    let k := m / 2 ^ d
    let r := m % 2 ^ d
    let h := 2 ^ (d - 1)
    let nx := r != 0 || st
    let up := match rm with
      | .rne => decide (h < r) || (r == h && (st || k % 2 == 1))
      | .rtz => false
      | .rdn => neg && nx
      | .rup => !neg && nx
      | .rta => decide (h ≤ r)
      | .rtiesZero => decide (h < r) || (r == h && st)
    (if up then k + 1 else k, nx)

/-- Flags of R47: bit 4 invalid, 3 division by zero, 2 overflow, 1 underflow, 0 inexact. -/
def flInvalid : Nat := 16
def flDivZero : Nat := 8
def flOverflow : Nat := 4
def flUnderflow : Nat := 2
def flInexact : Nat := 1

/-- R61, R63: a finite value rounded into a binary layout, with the flags of R47 (tininess after rounding). -/
def ieeeEncFin (f : Ieee) (rm : Rm) (neg : Bool) (m : Nat) (e : Int) (st : Bool) : Nat × Nat :=
  let sg := ieeeSign f neg
  if m = 0 then (sg, 0)
  else
    let emin := 1 - ieeeBias f
    let lead := e + Nat.log2 m
    let top := max lead emin
    let r := roundMag rm neg m e st (top - f.fb)
    let c := (top + ieeeBias f - 1).toNat * 2 ^ f.fb + r.1
    if ieeeInf f ≤ c then
      let keep := match rm with
        | .rtz => true
        | .rdn => !neg
        | .rup => neg
        | _ => false
      (sg + (if keep then ieeeInf f - 1 else ieeeInf f), flOverflow + flInexact)
    else
      let unb := (roundMag rm neg m e st (lead - f.fb)).1
      let tiny := decide (lead < emin) && !(lead + 1 == emin && unb == 2 ^ (f.fb + 1))
      (sg + c, if r.2 then (if tiny then flUnderflow + flInexact else flInexact) else 0)

/-- A value encoded: NaN becomes canonical (R48), a signalling NaN raises invalid. -/
def ieeeEnc (f : Ieee) (rm : Rm) (v : FV) (st : Bool := false) : Nat × Nat :=
  match v with
  | .nan s => (ieeeNaN f, if s then flInvalid else 0)
  | .inf s => (ieeeSign f s + ieeeInf f, 0)
  | .fin s m e => ieeeEncFin f rm s m e st

/-- A grid with `fb` fraction bits, exponent bias `bias` and no infinity: the magnitude code nearest (ties to even), at most `maxC`. -/
def gridMag (fb : Nat) (bias : Int) (maxC : Nat) (m : Nat) (e : Int) : Nat :=
  if m = 0 then 0
  else
    let top := max (e + Nat.log2 m) (1 - bias)
    min maxC ((top + bias - 1).toNat * 2 ^ fb + (roundMag .rne false m e false (top - fb)).1)

/-- The value of a magnitude code on such a grid. -/
def gridVal (fb : Nat) (bias : Int) (c : Nat) : Nat × Int :=
  let x := c / 2 ^ fb
  let r := c % 2 ^ fb
  if x = 0 then (r, 1 - bias - fb) else (r + 2 ^ fb, x - bias - fb)

/-- R52: a P8A code. -/
def p8aDec (c : Nat) : FV :=
  if c % 256 = 0x80 then .nan false
  else
    let v := gridVal 3 7 (c % 128)
    .fin (c / 128 % 2 == 1) v.1 v.2

/-- R62: conversion to P8A. -/
def p8aEnc (v : FV) : Nat :=
  match v with
  | .nan _ => 0x80
  | .inf s => if s then 0xFF else 0x7F
  | .fin s m e =>
    let c := gridMag 3 7 0x7F m e
    if c = 0 then 0 else if s then 0x80 + c else c

/-- Format codes of R42. -/
def fF32 : Nat := 0
def fF64 : Nat := 1
def fF16 : Nat := 2
def fB16 : Nat := 3
def fP8A : Nat := 4
def fP8B : Nat := 5
def fP4 : Nat := 6
def fP3 : Nat := 7
def fP2 : Nat := 8
def fPT : Nat := 9
def fF32P : Nat := 10
def fMW48 : Nat := 11

/-- R42: the width of an element in bits (a block-scaled element without its scale; F32P's pair; MW48's two planes). -/
def fmtBits (f : Nat) : Nat :=
  if f = 0 then 32 else if f = 1 then 64 else if f = 2 ∨ f = 3 then 16 else if f = 4 ∨ f = 5 then 8
  else if f = 6 then 4 else if f = 7 then 3 else if f = 8 ∨ f = 9 then 2 else if f = 10 then 64 else if f = 11 then 48 else 0

/-- R42: the block-scaled formats. -/
def isBlockFmt (f : Nat) : Bool := decide (6 ≤ f ∧ f ≤ 9)

/-- R54: the value of a block-scaled code before its scale. -/
def blkVal (f c : Nat) : FV :=
  if f = 6 then
    let v := gridVal 1 1 (c % 8)
    .fin (c / 8 % 2 == 1 && c % 8 != 0) v.1 v.2
  else if f = 7 then .fin (c / 4 % 2 == 1 && c % 4 != 0) (c % 4) 0
  else if f = 8 then .fin (c / 2 % 2 == 1) (if c % 2 = 1 then 3 else 1) 0
  else .fin (c % 4 == 3) (c % 2) 0

/-- m·2^e multiplied by a power of two. -/
def fvScale (v : FV) (k : Int) : FV :=
  match v with
  | .fin s m e => .fin s m (e + k)
  | _ => v

/-- R57 (without the tile scale, which the drain applies, R60): an element with its block's scale code. -/
def blkElem (f c s8 : Nat) : FV :=
  if s8 = 0xFF then .nan false else fvScale (blkVal f c) ((s8 : Int) - 127)

/-- A code of a format without block scales; F32P's value is hi + lo and is decoded in Float. -/
def fmtDec (f c : Nat) : FV :=
  if f = 0 then ieeeDec ieeeF32 c else if f = 1 then ieeeDec ieeeF64 c else if f = 2 then ieeeDec ieeeF16 c
  else if f = 3 then ieeeDec ieeeB16 c else if f = 4 then p8aDec c else ieeeDec ieeeP8B c

/-- R61–R63: conversion to a format without block scales. P8A and P8B round to nearest even whatever the direction. -/
def fmtEnc (f : Nat) (rm : Rm) (v : FV) (st : Bool := false) : Nat × Nat :=
  if f = 0 then ieeeEnc ieeeF32 rm v st else if f = 1 then ieeeEnc ieeeF64 rm v st
  else if f = 2 then ieeeEnc ieeeF16 rm v st else if f = 3 then ieeeEnc ieeeB16 rm v st
  else if f = 4 then (p8aEnc v, 0) else ieeeEnc ieeeP8B .rne v st

/-- m·2^e compared with n·2^f. -/
def dyLt (m : Nat) (e : Int) (n : Nat) (f : Int) : Bool :=
  let q := min e f
  decide (m * 2 ^ (e - q).toNat < n * 2 ^ (f - q).toNat)
def dyLe (m : Nat) (e : Int) (n : Nat) (f : Int) : Bool := !dyLt n f m e

/-- R64's table: the largest value M and the exponent E. -/
def blkM (f : Nat) : Nat := if f = 6 then 6 else if f = 7 then 3 else if f = 8 then 3 else 1
def blkE (f : Nat) : Int := if f = 6 then 2 else if f = 9 then 0 else 1

def fvFinite (v : FV) : Bool := match v with | .fin _ _ _ => true | _ => false

/-- The largest magnitude of a block, as m·2^e. -/
def blkMax : List FV → Nat × Int
  | [] => (0, 0)
  | v :: r =>
    let a := blkMax r
    match v with
    | .fin _ m e => if dyLt a.1 a.2 m e then (m, e) else a
    | _ => a

/-- R64, steps 2–5: the block's scale code. `ceil` is SRULE = 1. -/
def blkScale (f : Nat) (ceil : Bool) (xs : List FV) : Nat :=
  if xs.any (fun v => !fvFinite v) then 0xFF
  else
    let a := blkMax xs
    if a.1 = 0 then 0
    else
      let lead := a.2 + Nat.log2 a.1
      let e0 := lead - blkE f
      let e1 := if ceil && !dyLe a.1 a.2 (blkM f) e0 then e0 + 1 else e0
      ((max (-127) (min 127 e1)) + 127).toNat

/-- R64 step 6, R65–R67: one scaled element rounded to its code. -/
def blkRound (f : Nat) (neg : Bool) (m : Nat) (e : Int) : Nat :=
  if f = 6 then
    let c := gridMag 1 1 7 m e
    if c = 0 then 0 else if neg then 8 + c else c
  else if f = 7 then
    let c := gridMag 1 0 3 m e
    if c = 0 then 0 else if neg then 4 + c else c
  else if f = 8 then (if neg then 2 else 0) + (if dyLt 2 0 m e then 1 else 0)
  else if dyLe m e 1 (-1) then 0 else if neg then 3 else 1

/-- R64: a block's elements (R56's padding not among them) converted: its scale code and its codes. -/
def blkEnc (f : Nat) (ceil : Bool) (xs : List FV) : Nat × List Nat :=
  let s8 := blkScale f ceil xs
  (s8, xs.map (fun v =>
    if s8 = 0xFF then 0
    else match v with
      | .fin s m e =>
        if (blkMax xs).1 = 0 then (if f = 8 ∧ s then 2 else 0)
        else blkRound f s m (e - ((s8 : Int) - 127))
      | _ => 0))

/-- R81: the magnitude code on a grid under stochastic rounding with random value r. -/
def srMag (fb : Nat) (bias : Int) (maxC : Nat) (r : Nat) (m : Nat) (e : Int) : Nat :=
  if m = 0 then 0
  else
    let top := max (e + Nat.log2 m) (1 - bias)
    let q := top - fb
    let k := (roundMag .rtz false m e false q).1
    let f16 := if q ≤ e then 0 else (m % 2 ^ (q - e).toNat) * 65536 / 2 ^ (q - e).toNat
    min maxC ((top + bias - 1).toNat * 2 ^ fb + (if r < f16 then k + 1 else k))

/-- R81: stochastic rounding into a format without block scales. -/
def srEnc (f r : Nat) (v : FV) : Nat :=
  if f = 4 then
    match v with
    | .nan _ => 0x80
    | .inf s => if s then 0xFF else 0x7F
    | .fin s m e =>
      let c := srMag 3 7 0x7F r m e
      if c = 0 then 0 else if s then 0x80 + c else c
  else
    let g := if f = 2 then ieeeF16 else if f = 3 then ieeeB16 else if f = 5 then ieeeP8B else if f = 1 then ieeeF64 else ieeeF32
    match v with
    | .nan _ => ieeeNaN g
    | .inf s => ieeeSign g s + ieeeInf g
    | .fin s m e => ieeeSign g s + srMag g.fb (ieeeBias g) (ieeeInf g - 1) r m e

/-- R81, R83: stochastic form of step 6 of R64. -/
def srBlkRound (f r : Nat) (neg : Bool) (m : Nat) (e : Int) : Nat :=
  if f = 6 then
    let c := srMag 1 1 7 r m e
    if c = 0 then 0 else if neg then 8 + c else c
  else if f = 7 then
    let c := srMag 1 0 3 r m e
    if c = 0 then 0 else if neg then 4 + c else c
  else if f = 8 then
    let sg := if neg then 2 else 0
    if dyLe m e 1 0 then sg
    else if dyLe 3 0 m e then sg + 1
    else
      -- |x| − 1 over 2, in units of 2^(e)
      let q := min e 0
      let x := m * 2 ^ (e - q).toNat - 2 ^ (0 - q).toNat
      if r < x * 65536 / (2 * 2 ^ (0 - q).toNat) then sg + 1 else sg
  else
    let hit :=
      if dyLe 1 0 m e then true
      else decide (r < m * 65536 / 2 ^ (0 - e).toNat)
    if hit then (if neg then 3 else 1) else 0

/-- R83: a working-copy block under stochastic rounding; `rs` are the elements' random values. -/
def srBlkEnc (f : Nat) (ceil : Bool) (xs : List FV) (rs : List Nat) : Nat × List Nat :=
  let s8 := blkScale f ceil xs
  let z := (blkMax xs).1 == 0
  (s8, (xs.zip rs).map (fun p =>
    if s8 = 0xFF then 0
    else match p.1 with
      | .fin s m e => if z then (if f = 8 ∧ s then 2 else 0) else srBlkRound f p.2 s m (e - ((s8 : Int) - 127))
      | _ => 0))

/-- R82. -/
def srMix (z0 : DWord) : DWord :=
  let z1 := (z0 ^^^ (z0 >>> 31)) * 0x6C8E9CF570932BD5#64
  let z2 := (z1 ^^^ (z1 >>> 29)) * 0x9F1B3A4D52E7C6B3#64
  z2 ^^^ (z2 >>> 32)

/-- R82: sr_bits. -/
def srBits (seed step index stream : DWord) : DWord :=
  let z := srMix (seed ^^^ (stream * 0x9E3779B97F4A7C15#64))
  let z := srMix (z ^^^ step)
  srMix (z ^^^ index)

/-- R82: the 16-bit random value of element n of group gid. -/
def srRandom (seed step : DWord) (gid n stream : Nat) : Nat :=
  (srBits seed step (BitVec.ofNat 64 (gid * 2 ^ 40 + n)) (BitVec.ofNat 64 stream)).toNat % 65536

/-- R55: codes of b bits packed least significant first into bytes. -/
def packNat (b : Nat) : List Nat → Nat
  | [] => 0
  | c :: r => c % 2 ^ b + 2 ^ b * packNat b r

def natBytes (n : Nat) : Nat → List Byte
  | 0 => []
  | k + 1 => BitVec.ofNat 8 n :: natBytes (n / 256) k

def bytesNat : List Byte → Nat
  | [] => 0
  | b :: r => b.toNat + 256 * bytesNat r

def packBits (b : Nat) (cs : List Nat) : List Byte := natBytes (packNat b cs) ((b * cs.length + 7) / 8)

/-- R55: element i of packed bytes. -/
def unpackBits (b : Nat) (bytes : List Byte) (i : Nat) : Nat := bytesNat bytes / 2 ^ (b * i) % 2 ^ b

end Sys2Proof.Machine
end

