-- ==== Sys2Proof/Machine/Float.lean ====
section
/-! DEFINITION. Arithmetic on formats: the IEEE 754-2019 operations of ELEMWISE (R45–R48, R168), F32 arithmetic of every unit, the accumulator pair (R72–R74), F32P (R75, R76) and MW48 (R77, R78). -/

namespace Sys2Proof.Machine

def fvIsNaN (v : FV) : Bool := match v with | .nan _ => true | _ => false
def fvIsSNaN (v : FV) : Bool := match v with | .nan s => s | _ => false
def fvIsZero (v : FV) : Bool := match v with | .fin _ m _ => m == 0 | _ => false
def fvNeg (v : FV) : FV :=
  match v with
  | .nan s => .nan s
  | .inf s => .inf (!s)
  | .fin s m e => .fin (!s) m e
def fvSign (v : FV) : Bool := match v with | .nan _ => false | .inf s => s | .fin s _ _ => s
def fvAbs (v : FV) : FV :=
  match v with
  | .nan s => .nan s
  | .inf _ => .inf false
  | .fin _ m e => .fin false m e

/-- Invalid operation, when a signalling NaN is among the operands (R48). -/
def nvOf (b : Bool) : Nat := if b then flInvalid else 0

def dyInt (s : Bool) (m : Nat) (e q : Int) : Int :=
  let x : Int := (m * 2 ^ (e - q).toNat : Nat)
  if s then -x else x

/-- The exact sum, or its NaN or infinity, and the invalid flag. The sign of an exact zero follows the rounding direction. -/
def fvAdd (rm : Rm) (a b : FV) : FV × Nat :=
  match a, b with
  | .nan s, y => (.nan false, nvOf (s || fvIsSNaN y))
  | _, .nan t => (.nan false, nvOf t)
  | .inf s, .inf t => if s = t then (.inf s, 0) else (.nan false, flInvalid)
  | .inf s, _ => (.inf s, 0)
  | _, .inf t => (.inf t, 0)
  | .fin s m e, .fin t n f =>
    let q := min e f
    let x := dyInt s m e q + dyInt t n f q
    if x = 0 then (.fin (if s = t then s else rm == .rdn) 0 0, 0)
    else (.fin (x < 0) x.natAbs q, 0)

/-- The exact product. -/
def fvMul (a b : FV) : FV × Nat :=
  match a, b with
  | .nan s, y => (.nan false, nvOf (s || fvIsSNaN y))
  | _, .nan t => (.nan false, nvOf t)
  | .inf s, y => if fvIsZero y then (.nan false, flInvalid) else (.inf (s != fvSign y), 0)
  | .fin s m _, .inf t => if m = 0 then (.nan false, flInvalid) else (.inf (s != t), 0)
  | .fin s m e, .fin t n f => (.fin (s != t) (m * n) (e + f), 0)

/-- fusedMultiplyAdd, exact before its one rounding. -/
def fvFma (rm : Rm) (a b c : FV) : FV × Nat :=
  let sn := nvOf (fvIsSNaN a || fvIsSNaN b || fvIsSNaN c)
  let p := fvMul a b
  if fvIsNaN c && !fvIsNaN a && !fvIsNaN b then
    (.nan false, if fvIsSNaN c then flInvalid else if p.2 ≠ 0 ∧ Config.fmaZeroInfNan then flInvalid else 0)
  else if fvIsNaN a || fvIsNaN b || fvIsNaN c then (.nan false, sn)
  else if p.2 ≠ 0 then (.nan false, flInvalid)
  else fvAdd rm p.1 c

/-- A quotient or a root: a finite magnitude with a sticky bit, or a special value; with flags. -/
def fvDiv (a b : FV) : FV × Bool × Nat :=
  match a, b with
  | .nan s, y => (.nan false, false, nvOf (s || fvIsSNaN y))
  | _, .nan t => (.nan false, false, nvOf t)
  | .inf _, .inf _ => (.nan false, false, flInvalid)
  | .inf s, y => (.inf (s != fvSign y), false, 0)
  | .fin s _ _, .inf t => (.fin (s != t) 0 0, false, 0)
  | .fin s m e, .fin t n f =>
    if n = 0 then (if m = 0 then (.nan false, false, flInvalid) else (.inf (s != t), false, flDivZero))
    else
      let k := 128 + Nat.log2 n
      let x := m * 2 ^ k
      (.fin (s != t) (x / n) (e - f - k), x % n != 0, 0)

/-- ⌊√n⌋, bit by bit from bit i. -/
def isqrtFrom (n : Nat) : Nat → Nat → Nat
  | 0, r => if (r + 1) * (r + 1) ≤ n then r + 1 else r
  | i + 1, r => isqrtFrom n i (if (r + 2 ^ (i + 1)) * (r + 2 ^ (i + 1)) ≤ n then r + 2 ^ (i + 1) else r)
def isqrt (n : Nat) : Nat := isqrtFrom n (Nat.log2 n / 2 + 1) 0

def fvSqrt (a : FV) : FV × Bool × Nat :=
  match a with
  | .nan s => (.nan false, false, nvOf s)
  | .inf s => if s then (.nan false, false, flInvalid) else (.inf false, false, 0)
  | .fin s m e =>
    if m = 0 then (.fin s 0 0, false, 0)
    else if s then (.nan false, false, flInvalid)
    else
      let odd := e % 2 != 0
      let x := m * 2 ^ (if odd then 257 else 256)
      let e' : Int := (if odd then e - 1 else e) - 256
      let r := isqrt x
      (.fin false r (e' / 2), r * r != x, 0)

/-- A result in format f under rm, its flags joined to those already raised. -/
def finish (f : Nat) (rm : Rm) (v : FV) (st : Bool) (fl : Nat) : Nat × Nat :=
  let r := fmtEnc f rm v st
  (r.1, r.2 ||| fl)

/-- Operations of R168 on values, with the result in format f. -/
def opAdd (f : Nat) (rm : Rm) (x y : FV) : Nat × Nat := let r := fvAdd rm x y; finish f rm r.1 false r.2
def opSub (f : Nat) (rm : Rm) (x y : FV) : Nat × Nat := let r := fvAdd rm x (fvNeg y); finish f rm r.1 false r.2
def opMul (f : Nat) (rm : Rm) (x y : FV) : Nat × Nat := let r := fvMul x y; finish f rm r.1 false r.2
def opFma (f : Nat) (rm : Rm) (x y z : FV) : Nat × Nat := let r := fvFma rm x y z; finish f rm r.1 false r.2
def opDiv (f : Nat) (rm : Rm) (x y : FV) : Nat × Nat := let r := fvDiv x y; finish f rm r.1 r.2.1 r.2.2
def opSqrt (f : Nat) (rm : Rm) (x : FV) : Nat × Nat := let r := fvSqrt x; finish f rm r.1 r.2.1 r.2.2

/-- x < y, for two values neither of which is NaN; zeros of both signs are equal. -/
def fvLt (x y : FV) : Bool :=
  match x, y with
  | .inf s, .inf t => s && !t
  | .inf s, _ => s
  | _, .inf t => !t
  | .fin s m e, .fin t n f =>
    let q := min e f
    decide (dyInt s m e q < dyInt t n f q)
  | _, _ => false
def fvEq (x y : FV) : Bool := !fvIsNaN x && !fvIsNaN y && !fvLt x y && !fvLt y x

/-- Predicates 0–7 of R168. -/
def fvPred (p : Nat) (x y : FV) : Bool :=
  let un := fvIsNaN x || fvIsNaN y
  if p = 0 then fvEq x y
  else if p = 1 then !fvEq x y
  else if p = 2 then !un && fvLt x y
  else if p = 3 then !un && (fvLt x y || fvEq x y)
  else if p = 4 then !un && fvLt y x
  else if p = 5 then !un && (fvLt y x || fvEq x y)
  else if p = 6 then un
  else !un

/-- CMPQ and CMPS: the result and the flags. A signalling predicate raises invalid for any NaN. -/
def opCmp (signalling : Bool) (p : Nat) (x y : FV) : Nat × Nat :=
  (if fvPred p x y then 1 else 0,
   nvOf (if signalling then fvIsNaN x || fvIsNaN y else fvIsSNaN x || fvIsSNaN y))

/-- minimum and maximum (any NaN gives NaN), minimumNumber and maximumNumber (a NaN gives the other operand); −0 lies below +0. -/
def opMinMax (f : Nat) (rm : Rm) (isMax number : Bool) (x y : FV) : Nat × Nat :=
  let fl := nvOf (fvIsSNaN x || fvIsSNaN y)
  let below := if fvLt x y then true else if fvLt y x then false else fvSign x
  let pick := if isMax then (if below then y else x) else (if below then x else y)
  let v :=
    if fvIsNaN x && fvIsNaN y then .nan false
    else if fvIsNaN x then (if number then y else .nan false)
    else if fvIsNaN y then (if number then x else .nan false)
    else pick
  finish f rm (if fvIsNaN v then .nan false else v) false fl

/-- Sign operations raise no flags, not even for a signalling NaN, which becomes canonical (R48); a value that OUT does not hold is
converted under RM with the flags of that conversion (R61). -/
def opSign (f : Nat) (rm : Rm) (v : FV) : Nat × Nat := finish f rm (if fvIsNaN v then .nan false else v) false 0
def opCopysign (f : Nat) (rm : Rm) (x : FV) (neg : Bool) : Nat × Nat := opSign f rm (if fvSign x = neg then x else fvNeg x)
def opNeg (f : Nat) (rm : Rm) (x : FV) : Nat × Nat := opSign f rm (fvNeg x)
def opAbs (f : Nat) (rm : Rm) (x : FV) : Nat × Nat := opSign f rm (fvAbs x)

/-- ROUNDINT: an integral value, exact where OUT holds it, else converted under RM (R61); the sign of a zero result is x's. -/
def opRoundInt (f : Nat) (rm : Rm) (x : FV) : Nat × Nat :=
  match x with
  | .fin s m e => finish f rm (.fin s (roundMag rm s m e false 0).1 0) false 0
  | v => finish f rm v false 0

/-- CVT_TO_INT: two's complement of w bits. An invalid conversion's value is not given (free value). -/
def opToInt (w : Nat) (rm : Rm) (srcFmt srcCode : Nat) (x : FV) : Nat × Nat :=
  let bad := (Config.cvtInvalid w srcFmt srcCode % 2 ^ w, flInvalid)
  match x with
  | .fin s m e =>
    let k := (roundMag rm s m e false 0).1
    if s then (if k ≤ 2 ^ (w - 1) then ((2 ^ w - k) % 2 ^ w, 0) else bad)
    else if k < 2 ^ (w - 1) then (k, 0) else bad
  | _ => bad

/-- CVT and CVT_FROM_INT: a value converted to a format without block scales. The flags are those of convertFormat (R61) for F64, F32, F16
and B16; the spec does not say whether a conversion to P8A or P8B raises flags, and the model raises none but invalid for a signalling NaN
(DESIGN CHOICE, log entry 61). -/
def opConvert (f : Nat) (rm : Rm) (v : FV) : Nat × Nat :=
  let r := fmtEnc f rm v
  (r.1, if f ≤ 3 then r.2 else nvOf (fvIsSNaN v))
/-- CVT_FROM_INT: a two's complement integer of w bits. -/
def opFromInt (w f : Nat) (rm : Rm) (c : Nat) : Nat × Nat :=
  let n := c % 2 ^ w
  opConvert f rm (if n < 2 ^ (w - 1) then .fin false n 0 else .fin true (2 ^ w - n) 0)

/-- CLASS: R168's codes 0–9, for a layout whose least normal exponent is emin. -/
def opClass (f : Nat) (x : FV) : Nat :=
  let g := if f = 1 then ieeeF64 else if f = 2 then ieeeF16 else if f = 3 then ieeeB16 else ieeeF32
  match x with
  | .nan s => if s then 0 else 1
  | .inf s => if s then 2 else 9
  | .fin s m e =>
    if m = 0 then (if s then 5 else 6)
    else if e + Nat.log2 m < 1 - ieeeBias g then (if s then 4 else 7)
    else if s then 3 else 8

/-- augmentedAddition and augmentedMultiplication: the rounded value (ties toward zero) and the rest, with flags. -/
def opAug (f : Nat) (v : FV) (fl : Nat) : Nat × Nat × Nat :=
  match v with
  | .fin s m e =>
    let r := fmtEnc f .rtiesZero v
    match fmtDec f r.1 with
    | .fin _ _ _ =>
      let d := fvAdd .rne (.fin s m e) (fvNeg (fmtDec f r.1))
      let t := if fvIsZero d.1 then (fmtEnc f .rne (.fin s 0 0)) else fmtEnc f .rtiesZero d.1
      (r.1, t.1, fl ||| t.2)
    | _ => (r.1, r.1, fl ||| r.2)
  | w => let c := (fmtEnc f .rne w).1; (c, c, fl)

/-! F32 arithmetic of the units: nearest even, subnormals kept, no flags (R50, R72). -/

def f32v (w : Word) : FV := ieeeDec ieeeF32 w.toNat
def f32Of (v : FV) (st : Bool := false) : Word := BitVec.ofNat 32 (ieeeEnc ieeeF32 .rne v st).1
def f32Zero : Word := 0
def f32One : Word := 0x3F800000
def f32NaN : Word := 0x7FC00000
def f32Add (a b : Word) : Word := f32Of (fvAdd .rne (f32v a) (f32v b)).1
def f32Neg (a : Word) : Word := f32Of (fvNeg (f32v a))
def f32Sub (a b : Word) : Word := f32Of (fvAdd .rne (f32v a) (fvNeg (f32v b))).1
def f32Mul (a b : Word) : Word := f32Of (fvMul (f32v a) (f32v b)).1
def f32Div (a b : Word) : Word := let r := fvDiv (f32v a) (f32v b); f32Of r.1 r.2.1
def f32Sqrt (a : Word) : Word := let r := fvSqrt (f32v a); f32Of r.1 r.2.1
def f32Fma (a b c : Word) : Word := f32Of (fvFma .rne (f32v a) (f32v b) (f32v c)).1
def f32Abs (a : Word) : Word := f32Of (fvAbs (f32v a))
def f32Finite (a : Word) : Bool := fvFinite (f32v a)
def f32IsNaN (a : Word) : Bool := fvIsNaN (f32v a)
def f32IsInf (a : Word) : Bool := match f32v a with | .inf _ => true | _ => false
def f32Lt (a b : Word) : Bool := !f32IsNaN a && !f32IsNaN b && fvLt (f32v a) (f32v b)
def f32Le (a b : Word) : Bool := !f32IsNaN a && !f32IsNaN b && !fvLt (f32v b) (f32v a)
def f32Gt (a b : Word) : Bool := f32Lt b a
def f32OfNat (n : Nat) : Word := f32Of (.fin false n 0)
/-- B16 to F32 (exact) and back (nearest even). -/
def b16ToF32 (c : Nat) : Word := f32Of (ieeeDec ieeeB16 c)
def f32ToB16 (a : Word) : Nat := (ieeeEnc ieeeB16 .rne (f32v a)).1

/-- R72: two_sum. -/
def twoSum (a b : Word) : Word × Word :=
  let s := f32Add a b
  let bb := f32Sub s a
  (s, f32Add (f32Sub a (f32Sub s bb)) (f32Sub b bb))

/-- R72, R73: one product (as F32) added to the pair. -/
def accStep (p : Word × Word) (x : Word) : Word × Word :=
  let t := twoSum p.1 x
  if f32Finite t.1 then (t.1, f32Add p.2 t.2) else (t.1, 0)

/-- R72: the product of two decoded elements, as F32. -/
def prodF32 (a b : FV) : Word := f32Of (fvMul a b).1

/-- R74: fl(hi + lo). -/
def pairF32 (p : Word × Word) : Word := f32Add p.1 p.2

/-- R75: an F32P value with lo = 0 where hi is not finite (R76's fin and early ends). -/
def pEnd (s : Word) : Word × Word := (s, 0)
def pFin (s e : Word) : Word × Word := if f32Finite s then (s, e) else pEnd s
/-- R76: p_add. -/
def pAdd (a b : Word × Word) : Word × Word :=
  let t0 := twoSum a.1 b.1
  if !f32Finite t0.1 then pEnd t0.1
  else
    let t1 := twoSum a.2 b.2
    if !f32Finite t1.1 then pEnd t1.1
    else
      let t2 := twoSum t0.1 (f32Add t0.2 t1.1)
      if !f32Finite t2.1 then pEnd t2.1
      else
        let t3 := twoSum t2.1 (f32Add t2.2 t1.2)
        pFin t3.1 t3.2
/-- R76: p_mul. -/
def pMul (a b : Word × Word) : Word × Word :=
  let p := f32Mul a.1 b.1
  if !f32Finite p then pEnd p
  else
    let e := f32Fma a.1 b.1 (f32Neg p)
    let e := f32Add e (f32Add (f32Mul a.1 b.2) (f32Mul a.2 b.1))
    let t := twoSum p e
    pFin t.1 t.2
/-- R74, R75: the pair of an accumulator written as F32P. -/
def pOfPair (p : Word × Word) : Word × Word := let t := twoSum p.1 p.2; pFin t.1 t.2

/-- R78: mw48_add on a master (hi F32, lo B16 code). -/
def mw48Add (h : Word) (l : Nat) (u : Word) : Word × Nat :=
  let t := twoSum h u
  if !f32Finite t.1 then (t.1, 0)
  else
    let e := f32Add t.2 (b16ToF32 l)
    let t2 := twoSum t.1 e
    if !f32Finite t2.1 then (t2.1, 0) else (t2.1, f32ToB16 t2.2)

/-- R77, R79: the exact value hi + lo of a master. -/
def mw48Val (h : Word) (l : Nat) : FV := (fvAdd .rne (f32v h) (ieeeDec ieeeB16 l)).1

/-- R70: the pieces of an F32 operand element: hi rounded to 12 significant bits, lo the exact rest (+0 when none). The internal form of R68 (12
significant bits, exponents from −254 to 255) holds each piece, and each element of the other formats (R69), exactly: both are taken as values. -/
def splitF32 (v : FV) : FV × FV :=
  match v with
  | .fin s m e =>
    if m = 0 then (v, .fin false 0 0)
    else
      let q := e + Nat.log2 m - 11
      let k := (roundMag .rne s m e false q).1
      let hi : FV := .fin s k q
      (if q ≤ e then (v, .fin false 0 0) else (hi, (fvAdd .rne v (fvNeg hi)).1))
  | w => (w, .fin false 0 0)

end Sys2Proof.Machine
end

