-- ==== Sys2Proof/Machine/RegMap.lean ====
section
/-! DEFINITION. The register map: every register of the spec's tables, its fields, their access codes (R13) and their reset values. One list per block, in the order of the block's table; unlisted bits and offsets are reserved and read 0 (R12). -/

namespace Sys2Proof.Machine

/-- R13's access codes. -/
inductive Acc where
  | ro | rw | wo | w1c | rws | rc
  deriving DecidableEq, Repr

/-- One field: bits hi..lo, access code, reset value. -/
structure Fld where
  hi : Nat
  lo : Nat
  acc : Acc
  rst : Nat
  deriving DecidableEq, Repr

/-- One register, or `cnt` of them `stride` bytes apart, at window offset `off`. -/
structure RegDef where
  off : Nat
  stride : Nat
  cnt : Nat
  flds : List Fld
  deriving DecidableEq, Repr

def oENG_CTRL : Nat := 0x80
def oENG_STATE : Nat := 0x84
def oENG_RAMP : Nat := 0x88
def oENG_CHK_TOL : Nat := 0x8c
def oENG_CHK_RETRY : Nat := 0x90
def oENG_CHK_FAIL : Nat := 0x94
def oENG_RESIDUE : Nat := 0x98
def oENG_CHK_SKIP : Nat := 0x9c
def oENG_PASS_LO : Nat := 0xa0
def oENG_PASS_HI : Nat := 0xa4
def oENG_BUSY_LO : Nat := 0xa8
def oENG_BUSY_HI : Nat := 0xac
def oENG_RAMPLOSS_LO : Nat := 0xb0
def oENG_RAMPLOSS_HI : Nat := 0xb4
def oENG_SELFTEST : Nat := 0xc0
def oDRN_NONFIN : Nat := 0x100
def oDRN_OVF_RECOMP : Nat := 0x104
def oDRN_OVF_SAT : Nat := 0x108
def oDRN_SAT_ELEM : Nat := 0x10c
def oDRN_STASH_SAT : Nat := 0x110
def oDRN_MASKED_LO : Nat := 0x118
def oDRN_MASKED_HI : Nat := 0x11c
def oDRN_STREAM_LO : Nat := 0x120
def oDRN_STREAM_HI : Nat := 0x124
def oENG_FIG0 : Nat := 0x1020
def oENG_FIG1 : Nat := 0x1024
def oENG_FIG2 : Nat := 0x1028
def oENG_FIG3 : Nat := 0x102c
def oQ_BASE_LO : Nat := 0x0
def oQ_BASE_HI : Nat := 0x4
def oQ_TAIL : Nat := 0xc
def oQ_HEAD : Nat := 0x10
def oQ_DONE : Nat := 0x14
def oQ_PROG_LO : Nat := 0x20
def oQ_PROG_HI : Nat := 0x24
def oQ_CFG : Nat := 0x8
def oQ_STATE : Nat := 0x18
def oQ_CTRL : Nat := 0x1c
def oMEM_CTRL : Nat := 0x80
def oMEM_STATUS : Nat := 0x84
def oMEM_SCRUB : Nat := 0x88
def oMEM_CE : Nat := 0x90
def oMEM_UE : Nat := 0x94
def oMEM_CE_THRESH : Nat := 0x98
def oFIRN_STALL_LO : Nat := 0xa0
def oFIRN_STALL_HI : Nat := 0xa4
def oFIRN_PARTIAL : Nat := 0xa8
def oFIRN_RMW : Nat := 0xac
def oFIRN_RAW_WR : Nat := 0xb0
def oFIRN_CMP_WR : Nat := 0xb4
def oFIRN_IN_LO : Nat := 0xb8
def oFIRN_IN_HI : Nat := 0xbc
def oFIRN_OUT_LO : Nat := 0xc0
def oFIRN_OUT_HI : Nat := 0xc4
def oMEM_ACC_LO : Nat := 0xc8
def oMEM_ACC_HI : Nat := 0xcc
def oFR_BASE_LO : Nat := 0x2000
def oFR_BASE_HI : Nat := 0x2004
def oFR_LEN_LO : Nat := 0x2008
def oFR_LEN_HI : Nat := 0x200c
def oFR_META_LO : Nat := 0x2010
def oFR_META_HI : Nat := 0x2014
def oFR_CFG : Nat := 0x2018
def oFR_STAT : Nat := 0x201c
def oMEM_ARB_WT : Nat := 0x3000
def oMEM_ARB_PROMO : Nat := 0x3004
def oMEM_ARB_MAXWAIT : Nat := 0x3008
def oMEM_ARB_GRANT : Nat := 0x3010
def oST_CE : Nat := 0x4000
def oST_UE : Nat := 0x4004
def oDMA_ACTIVE : Nat := 0x4008
def oDMA_BYTES_LO : Nat := 0x4010
def oDMA_BYTES_HI : Nat := 0x4014
def oST_ACC_LO : Nat := 0x4018
def oST_ACC_HI : Nat := 0x401c
def rUPD_CTRL : Nat := 0x50080
def rUPD_POLICY : Nat := 0x50084
def rUPD_VOTE_RES : Nat := 0x500b8
def rUPD_GT_BASE_LO : Nat := 0x50088
def rUPD_GT_BASE_HI : Nat := 0x5008c
def rUPD_GT_COUNT : Nat := 0x50090
def rUPD_LOG_BASE_LO : Nat := 0x50098
def rUPD_LOG_BASE_HI : Nat := 0x5009c
def rUPD_SEED_LO : Nat := 0x500a0
def rUPD_SEED_HI : Nat := 0x500a4
def rUPD_VOTE_PEND : Nat := 0x500a8
def rUPD_ABORT : Nat := 0x500ac
def rUPD_VOTE_STEP_LO : Nat := 0x500b0
def rUPD_VOTE_STEP_HI : Nat := 0x500b4
def rUPD_NAN_REPL : Nat := 0x500c0
def rUPD_INF_REPL : Nat := 0x500c4
def rUPD_GCLAMP : Nat := 0x500c8
def rUPD_UCLAMP : Nat := 0x500cc
def rUPD_WCLAMP : Nat := 0x500d0
def rUPD_SKIPS : Nat := 0x500d4
def rUPD_LOG_REPLAY : Nat := 0x500d8
def rUPD_AUDIT_MISM : Nat := 0x500dc
def rUPD_ELEM_LO : Nat := 0x500e0
def rUPD_ELEM_HI : Nat := 0x500e4
def rUPD_SETASIDE : Nat := 0x500e8
def rSYN_MODE : Nat := 0x60080
def rSYN_WAITS : Nat := 0x60084
def rSYN_SIG_DROP : Nat := 0x60088
def rSYN_TIMEOUTS : Nat := 0x6008c
def rSYN_OWNER_LOST : Nat := 0x60090
def rSYN_BACKSTOP : Nat := 0x60094
def rSYN_SIGNALS_LO : Nat := 0x60098
def rSYN_SIGNALS_HI : Nat := 0x6009c
def rSYN_ACKED_LO : Nat := 0x600a0
def rSYN_ACKED_HI : Nat := 0x600a4
def rSYN_PREEMPT : Nat := 0x600a8
def rCTR_SEL : Nat := 0x61000
def rCTR_VAL_LO : Nat := 0x61008
def rCTR_VAL_HI : Nat := 0x6100c
def rCTR_OWNER : Nat := 0x61010
def rCTR_STATE : Nat := 0x61014
def rMBX_DATA_LO : Nat := 0x71000
def rMBX_DATA_HI : Nat := 0x71004
def rMBX_STAT : Nat := 0x71008
def rMBX_CFG : Nat := 0x7100c
def rMBX_LOCK : Nat := 0x71010
def rMBX_HB : Nat := 0x72000
def rMBX_FORCE : Nat := 0x70080
def rMBX_LOCK_REJ : Nat := 0x70088
def oTFP_CTRL : Nat := 0x80
def oTFP_STATUS : Nat := 0x84
def oTFP_PEER : Nat := 0x88
def oTFP_LINK_CFG : Nat := 0x8c
def oTFP_CORR : Nat := 0x90
def oTFP_UE : Nat := 0x94
def oTFP_RETRY : Nat := 0x98
def oTFP_DOWNS : Nat := 0x9c
def oTFP_TXFLIT_LO : Nat := 0xa0
def oTFP_TXFLIT_HI : Nat := 0xa4
def oTFP_RXFLIT_LO : Nat := 0xa8
def oTFP_RXFLIT_HI : Nat := 0xac
def oTFP_POISON : Nat := 0xb0
def oTFP_LANE : Nat := 0x1000
def rTFR_ID : Nat := 0x100080
def rTFR_DIM : Nat := 0x100084
def rTFR_TCTL : Nat := 0x100088
def rTFR_QUIESCE : Nat := 0x10008c
def rTFR_HELD : Nat := 0x100090
def rTFR_EPOCH_CNT : Nat := 0x100094
def rTFR_OUTSTANDING : Nat := 0x100098
def rTFR_RTO : Nat := 0x10009c
def rTFR_TTL : Nat := 0x1000a0
def rTFR_DROP_ROUTE : Nat := 0x1000a4
def rTFR_DROP_DOWN : Nat := 0x1000a8
def rTFR_TIMEOUT : Nat := 0x1000ac
def rTFR_LATE : Nat := 0x1000b0
def rTFR_POISON : Nat := 0x1000b4
def rTFR_TBL_REJ : Nat := 0x1000b8
def rTFR_FWD_LO : Nat := 0x1000c0
def rTFR_FWD_HI : Nat := 0x1000c4
def rTFR_EJECT_LO : Nat := 0x1000c8
def rTFR_EJECT_HI : Nat := 0x1000cc
def rTAB_AXIS : Nat := 0x101000
def rTAB_EXC_LO : Nat := 0x102000
def rTAB_EXC_HI : Nat := 0x102004
def rCOL_CTRL : Nat := 0x110080
def rCOL_STATUS : Nat := 0x110084
def rCOL_ABORTS : Nat := 0x110088
def rCOL_TIMEOUTS : Nat := 0x11008c
def rCOL_MISMATCH : Nat := 0x110090
def rCOL_JOIN_HELD : Nat := 0x110094
def rCOL_DONE_LO : Nat := 0x110098
def rCOL_DONE_HI : Nat := 0x11009c
def rCOL_RXBYTES_LO : Nat := 0x1100a0
def rCOL_RXBYTES_HI : Nat := 0x1100a4
def rCOL_OPS_LO : Nat := 0x1100a8
def rCOL_OPS_HI : Nat := 0x1100ac
def rG_CFG : Nat := 0x111000
def rG_ORIGIN : Nat := 0x111004
def rG_EXTENT : Nat := 0x111008
def rG_ROOT : Nat := 0x11100c
def rG_AXORDER : Nat := 0x111010
def rG_SEQ : Nat := 0x111014
def rG_MEMBERS : Nat := 0x111018
def rG_ENGINES : Nat := 0x11101c
def rCX_STATE : Nat := 0x112000
def rCX_SEQ : Nat := 0x112004
def rCX_BYTES_LO : Nat := 0x112008
def rCX_BYTES_HI : Nat := 0x11200c
def rSXU_CTRL : Nat := 0x40080
def rSXU_SITE : Nat := 0x40084
def rSXU_T0_LO : Nat := 0x40088
def rSXU_T0_HI : Nat := 0x4008c
def rSXU_PERIOD : Nat := 0x40090
def rSXU_SLACK : Nat := 0x40094
def rSXU_PACE : Nat := 0x40098
def rSXU_MERGE : Nat := 0x4009c
def rSXU_OUTER_LR : Nat := 0x400a0
def rSXU_OUTER_MOM : Nat := 0x400a4
def rSXU_STALE_W : Nat := 0x400a8
def rSXU_DIV_LIMIT : Nat := 0x400ac
def rSXU_WEIGHT : Nat := 0x400b0
def rSXU_UDP : Nat := 0x400b4
def rSXU_ST_BASE_LO : Nat := 0x400b8
def rSXU_ST_BASE_HI : Nat := 0x400bc
def rSXU_ST_COUNT : Nat := 0x400c0
def rSXU_LOG_BASE_LO : Nat := 0x400c8
def rSXU_LOG_BASE_HI : Nat := 0x400cc
def rSXU_LAST_SENT : Nat := 0x400d0
def rSXU_LAST_MERGED : Nat := 0x400d4
def rSXU_MERGE_SET : Nat := 0x400d8
def rSXU_TX_SEG_LO : Nat := 0x400e0
def rSXU_TX_SEG_HI : Nat := 0x400e4
def rSXU_RX_SEG_LO : Nat := 0x400e8
def rSXU_RX_SEG_HI : Nat := 0x400ec
def rSXU_RETX : Nat := 0x400f0
def rSXU_AUTH_FAIL : Nat := 0x400f4
def rSXU_REPLAY_DROP : Nat := 0x400f8
def rSXU_BAD_MSG : Nat := 0x400fc
def rSXU_BAD_DELTA : Nat := 0x40100
def rSXU_LATE_FOLD : Nat := 0x40104
def rSXU_DROPPED : Nat := 0x40108
def rSXU_EVT : Nat := 0x4010c
def rP_CFG : Nat := 0x41000
def rP_KEY : Nat := 0x41004
def rP_WEIGHT : Nat := 0x41008
def rP_IP6_0 : Nat := 0x41010
def rP_IP6_1 : Nat := 0x41014
def rP_IP6_2 : Nat := 0x41018
def rP_IP6_3 : Nat := 0x4101c
def rP_STATE : Nat := 0x41020
def rP_SRTT : Nat := 0x41024
def rP_RTO : Nat := 0x41028
def rP_ARRIVE : Nat := 0x4102c
def rP_OFFSET : Nat := 0x41030
def rP_JOIN_ROUND : Nat := 0x41034
def rTS_MASK : Nat := 0x42000
def rTS_ROUND : Nat := 0x42004
def rTS_STEP_LO : Nat := 0x42008
def rTS_STEP_HI : Nat := 0x4200c
def oETH_CTRL : Nat := 0x80
def oETH_LINK : Nat := 0x84
def oETH_MAC_LO : Nat := 0x88
def oETH_MAC_HI : Nat := 0x8c
def oETH_S_IP6_0 : Nat := 0x2000
def oETH_S_IP6_1 : Nat := 0x2004
def oETH_S_IP6_2 : Nat := 0x2008
def oETH_S_IP6_3 : Nat := 0x200c
def oETH_S_GW_LO : Nat := 0x2010
def oETH_S_GW_HI : Nat := 0x2014
def oETH_S_TAG : Nat := 0x2018
def oETH_TXB_LO : Nat := 0x3000
def oETH_TXB_HI : Nat := 0x3004
def oETH_RXB : Nat := 0x3008
def oETH_RXDROP : Nat := 0x300c
def oETH_FRAG_DROP : Nat := 0x3030
def oETH_C_IP6_0 : Nat := 0x1000
def oETH_C_IP6_1 : Nat := 0x1004
def oETH_C_IP6_2 : Nat := 0x1008
def oETH_C_IP6_3 : Nat := 0x100c
def oETH_C_GW_LO : Nat := 0x1010
def oETH_C_GW_HI : Nat := 0x1014
def oETH_C_UDP : Nat := 0x1018
def oETH_C_TAG : Nat := 0x101c
def rPW_CTRL : Nat := 0x20080
def rPW_GRANT : Nat := 0x20084
def rPW_RAMP : Nat := 0x20088
def rPW_BASE : Nat := 0x2008c
def rPW_DYN : Nat := 0x20090
def rPW_SAFE : Nat := 0x20094
def rPW_TOL : Nat := 0x20098
def rPW_STAGGER : Nat := 0x2009c
def rPW_BAT : Nat := 0x200a0
def rPW_BAT_RAMP : Nat := 0x200a4
def rPW_TIMEOUT : Nat := 0x200a8
def rTH_R0 : Nat := 0x200b0
def rTH_R1 : Nat := 0x200b4
def rTH_TAU : Nat := 0x200b8
def rTH_LIM : Nat := 0x200bc
def rPW_MEAS : Nat := 0x200c0
def rPW_TGT : Nat := 0x200c4
def rPW_CAP : Nat := 0x200c8
def rGOV_F : Nat := 0x200cc
def rTH_PRED : Nat := 0x200d0
def rPW_COOL : Nat := 0x200d4
def rPW_THROT_LO : Nat := 0x200d8
def rPW_THROT_HI : Nat := 0x200dc
def rPW_EVT : Nat := 0x200e0
def rTIME_LO : Nat := 0x21000
def rTIME_HI : Nat := 0x21004
def rTIME_STATE : Nat := 0x21008
def rTIME_BOUND : Nat := 0x2100c
def rTIME_CFG : Nat := 0x21010
def rTIME_HOLD_LIMIT : Nat := 0x21014
def rTIME_PPS_DELAY : Nat := 0x21018
def rTIME_OFFSET : Nat := 0x2101c
def rTIME_EVT : Nat := 0x21020
def rBRD_CTRL : Nat := 0x22000
def rBRD_RX_OK : Nat := 0x22004
def rBRD_RX_BAD : Nat := 0x22008
def rBRD_LAST : Nat := 0x2200c
def rTMR_AT_LO : Nat := 0x23000
def rTMR_AT_HI : Nat := 0x23004
def rTMR_PERIOD_LO : Nat := 0x23008
def rTMR_PERIOD_HI : Nat := 0x2300c
def rTMR_CFG : Nat := 0x23010
def rTMR_INC : Nat := 0x23014
def rTMR_FIRED : Nat := 0x23018
def rTMR_MISSED : Nat := 0x2301c
def rCPH_CTRL : Nat := 0x30080
def rCPH_ALARM : Nat := 0x30084
def rCPH_ALARM_CFG : Nat := 0x30088
def rCPH_QUEUE : Nat := 0x3008c
def rCPH_CTX_OPEN : Nat := 0x30090
def rCPH_AUTH_FAIL : Nat := 0x30094
def rCPH_ERASES : Nat := 0x30098
def rCPH_BYTES_LO : Nat := 0x300a0
def rCPH_BYTES_HI : Nat := 0x300a4
def rCPH_REQS_LO : Nat := 0x300a8
def rCPH_REQS_HI : Nat := 0x300ac
def rCPH_ROOT_SEL : Nat := 0x31000
def rCPH_ROOT_CTL : Nat := 0x31004
def rCPH_ROOT_STAT : Nat := 0x31008
def rCPH_ROOT_REJ : Nat := 0x3100c
def rCPH_ROOT_DATA : Nat := 0x31020
def rSLOT_STAT : Nat := 0x32000
def rSLOT_KCV_LO : Nat := 0x32008
def rSLOT_KCV_HI : Nat := 0x3200c
def rCTX_STAT : Nat := 0x33000
def rTPM_BOOT : Nat := 0x10080
def rTPM_BOOT_COUNT : Nat := 0x10084
def rTPM_FW : Nat := 0x10088
def rTPM_SESS_OPEN : Nat := 0x1008c
def rTPM_AUTH_FAIL : Nat := 0x10090
def rTPM_BAD_MSG : Nat := 0x10094
def rTPM_EVT_LOST : Nat := 0x10098
def rTPM_MEAS_EXT : Nat := 0x1009c
def rTPM_MEAS_DATA : Nat := 0x100a0
def rMG_IP6_0 : Nat := 0x100e0
def rMG_IP6_1 : Nat := 0x100e4
def rMG_IP6_2 : Nat := 0x100e8
def rMG_IP6_3 : Nat := 0x100ec
def rMG_MAC_LO : Nat := 0x100f0
def rMG_MAC_HI : Nat := 0x100f4
def rSESS_STAT : Nat := 0x12000
def rSESS_IP6_0 : Nat := 0x12004
def rSESS_IP6_1 : Nat := 0x12008
def rSESS_IP6_2 : Nat := 0x1200c
def rSESS_IP6_3 : Nat := 0x12010
def rSESS_SEQ_LO : Nat := 0x12014
def rSESS_SEQ_HI : Nat := 0x12018
def rHW_CFG : Nat := 0x13000
def rHW_RKEY : Nat := 0x13004
def rHW_BASE_LO : Nat := 0x13008
def rHW_BASE_HI : Nat := 0x1300c
def rHW_LEN_LO : Nat := 0x13010
def rHW_LEN_HI : Nat := 0x13014
def rHW_GID_0 : Nat := 0x13018
def rHW_GID_1 : Nat := 0x1301c
def rHW_GID_2 : Nat := 0x13020
def rHW_GID_3 : Nat := 0x13024
def rHW_TIMEOUT : Nat := 0x13028
def rHW_QP : Nat := 0x1302c
def rMEAS : Nat := 0x11000
def rGLB_RESET : Nat := 0x80
def rGLB_FLOE_RESET : Nat := 0x84
def rGLB_RESET_STAT : Nat := 0x88
def rERR_RING_BASE_LO : Nat := 0x90
def rERR_RING_BASE_HI : Nat := 0x94
def rERR_RING_CFG : Nat := 0x98
def rERR_RING_WR : Nat := 0x9c
def rERR_RING_RD : Nat := 0xa0
def rERR_RING_LOST : Nat := 0xa4
def rERR_FIFO_LOST : Nat := 0xa8
def rMOR_BASE_LO : Nat := 0xb0
def rMOR_BASE_HI : Nat := 0xb4
def rMOR_SIZE : Nat := 0xb8
def rMOR_CTRL : Nat := 0xbc
def rMOR_WR_LO : Nat := 0xc0
def rMOR_WR_HI : Nat := 0xc4
def rMOR_JSEQ_LO : Nat := 0xc8
def rMOR_JSEQ_HI : Nat := 0xcc
def rMOR_STALL : Nat := 0xd0
def rMOR_DROP : Nat := 0xd4
def rREPLAY_TBL_LO : Nat := 0xe0
def rREPLAY_TBL_HI : Nat := 0xe4
def rREPLAY_LOG2 : Nat := 0xe8
def rREPLAY_STAT : Nat := 0xec
def rREPLAY_QFLOE : Nat := 0xf0
def rREPLAY_QINFO : Nat := 0xf4
def rREPLAY_SEQ : Nat := 0xf8
def rREPLAY_TILE : Nat := 0xfc
def rREPLAY_TIME_LO : Nat := 0x100
def rREPLAY_TIME_HI : Nat := 0x104
def rREPLAY_MATCH : Nat := 0x108
def rREPLAY_DIFF : Nat := 0x10c
def hBLK_ID : Nat := 0x0
def hBLK_VER : Nat := 0x4
def hBLK_CAP0 : Nat := 0x8
def hBLK_CTRL : Nat := 0x10
def hBLK_STATE : Nat := 0x14
def hBLK_COMMIT : Nat := 0x18
def hBLK_COMMIT_STAT : Nat := 0x1c
def hERR_STAT : Nat := 0x20
def hERR_EN : Nat := 0x24
def hERR_FIRST : Nat := 0x28
def hERR_COUNT : Nat := 0x2c
def hEVT_STAT : Nat := 0x40
def hEVT_EN : Nat := 0x44
def hBLK_CAP1 : Nat := 0xc
def hERR_INFO : Nat := 0x30

/-- R115, R117, R153. -/
def regsEng0 : List RegDef := [
  ⟨0x80, 0, 1, [⟨3, 3, .rw, 0⟩, ⟨2, 2, .rws, 1⟩, ⟨0, 0, .rw, 0⟩]⟩,
  ⟨0x84, 0, 1, [⟨7, 4, .ro, 0⟩, ⟨3, 0, .ro, 0⟩]⟩,
  ⟨0x88, 0, 1, [⟨23, 16, .rws, 16⟩, ⟨6, 0, .rws, 32⟩]⟩,
  ⟨0x8c, 0, 1, [⟨15, 8, .rws, 120⟩, ⟨7, 0, .rws, 14⟩]⟩,
  ⟨0x90, 0, 1, [⟨31, 0, .rc, 0⟩]⟩,
  ⟨0x94, 0, 1, [⟨31, 0, .rc, 0⟩]⟩,
  ⟨0x98, 0, 1, [⟨31, 0, .rc, 0⟩]⟩,
  ⟨0x9c, 0, 1, [⟨31, 0, .rc, 0⟩]⟩,
  ⟨0xa0, 0, 1, [⟨31, 0, .ro, 0⟩]⟩,
  ⟨0xa4, 0, 1, [⟨31, 0, .ro, 0⟩]⟩,
  ⟨0xa8, 0, 1, [⟨31, 0, .ro, 0⟩]⟩,
  ⟨0xac, 0, 1, [⟨31, 0, .ro, 0⟩]⟩,
  ⟨0xb0, 0, 1, [⟨31, 0, .ro, 0⟩]⟩,
  ⟨0xb4, 0, 1, [⟨31, 0, .ro, 0⟩]⟩,
  ⟨0xc0, 0, 1, [⟨31, 31, .wo, 0⟩, ⟨23, 16, .ro, 0⟩, ⟨15, 8, .ro, 0⟩, ⟨3, 2, .ro, 0⟩, ⟨0, 0, .ro, 0⟩]⟩,
  ⟨0x100, 0, 1, [⟨31, 0, .rc, 0⟩]⟩,
  ⟨0x104, 0, 1, [⟨31, 0, .rc, 0⟩]⟩,
  ⟨0x108, 0, 1, [⟨31, 0, .rc, 0⟩]⟩,
  ⟨0x10c, 0, 1, [⟨31, 0, .rc, 0⟩]⟩,
  ⟨0x110, 0, 1, [⟨31, 0, .rc, 0⟩]⟩,
  ⟨0x118, 0, 1, [⟨31, 0, .ro, 0⟩]⟩,
  ⟨0x11c, 0, 1, [⟨31, 0, .ro, 0⟩]⟩,
  ⟨0x120, 0, 1, [⟨31, 0, .ro, 0⟩]⟩,
  ⟨0x124, 0, 1, [⟨31, 0, .ro, 0⟩]⟩]

def regsEng1 : List RegDef := [
  ⟨0x1020, 0, 1, [⟨31, 0, .ro, 0x20100804⟩]⟩,
  ⟨0x1024, 0, 1, [⟨31, 0, .ro, 0x1008080⟩]⟩,
  ⟨0x1028, 0, 1, [⟨31, 0, .ro, 0x2002000⟩]⟩,
  ⟨0x102c, 0, 1, [⟨31, 0, .ro, 268⟩]⟩]
def regsEng : List RegDef := regsEng0 ++ regsEng1
/-- R179, R180. -/
def regsQue : List RegDef := [
  ⟨0x0, 0, 1, [⟨31, 0, .rw, 0⟩]⟩,
  ⟨0x4, 0, 1, [⟨31, 0, .rw, 0⟩]⟩,
  ⟨0xc, 0, 1, [⟨31, 0, .rw, 0⟩]⟩,
  ⟨0x10, 0, 1, [⟨31, 0, .ro, 0⟩]⟩,
  ⟨0x14, 0, 1, [⟨31, 0, .ro, 0⟩]⟩,
  ⟨0x20, 0, 1, [⟨31, 0, .rw, 0⟩]⟩,
  ⟨0x24, 0, 1, [⟨31, 0, .rw, 0⟩]⟩,
  ⟨0x8, 0, 1, [⟨31, 31, .rw, 0⟩, ⟨19, 16, .rw, 4⟩, ⟨15, 0, .rw, 0⟩]⟩,
  ⟨0x18, 0, 1, [⟨31, 16, .ro, 0⟩, ⟨3, 0, .ro, 0⟩]⟩,
  ⟨0x1c, 0, 1, [⟨31, 2, .wo, 0⟩, ⟨1, 0, .wo, 0⟩]⟩]
/-- R224, R398. -/
def regsMem0 : List RegDef := [
  ⟨0x80, 0, 1, [⟨1, 1, .rw, 0⟩, ⟨0, 0, .rws, 1⟩]⟩,
  ⟨0x84, 0, 1, [⟨15, 8, .ro, 0⟩, ⟨1, 1, .ro, 0⟩, ⟨0, 0, .ro, 0⟩]⟩,
  ⟨0x88, 0, 1, [⟨15, 0, .rws, 24⟩]⟩,
  ⟨0x90, 0, 1, [⟨31, 0, .rc, 0⟩]⟩,
  ⟨0x94, 0, 1, [⟨31, 0, .rc, 0⟩]⟩,
  ⟨0x98, 0, 1, [⟨31, 0, .rw, 0xffffffff⟩]⟩,
  ⟨0xa0, 0, 1, [⟨31, 0, .ro, 0⟩]⟩,
  ⟨0xa4, 0, 1, [⟨31, 0, .ro, 0⟩]⟩,
  ⟨0xa8, 0, 1, [⟨31, 0, .rc, 0⟩]⟩,
  ⟨0xac, 0, 1, [⟨31, 0, .rc, 0⟩]⟩,
  ⟨0xb0, 0, 1, [⟨31, 0, .rc, 0⟩]⟩,
  ⟨0xb4, 0, 1, [⟨31, 0, .rc, 0⟩]⟩,
  ⟨0xb8, 0, 1, [⟨31, 0, .ro, 0⟩]⟩,
  ⟨0xbc, 0, 1, [⟨31, 0, .ro, 0⟩]⟩,
  ⟨0xc0, 0, 1, [⟨31, 0, .ro, 0⟩]⟩,
  ⟨0xc4, 0, 1, [⟨31, 0, .ro, 0⟩]⟩,
  ⟨0xc8, 0, 1, [⟨31, 0, .ro, 0⟩]⟩,
  ⟨0xcc, 0, 1, [⟨31, 0, .ro, 0⟩]⟩,
  ⟨0x2000, 32, 16, [⟨31, 0, .rws, 0⟩]⟩,
  ⟨0x2004, 32, 16, [⟨31, 0, .rws, 0⟩]⟩,
  ⟨0x2008, 32, 16, [⟨31, 0, .rws, 0⟩]⟩,
  ⟨0x200c, 32, 16, [⟨31, 0, .rws, 0⟩]⟩,
  ⟨0x2010, 32, 16, [⟨31, 0, .rws, 0⟩]⟩,
  ⟨0x2014, 32, 16, [⟨31, 0, .rws, 0⟩]⟩]

def regsMem1 : List RegDef := [
  ⟨0x2018, 32, 16, [⟨31, 31, .rws, 0⟩, ⟨30, 30, .rws, 1⟩, ⟨29, 3, .ro, 0⟩, ⟨2, 0, .rws, 0⟩]⟩,
  ⟨0x201c, 32, 16, [⟨31, 31, .ro, 0⟩, ⟨30, 24, .ro, 0⟩, ⟨23, 0, .ro, 0⟩]⟩,
  ⟨0x3000, 0, 1, [⟨31, 28, .ro, 0⟩, ⟨27, 24, .rws, 1⟩, ⟨23, 20, .rws, 2⟩, ⟨19, 16, .rws, 2⟩, ⟨15, 12, .rws, 4⟩, ⟨11, 8, .rws, 4⟩, ⟨7, 4, .rws, 4⟩, ⟨3, 0, .rws, 8⟩]⟩,
  ⟨0x3004, 0, 1, [⟨31, 0, .rc, 0⟩]⟩,
  ⟨0x3008, 0, 1, [⟨31, 0, .rc, 0⟩]⟩,
  ⟨0x3010, 4, 7, [⟨31, 0, .rc, 0⟩]⟩]
def regsMem : List RegDef := regsMem0 ++ regsMem1
/-- R226. -/
def regsSto : List RegDef := [
  ⟨0x4000, 0, 1, [⟨31, 0, .rc, 0⟩]⟩,
  ⟨0x4004, 0, 1, [⟨31, 0, .rc, 0⟩]⟩,
  ⟨0x4008, 0, 1, [⟨31, 0, .ro, 0⟩]⟩,
  ⟨0x4010, 0, 1, [⟨31, 0, .ro, 0⟩]⟩,
  ⟨0x4014, 0, 1, [⟨31, 0, .ro, 0⟩]⟩,
  ⟨0x4018, 0, 1, [⟨31, 0, .ro, 0⟩]⟩,
  ⟨0x401c, 0, 1, [⟨31, 0, .ro, 0⟩]⟩]
/-- R263. -/
def regsUpd0 : List RegDef := [
  ⟨0x80, 0, 1, [⟨0, 0, .rws, 0⟩]⟩,
  ⟨0x84, 0, 1, [⟨2, 2, .rws, 1⟩, ⟨1, 1, .rws, 1⟩, ⟨0, 0, .rws, 0⟩]⟩,
  ⟨0xb8, 0, 1, [⟨31, 31, .rw, 0⟩, ⟨8, 8, .ro, 0⟩, ⟨3, 0, .rw, 0⟩]⟩,
  ⟨0x88, 0, 1, [⟨31, 0, .rws, 0⟩]⟩,
  ⟨0x8c, 0, 1, [⟨31, 0, .rws, 0⟩]⟩,
  ⟨0x90, 0, 1, [⟨31, 0, .rws, 0⟩]⟩,
  ⟨0x98, 0, 1, [⟨31, 0, .rws, 0⟩]⟩,
  ⟨0x9c, 0, 1, [⟨31, 0, .rws, 0⟩]⟩,
  ⟨0xa0, 0, 1, [⟨31, 0, .rws, 0⟩]⟩,
  ⟨0xa4, 0, 1, [⟨31, 0, .rws, 0⟩]⟩,
  ⟨0xa8, 0, 1, [⟨31, 0, .ro, 0⟩]⟩,
  ⟨0xac, 0, 1, [⟨31, 0, .wo, 0⟩]⟩,
  ⟨0xb0, 0, 1, [⟨31, 0, .rw, 0⟩]⟩,
  ⟨0xb4, 0, 1, [⟨31, 0, .rw, 0⟩]⟩,
  ⟨0xc0, 0, 1, [⟨31, 0, .rc, 0⟩]⟩,
  ⟨0xc4, 0, 1, [⟨31, 0, .rc, 0⟩]⟩,
  ⟨0xc8, 0, 1, [⟨31, 0, .rc, 0⟩]⟩,
  ⟨0xcc, 0, 1, [⟨31, 0, .rc, 0⟩]⟩,
  ⟨0xd0, 0, 1, [⟨31, 0, .rc, 0⟩]⟩,
  ⟨0xd4, 0, 1, [⟨31, 0, .rc, 0⟩]⟩,
  ⟨0xd8, 0, 1, [⟨31, 0, .rc, 0⟩]⟩,
  ⟨0xdc, 0, 1, [⟨31, 0, .rc, 0⟩]⟩,
  ⟨0xe0, 0, 1, [⟨31, 0, .ro, 0⟩]⟩,
  ⟨0xe4, 0, 1, [⟨31, 0, .ro, 0⟩]⟩]

def regsUpd1 : List RegDef := [
  ⟨0xe8, 0, 1, [⟨31, 0, .rc, 0⟩]⟩]
def regsUpd : List RegDef := regsUpd0 ++ regsUpd1
/-- R305. -/
def regsSyn : List RegDef := [
  ⟨0x80, 0, 1, [⟨2, 2, .ro, 1⟩, ⟨1, 1, .ro, 0⟩, ⟨0, 0, .rws, 1⟩]⟩,
  ⟨0x84, 0, 1, [⟨31, 0, .ro, 0⟩]⟩,
  ⟨0x88, 0, 1, [⟨31, 0, .rc, 0⟩]⟩,
  ⟨0x8c, 0, 1, [⟨31, 0, .rc, 0⟩]⟩,
  ⟨0x90, 0, 1, [⟨31, 0, .rc, 0⟩]⟩,
  ⟨0x94, 0, 1, [⟨31, 0, .rc, 0⟩]⟩,
  ⟨0x98, 0, 1, [⟨31, 0, .ro, 0⟩]⟩,
  ⟨0x9c, 0, 1, [⟨31, 0, .ro, 0⟩]⟩,
  ⟨0xa0, 0, 1, [⟨31, 0, .ro, 0⟩]⟩,
  ⟨0xa4, 0, 1, [⟨31, 0, .ro, 0⟩]⟩,
  ⟨0xa8, 0, 1, [⟨31, 0, .wo, 0⟩]⟩,
  ⟨0x1000, 0, 1, [⟨15, 0, .rw, 0⟩]⟩,
  ⟨0x1008, 0, 1, [⟨31, 0, .ro, 0⟩]⟩,
  ⟨0x100c, 0, 1, [⟨31, 0, .ro, 0⟩]⟩,
  ⟨0x1010, 0, 1, [⟨31, 0, .ro, 0⟩]⟩,
  ⟨0x1014, 0, 1, [⟨31, 0, .ro, 0⟩]⟩]
/-- R306. -/
def regsMbx : List RegDef := [
  ⟨0x1000, 32, 64, [⟨31, 0, .rc, 0⟩]⟩,
  ⟨0x1004, 32, 64, [⟨31, 0, .rw, 0⟩]⟩,
  ⟨0x1008, 32, 64, [⟨31, 16, .ro, 0⟩, ⟨15, 8, .ro, 0⟩, ⟨7, 2, .ro, 0⟩, ⟨1, 1, .w1c, 0⟩, ⟨0, 0, .ro, 0⟩]⟩,
  ⟨0x100c, 32, 64, [⟨31, 8, .ro, 0⟩, ⟨7, 7, .rw, 1⟩, ⟨6, 0, .rw, 0⟩]⟩,
  ⟨0x1010, 32, 64, [⟨7, 0, .rw, 0⟩]⟩,
  ⟨0x2000, 4, 128, [⟨31, 0, .rw, 0⟩]⟩,
  ⟨0x80, 4, 2, [⟨31, 0, .wo, 0⟩]⟩,
  ⟨0x88, 0, 1, [⟨31, 0, .rc, 0⟩]⟩]
/-- R340. -/
def regsTfp : List RegDef := [
  ⟨0x80, 0, 1, [⟨2, 2, .wo, 0⟩, ⟨1, 1, .rws, 0⟩, ⟨0, 0, .rw, 0⟩]⟩,
  ⟨0x84, 0, 1, [⟨31, 24, .ro, 255⟩, ⟨15, 8, .ro, 0⟩, ⟨4, 4, .ro, 0⟩, ⟨2, 0, .ro, 0⟩]⟩,
  ⟨0x88, 0, 1, [⟨31, 31, .ro, 0⟩, ⟨20, 18, .ro, 0⟩, ⟨17, 0, .ro, 0⟩]⟩,
  ⟨0x8c, 0, 1, [⟨31, 16, .rws, 64⟩, ⟨7, 0, .rws, 8⟩]⟩,
  ⟨0x90, 0, 1, [⟨31, 0, .rc, 0⟩]⟩,
  ⟨0x94, 0, 1, [⟨31, 0, .rc, 0⟩]⟩,
  ⟨0x98, 0, 1, [⟨31, 0, .rc, 0⟩]⟩,
  ⟨0x9c, 0, 1, [⟨31, 0, .rc, 0⟩]⟩,
  ⟨0xa0, 0, 1, [⟨31, 0, .ro, 0⟩]⟩,
  ⟨0xa4, 0, 1, [⟨31, 0, .ro, 0⟩]⟩,
  ⟨0xa8, 0, 1, [⟨31, 0, .ro, 0⟩]⟩,
  ⟨0xac, 0, 1, [⟨31, 0, .ro, 0⟩]⟩,
  ⟨0xb0, 0, 1, [⟨31, 0, .rc, 0⟩]⟩,
  ⟨0x1000, 4, 16, [⟨31, 0, .rc, 0⟩]⟩]
/-- R341. -/
def regsTfr : List RegDef := [
  ⟨0x80, 0, 1, [⟨17, 0, .rws, 0⟩]⟩,
  ⟨0x84, 0, 1, [⟨17, 0, .rws, 0⟩]⟩,
  ⟨0x88, 0, 1, [⟨23, 16, .rws, 228⟩, ⟨15, 8, .rws, 228⟩, ⟨5, 5, .rws, 0⟩, ⟨4, 4, .rws, 0⟩, ⟨0, 0, .rws, 0⟩]⟩,
  ⟨0x8c, 0, 1, [⟨3, 3, .rw, 0⟩, ⟨2, 2, .rw, 0⟩, ⟨1, 1, .rw, 0⟩, ⟨0, 0, .rw, 0⟩]⟩,
  ⟨0x90, 0, 1, [⟨31, 0, .ro, 0⟩]⟩,
  ⟨0x94, 0, 1, [⟨31, 0, .ro, 0⟩]⟩,
  ⟨0x98, 0, 1, [⟨31, 0, .ro, 0⟩]⟩,
  ⟨0x9c, 0, 1, [⟨31, 0, .rws, 500⟩]⟩,
  ⟨0xa0, 0, 1, [⟨7, 0, .rws, 128⟩]⟩,
  ⟨0xa4, 0, 1, [⟨31, 0, .rc, 0⟩]⟩,
  ⟨0xa8, 0, 1, [⟨31, 0, .rc, 0⟩]⟩,
  ⟨0xac, 0, 1, [⟨31, 0, .rc, 0⟩]⟩,
  ⟨0xb0, 0, 1, [⟨31, 0, .rc, 0⟩]⟩,
  ⟨0xb4, 0, 1, [⟨31, 0, .rc, 0⟩]⟩,
  ⟨0xb8, 0, 1, [⟨31, 0, .rc, 0⟩]⟩,
  ⟨0xc0, 0, 1, [⟨31, 0, .ro, 0⟩]⟩,
  ⟨0xc4, 0, 1, [⟨31, 0, .ro, 0⟩]⟩,
  ⟨0xc8, 0, 1, [⟨31, 0, .ro, 0⟩]⟩,
  ⟨0xcc, 0, 1, [⟨31, 0, .ro, 0⟩]⟩,
  ⟨0x1000, 4, 128, [⟨25, 24, .rw, 0⟩, ⟨17, 16, .rw, 0⟩, ⟨9, 8, .rw, 0⟩, ⟨1, 0, .rw, 0⟩]⟩,
  ⟨0x2000, 8, 512, [⟨17, 0, .rw, 0⟩]⟩,
  ⟨0x2004, 8, 512, [⟨31, 31, .rw, 0⟩, ⟨28, 28, .rw, 0⟩, ⟨26, 24, .rw, 0⟩, ⟨21, 4, .rw, 0⟩]⟩]
/-- R370. -/
def regsCol : List RegDef := [
  ⟨0x80, 0, 1, [⟨31, 1, .ro, 0⟩, ⟨0, 0, .rws, 0⟩]⟩,
  ⟨0x84, 0, 1, [⟨31, 5, .ro, 0⟩, ⟨4, 0, .ro, 0⟩]⟩,
  ⟨0x88, 0, 1, [⟨31, 0, .rc, 0⟩]⟩,
  ⟨0x8c, 0, 1, [⟨31, 0, .rc, 0⟩]⟩,
  ⟨0x90, 0, 1, [⟨31, 0, .rc, 0⟩]⟩,
  ⟨0x94, 0, 1, [⟨31, 0, .rc, 0⟩]⟩,
  ⟨0x98, 0, 1, [⟨31, 0, .ro, 0⟩]⟩,
  ⟨0x9c, 0, 1, [⟨31, 0, .ro, 0⟩]⟩,
  ⟨0xa0, 0, 1, [⟨31, 0, .ro, 0⟩]⟩,
  ⟨0xa4, 0, 1, [⟨31, 0, .ro, 0⟩]⟩,
  ⟨0xa8, 0, 1, [⟨31, 0, .ro, 0⟩]⟩,
  ⟨0xac, 0, 1, [⟨31, 0, .ro, 0⟩]⟩,
  ⟨0x1000, 32, 64, [⟨31, 31, .rws, 0⟩, ⟨30, 12, .ro, 0⟩, ⟨11, 0, .rws, 0⟩]⟩,
  ⟨0x1004, 32, 64, [⟨17, 0, .rws, 0⟩]⟩,
  ⟨0x1008, 32, 64, [⟨17, 0, .rws, 0⟩]⟩,
  ⟨0x100c, 32, 64, [⟨17, 0, .rws, 0⟩]⟩,
  ⟨0x1010, 32, 64, [⟨7, 0, .rws, 228⟩]⟩,
  ⟨0x1014, 32, 64, [⟨31, 0, .ro, 0⟩]⟩,
  ⟨0x1018, 32, 64, [⟨31, 0, .ro, 0⟩]⟩,
  ⟨0x101c, 32, 64, [⟨31, 0, .ro, 0⟩]⟩,
  ⟨0x2000, 16, 16, [⟨31, 28, .ro, 0⟩, ⟨27, 24, .ro, 0⟩, ⟨23, 20, .ro, 0⟩, ⟨19, 12, .ro, 0⟩, ⟨11, 0, .ro, 0⟩]⟩,
  ⟨0x2004, 16, 16, [⟨31, 0, .ro, 0⟩]⟩,
  ⟨0x2008, 16, 16, [⟨31, 0, .ro, 0⟩]⟩,
  ⟨0x200c, 16, 16, [⟨31, 0, .ro, 0⟩]⟩]
/-- R445. -/
def regsSxu0 : List RegDef := [
  ⟨0x80, 0, 1, [⟨31, 1, .ro, 0⟩, ⟨0, 0, .rws, 0⟩]⟩,
  ⟨0x84, 0, 1, [⟨31, 24, .rws, 0⟩, ⟨23, 16, .rws, 0⟩, ⟨15, 12, .ro, 0⟩, ⟨11, 0, .rws, 0⟩]⟩,
  ⟨0x88, 0, 1, [⟨31, 0, .rws, 0⟩]⟩,
  ⟨0x8c, 0, 1, [⟨31, 0, .rws, 0⟩]⟩,
  ⟨0x90, 0, 1, [⟨31, 0, .rws, 300⟩]⟩,
  ⟨0x94, 0, 1, [⟨31, 0, .rws, 2000⟩]⟩,
  ⟨0x98, 0, 1, [⟨31, 0, .rws, 0xc3500⟩]⟩,
  ⟨0x9c, 0, 1, [⟨31, 30, .rws, 0⟩, ⟨29, 29, .rws, 1⟩, ⟨28, 24, .rws, 3⟩, ⟨23, 0, .ro, 0⟩]⟩,
  ⟨0xa0, 0, 1, [⟨31, 0, .rws, 0x3f800000⟩]⟩,
  ⟨0xa4, 0, 1, [⟨31, 0, .rws, 0x3f666666⟩]⟩,
  ⟨0xa8, 0, 1, [⟨31, 0, .rws, 0x3f000000⟩]⟩,
  ⟨0xac, 0, 1, [⟨31, 0, .rws, 0x3f800000⟩]⟩,
  ⟨0xb0, 0, 1, [⟨31, 0, .rws, 0x3f800000⟩]⟩,
  ⟨0xb4, 0, 1, [⟨31, 16, .ro, 0⟩, ⟨15, 0, .rws, 17400⟩]⟩,
  ⟨0xb8, 0, 1, [⟨31, 0, .rws, 0⟩]⟩,
  ⟨0xbc, 0, 1, [⟨31, 0, .rws, 0⟩]⟩,
  ⟨0xc0, 0, 1, [⟨31, 0, .rws, 0⟩]⟩,
  ⟨0xc8, 0, 1, [⟨31, 0, .rws, 0⟩]⟩,
  ⟨0xcc, 0, 1, [⟨31, 0, .rws, 0⟩]⟩,
  ⟨0xd0, 0, 1, [⟨31, 0, .ro, 0⟩]⟩,
  ⟨0xd4, 0, 1, [⟨31, 0, .ro, 0⟩]⟩,
  ⟨0xd8, 0, 1, [⟨31, 16, .ro, 0⟩, ⟨15, 0, .ro, 0⟩]⟩,
  ⟨0xe0, 0, 1, [⟨31, 0, .ro, 0⟩]⟩,
  ⟨0xe4, 0, 1, [⟨31, 0, .ro, 0⟩]⟩]

def regsSxu1 : List RegDef := [
  ⟨0xe8, 0, 1, [⟨31, 0, .ro, 0⟩]⟩,
  ⟨0xec, 0, 1, [⟨31, 0, .ro, 0⟩]⟩,
  ⟨0xf0, 0, 1, [⟨31, 0, .rc, 0⟩]⟩,
  ⟨0xf4, 0, 1, [⟨31, 0, .rc, 0⟩]⟩,
  ⟨0xf8, 0, 1, [⟨31, 0, .rc, 0⟩]⟩,
  ⟨0xfc, 0, 1, [⟨31, 0, .rc, 0⟩]⟩,
  ⟨0x100, 0, 1, [⟨31, 0, .rc, 0⟩]⟩,
  ⟨0x104, 0, 1, [⟨31, 0, .rc, 0⟩]⟩,
  ⟨0x108, 0, 1, [⟨31, 0, .rc, 0⟩]⟩,
  ⟨0x10c, 0, 1, [⟨31, 5, .ro, 0⟩, ⟨4, 0, .w1c, 0⟩]⟩,
  ⟨0x1000, 64, 16, [⟨31, 31, .rws, 0⟩, ⟨30, 29, .rws, 0⟩, ⟨28, 24, .ro, 0⟩, ⟨23, 16, .rws, 0⟩, ⟨15, 8, .rws, 0⟩, ⟨7, 0, .rws, 0⟩]⟩,
  ⟨0x1004, 64, 16, [⟨31, 8, .ro, 0⟩, ⟨7, 0, .rws, 0⟩]⟩,
  ⟨0x1008, 64, 16, [⟨31, 0, .rws, 0x3f800000⟩]⟩,
  ⟨0x1010, 64, 16, [⟨31, 0, .rws, 0⟩]⟩,
  ⟨0x1014, 64, 16, [⟨31, 0, .rws, 0⟩]⟩,
  ⟨0x1018, 64, 16, [⟨31, 0, .rws, 0⟩]⟩,
  ⟨0x101c, 64, 16, [⟨31, 0, .rws, 0⟩]⟩,
  ⟨0x1020, 64, 16, [⟨31, 16, .ro, 0⟩, ⟨15, 11, .ro, 0⟩, ⟨10, 8, .ro, 7⟩, ⟨7, 4, .ro, 0⟩, ⟨3, 0, .ro, 0⟩]⟩,
  ⟨0x1024, 64, 16, [⟨31, 0, .ro, 0⟩]⟩,
  ⟨0x1028, 64, 16, [⟨31, 0, .ro, 1000⟩]⟩,
  ⟨0x102c, 64, 16, [⟨31, 0, .ro, 0xffffffff⟩]⟩,
  ⟨0x1030, 64, 16, [⟨31, 0, .ro, 0⟩]⟩,
  ⟨0x1034, 64, 16, [⟨31, 0, .ro, 0⟩]⟩,
  ⟨0x2000, 16, 4, [⟨15, 0, .ro, 0⟩]⟩]

def regsSxu2 : List RegDef := [
  ⟨0x2004, 16, 4, [⟨31, 0, .ro, 0⟩]⟩,
  ⟨0x2008, 16, 4, [⟨31, 0, .ro, 0⟩]⟩,
  ⟨0x200c, 16, 4, [⟨31, 0, .ro, 0⟩]⟩]
def regsSxu : List RegDef := regsSxu0 ++ regsSxu1 ++ regsSxu2
/-- R447, R537. -/
def regsEth : List RegDef := [
  ⟨0x80, 0, 1, [⟨31, 1, .ro, 0⟩, ⟨0, 0, .rw, 0⟩]⟩,
  ⟨0x84, 0, 1, [⟨31, 1, .ro, 0⟩, ⟨0, 0, .ro, 0⟩]⟩,
  ⟨0x88, 0, 1, [⟨31, 0, .rw, 0⟩]⟩,
  ⟨0x8c, 0, 1, [⟨15, 0, .rw, 0⟩]⟩,
  ⟨0x2000, 0, 1, [⟨31, 0, .rws, 0⟩]⟩,
  ⟨0x2004, 0, 1, [⟨31, 0, .rws, 0⟩]⟩,
  ⟨0x2008, 0, 1, [⟨31, 0, .rws, 0⟩]⟩,
  ⟨0x200c, 0, 1, [⟨31, 0, .rws, 0⟩]⟩,
  ⟨0x2010, 0, 1, [⟨31, 0, .rws, 0⟩]⟩,
  ⟨0x2014, 0, 1, [⟨15, 0, .rws, 0⟩]⟩,
  ⟨0x2018, 0, 1, [⟨31, 22, .ro, 0⟩, ⟨21, 16, .rws, 0⟩, ⟨15, 13, .rws, 0⟩, ⟨12, 12, .rws, 0⟩, ⟨11, 0, .rws, 0⟩]⟩,
  ⟨0x3000, 16, 3, [⟨31, 0, .ro, 0⟩]⟩,
  ⟨0x3004, 16, 3, [⟨31, 0, .ro, 0⟩]⟩,
  ⟨0x3008, 16, 3, [⟨31, 0, .rc, 0⟩]⟩,
  ⟨0x300c, 16, 3, [⟨31, 0, .rc, 0⟩]⟩,
  ⟨0x3030, 0, 1, [⟨31, 0, .rc, 0⟩]⟩,
  ⟨0x1000, 0, 1, [⟨31, 0, .rws, 0⟩]⟩,
  ⟨0x1004, 0, 1, [⟨31, 0, .rws, 0⟩]⟩,
  ⟨0x1008, 0, 1, [⟨31, 0, .rws, 0⟩]⟩,
  ⟨0x100c, 0, 1, [⟨31, 0, .rws, 0⟩]⟩,
  ⟨0x1010, 0, 1, [⟨31, 0, .rws, 0⟩]⟩,
  ⟨0x1014, 0, 1, [⟨15, 0, .rws, 0⟩]⟩,
  ⟨0x1018, 0, 1, [⟨31, 16, .ro, 0⟩, ⟨15, 0, .rws, 17401⟩]⟩,
  ⟨0x101c, 0, 1, [⟨21, 0, .rws, 0⟩]⟩]
/-- R475. -/
def regsTpw0 : List RegDef := [
  ⟨0x80, 0, 1, [⟨31, 3, .ro, 0⟩, ⟨2, 2, .rws, 1⟩, ⟨1, 1, .ro, 0⟩, ⟨0, 0, .rw, 0⟩]⟩,
  ⟨0x84, 0, 1, [⟨31, 0, .ro, 0⟩]⟩,
  ⟨0x88, 0, 1, [⟨31, 16, .ro, 0⟩, ⟨15, 0, .ro, 0⟩]⟩,
  ⟨0x8c, 0, 1, [⟨31, 0, .rws, 360⟩]⟩,
  ⟨0x90, 0, 1, [⟨31, 0, .rws, 1440⟩]⟩,
  ⟨0x94, 0, 1, [⟨31, 0, .rws, 1000⟩]⟩,
  ⟨0x98, 0, 1, [⟨31, 0, .rws, 20⟩]⟩,
  ⟨0x9c, 0, 1, [⟨31, 16, .rws, 250⟩, ⟨15, 8, .ro, 0⟩, ⟨7, 0, .rws, 16⟩]⟩,
  ⟨0xa0, 0, 1, [⟨31, 0, .rws, 1200⟩]⟩,
  ⟨0xa4, 0, 1, [⟨31, 16, .rws, 50⟩, ⟨15, 0, .rws, 100⟩]⟩,
  ⟨0xa8, 0, 1, [⟨31, 16, .rws, 1000⟩, ⟨15, 0, .rws, 1000⟩]⟩,
  ⟨0xb0, 0, 1, [⟨31, 0, .rws, 0x3c83126f⟩]⟩,
  ⟨0xb4, 0, 1, [⟨31, 0, .rws, 0x3c9374bc⟩]⟩,
  ⟨0xb8, 0, 1, [⟨31, 0, .rws, 40⟩]⟩,
  ⟨0xbc, 0, 1, [⟨31, 16, .ro, 0⟩, ⟨15, 8, .rws, 110⟩, ⟨7, 0, .rws, 95⟩]⟩,
  ⟨0xc0, 0, 1, [⟨31, 0, .ro, 0⟩]⟩,
  ⟨0xc4, 0, 1, [⟨31, 0, .ro, 0⟩]⟩,
  ⟨0xc8, 0, 1, [⟨31, 0, .ro, 0⟩]⟩,
  ⟨0xcc, 0, 1, [⟨31, 15, .ro, 0⟩, ⟨14, 8, .ro, 0⟩, ⟨7, 7, .ro, 0⟩, ⟨6, 0, .ro, 64⟩]⟩,
  ⟨0xd0, 0, 1, [⟨31, 16, .ro, 0⟩, ⟨15, 0, .ro, 0⟩]⟩,
  ⟨0xd4, 0, 1, [⟨31, 16, .ro, 0⟩, ⟨15, 0, .ro, 0⟩]⟩,
  ⟨0xd8, 0, 1, [⟨31, 0, .ro, 0⟩]⟩,
  ⟨0xdc, 0, 1, [⟨31, 0, .ro, 0⟩]⟩,
  ⟨0xe0, 0, 1, [⟨31, 6, .ro, 0⟩, ⟨5, 0, .w1c, 0⟩]⟩]

def regsTpw1 : List RegDef := [
  ⟨0x1000, 0, 1, [⟨31, 0, .ro, 0⟩]⟩,
  ⟨0x1004, 0, 1, [⟨31, 0, .ro, 0⟩]⟩,
  ⟨0x1008, 0, 1, [⟨31, 31, .ro, 0⟩, ⟨30, 3, .ro, 0⟩, ⟨2, 0, .ro, 0⟩]⟩,
  ⟨0x100c, 0, 1, [⟨31, 0, .ro, 0xffffffff⟩]⟩,
  ⟨0x1010, 0, 1, [⟨31, 16, .rws, 200⟩, ⟨15, 8, .rws, 0⟩, ⟨7, 1, .ro, 0⟩, ⟨0, 0, .rws, 1⟩]⟩,
  ⟨0x1014, 0, 1, [⟨31, 0, .rws, 1000⟩]⟩,
  ⟨0x1018, 0, 1, [⟨31, 0, .rws, 0⟩]⟩,
  ⟨0x101c, 0, 1, [⟨31, 0, .ro, 0⟩]⟩,
  ⟨0x1020, 0, 1, [⟨31, 3, .ro, 0⟩, ⟨2, 0, .w1c, 0⟩]⟩,
  ⟨0x2000, 0, 1, [⟨31, 1, .ro, 0⟩, ⟨0, 0, .rw, 1⟩]⟩,
  ⟨0x2004, 0, 1, [⟨31, 0, .rc, 0⟩]⟩,
  ⟨0x2008, 0, 1, [⟨31, 0, .rc, 0⟩]⟩,
  ⟨0x200c, 0, 1, [⟨31, 24, .ro, 0⟩, ⟨23, 16, .ro, 0⟩, ⟨15, 0, .ro, 0⟩]⟩,
  ⟨0x3000, 32, 8, [⟨31, 0, .rw, 0⟩]⟩,
  ⟨0x3004, 32, 8, [⟨31, 0, .rw, 0⟩]⟩,
  ⟨0x3008, 32, 8, [⟨31, 0, .rw, 0⟩]⟩,
  ⟨0x300c, 32, 8, [⟨31, 0, .rw, 0⟩]⟩,
  ⟨0x3010, 32, 8, [⟨31, 31, .rw, 0⟩, ⟨30, 16, .ro, 0⟩, ⟨15, 0, .rw, 0⟩]⟩,
  ⟨0x3014, 32, 8, [⟨31, 0, .rw, 1⟩]⟩,
  ⟨0x3018, 32, 8, [⟨31, 0, .rc, 0⟩]⟩,
  ⟨0x301c, 32, 8, [⟨31, 0, .rc, 0⟩]⟩]
def regsTpw : List RegDef := regsTpw0 ++ regsTpw1
/-- R504. -/
def regsCph : List RegDef := [
  ⟨0x80, 0, 1, [⟨31, 1, .ro, 0⟩, ⟨0, 0, .rws, 0⟩]⟩,
  ⟨0x84, 0, 1, [⟨31, 31, .ro, 0⟩, ⟨30, 4, .ro, 0⟩, ⟨3, 0, .w1c, 0⟩]⟩,
  ⟨0x88, 0, 1, [⟨31, 1, .ro, 0⟩, ⟨0, 0, .rw, 1⟩]⟩,
  ⟨0x8c, 0, 1, [⟨31, 26, .ro, 0⟩, ⟨25, 16, .ro, 0⟩, ⟨15, 10, .ro, 0⟩, ⟨9, 0, .ro, 0⟩]⟩,
  ⟨0x90, 0, 1, [⟨31, 0, .ro, 0⟩]⟩,
  ⟨0x94, 0, 1, [⟨31, 0, .rc, 0⟩]⟩,
  ⟨0x98, 0, 1, [⟨31, 0, .rc, 0⟩]⟩,
  ⟨0xa0, 0, 1, [⟨31, 0, .ro, 0⟩]⟩,
  ⟨0xa4, 0, 1, [⟨31, 0, .ro, 0⟩]⟩,
  ⟨0xa8, 0, 1, [⟨31, 0, .ro, 0⟩]⟩,
  ⟨0xac, 0, 1, [⟨31, 0, .ro, 0⟩]⟩,
  ⟨0x1000, 0, 1, [⟨31, 3, .ro, 0⟩, ⟨2, 0, .rw, 0⟩]⟩,
  ⟨0x1004, 0, 1, [⟨31, 2, .wo, 0⟩, ⟨1, 1, .wo, 0⟩, ⟨0, 0, .wo, 0⟩]⟩,
  ⟨0x1008, 0, 1, [⟨31, 8, .ro, 0⟩, ⟨7, 0, .ro, 0⟩]⟩,
  ⟨0x100c, 0, 1, [⟨31, 0, .rc, 0⟩]⟩,
  ⟨0x1020, 4, 8, [⟨31, 0, .wo, 0⟩]⟩,
  ⟨0x2000, 16, 64, [⟨31, 24, .ro, 0⟩, ⟨23, 19, .ro, 0⟩, ⟨18, 16, .ro, 0⟩, ⟨15, 8, .ro, 0⟩, ⟨7, 4, .ro, 0⟩, ⟨3, 1, .ro, 0⟩, ⟨0, 0, .ro, 0⟩]⟩,
  ⟨0x2008, 16, 64, [⟨31, 0, .ro, 0⟩]⟩,
  ⟨0x200c, 16, 64, [⟨31, 0, .ro, 0⟩]⟩,
  ⟨0x3000, 4, 256, [⟨31, 31, .ro, 0⟩, ⟨30, 29, .ro, 0⟩, ⟨28, 28, .ro, 0⟩, ⟨27, 14, .ro, 0⟩, ⟨13, 8, .ro, 0⟩, ⟨7, 0, .ro, 0⟩]⟩]
/-- R512, R536. -/
def regsTpm0 : List RegDef := [
  ⟨0x80, 0, 1, [⟨31, 24, .ro, 0⟩, ⟨23, 16, .ro, 0⟩, ⟨15, 3, .ro, 0⟩, ⟨2, 2, .ro, 0⟩, ⟨1, 1, .ro, 0⟩, ⟨0, 0, .ro, 0⟩]⟩,
  ⟨0x84, 0, 1, [⟨31, 0, .ro, 0⟩]⟩,
  ⟨0x88, 0, 1, [⟨31, 8, .ro, 0⟩, ⟨7, 4, .ro, 15⟩, ⟨3, 2, .ro, 0⟩, ⟨1, 0, .ro, 3⟩]⟩,
  ⟨0x8c, 0, 1, [⟨31, 16, .ro, 0⟩, ⟨15, 0, .ro, 0⟩]⟩,
  ⟨0x90, 0, 1, [⟨31, 0, .rc, 0⟩]⟩,
  ⟨0x94, 0, 1, [⟨31, 0, .rc, 0⟩]⟩,
  ⟨0x98, 0, 1, [⟨31, 0, .rc, 0⟩]⟩,
  ⟨0x9c, 0, 1, [⟨31, 3, .wo, 0⟩, ⟨2, 0, .wo, 0⟩]⟩,
  ⟨0xa0, 0, 1, [⟨31, 0, .wo, 0⟩]⟩,
  ⟨0xa4, 0, 1, [⟨31, 0, .wo, 0⟩]⟩,
  ⟨0xa8, 0, 1, [⟨31, 0, .wo, 0⟩]⟩,
  ⟨0xac, 0, 1, [⟨31, 0, .wo, 0⟩]⟩,
  ⟨0xb0, 0, 1, [⟨31, 0, .wo, 0⟩]⟩,
  ⟨0xb4, 0, 1, [⟨31, 0, .wo, 0⟩]⟩,
  ⟨0xb8, 0, 1, [⟨31, 0, .wo, 0⟩]⟩,
  ⟨0xbc, 0, 1, [⟨31, 0, .wo, 0⟩]⟩,
  ⟨0xc0, 0, 1, [⟨31, 0, .wo, 0⟩]⟩,
  ⟨0xc4, 0, 1, [⟨31, 0, .wo, 0⟩]⟩,
  ⟨0xc8, 0, 1, [⟨31, 0, .wo, 0⟩]⟩,
  ⟨0xcc, 0, 1, [⟨31, 0, .wo, 0⟩]⟩,
  ⟨0xd0, 0, 1, [⟨31, 0, .wo, 0⟩]⟩,
  ⟨0xd4, 0, 1, [⟨31, 0, .wo, 0⟩]⟩,
  ⟨0xd8, 0, 1, [⟨31, 0, .wo, 0⟩]⟩,
  ⟨0xdc, 0, 1, [⟨31, 0, .wo, 0⟩]⟩]

def regsTpm1 : List RegDef := [
  ⟨0xe0, 0, 1, [⟨31, 0, .rws, 0⟩]⟩,
  ⟨0xe4, 0, 1, [⟨31, 0, .rws, 0⟩]⟩,
  ⟨0xe8, 0, 1, [⟨31, 0, .rws, 0⟩]⟩,
  ⟨0xec, 0, 1, [⟨31, 0, .rws, 0⟩]⟩,
  ⟨0xf0, 0, 1, [⟨31, 0, .ro, 0⟩]⟩,
  ⟨0xf4, 0, 1, [⟨31, 0, .ro, 0⟩]⟩,
  ⟨0x2000, 32, 16, [⟨31, 8, .ro, 0⟩, ⟨7, 6, .ro, 0⟩, ⟨5, 4, .ro, 0⟩, ⟨3, 0, .ro, 0⟩]⟩,
  ⟨0x2004, 32, 16, [⟨31, 0, .ro, 0⟩]⟩,
  ⟨0x2008, 32, 16, [⟨31, 0, .ro, 0⟩]⟩,
  ⟨0x200c, 32, 16, [⟨31, 0, .ro, 0⟩]⟩,
  ⟨0x2010, 32, 16, [⟨31, 0, .ro, 0⟩]⟩,
  ⟨0x2014, 32, 16, [⟨31, 0, .ro, 0⟩]⟩,
  ⟨0x2018, 32, 16, [⟨31, 0, .ro, 0⟩]⟩,
  ⟨0x3000, 64, 64, [⟨31, 31, .rw, 0⟩, ⟨30, 25, .ro, 0⟩, ⟨24, 24, .rw, 0⟩, ⟨23, 0, .rw, 0⟩]⟩,
  ⟨0x3004, 64, 64, [⟨31, 0, .rw, 0⟩]⟩,
  ⟨0x3008, 64, 64, [⟨31, 0, .rw, 0⟩]⟩,
  ⟨0x300c, 64, 64, [⟨31, 0, .rw, 0⟩]⟩,
  ⟨0x3010, 64, 64, [⟨31, 0, .rw, 0⟩]⟩,
  ⟨0x3014, 64, 64, [⟨31, 0, .rw, 0⟩]⟩,
  ⟨0x3018, 64, 64, [⟨31, 0, .rw, 0⟩]⟩,
  ⟨0x301c, 64, 64, [⟨31, 0, .rw, 0⟩]⟩,
  ⟨0x3020, 64, 64, [⟨31, 0, .rw, 0⟩]⟩,
  ⟨0x3024, 64, 64, [⟨31, 0, .rw, 0⟩]⟩,
  ⟨0x3028, 64, 64, [⟨31, 8, .rw, 2000⟩, ⟨7, 3, .ro, 0⟩, ⟨2, 0, .rw, 7⟩]⟩]

def regsTpm2 : List RegDef := [
  ⟨0x302c, 64, 64, [⟨31, 24, .ro, 0⟩, ⟨23, 0, .rw, 0⟩]⟩,
  ⟨0x1000, 4, 128, [⟨31, 0, .ro, 0⟩]⟩]
def regsTpm : List RegDef := regsTpm0 ++ regsTpm1 ++ regsTpm2
/-- R571. -/
def regsGlb0 : List RegDef := [
  ⟨0x80, 0, 1, [⟨31, 24, .wo, 0⟩, ⟨23, 5, .wo, 0⟩, ⟨4, 0, .wo, 0⟩]⟩,
  ⟨0x84, 0, 1, [⟨31, 0, .wo, 0⟩]⟩,
  ⟨0x88, 0, 1, [⟨31, 24, .ro, 32⟩, ⟨23, 16, .ro, 0⟩, ⟨15, 6, .ro, 0⟩, ⟨5, 0, .ro, 0⟩]⟩,
  ⟨0x90, 0, 1, [⟨31, 0, .rw, 0⟩]⟩,
  ⟨0x94, 0, 1, [⟨31, 0, .rw, 0⟩]⟩,
  ⟨0x98, 0, 1, [⟨31, 31, .rw, 0⟩, ⟨30, 5, .ro, 0⟩, ⟨4, 0, .rw, 6⟩]⟩,
  ⟨0x9c, 0, 1, [⟨31, 0, .ro, 0⟩]⟩,
  ⟨0xa0, 0, 1, [⟨31, 0, .rw, 0⟩]⟩,
  ⟨0xa4, 0, 1, [⟨31, 0, .rc, 0⟩]⟩,
  ⟨0xa8, 0, 1, [⟨31, 0, .rc, 0⟩]⟩,
  ⟨0xb0, 0, 1, [⟨31, 0, .rw, 0⟩]⟩,
  ⟨0xb4, 0, 1, [⟨31, 0, .rw, 0⟩]⟩,
  ⟨0xb8, 0, 1, [⟨31, 0, .rw, 2048⟩]⟩,
  ⟨0xbc, 0, 1, [⟨31, 31, .rw, 0⟩, ⟨30, 3, .ro, 0⟩, ⟨2, 1, .rw, 0⟩, ⟨0, 0, .rw, 0⟩]⟩,
  ⟨0xc0, 0, 1, [⟨31, 0, .ro, 0⟩]⟩,
  ⟨0xc4, 0, 1, [⟨31, 0, .ro, 0⟩]⟩,
  ⟨0xc8, 0, 1, [⟨31, 0, .ro, 0⟩]⟩,
  ⟨0xcc, 0, 1, [⟨31, 0, .ro, 0⟩]⟩,
  ⟨0xd0, 0, 1, [⟨31, 0, .rc, 0⟩]⟩,
  ⟨0xd4, 0, 1, [⟨31, 0, .rc, 0⟩]⟩,
  ⟨0xe0, 0, 1, [⟨31, 0, .rw, 0⟩]⟩,
  ⟨0xe4, 0, 1, [⟨31, 0, .rw, 0⟩]⟩,
  ⟨0xe8, 0, 1, [⟨4, 0, .rw, 10⟩]⟩,
  ⟨0xec, 0, 1, [⟨31, 31, .ro, 0⟩, ⟨30, 28, .ro, 0⟩, ⟨27, 24, .ro, 0⟩, ⟨23, 0, .ro, 0⟩]⟩]

def regsGlb1 : List RegDef := [
  ⟨0xf0, 0, 1, [⟨31, 0, .ro, 0⟩]⟩,
  ⟨0xf4, 0, 1, [⟨31, 24, .ro, 0⟩, ⟨23, 16, .ro, 0⟩, ⟨15, 0, .ro, 0⟩]⟩,
  ⟨0xf8, 0, 1, [⟨31, 0, .ro, 0⟩]⟩,
  ⟨0xfc, 0, 1, [⟨31, 0, .ro, 0⟩]⟩,
  ⟨0x100, 0, 1, [⟨31, 0, .ro, 0⟩]⟩,
  ⟨0x104, 0, 1, [⟨31, 0, .ro, 0⟩]⟩,
  ⟨0x108, 0, 1, [⟨31, 0, .rc, 0⟩]⟩,
  ⟨0x10c, 0, 1, [⟨31, 0, .rc, 0⟩]⟩]
def regsGlb : List RegDef := regsGlb0 ++ regsGlb1
/-- R578, R580, R581, R582, R616. -/
def regsHead : List RegDef := [
  ⟨0x0, 0, 1, [⟨31, 16, .ro, 0⟩, ⟨15, 0, .ro, 0⟩]⟩,
  ⟨0x4, 0, 1, [⟨31, 24, .ro, 1⟩, ⟨23, 16, .ro, 0⟩, ⟨15, 8, .ro, 3⟩, ⟨7, 0, .ro, 16⟩]⟩,
  ⟨0x8, 0, 1, [⟨15, 8, .ro, 0⟩, ⟨2, 2, .ro, 0⟩, ⟨1, 1, .ro, 0⟩, ⟨0, 0, .ro, 1⟩]⟩,
  ⟨0x10, 0, 1, [⟨31, 16, .wo, 0⟩, ⟨15, 2, .wo, 0⟩, ⟨1, 1, .wo, 0⟩, ⟨0, 0, .wo, 0⟩]⟩,
  ⟨0x14, 0, 1, [⟨31, 16, .ro, 0⟩, ⟨7, 0, .ro, 0⟩]⟩,
  ⟨0x18, 0, 1, [⟨31, 16, .wo, 0⟩, ⟨15, 2, .wo, 0⟩, ⟨1, 1, .wo, 0⟩, ⟨0, 0, .wo, 0⟩]⟩,
  ⟨0x1c, 0, 1, [⟨31, 18, .ro, 0⟩, ⟨15, 8, .ro, 0⟩, ⟨5, 5, .ro, 0⟩, ⟨4, 4, .ro, 0⟩, ⟨3, 0, .ro, 0⟩]⟩,
  ⟨0x20, 0, 1, [⟨1, 1, .w1c, 0⟩, ⟨0, 0, .w1c, 0⟩]⟩,
  ⟨0x24, 0, 1, [⟨0, 0, .rw, 1⟩]⟩,
  ⟨0x28, 0, 1, [⟨31, 16, .ro, 0⟩, ⟨0, 0, .ro, 0⟩]⟩,
  ⟨0x2c, 0, 1, [⟨31, 0, .rc, 0⟩]⟩,
  ⟨0x40, 0, 1, [⟨4, 4, .w1c, 0⟩, ⟨3, 3, .w1c, 0⟩, ⟨2, 2, .w1c, 0⟩, ⟨1, 1, .w1c, 0⟩, ⟨0, 0, .w1c, 0⟩]⟩,
  ⟨0x44, 0, 1, [⟨4, 4, .rw, 1⟩, ⟨3, 3, .rw, 0⟩, ⟨2, 2, .rw, 0⟩, ⟨1, 1, .rw, 0⟩, ⟨0, 0, .rw, 1⟩]⟩,
  ⟨0xc, 0, 1, [⟨31, 0, .ro, 0⟩]⟩,
  ⟨0x30, 4, 4, [⟨31, 0, .ro, 0⟩]⟩]

end Sys2Proof.Machine
end

