-- ==== Sys2Proof/Machine/State.lean ====
section
/-! DEFINITION. The state of the block: everything the spec gives one T9 module, as plain data, with the machine's reset. -/

namespace Sys2Proof.Machine

/-- Why a step could stop. No meaning of this model raises it: the spec gives every command an effect, an error code or a
discard, so no command stops the block. It is here because the interface asks for a type of faults. Safe: it is never raised. -/
inductive Fault where
  | neverRaised
  deriving DecidableEq, Repr

/-- Why a command could have no meaning. `notModelled` is raised by Dispatch for a command that is not modelled yet (safe: the
run stops there). -/
inductive Refusal where
  | notModelled (mnemonic : String)
  deriving DecidableEq, Repr

/-- The order codes of R3. -/
inductive Order where
  | x384 | l384 | x192
  deriving DecidableEq, Repr

/-- R585: one agent's latch of one window: the pair's low offset and the word held. -/
structure Latch where
  owner : Nat
  win : Nat
  off : Nat
  held : Word
  deriving DecidableEq, Repr

/-- R180's queue states, as the queue itself holds them: `active` reads as IDLE, RUNNING or HELD by what the queue holds. -/
inductive QState where
  | disabled | active | draining | stopped
  deriving DecidableEq, Repr

/-- How one wait of the command at the head of a queue stands (R173, R286): not tested, registered with its counter's SYN,
refused for want of a record (R382), met, or failed with an error code. -/
inductive WaitSt where
  | none
  | registered (wid : Nat)
  | refused
  | met
  | failed (err : Nat)
  deriving DecidableEq, Repr

/-- The validated command at a queue's head: as read, when it reached the head, and its two waits. -/
structure Head where
  desc : List Byte
  args : List Byte
  arrived : Nat
  w0 : WaitSt
  w1 : WaitSt
  deriving DecidableEq, Repr

/-- One command queue (R177–R180). `stopErr` is the error a queue takes once its dispatched commands end, where it was stopped
with no failed command (Q_OVERRUN, PREEMPTED); `failedAt` is the index of the failed command, where there is one. -/
structure Queue where
  base : DWord := 0
  enable : Bool := false
  log2 : Nat := 4
  compCtr : Nat := 0
  tail : Word := 0
  head : Word := 0
  done : Word := 0
  st : QState := .disabled
  err : Nat := 0
  prog : DWord := 0
  headCmd : Option Head := none
  stopErr : Nat := 0
  failedAt : Option Word := none
  deriving DecidableEq, Repr

/-- How a part stands (R29–R31): sent and not begun, begun (loaded or waiting for replies), work done, ended well, ended in error. -/
inductive PartSt where
  | sent | busy | worked | faulted (err : Nat) | done | failed (err : Nat)
  deriving DecidableEq, Repr

/-- One part of a dispatched command. `floe` is the floe address of the child it runs on; `lo..hi` are the units it covers
(R189), or the tile rows for a MATMUL, whose tile columns are `c0..c1` (R188). `away` says that it travels to its floe in a CMD packet
(R618). `retired` and `committed` are what a report gave,
`unacked` the requests still unanswered, `cursor` how far remote requests have been issued, `pend` the requests still unanswered of
each tile of a streamed output. -/
structure Part where
  floe : Nat
  lo : Nat
  hi : Nat
  c0 : Nat := 0
  c1 : Nat := 0
  away : Bool := false
  st : PartSt := .sent
  retired : Nat := 0
  committed : Nat := 0
  unacked : Nat := 0
  cursor : Nat := 0
  pend : List (Nat × Nat) := []
  lastReport : Nat := 0
  deriving DecidableEq, Repr

/-- How a dispatched command stands. -/
inductive JobSt where
  | held | running | failed (err : Nat) | worked | abandoned | complete
  deriving DecidableEq, Repr

/-- A dispatched command of this module's queues, or a command or group part that another module sent (R174, R618); the latter is
`held` until its waits are met here (R172). `total` is the number of its units (R182). `units` are the units complete so far (R32). `readers` names the group descriptor's
address and the generation slot whose reader count the command holds (R252). `tag` is the CTAG its packets carry. `extra` is what the
executing module read once at dispatch: a MATMUL's drain descriptor (R118). `name` is, for a command or part of another module, the floe
and number of the queue that dispatched it and its sequence number there (R116, R176, R291; log entry 17). `flags` gathers what its
final report brings to that queue: FPFLAGS in bits 4:0 (R47), and in bit 5 that a fetch-add of it was refused (R276). `began` is when it was
dispatched, `vote` holds the vote flags that a STEP_VOTE took then (R258), `rdCtr` is the reader counter of its slot as the group descriptor
named it then (R252), and `wrote` are the modules on which a MATMUL done elsewhere has written, as its reports say (R294; log entry 63). -/
structure Job where
  ref : JobRef
  desc : List Byte
  args : List Byte
  st : JobSt := .running
  w0 : WaitSt := .none
  w1 : WaitSt := .none
  arrived : Nat := 0
  parts : List Part := []
  total : Nat := 1
  units : List Nat := []
  readers : Option (Nat × Nat) := none
  tag : Nat := 0
  lastSent : Nat := 0
  firstErr : Nat := 0
  extra : List Byte := []
  name : Option (Nat × Nat × Nat) := none
  flags : Nat := 0
  began : Nat := 0
  vote : Nat := 0
  rdCtr : Nat := 0
  wrote : List Nat := []
  deriving DecidableEq, Repr

/-- R99–R101, R113: ENG_STATE.ACT. -/
inductive Act where
  | idle | rampUp | active | hold | rampDown | selftest
  deriving DecidableEq, Repr

/-- A MATMUL part that its engine has begun: its source (R379) and the next of its output blocks to begin. -/
structure EngLoad where
  job : JobRef
  part : Nat
  src : Nat
  next : Nat := 0
  deriving DecidableEq, Repr
/-- What the checks of a pass in flight will say (R106, R107): the rows and columns whose checks are not made, and the first mismatch that
the checksums show (1 row, 2 column; its number within the block). -/
structure PassRes where
  skipR : List Nat := []
  skipC : List Nat := []
  bad : Option (Nat × Nat) := none
  deriving DecidableEq, Repr
/-- R91: an output block in the drain bank: its part and number, the passes issued, those in flight (oldest first), the accumulator pairs
row by row, how often the block has run again, the recompute count of each of its tiles, and CHK_EN and ENG_CHK_TOL as the block began (R115). -/
structure EngBlk where
  job : JobRef
  part : Nat
  block : Nat
  issued : Nat := 0
  flight : List PassRes := []
  acc : List (Word × Word) := []
  runs : Nat := 0
  recomp : List Nat := []
  chkEn : Bool := true
  tol : Word := 0
  deriving DecidableEq, Repr
/-- A streamed write that the drain has released and holds in its output buffer (R143): part, tile, address at the receiver, bytes. -/
structure OutWrite where
  job : JobRef
  part : Nat
  tile : Nat
  addr : Nat
  bytes : List Byte
  deriving DecidableEq, Repr
/-- One matrix engine: activity, stage of a ramp, the parts begun in the order of their arrival, the output blocks in the drain bank (at
most two, R91), the source served last (R379), the output buffer, whether a write of 0 to FENCE waits for the end of a self-test
(R113), and ENG_RAMP as the last output block began (R115). -/
structure Engine where
  act : Act := .idle
  stage : Nat := 0
  loads : List EngLoad := []
  blks : List EngBlk := []
  turn : Nat := 30
  outBuf : List OutWrite := []
  unfence : Bool := false
  ramp : Option Word := none
  deriving DecidableEq, Repr

/-- R154, R155: the privilege modes of a core. -/
inductive Priv where
  | u | s | m
  deriving DecidableEq, Repr
/-- R154–R157, R164, R506: a core's mode, the registers its last trap wrote, the 64-byte lines that its instruction cache may hold, and whether
it is held in reset. A core is in M mode, in its runtime or firmware, but for a kernel. -/
structure Hart where
  mode : Priv := .m
  mcause : DWord := 0
  mepc : DWord := 0
  mtval : DWord := 0
  ilines : List Nat := []
  held : Bool := false
  deriving DecidableEq, Repr

/-- One kernel part running on an engine or cluster core (R169): the registers it starts with and when it started. -/
structure CoreRun where
  job : JobRef
  part : Nat
  pc : DWord
  a0 : DWord
  a1 : Nat
  a2 : Nat
  a3 : DWord
  started : Nat
  deriving DecidableEq, Repr

/-- R266: the state of a sync counter. -/
inductive CtrSt where
  | free | live | broken
  deriving DecidableEq, Repr

/-- A sync counter (R265–R267): state, value and owner (a floe address with LOCAL 0). -/
structure Counter where
  st : CtrSt := .free
  val : DWord := 0
  owner : Word := 0
  deriving DecidableEq, Repr

/-- Why a module issued a request (R328, R330): a chunk of a part's remote write; a remote read to be written at `dst`; a descriptor
signal of a completed command; an entry of a SIGNAL; a fetch-add whose value goes to `result` (0: nowhere), or a TICKET's; a command
or part sent; a part report; a streamed or stored block of an engine's drain; a request of another unit. -/
inductive Purpose where
  | write (j : JobRef) (p unit bytes : Nat)
  | read (j : JobRef) (p unit dst bytes : Nat)
  | sigOf (q : Nat) (n : Word) (which : Nat)
  | sigEntry (j : JobRef) (p : Nat)
  | fetch (j : JobRef) (p result : Nat)
  | ticket (j : JobRef) (p : Nat)
  | cmd (j : JobRef) (p : Nat)
  | report
  | stream (j : JobRef) (p tile : Nat)
  | other
  deriving DecidableEq, Repr

/-- A reply slot in use (R328): the request, why it was made, when it was sent, whether it was re-issued (R330), and the request's number
(the model's own), which a re-issue keeps. -/
structure Slot where
  rtag : Nat
  pk : Pkt
  why : Purpose
  sent : Nat
  again : Bool
  id : Nat := 0
  deriving DecidableEq, Repr

/-- Who waits (R286): a queue's head command on this module, a served remote command, or a floe of another module. -/
inductive Waiter where
  | head (q : Nat) (n : Word) (which : Nat)
  | job (src ctag which : Nat)
  | remote (src floe queue : Nat) (n : Word) (which : Nat)
  | ticket (j : JobRef) (part : Nat)
  deriving DecidableEq, Repr

/-- A wait registered at this module's SYN (R286–R289). -/
structure WaitRec where
  wid : Nat
  ctr : Nat
  thresh : DWord
  deadline : Nat
  timeout : Nat
  who : Waiter
  deriving DecidableEq, Repr

/-- A wait of this module on a counter of another (R286, R288): what was asked, when its backstop expires, and the value
and state that the last refusal carried (3: none came). -/
structure RemoteWait where
  wid : Nat
  dest : Nat
  ctr : Nat
  thresh : DWord
  who : Waiter
  backstop : Nat
  timeout : Nat
  refused : Bool
  val : DWord := 0
  cst : Nat := 3
  /-- When its registration was last sent. -/
  tried : Nat := 0
  deriving DecidableEq, Repr

/-- R382: a registration of another module that found no record, while its timeout runs. -/
structure Refused where
  src : Nat
  wid : Nat
  upTo : Nat
  deriving DecidableEq, Repr

/-- Data of a flit that a router holds (R320): at most 128 bytes, whether they are known to be corrupt (R314), and when they came (R385). -/
structure Flit where
  bytes : List Byte
  bad : Bool
  born : Nat := 0
  deriving DecidableEq, Repr

/-- A codeword in a retry buffer (R312): its number, how often it was sent, its link control word (R311) and its flits with their channels. -/
structure Sent where
  seq : Nat
  sends : Nat
  lcw : Nat
  flits : List (Nat × List Byte)
  deriving DecidableEq, Repr

/-- The link layer and input buffer of one port (R311–R313, R315, R320, R323): the number of the next codeword to send and to
accept, and of each direction's codewords since the last alignment codeword; whether a resent codeword is awaited; the retry buffer;
when the uncorrectable codewords of the last 1 ms came; the flits of each virtual channel that the neighbour's buffer holds; the flits
of each channel held here; whether the last training was in loopback (R340), and when it began; the messages (KIND, VALUE) that link control words
are still to carry (R311); and the pieces of the PEER exchange that have come. -/
structure Link where
  tx : Nat := 0
  rx : Nat := 0
  txMark : Nat := 0
  rxMark : Nat := 0
  await : Bool := false
  buf : List Sent := []
  ues : List Nat := []
  used : List Nat := [0, 0, 0, 0, 0, 0, 0, 0]
  inp : List (List Flit) := [[], [], [], [], [], [], [], []]
  loop : Bool := false
  began : Option Nat := none
  msgs : List (Nat × Nat) := []
  peer : List Nat := []
  deriving DecidableEq, Repr

/-- A packet on its way through the router (R320, R326, R339, R385): the port and channel it came by (port 8: this module's own
injection), the port it goes to (8 ejection, 9 discarded), its header as it goes on and its LEN, the bytes of it that have left
the input buffer and wait here and whether they are known to be corrupt, how many bytes of it have not gone on, whether it holds a
virtual channel of its port, whether any flit of it came poisoned, how many short packets in a row have passed it, when its head came here or
reached injection, and which 128-byte pieces of it the router has found corrupt in its buffer (R314). -/
structure Worm where
  inp : Nat
  ivc : Nat
  out : Nat
  pk : Pkt
  len : Nat
  data : List Byte
  badData : Bool := false
  left : Nat
  granted : Bool := false
  bad : Bool := false
  passed : Nat := 0
  born : Nat := 0
  spoiled : List Nat := []
  deriving DecidableEq, Repr

/-- A reset in progress (R539–R542): its domain (0 COMPUTE, 1 FABRIC, 2 SXU, 3 CPH, 4 MODULE, 5 floe, 6 POR), the floe of a floe
reset, its cause (R556's E1), when it was requested, whether a pin (RESET_N, PWRGD) still holds it, and the numbers of the
requests of its units that write and are to be acknowledged. -/
structure ResetP where
  dom : Nat
  floe : Nat
  cause : Nat
  since : Nat
  pinHeld : Bool
  drain : List Nat := []
  deriving DecidableEq, Repr

/-- A RoCEv2 request of this module that its host has not acknowledged (R532–R535): the part, or the group of an UPD command
(`t2`), that made it, its unit, or the group `k` and chunk `unit` of a log entry written back (`log`, R248), an RDMA READ or a WRITE, the window offset, its length, the module address that a READ fills, the
bytes of a WRITE, when it was last sent, how often it was sent again, its number (the model's own),
and whether a reset has stopped the command that made it (R542). -/
structure HostReq where
  job : JobRef
  k : Nat
  t2 : Bool
  unit : Nat
  rd : Bool
  off : Nat
  len : Nat
  addr : Nat
  bytes : List Byte
  sent : Nat
  tries : Nat
  log : Bool := false
  id : Nat := 0
  cut : Bool := false
  deriving DecidableEq, Repr
/-- A host window's queue pair (R532, R535): its requests, oldest first; its send rate as a share of the full rate, the share lost as of
the last congestion notification, and when that came or a part of it was last restored; and whether it is in the error state. -/
structure HostWin where
  reqs : List HostReq := []
  rate : Rat := 1
  lost : Rat := 0
  rateAt : Nat := 0
  broken : Bool := false
  deriving DecidableEq, Repr

/-- How a group of an UPD command stands (R253, R257, R384): not taken up, set aside for its readers or its T2 state, writing a
chunk back to the host, retired, or failed. -/
inductive GrpSt where
  | fresh | aside | writing | done | failed (err : Nat)
  deriving DecidableEq, Repr
/-- A group of an UPD command: when it was taken up, when its present transfer was issued, whether its readers' wait is met and its
T2 state here, the T2 requests to send and unanswered, what an ingress has read of the state (offset, bytes), the id and the descriptor's
words 0x00–0xB7 as they were read once (R230), and whether it waits for the write-back of a replayed log entry (R248, R257). -/
structure UpdGrp where
  st : GrpSt := .fresh
  since : Nat := 0
  issued : Nat := 0
  genOk : Bool := false
  t2Ok : Bool := false
  todo : List (Bool × Nat × Nat × Nat) := []
  left : Nat := 0
  buf : List (Nat × List Byte) := []
  chunk : Nat := 0
  taken : Option (Nat × List Byte) := none
  replay : Bool := false
  deriving DecidableEq, Repr
/-- An UPDATE, STEP_COMMIT or AUDIT that has reached UPD (R383): admitted or waiting, with its groups in list order;
`mism` is the first group in which an AUDIT found a mismatch, `skip` the outcome of the vote that a STEP_COMMIT read first (R242). -/
structure UpdRun where
  job : JobRef
  part : Nat
  admitted : Bool
  grps : List UpdGrp
  mism : Nat := 0
  skip : Bool := false
  deriving DecidableEq, Repr
/-- R247, R248: a valid log entry of UPD: group, step, half, chunk, the chunk's master (hi and lo codes) and new state bytes by slot;
and of a replay that writes T2 state back (R257), what it has still to send (window offset, bytes) and how many requests are unanswered. -/
structure LogEntry where
  gid : Nat
  step : Nat
  half : Nat
  chunk : Nat
  hi : List Nat
  lo : List Nat
  state : List (Nat × List Byte)
  todo : List (Nat × List Byte) := []
  left : Nat := 0
  deriving DecidableEq, Repr

/-- R358, R359: a stream of a collective operation: the step's index within AXORDER, phase, half and chunk; the member at its other
end; the elements (or bytes) it carries; the bytes sent of an outgoing stream; the bytes granted; and the bytes received of an incoming one. -/
structure ColStream where
  step : Nat
  phase : Nat
  half : Nat
  chunk : Nat
  peer : Nat
  lo : Nat
  hi : Nat
  sent : Nat := 0
  granted : Nat := 0
  data : List Byte := []
  deriving DecidableEq, Repr
/-- R357–R361: a COLLECTIVE, BARRIER or STEP_VOTE dispatched at this module: its part, family and variant, group id, SEQ and group entry;
its context, where it holds one; its signature; when it was dispatched; the members whose JOIN is awaited; this member's input; its
streams; the ports they use; the flags gathered and those taken here; the tree neighbours below whose VOTE_UP is awaited, all those
below, and the one above (module, port towards it, step index); and whether the flags have gone up. -/
structure ColOp where
  job : JobRef
  part : Nat
  fam : Nat
  var : Nat
  gid : Nat
  seq : Nat
  entry : Nat
  ctx : Option Nat := none
  sig : Nat := 0
  since : Nat := 0
  joins : List Nat := []
  src : List Byte := []
  ins : List ColStream := []
  outs : List ColStream := []
  ports : List Nat := []
  flags : Nat := 0
  took : Nat := 0
  ups : List Nat := []
  kids : List (Nat × Nat × Nat) := []
  parent : Option (Nat × Nat × Nat) := none
  sentUp : Bool := false
  deriving DecidableEq, Repr

/-- R480: a key slot: READY, its key, USAGE mask, the root it was derived from, and KGEN. -/
structure KeySlot where
  ready : Bool := false
  key : List Nat := []
  usage : Nat := 0
  root : Nat := 0
  kgen : Nat := 0
  deriving DecidableEq, Repr
/-- R496, R500: a stream context: OPEN, SMODE, slot, recorded KCV, J0 (the IV for CTR), next counter block, GHASH accumulator, the AAD and
data bytes processed, and OUT_BASE (none before the first data segment of a decrypting context). -/
structure CipherCtx where
  isOpen : Bool := false
  smode : Nat := 0
  slot : Nat := 0
  kcv : List Nat := []
  j0 : Nat := 0
  cb : Nat := 0
  y : Nat := 0
  aadTotal : Nat := 0
  dataTotal : Nat := 0
  outBase : Option Nat := none
  deriving DecidableEq, Repr
/-- R421, R425, R444: where a message of SXU goes: the peer entry, and its key slot, PORTSEL and IPv6 address when the message was made. -/
structure SxTo where
  peer : Nat
  slot : Nat
  portsel : Nat
  ip : Nat
  deriving DecidableEq, Repr
/-- R492: a request in the cipher engine's queued class: a CIPHER command's part, or a message of SXU to be sealed, or one that has arrived
and is to be opened under its peer's slot. -/
inductive CphReq where
  | cmd (j : JobRef) (p : Nat)
  | sxu (ad : SxTo) (m : AMsg)
  | sxuOpen (peer slot : Nat) (m : AMsg)
  deriving DecidableEq, Repr

/-- R425, R426, R429: what SXU keeps of a peer beside its registers: the key epoch its messages were last numbered under and the next SEQ; for each
key epoch of the peer's, the highest SEQ accepted and those accepted within the window; whether an RTT sample has come, and SRTT and
RTTVAR in ns. -/
structure SxPeer where
  txEpoch : Nat := 0
  txSeq : Nat := 0
  rx : List (Nat × Nat × List Nat) := []
  sampled : Bool := false
  srtt : Nat := 0
  rttvar : Nat := 0
  deriving DecidableEq, Repr
/-- R413, R428, R436, R440: an item on its way to a peer: 0 a delta, 1 an accumulated delta, 2 a snapshot; its round, item index and
site-table index; n of R436; the segments (or chunks, planes one after another) still to send; whether all have been sent once, and when DONE was last sent. -/
structure SxOut where
  peer : Nat
  kind : Nat
  round : Nat
  item : Nat
  entry : Nat
  steps : Nat := 0
  todo : List Nat := []
  sentAll : Bool := false
  lastDone : Nat := 0
  deriving DecidableEq, Repr
/-- R427, R428: an item coming from a peer: the segments that have arrived, what DONE said (segments, E, hash, steps), whether it is complete
and since when (site time), whether a merge has included it, and when NACK was last sent. -/
structure SxIn where
  peer : Nat
  kind : Nat
  round : Nat
  item : Nat
  segs : List Nat := []
  done : Option (Nat × Nat × List Byte × Nat) := none
  ok : Bool := false
  at_ : Nat := 0
  used : Bool := false
  lastNack : Nat := 0
  deriving DecidableEq, Repr
/-- R412: a SITE_ROUND that has reached SXU: executing when it is the first. `begun` says that it holds for its time or its peer, `since` when. -/
structure SxRun where
  job : JobRef
  part : Nat
  begun : Bool := false
  since : Nat := 0
  deriving DecidableEq, Repr
/-- R439–R441: a join in progress: as joiner the donor's entry, whether it granted, and the snapshot round; as donor the joiner's entry and r. -/
structure SxJoin where
  peer : Nat
  granted : Bool := false
  round : Nat := 0
  last : Nat := 0
  started : Bool := false
  deriving DecidableEq, Repr

/-- A range of memory whose content is undefined until it is written (R139, R171, R210, R548): its bytes are free values under
the number `n`. -/
structure Undef where
  lo : Nat
  size : Nat
  n : Nat
  deriving DecidableEq, Repr

/-- The framing of an Ethernet message: the port (0 management, 1 ETH0, 2 ETH1), MAC and IPv6 addresses, UDP ports, the hop limit, the DSCP, and
the 802.1Q tag of a tagged frame; none for what the spec gives no value. -/
structure Wire where
  port : Nat
  smac : Nat
  dmac : Option Nat
  sip : Nat
  dip : Nat
  sport : Option Nat
  dport : Nat
  hop : Option Nat
  dscp : Option Nat
  tag : Option Nat
  deriving DecidableEq, Repr

/-- A request that waits to be sent (R328, R334): its packet and maker, and of one that is issued again (R330) its number. -/
structure Due where
  pk : Pkt
  why : Purpose
  again : Option Nat := none
  deriving DecidableEq, Repr

/-- What leaves the module: a codeword sent or resent through a port (number, link control word (R311), flits with their channels), an Acnis or control
message sent, a RoCEv2 request, a PTP or board frame or a line's pulse, an interrupt to a core. -/
inductive Outp where
  | codeword (port seq lcw : Nat) (flits : List (Nat × List Byte))
  | acnis (w : Wire) (m : AMsg)
  | ctrl (w : Wire) (m : CMsg)
  | roce (w : Wire) (win qp rkey : Nat) (write : Bool) (addr len : Nat) (bytes : List Byte)
  | frame (kind : String) (bytes : List Byte)
  | irq (hart : Nat)
  deriving DecidableEq, Repr

/-- R529: an event of a session that has not been acknowledged: its SEQ, its body, and when it was last sent. -/
structure EvtOut where
  seq : DWord
  body : List Byte
  sent : Nat
  deriving DecidableEq, Repr
/-- One control-protocol session (R520–R529): 0 FREE, 1 REPORTED, 2 OPEN; role 0 OBSERVER, 1 OWNER; port 0 management, 1 ETH0,
2 ETH1; the host's address and UDP port; the report sent; the session keys; the last host SEQ executed and the module's next SEQ;
the response stored for a repeat; events sent and not acknowledged, events lost since the last delivery; the
clock at the last valid request; what OPEN asked for. -/
structure Sess where
  st : Nat := 0
  role : Nat := 0
  port : Nat := 0
  addr : Nat := 0
  udp : Nat := 0
  report : List Byte := []
  kIn : List Nat := []
  kOut : List Nat := []
  seqIn : DWord := 0
  seqOut : DWord := 0
  stored : Option CMsg := none
  events : List EvtOut := []
  lost : Nat := 0
  lastReq : Nat := 0
  asked : Nat := 0
  deriving DecidableEq, Repr

/-- R450–R454: the time unit: its state code; successive good PPS edges, whether PPS holds lock, and the last edge; whether PTP is seen and
locked; the path delay, the offset of the source from site time that PTP gives, and since when (and from which value) it has stayed
within 1 µs; whether a first valid time has been set; the offset left to slew and the slew's fraction; the second, in TAI, that the last edge of
a locked PPS began; since when a source has been locked, whether HOLDOVER followed 30 minutes locked, and when it was entered. -/
structure TimeU where
  code : Nat := 0
  ppsRun : Nat := 0
  ppsLocked : Bool := false
  ppsLast : Option Nat := none
  ptpSeen : Bool := false
  ptpLocked : Bool := false
  syncAt : Nat := 0
  syncNs : Nat := 0
  delay : Option Int := none
  ptpOff : Option Int := none
  goodSince : Nat := 0
  goodRef : Int := 0
  stepped : Bool := false
  offset : Int := 0
  acc : Nat := 0
  second : Int := 0
  lockSince : Nat := 0
  longLock : Bool := false
  holdSince : Nat := 0
  deriving DecidableEq, Repr
/-- R461–R470: the governor: the grid profile's grant (W, W/ms up and down) and when a GRANT was last accepted; a held GRANT (its time, W, up,
down); whether the SAFE profile and the battery profile are in force; T_in (1/16 °C) and FLOW (1/100 L/min) in use, and when a COOLANT was
last accepted; T̂ and T_s (1/16 °C), P_tgt (W), the trim (−n/64) and f (n/64); when P_tgt last rose, the end of a ramp start's delay and
whether the delay has passed; whether the issue fraction has denied a vector since the last tick; THERM_LIMIT and THERM_CRIT; the SEQ of the next STATUS frame; and when
the last tick came and the last STATUS frame was sent. -/
structure Gov where
  grant : Option (Nat × Nat × Nat) := none
  grantAt : Nat := 0
  heldGrant : Option (Nat × Nat × Nat × Nat) := none
  safe : Bool := false
  battery : Bool := false
  tIn : Int := 720
  flow : Nat := 100
  coolAt : Nat := 0
  coolLost : Bool := false
  tHat : Rat := 0
  tS : Int := 0
  tgt : Rat := 0
  trim : Nat := 0
  f : Nat := 64
  rose : Option Nat := none
  stagger : Option Nat := none
  go : Bool := false
  denied : Bool := false
  thermLimit : Bool := false
  thermCrit : Bool := false
  seq : Nat := 0
  tickAt : Nat := 0
  sentAt : Nat := 0
  deriving DecidableEq, Repr
/-- R597–R613: levels at the module's inputs: PWRGD high, RESET_N low, GRID_LOSS_N low, the lid loop open, FRU_WP low; whether a supply rail
was last seen outside its window and the reference clock off its frequency (R483); and the test access port's instruction in force (none: BYPASS). -/
structure Pins where
  pwrgd : Bool := true
  resetLow : Bool := false
  gridLow : Bool := false
  lidOpen : Bool := false
  fruWpLow : Bool := true
  railBad : Bool := false
  clockBad : Bool := false
  tap : Option Nat := none
  deriving DecidableEq, Repr

/-- R507, R510: what module flash's bank and owner records and the fuses hold: the active bank (0 A, 1 B), the bank named as pending,
whether the bank booted runs in trial, the bank booted; the owner record (64 bytes; none while it is empty) and the owner's modulus;
the boots since manufacture and the fuse floor. -/
structure RotMem where
  active : Nat := 0
  pending : Option Nat := none
  trial : Bool := false
  booted : Nat := 0
  owner : List Nat := []
  ownerMod : Nat := 0
  boots : Nat := 0
  floor : Nat := 0
  deriving DecidableEq, Repr

/-- R372: the sources of accesses: engines, engine floe and cluster DMA queues, update halves, collective contexts, torus ports, the site
exchange unit, the cipher engine and the control cores. `holder` is a Firn merge, or a re-encoding step that holds a block (R375). -/
inductive MemSource where
  | engine (e : Nat)
  | engDma (e : Nat)
  | cluDma (q : Nat)
  | upd (half : Nat)
  | col (ctx : Nat)
  | port (p : Nat)
  | sxu
  | cph
  | core (h : Nat)
  | holder (block : Nat)
  deriving DecidableEq, Repr
/-- R377: a store bank's sources beside the engines' operand fetch. -/
inductive BankSource where
  | mem (m : MemSource)
  | scrub
  deriving DecidableEq, Repr
/-- R374: the loss counters of the sources that have lost since they were last granted, the promoted sources in the order in which they were promoted,
and the promotions counted. -/
structure Losses (α : Type) where
  counts : List (α × Nat) := []
  promoted : List α := []
  promos : Nat := 0
  deriving DecidableEq, Repr
/-- R373, R374: a channel's arbiter: the class it visits, the grants that class has left in the round, the weights of the round, the source last
granted in each class, the losses, the grants of each class, and whether it has granted since its controller's counts of promotions and of waiting
time were last cleared (R398). -/
structure ChanArb where
  visit : Nat := 0
  left : Nat := 0
  weights : List Nat := []
  last : List (Nat × MemSource) := []
  losses : Losses MemSource := {}
  grants : List Nat := [0, 0, 0, 0, 0, 0, 0]
  promoOpen : Bool := false
  waitOpen : Bool := false
  deriving DecidableEq, Repr
/-- R377: a store bank's arbiter: whether operand fetch took the cycle before, the source last granted, and the losses. -/
structure BankArb where
  fetched : Bool := false
  last : Option BankSource := none
  losses : Losses BankSource := {}
  deriving DecidableEq, Repr

/-- R201, R225, R548: an uncorrectable code word: its base address, whether its cells have failed, and whether the on-die code met it. -/
structure BadWord where
  word : Nat
  cells : Bool
  onDie : Bool
  deriving DecidableEq, Repr

/-- The state of one T9 module. -/
structure State where
  /-- R3: the order code, fixed by fuses. -/
  order : Order
  /-- The model's own count of nanoseconds, by which timeouts are measured (log entry 1). -/
  clock : Nat
  /-- R448: site time, ns. -/
  siteTime : DWord
  /-- The model's own counter of free values (log entry 2). -/
  free : Nat
  /-- The commands that wait, first in first out. -/
  pending : List Instr
  /-- The words last returned to an accessing agent. -/
  resp : List Word
  /-- R10: register words by offset in the register space; an unlisted one holds its reset value. -/
  regs : SMap Word
  /-- R13, R586: shadow copies of words with RWS fields; an unlisted one holds its reset value. -/
  shadow : SMap Word
  /-- R585. -/
  rdLatch : List Latch
  wrLatch : List Latch
  /-- R22: the bytes of HBM, cluster stores and engine stores; an unlisted byte is 0. -/
  mem : List Host.Cell
  /-- Ranges of memory whose content is undefined. -/
  undef : List Undef
  /-- R201, R202, R548: uncorrectable code words. -/
  badWords : List BadWord
  /-- R200: code words, by base address, with a symbol that the next read corrects. -/
  weak : List Nat
  /-- R212, R213: the stored bytes of compressed blocks, by the address of their slot. -/
  stored : SMap (List Byte)
  /-- R373: the arbiters of HBM channels by number (R198), and of store banks (R191, R377): bank b of cluster store c at 64·c + b, of engine store
  e at 768 + 16·e + b. -/
  chans : SMap ChanArb
  banks : SMap BankArb
  /-- R177: queues by their number in R566's order. -/
  queues : SMap Queue
  /-- R174, R618. -/
  jobs : List Job
  /-- R21: engines by global index. -/
  engines : SMap Engine
  /-- R154, R169: kernel parts by hart id of the core. -/
  cores : SMap CoreRun
  /-- R154: every core by hart id. -/
  harts : SMap Hart
  /-- R265: sync counters by index. -/
  counters : SMap Counter
  /-- R289. -/
  waits : List WaitRec
  /-- R286, R288. -/
  rwaits : List RemoteWait
  /-- R382: the refusals that the SYN remembers, the oldest first. -/
  refusals : List Refused
  /-- The next number of a wait or of a request (the model's own). -/
  nextWid : Nat
  /-- R555: the error collector's FIFO, oldest first. -/
  errFifo : List (List Byte)
  /-- R328: reply slots in use. -/
  slots : List Slot
  /-- Packets this module has injected that its router has not yet routed, oldest first (R326). -/
  inj : List Pkt
  /-- Packets routed and not wholly gone on, in the order in which they were routed (R320, R385). -/
  held : List Worm
  /-- R324: the ejection queues: whole packets for this module, oldest first, of all classes. -/
  ejq : List Pkt
  /-- R334: packets of quiesced classes that this module's endpoints hold, oldest first. -/
  hold : List Pkt
  /-- R328, R334: requests that wait for a reply slot or for the end of quiescence, oldest first. -/
  due : List Due
  /-- R312, R323: the link layer of ports 0–7. -/
  links : SMap Link
  /-- R540: resets in progress. -/
  resets : List ResetP
  /-- R332: (SRC, CTAG) of poisoned requests discarded here, with the clock of each. -/
  poisoned : List (Nat × Nat × Nat)
  /-- R516: control-protocol sessions 0–15. -/
  sess : SMap Sess
  /-- R532–R535: host windows 0–63. -/
  hosts : SMap HostWin
  /-- R383: UPD's commands, in the order in which they reached it. -/
  updRuns : List UpdRun
  /-- R247: UPD's valid log entries. -/
  updLog : List LogEntry
  /-- R357: COL's operations, in the order of their dispatch. -/
  colOps : List ColOp
  /-- R359, R361: packets held for operations not yet dispatched. -/
  colHeld : List Pkt
  /-- R347: live engines that members reported, by group entry · 2¹⁸ + member. -/
  gLive : SMap Nat
  /-- R478: roots 1–7 that are loaded, and whether root 0 has been erased. -/
  roots : SMap (List Nat)
  root0Gone : Bool
  /-- R480: key slots 0–63. -/
  keySlots : SMap KeySlot
  /-- R496: stream contexts 0–255. -/
  ctxs : SMap CipherCtx
  /-- R486: whether a root has been loaded or a slot has become READY since the last MODULE or power-on reset. -/
  keysUsed : Bool
  /-- R492: the queued class, in the order of entry; CIPHER commands that wait for an entry; messages of SXU that wait for one. -/
  cphQ : List CphReq
  cphWait : List (JobRef × Nat)
  sxuWait : List CphReq
  /-- R402: what SXU keeps of peers 0–15. -/
  sxPeers : SMap SxPeer
  /-- R412: SITE_ROUND commands at SXU. -/
  sxRuns : List SxRun
  /-- R403: the site-table indices of the list last given by a SEND, MERGE or THAW_EXCH: an item's index is its position. -/
  sxList : List Nat
  /-- R413, R427: items going out and coming in. -/
  sxOut : List SxOut
  sxIn : List SxIn
  /-- Messages accepted and decrypted that have not yet had their effect. -/
  sxRx : List AMsg
  /-- R439, R440: this module as joiner and as donor. -/
  sxJoin : Option SxJoin
  sxServe : Option SxJoin
  /-- R441: the round from which this module takes full part after a join. -/
  sxFrom : Option Nat
  /-- R415: the round whose inclusion set was last fixed, plus 1 (0: none). -/
  sxSetRound : Nat
  /-- R408, R429: rounds opened so far (the last round opened, plus 1), the last periodic probe's time, and the peer that sent the last segment. -/
  sxOpened : Nat
  sxProbed : Nat
  sxTurn : Nat
  /-- R450–R454. -/
  time : TimeU
  /-- R461–R470. -/
  gov : Gov
  /-- R459: TYPE and SEQ of the last frame accepted of each type. -/
  brdLast : List (Nat × Nat)
  /-- R597–R613. -/
  pins : Pins
  /-- R613: the FRU memory's bytes; an unlisted byte is as manufactured. -/
  fru : SMap Byte
  /-- R507: bytes of module flash; an unlisted byte is as manufactured. -/
  flash : SMap Byte
  /-- R507, R510. -/
  rot : RotMem
  /-- R547: OPEN messages that wait in stage BOOT for their answer. -/
  openHeld : List CMsg
  /-- R530: the session that holds the firmware lock. -/
  fwLock : Option Nat
  /-- R514, R515: firmware's copy of the identity key, modulus and private exponent: none until it is unsealed at boot, and once it is overwritten. -/
  idKey : Option (Nat × Nat)
  /-- R506: the body of the image that the ROM has loaded into the management cores' private firmware memory. -/
  fwMem : List Byte
  /-- R548: a power-on reset calls for the zero fill of HBM in stage MEMORY. -/
  fillDue : Bool
  /-- R549: when stage FABRIC was entered, and the modules whose signals of the neighbour check have come since. -/
  fabricAt : Nat
  checkSigs : List Nat
  /-- R447: bytes received of class c at port p beyond whole KiB, by 4·p + c. -/
  ethRem : SMap Nat
  /-- R390: bytes of class c in port p's receive buffer, by 4·p + c; its unit has taken them when a nanosecond has passed. -/
  ethBuf : SMap Nat
  /-- What has left the module, oldest first. -/
  outs : List Outp
  deriving DecidableEq, Repr

/-- The state right after a power-on reset (R539, R543). -/
def State.reset : State where
  order := .x384
  clock := 0
  siteTime := 0
  free := 0
  pending := []
  resp := []
  regs := []
  shadow := []
  rdLatch := []
  wrLatch := []
  mem := []
  undef := []
  badWords := []
  weak := []
  stored := []
  chans := []
  banks := []
  queues := []
  jobs := []
  engines := []
  cores := []
  harts := [(109, { held := true })]
  counters := []
  waits := []
  rwaits := []
  refusals := []
  nextWid := 0
  errFifo := []
  slots := []
  inj := []
  held := []
  ejq := []
  hold := []
  due := []
  links := []
  resets := []
  poisoned := []
  sess := []
  hosts := []
  updRuns := []
  updLog := []
  colOps := []
  colHeld := []
  gLive := []
  roots := []
  root0Gone := false
  keySlots := []
  ctxs := []
  keysUsed := false
  cphQ := []
  cphWait := []
  sxuWait := []
  sxPeers := []
  sxRuns := []
  sxList := []
  sxOut := []
  sxIn := []
  sxRx := []
  sxJoin := none
  sxServe := none
  sxFrom := none
  sxSetRound := 0
  sxOpened := 0
  sxProbed := 0
  sxTurn := 0
  time := {}
  gov := {}
  brdLast := []
  pins := {}
  fru := []
  flash := []
  rot := {}
  openHeld := []
  fwLock := none
  idKey := none
  fwMem := []
  fillDue := true
  fabricAt := 0
  checkSigs := []
  ethRem := []
  ethBuf := []
  outs := []

end Sys2Proof.Machine
end

