-- ==== Sys2Proof/Machine/Ops.lean ====
section
/-! DEFINITION. Shared operations: sparse maps, bit fields, bytes of memory, register words, windows of the register space. -/

namespace Sys2Proof.Machine

/-! ### Sparse maps -/

/-- The value at a key; `d` gives the value of an unlisted key. -/
def smGet {α : Type} (d : Nat → α) : SMap α → Nat → α
  | [], k => d k
  | (k', v) :: r, k => if k = k' then v else smGet d r k

/-- A pair put in before the first larger key. -/
def smPut {α : Type} (k : Nat) (v : α) : SMap α → SMap α
  | [] => [(k, v)]
  | (k', v') :: r => if k < k' then (k, v) :: (k', v') :: r else (k', v') :: smPut k v r

def smDel {α : Type} (m : SMap α) (k : Nat) : SMap α := m.filter (fun p => p.1 != k)

/-- The map with `v` at `k`: the canonical form lists no default value. -/
def smSet {α : Type} [DecidableEq α] (d : Nat → α) (m : SMap α) (k : Nat) (v : α) : SMap α :=
  if v = d k then smDel m k else smPut k v (smDel m k)

/-- Every value listed changed; one that becomes the default is no longer listed. -/
def smMap {α : Type} [DecidableEq α] (d : Nat → α) (m : SMap α) (f : α → α) : SMap α :=
  (m.map (fun p => (p.1, f p.2))).filter (fun p => decide (p.2 ≠ d p.1))

/-- The canonical form: keys strictly rising, no default value listed. -/
def smSorted {α : Type} : SMap α → Bool
  | [] => true
  | (k, _) :: r => r.all (fun p => decide (k < p.1)) && smSorted r
def smWf {α : Type} [DecidableEq α] (d : Nat → α) (m : SMap α) : Bool :=
  smSorted m && m.all (fun p => decide (p.2 ≠ d p.1))

/-! ### Bits and bytes -/

/-- Bits hi..lo of a number. -/
def nbits (x hi lo : Nat) : Nat := x / 2 ^ lo % 2 ^ (hi + 1 - lo)
def nbit (x i : Nat) : Bool := x / 2 ^ i % 2 == 1
/-- A number with bits hi..lo replaced. -/
def nput (x hi lo v : Nat) : Nat :=
  x / 2 ^ (hi + 1) * 2 ^ (hi + 1) + v % 2 ^ (hi + 1 - lo) * 2 ^ lo + x % 2 ^ lo
def wbits (w : Word) (hi lo : Nat) : Nat := nbits w.toNat hi lo
def wbit (w : Word) (i : Nat) : Bool := nbit w.toNat i
def wput (w : Word) (hi lo v : Nat) : Word := BitVec.ofNat 32 (nput w.toNat hi lo v)
def w32 (n : Nat) : Word := BitVec.ofNat 32 n
def w64 (n : Nat) : DWord := BitVec.ofNat 64 n
def b2n (b : Bool) : Nat := if b then 1 else 0

/-- Little-endian number at offset o of n bytes (R10). -/
def leAt (b : List Byte) (o n : Nat) : Nat := bytesLe ((b.drop o).take n)
where bytesLe : List Byte → Nat
  | [] => 0
  | x :: r => x.toNat + 256 * bytesLe r
def leBytes (v : Nat) : Nat → List Byte
  | 0 => []
  | n + 1 => BitVec.ofNat 8 v :: leBytes (v / 256) n
def le32 (v : Nat) : List Byte := leBytes v 4
def le64 (v : Nat) : List Byte := leBytes v 8
def zeroBytes (n : Nat) : List Byte := List.replicate n 0
/-- Bytes cut or padded with zeros to length n. -/
def fitBytes (b : List Byte) (n : Nat) : List Byte := (b ++ zeroBytes n).take n
def cdiv (a b : Nat) : Nat := (a + b - 1) / b
/-- R617: the next multiple of 256. -/
def up256 (a : Nat) : Nat := cdiv a 256 * 256

/-! ### Memory -/

/-- A byte no write has listed reads 0 (log entry 5). -/
def memDefault (_ : Nat) : Byte := 0
def memByte (m : List Host.Cell) (a : Nat) : Byte := smGet memDefault m a
def memPutByte (m : List Host.Cell) (a : Nat) (v : Byte) : List Host.Cell := smSet memDefault m a v
/-- The canonical form of memory. -/
def Memory.wf (m : List Host.Cell) : Bool := smWf memDefault m

/-- Whether a range of undefined content holds an address. -/
def Undef.has (z : Undef) (a : Nat) : Bool := decide (z.lo ≤ a ∧ a < z.lo + z.size)
/-- What is left of an undefined range when n bytes at a are written. -/
def Undef.cut (a n : Nat) (z : Undef) : List Undef :=
  if n = 0 ∨ z.lo + z.size ≤ a ∨ a + n ≤ z.lo then [z]
  else
    (if z.lo < a then [⟨z.lo, a - z.lo, z.n⟩] else []) ++
      (if a + n < z.lo + z.size then [⟨a + n, z.lo + z.size - (a + n), z.n⟩] else [])
/-- A byte of memory: what was last written, or a free value where the content is undefined. -/
def rdByte (s : State) (a : Nat) : Byte :=
  match s.undef.find? (fun z => z.has a) with
  | some z => Config.freeByte z.n a
  | none => memByte s.mem a
def rdBytes (s : State) (a n : Nat) : List Byte := (List.range n).map (fun i => rdByte s (a + i))
def rd16 (s : State) (a : Nat) : Nat := leAt (rdBytes s a 2) 0 2
def rd32 (s : State) (a : Nat) : Nat := leAt (rdBytes s a 4) 0 4
def rd64 (s : State) (a : Nat) : Nat := leAt (rdBytes s a 8) 0 8
def memPutBytes : List Host.Cell → Nat → List Byte → List Host.Cell
  | m, _, [] => m
  | m, a, b :: r => memPutBytes (memPutByte m a b) (a + 1) r
/-- Bytes written as they stand, without the effects of a Firn window or a bad code word. -/
def putBytes (s : State) (a : Nat) (b : List Byte) : State := { s with mem := memPutBytes s.mem a b, undef := s.undef.flatMap (Undef.cut a b.length) }
/-- The content of a range becomes undefined. -/
def makeUndef (s : State) (a n : Nat) : State :=
  if n = 0 then s
  else
    { s with mem := s.mem.filter (fun c => !decide (a ≤ c.1 ∧ c.1 < a + n)), undef := s.undef.flatMap (Undef.cut a n) ++ [⟨a, n, s.free⟩],
             free := s.free + 1 }

/-- R3: installed HBM in bytes. -/
def hbmSize (o : Order) : Nat := match o with | .x192 => 192 * 2 ^ 30 | _ => 384 * 2 ^ 30
def hbmGib (o : Order) : Nat := match o with | .x192 => 192 | _ => 384
/-- R22's bases. -/
def cstoreBase : Nat := 0x10000000000
def estoreBase : Nat := 0x10100000000
def regBase : Nat := 0x10200000000
def cstoreSize : Nat := 0x1000000
def estoreSize : Nat := 0x200000

def inHbm (o : Order) (a : Nat) : Bool := decide (a < hbmSize o)
def inCstore (a : Nat) : Bool := decide (cstoreBase ≤ a ∧ a < cstoreBase + 12 * cstoreSize)
def inEstore (a : Nat) : Bool := decide (estoreBase ≤ a ∧ a < estoreBase + 96 * estoreSize)
/-- R22, R23, R574: an address a command may name. -/
def mapped (o : Order) (a : Nat) : Bool := inHbm o a || inCstore a || inEstore a
/-- R22, R23: a range, from its first byte to its last (a range of no bytes is checked as its first byte, R14). -/
def rangeMapped (o : Order) (a n : Nat) : Bool :=
  let last := a + (n - 1)
  (inHbm o a && inHbm o last) || (inCstore a && inCstore last) || (inEstore a && inEstore last)

/-- R200: the code word that holds an address: 32 bytes in HBM, 8 in a store. -/
def codeWord (o : Order) (a : Nat) : Nat := if inHbm o a then a / 32 * 32 else a / 8 * 8
def codeWordSize (o : Order) (a : Nat) : Nat := if inHbm o a then 32 else 8
/-- Whether two ranges share a byte. -/
def meets (a n b m : Nat) : Bool := decide (0 < n ∧ 0 < m ∧ b < a + n ∧ a < b + m)
/-- Whether the range of n bytes at a covers the whole code word at w. -/
def coversWord (s : State) (a n w : Nat) : Bool := decide (a ≤ w ∧ w + codeWordSize s.order w ≤ a + n)
/-- R202: a write that covers a whole word cures it, unless its cells have failed (R548). -/
def cureWords (s : State) (a n : Nat) : State :=
  { s with badWords := s.badWords.filter (fun p => p.cells || !coversWord s a n p.word), weak := s.weak.filter (fun w => !coversWord s a n w) }

/-! ### Windows and registers -/

/-- R572's block types. -/
inductive Blk where
  | glb | tpm | tpw | cph | sxu | upd | syn | mbx | tfp | tfr | col | mem | clu | eng | eth
  deriving DecidableEq, Repr

/-- R572: the block of a window and its instance. -/
def winBlk (w : Nat) : Option (Blk × Nat) :=
  if w = 0 then some (.glb, 0) else if w = 1 then some (.tpm, 0) else if w = 2 then some (.tpw, 0)
  else if w = 3 then some (.cph, 0) else if w = 4 then some (.sxu, 0) else if w = 5 then some (.upd, 0)
  else if w = 6 then some (.syn, 0) else if w = 7 then some (.mbx, 0)
  else if w < 0x10 then some (.tfp, w - 8) else if w = 0x10 then some (.tfr, 0) else if w = 0x11 then some (.col, 0)
  else if 0x20 ≤ w ∧ w < 0x28 then some (.mem, w - 0x20)
  else if 0x30 ≤ w ∧ w < 0x3C then some (.clu, w - 0x30)
  else if 0x40 ≤ w ∧ w < 0xA0 then some (.eng, w - 0x40)
  else if w = 0xA0 ∨ w = 0xA1 then some (.eth, w - 0xA0) else none

/-- R3, R4: whether the window's block is on this order code. -/
def winPresent (o : Order) (w : Nat) : Bool :=
  match winBlk w with
  | none => false
  | some (b, i) =>
    match o, b with
    | .l384, .cph => false
    | .l384, .sxu => false
    | .x192, .mem => decide (i < 4)
    | _, _ => true

def blkType (b : Blk) : Nat :=
  match b with
  | .glb => 1 | .tpm => 2 | .tpw => 3 | .cph => 4 | .sxu => 5 | .upd => 6 | .syn => 7 | .mbx => 8 | .tfp => 9
  | .tfr => 0xA | .col => 0xB | .mem => 0xC | .clu => 0xD | .eng => 0xE | .eth => 0xF
/-- R590's BLK_CAP0.PAGES. -/
def blkPages (b : Blk) : Nat :=
  match b with
  | .glb | .tpm | .tpw | .cph | .eth | .mem => 4
  | .sxu | .mbx | .tfr | .col => 3
  | .syn | .tfp => 2
  | .upd => 1
  | .clu => 5
  | .eng => 6
def blkOptional (b : Blk) : Bool := match b with | .cph | .sxu | .mem => true | _ => false
def blkShadow (b : Blk) : Bool := match b with | .glb | .mbx | .clu => false | _ => true
def blkRegs (b : Blk) : List RegDef :=
  match b with
  | .glb => regsGlb | .tpm => regsTpm | .tpw => regsTpw | .cph => regsCph | .sxu => regsSxu | .upd => regsUpd
  | .syn => regsSyn | .mbx => regsMbx | .tfp => regsTfp | .tfr => regsTfr | .col => regsCol | .mem => regsMem
  | .clu => regsSto | .eng => regsEng ++ regsSto | .eth => regsEth

def offWin (off : Nat) : Nat := off / 65536
def offIn (off : Nat) : Nat := off % 65536
/-- A register of window w. -/
def wreg (w off : Nat) : Nat := w * 65536 + off
def winGlb : Nat := 0
def winTpm : Nat := 1
def winTpw : Nat := 2
def winCph : Nat := 3
def winSxu : Nat := 4
def winUpd : Nat := 5
def winSyn : Nat := 6
def winMbx : Nat := 7
def winTfp (p : Nat) : Nat := 8 + p
def winTfr : Nat := 0x10
def winCol : Nat := 0x11
def winMem (k : Nat) : Nat := 0x20 + k
def winClu (c : Nat) : Nat := 0x30 + c
def winEng (e : Nat) : Nat := 0x40 + e
def winEth (p : Nat) : Nat := 0xA0 + p

def RegDef.covers (d : RegDef) (o : Nat) : Bool :=
  d.off == o || (decide (d.off ≤ o) && d.stride != 0 && (o - d.off) % d.stride == 0 && decide ((o - d.off) / d.stride < d.cnt))

/-- The register's fields at an offset of the register space. Page 2 of MEM 1–7 is reserved (R224). -/
def fieldsAt (off : Nat) : List Fld :=
  match winBlk (offWin off) with
  | none => []
  | some (b, i) =>
    let o := offIn off
    if b = .mem ∧ 0 < i ∧ o / 4096 = 2 then []
    else
      match (regsHead ++ blkRegs b).find? (fun d => d.covers o) with
      | some d => d.flds
      | none => []

def fldsReset (fs : List Fld) : Nat := fs.foldl (fun a f => nput a f.hi f.lo f.rst) 0
/-- R298: the receiver a mailbox has at reset. -/
def mbxRecvReset (n : Nat) : Nat := if n < 16 then 109 else if n < 32 then 112 else 0
/-- The value a register holds at reset. -/
def regReset (off : Nat) : Word :=
  let base := w32 (fldsReset (fieldsAt off))
  if offWin off = winMbx ∧ 0x1000 ≤ offIn off ∧ offIn off < 0x1800 ∧ offIn off % 32 = 12 then
    w32 (0x80 + mbxRecvReset ((offIn off - 0x1000) / 32))
  else base

def rget (s : State) (off : Nat) : Word := smGet regReset s.regs off
def rput (s : State) (off : Nat) (v : Word) : State := { s with regs := smSet regReset s.regs off v }
def rn (s : State) (off : Nat) : Nat := (rget s off).toNat
def rputN (s : State) (off v : Nat) : State := rput s off (w32 v)
/-- A field of a register. -/
def rfld (s : State) (off hi lo : Nat) : Nat := wbits (rget s off) hi lo
def rbit (s : State) (off i : Nat) : Bool := wbit (rget s off) i
def rputF (s : State) (off hi lo v : Nat) : State := rput s off (wput (rget s off) hi lo v)
def rputBit (s : State) (off i : Nat) (b : Bool) : State := rputF s off i i (b2n b)
def shGet (s : State) (off : Nat) : Word := smGet regReset s.shadow off
def shPut (s : State) (off : Nat) (v : Word) : State := { s with shadow := smSet regReset s.shadow off v }
/-- A saturating statistic raised by n (R584). -/
def rinc (s : State) (off n : Nat) : State := rputN s off (min 0xFFFFFFFF (rn s off + n))
/-- A 64-bit pair (R11). -/
def rn64 (s : State) (off : Nat) : Nat := rn s off + 4294967296 * rn s (off + 4)
def rput64 (s : State) (off v : Nat) : State := rputN (rputN s off (v % 4294967296)) (off + 4) (v / 4294967296 % 4294967296)
def rinc64 (s : State) (off n : Nat) : State := rput64 s off (rn64 s off + n)

/-- R586: whether a commit of a window is pending. -/
def commitPending (s : State) (w : Nat) : Bool := rfld s (wreg w 0x1C) 3 0 == 1

/-- One more free value taken. -/
def takeFree (s : State) : Nat × State := (s.free, { s with free := s.free + 1 })
def emit (s : State) (o : Outp) : State := { s with outs := s.outs ++ [o] }
/-- The outcome of every command of this block: a next state. -/
def ok (s : State) : Host.Outcome State Fault Refusal := .next s
def siteNow (s : State) : Nat := s.siteTime.toNat
/-- R453: TIME_BOUND, ns: in HOLDOVER the bound E(t). -/
def timeBound (s : State) : Nat :=
  let x := s.time
  if x.code = 2 then 20 else if x.code = 3 then 100
  else if x.code = 4 then
    let t := s.clock - x.holdSince
    min 0xFFFFFFFF (if x.longLock then (50 * 10 ^ 25 + 5 * t * 10 ^ 16 + 29 * t * t) / 10 ^ 25 else (50 * 10 ^ 9 + 200 * t) / 10 ^ 9)
  else 0xFFFFFFFF
/-- TIME_HOLD_LIMIT in ns. -/
def holdLimit (s : State) : Nat := rn s 0x21014 * 1000
/-- R452, R454: whether site time is valid. -/
def timeValid (s : State) : Bool :=
  let x := s.time
  (x.code == 2 || x.code == 3 || (x.code == 4 && decide (timeBound s ≤ holdLimit s))) && decide (x.offset.natAbs ≤ holdLimit s)
/-- An IPv6 address held in four words, the first byte in bits 31:24 of the first. -/
def ip6At (s : State) (off : Nat) : Nat := rn s off * 2 ^ 96 + rn s (off + 4) * 2 ^ 64 + rn s (off + 8) * 2 ^ 32 + rn s (off + 12)
/-- A MAC address held in a _LO and a _HI word. -/
def macAt (s : State) (lo : Nat) : Nat := rn s lo + rn s (lo + 4) % 65536 * 2 ^ 32
/-- µs to the model's clock units. -/
def us (n : Nat) : Nat := n * 1000

/-! ### The latches of 64-bit pairs (R585) -/

def latchOf (ls : List Latch) (owner w off : Nat) : Option Word :=
  (ls.find? (fun l => l.owner == owner && l.win == w && l.off == off)).map (·.held)
/-- An agent's latches of a window emptied. -/
def latchDrop (ls : List Latch) (owner w : Nat) : List Latch := ls.filter (fun l => !(l.owner == owner && l.win == w))
def latchSet (ls : List Latch) (owner w off : Nat) (v : Word) : List Latch := latchDrop ls owner w ++ [⟨owner, w, off, v⟩]

/-! ### Typed stores -/

def queueDefault (_ : Nat) : Queue := {}
def getQ (s : State) (q : Nat) : Queue := smGet queueDefault s.queues q
def putQ (s : State) (q : Nat) (v : Queue) : State := { s with queues := smSet queueDefault s.queues q v }
def engineDefault (_ : Nat) : Engine := {}
def getE (s : State) (e : Nat) : Engine := smGet engineDefault s.engines e
def putE (s : State) (e : Nat) (v : Engine) : State := { s with engines := smSet engineDefault s.engines e v }
def hartDefault (_ : Nat) : Hart := {}
def getHart (s : State) (h : Nat) : Hart := smGet hartDefault s.harts h
def putHart (s : State) (h : Nat) (x : Hart) : State := { s with harts := smSet hartDefault s.harts h x }
/-- R506: whether an agent is the management core that firmware has not released from reset. -/
def hartHeld (s : State) (owner : Nat) : Bool := owner == 110 && (getHart s 109).held
/-- What an agent does: a core held in reset makes no access. -/
def byAgent (s : State) (owner : Nat) (t : State) : State := if hartHeld s owner then s else t
def counterDefault (_ : Nat) : Counter := {}
def getC (s : State) (c : Nat) : Counter := smGet counterDefault s.counters c
def putC (s : State) (c : Nat) (v : Counter) : State := { s with counters := smSet counterDefault s.counters c v }
def getJob (s : State) (j : JobRef) : Option Job := s.jobs.find? (fun x => x.ref == j)
def putJob (s : State) (j : Job) : State := { s with jobs := s.jobs.map (fun x => if x.ref = j.ref then j else x) }
def dropJob (s : State) (j : JobRef) : State := { s with jobs := s.jobs.filter (fun x => x.ref != j) }
def getPart (j : Job) (p : Nat) : Option Part := j.parts[p]?
def setPart (j : Job) (p : Nat) (v : Part) : Job := { j with parts := j.parts.set p v }

end Sys2Proof.Machine
end

