-- ==== Sys2Proof/Machine/Approx.lean ====
section
/-! DEFINITION. The functions of R124 and R127 to far more than F32's precision, in fixed point, and an F32 result within 2 ulp of the exact one (R125). -/

namespace Sys2Proof.Machine

/-! ### Fixed point: an integer n stands for n · 2^(−fxBits) -/

/-- Fraction bits. F32's smallest magnitude is 2^(−149): a result that rounds to an F32 other than 0 keeps over 1,000 significant bits. -/
def fxBits : Nat := 1280
def fxOne : Int := 2 ^ fxBits
def fxMul (a b : Int) : Int := a * b / fxOne
def fxDiv (a b : Int) : Int := a * fxOne / b
/-- A dyadic number as fixed point. -/
def fxOf (v : FV) : Int :=
  match v with
  | .fin neg m e =>
    let x : Int := if 0 ≤ e + fxBits then (m : Int) * 2 ^ (e + fxBits).toNat else (m : Int) / 2 ^ (-(e + fxBits)).toNat
    if neg then -x else x
  | _ => 0
/-- Fixed point as a value. -/
def fxVal (x : Int) : FV := .fin (decide (x < 0)) x.natAbs (-(fxBits : Int))
def fxSqrt (x : Int) : Int := (isqrt (x.toNat * 2 ^ fxBits) : Nat)
/-- A series: each term is the last times `a` over an integer, with its divisor. -/
def fxSeries (step : Int → Nat → Int) (weight : Int → Nat → Int) : Nat → Nat → Int → Int
  | 0, _, _ => 0
  | n + 1, k, t => weight t k + fxSeries step weight n (k + 1) (step t k)
/-- e^(−y) for y ≥ 0: (e^(−y / 2^10))^(2^10). -/
def fxExpNeg (y : Int) : Int :=
  if 800 * fxOne < y then 0
  else
    let r := y / 1024
    let t := fxSeries (fun t k => -(fxMul t r) / ((k : Int) + 1)) (fun t _ => t) 320 0 fxOne
    (List.range 10).foldl (fun x _ => fxMul x x) t
/-- atan(1/n) and π by Machin's formula. -/
def fxAtanInv (n : Nat) : Int :=
  fxSeries (fun t _ => -t / ((n : Int) * n)) (fun t k => t / (2 * (k : Int) + 1)) 900 0 (fxOne / (n : Int))
def fxPi : Int := 4 * (4 * fxAtanInv 5 - fxAtanInv 239)
/-- ln(1 + y) for 0 ≤ y ≤ 1, as 2 · artanh(y / (2 + y)). -/
def fxLog1p (y : Int) : Int :=
  let w := fxDiv y (2 * fxOne + y)
  2 * fxSeries (fun t _ => fxMul (fxMul t w) w) (fun t k => t / (2 * (k : Int) + 1)) 900 0 w
/-- σ(z). -/
def fxSigma (z : Int) : Int :=
  if z < 0 then (let e := fxExpNeg (-z); fxDiv e (fxOne + e)) else fxDiv fxOne (fxOne + fxExpNeg z)
/-- φ(z) and Φ(z): Φ(z) = 1/2 + φ(z) · Σ z^(2k+1) / (1·3·5⋯(2k+1)). Beyond 20 its tail is below every F32 magnitude. -/
def fxPhi (z : Int) : Int := fxDiv (fxExpNeg (fxMul z z / 2)) (fxSqrt (2 * fxPi))
def fxCdf (z : Int) : Int :=
  if 20 * fxOne < z then fxOne
  else if z < -(20 * fxOne) then 0
  else
    let z2 := fxMul z z
    fxOne / 2 + fxMul (fxPhi z) (fxSeries (fun t k => fxMul t z2 / (2 * (k : Int) + 3)) (fun t _ => t) 2400 0 z)

/-! ### R124's functions -/

/-- c = √(2/π), and u = c · (z + 0.044715 · z³). -/
def fxC : Int := fxSqrt (fxDiv (2 * fxOne) fxPi)
def fxU (z : Int) : Int := fxMul fxC (z + fxMul (fxMul z z) z * 44715 / 1000000)
/-- f(z) of codes 3 to 8. tanh u = 2·σ(2u) − 1. -/
def fxAct (code : Nat) (z : Int) : Int :=
  if code = 3 then fxMul z (fxSigma (2 * fxU z))
  else if code = 4 then fxMul z (fxCdf z)
  else if code = 5 then fxMul z (fxSigma z)
  else if code = 6 then fxSigma z
  else if code = 7 then (let e := fxExpNeg (2 * |z|); let t := fxDiv (fxOne - e) (fxOne + e); if z < 0 then -t else t)
  else max z 0 + fxLog1p (fxExpNeg |z|)
/-- f′(z) of codes 3 to 8. -/
def fxDer (code : Nat) (z : Int) : Int :=
  if code = 3 then
    let g := fxSigma (2 * fxU z)
    g + fxMul (fxMul (fxMul (2 * z) (fxMul g (fxSigma (-(2 * fxU z))))) fxC) (fxOne + fxMul z z * 134145 / 1000000)
  else if code = 4 then fxCdf z + fxMul z (fxPhi z)
  else if code = 5 then fxMul (fxSigma z) (fxOne + fxMul z (fxSigma (-z)))
  else if code = 6 then fxMul (fxSigma z) (fxSigma (-z))
  else if code = 7 then 4 * fxMul (fxSigma (2 * z)) (fxSigma (-(2 * z)))
  else fxSigma z
/-- f′ from a, of codes 6 and 7. -/
def fxDerA (code : Nat) (a : Int) : Int := if code = 6 then fxMul a (fxOne - a) else fxOne - fxMul a a

/-! ### Within 2 ulp (R125) -/

/-- The F32 code k steps away, in the order of the numbers. DESIGN CHOICE (log entry 83): where R125 leaves a zero of either sign, the result is +0. -/
def f32Step (c : Word) (k : Int) : Word :=
  let pos : Int := if c.msb then -((c.toNat - 2 ^ 31 : Nat) : Int) else c.toNat
  let q := pos + k
  if q < 0 then w32 (2 ^ 31 + q.natAbs) else w32 q.natAbs
/-- The unit in the last place of F32 at an exact value, in fixed point. -/
def fxUlp (x : Int) : Int :=
  let e : Int := if x = 0 then -126 else max (-126) ((Nat.log2 x.natAbs : Int) - fxBits)
  2 ^ (e - 23 + fxBits).toNat
/-- R125: an F32 within 2 ulp of the exact value; which of them is the same for the same function and input, and not stated (a free
value). -/
def within2Ulp (fn : Nat) (inp : Word) (x : Int) : Word :=
  let r := f32Of (fxVal x)
  let near := ([0, 1, -1, 2, -2].map (f32Step r)).filter (fun c =>
    match f32v c with
    | .fin n m e => decide (|fxOf (.fin n m e) - x| ≤ 2 * fxUlp x)
    | _ => false)
  (near[Config.ulpPick fn inp % near.length]?).getD r
def fxInput (w : Word) : Int := fxOf (f32v w)
def actApprox (code : Nat) (z : Word) : Word := within2Ulp code z (fxAct code (fxInput z))
def derApprox (code : Nat) (z : Word) : Word := within2Ulp (16 + code) z (fxDer code (fxInput z))
def derAApprox (code : Nat) (a : Word) : Word := within2Ulp (32 + code) a (fxDerA code (fxInput a))
/-- R127: e^u of a u that is not above 0. -/
def expApprox (u : Word) : Word := within2Ulp 48 u (fxExpNeg (-(fxInput u)))

end Sys2Proof.Machine
end

