-- ==== Sys2Proof/Machine/Crypto.lean ====
section
/-! DEFINITION. The published algorithms that the spec names: AES-256 (one block, counter and Galois/counter mode, CMAC), SHA-512, CRC-32, and RSA with the PSS and OAEP encodings over SHA-512 (R359, R424, R476, R482, R509, R523). Byte strings are lists of numbers below 256. -/

namespace Sys2Proof.Machine

/-- The substitution table of AES, entry i in bits 8i+7..8i. -/
def aesSboxTable : Nat := 0x16bb54b00f2d99416842e6bf0d89a18cdf2855cee9871e9b948ed9691198f8e19e1dc186b95735610ef6034866b53e708a8bbd4b1f74dde8c6b4a61c2e2578ba08ae7a65eaf4566ca94ed58d6d37c8e779e4959162acd3c25c2406490a3a32e0db0b5ede14b8ee4688902a22dc4f816073195d643d7ea7c41744975fec130ccdd2f3ff1021dab6bcf5389d928f40a351a89f3c507f02f94585334d43fbaaefd0cf584c4a39becb6a5bb1fc20ed00d153842fe329b3d63b52a05a6e1b1a2c830975b227ebe28012079a059618c323c7041531d871f1e5a534ccf73f362693fdb7c072a49cafa2d4adf04759fa7dc982ca76abd7fe2b670130c56f6bf27b777c63
def aesSub (x : Nat) : Nat := aesSboxTable / 2 ^ (8 * x) % 256
def aesXtime (x : Nat) : Nat := if x < 128 then 2 * x else (2 * x) ^^^ 0x11B
def bxor (a b : List Nat) : List Nat := List.zipWith (· ^^^ ·) a b

/-- The expanded key of AES-256: 60 words of 4 bytes, newest first while it grows. -/
def aesExpandFrom : Nat → Nat → Nat → List (List Nat) → List (List Nat)
  | 0, _, _, ws => ws
  | n + 1, i, rcon, ws =>
    let prev := ws.headD []
    let back := (ws[7]?).getD []
    let t :=
      if i % 8 = 0 then
        let r := (prev.drop 1 ++ prev.take 1).map aesSub
        (r.headD 0 ^^^ rcon) :: r.drop 1
      else if i % 8 = 4 then prev.map aesSub
      else prev
    aesExpandFrom n (i + 1) (if i % 8 = 0 then aesXtime rcon else rcon) (bxor back t :: ws)

def chunksOf (k : Nat) : Nat → List Nat → List (List Nat)
  | 0, _ => []
  | n + 1, l => l.take k :: chunksOf k n (l.drop k)

/-- Round keys 0–14, 16 bytes each. -/
def aesKeys (key : List Nat) : List (List Nat) :=
  chunksOf 16 15 ((aesExpandFrom 52 8 1 (chunksOf 4 8 key).reverse).reverse.flatten)

/-- ShiftRows on a column-major block. -/
def aesShift (b : List Nat) : List Nat :=
  [0, 5, 10, 15, 4, 9, 14, 3, 8, 13, 2, 7, 12, 1, 6, 11].map (fun i => (b[i]?).getD 0)
def aesMixCol (c : List Nat) : List Nat :=
  match c with
  | [a, b, d, e] =>
    let t := a ^^^ b ^^^ d ^^^ e
    [a ^^^ t ^^^ aesXtime (a ^^^ b), b ^^^ t ^^^ aesXtime (b ^^^ d), d ^^^ t ^^^ aesXtime (d ^^^ e), e ^^^ t ^^^ aesXtime (e ^^^ a)]
  | _ => c
def aesMix (b : List Nat) : List Nat := (chunksOf 4 4 b).flatMap aesMixCol

def aesRounds : List (List Nat) → List Nat → List Nat
  | [], b => b
  | [k], b => bxor (aesShift (b.map aesSub)) k
  | k :: ks, b => aesRounds ks (bxor (aesMix (aesShift (b.map aesSub))) k)

/-- AES-256 encryption of one 16-byte block. -/
def aesEncrypt (key block : List Nat) : List Nat :=
  match aesKeys key with
  | k0 :: ks => aesRounds ks (bxor block k0)
  | [] => block

/-- Big-endian numbers. -/
def beNat (b : List Nat) : Nat := b.foldl (fun a x => a * 256 + x) 0
def beBytes (v n : Nat) : List Nat := (List.range n).map (fun i => v / 256 ^ (n - 1 - i) % 256)

/-- A block count of a byte string, with the last block short. -/
def blocks16 (n : Nat) : Nat := (n + 15) / 16
def pad16 (b : List Nat) : List Nat := (b ++ List.replicate 15 0).take (blocks16 b.length * 16)

/-- Counter mode from a first counter block: the low 32 bits count (GCM) or all 128 (`wide`). -/
def aesCtrFrom (wide : Bool) (key : List Nat) : Nat → Nat → List Nat → List Nat
  | 0, _, _ => []
  | n + 1, c, data =>
    let ks := aesEncrypt key (beBytes c 16)
    let c' := if wide then (c + 1) % 2 ^ 128 else c / 2 ^ 32 * 2 ^ 32 + (c + 1) % 2 ^ 32
    bxor (data.take 16) ks ++ aesCtrFrom wide key n c' (data.drop 16)
def aesCtr (wide : Bool) (key : List Nat) (c : Nat) (data : List Nat) : List Nat :=
  aesCtrFrom wide key (blocks16 data.length) c data

/-- Multiplication in GF(2^128) with GCM's bit order (bit 127 of the number is the first). -/
def ghashMulFrom : Nat → Nat → Nat → Nat → Nat
  | 0, _, _, z => z
  | n + 1, x, v, z =>
    let z' := if x / 2 ^ n % 2 = 1 then z ^^^ v else z
    let v' := if v % 2 = 1 then (v / 2) ^^^ (0xE1 * 2 ^ 120) else v / 2
    ghashMulFrom n x v' z'
def ghashMul (x y : Nat) : Nat := ghashMulFrom 128 x y 0
def ghashFrom (h : Nat) : Nat → Nat → List Nat → Nat
  | 0, y, _ => y
  | n + 1, y, b => ghashFrom h n (ghashMul (y ^^^ beNat (b.take 16)) h) (b.drop 16)
/-- GHASH continued from y over whole blocks. -/
def ghash (h y : Nat) (b : List Nat) : Nat := ghashFrom h (blocks16 b.length) y (pad16 b)
def gcmH (key : List Nat) : Nat := beNat (aesEncrypt key (List.replicate 16 0))
/-- J0 of a 96-bit IV. -/
def gcmJ0 (iv : List Nat) : Nat := beNat iv * 2 ^ 32 + 1
def gcmTag (key iv aad ct : List Nat) : List Nat :=
  let h := gcmH key
  let y := ghash h (ghash h 0 aad) ct
  let y := ghashMul (y ^^^ (aad.length * 8 * 2 ^ 64 + ct.length * 8)) h
  bxor (beBytes y 16) (aesEncrypt key (beBytes (gcmJ0 iv) 16))
/-- AES-256-GCM: ciphertext and 16-byte tag. -/
def gcmSealBytes (key iv aad pt : List Nat) : List Nat × List Nat :=
  let ct := aesCtr false key (gcmJ0 iv + 1) pt
  (ct, gcmTag key iv aad ct)
/-- The plaintext, where the tag is right. -/
def gcmOpenBytes (key iv aad ct tag : List Nat) : Option (List Nat) :=
  if gcmTag key iv aad ct = tag then some (aesCtr false key (gcmJ0 iv + 1) ct) else none

/-- CMAC over AES-256. -/
def cmacDbl (b : List Nat) : List Nat :=
  let x := beNat b
  beBytes (if x / 2 ^ 127 % 2 = 1 then (x * 2 % 2 ^ 128) ^^^ 0x87 else x * 2) 16
def cmacFrom (key : List Nat) : Nat → List Nat → List Nat → List Nat
  | 0, x, _ => x
  | n + 1, x, b => cmacFrom key n (aesEncrypt key (bxor x (b.take 16))) (b.drop 16)
def cmacBytes (key msg : List Nat) : List Nat :=
  let k1 := cmacDbl (aesEncrypt key (List.replicate 16 0))
  let n := if msg.length = 0 then 1 else blocks16 msg.length
  let front := msg.take (16 * (n - 1))
  let last := msg.drop (16 * (n - 1))
  let z := if last.length = 16 then bxor last k1 else bxor (fill last) (cmacDbl k1)
  cmacFrom key n (List.replicate 16 0) (front ++ z)
where fill (l : List Nat) : List Nat := ((l ++ [0x80]) ++ List.replicate 16 0).take 16

/-- The round constants of SHA-512, constant i in bits 64i+63..64i. -/
def sha512Table : Nat := 0x6c44198c4a4758175fcb6fab3ad6faec597f299cfc657e2a4cc5d4becb3e42b6431d67c49c100d4c3c9ebe0a15c9bebc32caab7b40c7249328db77f523047d841b710b35131c471b113f9804bef90dae0a637dc5a2c898a606f067aa72176fbaf57d4f7fee6ed178eada7dd6cde0eb1ed186b8c721c0c207ca273eceea26619cc67178f2e372532bbef9a3f7b2c67915a4506cebde82bde990befffa23631e288cc702081a6439ec84c87814a1f0ab7278a5636f43172f60748f82ee5defb2fc682e6ff3d6b2b8a35b9cca4f7763e3734ed8aa4ae3418acb391c0cb3c5c95a6334b0bcb5e19b48a82748774cdf8eeb991e376c085141ab5319a4c116b8d2d0c8106aa07032bbd1b8f40e35855771202ad69906245565a910d192e819d6ef5218c76c51a30654be30c24b8b70d0f89791a81a664bbc423001a2bfe8a14cf1036492722c851482353b81c2c92e47edaee6766a0abb3c77b2a8650a73548baf63de53380d139d95b3df4d2c6dfc5ac42aed2e1b21385c26c92627b70a8546d22ffc142929670a0e6e7006ca6351e003826fd5a79147930aa725c6e00bf33da88fc2bf597fc7beef0ee4b00327c898fb213fa831c66d2db43210983e5152ee66dfab76f988da831153b55cb0a9dcbd41fbd44a7484aa6ea6e4832de92c6f592b0275240ca1cc77ac9c650fc19dc68b8cd5b5efbe4786384f25e3e49b69c19ef14ad2c19bf174cf6926949bdc06a725c7123580deb1fe3b1696b172be5d74f27b896f550c7dc3d5ffb4e2243185be4ee4b28c12835b0145706fbed807aa98a3030242ab1c5ed5da6d8118923f82a4af194f9b59f111f1b605d0193956c25bf348b538e9b5dba58189dbbcb5c0fbcfec4d3b2f7137449123ef65cd428a2f98d728ae22
def sha512K (i : Nat) : Nat := sha512Table / 2 ^ (64 * i) % 2 ^ 64
def sha512Init : List Nat := [0x6a09e667f3bcc908, 0xbb67ae8584caa73b, 0x3c6ef372fe94f82b, 0xa54ff53a5f1d36f1, 0x510e527fade682d1, 0x9b05688c2b3e6c1f, 0x1f83d9abfb41bd6b, 0x5be0cd19137e2179]
def rotr64 (x n : Nat) : Nat := (x / 2 ^ n) ^^^ (x * 2 ^ (64 - n) % 2 ^ 64)
def add64 (a b : Nat) : Nat := (a + b) % 2 ^ 64
/-- The message schedule, newest word first. -/
def shaSchedule : Nat → List Nat → List Nat
  | 0, w => w
  | n + 1, w =>
    let a := (w[1]?).getD 0
    let b := (w[14]?).getD 0
    let s1 := rotr64 a 19 ^^^ rotr64 a 61 ^^^ (a / 2 ^ 6)
    let s0 := rotr64 b 1 ^^^ rotr64 b 8 ^^^ (b / 2 ^ 7)
    shaSchedule n (add64 (add64 s1 ((w[6]?).getD 0)) (add64 s0 ((w[15]?).getD 0)) :: w)
def shaRounds : Nat → List Nat → List Nat → List Nat
  | i, w :: ws, [a, b, c, d, e, f, g, h] =>
    let s1 := rotr64 e 14 ^^^ rotr64 e 18 ^^^ rotr64 e 41
    let ch := (e &&& f) ^^^ ((2 ^ 64 - 1 - e) &&& g)
    let t1 := add64 (add64 h s1) (add64 ch (add64 (sha512K i) w))
    let s0 := rotr64 a 28 ^^^ rotr64 a 34 ^^^ rotr64 a 39
    let mj := (a &&& b) ^^^ (a &&& c) ^^^ (b &&& c)
    shaRounds (i + 1) ws [add64 t1 (add64 s0 mj), a, b, c, add64 d t1, e, f, g]
  | _, _, st => st
def shaBlock (st block : List Nat) : List Nat :=
  let w0 := (chunksOf 8 16 block).map beNat
  List.zipWith add64 st (shaRounds 0 (shaSchedule 64 w0.reverse).reverse st)
def shaFrom : Nat → List Nat → List Nat → List Nat
  | 0, st, _ => st
  | n + 1, st, m => shaFrom n (shaBlock st (m.take 128)) (m.drop 128)
/-- SHA-512: 64 bytes. -/
def sha512 (msg : List Nat) : List Nat :=
  let n := (msg.length + 17 + 127) / 128
  let m := ((msg ++ [0x80]) ++ List.replicate 128 0).take (128 * n - 16) ++ beBytes (msg.length * 8) 16
  (shaFrom n sha512Init m).flatMap (fun w => beBytes w 8)

/-- CRC-32 (reflected, polynomial 0x04C11DB7). -/
def crcBits : Nat → Nat → Nat
  | 0, c => c
  | n + 1, c => crcBits n (if c % 2 = 1 then (c / 2) ^^^ 0xEDB88320 else c / 2)
def crc32 (b : List Nat) : Nat := (b.foldl (fun c x => crcBits 8 (c ^^^ x)) 0xFFFFFFFF) ^^^ 0xFFFFFFFF

/-- b^e mod m, over the low n bits of e. -/
def powModFrom : Nat → Nat → Nat → Nat → Nat → Nat
  | 0, _, _, _, acc => acc
  | n + 1, b, e, m, acc => powModFrom n (b * b % m) (e / 2) m (if e % 2 = 1 then acc * b % m else acc)
def powMod (b e m : Nat) : Nat := if m = 0 then 0 else powModFrom (Nat.log2 e + 1) (b % m) e m (1 % m)

/-- MGF1 over SHA-512: n bytes. -/
def mgf1 (seed : List Nat) (n : Nat) : List Nat :=
  ((List.range ((n + 63) / 64)).flatMap (fun i => sha512 (seed ++ beBytes i 4))).take n

/-- RSA-4096 PSS, salt of 64 bytes: the encoding of a hash with a salt, signed with the private exponent d. -/
def pssEncode (hash salt : List Nat) : List Nat :=
  let h := sha512 (List.replicate 8 0 ++ hash ++ salt)
  let db := List.replicate (512 - 64 - 64 - 2) 0 ++ [1] ++ salt
  let m := bxor db (mgf1 h (512 - 65))
  ((m.headD 0) % 128 :: m.drop 1) ++ h ++ [0xBC]
def pssSign (n d : Nat) (hash salt : List Nat) : List Nat := beBytes (powMod (beNat (pssEncode hash salt)) d n) 512
/-- Verification of a signature (512 bytes) over a 64-byte hash under modulus n and public exponent 65,537. -/
def pssVerify (n : Nat) (hash sig : List Nat) : Bool :=
  let em := beBytes (powMod (beNat sig) 65537 n) 512
  let m := em.take 447
  let h := (em.drop 447).take 64
  let db0 := bxor m (mgf1 h 447)
  let db := (db0.headD 0) % 128 :: db0.drop 1
  let salt := db.drop (447 - 64)
  sig.length == 512 && decide (beNat sig < n) && em.getLast? == some 0xBC && decide (m.headD 0 < 128) &&
    db.take (447 - 64) == List.replicate (447 - 65) 0 ++ [1] &&
    sha512 (List.replicate 8 0 ++ hash ++ salt) == h

/-- RSA-4096 OAEP decryption with SHA-512 and an empty label (RFC 8017: a ciphertext not below the modulus is refused). -/
def oaepDecrypt (n d : Nat) (c : List Nat) : Option (List Nat) :=
  let em := beBytes (powMod (beNat c) d n) 512
  let mseed := (em.drop 1).take 64
  let mdb := em.drop 65
  let seed := bxor mseed (mgf1 mdb 64)
  let db := bxor mdb (mgf1 seed 447)
  if beNat c < n ∧ em.headD 1 = 0 ∧ db.take 64 = sha512 [] then
    match (db.drop 64).dropWhile (· == 0) with
    | 1 :: msg => some msg
    | _ => none
  else none

end Sys2Proof.Machine
end

