-- ==== Sys2Proof/Machine/Arbiter.lean ====
section
/-! DEFINITION. The arbiters of the HBM channels (R372–R375) and of the store banks (R377): the sources and their classes, which of the accesses pending at a channel or a bank is granted next, and the grants that every access of the module takes. A command makes its accesses within one step, so that it finds no other source's access pending (log entry 12). -/

namespace Sys2Proof.Machine

/-! ### Sources and classes (R372) -/

/-- R372: the class: 0 ENG, 1 DMA, 2 UPD, 3 COL, 4 REM, 5 SXU, 6 CORE; none for what holds a Firn block. -/
def MemSource.cls (m : MemSource) : Option Nat :=
  match m with
  | .engine _ => some 0
  | .engDma _ => some 1
  | .cluDma _ => some 1
  | .upd _ => some 2
  | .col _ => some 3
  | .port _ => some 4
  | .sxu => some 5
  | .cph => some 5
  | .core _ => some 6
  | .holder _ => none
/-- R372: the sources of a class, in the order of their turns. -/
def classSources (c : Nat) : List MemSource :=
  if c = 0 then (List.range 96).map .engine
  else if c = 1 then (List.range 96).map .engDma ++ (List.range 48).map .cluDma
  else if c = 2 then (List.range 2).map .upd
  else if c = 3 then (List.range 16).map .col
  else if c = 4 then (List.range 8).map .port
  else if c = 5 then [.sxu, .cph]
  else if c = 6 then (List.range 110).map .core
  else []
/-- R372: every source of a channel. -/
def memSources : List MemSource := (List.range 7).flatMap classSources

/-! ### Losses and promotion (R374) -/

/-- A source's loss counter. -/
def lossOf {α : Type} [DecidableEq α] (l : Losses α) (m : α) : Nat := ((l.counts.find? (fun x => x.1 == m)).map (·.2)).getD 0
/-- A source that has an access pending loses a grant: its counter rises, and at 64 it is promoted. -/
def loseOne {α : Type} [DecidableEq α] (l : Losses α) (m : α) : Losses α :=
  let n := lossOf l m + 1
  let rest := l.counts.filter (fun x => x.1 != m)
  if n = 64 then { counts := rest ++ [(m, n)], promoted := l.promoted ++ [m], promos := l.promos + 1 }
  else { l with counts := rest ++ [(m, n)] }
/-- R374: source m is granted: its counter returns to 0, and every other source with an access pending loses. -/
def noteGrant {α : Type} [DecidableEq α] (l : Losses α) (pending : List α) (m : α) : Losses α :=
  (pending.filter (· != m)).foldl loseOne { l with counts := l.counts.filter (fun x => x.1 != m), promoted := l.promoted.filter (· != m) }
/-- The first promoted source that has an access pending. -/
def firstPromoted {α : Type} [DecidableEq α] (l : Losses α) (pending : List α) : Option α := l.promoted.find? (fun m => pending.contains m)
/-- Round-robin: the first pending source after the one that was last granted, in a circular order. -/
def nextAfter {α : Type} [DecidableEq α] (order : List α) (last : Option α) (pending : List α) : Option α :=
  let i := (last.map (fun m => order.idxOf m + 1)).getD 0
  (order.drop i ++ order.take i).find? (fun m => pending.contains m)

/-! ### A channel (R373, R375) -/

/-- R373, R398: the weight of class c in force for a controller. -/
def arbWeight (s : State) (i c : Nat) : Nat := rfld s (wreg (winMem i) oMEM_ARB_WT) (4 * c + 3) (4 * c)
def arbWeights (s : State) (i : Nat) : List Nat := (List.range 7).map (arbWeight s i)
def weightOf (ws : List Nat) (c : Nat) : Nat := (ws[c]?).getD 0
def lastOf (a : ChanArb) (c : Nat) : Option MemSource := (a.last.find? (fun x => x.1 == c)).map (·.2)
/-- Whether a class has an access pending. -/
def classWaits (pending : List MemSource) (c : Nat) : Bool := pending.any (fun m => m.cls == some c)
/-- The turn within a class. -/
def classTurn (a : ChanArb) (pending : List MemSource) (c : Nat) : Option MemSource := nextAfter (classSources c) (lastOf a c) pending
def noteTurn (a : ChanArb) (c : Nat) (m : MemSource) : ChanArb := { a with last := a.last.filter (fun x => x.1 != c) ++ [(c, m)] }
/-- R373: the round goes on to the next class that has grants left and an access pending; a new round takes the weights `ws`. -/
def visitRound (ws : List Nat) (pending : List MemSource) : Nat → ChanArb → Option (MemSource × ChanArb)
  | 0, _ => none
  | n + 1, a =>
    match if a.left = 0 then none else classTurn a pending a.visit with
    | some m => some (m, noteTurn { a with left := a.left - 1 } a.visit m)
    | none =>
      let round := if a.visit + 1 < 7 then a.weights else ws
      let c := (a.visit + 1) % 7
      visitRound ws pending n { a with visit := c, left := weightOf round c, weights := round }
/-- R373: with nothing pending in a class of non-zero weight, a class of weight 0 is served, the lowest first. -/
def zeroTurn (ws : List Nat) (pending : List MemSource) (a : ChanArb) : Option (MemSource × ChanArb) :=
  match (List.range 7).find? (fun c => weightOf ws c == 0 && classWaits pending c) with
  | some c => (classTurn a pending c).map (fun m => (m, noteTurn a c m))
  | none => none
/-- R375: a Firn merge or a re-encoding step takes hold of a block, as a promoted source, and lets go of it. -/
def holdBlock (a : ChanArb) (b : Nat) : ChanArb := { a with losses := { a.losses with promoted := a.losses.promoted ++ [.holder b] } }
def freeBlock (a : ChanArb) (b : Nat) : ChanArb := { a with losses := { a.losses with promoted := a.losses.promoted.filter (· != .holder b) } }
/-- What a channel grants: a source, or, where no source wants the grant, scrub or re-encoding (R375). -/
inductive ChanGrant where
  | source (m : MemSource)
  | background
  | idle
  deriving DecidableEq, Repr
/-- R374, R375: promoted sources come first, in the order in which they were promoted, then the round. -/
def chanTurn (ws : List Nat) (pending : List MemSource) (a : ChanArb) : Option (MemSource × ChanArb) :=
  match firstPromoted a.losses pending with
  | some m => some (m, a)
  | none => (visitRound ws pending 15 a).orElse (fun _ => zeroTurn ws pending a)
/-- R398: a grant counted in its class. -/
def countGrant (a : ChanArb) (m : MemSource) : ChanArb :=
  { a with grants := match m.cls with | some c => a.grants.set c ((a.grants[c]?).getD 0 + 1) | none => a.grants, promoOpen := true, waitOpen := true }
/-- What a holder of a block is granted leaves it promoted (R375). -/
def lossesAfter (l : Losses MemSource) (pending : List MemSource) (m : MemSource) : Losses MemSource :=
  match m with
  | .holder _ => { noteGrant l pending m with promoted := (noteGrant l pending m).promoted ++ [m] }
  | _ => noteGrant l pending m
/-- R373–R375: a channel's next grant, by the weights in force, the sources with an access pending, and whether scrub or re-encoding wants it. -/
def chanGrant (ws : List Nat) (pending : List MemSource) (background : Bool) (a : ChanArb) : ChanGrant × ChanArb :=
  match chanTurn ws pending a with
  | some (m, b) => (.source m, countGrant { b with losses := lossesAfter b.losses pending m } m)
  | none => (if background then .background else .idle, a)
/-- The grants of n bursts that only one source has pending. -/
def chanTimes (ws : List Nat) (m : MemSource) : Nat → ChanArb → ChanArb
  | 0, a => a
  | n + 1, a => chanTimes ws m n (chanGrant ws [m] false a).2

/-! ### A store bank (R377) -/

def bankSources : List BankSource := memSources.map .mem ++ [.scrub]
/-- What a bank grants in a cycle. -/
inductive BankGrant where
  | fetch
  | source (m : BankSource)
  | idle
  deriving DecidableEq, Repr
/-- R377: operand fetch first, in at most one cycle of every two; the cycles left over go to the first promoted source, or to the next in turn.
A loss is counted in those cycles only (DEDUCED from the bound of R378: two cycles for each of 64 losses; log entry 12). -/
def bankGrant (fetch : Bool) (pending : List BankSource) (a : BankArb) : BankGrant × BankArb :=
  if fetch && !a.fetched then (.fetch, { a with fetched := true })
  else
    match (firstPromoted a.losses pending).orElse (fun _ => nextAfter bankSources a.last pending) with
    | some m => (.source m, { fetched := false, last := some m, losses := noteGrant a.losses pending m })
    | none => (.idle, { a with fetched := false })

/-! ### The module's accesses (R191, R198, R372) -/

def chanDefault (_ : Nat) : ChanArb := {}
def getChan (s : State) (ch : Nat) : ChanArb := smGet chanDefault s.chans ch
def putChan (s : State) (ch : Nat) (a : ChanArb) : State := { s with chans := smSet chanDefault s.chans ch a }
def bankDefault (_ : Nat) : BankArb := {}
def getBank (s : State) (b : Nat) : BankArb := smGet bankDefault s.banks b
def putBank (s : State) (b : Nat) (a : BankArb) : State := { s with banks := smSet bankDefault s.banks b a }
/-- R198: the channel of an HBM address. -/
def hbmChannel (o : Order) (a : Nat) : Nat :=
  let g := a / 4096
  match o with
  | .x192 => (g ^^^ (g / 2 ^ 7) ^^^ (g / 2 ^ 14) ^^^ (g / 2 ^ 21)) % 128
  | _ => (g ^^^ (g / 2 ^ 8) ^^^ (g / 2 ^ 16) ^^^ (g / 2 ^ 24)) % 256
/-- R198: the controller of an HBM address. -/
def hbmCtl (o : Order) (a : Nat) : Nat := hbmChannel o a / 32
/-- R191: the bank of a store address. -/
def storeBank (a : Nat) : Nat :=
  if inCstore a then
    let x := (a - cstoreBase) % cstoreSize
    64 * ((a - cstoreBase) / cstoreSize) + (x / 2 ^ 6 ^^^ (x / 2 ^ 12) ^^^ (x / 2 ^ 18)) % 64
  else
    let x := (a - estoreBase) % estoreSize
    768 + 16 * ((a - estoreBase) / estoreSize) + (x / 2 ^ 6 ^^^ (x / 2 ^ 10) ^^^ (x / 2 ^ 14) ^^^ (x / 2 ^ 18)) % 16
/-- R377: whether a store address lies in the engine's own store or in its cluster's. -/
def ownStore (e a : Nat) : Bool :=
  if inCstore a then (a - cstoreBase) / cstoreSize == e / 8 else (a - estoreBase) / estoreSize == e
/-- R372, R377: one burst of 64 bytes that a source makes at an address; `fetch` says that it is an engine's operand fetch. -/
def burst (s : State) (fetch : Bool) (m : MemSource) (a : Nat) : State :=
  let own := match m with | .engine e => fetch && ownStore e a | _ => false
  let b := storeBank a
  if own then putBank s b (bankGrant true [] { getBank s b with fetched := false }).2 else putBank s b (bankGrant false [.mem m] (getBank s b)).2
/-- The bursts of n bytes at a that lie in one 4 KiB granule. -/
def bursts (s : State) (fetch : Bool) (m : MemSource) (a n : Nat) : State :=
  let k := cdiv (a + n) 64 - a / 64
  if inHbm s.order a then
    let ch := hbmChannel s.order a
    putChan s ch (chanTimes (arbWeights s (ch / 32)) m k (getChan s ch))
  else (List.range k).foldl (fun s i => burst s fetch m (64 * (a / 64 + i))) s
/-- A source's access of n bytes at a, granule by granule, granted burst by burst (R373, R377). -/
def accessFrom (fetch : Bool) (m : MemSource) : Nat → State → Nat → Nat → State
  | 0, s, _, _ => s
  | f + 1, s, a, n =>
    if n = 0 then s
    else
      let k := min n (4096 - a % 4096)
      accessFrom fetch m f (bursts s fetch m a k) (a + k) (n - k)
def accessMem (s : State) (fetch : Bool) (m : MemSource) (a n : Nat) : State := accessFrom fetch m (n / 4096 + 2) s a n
/-- R375: a merge or a re-encoding step holds a block of HBM for the bursts that it makes. -/
def holdFor (s : State) (a n : Nat) : State :=
  let ch := hbmChannel s.order a
  let b := a / 4096
  putChan s ch (freeBlock (chanTimes (arbWeights s (ch / 32)) (.holder b) n (holdBlock (getChan s ch) b)) b)
/-- R375: scrub of an HBM address takes a grant that no source wants; R377: scrub of a store is a source of its bank. -/
def scrubAt (s : State) (a : Nat) : State :=
  if inHbm s.order a then
    let ch := hbmChannel s.order a
    putChan s ch (chanGrant (arbWeights s (ch / 32)) [] true (getChan s ch)).2
  else putBank s (storeBank a) (bankGrant false [.scrub] (getBank s (storeBank a))).2

/-! ### The controllers' counts (R398) -/

/-- The channels of controller i. -/
def ctlChans (i : Nat) : List Nat := (List.range 32).map (32 * i + ·)
def grantsOf (s : State) (i c : Nat) : Nat := ((ctlChans i).map (fun ch => ((getChan s ch).grants[c]?).getD 0)).sum
def promosOf (s : State) (i : Nat) : Nat := ((ctlChans i).map (fun ch => (getChan s ch).losses.promos)).sum
/-- Every channel of controller i changed. -/
def mapChans (s : State) (i : Nat) (f : ChanArb → ChanArb) : State := (ctlChans i).foldl (fun s ch => putChan s ch (f (getChan s ch))) s
def clearGrants (c : Nat) (a : ChanArb) : ChanArb := { a with grants := a.grants.set c 0 }
def clearPromos (a : ChanArb) : ChanArb := { a with promoOpen := false, losses := { a.losses with promos := 0 } }
def clearWait (a : ChanArb) : ChanArb := { a with waitOpen := false }

end Sys2Proof.Machine
end

