-- ==== Sys2Proof/Machine/Firn.lean ====
section
/-! DEFINITION. The Firn codec and its regions (R208–R221), and the one store operation through which every unit writes memory: code words (R200–R202) and Firn windows (R209, R214) take their effect there. -/

namespace Sys2Proof.Machine

/-! ### Element classes and planes (R211) -/

/-- Bytes of an element, exponent bits, coded mantissa bits and raw mantissa bits of a class. -/
def elemBytes (k : Nat) : Nat := if k < 3 then 1 else if k < 5 then 2 else 4
def elemExp (k : Nat) : Nat := if k = 0 then 0 else if k = 1 then 4 else if k = 2 then 5 else if k = 4 then 5 else 8
def elemMan (k : Nat) : Nat := if k = 0 then 8 else if k = 1 then 3 else if k = 2 then 2 else if k = 3 then 7 else 8
def elemRaw (k : Nat) : Nat := if k = 4 then 2 else if k = 5 then 15 else 0
def elemSigned (k : Nat) : Bool := k != 0

def elems (k : Nat) (b : List Byte) : List Nat :=
  (List.range (b.length / elemBytes k)).map (fun i => leAt b (i * elemBytes k) (elemBytes k))
def elemSign (k x : Nat) : Nat := x / 2 ^ (8 * elemBytes k - 1) % 2
/-- Sign symbols: the signs of 8 consecutive elements, element 8j + i in bit i. -/
def signSyms (k : Nat) (xs : List Nat) : List Nat :=
  if elemSigned k then
    (List.range (xs.length / 8)).map (fun j => (List.range 8).foldl (fun a i => a + elemSign k ((xs[8 * j + i]?).getD 0) * 2 ^ i) 0)
  else []
def expSyms (k : Nat) (xs : List Nat) : List Nat :=
  if elemSigned k then xs.map (fun x => x / 2 ^ (elemMan k + elemRaw k) % 2 ^ elemExp k) else []
def manSyms (k : Nat) (xs : List Nat) : List Nat := xs.map (fun x => x / 2 ^ elemRaw k % 2 ^ elemMan k)
def rawSyms (k : Nat) (xs : List Nat) : List Nat := if elemRaw k = 0 then [] else xs.map (fun x => x % 2 ^ elemRaw k)

/-! ### Codes (R213, R215) -/

/-- Kraft's condition: canonical codes of these lengths, each 1 to 15, are prefix codes. -/
def prefixLengths (lens : List Nat) : Bool :=
  lens.all (fun l => decide (1 ≤ l ∧ l ≤ 15)) && decide ((lens.map (fun l => 2 ^ (15 - l))).sum ≤ 2 ^ 15)
/-- R215: the code lengths of a histogram, each count raised by 1: any that make prefix codes, the same for the same histogram. -/
def buildLengths (hist : List Nat) : List Nat :=
  let l := (List.range 256).map (Config.firnLengths (hist.map (· + 1)))
  if prefixLengths l then l else List.replicate 256 8

/-- R215: canonical codes in (length, symbol) order: pairs of symbol and code. -/
def canonFrom : List (Nat × Nat) → Nat → Nat → List (Nat × Nat)
  | [], _, _ => []
  | (s, l) :: r, code, len =>
    let c := code * 2 ^ (l - len)
    (s, c) :: canonFrom r (c + 1) l
def canonCodes (lens : List Nat) : List (Nat × Nat) :=
  let ord := (List.range 16).flatMap (fun l =>
    ((List.range 256).filter (fun s => (lens[s]?).getD 0 == l && l != 0)).map (fun s => (s, l)))
  canonFrom ord 0 (match ord with | (_, l) :: _ => l | [] => 0)

/-- A code of n bits, most significant first. -/
def msbBits (c : Nat) : Nat → List Bool
  | 0 => []
  | n + 1 => nbit c n :: msbBits c n
def lsbBits (c n : Nat) : List Bool := (List.range n).map (fun i => nbit c i)
/-- Bits into bytes, each byte filled from bit 0, the last padded. -/
def bitsBytesFrom : Nat → List Bool → List Byte
  | 0, _ => []
  | n + 1, l =>
    BitVec.ofNat 8 (((l.take 8).zip (List.range 8)).foldl (fun a p => a + b2n p.1 * 2 ^ p.2) 0) :: bitsBytesFrom n (l.drop 8)
def bitsBytes (l : List Bool) : List Byte := bitsBytesFrom (cdiv l.length 8) l

def codePlane (lens : List Nat) (syms : List Nat) : List Byte :=
  let codes := canonCodes lens
  bitsBytes (syms.flatMap (fun s =>
    msbBits ((codes.find? (fun p => p.1 == s)).elim 0 (·.2)) ((lens[s]?).getD 0)))

/-- The three tables of a domain: sign, exponent, mantissa (R216). -/
structure FirnTables where
  sign : List Nat
  exp : List Nat
  man : List Nat
  deriving DecidableEq, Repr

/-- R213: a block's coded bytes, its head first. DESIGN CHOICE (log entry 77): the raw bits of one element stand least significant first. -/
def firnEncode (k : Nat) (t : FirnTables) (b : List Byte) : List Byte :=
  let xs := elems k b
  let sg := codePlane t.sign (signSyms k xs)
  let ex := codePlane t.exp (expSyms k xs)
  let ma := codePlane t.man (manSyms k xs)
  let rw := bitsBytes ((rawSyms k xs).flatMap (fun x => lsbBits x (elemRaw k)))
  let oe := 8 + sg.length
  let om := oe + ex.length
  let orw := om + ma.length
  le32 (oe + om * 65536) ++ le32 orw ++ sg ++ ex ++ ma ++ rw

def bytesBits (b : List Byte) : List Bool := b.flatMap (fun x => lsbBits x.toNat 8)
/-- One symbol read from a stream by its code, with the rest. -/
def readSym (codes : List (Nat × Nat)) (lens : List Nat) : Nat → Nat → Nat → List Bool → Option (Nat × List Bool)
  | 0, _, _, _ => none
  | n + 1, code, len, bs =>
    match bs with
    | [] => none
    | x :: r =>
      let c := code * 2 + b2n x
      match codes.find? (fun p => p.2 == c && (lens[p.1]?).getD 0 == len + 1) with
      | some p => some (p.1, r)
      | none => readSym codes lens n c (len + 1) r
def readSyms (lens : List Nat) : Nat → List Bool → Option (List Nat)
  | 0, _ => some []
  | n + 1, bs =>
    match readSym (canonCodes lens) lens 15 0 0 bs with
    | none => none
    | some (s, r) => (readSyms lens n r).map (s :: ·)

/-- R213: a compressed block expanded to 4,096 bytes, or none where it does not decode (R225, FIRN_CORRUPT). -/
def firnDecode (k : Nat) (t : FirnTables) (c : List Byte) : Option (List Byte) :=
  let n := 4096 / elemBytes k
  let oe := leAt c 0 2
  let om := leAt c 2 2
  let orw := leAt c 4 2
  let plane (lens : List Nat) (o cnt : Nat) := readSyms lens cnt (bytesBits (c.drop o))
  match plane t.sign 8 (if elemSigned k then n / 8 else 0), plane t.exp oe (if elemSigned k then n else 0), plane t.man om n with
  | some sg, some ex, some ma =>
    let rb := bytesBits (c.drop orw)
    some ((List.range n).flatMap (fun i =>
      let raw := (List.range (elemRaw k)).foldl (fun a j => a + b2n ((rb[i * elemRaw k + j]?).getD false) * 2 ^ j) 0
      let v := raw + (ma[i]?).getD 0 * 2 ^ elemRaw k + (ex[i]?).getD 0 * 2 ^ (elemMan k + elemRaw k)
        + (if elemSigned k then nbits ((sg[i / 8]?).getD 0) (i % 8) (i % 8) * 2 ^ (8 * elemBytes k - 1) else 0)
      leBytes v (elemBytes k)))
  | _, _, _ => none

/-! ### Regions and domains (R208, R216) -/

def frReg (n o : Nat) : Nat := wreg (winMem 0) (o + 32 * n)
def frEnabled (s : State) (n : Nat) : Bool := rbit s (frReg n oFR_CFG) 31
def frBase (s : State) (n : Nat) : Nat := rn64 s (frReg n oFR_BASE_LO)
def frLen (s : State) (n : Nat) : Nat := rn64 s (frReg n oFR_LEN_LO)
def frMeta (s : State) (n : Nat) : Nat := rn64 s (frReg n oFR_META_LO)
def frElem (s : State) (n : Nat) : Nat := rfld s (frReg n oFR_CFG) 2 0
def frBusy (s : State) (n : Nat) : Bool := rbit s (frReg n oFR_STAT) 31
/-- A region that is enabled and initialised. -/
def frReady (s : State) (n : Nat) : Bool := frEnabled s n && !frBusy s n
def regions : List Nat := List.range 16
/-- The ready region whose window holds an address. -/
def firnRegion (s : State) (a : Nat) : Option Nat := regions.find? (fun n => frReady s n && meets a 1 (frBase s n) (frLen s n))
/-- R207: whether a range touches an enabled window. -/
def firnTouches (s : State) (a len : Nat) : Bool := regions.any (fun n => frEnabled s n && meets a len (frBase s n) (frLen s n))
/-- R210: an access to the window of a region that is initialising waits. -/
def firnBusy (s : State) (a len : Nat) : Bool := regions.any (fun n => frEnabled s n && frBusy s n && meets a len (frBase s n) (frLen s n))

/-- R210, R224: whether region n's shadow differs from the entry in force, and whether a range touches its window, in force or to come. -/
def frChanged (s : State) (n : Nat) : Bool := [oFR_BASE_LO, oFR_BASE_HI, oFR_LEN_LO, oFR_LEN_HI, oFR_META_LO, oFR_META_HI, oFR_CFG].any (fun o =>
  let d := if o = oFR_CFG then 0xC0000007 else 0xFFFFFFFF
  rget s (frReg n o) &&& d != shGet s (frReg n o) &&& d)
def frShadow64 (s : State) (n o : Nat) : Nat := (shGet s (frReg n o)).toNat + (shGet s (frReg n (o + 4))).toNat * 4294967296
def frChangeTouches (s : State) (a len : Nat) : Bool :=
  regions.any (fun n => frChanged s n &&
    ((frEnabled s n && meets a len (frBase s n) (frLen s n)) ||
     (wbit (shGet s (frReg n oFR_CFG)) 31 && meets a len (frShadow64 s n oFR_BASE_LO) (frShadow64 s n oFR_LEN_LO))))

def domHdr (s : State) (n d : Nat) : Nat := frMeta s n + 2048 * d
def mapEntry (s : State) (n b : Nat) : Nat := frMeta s n + frLen s n / 128 + 2 * b
def domCoded (s : State) (n d : Nat) : Bool := rdByte s (domHdr s n d + 8) == 1
def domTable (s : State) (n d o : Nat) : List Nat := (List.range 256).map (fun i =>
  let b := (rdByte s (domHdr s n d + o + i / 2)).toNat
  if i % 2 = 0 then b % 16 else b / 16)
def domTables (s : State) (n d : Nat) : FirnTables := ⟨domTable s n d 0x40, domTable s n d 0xC0, domTable s n d 0x140⟩
def packLens (l : List Nat) : List Byte := (List.range 128).map (fun i => BitVec.ofNat 8 ((l[2 * i]?).getD 0 + 16 * (l[2 * i + 1]?).getD 0))
def domHist (s : State) (n d p : Nat) : List Nat := (List.range 256).map (fun i => rd16 s (domHdr s n d + 0x200 + 512 * p + 2 * i))
/-- R214: a plane's symbols added to a histogram, saturating. -/
def histAdd (h syms : List Nat) : List Nat := (List.range 256).map (fun i => min 65535 ((h[i]?).getD 0 + syms.count i))
def histBytes (h : List Nat) : List Byte := h.flatMap (fun c => leBytes c 2)
/-- The counter of CODED domains in FR_STAT. -/
def frCodedAdd (s : State) (n : Nat) (up : Bool) : State :=
  let c := rfld s (frReg n oFR_STAT) 23 0
  rputF s (frReg n oFR_STAT) 23 0 (if up then c + 1 else c - 1)
def frDomains (s : State) (n : Nat) : List Nat := List.range (frLen s n / 0x40000)

def setMap (s : State) (n b v : Nat) : State := putBytes s (mapEntry s n b) (leBytes v 2)
def mapRaw : Nat := 0xC000
def mapOf (s : State) (n b : Nat) : Nat := rd16 s (mapEntry s n b)
def mapValid (e : Nat) : Bool := nbit e 15
def mapIsRaw (e : Nat) : Bool := nbit e 14
/-- A block that is valid and compressed. -/
def mapCoded (e : Nat) : Bool := mapValid e && !mapIsRaw e
/-- R212: the bytes of its slot that a compressed block occupies. -/
def mapBytes (e : Nat) : Nat := 32 * nbits e 6 0
def blockAddr (s : State) (n b : Nat) : Nat := frBase s n + 4096 * b
def blockBytes (s : State) (n b : Nat) : List Byte := rdBytes s (blockAddr s n b) 4096
def memStat (s : State) (a off : Nat) : State := rinc s (wreg (winMem (hbmCtl s.order a)) off) 1

/-! ### Slots (R212): memory holds a window's content as it reads, `stored` the coded bytes of its compressed blocks -/

def storedDefault (_ : Nat) : List Byte := []
/-- What a block's slot holds: its coded bytes, or its raw content. -/
def slotBytes (s : State) (n b : Nat) : List Byte :=
  if mapCoded (mapOf s n b) then fitBytes (smGet storedDefault s.stored (blockAddr s n b)) (mapBytes (mapOf s n b)) else blockBytes s n b
/-- A block's map entry and stored bytes set; a write of whole code words cures them. -/
def putSlot (s : State) (n b e : Nat) (code : List Byte) : State :=
  let a := blockAddr s n b
  let s := if mapValid e then cureWords s a (if mapIsRaw e then 4096 else mapBytes e) else s
  setMap { s with stored := smSet storedDefault s.stored a code } n b e
/-- The coded bytes of a region's blocks forgotten. -/
def dropStored (s : State) (lo len : Nat) : State := { s with stored := s.stored.filter (fun p => !meets p.1 1 lo len) }
def rawSlot (s : State) (n b : Nat) : State := putSlot s n b mapRaw []
/-- A block that is not valid reads as zeros. -/
def voidSlot (s : State) (n b : Nat) : State := putBytes (putSlot s n b 0 []) (blockAddr s n b) (zeroBytes 4096)
/-- R212: a block's content coded with its domain's tables, or raw where its coding needs more than 113 units. DESIGN CHOICE (log entry 77): zeros
stand from the end of its last section to the end of its last unit. -/
def codeSlot (s : State) (n b : Nat) : State :=
  let code := firnEncode (frElem s n) (domTables s n (b / 64)) (blockBytes s n b)
  let l := cdiv code.length 32
  if l ≤ 113 then putSlot s n b (0x8000 + l) (fitBytes code (32 * l)) else rawSlot s n b

/-! ### What a read fetches (R201, R217, R218, R225) -/

/-- The part of region n's window that the metadata word at w describes: its map entries, the code lengths of a CODED domain, and for a write
the mask and state, and the histogram of a LEARN domain. -/
def metaOf (s : State) (wr : Bool) (n w : Nat) : Option (Nat × Nat) :=
  let o := w - frMeta s n
  if w < frMeta s n ∨ frLen s n * 17 / 2048 ≤ o then none
  else if o < frLen s n / 128 then
    (if (wr ∧ (o % 2048 < 32 ∨ (0x200 ≤ o % 2048 ∧ !domCoded s n (o / 2048)))) ∨ (0x40 ≤ o % 2048 ∧ o % 2048 < 0x1C0 ∧ domCoded s n (o / 2048)) then some (frBase s n + 0x40000 * (o / 2048), 0x40000) else none)
  else some (frBase s n + 4096 * ((o - frLen s n / 128) / 2), 16 * 4096)
def metaFetched (s : State) (wr : Bool) (a n w : Nat) : Bool :=
  regions.any (fun r => frReady s r && (metaOf s wr r w).elim false (fun x => meets a n x.1 x.2))
/-- Whether a read of n bytes at a fetches the code word at w: a read of part of a compressed block fetches the whole block. -/
def fetches (s : State) (a n w : Nat) : Bool :=
  match firnRegion s w with
  | some r =>
    let b := (w - frBase s r) / 4096
    let e := mapOf s r b
    let blk := blockAddr s r b
    if !mapValid e then false
    else if mapIsRaw e then meets a n w (codeWordSize s.order w)
    else meets a n blk 4096 && decide (w < blk + mapBytes e)
  | none => meets a n w (codeWordSize s.order w) || metaFetched s false a n w
/-- R200, R209: whether a write of n bytes at a merges with the code word at w, which it reads first. -/
def mergesWith (s : State) (a n w : Nat) : Bool :=
  match firnRegion s w with
  | some r =>
    let blk := blockAddr s r ((w - frBase s r) / 4096)
    !decide (a ≤ blk ∧ blk + 4096 ≤ a + n) && meets a n blk 4096 && fetches s blk 4096 w
  | none => (meets a n w (codeWordSize s.order w) && !coversWord s a n w) || metaFetched s true a n w
/-- The blocks of ready windows that a range touches, with their regions. -/
def touchedBlocks (s : State) (a n : Nat) : List (Nat × Nat) :=
  (regions.filter (fun r => frReady s r && meets a n (frBase s r) (frLen s r))).flatMap (fun r =>
    let lo := (max a (frBase s r) - frBase s r) / 4096
    let hi := (min (a + n) (frBase s r + frLen s r) - frBase s r + 4095) / 4096
    (List.range (hi - lo)).map (fun i => (r, lo + i)))
/-- R225: whether a compressed block does not decode to 4,096 bytes. -/
def blockCorrupt (s : State) (x : Nat × Nat) : Bool :=
  mapCoded (mapOf s x.1 x.2) && (firnDecode (frElem s x.1) (domTables s x.1 (x.2 / 64)) (slotBytes s x.1 x.2)).isNone
/-- R201, R225: the first uncorrectable code word that a read of n bytes at a fetches, or the first block of it that does not decode. -/
def badIn (s : State) (a n : Nat) : Option Nat :=
  ((s.badWords.find? (fun p => fetches s a n p.word)).map (·.word)).or
    (((touchedBlocks s a n).find? (blockCorrupt s)).map (fun x => blockAddr s x.1 x.2))
/-- R202: the first that a write of n bytes at a merges with. -/
def badPartly (s : State) (a n : Nat) : Option Nat :=
  ((s.badWords.find? (fun p => mergesWith s a n p.word)).map (·.word)).or
    ((((touchedBlocks s a n).filter (fun x => !decide (a ≤ blockAddr s x.1 x.2 ∧ blockAddr s x.1 x.2 + 4096 ≤ a + n))).find? (blockCorrupt s)).map
      (fun x => blockAddr s x.1 x.2))
/-- Whether nothing that a read can meet has gone wrong. -/
def memSound (s : State) : Bool := s.badWords.isEmpty && regions.all (fun n => !frReady s n)

/-! ### Writes (R200, R202, R209, R214) -/

/-- Metadata that the controller writes: whole code words of it are cured (R202). -/
def putMeta (s : State) (a : Nat) (bs : List Byte) : State := putBytes (cureWords s a bs.length) a bs
/-- R214, R215: the domain's tables built from its histogram and written to its header; the domain becomes CODED. -/
def sealDomain (s : State) (n d : Nat) : State :=
  if domCoded s n d then s
  else
    let h := domHdr s n d
    let s := putMeta s (h + 0x40) (packLens (buildLengths (domHist s n d 0)) ++ packLens (buildLengths (domHist s n d 1)) ++ packLens (buildLengths (domHist s n d 2)))
    frCodedAdd (putBytes s (h + 8) [1]) n true
/-- R214: whether a LEARN domain whose mask is full becomes CODED: where FR_CFG.AUTOSEAL is 1. -/
def sealsItself (s : State) (n d : Nat) : Bool := rd64 s (domHdr s n d) == 2 ^ 64 - 1 && rbit s (frReg n oFR_CFG) 30 && !domCoded s n d
/-- R201: an uncorrectable word of what the tables of a domain are built from. -/
def histBad (s : State) (n d : Nat) : Option Nat := (badIn s (domHdr s n d) 32).or (badIn s (domHdr s n d + 0x200) 1536)
/-- R214: such a domain sealed, where its histogram can be read. -/
def autoSeal (s : State) (n d : Nat) : State := if sealsItself s n d && (histBad s n d).isNone then sealDomain s n d else s

/-- R209, R212, R214: a whole block of a window replaced. DESIGN CHOICE (log entry 69): the controller writes a histogram back to its header at every
block write, as if it evicted it at once (R216). -/
def firnPutBlock (s : State) (n b : Nat) (new : List Byte) : State :=
  let d := b / 64
  let k := frElem s n
  let a := blockAddr s n b
  let s := putBytes s a new
  if domCoded s n d then
    let s := codeSlot s n b
    memStat s a (if mapIsRaw (mapOf s n b) then oFIRN_RAW_WR else oFIRN_CMP_WR)
  else
    let h := domHdr s n d
    let xs := elems k new
    let s := rawSlot s n b
    let s := putMeta s (h + 0x200) (histBytes (histAdd (domHist s n d 0) (signSyms k xs)) ++
      histBytes (histAdd (domHist s n d 1) (expSyms k xs)) ++ histBytes (histAdd (domHist s n d 2) (manSyms k xs)))
    autoSeal (putBytes s h (le64 (rd64 s h ||| 2 ^ (b % 64)))) n d

/-- R218: the cycles that a partial read or a merge stalls the expander, which the spec does not give: a free value. -/
def stall (s : State) (a : Nat) : State :=
  rinc64 (takeFree s).2 (wreg (winMem (hbmCtl s.order a)) oFIRN_STALL_LO) (Config.freeWord s.free).toNat
/-- The bytes of a valid block's slot that are in use. -/
def slotSize (e : Nat) : Nat := if !mapValid e then 0 else if mapIsRaw e then 4096 else mapBytes e
/-- Part of one block written by a source: merged into it (R209), which holds the block (R375), and the block recompressed. -/
def firnPutPart (s : State) (m : MemSource) (n a : Nat) (bs : List Byte) : State :=
  let b := (a - frBase s n) / 4096
  let o := (a - frBase s n) % 4096
  let was := slotSize (mapOf s n b)
  if o = 0 ∧ bs.length = 4096 then
    let s := firnPutBlock s n b bs
    accessMem s false m a (slotSize (mapOf s n b))
  else
    let old := blockBytes s n b
    let new := old.take o ++ bs ++ old.drop (o + bs.length)
    let s := firnPutBlock (accessMem s false m a bs.length) n b new
    stall (memStat (holdFor s (blockAddr s n b) (cdiv was 64 + cdiv (slotSize (mapOf s n b)) 64)) a oFIRN_RMW) a

/-- Bytes written across 4 KiB granules, each into its window where it has one. -/
def storeGranules (m : MemSource) : Nat → State → Nat → List Byte → State
  | 0, s, _, _ => s
  | n + 1, s, a, bs =>
    let k := min bs.length (4096 - a % 4096)
    let now := bs.take k
    let s' := match firnRegion s a with
      | some r => firnPutPart s m r a now
      | none => putMeta (accessMem s false m a k) a now
    storeGranules m n s' (a + k) (bs.drop k)

/-- Whether a range touches the metadata of a ready region, and the blocks of it that its header or map describe. -/
def metaTouched (s : State) (n a len : Nat) : Bool := frReady s n && meets a len (frMeta s n) (frLen s n * 17 / 2048)
def metaBlocks (s : State) (n a len : Nat) : List Nat :=
  (List.range (frLen s n / 4096)).filter (fun b => meets a len (domHdr s n (b / 64)) 2048 || meets a len (mapEntry s n b) 2)
/-- What a block reads as after its metadata has been written over: its slot's bytes under the new entry and tables. One that does not decode
keeps what it had, and is never delivered (R225). -/
def rereadBlock (n : Nat) (old s : State) (b : Nat) : State :=
  let e := mapOf s n b
  let a := blockAddr s n b
  let was := slotBytes old n b
  if !mapValid e then putBytes s a (zeroBytes 4096)
  else if mapIsRaw e then putBytes (makeUndef { s with stored := smDel s.stored a } a 4096) a was
  else
    let s := { s with stored := smSet storedDefault s.stored a was }
    match firnDecode (frElem s n) (domTables s n (b / 64)) (fitBytes was (mapBytes e)) with
    | some c => putBytes s a c
    | none => s
/-- Metadata of region n written over by a store: `old` is the state before it. -/
def rereadRegion (a len : Nat) (old s : State) (n : Nat) : State :=
  if metaTouched old n a len then
    let s := ((metaBlocks old n a len).filter (fun b => mapOf old n b != mapOf s n b || domTables old n (b / 64) != domTables s n (b / 64))).foldl (rereadBlock n old) s
    rputF s (frReg n oFR_STAT) 23 0 ((frDomains s n).filter (domCoded s n)).length
  else s

/-- What a write puts at an address: bytes, or content that is undefined. -/
inductive Content where
  | bytes (l : List Byte)
  | undef (n : Nat)
  deriving DecidableEq, Repr
def Content.size (c : Content) : Nat := match c with | .bytes l => l.length | .undef n => n
/-- The bytes of a content: undefined ones are free values. -/
def Content.at (c : Content) (s : State) (a : Nat) : List Byte :=
  match c with
  | .bytes l => l
  | .undef n => (List.range n).map (fun i => Config.freeByte s.free (a + i))
/-- A content written where no Firn window lies. -/
def putPlain (s : State) (a : Nat) (c : Content) : State :=
  match c with
  | .bytes l => putMeta s a l
  | .undef n => makeUndef (cureWords s a n) a n
/-- The one write of every unit: the content that a source puts at an address, and the uncorrectable word that stops it (R202: that write then changes
nothing). -/
def putStore (s : State) (m : MemSource) (a : Nat) (c : Content) : State × Option Nat :=
  match badPartly s a c.size with
  | some w => (s, some w)
  | none =>
    let t :=
      if firnTouches s a c.size then storeGranules m (c.size / 4096 + 2) (takeFree s).2 a (c.at s a)
      else putPlain (accessMem s false m a c.size) a c
    (regions.foldl (rereadRegion a c.size s) t, none)

/-- R217, R218: what a read takes from memory that touches Firn windows, with its statistics: granule by granule. -/
def noteGranules (fetch : Bool) (m : MemSource) : Nat → State → Nat → Nat → State
  | 0, s, _, _ => s
  | n + 1, s, a, len =>
    if len = 0 then s
    else
      let k := min len (4096 - a % 4096)
      let s := match firnRegion s a with
        | none => accessMem s fetch m a k
        | some r =>
          let b := (a - frBase s r) / 4096
          let e := mapOf s r b
          let s := if mapCoded e then accessMem s fetch m (blockAddr s r b) (mapBytes e) else if mapValid e then accessMem s fetch m a k else s
          let w := winMem (hbmCtl s.order a)
          let s := rinc64 s (wreg w oFIRN_IN_LO) (if mapCoded e then mapBytes e else if mapValid e then k else 0)
          let s := rinc64 s (wreg w oFIRN_OUT_LO) k
          if mapCoded e && decide (k < 4096) then stall (rinc s (wreg w oFIRN_PARTIAL) 1) a else s
      noteGranules fetch m n s (a + k) (len - k)

/-! ### Accumulate-writes (R204) -/

/-- F32 words added element by element to memory, nearest even, NaN canonical. -/
def accWords (add : Word → Word → Word) (s : State) (a : Nat) (bs : List Byte) : List Byte :=
  (List.range (bs.length / 4)).flatMap (fun i => le32 (add (w32 (rd32 s (a + 4 * i))) (w32 (leAt bs (4 * i) 4))).toNat)

end Sys2Proof.Machine
end

