-- ==== Sys2Proof/Machine/Floes.lean ====
section
/-! DEFINITION. Module ids (R317), floe addresses (R21, R27), the numbers of queues (R177, R566), and the core of a floe (R154). -/

namespace Sys2Proof.Machine

/-! ### Module ids and floe addresses -/

def myId (s : State) : Nat := rfld s rTFR_ID 17 0
/-- R317: an axis's field of a module id: X 4:0, Y 9:5, Z 14:10, W 17:15. -/
def axisOf (id a : Nat) : Nat := if a = 0 then nbits id 4 0 else if a = 1 then nbits id 9 5 else if a = 2 then nbits id 14 10 else nbits id 17 15
def axisShift (a : Nat) : Nat := 5 * a
def setAxis (id a c : Nat) : Nat := if a = 3 then nput id 17 15 c else nput id (5 * a + 4) (5 * a) c
/-- R317: ring size of an axis. -/
def ringSize (s : State) (a : Nat) : Nat := axisOf (rfld s rTFR_DIM 17 0) a + 1
def inTorus (s : State) (id : Nat) : Bool := (List.range 4).all (fun a => decide (axisOf id a < ringSize s a))

/-- A floe address (R27). -/
structure Floe where
  level : Nat
  isLocal : Bool
  rsvd : Nat
  engine : Nat
  cluster : Nat
  die : Nat
  module : Nat
  deriving DecidableEq, Repr
def floeOf (t : Nat) : Floe := ⟨nbits t 31 29, nbit t 28, nbits t 27 25, nbits t 24 22, nbits t 21 19, nbits t 18 18, nbits t 17 0⟩
/-- The floe address, with LOCAL 0, of a floe of this module. -/
def engFloe (s : State) (e : Nat) : Nat := (e % 8) * 2 ^ 22 + (e / 8 % 6) * 2 ^ 19 + (e / 48) * 2 ^ 18 + myId s
def cluFloe (s : State) (c : Nat) : Nat := 2 ^ 29 + (c % 6) * 2 ^ 19 + (c / 6) * 2 ^ 18 + myId s
def dieFloe (s : State) (d : Nat) : Nat := 2 * 2 ^ 29 + d * 2 ^ 18 + myId s
def modFloe (s : State) : Nat := 3 * 2 ^ 29 + myId s
def modFloeOf (id : Nat) : Nat := 3 * 2 ^ 29 + id
/-- R21: global indices. -/
def floeCluster (f : Floe) : Nat := 6 * f.die + f.cluster
def floeEngine (f : Floe) : Nat := 48 * f.die + 8 * f.cluster + f.engine

/-! ### Queue numbers (R177, R566) -/

/-- Queues of this module in one numbering: engine floe queues 2e + q, cluster 192 + 4c + q, die 240 + 8d + q, module 256 + q. -/
def queueCount : Nat := 272
/-- The queue whose block holds an offset of the register space, and the offset in the block. -/
def queueAtOff (off : Nat) : Option (Nat × Nat) :=
  let w := offWin off
  let o := offIn off
  if 0x40 ≤ w ∧ w < 0xA0 ∧ 0x2000 ≤ o ∧ o < 0x2080 then some (2 * (w - 0x40) + (o - 0x2000) / 64, o % 64)
  else if 0x30 ≤ w ∧ w < 0x3C ∧ 0x2000 ≤ o ∧ o < 0x2100 then some (192 + 4 * (w - 0x30) + (o - 0x2000) / 64, o % 64)
  else if w = 0 ∧ 0x2000 ≤ o ∧ o < 0x2400 then some (240 + (o - 0x2000) / 64, o % 64)
  else if w = 0 ∧ 0x3000 ≤ o ∧ o < 0x3400 then some (256 + (o - 0x3000) / 64, o % 64)
  else none
/-- The level of a queue's floe and its queue number there. -/
def qLevel (q : Nat) : Nat := if q < 192 then 0 else if q < 240 then 1 else if q < 256 then 2 else 3
def qNum (q : Nat) : Nat := if q < 192 then q % 2 else if q < 240 then q % 4 else if q < 256 then q % 8 else q - 256
/-- The floe address of a queue's floe. -/
def qFloe (s : State) (q : Nat) : Nat :=
  if q < 192 then engFloe s (q / 2) else if q < 240 then cluFloe s ((q - 192) / 4) else if q < 256 then dieFloe s ((q - 240) / 8) else modFloe s
/-- The window that holds a queue's block. -/
def qWin (q : Nat) : Nat := if q < 192 then winEng (q / 2) else if q < 240 then winClu ((q - 192) / 4) else 0
/-- R174: how many commands a queue dispatches beyond the oldest incomplete one. -/
def qDepth (q : Nat) : Nat := if q < 192 then 4 else if q < 240 then 8 else if q < 256 then 16 else 32
/-- R154: the hart that runs a part: of an engine core or of a cluster core. -/
def coreOf (fl : Nat) : Nat := let f := floeOf fl; if f.level = 0 then floeEngine f else 96 + floeCluster f
/-- R154: the hart that runs a queue. DESIGN CHOICE (log entry 12): the first management core for the queues of dies and of the module, whose runtime the
spec places on no core. -/
def qHart (q : Nat) : Nat := if q < 192 then q / 2 else if q < 240 then 96 + (q - 192) / 4 else 108

end Sys2Proof.Machine
end

