-- ==== Sys2Proof/Machine/Errors.lean ====
section
/-! DEFINITION. Error codes (R553), records (R554–R556), the head page's error and event registers (R582, R583), state codes and generations (R581, R395), and the events' way to the sessions (R529). -/

namespace Sys2Proof.Machine

/-! ### Codes (R553) -/

def eBAD_OPCODE : Nat := 0x0101
def eBAD_FLOE : Nat := 0x0102
def eBAD_LEVEL : Nat := 0x0103
def eUNIT_ABSENT : Nat := 0x0104
def eFLOE_FENCED : Nat := 0x0105
def eADDR_RANGE : Nat := 0x0106
def eBAD_DESC : Nat := 0x0107
def eTIME_INVALID : Nat := 0x0108
def eBAD_FORMAT : Nat := 0x0109
def eBAD_SHAPE : Nat := 0x010A
def eBAD_DRAIN : Nat := 0x010B
def eDELUB_UNSUPPORTED : Nat := 0x010C
def eBAD_CTR : Nat := 0x010D
def eFIRN_ACCUM : Nat := 0x010E
def eFIRN_REGION : Nat := 0x010F
def eQ_OVERRUN : Nat := 0x0110
def eWAIT_TIMEOUT : Nat := 0x0201
def eOWNER_LOST : Nat := 0x0202
def eCTR_FREE : Nat := 0x0203
def eCTR_LIVE : Nat := 0x0204
def eCTR_QUOTA : Nat := 0x0205
def eSIG_DROPPED : Nat := 0x0206
def ePREEMPTED : Nat := 0x0207
def eMX_CHECK : Nat := 0x0301
def eSTREAM_FAIL : Nat := 0x0302
def eKERNEL_FAULT : Nat := 0x0303
def eKERNEL_TIMEOUT : Nat := 0x0304
def eMEM_UE : Nat := 0x0305
def eFIRN_CORRUPT : Nat := 0x0306
def eFIRN_IMAGE_FULL : Nat := 0x0307
def eFIRN_IMAGE_BAD : Nat := 0x0308
def eFLOE_RESET : Nat := 0x0309
def eBAD_GROUP : Nat := 0x0401
def eGEN_NOT_RETAINED : Nat := 0x0402
def eUPD_DISABLED : Nat := 0x0403
def eSTEP_ORDER : Nat := 0x0404
def eNO_INGEST : Nat := 0x0405
def eNO_VOTE : Nat := 0x0406
def eGEN_TIMEOUT : Nat := 0x0407
def eTIER_TIMEOUT : Nat := 0x0408
def eAUDIT_MISMATCH : Nat := 0x0409
def eREPLY_TIMEOUT : Nat := 0x0501
def eUNREACHABLE : Nat := 0x0502
def eTARGET_RESET : Nat := 0x0503
def eLINK_POISON : Nat := 0x0504
def eCOL_TIMEOUT : Nat := 0x0505
def eCOL_ABORT : Nat := 0x0506
def eCOL_MISMATCH : Nat := 0x0507
def eCOL_DISABLED : Nat := 0x0508
def eROUND_PASSED : Nat := 0x0601
def ePEER_STATE : Nat := 0x0602
def eSXU_DISABLED : Nat := 0x0603
def eTHAW_TIMEOUT : Nat := 0x0604
def eSNAP_LATE : Nat := 0x0605
def eJOIN_TIMEOUT : Nat := 0x0606
def eUNIT_RESET : Nat := 0x0607
def eCIPHER_DOWN : Nat := 0x0701
def eCPH_DISABLED : Nat := 0x0702
def eCPH_NOKEY : Nat := 0x0703
def eCPH_USAGE : Nat := 0x0704
def eCPH_AUTH : Nat := 0x0705
def eCPH_CTX_STATE : Nat := 0x0706
def eCPH_ORDER : Nat := 0x0707
def eCPH_KEY_MISMATCH : Nat := 0x0708
def eCPH_LIMIT : Nat := 0x0709
def eHOST_TIMEOUT : Nat := 0x0801
def eREPLAY_DIVERGE : Nat := 0x0901

/-! ### Records -/

/-- The command a record names (R554): the floe of its queue, the queue number and the sequence number. -/
structure CmdName where
  floe : Nat
  queue : Nat
  seq : Nat
  deriving DecidableEq, Repr

/-- R554: the object, kind in bits 63:60. -/
def objOf (kind v : Nat) : Nat := kind % 16 * 2 ^ 60 + v % 2 ^ 60

/-- The block type and instance of a window. -/
def winType (w : Nat) : Nat := match winBlk w with | some (b, _) => blkType b | none => 0
def winInst (w : Nat) : Nat := match winBlk w with | some (_, i) => i | none => 0

def info4 (i : List Nat) : List Byte := le32 ((i[0]?).getD 0) ++ le32 ((i[1]?).getD 0) ++ le32 ((i[2]?).getD 0) ++ le32 ((i[3]?).getD 0)

/-- R554: an error record of 64 bytes. -/
def errorRecord (s : State) (w code obj : Nat) (cmd : Option CmdName) (info : List Nat) : List Byte :=
  le32 (code * 65536 + winType w * 256 + b2n cmd.isSome) ++ le32 (winInst w) ++ le64 (siteNow s) ++ le64 obj ++
    (match cmd with
     | some c => le32 c.floe ++ le32 (c.queue % 256) ++ le32 c.seq
     | none => le32 0 ++ le32 0 ++ le32 0) ++
    le32 0 ++ info4 info ++ le64 0
/-- R556: an event record. -/
def eventRecord (s : State) (w code e0 e1 : Nat) : List Byte :=
  le32 (code * 65536 + winType w * 256) ++ le32 (winInst w) ++ le64 (siteNow s) ++ le32 e0 ++ le32 e1 ++ zeroBytes 40

/-! ### Control-protocol messages (R517, R523) -/

def sessDefault (_ : Nat) : Sess := {}
def getSess (s : State) (i : Nat) : Sess := smGet sessDefault s.sess i
def putSess (s : State) (i : Nat) (x : Sess) : State := { s with sess := smSet sessDefault s.sess i x }
def natsOf (b : List Byte) : List Nat := b.map BitVec.toNat
def bytesOf (l : List Nat) : List Byte := l.map (BitVec.ofNat 8)

/-- R517: a message's 32-byte header. -/
def ctrlHeader (m : CMsg) : List Byte :=
  le32 (m.typ * 2 ^ 24 + m.ver % 16 * 2 ^ 20 + m.session % 16 * 2 ^ 16 + m.len % 2 ^ 11) ++ le32 m.status ++ le64 m.seq.toNat ++ le64 m.ackSeq.toNat ++ le64 0
/-- R523: the IV of a sealed message. -/
def ctrlIv (seq : DWord) : List Nat := [0, 0, 0, 0] ++ beBytes seq.toNat 8
/-- R523: a message of the module under the session's key: payload padded to 16 bytes, tag behind. -/
def ctrlSeal (x : Sess) (m : CMsg) : CMsg :=
  let r := gcmSealBytes x.kOut (ctrlIv m.seq) (natsOf (ctrlHeader m)) (pad16 (natsOf m.body))
  { m with body := bytesOf r.1, tag := bytesOf r.2, sealed := true }

/-- R447: bytes that a port has sent in a class: 0 CTRL, 1 BULK, 2 SITE. -/
def ethSent (s : State) (port cls bytes : Nat) : State := rinc64 s (wreg (winEth port) (oETH_TXB_LO + 16 * cls)) bytes
/-- R444: whether a port carries traffic. -/
def ethUp (s : State) (port : Nat) : Bool := rbit s (wreg (winEth port) oETH_CTRL) 0 && rbit s (wreg (winEth port) oETH_LINK) 0
/-- The 802.1Q tag of a port's frames, by a tag register, where they are tagged, and its length. -/
def frameTag (s : State) (tag : Nat) : Option Nat := if rbit s tag 12 then some (rfld s tag 15 13 * 8192 + rfld s tag 11 0) else none
def tagLen (s : State) (tag : Nat) : Nat := if rbit s tag 12 then 4 else 0
/-- R444, R537: the framing that the registers of a port's page give: source addresses, next hop, DSCP and tag. -/
def portWire (s : State) (port ip gw tag dip : Nat) (sport : Option Nat) (dport : Nat) : Wire :=
  let o (x : Nat) : Nat := wreg (winEth port) x
  { port := port + 1, smac := macAt s (o oETH_MAC_LO), dmac := some (macAt s (o gw)), sip := ip6At s (o ip), dip := dip, sport := sport, dport := dport,
    hop := none, dscp := some (rfld s (o tag) 21 16), tag := frameTag s (o tag) }
/-- R516, R537: the framing of a control message; on the management port from the address MG_IP6. -/
def ctrlWire (s : State) (m : CMsg) : Wire :=
  let udp (p : Nat) : Option Nat := some (rfld s (wreg (winEth p) oETH_C_UDP) 15 0)
  if m.via = 0 then
    { port := 0, smac := Config.mgmtMac.toNat, dmac := none, sip := ip6At s rMG_IP6_0, dip := m.fromAddr, sport := udp 0, dport := m.fromPort, hop := none,
      dscp := none, tag := none }
  else portWire s (m.via - 1) oETH_C_IP6_0 oETH_C_GW_LO oETH_C_TAG m.fromAddr (udp (m.via - 1)) m.fromPort
/-- A control message leaves: over ETH0 or ETH1 in a frame of the CTRL class, with 94 bytes of headers and 4 of a tag where frames are tagged,
while the port's link is up. -/
def sendCtrl (s : State) (m : CMsg) : State :=
  let p := m.via - 1
  if m.via = 0 then emit s (.ctrl (ctrlWire s m) m)
  else if ethUp s p then emit (ethSent s p 0 (94 + m.body.length + m.tag.length + tagLen s (wreg (winEth p) oETH_C_TAG))) (.ctrl (ctrlWire s m) m)
  else s

/-- The EVENT message of a session that carries a record and a lost count under a SEQ. -/
def eventMsg (x : Sess) (i : Nat) (seq : DWord) (body : List Byte) : CMsg :=
  ctrlSeal x { via := x.port, fromAddr := x.addr, fromPort := x.udp, typ := 0x18, session := i, seq := seq, len := body.length, body := body }
/-- R529: an event sent to an open session, with the number of events lost since the last delivery. -/
def sendEvent (s : State) (i : Nat) (r : List Byte) : State :=
  let x := getSess s i
  if x.st ≠ 2 then s
  else if 256 ≤ x.events.length then
    rinc (putSess s i { x with lost := x.lost + 1 }) rTPM_EVT_LOST 1
  else
    let body := r ++ le32 x.lost
    sendCtrl (putSess s i { x with events := x.events ++ [⟨x.seqOut, body, s.clock⟩], seqOut := x.seqOut + 1, lost := 0 })
      (eventMsg x i x.seqOut body)
def sessIds : List Nat := List.range 16
def anyOpen (s : State) : Bool := sessIds.any (fun i => (getSess s i).st == 2)
/-- R529, R555: every record of the FIFO sent to every open session, where one is open. -/
def drainFifo (s : State) : State :=
  if anyOpen s then
    s.errFifo.foldl (fun s r => sessIds.foldl (fun s i => sendEvent s i r) s) { s with errFifo := [] }
  else s

/-! ### Sessions' registers and ends (R536, R520, R530) -/

/-- R536: the registers that show a session. -/
def refreshSess (s : State) (i : Nat) : State :=
  let x := getSess s i
  let o (r : Nat) : Nat := r + 32 * i
  let s := rputN s (o rSESS_STAT) (x.port * 64 + x.role * 16 + x.st)
  let s := (List.range 4).foldl (fun s k => rputN s (o (rSESS_IP6_0 + 4 * k)) (x.addr / 2 ^ (96 - 32 * k) % 2 ^ 32)) s
  let s := rput64 s (o rSESS_SEQ_LO) x.seqIn.toNat
  rputF s rTPM_SESS_OPEN i i (b2n (x.st == 2))
/-- A session's state changed, with its registers. -/
def setSess (s : State) (i : Nat) (x : Sess) : State := refreshSess (putSess s i x) i
/-- A session closed: its heartbeat reads 0 and its firmware lock is free (R520, R530). -/
def closeSess (s : State) (i : Nat) : State :=
  let s := rputN (setSess s i {}) (rMBX_HB + 4 * (112 + i)) 0
  if s.fwLock = some i then rputF { s with fwLock := none } rTPM_FW 7 4 0xF else s
/-- R515: firmware's copy of the identity key overwritten, and every session closed. -/
def dropIdentity (s : State) : State :=
  sessIds.foldl (fun s i => if (getSess s i).st = 0 then s else closeSess s i) { s with idKey := none }

/-- R300, R556: a MAILBOX event, to the session that RECV names only. -/
def postMailbox (s : State) (owner n sender : Nat) : State :=
  let r := eventRecord s winMbx 0x8002 n sender
  if 112 ≤ owner ∧ owner < 128 then sendEvent s (owner - 112) r else s

/-! ### The head page: what is set at once, with the records that are then posted -/

/-- The block's own event register, for a record's E1 (R556). -/
def ownEvt (s : State) (w : Nat) : Nat :=
  if w = winSxu then rn s rSXU_EVT else if w = winTpw then rn s rPW_EVT else if w = winCph then rn s rCPH_ALARM else 0
/-- R583: an event bit set; a bit newly set and enabled gives a BLOCK_EVENT record. -/
def evtMark (s : State) (w bit own : Nat) : State × List (List Byte) :=
  let s1 := rputBit s (wreg w hEVT_STAT) bit true
  (s1, if !rbit s (wreg w hEVT_STAT) bit && rbit s (wreg w hEVT_EN) bit then [eventRecord s1 w 0x8001 (2 ^ bit) own] else [])
/-- R582: an error captured in the head page of the reporting block. -/
def captureMark (s : State) (w code : Nat) (info : List Nat) : State × List (List Byte) :=
  let s := rinc s (wreg w hERR_COUNT) 1
  let s :=
    if rbit s (wreg w hERR_FIRST) 0 then rputBit s (wreg w hERR_STAT) 1 true
    else
      let s := rputN s (wreg w hERR_FIRST) (code * 65536 + 1)
      (List.range 4).foldl (fun s i => rputN s (wreg w (0x30 + 4 * i)) ((info[i]?).getD 0)) s
  let s := rputBit s (wreg w hERR_STAT) 0 true
  if rbit s (wreg w hERR_EN) 0 then evtMark s w 0 (ownEvt s w) else (s, [])
/-- R175: whether a command is one that its queue, on this module, dispatched after the command that failed. -/
def abandons (s : State) (cmd : Option CmdName) : Bool :=
  match cmd with
  | none => false
  | some c => s.queues.any (fun p => match p.2.failedAt with
    | some f => qFloe s p.1 == c.floe && qNum p.1 == c.queue && decide ((f - p.2.done).toNat < (w32 c.seq - p.2.done).toNat)
    | none => false)
/-- R552: one error: the head page, and the records of its event and its own. An abandoned command writes none. -/
def errorMark (s : State) (w code obj : Nat) (cmd : Option CmdName) (info : List Nat) : State × List (List Byte) :=
  let r := captureMark s w code info
  (r.1, r.2 ++ if abandons s cmd then [] else [errorRecord r.1 w code obj cmd info])

/-! ### Memory errors and corrections (R200–R202, R225) -/

/-- The window that counts and reports for an address: the controller of an HBM address, or the store's. -/
def memWin (s : State) (a : Nat) : Nat :=
  if inHbm s.order a then winMem (hbmCtl s.order a)
  else if inCstore a then winClu ((a - cstoreBase) / cstoreSize) else winEng ((a - estoreBase) / estoreSize)
/-- R200, R224, R226: the code word at an address corrected, with the event of a controller at its threshold. -/
def ceMark (s : State) (a : Nat) : State × List (List Byte) :=
  let w := memWin s a
  if inHbm s.order a then
    let s := rinc s (wreg w oMEM_CE) 1
    if rbit s (wreg w oMEM_CTRL) 1 && rn s (wreg w oMEM_CE) == rn s (wreg w oMEM_CE_THRESH) then evtMark s w 4 0 else (s, [])
  else (rinc s (wreg w oST_CE) 1, [])
/-- Every weak word that satisfies p read, corrected and written back. -/
def correctMark (s : State) (p : Nat → Bool) : State × List (List Byte) :=
  (s.weak.filter p).foldl (fun r a => ((ceMark r.1 a).1, r.2 ++ (ceMark r.1 a).2)) ({ s with weak := s.weak.filter (fun w => !p w) }, [])
/-- The error of an address that badIn or badPartly gives: an uncorrectable code word, or a block that does not decode (R225). -/
def ueErr (s : State) (a : Nat) : Nat := if s.badWords.any (fun p => p.word == a) then eMEM_UE else eFIRN_CORRUPT
/-- R225's kind. -/
def ueKind (s : State) (a : Nat) : Nat :=
  if ueErr s a = eFIRN_CORRUPT then 3 else if !inHbm s.order a then 4 else if s.badWords.any (fun p => p.word == a && p.onDie) then 2 else 1
/-- An error of memory met by an access (R201, R202, R225): the controller of an HBM word or the store's window reports it. -/
def ueMark (s : State) (a requester : Nat) (cmd : Option CmdName) : State × List (List Byte) :=
  let w := memWin s a
  let e := ueErr s a
  let s := if e = eMEM_UE then rinc s (wreg w (if inHbm s.order a then oMEM_UE else oST_UE)) 1 else s
  errorMark s w e (objOf 2 (a % 2 ^ 48)) cmd [a % 2 ^ 32, a / 2 ^ 32, requester, ueKind s a]

/-! ### The error collector (R555, R556) -/

/-- A record of 64 bytes written into the ring at an address, with the records of what it meets there: its write belongs to the control cores
(DESIGN CHOICE, log entry 12), and has no command behind it. -/
def ringWrite (s : State) (a : Nat) (r : List Byte) : State × List (List Byte) :=
  let c := correctMark s (mergesWith s a 64)
  match putStore c.1 (.core 108) a (.bytes r) with
  | (t, none) => (t, c.2)
  | (t, some w) => ((ueMark t w 0 none).1, c.2 ++ (ueMark t w 0 none).2)
/-- R555: a record into the ring, where the ring is enabled and has room. -/
def ringRecord (s : State) (r : List Byte) : State × List (List Byte) :=
  if rbit s rERR_RING_CFG 31 then
    let n := rfld s rERR_RING_CFG 4 0
    let sz := 2 ^ (if 6 ≤ n ∧ n ≤ 20 then n else 6)
    let wr := rn s rERR_RING_WR
    if (rget s rERR_RING_WR - rget s rERR_RING_RD).toNat = sz then (rinc s rERR_RING_LOST 1, [])
    else
      let x := ringWrite s (rn64 s rERR_RING_BASE_LO + 64 * (wr % sz)) r
      (rput x.1 rERR_RING_WR (rget s rERR_RING_WR + 1), x.2)
  else (s, [])
/-- A record into the FIFO. -/
def fifoRecord (s : State) (r : List Byte) : State :=
  if s.errFifo.length < 256 then { s with errFifo := s.errFifo ++ [r] } else rinc s rERR_FIFO_LOST 1
/-- R555, R556: a record given to the error collector. The records of what its own write into the ring met go to the FIFO alone (DESIGN CHOICE, log
entry 69). -/
def postRecord (s : State) (r : List Byte) : State :=
  let x := ringRecord s r
  drainFifo ((r :: x.2).foldl fifoRecord x.1)
/-- R291, R552: a record of SYN about a command. -/
def postFor (s : State) (cmd : Option CmdName) (r : List Byte) : State := if abandons s cmd then s else postRecord s r
/-- What has been set, with its records posted. -/
def postMarks (x : State × List (List Byte)) : State := x.2.foldl postRecord x.1

def evtSet (s : State) (w bit own : Nat) : State := postMarks (evtMark s w bit own)
def captureErr (s : State) (w code : Nat) (info : List Nat) : State := postMarks (captureMark s w code info)
/-- R552: one error reported: head page and record. -/
def reportErr (s : State) (w code obj : Nat) (cmd : Option CmdName) (info : List Nat) : State := postMarks (errorMark s w code obj cmd info)
def reportUe (s : State) (a requester : Nat) (cmd : Option CmdName) : State := postMarks (ueMark s a requester cmd)
def corrected (s : State) (a : Nat) : State := postMarks (ceMark s a)
def correctWhere (s : State) (p : Nat → Bool) : State := postMarks (correctMark s p)

/-! ### State codes and generations (R395, R581) -/

def blkGen (s : State) (w : Nat) : Nat := rfld s (wreg w hBLK_STATE) 31 16
def blkCode (s : State) (w : Nat) : Nat := rfld s (wreg w hBLK_STATE) 7 0
/-- R395: the generation raised by 1. -/
def bumpGen (s : State) (w : Nat) : State := rputF s (wreg w hBLK_STATE) 31 16 (blkGen s w + 1)
/-- R581, R395, R583: the state code changed by the data path. -/
def setCode (s : State) (w code : Nat) : State :=
  if blkCode s w = code then s
  else evtSet (bumpGen (rputF s (wreg w hBLK_STATE) 7 0 code) w) w 1 (ownEvt s w)

/-! ### A unit's reads and writes -/

/-- A read of bytes by a source: what it corrects (R200), and what it takes from memory, with its statistics (R217, R218); `fetch` says that it is an
engine's operand fetch (R377). -/
def noteReadAs (s : State) (fetch : Bool) (m : MemSource) (a len : Nat) : State :=
  let s := correctWhere s (fetches s a len)
  if firnTouches s a len then noteGranules fetch m (len / 4096 + 2) s a len else accessMem s fetch m a len
def noteRead (s : State) (m : MemSource) (a len : Nat) : State := noteReadAs s false m a len
def noteReads (s : State) (m : MemSource) (l : List (Nat × Nat)) : State := l.foldl (fun s r => noteRead s m r.1 r.2) s
def noteFetches (s : State) (e : Nat) (l : List (Nat × Nat)) : State := l.foldl (fun s r => noteReadAs s true (.engine e) r.1 r.2) s
/-- A write by a source (R200, R209): what it merges with is read and corrected first. With it the uncorrectable word that stops it. -/
def storeContent (s : State) (m : MemSource) (a : Nat) (c : Content) : State × Option Nat := putStore (correctWhere s (mergesWith s a c.size)) m a c
def storeBytes (s : State) (m : MemSource) (a : Nat) (bs : List Byte) : State × Option Nat := storeContent s m a (.bytes bs)
/-- A write of n bytes whose content is undefined. -/
def storeUndef (s : State) (m : MemSource) (a n : Nat) : State × Option Nat := storeContent s m a (.undef n)
def store (s : State) (m : MemSource) (a : Nat) (bs : List Byte) : State := (storeBytes s m a bs).1
/-- A write that fails no command where uncorrectable data stops it: the error is reported and the data stays (R202). -/
def storeNoted (s : State) (m : MemSource) (a : Nat) (bs : List Byte) (requester : Nat) (cmd : Option CmdName) : State :=
  match storeBytes s m a bs with
  | (t, some w) => reportUe t w requester cmd
  | (t, none) => t

end Sys2Proof.Machine
end

