-- ==== Sys2Proof/Machine/Operands.lean ====
section
/-! DEFINITION. Reading a command: the descriptor (R159), valid floe addresses (R28), capability records (R40), group entries (R344), operand descriptors and tensors (R165, R193), and the command that a record names. -/

namespace Sys2Proof.Machine

/-! ### Groups (R344) -/

def gReg (i o : Nat) : Nat := wreg winCol (o % 65536 + 32 * i)
def gValid (s : State) (i : Nat) : Bool := rbit s (gReg i rG_CFG) 31
def gGid (s : State) (i : Nat) : Nat := rfld s (gReg i rG_CFG) 11 0
def gOrigin (s : State) (i : Nat) : Nat := rfld s (gReg i rG_ORIGIN) 17 0
def gExtent (s : State) (i : Nat) : Nat := rfld s (gReg i rG_EXTENT) 17 0
def gRoot (s : State) (i : Nat) : Nat := rfld s (gReg i rG_ROOT) 17 0
def gAxorder (s : State) (i : Nat) : Nat := rfld s (gReg i rG_AXORDER) 7 0
/-- The valid entry of a group id. -/
def groupEntry (s : State) (gid : Nat) : Option Nat := (List.range 64).find? (fun i => gValid s i && gGid s i == gid)
/-- R344: the position of a module on axis a of entry i, and whether it lies in the box. -/
def gPos (s : State) (i a id : Nat) : Nat := (axisOf id a + ringSize s a - axisOf (gOrigin s i) a) % ringSize s a
def boxSize (s : State) (i a : Nat) : Nat := axisOf (gExtent s i) a + 1
def inBox (s : State) (i id : Nat) : Bool := (List.range 4).all (fun a => decide (gPos s i a id < boxSize s i a))
/-- The module at positions (px, py, pz, pw) of the box. -/
def gModule (s : State) (i : Nat) (p : List Nat) : Nat :=
  (List.range 4).foldl (fun id a => setAxis id a ((axisOf (gOrigin s i) a + (p[a]?).getD 0) % ringSize s a)) 0
/-- The members of a box, X fastest. -/
def gMembers (s : State) (i : Nat) : List Nat :=
  (List.range (boxSize s i 3)).flatMap (fun w => (List.range (boxSize s i 2)).flatMap (fun z =>
    (List.range (boxSize s i 1)).flatMap (fun y => (List.range (boxSize s i 0)).map (fun x => gModule s i [x, y, z, w]))))

/-! ### Validity (R28) and what lies beneath a floe -/

def floeValid (s : State) (t : Nat) : Bool :=
  let f := floeOf t
  decide (f.level ≤ 4) && f.rsvd == 0 && decide (f.cluster ≤ 5) &&
    (f.level == 0 || f.engine == 0) && (decide (f.level ≤ 1) || f.cluster == 0) && (decide (f.level ≤ 2) || f.die == 0) &&
    (if f.level = 4 then !f.isLocal && decide (f.module < 4096) && f.module != 0 && (groupEntry s f.module).isSome
     else f.isLocal || inTorus s f.module)
/-- Whether a floe address names a floe of this module. -/
def floeHere (s : State) (t : Nat) : Bool := let f := floeOf t; f.level != 4 && (f.isLocal || f.module == myId s)
/-- The module a floe address names. -/
def floeModule (s : State) (t : Nat) : Nat := let f := floeOf t; if f.isLocal then myId s else f.module

def fenced (s : State) (e : Nat) : Bool := rbit s (wreg (winEng e) oENG_CTRL) 0
/-- Engines beneath a floe of this module, in increasing index. -/
def enginesUnder (f : Floe) : List Nat :=
  if f.level = 0 then [floeEngine f]
  else if f.level = 1 then (List.range 8).map (fun e => 8 * floeCluster f + e)
  else if f.level = 2 then (List.range 48).map (fun e => 48 * f.die + e)
  else List.range 96
def liveUnder (s : State) (f : Floe) : List Nat := (enginesUnder f).filter (fun e => !fenced s e)
/-- Clusters beneath a floe of level 1 and above. -/
def clustersUnder (f : Floe) : List Nat :=
  if f.level ≤ 1 then [floeCluster f] else if f.level = 2 then (List.range 6).map (fun c => 6 * f.die + c) else List.range 12
def clusterLive (s : State) (c : Nat) : Bool := (List.range 8).any (fun e => !fenced s (8 * c + e))
def dieLive (s : State) (d : Nat) : Bool := (List.range 6).any (fun c => clusterLive s (6 * d + c))

/-! ### Capability records (R40, R41) -/

/-- The counter quota of a level (R381). -/
def quotaOf (level : Nat) : Nat := if level = 0 then 128 else if level = 1 then 1024 else if level = 2 then 4096 else 32768
/-- R40: the eight words of a record. -/
def capRecord (s : State) (f : Floe) : List Nat :=
  let live := (liveUnder s f).length
  let kids := if f.level = 0 then (live, 1)
    else if f.level = 1 then (live, 8)
    else if f.level = 2 then (((List.range 6).filter (fun c => clusterLive s (6 * f.die + c))).length, 6)
    else (((List.range 2).filter (fun d => dieLive s d)).length, 2)
  [kids.1 * 2 ^ 24 + kids.2 * 2 ^ 16 + 3 * 256 + f.level, live,
   (if f.level = 0 then 2048 else if f.level = 1 then 16384 else 0),
   (if f.level = 3 then hbmGib s.order else 0), 16384 * live, 1800, 1200, quotaOf f.level]

/-! ### Descriptor (R159) -/

def dFam (d : List Byte) : Nat := leAt d 3 1 / 16
def dVar (d : List Byte) : Nat := leAt d 3 1 % 16
def dFlags (d : List Byte) : Nat := leAt d 2 1
def dW0 (d : List Byte) : Bool := nbit (dFlags d) 7
def dW1 (d : List Byte) : Bool := nbit (dFlags d) 6
def dS0 (d : List Byte) : Bool := nbit (dFlags d) 5
def dS1 (d : List Byte) : Bool := nbit (dFlags d) 4
def dWread (d : List Byte) : Bool := nbit (dFlags d) 3
def dAcked (d : List Byte) : Bool := nbit (dFlags d) 2
def dOpflags (d : List Byte) : Nat := leAt d 1 1
def dDelub (d : List Byte) : Bool := nbit (dOpflags d) 0
def dAvoid (d : List Byte) : Nat := leAt d 0 1
def dTarget (d : List Byte) : Nat := leAt d 4 4
def dNotBefore (d : List Byte) : Nat := leAt d 8 8
def dThresh (d : List Byte) (w : Nat) : Nat := leAt d (0x10 + 8 * w) 8
def dTimeout (d : List Byte) (w : Nat) : Nat := leAt d (0x20 + 4 * w) 4
def dWindex (d : List Byte) (w : Nat) : Nat := leAt d (0x28 + 2 * w) 2
def dSindex (d : List Byte) (w : Nat) : Nat := leAt d (0x2C + 2 * w) 2
def dMods (d : List Byte) : Nat := leAt d 0x30 8
def dTail (d : List Byte) : Nat := leAt d 0x38 8
def dWmodule (d : List Byte) (w : Nat) : Nat := if w = 0 then nbits (dMods d) 17 0 else nbits (dMods d) 35 18
def dSmodule (d : List Byte) (w : Nat) : Nat := if w = 0 then nbits (dMods d) 53 36 else nbits (dTail d) 17 0
def dArgPtr (d : List Byte) : Nat := nbits (dTail d) 63 30 * 128
def dWgen (d : List Byte) : Nat := nbits (dTail d) 29 18
/-- A descriptor with another target (a part's, R190) and without waits, not-before time and signals (R29). -/
def partDesc (d : List Byte) (target : Nat) : List Byte :=
  [0] ++ (d.drop 1).take 1 ++ [BitVec.ofNat 8 (dFlags d % 16)] ++ (d.drop 3).take 1 ++ le32 target ++ le64 0 ++ d.drop 16

/-- The bytes of a family's argument block (R167, R168, R171, R219, R241, R274, R349, R365, R410, R487); 0 where it has none. -/
def argSize (fam var : Nat) : Nat :=
  if fam = 1 then 128 else if fam = 2 then 160 else if fam = 3 ∨ fam = 4 then 32
  else if fam = 5 then 64 else if fam = 6 ∨ fam = 8 ∨ fam = 0xD then 32 else if fam = 7 then 32
  else if fam = 9 then (if var = 1 then 32 else 0) else if fam = 0xA then 128 else if fam = 0xB then 0
  else if fam = 0xC then 32 else if fam = 0xE then 96 else if fam = 0xF then 64 else 0

/-! ### Operand descriptors (R165) and tensors (R193) -/

structure Opd where
  base : Nat
  scale : Nat
  tscale : Nat
  stride : Nat
  rsvd : Nat
  colscale : Bool
  trans : Bool
  group : Nat
  spec : Nat
  deriving DecidableEq, Repr
def opdOf (b : List Byte) (o : Nat) : Opd :=
  let w := leAt b (o + 0x18) 4
  let g := leAt b (o + 0x1C) 4
  ⟨leAt b o 8, leAt b (o + 8) 8, leAt b (o + 0x10) 8, nbits w 31 6, nbits w 5 2, nbit w 1, nbit w 0, nbits g 31 8, nbits g 7 0⟩
def spFmt (spec : Nat) : Nat := spec % 16
def spTscale (spec : Nat) : Bool := nbit spec 5
def spCeil (spec : Nat) : Bool := nbit spec 6
def spBdir (spec : Nat) : Bool := nbit spec 7
/-- R43, R44: a well-formed specifier: no reserved code or bit, BDIR and SRULE only for block-scaled formats. -/
def specOk (spec : Nat) : Bool :=
  decide (spFmt spec ≤ 11) && !nbit spec 4 && (isBlockFmt (spFmt spec) || (!spBdir spec && !spCeil spec))
/-- R42: the places. -/
def fmtMatIn (f : Nat) : Bool := decide (f ≤ 9) && f != 1
def fmtMatOut (f : Nat) : Bool := decide (f ≤ 10) && f != 1
def fmtElem (f : Nat) : Bool := decide (f ≤ 10)
def fmtElemArith (f : Nat) : Bool := decide (f ≤ 3)

/-- R193: the byte address of element (r, c) and its first bit in that byte. -/
def swzAddr (base stride b r c : Nat) : Nat × Nat :=
  let lb := 4 * b
  let bits := b * (c % 32)
  (base + r / 32 * 64 * stride + c / 32 * 32 * lb + r % 32 * lb + bits / 8, bits % 8)
/-- R617: bytes of a swizzled tensor of R rows. -/
def swzSize (rows stride : Nat) : Nat := cdiv rows 32 * 64 * stride
/-- A code of b bits at a byte address and bit offset. -/
def codeAt (s : State) (p : Nat × Nat) (b : Nat) : Nat :=
  leAt (rdBytes s p.1 ((p.2 + b + 7) / 8)) 0 ((p.2 + b + 7) / 8) / 2 ^ p.2 % 2 ^ b
/-- R58: the block index of element (r, c) in the S8 array of a stored tensor of R × C. -/
def scaleIndex (bdir : Bool) (rows cols r c : Nat) : Nat :=
  if bdir then c * cdiv rows 32 + r / 32 else r * cdiv cols 32 + c / 32

/-- One stored element of a swizzled operand, its block scale applied (R57, R69) and its column scale with it (R147 is applied
by the reader). -/
def swzElem (s : State) (o : Opd) (base rows cols r c : Nat) : FV :=
  let f := spFmt o.spec
  let code := codeAt s (swzAddr base o.stride (fmtBits f) r c) (fmtBits f)
  if isBlockFmt f then
    blkElem f code (rdByte s (o.scale + scaleIndex (spBdir o.spec) rows cols r c)).toNat
  else fmtDec f code

/-- One element of a linear tensor of n elements (R168): element i; for a block-scaled format, its scale code is byte i/32. -/
def linAddr (base b i : Nat) : Nat × Nat :=
  if b = 3 then (base + i / 32 * 12 + 3 * (i % 32) / 8, 3 * (i % 32) % 8) else (base + b * i / 8, b * i % 8)
def linCode (s : State) (base f i : Nat) : Nat := codeAt s (linAddr base (fmtBits f) i) (fmtBits f)
def linElem (s : State) (o : Opd) (i : Nat) : FV :=
  let f := spFmt o.spec
  if isBlockFmt f then blkElem f (linCode s o.base f i) (rdByte s (o.scale + i / 32)).toNat
  else fmtDec f (linCode s o.base f i)
/-- R55: bytes of a linear tensor of n elements, whole blocks for block-scaled formats. -/
def linSize (f n : Nat) : Nat := if isBlockFmt f then cdiv n 32 * 4 * fmtBits f else cdiv (n * fmtBits f) 8

/-! ### The commands that records name -/

def qCmd (s : State) (q : Nat) (n : Word) : CmdName := ⟨qFloe s q, qNum q, n.toNat⟩
/-- The command a job's record names (R116, R176, R291): the queue that dispatched it and its sequence number there. A served
command's came with its packet (log entry 17). -/
def jobCmd (s : State) (j : JobRef) : CmdName :=
  match j with
  | .queue q n => ⟨qFloe s q, qNum q, n⟩
  | .remote src ctag =>
    match (getJob s j).bind (·.name) with
    | some n => ⟨n.1, n.2.1, n.2.2⟩
    | none => ⟨modFloeOf src, 0, ctag⟩

end Sys2Proof.Machine
end

