-- ==== Sys2Proof/Machine/Args.lean ====
section
/-! DEFINITION. The argument blocks of every family, and the descriptors they name, field by field. -/

namespace Sys2Proof.Machine

/-! ### The drain descriptor (R118, R119) -/

/-- R118: the default drain descriptor: all zeros, but OVF_STEP 4 and OVF_RETRY 3. -/
def ddDefault : List Byte := le32 0x34 ++ zeroBytes 60
/-- R118: the drain descriptor of a MATMUL, as read at dispatch. -/
def readDrain (s : State) (a : List Byte) : List Byte := if leAt a 8 8 = 0 then ddDefault else rdBytes s (leAt a 8 8) 64
/-- R149: WGRAD and FROZEN both set. -/
def ddFrozen (dd : List Byte) : Bool := nbits (leAt dd 4 4) 1 0 == 3

def dd0 (dd : List Byte) (hi lo : Nat) : Nat := nbits (leAt dd 0 4) hi lo
def ddAct (dd : List Byte) : Nat := dd0 dd 31 28
def ddDact (dd : List Byte) : Nat := dd0 dd 27 24
def ddDsrc (dd : List Byte) : Bool := dd0 dd 23 23 == 1
def ddStashEn (dd : List Byte) : Bool := dd0 dd 22 22 == 1
def ddStashPost (dd : List Byte) : Bool := dd0 dd 21 21 == 1
def ddBiasEn (dd : List Byte) : Bool := dd0 dd 20 20 == 1
def ddBiasB16 (dd : List Byte) : Bool := dd0 dd 19 19 == 1
def ddResidEn (dd : List Byte) : Bool := dd0 dd 18 18 == 1
def ddRowstat (dd : List Byte) : Nat := dd0 dd 17 16
def ddMask (dd : List Byte) : Nat := dd0 dd 15 14
def ddGcol (dd : List Byte) : Bool := dd0 dd 13 13 == 1
def ddAccum (dd : List Byte) : Bool := dd0 dd 12 12 == 1
def ddDest (dd : List Byte) : Nat := dd0 dd 11 10
def ddPort (dd : List Byte) : Nat := dd0 dd 9 7
def ddNfVote (dd : List Byte) : Bool := dd0 dd 6 6 == 1
def ddRetry (dd : List Byte) : Nat := dd0 dd 5 4
def ddStep (dd : List Byte) : Nat := dd0 dd 3 0
def ddStashFmt (dd : List Byte) : Nat := nbits (leAt dd 4 4) 31 24
def ddResidFmt (dd : List Byte) : Nat := nbits (leAt dd 4 4) 23 16
def ddBias (dd : List Byte) : Nat := leAt dd 8 8
def ddResid (dd : List Byte) : Nat := leAt dd 0x10 8
def ddStash (dd : List Byte) : Nat := leAt dd 0x18 8
def ddRowstatP (dd : List Byte) : Nat := leAt dd 0x20 8
def ddRowmask (dd : List Byte) : Nat := leAt dd 0x28 8
def ddColmask (dd : List Byte) : Nat := leAt dd 0x30 8
def ddRemote (dd : List Byte) : Nat := leAt dd 0x38 8
def ddLocal (dd : List Byte) : Bool := ddDest dd != 1
def ddStream (dd : List Byte) : Bool := ddDest dd == 1 || ddDest dd == 2
/-- R119: the dense block-row stride, in units of 64 bytes, of n stored columns of a format. -/
def denseStride (f n : Nat) : Nat := cdiv n 32 * (4 * fmtBits f) / 2

/-! ### MATMUL and ELEMWISE arguments (R167, R168) -/

def mM (a : List Byte) : Nat := leAt a 0 2
def mN (a : List Byte) : Nat := leAt a 2 2
def mK (a : List Byte) : Nat := leAt a 6 2
def mTm (a : List Byte) : Nat := cdiv (mM a) 128
def mTn (a : List Byte) : Nat := cdiv (mN a) 128
def mmA (a : List Byte) : Opd := opdOf a 0x20
def mmB (a : List Byte) : Opd := opdOf a 0x40
def mmC (a : List Byte) : Opd := opdOf a 0x60
def ewOp (a : List Byte) : Nat := leAt a 3 1
def ewRm (a : List Byte) : Nat := leAt a 2 1 / 32
def ewPlace (a : List Byte) : Bool := nbit (leAt a 2 1) 4
def ewImm (a : List Byte) : Nat := leAt a 0 1
def ewLimit (a : List Byte) : Nat := leAt a 4 4
def ewCount (a : List Byte) : Nat := leAt a 8 8
def isKernel (d a : List Byte) : Bool := dFam d == 2 && ewOp a == 0x3F
def ewX (a : List Byte) : Opd := opdOf a 0x20
def ewY (a : List Byte) : Opd := opdOf a 0x40
def ewZ (a : List Byte) : Opd := opdOf a 0x60
def ewOut (a : List Byte) : Opd := opdOf a 0x80
def ewRmOf (a : List Byte) : Rm := rmOf (ewRm a)
/-- Bits of an integer operand or result: IMM[0]. -/
def ewIntBits (a : List Byte) : Nat := if nbit (ewImm a) 0 then 64 else 32
def ewPredicate (a : List Byte) : Nat := nbits (ewImm a) 7 4
/-- CVT_TO_INT's direction, IMM[3:2]. -/
def ewIntRm (a : List Byte) : Rm := rmOf (nbits (ewImm a) 3 2)
/-- Operations with a second and a third input. -/
def ewTwo (op : Nat) : Bool := op ≤ 4 || op == 6 || (8 ≤ op && op ≤ 0xD) || op == 0x18 || op == 0x19 || op == 0x1B
def ewThree (op : Nat) : Bool := op == 6
/-- Operations whose result, or whose operand, is an integer. -/
def ewIntOut (op : Nat) : Bool := op == 0xC || op == 0xD || op == 0x11 || op == 0x1A
def ewIntIn (op : Nat) : Bool := op == 0x12

/-! ### DMA_COPY and ACCUM_WRITE arguments (R171, R205) -/

def cpModule (a : List Byte) : Nat := nbits (leAt a 0 4) 17 0
def cpSrc (a : List Byte) : Nat := leAt a 8 8
def cpDst (a : List Byte) : Nat := leAt a 0x10 8
def cpLen (a : List Byte) : Nat := leAt a 0x18 8

/-! ### COLLECTIVE and STEP_VOTE arguments (R349, R365) -/

def cOp (a : List Byte) : Nat := nbits (leAt a 0 4) 31 24
def cEtype (a : List Byte) : Nat := nbits (leAt a 0 4) 23 20
def cAxes (a : List Byte) : Nat := nbits (leAt a 0 4) 19 16
def cAccum (a : List Byte) : Bool := nbit (leAt a 0 4) 2
def cShardAt (a : List Byte) : Bool := nbit (leAt a 0 4) 1
def cSize (a : List Byte) : Nat := leAt a 8 8
def cSrc (a : List Byte) : Nat := leAt a 0x10 8
def cDst (a : List Byte) : Nat := leAt a 0x18 8
def cBrootEn (a : List Byte) : Bool := nbit (leAt a 0x24 4) 31
def cBroot (a : List Byte) : Nat := nbits (leAt a 0x24 4) 17 0
def cGroup (fam : Nat) (a : List Byte) : Nat := nbits (leAt a (if fam = 7 then 8 else 4) 4) 11 0
def cTimeout (fam : Nat) (a : List Byte) : Nat := leAt a (if fam = 7 then 0xC else 0x20) 4
def vStep (a : List Byte) : Nat := leAt a 0 8
/-- Bytes of an element: variants 3 and 4 count bytes. -/
def cEsz (var : Nat) (a : List Byte) : Nat := if 3 ≤ var then 1 else if cEtype a = 1 then 2 else 4
/-- R354: the broadcasting module. -/
def cCaster (s : State) (i : Nat) (a : List Byte) : Nat := if cBrootEn a then cBroot a else gRoot s i

/-! ### UPDATE, STEP_COMMIT and AUDIT arguments (R241) -/

def uStep (a : List Byte) : Nat := leAt a 0 8
def uFraction (a : List Byte) : Nat := nbits (leAt a 0 8) 16 0
def uList (a : List Byte) : Nat := leAt a 8 8
def uCount (a : List Byte) : Nat := leAt a 0x10 4
def uEtaMult (a : List Byte) : Word := w32 (leAt a 0x14 4)
def uGenTimeout (a : List Byte) : Nat := leAt a 0x18 4
def uTierTimeout (a : List Byte) : Nat := leAt a 0x1C 4
def uResult (a : List Byte) : Nat := leAt a 0x18 8
def uEntry (s : State) (a : List Byte) (k : Nat) : Nat := rd32 s (uList a + 4 * k)
def uGid (s : State) (a : List Byte) (k : Nat) : Nat := nbits (uEntry s a k) 23 0

/-! ### CIPHER arguments (R488) -/

def ciW (a : List Byte) : Nat := leAt a 0 4
def ciSmode (a : List Byte) : Nat := nbits (ciW a) 27 26
def ciInit (a : List Byte) : Bool := nbit (ciW a) 25
def ciFinal (a : List Byte) : Bool := nbit (ciW a) 24
def ciCtx (a : List Byte) : Nat := nbits (ciW a) 23 16
def ciWrapped (a : List Byte) : Bool := nbit (ciW a) 15
def ciSlot (a : List Byte) : Nat := nbits (ciW a) 13 8
def ciRoot (a : List Byte) : Nat := nbits (ciW a) 2 0
def ciUsage (a : List Byte) : Nat := nbits (leAt a 4 4) 3 0
def ciIv (a : List Byte) : List Nat := natsOf ((a.drop 8).take 16)
def ciAad (a : List Byte) : Nat := leAt a 0x18 8
def ciAadLen (a : List Byte) : Nat := leAt a 0x20 4
def ciIn (a : List Byte) : Nat := leAt a 0x28 8
def ciOut (a : List Byte) : Nat := leAt a 0x30 8
def ciLen (a : List Byte) : Nat := leAt a 0x38 8
def ciTag (a : List Byte) : Nat := leAt a 0x40 8

/-! ### SITE_ROUND arguments (R410) -/

def srRound (a : List Byte) : Nat := leAt a 0 8
def srList (a : List Byte) : Nat := leAt a 8 8
def srCount (a : List Byte) : Nat := leAt a 0x10 4
def srAction (a : List Byte) : Nat := nbits (leAt a 0x14 4) 7 4
def srPeer (a : List Byte) : Nat := nbits (leAt a 0x14 4) 3 0
def srStep (a : List Byte) : Nat := leAt a 0x18 8
def srResult (a : List Byte) : Nat := leAt a 0x20 8
def srTimeout (a : List Byte) : Nat := leAt a 0x28 4
/-- The site-table indices of a command's list. -/
def srItems (s : State) (a : List Byte) : List Nat := (List.range (srCount a)).map (fun k => nbits (rd32 s (srList a + 4 * k)) 23 0)

/-! ### Registers that the checks read (R228, R432, R408, R533) -/

def gdAddr (s : State) (gid : Nat) : Nat := rn64 s rUPD_GT_BASE_LO + 256 * gid
def pOff (r p : Nat) : Nat := wreg winSxu (r % 65536 + 64 * p)
def pValid (s : State) (p : Nat) : Bool := rbit s (pOff rP_CFG p) 31
def pState (s : State) (p : Nat) : Nat := rfld s (pOff rP_STATE p) 3 0
def psOFF : Nat := 0
def psNEW : Nat := 1
def psACTIVE : Nat := 2
def psMISSED : Nat := 3
def psISOLATED : Nat := 4
def psRECONNECTED : Nat := 5
def psTHAWING : Nat := 6
def psSERVING : Nat := 7
def psJOINING : Nat := 8
def psLISTEN : Nat := 9
/-- The peer entries; those valid; the thaw slot that a peer holds (4 and above: none), and the peers that hold slot j (R434). -/
def peerIds : List Nat := List.range 16
def validPeers (s : State) : List Nat := peerIds.filter (pValid s)
def pThaw (s : State) (p : Nat) : Nat := rfld s (pOff rP_STATE p) 10 8
def tsOff (r j : Nat) : Nat := wreg winSxu (r % 65536 + 16 * j)
def tsMask (s : State) (j : Nat) : Nat := rfld s (tsOff rTS_MASK j) 15 0
/-- The first free slot. -/
def freeThaw (s : State) : Option Nat := (List.range 4).find? (fun j => tsMask s j == 0)
/-- R432: the size of SXU's log area. -/
def siteLogSize : Nat := 262144
def sxT0 (s : State) : Nat := rn64 s rSXU_T0_LO
def sxPeriod (s : State) : Nat := rn s rSXU_PERIOD * 1000000000
def sxSlack (s : State) : Nat := rn s rSXU_SLACK * 1000000
/-- R408. -/
def openAt (s : State) (r : Nat) : Nat := sxT0 s + r * sxPeriod s
def deadlineAt (s : State) (r : Nat) : Nat := openAt s r + sxSlack s
def hwReg (w o : Nat) : Nat := wreg winTpm (o % 65536 + 64 * w)
def hwValid (s : State) (w : Nat) : Bool := rbit s (hwReg w rHW_CFG) 31
def hwLen (s : State) (w : Nat) : Nat := rn64 s (hwReg w rHW_LEN_LO)

/-! ### The bytes of arrays that a MATMUL names (R58, R128, R147) -/

/-- The size of a scale array of a stored tensor. -/
def scaleBytes (o : Opd) (rows cols : Nat) : Nat :=
  if o.colscale then 128 * (cdiv rows 128 * cdiv cols 128)
  else if isBlockFmt (spFmt o.spec) then (if spBdir o.spec then cols * cdiv rows 32 else rows * cdiv cols 32) else 0
def outScaleBytes (a dd : List Byte) : Nat :=
  if ddGcol dd then 128 * (mTm a * mTn a) else scaleBytes (mmC a) (mM a) (mN a)

/-! ### The bytes a command touches on the module that executes it (R23, R193) -/

/-- R193: the bytes from a swizzled tensor's base to the end of its last block. -/
def swzExtent (f rows cols stride : Nat) : Nat :=
  if rows = 0 ∨ cols = 0 then 0 else (cdiv rows 32 - 1) * (64 * stride) + cdiv cols 32 * (128 * fmtBits f)
/-- Whether an operand takes its base from a weight generation (R161). -/
def grouped (d : List Byte) (o : Opd) : Bool := dWread d && o.group != 0
/-- A MATMUL input of rows × cols as read. -/
def opdRanges (d : List Byte) (o : Opd) (rows cols : Nat) : List (Nat × Nat) :=
  let r := if o.trans then cols else rows
  let c := if o.trans then rows else cols
  (if grouped d o then [] else [(o.base, swzExtent (spFmt o.spec) r c o.stride)]) ++
    (if o.colscale || isBlockFmt (spFmt o.spec) then [(o.scale, scaleBytes o r c)] else []) ++
    (if spTscale o.spec then [(o.tscale, 4)] else [])
def matInRanges (d a : List Byte) : List (Nat × Nat) := opdRanges d (mmA a) (mM a) (mK a) ++ opdRanges d (mmB a) (mK a) (mN a)
def matOutExtent (a : List Byte) : Nat := swzExtent (spFmt (mmC a).spec) (mM a) (mN a) (mmC a).stride
def matOutRanges (a dd : List Byte) : List (Nat × Nat) :=
  let o := mmC a
  (if ddLocal dd then [(o.base, matOutExtent a)] else []) ++
    (if ddLocal dd && (ddGcol dd || isBlockFmt (spFmt o.spec)) then [(o.scale, outScaleBytes a dd)] else []) ++
    (if spTscale o.spec then [(o.tscale, 4 * (mTm a * mTn a))] else [])
/-- R120: the enabled pointers of a drain descriptor, but REMOTE_PTR. -/
def drainRanges (a dd : List Byte) : List (Nat × Nat) :=
  (if ddBiasEn dd then [(ddBias dd, mN a * (if ddBiasB16 dd then 2 else 4))] else []) ++
    (if ddResidEn dd then [(ddResid dd, swzExtent (spFmt (ddResidFmt dd)) (mM a) (mN a) (denseStride (spFmt (ddResidFmt dd)) (mN a)))] else []) ++
    (if ddStashEn dd || ddDact dd != 0 then [(ddStash dd, swzExtent (spFmt (ddStashFmt dd)) (mM a) (mN a) (denseStride (spFmt (ddStashFmt dd)) (mN a)))] else []) ++
    (if ddRowstat dd != 0 then [(ddRowstatP dd, 8 * (mM a * mTn a))] else []) ++
    (if nbit (ddMask dd) 0 then [(ddRowmask dd, cdiv (mM a) 8)] else []) ++
    (if nbit (ddMask dd) 1 then [(ddColmask dd, cdiv (mN a) 8)] else [])
/-- An ELEMWISE tensor of n elements, of integers of `ib` bits where `ib` is not 0. -/
def linRanges (d : List Byte) (o : Opd) (n ib : Nat) : List (Nat × Nat) :=
  (if grouped d o then [] else [(o.base, if ib = 0 then linSize (spFmt o.spec) n else n * (ib / 8))]) ++
    (if ib = 0 && isBlockFmt (spFmt o.spec) then [(o.scale, cdiv n 32)] else []) ++
    (if spTscale o.spec then [(o.tscale, 4)] else [])
def ewIsAug (op : Nat) : Bool := op == 0x18 || op == 0x19
def ewRanges (d a : List Byte) : List (Nat × Nat) :=
  let op := ewOp a
  let n := ewCount a
  linRanges d (ewX a) n (if ewIntIn op then ewIntBits a else 0) ++ (if ewTwo op then linRanges d (ewY a) n 0 else []) ++
    (if ewThree op || ewIsAug op then linRanges d (ewZ a) n 0 else []) ++ linRanges d (ewOut a) n (if ewIntOut op then ewIntBits a else 0)
/-- The sides of a copy or an accumulate that lie on this module. -/
def copyRanges (d a : List Byte) : List (Nat × Nat) :=
  let src := (cpSrc a, cpLen a)
  let dst := (cpDst a, cpLen a)
  if dVar d = 0 then [src, dst]
  else if dVar d = 1 then [src]
  else if dVar d = 2 then [dst]
  else if nbit (leAt a 0 4) 8 then [dst] else [src]
/-- The ranges that a MATMUL, ELEMWISE, DMA_COPY, ACCUM_WRITE, FIRN_PACK or CIPHER touches. -/
def cmdRanges (d a dd : List Byte) : List (Nat × Nat) :=
  let fam := dFam d
  if fam = 1 then matInRanges d a ++ matOutRanges a dd ++ drainRanges a dd
  else if isKernel d a then []
  else if fam = 2 then ewRanges d a
  else if fam = 3 ∨ fam = 4 then copyRanges d a
  else if fam = 0xC then (leAt a 0 8, leAt a 8 8) :: (if dVar d = 2 ∨ dVar d = 3 then [(leAt a 0x10 8, leAt a 0x18 8)] else [])
  else if fam = 0xE then
    (if dVar d = 5 then [(ciOut a, if ciWrapped a then 160 else 128)] else if dVar d = 6 then [(ciIn a, if ciWrapped a then 160 else 128)]
     else if dVar d = 7 then [(ciAad a, 48)] else if dVar d = 8 then []
     else [(ciIn a, ciLen a), (ciOut a, ciLen a), (ciAad a, ciAadLen a), (ciTag a, 16)])
  else []
/-- R148, R204, R363: the ranges that a command adds to. A collective's lies from DST on for its whole vector. -/
def addRanges (d a dd : List Byte) : List (Nat × Nat) :=
  if dFam d = 1 then (if ddAccum dd then matOutRanges a dd else [])
  else if dFam d = 4 then (if dVar d = 0 then [(cpDst a, cpLen a)] else [])
  else if dFam d = 5 ∧ dVar d ≤ 1 ∧ cAccum a then [(cDst a, 4 * cSize a)]
  else []

end Sys2Proof.Machine
end

