-- ==== Sys2Proof/Machine/GroupTab.lean ====
section
/-! DEFINITION. Parameter groups (R227–R229, R251): the descriptor's fields, the check of a group, and the generations it retains. -/

namespace Sys2Proof.Machine

/-! ### The descriptor (R228) -/

/-- A group: its id, the address of its descriptor, and the descriptor's 256 bytes. -/
structure Grp where
  id : Nat
  at_ : Nat
  b : List Byte
  deriving DecidableEq, Repr
def grpOf (s : State) (id : Nat) : Grp := ⟨id, gdAddr s id, rdBytes s (gdAddr s id) 256⟩
def Grp.rows (g : Grp) : Nat := leAt g.b 0 4
def Grp.cols (g : Grp) : Nat := leAt g.b 4 4
def Grp.count (g : Grp) : Nat := g.rows * g.cols
def Grp.w2 (g : Grp) : Nat := leAt g.b 8 4
def Grp.rule (g : Grp) : Nat := nbits g.w2 31 28
def Grp.ngen (g : Grp) : Nat := nbits g.w2 27 26
def Grp.sr (g : Grp) : Bool := nbit g.w2 25
def Grp.linear (g : Grp) : Bool := nbit g.w2 24
def Grp.zeroRb (g : Grp) : Bool := nbit g.w2 23
def Grp.clip (g : Grp) : Bool := nbit g.w2 22
def Grp.wcSpec (g : Grp) : Nat := nbits g.w2 15 8
def Grp.w3 (g : Grp) : Nat := leAt g.b 12 4
/-- The format specifier of state slot k (1–3). -/
def Grp.stSpec (g : Grp) (k : Nat) : Nat := nbits g.w3 (39 - 8 * k) (32 - 8 * k)
def Grp.tier (g : Grp) : Nat := nbits g.w3 7 6
def Grp.win (g : Grp) : Nat := nbits g.w3 5 0
/-- The F32 values from offset 0x10: 0 ETA, 1 BETA1, 2 BETA2, 3 EPS, 4 LAMBDA, 5 GSCALE, 6 CLIP_NORM, 7 G_CLAMP, 8 U_CLAMP, 9 W_CLAMP. -/
def Grp.f (g : Grp) (i : Nat) : Word := w32 (leAt g.b (0x10 + 4 * i) 4)
def Grp.eta (g : Grp) : Word := g.f 0
def Grp.beta1 (g : Grp) : Word := g.f 1
def Grp.beta2 (g : Grp) : Word := g.f 2
def Grp.eps (g : Grp) : Word := g.f 3
def Grp.lambda (g : Grp) : Word := g.f 4
def Grp.gscale (g : Grp) : Word := g.f 5
def Grp.clipNorm (g : Grp) : Word := g.f 6
def Grp.gClamp (g : Grp) : Word := g.f 7
def Grp.uClamp (g : Grp) : Word := g.f 8
def Grp.wClamp (g : Grp) : Word := g.f 9
def Grp.clampLimit (g : Grp) : Nat := leAt g.b 0x38 4
def Grp.sScale (g : Grp) (k : Nat) : Word := w32 (leAt g.b (0x38 + 4 * k) 4)
def Grp.rbStride (g : Grp) : Nat := nbits (leAt g.b 0x48 4) 31 6
def Grp.wcStride (g : Grp) : Nat := nbits (leAt g.b 0x4C 4) 31 6
def Grp.mwHi (g : Grp) : Nat := leAt g.b 0x50 8
def Grp.mwLo (g : Grp) : Nat := leAt g.b 0x58 8
def Grp.rb (g : Grp) : Nat := leAt g.b 0x60 8
def Grp.wc (g : Grp) (k : Nat) : Nat := leAt g.b (0x68 + 8 * k) 8
def Grp.st (g : Grp) (k : Nat) : Nat := leAt g.b (0x78 + 8 * k) 8
def Grp.t2Stage (g : Grp) : Nat := leAt g.b 0x98 8
def Grp.normOut (g : Grp) : Nat := leAt g.b 0xA0 8
def Grp.normIn (g : Grp) : Nat := leAt g.b 0xA8 8
def Grp.rdctr (g : Grp) (k : Nat) : Nat := leAt g.b (0xB0 + 2 * k) 2
/-- R230: thresholds are read at each retirement check. -/
def Grp.rdThresh (g : Grp) (s : State) (k : Nat) : Nat := rd64 s (g.at_ + 0xB8 + 8 * k)
def Grp.committed (g : Grp) (s : State) : Nat := rd64 s (g.at_ + 0xD8) / 2 ^ 24
def Grp.applied (g : Grp) (s : State) : Nat := rd64 s (g.at_ + 0xD8) % 2 ^ 24
def Grp.initStep (g : Grp) (s : State) : Nat := rd64 s (g.at_ + 0xE0) % 2 ^ 40
def Grp.ingestStep (g : Grp) (s : State) : Nat := rd64 s (g.at_ + 0xE8) % 2 ^ 40
def Grp.markStep (g : Grp) (s : State) : Nat := rd64 s (g.at_ + 0xF0) % 2 ^ 40
def Grp.mark (g : Grp) (s : State) (h : Nat) : Nat := rd32 s (g.at_ + 0xF8 + 4 * h)
def Grp.chunks (g : Grp) : Nat := cdiv g.count 1024
def Grp.factored (g : Grp) : Bool := g.rule == 7 && decide (2 ≤ g.rows ∧ 2 ≤ g.cols)
/-- R239: the slots a rule uses. -/
def Grp.slots (g : Grp) : List Nat :=
  if g.rule = 0 then [] else if g.rule = 1 ∨ g.rule = 2 ∨ g.rule = 6 then [1] else if g.rule ≤ 5 then [1, 2]
  else if g.factored then [2, 3] else [1]
/-- The bytes of a state slot. -/
def Grp.slotBytes (g : Grp) (k : Nat) : Nat :=
  if g.factored then 2 * (4 * (if k = 2 then g.rows else g.cols)) else g.count * (fmtBits (spFmt (g.stSpec k)) / 8)
def Grp.readsNormIn (g : Grp) : Bool := g.clip || g.rule == 5 || g.rule == 7
/-- The bytes of a working copy's elements and of its S8 array (R231). -/
def Grp.wcBytes (g : Grp) : Nat := if g.linear then linSize (spFmt g.wcSpec) g.count else swzSize g.rows g.wcStride
def Grp.wcScales (g : Grp) : Nat :=
  if !isBlockFmt (spFmt g.wcSpec) then 0
  else if g.linear then cdiv g.count 32 else if spBdir g.wcSpec then g.cols * cdiv g.rows 32 else g.rows * cdiv g.cols 32
def Grp.wcS8 (g : Grp) (k : Nat) : Nat := up256 (g.wc k + g.wcBytes)
def Grp.rbBytes (g : Grp) : Nat := if g.linear then 4 * g.count else swzSize g.rows g.rbStride
/-- A T2 group's slots in its staging area: one after another, each at a multiple of 256 bytes. -/
def Grp.stageOff (g : Grp) (k : Nat) : Nat := ((g.slots.filter (· < k)).map (fun i => up256 (g.slotBytes i))).sum
/-- Where UPD reads and writes a slot's state. -/
def Grp.stBase (g : Grp) (k : Nat) : Nat := if g.tier = 2 then g.t2Stage + g.stageOff k else g.st k

def Grp.planes (g : Grp) : List (Nat × Nat) := [(g.mwHi, 4 * g.count), (g.mwLo, 2 * g.count)]
/-- The working copy of slot k, its S8 array with it. -/
def Grp.wcRange (g : Grp) (k : Nat) : Nat × Nat := (g.wc k, if g.wcScales = 0 then g.wcBytes else g.wcS8 k + g.wcScales - g.wc k)
/-- The ranges of this module's memory that a group uses (R229). -/
def Grp.ranges (g : Grp) : List (Nat × Nat) :=
  g.planes ++ [(g.rb, g.rbBytes), (g.normOut, 32)] ++ (List.range g.ngen).map g.wcRange ++
    (if g.tier = 2 then [(g.t2Stage, (g.slots.map (fun i => up256 (g.slotBytes i))).sum)] else g.slots.map (fun k => (g.st k, g.slotBytes k))) ++
    (if g.readsNormIn then [(g.normIn, 16)] else [])
/-- Formats that R42 allows: working copies, and optimiser state. -/
def wcFmtOk (f : Nat) : Bool := decide (2 ≤ f ∧ f ≤ 9)
def stFmtOk (f : Nat) : Bool := f == 0 || decide (2 ≤ f ∧ f ≤ 5)
/-- R229, but for the id and the list entry: whether a group's descriptor is good. -/
def Grp.good (g : Grp) (s : State) : Bool :=
  nbits g.w2 21 16 == 0 && nbits g.w2 7 0 == 0 && leAt g.b 0xD0 8 == 0 && leAt g.b 0xB6 2 == 0 &&
  nbits (leAt g.b 0x48 4) 5 0 == 0 && nbits (leAt g.b 0x4C 4) 5 0 == 0 &&
  decide (g.rule ≤ 7) && (g.ngen == 2 || g.ngen == 3) && decide (g.tier ≤ 2) &&
  specOk g.wcSpec && wcFmtOk (spFmt g.wcSpec) && !spTscale g.wcSpec &&
  g.slots.all (fun k => specOk (g.stSpec k) && stFmtOk (spFmt (g.stSpec k)) && !spTscale (g.stSpec k)) &&
  !(g.clip && (g.rule == 5 || g.rule == 7)) &&
  (!g.factored || (spFmt (g.stSpec 2) == 0 && spFmt (g.stSpec 3) == 0)) &&
  (List.range 6).all (fun i => f32Finite (g.f i)) &&
  [6, 7, 8, 9].all (fun i => f32Finite (g.f i) && !f32Lt (g.f i) 0) &&
  decide (g.count < 2 ^ 40) && g.mwHi % 4096 == 0 &&
  ([g.mwLo, g.rb, g.normOut] ++ (List.range g.ngen).map g.wc ++ (g.slots.map g.st) ++ (if g.tier = 2 then [g.t2Stage] else []) ++
    (if g.readsNormIn then [g.normIn] else [])).all (fun a => a % 64 == 0) &&
  g.ranges.all (fun r => rangeMapped s.order r.1 r.2) &&
  (g.tier != 2 || g.slots.all (fun k => g.slotBytes k == 0 || decide (g.st k + g.slotBytes k ≤ hwLen s g.win)))
/-- R229: whether an id names a good group. -/
def groupOk (s : State) (id : Nat) : Bool :=
  id != 0 && decide (id < rn s rUPD_GT_COUNT) && rangeMapped s.order (gdAddr s id) 256 && (grpOf s id).good s
/-- R251: whether generation t of a group is retained. -/
def Grp.retained (g : Grp) (s : State) (t : Nat) : Bool :=
  decide (g.initStep s ≤ t ∧ g.committed s < t + g.ngen ∧ t ≤ g.committed s) &&
    !(t + g.ngen == g.committed s + 1 && g.markStep s == g.committed s + 1)
def Grp.slotOf (g : Grp) (t : Nat) : Nat := t % g.ngen

/-! ### The site table (R404) -/

def stAddr (s : State) (t : Nat) : Nat := rn64 s rSXU_ST_BASE_LO + 128 * t
def stGid (s : State) (t : Nat) : Nat := nbits (rd32 s (stAddr s t)) 23 0
def stF (s : State) (t off : Nat) : Nat := rd64 s (stAddr s t + off)
def stGrp (s : State) (t : Nat) : Grp := grpOf s (stGid s t)
def qBlocks (e : Nat) : Nat := cdiv e 32
/-- R404, R617: the S8 array of a quantised buffer, at the end of its P4 data rounded up to a multiple of 256 bytes. -/
def qScales (base e : Nat) : Nat := up256 (base + 16 * qBlocks e)
/-- QB. -/
def qSize (e : Nat) : Nat := cdiv (up256 (16 * qBlocks e) + qBlocks e) 4096 * 4096
/-- TS. -/
def snapSize (e : Nat) : Nat := cdiv (6 * e) 4096 * 4096

/-- R404: the own buffer of round r, and the buffer of peer p for it. -/
def qOwn (s : State) (t e r : Nat) : Nat := stF s t 0x20 + r % 2 * qSize e
def qRecv (s : State) (t e p r : Nat) : Nat := stF s t 0x28 + (3 * p + r % 3) * qSize e

/-! ### What a command's memory accesses touch (R210, R224) -/

/-- The ranges of the groups of a list of n entries. -/
def grpRanges (s : State) (ids : List Nat) : List (Nat × Nat) := ids.flatMap (fun id => (gdAddr s id, 256) :: (if groupOk s id then (grpOf s id).ranges else []))
/-- The buffers of a site-table entry, for an element count of e. -/
def siteRanges (s : State) (t : Nat) : List (Nat × Nat) :=
  let e := (stGrp s t).count
  (stAddr s t, 128) :: [(stF s t 0x08, 4 * e), (stF s t 0x10, 2 * e), (stF s t 0x18, 4 * e), (stF s t 0x20, 2 * qSize e), (stF s t 0x28, 48 * qSize e),
    (stF s t 0x30, 4 * snapSize e), (stF s t 0x38, qSize e), (stF s t 0x40, qSize e)].filter (fun r => r.1 != 0)
/-- R348: the blocks of an ALL_TO_ALL: the members along its axes. -/
def a2aBlocks (s : State) (a : List Byte) : Nat :=
  (groupEntry s (cGroup 5 a)).elim 1 (fun i => ((List.range 4).filter (nbit (cAxes a))).foldl (fun n x => n * boxSize s i x) 1)
/-- Every range of this module's memory that a command may touch, its descriptor, arguments and extra block aside. -/
def jobRanges (s : State) (d a dd : List Byte) : List (Nat × Nat) :=
  let fam := dFam d
  if fam = 5 then (if dVar d = 5 then [] else
    let n := cEsz (dVar d) a * cSize a * (if dVar d = 3 then a2aBlocks s a else 1)
    [(cSrc a, n), (cDst a, n)])
  else if fam = 6 ∨ fam = 8 ∨ fam = 0xD then
    (uList a, 4 * uCount a) :: (if fam = 0xD then [(uResult a, 16 * uCount a)] else []) ++ grpRanges s ((List.range (uCount a)).map (uGid s a))
  else if fam = 0xF then
    [(srList a, 4 * srCount a), (srResult a, if dVar d = 1 then 768 else 32)] ++ (srItems s a).flatMap (fun t => siteRanges s t ++ grpRanges s [stGid s t])
  else cmdRanges d a dd

end Sys2Proof.Machine
end

