-- ==== Sys2Proof/Machine/Router.lean ====
section
/-! DEFINITION. Requests, replies and injection (R318–R334): reply slots, quiescence, epochs, the reply that an endpoint makes; and routing (R325–R327). -/

namespace Sys2Proof.Machine

/-! ### The wire form of a packet (R318) -/

/-- The header word at offset 0x00. -/
def hdrWord0 (pk : Pkt) : Nat :=
  pk.op * 2 ^ 28 + pk.cls * 2 ^ 26 + b2n pk.epoch * 2 ^ 25 + b2n pk.ordered * 2 ^ 24 + b2n pk.dlv * 2 ^ 23 + pk.ttl * 2 ^ 14 + pk.payload.length
/-- The 32-byte header. -/
def hdrBytes (pk : Pkt) : List Byte :=
  le32 (hdrWord0 pk) ++ le32 pk.dest ++ le32 pk.src ++ le32 (pk.rtag * 65536 + pk.ctag) ++ le64 pk.addr.toNat ++ le32 pk.arg.toNat ++ le32 pk.status
/-- A packet as its flits carry it. -/
def pktBytes (pk : Pkt) : List Byte := hdrBytes pk ++ pk.payload
/-- LEN of a header. -/
def hdrLen (b : List Byte) : Nat := nbits (leAt b 0 4) 13 0
/-- The fields of a header, with no payload. -/
def hdrOf (b : List Byte) : Pkt :=
  let w := leAt b 0 4
  { op := nbits w 31 28, cls := nbits w 27 26, epoch := nbit w 25, ordered := nbit w 24, dlv := nbit w 23, ttl := nbits w 21 14,
    dest := nbits (leAt b 4 4) 17 0, src := nbits (leAt b 8 4) 17 0, rtag := nbits (leAt b 0xC 4) 31 16, ctag := nbits (leAt b 0xC 4) 15 0,
    addr := w64 (leAt b 0x10 8), arg := w32 (leAt b 0x18 4), status := nbits (leAt b 0x1C 4) 7 0 }
/-- The packet that whole bytes carry. -/
def pktOf (b : List Byte) (bad : Bool) : Pkt := { hdrOf b with payload := (b.drop 32).take (hdrLen b), poisoned := bad }
/-- A header with the TTL and DLV with which a router sends it on. -/
def hdrOnward (b : List Byte) (pk : Pkt) : List Byte :=
  le32 (nput (nput (leAt b 0 4) 23 23 (b2n pk.dlv)) 21 14 pk.ttl) ++ b.drop 4
/-- Whether two packets are the same on the wire. -/
def sameWire (a b : Pkt) : Bool := { a with aux := [], via := none, born := 0 } == { b with aux := [], via := none, born := 0 }

/-! ### Classes, epochs, quiescence -/

def clsREQ : Nat := 0
def clsRSP : Nat := 1
def clsCOL : Nat := 2
def clsMGT : Nat := 3
def opSIG : Nat := 0
def opWR : Nat := 1
def opACC : Nat := 2
def opRD : Nat := 3
def opCMD : Nat := 4
def opFADD : Nat := 5
def opRPT : Nat := 6
def opACK : Nat := 8
def opRDATA : Nat := 9
def opCOL : Nat := 0xA
def opMGT : Nat := 0xB
/-- R319: the class of an operation, none for a reserved one. -/
def pktClass (o : Nat) : Option Nat :=
  if o ≤ 6 then some clsREQ else if o = 8 ∨ o = 9 then some clsRSP else if o = 0xA then some clsCOL else if o = 0xB then some clsMGT else none

/-- R322: reply status codes. -/
def stOK : Nat := 0
def stADDR_RANGE : Nat := 1
def stPOISONED : Nat := 2
def stPORT_DOWN : Nat := 3
def stUNREACHABLE : Nat := 4
def stRESET : Nat := 5
def stFIRN_ACCUM : Nat := 6
def stMEM_UE : Nat := 7
def stCTR_FREE : Nat := 8
def stOWNER_LOST : Nat := 9

def injEpoch (s : State) : Bool := rbit s rTFR_TCTL 0
/-- R334: a class whose injection is quiesced. -/
def quiesced (s : State) (cls : Nat) : Bool := rbit s rTFR_QUIESCE cls
def rtoNs (s : State) : Nat := us (rn s rTFR_RTO)

/-- R326: a packet as it enters the router at this module. -/
def dressed (s : State) (pk : Pkt) : Pkt :=
  { pk with ttl := rn s rTFR_TTL % 256, dlv := false, epoch := injEpoch s, src := myId s, born := s.clock }
/-- R334: a packet of a quiesced class is held by its endpoint; the rest enter the router. -/
def injectRaw (s : State) (pk : Pkt) : State :=
  if quiesced s pk.cls then { s with hold := s.hold ++ [pk] } else { s with inj := s.inj ++ [dressed s pk] }
/-- R334: held packets of classes that are no longer quiesced enter the router. -/
def releaseHold (s : State) : State :=
  { s with inj := s.inj ++ (s.hold.filter (fun p => !quiesced s p.cls)).map (dressed s), hold := s.hold.filter (fun p => quiesced s p.cls) }

/-- R328: the lowest free reply slot. -/
def freeSlot (s : State) : Option Nat := (List.range 4096).find? (fun t => s.slots.all (fun x => x.rtag != t))
def slotCount (s : State) : Nat := s.slots.length
/-- Whether a request can be issued now: its class not quiesced and a slot free. -/
def canRequest (s : State) : Bool := !quiesced s clsREQ && decide (slotCount s < 4096)
def getSlot (s : State) (t : Nat) : Option Slot := s.slots.find? (fun x => x.rtag == t)
def dropSlot (s : State) (t : Nat) : State := { s with slots := s.slots.filter (fun x => x.rtag != t) }

/-- R322, R330: an endpoint's reply to a request. -/
def replyPkt (pk : Pkt) (status : Nat) (payload : List Byte) : Pkt :=
  { op := if pk.op = opRD ∨ pk.op = opFADD then (if status = 0 then opRDATA else opACK) else opACK, cls := clsRSP,
    dest := pk.src, rtag := pk.rtag, ctag := pk.ctag, status := status, payload := payload }
def reply (s : State) (pk : Pkt) (status : Nat) (payload : List Byte := []) : State := injectRaw s (replyPkt pk status payload)
/-- R327, R339: an answer that the router itself makes: no endpoint's injection, so quiescence does not hold it (R334). -/
def routerReply (s : State) (pk : Pkt) (status : Nat) : State := { s with inj := s.inj ++ [dressed s (replyPkt pk status [])] }

/-! ### Tables and route (R325, R326) -/

def tcOrder (w : Word) (set : Nat) : Nat := wbits w (if set = 0 then 15 else 23) (if set = 0 then 8 else 16)
def orderOf (s : State) (set : Nat) : Nat := tcOrder (rget s rTFR_TCTL) set
def axisAt (order k : Nat) : Nat := order / 4 ^ k % 4
def rankOf (order a : Nat) : Nat := ((List.range 4).find? (fun k => axisAt order k == a)).getD 4
/-- R341: a permutation of the four axes. -/
def isPerm (order : Nat) : Bool := (List.range 4).all (fun a => (List.range 4).any (fun k => axisAt order k == a))

def axisTabOff (set a c : Nat) : Nat := wreg winTfr (0x1000 + 0x100 * set + 0x20 * a + c / 4 * 4)
/-- The ACT field of an axis table entry. -/
def axisAct (s : State) (set a c : Nat) : Nat := nbits (rn s (axisTabOff set a c)) (8 * (c % 4) + 1) (8 * (c % 4))
def excOff (set i : Nat) : Nat := wreg winTfr (0x2000 + 0x800 * set + 8 * i)
def excWord (s : State) (set i : Nat) : Nat := rn64 s (excOff set i)
def excMatch (s : State) (set dest i : Nat) : Bool :=
  let x := excWord s set i
  nbit x 63 && (((dest ^^^ nbits x 17 0) &&& nbits x 53 36) == 0)

/-- Where a packet goes: this module, a port, or nowhere. -/
inductive RouteTo where
  | eject
  | port (p : Nat)
  | drop
  deriving DecidableEq, Repr

/-- R326: crosses_dateline. -/
def crossesDateline (s : State) (out : Nat) : Bool :=
  let a := out / 2
  if out % 2 = 0 then axisOf (myId s) a == ringSize s a - 1 else axisOf (myId s) a == 0

/-- The output the tables name, before the order check. -/
def tableOut (s : State) (set dest : Nat) : RouteTo :=
  match (List.range 256).find? (fun i => excMatch s set dest i) with
  | some i => if nbit (excWord s set i) 60 then .drop else .port (nbits (excWord s set i) 58 56)
  | none =>
    match (List.range 4).find? (fun k => axisOf dest (axisAt (orderOf s set) k) != axisOf (myId s) (axisAt (orderOf s set) k)) with
    | none => .drop
    | some k =>
      let a := axisAt (orderOf s set) k
      let act := axisAct s set a (axisOf dest a)
      if act = 1 then .port (2 * a) else if act = 2 then .port (2 * a + 1) else .drop

/-- R326: route. `inp` is none for the module's own packets. The packet answered has its TTL and DLV as they go on. -/
def route (s : State) (inp : Option Nat) (pk : Pkt) : RouteTo × Pkt :=
  if pk.dest = myId s then (.eject, pk)
  else if pk.ttl = 0 then (.drop, pk)
  else
    let pk1 := { pk with ttl := pk.ttl - 1 }
    let set := b2n pk.epoch
    match tableOut s set pk.dest with
    | .drop => (.drop, pk1)
    | .eject => (.eject, pk1)
    | .port out =>
      let straight := match inp with | none => false | some i => out == (i ^^^ 1)
      let bad := match inp with
        | none => false
        | some i => !straight && decide (rankOf (orderOf s set) (out / 2) ≤ rankOf (orderOf s set) (i / 2))
      if bad then (.drop, pk1)
      else
        let dlv := if straight then pk1.dlv else false
        if crossesDateline s out then
          (if dlv then (.drop, pk1) else (.port out, { pk1 with dlv := true }))
        else (.port out, { pk1 with dlv := dlv })

/-! ### Ports and credits (R312, R323, R385) -/

def linkDefault (_ : Nat) : Link := {}
def getL (s : State) (p : Nat) : Link := smGet linkDefault s.links p
def putL (s : State) (p : Nat) (l : Link) : State := { s with links := smSet linkDefault s.links p l }
def tfpReg (p o : Nat) : Nat := wreg (winTfp p) o
def lState (s : State) (p : Nat) : Nat := rfld s (tfpReg p oTFP_STATUS) 2 0
def lsDOWN : Nat := 0
def lsTRAINING : Nat := 1
def lsUP : Nat := 2
def lsFAULT : Nat := 3
/-- A port that carries fabric traffic. -/
def portUp (s : State) (p : Nat) : Bool := lState s p == lsUP
/-- R323: the channel of a packet. -/
def vcOf (pk : Pkt) : Nat := 2 * pk.cls + b2n pk.dlv
def usedOf (l : Link) (vc : Nat) : Nat := (l.used[vc]?).getD 0
def sharedOf (l : Link) : Nat := (l.used.map (fun u => u - 16)).sum

/-! ### Input buffers and the packets in them (R320, R323) -/

/-- The flits of channel vc that port p holds. -/
def streamOf (l : Link) (vc : Nat) : List Flit := (l.inp[vc]?).getD []
def flitBytes (fs : List Flit) : List Byte := fs.flatMap (·.bytes)
/-- The bytes of a worm that are still to come from its input buffer. -/
def wormLeft (w : Worm) : Nat := w.left - w.data.length
/-- The worm that the front of a channel of a port belongs to. -/
def wormOf (s : State) (p vc : Nat) : Option Worm := s.held.find? (fun w => w.inp == p && w.ivc == vc)
/-- R320: the headers of the packets that start in a run of bytes, each taking its own bytes, with their LEN. -/
def headsIn : Nat → List Byte → List (Pkt × Nat)
  | 0, _ => []
  | n + 1, b => if b.length < 32 then [] else (hdrOf b, hdrLen b) :: headsIn n (b.drop (32 + hdrLen b))
/-- The packets of channel vc of port p that are not routed yet, with their LEN. -/
def unrouted (s : State) (p vc : Nat) : List (Pkt × Nat) :=
  let b := (flitBytes (streamOf (getL s p) vc)).drop ((wormOf s p vc).elim 0 wormLeft)
  headsIn (b.length / 32) b

/-! ### Counts of held packets and the fall-back state (R337, R341) -/

/-- Every packet in the router, with its LEN: injected, in the input buffers, on its way through, or in an ejection queue. -/
def heldLens (s : State) : List (Pkt × Nat) :=
  (s.held.filter (fun w => w.out != 9)).map (fun w => (w.pk, w.len)) ++ (s.inj ++ s.ejq).map (fun pk => (pk, pk.payload.length)) ++
    (s.links.flatMap (fun x => (List.range 8).flatMap (unrouted s x.1)))
def heldPkts (s : State) : List Pkt := (heldLens s).map (·.1)
/-- TFR_HELD's count of a class. -/
def heldClass (s : State) (cls : Nat) : Nat := min 255 ((heldPkts s).filter (fun p => p.cls == cls)).length
/-- TFR_EPOCH_CNT of an epoch: packets held, and own requests outstanding. -/
def epochCount (s : State) (e : Nat) : Nat :=
  min 65535 (((heldPkts s).filter (fun p => b2n p.epoch == e)).length + (s.slots.filter (fun k => b2n k.pk.epoch == e)).length)
/-- R337: FALLBACK. -/
def fallback (s : State) : Bool :=
  let e := b2n (injEpoch s)
  rbit s rTFR_TCTL (4 + e) || epochCount s (1 - e) != 0
/-- R296: SYN_MODE.EFF_ACKED. -/
def effAcked (s : State) : Bool := rbit s rSYN_MODE 0 || fallback s
def anyQuiesce (s : State) : Bool := rfld s rTFR_QUIESCE 3 0 != 0
/-- R581: the state codes of TFR and SYN follow the fall-back state and quiescence. -/
def refreshFabric (s : State) : State :=
  setCode (setCode s winTfr (b2n (fallback s) + 2 * b2n (anyQuiesce s))) winSyn (if effAcked s then 0 else 1)

/-- R323: whether the neighbour has room for one more flit of a channel: 16 reserved, at most 640 of the 896 shared. -/
def hasCredit (l : Link) (vc n : Nat) : Bool :=
  let u := usedOf l vc
  decide (u + n - 16 ≤ 640) && decide (sharedOf l - (u - 16) + (u + n - 16) ≤ 896)

/-- R339: a packet whose head cannot leave through a port that is down. -/
def dropDown (s : State) (pk : Pkt) : State :=
  let s := rinc s rTFR_DROP_DOWN 1
  if pk.cls = clsREQ then routerReply s pk stPORT_DOWN else s
/-- R327: a packet that route drops. -/
def dropRoute (s : State) (pk : Pkt) : State :=
  let s := rinc s rTFR_DROP_ROUTE 1
  if pk.cls = clsREQ then routerReply s pk stUNREACHABLE else s

/-! ### Ejection queues (R321, R324) -/

/-- R324: the oldest packet of its class in the ejection queues, taken, where it is this one and of operation `op`. -/
def fromEjection (s : State) (op : Nat) (pk : Pkt) : Option State :=
  match s.ejq.find? (fun q => q.cls == pk.cls) with
  | some q => if sameWire q pk ∧ pk.op = op then some { s with ejq := s.ejq.erase q } else none
  | none => none
/-- The port by which the oldest packet of a packet's class came (R372). -/
def cameBy (s : State) (pk : Pkt) : Nat := ((s.ejq.find? (fun q => q.cls == pk.cls)).bind (·.via)).getD 0
/-- An endpoint's work on a packet that its ejection queue gives it. -/
def ejected (s : State) (op : Nat) (pk : Pkt) (f : State → State) : State :=
  match fromEjection s op pk with
  | some t => f t
  | none => s

end Sys2Proof.Machine
end

