-- ==== Sys2Proof/Machine/Flow.lean ====
section
/-! DEFINITION. How packets go through the router (R311, R312, R320, R323, R339, R385): bytes leave input buffers and injection for output channels, ejection queues or nowhere, and output flits leave in codewords. -/

namespace Sys2Proof.Machine

/-! ### Link control words and codewords (R311, R312) -/

def lcwACK : Nat := 1
def lcwNAK : Nat := 2
def lcwCREDIT : Nat := 3
def lcwPEER : Nat := 4
/-- R311: the link control word. -/
def lcwWord (poison kind value : Nat) : Nat := poison * 2 ^ 15 + kind * 2 ^ 12 + value
def lcwPoison (w : Nat) : Nat := nbits w 19 15
def lcwKind (w : Nat) : Nat := nbits w 14 12
def lcwValue (w : Nat) : Nat := nbits w 11 0
/-- R311, R312: a message joins those that link control words are to carry: a later ACK takes the place of an earlier one, and flits returned of one
channel are returned together while their count fits its field. -/
def addMsg (l : List (Nat × Nat)) (kind v : Nat) : List (Nat × Nat) :=
  if kind = lcwACK then l.filter (fun m => m.1 != lcwACK) ++ [(kind, v)]
  else
    match l.find? (fun m => kind == lcwCREDIT && m.1 == lcwCREDIT && m.2 / 512 == v / 512 && decide (m.2 % 512 + v % 512 < 512)) with
    | some m => l.erase m ++ [(kind, m.2 + v % 512)]
    | none => l ++ [(kind, v)]
def queueLcw (s : State) (p kind v : Nat) : State := let l := getL s p; putL s p { l with msgs := addMsg l.msgs kind v }
/-- R311, R323: n flits of a channel that left the input buffer, returned to the neighbour, at most 511 in one message. -/
def returnCredit : Nat → State → Nat → Nat → Nat → State
  | 0, s, _, _, _ => s
  | f + 1, s, p, vc, n =>
    if n = 0 ∨ !portUp s p then s else returnCredit f (queueLcw s p lcwCREDIT (vc * 512 + min n 511)) p vc (n - 511)
/-- R312: a codeword kept in the retry buffer of 512. -/
def keepSent (l : Link) (c : Sent) : Link := { l with buf := (l.buf ++ [c]).drop (l.buf.length - 511) }
/-- R311: the place of a codeword among the 129 of which one is an alignment codeword. -/
def nextMark (m : Nat) : Nat := (m + 1) % 129
/-- One codeword sent, with the oldest message in its link control word; one in 129 is an alignment codeword, with no flits and no message. -/
def sendCodeword (s : State) (p : Nat) (poison : Nat) (flits : List (Nat × List Byte)) : State :=
  let l := getL s p
  let m := if l.txMark = 128 then none else l.msgs.head?
  let w := match m with | some m => lcwWord poison m.1 m.2 | none => lcwWord poison 0 0
  let s := putL s p { keepSent l ⟨l.tx, 1, w, flits⟩ with tx := (l.tx + 1) % 4096, txMark := nextMark l.txMark, msgs := if m.isSome then l.msgs.drop 1 else l.msgs }
  emit (rinc64 s (tfpReg p oTFP_TXFLIT_LO) flits.length) (.codeword p l.tx w flits)
/-- R311, R314: five flits go in each codeword, with their POISON bits. -/
def sendFlits : Nat → State → Nat → List (Nat × Flit) → State
  | 0, s, _, _ => s
  | n + 1, s, p, fs =>
    if fs = [] then s
    else if (getL s p).txMark = 128 then sendFlits n (sendCodeword s p 0 []) p fs
    else
      let now := fs.take 5
      let poison := ((List.range now.length).map (fun i => b2n ((now[i]?).elim false (·.2.bad)) * 2 ^ i)).sum
      sendFlits n (sendCodeword s p poison (now.map (fun f => (f.1, f.2.bytes)))) p (fs.drop 5)
/-- R312: messages that no flits have carried leave in codewords of idle flits. DESIGN CHOICE (log entry 37): a codeword that would carry nothing at all
is not sent. -/
def sendMsgs : Nat → State → Nat → State
  | 0, s, _ => s
  | n + 1, s, p => if (getL s p).msgs = [] ∨ !portUp s p then s else sendMsgs n (sendCodeword s p 0 []) p
def flushMsgs (s : State) (p : Nat) : State := sendMsgs (2 * (getL s p).msgs.length) s p

/-! ### Bytes leave where a packet waits (R320) -/

/-- The first n bytes of a channel's flits: whether any of them is corrupt, and the flits that stay. -/
def takeBytes : Nat → List Flit → List Byte × Bool × List Flit
  | _, [] => ([], false, [])
  | 0, fs => ([], false, fs)
  | n, f :: r =>
    if n < f.bytes.length then (f.bytes.take n, f.bad, { f with bytes := f.bytes.drop n } :: r)
    else
      let x := takeBytes (n - f.bytes.length) r
      (f.bytes ++ x.1, f.bad || x.2.1, x.2.2)
/-- Bytes taken from a channel of a port; flits left empty are returned to the neighbour. -/
def takeStream (s : State) (p vc n : Nat) : List Byte × Bool × State :=
  let l := getL s p
  let fs := streamOf l vc
  let x := takeBytes n fs
  (x.1, x.2.1, returnCredit 2 (putL s p { l with inp := l.inp.set vc x.2.2 }) p vc (fs.length - x.2.2.length))
/-- The bytes of a worm that are here. -/
def wormHere (s : State) (w : Worm) : Nat :=
  if w.inp = 8 then w.left else w.data.length + min (wormLeft w) (flitBytes (streamOf (getL s w.inp) w.ivc)).length
/-- Bytes taken of a worm: the bytes, whether they are known to be corrupt, the worm without them (not yet put back), the state. -/
structure Taken where
  bytes : List Byte
  bad : Bool
  worm : Worm
  s : State
/-- R314: whether the router has found corrupt what the next k bytes of a worm come from. -/
def spoiledNext (w : Worm) (k : Nat) : Bool := w.spoiled.any (fun f => meets (128 * f) 128 (32 + w.len - w.left) k)
/-- Bytes of worm w taken, as many as are here and n at most. -/
def takeWorm (s : State) (w : Worm) (n : Nat) : Taken :=
  let k := min n (wormHere s w)
  let own := w.data.take k
  let bad0 := (w.badData && own != []) || spoiledNext w k
  if k ≤ w.data.length then ⟨own, bad0, { w with data := w.data.drop k, left := w.left - k, bad := w.bad || bad0 }, s⟩
  else
    let x := takeStream s w.inp w.ivc (k - own.length)
    let bad := bad0 || x.2.1
    ⟨own ++ x.1, bad, { w with data := [], left := w.left - k, bad := w.bad || bad }, x.2.2⟩
/-- The worm at a place of the list put back, or gone once nothing of it is left. -/
def putWorm (s : State) (i : Nat) (w : Worm) : State :=
  { s with held := if w.left = 0 then s.held.eraseIdx i else s.held.set i w }

/-! ### Ejection and discard (R321, R324, R339) -/

/-- R324: MGT packets are accepted at once; the subtypes of waits go to SYN, and of others, for which the spec gives no effect (log entry 10), nothing
stays. -/
def ejectTo (s : State) (q : Pkt) : State :=
  if q.op = opMGT ∧ q.arg ≠ 1 ∧ q.arg ≠ 2 then s else { s with ejq := s.ejq ++ [q] }
/-- A worm that is ejected or discarded takes what is here. A packet reaches its ejection queue whole. -/
def settleWorm (s : State) (w : Worm) (i : Nat) : State :=
  if w.out = 8 then
    if wormHere s w < w.left then s
    else
      let x := takeWorm s w w.left
      let s := putWorm x.s i x.worm
      ejectTo s { pktOf x.bytes x.worm.bad with via := some (min w.inp 7) }
  else if w.out = 9 then
    let x := takeWorm s w w.left
    putWorm x.s i x.worm
  else s
/-- From the last worm to the first, so that places stay. -/
def settleIn (s : State) : State :=
  (List.range s.held.length).reverse.foldl (fun s i => match s.held[i]? with | some w => settleWorm s w i | none => s) s

/-! ### Output arbitration (R320, R322, R323, R385) -/

/-- R385: a packet of one flit or less. -/
def shortPkt (w : Worm) : Bool := decide (w.len ≤ 96)
/-- R320: whether a packet holds channel vc of port p. -/
def vcBusy (s : State) (p vc : Nat) : Bool := s.held.any (fun w => w.out == p && w.granted && vcOf w.pk == vc)
/-- R322: packets of this module's own injection keep their order where source, destination, class and epoch agree. -/
def behindOwn (s : State) (i : Nat) (w : Worm) : Bool :=
  w.inp == 8 && (s.held.take i).any (fun v => v.inp == 8 && v.pk.dest == w.pk.dest && v.pk.cls == w.pk.cls && v.pk.epoch == w.pk.epoch)
/-- Places of the list by age, oldest first: a place put before those of younger packets. -/
def bornAt (s : State) (i : Nat) : Nat := (s.held[i]?).elim 0 (·.born)
def placeByAge (s : State) (i : Nat) : List Nat → List Nat
  | [] => [i]
  | k :: r => if bornAt s i < bornAt s k then i :: k :: r else k :: placeByAge s i r
def byAge (s : State) (l : List Nat) : List Nat := l.foldl (fun a i => placeByAge s i a) []
/-- R385: the places of the heads routed to a port whose channel is free and that hold downstream credit, oldest first. -/
def contenders (s : State) (p : Nat) : List Nat :=
  byAge s ((List.range s.held.length).filter (fun i =>
    match s.held[i]? with
    | some w => w.out == p && !w.granted && !vcBusy s p (vcOf w.pk) && hasCredit (getL s p) (vcOf w.pk) 1 && !behindOwn s i w
    | none => false))
/-- R385: the head granted next: one passed over by 64 short packets, else the oldest short one, else the oldest. -/
def nextGrant (s : State) (idx : List Nat) : Option Nat :=
  let is (f : Worm → Bool) (i : Nat) : Bool := (s.held[i]?).elim false f
  (idx.find? (is (fun w => decide (64 ≤ w.passed)))).orElse (fun _ => (idx.find? (is shortPkt)).orElse (fun _ => idx.head?))
/-- R385: a head granted its channel; older longer packets count a short one that passes them. -/
def grant (s : State) (idx : List Nat) (i : Nat) : State :=
  match s.held[i]? with
  | none => s
  | some w =>
    let s := { s with held := s.held.set i { w with granted := true } }
    if shortPkt w then
      (idx.takeWhile (· != i)).foldl (fun s k =>
        match s.held[k]? with
        | some v => { s with held := s.held.set k (if shortPkt v then v else { v with passed := v.passed + 1 }) }
        | none => s) s
    else s
/-- Every channel of port p granted that can be. -/
def grantAll : Nat → State → Nat → State
  | 0, s, _ => s
  | n + 1, s, p =>
    let idx := contenders s p
    match nextGrant s idx with
    | none => s
    | some i => grantAll n (grant s idx i) p
/-- R320: whether a packet has a whole flit here, or its tail. -/
def flitReady (s : State) (w : Worm) : Bool := decide (0 < w.left) && decide (min 128 w.left ≤ wormHere s w)
/-- R385: the oldest packet that holds a channel of port p and has a flit and credit ready. -/
def nextSlot (s : State) (p : Nat) : Option Nat :=
  (byAge s (List.range s.held.length)).find? (fun i =>
    match s.held[i]? with
    | some w => w.out == p && w.granted && hasCredit (getL s p) (vcOf w.pk) 1 && flitReady s w
    | none => false)
/-- R320: one flit of channel vc filled from place i on: where a tail leaves room, the next packet of the channel follows it. -/
def fillFlit : Nat → State → Nat → Nat → Nat → List Byte → Bool → List Byte × Bool × State
  | 0, s, _, _, _, acc, bad => (acc, bad, s)
  | n + 1, s, p, vc, i, acc, bad =>
    match s.held[i]? with
    | none => (acc, bad, s)
    | some w =>
      let x := takeWorm s w (128 - acc.length)
      let acc := acc ++ x.bytes
      let bad := bad || x.bad
      let s := putWorm x.s i x.worm
      if x.worm.left ≠ 0 ∨ 128 ≤ acc.length then (acc, bad, s)
      else
        let idx := (contenders s p).filter (fun k => match s.held[k]? with
          | some v => vcOf v.pk == vc && decide (min (128 - acc.length) v.left ≤ wormHere s v)
          | none => false)
        match nextGrant s idx with
        | none => (acc, bad, s)
        | some k => fillFlit n (grant s idx k) p vc k acc bad
/-- The flits that port p can send now, in the order of their slots. -/
def fillSlots : Nat → State → Nat → List (Nat × Flit) × State
  | 0, s, _ => ([], s)
  | n + 1, s, p =>
    let s := grantAll 8 s p
    match nextSlot s p with
    | none => ([], s)
    | some i =>
      let vc := (s.held[i]?).elim 0 (fun w => vcOf w.pk)
      let x := fillFlit 5 s p vc i [] false
      let l := getL x.2.2 p
      let y := fillSlots n (putL x.2.2 p { l with used := l.used.set vc (usedOf l vc + 1) }) p
      ((vc, ⟨x.1, x.2.1, 0⟩) :: y.1, y.2)
/-- All that port p can send is sent. -/
def flowPort (s : State) (p : Nat) : State :=
  if portUp s p then
    let x := fillSlots 1025 s p
    sendFlits (x.1.length + x.1.length / 128 + 2) x.2 p x.1
  else s
/-- R320: packets move on as far as buffers and credits let them. -/
def flow (s : State) : State := (List.range 8).foldl flushMsgs ((List.range 8).foldl flowPort (settleIn s))

/-! ### Ports that go down (R339) -/

/-- Poisoned filler flits of n bytes. -/
def filler (n : Nat) : List Flit := (List.range (cdiv n 128)).map (fun i => ⟨zeroBytes (min 128 (n - 128 * i)), true, 0⟩)
/-- R339: what an input channel holds of packets whose tails will not come: the last is completed with filler; a head that came in part
is lost. -/
def completeRun : Nat → List Byte → Nat × Nat
  | 0, _ => (0, 0)
  | n + 1, b =>
    if b = [] then (0, 0)
    else if b.length < 32 then (0, b.length)
    else
      let m := 32 + hdrLen b
      if b.length < m then (m - b.length, 0) else completeRun n (b.drop m)
/-- The flits that hold the first n bytes. -/
def cutFlits : Nat → List Flit → List Flit
  | _, [] => []
  | 0, _ => []
  | n, f :: r => if n < f.bytes.length then [{ f with bytes := f.bytes.take n }] else f :: cutFlits (n - f.bytes.length) r
def completeStream (s : State) (p vc : Nat) : List Flit :=
  let fs := streamOf (getL s p) vc
  let b := flitBytes fs
  let need := (wormOf s p vc).elim 0 wormLeft
  if b.length < need then fs ++ filler (need - b.length)
  else
    let x := completeRun (b.length / 32 + 2) (b.drop need)
    cutFlits (b.length - x.2) fs ++ filler x.1

/-! ### Packets that enter (R326, R339) -/

/-- A packet put on its way. -/
def addWorm (s : State) (w : Worm) : State := if w.left = 0 then s else { s with held := s.held ++ [w] }
/-- R339: packets whose port went down: a head not sent is answered, and what is left of the packet is discarded. -/
def dropWorm (s : State) (w : Worm) : State :=
  if w.left ≤ w.len then rinc s rTFR_DROP_DOWN 1 else dropDown s w.pk
def cutOff (s : State) (p : Nat) : State :=
  let lost := s.held.filter (fun w => w.out == p)
  let s := { s with held := s.held.map (fun w => if w.out = p then { w with out := 9 } else w) }
  lost.foldl dropWorm s

end Sys2Proof.Machine
end

