-- ==== Sys2Proof/Machine/Sync.lean ====
section
/-! DEFINITION. Sync counters and waits (R265–R296): the wait test, additions, dropped signals, registrations, verdicts, expiries, withdrawals, assignment and release; and the signals of completing commands. -/

namespace Sys2Proof.Machine

/-- R268: the wait test. -/
def waitMet (c t : DWord) : Bool := decide ((c - t).toNat < 2 ^ 63)

/-- R265: a counter's global id. -/
def globalId (m i : Nat) : Nat := m * 65536 + i % 65536
def ctrStCode (c : CtrSt) : Nat := match c with | .free => 0 | .live => 1 | .broken => 2

/-- R291: a record of SYN. -/
def synRecord (s : State) (code obj : Nat) (noVerdict : Bool) (cmd : Option CmdName) (which thresh value timeout ctrState : Nat) : List Byte :=
  le32 (code * 65536 + 7 * 256 + 2 * b2n noVerdict + b2n cmd.isSome) ++ le32 0 ++ le64 (siteNow s) ++ le64 obj ++
    (match cmd with
     | some c => le32 c.floe ++ le32 (c.queue % 256) ++ le32 c.seq
     | none => le32 0 ++ le32 0 ++ le32 0) ++
    le32 which ++ le64 thresh ++ le64 value ++ le32 timeout ++ le32 ctrState

/-- R284: a signal that reaches a FREE or BROKEN counter. -/
def dropSignal (s : State) (i : Nat) : State :=
  let c := getC s i
  let s := rinc s rSYN_SIG_DROP 1
  let s := captureErr s winSyn eSIG_DROPPED []
  postRecord s (synRecord s eSIG_DROPPED (globalId (myId s) i) false none 0 0 c.val.toNat 0 (ctrStCode c.st))

/-! ### Verdicts reach their waiters -/

/-- A queue's held head with one of its waits set. -/
def setHeadWait (s : State) (q : Nat) (n : Word) (which : Nat) (w : WaitSt) : State :=
  let x := getQ s q
  match x.headCmd with
  | some h => if x.head = n then putQ s q { x with headCmd := some (if which = 0 then { h with w0 := w } else { h with w1 := w }) } else s
  | none => s
def setJobWait (s : State) (j : JobRef) (which : Nat) (w : WaitSt) : State :=
  match getJob s j with
  | some x => putJob s (if which = 0 then { x with w0 := w } else { x with w1 := w })
  | none => s
/-- A part's work done, with its writes visible: a command with this one part has then done its work. -/
def markWorked (s : State) (ref : JobRef) (p : Nat) : State :=
  match getJob s ref with
  | none => s
  | some j => match getPart j p with
    | none => s
    | some x =>
      let j1 := setPart j p { x with st := .worked }
      putJob s (if j.parts.length = 1 then { setPart j p { x with st := .done } with st := .worked } else j1)
/-- A part whose work ended in an error. -/
def markFaulted (s : State) (ref : JobRef) (p err : Nat) : State :=
  match getJob s ref with
  | none => s
  | some j => match getPart j p with
    | none => s
    | some x =>
      if j.parts.length = 1 then putJob s { setPart j p { x with st := .failed err } with st := .failed err, firstErr := err }
      else putJob s (setPart j p { x with st := .faulted err })
/-- A part's status changed. -/
def setPartSt (s : State) (j : JobRef) (p : Nat) (st : PartSt) : State :=
  match getJob s j with
  | some x => match getPart x p with
    | some y => putJob s (setPart x p { y with st := st })
    | none => s
  | none => s

/-- The payload of a management packet of a wait (log entry 10): wait number, value or threshold, state or remaining ns, verdict. -/
def mgtBody (a b c d : Nat) : List Byte := le64 a ++ le64 b ++ le64 c ++ le64 d
def mgtRegister : Nat := 1
def mgtVerdict : Nat := 2

/-- The command a waiter's record names. -/
def waiterCmd (s : State) (w : Waiter) : Option CmdName × Nat :=
  match w with
  | .head q n which => (some (qCmd s q n), which)
  | .job src ctag which => (some (jobCmd s (.remote src ctag)), which)
  | .remote _ floe queue n which => (some ⟨floe, queue, n.toNat⟩, which)
  | .ticket j _ => (some (jobCmd s j), 2)

/-- R286, R291: a verdict given to its waiter: met (err = 0), or failed with a code. A waiter of another module is sent it. -/
def giveVerdict (s : State) (r : WaitRec) (err : Nat) : State :=
  let c := getC s r.ctr
  let st : WaitSt := if err = 0 then .met else .failed err
  match r.who with
  | .remote src _ _ _ _ =>
    injectRaw s { op := opMGT, cls := clsMGT, dest := src, arg := w32 mgtVerdict,
                  payload := mgtBody r.wid c.val.toNat (ctrStCode c.st) err }
  | w =>
    let s := if err = 0 then s else
      let cw := waiterCmd s w
      let s := captureErr s winSyn err []
      postFor s cw.1 (synRecord s err (globalId (myId s) r.ctr) false cw.1 cw.2 r.thresh.toNat c.val.toNat r.timeout (ctrStCode c.st))
    match w with
    | .head q n which => setHeadWait s q n which st
    | .job src ctag which => setJobWait s (.remote src ctag) which st
    | .ticket j p => if err = 0 then markWorked s j p else markFaulted s j p err
    | .remote _ _ _ _ _ => s

/-- R272: every registered wait that an addition satisfies is satisfied by it. -/
def satisfy (s : State) (i : Nat) : State :=
  let c := getC s i
  let hit (r : WaitRec) : Bool := r.ctr == i && waitMet c.val r.thresh
  (s.waits.filter hit).foldl (fun s r => giveVerdict s r 0) { s with waits := s.waits.filter (fun r => !hit r) }

/-- R270, R284: an addition at this module's counter. -/
def addCounter (s : State) (i : Nat) (inc : Nat) : State :=
  let c := getC s i
  match c.st with
  | .live => satisfy (rinc64 (putC s i { c with val := c.val + w64 inc }) rSYN_SIGNALS_LO 1) i
  | _ => dropSignal s i

/-- R266, R282: the error a wait on a counter fails with at once, 0 where the counter is LIVE. -/
def ctrErr (c : Counter) : Nat := match c.st with | .live => 0 | .free => eCTR_FREE | .broken => eOWNER_LOST

/-- R277, R282: every wait registered on a counter fails. -/
def failWaits (s : State) (i err : Nat) : State :=
  let rs := s.waits.filter (fun r => r.ctr == i)
  let s := rs.foldl (fun s r => giveVerdict s r err) { s with waits := s.waits.filter (fun r => r.ctr != i) }
  rinc s rSYN_OWNER_LOST rs.length

/-- R276: a fetch-add: the value before, or the refusal. -/
def fetchAdd (s : State) (i inc : Nat) : Nat × Option DWord × State :=
  let c := getC s i
  match c.st with
  | .live => (0, some c.val, satisfy (rinc64 (putC s i { c with val := c.val + w64 inc }) rSYN_SIGNALS_LO 1) i)
  | .free => (eCTR_FREE, none, s)
  | .broken => (eOWNER_LOST, none, s)

/-! ### Registration -/

def isRemoteWaiter (w : Waiter) : Bool := match w with | .remote _ _ _ _ _ => true | _ => false
/-- R289, R382: records free for a registration: 1,024 of the 8,192 are kept for this module's own waits. -/
def freeRecords (s : State) (w : Waiter) : Nat :=
  if isRemoteWaiter w then min (8192 - s.waits.length) (7168 - (s.waits.filter (fun r => isRemoteWaiter r.who)).length) else 8192 - s.waits.length
/-- R382: the refusals remembered whose waiters still repeat: a waiter whose timeout has run out does not. -/
def stillRefused (s : State) : List Refused := s.refusals.filter (fun r => decide (s.clock < r.upTo))
/-- R382: refusals that a freed record is offered to before this registration of another module. -/
def refusedBefore (s : State) (src wid : Nat) : Nat := ((stillRefused s).takeWhile (fun r => r.src != src || r.wid != wid)).length
/-- R289, R382: whether a registration finds a record that is not offered to an older refusal. -/
def waitRoom (s : State) (wid : Nat) (w : Waiter) : Bool :=
  match w with
  | .remote src _ _ _ _ => decide (refusedBefore s src wid < freeRecords s w)
  | _ => decide (0 < freeRecords s w)
/-- R382: a refusal remembered, among the 1,024 oldest. -/
def noteRefused (s : State) (wid left : Nat) (w : Waiter) : State :=
  match w with
  | .remote src _ _ _ _ =>
    let l := stillRefused s
    { s with refusals := if l.any (fun r => r.src == src && r.wid == wid) || decide (1024 ≤ l.length) then l else l ++ [⟨src, wid, s.clock + left⟩] }
  | _ => s
/-- R382: a registration that is no longer refused. -/
def dropRefused (s : State) (wid : Nat) (w : Waiter) : State :=
  match w with
  | .remote src _ _ _ _ => { s with refusals := s.refusals.filter (fun r => r.src != src || r.wid != wid) }
  | _ => s

/-- What a SYN answers to a registration: the wait's state, the error it fails with, or no record. -/
inductive Registered where
  | met | failed (err : Nat) | kept | noRoom
  deriving DecidableEq, Repr

/-- R271, R286, R287: a registration at this module's counter, with `left` ns of its timeout. A timeout of 0 is one test (R15). -/
def register (s : State) (wid i : Nat) (t : DWord) (left timeout : Nat) (w : Waiter) : Registered × State :=
  let c := getC s i
  if ctrErr c ≠ 0 then (.failed (ctrErr c), rinc (dropRefused s wid w) rSYN_OWNER_LOST 1)
  else if waitMet c.val t then (.met, dropRefused s wid w)
  else if left = 0 then (.failed eWAIT_TIMEOUT, rinc (dropRefused s wid w) rSYN_TIMEOUTS 1)
  else if waitRoom s wid w then
    let s := dropRefused s wid w
    (.kept, { s with waits := s.waits ++ [⟨wid, i, t, s.clock + left, timeout, w⟩] })
  else (.noRoom, noteRefused s wid left w)

/-- R286, R288: a wait begun by a floe of this module on counter (m, i): decided here, or sent to the counter's module with the
waiter's own timer. The answer is how the wait stands now. -/
def beginWait (s : State) (m i : Nat) (t : DWord) (timeout : Nat) (elapsed : Nat) (w : Waiter) : WaitSt × State :=
  let wid := s.nextWid
  let s := { s with nextWid := wid + 1 }
  let left := us timeout - elapsed
  if m = myId s then
    match register s wid i t left timeout w with
    | (.met, s) => (.met, s)
    | (.failed e, s) =>
      let c := getC s i
      let cw := waiterCmd s w
      let s := captureErr s winSyn e []
      (.failed e, postFor s cw.1 (synRecord s e (globalId m i) false cw.1 cw.2 t.toNat c.val.toNat timeout (ctrStCode c.st)))
    | (.kept, s) => (.registered wid, s)
    | (.noRoom, s) =>
      let r : RemoteWait := { wid := wid, dest := m, ctr := i, thresh := t, who := w, backstop := s.clock + left + us 10, timeout := timeout,
                              refused := true, val := (getC s i).val, cst := ctrStCode (getC s i).st, tried := s.clock }
      (.refused, { s with rwaits := s.rwaits ++ [r] })
  else
    let s := injectRaw s { op := opMGT, cls := clsMGT, dest := m, addr := w64 i, arg := w32 mgtRegister, payload := mgtBody wid t.toNat left timeout }
    let r : RemoteWait := { wid := wid, dest := m, ctr := i, thresh := t, who := w, backstop := s.clock + left + us 10, timeout := timeout,
                            refused := false, tried := s.clock }
    (.registered wid, { s with rwaits := s.rwaits ++ [r] })

/-- R290: the waits of a waiter withdrawn, with no record. -/
def withdraw (s : State) (p : Waiter → Bool) : State :=
  { s with waits := s.waits.filter (fun r => !p r.who), rwaits := s.rwaits.filter (fun r => !p r.who) }

/-! ### Owners (R267, R282) -/

/-- Whether floe a (level, die, cluster, engine) lies at or beneath floe b. -/
def floeUnder (a b : Floe) : Bool :=
  decide (a.level ≤ b.level) && (b.level == 3 || (a.die == b.die && (b.level == 2 || (a.cluster == b.cluster && (b.level == 1 || a.engine == b.engine)))))
/-- R282: every LIVE counter owned by a floe at or beneath `f` becomes BROKEN and its waits fail. -/
def breakCounters (s : State) (f : Floe) : State :=
  let hit := s.counters.filter (fun p => p.2.st == .live && floeUnder (floeOf p.2.owner.toNat) f)
  hit.foldl (fun s p => failWaits (putC s p.1 { p.2 with st := .broken }) p.1 eOWNER_LOST) s
/-- R267: counters LIVE or BROKEN that a floe owns. -/
def ownedBy (s : State) (owner : Word) : Nat := (s.counters.filter (fun p => p.2.st != .free && p.2.owner == owner)).length

/-! ### Signals of completing commands (R160, R294, R295) -/

/-- R305: SYN_ACKED counts a signal raised in acked mode. -/
def raised (s : State) (ordered : Bool) : State := if ordered then s else rinc64 s rSYN_ACKED_LO 1
/-- A signal to a counter of this module. -/
def raiseHere (s : State) (i inc : Nat) (ordered : Bool) : State := addCounter (raised s ordered) i inc
end Sys2Proof.Machine
end

