-- ==== Sys2Proof/Machine/Outward.lean ====
section
/-! DEFINITION. Requests as they leave (R328, R329, R334): a request and its reply slot, a request that fails (R331, R342), and signals sent (R294). -/

namespace Sys2Proof.Machine

/-- R47, R184: flags ORed into the header of the queue's progress area. A served command's flags go to its queue with its final report. -/
def orFlags (s : State) (ref : JobRef) (fl : Nat) : State :=
  match ref with
  | .queue q _ =>
    let a := (getQ s q).prog.toNat
    if fl = 0 ∨ !rangeMapped s.order a 4 then s else store s (.core (qHart q)) a (le32 (rd32 s a ||| fl))
  | .remote _ _ =>
    match getJob s ref with
    | some j => if fl = 0 then s else putJob s { j with flags := j.flags ||| fl }
    | none => s
/-- R202: an uncorrectable word that a write of flags merges with. -/
def flagBad (s : State) (ref : JobRef) (fl : Nat) : Option Nat :=
  match ref with
  | .queue q _ => if fl = 0 ∨ !rangeMapped s.order (getQ s q).prog.toNat 4 then none else badPartly s (getQ s q).prog.toNat 4
  | .remote _ _ => none
def partOver (p : Part) : Bool := match p.st with | .done => true | .failed _ => true | _ => false

/-! ### Errors of requests -/

/-- R342: the words that name a request. -/
def reqInfo (k : Slot) : List Nat :=
  [k.rtag * 65536 + k.pk.ctag, k.pk.op * 2 ^ 28 + k.pk.dest, k.pk.addr.toNat % 2 ^ 32, k.pk.addr.toNat / 2 ^ 32]
/-- R554: the object that a request's error names: the request, or the memory address for the errors of kind 2, or a counter. -/
def reqObj (k : Slot) (err : Nat) : Nat :=
  if err = eADDR_RANGE ∨ err = eFIRN_ACCUM ∨ err = eMEM_UE then objOf 2 (k.pk.addr.toNat % 2 ^ 48)
  else if err = eCTR_FREE ∨ err = eOWNER_LOST then objOf 0 (globalId k.pk.dest k.pk.addr.toNat)
  else objOf 4 (k.pk.dest * 2 ^ 32 + k.rtag * 65536 + k.pk.ctag)
def reqCmd (s : State) (w : Purpose) : Option CmdName :=
  match w with
  | .write j _ _ _ => some (jobCmd s j)
  | .read j _ _ _ _ => some (jobCmd s j)
  | .sigOf q n _ => some (qCmd s q n)
  | .sigEntry j _ => some (jobCmd s j)
  | .fetch j _ _ => some (jobCmd s j)
  | .ticket j _ => some (jobCmd s j)
  | .cmd j _ => some (jobCmd s j)
  | .stream j _ _ => some (jobCmd s j)
  | .report => none
  | .other => none
/-- R331: the record of a descriptor signal that failed after its command completed. -/
def signalFailed (s : State) (k : Slot) (q : Nat) (n : Word) (which err : Nat) : State :=
  let s := captureErr s winSyn err []
  postRecord s (synRecord s err (globalId k.pk.dest k.pk.addr.toNat) false (some (qCmd s q n)) 3 which 0 0 3)
/-- R276: a refused fetch-add recorded by the SYN of the module that holds the command's queue. For a served command the report takes
that word to it. -/
def fetchRefused (s : State) (j : JobRef) (m i err : Nat) : State :=
  match j with
  | .queue _ _ =>
    let s := captureErr s winSyn err []
    postFor s (some (jobCmd s j)) (synRecord s err (globalId m i) false (some (jobCmd s j)) 2 0 0 0 (if err = eCTR_FREE then 0 else 2))
  | .remote _ _ => orFlags s j 32

/-- R144: the number of the first tile of a part that is not retired. -/
def firstUnretired (j : Job) (x : Part) : Nat :=
  (((List.range (x.hi - x.lo)).flatMap (fun i => (List.range (x.c1 - x.c0)).map (fun k => (x.lo + i) * mTn j.args + x.c0 + k))).find?
    (fun t => !j.units.contains t)).getD 0
/-- R144: a streamed write that failed: STREAM_FAIL where no reply came, or the error of its status (R330). -/
def streamFailed (s : State) (j : JobRef) (p : Nat) (k : Slot) (err : Nat) : State :=
  match getJob s j with
  | none => s
  | some x => match getPart x p with
    | none => s
    | some y =>
      let w := winEng (floeEngine (floeOf y.floe))
      let e := if err = eREPLY_TIMEOUT then eSTREAM_FAIL else err
      let s := reportErr s w e (objOf 4 (k.pk.dest * 2 ^ 32 + k.rtag * 65536 + k.pk.ctag)) (some (jobCmd s j))
        [(jobCmd s j).seq, firstUnretired x y, nbits (leAt x.extra 0 4) 9 7, k.pk.dest]
      markFaulted s j p e

/-- A part that a request serves, still unfinished. -/
def servedPart (s : State) (j : JobRef) (p : Nat) : Bool :=
  match getJob s j with
  | some x => x.st == .running && (match getPart x p with | some y => !partOver y && (match y.st with | .faulted _ => false | _ => true) | none => false)
  | none => false
/-- A part whose request failed, where it still runs. -/
def failPart (s : State) (j : JobRef) (p err : Nat) : State := if servedPart s j p then markFaulted s j p err else s
/-- A request of this module has failed for good, with its error: it is named (R329, R342), and its maker fails where it still runs. -/
def requestFailed (s : State) (k : Slot) (err : Nat) : State :=
  let info := if err = eREPLY_TIMEOUT then reqInfo k else []
  let report (s : State) := reportErr s winTfr err (reqObj k err) (reqCmd s k.why) info
  match k.why with
  | .sigOf q n which => signalFailed s k q n which err
  | .stream j p _ =>
    -- TFR's own registers name the request; the error and its record are the engine's (R144)
    let s := captureErr s winTfr (if err = eREPLY_TIMEOUT then eSTREAM_FAIL else err) (reqInfo k)
    if servedPart s j p then streamFailed s j p k err else s
  | .fetch j p _ =>
    failPart (if err = eCTR_FREE ∨ err = eOWNER_LOST then fetchRefused s j k.pk.dest (k.pk.addr.toNat % 65536) err else report s) j p err
  | .ticket j p =>
    failPart (if err = eCTR_FREE ∨ err = eOWNER_LOST then fetchRefused s j k.pk.dest (k.pk.addr.toNat % 65536) err else report s) j p err
  | .write j p _ _ => failPart (report s) j p err
  | .read j p _ _ _ => failPart (report s) j p err
  | .sigEntry j p => failPart (report s) j p err
  | .cmd j p => failPart (report s) j p err
  | .report => report s
  | .other => report s

/-! ### Requests -/

/-- R329: a slot whose reply has not come in RTO µs. With an RTO of 0 that is so as it is sent (R15). -/
def slotExpired (s : State) (k : Slot) : Bool := decide (k.sent + rtoNs s ≤ s.clock)
/-- R329: a request with no reply in time. -/
def failSlot (s : State) (k : Slot) : State := requestFailed (rinc (dropSlot s k.rtag) rTFR_TIMEOUT 1) k eREPLY_TIMEOUT
/-- R15, R329: a request sent on a slot; with an RTO of 0 it fails as it is sent. -/
def sendOn (s : State) (k : Slot) : State :=
  let s := { s with slots := s.slots ++ [k], inj := s.inj ++ [k.pk] }
  if slotExpired s k then failSlot s k else s
/-- R328, R330, R334: a REQ packet sent against a slot, for the first time or again. Where its class is quiesced or no slot is free it waits. -/
def requestAs (s : State) (d : Due) : State :=
  match (if canRequest s then freeSlot s else none) with
  | none => { s with due := s.due ++ [d] }
  | some t =>
    sendOn { s with nextWid := s.nextWid + 1 }
      ⟨t, dressed s { d.pk with cls := clsREQ, rtag := t }, d.why, s.clock, d.again.isSome, d.again.getD s.nextWid⟩
def request (s : State) (pk : Pkt) (why : Purpose) : State := requestAs s { pk := pk, why := why }
/-- Requests that waited, sent while they can be, oldest first. -/
def sendDue : Nat → State → State
  | 0, s => s
  | n + 1, s =>
    match s.due with
    | [] => s
    | d :: r => if canRequest s then sendDue n (requestAs { s with due := r } d) else s

/-! ### Signals -/

/-- One signal sent to counter (m, i): applied here, or a SIG packet, which goes the way of the writes it follows (`via`, R141). -/
def sendSignal (s : State) (m i inc : Nat) (ordered : Bool) (via : Option Nat) (ctag : Nat) (why : Purpose) : State :=
  let s := raised s ordered
  if m = myId s then addCounter s i inc
  else request s { op := opSIG, dest := m, addr := w64 i, arg := w32 inc, ordered := ordered, ctag := ctag, via := via } why

end Sys2Proof.Machine
end

