-- ==== Sys2Proof/Machine/Jobs.lean ====
section
/-! DEFINITION. Dispatched commands and their parts (R29–R36, R174, R175, R181–R190, R618): how a command is divided, its progress record, how its parts and it end, and how a queue settles. -/

namespace Sys2Proof.Machine

/-! ### Units (R182) and division (R187–R190) -/


/-- R188: the largest band of a floor division of t into g. -/
def ceilBand (t g : Nat) : Nat := cdiv t g
/-- R188: the grid of L children. -/
def bestGrid (tm tn l : Nat) : Nat × Nat :=
  let cands := (List.range (min tm l)).flatMap (fun i => (List.range (min tn (l / (i + 1)))).map (fun k => (i + 1, k + 1)))
  let better (x y : Nat × Nat) : Bool :=
    let bx := ceilBand tm x.1 * ceilBand tn x.2
    let byy := ceilBand tm y.1 * ceilBand tn y.2
    decide (bx < byy) || (bx == byy && decide (y.1 < x.1))
  cands.foldl (fun best c => if best.1 = 0 then c else if better c best then c else best) (0, 0)

/-- A rectangle of tiles: rows lo..hi, columns c0..c1. -/
structure Rect where
  lo : Nat
  hi : Nat
  c0 : Nat
  c1 : Nat
  deriving DecidableEq, Repr

/-- R188: a rectangle divided over children, in increasing child index; children beyond the grid get none. -/
def splitTiles (r : Rect) (kids : List Nat) : List (Nat × Rect) :=
  let tm := r.hi - r.lo
  let tn := r.c1 - r.c0
  let g := bestGrid tm tn kids.length
  (List.range g.1).flatMap (fun i => (List.range g.2).filterMap (fun k =>
    (kids[i * g.2 + k]?).map (fun c =>
      (c, ⟨r.lo + i * tm / g.1, r.lo + (i + 1) * tm / g.1, r.c0 + k * tn / g.2, r.c0 + (k + 1) * tn / g.2⟩))))
/-- R189: a range of units divided over children; a part with no units is not sent. -/
def splitUnits (lo hi : Nat) (kids : List Nat) : List (Nat × Nat × Nat) :=
  let l := kids.length
  (List.range l).filterMap (fun i =>
    let a := lo + i * (hi - lo) / l
    let b := lo + (i + 1) * (hi - lo) / l
    if a = b then none else (kids[i]?).map (fun c => (c, a, b)))

/-- R162: live children without those that CHILD_AVOID names, where that leaves one. -/
def avoided (avoid : Nat) (kids : List Nat) (idx : Nat → Nat) : List Nat :=
  let k := kids.filter (fun c => !nbit avoid (idx c))
  if k = [] then kids else k
def liveDies (s : State) : List Nat := (List.range 2).filter (fun d => dieLive s d)
def liveClusters (s : State) (d : Nat) : List Nat := ((List.range 6).map (fun c => 6 * d + c)).filter (fun c => clusterLive s c)
def liveEngines (s : State) (c : Nat) : List Nat := ((List.range 8).map (fun e => 8 * c + e)).filter (fun e => !fenced s e)

/-- The engine parts of a MATMUL addressed to a floe of this module. -/
def tileParts (s : State) (f : Floe) (avoid : Nat) (r : Rect) : List (Nat × Rect) :=
  if f.level = 0 then [(floeEngine f, r)]
  else if f.level = 1 then splitTiles r (avoided avoid (liveEngines s (floeCluster f)) (· % 8))
  else
    let cs := if f.level = 2 then splitTiles r (avoided avoid (liveClusters s f.die) (· % 6))
      else (splitTiles r (avoided avoid (liveDies s) id)).flatMap (fun p => splitTiles p.2 (liveClusters s p.1))
    cs.flatMap (fun p => splitTiles p.2 (liveEngines s p.1))
/-- The engine parts of an ELEMWISE. -/
def rangeParts (s : State) (f : Floe) (avoid lo hi : Nat) : List (Nat × Nat × Nat) :=
  if f.level = 0 then [(floeEngine f, lo, hi)]
  else if f.level = 1 then splitUnits lo hi (avoided avoid (liveEngines s (floeCluster f)) (· % 8))
  else
    let cs := if f.level = 2 then splitUnits lo hi (avoided avoid (liveClusters s f.die) (· % 6))
      else (splitUnits lo hi (avoided avoid (liveDies s) id)).flatMap (fun p => splitUnits p.2.1 p.2.2 (liveClusters s p.1))
    cs.flatMap (fun p => splitUnits p.2.1 p.2.2 (liveEngines s p.1))
/-- R187: the clusters that a DMA command of level 2 or 3 is divided over. DESIGN CHOICE (log entry 78): at the module floe, whose twelve clusters have
no bits of their own in CHILD_AVOID, bit i avoids cluster i of each die. -/
def dmaClusters (s : State) (f : Floe) (avoid : Nat) : List Nat :=
  let live := (clustersUnder f).filter (fun c => clusterLive s c)
  avoided avoid (if live = [] then clustersUnder f else live) (· % 6)

/-- R182: the units of a command that is divided by units. -/
def unitTotal (s : State) (d a : List Byte) : Nat :=
  let f := floeOf (dTarget d)
  let fam := dFam d
  if fam = 1 then (if mK a = 0 then 0 else mTm a * mTn a)
  else if isKernel d a then
    (if f.level = 0 then 1 else if ewPlace a then (clustersUnder f).length else (liveUnder s f).length)
  else if fam = 2 then cdiv (ewCount a) 1024
  else if fam = 3 ∨ fam = 4 then cdiv (leAt a 0x18 8) 4096
  else if fam = 6 ∨ fam = 8 ∨ fam = 0xD then leAt a 0x10 4
  else if fam = 0xC then leAt a 8 8 / 0x40000
  else if fam = 0xE then
    -- R491: 4 KiB of output for GCM_SEAL, CTR and encrypting segments (a segment of an open context tells as it runs)
    (let v := dVar d
     if v = 0 ∨ v = 2 ∨ (v = 4 ∧ ciInit a ∧ ciSmode a ≠ 1) then cdiv (ciLen a) 4096 else 1)
  else if fam = 0xF then (if dVar d = 5 then 1 else srCount a)
  else 1

/-- The parts of a command that this module executes (its target is a floe here). -/
def localParts (s : State) (d a : List Byte) : List Part :=
  let f := floeOf (dTarget d)
  let fam := dFam d
  let total := unitTotal s d a
  if fam = 1 then
    (if total = 0 then [] else
      (tileParts s f (dAvoid d) ⟨0, mTm a, 0, mTn a⟩).map (fun p =>
        { floe := engFloe s p.1, lo := p.2.lo, hi := p.2.hi, c0 := p.2.c0, c1 := p.2.c1 }))
  else if isKernel d a then
    (if f.level = 0 then [{ floe := engFloe s (floeEngine f), lo := 0, hi := 1 }]
     else
      let fl := if ewPlace a then (clustersUnder f).map (cluFloe s) else (liveUnder s f).map (engFloe s)
      (List.range fl.length).map (fun i => { floe := (fl[i]?).getD 0, lo := i, hi := i + 1 }))
  else if fam = 2 then
    (if total = 0 then [] else
      (rangeParts s f (dAvoid d) 0 total).map (fun p => { floe := engFloe s p.1, lo := p.2.1, hi := p.2.2 }))
  else if fam = 3 ∨ fam = 4 then
    (if total = 0 then []
     -- R534: cluster DMA queues execute variant 3
     else if f.level = 0 ∧ fam = 3 ∧ dVar d = 3 then [{ floe := cluFloe s (floeCluster f), lo := 0, hi := total }]
     else if f.level = 0 then [{ floe := engFloe s (floeEngine f), lo := 0, hi := total }]
     else if f.level = 1 then [{ floe := cluFloe s (floeCluster f), lo := 0, hi := total }]
     else (splitUnits 0 total (dmaClusters s f (dAvoid d))).map (fun p => { floe := cluFloe s p.1, lo := p.2.1, hi := p.2.2 }))
  else [{ floe := dTarget d, lo := 0, hi := total }]

/-- R36, R187, R190: the parts of a command when it is dispatched at this module. `served` says that it came in a CMD packet. -/
def partsOf (s : State) (served : Bool) (d a : List Byte) : List Part :=
  let f := floeOf (dTarget d)
  if f.level = 4 then
    (if !served then [{ floe := dTarget d, lo := 0, hi := 0, away := true }]
     else if dFam d = 9 ∨ dFam d = 0xA then [{ floe := dTarget d, lo := 0, hi := 1 }]
     else
      match groupEntry s f.module with
      | some i => (gMembers s i).map (fun m => { floe := modFloeOf m, lo := 0, hi := 0, away := true })
      | none => [])
  else if floeHere s (dTarget d) then localParts s d a
  else [{ floe := dTarget d, lo := 0, hi := 0, away := true }]

/-- The module an away part is sent to: the root of a group, or the module its floe names. -/
def partModule (s : State) (p : Part) : Nat :=
  let f := floeOf p.floe
  if f.level = 4 then (match groupEntry s f.module with | some i => gRoot s i | none => 0) else f.module

/-! ### Progress (R32, R181–R183) -/

/-- R32: units 0 to COMMITTED − 1 are complete. -/
def prefixFrom (us : List Nat) : Nat → Nat → Nat
  | 0, k => k
  | n + 1, k => if us.contains k then prefixFrom us n (k + 1) else k
def prefixLen (us : List Nat) : Nat := prefixFrom us us.length 0
def minOf (l : List Nat) : Nat := match l with | [] => 0 | x :: r => r.foldl min x
def jobAway (j : Job) : Bool := j.parts.any (·.away)
def jobRetired (j : Job) : Nat := if jobAway j then minOf (j.parts.map (·.retired)) else j.units.length
def jobCommitted (j : Job) : Nat := if jobAway j then minOf (j.parts.map (·.committed)) else prefixLen j.units

/-- R93, R149: the units that a completed command has retired. -/
def doneUnits (j : Job) : Nat := if dFam j.desc = 1 ∧ ddFrozen j.extra then 0 else if jobAway j then jobRetired j else j.total

def prHELD : Nat := 1
def prRUNNING : Nat := 2
def prCOMPLETE : Nat := 3
def prFAILED : Nat := 4
def prABANDONED : Nat := 5
def prSKIPPED : Nat := 6
/-- R181: the address of the record of index n of queue q. -/
def progAddr (s : State) (q n : Nat) : Nat := (getQ s q).prog.toNat + 0x40 + 16 * (n % 2 ^ (getQ s q).log2)
/-- R202: an uncorrectable word that the write of a record would merge with. -/
def progBad (s : State) (q n : Nat) : Option Nat := badPartly s (progAddr s q n) 16
/-- R181, R183: a progress record written. -/
def writeProgress (s : State) (q n st err retired committed : Nat) : State :=
  let a := progAddr s q n
  if rangeMapped s.order a 16 then
    storeNoted s (.core (qHart q)) a (le32 n ++ le32 (st * 2 ^ 28 + err % 65536) ++ le32 retired ++ le32 committed) (qFloe s q) (some (qCmd s q (w32 n)))
  else s
/-- A record's state changed, its error cleared and its units kept. -/
def markRecord (s : State) (q n st : Nat) : State :=
  let a := progAddr s q n
  if rangeMapped s.order a 16 then storeNoted s (.core (qHart q)) (a + 4) (le32 (st * 2 ^ 28)) (qFloe s q) (some (qCmd s q (w32 n))) else s
/-- The record of a job of this module's queues. -/
def progressOf (s : State) (j : Job) (st err : Nat) : State :=
  match j.ref with
  | .queue q n => writeProgress s q n st err (jobRetired j) (jobCommitted j)
  | .remote _ _ => s
/-- R210: whether the writes of a command's progress record and flags wait for a region that is initialising. -/
def progWaits (s : State) (ref : JobRef) : Bool :=
  match ref with
  | .queue q n => [((getQ s q).prog.toNat, 4), (progAddr s q n, 16)].any (fun r => rangeMapped s.order r.1 r.2 && firnBusy s r.1 r.2)
  | .remote _ _ => false
/-- R183: RUNNING with the units so far. -/
def runProgress (s : State) (ref : JobRef) : State :=
  match getJob s ref with
  | some j => progressOf s j prRUNNING 0
  | none => s
/-! ### Parts end -/

/-- A unit complete (R32). -/
def addUnit (s : State) (ref : JobRef) (u : Nat) : State :=
  match getJob s ref with
  | some j => if j.units.contains u then s else putJob s { j with units := j.units ++ [u] }
  | none => s
def addUnits (s : State) (ref : JobRef) (us : List Nat) : State := us.foldl (fun s u => addUnit s ref u) s
/-- R183: a unit retired, with a record at least once in 64 of them. -/
def unitRetired (s : State) (ref : JobRef) (u : Nat) : State :=
  let s := addUnit s ref u
  match getJob s ref with
  | some j => if j.units.length % 64 = 0 then runProgress s ref else s
  | none => s
def unitsRetired (s : State) (ref : JobRef) (us : List Nat) : State := us.foldl (fun s u => unitRetired s ref u) s
/-- A job's state. -/
def setJobSt (s : State) (ref : JobRef) (st : JobSt) : State :=
  match getJob s ref with
  | some j => putJob s { j with st := st }
  | none => s
/-- R29, R31: a command whose parts have all ended has done its work, or fails with the first failed part's error. -/
def closeJob (s : State) (ref : JobRef) : State :=
  match getJob s ref with
  | none => s
  | some j =>
    if j.st = .running ∧ j.parts.all partOver then
      putJob s { j with st := if j.firstErr = 0 then .worked else .failed j.firstErr }
    else s
/-- Whether part p of a running command may begin or go on with its work. -/
def partLive (s : State) (ref : JobRef) (p : Nat) : Option (Job × Part) :=
  match getJob s ref with
  | none => none
  | some j =>
    if j.st = .running then
      match getPart j p with
      | some x => if x.away then none else match x.st with
        | .sent => some (j, x)
        | .busy => some (j, x)
        | _ => none
      | none => none
    else none
/-- R210: an access to the window of a region that is initialising waits. -/
def firnWaits (s : State) (d a dd : List Byte) : Bool := (jobRanges s d a dd).any (fun r => firnBusy s r.1 r.2)
/-- R394: a pending commit of the Firn regions holds back new accesses to a window it changes. -/
def commitHolds (s : State) (d a dd : List Byte) : Bool :=
  commitPending s (winMem 0) && (jobRanges s d a dd).any (fun r => frChangeTouches s r.1 r.2)
/-- Whether part p has not begun. -/
def partFresh (s : State) (ref : JobRef) (p : Nat) : Option (Job × Part) :=
  match partLive s ref p with
  | some (j, x) => if x.st = .sent ∧ !firnWaits s j.desc j.args j.extra ∧ !progWaits s ref ∧ !commitHolds s j.desc j.args j.extra then some (j, x) else none
  | none => none

/-- A fresh part of a command of one family and variant. -/
def freshOf (s : State) (ref : JobRef) (p fam var : Nat) : Option (Job × Part) :=
  match partFresh s ref p with
  | some (j, x) => if dFam j.desc = fam ∧ dVar j.desc = var then some (j, x) else none
  | none => none

/-! ### Sending to other modules (R618) -/

/-- R318: the next command tag and wait number. -/
def newTag (s : State) : Nat × State := (s.nextWid % 65536, { s with nextWid := s.nextWid + 1 })
/-- R349, R365: a member's part names the group that its command's TARGET names, where GROUP is 0. -/
def withGroup (d a : List Byte) : List Byte :=
  let o := if dFam d = 5 then 4 else if dFam d = 7 then 8 else a.length
  let w := leAt a o 4
  if o < a.length ∧ nbits w 11 0 = 0 then a.take o ++ le32 (nput w 11 0 (floeOf (dTarget d)).module) ++ a.drop (o + 4) else a
/-- The CMD packet of an away part: a group command or a command to another module goes with its waits; a member's part without. -/
def cmdPacket (s : State) (j : Job) (p : Part) : Pkt :=
  let member := match j.ref with | .remote _ _ => true | .queue _ _ => false
  let d := if member then partDesc j.desc p.floe else j.desc
  let c := jobCmd s j.ref
  { op := opCMD, dest := partModule s p, ctag := j.tag, payload := d ++ (if member then withGroup j.desc j.args else j.args),
    aux := [c.floe, c.queue, c.seq, s.clock - j.arrived] }
/-- Every away part for another module that is not yet sent, sent while a reply slot is free. -/
def sendParts (s : State) (ref : JobRef) : State :=
  match getJob s ref with
  | none => s
  | some j0 =>
    (List.range j0.parts.length).foldl (fun s i =>
      match getJob s ref with
      | some j => match getPart j i with
        | some p =>
          if p.away && p.cursor == 0 && partModule s p != myId s && canRequest s && j.firstErr == 0 then
            request (putJob s (setPart j i { p with cursor := 1, lastReport := s.clock })) (cmdPacket s j p) (.cmd ref i)
          else s
        | none => s
      | none => s) s
/-- R328, R334: what waits for a reply slot or for the end of quiescence goes on: requests first, then parts. -/
def pump (s : State) : State :=
  let s := sendDue s.due.length s
  s.jobs.foldl (fun s j => if j.st = .running ∧ jobAway j then sendParts s j.ref else s) s

/-! ### Readers of generations (R252) -/

/-- R252: dispatched readers of a slot of a group descriptor. -/
def readersOf (s : State) (gd slot : Nat) : Nat := (s.jobs.filter (fun j => j.readers == some (gd, slot))).length
/-! ### Where a command's writes lie (R141, R294) -/

/-- R307: the module one step from m across port p. -/
def stepFrom (s : State) (m p : Nat) : Nat :=
  let a := p / 2
  let n := ringSize s a
  let c := axisOf m a
  setAxis m a (if p % 2 = 0 then (c + 1) % n else (c + n - 1) % n)
/-- No module's id: it stands for modules that this one cannot tell (log entry 63). -/
def unknownModule : Nat := 2 ^ 18
/-- The modules that the data work of a command is done on: its target's, or the members of its group. -/
def workMods (s : State) (j : Job) : List Nat :=
  let f := floeOf (dTarget j.desc)
  if f.level = 4 then
    match groupEntry s f.module with
    | some i => if dFam j.desc = 9 ∨ dFam j.desc = 0xA then [gRoot s i] else gMembers s i
    | none => [unknownModule]
  else [floeModule s (dTarget j.desc)]
/-- R119: whether a MATMUL writes on the module that runs it: a local output, records or a stash. -/
def writesLocally (dd : List Byte) : Bool := ddLocal dd || ddStashEn dd || ddRowstat dd != 0
/-- The modules that a command's writes lie on, each once or more; none for a command without writes. Those of a MATMUL of another module are what its
reports say (log entry 63). -/
def writesOn (s : State) (j : Job) : List Nat :=
  let fam := dFam j.desc
  let v := dVar j.desc
  let ms := workMods s j
  if fam = 1 then
    if j.total = 0 then []
    else if jobAway j then j.wrote
    else if ddFrozen j.extra then []
    else (if writesLocally j.extra then ms else []) ++ (if ddStream j.extra then ms.map (fun m => stepFrom s m (ddPort j.extra)) else [])
  else if fam = 2 then (if j.total = 0 then [] else ms)
  else if fam = 3 ∨ fam = 4 then
    if cpLen j.args = 0 then [] else if v = 1 then [cpModule j.args] else if fam = 3 ∧ v = 3 ∧ !nbit (leAt j.args 0 4) 8 then [] else ms
  else if fam = 5 then (if v = 5 ∨ cSize j.args = 0 then [] else ms)
  else if fam = 7 ∨ fam = 0xB ∨ (fam = 0xE ∧ 6 ≤ v) ∨ (fam = 0xF ∧ v = 5) then []
  else if fam = 9 then (if v = 1 ∧ leAt j.args 0x18 8 ≠ 0 then ms else [])
  else if fam = 0xA then (if v = 1 ∧ leAt j.args 8 8 ≠ 0 then ms else [])
  else ms
/-- R294: whether a signal of a command to a counter of module m goes in ordered mode. -/
def orderedSignal (s : State) (j : Job) (m : Nat) : Bool := (writesOn s j).all (· == m) && !dAcked j.desc && !effAcked s

/-- R252: a reader that completes adds 1 to its slot's reader counter. -/
def releaseReader (s : State) (j : Job) : State :=
  if j.readers.isSome then raiseHere s j.rdCtr 1 (orderedSignal s j (myId s)) else s

/-! ### Queues settle (R174, R175, R179, R283) -/

def isQueueJob (q : Nat) (j : Job) : Bool := match j.ref with | .queue q' _ => q' == q | .remote _ _ => false
def queueJobs (s : State) (q : Nat) : List Job := s.jobs.filter (isQueueJob q)
def jobIndex (j : Job) : Nat := match j.ref with | .queue _ n => n | .remote _ _ => 0
/-- How far index n lies past the queue's oldest incomplete command. -/
def aheadOf (x : Queue) (n : Nat) : Nat := (w32 n - x.done).toNat

/-- A command after a failed one has ended: it is abandoned (R175). -/
def abandonEnded (s : State) (q : Nat) : State :=
  let x := getQ s q
  match x.failedAt with
  | none => s
  | some f =>
    let ended := (queueJobs s q).filter (fun j =>
      decide (aheadOf x f.toNat < aheadOf x (jobIndex j)) && (match j.st with | .worked => true | .failed _ => true | _ => false))
    ended.foldl (fun s j => dropJob (progressOf s j prABANDONED 0) j.ref) s
/-- The queue's state after something of it has ended. -/
def settleQueue (s : State) (q : Nat) : State :=
  let s := abandonEnded s q
  let x := getQ s q
  if x.st ≠ .active ∧ x.st ≠ .draining then s
  else
    match x.failedAt with
    | some _ => putQ s q { x with st := if queueJobs s q = [] then .stopped else .draining }
    | none =>
      if x.stopErr ≠ 0 then
        (if queueJobs s q = [] then putQ s q { x with st := .stopped, err := x.stopErr, stopErr := 0 }
         else putQ s q { x with st := .draining })
      else s

/-- R175: the command of index n of queue q fails: it is taken from the queue's dispatched commands, and the queue dispatches nothing
further. -/
def failCommand (s : State) (q : Nat) (n : Word) (err : Nat) : State :=
  -- the record of a later command that failed before it ends ABANDONED, its units as they stand
  let s := match (getQ s q).failedAt with
    | some f => if aheadOf (getQ s q) n.toNat < aheadOf (getQ s q) f.toNat then markRecord s q f.toNat prABANDONED else s
    | none => s
  let s := match getJob s (.queue q n.toNat) with
    | some j => dropJob (progressOf s j prFAILED err) j.ref
    | none => writeProgress s q n.toNat prFAILED err 0 0
  let s := withdraw s (fun w => match w with | .head q' _ _ => q' == q | _ => false)
  let x := getQ s q
  let first := match x.failedAt with
    | none => true
    | some f => decide (aheadOf x n.toNat < aheadOf x f.toNat)
  settleQueue (if first then putQ s q { x with headCmd := none, failedAt := some n, err := err, stopErr := 0, st := .draining } else s) q

/-- R618: a part report of a served command: error, RETIRED and COMMITTED; beside them whether it is the final one, and what the command
brings to its queue: its flags and the modules it has written on (log entries 17, 21 and 63). -/
def rptPacket (s : State) (src ctag err retired committed : Nat) (last : Bool) (flags : Nat) (wrote : List Nat) : Pkt :=
  { op := opRPT, src := myId s, dest := src, ctag := ctag, payload := le32 err ++ le32 retired ++ le32 committed ++ le32 0,
    aux := b2n last :: flags :: wrote }

end Sys2Proof.Machine
end

