-- ==== Sys2Proof/Machine/Journal.lean ====
section
/-! DEFINITION. The moraine journal and replay (R559–R570): records written to the ring, and replayed BLOCK and COLL records compared with the reference table. -/

namespace Sys2Proof.Machine

def morOn (s : State) : Bool := rbit s rMOR_CTRL 31
/-- R571: MODE 1 is REPLAY; 2 and 3 act as RECORD. -/
def morReplay (s : State) : Bool := rfld s rMOR_CTRL 2 1 == 1
def morBlocks (s : State) : Bool := rbit s rMOR_CTRL 0
def crcOf (b : List Byte) : Nat := crc32 (b.map BitVec.toNat)

/-- R560: a record of len32 · 32 bytes: header, body, CRC over the record with its own word 0. -/
def journalRecord (s : State) (typ len32 : Nat) (body : List Byte) : List Byte :=
  let pre := le32 (typ * 2 ^ 24 + len32 * 2 ^ 16) ++ le32 (myId s) ++ le64 (rn64 s rMOR_JSEQ_LO) ++ le64 (siteNow s)
  let post := le32 0 ++ fitBytes body (32 * len32 - 32)
  pre ++ le32 (crcOf (pre ++ le32 0 ++ post)) ++ post
/-- A record put at MOR_WR, which moves on, as JSEQ does. DESIGN CHOICE (log entry 12): the write belongs to the control cores. -/
def putJournal (s : State) (typ len32 : Nat) (body : List Byte) : State :=
  let wr := rn64 s rMOR_WR_LO
  let ring := 2 ^ 20 * rn s rMOR_SIZE
  let s := storeNoted s (.core 108) (rn64 s rMOR_BASE_LO + wr) (journalRecord s typ len32 body) 0 none
  rinc64 (rput64 s rMOR_WR_LO (if ring ≤ wr + 32 * len32 then 0 else wr + 32 * len32)) rMOR_JSEQ_LO 1
/-- R559: PAD records up to the end of the ring. -/
def padJournal : Nat → State → State
  | 0, s => s
  | n + 1, s =>
    let left := 2 ^ 20 * rn s rMOR_SIZE - rn64 s rMOR_WR_LO
    if rn64 s rMOR_WR_LO = 0 then s else padJournal n (putJournal s 15 (min 255 (left / 32)) [])
/-- R559: whether the buffer is full as a record comes, and the write release that brings it is held, is timing: the count of those holds rises
by a free value. -/
def noteHold (s : State) : State := rinc (takeFree s).2 rMOR_STALL (Config.freeWord s.free).toNat
/-- R559, R560: a record formed: written to the ring, or discarded where the ring has no room; in REPLAY nothing is written (R568). -/
def journal (s : State) (typ len32 : Nat) (body : List Byte) : State :=
  if !morOn s || morReplay s then s
  else if rn s rMOR_SIZE = 0 then rinc s rMOR_DROP 1
  else
    let left := 2 ^ 20 * rn s rMOR_SIZE - rn64 s rMOR_WR_LO
    let s := if left < 32 * len32 then padJournal 2 s else s
    noteHold (putJournal s typ len32 body)

/-! ### Replay (R568–R570) -/

def replayEntries (s : State) : Nat :=
  let l := nbits (rn s rREPLAY_LOG2) 4 0
  2 ^ (if 10 ≤ l ∧ l ≤ 26 then l else 10)
def replayEntry (s : State) (i : Nat) : Nat := rn64 s rREPLAY_TBL_LO + 32 * i
/-- R569: an entry's key, with bits 16:0 of its second word as 0. -/
def entryKey (b : List Byte) : List Byte := b.take 4 ++ le32 (leAt b 4 4 / 2 ^ 17 * 2 ^ 17) ++ (b.drop 8).take 8
def replayKey (c : CmdName) (typ tile : Nat) : List Byte :=
  le32 c.floe ++ le32 (c.queue % 256 * 2 ^ 24 + typ * 2 ^ 20) ++ le32 c.seq ++ le32 tile
/-- What a lookup in the reference table meets. -/
inductive Lookup where
  | found (addr : Nat)
  | absent
  | bad (word : Nat)
  deriving DecidableEq, Repr
/-- R569: the entry with a key, from its slot upward, to an empty slot or a full circuit; an entry that cannot be read stops it (R201). -/
def lookupFrom (key : List Byte) : Nat → Nat → State → Lookup × State
  | 0, _, s => (.absent, s)
  | n + 1, i, s =>
    let a := replayEntry s (i % replayEntries s)
    let b := rdBytes s a 16
    match badIn s a 32 with
    | some w => (.bad w, s)
    | none =>
      let s := noteRead s (.core 108) a 32
      if leAt b 0 4 = 0xFFFFFFFF then (.absent, s)
      else if entryKey b = key then (.found a, s)
      else lookupFrom key n (i + 1) s
def lookupRef (s : State) (key : List Byte) : Lookup × State := lookupFrom key (replayEntries s) (crcOf key % replayEntries s) s

/-- R570: a divergence: counted, and the first one latched and recorded. -/
def diverge (s : State) (c : CmdName) (kind engine tile : Nat) (info : List Nat) : State :=
  let s := rinc s rREPLAY_DIFF 1
  if rbit s rREPLAY_STAT 31 then s
  else
    let s := rputN s rREPLAY_STAT (2 ^ 31 + kind * 2 ^ 24)
    let s := rputN s rREPLAY_QFLOE c.floe
    let s := rputN s rREPLAY_QINFO (c.queue % 256 * 2 ^ 24 + engine % 256 * 2 ^ 16)
    let s := rputN s rREPLAY_SEQ c.seq
    let s := rputN s rREPLAY_TILE tile
    let s := rput64 s rREPLAY_TIME_LO (siteNow s)
    reportErr s winGlb eREPLAY_DIVERGE (objOf 9 tile) (some c) info
/-- R570: one tile or collective looked up and compared. -/
def replayOne (s : State) (c : CmdName) (typ engine tile code crc : Nat) (info : List Nat) : State :=
  match lookupRef s (replayKey c typ tile) with
  | (.bad w, s) => reportUe s w 0 (some c)
  | (.absent, s) => diverge s c 1 engine tile info
  | (.found a, s) =>
    if rd32 s (a + 0x10) ≠ crc then diverge s c 2 engine tile info
    else if rd32 s (a + 4) % 16 ≠ code then diverge s c 3 engine tile info
    else rinc (store s (.core 108) (a + 4) (le32 (nput (rd32 s (a + 4)) 16 16 1))) rREPLAY_MATCH 1

/-! ### BLOCK and COLL records (R561–R564) -/

/-- R562: the tiles of an output block: number, code (n in bits 1:0, saturated in bit 2) and checksum of each. -/
def journalBlock (s : State) (c : CmdName) (engine ovf stride : Nat) (tiles : List (Nat × Nat × Nat)) : State :=
  if !morOn s then s
  else if !morBlocks s && tiles.all (fun t => t.2.1 == 0) then s
  else if morReplay s then tiles.foldl (fun s t => replayOne s c 1 engine t.1 t.2.1 t.2.2 []) s
  else
    let codes := ((List.range 4).map (fun i => ((tiles[i]?).elim 0 (·.2.1)) * 16 ^ i)).sum
    let crcs := (List.range 4).flatMap (fun i => le32 ((tiles[i]?).elim 0 (·.2.2)))
    journal s 1 3 (le32 c.floe ++ le32 (c.queue % 256 * 2 ^ 24 + engine % 256 * 2 ^ 16 + ovf % 16 * 2 ^ 12 + tiles.length % 16 * 256) ++
      le32 c.seq ++ le32 ((tiles.head?).elim 0 (·.1)) ++ le32 codes ++ le32 stride ++ crcs)
/-- R564: a completed collective, vote or barrier at this member. -/
def journalColl (s : State) (c : CmdName) (fam var axes gid seq crc size : Nat) : State :=
  if !morOn s then s
  else if morReplay s then replayOne s c 2 0xFF 0 0 crc [gid, seq]
  else
    journal s 2 2 (le32 c.floe ++ le32 (c.queue % 256 * 2 ^ 24 + fam * 2 ^ 20 + var * 2 ^ 16 + axes * 2 ^ 12) ++ le32 c.seq ++ le32 (gid % 4096) ++
      le32 seq ++ le32 crc ++ le32 size)

/-- R561, R566: the COMMIT record of a STEP_COMMIT that this module's UPD has executed and that completes; `own` is its queue, whose Q_DONE is about to
rise. In REPLAY the record is not written (R568). -/
def journalCommit (s : State) (j : Job) (own : Option Nat) : State :=
  if dFam j.desc ≠ 8 ∨ jobAway j then s
  else
    let c := jobCmd s j.ref
    let pos (i : Nat) : Nat := if own = some i then ((getQ s i).done + 1).toNat else (getQ s i).done.toNat
    journal s 4 37 (le64 (leAt j.args 0 8) ++ le32 c.floe ++ le32 c.seq ++
      le32 (c.queue % 256 * 2 ^ 24 + rfld s rUPD_VOTE_RES 8 8 * 256 + rfld s rUPD_VOTE_RES 3 0) ++ le32 (leAt j.args 0x10 4) ++
      le64 (rn64 s rUPD_SEED_LO) ++ le32 0 ++ le32 (rfld s rUPD_POLICY 2 0) ++ zeroBytes 24 ++ (List.range queueCount).flatMap (fun i => le32 (pos i)))

/-- R559: MOR_CTRL written: ENABLE from 0 to 1 restarts the ring at offset 0; a write of MODE clears DIVERGED (R571). -/
def effMorEnable (s : State) (v : Word) : State :=
  let was := morOn s
  let s := rput s rMOR_CTRL (v &&& 0x80000007)
  let s := rputBit s rREPLAY_STAT 31 false
  if !was && wbit v 31 then rput64 s rMOR_WR_LO 0 else s
def execMorEnable (v : Word) (s : State) : Host.Outcome State Fault Refusal := ok (effMorEnable s v)

end Sys2Proof.Machine
end

