-- ==== Sys2Proof/Machine/Requests.lean ====
section
/-! DEFINITION. What requests do at both ends: accumulate-writes (R204–R207), copies to and from other modules issued unit by unit (R171, R196, R197), and what a requester does with a reply or its absence (R329–R331). -/

namespace Sys2Proof.Machine

/-! ### Accumulate-writes at their destination -/

/-- R224, R226: bytes added by accumulate-writes, granule by granule in HBM. -/
def accStat : Nat → State → Nat → Nat → State
  | 0, s, _, _ => s
  | n + 1, s, a, len =>
    if len = 0 then s
    else
      let k := min len (4096 - a % 4096)
      let s := if inHbm s.order a then rinc64 s (wreg (winMem (hbmCtl s.order a)) oMEM_ACC_LO) k
        else if inCstore a then rinc64 s (wreg (winClu ((a - cstoreBase) / cstoreSize)) oST_ACC_LO) k
        else rinc64 s (wreg (winEng ((a - estoreBase) / estoreSize)) oST_ACC_LO) k
      accStat n s (a + k) (len - k)
/-- R204: an addition in place whose result is a content; the word that stops it where the data there is uncorrectable (R202). -/
def accumulateAs (s : State) (m : MemSource) (a : Nat) (c : Content) : State × Option Nat :=
  match badIn s a c.size with
  | some w => (s, some w)
  | none =>
    match storeContent (noteRead s m a c.size) m a c with
    | (s, some w) => (s, some w)
    | (s, none) => (accStat (c.size / 4096 + 2) s a c.size, none)
/-- R204: F32 values added in place. -/
def accumulate (s : State) (m : MemSource) (a : Nat) (bs : List Byte) : State × Option Nat := accumulateAs s m a (.bytes (accWords f32Add s a bs))

/-! ### Copies to and from other modules, unit by unit (R171, R182, R196, R205) -/

/-- Bytes of unit u of a copy. -/
def unitBytes (len u : Nat) : Nat := min 4096 (len - 4096 * u)
/-- The window that counts a DMA part's bytes. -/
def dmaWin (fl : Nat) : Nat := let f := floeOf fl; if f.level = 0 then winEng (floeEngine f) else winClu (floeCluster f)

/-- R196, R372: the source of a DMA part's accesses: its engine floe's DMA queue, or one of its cluster's four. DESIGN CHOICE (log entry 12): the first,
where the spec does not say which of them takes a part. -/
def dmaSource (fl : Nat) : MemSource := let f := floeOf fl; if f.level = 0 then .engDma (floeEngine f) else .cluDma (4 * floeCluster f)

/-- One unit's request sent. DESIGN CHOICE (log entry 31): where the other module is this one, ranges that overlap are copied in the order of the
requests. -/
def unitRequest (s : State) (ref : JobRef) (p u : Nat) (j : Job) (x : Part) : State :=
  let a := j.args
  let n := unitBytes (cpLen a) u
  let src := cpSrc a + 4096 * u
  let dst := cpDst a + 4096 * u
  let s := rinc64 s (wreg (dmaWin x.floe) oDMA_BYTES_LO) n
  if dFam j.desc = 3 ∧ dVar j.desc = 2 then
    request s { op := opRD, dest := cpModule a, addr := w64 src, arg := w32 n, ctag := j.tag } (.read ref p u dst n)
  else
    let op := if dFam j.desc = 4 then opACC else opWR
    let d := rdBytes s src n
    request (noteRead s (dmaSource x.floe) src n) { op := op, dest := cpModule a, addr := w64 dst, ctag := j.tag, payload := d } (.write ref p u n)
/-- Units issued from the part's cursor while a reply slot is free; a source that cannot be corrected fails the part (R202). -/
def issueUnits : Nat → State → JobRef → Nat → State
  | 0, s, _, _ => s
  | n + 1, s, ref, p =>
    match partLive s ref p with
    | none => s
    | some (j, x) =>
      let u := x.lo + x.cursor
      if x.hi ≤ u ∨ !canRequest s then s
      else
        let reads := !(dFam j.desc == 3 && dVar j.desc == 2)
        match (if reads then badIn s (cpSrc j.args + 4096 * u) (unitBytes (cpLen j.args) u) else none) with
        | some w => markFaulted (reportUe s w x.floe (some (jobCmd s ref))) ref p (ueErr s w)
        | none =>
          let s := putJob s (setPart j p { x with cursor := x.cursor + 1, unacked := x.unacked + 1, st := .busy })
          issueUnits n (unitRequest s ref p u j x) ref p
/-- A unit's request answered OK: the unit is complete; the rest goes on, and the part's work ends with its last unit. -/
def unitDone (s : State) (ref : JobRef) (p u : Nat) : State :=
  match partLive s ref p with
  | none => s
  | some (j, x) =>
    let s := unitRetired (putJob s (setPart j p { x with unacked := x.unacked - 1 })) ref u
    let s := issueUnits (x.hi - x.lo) s ref p
    match partLive s ref p with
    | none => s
    | some (_, y) => if y.unacked = 0 ∧ y.hi ≤ y.lo + y.cursor then markWorked s ref p else s

/-! ### TICKET's second half (R280) -/

def tkModule (a : List Byte) : Nat := nbits (leAt a 0 4) 17 0
def tkIndex (a : List Byte) : Nat := leAt a 4 2
def tnModule (a : List Byte) : Nat := nbits (leAt a 8 4) 17 0
def tnIndex (a : List Byte) : Nat := leAt a 0xC 2
def tnTimeout (a : List Byte) : Nat := leAt a 0x10 4
def tkResult (a : List Byte) : Nat := leAt a 0x18 8
/-- An 8-byte result written by the control core of the command's queue, where an address is named; an uncorrectable word stops it. -/
def writeResult (s : State) (addr : Nat) (v : DWord) : State × Option Nat :=
  if addr = 0 then (s, none) else storeBytes s (.core 108) addr (le64 v.toNat)
/-- R280: the ticket k is known: it is written, and the turn is waited for. -/
def ticketTaken (s : State) (ref : JobRef) (p : Nat) (k : DWord) : State :=
  match partLive s ref p with
  | none => s
  | some (j, x) =>
    match writeResult s (tkResult j.args) k with
    | (s, some w) => markFaulted (reportUe s w x.floe (some (jobCmd s ref))) ref p (ueErr s w)
    | (s, none) =>
      match beginWait s (tnModule j.args) (tnIndex j.args) k (tnTimeout j.args) 0 (.ticket ref p) with
      | (.met, s) => markWorked s ref p
      | (.failed e, s) => markFaulted s ref p e
      | (_, s) => setPartSt s ref p .busy

/-! ### Replies -/

/-- An answer OK: what the maker of the request does. -/
def requestOk (s : State) (k : Slot) (payload : List Byte) : State :=
  match k.why with
  | .write j p u _ => unitDone s j p u
  | .read j p u dst _ =>
    (match partLive s j p with
     | none => s
     | some (_, x) =>
       match storeBytes s (dmaSource x.floe) dst payload with
       | (s, some w) => markFaulted (reportUe s w x.floe (some (jobCmd s j))) j p (ueErr s w)
       | (s, none) => unitDone s j p u)
  | .fetch j p result =>
    (match partLive s j p with
     | none => s
     | some (_, x) =>
       match writeResult s result (w64 (leAt payload 0 8)) with
       | (s, some w) => markFaulted (reportUe s w x.floe (some (jobCmd s j))) j p (ueErr s w)
       | (s, none) => markWorked s j p)
  | .ticket j p => ticketTaken s j p (w64 (leAt payload 0 8))
  | .sigEntry j p =>
    (match partLive s j p with
     | none => s
     | some (x, y) =>
       let s := putJob s (setPart x p { y with unacked := y.unacked - 1 })
       if y.unacked = 1 then markWorked s j p else s)
  | .stream j p tile =>
    (match partLive s j p with
     | none => s
     | some (x, y) =>
       -- R142: a tile retires when every streamed write of it has been acknowledged
       let left := (y.pend.find? (fun q => q.1 == tile)).elim 0 (·.2)
       let pend := y.pend.filterMap (fun q => if q.1 = tile then (if q.2 ≤ 1 then none else some (tile, q.2 - 1)) else some q)
       let s := putJob s (setPart x p { y with unacked := y.unacked - 1, pend := pend })
       let s := if left = 1 then runProgress (addUnit s j tile) j else s
       if y.unacked = 1 ∧ y.cursor = 1 then markWorked s j p else s)
  | .sigOf _ _ _ => s
  | .cmd _ _ => s
  | .report => s
  | .other => s

/-- R330: the error a failing status stands for. -/
def statusErr (st : Nat) : Nat :=
  if st = stADDR_RANGE then eADDR_RANGE else if st = stPOISONED then eLINK_POISON else if st = stPORT_DOWN then eUNREACHABLE
  else if st = stUNREACHABLE then eUNREACHABLE else if st = stRESET then eTARGET_RESET else if st = stFIRN_ACCUM then eFIRN_ACCUM
  else if st = stMEM_UE then eMEM_UE else if st = stCTR_FREE then eCTR_FREE else if st = stOWNER_LOST then eOWNER_LOST else eUNREACHABLE
/-- R330: a request issued again, on a new slot, in the present epoch, without ORDERED; while REQ is quiesced it waits (R334). Its own slot serves where
no other is free. -/
def reissue (s : State) (k : Slot) : State :=
  let d : Due := { pk := { k.pk with ordered := false }, why := k.why, again := some k.id }
  let t := (freeSlot s).getD k.rtag
  let s := dropSlot s k.rtag
  if quiesced s clsREQ then { s with due := d :: s.due }
  else sendOn s ⟨t, dressed s { d.pk with rtag := t }, k.why, s.clock, true, k.id⟩
def expireSlot (s : State) (k : Slot) : State := pump (failSlot s k)
/-- R328–R330: a reply consumed. A reply that names no slot in use is late (R329). -/
def onReply (s : State) (pk : Pkt) : State :=
  match getSlot s pk.rtag with
  | none => rinc s rTFR_LATE 1
  | some k =>
    if pk.ctag ≠ k.pk.ctag ∨ pk.src ≠ k.pk.dest ∧ pk.status ≠ stPORT_DOWN ∧ pk.status ≠ stUNREACHABLE then rinc s rTFR_LATE 1
    else if slotExpired s k then rinc (expireSlot s k) rTFR_LATE 1
    else if pk.status = stOK then pump (requestOk (dropSlot s pk.rtag) k pk.payload)
    else if (pk.status = stPOISONED ∨ pk.status = stPORT_DOWN) ∧ !k.again then reissue s k
    else pump (requestFailed (dropSlot s pk.rtag) k (statusErr pk.status))

/-! ### Parking and resets seen by requests (R322, R338, R474) -/

/-- R474: a parked module starts to unpark. -/
def wake (s : State) : State :=
  if blkCode s winTpw = 1 ∨ blkCode s winTpw = 2 then rputBit (setCode s winTpw 3) rPW_CTRL 0 false else s
def unparked (s : State) : Bool := blkCode s winTpw == 0
/-- R541: whether the memory of an address lies in units held in reset. -/
def addrHeld (s : State) (a : Nat) : Bool :=
  s.resets.any (fun r => r.dom == 0 || r.dom == 4 || r.dom == 6 ||
    (r.dom == 5 &&
      (let f := floeOf r.floe
       if inEstore a then (enginesUnder f).contains ((a - estoreBase) / estoreSize)
       else if inCstore a then decide (1 ≤ f.level) && (clustersUnder f).contains ((a - cstoreBase) / cstoreSize)
       else false)))

end Sys2Proof.Machine
end

