-- ==== Sys2Proof/Machine/Collective.lean ====
section
/-! DEFINITION. COL (R343–R370): groups' geometry, shards and reduction order, streams and grants, rendezvous, failure, the step vote and barriers. -/

namespace Sys2Proof.Machine

/-! ### Vote flags (R243, R258, R259) -/

def vfNONFINITE : Nat := 1
def vfCLAMP_EXCESS : Nat := 2
def vfOVERFLOW_SAT : Nat := 4
def vfABORT_REQ : Nat := 8
def setVote (s : State) (fl : Nat) : State := rputN s rUPD_VOTE_PEND (rn s rUPD_VOTE_PEND ||| fl)
def setVoteIf (s : State) (b : Bool) (fl : Nat) : State := if b then setVote s fl else s
/-- R243: whether the outcome is SKIP: ABORT_REQ, or a flag whose action is SKIP. -/
def voteSkip (flags policy : Nat) : Bool :=
  nbit flags 3 || (List.range 3).any (fun i => nbit flags i && !nbit policy i)
/-- R263: UPD_VOTE_RES with its OUTCOME formed. -/
def voteRes (s : State) (valid : Bool) (flags : Nat) : Nat :=
  b2n valid * 2 ^ 31 + b2n (voteSkip (flags % 16) (rfld s rUPD_POLICY 2 0)) * 256 + flags % 16

/-! ### Geometry (R344, R352) -/

/-- A step of a collective: the index of its axis in AXORDER, the axis, the box's size, this member's position, ring mode. -/
structure CStep where
  k : Nat
  axis : Nat
  n : Nat
  j : Nat
  ring : Bool
  deriving DecidableEq, Repr
def posList (s : State) (i id : Nat) : List Nat := (List.range 4).map (fun a => gPos s i a id)
def ringMode (s : State) (i a : Nat) : Bool := boxSize s i a == ringSize s a && decide (2 ≤ boxSize s i a)
/-- The steps along the axes of a mask whose box is wider than one member, in AXORDER. -/
def colSteps (s : State) (i axes : Nat) : List CStep :=
  (List.range 4).filterMap (fun k =>
    let a := axisAt (gAxorder s i) k
    if nbit axes a ∧ 2 ≤ boxSize s i a then some ⟨k, a, boxSize s i a, gPos s i a (myId s), ringMode s i a⟩ else none)
/-- The member at position p on axis a, this member's positions elsewhere. -/
def memberAt (s : State) (i a p : Nat) : Nat := gModule s i ((posList s i (myId s)).set a p)
/-- The port toward the + or − neighbour on an axis. -/
def axisPort (a half : Nat) : Nat := 2 * a + half
/-- R352: chunk k of a range divided in n. -/
def chunkOf (r : Nat × Nat) (n k : Nat) : Nat × Nat := (r.1 + k * (r.2 - r.1) / n, r.1 + (k + 1) * (r.2 - r.1) / n)
/-- The steps, each with the range it divides. -/
def withRanges : Nat × Nat → List CStep → List (CStep × Nat × Nat)
  | _, [] => []
  | r, st :: l => (st, r) :: withRanges (chunkOf r st.n st.j) l
/-- R352: the shard. -/
def shardOf : Nat × Nat → List CStep → Nat × Nat
  | r, [] => r
  | r, st :: l => shardOf (chunkOf r st.n st.j) l
/-- R353: the half of a chunk that a stream carries: in ring mode the first ⌈L/2⌉ elements or the rest; in line mode all. -/
def halfOf (ring : Bool) (c : Nat × Nat) (half : Nat) : Nat × Nat :=
  let mid := c.1 + (c.2 - c.1 + 1) / 2
  if !ring then c else if half = 0 then (c.1, mid) else (mid, c.2)
/-- The half that carries an element of a chunk in ring mode. -/
def halfAt (c : Nat × Nat) (e : Nat) : Nat := if e < c.1 + (c.2 - c.1 + 1) / 2 then 0 else 1
/-- The chunk of a range that holds an element. -/
def chunkAt (r : Nat × Nat) (n e : Nat) : Nat :=
  ((List.range n).find? (fun k => decide ((chunkOf r n k).1 ≤ e ∧ e < (chunkOf r n k).2))).getD 0
def after (st : CStep) (half : Nat) : Nat := if half = 0 then (st.j + 1) % st.n else (st.j + st.n - 1) % st.n

/-- Incoming and outgoing streams. -/
structure Streams where
  ins : List ColStream := []
  outs : List ColStream := []
  deriving DecidableEq, Repr
def Streams.add (x y : Streams) : Streams := ⟨x.ins ++ y.ins, x.outs ++ y.outs⟩
/-- The streams of one chunk and half of a step, as the conditions for receiving and sending it say. -/
def stepStreams (s : State) (i phase : Nat) (st : CStep) (r : Nat × Nat) (inp out : Nat → Nat → Bool) : Streams :=
  let each := (List.range 2).flatMap (fun half => (List.range st.n).map (fun k => (half, k)))
  let mk (half k peer : Nat) : ColStream :=
    let e := halfOf st.ring (chunkOf r st.n k) half
    ⟨st.k, phase, half, k, peer, e.1, e.2, 0, 0, []⟩
  ⟨((each.filter (fun q => inp q.1 q.2)).map (fun q => mk q.1 q.2 (memberAt s i st.axis (after st (1 - q.1))))).filter (fun x => decide (x.lo < x.hi)),
   ((each.filter (fun q => out q.1 q.2)).map (fun q => mk q.1 q.2 (memberAt s i st.axis (after st q.1)))).filter (fun x => decide (x.lo < x.hi))⟩
/-- R353: the chains of a step. -/
def reduceStreams (s : State) (i : Nat) (st : CStep) (r : Nat × Nat) : Streams :=
  let j := st.j
  stepStreams s i 0 st r
    (fun half k => if st.ring then j != (if half = 0 then (k + 1) % st.n else (k + st.n - 1) % st.n)
      else if half = 0 then decide (0 < j ∧ j ≤ k) else decide (j + 1 < st.n ∧ k ≤ j))
    (fun half k => if st.ring then k != j else if half = 0 then decide (j < k) else decide (k < j))
/-- R354: the copies of a step. -/
def copyStreams (s : State) (i : Nat) (st : CStep) (r : Nat × Nat) : Streams :=
  let j := st.j
  stepStreams s i 1 st r
    (fun half k => if st.ring then k != j else if half = 0 then decide (k < j) else decide (j < k))
    (fun half k => if st.ring then after st half != k else if half = 0 then decide (j + 1 < st.n ∧ k ≤ j) else decide (0 < j ∧ j ≤ k))
/-- The arms of an axis from a position: hops on the + side and on the − side (R354, R366). -/
def armPlus (st : CStep) (p : Nat) : Nat := if st.ring then st.n / 2 else st.n - 1 - p
def armMinus (st : CStep) (p : Nat) : Nat := if st.ring then st.n - 1 - st.n / 2 else p
/-- This member's place on an arm: its side (0 +, 1 −) and its distance; distance 0 at the position itself. -/
def armAt (st : CStep) (p : Nat) : Nat × Nat :=
  if st.j = p then (0, 0)
  else if st.ring then
    (let d := (st.j + st.n - p) % st.n
     if d ≤ st.n / 2 then (0, d) else (1, st.n - d))
  else if p < st.j then (0, st.j - p) else (1, p - st.j)
def armLen (st : CStep) (p half : Nat) : Nat := if half = 0 then armPlus st p else armMinus st p
/-- The last step on which this member lies off a position. -/
def lastOff (steps : List (CStep × Nat)) : Option (CStep × Nat) := steps.reverse.find? (fun q => q.1.j != q.2)
/-- The first such step. -/
def firstOff (steps : List (CStep × Nat)) : Option (CStep × Nat) := steps.find? (fun q => q.1.j != q.2)
/-- R354: the streams of a broadcast of `size` bytes: from the neighbour toward the broadcaster on the last axis on which this member is off its position;
onward along that axis, and along both arms of the later ones. -/
def castStreams (s : State) (i size : Nat) (steps : List (CStep × Nat)) : Streams :=
  let mk (st : CStep) (half peer : Nat) : ColStream := ⟨st.k, 1, half, 0, peer, 0, size, 0, 0, []⟩
  let both (q : CStep × Nat) : List ColStream :=
    (List.range 2).filterMap (fun half => if 0 < armLen q.1 q.2 half then some (mk q.1 half (memberAt s i q.1.axis (after q.1 half))) else none)
  if size = 0 then {}
  else
    match lastOff steps with
    | none => ⟨[], steps.flatMap both⟩
    | some (st, p) =>
      let at' := armAt st p
      let on := if at'.2 < armLen st p at'.1 then [mk st at'.1 (memberAt s i st.axis (after st at'.1))] else []
      ⟨[mk st at'.1 (memberAt s i st.axis (after st (1 - at'.1)))], on ++ (steps.filter (fun q => decide (st.k < q.1.k))).flatMap both⟩
/-- R354: the way of a block round a ring from position i to t. -/
def a2aHalf (st : CStep) (i t : Nat) : Nat :=
  if st.ring then (let d := (t + st.n - i) % st.n; if d ≤ st.n - d then 0 else 1) else if i < t then 0 else 1
def a2aStreams (s : State) (i b : Nat) (st : CStep) : Streams :=
  let others := if b = 0 then [] else (List.range st.n).filter (· != st.j)
  ⟨others.map (fun t => ⟨st.k, 1, a2aHalf st t st.j, t, memberAt s i st.axis t, b * t, b * t + b, 0, 0, []⟩),
   others.map (fun t => ⟨st.k, 1, a2aHalf st st.j t, st.j, memberAt s i st.axis t, b * t, b * t + b, 0, 0, []⟩)⟩

/-- All the streams of a COLLECTIVE at this member. -/
def opStreams (s : State) (i var : Nat) (a : List Byte) : Streams :=
  let steps := colSteps s i (cAxes a)
  let rs := withRanges (0, cSize a) steps
  let red := rs.foldl (fun x q => x.add (reduceStreams s i q.1 q.2)) {}
  let cop := rs.reverse.foldl (fun x q => x.add (copyStreams s i q.1 q.2)) {}
  if var = 0 then red.add cop
  else if var = 1 then red
  else if var = 2 then cop
  else if var = 3 then (match steps with | st :: _ => a2aStreams s i (cSize a) st | [] => {})
  else castStreams s i (cSize a) (steps.map (fun st => (st, gPos s i st.axis (cCaster s i a))))

/-! ### Values (R350, R353) -/

/-- R350: one operation of a reduction: the incoming partial, then the local element. -/
def colApply (op et x y : Nat) : Nat :=
  if et = 2 then
    (if op = 0 then (x + y) % 2 ^ 32 else if op = 1 then max x y else if op = 2 then min x y else if op = 3 then x ||| y else x &&& y)
  else if et = 1 then
    (if op = 0 then (fmtEnc fB16 .rne (fvAdd .rne (fmtDec fB16 x) (fmtDec fB16 y)).1).1 else (opMinMax fB16 .rne (op == 1) false (fmtDec fB16 x) (fmtDec fB16 y)).1)
  else if op = 0 then (f32Add (w32 x) (w32 y)).toNat
  else (opMinMax 0 .rne (op == 1) false (f32v (w32 x)) (f32v (w32 y))).1

def findIn (ins : List ColStream) (k phase half chunk : Nat) : Option ColStream :=
  ins.find? (fun x => x.step == k && x.phase == phase && x.half == half && x.chunk == chunk)
/-- Element e of a stream, where it has arrived. -/
def inVal (esz : Nat) (x : Option ColStream) (e : Nat) : Option Nat :=
  match x with
  | some x => if x.lo ≤ e ∧ (e - x.lo + 1) * esz ≤ x.data.length then some (leAt x.data ((e - x.lo) * esz) esz) else none
  | none => none
def comb (op et : Nat) (x y : Option Nat) : Option Nat :=
  match x, y with
  | some x, some y => some (colApply op et x y)
  | _, _ => none
/-- What the value of an element is computed from. -/
structure ColEnv where
  op : Nat
  et : Nat
  esz : Nat
  ins : List ColStream
  src : List Byte
  shardLo : Nat
  deriving DecidableEq, Repr
def ColEnv.srcAt (v : ColEnv) (e : Nat) : Option Nat := some (leAt v.src (e * v.esz) v.esz)
/-- R353: this member's value of an element after the steps of a list (last step first), each with the range it divided. -/
def xAt (v : ColEnv) : List (CStep × Nat × Nat) → Nat → Option Nat
  | [], e => v.srcAt e
  | (st, r) :: l, e =>
    let own := xAt v l e
    if st.ring then comb v.op v.et (inVal v.esz (findIn v.ins st.k 0 (halfAt (chunkOf r st.n st.j) e) st.j) e) own
    else
      let up := if st.j = 0 then own else comb v.op v.et (inVal v.esz (findIn v.ins st.k 0 0 st.j) e) own
      if st.j + 1 = st.n then up else comb v.op v.et up (inVal v.esz (findIn v.ins st.k 0 1 st.j) e)
/-- The partial that goes on in a chain: `l` holds the steps before this one, last first. -/
def partialAt (v : ColEnv) (st : CStep) (l : List (CStep × Nat × Nat)) (x : ColStream) (e : Nat) : Option Nat :=
  let own := xAt v l e
  let first := if st.ring then st.j == (if x.half = 0 then (x.chunk + 1) % st.n else (x.chunk + st.n - 1) % st.n)
    else if x.half = 0 then st.j == 0 else st.j + 1 == st.n
  if first then own else comb v.op v.et (inVal v.esz (findIn v.ins st.k 0 x.half x.chunk) e) own
/-- R354: an element of the gathered vector, from the steps first to last: `fin` gives this member's own shard. -/
def yAt (v : ColEnv) (fin : Nat → Option Nat) : List (CStep × Nat × Nat) → Nat → Option Nat
  | [], e => fin e
  | (st, r) :: l, e =>
    let k := chunkAt r st.n e
    if k = st.j then yAt v fin l e
    else inVal v.esz (findIn v.ins st.k 1 (if st.ring then halfAt (chunkOf r st.n k) e else if k < st.j then 0 else 1) k) e

/-- An operation's geometry and values at this member. -/
def opEnv (a : List Byte) (o : ColOp) (shardLo : Nat) : ColEnv := ⟨cOp a, cEtype a, cEsz o.var a, o.ins, o.src, shardLo⟩
def opRanges (s : State) (a : List Byte) (o : ColOp) : List (CStep × Nat × Nat) := withRanges (0, cSize a) (colSteps s o.entry (cAxes a))
/-- R348: element (or byte) e of what the operation gives this member. -/
def resultAt (s : State) (a : List Byte) (o : ColOp) (e : Nat) : Option Nat :=
  let rs := opRanges s a o
  let v := opEnv a o (shardOf (0, cSize a) (colSteps s o.entry (cAxes a))).1
  if o.var = 0 then yAt v (xAt v rs.reverse) rs e
  else if o.var = 1 then xAt v rs.reverse e
  else if o.var = 2 then yAt v (fun e => v.srcAt (e - v.shardLo)) rs e
  else
    match o.ins.find? (fun x => decide (x.lo ≤ e ∧ e < x.hi)) with
    | some x => inVal 1 (some x) e
    | none => v.srcAt e
/-- Element e of an outgoing stream. -/
def sendAt (s : State) (a : List Byte) (o : ColOp) (x : ColStream) (e : Nat) : Option Nat :=
  let v := opEnv a o 0
  if x.phase = 0 then
    let rs := opRanges s a o
    match rs.find? (fun q => q.1.k == x.step) with
    | some q => partialAt v q.1 (rs.filter (fun z => decide (z.1.k < x.step))).reverse x e
    | none => none
  else if o.var = 3 then v.srcAt e
  else resultAt s a o e
/-- The elements an operation writes at this member, and the address of the first. -/
def resultRange (s : State) (a : List Byte) (o : ColOp) : (Nat × Nat) × Nat :=
  let st := colSteps s o.entry (cAxes a)
  let sh := shardOf (0, cSize a) st
  if o.var = 1 then (sh, if cShardAt a then cDst a + sh.1 * cEsz 1 a else cDst a)
  else if o.var = 3 then ((0, cSize a * ((st.head?).elim 1 (·.n))), cDst a)
  else ((0, cSize a), cDst a)
/-- Whether this member broadcasts in its own set. -/
def casts (s : State) (i : Nat) (a : List Byte) : Bool :=
  (colSteps s i (cAxes a)).all (fun st => st.j == gPos s i st.axis (cCaster s i a))
/-- The bytes of SRC that an operation reads here. -/
def srcRange (s : State) (i var : Nat) (a : List Byte) : Nat × Nat :=
  let st := colSteps s i (cAxes a)
  let sh := shardOf (0, cSize a) st
  let z := cEsz var a
  if var = 2 then (if cShardAt a then cSrc a + sh.1 * z else cSrc a, (sh.2 - sh.1) * z)
  else if var = 3 then (cSrc a, cSize a * ((st.head?).elim 1 (·.n)))
  else if var = 4 then (cSrc a, if casts s i a then cSize a else 0)
  else (cSrc a, cSize a * z)

/-! ### Packets (R359) -/

/-- R344: the port by which a packet for a member leaves where the way begins on an axis in line mode, which uses no link outside the box; the axis is
the first of the tables' order on which that member lies elsewhere. -/
def boxVia (s : State) (i m : Nat) : Option Nat :=
  let axes := (List.range 4).map (axisAt (orderOf s (b2n (injEpoch s))))
  (axes.find? (fun a => axisOf m a != axisOf (myId s) a)).bind (fun a =>
    if ringMode s i a then none else some (axisPort a (if gPos s i a (myId s) < gPos s i a m then 0 else 1)))

def ckDATA : Nat := 0
def ckGRANT : Nat := 1
def ckJOIN : Nat := 2
def ckABORT : Nat := 3
def ckUP : Nat := 4
def ckDOWN : Nat := 5
def colAddr (kind gid seq step phase half chunk : Nat) : DWord :=
  w64 (kind * 2 ^ 60 + step % 4 * 2 ^ 56 + gid % 4096 * 2 ^ 44 + seq % 2 ^ 32 * 2 ^ 12 + phase % 2 * 64 + half % 2 * 32 + chunk % 32)
def colPkt (dest kind gid seq step phase half chunk arg : Nat) (payload : List Byte := []) (via : Option Nat := none) : Pkt :=
  { op := opCOL, cls := clsCOL, dest := dest, addr := colAddr kind gid seq step phase half chunk, arg := w32 arg, payload := payload, via := via }
def pkKind (pk : Pkt) : Nat := nbits pk.addr.toNat 63 60
def pkStep (pk : Pkt) : Nat := nbits pk.addr.toNat 57 56
def pkGid (pk : Pkt) : Nat := nbits pk.addr.toNat 55 44
def pkSeq (pk : Pkt) : Nat := nbits pk.addr.toNat 43 12
def pkIs (pk : Pkt) (x : ColStream) : Bool :=
  let n := pk.addr.toNat
  x.peer == pk.src && x.step == pkStep pk && x.phase == nbits n 6 6 && x.half == nbits n 5 5 && x.chunk == nbits n 4 0
/-- R359: the signature. -/
def colSig (s : State) (i fam var : Nat) (a : List Byte) : Nat :=
  let vote := fam == 7
  let b (n : Nat) : List Byte := leBytes n 1
  crcOf (b fam ++ b var ++ b (if !vote && decide (var ≤ 1) then cOp a else 0) ++ b (if !vote && decide (var ≤ 2) then cEtype a else 0) ++
    b (if vote then 0 else cAxes a) ++ b (gAxorder s i) ++ leBytes (gGid s i) 2 ++ le64 (if vote then 0 else cSize a) ++
    le64 (if vote then vStep a else 0) ++ le32 (gOrigin s i) ++ le32 (gExtent s i) ++ le32 (gRoot s i) ++
    le32 (if !vote && var == 4 then cCaster s i a else 0))

/-! ### Operations in the state -/

def getOp (s : State) (gid seq : Nat) : Option ColOp := s.colOps.find? (fun o => o.gid == gid && o.seq == seq)
def putOp (s : State) (o : ColOp) : State := { s with colOps := s.colOps.map (fun x => if x.gid = o.gid ∧ x.seq = o.seq then o else x) }
def dropOp (s : State) (o : ColOp) : State := { s with colOps := s.colOps.filter (fun x => !(x.gid == o.gid && x.seq == o.seq)) }
def opArgs (s : State) (o : ColOp) : List Byte := (getJob s o.job).elim [] (·.args)
def cxReg (c o : Nat) : Nat := wreg winCol (o % 65536 + 16 * c)
/-- R370, R581: context registers, contexts in use and the state code. -/
def refreshCtx (s : State) (c : Nat) : State :=
  match s.colOps.find? (fun o => o.ctx == some c) with
  | some o =>
    rputN (rputN s (cxReg c rCX_STATE) ((if o.joins = [] then 2 else 1) * 2 ^ 28 + o.fam * 2 ^ 24 + o.var * 2 ^ 20 + o.gid)) (cxReg c rCX_SEQ) o.seq
  | none => rputN (rputN s (cxReg c rCX_STATE) 0) (cxReg c rCX_SEQ) 0
def ctxsUsed (s : State) : Nat := (s.colOps.filter (fun o => o.ctx.isSome)).length
def refreshCol (s : State) : State :=
  let s := rputN ((List.range 16).foldl refreshCtx s) rCOL_STATUS (ctxsUsed s)
  setCode s winCol (if !rbit s rCOL_CTRL 0 then 0 else if ctxsUsed s = 0 then 1 else 2)
def freeCtx (s : State) : Option Nat := (List.range 16).find? (fun c => s.colOps.all (fun o => o.ctx != some c))
/-- Members that an operation exchanges data, votes or JOINs with. -/
def partners (s : State) (o : ColOp) : List Nat :=
  let a := opArgs s o
  let l := o.ins.map (·.peer) ++ o.outs.map (·.peer) ++ o.kids.map (·.1) ++ (o.parent.elim [] (fun p => [p.1])) ++
    (if o.fam = 5 ∧ o.var ≠ 5 ∧ cSize a = 0 then (gMembers s o.entry).filter (· != myId s) else [])
  l.foldl (fun r m => if r.contains m then r else r ++ [m]) []

/-! ### Failure (R361–R364) -/

/-- Bytes of DST that a failed COLLECTIVE leaves undefined. -/
def failedDst (s : State) (a : List Byte) (o : ColOp) : Nat × Nat :=
  if o.fam = 7 ∨ o.var = 5 then (0, 0)
  else
    let r := resultRange s a o
    (r.2, (r.1.2 - r.1.1) * cEsz o.var a)
/-- R363: a failed ACCUM leaves each element as it was or added to: which, and what was added where the sum is not known here, is free. -/
def eitherAdded (s0 : State) (a : List Byte) (o : ColOp) (dst lo n : Nat) : State :=
  let f := takeFree s0
  let g := takeFree f.2
  let s := g.2
  let byte (i : Nat) : Nat := (Config.freeByte f.1 i).toNat
  let added (i : Nat) : Word := w32 ((resultAt s0 a o (lo + i)).getD (leAt ((List.range 4).map (fun k => Config.freeByte g.1 (4 * i + k))) 0 4))
  putBytes s dst ((List.range n).flatMap (fun i =>
    let x := rd32 s (dst + 4 * i)
    le32 (if byte i % 2 = 0 then x else (f32Add (w32 x) (added i)).toNat)))
/-- R362, R363: what a failed operation leaves at DST. -/
def spoilDst (s : State) (a : List Byte) (o : ColOp) : State :=
  let d := failedDst s a o
  if d.2 ≠ 0 ∧ cAccum a then eitherAdded s a o d.1 (resultRange s a o).1.1 (d.2 / 4) else (storeUndef s (.col (o.ctx.getD 0)) d.1 d.2).1
/-- An ABORT for an operation of group entry i, to a member. -/
def sendAbort (s : State) (i m gid seq arg : Nat) : State := injectRaw s (colPkt m ckABORT gid seq 0 0 0 0 arg [] (boxVia s i m))
/-- R361, R362, R367: an operation ends here without completing: a vote's flags are pending again, its partners hear of it, and DST is spoilt. -/
def colEnd (s : State) (o : ColOp) (first : Nat) : State :=
  let s := if o.fam = 7 then setVote s o.took else s
  let s := (partners s o).foldl (fun s m => sendAbort s o.entry m o.gid o.seq (first % 2 ^ 18)) s
  refreshCol (dropOp (spoilDst s (opArgs s o) o) o)
/-- An operation fails here with an error, naming `first` in its ABORTs; a COL code is reported with its words. -/
def colFail (s : State) (o : ColOp) (err info2 first : Nat) : State :=
  let c := jobCmd s o.job
  let s := if err = eCOL_ABORT then rinc s rCOL_ABORTS 1 else if err = eCOL_TIMEOUT then rinc s rCOL_TIMEOUTS 1
    else if err = eCOL_MISMATCH then rinc s rCOL_MISMATCH 1 else s
  let s := if err = eCOL_ABORT ∨ err = eCOL_TIMEOUT ∨ err = eCOL_MISMATCH then
      reportErr s winCol err (objOf 5 (o.gid * 2 ^ 32 + o.seq)) (some c) [o.fam * 2 ^ 28 + o.var * 2 ^ 24 + o.gid, o.seq, info2 % 2 ^ 18, c.seq]
    else s
  markFaulted (colEnd s o first) o.job o.part err
/-- R364: the lowest module id from which a JOIN, GRANT or DATA is awaited. A vote or barrier that awaits none of them names the lowest tree
neighbour that it waits for. -/
def awaited (s : State) (o : ColOp) : Nat :=
  let z := cEsz o.var (opArgs s o)
  let l := o.joins ++ (o.ins.filter (fun x => decide (x.data.length < (x.hi - x.lo) * z))).map (·.peer) ++
    (o.outs.filter (fun x => decide (x.granted < (x.hi - x.lo) * z))).map (·.peer)
  minOf (if l = [] then o.ups ++ (o.parent.elim [] (fun p => [p.1])) else l)
/-! ### Completion -/

/-- An operation complete at this member: counted, journaled (R564), its context free. -/
def colDone (s : State) (o : ColOp) (crc size : Nat) : State :=
  let a := opArgs s o
  let s := rinc64 (dropOp s o) rCOL_DONE_LO 1
  let s := journalColl s (jobCmd s o.job) o.fam o.var (if o.fam = 7 then 0 else cAxes a) o.gid o.seq crc size
  refreshCol (markWorked (addUnit s o.job 0) o.job o.part)
/-- The result's codes, where all are known. -/
def resultCodes (s : State) (a : List Byte) (o : ColOp) : List Nat :=
  let r := (resultRange s a o).1
  (List.range (r.2 - r.1)).map (fun i => (resultAt s a o (r.1 + i)).getD 0)
/-- R348, R363: DST written, or added to. -/
def colWrite (s : State) (o : ColOp) : State :=
  let a := opArgs s o
  let z := cEsz o.var a
  let bytes := (resultCodes s a o).flatMap (fun c => leBytes c z)
  let dst := (resultRange s a o).2
  match (if cAccum a then accumulate s (.col (o.ctx.getD 0)) dst bytes else storeBytes s (.col (o.ctx.getD 0)) dst bytes) with
  | (s, some w) => colFail (reportUe s w (modFloe s) (some (jobCmd s o.job))) o (ueErr s w) 0 (myId s)
  | (s, none) =>
    let s := match o.ctx with | some c => rput64 s (cxReg c rCX_BYTES_LO) bytes.length | none => s
    colDone s o (crcOf bytes) (cSize a)
def streamsDone (o : ColOp) (z : Nat) : Bool :=
  o.ins.all (fun x => decide ((x.hi - x.lo) * z ≤ x.data.length)) && o.outs.all (fun x => decide ((x.hi - x.lo) * z ≤ x.sent))
/-- A COLLECTIVE that has met everyone, received and sent everything is done. -/
def colSettle (s : State) (gid seq : Nat) : State :=
  match getOp s gid seq with
  | none => s
  | some o =>
    if o.fam = 5 ∧ o.var ≠ 5 ∧ o.ctx.isSome ∧ o.joins = [] ∧ streamsDone o (cEsz o.var (opArgs s o)) then colWrite s o else s

/-! ### Data, against grants (R353, R354, R358) -/

/-- R344, R354: the port by which a stream leaves, and the one by which it comes. -/
def outPort (s : State) (i : Nat) (x : ColStream) : Nat := axisPort (axisAt (gAxorder s i) x.step) x.half
def inPort (s : State) (i : Nat) (x : ColStream) : Nat := axisPort (axisAt (gAxorder s i) x.step) (1 - x.half)

/-- The codes of n elements, where all are known. -/
def takeVals (f : Nat → Option Nat) (lo : Nat) : Nat → Option (List Nat)
  | 0 => some []
  | n + 1 =>
    match f lo, takeVals f (lo + 1) n with
    | some x, some r => some (x :: r)
    | _, _ => none
/-- The next packet of an outgoing stream, where its bytes are known and granted: at most 2,048 bytes. -/
def nextData (s : State) (a : List Byte) (o : ColOp) (x : ColStream) : Option (List Byte) :=
  let z := cEsz o.var a
  let n := min 2048 ((x.hi - x.lo) * z - x.sent)
  if n = 0 ∨ x.granted < x.sent + n then none
  else (takeVals (sendAt s a o x) (x.lo + x.sent / z) (n / z)).map (fun l => l.flatMap (fun c => leBytes c z))
def colSendStream : Nat → State → Nat → Nat → Nat → State
  | 0, s, _, _, _ => s
  | n + 1, s, gid, seq, i =>
    match getOp s gid seq with
    | none => s
    | some o =>
      match o.outs[i]? with
      | none => s
      | some x =>
        if quiesced s clsCOL then s
        else
          match nextData s (opArgs s o) o x with
          | none => s
          | some b =>
            let s := injectRaw s (colPkt x.peer ckDATA gid seq x.step x.phase x.half x.chunk x.sent b (some (outPort s o.entry x)))
            colSendStream n (putOp s { o with outs := o.outs.set i { x with sent := x.sent + b.length } }) gid seq i
/-- Everything that can leave, once the context is held. -/
def colPump (s : State) (gid seq : Nat) : State :=
  match getOp s gid seq with
  | none => s
  | some o =>
    if o.ctx = none then s
    else
      let z := cEsz o.var (opArgs s o)
      (List.range o.outs.length).foldl (fun s i =>
        match o.outs[i]? with
        | some x => colSendStream (cdiv ((x.hi - x.lo) * z) 2048) s gid seq i
        | none => s) s
def colWindow (o : ColOp) : Nat := if o.var = 3 then 65536 else 262144
/-- The bytes of an incoming stream that need no room any more: those sent on, or all that came. -/
def consumed (o : ColOp) (x : ColStream) : Nat :=
  let on := o.outs.filter (fun y => y.phase == x.phase && o.var != 3 && (o.var == 4 || (y.step == x.step && y.half == x.half && y.chunk == x.chunk)))
  on.foldl (fun m y => min m y.sent) x.data.length
/-- More granted to an incoming stream, in whole units of 256 bytes. -/
def regrant (s : State) (gid seq : Nat) (i : Nat) : State :=
  match getOp s gid seq with
  | none => s
  | some o =>
    match o.ins[i]? with
    | none => s
    | some x =>
      let units := (consumed o x + colWindow o - x.granted) / 256
      if units = 0 ∨ (x.hi - x.lo) * cEsz o.var (opArgs s o) ≤ x.granted then s
      else
        injectRaw (putOp s { o with ins := o.ins.set i { x with granted := x.granted + 256 * units } })
          (colPkt x.peer ckGRANT gid seq x.step x.phase x.half x.chunk units [] (some (inPort s o.entry x)))
def regrantAll (s : State) (gid seq : Nat) : State :=
  match getOp s gid seq with
  | some o => (List.range o.ins.length).foldl (fun s i => regrant s gid seq i) s
  | none => s
/-- Data moves on, grants follow, and the operation completes if nothing is left. -/
def colGo (s : State) (gid seq : Nat) : State := colSettle (regrantAll (colPump s gid seq) gid seq) gid seq

/-! ### Votes and barriers (R366–R369) -/

def axesOf (s : State) (i : Nat) : List (CStep × Nat) := (colSteps s i 15).map (fun st => (st, gPos s i st.axis (gRoot s i)))
/-- R366: the tree neighbours below, each with the port towards it and the step's index: both arms of every axis before the first on which this member lies off ROOT's position, and the next
member out on that axis. -/
def treeKids (s : State) (i : Nat) : List (Nat × Nat × Nat) :=
  let steps := axesOf s i
  let both (q : CStep × Nat) : List (Nat × Nat × Nat) :=
    (List.range 2).filterMap (fun half =>
      if 0 < armLen q.1 q.2 half then some (memberAt s i q.1.axis (after q.1 half), axisPort q.1.axis half, q.1.k) else none)
  match firstOff steps with
  | none => steps.flatMap both
  | some (st, p) =>
    let at' := armAt st p
    (steps.filter (fun q => decide (q.1.k < st.k))).flatMap both ++
      (if at'.2 < armLen st p at'.1 then [(memberAt s i st.axis (after st at'.1), axisPort st.axis at'.1, st.k)] else [])
/-- The tree neighbour above, its port, and the step's index. -/
def treeParent (s : State) (i : Nat) : Option (Nat × Nat × Nat) :=
  (firstOff (axesOf s i)).map (fun q =>
    let at' := armAt q.1 q.2
    (memberAt s i q.1.axis (after q.1 (1 - at'.1)), axisPort q.1.axis (1 - at'.1), q.1.k))
/-- R366: the result at this member, written before it goes on below. -/
def voteResult (s : State) (o : ColOp) (flags : Nat) : State :=
  let a := opArgs s o
  let s := if o.fam = 7 then rputN (rput64 s rUPD_VOTE_STEP_LO (vStep a)) rUPD_VOTE_RES (voteRes s true flags) else s
  let s := o.kids.foldl (fun s m => injectRaw s (colPkt m.1 ckDOWN o.gid o.seq m.2.2 0 (m.2.1 % 2) 0 (flags % 16) [] (some m.2.1))) s
  colDone s o (if o.fam = 7 then flags % 16 else crcOf []) (if o.fam = 7 then vStep a else cSize a)
/-- Once every member below has answered and every tree neighbour has joined, the flags go up; at ROOT they are the result. -/
def voteGo (s : State) (gid seq : Nat) : State :=
  match getOp s gid seq with
  | none => s
  | some o =>
    if !(o.fam == 7 || o.var == 5) || o.ctx == none || o.joins != [] || o.ups != [] || o.sentUp then s
    else
      match o.parent with
      | none => voteResult s o o.flags
      | some m =>
        injectRaw (putOp s { o with sentUp := true }) (colPkt m.1 ckUP gid seq m.2.2 0 (m.2.1 % 2) 0 (o.flags % 16) [] (some m.2.1))
def colStep (s : State) (gid seq : Nat) : State :=
  match getOp s gid seq with
  | some o => refreshCol (if o.fam = 7 ∨ o.var = 5 then voteGo s gid seq else colGo s gid seq)
  | none => s

/-! ### Rendezvous (R357–R359) -/

/-- R358: an operation with its context: it reads SRC and grants its streams their windows. -/
def takeCtx (s : State) (gid seq : Nat) : State :=
  match getOp s gid seq, freeCtx s with
  | some o, some c =>
    if o.ctx.isSome then s
    else
      let a := opArgs s o
      let r := if o.fam = 7 ∨ o.var = 5 then (0, 0) else srcRange s o.entry o.var a
      let s := rput64 s (cxReg c rCX_BYTES_LO) 0
      match (if r.2 = 0 then none else badIn s r.1 r.2) with
      | some w => colFail (reportUe s w (modFloe s) (some (jobCmd s o.job))) o (ueErr s w) 0 (myId s)
      | none =>
        let s := putOp (noteRead s (.col c) r.1 r.2) { o with ctx := some c, src := rdBytes s r.1 r.2 }
        colStep (regrantAll s gid seq) gid seq
  | _, _ => s
/-- A JOIN compared with this member's own signature. -/
def takeJoin (s : State) (o : ColOp) (pk : Pkt) : State :=
  if pk.arg.toNat ≠ o.sig then colFail s o eCOL_MISMATCH pk.src (myId s)
  else colStep (putOp s { o with joins := o.joins.filter (· != pk.src) }) o.gid o.seq
/-- R361: an ABORT fails the operation and goes on. One with MISMATCH set answers a JOIN of this module that came too late (R359, R364). -/
def takeAbort (s : State) (o : ColOp) (pk : Pkt) : State :=
  let first := wbits pk.arg 17 0
  colFail s o (if wbit pk.arg 31 then eCOL_MISMATCH else eCOL_ABORT) (if wbit pk.arg 31 then myId s else first) first
def takeUp' (s : State) (o : ColOp) (pk : Pkt) : State :=
  if o.ups.contains pk.src then
    colStep (putOp s { o with flags := o.flags ||| wbits pk.arg 3 0, ups := o.ups.filter (· != pk.src) }) o.gid o.seq
  else s
/-- R358: bytes granted to an outgoing stream. -/
def takeGrant (s : State) (o : ColOp) (pk : Pkt) : State :=
  colStep (putOp s { o with outs := o.outs.map (fun x => if pkIs pk x then { x with granted := x.granted + 256 * pk.arg.toNat } else x) }) o.gid o.seq
/-- A packet for an operation in flight here. -/
def takeCol (s : State) (o : ColOp) (pk : Pkt) : State :=
  if pkKind pk = ckJOIN then takeJoin s o pk
  else if pkKind pk = ckGRANT then takeGrant s o pk
  else if pkKind pk = ckABORT then takeAbort s o pk
  else if pkKind pk = ckUP then takeUp' s o pk
  else s
/-- Packets that came before the dispatch, in their order. -/
def takeHeld (s : State) (gid seq : Nat) : State :=
  let mine := s.colHeld.filter (fun pk => pkGid pk == gid && pkSeq pk == seq)
  let s := { s with colHeld := s.colHeld.filter (fun pk => !(pkGid pk == gid && pkSeq pk == seq)) }
  mine.foldl (fun s pk => match getOp s gid seq with | some o => takeCol s o pk | none => s) s
def distinct (l : List Nat) : List Nat := l.foldl (fun r m => if r.contains m then r else r ++ [m]) []
/-- The ports an operation's streams use. -/
def streamPorts (s : State) (i : Nat) (x : Streams) : List Nat :=
  let ax (k : Nat) : Nat := axisAt (gAxorder s i) k
  distinct (x.outs.map (fun y => axisPort (ax y.step) y.half) ++ x.ins.map (fun y => axisPort (ax y.step) (1 - y.half)))
/-- R357, R366: a dispatched operation with its number, streams and tree; a vote has the flags that its dispatch took. -/
def openOp (s : State) (ref : JobRef) (p : Nat) (j : Job) (i : Nat) : ColOp × State :=
  let fam := dFam j.desc
  let var := dVar j.desc
  let a := j.args
  let gid := gGid s i
  let seq := rn s (gReg i rG_SEQ)
  let tree := fam == 7 || var == 5
  let st := if tree then {} else opStreams s i var a
  let all := !tree && cSize a == 0
  let kids := if tree then treeKids s i else []
  let par := if tree then treeParent s i else none
  let nb := kids ++ par.elim [] (fun q => [q])
  let o : ColOp := {
    job := ref, part := p, fam := fam, var := var, gid := gid, seq := seq, entry := i, sig := colSig s i fam var a, since := j.began,
    joins := if all then (gMembers s i).filter (· != myId s) else if tree then distinct (nb.map (·.1)) else distinct (st.outs.map (·.peer)),
    ins := st.ins, outs := st.outs, ports := if tree then distinct (nb.map (·.2.1)) else streamPorts s i st,
    flags := j.vote, took := j.vote, ups := kids.map (·.1), kids := kids, parent := par }
  let s := rputN s (gReg i rG_SEQ) ((seq + 1) % 2 ^ 32)
  (o, setPartSt { s with colOps := s.colOps ++ [o] } ref p .busy)
/-- Whether an operation's TIMEOUT has run out. -/
def colExpired (s : State) (o : ColOp) : Bool := decide (o.since + us (cTimeout o.fam (opArgs s o)) ≤ s.clock)
/-- R357, R359, R366: an operation taken up: its JOINs sent, what was held for it taken, and a context, where one is free and nobody waits
before it. A TIMEOUT that has run out by now fails it (R15, R361). -/
def colBegin (s : State) (ref : JobRef) (p : Nat) (j : Job) (i : Nat) : State :=
  let x := openOp s ref p j i
  let o := x.1
  let s := x.2
  let dests := if o.parent.isSome || o.kids != [] || (o.fam == 5 && o.var != 5 && cSize j.args == 0) then o.joins else distinct (o.ins.map (·.peer))
  let s := dests.foldl (fun s m => injectRaw s (colPkt m ckJOIN o.gid o.seq 0 0 0 0 o.sig [] (boxVia s i m))) s
  let s := takeHeld s o.gid o.seq
  let s := if s.colOps.all (fun x => x.ctx.isSome || (x.gid == o.gid && x.seq == o.seq)) then takeCtx s o.gid o.seq else s
  match getOp s o.gid o.seq with
  | some o => if colExpired s o then colFail s o eCOL_TIMEOUT (awaited s o) (myId s) else refreshCol s
  | none => s
/-- R338, R361: a dispatched operation that COL has not taken up fails; it takes its number, and its partners hear of it. -/
def failFresh (s : State) (ref : JobRef) (p : Nat) (j : Job) (i err : Nat) : State :=
  let x := openOp s ref p j i
  let s := { x.2 with colHeld := x.2.colHeld.filter (fun pk => !(pkGid pk == x.1.gid && pkSeq pk == x.1.seq)) }
  colFail s x.1 err (if err = eCOL_TIMEOUT then awaited s x.1 else myId s) (myId s)
/-- A collective, vote or barrier dispatched here that COL has not taken up, with its group's entry. -/
def freshOp (s : State) (j : Job) : Option Nat :=
  if (dFam j.desc = 5 ∨ dFam j.desc = 7) ∧ (partLive s j.ref 0).any (fun x => x.2.st = .sent) then groupEntry s (cGroup (dFam j.desc) j.args) else none
/-- R357, R387: the operations dispatched before a command and not taken up yet: COL takes them up in the order of their dispatch. -/
def beginEarlier (s : State) (ref : JobRef) : State :=
  (s.jobs.takeWhile (fun j => j.ref != ref)).foldl (fun s j => match freshOp s j with | some i => colBegin s j.ref 0 j i | none => s) s
/-- R361: a port that goes down fails the operations whose streams use it, those not yet taken up among them. -/
def colPortDown (s : State) (p : Nat) : State :=
  let s := (s.colOps.filter (fun o => o.ports.contains p)).foldl (fun s o => colFail s o eCOL_ABORT (myId s) (myId s)) s
  s.jobs.foldl (fun s j =>
    match freshOp s j with
    | some i => if (openOp s j.ref 0 j i).1.ports.contains p then failFresh (beginEarlier s j.ref) j.ref 0 j i eCOL_ABORT else s
    | none => s) s
/-- R345, R370: whether entry i's shadow differs from the entry in force. -/
def groupChanged (s : State) (i : Nat) : Bool := [rG_CFG, rG_ORIGIN, rG_EXTENT, rG_ROOT, rG_AXORDER].any (fun o =>
  let d := if o = rG_CFG then 0x80000FFF else 0x3FFFF
  rget s (gReg i o) &&& d != shGet s (gReg i o) &&& d)
/-- R36, R370: whether a command is a group command or an operation of a group whose entry a commit would change. -/
def usesChanged (s : State) (d a : List Byte) : Bool :=
  let f := floeOf (dTarget d)
  ((if f.level = 4 then [f.module] else []) ++ (if dFam d = 5 ∨ dFam d = 7 then [cGroup (dFam d) a] else [])).any
    (fun g => (groupEntry s g).any (groupChanged s))
def effColl (s : State) (ref : JobRef) (p fam var : Nat) : State :=
  match freshOf s ref p fam var with
  | none => s
  | some (j, _) =>
    match groupEntry s (cGroup fam j.args) with
    | none => s
    | some i => colBegin (beginEarlier s ref) ref p j i
/-- R366: STEP_VOTE. -/
def execStepVote (j : JobRef) (p : Nat) (s : State) : Host.Outcome State Fault Refusal := ok (effColl s j p 7 0)
/-- R352: ALL_REDUCE. -/
def execAllReduce (j : JobRef) (p : Nat) (s : State) : Host.Outcome State Fault Refusal := ok (effColl s j p 5 0)
/-- R352: REDUCE_SCATTER. -/
def execReduceScatter (j : JobRef) (p : Nat) (s : State) : Host.Outcome State Fault Refusal := ok (effColl s j p 5 1)
/-- R352, R354: ALL_GATHER. -/
def execAllGather (j : JobRef) (p : Nat) (s : State) : Host.Outcome State Fault Refusal := ok (effColl s j p 5 2)
/-- R354: ALL_TO_ALL. -/
def execAllToAll (j : JobRef) (p : Nat) (s : State) : Host.Outcome State Fault Refusal := ok (effColl s j p 5 3)
/-- R354: BROADCAST. -/
def execBroadcast (j : JobRef) (p : Nat) (s : State) : Host.Outcome State Fault Refusal := ok (effColl s j p 5 4)
/-- R369: BARRIER. -/
def execBarrier (j : JobRef) (p : Nat) (s : State) : Host.Outcome State Fault Refusal := ok (effColl s j p 5 5)

/-! ### Packets that arrive (R359, R361, R366) -/

/-- A COL packet of a kind, for this module. A poisoned one has no effect (R321). -/
def colPacket (s : State) (pk : Pkt) (kind : Nat) (f : State → Option ColOp → State) : State :=
  if pkKind pk ≠ kind then s
  else ejected s opCOL pk (fun s => if pk.poisoned then rinc s rTFR_POISON 1 else f s (getOp s (pkGid pk) (pkSeq pk)))
/-- Whether a packet is for an operation this member has not dispatched yet. -/
def colFuture (s : State) (pk : Pkt) : Bool :=
  match groupEntry s (pkGid pk) with
  | some i => decide (rn s (gReg i rG_SEQ) ≤ pkSeq pk)
  | none => false
def colHold (s : State) (pk : Pkt) : State := { s with colHeld := s.colHeld ++ [pk] }
def effJoin (pk : Pkt) (s : State) (o : Option ColOp) : State :=
  match o with
  | some o => takeJoin s o pk
  | none =>
    if colFuture s pk then rinc (colHold s pk) rCOL_JOIN_HELD 1
    else if (groupEntry s (pkGid pk)).isSome then
      sendAbort (rinc s rCOL_MISMATCH 1) ((groupEntry s (pkGid pk)).getD 0) pk.src (pkGid pk) (pkSeq pk) (2 ^ 31 + myId s)
    else s
/-- R359. -/
def execJoin (pk : Pkt) (s : State) : Host.Outcome State Fault Refusal := ok (colPacket s pk ckJOIN (effJoin pk))
def effGrant (pk : Pkt) (s : State) (o : Option ColOp) : State :=
  match o with
  | some o => takeGrant s o pk
  | none => if colFuture s pk then colHold s pk else s
/-- R358. -/
def execGrant (pk : Pkt) (s : State) : Host.Outcome State Fault Refusal := ok (colPacket s pk ckGRANT (effGrant pk))
def effData (pk : Pkt) (s : State) (o : Option ColOp) : State :=
  match o with
  | none => s
  | some o =>
    let n := pk.payload.length
    match o.ins.find? (pkIs pk) with
    | none => s
    | some x =>
      if x.data.length ≠ pk.arg.toNat ∨ x.granted < x.data.length + n ∨ 2048 < n then s
      else
        let z := cEsz o.var (opArgs s o)
        let s := rinc64 s rCOL_RXBYTES_LO n
        let s := if x.phase = 0 then rinc64 s rCOL_OPS_LO (n / z) else s
        colStep (putOp s { o with ins := o.ins.map (fun y => if pkIs pk y then { y with data := y.data ++ pk.payload } else y) }) o.gid o.seq
/-- R353, R354: collective data received. -/
def execData (pk : Pkt) (s : State) : Host.Outcome State Fault Refusal := ok (colPacket s pk ckDATA (effData pk))
def effAbort (pk : Pkt) (s : State) (o : Option ColOp) : State :=
  match o with
  | some o => takeAbort s o pk
  | none => if colFuture s pk then colHold s pk else s
/-- R361. -/
def execAbort (pk : Pkt) (s : State) : Host.Outcome State Fault Refusal := ok (colPacket s pk ckABORT (effAbort pk))
def effVoteUp (pk : Pkt) (s : State) (o : Option ColOp) : State :=
  match o with
  | some o => takeUp' s o pk
  | none => if colFuture s pk then colHold s pk else s
/-- R366. -/
def execVoteUp (pk : Pkt) (s : State) : Host.Outcome State Fault Refusal := ok (colPacket s pk ckUP (effVoteUp pk))
def effVoteDown (pk : Pkt) (s : State) (o : Option ColOp) : State :=
  match o with
  | some o => if o.sentUp ∧ (o.parent.map (·.1)) = some pk.src then voteResult s o (wbits pk.arg 3 0) else s
  | none => s
/-- R366. -/
def execVoteDown (pk : Pkt) (s : State) : Host.Outcome State Fault Refusal := ok (colPacket s pk ckDOWN (effVoteDown pk))

/-! ### Timeouts, contexts, G_ENGINES -/

def effColTimeout (s : State) (ref : JobRef) (p : Nat) : State :=
  match s.colOps.find? (fun o => o.job == ref && o.part == p) with
  | some o => if colExpired s o then colFail s o eCOL_TIMEOUT (awaited s o) (myId s) else s
  | none =>
    match getJob s ref with
    | none => s
    | some j =>
      match freshOp s j with
      | none => s
      | some i =>
        if j.began + us (cTimeout (dFam j.desc) j.args) ≤ s.clock then failFresh (beginEarlier s ref) ref p j i eCOL_TIMEOUT else s
/-- R361: TIMEOUT µs after its dispatch an operation fails, taken up or not. -/
def execColTimeout (j : JobRef) (p : Nat) (s : State) : Host.Outcome State Fault Refusal := ok (effColTimeout s j p)
def effCtxGranted (s : State) : State :=
  match s.colOps.find? (fun o => o.ctx.isNone) with
  | some o => takeCtx s o.gid o.seq
  | none => s
/-- R387: a freed context goes to the oldest operation waiting for one. -/
def execContextGranted (s : State) : Host.Outcome State Fault Refusal := ok (effCtxGranted s)

def gLiveDefault (_ : Nat) : Nat := 96
def memberLive (s : State) (i m : Nat) : Nat :=
  if m = myId s then (liveUnder s (floeOf (modFloe s))).length else smGet gLiveDefault s.gLive (i * 2 ^ 18 + m)
/-- R347: G_ENGINES on the root. -/
def refreshEngines (s : State) (i : Nat) : State :=
  rputN s (gReg i rG_ENGINES) (if gValid s i ∧ gRoot s i = myId s then ((gMembers s i).map (memberLive s i)).sum else 0)
def effGEngines (s : State) (i m live : Nat) : State :=
  if i < 64 ∧ gValid s i ∧ gRoot s i = myId s then
    refreshEngines (if inBox s i m then { s with gLive := smSet gLiveDefault s.gLive (i * 2 ^ 18 + m) (min live 96) } else s) i
  else s
/-- R347: a member's report, and the root's sum. -/
def execGEnginesRefresh (group member live : Nat) (s : State) : Host.Outcome State Fault Refusal := ok (effGEngines s group member live)

end Sys2Proof.Machine
end

