-- ==== Sys2Proof/Machine/Torus.lean ====
section
/-! DEFINITION. The torus: link layer and port states (R311–R316), routing (R325–R327), endpoints of writes, accumulate-writes and reads (R319–R322), replies and timeouts (R328–R332), quiescence and tables (R333, R334, R341). -/

namespace Sys2Proof.Machine

/-! ### Port states -/

def portRecord (s : State) (p : Nat) : State :=
  postRecord s (eventRecord s (winTfp p) 0x8003 p (lState s p + rfld s (tfpReg p oTFP_STATUS) 15 8 * 256))
/-- R340, R581, R583: a port's state changed, with its PORT event. -/
def setLState (s : State) (p st : Nat) : State :=
  portRecord (setCode (rputF s (tfpReg p oTFP_STATUS) 2 0 st) (winTfp p) st) p
/-- R315, R317: whether a port may train. -/
def portAxisLive (s : State) (p : Nat) : Bool := decide (2 ≤ ringSize s (p / 2))
def portEnabled (s : State) (p : Nat) : Bool := rbit s (tfpReg p oTFP_CTRL) 0
/-- R307: the neighbour across a port. -/
def neighbour (s : State) (p : Nat) : Nat :=
  let a := p / 2
  let n := ringSize s a
  let c := axisOf (myId s) a
  setAxis (myId s) a (if p % 2 = 0 then (c + 1) % n else (c + n - 1) % n)
/-- R316, R339: a port leaves UP, TRAINING or FAULT for DOWN with a cause. Packets that came by it in part are completed with poisoned
filler; packets that were to leave by it are lost. -/
def portDown (s : State) (p cause : Nat) : State :=
  let s := if portUp s p then rinc s (tfpReg p oTFP_DOWNS) 1 else s
  let s := rputF s (tfpReg p oTFP_STATUS) 15 8 cause
  let s := putL s p { inp := (List.range 8).map (completeStream s p) }
  flow (colPortDown (setLState (cutOff s p) p lsDOWN) p)

/-! ### NAK, ACK, CREDIT -/

/-- R313: whether one more uncorrectable codeword in the 1 ms window takes the port down. -/
def ueLimit (s : State) (p : Nat) : Nat := rfld s (tfpReg p oTFP_LINK_CFG) 31 16
def retryLimit (s : State) (p : Nat) : Nat := rfld s (tfpReg p oTFP_LINK_CFG) 7 0
/-- The symbols that the decoder corrected, each with its lane. -/
def countCorrected (s : State) (p : Nat) (lanes : List Nat) : State :=
  lanes.foldl (fun s n => rinc (rinc s (tfpReg p oTFP_CORR) 1) (tfpReg p (oTFP_LANE + 4 * n)) 1) s

/-- The retry buffer from a number on. -/
def fromSeq (seq : Nat) : List Sent → List Sent
  | [] => []
  | x :: r => if x.seq = seq then x :: r else fromSeq seq r
def beforeSeq (seq : Nat) : List Sent → List Sent
  | [] => []
  | x :: r => if x.seq = seq then [] else x :: beforeSeq seq r
def effNak (s : State) (p seq : Nat) : State :=
  let l := getL s p
  let back := fromSeq seq l.buf
  if !portUp s p ∨ back = [] then s
  else if back.any (fun x => decide (retryLimit s p ≤ x.sends)) then portDown s p 3
  else
    let s := putL s p { l with buf := beforeSeq seq l.buf ++ back.map (fun x => { x with sends := x.sends + 1 }) }
    let s := rinc s (tfpReg p oTFP_RETRY) back.length
    back.foldl (fun s x => emit s (.codeword p x.seq x.lcw x.flits)) s
/-- R312, R313: codewords are resent from the one named, or the port goes down at the retry limit. -/
def execNak (port seq : Nat) (s : State) : Host.Outcome State Fault Refusal := ok (effNak s port seq)

def effAck (s : State) (p seq : Nat) : State :=
  let l := getL s p
  if !portUp s p ∨ fromSeq seq l.buf = [] then s
  else putL s p { l with buf := (fromSeq seq l.buf).drop 1 }
/-- R312: ACK is cumulative: codewords up to the one named leave the retry buffer. -/
def execAck (port seq : Nat) (s : State) : Host.Outcome State Fault Refusal := ok (effAck s port seq)

def effCredit (s : State) (p vc n : Nat) : State :=
  if !portUp s p then s
  else
    let l := getL s p
    flow (putL s p { l with used := l.used.set vc (usedOf l vc - n) })
/-- R323: flits of a channel returned; packets that waited for them go on. -/
def execCredit (port vc flits : Nat) (s : State) : Host.Outcome State Fault Refusal := ok (effCredit s port vc flits)

/-! ### Training (R315, R316) -/

/-- R315: 150 ms, the longest a training takes, and 1 s, the time from one to the next. -/
def trainLimit : Nat := 150000000
def trainEvery : Nat := 1000000000
/-- R315: a training that has not ended in 150 ms has failed. -/
def trainFailed (s : State) (p : Nat) : Bool :=
  lState s p == lsTRAINING && (getL s p).began.any (fun t => decide (t + trainLimit ≤ s.clock))
def endTraining (s : State) (p : Nat) : State := if trainFailed s p then setLState s p lsDOWN else s
/-- R311, R315: the pieces of the PEER exchange. DESIGN CHOICE (log entry 37): two of 12 bits, low bits first, of the word that the PEER register shows, the
module id in bits 17:0 and the port in bits 20:18; codewords of training have no number. -/
def peerPieces (id port : Nat) : List Nat := let w := port % 8 * 2 ^ 18 + id % 2 ^ 18; [w % 4096, w / 4096]
def sendPieces (s : State) (p : Nat) : State :=
  (peerPieces (myId s) p).foldl (fun s v => emit s (.codeword p 0 (lcwWord 0 lcwPEER v) [])) s
def effTraining (s0 : State) (p : Nat) : State :=
  let s := endTraining s0 p
  if portEnabled s p && portAxisLive s p && lState s p == lsDOWN && (getL s p).began.all (fun t => decide (t + trainEvery ≤ s.clock)) then
    sendPieces (setLState (putL s p { getL s p with loop := rbit s (tfpReg p oTFP_CTRL) 1, began := some s.clock, peer := [] }) p lsTRAINING) p
  else s
/-- R315, R340: a DOWN port that is enabled trains, again once a second; LOOPBACK applies from here. -/
def execTrainingAttempt (port : Nat) (s : State) : Host.Outcome State Fault Refusal := ok (effTraining s port)

/-- R550: counter 65,535 of the neighbour signalled when a port enters UP in stage FABRIC or later. -/
def signalNeighbour (s : State) (p : Nat) : State :=
  if 3 ≤ blkCode s winGlb then sendSignal s (neighbour s p) 65535 1 false none 0 .other else s
def effPeer (s0 : State) (p id pp : Nat) : State :=
  let s := endTraining s0 p
  if lState s p = lsTRAINING then
    -- in loopback the port meets itself
    let own := (getL s p).loop
    let id := if own then myId s else id
    let pp := if own then p else pp
    let s := rputN s (tfpReg p oTFP_PEER) (2 ^ 31 + pp % 8 * 2 ^ 18 + id % 2 ^ 18)
    if id = neighbour s p ∧ pp = (p ^^^ 1) then signalNeighbour (setLState (putL s p { inp := (getL s p).inp, loop := own }) p lsUP) p
    else setLState (rputF s (tfpReg p oTFP_STATUS) 15 8 6) p lsFAULT
  else s
/-- R315: the PEER exchange ends training: UP with the expected neighbour, else FAULT with cause MISWIRED. -/
def execPeer (port moduleId peerPort : Nat) (s : State) : Host.Outcome State Fault Refusal := ok (effPeer s port moduleId peerPort)
/-- R311, R315: a piece of the PEER exchange that a codeword brings to a port in training; with the second the exchange is made. -/
def effPiece (s : State) (p v : Nat) : State :=
  match (getL s p).peer with
  | [] => putL s p { getL s p with peer := [v] }
  | a :: _ =>
    let w := a + 4096 * v
    effPeer (putL s p { getL s p with peer := [] }) p (w % 2 ^ 18) (w / 2 ^ 18 % 8)

/-! ### CODEWORD -/

/-- R311: the message of an accepted codeword's link control word. A PEER piece matters in training alone. -/
def effLcw (s : State) (p w : Nat) : State :=
  if lcwKind w = lcwACK then effAck s p (lcwValue w)
  else if lcwKind w = lcwNAK then effNak s p (lcwValue w)
  else if lcwKind w = lcwCREDIT then effCredit s p (nbits w 11 9) (nbits w 8 0)
  else s
/-- R311: the flits of a codeword, each with its channel and its POISON bit; an empty slot is an idle flit. -/
def flitsIn (now lcw : Nat) (fs : List (Nat × List Byte)) : List (Nat × Flit) :=
  ((List.range fs.length).zip fs).filterMap (fun x => if x.2.2 = [] then none else some (x.2.1, ⟨x.2.2, nbit (lcwPoison lcw) x.1, now⟩))
/-- R320: flits of an accepted codeword join their channels' buffers. -/
def receive (s : State) (p : Nat) (fs : List (Nat × Flit)) : State :=
  let l := getL s p
  putL s p { l with inp := fs.foldl (fun i f => i.set f.1 (((i[f.1]?).getD []) ++ [f.2])) l.inp }
/-- R313: the uncorrectable codewords of the last 1 ms. -/
def recentUes (s : State) (l : Link) : List Nat := l.ues.filter (fun t => decide (s.clock < t + 1000000))
/-- R312, R313: an uncorrectable codeword: NAKed, unless an earlier one is awaited. -/
def badCodeword (s : State) (p seq : Nat) : State :=
  let l := getL s p
  let ues := recentUes s l ++ [s.clock]
  let s := putL (rinc s (tfpReg p oTFP_UE) 1) p { l with ues := ues, await := true }
  if retryLimit s p = 0 then portDown s p 3
  else if ueLimit s p < ues.length then portDown s p 4
  else if l.await ∧ seq ≠ l.rx then s
  else flushMsgs (queueLcw s p lcwNAK l.rx) p
/-- R311, R312: the codeword awaited: its flits are taken, but for an alignment codeword, which carries none; it is acknowledged. -/
def goodCodeword (s : State) (p lcw : Nat) (flits : List (Nat × List Byte)) : State :=
  let l := getL s p
  let fs := if l.rxMark = 128 then [] else flitsIn s.clock lcw flits
  let s := putL s p { l with rx := (l.rx + 1) % 4096, rxMark := nextMark l.rxMark, await := false }
  let s := rinc (rinc64 s (tfpReg p oTFP_RXFLIT_LO) fs.length) (tfpReg p oTFP_POISON) (fs.filter (·.2.bad)).length
  flow (queueLcw (receive s p fs) p lcwACK l.rx)
def effCodeword (s : State) (p seq : Nat) (bad : Bool) (lcw : Nat) (lanes : List Nat) (flits : List (Nat × List Byte)) : State :=
  if lState s p = lsTRAINING ∧ !bad ∧ lcwKind lcw = lcwPEER then effPiece s p (lcwValue lcw)
  else if !portUp s p then s
  else if bad then badCodeword s p seq
  else
    let s := countCorrected s p lanes
    refreshFabric (if seq ≠ (getL s p).rx then s else effLcw (goodCodeword s p lcw flits) p lcw)
/-- R311–R313: an uncorrectable codeword is NAKed and later ones discarded; an accepted one gives its flits and its link control word. In training
(R315) a piece of the PEER exchange is taken. -/
def execCodeword (port seq : Nat) (uncorrectable : Bool) (lcw : Nat) (corrected : List Nat) (flits : List (Nat × List Byte)) (s : State) :
    Host.Outcome State Fault Refusal := ok (effCodeword s port seq uncorrectable lcw corrected flits)

/-! ### Lanes, retraining and enabling (R316) -/

def effLaneLoss (s : State) (p lane : Nat) : State :=
  if portUp s p then portDown (rputF s (tfpReg p oTFP_STATUS) 31 24 lane) p 2 else s
/-- R316: a lane that loses lock for more than 1 µs takes the port down; FAIL_LANE names it. -/
def execLaneLockLoss (port lane : Nat) (s : State) : Host.Outcome State Fault Refusal := ok (effLaneLoss s port lane)
/-- R316: no valid codeword for 10 µs, or the peer down. -/
def execNoCodeword (port : Nat) (s : State) : Host.Outcome State Fault Refusal :=
  ok (if portUp s port then portDown s port 5 else s)

def effRetrain (s : State) (p : Nat) : State := if portUp s p then portDown s p 7 else s
/-- R316: a write of 1 to TFP_CTRL.RETRAIN takes the link down to train again. -/
def execRetrain (port : Nat) (s : State) : Host.Outcome State Fault Refusal := ok (effRetrain s port)
def effPortEnable (s : State) (p : Nat) (v : Word) : State :=
  let was := portEnabled s p
  let s := rputBit s (tfpReg p oTFP_CTRL) 0 (wbit v 0)
  let s := if was && !wbit v 0 && lState s p != lsDOWN then portDown s p 1 else s
  if wbit v 2 then effRetrain s p else s
/-- R315, R316: TFP_CTRL written: ENABLE lets the port train, and clearing it takes the port down with cause 1. -/
def execPortEnable (port : Nat) (v : Word) (s : State) : Host.Outcome State Fault Refusal :=
  ok (effPortEnable (shPut s (tfpReg port oTFP_CTRL) (wput (shGet s (tfpReg port oTFP_CTRL)) 1 1 (wbits v 1 1))) port v)

/-! ### ROUTE (R325–R327, R339) -/

/-- R140, R344, R366: a packet of this module that is bound to one of its ports; others go by the tables (R326), and so does a streamed write or its
signal while that port is not UP. -/
def routeVia (s : State) (pk : Pkt) : RouteTo × Pkt :=
  match pk.via with
  | some v =>
    if pk.cls = clsREQ ∧ !portUp s v then route s none pk
    else if pk.ttl = 0 then (.drop, pk) else (.port v, { pk with ttl := pk.ttl - 1, dlv := crossesDateline s v })
  | none => route s none pk
/-- R326, R327, R339: where a worm goes from here, as the router decides for its header. -/
def placed (s : State) (inp : Option Nat) (w : Worm) (head : Pkt → List Byte) : State :=
  let gone (s : State) : State := addWorm s { w with out := 9, left := wormLeft w }
  if pktClass w.pk.op ≠ some w.pk.cls then rinc (gone s) rTFR_DROP_ROUTE 1
  else
    match (match inp with | none => routeVia s w.pk | some _ => route s inp w.pk) with
    | (.drop, pk) => dropRoute (gone s) pk
    | (.eject, pk) => addWorm (rinc64 s rTFR_EJECT_LO 1) { w with out := 8, pk := pk }
    | (.port out, pk) =>
      if !portUp s out then dropDown (gone s) pk
      else addWorm (if inp.isSome then rinc64 s rTFR_FWD_LO 1 else s) { w with out := out, pk := pk, data := head pk }
/-- R322, R326: a packet of this module's own injection, the oldest of its source, destination, class and epoch. -/
def routeOwn (s : State) (pk : Pkt) : State :=
  let p0 := { pk with poisoned := false }
  match s.inj.find? (fun q => q.dest == p0.dest && q.cls == p0.cls && q.epoch == p0.epoch) with
  | none => s
  | some q =>
    if !sameWire q p0 then s
    else
      let b := pktBytes q
      placed { s with inj := s.inj.erase q } none
        { inp := 8, ivc := 0, out := 9, pk := q, len := q.payload.length, data := b, left := b.length, born := q.born,
          spoiled := if pk.poisoned then [0] else [] } pktBytes
/-- R320, R326: a packet whose head stands at the front of its channel of a port. -/
def routeIn (s : State) (p : Nat) (pk : Pkt) : State :=
  let vc := vcOf pk
  let b := (flitBytes (streamOf (getL s p) vc)).take 32
  if (wormOf s p vc).isSome ∨ b.length < 32 ∨ hdrLen b ≠ pk.payload.length ∨ !sameWire (hdrOf b) { pk with payload := [], poisoned := false } then s
  else
    let x := takeStream s p vc 32
    placed x.2.2 (some p)
      { inp := p, ivc := vc, out := 9, pk := hdrOf b, len := hdrLen b, data := b, badData := x.2.1, left := 32 + hdrLen b,
        born := ((streamOf (getL s p) vc).head?).elim s.clock (·.born),
        spoiled := if !pk.poisoned then [] else if pk.aux = [] then [0] else pk.aux } (hdrOnward b)
/-- R314: a poisoned operand says that the router finds its own buffer corrupt where the packet stands, in the pieces that it numbers. -/
def effRoute (s : State) (inp : Option Nat) (pk : Pkt) : State :=
  refreshFabric (flow (match inp with | none => routeOwn s pk | some p => routeIn s p pk))
/-- R326: one packet routed: ejected here, sent or held for a port, or discarded with its answer. -/
def execRoute (inPort : Option Nat) (pk : Pkt) (s : State) : Host.Outcome State Fault Refusal := ok (effRoute s inPort pk)

/-! ### Endpoints (R319, R321, R322, R332) -/

/-- R321, R332: a poisoned request is discarded, remembered for ordered signals and answered POISONED. -/
def poisonedReq (s : State) (pk : Pkt) : State :=
  let s := rinc s rTFR_POISON 1
  let s := if s.poisoned.length < 64 then { s with poisoned := s.poisoned ++ [(pk.src, pk.ctag, s.clock)] } else s
  reply s pk stPOISONED
/-- The endpoint's refusals that do not depend on the operation: unmapped (R322), parked or unparking (R474), held in reset (R338). -/
def endpointStatus (s : State) (a n : Nat) : Nat :=
  if !rangeMapped s.order a n then stADDR_RANGE
  else if !unparked s ∨ addrHeld s a then stRESET
  else stOK
/-- A REQ packet for this module's memory: `serve` does it, for the port by which it came, where nothing refuses it. One that waits for its memory
(R210) stays where it is. One for a store or HBM wakes a parked module (R474). -/
def endpoint (s : State) (op : Nat) (pk : Pkt) (n : Nat) (serve : Nat → State → State) : State :=
  match fromEjection s op pk with
  | none => s
  | some t =>
    if pk.poisoned then poisonedReq t pk
    else
      let st := endpointStatus t pk.addr.toNat n
      if st = stADDR_RANGE then reply t pk st
      else if st ≠ stOK then reply (wake t) pk st
      else if firnBusy t pk.addr.toNat n then s
      else serve (cameBy s pk) t
/-- A write's or an accumulate-write's answer, where an uncorrectable word may have stopped it (R202). -/
def answerStore (pk : Pkt) (r : State × Option Nat) : State :=
  match r with
  | (s, some w) => reply (reportUe s w (modFloeOf pk.src) none) pk stMEM_UE
  | (s, none) => reply s pk stOK
def serveWr (pk : Pkt) (port : Nat) (s : State) : State := answerStore pk (storeBytes s (.port port) pk.addr.toNat pk.payload)
/-- R319: a remote write takes effect whole and is acknowledged. -/
def execWr (pk : Pkt) (s : State) : Host.Outcome State Fault Refusal := ok (endpoint s opWR pk pk.payload.length (serveWr pk))
def serveAcc (pk : Pkt) (port : Nat) (s : State) : State :=
  if firnTouches s pk.addr.toNat pk.payload.length then reply s pk stFIRN_ACCUM
  else answerStore pk (accumulate s (.port port) pk.addr.toNat pk.payload)
/-- R319, R204, R207: a remote accumulate-write. -/
def execAcc (pk : Pkt) (s : State) : Host.Outcome State Fault Refusal := ok (endpoint s opACC pk pk.payload.length (serveAcc pk))
def serveRd (pk : Pkt) (port : Nat) (s : State) : State :=
  let a := pk.addr.toNat
  let n := min 8192 pk.arg.toNat
  match badIn s a n with
  | some w => reply (reportUe s w (modFloeOf pk.src) none) pk stMEM_UE
  | none => reply (noteRead s (.port port) a n) pk stOK (rdBytes s a n)
/-- R319: a remote read, answered with RDATA. -/
def execRd (pk : Pkt) (s : State) : Host.Outcome State Fault Refusal := ok (endpoint s opRD pk (min 8192 pk.arg.toNat) (serveRd pk))

/-! ### Replies (R328–R332) -/

def effReply (pk : Pkt) (s : State) : State :=
  if pk.poisoned then rinc s rTFR_POISON 1
  else refreshFabric (onReply s pk)
/-- R330: an ACK reply consumed by its requester. -/
def execRspAck (pk : Pkt) (s : State) : Host.Outcome State Fault Refusal := ok (ejected s opACK pk (effReply pk))
/-- R330: an RDATA reply consumed by its requester. -/
def execRdata (pk : Pkt) (s : State) : Host.Outcome State Fault Refusal := ok (ejected s opRDATA pk (effReply pk))
def effReplyTimeout (s : State) (slot : Nat) : State :=
  match getSlot s slot with
  | none => s
  | some k => if slotExpired s k then refreshFabric (expireSlot s k) else s
/-- R329: a request with no reply in RTO µs fails. -/
def execReplyTimeout (slot : Nat) (s : State) : Host.Outcome State Fault Refusal := ok (effReplyTimeout s slot)
/-- R332: an entry of the poisoned-request list goes RTO µs after it was made. -/
def execPoisonListExpiry (src ctag : Nat) (s : State) : Host.Outcome State Fault Refusal :=
  ok { s with poisoned := s.poisoned.filter (fun p => !(p.1 == src && p.2.1 == ctag && decide (p.2.2 + rtoNs s ≤ s.clock))) }

/-! ### Quiescence and tables (R333, R334, R341) -/

def effQuiesce (s : State) (v : Word) : State := refreshFabric (pump (releaseHold (rput s rTFR_QUIESCE (v &&& 15))))
/-- R334: the classes whose injection is stopped. -/
def execTfrQuiesce (v : Word) (s : State) : Host.Outcome State Fault Refusal := ok (effQuiesce s v)

/-- R333: whether set e's tables may be written. -/
def setWritable (s : State) (e : Nat) : Bool :=
  epochCount s e == 0 && (b2n (injEpoch s) != e || rfld s rTFR_QUIESCE 3 0 == 15)
/-- The set that an offset of TFR's pages 1 and 2 belongs to. -/
def tableSet (off : Nat) : Option Nat :=
  let o := offIn off
  if offWin off ≠ winTfr then none
  else if 0x1000 ≤ o ∧ o < 0x1200 then some ((o - 0x1000) / 256)
  else if 0x2000 ≤ o ∧ o < 0x3000 then some ((o - 0x2000) / 0x800)
  else none

end Sys2Proof.Machine
end

