-- ==== Sys2Proof/Machine/Counters.lean ====
section
/-! DEFINITION. The WAIT and SIGNAL families (R274–R281), signals and fetch-adds from other modules (R322, R332), remote waits (R286–R289), pre-emption (R283), and the mailboxes, locks and heartbeats (R298–R306). -/

namespace Sys2Proof.Machine

/-! ### WAIT (R279, R280) -/

def effWait (s : State) (ref : JobRef) (p : Nat) : State :=
  match freshOf s ref p 9 0 with
  | some _ => markWorked s ref p
  | none => s
/-- R279: a WAIT has no data work of its own. -/
def execWait (j : JobRef) (p : Nat) (s : State) : Host.Outcome State Fault Refusal := ok (effWait s j p)

def effTicket (s : State) (ref : JobRef) (p : Nat) : State :=
  match freshOf s ref p 9 1 with
  | none => s
  | some (j, x) =>
    let m := tkModule j.args
    let i := tkIndex j.args
    if m = myId s then
      match fetchAdd s i 1 with
      | (_, some k, s) => ticketTaken s ref p k
      | (e, none, s) => markFaulted (fetchRefused s ref m i e) ref p e
    else if canRequest s then
      request (putJob s (setPart j p { x with st := .busy })) { op := opFADD, dest := m, addr := w64 i, arg := 1, ctag := j.tag } (.ticket ref p)
    else s
/-- R280: TICKET adds 1 to the ticket counter and waits for its turn. -/
def execTicket (j : JobRef) (p : Nat) (s : State) : Host.Outcome State Fault Refusal := ok (effTicket s j p)

/-! ### SIGNAL (R274–R277) -/

def sgCount (a : List Byte) : Nat := nbits (leAt a 0 4) 2 0
def sgResult (a : List Byte) : Nat := leAt a 8 8
def sgVal (a : List Byte) (i : Nat) : Nat := leAt a (0x20 + 16 * i) 8
def sgIndex (a : List Byte) (i : Nat) : Nat := leAt a (0x28 + 16 * i) 2
def sgAux (a : List Byte) (i : Nat) : Nat := leAt a (0x2C + 16 * i) 4
def sgModule (a : List Byte) (i : Nat) : Nat := nbits (sgAux a i) 17 0
def sgEntries (a : List Byte) : List Nat := List.range (min 6 (sgCount a))

/-- One ADD entry. -/
def addEntry (ref : JobRef) (p : Nat) (a : List Byte) (acked : Bool) (tag : Nat) (s : State) (i : Nat) : State :=
  sendSignal s (sgModule a i) (sgIndex a i) (sgVal a i % 2 ^ 32) (!acked && !effAcked s) none tag (.sigEntry ref p)
def effSignalAdd (s : State) (ref : JobRef) (p : Nat) : State :=
  match freshOf s ref p 0xA 0 with
  | none => s
  | some (j, x) =>
    let away := (sgEntries j.args).filter (fun i => sgModule j.args i != myId s)
    if away ≠ [] ∧ (quiesced s clsREQ ∨ 4096 < slotCount s + away.length) then s
    else
      let s := putJob s (setPart j p { x with st := .busy, unacked := away.length })
      let s := (sgEntries j.args).foldl (addEntry ref p j.args (dAcked j.desc) j.tag) s
      if away = [] then markWorked s ref p else s
/-- R275: each entry's increment is added to its counter, in order. -/
def execSignalAdd (j : JobRef) (p : Nat) (s : State) : Host.Outcome State Fault Refusal := ok (effSignalAdd s j p)

def effFetchAdd (s : State) (ref : JobRef) (p : Nat) : State :=
  match freshOf s ref p 0xA 1 with
  | none => s
  | some (j, x) =>
    let m := sgModule j.args 0
    let i := sgIndex j.args 0
    let inc := sgVal j.args 0 % 2 ^ 32
    if sgCount j.args = 0 then markWorked s ref p
    else if m = myId s then
      match fetchAdd s i inc with
      | (_, some k, s) =>
        (match writeResult s (sgResult j.args) k with
         | (s, some w) => markFaulted (reportUe s w x.floe (some (jobCmd s ref))) ref p (ueErr s w)
         | (s, none) => markWorked s ref p)
      | (e, none, s) => markFaulted (fetchRefused s ref m i e) ref p e
    else if canRequest s then
      request (putJob s (setPart j p { x with st := .busy })) { op := opFADD, dest := m, addr := w64 i, arg := w32 inc, ctag := j.tag } (.fetch ref p (sgResult j.args))
    else s
/-- R275, R276: INC is added and the value before goes to RESULT; with COUNT 0 there is no data work (R14). -/
def execFetchAdd (j : JobRef) (p : Nat) (s : State) : Host.Outcome State Fault Refusal := ok (effFetchAdd s j p)

/-- R277's checks of an ASSIGN entry, and its effect. LOCAL names the module that dispatched the command (R27): in a command of another
module such an owner is a floe of that module. -/
def localFloe (s : State) (t : Nat) : Nat := let f := floeOf t; t % 2 ^ 28 / 2 ^ 18 * 2 ^ 18 + f.level * 2 ^ 29 + floeModule s t
def assignEntry (away : Bool) (s : State) (a : List Byte) (i : Nat) : Except Nat State :=
  let owner := sgAux a i
  let c := sgIndex a i
  if !floeValid s owner || !floeHere s owner || (away && (floeOf owner).isLocal) then .error eBAD_FLOE
  else if (getC s c).st = .live then .error eCTR_LIVE
  else
    let o := w32 (localFloe s owner)
    if quotaOf (floeOf owner).level ≤ ownedBy s o then .error eCTR_QUOTA
    else .ok (putC s c { st := .live, val := w64 (sgVal a i), owner := o })
/-- R275, R277: RELEASE of a LIVE or BROKEN counter; its waits fail. -/
def releaseEntry (_ : Bool) (s : State) (a : List Byte) (i : Nat) : Except Nat State :=
  let c := sgIndex a i
  if (getC s c).st = .free then .error eCTR_FREE
  else .ok (failWaits (putC s c { st := .free, val := (getC s c).val, owner := 0 }) c eCTR_FREE)
/-- Entries in order; those before a failing one keep their effect. -/
def entriesFrom (f : State → List Byte → Nat → Except Nat State) (a : List Byte) : List Nat → State → State × Option (Nat × Nat)
  | [], s => (s, none)
  | i :: r, s =>
    match f s a i with
    | .ok s => entriesFrom f a r s
    | .error e => (s, some (i, e))
/-- Whether a command came from another module. -/
def fromAway (s : State) (ref : JobRef) : Bool := match ref with | .remote src _ => src != myId s | .queue _ _ => false
def effEntries (s : State) (ref : JobRef) (p var : Nat) (f : Bool → State → List Byte → Nat → Except Nat State) : State :=
  match freshOf s ref p 0xA var with
  | none => s
  | some (j, _) =>
    match entriesFrom (f (fromAway s ref)) j.args (sgEntries j.args) s with
    | (s, none) => markWorked s ref p
    | (s, some (i, e)) =>
      let c := sgIndex j.args i
      let obj := if e = eBAD_FLOE then objOf 1 (sgAux j.args i) else objOf 0 (globalId (myId s) c)
      let s := captureErr s winSyn e []
      markFaulted (postFor s (some (jobCmd s ref)) (synRecord s e obj false (some (jobCmd s ref)) 0 0 (getC s c).val.toNat 0 (ctrStCode (getC s c).st))) ref p e
/-- R275, R277: counters assigned. -/
def execAssign (j : JobRef) (p : Nat) (s : State) : Host.Outcome State Fault Refusal := ok (effEntries s j p 2 assignEntry)
/-- R275, R277: counters released. -/
def execRelease (j : JobRef) (p : Nat) (s : State) : Host.Outcome State Fault Refusal := ok (effEntries s j p 3 releaseEntry)

/-! ### From other modules (R270, R276, R286, R332) -/

/-- R541: SYN is held only by a MODULE or power-on reset. -/
def synHeld (s : State) : Bool := s.resets.any (fun r => r.dom == 4 || r.dom == 6)
def onPoisonList (s : State) (pk : Pkt) : Bool := s.poisoned.any (fun p => p.1 == pk.src && p.2.1 == pk.ctag)
def effSig (pk : Pkt) (s : State) : State :=
  if pk.poisoned then poisonedReq s pk
  else if synHeld s then reply s pk stRESET
  else if pk.ordered && onPoisonList s pk then
    reply { s with poisoned := s.poisoned.filter (fun p => !(p.1 == pk.src && p.2.1 == pk.ctag)) } pk stPOISONED
  else if pk.ordered && s.poisoned.length == 64 then reply s pk stPOISONED
  else
    let i := pk.addr.toNat % 65536
    let s := addCounter s i pk.arg.toNat
    -- R549, R550: the neighbour check looks at who has signalled counter 65,535
    reply (if i = 65535 then { s with checkSigs := s.checkSigs ++ [pk.src] } else s) pk stOK
/-- R270, R284, R332: a signal from another module. REQ packets leave their ejection queue in order (R324), so an ordered signal comes
after every earlier request of its source (R322). -/
def execSig (pk : Pkt) (s : State) : Host.Outcome State Fault Refusal := ok (ejected s opSIG pk (effSig pk))

def effFadd (pk : Pkt) (s : State) : State :=
  if pk.poisoned then poisonedReq s pk
  else if synHeld s then reply s pk stRESET
  else
    match fetchAdd s (pk.addr.toNat % 65536) pk.arg.toNat with
    | (_, some k, s) => reply s pk stOK (le64 k.toNat)
    | (e, none, s) => reply s pk (if e = eCTR_FREE then stCTR_FREE else stOWNER_LOST)
/-- R276: a fetch-add from another module, answered with the value before. -/
def execFadd (pk : Pkt) (s : State) : Host.Outcome State Fault Refusal := ok (ejected s opFADD pk (effFadd pk))

def mgtRefused : Nat := 0xFFFF
/-- R286: a verdict or a refusal sent to the waiter's module. -/
def sendVerdict (s : State) (src wid : Nat) (c : Counter) (verdict : Nat) : State :=
  injectRaw s { op := opMGT, cls := clsMGT, dest := src, arg := w32 mgtVerdict, payload := mgtBody wid c.val.toNat (ctrStCode c.st) verdict }
def effRegistration (pk : Pkt) (s : State) : State :=
  if pk.poisoned then rinc s rTFR_POISON 1
  else
    let i := pk.addr.toNat % 65536
    let wid := leAt pk.payload 0 8
    match register s wid i (w64 (leAt pk.payload 8 8)) (leAt pk.payload 0x10 8) (leAt pk.payload 0x18 8) (.remote pk.src 0 0 0 0) with
    | (.met, s) => sendVerdict s pk.src wid (getC s i) 0
    | (.failed e, s) => sendVerdict s pk.src wid (getC s i) e
    | (.noRoom, s) => sendVerdict s pk.src wid (getC s i) mgtRefused
    | (.kept, s) => s
/-- R321: an MGT packet of a subtype. -/
def mgtPacket (s : State) (pk : Pkt) (sub : Nat) (f : State → State) : State := if pk.arg = w32 sub then ejected s opMGT pk f else s
/-- R286, R289: a wait registered from another module. -/
def execWaitRegistration (pk : Pkt) (s : State) : Host.Outcome State Fault Refusal := ok (mgtPacket s pk mgtRegister (effRegistration pk))

/-- A wait of this module ends: met, or failed with a code and its record (R291). -/
def endRemoteWait (s : State) (r : RemoteWait) (err val cst : Nat) (noVerdict : Bool) : State :=
  let s := { s with rwaits := s.rwaits.filter (fun x => x.wid != r.wid) }
  let s := if err = 0 then s else
    let cw := waiterCmd s r.who
    let s := captureErr s winSyn err []
    postFor s cw.1 (synRecord s err (globalId r.dest r.ctr) noVerdict cw.1 cw.2 r.thresh.toNat val r.timeout cst)
  let st : WaitSt := if err = 0 then .met else .failed err
  match r.who with
  | .head q n which => setHeadWait s q n which st
  | .job src ctag which => setJobWait s (.remote src ctag) which st
  | .ticket j p => if err = 0 then markWorked s j p else markFaulted s j p err
  | .remote _ _ _ _ _ => s
def getRwait (s : State) (wid : Nat) : Option RemoteWait := s.rwaits.find? (fun r => r.wid == wid)
def setWaiter (s : State) (w : Waiter) (st : WaitSt) : State :=
  match w with
  | .head q n which => setHeadWait s q n which st
  | .job src ctag which => setJobWait s (.remote src ctag) which st
  | .ticket _ _ => s
  | .remote _ _ _ _ _ => s
/-- R286: a refusal carries the counter's value and state. -/
def noteRefusal (s : State) (r : RemoteWait) (val : DWord) (cst : Nat) : State :=
  { s with rwaits := s.rwaits.map (fun x => if x.wid = r.wid then { x with refused := true, val := val, cst := cst } else x) }
def effVerdict (pk : Pkt) (s : State) : State :=
  if pk.poisoned then rinc s rTFR_POISON 1
  else
    match getRwait s (leAt pk.payload 0 8) with
    | none => s
    | some r =>
      if r.dest ≠ pk.src then s
      else
        let val := leAt pk.payload 8 8
        let cst := leAt pk.payload 0x10 8
        let v := leAt pk.payload 0x18 8
        if v = mgtRefused then
          setWaiter (noteRefusal s r (w64 val) cst) r.who .refused
        else endRemoteWait s r v val cst false
/-- R286: the verdict of a wait on another module's counter reaches its waiter. -/
def execVerdict (pk : Pkt) (s : State) : Host.Outcome State Fault Refusal := ok (mgtPacket s pk mgtVerdict (effVerdict pk))

def effWaitExpiry (s : State) (wid : Nat) : State :=
  match s.waits.find? (fun r => r.wid == wid && decide (r.deadline ≤ s.clock)) with
  | none => s
  | some r => giveVerdict (rinc { s with waits := s.waits.erase r } rSYN_TIMEOUTS 1) r eWAIT_TIMEOUT
/-- R286, R287: a registered wait's time is up at its counter's SYN. -/
def execCounterWaitExpiry (wid : Nat) (s : State) : Host.Outcome State Fault Refusal := ok (effWaitExpiry s wid)
def effBackstop (s : State) (wid : Nat) : State :=
  match getRwait s wid with
  | none => s
  | some r =>
    if r.backstop ≤ s.clock then endRemoteWait (rinc s rSYN_BACKSTOP 1) r eWAIT_TIMEOUT r.val.toNat r.cst true else s
/-- R288: no verdict came by the waiter's own timer. -/
def execWaiterBackstop (wid : Nat) (s : State) : Host.Outcome State Fault Refusal := ok (effBackstop s wid)
def retried (s : State) (wid : Nat) : State :=
  { s with rwaits := s.rwaits.map (fun x => if x.wid = wid then { x with refused := false, tried := s.clock } else x) }
def effRetry (s : State) (wid : Nat) : State :=
  match getRwait s wid with
  | none => s
  | some r =>
    -- R382: every 1 µs
    if !r.refused ∨ s.clock < r.tried + us 1 then s
    else
      let left := r.backstop - us 10 - s.clock
      if r.dest = myId s then
        match register s wid r.ctr r.thresh left r.timeout r.who with
        | (.met, s) => endRemoteWait s r 0 0 0 false
        | (.failed e, s) => endRemoteWait s r e (getC s r.ctr).val.toNat (ctrStCode (getC s r.ctr).st) false
        | (.kept, s) => setWaiter { s with rwaits := s.rwaits.filter (fun x => x.wid != wid) } r.who (.registered wid)
        | (.noRoom, s) => noteRefusal (retried s wid) r (getC s r.ctr).val (ctrStCode (getC s r.ctr).st)
      else
        let s := injectRaw s { op := opMGT, cls := clsMGT, dest := r.dest, addr := w64 r.ctr, arg := w32 mgtRegister, payload := mgtBody wid r.thresh.toNat left r.timeout }
        setWaiter (retried s wid) r.who (.registered wid)
/-- R289, R382: a refused registration is repeated with the time that remains. -/
def execRegistrationRetry (wid : Nat) (s : State) : Host.Outcome State Fault Refusal := ok (effRetry s wid)

/-! ### Pre-emption (R283) -/

/-- Whether a TICKET waits on its turn, here or at another module. -/
def ticketWaits (s : State) (r : JobRef) : Bool :=
  let mine (w : Waiter) : Bool := match w with | .ticket j _ => j == r | _ => false
  s.waits.any (fun w => mine w.who) || s.rwaits.any (fun w => mine w.who)
/-- The commands of a queue that this module serves itself: group commands whose root it is, and their parts here. -/
def servedOf (s : State) (q : Nat) : List Job :=
  s.jobs.filter (fun j => match j.ref with
    | .remote src _ => src == myId s && j.name.any (fun n => n.1 == qFloe s q && n.2.1 == qNum q)
    | .queue _ _ => false)
/-- R290: the waits of a served command withdrawn, with no record. -/
def withdrawJob (s : State) (j : JobRef) : State :=
  withdraw s (fun w => match w with | .job src ctag _ => j == .remote src ctag | .ticket r _ => r == j | _ => false)
/-- A TICKET fails with PREEMPTED, and its turn wait is withdrawn. -/
def preemptTicket (s : State) (j : Job) : State :=
  let s := captureErr (withdrawJob s j.ref) winSyn ePREEMPTED []
  markFaulted (postFor s (some (jobCmd s j.ref)) (synRecord s ePREEMPTED (objOf 1 (dTarget j.desc)) false (some (jobCmd s j.ref)) 2 0 0 0 3)) j.ref 0 ePREEMPTED
/-- Whether a TICKET's turn is waited for. DESIGN CHOICE (log entry 79): no message tells a dispatching module when a TICKET that another module
executes comes to its turn wait, so that a free value says whether it has. -/
def turnAwaited (s : State) (j : Job) : Bool :=
  dFam j.desc == 9 && dVar j.desc == 1 && j.st == .running &&
    (if j.parts.any (fun x => x.away && x.cursor == 1 && partModule s x != myId s) then wbit (Config.freeWord s.free) 0 else ticketWaits s j.ref)
def preemptTickets (s : State) (q : Nat) : State :=
  (queueJobs s q ++ servedOf s q).foldl (fun s j => if turnAwaited s j then preemptTicket (takeFree s).2 j else s) s
/-- R283, R290: a group command that still waits at its root, which is this module, fails with PREEMPTED. -/
def preemptServed (s : State) (q : Nat) : State :=
  (servedOf s q).foldl (fun s j =>
    if j.st = .held ∧ (floeOf (dTarget j.desc)).level = 4 then putJob (withdrawJob s j.ref) { j with st := .failed ePREEMPTED } else s) s
def preemptQueue (s : State) (q : Nat) : State :=
  let x := getQ s q
  if x.st ≠ .active ∧ x.st ≠ .draining then s
  else
    let s := withdraw s (fun w => match w with | .head q' _ _ => q' == q | _ => false)
    let s := putQ s q { x with headCmd := none, stopErr := if x.stopErr = 0 ∧ x.failedAt = none then ePREEMPTED else x.stopErr }
    settleQueue (preemptServed (preemptTickets s q) q) q
def effPreempt (s : State) (v : Word) : State :=
  let t := v.toNat
  if !floeValid s t || !floeHere s t then s
  else
    let f := floeOf t
    let qs := (List.range queueCount).filter (fun q => floeUnder (floeOf (qFloe s q)) f)
    breakCounters (qs.foldl preemptQueue s) f
/-- R283: a floe's queues stop with PREEMPTED and its counters break. -/
def execSynPreempt (v : Word) (s : State) : Host.Outcome State Fault Refusal := ok (effPreempt s v)

/-! ### Mailboxes, locks and heartbeats (R298–R306) -/

def mbxReg (m o : Nat) : Nat := wreg winMbx (o % 65536 + 0x20 * m)
def mbxFull (s : State) (m : Nat) : Bool := rbit s (mbxReg m rMBX_STAT) 0
/-- R300: the receiver notified. -/
def mbxNotify (s : State) (m owner : Nat) : State :=
  let recv := rfld s (mbxReg m rMBX_CFG) 6 0
  if !rbit s (mbxReg m rMBX_CFG) 7 then s
  else if 1 ≤ recv ∧ recv ≤ 110 then emit s (.irq (recv - 1))
  else postMailbox s recv m owner
def effMbxPost (s : State) (owner m : Nat) (v : Word) : State :=
  let lo := (latchOf s.wrLatch owner winMbx (0x1000 + 0x20 * m)).getD (rget s (mbxReg m rMBX_DATA_LO))
  let s := { s with wrLatch := latchDrop s.wrLatch owner winMbx }
  if mbxFull s m then rputBit s (mbxReg m rMBX_STAT) 1 true
  else
    let s := rput (rput s (mbxReg m rMBX_DATA_LO) lo) (mbxReg m rMBX_DATA_HI) v
    mbxNotify (rputF (rputF s (mbxReg m rMBX_STAT) 15 8 owner) (mbxReg m rMBX_STAT) 0 0 1) m owner
/-- R300: MBX_DATA_HI written: the message is posted, or discarded with OVERRUN. -/
def execMbxPost (owner m : Nat) (v : Word) (s : State) : Host.Outcome State Fault Refusal := ok (byAgent s owner (effMbxPost s owner m v))
def effMbxReceive (s : State) (owner m : Nat) : State :=
  let lo := rget s (mbxReg m rMBX_DATA_LO)
  let hi := rget s (mbxReg m rMBX_DATA_HI)
  let s := { s with resp := [lo], rdLatch := latchSet s.rdLatch owner winMbx (0x1000 + 0x20 * m) hi }
  rputF (rput (rput s (mbxReg m rMBX_DATA_LO) 0) (mbxReg m rMBX_DATA_HI) 0) (mbxReg m rMBX_STAT) 0 0 0
/-- R301: MBX_DATA_LO read: the low half, the high half latched, data and FULL cleared. -/
def execMbxReceive (owner m : Nat) (s : State) : Host.Outcome State Fault Refusal := ok (byAgent s owner (effMbxReceive s owner m))
def effLockAcquire (s : State) (owner m : Nat) : State :=
  let o := rn s (mbxReg m rMBX_LOCK)
  let s := { s with resp := [w32 o] }
  if o = 0 then rputN s (mbxReg m rMBX_LOCK) owner else s
/-- R303: MBX_LOCK read: a read that returns 0 takes the lock. -/
def execMbxLockAcquire (owner m : Nat) (s : State) : Host.Outcome State Fault Refusal := ok (byAgent s owner (effLockAcquire s owner m))
def effLockRelease (s : State) (owner m : Nat) (v : Word) : State :=
  let o := rn s (mbxReg m rMBX_LOCK)
  if v ≠ 0 ∨ o = 0 then s
  else if o = owner then rputN s (mbxReg m rMBX_LOCK) 0
  else rinc s rMBX_LOCK_REJ 1
/-- R303: MBX_LOCK written. -/
def execMbxLockRelease (owner m : Nat) (v : Word) (s : State) : Host.Outcome State Fault Refusal := ok (byAgent s owner (effLockRelease s owner m v))
def effMbxForce (s : State) (owner off : Nat) (v : Word) : State :=
  if owner = 109 ∨ owner = 110 then
    (List.range 32).foldl (fun s i => if wbit v i then rputN s (mbxReg ((off - 0x80) / 4 * 32 + i) rMBX_LOCK) 0 else s) s
  else s
/-- R303, R306: the management cores release locks by force. -/
def execMbxForce (owner off : Nat) (v : Word) (s : State) : Host.Outcome State Fault Refusal :=
  ok (byAgent s owner (if off = 0x80 ∨ off = 0x84 then effMbxForce s owner off v else s))
/-- R304: a heartbeat is writable by its own agent only. -/
def execMbxHb (owner a : Nat) (v : Word) (s : State) : Host.Outcome State Fault Refusal :=
  ok (byAgent s owner (if owner = a then rput s (rMBX_HB + 4 * a) v else s))

end Sys2Proof.Machine
end

