-- ==== Sys2Proof/Machine/Checks.lean ====
section
/-! DEFINITION. The checks of a command at dispatch, in R172's order, and where each is made. -/

namespace Sys2Proof.Machine

/-- A refusal at dispatch: the error, the object its record names, the window that reports it (none: the queue's floe) and its words. -/
structure Rej where
  err : Nat
  obj : Nat
  win : Option Nat := none
  info : List Nat := []
  deriving DecidableEq, Repr

/-- R163: the families and variants defined. -/
def variants (fam : Nat) : Nat :=
  if fam = 1 ∨ fam = 2 then 1 else if fam = 3 then 4 else if fam = 4 then 2 else if fam = 5 then 6 else if fam = 6 then 2
  else if fam = 7 ∨ fam = 8 then 1 else if fam = 9 then 2 else if fam = 0xA then 4 else if fam = 0xB then 2
  else if fam = 0xC then 5 else if fam = 0xD then 1 else if fam = 0xE then 9 else if fam = 0xF then 6 else 0
/-- R163: the levels that accept a family. -/
def levelOk (fam level : Nat) : Bool :=
  if fam = 5 ∨ fam = 6 ∨ fam = 7 ∨ fam = 8 ∨ fam = 0xC ∨ fam = 0xD ∨ fam = 0xF then level == 3 || level == 4
  else if fam = 0xE then level == 3 else decide (level ≤ 4)
/-! ### Refusals and their objects (R553, R554) -/

def rejTarget (d : List Byte) (e : Nat) : Option Rej := some ⟨e, objOf 1 (dTarget d), none, []⟩
def rejAddr (e a : Nat) : Option Rej := some ⟨e, objOf 2 (a % 2 ^ 48), none, []⟩
def rejIf (b : Bool) (r : Option Rej) : Option Rej := if b then r else none
/-- The first check that fails. -/
def firstRej : List (Unit → Option Rej) → Option Rej
  | [] => none
  | f :: r => match f () with | some x => some x | none => firstRej r
/-- R278, R553: a counter outside the torus, as its global id. -/
def rejCtr (m i : Nat) : Option Rej := some ⟨eBAD_CTR, objOf 0 (m * 65536 + i), none, []⟩
/-- R264: a refusal that UPD raises for a group and a step or generation. -/
def rejUpd (e gid t : Nat) (info : List Nat) : Option Rej := some ⟨e, objOf 3 (gid + t % 2 ^ 32 * 2 ^ 24), some winUpd, info⟩
/-- R446. -/
def rejSite (d a : List Byte) (e : Nat) : Option Rej :=
  some ⟨e, objOf 6 (srPeer a * 2 ^ 56 + 0xFFFFFF * 2 ^ 32 + srRound a % 2 ^ 32), some winSxu, [dVar d * 2 ^ 28 + srPeer a, srRound a % 2 ^ 32, 0xFFFFFF, 0]⟩
/-- R505. -/
def rejCph (d a : List Byte) (e : Nat) : Option Rej :=
  let cx := if 4 ≤ dVar d ∧ dVar d ≤ 6 then ciCtx a else 0
  some ⟨e, objOf 7 (cx * 65536 + ciSlot a * 256), some winCph, [dVar d * 2 ^ 28 + cx * 65536 + ciSlot a * 256, 0, 0, 0]⟩
/-- R23, R574: the first of some ranges that is not mapped, checked from its first byte to its last, a range of length 0 as one byte. -/
def rejRanges (s : State) (l : List (Nat × Nat)) : Option Rej :=
  match l.find? (fun r => !rangeMapped s.order r.1 r.2) with
  | some r => rejAddr eADDR_RANGE r.1
  | none => none

/-! ### Orders 1 to 3 and 6 (R172) -/

def check123 (s : State) (d : List Byte) : Option Rej :=
  firstRej [fun _ => rejIf (decide (variants (dFam d) ≤ dVar d)) (rejTarget d eBAD_OPCODE),
    fun _ => rejIf (!floeValid s (dTarget d)) (rejTarget d eBAD_FLOE),
    fun _ => rejIf (!levelOk (dFam d) (floeOf (dTarget d)).level) (rejTarget d eBAD_LEVEL)]
def check6 (s : State) (d : List Byte) : Option Rej :=
  rejRanges s [(dArgPtr d, argSize (dFam d) (dVar d))]

/-! ### Order 7: reserved fields and R161 -/

/-- Whether bytes lo to hi − 1 of a block are 0. -/
def zeroIn (a : List Byte) (lo hi : Nat) : Bool := ((a.drop lo).take (hi - lo)).all (· == 0)
/-- R159. -/
def descOk (d : List Byte) : Bool :=
  dFlags d % 4 == 0 && decide (dOpflags d < if dFam d = 1 then 2 else 1) && nbits (dMods d) 63 54 == 0
/-- R161. -/
def wreadOk (d a : List Byte) : Bool :=
  if !dWread d then true
  else
    let g (o : Opd) : Nat := if o.group = 0 then 0 else 1
    if dFam d = 1 then g (mmA a) + g (mmB a) == 1 && (mmC a).group == 0
    else if dFam d = 2 then
      let aug := ewIsAug (ewOp a)
      g (ewX a) + g (ewY a) + (if aug then 0 else g (ewZ a)) == 1 && (ewOut a).group == 0 && (!aug || (ewZ a).group == 0)
    else false
/-- R167. -/
def matResOk (a : List Byte) : Bool :=
  nbits (leAt a 4 4) 15 2 == 0 && zeroIn a 0x10 0x20 && [mmA a, mmB a, mmC a].all (fun o => o.rsvd == 0) && !(mmC a).trans && !(mmC a).colscale
/-- R168: the operation codes and predicates, and the operand fields, of operands that the operation does not use too. -/
def ewDefined (op : Nat) : Bool :=
  decide (1 ≤ op ∧ op ≤ 6) || decide (8 ≤ op ∧ op ≤ 0xD) || decide (0x10 ≤ op ∧ op ≤ 0x13) || decide (0x18 ≤ op ∧ op ≤ 0x1D) || op == 0x3F
def ewUsed (a : List Byte) : List Opd :=
  let op := ewOp a
  if op = 0x3F then []
  else [ewX a, ewOut a] ++ (if ewTwo op then [ewY a] else []) ++ (if ewThree op || ewIsAug op then [ewZ a] else [])
def ewResOk (a : List Byte) : Bool :=
  let op := ewOp a
  nbits (leAt a 0 4) 19 8 == 0 && ewDefined op && ((op != 0xC && op != 0xD) || decide (ewPredicate a ≤ 7)) &&
    [ewX a, ewY a, ewZ a, ewOut a].all (fun o => o.rsvd == 0 && o.stride == 0 && !o.colscale && !o.trans)
/-- R171, R205, R534. -/
def copyResOk (d a : List Byte) : Bool :=
  leAt a 4 4 == 0 && (if dFam d = 3 ∧ dVar d = 3 then nbits (leAt a 0 4) 31 9 == 0 && nbits (leAt a 0 4) 7 6 == 0 else nbits (leAt a 0 4) 31 18 == 0) &&
    (dFam d != 4 || (cpSrc a % 4 == 0 && cpDst a % 4 == 0 && cpLen a % 4 == 0))
/-- R349–R351. -/
def colResOk (d a : List Byte) : Bool :=
  let v := dVar d
  nbits (leAt a 0 4) 15 3 == 0 && !nbit (leAt a 0 4) 0 && nbits (leAt a 4 4) 31 12 == 0 && nbits (leAt a 0x24 4) 30 18 == 0 && zeroIn a 0x28 0x40 &&
    decide (cEtype a ≤ 2) && decide (cOp a ≤ 4) && (decide (cOp a < 3) || cEtype a == 2) &&
    (!cAccum a || (decide (v ≤ 1) && cOp a == 0 && cEtype a == 0)) && (!cShardAt a || v == 1 || v == 2) &&
    (v != 3 || [1, 2, 4, 8].contains (cAxes a))
/-- R241. -/
def updResOk (d a : List Byte) : Bool := if dFam d = 0xD then uStep a == uFraction a else decide (uStep a < 2 ^ 40)
/-- R365. -/
def voteResOk (a : List Byte) : Bool := decide (vStep a < 2 ^ 40) && nbits (leAt a 8 4) 31 12 == 0 && zeroIn a 0x10 0x20
/-- R279: RESULT is 8-byte aligned. -/
def ticketResOk (a : List Byte) : Bool :=
  nbits (leAt a 0 4) 31 18 == 0 && nbits (leAt a 4 4) 31 16 == 0 && nbits (leAt a 8 4) 31 18 == 0 && nbits (leAt a 0xC 4) 31 16 == 0 &&
    leAt a 0x14 4 == 0 && leAt a 0x18 8 % 8 == 0
def sgWord (a : List Byte) (i : Nat) : Nat := leAt a (0x28 + 16 * i) 4
/-- R274, R275: the entries used. -/
def signalResOk (d a : List Byte) : Bool :=
  let v := dVar d
  nbits (leAt a 0 4) 31 3 == 0 && leAt a 4 4 == 0 && zeroIn a 0x10 0x20 && decide (sgCount a ≤ 6) &&
    (if v = 1 then decide (sgCount a ≤ 1) && leAt a 8 8 % 8 == 0 else leAt a 8 8 == 0) &&
    (List.range (sgCount a)).all (fun i => nbits (sgWord a i) 31 16 == 0 &&
      (if v ≤ 1 then decide (sgVal a i < 2 ^ 32) && nbits (sgAux a i) 31 18 == 0 else v != 3 || (sgVal a i == 0 && sgAux a i == 0)))
/-- R219, R220. -/
def packResOk (d a : List Byte) : Bool :=
  leAt a 0 8 % 0x40000 == 0 && leAt a 8 8 % 0x40000 == 0 && ((dVar d != 2 && dVar d != 3) || leAt a 0x10 8 % 64 == 0)
/-- R488: the reserved fields of a CIPHER. -/
def cipherResOk (a : List Byte) : Bool :=
  nbits (ciW a) 31 28 == 0 && !nbit (ciW a) 14 && nbits (ciW a) 7 3 == 0 && nbits (leAt a 4 4) 31 4 == 0 && leAt a 0x24 4 == 0 && zeroIn a 0x48 0x60
/-- R476, R488, R489: no unused field of a CIPHER is non-zero, its SMODE and USAGE name something, and its lengths are within the algorithms' limits. -/
def cipherArgOk (d a : List Byte) : Bool :=
  let v := dVar d
  let start := v == 4 && ciInit a
  let useSlot := v ≤ 3 || start || ((v == 5 || v == 6) && ciWrapped a) || 7 ≤ v
  let useIv := v ≤ 2 || start
  let gcmIv := v ≤ 1 || (start && ciSmode a ≤ 1)
  let useTag := v ≤ 1 || v == 3 || (v == 4 && ciFinal a && !(start && ciSmode a == 2))
  (if start then ciSmode a != 3 else ciSmode a == 0) && (v == 4 || (!ciInit a && !ciFinal a)) &&
    ((4 ≤ v && v ≤ 6) || ciCtx a == 0) && (v == 5 || v == 6 || !ciWrapped a) && (useSlot || ciSlot a == 0) &&
    (v == 7 || ciRoot a == 0) && (if v = 7 then ciUsage a != 0 else ciUsage a == 0) &&
    (useIv || zeroIn a 8 0x18) && (!gcmIv || zeroIn a 0x14 0x18) &&
    (v ≤ 1 || v == 4 || v == 7 || ciAad a == 0) && (v ≤ 1 || v == 4 || ciAadLen a == 0) &&
    (v ≤ 4 || v == 6 || ciIn a == 0) && (v ≤ 2 || v == 4 || v == 5 || ciOut a == 0) && (v ≤ 4 || ciLen a == 0) && (useTag || ciTag a == 0) &&
    ciAadLen a % 16 == 0 && (v == 3 || ciLen a % 16 == 0) && (if v = 3 then ciLen a ≤ 2 ^ 36 else ciLen a ≤ 2 ^ 36 - 32)
/-- R410: the fields of a SITE_ROUND that must be 0, and RESULT's alignment. -/
def siteResOk (a : List Byte) : Bool :=
  decide (srRound a < 2 ^ 32) && decide (srStep a < 2 ^ 40) && nbits (leAt a 0x14 4) 31 8 == 0 && zeroIn a 0x2C 0x40 && srResult a % 64 == 0
/-- R411: COUNT and ACTION. -/
def siteArgOk (d a : List Byte) : Bool := decide (srCount a ≤ 65535) && (if dVar d = 5 then decide (srAction a ≤ 1) else srAction a == 0)
/-- No reserved field of the argument block is non-zero. -/
def argOk (d a : List Byte) : Bool :=
  let fam := dFam d
  if fam = 1 then matResOk a else if fam = 2 then ewResOk a else if fam = 3 ∨ fam = 4 then copyResOk d a
  else if fam = 5 then colResOk d a else if fam = 6 ∨ fam = 8 ∨ fam = 0xD then updResOk d a else if fam = 7 then voteResOk a
  else if fam = 9 then dVar d == 0 || ticketResOk a else if fam = 0xA then signalResOk d a
  else if fam = 0xC then packResOk d a else if fam = 0xE then cipherResOk a else if fam = 0xF then siteResOk a else true
def check7 (d a : List Byte) : Option Rej := rejIf (!(descOk d && argOk d a && wreadOk d a)) (rejTarget d eBAD_DESC)

/-! ### Orders 4, 5 and 8 -/

/-- R6: CIPHER and SITE_ROUND on PT9-L384. -/
def check4 (s : State) (d : List Byte) : Option Rej :=
  rejIf ((dFam d == 0xE && !winPresent s.order winCph) || (dFam d == 0xF && !winPresent s.order winSxu)) (rejTarget d eUNIT_ABSENT)
/-- R33: a MATMUL, or an ELEMWISE other than a KERNEL with PLACE 1, is sent to engine floes. -/
def toEngines (d a : List Byte) : Bool := dFam d == 1 || (dFam d == 2 && !(isKernel d a && ewPlace a))
def check5 (s : State) (d a : List Byte) : Option Rej :=
  let f := floeOf (dTarget d)
  rejIf (if f.level = 0 then fenced s (floeEngine f) else toEngines d a && liveUnder s f == []) (rejTarget d eFLOE_FENCED)
/-- R111: a queue of a fenced engine floe. -/
def queueFenced (s : State) (q : Nat) : Bool := qLevel q == 0 && fenced s (q / 2)
def check8 (s : State) (d : List Byte) : Option Rej := rejIf (dNotBefore d != 0 && !timeValid s) (rejTarget d eTIME_INVALID)

/-! ### Order 9: counters (R278) -/

/-- The counters that a command's enabled waits and signals and its used entries name: pairs of module and index. -/
def namedCounters (d a : List Byte) : List (Nat × Nat) :=
  (if dW0 d then [(dWmodule d 0, dWindex d 0)] else []) ++ (if dW1 d then [(dWmodule d 1, dWindex d 1)] else []) ++
    (if dS0 d then [(dSmodule d 0, dSindex d 0)] else []) ++ (if dS1 d then [(dSmodule d 1, dSindex d 1)] else []) ++
    (if dFam d = 0xA ∧ dVar d ≤ 1 then (List.range (sgCount a)).map (fun i => (nbits (sgAux a i) 17 0, nbits (sgWord a i) 15 0))
     else [])
def checkCtr (s : State) (d a : List Byte) : Option Rej :=
  match (namedCounters d a).find? (fun c => !inTorus s c.1) with
  | some c => rejCtr c.1 c.2
  | none => none

/-! ### Order 9: weight generations (R252, R263) -/

/-- The operand that takes its base from a generation: the offset of its descriptor. -/
def groupedAt (d a : List Byte) : Option Nat :=
  if !dWread d then none
  else (if dFam d = 1 then [0x20, 0x40] else if dFam d = 2 then [0x20, 0x40, 0x60] else []).find? (fun o => (opdOf a o).group != 0)
/-- R252: the group's retained generation congruent to WGEN, as the address of its descriptor and the slot. -/
def genResolve (s : State) (d a : List Byte) : Except Rej (Option (Nat × Nat)) :=
  match groupedAt d a with
  | none => .ok none
  | some o =>
    let gid := (opdOf a o).group
    let rej (e : Nat) (info : List Nat) : Rej := ⟨e, objOf 3 (gid + dWgen d * 2 ^ 24), some winUpd, info⟩
    if !rbit s rUPD_CTRL 0 then .error (rej eUPD_DISABLED [])
    else if !groupOk s gid then .error (rej eBAD_GROUP [gid, 0, 0, 0])
    else
      let g := grpOf s gid
      match ((List.range g.ngen).map (fun k => g.committed s - k)).find? (fun t => g.retained s t && t % 4096 == dWgen d) with
      | some t => .ok (some (g.at_, g.slotOf t))
      | none => .error (rej eGEN_NOT_RETAINED [gid, dWgen d, 0, 0])
/-- R201: an uncorrectable word of the group descriptor that the resolution reads. -/
def gdBad (s : State) (d a : List Byte) : Option Nat :=
  match groupedAt d a with
  | none => none
  | some o =>
    let gid := (opdOf a o).group
    if rbit s rUPD_CTRL 0 && gid != 0 && decide (gid < rn s rUPD_GT_COUNT) && rangeMapped s.order (gdAddr s gid) 256 then badIn s (gdAddr s gid) 256 else none
/-- R161: the arguments with the grouped operand's base taken from its generation's slot. -/
def withBase (s : State) (d a : List Byte) (r : Option (Nat × Nat)) : List Byte :=
  match groupedAt d a, r with
  | some o, some (gd, slot) => a.take o ++ le64 (rd64 s (gd + 0x68 + 8 * slot)) ++ (a.drop (o + 8)).take 20 ++ le32 (leAt a (o + 0x1C) 4 % 256) ++ a.drop (o + 32)
  | _, _ => a
def checkGen (s : State) (d a : List Byte) : Option Rej :=
  match genResolve s d a with | .error r => some r | .ok _ => none

/-! ### Order 9: MATMUL (R44, R88, R120, R86, R23, R207) -/

def matFmtOk (a : List Byte) : Bool :=
  [mmA a, mmB a].all (fun o => specOk o.spec && fmtMatIn (spFmt o.spec) && !(o.colscale && isBlockFmt (spFmt o.spec))) &&
    specOk (mmC a).spec && fmtMatOut (spFmt (mmC a).spec)
/-- R120's formats of stash and residual. -/
def drainFmtOk (spec : Nat) : Bool := [fF32, fF16, fB16, fP8A, fP8B].contains spec
def drainOk (s : State) (a dd : List Byte) : Bool :=
  let c := (mmC a).spec
  let f := spFmt c
  decide (ddAct dd ≤ 8) && decide (ddDact dd ≤ 8) && (!ddDsrc dd || [1, 2, 6, 7].contains (ddDact dd)) && (!ddStashEn dd || ddDact dd == 0) &&
    drainFmtOk (ddStashFmt dd) && drainFmtOk (ddResidFmt dd) &&
    (f != fF32P || (ddAct dd == 0 && ddDact dd == 0 && ddRowstat dd == 0 && !ddStashEn dd && !ddGcol dd && !spTscale c)) &&
    (ddMask dd == 0 || !isBlockFmt f) && (!ddGcol dd || ((f == fP8B || f == fB16) && !spTscale c)) && (!ddAccum dd || (f == fF32 && ddDest dd == 0)) &&
    ddDest dd != 3 && nbits (leAt dd 4 4) 1 0 != 2 && nbits (leAt dd 4 4) 15 2 == 0 && leAt a 8 8 % 8 == 0 &&
    (!ddStream dd || decide (2 ≤ ringSize s (ddPort dd / 2)))
/-- R84, R86. -/
def delubOk (a dd : List Byte) : Bool :=
  [mmA a, mmB a].all (fun o => [fF16, fB16, fP8A, fP8B].contains o.spec && !o.colscale) && [fF32, fF16, fB16, fP8A, fP8B].contains (mmC a).spec &&
    (ddAct dd == 0 || ddAct dd == 1 || ddAct dd == 3) && ddDact dd == 0 && ddRowstat dd == 0 && !ddGcol dd
def checkMat (s : State) (d a : List Byte) : Option Rej :=
  let there := leAt a 8 8 = 0 ∨ rangeMapped s.order (leAt a 8 8) 64
  let dd := if there then readDrain s a else ddDefault
  firstRej [fun _ => rejIf (!matFmtOk a) (rejTarget d eBAD_FORMAT),
    fun _ => rejIf (decide (8192 < mM a ∨ 8192 < mN a ∨ 8192 < mK a)) (rejTarget d eBAD_SHAPE),
    fun _ => rejIf (!drainOk s a dd) (rejTarget d eBAD_DRAIN),
    fun _ => rejIf (!there) (rejAddr eADDR_RANGE (leAt a 8 8)),
    fun _ => rejRanges s (drainRanges a dd),
    fun _ => rejIf (dDelub d && !delubOk a dd) (rejTarget d eDELUB_UNSUPPORTED),
    fun _ => rejRanges s (matInRanges d a ++ matOutRanges a dd),
    fun _ => rejIf (ddAccum dd && firnTouches s (mmC a).base (matOutExtent a)) (rejAddr eFIRN_ACCUM (mmC a).base)]

/-! ### Order 9: ELEMWISE (R42, R44, R46, R76, R168) -/

def ewPlain (op : Nat) (o : Opd) : Bool :=
  let f := spFmt o.spec
  specOk o.spec && (op == 0x10 || !spTscale o.spec) &&
    (if op = 0x10 then fmtElem f
     else if op = 1 ∨ op = 3 then fmtElemArith f || f == fF32P
     else if ewIsAug op then f == fF32 || f == fF64
     else if op = 0x11 ∨ op = 0x12 then decide (f ≤ 9)
     else fmtElemArith f)
def ewFmtOk (a : List Byte) : Bool :=
  let op := ewOp a
  let fs := (ewUsed a).map (fun o => spFmt o.spec)
  (if ewIntIn op then (ewX a).spec == 0 else ewPlain op (ewX a)) && (!ewTwo op || ewPlain op (ewY a)) &&
    (!(ewThree op || ewIsAug op) || ewPlain op (ewZ a)) && (if ewIntOut op then (ewOut a).spec == 0 else ewPlain op (ewOut a)) &&
    (!(op == 1 || op == 3) || !fs.contains fF32P || fs.all (fun f => f == fF32 || f == fF32P))
def checkElem (s : State) (d a : List Byte) : Option Rej :=
  if isKernel d a then
    firstRej [fun _ => rejIf (decide (5 ≤ ewRm a)) (rejTarget d eBAD_FORMAT), fun _ => rejRanges s [(leAt a 0x10 8, 0)]]
  else firstRej [fun _ => rejIf (decide (5 ≤ ewRm a) || !ewFmtOk a) (rejTarget d eBAD_FORMAT), fun _ => rejRanges s (ewRanges d a)]

/-! ### Order 9: the other families -/

/-- R23, R207, R534. -/
def checkCopy (s : State) (d a : List Byte) : Option Rej :=
  let win := nbits (leAt a 0 4) 5 0
  let host := dFam d == 3 && dVar d == 3
  let off := if nbit (leAt a 0 4) 8 then cpSrc a else cpDst a
  firstRej [fun _ => rejIf (host && !hwValid s win) (rejTarget d eBAD_DESC),
    fun _ => rejIf (host && decide (hwLen s win < off + cpLen a)) (rejAddr eADDR_RANGE off),
    fun _ => rejRanges s (copyRanges d a),
    fun _ => rejIf (dFam d == 4 && dVar d == 0 && firnTouches s (cpDst a) (cpLen a)) (rejAddr eFIRN_ACCUM (cpDst a))]
/-- R219, R220. -/
def checkPack (s : State) (d a : List Byte) : Option Rej :=
  let r := leAt a 0 8
  let n := leAt a 8 8
  firstRej [fun _ => rejRanges s ([(r, n)] ++ (if dVar d = 2 ∨ dVar d = 3 then [(leAt a 0x10 8, leAt a 0x18 8)] else [])),
    fun _ => rejIf (!(List.range 16).any (fun k => frEnabled s k && decide (frBase s k ≤ r ∧ r + max n 1 ≤ frBase s k + frLen s k))) (rejAddr eFIRN_REGION r)]
/-- R241, R263. -/
def checkUpd (s : State) (d a : List Byte) : Option Rej :=
  firstRej [fun _ => rejIf (!rbit s rUPD_CTRL 0) (rejUpd eUPD_DISABLED 0 (if dFam d = 0xD then 0 else uStep a) []),
    fun _ => rejRanges s ([(uList a, 4 * uCount a)] ++ (if dFam d = 0xD then [(uResult a, 16 * uCount a)] else []))]
/-- R351, R365. -/
def checkCol (s : State) (d a : List Byte) : Option Rej :=
  let fam := dFam d
  let v := dVar d
  let gid := cGroup fam a
  match groupEntry s gid with
  | none => rejTarget d eBAD_FLOE
  | some i =>
    let st := colSteps s i (cAxes a)
    let sh := shardOf (0, cSize a) st
    let z := cEsz v a
    let dst := if v = 1 then (if cShardAt a then cDst a + sh.1 * z else cDst a, (sh.2 - sh.1) * z)
      else if v = 3 then (cDst a, cSize a * ((st.head?).elim 1 (·.n)))
      else (cDst a, cSize a * z)
    let moves := fam == 5 && v != 5
    firstRej [fun _ => rejIf (fam == 5 && cBrootEn a && !inBox s i (cBroot a)) (rejTarget d eBAD_DESC),
      fun _ => rejIf (moves && cAccum a && firnTouches s dst.1 dst.2) (rejAddr eFIRN_ACCUM dst.1),
      fun _ => rejIf moves (rejRanges s ((if v = 4 && !casts s i a then [] else [srcRange s i v a]) ++ [dst])),
      fun _ => rejIf (!rbit s rCOL_CTRL 0) (some ⟨eCOL_DISABLED, objOf 5 (gid * 2 ^ 32 + rn s (gReg i rG_SEQ) % 2 ^ 32), some winCol, []⟩)]
/-- R351: at level 4, GROUP is 0 or TARGET's group. -/
def checkColGroup (d a : List Byte) : Option Rej :=
  let f := floeOf (dTarget d)
  rejIf ((dFam d == 5 || dFam d == 7) && f.level == 4 && cGroup (dFam d) a != 0 && cGroup (dFam d) a != f.module) (rejTarget d eBAD_FLOE)
/-- RESULT of a FETCH_ADD or a TICKET (R274, R279). -/
def checkResult (s : State) (a : List Byte) (o : Nat) : Option Rej :=
  rejIf (leAt a o 8 != 0) (rejRanges s [(leAt a o 8, 8)])
/-- R432: the states in which a variant may name a peer. -/
def peerAllows (var st : Nat) : Bool :=
  if var = 2 then st == psRECONNECTED
  else if var = 3 then st == psTHAWING
  else if var = 4 then st == psNEW || st == psRECONNECTED
  else [psNEW, psACTIVE, psMISSED, psISOLATED, psRECONNECTED, psSERVING, psLISTEN].contains st
/-- R433, R434, R442: the slot of the thaw snapshot that a MERGE, or a PEER_CTL that isolates, would take: a free one, where a peer that may come to
need it holds none. -/
def snapSlot (s : State) (v p : Nat) : Option Nat :=
  let mayNeed (q : Nat) : Bool := (pState s q == psACTIVE || pState s q == psMISSED) && decide (4 ≤ pThaw s q)
  if (v = 1 ∧ (validPeers s).any mayNeed) ∨ (v = 5 ∧ mayNeed p) then freeThaw s else none
/-- R411: the ranges that a SITE_ROUND uses for an entry: the entry, the base, and by variant the own and received buffers, the snapshot and the momentum. -/
def siteUses (s : State) (v r p t : Nat) : List (Nat × Nat) :=
  let e := (stGrp s t).count
  (stAddr s t, 128) :: (if !groupOk s (stGid s t) then [] else
    [(stF s t 0x08, 4 * e), (stF s t 0x10, 2 * e)] ++
    (if v = 0 then [(qOwn s t e r, qSize e)] else []) ++
    (if v = 1 then (qOwn s t e r, qSize e) :: (validPeers s).flatMap (fun q => [(qRecv s t e q r, qSize e), (qRecv s t e q (r + 2), qSize e)]) else []) ++
    (if v = 2 then [(stF s t 0x30 + pThaw s p * snapSize e, 6 * e)] else []) ++
    ((snapSlot s v p).elim [] (fun j => [(stF s t 0x30 + j * snapSize e, 6 * e)])) ++
    (if v = 2 ∨ v = 3 then [(stF s t 0x38, qSize e), (stF s t 0x40, qSize e)] else []) ++
    (if (v = 1 ∨ v = 4) ∧ rfld s rSXU_MERGE 31 30 = 2 then [(stF s t 0x18, 4 * e)] else []))
/-- R411, R420, R436, R568. -/
def checkSite (s : State) (d a : List Byte) : Option Rej :=
  let v := dVar d
  let r := srRound a
  let used := v != 5 || srCount a != 0
  let logs := (v == 1 || v == 3) && srCount a != 0
  let here := rangeMapped s.order (srList a) (4 * srCount a)
  let entries := (List.range (srCount a)).map (fun k => rd32 s (srList a + 4 * k))
  let res := if v = 1 then 768 else if v = 2 ∨ v = 3 then 32 else 0
  firstRej [fun _ => rejIf (!siteArgOk d a) (rejTarget d eBAD_DESC),
    fun _ => rejIf (used && here && entries.any (fun e => decide (2 ^ 24 ≤ e ∨ rn s rSXU_ST_COUNT ≤ e % 2 ^ 24))) (rejTarget d eBAD_DESC),
    fun _ => rejIf (!timeValid s) (rejTarget d eTIME_INVALID),
    fun _ => rejIf (!rbit s rSXU_CTRL 0 || morReplay s) (rejSite d a eSXU_DISABLED),
    fun _ => rejIf ((v == 0 && decide (deadlineAt s r ≤ siteNow s)) || (v == 1 && decide (openAt s (r + 1) ≤ siteNow s))) (rejSite d a eROUND_PASSED),
    fun _ => rejIf (decide (2 ≤ v) && !(pValid s (srPeer a) && peerAllows v (pState s (srPeer a)))) (rejSite d a ePEER_STATE),
    fun _ => rejRanges s ((if used then (srList a, 4 * srCount a) :: (if here then (srItems s a).flatMap (siteUses s v r (srPeer a)) else []) else []) ++
      (if logs then [(rn64 s rSXU_LOG_BASE_LO, siteLogSize)] else []) ++ (if res = 0 then [] else [(srResult a, res)]))]
/-- The ranges of a CIPHER command (R482, R488, R501). -/
def cipherRanges (d a : List Byte) : List (Nat × Nat) :=
  let v := dVar d
  let img := if ciWrapped a then 160 else 128
  (if v ≤ 1 ∨ v = 4 then [(ciAad a, ciAadLen a)] else if v = 7 then [(ciAad a, 48)] else []) ++
    (if v ≤ 4 then [(ciIn a, ciLen a)] else if v = 6 then [(ciIn a, img)] else []) ++
    (if v ≤ 2 ∨ v = 4 then [(ciOut a, ciLen a)] else if v = 5 then [(ciOut a, img)] else []) ++
    (if v ≤ 1 ∨ v = 3 ∨ (v = 4 ∧ ciFinal a ∧ !(ciInit a && ciSmode a == 2)) then [(ciTag a, 16)] else [])
/-- R489. -/
def checkCipher (s : State) (d a : List Byte) : Option Rej :=
  firstRej [fun _ => rejIf (!cipherArgOk d a) (rejTarget d eBAD_DESC),
    fun _ => rejRanges s (cipherRanges d a),
    fun _ => rejIf (!rbit s rCPH_CTRL 0) (rejCph d a eCPH_DISABLED),
    fun _ => rejIf (rbit s rCPH_ALARM 31) (rejCph d a eCIPHER_DOWN)]
/-- R172 order 9: the family's checks. -/
def checkFamily (s : State) (d a : List Byte) : Option Rej :=
  let fam := dFam d
  if fam = 1 then checkMat s d a else if fam = 2 then checkElem s d a else if fam = 3 ∨ fam = 4 then checkCopy s d a
  else if fam = 5 ∨ fam = 7 then checkCol s d a else if fam = 6 ∨ fam = 8 ∨ fam = 0xD then checkUpd s d a
  else if fam = 9 then (if dVar d = 1 then checkResult s a 0x18 else none) else if fam = 0xA then (if dVar d = 1 then checkResult s a 8 else none)
  else if fam = 0xC then checkPack s d a else if fam = 0xE then checkCipher s d a else if fam = 0xF then checkSite s d a else none

/-! ### Where each check is made (R172) -/

/-- Orders 4 and 5, at the module that executes the command. -/
def targetUnits (s : State) (d a : List Byte) : Option Rej := firstRej [fun _ => check4 s d, fun _ => check5 s d a]
/-- Orders 8 and 9, at the module that executes the command. -/
def targetFamily (s : State) (d a : List Byte) : Option Rej :=
  firstRej [fun _ => check8 s d, fun _ => checkCtr s d a, fun _ => checkFamily s d a, fun _ => checkGen s d a]
/-- The checks of a command or part that comes from another module. At the root of a group, where the group's waits are evaluated,
only its time and its counters are checked, and what the root itself executes. -/
def servedChecks (s : State) (d a : List Byte) : Option Rej :=
  if (floeOf (dTarget d)).level = 4 then
    firstRej [fun _ => check8 s d, fun _ => checkCtr s d a, fun _ => if dFam d = 9 ∨ dFam d = 0xA then checkFamily s d a else none]
  else firstRej [fun _ => targetUnits s d a, fun _ => targetFamily s d a]
/-- The checks of a command at the head of queue q. -/
def headChecks (s : State) (q : Nat) (d a : List Byte) (here : Bool) : Option Rej :=
  firstRej [fun _ => check123 s d, fun _ => if here then check4 s d else none, fun _ => rejIf (queueFenced s q) (rejTarget d eFLOE_FENCED),
    fun _ => if here then check5 s d a else none, fun _ => check6 s d, fun _ => check7 d a,
    fun _ => checkColGroup d a, fun _ => if here then targetFamily s d a else none]

end Sys2Proof.Machine
end

