-- ==== Sys2Proof/Machine/Queues.lean ====
section
/-! DEFINITION. Queues (R177–R185), dispatch (R172–R176), completion and failure (R29–R34, R174, R175), and commands and parts of other modules (R618). -/

namespace Sys2Proof.Machine

/-! ### Queue registers -/

/-- R581's stage of start-up, GLB's state code. -/
def stage (s : State) : Nat := blkCode s winGlb
def ringSlots (x : Queue) : Nat := 2 ^ x.log2
/-- R179: a queue that stops with no failed command: nothing more is dispatched, and a held head's waits end. -/
def stopQueue (s : State) (q err : Nat) : State :=
  let s := withdraw s (fun w => match w with | .head q' _ _ => q' == q | _ => false)
  settleQueue (putQ s q { getQ s q with headCmd := none, stopErr := err }) q
def effQTail (s : State) (q : Nat) (v : Word) : State :=
  let x := getQ s q
  if ringSlots x < (v - x.done).toNat then
    (if x.st = .active ∧ x.stopErr = 0 ∧ x.failedAt = none then
       stopQueue (reportErr s (qWin q) eQ_OVERRUN (objOf 1 (qFloe s q)) none []) q eQ_OVERRUN
     else s)
  else putQ s q { x with tail := v }
/-- R179: Q_TAIL written: new commands handed over, or the queue stopped with Q_OVERRUN. -/
def execQTailWrite (q : Nat) (v : Word) (s : State) : Host.Outcome State Fault Refusal := ok (if q < queueCount then effQTail s q v else s)

/-- R180: nothing dispatched and nothing waiting. -/
def queueIdle (s : State) (q : Nat) : Bool :=
  let x := getQ s q
  x.st == .active && x.head == x.tail && (queueJobs s q).isEmpty && x.headCmd.isNone
/-- DESIGN CHOICE (log entry 22): Q_STATE.ERR is cleared when the queue is enabled and when it is disabled. -/
def effQueueEnable (s : State) (q : Nat) (v : Word) : State :=
  let x := getQ s q
  if x.enable then
    (if wbit v 31 then s
     else if queueIdle s q || x.st == .stopped then putQ s q { x with enable := false, st := .disabled, err := 0, failedAt := none, stopErr := 0 }
     else s)
  else if wbit v 31 && decide (stage s < 3) then s
  else
    let x := { x with log2 := wbits v 19 16, compCtr := wbits v 15 0 }
    if wbit v 31 && decide (4 ≤ x.log2 ∧ x.log2 ≤ 12) then
      putQ s q { x with enable := true, st := .active, tail := 0, head := 0, done := 0, err := 0, headCmd := none, stopErr := 0, failedAt := none }
    else putQ s q x
/-- R179, R180, R547: Q_CFG written. -/
def execQueueEnable (q : Nat) (v : Word) (s : State) : Host.Outcome State Fault Refusal := ok (if q < queueCount then effQueueEnable s q v else s)

def effResume (s : State) (q : Nat) (skip : Bool) : State :=
  let x := getQ s q
  if x.st ≠ .stopped then s
  else
    match x.failedAt with
    | none => putQ s q { x with st := .active, head := x.done, err := 0, headCmd := none, stopErr := 0 }
    | some f =>
      if skip then
        let a := progAddr s q f.toNat
        let s := if rangeMapped s.order a 16 then storeNoted s (.core (qHart q)) (a + 4) (le32 (prSKIPPED * 2 ^ 28)) (qFloe s q) (some (qCmd s q f)) else s
        putQ s q { x with st := .active, head := f + 1, done := f + 1, err := 0, headCmd := none, failedAt := none, stopErr := 0 }
      else putQ s q { x with st := .active, head := f, err := 0, headCmd := none, failedAt := none, stopErr := 0 }
/-- R185: the queue dispatches again from the failed command. -/
def execResumeRetry (q : Nat) (s : State) : Host.Outcome State Fault Refusal := ok (effResume s q false)
/-- R185: the failed command is marked SKIPPED, and the queue dispatches from the next. -/
def execResumeSkip (q : Nat) (s : State) : Host.Outcome State Fault Refusal := ok (effResume s q true)

/-! ### At the head (R172, R173) -/

def slotAddr (x : Queue) (n : Word) : Nat := x.base.toNat + 64 * (n.toNat % 2 ^ x.log2)
/-- R36, R172: whether the waits of a command are evaluated at this module when it is at the head of its queue. -/
def waitsHere (s : State) (d : List Byte) : Bool := floeHere s (dTarget d)
/-- One wait of a command begun. -/
def beginOne (s : State) (d : List Byte) (which elapsed : Nat) (w : Waiter) : WaitSt × State :=
  if (if which = 0 then dW0 d else dW1 d) then
    beginWait s (dWmodule d which) (dWindex d which) (w64 (dThresh d which)) (dTimeout d which) elapsed w
  else (.met, s)
/-- R446, R505: the words of a refusal, with what SXU and CPH say of the command: its sequence number, and for CPH its queue's floe and the causes of an
alarm. -/
def rejInfo (s : State) (c : CmdName) (r : Rej) : List Nat :=
  if r.win = some winSxu then r.info.set 3 c.seq
  else if r.win = some winCph then ((r.info.set 1 c.seq).set 2 c.floe).set 3 (if r.err = eCIPHER_DOWN then rfld s rCPH_ALARM 3 0 else 0)
  else r.info
/-- A refusal reported. -/
def reportRej (s : State) (w : Nat) (c : CmdName) (r : Rej) : State := reportErr s (r.win.getD w) r.err r.obj (some c) (rejInfo s c r)
/-- A refused command is reported and stops its queue. -/
def rejectHead (s : State) (q : Nat) (r : Rej) : State :=
  let x := getQ s q
  failCommand (reportRej s (qWin q) (qCmd s q x.head) r) q x.head r.err
/-- R173: whether a command still waits. -/
def waitsMet (w0 w1 : WaitSt) : Bool := w0 == .met && w1 == .met
def timePassed (s : State) (d : List Byte) : Bool := decide (dNotBefore d ≤ siteNow s)
/-- The argument block of a descriptor, where it has one and its place is mapped. -/
def headArgs (s : State) (d : List Byte) : List Byte :=
  let n := argSize (dFam d) (dVar d)
  if n = 0 ∨ !rangeMapped s.order (dArgPtr d) n then [] else rdBytes s (dArgPtr d) n
/-- The drain descriptor and the group descriptor that the check of a command reads at the module of its floe, where they can be read (R118, R252). -/
def descReads (s : State) (d a : List Byte) : List (Nat × Nat) :=
  if !floeHere s (dTarget d) then []
  else (if dFam d = 1 ∧ leAt a 8 8 ≠ 0 then [(leAt a 8 8, 64)] else []) ++
    ((groupedAt d a).elim [] (fun o => if rbit s rUPD_CTRL 0 then [(gdAddr s (opdOf a o).group, 256)] else []))
def mappedOnly (s : State) (l : List (Nat × Nat)) : List (Nat × Nat) := l.filter (fun r => rangeMapped s.order r.1 r.2)
/-- R201: an uncorrectable word in them. -/
def descBad (s : State) (d a : List Byte) : Option Nat := (mappedOnly s (descReads s d a)).findSome? (fun r => badIn s r.1 r.2)
/-- They are read (R200). -/
def noteDescs (s : State) (m : MemSource) (d a : List Byte) : State := noteReads s m (mappedOnly s (descReads s d a))
/-- R210: whether one of some ranges is in a region that is initialising. -/
def anyBusy (s : State) (l : List (Nat × Nat)) : Bool := (mappedOnly s l).any (fun r => firnBusy s r.1 r.2)
def effAtHead (s : State) (q : Nat) : State :=
  let x := getQ s q
  if x.st ≠ .active ∨ x.stopErr ≠ 0 ∨ x.failedAt ≠ none ∨ x.headCmd ≠ none ∨ x.head = x.tail then s
  else
    let s := wake s
    let sa := slotAddr x x.head
    if anyBusy s [(sa, 64)] ∨ progWaits s (.queue q x.head.toNat) then s
    else if !rangeMapped s.order sa 64 || !rangeMapped s.order (progAddr s q x.head.toNat) 16 then
      rejectHead s q ⟨eADDR_RANGE, objOf 2 (sa % 2 ^ 48), none, []⟩
    else
      let d := rdBytes s sa 64
      let a := headArgs s d
      let own := [(sa, 64)] ++ (if a = [] then [] else [(dArgPtr d, argSize (dFam d) (dVar d))])
      if anyBusy s (own ++ descReads s d a) then s
      else
      match ((own.findSome? (fun r => badIn s r.1 r.2)).or (progBad s q x.head.toNat)).or (descBad s d a) with
      | some w => failCommand (reportUe s w (qFloe s q) (some (qCmd s q x.head))) q x.head (ueErr s w)
      | none =>
        let s := noteDescs (noteReads s (.core (qHart q)) own) (.core (qHart q)) d a
        match headChecks s q d a (waitsHere s d) with
        | some r => rejectHead s q r
        | none =>
          if waitsHere s d then
            let s := putQ s q { x with headCmd := some ⟨d, a, s.clock, .none, .none⟩ }
            let r0 := beginOne s d 0 0 (.head q x.head 0)
            let r1 := beginOne r0.2 d 1 0 (.head q x.head 1)
            let s := setHeadWait (setHeadWait r1.2 q x.head 0 r0.1) q x.head 1 r1.1
            if waitsMet r0.1 r1.1 && timePassed s d then s
            else writeProgress s q x.head.toNat prHELD 0 0 0
          else putQ s q { x with headCmd := some ⟨d, a, s.clock, .met, .met⟩ }
/-- R172, R173: the command at the head is checked in order, and its waits begin. -/
def execCommandAtHead (q : Nat) (s : State) : Host.Outcome State Fault Refusal := ok (effAtHead s q)

/-! ### Dispatch (R29, R36, R173, R174, R190) -/

/-- A job made from a command: its parts, its units, its generation's reader slot. DESIGN CHOICE (log entry 80): the drain descriptor is checked at the
head and read again here, where it is not checked again. -/
def makeJob (s : State) (ref : JobRef) (d a : List Byte) (arrived tag : Nat) (readers : Option (Nat × Nat)) : Job :=
  let served := match ref with | .remote _ _ => true | .queue _ _ => false
  let a := withBase s d a readers
  let dd := if dFam d = 1 ∧ floeHere s (dTarget d) then readDrain s a else []
  let ps := if ddFrozen dd then [] else partsOf s served d a
  { ref := ref, desc := d, args := a, st := if ps = [] then .worked else .running, w0 := .met, w1 := .met, arrived := arrived,
    parts := ps, total := unitTotal s d a, readers := readers, tag := tag, extra := dd, lastSent := s.clock, began := s.clock,
    rdCtr := readers.elim 0 (fun r => rd16 s (r.1 + 0xB0 + 2 * r.2)) }
/-- R33, R111: from the next dispatch decision on a fenced engine gets no part: a command whose floe is a fenced engine, or that is
sent to engine floes and finds none live, fails. -/
def fencedOut (s : State) (d a : List Byte) : Bool := floeHere s (dTarget d) && (check5 s d a).isSome
/-- R258, R366: a STEP_VOTE whose part this module does takes the pending flags as it is dispatched, and the last result is no longer valid. -/
def takeVote (s : State) (j : Job) : Job × State :=
  if dFam j.desc = 7 ∧ !jobAway j then
    ({ j with vote := rfld s rUPD_VOTE_PEND 3 0 }, rputBit (rputN s rUPD_VOTE_PEND 0) rUPD_VOTE_RES 31 false)
  else (j, s)
/-- R174: whether the queue may dispatch its head: the depth, and a FENCE's waiting before and behind it (R164). -/
def mayDispatch (s : State) (q : Nat) (d : List Byte) : Bool :=
  let x := getQ s q
  decide ((x.head - x.done).toNat ≤ qDepth q) && (queueJobs s q).all (fun j => dFam j.desc != 0xB) &&
    (dFam d != 0xB || x.head == x.done)
/-- Whether the units a command runs on may be given work: the module is not parked (R474). -/
def moduleRuns (s : State) : Bool := unparked s
/-- R370, R394: while a commit of COL is pending, no operation or group command of a group that it changes is dispatched. -/
def colHolds (s : State) (d a : List Byte) : Bool := commitPending s winCol && usesChanged s d a
def winThere (s : State) (w : Nat) : Bool := winPresent s.order w
def isCmdReq (r : CphReq) : Bool := match r with | .cmd _ _ => true | _ => false
/-- The CIPHER commands in the queue. -/
def cphCmds (s : State) : Nat := (s.cphQ.filter isCmdReq).length
def cphLatched (s : State) : Bool := rbit s rCPH_ALARM 31
def refreshCph (s : State) : State :=
  let s := rputN s rCPH_QUEUE (min 512 (s.cphQ.length - cphCmds s) * 65536 + min 63 s.cphWait.length * 1024 + cphCmds s)
  if winThere s winCph then setCode s winCph (if cphLatched s then 2 else if rbit s rCPH_CTRL 0 then 1 else 0) else s
/-- R492: a CIPHER command of the queued class reaches the engine: it enters the queue, or waits for an entry behind those that wait. While LATCHED
the engine admits none (R485). -/
def cphArrive (s : State) (ref : JobRef) : State :=
  match getJob s ref with
  | none => s
  | some j =>
    if dFam j.desc ≠ 0xE ∨ (4 ≤ dVar j.desc ∧ dVar j.desc ≤ 6) ∨ jobAway j ∨ cphLatched s then s
    else if s.cphWait = [] ∧ cphCmds s < 512 then refreshCph { s with cphQ := s.cphQ ++ [.cmd ref 0] }
    else refreshCph { s with cphWait := s.cphWait ++ [(ref, 0)] }
/-- A report of an executing module taken in (R618). -/
def reportedPart (s : State) (src ctag : Nat) : Option (Job × Nat × Part) :=
  match s.jobs.find? (fun j => j.tag == ctag && jobAway j && j.st == .running) with
  | none => none
  | some j =>
    match (List.range j.parts.length).find? (fun i => match getPart j i with | some x => partModule s x == src && x.cursor == 1 && !partOver x | none => false) with
    | some i => (getPart j i).map (fun x => (j, i, x))
    | none => none
/-- The counter that a FETCH_ADD or a TICKET adds to. -/
def fetchCtr (j : Job) : Nat × Nat := if dFam j.desc = 9 then (tkModule j.args, tkIndex j.args) else (sgModule j.args 0, sgIndex j.args 0)
/-- R618: RETIRED and COMMITTED so far, or the end of the command or part: with the final report its flags (R47) and a refused fetch-add
(R276) reach the dispatching queue. -/
def effReport (s : State) (pk : Pkt) : State :=
  match reportedPart s pk.src pk.ctag with
  | none => s
  | some (j, i, x) =>
    let err := leAt pk.payload 0 4
    let ret := leAt pk.payload 4 4
    let com := leAt pk.payload 8 4
    let last := (pk.aux[0]?).getD 0 = 1
    let fl := (pk.aux[1]?).getD 0
    let j := if last then { j with wrote := j.wrote ++ pk.aux.drop 2 } else j
    let s := putJob s (setPart j i { x with retired := ret, committed := com, lastReport := s.clock })
    let s := runProgress s j.ref
    let s := if fl / 32 = 1 then fetchRefused s j.ref (fetchCtr j).1 (fetchCtr j).2 err else s
    match flagBad s j.ref (fl % 32) with
    | some w => markFaulted (reportUe s w x.floe (some (jobCmd s j.ref))) j.ref i (ueErr s w)
    | none =>
      let s := orFlags s j.ref (fl % 32)
      if err ≠ 0 then markFaulted s j.ref i err
      else if last then markWorked s j.ref i
      else s
/-- A report sent to the module that sent the command; to this module itself it goes without a packet (R618). -/
def reportBack (s : State) (src ctag err retired committed : Nat) (last : Bool) (flags : Nat) (wrote : List Nat) : State :=
  let pk := rptPacket s src ctag err retired committed last flags wrote
  if src = myId s then effReport s pk else request s pk .report
/-- The command of a CMD packet taken in: checked against this module, and its waits begun. -/
def serveCmd (s : State) (pk : Pkt) : State :=
  let ref : JobRef := .remote pk.src pk.ctag
  let d := pk.payload.take 64
  let a := pk.payload.drop 64
  let t := newTag s
  let s := t.2
  let name := match pk.aux with | f :: q :: n :: _ => some (f, q, n) | _ => none
  -- R173, R287: the waits' time runs from when the command reached the head of its queue
  let age := (pk.aux[3]?).getD 0
  let j : Job := { ref := ref, desc := d, args := a, st := .held, arrived := s.clock - age, tag := t.1, total := unitTotal s d a, lastSent := s.clock,
                   name := name }
  match descBad s d a, servedChecks s d a with
  | some w, _ =>
    let s := { s with jobs := s.jobs ++ [{ j with st := .failed (ueErr s w) }] }
    reportUe s w (modFloe s) (some (jobCmd s ref))
  | none, some r =>
    let s := noteDescs { s with jobs := s.jobs ++ [{ j with st := .failed r.err }] } (.core 108) d a
    reportRej s winGlb (jobCmd s ref) r
  | none, none =>
    let s := noteDescs { s with jobs := s.jobs ++ [j] } (.core 108) d a
    let r0 := beginOne s d 0 age (.job pk.src pk.ctag 0)
    let r1 := beginOne r0.2 d 1 age (.job pk.src pk.ctag 1)
    setJobWait (setJobWait r1.2 ref 0 r0.1) ref 1 r1.1
/-- R618: the away parts whose module is this one are served here with no packet. -/
def serveOwn (s : State) (ref : JobRef) : State :=
  match getJob s ref with
  | none => s
  | some j0 =>
    (List.range j0.parts.length).foldl (fun s i =>
      match getJob s ref with
      | some j => match getPart j i with
        | some p =>
          if p.away && p.cursor == 0 && partModule s p == myId s && j.firstErr == 0 then
            serveCmd (putJob s (setPart j i { p with cursor := 1, lastReport := s.clock })) { cmdPacket s j p with src := myId s }
          else s
        | none => s
      | none => s) s
/-- A dispatched command's parts sent or served. -/
def startParts (s : State) (ref : JobRef) : State := serveOwn (sendParts s ref) ref
def effDispatchQueue (s : State) (q n : Nat) : State :=
  let x := getQ s q
  match x.headCmd with
  | none => s
  | some h =>
    if x.head.toNat ≠ n ∨ x.st ≠ .active ∨ x.stopErr ≠ 0 ∨ x.failedAt ≠ none ∨ !mayDispatch s q h.desc ∨ !moduleRuns s ∨ colHolds s h.desc h.args ∨
        progWaits s (.queue q n) ∨ anyBusy s (descReads s h.desc h.args) then s
    else
      let here := waitsHere s h.desc
      if here && (!waitsMet h.w0 h.w1 || !timePassed s h.desc) then s
      else if queueFenced s q ∨ fencedOut s h.desc h.args then rejectHead s q ⟨eFLOE_FENCED, objOf 1 (dTarget h.desc), none, []⟩
      else
        match descBad s h.desc h.args, (if here then genResolve s h.desc h.args else .ok none) with
        | some w, _ => failCommand (reportUe s w (qFloe s q) (some (qCmd s q x.head))) q x.head (ueErr s w)
        | none, .error r => rejectHead s q r
        | none, .ok readers =>
          let t := newTag (noteDescs s (.core (qHart q)) h.desc h.args)
          let v := takeVote t.2 (makeJob t.2 (.queue q n) h.desc h.args h.arrived t.1 readers)
          let j := v.1
          let s := { v.2 with jobs := v.2.jobs ++ [j] }
          let s := putQ s q { x with head := x.head + 1, headCmd := none }
          cphArrive (startParts (progressOf s j prRUNNING 0) j.ref) j.ref
/-- A served command dispatched: its parts come after those dispatched before (R380). -/
def putLast (s : State) (j : Job) : State := let t := dropJob s j.ref; { t with jobs := t.jobs ++ [j] }
def effDispatchServed (s : State) (src ctag : Nat) : State :=
  match getJob s (.remote src ctag) with
  | none => s
  | some j =>
    if j.st ≠ .held ∨ !waitsMet j.w0 j.w1 ∨ !timePassed s j.desc ∨ !moduleRuns s ∨ colHolds s j.desc j.args ∨
        anyBusy s (descReads s j.desc j.args) then s
    else if fencedOut s j.desc j.args then
      putJob (reportErr s winGlb eFLOE_FENCED (objOf 1 (dTarget j.desc)) (some (jobCmd s j.ref)) []) { j with st := .failed eFLOE_FENCED }
    else
      match descBad s j.desc j.args, (if (floeOf (dTarget j.desc)).level = 4 then .ok none else genResolve s j.desc j.args) with
      | some w, _ => putJob (reportUe s w (modFloe s) (some (jobCmd s j.ref))) { j with st := .failed (ueErr s w) }
      | none, .error r =>
        putJob (reportRej s winGlb (jobCmd s j.ref) r) { j with st := .failed r.err }
      | none, .ok readers =>
        let v := takeVote (noteDescs s (.core 108) j.desc j.args) { makeJob s j.ref j.desc j.args j.arrived j.tag readers with name := j.name }
        cphArrive (startParts (putLast v.2 v.1) j.ref) j.ref
/-- R173, R174, R187, R618: a command whose waits are met and whose time has come is dispatched: divided into its parts here, or sent
to the module that executes it. -/
def execCommandDispatch (j : JobRef) (s : State) : Host.Outcome State Fault Refusal :=
  ok (match j with
    | .queue q n => effDispatchQueue s q n
    | .remote src ctag => effDispatchServed s src ctag)

/-! ### A failed wait (R173) -/

def waitErr (w0 w1 : WaitSt) : Nat :=
  match w0, w1 with
  | .failed e, _ => e
  | _, .failed e => e
  | _, _ => 0
def effWaitTimeout (s : State) (ref : JobRef) : State :=
  match ref with
  | .queue q n =>
    (match (getQ s q).headCmd with
     | none => s
     | some h =>
       if (getQ s q).head.toNat = n ∧ waitErr h.w0 h.w1 ≠ 0 then failCommand s q (w32 n) (waitErr h.w0 h.w1) else s)
  | .remote src ctag =>
    (match getJob s ref with
     | none => s
     | some j =>
       if j.st = .held ∧ waitErr j.w0 j.w1 ≠ 0 then
         putJob (withdraw s (fun w => match w with | .job a b _ => a == src && b == ctag | _ => false)) { j with st := .failed (waitErr j.w0 j.w1) }
       else s)
/-- R173: a command whose wait has failed fails with the wait's error. -/
def execWaitTimeout (j : JobRef) (s : State) : Host.Outcome State Fault Refusal := ok (effWaitTimeout s j)

/-! ### Completion (R29, R174, R252, R294, R295) -/

/-- R141: the port that an ordered signal of a streaming command goes by, behind its data. -/
def signalVia (j : Job) (ordered : Bool) : Option Nat :=
  if ordered && dFam j.desc == 1 && !jobAway j && ddStream j.extra && j.total != 0 then some (ddPort j.extra) else none
def sendDescSignal (s : State) (j : Job) (q : Nat) (n : Word) (which : Nat) : State :=
  if (if which = 0 then dS0 j.desc else dS1 j.desc) then
    let m := dSmodule j.desc which
    let o := orderedSignal s j m
    sendSignal s m (dSindex j.desc which) 1 o (signalVia j o) j.tag (.sigOf q n which)
  else s
/-- Reply slots that a command's signals take. -/
def awaySignals (s : State) (j : Job) : Nat :=
  b2n (dS0 j.desc && dSmodule j.desc 0 != myId s) + b2n (dS1 j.desc && dSmodule j.desc 1 != myId s)
def canSignal (s : State) (j : Job) : Bool :=
  awaySignals s j == 0 || (!quiesced s clsREQ && decide (slotCount s + awaySignals s j ≤ 4096))
def effCompleteQueue (s : State) (q n : Nat) : State :=
  match getJob s (.queue q n) with
  | none => s
  | some j =>
    let x := getQ s q
    if j.st ≠ .worked ∨ x.done.toNat ≠ n ∨ !canSignal s j ∨ progWaits s j.ref then s
    else
      match progBad s q n with
      | some w => putJob (reportUe s w (qFloe s q) (some (jobCmd s j.ref))) { j with st := .failed (ueErr s w) }
      | none =>
        let s := releaseReader s j
        let s := dropJob (journalCommit s j (some q)) j.ref
        let s := sendDescSignal (sendDescSignal s j q (w32 n) 0) j q (w32 n) 1
        let s := raiseHere s x.compCtr 1 (orderedSignal s j (myId s))
        let s := writeProgress s q n prCOMPLETE 0 (doneUnits j) (doneUnits j)
        let x := getQ s q
        settleQueue (putQ s q { x with done := x.done + 1 }) q
def effCompleteServed (s : State) (src ctag : Nat) : State :=
  match getJob s (.remote src ctag) with
  | none => s
  | some j =>
    if j.st ≠ .worked ∨ (src ≠ myId s ∧ !canRequest s) then s
    else
      let s := journalCommit (releaseReader s j) j none
      let w := writesOn s j
      reportBack (dropJob s j.ref) src ctag 0 (doneUnits j) (doneUnits j) true j.flags w
/-- R29, R174: a command that has done its work completes, in its queue's order: reader count, signals, completion counter, progress
record. One served for another module is reported to it (R618). -/
def execCommandComplete (j : JobRef) (s : State) : Host.Outcome State Fault Refusal :=
  ok (match j with
    | .queue q n => effCompleteQueue s q n
    | .remote src ctag => effCompleteServed s src ctag)

def effFailQueue (s : State) (q n : Nat) : State :=
  match getJob s (.queue q n) with
  | none => s
  | some j =>
    match j.st with
    | .failed e =>
      let x := getQ s q
      (match x.failedAt with
       | some f => if aheadOf x f.toNat < aheadOf x n then settleQueue s q else failCommand s q (w32 n) e
       | none => failCommand s q (w32 n) e)
    | _ => settleQueue s q
def effFailServed (s : State) (src ctag : Nat) : State :=
  match getJob s (.remote src ctag) with
  | none => s
  | some j =>
    match j.st with
    | .failed e =>
      if src = myId s ∨ canRequest s then reportBack (dropJob s j.ref) src ctag e (jobRetired j) (jobCommitted j) true j.flags [] else s
    | _ => s
/-- R175, R618: a failed command stops its queue, or is reported to the module that sent it. -/
def execCommandFail (j : JobRef) (s : State) : Host.Outcome State Fault Refusal :=
  ok (match j with
    | .queue q n => effFailQueue s q n
    | .remote src ctag => effFailServed s src ctag)

/-! ### Parts of split commands (R29, R31) -/

def effPartComplete (s : State) (ref : JobRef) (p : Nat) : State :=
  match getJob s ref with
  | none => s
  | some j => match getPart j p with
    | none => s
    | some x => if x.st = .worked then closeJob (putJob s (setPart j p { x with st := .done })) ref else s
/-- R29: a part completes; with the last, its command has done its work. -/
def execPartComplete (j : JobRef) (p : Nat) (s : State) : Host.Outcome State Fault Refusal := ok (effPartComplete s j p)
def effPartFail (s : State) (ref : JobRef) (p : Nat) : State :=
  match getJob s ref with
  | none => s
  | some j => match getPart j p with
    | none => s
    | some x =>
      match x.st with
      | .faulted e =>
        let j := setPart j p { x with st := .failed e }
        let j := { j with firstErr := if j.firstErr = 0 then e else j.firstErr,
                          parts := j.parts.map (fun y => if y.away && y.cursor == 0 then { y with st := .failed e } else y) }
        closeJob (putJob s j) ref
      | _ => s
/-- R31: a part fails; no further parts are sent, and its command fails once the sent parts have ended. -/
def execPartFail (j : JobRef) (p : Nat) (s : State) : Host.Outcome State Fault Refusal := ok (effPartFail s j p)

/-! ### CMD and RPT (R172, R618) -/

/-- R338, R541: whether the units that take commands are held in reset. -/
def cmdHeld (s : State) : Bool := s.resets.any (fun r => r.dom == 0 || r.dom == 4 || r.dom == 6)
def effCmd (pk : Pkt) (s : State) : State :=
  if pk.poisoned then poisonedReq s pk
  else if cmdHeld s then reply s pk stRESET
  else if (getJob s (.remote pk.src pk.ctag)).isSome then reply s pk stOK
  else reply (serveCmd (wake s) pk) pk stOK
/-- R618: a command or group part of another module arrives. -/
def execCmd (pk : Pkt) (s : State) : Host.Outcome State Fault Refusal :=
  -- R210: a command whose descriptors lie in a region that is initialising waits
  ok (if anyBusy s (descReads s (pk.payload.take 64) (pk.payload.drop 64)) then s else ejected s opCMD pk (effCmd pk))

def effRpt (pk : Pkt) (s : State) : State :=
  if pk.poisoned then poisonedReq s pk
  else if cmdHeld s then reply s pk stRESET
  else reply (effReport s pk) pk stOK
/-- R618: a part report: RETIRED and COMMITTED so far, or the end of the command or part. -/
def execRpt (pk : Pkt) (s : State) : Host.Outcome State Fault Refusal := ok (ejected s opRPT pk (effRpt pk))

def effReportTimer (s : State) (src ctag : Nat) : State :=
  match getJob s (.remote src ctag) with
  | none => s
  | some j =>
    if (j.st = .running ∨ j.st = .held) ∧ j.lastSent + rtoNs s / 2 ≤ s.clock ∧ (src = myId s ∨ canRequest s) then
      reportBack (putJob s { j with lastSent := s.clock }) src ctag 0 (jobRetired j) (jobCommitted j) false 0 []
    else s
/-- R618: a progress report every RTO/2 µs. -/
def execPartReportTimer (src ctag : Nat) (s : State) : Host.Outcome State Fault Refusal := ok (effReportTimer s src ctag)

def effReportTimeout (s : State) (ref : JobRef) (p : Nat) : State :=
  match getJob s ref with
  | none => s
  | some j => match getPart j p with
    | none => s
    | some x =>
      let m := partModule s x
      if j.st = .running ∧ x.away ∧ x.cursor = 1 ∧ x.st = .sent ∧ m ≠ myId s ∧ x.lastReport + rtoNs s ≤ s.clock then
        let s := reportErr s winTfr eREPLY_TIMEOUT (objOf 4 (m * 2 ^ 32 + j.tag)) (some (jobCmd s ref)) [j.tag, opCMD * 2 ^ 28 + m, 0, 0]
        markFaulted s ref p eREPLY_TIMEOUT
      else s
/-- R618: no report for RTO µs fails the command or part. -/
def execReportTimeout (j : JobRef) (p : Nat) (s : State) : Host.Outcome State Fault Refusal := ok (effReportTimeout s j p)

end Sys2Proof.Machine
end

