-- ==== Sys2Proof/Machine/Fold.lean ====
section
/-! DEFINITION. The array (R87–R117): operands as an engine reads them, folding into passes, stationarity, the pass itself, engine activity, checks, fencing and the self-test. -/

namespace Sys2Proof.Machine

/-! ### Operands (R57–R60, R69, R70, R96, R147, R193) -/

/-- R147: byte c of a tile's 128 column scales, tiles in the order of R93. -/
def colScaleAddr (base cols r c : Nat) : Nat := base + 128 * (r / 128 * cdiv cols 128 + c / 128) + c % 128
def colScaled (s8 : Nat) (v : FV) : FV := if s8 = 0xFF then .nan false else fvScale v ((s8 : Int) - 127)
/-- Where the bits of element (r, c) of an operand of rows × cols, as read, begin. -/
def opdAddr (o : Opd) (r c : Nat) : Nat :=
  if o.trans then (swzAddr o.base o.stride (fmtBits (spFmt o.spec)) c r).1 else (swzAddr o.base o.stride (fmtBits (spFmt o.spec)) r c).1
/-- The scale codes that element (r, c) of an operand is decoded with: its block's, or its column's (R58, R147). -/
def opdScaleAt (o : Opd) (rows cols r c : Nat) : List Nat :=
  let p := if o.trans then (cols, rows, c, r) else (rows, cols, r, c)
  if o.colscale then [colScaleAddr o.scale p.2.1 p.2.2.1 p.2.2.2]
  else if isBlockFmt (spFmt o.spec) then [o.scale + scaleIndex (spBdir o.spec) p.1 p.2.1 p.2.2.1 p.2.2.2]
  else []
/-- R69, R96, R147: element (r, c) of an operand of rows × cols, as read. -/
def opdElem (s : State) (o : Opd) (rows cols r c : Nat) : FV :=
  let p := if o.trans then (cols, rows, c, r) else (rows, cols, r, c)
  let v := swzElem s o o.base p.1 p.2.1 p.2.2.1 p.2.2.2
  if o.colscale then colScaled (rdByte s (colScaleAddr o.scale p.2.1 p.2.2.1 p.2.2.2)).toNat v else v
def elemA (s : State) (a : List Byte) (m k : Nat) : FV := opdElem s (mmA a) (mM a) (mK a) m k
def elemB (s : State) (a : List Byte) (k n : Nat) : FV := opdElem s (mmB a) (mK a) (mN a) k n

/-! ### Rate classes and folding (R71, R87, R90–R93) -/

/-- R71: classes from wide to narrow: binary32, 16-bit, 8-bit, 4-bit, 2-bit. -/
def rateClass (f : Nat) : Nat := if f = 0 then 0 else if f ≤ 3 then 1 else if f ≤ 5 then 2 else if f ≤ 7 then 3 else 4
def mmClass (a : List Byte) : Nat := min (rateClass (spFmt (mmA a).spec)) (rateClass (spFmt (mmB a).spec))
/-- R87: the packing factor, the slice and the pieces. -/
def packOf (cls : Nat) : Nat := if cls ≤ 1 then 1 else if cls = 2 then 2 else if cls = 3 then 4 else 8
def sliceOf (cls : Nat) : Nat := 128 * packOf cls
def piecesOf (cls : Nat) : Nat := if cls = 0 then 4 else 1

/-- R94: 1 WS, 2 OS, 3 IS. -/
def modeWS : Nat := 1
def modeOS : Nat := 2
def modeIS : Nat := 3
/-- An output block: first row, rows, first column, columns. -/
structure OutBlk where
  m0 : Nat
  mb : Nat
  n0 : Nat
  nb : Nat
  deriving DecidableEq, Repr
/-- R90: the output blocks of rows r0..r1 and columns c0..c1 in the order of the fold. -/
def foldBlocks (mode r0 r1 c0 c1 : Nat) : List OutBlk :=
  let bm := if mode = modeWS then 512 else 128
  let bn := if mode = modeIS then 512 else 128
  let rows := (List.range (cdiv (r1 - r0) bm)).map (fun i => (r0 + i * bm, min bm (r1 - (r0 + i * bm))))
  let cols := (List.range (cdiv (c1 - c0) bn)).map (fun i => (c0 + i * bn, min bn (c1 - (c0 + i * bn))))
  if mode = modeIS then cols.flatMap (fun c => rows.map (fun r => ⟨r.1, r.2, c.1, c.2⟩))
  else rows.flatMap (fun r => cols.map (fun c => ⟨r.1, r.2, c.1, c.2⟩))

/-! ### Stationarity (R94, R95) -/

/-- The source of an operand for engine e: kind and store, with its rate in bytes per cycle. -/
def sourceOf (o : Order) (e addr : Nat) : Nat × Nat :=
  if inHbm o addr then (0, 152)
  else if inEstore addr then (if (addr - estoreBase) / estoreSize = e then (1, 1024) else (1000 + (addr - estoreBase) / estoreSize, 64))
  else if (addr - cstoreBase) / cstoreSize = e / 8 then (2, 256) else (2000 + (addr - cstoreBase) / cstoreSize, 64)
/-- Bytes of an operand of n elements read t times, times 256 (a whole number). -/
def fetchBytes (spec n t q : Nat) : Nat := (n * fmtBits (spFmt spec) * 32 + (if isBlockFmt (spFmt spec) then n * 8 else 0)) * t * q
/-- The reduction lengths of the slices. -/
def sliceLens (k kc : Nat) : List Nat := (List.range (cdiv k kc)).map (fun i => min kc (k - i * kc))
/-- R95's compute term. -/
def computeCycles (mode cls r0 r1 c0 c1 k : Nat) : Nat :=
  let p := packOf cls
  let q := piecesOf cls
  let lens := (sliceLens k (sliceOf cls)).map (fun l => cdiv l p)
  let per (b : OutBlk) : Nat :=
    if mode = modeWS then (lens.map (fun l => max b.mb l)).sum * q
    else if mode = modeIS then (lens.map (fun l => max b.nb l)).sum * q
    else max (lens.sum * q) 128
  ((foldBlocks mode r0 r1 c0 c1).map per).sum
/-- R95's estimate less 268, times 256 · 19,456 (which every rate divides). -/
def modeTime (s : State) (e : Nat) (a : List Byte) (mode r0 r1 c0 c1 : Nat) : Nat :=
  let cls := mmClass a
  let q := piecesOf cls
  let mm := r1 - r0
  let nn := c1 - c0
  let ta := if mode = modeIS then cdiv nn 512 else cdiv nn 128
  let tb := if mode = modeWS then cdiv mm 512 else cdiv mm 128
  let ba := fetchBytes (mmA a).spec (mm * mK a) ta q
  let bb := fetchBytes (mmB a).spec (mK a * nn) tb q
  let sa := sourceOf s.order e (mmA a).base
  let sb := sourceOf s.order e (mmB a).base
  let f := if sa.1 = sb.1 then (ba + bb) * (19456 / sa.2) else max (ba * (19456 / sa.2)) (bb * (19456 / sb.2))
  max (computeCycles mode cls r0 r1 c0 c1 (mK a) * 256 * 19456) f
/-- R94: the mode of a part. -/
def pickMode (s : State) (e : Nat) (a : List Byte) (r0 r1 c0 c1 : Nat) : Nat :=
  let hint := nbits (leAt a 4 1) 1 0
  if hint ≠ 0 then hint
  else
    let tw := modeTime s e a modeWS r0 r1 c0 c1
    let ti := modeTime s e a modeIS r0 r1 c0 c1
    let tos := modeTime s e a modeOS r0 r1 c0 c1
    if tw ≤ ti ∧ tw ≤ tos then modeWS else if ti ≤ tos then modeIS else modeOS

/-! ### A part on its engine -/

/-- The rows and columns of the output that a part covers (R188). -/
def partR0 (x : Part) : Nat := 128 * x.lo
def partR1 (a : List Byte) (x : Part) : Nat := min (mM a) (128 * x.hi)
def partC0 (x : Part) : Nat := 128 * x.c0
def partC1 (a : List Byte) (x : Part) : Nat := min (mN a) (128 * x.c1)
def partMode (s : State) (a : List Byte) (x : Part) : Nat :=
  pickMode s (floeEngine (floeOf x.floe)) a (partR0 x) (partR1 a x) (partC0 x) (partC1 a x)
/-- R85: in Delub-exact mode the pieces of R70 do not exist: no F32 operand is covered. -/
def partBlocks (s : State) (a : List Byte) (x : Part) : List OutBlk :=
  foldBlocks (partMode s a x) (partR0 x) (partR1 a x) (partC0 x) (partC1 a x)
/-- R92: the passes of an output block. -/
def passCount (a : List Byte) : Nat := cdiv (mK a) (sliceOf (mmClass a)) * piecesOf (mmClass a)
/-- The blocks of a part that an engine has begun, where the part still runs. -/
def loadBlocks (s : State) (l : EngLoad) : List OutBlk :=
  match partLive s l.job l.part with
  | some (j, x) => partBlocks s j.args x
  | none => []
/-- A block in the drain bank with its part and its place, where the part still runs. -/
def blkOf (s : State) (y : EngBlk) : Option (Job × Part × OutBlk) :=
  match partLive s y.job y.part with
  | some (j, x) => ((partBlocks s j.args x)[y.block]?).map (fun b => (j, x, b))
  | none => none
def clearAcc (b : OutBlk) : List (Word × Word) := List.replicate (b.mb * b.nb) (0, 0)

/-! ### Activity (R99–R104) -/

def eReg (e o : Nat) : Nat := wreg (winEng e) o
/-- R115: ENG_RAMP in force: as it stood when the last output block began. -/
def rampWord (s : State) (e : Nat) : Word := (getE s e).ramp.getD (rget s (eReg e oENG_RAMP))
def rampLen (s : State) (e : Nat) : Nat := wbits (rampWord s e) 6 0
def rampGap (s : State) (e : Nat) : Nat := wbits (rampWord s e) 23 16
def actCode (x : Act) : Nat := match x with | .idle => 0 | .rampUp => 1 | .active => 2 | .hold => 3 | .rampDown => 4 | .selftest => 5
/-- R100–R102: the engine issues a vector. Stage k of RAMP_UP has activity 1/8, 1/4, 1/2; stage k of RAMP_DOWN 1/2, 1/4, 1/8. -/
def issueVector (s : State) (e : Nat) : State :=
  let x := getE s e
  match x.act with
  | .idle => putE s e (if rampLen s e = 0 then { x with act := .active } else { x with act := .rampUp, stage := 0 })
  | .hold => putE s e { x with act := .active }
  | .rampDown => putE s e { x with act := .rampUp, stage := 2 - x.stage }
  | _ => s
/-- R101: the engine begins RAMP_DOWN. -/
def beginDown (s : State) (e : Nat) : State :=
  putE s e (if rampLen s e = 0 then { getE s e with act := .idle } else { getE s e with act := .rampDown, stage := 0 })
/-- R101: an ACTIVE engine has nothing further to issue. -/
def nothingToIssue (s : State) (e : Nat) : State :=
  if (getE s e).act = .active then (if rampGap s e = 0 then beginDown s e else putE s e { getE s e with act := .hold }) else s
def testing (s : State) (e : Nat) : Bool := (getE s e).act == .selftest
/-- Whether a block in the bank has a pass to issue. -/
def unissued (s : State) (y : EngBlk) : Bool :=
  match blkOf s y with
  | some (j, _, _) => decide (y.issued < passCount j.args)
  | none => false
/-- R379: sources by their number after the one served last. -/
def turnAfter (turn src : Nat) : Nat := (src + 31 - (turn + 1) % 31) % 31
/-- A part's turn: the first begun part of its source that has an output block left. -/
def hasBlock (s : State) (l : EngLoad) : Bool := decide (l.next < (loadBlocks s l).length)
def firstOfSource (s : State) (ls : List EngLoad) (l : EngLoad) : Bool :=
  (ls.filter (fun k => k.src == l.src && hasBlock s k)).head? == some l
/-- R379: the part whose next output block begins, of the source whose turn it is. -/
def nextTurn (s : State) (e : Nat) : Option EngLoad :=
  let y := getE s e
  let c := y.loads.filter (firstOfSource s y.loads)
  c.find? (fun l => c.all (fun k => decide (turnAfter y.turn l.src ≤ turnAfter y.turn k.src)))
/-- R143: the bytes that the drain's output buffer holds before passes stop (log entry 64). -/
def outBufSize : Nat := 65536
def bufFull (y : Engine) : Bool := decide (outBufSize ≤ (y.outBuf.map (fun w => w.bytes.length)).sum)
/-- Whether an output block may begin: a buffer of the bank is free, and no commit waits for a boundary of blocks (R115, R394). -/
def mayBegin (s : State) (e : Nat) : Bool :=
  decide ((getE s e).blks.length < 2) && !commitPending s (winEng e) && (nextTurn s e).isSome
/-- Whether the engine has a pass ready: a begun block's, or the first of a block that may begin. -/
def passReady (s : State) (e : Nat) : Bool :=
  !bufFull (getE s e) && ((getE s e).blks.any (unissued s) || mayBegin s e)
/-- R101: whether a vector comes without a pause: a pass is ready, or an output block waits only for a buffer of the bank to drain or for a commit to
be applied. DESIGN CHOICE (log entry 81): how long that takes is timing, and the engine stays ACTIVE for it. -/
def vectorsGoOn (s : State) (e : Nat) : Bool :=
  !bufFull (getE s e) && ((getE s e).blks.any (unissued s) || (nextTurn s e).isSome)
/-- R115: passes in the array. -/
def inflight (y : Engine) : Nat := (y.blks.map (fun b => b.flight.length)).sum
/-- R100: the cycles of a stage of RAMP_UP and its activity 1/d. -/
def upStage (len k : Nat) : Nat × Nat := if k = 0 then (len / 4, 8) else if k = 1 then (len / 4, 4) else (len / 2, 2)
def effRampUp (s : State) (e : Nat) : State :=
  let x := getE s e
  if x.act ≠ .rampUp then s
  else
    let n := upStage (rampLen s e) x.stage
    let s := rinc64 s (eReg e oENG_RAMPLOSS_LO) (n.1 - cdiv n.1 n.2)
    if x.stage < 2 then putE s e { x with stage := x.stage + 1 }
    else
      let s := putE s e { x with act := .active, stage := 0 }
      if vectorsGoOn s e then s else nothingToIssue s e
/-- R100: a stage of RAMP_UP ends. -/
def execRampUpStageEnd (e : Nat) (s : State) : Host.Outcome State Fault Refusal := ok (effRampUp s e)
/-- R101: GAP cycles of HOLD without a vector. -/
def execHoldEnd (e : Nat) (s : State) : Host.Outcome State Fault Refusal :=
  ok (if (getE s e).act = .hold then beginDown s e else s)
def effRampDown (s : State) (e : Nat) : State :=
  let x := getE s e
  if x.act ≠ .rampDown then s
  else if x.stage < 2 then putE s e { x with stage := x.stage + 1 } else putE s e { x with act := .idle, stage := 0 }
/-- R101: a stage of RAMP_DOWN ends. -/
def execRampDownStageEnd (e : Nat) (s : State) : Host.Outcome State Fault Refusal := ok (effRampDown s e)

/-! ### Fencing and the self-test (R110–R113) -/

/-- R581: the state code of an engine's window: 3 RESETTING, 2 SELFTEST, 1 FENCED, 0 AVAILABLE. -/
def refreshEng (s : State) (e : Nat) : State :=
  let resetting := s.resets.any (fun r => r.dom == 0 || r.dom == 4 || r.dom == 6 || (r.dom == 5 && (enginesUnder (floeOf r.floe)).contains e))
  setCode s (winEng e) (if resetting then 3 else if (getE s e).act = .selftest then 2 else if fenced s e then 1 else 0)
def setFence (s : State) (e : Nat) (b : Bool) : State := refreshEng (rputBit s (eReg e oENG_CTRL) 0 b) e
def effFenceEngine (s : State) (e : Nat) (v : Word) : State :=
  let s := rputBit s (eReg e oENG_CTRL) 3 (wbit v 3)
  let s := if commitPending s (winEng e) then rputBit s (eReg e hBLK_COMMIT_STAT) 4 true
    else shPut s (eReg e oENG_CTRL) (wput (shGet s (eReg e oENG_CTRL)) 2 2 (wbits v 2 2))
  if testing s e && !wbit v 0 then putE s e { getE s e with unfence := true }
  else setFence (putE s e { getE s e with unfence := false }) e (wbit v 0)
/-- R111, R113: ENG_CTRL written: the engine floe fenced or unfenced; CHK_EN goes to its shadow (R586). -/
def execFenceEngine (e : Nat) (v : Word) (s : State) : Host.Outcome State Fault Refusal := ok (if e < 96 then effFenceEngine s e v else s)
def effSelftestStart (s : State) (e : Nat) (v : Word) : State :=
  if !wbit v 31 || testing s e then s
  else if fenced s e && (getE s e).act == .idle then
    refreshEng (rputBit (putE s e { getE s e with act := .selftest }) (eReg e oENG_SELFTEST) 0 true) e
  else rputF s (eReg e oENG_SELFTEST) 3 2 3
/-- R113: ENG_SELFTEST written: the test starts, or is refused. -/
def execSelftestStart (e : Nat) (v : Word) (s : State) : Host.Outcome State Fault Refusal := ok (if e < 96 then effSelftestStart s e v else s)
def effSelftestEnd (s : State) (e : Nat) (failing : Option (Nat × Nat)) : State :=
  if !testing s e then s
  else
    let r := eReg e oENG_SELFTEST
    let s := rputBit s r 0 false
    let s := match failing with
      | none => rputF s r 3 2 1
      | some (row, col) => rputF (rputF (rputF s r 3 2 2) r 23 16 row) r 15 8 col
    let x := getE s e
    let s := putE s e { x with act := .idle, unfence := false }
    if x.unfence then setFence s e false else refreshEng s e
/-- R113: the self-test ends with PASS, or with FAIL and the lowest failing cell. -/
def execSelftestEnd (e : Nat) (failing : Option (Nat × Nat)) (s : State) : Host.Outcome State Fault Refusal :=
  ok (effSelftestEnd s e failing)

/-! ### A part begins -/

/-- R379: the source of a part: the queues of the engine floe (0, 1), its cluster (2–5), its die (6–13) and its module (14–29), and one
for every other queue and every command of another module. -/
def sourceOfPart (ref : JobRef) (e : Nat) : Nat :=
  match ref with
  | .queue q _ =>
    if q < 192 then (if q / 2 = e then q % 2 else 30)
    else if q < 240 then (if (q - 192) / 4 = e / 8 then 2 + q % 4 else 30)
    else if q < 256 then (if (q - 240) / 8 = e / 48 then 6 + q % 8 else 30)
    else if q < 272 then 14 + (q - 256) else 30
  | .remote _ _ => 30
def effMatmul (s : State) (ref : JobRef) (p : Nat) : State :=
  match freshOf s ref p 1 0 with
  | none => s
  | some (j, x) =>
    let e := floeEngine (floeOf x.floe)
    let y := getE s e
    if partBlocks s j.args x = [] then markWorked s ref p
    else putE (putJob s (setPart j p { x with st := .busy })) e { y with loads := y.loads ++ [⟨ref, p, sourceOfPart ref e, 0⟩] }
/-- R89, R90: a MATMUL part begins on its engine: it is folded into passes. -/
def execMatmul (j : JobRef) (p : Nat) (s : State) : Host.Outcome State Fault Refusal := ok (effMatmul s j p)

/-! ### A pass (R70–R73, R91) -/

/-- R70: whether an operand's format is split into pieces. -/
def isF32 (o : Opd) : Bool := spFmt o.spec == 0
/-- R70: the hi (1) or lo (0) piece of an element: a lo piece that is zero forms no product. -/
def pieceOf (split : Bool) (hi : Bool) (v : FV) : Option FV :=
  if split then (let q := splitF32 v; if hi then some q.1 else if fvIsZero q.2 then none else some q.2)
  else if hi then some v else none
/-- One product of a pass, where both of its pieces exist. -/
def macStep (s : State) (a : List Byte) (pc m n k : Nat) (acc : Word × Word) : Word × Word :=
  if mmClass a = 0 then
    match pieceOf (isF32 (mmA a)) (decide (2 ≤ pc)) (elemA s a m k), pieceOf (isF32 (mmB a)) (pc % 2 == 1) (elemB s a k n) with
    | some x, some y => accStep acc (prodF32 x y)
    | _, _ => acc
  else accStep acc (prodF32 (elemA s a m k) (elemB s a k n))
/-- Slice and piece of a pass: first index, length, piece. -/
def passSlice (a : List Byte) (i : Nat) : Nat × Nat × Nat :=
  let q := piecesOf (mmClass a)
  let k0 := i / q * sliceOf (mmClass a)
  (k0, min (sliceOf (mmClass a)) (mK a - k0), i % q)
/-- R91: every pair of the block receives the pass's products in increasing reduction index. -/
def passAcc (s : State) (a : List Byte) (b : OutBlk) (i : Nat) (acc : List (Word × Word)) : List (Word × Word) :=
  let sl := passSlice a i
  acc.zipIdx.map (fun q =>
    (List.range sl.2.1).foldl (fun pr t => macStep s a sl.2.2 (b.m0 + q.2 / b.nb) (b.n0 + q.2 % b.nb) (sl.1 + t) pr) q.1)
/-- R100: vectors that a pass issues. -/
def passVectors (a : List Byte) (mode : Nat) (b : OutBlk) (i : Nat) : Nat :=
  if mode = modeWS then b.mb else if mode = modeIS then b.nb else cdiv (passSlice a i).2.1 (packOf (mmClass a))

/-! ### Checksums (R106, R107) -/

/-- An operand's value in a pass, as F32: its piece where it has pieces; a piece that does not exist is 0. -/
def passA (s : State) (a : List Byte) (pc m k : Nat) : Word :=
  if mmClass a = 0 then ((pieceOf (isF32 (mmA a)) (decide (2 ≤ pc)) (elemA s a m k)).elim 0 (fun v => f32Of v)) else f32Of (elemA s a m k)
def passB (s : State) (a : List Byte) (pc k n : Nat) : Word :=
  if mmClass a = 0 then ((pieceOf (isF32 (mmB a)) (pc % 2 == 1) (elemB s a k n)).elim 0 (fun v => f32Of v)) else f32Of (elemB s a k n)
def f32Sum (l : List Word) : Word := l.foldl f32Add 0
/-- 2^(−n) as F32. -/
def f32TwoTo (n : Nat) : Word := f32Of (.fin false 1 (-(n : Int)))
/-- What one row or column check uses and compares: the elements of its line (k by k) with the sums across the other operand, the changes
it sums, and the sum of magnitudes after the pass. -/
structure CheckLine where
  xs : List Word
  sums : List Word
  mags : List Word
  ds : List Word
  after : List Word
  deriving DecidableEq, Repr
/-- R106's bound and test; R107: none where a value it uses is NaN or infinite. Sums run in increasing index (log entry 65). -/
def CheckLine.passes (c : CheckLine) (tol abs : Nat) : Option Bool :=
  let chk := f32Sum (c.xs.zip c.sums |>.map (fun q => f32Mul q.1 q.2))
  let mag := f32Sum (c.xs.zip c.mags |>.map (fun q => f32Mul (f32Abs q.1) q.2))
  let sd := f32Sum c.ds
  let sa := f32Sum (c.after.map f32Abs)
  let lim := f32Add (f32Mul (f32TwoTo tol) (f32Add mag sa)) (f32TwoTo abs)
  let used := c.xs ++ c.sums ++ c.mags ++ c.ds ++ c.after ++ [chk, mag, sd, sa, lim]
  if used.all f32Finite then some (!f32Lt lim (f32Abs (f32Sub sd chk))) else none
/-- R106, R107: the checks of a pass over every row and column of its block. DESIGN CHOICE (log entry 65): where several mismatch, the lowest row is
named, or the lowest column where no row does. -/
def passChecks (s : State) (tw : Word) (a : List Byte) (b : OutBlk) (i : Nat) (before after : List (Word × Word)) : PassRes :=
  let sl := passSlice a i
  let ks := (List.range sl.2.1).map (sl.1 + ·)
  let ms := List.range b.mb
  let ns := List.range b.nb
  let va (m k : Nat) : Word := passA s a sl.2.2 (b.m0 + m) k
  let vb (k n : Nat) : Word := passB s a sl.2.2 k (b.n0 + n)
  let fl (l : List (Word × Word)) (m n : Nat) : Word := pairF32 ((l[m * b.nb + n]?).getD (0, 0))
  let d (m n : Nat) : Word := f32Sub (fl after m n) (fl before m n)
  let tol := wbits tw 7 0
  let abs := wbits tw 15 8
  let row (m : Nat) : Option Bool :=
    CheckLine.passes ⟨ks.map (va m), ks.map (fun k => f32Sum (ns.map (vb k))), ks.map (fun k => f32Sum (ns.map (fun n => f32Abs (vb k n)))),
      ns.map (d m), ns.map (fl after m)⟩ tol abs
  let col (n : Nat) : Option Bool :=
    CheckLine.passes ⟨ks.map (fun k => vb k n), ks.map (fun k => f32Sum (ms.map (fun m => va m k))),
      ks.map (fun k => f32Sum (ms.map (fun m => f32Abs (va m k)))), ms.map (fun m => d m n), ms.map (fun m => fl after m n)⟩ tol abs
  { skipR := ms.filter (fun m => row m == none), skipC := ns.filter (fun n => col n == none),
    bad := match ms.find? (fun m => row m == some false) with
      | some m => some (1, m)
      | none => (ns.find? (fun n => col n == some false)).map (fun n => (2, n)) }

/-- The indices of blocks of 32 that n places from i on touch. -/
def blockIdx (i n : Nat) : List Nat := (List.range (cdiv (i + n) 32 - i / 32)).map (i / 32 + ·)
/-- R194: the 32 × 32 blocks that hold rn rows and cn columns of an operand, as ranges, and the scale codes of those elements as one range. -/
def opdReads (o : Opd) (rows cols r0 rn c0 cn : Nat) : List (Nat × Nat) :=
  let sc := (List.range rn).flatMap (fun i => (List.range cn).flatMap (fun k => opdScaleAt o rows cols (r0 + i) (c0 + k)))
  (blockIdx r0 rn).flatMap (fun i => (blockIdx c0 cn).map (fun k => (opdAddr o (32 * i) (32 * k), 128 * fmtBits (spFmt o.spec)))) ++
    (match sc with
     | [] => []
     | x :: r => [(r.foldl min x, r.foldl max x + 1 - r.foldl min x)])
/-- What a pass fetches: the slices of its operands, with the first piece of a product of several. -/
def passReads (a : List Byte) (b : OutBlk) (i : Nat) : List (Nat × Nat) :=
  let sl := passSlice a i
  if sl.2.2 ≠ 0 then []
  else opdReads (mmA a) (mM a) (mK a) b.m0 b.mb sl.1 sl.2.1 ++ opdReads (mmB a) (mK a) (mN a) sl.1 sl.2.1 b.n0 b.nb
/-- R201: an uncorrectable word that a pass reads. -/
def passBad (s : State) (a : List Byte) (b : OutBlk) (i : Nat) : Option Nat :=
  if memSound s then none else (passReads a b i).findSome? (fun r => badIn s r.1 r.2)

/-- R93: the tiles of an output block, in row-major order, and the first of them. -/
def blockTiles (a : List Byte) (b : OutBlk) : List Nat :=
  (List.range (cdiv b.mb 128)).flatMap (fun i => (List.range (cdiv b.nb 128)).map (fun k => (b.m0 / 128 + i) * mTn a + b.n0 / 128 + k))
/-! ### Issue and completion of passes (R91, R99, R104–R109) -/

/-- A block replaced in the bank, taken out of it, or put behind the others. -/
def EngBlk.same (x y : EngBlk) : Bool := x.job == y.job && x.part == y.part && x.block == y.block
def putBlk (s : State) (e : Nat) (y : EngBlk) : State :=
  putE s e { getE s e with blks := (getE s e).blks.map (fun x => if x.same y then y else x) }
def dropBlk (s : State) (e : Nat) (y : EngBlk) : State := putE s e { getE s e with blks := (getE s e).blks.filter (fun x => !x.same y) }
/-- Parts that no longer run are let go. -/
def pruneEngine (s : State) (e : Nat) : State :=
  let y := getE s e
  let live (r : JobRef) (p : Nat) : Bool := (partLive s r p).isSome
  putE s e { y with loads := y.loads.filter (fun l => live l.job l.part), blks := y.blks.filter (fun b => live b.job b.part),
                    outBuf := y.outBuf.filter (fun w => live w.job w.part) }
/-- R101: where no vector comes the engine leaves ACTIVE. -/
def settleEngine (s : State) (e : Nat) : State := if vectorsGoOn s e then s else nothingToIssue s e
/-- The engine gives up a part: its blocks, its passes in flight and what it holds in the output buffer. -/
def dropLoad (s : State) (e : Nat) (ref : JobRef) (p : Nat) : State :=
  let y := getE s e
  settleEngine (putE s e { y with
    loads := y.loads.filter (fun l => !(l.job == ref && l.part == p)), blks := y.blks.filter (fun b => !(b.job == ref && b.part == p)),
    outBuf := y.outBuf.filter (fun w => !(w.job == ref && w.part == p)) }) e
/-- R108, R109, R116, R123: a mismatch: the block starts again once, its passes in flight discarded, or the command fails with MX_CHECK. -/
def mismatch (s : State) (e : Nat) (y : EngBlk) (j : Job) (b : OutBlk) (pass kind idx : Nat) : State :=
  if y.runs = 0 then
    rinc (putE s e { getE s e with blks := (getE s e).blks.filter (fun x => !x.same y) ++
      [{ y with issued := 0, flight := [], acc := clearAcc b, runs := 1 }] }) (eReg e oENG_CHK_RETRY) 1
  else
    let s := rinc s (eReg e oENG_CHK_FAIL) 1
    let s := reportErr s (winEng e) eMX_CHECK (objOf 1 (engFloe s e)) (some (jobCmd s y.job))
      [(jobCmd s y.job).seq, (blockTiles j.args b).headD 0, pass * 65536 + kind, idx]
    let s := if rbit s (eReg e oENG_CTRL) 3 then setFence s e true else s
    dropLoad (markFaulted s y.job y.part eMX_CHECK) e y.job y.part
/-- A read of an engine that meets uncorrectable data fails its part (R202). -/
def engineUe (s : State) (e : Nat) (ref : JobRef) (p w : Nat) : State :=
  dropLoad (markFaulted (reportUe s w (engFloe s e) (some (jobCmd s ref))) ref p (ueErr s w)) e ref p
/-- R379, R115: the next output block begins, with the check and ramp settings of now. -/
def beginBlock (s : State) (e : Nat) : State :=
  let y := getE s e
  match nextTurn s e with
  | none => s
  | some l =>
    match (loadBlocks s l)[l.next]? with
    | none => s
    | some b =>
      let blk : EngBlk := { job := l.job, part := l.part, block := l.next, acc := clearAcc b, chkEn := rbit s (eReg e oENG_CTRL) 2,
                            tol := rget s (eReg e oENG_CHK_TOL) }
      putE s e { y with turn := l.src, ramp := some (rget s (eReg e oENG_RAMP)), loads := y.loads.map (fun k => if k = l then { l with next := l.next + 1 } else k),
                        blks := y.blks ++ [blk] }
/-- R91, R100: one pass of a block issued: its vectors counted, its products accumulated, its checks formed. At a fraction below 1 some of its vectors
are denied cycles (R466). -/
def issuePass (s : State) (e : Nat) (y : EngBlk) (j : Job) (x : Part) (b : OutBlk) : State :=
  match passBad s j.args b y.issued with
  | some w => engineUe (issueVector s e) e y.job y.part w
  | none =>
    let s := noteFetches (issueVector s e) e (passReads j.args b y.issued)
    let s := if s.gov.f < 64 then { s with gov := { s.gov with denied := true } } else s
    let acc := passAcc s j.args b y.issued y.acc
    let res := if y.chkEn then passChecks s y.tol j.args b y.issued y.acc acc else {}
    let s := rinc64 (rinc64 s (eReg e oENG_PASS_LO) 1) (eReg e oENG_BUSY_LO) (passVectors j.args (partMode s j.args x) b y.issued)
    putBlk s e { y with issued := y.issued + 1, acc := acc, flight := y.flight ++ [res] }
/-- One pass issued, of the block that forms or of the next one to begin. -/
def issueNext (s : State) (e : Nat) : State :=
  let s := if (getE s e).blks.any (unissued s) then s else beginBlock s e
  match (getE s e).blks.find? (unissued s) with
  | none => s
  | some y =>
    match blkOf s y with
    | some (j, x, b) => issuePass s e y j x b
    | none => s
/-- R99: passes issued while fewer than four are in flight. R104: none while the governor's f is 0. -/
def issuePasses : Nat → State → Nat → State
  | 0, s, _ => s
  | n + 1, s, e =>
    if decide (4 ≤ inflight (getE s e)) || !passReady s e || s.gov.f == 0 then s else issuePasses n (issueNext s e) e
/-- The oldest pass in flight completes, with the fault that its checkers met, where one did; that one is named before a mismatch that the checksums
show (DESIGN CHOICE, log entry 65). -/
def completePass (s : State) (e : Nat) (y : EngBlk) (r : PassRes) (chk : PassCheck) : State :=
  match blkOf s y with
  | none => s
  | some (j, _, b) =>
    let n := y.issued - y.flight.length
    let en := y.chkEn
    let s := rinc s (eReg e oENG_CHK_SKIP) (r.skipR.length + r.skipC.length)
    let y := { y with flight := y.flight.drop 1 }
    match chk with
    | .memUe w => engineUe { s with badWords := s.badWords ++ [⟨codeWord s.order w, false, false⟩] } e y.job y.part (codeWord s.order w)
    | .residue row col => mismatch (rinc s (eReg e oENG_RESIDUE) 1) e y j b n 3 (row * 256 + col)
    | .rowCheck row =>
      -- a check that CHK_EN switches off, or that R107 leaves out, says nothing
      if en && !r.skipR.contains row then mismatch s e y j b n 1 row else putBlk s e y
    | .colCheck col => if en && !r.skipC.contains col then mismatch s e y j b n 2 col else putBlk s e y
    | .clean =>
      match r.bad with
      | some (kind, idx) => mismatch s e y j b n kind idx
      | none => putBlk s e y
def effPass (s : State) (e : Nat) (chk : PassCheck) : State :=
  if testing s e then s
  else
    let s := pruneEngine s e
    let s := issuePasses 4 s e
    let s := match (getE s e).blks.find? (fun y => y.flight != []) with
      | some y => (match y.flight with | r :: _ => completePass s e y r chk | [] => s)
      | none => s
    settleEngine (issuePasses 4 s e) e
/-- R91, R99, R105–R109: passes are issued while fewer than four are in flight, the oldest completes with what its checks saw, and more are issued. -/
def execPass (e : Nat) (chk : PassCheck) (s : State) : Host.Outcome State Fault Refusal := ok (effPass s e chk)

end Sys2Proof.Machine
end

