-- ==== Sys2Proof/Machine/Drain.lean ====
section
/-! DEFINITION. The drain (R118–R153): the descriptor's fields, activation functions, the stages of an output element, row statistics, the overflow verdict, conversion, the writes of a block, streaming to a neighbour. -/

namespace Sys2Proof.Machine

/-! ### Activation functions (R124–R126) -/

def f32Inf : Word := 0x7F800000
def f32NInf : Word := 0xFF800000
def f32NZero : Word := 0x80000000
def f32NOne : Word := 0xBF800000
/-- max(z, 0) for a z that is not NaN. -/
def reluVal (z : Word) : Word := if f32Lt 0 z then f32Of (f32v z) else 0
/-- A result for an infinite input (R126): f(+∞) and f(−∞). -/
def actInf (code : Nat) (neg : Bool) : Word :=
  if neg then (if code = 1 ∨ code = 2 ∨ code = 6 ∨ code = 8 then 0 else if code = 7 then f32NOne else if code = 0 then f32NInf else f32NZero)
  else if code = 6 ∨ code = 7 then f32One else f32Inf
def derInf (code : Nat) (neg : Bool) : Word :=
  if neg then 0 else if code = 2 then f32Inf else if code = 6 ∨ code = 7 then 0 else f32One
/-- R124–R126: f(z). Codes 3–8 are within 2 ulp of the exact function; under DELUB the T5's algorithm for code 3 is not stated (a free
value), and ReLU and the infinities are as R124 and R126 give them. -/
def actVal (delub : Bool) (code : Nat) (z : Word) : Word :=
  if code = 0 then z
  else if f32IsNaN z then f32NaN
  else
    match f32v z with
    | .inf neg => actInf code neg
    | _ =>
      if code = 1 then reluVal z else if code = 2 then f32Mul (reluVal z) (reluVal z)
      else if delub then Config.delubFn code z else actApprox code z
def f32Two : Word := 0x40000000
/-- 2·√a rounded once. -/
def twoSqrt (a : Word) : Word :=
  match fvSqrt (f32v a) with
  | (v, st, _) => f32Of (fvScale v 1) st
/-- R124's forms of f′ from a: those of codes 6 and 7 within 2 ulp. -/
def derFromA (code : Nat) (a : Word) : Word :=
  if code = 1 then (if f32Lt 0 a then f32One else 0) else if code = 2 then twoSqrt a else derAApprox code a
/-- R124–R126, R145: f′ from the stash element, which holds z, or a where DSRC is 1. -/
def derVal (dsrc : Bool) (code : Nat) (x : Word) : Word :=
  if f32IsNaN x then f32NaN
  else
    match f32v x with
    | .inf neg => derInf code neg
    | _ => if dsrc then derFromA code x else if code = 1 then (if f32Lt 0 x then f32One else 0) else if code = 2 then f32Mul f32Two (reluVal x) else derApprox code x

/-! ### Delub-exact sums (R85) -/

/-- R85: a B16 subnormal flushed to zero of the same sign. -/
def flushB16 (c : Nat) : Nat := if c / 128 % 256 = 0 then c / 32768 * 32768 else c
def flushElem (f : Nat) (v : FV) : FV :=
  if f = fB16 then (match v with | .fin s m e => if e + Nat.log2 m < -126 then .fin s 0 0 else .fin s m e | w => w) else v
def pairUp : List Word → List Word
  | a :: b :: r => f32Add a b :: pairUp r
  | l => l
def treeSum : Nat → List Word → Word
  | 0, l => l.headD 0
  | n + 1, l => if l.length ≤ 1 then l.headD 0 else treeSum n (pairUp l)
/-- R85: chunks of 64 products, each added in F32 in increasing index, and their sums in a balanced pairwise tree. -/
def delubDot (s : State) (a : List Byte) (m n : Nat) : Word :=
  let fa := spFmt (mmA a).spec
  let fb := spFmt (mmB a).spec
  let chunks := (List.range (cdiv (mK a) 64)).map (fun c =>
    (List.range (min 64 (mK a - 64 * c))).foldl (fun acc t =>
      f32Of (fvAdd .rne (f32v acc) (fvMul (flushElem fa (elemA s a m (64 * c + t))) (flushElem fb (elemB s a (64 * c + t) n))).1).1) (0 : Word))
  treeSum chunks.length chunks

/-! ### Overlaps (R139, R195) -/

/-- A range of memory: first byte and size. -/
structure Zone where
  lo : Nat
  size : Nat
  deriving DecidableEq, Repr
def Zone.has (z : Zone) (x : Nat) : Bool := decide (z.lo ≤ x ∧ x < z.lo + z.size)
def Zone.meets (z y : Zone) : Bool := decide (0 < z.size ∧ 0 < y.size ∧ z.lo < y.lo + y.size ∧ y.lo < z.lo + z.size)
def zoneIf (b : Bool) (lo size : Nat) : Zone := ⟨lo, if b then size else 0⟩
def opdZones (o : Opd) (rows cols : Nat) : List Zone :=
  let r := if o.trans then cols else rows
  let c := if o.trans then rows else cols
  [⟨o.base, swzExtent (spFmt o.spec) r c o.stride⟩, ⟨o.scale, scaleBytes o r c⟩, zoneIf (spTscale o.spec) o.tscale 4]
def zOut (a dd : List Byte) : Zone := zoneIf (ddLocal dd) (mmC a).base (matOutExtent a)
def zOutS8 (a dd : List Byte) : Zone := zoneIf (ddLocal dd) (mmC a).scale (outScaleBytes a dd)
def zOutTs (a dd : List Byte) : Zone := zoneIf (spTscale (mmC a).spec && ddLocal dd) (mmC a).tscale (4 * (mTm a * mTn a))
def zStash (a dd : List Byte) : Zone := zoneIf (ddStashEn dd) (ddStash dd) (swzExtent (spFmt (ddStashFmt dd)) (mM a) (mN a) (denseStride (spFmt (ddStashFmt dd)) (mN a)))
def zResid (a dd : List Byte) : Zone := zoneIf (ddResidEn dd) (ddResid dd) (swzExtent (spFmt (ddResidFmt dd)) (mM a) (mN a) (denseStride (spFmt (ddResidFmt dd)) (mN a)))
def zRow (a dd : List Byte) : Zone := zoneIf (ddRowstat dd != 0) (ddRowstatP dd) (8 * (mM a * mTn a))
/-- R139's first row: something written overlaps an input. -/
def inputsHit (a dd : List Byte) : Bool :=
  let ins := opdZones (mmA a) (mM a) (mK a) ++ opdZones (mmB a) (mK a) (mN a) ++
    [zoneIf (ddBiasEn dd) (ddBias dd) (mN a * (if ddBiasB16 dd then 2 else 4)),
     zoneIf (nbit (ddMask dd) 0) (ddRowmask dd) (cdiv (mM a) 8), zoneIf (nbit (ddMask dd) 1) (ddColmask dd) (cdiv (mN a) 8)]
  [zOut a dd, zOutS8 a dd, zOutTs a dd, zStash a dd].any (fun z => ins.any (fun y => z.meets y))
/-- R139: the output coincides exactly with the residual. -/
def residExact (a dd : List Byte) : Bool :=
  ddResid dd == (mmC a).base && ddResidFmt dd == (mmC a).spec && (mmC a).stride == denseStride (spFmt (ddResidFmt dd)) (mN a)
/-- R195: the block rows of the output that cover an address. -/
def rowsCovering (a : List Byte) (x : Nat) : Nat :=
  let o := mmC a
  let wide := cdiv (mN a) 32 * 32 * (4 * fmtBits (spFmt o.spec))
  ((List.range (cdiv (mM a) 32)).filter (fun b => decide (o.base + b * 64 * o.stride ≤ x ∧ x < o.base + b * 64 * o.stride + wide))).length
/-- Whether what a MATMUL writes at an address is undefined (R139, R195). -/
def undefAt (a dd : List Byte) (x : Nat) : Bool :=
  let zs := [zOut a dd, zOutS8 a dd, zOutTs a dd, zStash a dd, zRow a dd, zResid a dd]
  let n := (zs.filter (fun z => z.has x)).length
  let n := if residExact a dd && (zOut a dd).has x && (zResid a dd).has x then n - 1 else n
  decide (2 ≤ n) || ((zOut a dd).has x && decide (2 ≤ rowsCovering a x))
/-- Undefined bytes replaced by free ones. -/
def freeBytes (n : Nat) (a dd : List Byte) (base : Nat) (bs : List Byte) : List Byte :=
  let all := inputsHit a dd
  bs.zipIdx.map (fun q => if all || undefAt a dd (base + q.2) then Config.freeByte n (base + q.2) else q.1)

/-! ### One element up to stage 9 (R121, R122) -/

/-- R60, R166: an input operand's tile scale. -/
def inScale (s : State) (o : Opd) : Option Word := if spTscale o.spec then some (w32 (rd32 s o.tscale)) else none
/-- The bias of column n; in Delub-exact mode a B16 subnormal is flushed (R85). -/
def biasAt (s : State) (dd : List Byte) (delub : Bool) (n : Nat) : Word :=
  if ddBiasB16 dd then b16ToF32 (if delub then flushB16 (rd16 s (ddBias dd + 2 * n)) else rd16 s (ddBias dd + 2 * n))
  else w32 (rd32 s (ddBias dd + 4 * n))
/-- An element of the residual or the stash: dense, in the output's orientation. -/
def denseVal (s : State) (base spec cols m n : Nat) : FV :=
  fmtDec (spFmt spec) (codeAt s (swzAddr base (denseStride (spFmt spec) cols) (fmtBits (spFmt spec)) m n) (fmtBits (spFmt spec)))
def denseElem (s : State) (base spec cols m n : Nat) : Word := f32Of (denseVal s base spec cols m n)
def keepBit (s : State) (p i : Nat) : Bool := nbit (rdByte s (p + i / 8)).toNat (i % 8)
/-- R150. -/
def kept (s : State) (dd : List Byte) (m n : Nat) : Bool :=
  (!nbit (ddMask dd) 0 || keepBit s (ddRowmask dd) m) && (!nbit (ddMask dd) 1 || keepBit s (ddColmask dd) n)

/-- An output element as the stages leave it: the value stashed, the value after stage 9, and the pair of an F32P output. -/
structure DrainElem where
  z : Word
  v : Word
  pr : Word × Word
  deriving DecidableEq, Repr
def mulScale (v : Word) (t : Option Word) : Word := match t with | some x => f32Mul v x | none => v
def pmulScale (v : Word × Word) (t : Option Word) : Word × Word := match t with | some x => pMul v (x, 0) | none => v
/-- Stages 1 to 9. -/
def drainElem (s : State) (a dd : List Byte) (delub : Bool) (acc : Word × Word) (m n : Nat) : DrainElem :=
  let ta := inScale s (mmA a)
  let tb := inScale s (mmB a)
  let bias := biasAt s dd delub n
  let res := denseVal s (ddResid dd) (ddResidFmt dd) (mN a) m n
  let res := f32Of (if delub then flushElem (spFmt (ddResidFmt dd)) res else res)
  if spFmt (mmC a).spec = fF32P then
    let p := pmulScale (pmulScale acc ta) tb
    let p := if ddBiasEn dd then pAdd p (bias, 0) else p
    let p := if ddResidEn dd then pAdd p (res, 0) else p
    let p := pOfPair p
    ⟨p.1, p.1, p⟩
  else
    let v := if delub then delubDot s a m n else pairF32 acc
    let v := mulScale (mulScale v ta) tb
    let v := if ddBiasEn dd then f32Add v bias else v
    let z := if ddResidEn dd then f32Add v res else v
    let v := if ddDact dd = 0 then z else f32Mul z (derVal (ddDsrc dd) (ddDact dd) (denseElem s (ddStash dd) (ddStashFmt dd) (mN a) m n))
    let v := actVal delub (ddAct dd) v
    ⟨if ddStashPost dd then v else z, v, (v, 0)⟩

/-- A block's elements, as a table by row and column of the whole output. -/
structure DrainBlk where
  b : OutBlk
  els : List DrainElem
  deriving DecidableEq, Repr
/-- A free F32 value at a position that no address takes. -/
def freeF32 (n k : Nat) : Word := w32 (leAt ((List.range 4).map (fun i => Config.freeByte n (2 ^ 64 + 4 * k + i))) 0 4)
/-- R139: every value computed from overlapped inputs is undefined (free values). -/
def freeElem (n k : Nat) : DrainElem := ⟨freeF32 n (4 * k), freeF32 n (4 * k + 1), (freeF32 n (4 * k + 2), freeF32 n (4 * k + 3))⟩
def drainBlk (s : State) (j : Job) (b : OutBlk) (acc : List (Word × Word)) : DrainBlk :=
  let free := inputsHit j.args j.extra
  ⟨b, acc.zipIdx.map (fun q =>
    if free then freeElem s.free q.2 else drainElem s j.args j.extra (dDelub j.desc) q.1 (b.m0 + q.2 / b.nb) (b.n0 + q.2 % b.nb))⟩
def DrainBlk.at (d : DrainBlk) (m n : Nat) : DrainElem := (d.els[(m - d.b.m0) * d.b.nb + (n - d.b.n0)]?).getD ⟨0, 0, (0, 0)⟩

/-! ### Tiles: scaling, overflow, conversion (R128–R131, R135, R146) -/

/-- A tile of the block: its number, rows m0.. and columns n0... -/
structure Tile where
  no : Nat
  m0 : Nat
  mb : Nat
  n0 : Nat
  nb : Nat
  deriving DecidableEq, Repr
def tilesOf (a : List Byte) (b : OutBlk) : List Tile :=
  (List.range (cdiv b.mb 128)).flatMap (fun i => (List.range (cdiv b.nb 128)).map (fun k =>
    ⟨(b.m0 / 128 + i) * mTn a + b.n0 / 128 + k, b.m0 + 128 * i, min 128 (b.mb - 128 * i), b.n0 + 128 * k, min 128 (b.nb - 128 * k)⟩))
def tileCells (t : Tile) : List (Nat × Nat) :=
  (List.range t.mb).flatMap (fun i => (List.range t.nb).map (fun k => (t.m0 + i, t.n0 + k)))
/-- R128: the applied scale of a tile after n recomputes. -/
def appliedScale (s : State) (a dd : List Byte) (t n : Nat) : Word :=
  f32Of (fvScale (f32v (w32 (rd32 s ((mmC a).tscale + 4 * t)))) (ddStep dd * n : Nat))

/-- The largest finite magnitude's code. -/
def maxCode (f : Nat) : Nat := if f = 2 then 0x7BFF else if f = 3 then 0x7F7F else if f = 4 then 0x7F else 0x7B
def signBit (f : Nat) : Nat := if f = 2 ∨ f = 3 then 0x8000 else 0x80
/-- R129: a finite value whose conversion exceeds the format's largest finite value. -/
def convOver (f : Nat) (v : FV) : Bool :=
  match v with
  | .fin _ m e =>
    if f = 4 then decide (0x7F < gridMag 3 7 0xFFFF m e)
    else if f = 2 ∨ f = 3 ∨ f = 5 then (match fmtDec f (fmtEnc f .rne (.fin false m e)).1 with | .inf _ => true | _ => false)
    else false
  | _ => false
/-- R129: step 4 of R64 before the clamp. -/
def blkOver (f : Nat) (ceil : Bool) (xs : List FV) : Bool :=
  let a := blkMax xs
  if a.1 = 0 ∨ xs.any (fun v => !fvFinite v) then false
  else
    let e0 := a.2 + Nat.log2 a.1 - blkE f
    decide (127 < (if ceil && !dyLe a.1 a.2 (blkM f) e0 then e0 + 1 else e0))

/-- What a tile is converted with: the data, whether it has TSCALE, and the scale applied. -/
structure TileCtx where
  f : Nat
  ceil : Bool
  bdir : Bool
  gcol : Bool
  delub : Bool
  rows : Nat
  cols : Nat
  d : DrainBlk
  t : Tile
  scale : Option Word
  deriving DecidableEq, Repr
/-- Stage 11 without column scales: the value converted. -/
def TileCtx.x (c : TileCtx) (m n : Nat) : Word :=
  let v := (c.d.at m n).v
  match c.scale with | some t => f32Div v t | none => v
def TileCtx.fv (c : TileCtx) (m n : Nat) : FV := f32v (c.x m n)
/-- The cells of the block (along BDIR) that holds (m, n). -/
def blkCells (bdir : Bool) (rows cols m n : Nat) : List (Nat × Nat) :=
  if bdir then (List.range (min 32 (rows - m / 32 * 32))).map (fun i => (m / 32 * 32 + i, n))
  else (List.range (min 32 (cols - n / 32 * 32))).map (fun i => (m, n / 32 * 32 + i))
def TileCtx.blk (c : TileCtx) (m n : Nat) : List FV := (blkCells c.bdir c.rows c.cols m n).map (fun q => c.fv q.1 q.2)
/-- R146: the column scale of column n of the tile. -/
def TileCtx.colS8 (c : TileCtx) (keep : Nat → Nat → Bool) (n : Nat) : Nat :=
  let all := ((List.range c.t.mb).map (fun i => c.t.m0 + i)).filter (fun m => keep m n)
  if all.any (fun m => !fvFinite (c.fv m n)) then 0xFF
  else
    let a := blkMax (all.map (fun m => c.fv m n))
    if a.1 = 0 then 0x7F
    else ((max (-127) (min 127 (a.2 + Nat.log2 a.1 - 14))) + 127 : Int).toNat
/-- R121, R146: an element of a column-scaled tile before its conversion: the division by its column's scale is one of F32. -/
def TileCtx.colVal (c : TileCtx) (s8 m n : Nat) : FV := f32v (f32Of (fvScale (c.fv m n) (127 - (s8 : Int))))
/-- Whether an element is saturated (R131, R146). -/
def TileCtx.satElem (c : TileCtx) (keep : Nat → Nat → Bool) (m n : Nat) : Bool :=
  if c.delub then false
  else if c.gcol then (let s8 := c.colS8 keep n; s8 != 0xFF && convOver c.f (c.colVal s8 m n))
  else if isBlockFmt c.f then
    blkOver c.f c.ceil (c.blk m n) && (match c.fv m n with | .fin _ x e => dyLt (blkM c.f) 127 x e | _ => false)
  else convOver c.f (c.fv m n)
/-- R129: whether the tile overflows. -/
def TileCtx.over (c : TileCtx) (keep : Nat → Nat → Bool) : Bool :=
  if c.gcol || c.delub then false
  else (tileCells c.t).any (fun q => keep q.1 q.2 && (if isBlockFmt c.f then blkOver c.f c.ceil (c.blk q.1 q.2) else convOver c.f (c.fv q.1 q.2)))
def satCode (f : Nat) (v : FV) : Nat := maxCode f + (if fvSign v then signBit f else 0)
/-- Stage 12: the code of an element. -/
def TileCtx.code (c : TileCtx) (keep : Nat → Nat → Bool) (m n : Nat) : Nat :=
  if c.f = fF32P then (let p := (c.d.at m n).pr; p.1.toNat + 2 ^ 32 * p.2.toNat)
  else if c.gcol then
    let s8 := c.colS8 keep n
    if s8 = 0xFF then 0
    else if convOver c.f (c.colVal s8 m n) then satCode c.f (c.colVal s8 m n)
    else (fmtEnc c.f .rne (c.colVal s8 m n)).1
  else if isBlockFmt c.f then
    let r := blkEnc c.f c.ceil (c.blk m n)
    (r.2[if c.bdir then m % 32 else n % 32]?).getD 0
  else if c.satElem keep m n then satCode c.f (c.fv m n)
  else
    let x := (fmtEnc c.f .rne (c.fv m n)).1
    if c.delub ∧ c.f = fB16 then flushB16 x else x
/-- The S8 codes of the tile with their places in the output's scale array. -/
def TileCtx.scales (c : TileCtx) (keep : Nat → Nat → Bool) : List (Nat × Nat) :=
  if c.gcol then (List.range c.t.nb).map (fun k => (128 * c.t.no + k, c.colS8 keep (c.t.n0 + k)))
  else if isBlockFmt c.f then
    let cells := (tileCells c.t).filter (fun q => if c.bdir then q.1 % 32 == 0 else q.2 % 32 == 0)
    cells.map (fun q => (scaleIndex c.bdir c.rows c.cols q.1 q.2, (blkEnc c.f c.ceil (c.blk q.1 q.2)).1))
  else []

/-! ### The bytes of a tile (R193, R194) -/

/-- A 32 × 32 block of b-bit codes as its 32 lines. -/
def packBlock (b : Nat) (code : Nat → Nat → Nat) : List Byte :=
  (List.range 32).flatMap (fun i => packBits b ((List.range 32).map (fun k => code i k)))
/-- The writes of a tile's element data: offsets from the base, and bytes. A block with nothing masked is written whole, its
padding as code 0; of another, the elements kept and the padding. -/
def tileWrites (rows cols stride b : Nat) (t : Tile) (keep : Nat → Nat → Bool) (code : Nat → Nat → Nat) : List (Nat × List Byte) :=
  let lb := 4 * b
  (List.range (cdiv t.mb 32)).flatMap (fun i => (List.range (cdiv t.nb 32)).flatMap (fun k =>
    let br := t.m0 / 32 + i
    let bc := t.n0 / 32 + k
    let off := br * 64 * stride + bc * 32 * lb
    let inside (m n : Nat) : Bool := decide (m < rows ∧ n < cols)
    let cells := (List.range 32).flatMap (fun y => (List.range 32).map (fun x => (y, x)))
    let cv (y x : Nat) : Nat := if inside (32 * br + y) (32 * bc + x) then code (32 * br + y) (32 * bc + x) else 0
    if cells.all (fun q => !inside (32 * br + q.1) (32 * bc + q.2) || keep (32 * br + q.1) (32 * bc + q.2)) then [(off, packBlock b cv)]
    else (cells.filter (fun q => !inside (32 * br + q.1) (32 * bc + q.2) || keep (32 * br + q.1) (32 * bc + q.2))).map (fun q =>
      (off + q.1 * lb + b * q.2 / 8, leBytes (cv q.1 q.2) (b / 8)))))

/-- R563: the checksum of a tile: its converted elements as R193 would store them, masked elements included. -/
def tileCrc (rows cols b : Nat) (t : Tile) (code : Nat → Nat → Nat) : Nat :=
  crcOf ((tileWrites rows cols (denseStride 0 cols) b t (fun _ _ => true) code).flatMap (·.2))

/-! ### Stash and row statistics (R127, R136, R137) -/

/-- R137: a stash code, and whether it was saturated. -/
def stashCode (f : Nat) (v : Word) : Nat × Bool :=
  match f32v v with
  | .inf neg => if f = 4 then (if neg then 0xFF else 0x7F, true) else ((fmtEnc f .rne (.inf neg)).1, false)
  | w => if convOver f w then (satCode f w, true) else ((fmtEnc f .rne w).1, false)

/-- IEEE maximum in F32. -/
def f32Max (a b : Word) : Word := w32 (opMinMax 0 .rne true false (f32v a) (f32v b)).1
/-- R127: the record of row m of a tile. -/
def rowRecord (s : State) (dd : List Byte) (d : DrainBlk) (t : Tile) (m : Nat) : Word × Word :=
  let vs := ((List.range t.nb).filter (fun k => kept s dd m (t.n0 + k))).map (fun k => (d.at m (t.n0 + k)).v)
  if ddRowstat dd = 3 then (vs.foldl f32Add 0, 0)
  else
    let x := vs.foldl f32Max f32NInf
    (x, if ddRowstat dd = 2 then vs.foldl (fun acc v => f32Add acc (let u := f32Sub v x; if f32IsNaN u then f32NaN else if u = f32NInf then 0 else expApprox u)) 0 else 0)

/-! ### Writing a block (R132, R140, R142, R148) -/

/-- Writes one after another, with the first uncorrectable word that stops one. -/
def writesFrom (put : State → Nat → List Byte → State × Option Nat) : List (Nat × List Byte) → State × Option Nat → State × Option Nat
  | [], r => r
  | w :: t, r =>
    let q := put r.1 w.1 w.2
    writesFrom put t (q.1, r.2.or q.2)
/-- The local writes of a block, each as (address, bytes); and those added. -/
def tileCtx (s : State) (j : Job) (d : DrainBlk) (recomp : List (Nat × Nat)) (t : Tile) : TileCtx :=
  let o := mmC j.args
  { f := spFmt o.spec, ceil := spCeil o.spec, bdir := spBdir o.spec, gcol := ddGcol j.extra, delub := dDelub j.desc,
    rows := mM j.args, cols := mN j.args, d := d, t := t,
    scale := if spTscale o.spec then some (appliedScale s j.args j.extra t.no ((recomp.find? (fun q => q.1 == t.no)).elim 0 (·.2))) else none }
/-- R128: the applied scale written back, to the array at `tb`. -/
def tileScale (c : TileCtx) (tb : Nat) : List (Nat × List Byte) :=
  match c.scale with | some t => [(tb + 4 * c.t.no, le32 t.toNat)] | none => []
/-- The parts of a tile's output image: element data from `base`, S8 codes from `sb`, the applied scale at `tb`. R147 writes 128 column
scales a tile and states none for a column beyond the output (free bytes). -/
def tileImage (s : State) (j : Job) (c : TileCtx) (base sb tb : Nat) : List (Nat × List Byte) :=
  let keep := kept s j.extra
  (tileWrites c.rows c.cols (mmC j.args).stride (fmtBits c.f) c.t keep (c.code keep)).map (fun w => (base + w.1, w.2)) ++
    (c.scales keep).map (fun q => (sb + q.1, [BitVec.ofNat 8 q.2])) ++
    (if c.gcol then (List.range (128 - c.t.nb)).map (fun k =>
      (sb + 128 * c.t.no + c.t.nb + k, [Config.freeByte s.free (2 ^ 65 + 128 * c.t.no + c.t.nb + k)])) else []) ++ tileScale c tb
/-- R148: the elements that an accumulate-write adds. -/
def tileAdds (s : State) (j : Job) (c : TileCtx) (base : Nat) : List (Nat × List Byte) :=
  let keep := kept s j.extra
  ((tileCells c.t).filter (fun q => keep q.1 q.2)).map (fun q => ((swzAddr base (mmC j.args).stride 32 q.1 q.2).1, le32 (c.code keep q.1 q.2)))
/-- R140: where the streamed image's scale arrays lie. -/
def remoteS8 (a dd : List Byte) : Nat := up256 (ddRemote dd + swzSize (mM a) (mmC a).stride)
def remoteTs (a dd : List Byte) : Nat := up256 (remoteS8 a dd + outScaleBytes a dd)

/-- The streamed writes of a block, tile by tile. -/
def streamWrites (s : State) (j : Job) (cs : List TileCtx) : List (Nat × Nat × List Byte) :=
  if ddStream j.extra then
    cs.flatMap (fun c => (tileImage s j c (ddRemote j.extra) (remoteS8 j.args j.extra) (remoteTs j.args j.extra)).map (fun w =>
      (c.t.no, w.1, if inputsHit j.args j.extra then freeBytes (s.free + 1) j.args j.extra w.1 w.2 else w.2)))
  else []
/-- Statistics and vote flags of a released block (R131, R135, R137, R150). DESIGN CHOICE (log entry 82): every block with such an element sets its flag,
the first of its command and, where a vote has taken the flag meanwhile, a later one again. -/
def drainStats (s : State) (e : Nat) (j : Job) (d : DrainBlk) (cs : List TileCtx) (streamed : Nat) : State :=
  let dd := j.extra
  let keep := kept s dd
  let cells := cs.flatMap (fun c => (tileCells c.t).map (fun q => (c, q)))
  let nonfin := (cells.filter (fun q => keep q.2.1 q.2.2 && !fvFinite (q.1.fv q.2.1 q.2.2))).length
  let masked := (cells.filter (fun q => !keep q.2.1 q.2.2)).length
  let sat := (cells.filter (fun q => keep q.2.1 q.2.2 && q.1.satElem keep q.2.1 q.2.2)).length
  let satTiles := (cs.filter (fun c => c.over keep || (tileCells c.t).any (fun q => keep q.1 q.2 && c.satElem keep q.1 q.2))).length
  let stash := if ddStashEn dd then (cells.filter (fun q => (stashCode (spFmt (ddStashFmt dd)) (d.at q.2.1 q.2.2).z).2)).length else 0
  let s := rinc (rinc s (eReg e oDRN_NONFIN) nonfin) (eReg e oDRN_OVF_SAT) satTiles
  let s := rinc (rinc s (eReg e oDRN_SAT_ELEM) (sat + stash)) (eReg e oDRN_STASH_SAT) stash
  let s := rinc64 (rinc64 s (eReg e oDRN_MASKED_LO) masked) (eReg e oDRN_STREAM_LO) streamed
  setVoteIf (setVoteIf s (ddNfVote dd && nonfin != 0) vfNONFINITE) (satTiles != 0 || stash != 0) vfOVERFLOW_SAT

/-- R132: everything a block writes here. -/
def localWrites (s : State) (j : Job) (d : DrainBlk) (cs : List TileCtx) : List (Nat × List Byte) :=
  let a := j.args
  let dd := j.extra
  let data := if !ddLocal dd then [] else if ddAccum dd then cs.flatMap (fun c => tileScale c (mmC a).tscale)
    else cs.flatMap (fun c => tileImage s j c (mmC a).base (mmC a).scale (mmC a).tscale)
  let stash := if ddStashEn dd then
      cs.flatMap (fun c => (tileWrites c.rows c.cols (denseStride (spFmt (ddStashFmt dd)) c.cols) (fmtBits (spFmt (ddStashFmt dd))) c.t (fun _ _ => true)
        (fun m n => (stashCode (spFmt (ddStashFmt dd)) (d.at m n).z).1)).map (fun w => (ddStash dd + w.1, w.2)))
    else []
  let rows := if ddRowstat dd ≠ 0 then
      cs.flatMap (fun c => (List.range c.t.mb).map (fun i =>
        let r := rowRecord s dd d c.t (c.t.m0 + i)
        (ddRowstatP dd + 8 * ((c.t.m0 + i) * mTn a + c.t.n0 / 128), le32 r.1.toNat ++ le32 r.2.toNat)))
    else []
  data ++ stash ++ rows
def accumWrites (s : State) (j : Job) (cs : List TileCtx) : List (Nat × List Byte) :=
  if ddAccum j.extra then cs.flatMap (fun c => tileAdds s j c (mmC j.args).base) else []
/-- R139: an accumulate-write, whose sum is undefined where ranges overlap. -/
def addFree (e n : Nat) (a dd : List Byte) (s : State) (x : Nat) (bs : List Byte) : State × Option Nat :=
  accumulateAs s (.engine e) x (.bytes (freeBytes n a dd x (accWords f32Add s x bs)))

/-- R562: the BLOCK record of a released block; its tiles lie in one tile column where it has at most 128 columns. -/
def drainJournal (s : State) (e : Nat) (j : Job) (b : OutBlk) (cs : List TileCtx) (recomp : List (Nat × Nat)) : State :=
  let keep := kept s j.extra
  let n (t : Nat) : Nat := (recomp.find? (fun q => q.1 == t)).elim 0 (·.2)
  journalBlock s (jobCmd s j.ref) e (ddStep j.extra) (if b.nb ≤ 128 then mTn j.args else 1)
    (cs.map (fun c => (c.t.no, n c.t.no % 4 + (if (tileCells c.t).any (fun q => keep q.1 q.2 && c.satElem keep q.1 q.2) then 4 else 0),
      tileCrc c.rows c.cols (fmtBits c.f) c.t (c.code keep))))

/-- R140: the streamed writes of a tile that follow one another in memory leave as one packet, of at most 8,192 bytes. -/
def joinWrites : List (Nat × Nat × List Byte) → List (Nat × Nat × List Byte)
  | [] => []
  | w :: r =>
    match joinWrites r with
    | v :: t => if w.1 = v.1 ∧ w.2.1 + w.2.2.length = v.2.1 ∧ w.2.2.length + v.2.2.length ≤ 8192 then (w.1, w.2.1, w.2.2 ++ v.2.2) :: t else w :: v :: t
    | [] => [w]
def effEngineTiles (y : EngBlk) (ts : List Nat) : List (Nat × Nat) := ts.zip (y.recomp ++ List.replicate ts.length 0)
/-- A part whose last block has left its engine. -/
def partDrained (s : State) (e : Nat) (ref : JobRef) (p : Nat) : State :=
  let y := getE s e
  if y.blks.any (fun b => b.job == ref && b.part == p) || y.loads.any (fun l => l.job == ref && l.part == p && hasBlock s l) then s
  else
    let s := putE s e { y with loads := y.loads.filter (fun l => !(l.job == ref && l.part == p)) }
    match partLive s ref p with
    | none => s
    | some (j, x) => if x.unacked = 0 then markWorked s ref p else putJob s (setPart j p { x with cursor := 1 })
/-- R143: whether a streamed write can leave: a reply slot, and at an UP port credit of the channel it takes there (R323, R326). -/
def canStream (s : State) (j : Job) (n : Nat) : Bool :=
  let p := ddPort j.extra
  canRequest s && (!portUp s p || hasCredit (getL s p) (2 * clsREQ + b2n (crossesDateline s p)) (cdiv (32 + n) 128))
/-- R140, R143: the output buffer's writes sent in order while they can leave. -/
def sendOut : Nat → State → Nat → State
  | 0, s, _ => s
  | n + 1, s, e =>
    match (getE s e).outBuf with
    | [] => s
    | w :: r =>
      match partLive s w.job w.part with
      | none => sendOut n (putE s e { getE s e with outBuf := r }) e
      | some (j, _) =>
        if !canStream s j w.bytes.length then s
        else
          sendOut n (request (putE s e { getE s e with outBuf := r })
            { op := opWR, dest := neighbour s (ddPort j.extra), addr := w64 w.addr, ctag := j.tag, payload := w.bytes, via := some (ddPort j.extra) }
            (.stream w.job w.part w.tile)) e
/-- R142: the streamed writes of a block go to the output buffer; a tile with none has retired with its local writes. -/
def sendStream (s : State) (e : Nat) (ref : JobRef) (p : Nat) (all : List Nat) (ws : List (Nat × Nat × List Byte)) : State :=
  match partLive s ref p with
  | none => s
  | some (j, x) =>
    let n (t : Nat) : Nat := (ws.filter (fun w => w.1 == t)).length
    let pend := ((all.filter (fun t => n t != 0)).map (fun t => (t, n t)))
    let s := putJob s (setPart j p { x with unacked := x.unacked + ws.length, pend := x.pend ++ pend })
    let s := runProgress (addUnits s ref (all.filter (fun t => n t == 0))) ref
    let s := putE s e { getE s e with outBuf := (getE s e).outBuf ++ ws.map (fun w => ⟨ref, p, w.1, w.2.1, w.2.2⟩) }
    sendOut (getE s e).outBuf.length s e
/-- R132: the write release of a block. -/
def releaseBlock (s : State) (e : Nat) (y : EngBlk) (j : Job) (b : OutBlk) (d : DrainBlk) (cs : List TileCtx) (recomp : List (Nat × Nat)) : State :=
  let sw := joinWrites (streamWrites s j cs)
  let lw := localWrites s j d cs
  let aw := accumWrites s j cs
  let f := takeFree (takeFree s).2
  let r := writesFrom (fun s x bs => storeBytes s (.engine e) x (freeBytes f.1 j.args j.extra x bs)) lw (f.2, none)
  let r := writesFrom (addFree e f.1 j.args j.extra) aw r
  match r.2 with
  | some w => engineUe r.1 e y.job y.part w
  | none =>
    let s1 := drainStats r.1 e j d cs ((sw.map (fun w => w.2.2.length)).sum)
    let s1 := drainJournal s1 e j b cs recomp
    let ts := blockTiles j.args b
    let s1 := dropBlk s1 e y
    let s1 := if ddStream j.extra then sendStream s1 e y.job y.part ts sw else runProgress (addUnits s1 y.job ts) y.job
    settleEngine (partDrained s1 e y.job y.part) e
/-- What the drain of a block reads: bias, residual, stash, bitmaps, tile scales. -/
def drainReads (j : Job) (b : OutBlk) : List (Nat × Nat) :=
  let dd := j.extra
  let dense (base spec : Nat) : List (Nat × Nat) :=
    (blockIdx b.m0 b.mb).flatMap (fun i => (blockIdx b.n0 b.nb).map (fun k =>
      ((swzAddr base (denseStride (spFmt spec) (mN j.args)) (fmtBits (spFmt spec)) (32 * i) (32 * k)).1, 128 * fmtBits (spFmt spec))))
  let bits (p i n : Nat) : Nat × Nat := (p + i / 8, cdiv (i + n) 8 - i / 8)
  let bw := if ddBiasB16 dd then 2 else 4
  (if ddBiasEn dd then [(ddBias dd + bw * b.n0, bw * b.nb)] else []) ++
    (if ddResidEn dd then dense (ddResid dd) (ddResidFmt dd) else []) ++ (if ddDact dd ≠ 0 then dense (ddStash dd) (ddStashFmt dd) else []) ++
    (if nbit (ddMask dd) 0 then [bits (ddRowmask dd) b.m0 b.mb] else []) ++ (if nbit (ddMask dd) 1 then [bits (ddColmask dd) b.n0 b.nb] else []) ++
    (if spTscale (mmA j.args).spec then [((mmA j.args).tscale, 4)] else []) ++ (if spTscale (mmB j.args).spec then [((mmB j.args).tscale, 4)] else []) ++
    (if spTscale (mmC j.args).spec then (blockTiles j.args b).map (fun t => ((mmC j.args).tscale + 4 * t, 4)) else [])
/-- R201: an uncorrectable word that the drain reads. -/
def drainBad (s : State) (j : Job) (b : OutBlk) : Option Nat :=
  if memSound s then none else (drainReads j b).findSome? (fun r => badIn s r.1 r.2)
/-- The drain of a block that has had its last pass. -/
def drainNow (s : State) (e : Nat) (y : EngBlk) (j : Job) (b : OutBlk) : State :=
  match drainBad s j b with
  | some w => engineUe s e y.job y.part w
  | none =>
    let s := noteReads s (.engine e) (drainReads j b)
    let ts := tilesOf j.args b
    let recomp := effEngineTiles y (ts.map (·.no))
    let d := drainBlk s j b y.acc
    let cs := ts.map (tileCtx s j d recomp)
    let keep := kept s j.extra
    let retry := cs.filter (fun c => c.over keep && c.scale.isSome && decide ((recomp.find? (fun q => q.1 == c.t.no)).elim 0 (·.2) < ddRetry j.extra))
    if retry ≠ [] then
      -- R130: the whole block runs again with larger scales for the tiles that overflowed
      rinc (putBlk s e { y with issued := 0, acc := clearAcc b, runs := y.runs + 1,
                                recomp := recomp.map (fun q => if retry.any (fun c => c.t.no == q.1) then q.2 + 1 else q.2) }) (eReg e oDRN_OVF_RECOMP) 1
    else releaseBlock s e y j b d cs recomp
/-- The engine's oldest block that is ready to drain: all its passes are complete. One that streams waits while the output buffer is full
(R143). -/
def drainReady (s : State) (e : Nat) : Option (EngBlk × Job × OutBlk) :=
  (getE s e).blks.findSome? (fun y =>
    match blkOf s y with
    | some (j, _, b) =>
      if y.issued = passCount j.args ∧ y.flight = [] ∧ !(ddStream j.extra && bufFull (getE s e)) then some (y, j, b) else none
    | none => none)
def effDrain (s : State) (e : Nat) (residue : Option (Nat × Nat)) : State :=
  let s := pruneEngine s e
  match drainReady s e with
  | some (y, j, b) =>
    match residue with
    | some (r, c) => settleEngine (mismatch (rinc s (eReg e oENG_RESIDUE) 1) e y j b (passCount j.args - 1) 3 (r * 256 + c)) e
    | none => drainNow s e y j b
  | none => s
/-- R121, R123, R130, R132: the drain of an output block: its stages, its overflow verdict, and its recompute or its write release. A
residue mismatch of its multipliers and adders counts as one of the block's last pass. -/
def execDrain (d : DrainEvt) (s : State) : Host.Outcome State Fault Refusal := ok (effDrain s d.engine d.residue)
def effDrainResume (s : State) (e : Nat) : State :=
  let s := pruneEngine s e
  settleEngine (sendOut (getE s e).outBuf.length s e) e
/-- R143: credit has returned: what the output buffer holds goes on. -/
def execDrainStreamResume (e : Nat) (s : State) : Host.Outcome State Fault Refusal := ok (effDrainResume s e)

end Sys2Proof.Machine
end

