-- ==== Sys2Proof/Machine/Elemwise.lean ====
section
/-! DEFINITION. ELEMWISE operations (R45–R48, R75, R76, R168): one element, one unit of 1,024, one part. -/

namespace Sys2Proof.Machine

/-! ### The argument block (R168) -/


/-! ### One element -/

/-- What an operation gives for one element: the code of OUT, the code of a second output, the value (for a block-scaled OUT), the flags. -/
structure EwRes where
  out : Nat
  z : Nat := 0
  v : FV := .nan false
  fl : Nat := 0
  deriving DecidableEq, Repr
def ofPair (r : Nat × Nat) : EwRes := { out := r.1, fl := r.2 }
/-- The pair of an F32P element (R75). -/
def pairAt (s : State) (base i : Nat) : Word × Word := (w32 (rd32 s (base + 8 * i)), w32 (rd32 s (base + 8 * i + 4)))
def pairCode (p : Word × Word) : Nat := p.1.toNat + 2 ^ 32 * p.2.toNat
/-- The value of an element of an input, an F32P pair as hi + lo exactly. -/
def ewVal (s : State) (o : Opd) (i : Nat) : FV :=
  if spFmt o.spec = fF32P then (let p := pairAt s o.base i; (fvAdd .rne (f32v p.1) (f32v p.2)).1) else linElem s o i
/-- A signalling NaN as an input (R48): of an F32P element, in either half. -/
def ewSNaN (s : State) (o : Opd) (i : Nat) : Bool :=
  if spFmt o.spec = fF32P then (let p := pairAt s o.base i; fvIsSNaN (f32v p.1) || fvIsSNaN (f32v p.2)) else fvIsSNaN (linElem s o i)
/-- The sign of an input element: a NaN's is the sign bit of its code (IEEE 754 copySign). -/
def ewNegative (s : State) (o : Opd) (i : Nat) : Bool :=
  match ewVal s o i with
  | .nan _ => nbit (linCode s o.base (spFmt o.spec) i) (fmtBits (spFmt o.spec) - 1)
  | v => fvSign v
def outFmt (a : List Byte) : Nat := spFmt (ewOut a).spec
/-- R76: F32 x as F32P is (x, +0). Of a value that F32 does not hold exactly the spec states no F32P (a free value, which R75 binds: hi is
fl(hi + lo), and lo is 0 where hi is not finite). -/
def toPair (v : FV) : Word × Word :=
  let x := f32Of v
  if fvIsNaN v then (f32NaN, 0)
  else if fvEq (f32v x) v then (x, 0)
  else pOfPair (Config.cvtPair (fmtEnc fF64 .rne v).1 0, Config.cvtPair (fmtEnc fF64 .rne v).1 1)
def ewPair (s : State) (o : Opd) (i : Nat) : Word × Word := if spFmt o.spec = fF32P then pairAt s o.base i else toPair (linElem s o i)
def usesPair (a : List Byte) : Bool := spFmt (ewX a).spec == fF32P || spFmt (ewY a).spec == fF32P || outFmt a == fF32P
/-- A pair as OUT's format. R76 gives a sum or a product of F32P as a sequence of F32 operations; whether their exceptions reach FPFLAGS is
not stated, and the model raises no flag for them (DESIGN CHOICE, log entry 61). -/
def pairOut (a : List Byte) (p : Word × Word) : EwRes :=
  if outFmt a = fF32P then { out := pairCode p } else { out := (fmtEnc (outFmt a) (if outFmt a = fF32 then .rne else ewRmOf a) (fvAdd .rne (f32v p.1) (f32v p.2)).1).1 }

def ewAdd (s : State) (a : List Byte) (i : Nat) : EwRes :=
  if usesPair a then pairOut a (pAdd (ewPair s (ewX a) i) (ewPair s (ewY a) i))
  else ofPair (opAdd (outFmt a) (ewRmOf a) (ewVal s (ewX a) i) (ewVal s (ewY a) i))
def ewSub (s : State) (a : List Byte) (i : Nat) : EwRes := ofPair (opSub (outFmt a) (ewRmOf a) (ewVal s (ewX a) i) (ewVal s (ewY a) i))
def ewMul (s : State) (a : List Byte) (i : Nat) : EwRes :=
  if usesPair a then pairOut a (pMul (ewPair s (ewX a) i) (ewPair s (ewY a) i))
  else ofPair (opMul (outFmt a) (ewRmOf a) (ewVal s (ewX a) i) (ewVal s (ewY a) i))
def ewDiv (s : State) (a : List Byte) (i : Nat) : EwRes := ofPair (opDiv (outFmt a) (ewRmOf a) (ewVal s (ewX a) i) (ewVal s (ewY a) i))
def ewSqrt (s : State) (a : List Byte) (i : Nat) : EwRes := ofPair (opSqrt (outFmt a) (ewRmOf a) (ewVal s (ewX a) i))
def ewFma (s : State) (a : List Byte) (i : Nat) : EwRes :=
  ofPair (opFma (outFmt a) (ewRmOf a) (ewVal s (ewX a) i) (ewVal s (ewY a) i) (ewVal s (ewZ a) i))
def ewMin (s : State) (a : List Byte) (i : Nat) : EwRes := ofPair (opMinMax (outFmt a) (ewRmOf a) false false (ewVal s (ewX a) i) (ewVal s (ewY a) i))
def ewMax (s : State) (a : List Byte) (i : Nat) : EwRes := ofPair (opMinMax (outFmt a) (ewRmOf a) true false (ewVal s (ewX a) i) (ewVal s (ewY a) i))
def ewMinnum (s : State) (a : List Byte) (i : Nat) : EwRes := ofPair (opMinMax (outFmt a) (ewRmOf a) false true (ewVal s (ewX a) i) (ewVal s (ewY a) i))
def ewMaxnum (s : State) (a : List Byte) (i : Nat) : EwRes := ofPair (opMinMax (outFmt a) (ewRmOf a) true true (ewVal s (ewX a) i) (ewVal s (ewY a) i))
def ewCmpq (s : State) (a : List Byte) (i : Nat) : EwRes := ofPair (opCmp false (ewPredicate a) (ewVal s (ewX a) i) (ewVal s (ewY a) i))
def ewCmps (s : State) (a : List Byte) (i : Nat) : EwRes := ofPair (opCmp true (ewPredicate a) (ewVal s (ewX a) i) (ewVal s (ewY a) i))
/-- CVT's tile scales, with the exceptions of these operations (R47): X's value times its scale (R57), and OUT's division in F32 (R60). The spec
says of an ELEMWISE only that one F32 scale applies to the whole tensor: that the value is first rounded to F32 and divided in F32, also for an
F64 X or OUT, is the model's choice (DESIGN CHOICE, log entry 61). -/
def cvtVal (s : State) (a : List Byte) (i : Nat) : FV × Nat :=
  let v := ewVal s (ewX a) i
  let x := if spTscale (ewX a).spec then fvMul v (f32v (w32 (rd32 s (ewX a).tscale))) else (v, 0)
  if spTscale (ewOut a).spec then
    let r := opConvert fF32 .rne x.1
    let q := opDiv fF32 .rne (f32v (w32 r.1)) (f32v (w32 (rd32 s (ewOut a).tscale)))
    (f32v (w32 q.1), x.2 ||| r.2 ||| q.2)
  else x
/-- CVT. R76 gives the conversions between F32 and F32P; the model also takes F32P to F32P, writing the canonical pair of the same value
(R75), and F32P to the other formats, rounding the exact hi + lo under RM (DESIGN CHOICE, log entry 61). The rounding to a
block-scaled format raises no flag (log entry 61). -/
def ewCvt (s : State) (a : List Byte) (i : Nat) : EwRes :=
  let t := cvtVal s a i
  let v := t.1
  let f := outFmt a
  let sn := nvOf (ewSNaN s (ewX a) i) ||| t.2
  if f = fF32P then { out := pairCode (if spFmt (ewX a).spec = fF32P ∧ !spTscale (ewX a).spec ∧ !spTscale (ewOut a).spec then pOfPair (pairAt s (ewX a).base i) else toPair v), fl := sn }
  else if isBlockFmt f then { out := 0, v := v, fl := sn }
  else
    let r := opConvert f (if spFmt (ewX a).spec = fF32P ∧ f = fF32 then .rne else ewRmOf a) v
    { out := r.1, fl := r.2 ||| sn }
def ewToInt (s : State) (a : List Byte) (i : Nat) : EwRes :=
  ofPair (opToInt (ewIntBits a) (ewIntRm a) (spFmt (ewX a).spec) (linCode s (ewX a).base (spFmt (ewX a).spec) i) (ewVal s (ewX a) i))
def ewFromInt (s : State) (a : List Byte) (i : Nat) : EwRes :=
  let n := ewIntBits a
  let x := leAt (rdBytes s ((ewX a).base + n / 8 * i) (n / 8)) 0 (n / 8)
  if isBlockFmt (outFmt a) then { out := 0, v := if x < 2 ^ (n - 1) then .fin false x 0 else .fin true (2 ^ n - x) 0 }
  else ofPair (opFromInt n (outFmt a) (ewRmOf a) x)
def ewRoundint (s : State) (a : List Byte) (i : Nat) : EwRes := ofPair (opRoundInt (outFmt a) (ewRmOf a) (ewVal s (ewX a) i))
/-- The second output in its own format: the exact code where it is OUT's. -/
def augZ (a : List Byte) (z : Nat) : Nat × Nat :=
  let f := spFmt (ewZ a).spec
  if f = outFmt a then (z, 0) else opConvert f (ewRmOf a) (fmtDec (outFmt a) z)
def ewAug (a : List Byte) (v : FV × Nat) : EwRes :=
  let r := opAug (outFmt a) v.1 v.2
  let z := augZ a r.2.1
  { out := r.1, z := z.1, fl := r.2.2 ||| z.2 }
def ewAugAdd (s : State) (a : List Byte) (i : Nat) : EwRes := ewAug a (fvAdd .rne (ewVal s (ewX a) i) (ewVal s (ewY a) i))
def ewAugMul (s : State) (a : List Byte) (i : Nat) : EwRes := ewAug a (fvMul (ewVal s (ewX a) i) (ewVal s (ewY a) i))
def ewClass (s : State) (a : List Byte) (i : Nat) : EwRes := { out := opClass (spFmt (ewX a).spec) (ewVal s (ewX a) i) }
def ewCopysign (s : State) (a : List Byte) (i : Nat) : EwRes := ofPair (opCopysign (outFmt a) (ewRmOf a) (ewVal s (ewX a) i) (ewNegative s (ewY a) i))
def ewNeg (s : State) (a : List Byte) (i : Nat) : EwRes := ofPair (opNeg (outFmt a) (ewRmOf a) (ewVal s (ewX a) i))
def ewAbs (s : State) (a : List Byte) (i : Nat) : EwRes := ofPair (opAbs (outFmt a) (ewRmOf a) (ewVal s (ewX a) i))

/-! ### One unit (R182) -/

/-- The elements of unit u. -/
def unitElems (a : List Byte) (u : Nat) : List Nat := (List.range (min 1024 (ewCount a - 1024 * u))).map (1024 * u + ·)
def opdBits (a : List Byte) (op : Nat) (o : Opd) : Nat := if ewIntIn op then ewIntBits a else fmtBits (spFmt o.spec)
def ewIns (a : List Byte) (op : Nat) : List Opd := [ewX a] ++ (if ewTwo op then [ewY a] else []) ++ (if ewThree op then [ewZ a] else [])
/-- The ranges that a unit reads. -/
def unitReads (a : List Byte) (op u : Nat) : List (Nat × Nat) :=
  let n := (unitElems a u).length
  (ewIns a op).flatMap (fun o =>
    ((linAddr o.base (opdBits a op o) (1024 * u)).1, cdiv (n * opdBits a op o) 8) ::
      (if isBlockFmt (spFmt o.spec) then [(o.scale + 32 * u, cdiv n 32)] else []) ++ tileScale o) ++ tileScale (ewOut a)
where tileScale (o : Opd) : List (Nat × Nat) := if spTscale o.spec then [(o.tscale, 4)] else []
/-- R201: an uncorrectable word among the inputs of a unit. -/
def unitBad (s : State) (a : List Byte) (op u : Nat) : Option Nat :=
  if memSound s then none
  else
    ((unitReads.tileScale (ewX a) ++ unitReads.tileScale (ewOut a)).findSome? (fun r => badIn s r.1 r.2)).or <|
    (ewIns a op).findSome? (fun o => (unitElems a u).findSome? (fun i =>
      (badIn s (linAddr o.base (opdBits a op o) i).1 (cdiv (opdBits a op o) 8)).or (if isBlockFmt (spFmt o.spec) then badIn s (o.scale + i / 32) 1 else none)))
/-- The codes of a block-scaled OUT: data and S8 codes of whole blocks (R55, R56, R64). -/
def blockOut (f : Nat) (ceil : Bool) : Nat → List FV → List Byte × List Byte
  | 0, _ => ([], [])
  | n + 1, vs =>
    if vs = [] then ([], [])
    else
      let r := blkEnc f ceil (vs.take 32)
      let t := blockOut f ceil n (vs.drop 32)
      (packBits (fmtBits f) ((r.2 ++ List.replicate 32 0).take 32) ++ t.1, BitVec.ofNat 8 r.1 :: t.2)
/-- The writes of a unit. -/
def unitWrites (a : List Byte) (op u : Nat) (rs : List EwRes) : List (Nat × List Byte) :=
  let o := ewOut a
  let f := spFmt o.spec
  if isBlockFmt f ∧ !ewIntOut op then
    let r := blockOut f (spCeil o.spec) 32 (rs.map (·.v))
    [(o.base + 32 * u * 4 * fmtBits f, r.1), (o.scale + 32 * u, r.2)]
  else
    let b := (if ewIntOut op then ewIntBits a else fmtBits f) / 8
    [(o.base + 1024 * u * b, rs.flatMap (fun r => leBytes r.out b))] ++
      (if op = 0x18 ∨ op = 0x19 then [((ewZ a).base + 1024 * u * (fmtBits (spFmt (ewZ a).spec) / 8), rs.flatMap (fun r => leBytes r.z (fmtBits (spFmt (ewZ a).spec) / 8)))] else [])
/-- A unit executed by core h: its flags, and the uncorrectable word that stops it. -/
def runUnit (s : State) (h : Nat) (a : List Byte) (op u : Nat) (f : State → List Byte → Nat → EwRes) : State × Nat × Option Nat :=
  match unitBad s a op u with
  | some w => (s, 0, some w)
  | none =>
    let rs := (unitElems a u).map (f s a)
    let fl := rs.foldl (fun x r => x ||| r.fl) 0
    let q := writesFrom (storeBytes · (.core h)) (unitWrites a op u rs) (noteReads s (.core h) (unitReads a op u), none)
    (q.1, fl, q.2)
/-- The units of a part, one after another, until one meets uncorrectable data. -/
def runUnits (ref : JobRef) (h : Nat) (a : List Byte) (op : Nat) (f : State → List Byte → Nat → EwRes) : List Nat → State → State × Option Nat
  | [], s => (s, none)
  | u :: r, s =>
    match runUnit s h a op u f with
    | (s, _, some w) => (s, some w)
    | (s, fl, none) =>
      match flagBad s ref fl with
      | some w => (s, some w)
      | none => runUnits ref h a op f r (unitRetired (orFlags s ref fl) ref u)
/-- R380: the KERNEL and ELEMWISE parts that have reached a core and whose work has not ended, in the order in which they reached it. -/
def coreParts (s : State) (h : Nat) : List (JobRef × Nat) :=
  (s.jobs.filter (fun j => j.st == .running && dFam j.desc == 2)).flatMap (fun j =>
    (List.range j.parts.length).filterMap (fun i => match getPart j i with
      | some x => if !x.away && (x.st == .sent || x.st == .busy) && coreOf x.floe == h then some (j.ref, i) else none
      | none => none))
/-- R380: a core runs one part at a time, in the order in which they reach it. -/
def coreTurn (s : State) (ref : JobRef) (p fl : Nat) : Bool := (coreParts s (coreOf fl)).head? == some (ref, p)
/-- A part of an ELEMWISE of operation `op`. -/
def effElemwise (s : State) (ref : JobRef) (p op : Nat) (f : State → List Byte → Nat → EwRes) : State :=
  match freshOf s ref p 2 0 with
  | none => s
  | some (j, x) =>
    if ewOp j.args ≠ op ∨ !coreTurn s ref p x.floe then s
    else
      match runUnits ref (coreOf x.floe) j.args op f ((List.range (x.hi - x.lo)).map (x.lo + ·)) s with
      | (s, some w) => markFaulted (reportUe s w x.floe (some (jobCmd s ref))) ref p (ueErr s w)
      | (s, none) => markWorked (runProgress s ref) ref p

/-! ### The operations (R168) -/

/-- R168, OP 0x01: ADD x + y. -/
def execElemwiseAdd (j : JobRef) (p : Nat) (s : State) : Host.Outcome State Fault Refusal := ok (effElemwise s j p 0x1 ewAdd)
/-- R168, OP 0x02: SUB x − y. -/
def execElemwiseSub (j : JobRef) (p : Nat) (s : State) : Host.Outcome State Fault Refusal := ok (effElemwise s j p 0x2 ewSub)
/-- R168, OP 0x03: MUL x · y. -/
def execElemwiseMul (j : JobRef) (p : Nat) (s : State) : Host.Outcome State Fault Refusal := ok (effElemwise s j p 0x3 ewMul)
/-- R168, OP 0x04: DIV x / y. -/
def execElemwiseDiv (j : JobRef) (p : Nat) (s : State) : Host.Outcome State Fault Refusal := ok (effElemwise s j p 0x4 ewDiv)
/-- R168, OP 0x05: SQRT x. -/
def execElemwiseSqrt (j : JobRef) (p : Nat) (s : State) : Host.Outcome State Fault Refusal := ok (effElemwise s j p 0x5 ewSqrt)
/-- R168, OP 0x06: FMA x · y + z, rounded once. -/
def execElemwiseFma (j : JobRef) (p : Nat) (s : State) : Host.Outcome State Fault Refusal := ok (effElemwise s j p 0x6 ewFma)
/-- R168, OP 0x08: minimum. -/
def execElemwiseMin (j : JobRef) (p : Nat) (s : State) : Host.Outcome State Fault Refusal := ok (effElemwise s j p 0x8 ewMin)
/-- R168, OP 0x09: maximum. -/
def execElemwiseMax (j : JobRef) (p : Nat) (s : State) : Host.Outcome State Fault Refusal := ok (effElemwise s j p 0x9 ewMax)
/-- R168, OP 0x0a: minimumNumber. -/
def execElemwiseMinnum (j : JobRef) (p : Nat) (s : State) : Host.Outcome State Fault Refusal := ok (effElemwise s j p 0xa ewMinnum)
/-- R168, OP 0x0b: maximumNumber. -/
def execElemwiseMaxnum (j : JobRef) (p : Nat) (s : State) : Host.Outcome State Fault Refusal := ok (effElemwise s j p 0xb ewMaxnum)
/-- R168, OP 0x0c: a quiet predicate, 1 or 0. -/
def execCmpq (j : JobRef) (p : Nat) (s : State) : Host.Outcome State Fault Refusal := ok (effElemwise s j p 0xc ewCmpq)
/-- R168, OP 0x0d: a signalling predicate, 1 or 0. -/
def execCmps (j : JobRef) (p : Nat) (s : State) : Host.Outcome State Fault Refusal := ok (effElemwise s j p 0xd ewCmps)
/-- R168, OP 0x10: conversion to OUT's format. -/
def execCvt (j : JobRef) (p : Nat) (s : State) : Host.Outcome State Fault Refusal := ok (effElemwise s j p 0x10 ewCvt)
/-- R168, OP 0x11: conversion to an integer. -/
def execCvtToInt (j : JobRef) (p : Nat) (s : State) : Host.Outcome State Fault Refusal := ok (effElemwise s j p 0x11 ewToInt)
/-- R168, OP 0x12: conversion from an integer. -/
def execCvtFromInt (j : JobRef) (p : Nat) (s : State) : Host.Outcome State Fault Refusal := ok (effElemwise s j p 0x12 ewFromInt)
/-- R168, OP 0x13: rounding to an integral value. -/
def execRoundint (j : JobRef) (p : Nat) (s : State) : Host.Outcome State Fault Refusal := ok (effElemwise s j p 0x13 ewRoundint)
/-- R168, OP 0x18: augmentedAddition, with a second output in Z. -/
def execAugAdd (j : JobRef) (p : Nat) (s : State) : Host.Outcome State Fault Refusal := ok (effElemwise s j p 0x18 ewAugAdd)
/-- R168, OP 0x19: augmentedMultiplication, with a second output in Z. -/
def execAugMul (j : JobRef) (p : Nat) (s : State) : Host.Outcome State Fault Refusal := ok (effElemwise s j p 0x19 ewAugMul)
/-- R168, OP 0x1a: CLASS, 0–9. -/
def execClassOf (j : JobRef) (p : Nat) (s : State) : Host.Outcome State Fault Refusal := ok (effElemwise s j p 0x1a ewClass)
/-- R168, OP 0x1b: magnitude of x, sign of y. -/
def execCopysign (j : JobRef) (p : Nat) (s : State) : Host.Outcome State Fault Refusal := ok (effElemwise s j p 0x1b ewCopysign)
/-- R168, OP 0x1c: negation. -/
def execNeg (j : JobRef) (p : Nat) (s : State) : Host.Outcome State Fault Refusal := ok (effElemwise s j p 0x1c ewNeg)
/-- R168, OP 0x1d: absolute value. -/
def execAbs (j : JobRef) (p : Nat) (s : State) : Host.Outcome State Fault Refusal := ok (effElemwise s j p 0x1d ewAbs)

end Sys2Proof.Machine
end

