-- ==== Sys2Proof/Machine/Kernel.lean ====
section
/-! DEFINITION. Kernel parts on the control cores (R154–R157, R169, R170): how one starts, and how it ends. What its program computes is the core's own instruction set, taken from elsewhere: the stores it made are the event's operands. -/

namespace Sys2Proof.Machine

def kRunLimit (a : List Byte) : Nat := leAt a 4 4
def kPc (a : List Byte) : Nat := leAt a 0x10 8
def kArg (a : List Byte) : Nat := leAt a 0x18 8
/-! ### The cores (R154) -/

inductive CoreClass where
  | engine | cluster | management
  deriving DecidableEq, Repr
/-- R154: hart ids 0–95 engine cores, 96–107 cluster cores, 108 and 109 management cores. -/
def coreClass (h : Nat) : Option CoreClass :=
  if h < 96 then some .engine else if h < 108 then some .cluster else if h < 110 then some .management else none
def CoreClass.vlen (c : CoreClass) : Nat := match c with | .engine => 512 | .cluster => 1024 | .management => 256
/-- Bytes of the instruction cache and of the data cache. -/
def CoreClass.cache (c : CoreClass) : Nat := match c with | .engine => 32768 | .cluster => 65536 | .management => 65536
/-- The modes a class has; S mode comes with Sv48. -/
def CoreClass.modes (c : CoreClass) : List Priv := match c with | .management => [.m, .s, .u] | _ => [.m, .u]
/-- R155: PMP entries of a class, where the spec gives them. -/
def CoreClass.pmp (c : CoreClass) : Option Nat := match c with | .management => none | _ => some 16

def coreWin (h : Nat) : Nat := if h < 96 then winEng h else winClu (h - 96)
def coreFloe (s : State) (h : Nat) : Nat := if h < 96 then engFloe s h else cluFloe s (h - 96)
def getCore (s : State) (h : Nat) : Option CoreRun := (s.cores.find? (fun p => p.1 == h)).map (·.2)
/-- A kernel begins on a core, in U mode (R156, R169). -/
def putCore (s : State) (h : Nat) (c : CoreRun) : State :=
  putHart { s with cores := smPut h c (smDel s.cores h) } h { getHart s h with mode := .u }
/-- The core is back in its runtime, in M mode. -/
def freeCore (s : State) (h : Nat) : State := putHart { s with cores := smDel s.cores h } h { getHart s h with mode := .m }
/-- A trap from a kernel into the runtime. -/
def trapCore (s : State) (h : Nat) (mcause mepc mtval : DWord) : State :=
  putHart (freeCore s h) h { getHart s h with mode := .m, mcause := mcause, mepc := mepc, mtval := mtval }

/-- R170: a failed kernel part recorded, and its command failed. -/
def kernelFails (s : State) (h : Nat) (c : CoreRun) (err cause pc val : Nat) : State :=
  if servedPart s c.job c.part then
    markFaulted (reportErr s (coreWin h) err (objOf 1 (coreFloe s h)) (some (jobCmd s c.job)) [(jobCmd s c.job).seq, cause, pc % 2 ^ 32, val % 2 ^ 32])
      c.job c.part err
  else s
/-- R169, R170: an exception in a kernel. -/
def kernelTraps (s : State) (h : Nat) (c : CoreRun) (mcause mepc mtval : DWord) : State :=
  kernelFails (trapCore s h mcause mepc mtval) h c eKERNEL_FAULT (mcause.toNat % 2 ^ 32) mepc.toNat mtval.toNat
def mcauseTimeout : Nat := 0xFFFFFFFF
def effKernel (s : State) (ref : JobRef) (p core : Nat) : State :=
  match freshOf s ref p 2 0 with
  | none => s
  | some (j, x) =>
    if ewOp j.args ≠ 0x3F ∨ coreOf x.floe ≠ core ∨ !coreTurn s ref p x.floe ∨ (getCore s core).isSome then s
    else
      let c : CoreRun := { job := ref, part := p, pc := w64 (kPc j.args), a0 := w64 (kArg j.args), a1 := p, a2 := j.parts.length,
                           a3 := w64 (ewCount j.args), started := s.clock }
      -- R15, R169: a RUN_LIMIT of 0 fails every part before its first instruction
      if kRunLimit j.args = 0 then kernelFails s core c eKERNEL_TIMEOUT mcauseTimeout (kPc j.args) (getHart s core).mtval.toNat
      else putCore (putJob s (setPart j p { x with st := .busy })) core c
/-- R169: a KERNEL part starts in U mode at KERNEL_PC on its core. -/
def execKernel (j : JobRef) (p core : Nat) (s : State) : Host.Outcome State Fault Refusal := ok (effKernel s j p core)

/-! ### A kernel's accesses (R156, R157, R202) -/

/-- How a kernel's accesses end: all made, one outside memory (an access fault), or one that meets uncorrectable data. -/
inductive AccEnd where
  | all
  | access (k : KAccess)
  | bad (w : Nat)
  deriving DecidableEq, Repr
def accSize (k : KAccess) : Nat := match k.kind with | .store => k.bytes.length | _ => k.len
/-- The cause of an access fault, in the privileged specification that R155 names. -/
def accessCause (k : KKind) : DWord := match k with | .fetch => 1 | .load => 5 | .store => 7
/-- A fetch or load of mapped memory; a fetch of lines that the instruction cache holds reaches no memory. -/
def kernelReads (h : Nat) (k : KAccess) (s : State) : State × AccEnd :=
  let lines := blockLines k.addr (accSize k)
  if k.kind = .fetch ∧ lines.all (fun l => (getHart s h).ilines.contains l) then (s, .all)
  else
    match badIn s k.addr (accSize k) with
    | some w => (s, .bad w)
    | none =>
      let s := noteRead s (.core h) k.addr (accSize k)
      (if k.kind = .fetch then putHart s h { getHart s h with ilines := (getHart s h).ilines ++ lines.filter (fun l => !(getHart s h).ilines.contains l) } else s, .all)
where blockLines (a n : Nat) : List Nat := (List.range (cdiv (a + n) 64 - a / 64)).map (a / 64 + ·)
/-- A kernel's accesses in the order it made them. -/
def kernelAccesses (h : Nat) : List KAccess → State → State × AccEnd
  | [], s => (s, .all)
  | k :: r, s =>
    if (accSize k) = 0 then kernelAccesses h r s
    else if !rangeMapped s.order k.addr (accSize k) then (s, .access k)
    else if k.kind = .store then
      match storeBytes s (.core h) k.addr k.bytes with
      | (s, some w) => (s, .bad w)
      | (s, none) => kernelAccesses h r s
    else
      match kernelReads h k s with
      | (s, .all) => kernelAccesses h r s
      | x => x
def causeUEcall : DWord := 8
/-- A kernel ends: after its accesses, `go` says how. -/
def kernelEnds (s : State) (h : Nat) (acc : List KAccess) (go : State → CoreRun → State) : State :=
  match getCore s h with
  | none => s
  | some c =>
    -- R210: an access to a window that initialises waits, and the kernel with it
    if acc.any (fun k => firnBusy s k.addr (accSize k)) then s
    else
      match kernelAccesses h acc s with
      | (s, .access k) => kernelTraps s h c (accessCause k.kind) k.pc (w64 k.addr)
      | (s, .bad w) =>
        let s := freeCore s h
        if servedPart s c.job c.part then markFaulted (reportUe s w (coreFloe s h) (some (jobCmd s c.job))) c.job c.part (ueErr s w) else s
      | (s, .all) => go s c
/-- A kernel's end with a7 = 0: its part's work is done, one unit (R182). -/
def kernelDone (s : State) (h : Nat) (c : CoreRun) (pc : DWord) : State :=
  let s := trapCore s h causeUEcall pc 0
  match partLive s c.job c.part with
  | none => s
  | some (_, x) => markWorked (runProgress (unitRetired s c.job x.lo) c.job) c.job c.part
/-- R169: ECALL: with a7 = 0 the part completes; with another value the command fails. -/
def execKernelEcall (core : Nat) (a7 : DWord) (k : KEnd) (s : State) : Host.Outcome State Fault Refusal :=
  ok (kernelEnds s core k.acc (fun s c => if a7 = 0 then kernelDone s core c k.pc else kernelTraps s core c causeUEcall k.pc 0))
/-- R169, R170: an exception in a kernel. -/
def execKernelFault (core : Nat) (mcause mepc mtval : DWord) (acc : List KAccess) (s : State) : Host.Outcome State Fault Refusal :=
  ok (kernelEnds s core acc (fun s c => kernelTraps s core c mcause mepc mtval))
def kernelLimit (s : State) (c : CoreRun) : Nat := match getJob s c.job with | some j => us (kRunLimit j.args) | none => 0
def effKernelTimeout (s : State) (core : Nat) (pc : DWord) (acc : List KAccess) : State :=
  match getCore s core with
  | none => s
  | some c =>
    if s.clock < c.started + kernelLimit s c then s
    else
      -- what is recorded is where the kernel stood, and mtval as the core's last trap left it
      kernelEnds s core acc (fun s c =>
        kernelFails (putHart (freeCore s core) core { getHart s core with mode := .m, mepc := pc }) core c eKERNEL_TIMEOUT mcauseTimeout pc.toNat
          (getHart s core).mtval.toNat)
/-- R169: RUN_LIMIT µs after it started, a part still running is stopped. -/
def execKernelTimeout (core : Nat) (k : KEnd) (s : State) : Host.Outcome State Fault Refusal := ok (effKernelTimeout s core k.pc k.acc)

/-! ### FENCE (R164) -/

/-- The cores of a floe. -/
def coresUnder (f : Floe) : List Nat := enginesUnder f ++ (if f.level = 0 then [] else (clustersUnder f).map (96 + ·))
/-- R164: the instruction caches of every core in a floe invalidated. -/
def dropLines (s : State) (fl : Nat) : State :=
  (coresUnder (floeOf fl)).foldl (fun s h => putHart s h { getHart s h with ilines := [] }) s
def effFence (s : State) (ref : JobRef) (p var : Nat) : State :=
  match freshOf s ref p 0xB var with
  | some (_, x) => markWorked (if var = 1 then dropLines s x.floe else s) ref p
  | none => s
/-- R164: variant 0. Its earlier commands have completed, each with its writes acknowledged. -/
def execFenceQueue (j : JobRef) (p : Nat) (s : State) : Host.Outcome State Fault Refusal := ok (effFence s j p 0)
/-- R164: variant 1. -/
def execFenceIcache (j : JobRef) (p : Nat) (s : State) : Host.Outcome State Fault Refusal := ok (effFence s j p 1)

end Sys2Proof.Machine
end

