-- ==== Sys2Proof/Machine/Dma.lean ====
section
/-! DEFINITION. DMA_COPY and ACCUM_WRITE parts (R171, R182, R196, R197, R205), and requests to host windows (R532–R534). -/

namespace Sys2Proof.Machine

/-! ### Within the module -/

def partUnits (x : Part) : List Nat := (List.range (x.hi - x.lo)).map (x.lo + ·)
/-- R171, R205: whether source and destination overlap: the destination's content is then undefined. -/
def copyOverlaps (a : List Byte) : Bool :=
  decide (0 < cpLen a ∧ cpSrc a < cpDst a + cpLen a ∧ cpDst a < cpSrc a + cpLen a)
/-- One unit copied or added by DMA queue m: the word that stops it. -/
def localUnit (acc : Bool) (m : MemSource) (a : List Byte) (u : Nat) (s : State) : State × Option Nat :=
  let n := unitBytes (cpLen a) u
  let src := cpSrc a + 4096 * u
  let dst := cpDst a + 4096 * u
  match badIn s src n with
  | some w => (s, some w)
  | none =>
    let d := rdBytes s src n
    let s := noteRead s m src n
    match copyOverlaps a, acc with
    | true, true => accumulateAs s m dst (.undef n)
    | true, false => storeUndef s m dst n
    | false, true => accumulate s m dst d
    | false, false => storeBytes s m dst d
/-- Units of a part at a floe, one after another, until one meets uncorrectable data. -/
def localUnits (acc : Bool) (ref : JobRef) (fl : Nat) (a : List Byte) : List Nat → State → State × Option Nat
  | [], s => (s, none)
  | u :: r, s =>
    match localUnit acc (dmaSource fl) a u s with
    | (s, some w) => (s, some w)
    | (s, none) => localUnits acc ref fl a r (unitRetired (rinc64 s (wreg (dmaWin fl) oDMA_BYTES_LO) (unitBytes (cpLen a) u)) ref u)
def effLocalCopy (s : State) (ref : JobRef) (p fam : Nat) : State :=
  match freshOf s ref p fam 0 with
  | none => s
  | some (j, x) =>
    match localUnits (fam == 4) ref x.floe j.args (partUnits x) s with
    | (s, some w) => markFaulted (reportUe s w x.floe (some (jobCmd s ref))) ref p (ueErr s w)
    | (s, none) => markWorked (runProgress s ref) ref p
/-- R171: a part of DMA_COPY variant 0. -/
def execDmaCopyLocal (j : JobRef) (p : Nat) (s : State) : Host.Outcome State Fault Refusal := ok (effLocalCopy s j p 3)
/-- R204, R205: a part of ACCUM_WRITE variant 0. -/
def execAccumWriteLocal (j : JobRef) (p : Nat) (s : State) : Host.Outcome State Fault Refusal := ok (effLocalCopy s j p 4)

/-! ### To and from another module -/

def effRemoteCopy (s : State) (ref : JobRef) (p fam var : Nat) : State :=
  match freshOf s ref p fam var with
  | some (_, x) => issueUnits (x.hi - x.lo) s ref p
  | none => s
/-- R171: a part of DMA_COPY variant 1. -/
def execDmaCopyRemoteWrite (j : JobRef) (p : Nat) (s : State) : Host.Outcome State Fault Refusal := ok (effRemoteCopy s j p 3 1)
/-- R171: a part of DMA_COPY variant 2. -/
def execDmaCopyRemoteRead (j : JobRef) (p : Nat) (s : State) : Host.Outcome State Fault Refusal := ok (effRemoteCopy s j p 3 2)
/-- R205: a part of ACCUM_WRITE variant 1. -/
def execAccumWriteRemote (j : JobRef) (p : Nat) (s : State) : Host.Outcome State Fault Refusal := ok (effRemoteCopy s j p 4 1)

/-! ### Host windows (R532–R535) -/

def hostDefault (_ : Nat) : HostWin := {}
def getH (s : State) (w : Nat) : HostWin := smGet hostDefault s.hosts w
def putH (s : State) (w : Nat) (h : HostWin) : State := { s with hosts := smSet hostDefault s.hosts w h }
def hwAckNs (s : State) (w : Nat) : Nat := us (rfld s (hwReg w rHW_TIMEOUT) 31 8)
/-- R533: an RDMA READ may be outstanding beside 15 others. -/
def hostRoom (s : State) (w : Nat) (rd : Bool) : Bool := !rd || decide (((getH s w).reqs.filter (·.rd)).length < 16)
/-- R532, R533, R537: the framing of a request of a window: UDP port 4791 at the host's address. -/
def hostWire (s : State) (w port : Nat) : Wire := portWire s port oETH_C_IP6_0 oETH_C_GW_LO oETH_C_TAG (ip6At s (hwReg w rHW_GID_0)) none 4791
/-- A request as it leaves for the host, in a frame of the request's bytes, 98 of headers and check bytes and 4 of a tag where frames are tagged,
while the port's link is up; else it stays unacknowledged. -/
def sendRoce (s : State) (w : Nat) (q : HostReq) : State :=
  let port := rfld s (hwReg w rHW_CFG) 24 24
  let bytes := if q.rd then [] else q.bytes
  if ethUp s port then
    emit (ethSent s port 1 (98 + bytes.length + tagLen s (wreg (winEth port) oETH_C_TAG)))
      (.roce (hostWire s w port) w (rfld s (hwReg w rHW_CFG) 23 0) (rn s (hwReg w rHW_RKEY)) (!q.rd) (rn64 s (hwReg w rHW_BASE_LO) + q.off) q.len bytes)
  else s
def addHostReq (s : State) (w : Nat) (q : HostReq) : State :=
  let h := getH s w
  sendRoce (putH { s with nextWid := s.nextWid + 1 } w { h with reqs := h.reqs ++ [{ q with sent := s.clock, id := s.nextWid }] }) w q
/-- R535: a window's queue pair in the error state: VALID is cleared, and nothing more is sent on it until it is written again. -/
def breakWindow (s : State) (w : Nat) : State := rputBit (putH s w { getH s w with broken := true }) (hwReg w rHW_CFG) 31 false

/-- R538: a variant 3 command that the host did not answer, with the first unit not retired of the command. -/
def hostFailed (s : State) (w : Nat) (ref : JobRef) (p : Nat) : State :=
  match getJob s ref with
  | none => s
  | some j => match getPart j p with
    | none => s
    | some x =>
      let c := jobCmd s ref
      let dir := nbits (leAt j.args 0 4) 8 8
      let base := if dir = 0 then cpDst j.args else cpSrc j.args
      let u := ((List.range j.total).find? (fun u => !j.units.contains u)).getD x.lo
      let s := reportErr s winTpm eHOST_TIMEOUT (objOf 8 w) (some c) [w + 256 * dir, c.seq, c.floe, (base + 4096 * u) % 2 ^ 32]
      markFaulted s ref p eHOST_TIMEOUT
/-- Units of a host copy issued from the part's cursor. -/
def issueHost : Nat → State → JobRef → Nat → State
  | 0, s, _, _ => s
  | n + 1, s, ref, p =>
    match partLive s ref p with
    | none => s
    | some (j, x) =>
      let w := nbits (leAt j.args 0 4) 5 0
      let rd := nbit (leAt j.args 0 4) 8
      let u := x.lo + x.cursor
      if x.hi ≤ u then s
      -- R535: no request goes out on a queue pair in the error state
      else if (getH s w).broken then hostFailed s w ref p
      else if !hostRoom s w rd then s
      else if rfld s (hwReg w rHW_TIMEOUT) 31 8 = 0 then
        -- R15, R535: an ACK_US of 0 fails every request when it is first sent
        hostFailed (breakWindow s w) w ref p
      else
        let len := unitBytes (cpLen j.args) u
        let src := cpSrc j.args + 4096 * u
        match (if rd then none else badIn s src len) with
        | some b => markFaulted (reportUe s b x.floe (some (jobCmd s ref))) ref p (ueErr s b)
        | none =>
          let q : HostReq := { job := ref, k := p, t2 := false, unit := u, rd := rd, off := if rd then src else cpDst j.args + 4096 * u, len := len,
                               addr := cpDst j.args + 4096 * u, bytes := if rd then [] else rdBytes s src len, sent := 0, tries := 0 }
          let s := putJob (if rd then s else noteRead s (dmaSource x.floe) src len) (setPart j p { x with cursor := x.cursor + 1, unacked := x.unacked + 1, st := .busy })
          issueHost n (addHostReq (rinc64 s (wreg (dmaWin x.floe) oDMA_BYTES_LO) len) w q) ref p
def effHostCopy (s : State) (ref : JobRef) (p : Nat) : State :=
  match freshOf s ref p 3 3 with
  | some (_, x) => issueHost (x.hi - x.lo) s ref p
  | none => s
/-- R534: a part of DMA_COPY variant 3. -/
def execDmaCopyHost (j : JobRef) (p : Nat) (s : State) : Host.Outcome State Fault Refusal := ok (effHostCopy s j p)
/-- A unit of a host copy acknowledged. -/
def hostUnitDone (s : State) (ref : JobRef) (p u : Nat) : State :=
  match partLive s ref p with
  | none => s
  | some (j, x) =>
    let s := unitRetired (putJob s (setPart j p { x with unacked := x.unacked - 1 })) ref u
    let s := issueHost (x.hi - x.lo) s ref p
    match partLive s ref p with
    | none => s
    | some (_, y) => if y.unacked = 0 ∧ y.hi ≤ y.lo + y.cursor then markWorked s ref p else s
/-- A host copy's request answered: a READ's data is stored first. -/
def hostCopyAck (s : State) (q : HostReq) (bytes : List Byte) : State :=
  match partLive s q.job q.k with
  | none => s
  | some (_, x) =>
    match (if q.rd then storeBytes s (dmaSource x.floe) q.addr (fitBytes bytes q.len) else (s, none)) with
    | (s, some w) => markFaulted (reportUe s w x.floe (some (jobCmd s q.job))) q.job q.k (ueErr s w)
    | (s, none) => hostUnitDone s q.job q.k q.unit

end Sys2Proof.Machine
end

