-- ==== Sys2Proof/Machine/FirnRows.lean ====
section
/-! DEFINITION. Firn at command level (R209–R221): FIRN_PACK's variants, writes that reach a window, background re-encoding, a region's initialising; and scrubbing (R203). -/

namespace Sys2Proof.Machine

def fpRange (a : List Byte) : Nat := leAt a 0 8
def fpLen (a : List Byte) : Nat := leAt a 8 8
def fpImage (a : List Byte) : Nat := leAt a 0x10 8
def fpImageLen (a : List Byte) : Nat := leAt a 0x18 8
def fpDomains (a : List Byte) : Nat := fpLen a / 0x40000
/-- The domain of a region that unit u of a FIRN_PACK names. -/
def fpDomain (s : State) (n : Nat) (a : List Byte) (u : Nat) : Nat := (fpRange a - frBase s n) / 0x40000 + u

/-! ### Blocks and domains -/

def domBlocks (d : Nat) : List Nat := (List.range 64).map (64 * d + ·)
/-- R214: a valid block encoded with its domain's tables, by a step that holds it while it reads and writes (R375). -/
def encodeBlock (s : State) (n b : Nat) : State :=
  if mapValid (mapOf s n b) then
    let t := codeSlot s n b
    holdFor t (blockAddr s n b) (cdiv (slotSize (mapOf s n b)) 64 + cdiv (slotSize (mapOf t n b)) 64)
  else s
def encodeDomain (s : State) (n d : Nat) : State := (domBlocks d).foldl (fun s b => encodeBlock s n b) s
/-- R219: SEAL. -/
def sealFully (s : State) (n d : Nat) : State := if domCoded s n d then s else encodeDomain (sealDomain s n d) n d
/-- The histogram of the valid blocks of a domain. -/
def contentHist (s : State) (n d : Nat) (plane : Nat → List Nat → List Nat) : List Nat :=
  ((domBlocks d).filter (fun b => mapValid (mapOf s n b))).foldl (fun h b => histAdd h (plane (frElem s n) (elems (frElem s n) (blockBytes s n b)))) (List.replicate 256 0)
def rebuildHist (s : State) (n d : Nat) : State :=
  putMeta s (domHdr s n d + 0x200)
    (histBytes (contentHist s n d signSyms) ++ histBytes (contentHist s n d expSyms) ++ histBytes (contentHist s n d manSyms))
/-- R219: RELEARN. -/
def relearn (s : State) (n d : Nat) : State :=
  let s := rebuildHist s n d
  let h := domHdr s n d
  let s := putMeta s (h + 0x40) (packLens (buildLengths (domHist s n d 0)) ++ packLens (buildLengths (domHist s n d 1)) ++ packLens (buildLengths (domHist s n d 2)))
  let s := if domCoded s n d then s else frCodedAdd s n true
  encodeDomain (putBytes s (h + 8) [1]) n d
/-- The map and the histogram of a domain written whole cure their code words (R202). -/
def cureMeta (s : State) (n d : Nat) : State := cureWords (cureWords s (mapEntry s n (64 * d)) 128) (domHdr s n d + 0x200) 1536
/-- R219: DISCARD. A block that is not valid reads as zeros (R212). -/
def discard (s : State) (n d : Nat) : State :=
  let s := (domBlocks d).foldl (fun s b => voidSlot s n b) (cureMeta s n d)
  let s := if domCoded s n d then frCodedAdd s n false else s
  putBytes (putBytes s (domHdr s n d) (zeroBytes 9)) (domHdr s n d + 0x200) (zeroBytes 1536)

/-! ### Packed images (R221) -/

def imgMagic : Nat := 0x4E524946
/-- The stored bytes of a block. -/
def storedBytes (s : State) (n b : Nat) : List Byte := if mapValid (mapOf s n b) then slotBytes s n b else []
def padTo64 (b : List Byte) : List Byte := b ++ zeroBytes (cdiv b.length 64 * 64 - b.length)
/-- A domain's record. -/
def domainRecord (s : State) (n d : Nat) : List Byte :=
  padTo64 ((if domCoded s n d then rdBytes s (domHdr s n d + 0x40) 384 else zeroBytes 384) ++
    (domBlocks d).flatMap (fun b => leBytes (mapOf s n b) 2) ++ (domBlocks d).flatMap (storedBytes s n))
def imageHeader (s : State) (n : Nat) (a : List Byte) (len : Nat) : List Byte :=
  le32 imgMagic ++ le32 1 ++ le32 (frElem s n) ++ le32 (fpDomains a) ++ le64 len ++ le64 (fpRange a) ++ zeroBytes 32

/-- DESIGN CHOICE (log entry 12): the source of a FIRN_PACK's accesses, which the memory controllers make and R372 lists in no class. -/
def packSource : MemSource := .core 108
/-- How a FIRN_PACK's work on a domain ends: goes on from an image offset, or stops with an error, or an uncorrectable word, or a block of the image that does
not decode. -/
inductive PackEnd where
  | ok (pos : Nat)
  | err (e : Nat)
  | bad (w : Nat)
  | corrupt (a : Nat)
  deriving DecidableEq, Repr

def exportDomain (n : Nat) (a : List Byte) (s : State) (d pos : Nat) : State × PackEnd :=
  let r := domainRecord s n d
  if fpImageLen a < pos + r.length then (s, .err eFIRN_IMAGE_FULL)
  else
    match storeBytes s packSource (fpImage a + pos) r with
    | (s, some w) => (s, .bad w)
    | (s, none) => (s, .ok (pos + r.length))
/-- The blocks of a record put in place, from a position of the image, up to one that does not decode. -/
def importBlocks (n : Nat) (t : FirnTables) (img : Nat) : List (Nat × Nat) → State → Nat → State × Option Nat
  | [], s, _ => (s, none)
  | (b, e) :: r, s, pos =>
    if !mapValid e then importBlocks n t img r (voidSlot s n b) pos
    else if mapIsRaw e then
      importBlocks n t img r (putBytes (putSlot s n b e []) (blockAddr s n b) (rdBytes s (img + pos) 4096)) (pos + 4096)
    else
      let len := mapBytes e
      let code := rdBytes s (img + pos) len
      match firnDecode (frElem s n) t code with
      | some c => importBlocks n t img r (putBytes (putSlot s n b e code) (blockAddr s n b) c) (pos + len)
      | none => (s, some (blockAddr s n b))
def recordBytes (maps : List Nat) : Nat :=
  cdiv (512 + (maps.map (fun e => if !mapValid e then 0 else if mapIsRaw e then 4096 else mapBytes e)).sum) 64 * 64
/-- R219, R221: IMPORT of one domain. A block that does not decode is FIRN_CORRUPT (R225). -/
def importDomain (n : Nat) (a : List Byte) (s : State) (d pos : Nat) : State × PackEnd :=
  let img := fpImage a
  let maps := (List.range 64).map (fun i => rd16 s (img + pos + 384 + 2 * i))
  let size := recordBytes maps
  if fpImageLen a < pos + 512 ∨ fpImageLen a < pos + size then (s, .err eFIRN_IMAGE_BAD)
  else
    match badIn s (img + pos) (min size (fpImageLen a - pos)) with
    | some w => (s, .bad w)
    | none =>
      let lens := rdBytes s (img + pos) 384
      let coded := lens.any (· != 0)
      let tab (o : Nat) : List Nat := (List.range 256).map (fun i => let x := leAt lens (o + i / 2) 1; if i % 2 = 0 then x % 16 else x / 16)
      let s := cureMeta (noteRead s packSource (img + pos) size) n d
      match importBlocks n ⟨tab 0, tab 128, tab 256⟩ img ((domBlocks d).zip maps) s (pos + 512) with
      | (s, some w) => (s, .corrupt w)
      | (s, none) =>
        let was := domCoded s n d
        let s := putBytes (putMeta s (domHdr s n d + 0x40) lens) (domHdr s n d + 8) [if coded then 1 else 0]
        let s := if was == coded then s else frCodedAdd s n coded
        let s := if coded then s
          else autoSeal (rebuildHist (putBytes s (domHdr s n d) (le64 (((List.range 64).zip maps).foldl (fun m q => if mapValid q.2 then m + 2 ^ q.1 else m) 0))) n d) n d
        (s, .ok (pos + size))

/-! ### FIRN_PACK -/

/-- What a variant reads of a domain and of its metadata: SEAL of a LEARN domain, RELEARN and EXPORT read its content; every variant reads the
word that holds its mask and state. -/
def packReads (s : State) (var n d : Nat) : List (Nat × Nat) :=
  let h := domHdr s n d
  (h, 32) ::
    ((if (var = 0 ∧ !domCoded s n d) ∨ var = 1 ∨ var = 2 then [(frBase s n + 0x40000 * d, 0x40000), (mapEntry s n (64 * d), 128)] else []) ++
     (if var = 0 ∧ !domCoded s n d then [(h + 0x200, 1536)] else []) ++ (if var = 2 ∧ domCoded s n d then [(h + 0x40, 384)] else []))
/-- R219: the work of a variant on one domain of region n. -/
def packDomain (var n : Nat) (a : List Byte) (s : State) (d pos : Nat) : State × PackEnd :=
  match (packReads s var n d).findSome? (fun r => badIn s r.1 r.2) with
  | some w => (s, .bad w)
  | none =>
    let s := noteReads s packSource (packReads s var n d)
    if var = 0 then (sealFully s n d, .ok pos)
    else if var = 1 then (relearn s n d, .ok pos)
    else if var = 2 then exportDomain n a s d pos
    else if var = 3 then importDomain n a s d pos
    else (discard s n d, .ok pos)
def packFrom (ref : JobRef) (var n : Nat) (a : List Byte) : List Nat → State → Nat → State × PackEnd
  | [], s, pos => (s, .ok pos)
  | u :: r, s, pos =>
    match packDomain var n a s (fpDomain s n a u) pos with
    | (s, .ok pos) => packFrom ref var n a r (unitRetired s ref u) pos
    | x => x
/-- R221: whether an image's header matches the range. -/
def headerOk (s : State) (n : Nat) (a : List Byte) : Bool :=
  let i := fpImage a
  decide (64 ≤ fpImageLen a) && rd32 s i == imgMagic && rd32 s (i + 4) == 1 && rd32 s (i + 8) == frElem s n && rd32 s (i + 12) == fpDomains a &&
    decide (rd64 s (i + 16) ≤ fpImageLen a)
/-- The enabled region of a FIRN_PACK's range, or region 0's place where the range is empty. -/
def fpRegion (s : State) (a : List Byte) : Nat := (regions.find? (fun n => frEnabled s n && meets (fpRange a) 1 (frBase s n) (frLen s n))).getD 0
/-- R225: FIRN_CORRUPT of a block, reported by its controller. -/
def reportCorrupt (s : State) (a requester : Nat) (cmd : Option CmdName) : State :=
  reportErr s (winMem (hbmCtl s.order a)) eFIRN_CORRUPT (objOf 2 (a % 2 ^ 48)) cmd [a % 2 ^ 32, a / 2 ^ 32, requester, 3]
def packFails (s : State) (ref : JobRef) (p : Nat) (x : Part) (a : List Byte) (e : PackEnd) : State :=
  match e with
  | .bad w => markFaulted (reportUe s w x.floe (some (jobCmd s ref))) ref p (ueErr s w)
  | .corrupt a => markFaulted (reportCorrupt s a x.floe (some (jobCmd s ref))) ref p eFIRN_CORRUPT
  | .err e => markFaulted (reportErr s (winMem 0) e (objOf 2 (fpImage a % 2 ^ 48)) (some (jobCmd s ref)) []) ref p e
  | .ok _ => markWorked (runProgress s ref) ref p
def effPack (s : State) (ref : JobRef) (p var : Nat) : State :=
  match freshOf s ref p 0xC var with
  | none => s
  | some (j, x) =>
    let a := j.args
    let n := fpRegion s a
    let header := if var = 3 ∧ 64 ≤ fpImageLen a then badIn s (fpImage a) 64 else none
    if fpDomains a ≠ 0 ∧ frBusy s n then s
    else if header.isSome then packFails s ref p x a (.bad (header.getD 0))
    -- R17: an image that does not match an empty range fails too
    else if var = 3 ∧ !headerOk s n a then packFails s ref p x a (.err eFIRN_IMAGE_BAD)
    -- R14: no domain, no work
    else if fpDomains a = 0 then packFails s ref p x a (.ok 0)
    else if var = 2 ∧ fpImageLen a < 64 then packFails s ref p x a (.err eFIRN_IMAGE_FULL)
    else
      match packFrom ref var n a (List.range (fpDomains a)) (if var = 3 then noteRead s packSource (fpImage a) 64 else s) 64 with
      | (s, .ok pos) =>
        if var = 2 then
          (match storeBytes s packSource (fpImage a) (imageHeader s n a pos) with
           | (s, some w) => packFails s ref p x a (.bad w)
           | (s, none) => packFails s ref p x a (.ok pos))
        else packFails s ref p x a (.ok pos)
      | (s, e) => packFails s ref p x a e
/-- R219: SEAL. -/
def execFirnSeal (j : JobRef) (p : Nat) (s : State) : Host.Outcome State Fault Refusal := ok (effPack s j p 0)
/-- R219: RELEARN. -/
def execFirnRelearn (j : JobRef) (p : Nat) (s : State) : Host.Outcome State Fault Refusal := ok (effPack s j p 1)
/-- R219–R221: EXPORT. -/
def execFirnExport (j : JobRef) (p : Nat) (s : State) : Host.Outcome State Fault Refusal := ok (effPack s j p 2)
/-- R219–R221: IMPORT. -/
def execFirnImport (j : JobRef) (p : Nat) (s : State) : Host.Outcome State Fault Refusal := ok (effPack s j p 3)
/-- R219: DISCARD. -/
def execFirnDiscard (j : JobRef) (p : Nat) (s : State) : Host.Outcome State Fault Refusal := ok (effPack s j p 4)

/-! ### The controllers' own events -/

/-- A write that reaches a Firn window, of a source that the command does not name (log entry 12): it waits while the region initialises (R210). -/
def effFirnWrite (s : State) (a : Nat) (bs : List Byte) : State :=
  if !firnTouches s a bs.length || !rangeMapped s.order a bs.length || firnBusy s a bs.length then s
  else
    storeNoted s packSource a bs 0 none
/-- R209, R212, R214: a write to a Firn window. -/
def execFirnBlockWrite (addr : Nat) (bytes : List Byte) (s : State) : Host.Outcome State Fault Refusal := ok (effFirnWrite s addr bytes)

def effReEncode (s : State) (n b : Nat) : State :=
  if !frEnabled s n || frBusy s n || !decide (4096 * b < frLen s n) || !domCoded s n (b / 64) || !mapIsRaw (mapOf s n b) then s
  else
    match badIn s (blockAddr s n b) 4096 with
    | some w => reportUe s w 0 none
    | none => encodeBlock (correctWhere s (fetches s (blockAddr s n b) 4096)) n b
/-- R214: a block of a CODED domain still raw is encoded; the bytes it reads as do not change. -/
def execReEncodeStep (region block : Nat) (s : State) : Host.Outcome State Fault Refusal := ok (effReEncode s region block)

/-- R210: existing bytes adopted as raw blocks, every domain in LEARN. -/
def initRegion (s : State) (n : Nat) : State :=
  let doms := frLen s n / 0x40000
  let s := cureWords s (frMeta s n) (frLen s n * 17 / 2048)
  let s := (List.range doms).foldl (fun s d => putBytes s (domHdr s n d) (zeroBytes 2048)) s
  let s := (List.range (64 * doms)).foldl (fun s b => setMap s n b mapRaw) (dropStored s (frBase s n) (frLen s n))
  rputN s (frReg n oFR_STAT) 0
def effFirnInit (s : State) (n : Nat) : State := if frEnabled s n && frBusy s n then initRegion s n else s
/-- R210: a region's metadata is initialised. -/
def execFirnInitDone (region : Nat) (s : State) : Host.Outcome State Fault Refusal := ok (effFirnInit s region)

/-! ### Scrubbing (R201–R203) -/

/-- What has happened to a code word: it can be corrected, by this scrub or by the next read, or it cannot, and this scrub has met it or not. -/
def wordHit (s : State) (h : ScrubHit) : State :=
  let w := codeWord s.order h.addr
  let s := if h.found then scrubAt s w else s
  if h.correctable then (if h.found then corrected s w else { s with weak := s.weak.filter (· != w) ++ [w] })
  else
    let s := { s with badWords := s.badWords.filter (fun p => p.word != w) ++ [⟨w, h.cellsFailed, h.onDie⟩], weak := s.weak.filter (· != w) }
    if h.found then reportUe s w 0 none else s
def hbmHit (ctl : Nat) (s : State) (h : ScrubHit) : State := if inHbm s.order h.addr && hbmCtl s.order h.addr == ctl then wordHit s h else s
/-- R202, R203: the patrol scrub of a controller's stack. -/
def execHbmScrub (ctl : Nat) (hits : List ScrubHit) (s : State) : Host.Outcome State Fault Refusal :=
  ok (if rbit s (wreg (winMem ctl) oMEM_CTRL) 0 && winPresent s.order (winMem ctl) then hits.foldl (hbmHit ctl) s else s)
def storeHit (s : State) (h : ScrubHit) : State := if inCstore h.addr || inEstore h.addr then wordHit s h else s
/-- R203: the stores scrubbed. -/
def execStoreScrub (hits : List ScrubHit) (s : State) : Host.Outcome State Fault Refusal := ok (hits.foldl storeHit s)

end Sys2Proof.Machine
end

