-- ==== Sys2Proof/Machine/Groups.lean ====
section
/-! DEFINITION. Parameter groups (R227–R231): the descriptor's fields and its check (R229), masters, state, reduction buffers and working copies, and the arithmetic of the update rules (R235–R246). -/

namespace Sys2Proof.Machine

/-! ### Elements -/

def Grp.hiAt (g : Grp) (s : State) (n : Nat) : Word := w32 (rd32 s (g.mwHi + 4 * n))
def Grp.loAt (g : Grp) (s : State) (n : Nat) : Nat := rd16 s (g.mwLo + 2 * n)
def Grp.rbAddr (g : Grp) (n : Nat) : Nat :=
  if g.linear then g.rb + 4 * n else (swzAddr g.rb g.rbStride 32 (n / g.cols) (n % g.cols)).1
def Grp.rbAt (g : Grp) (s : State) (n : Nat) : Word := w32 (rd32 s (g.rbAddr n))
/-- R240: a stored state value, decoded and divided by its scale. -/
def decodeState (spec : Nat) (scale : Word) (code : Nat) : Word := f32Div (f32Of (fmtDec (spFmt spec) code)) scale
def Grp.stAddr (g : Grp) (k n : Nat) : Nat := g.stBase k + n * (fmtBits (spFmt (g.stSpec k)) / 8)
def Grp.stAt (g : Grp) (rd : Nat → Nat → List Byte) (k n : Nat) : Word :=
  let w := fmtBits (spFmt (g.stSpec k)) / 8
  decodeState (g.stSpec k) (g.sScale k) (leAt (rd (g.stAddr k n) w) 0 w)
/-- R81, R240, R246: a value rounded to a narrow format: stochastically, or to nearest even with saturation. -/
def narrow (f : Nat) (sr : Option Nat) (v : FV) : Nat :=
  match sr with
  | some r => srEnc f r v
  | none => if convOver f v then satCode f v else (fmtEnc f .rne v).1
def seedOf (s : State) : DWord := w64 (rn64 s rUPD_SEED_LO)
/-- R240: a state value as stored; and whether a NaN was replaced. -/
def encodeState (s : State) (g : Grp) (step k n : Nat) (x : Word) : Nat × Bool :=
  let f := spFmt (g.stSpec k)
  let y := f32Mul x (g.sScale k)
  if f32IsNaN x || f32IsNaN y then (0, true)
  else if f = 0 then (y.toNat, false)
  else (narrow f (if g.sr then some (srRandom (seedOf s) (w64 step) g.id n k) else none) (f32v y), false)

/-! ### Working copies (R246) -/

/-- The exact master value of element n. -/
def Grp.master (g : Grp) (s : State) (n : Nat) : FV := mw48Val (g.hiAt s n) (g.loAt s n)
def Grp.wcRandom (g : Grp) (s : State) (step n : Nat) : Option Nat := if g.sr then some (srRandom (seedOf s) (w64 step) g.id n 0) else none
/-- The elements of the block (in the working copy's layout) that holds element n, and n's place in it. -/
def Grp.wcBlock (g : Grp) (n : Nat) : List Nat × Nat :=
  if g.linear then ((List.range (min 32 (g.count - n / 32 * 32))).map (n / 32 * 32 + ·), n % 32)
  else
    let r := n / g.cols
    let c := n % g.cols
    if spBdir g.wcSpec then ((List.range (min 32 (g.rows - r / 32 * 32))).map (fun i => (r / 32 * 32 + i) * g.cols + c), r % 32)
    else ((List.range (min 32 (g.cols - c / 32 * 32))).map (fun i => r * g.cols + c / 32 * 32 + i), c % 32)
def Grp.wcEnc (g : Grp) (s : State) (step n : Nat) : Nat × List Nat :=
  let ns := (g.wcBlock n).1
  let xs := ns.map (g.master s)
  if g.sr then srBlkEnc (spFmt g.wcSpec) (spCeil g.wcSpec) xs (ns.map (fun i => (g.wcRandom s step i).getD 0))
  else blkEnc (spFmt g.wcSpec) (spCeil g.wcSpec) xs
/-- The code of element n of the working copy of generation `step`. -/
def Grp.wcCode (g : Grp) (s : State) (step n : Nat) : Nat :=
  if isBlockFmt (spFmt g.wcSpec) then ((g.wcEnc s step n).2[(g.wcBlock n).2]?).getD 0
  else narrow (spFmt g.wcSpec) (g.wcRandom s step n) (g.master s n)
/-- The place of an element's S8 code, in the order of R58. -/
def Grp.wcScaleAt (g : Grp) (n : Nat) : Nat :=
  if g.linear then n / 32 else scaleIndex (spBdir g.wcSpec) g.rows g.cols (n / g.cols) (n % g.cols)
/-- Whether element n is the first of its block. -/
def Grp.wcFirst (g : Grp) (n : Nat) : Bool := (g.wcBlock n).2 == 0
/-- The S8 array. -/
def Grp.wcScaleWrites (g : Grp) (s : State) (step k : Nat) : List (Nat × List Byte) :=
  if isBlockFmt (spFmt g.wcSpec) then
    let codes := ((List.range g.count).filter g.wcFirst).map (fun n => (g.wcScaleAt n, (g.wcEnc s step n).1))
    [(g.wcS8 k, (List.range g.wcScales).map (fun i => BitVec.ofNat 8 ((codes.find? (fun c => c.1 == i)).elim 0 (·.2))))]
  else []
/-- The writes of a whole working copy in slot k. -/
def Grp.wcWrites (g : Grp) (s : State) (step k : Nat) : List (Nat × List Byte) :=
  let f := spFmt g.wcSpec
  let data :=
    if g.linear then [(g.wc k, fitBytes (packBits (fmtBits f) ((List.range g.count).map (g.wcCode s step))) (linSize f g.count))]
    else
      (tileWrites g.rows g.cols g.wcStride (fmtBits f) ⟨0, 0, g.rows, 0, g.cols⟩ (fun _ _ => true) (fun r c => g.wcCode s step (r * g.cols + c))).map
        (fun w => (g.wc k + w.1, w.2))
  data ++ g.wcScaleWrites s step k
/-- Writes that lie end to end, taken as one. -/
def joinRuns : List (Nat × List Byte) → List (Nat × List Byte)
  | [] => []
  | w :: r => match joinRuns r with
    | x :: t => if w.1 + w.2.length = x.1 then (w.1, w.2 ++ x.2) :: t else w :: x :: t
    | [] => [w]
def runsOf (ws : List (Nat × List Byte)) : List (Nat × Nat) := (joinRuns ws).map (fun w => (w.1, w.2.length))
/-- Writes of a half of UPD (R372), each run of bytes at once. -/
def putWrites (h : Nat) (s : State) (ws : List (Nat × List Byte)) : State := (joinRuns ws).foldl (fun s w => store s (.upd h) w.1 w.2) s
/-- R246: the working copy of generation `step` derived into its slot. DESIGN CHOICE (log entry 12): the die 0 half writes what the spec gives to
no half. -/
def deriveWc (s : State) (g : Grp) (step : Nat) : State := if g.count = 0 then s else putWrites 0 s (g.wcWrites s step (g.slotOf step))

/-! ### Update rules (R237–R239, R244) -/

/-- R237: β^t, by square and multiply from the most significant bit down. -/
def powBits (b : Word) (t : Nat) : Nat → Word → Word
  | 0, r => r
  | i + 1, r =>
    let r := f32Mul r r
    powBits b t i (if nbit t i then f32Mul r b else r)
def f32Pow (b : Word) (t : Nat) : Word := if t = 0 then f32One else powBits b t (Nat.log2 t) b
def biasCorr (b : Word) (t : Nat) : Word := f32Sub f32One (f32Pow b t)
/-- R237: c · w on the exact master. -/
def mulMaster (c h : Word) (l : Nat) : Word := pairF32 (pMul (h, b16ToF32 l) (c, 0))
/-- R244 step 2: the clip factor. -/
def clipFactor (g : Grp) (g2 : Word) : Word :=
  if !g.clip then f32One
  else if f32Finite g2 && !(fvIsZero (f32v g2)) then
    let k := f32Div g.clipNorm (f32Sqrt g2)
    if f32Lt k f32One then k else f32One
  else f32One
/-- The sign of a value, as F32; NaN of a NaN. -/
def f32Sign (x : Word) : Word := if f32IsNaN x then f32NaN else if f32Lt 0 x then f32One else if f32Lt x 0 then f32NOne else 0
/-- β·a + (1 − β)·b. -/
def ema (b a x : Word) : Word := f32Add (f32Mul b a) (f32Mul (f32Sub f32One b) x)
/-- m̂ / (√v̂ + ε). -/
def adamRatio (g : Grp) (t : Nat) (m v : Word) : Word :=
  f32Div (f32Div m (biasCorr g.beta1 t)) (f32Add (f32Sqrt (f32Div v (biasCorr g.beta2 t))) g.eps)

/-- What a rule makes of an element: the update and the new values of slots 1 and 2. -/
structure RuleOut where
  u : Word
  s1 : Word
  s2 : Word
  deriving DecidableEq, Repr
/-- The norm record (R236, R239): G2, W2, R2, N. -/
structure Norms where
  g2 : Word
  w2 : Word
  r2 : Word
  n : Word
  deriving DecidableEq, Repr
/-- R238: r of rules 5 and 7, from the new state. -/
def lambR (g : Grp) (t : Nat) (m' v' wl : Word) : Word := f32Add (adamRatio g t m' v') wl
def adaR (gr v : Word) : Word := f32Div gr (f32Sqrt v)
/-- R238. `m`, `v` are the state read, `vf` is ADAFACTOR's factored v where the group is factored. -/
def applyRule (g : Grp) (nm : Norms) (etaMult : Word) (t : Nat) (gr m v : Word) (vf : Option Word) (h : Word) (l : Nat) : RuleOut :=
  let eta := f32Mul g.eta etaMult
  let ne := f32Neg eta
  let wl := mulMaster g.lambda h l
  let q := f32Add gr wl
  if g.rule = 0 then ⟨f32Mul ne q, 0, 0⟩
  else if g.rule = 1 then (let m' := f32Add (f32Mul g.beta1 m) q; ⟨f32Mul ne m', m', 0⟩)
  else if g.rule = 2 then (let m' := f32Add (f32Mul g.beta1 m) q; ⟨f32Mul ne (f32Add q (f32Mul g.beta1 m')), m', 0⟩)
  else if g.rule = 3 then
    let m' := ema g.beta1 m q
    let v' := ema g.beta2 v (f32Mul q q)
    ⟨f32Mul ne (adamRatio g t m' v'), m', v'⟩
  else if g.rule = 4 ∨ g.rule = 5 then
    let m' := ema g.beta1 m gr
    let v' := ema g.beta2 v (f32Mul gr gr)
    let r := lambR g t m' v' wl
    let bad (x : Word) : Bool := !f32Finite x || fvIsZero (f32v x)
    let phi := if bad nm.w2 || bad nm.r2 then f32One else f32Div (f32Sqrt nm.w2) (f32Sqrt nm.r2)
    ⟨if g.rule = 4 then f32Mul ne r else f32Mul (f32Mul ne phi) r, m', v'⟩
  else if g.rule = 6 then ⟨f32Mul ne (f32Add (f32Sign (ema g.beta1 m gr)) wl), ema g.beta2 m gr, 0⟩
  else
    let v' := match vf with | some x => x | none => ema g.beta2 m (f32Add (f32Mul gr gr) g.eps)
    let d := f32Max f32One (f32Div (f32Sqrt (f32Div nm.r2 nm.n)) g.beta1)
    ⟨f32Mul ne (f32Add (f32Div (adaR gr v') d) wl), v', 0⟩

/-- R244 steps 5 and 6: the master after an update; and whether it was clamped. -/
def stepMaster (g : Grp) (h : Word) (l : Nat) (u : Word) : Word × Nat × Bool :=
  let r := mw48Add h l u
  let big :=
    if !f32Finite r.1 then true
    else
      match mw48Val r.1 r.2, f32v g.wClamp with
      | .fin _ m e, .fin _ m' e' => dyLt m' e' m e
      | _, _ => true
  if big then (if f32IsNaN r.1 then f32Abs g.wClamp else if fvSign (f32v r.1) then f32Neg (f32Abs g.wClamp) else f32Abs g.wClamp, 0, true)
  else (r.1, r.2, false)
/-- R244 step 4: the update replaced or clamped: 0 kept, 1 a NaN, 2 an infinity, 3 a clamp. -/
def stepUpdate (g : Grp) (u : Word) : Word × Nat :=
  if f32IsNaN u then (0, 1)
  else if !f32Finite u then (if fvSign (f32v u) then f32Neg g.uClamp else g.uClamp, 2)
  else if f32Lt g.uClamp (f32Abs u) then (if fvSign (f32v u) then f32Neg g.uClamp else g.uClamp, 3)
  else (u, 0)

/-! ### ADAFACTOR's statistics (R238, R240) -/

def rhoAddr (g : Grp) (copy i : Nat) : Nat := g.stBase 2 + 4 * g.rows * copy + 4 * i
def kappaAddr (g : Grp) (copy j : Nat) : Nat := g.stBase 3 + 4 * g.cols * copy + 4 * j
def sumF32 (l : List Word) : Word := l.foldl f32Add 0
def meanF32 (l : List Word) : Word := f32Div (sumF32 l) (f32OfNat l.length)
/-- The factored v of element (i, j) from new statistics. -/
def factoredV (rho kap : List Word) (i j : Nat) : Word := f32Div (f32Mul ((rho[i]?).getD 0) ((kap[j]?).getD 0)) (meanF32 rho)

/-! ### Gradient ingress (R235, R236) -/

/-- R235: an element replaced or clamped: 0 kept, 1 a NaN, 2 an infinity, 3 a clamp. -/
def ingestElem (g : Grp) (x : Word) : Word × Nat :=
  if f32IsNaN x then (0, 1)
  else if !f32Finite x then (if fvSign (f32v x) then f32Neg g.gClamp else g.gClamp, 2)
  else if f32Lt g.gClamp (f32Abs x) then (if fvSign (f32v x) then f32Neg g.gClamp else g.gClamp, 3)
  else (x, 0)
def chunkElems (g : Grp) (c : Nat) : List Nat := (List.range (min 1024 (g.count - 1024 * c))).map (1024 * c + ·)
/-- R236: a sum formed chunk by chunk. -/
def chunkSum (g : Grp) (f : Nat → Word) : Word := sumF32 ((List.range g.chunks).map (fun c => sumF32 ((chunkElems g c).map f)))

end Sys2Proof.Machine
end

