-- ==== Sys2Proof/Machine/Update.lean ====
section
/-! DEFINITION. UPD: UPDATE, STEP_COMMIT and AUDIT (R235, R236, R240–R264), their admission (R383, R384), the commit log (R247, R248), retirement of generations (R253), and state on the host (R257). -/

namespace Sys2Proof.Machine

/-! ### Votes (R243, R258) -/

/-- R243: whether the outcome of the vote is SKIP. -/
def updSkips (s : State) : Bool := voteSkip (rfld s rUPD_VOTE_RES 3 0) (rfld s rUPD_POLICY 2 0)
/-- R258: a write of UPD_ABORT. -/
def execUpdAbort (v : Word) (s : State) : Host.Outcome State Fault Refusal := ok (setVoteIf s (wbit v 0) vfABORT_REQ)

/-! ### UPD's commands and state code (R263, R581, R383) -/

def getRun (s : State) (ref : JobRef) : Option UpdRun := s.updRuns.find? (fun r => r.job == ref)
def putRun (s : State) (r : UpdRun) : State := { s with updRuns := s.updRuns.map (fun x => if x.job = r.job then r else x) }
def dropRun (s : State) (ref : JobRef) : State := { s with updRuns := s.updRuns.filter (fun x => x.job != ref) }
def setGrp (s : State) (ref : JobRef) (k : Nat) (x : UpdGrp) : State :=
  match getRun s ref with
  | some r => putRun s { r with grps := r.grps.set k x }
  | none => s
def admittedRuns (s : State) : List UpdRun := s.updRuns.filter (·.admitted)
def updCode (s : State) : Nat := if !rbit s rUPD_CTRL 0 then 0 else if admittedRuns s = [] ∧ s.updLog = [] then 1 else 2
def refreshUpd (s : State) : State := setCode s winUpd (updCode s)
/-- The command, part and group a run's entry names. -/
def runGrp (s : State) (ref : JobRef) (k : Nat) : Option (Job × UpdRun × UpdGrp) :=
  match getRun s ref, getJob s ref with
  | some r, some j => if r.admitted then (r.grps[k]?).map (fun x => (j, r, x)) else none
  | _, _ => none

/-- The id of a group of a command: as it was read once, or as the list has it. -/
def gidOf (s : State) (j : Job) (k : Nat) (x : UpdGrp) : Nat := x.taken.elim (uGid s j.args k) (·.1)
/-- R230: a group of a command, with words 0x00–0xB7 of its descriptor as they were read once. -/
def grpRun (s : State) (j : Job) (k : Nat) (x : UpdGrp) : Grp :=
  match x.taken with
  | some t => let g := grpOf s t.1; { g with b := t.2 ++ g.b.drop 0xB8 }
  | none => grpOf s (uGid s j.args k)

/-- R264: an error of UPD. -/
def updErr (s : State) (j : Job) (gid err gen hi : Nat) : State :=
  let st := uStep j.args % 2 ^ 32
  reportErr s winUpd err (objOf 3 (gid + st * 2 ^ 24)) (some (jobCmd s j.ref)) [gid, st, gen % 2 ^ 32, hi % 65536 * 65536]
/-- A group ended. -/
def grpDone (s : State) (ref : JobRef) (k : Nat) : State :=
  match runGrp s ref k with
  | some (_, _, x) => unitRetired (setGrp s ref k { x with st := .done, todo := [], buf := [], left := 0 }) ref k
  | none => s
def grpFail (s : State) (ref : JobRef) (k err gen hi : Nat) : State :=
  match runGrp s ref k with
  | some (j, _, x) =>
    updErr (setGrp s ref k { x with st := .failed err, todo := [], buf := [], left := 0 }) j (gidOf s j k x) err gen hi
  | none => s
def grpBad (s : State) (ref : JobRef) (k w : Nat) : State :=
  match runGrp s ref k with
  | some (j, _, x) =>
    reportUe (setGrp s ref k { x with st := .failed (ueErr s w), todo := [], buf := [], left := 0 }) w (modFloe s) (some (jobCmd s j.ref))
  | none => s
/-- What a command of UPD reads of a group: the state of a T2 group that INGEST reads lies in its own buffer. -/
def Grp.reads (g : Grp) (s : State) (d : List Byte) : List (Nat × Nat) :=
  let state := g.slots.map (fun k => (g.stBase k, g.slotBytes k))
  (g.at_, 256) :: g.planes ++
    (if dFam d = 8 then (g.rb, g.rbBytes) :: state ++ (if g.readsNormIn then [(g.normIn, 16)] else [])
     else if dFam d = 0xD then [g.wcRange (g.slotOf (g.committed s))]
     else if dVar d = 0 then (g.rb, g.rbBytes) :: (if g.tier ≠ 2 ∧ (g.rule = 5 ∨ g.rule = 7) then state else [])
     else [])
/-- ZERO_RB's writes of a chunk (R247). -/
def Grp.zeroWrites (g : Grp) (c : Nat) : List (Nat × List Byte) := if g.zeroRb then (chunkElems g c).map (fun n => (g.rbAddr n, le32 0)) else []
def Grp.zeroRuns (g : Grp) : List (Nat × Nat) := (List.range g.chunks).flatMap (fun c => runsOf (g.zeroWrites c))
/-- What it writes, run by run. -/
def Grp.writes (g : Grp) (s : State) (d : List Byte) (step : Nat) : List (Nat × Nat) :=
  let state := g.slots.map (fun k => (g.stBase k, g.slotBytes k))
  let wc := runsOf (g.wcWrites s step (g.slotOf step))
  if dFam d = 8 then g.planes ++ state ++ wc ++ g.zeroRuns
  else if dFam d = 0xD then []
  else if dVar d = 0 then [(g.rb, g.rbBytes), (g.normOut, 32)] ++ (if g.factored && g.tier != 2 then state else [])
  else wc ++ g.zeroRuns
/-- R202: the first uncorrectable word that a command's work on a group reads or merges with; a T2 group's working copy, derived chunk by
chunk, merges everywhere. -/
def grpStop (s : State) (j : Job) (g : Grp) : Option Nat :=
  let r := g.reads s j.desc ++ (if g.tier = 2 ∧ dFam j.desc = 8 then [g.wcRange (g.slotOf (uStep j.args))] else [])
  if memSound s then none
  else (r.findSome? (fun r => badIn s r.1 r.2)).or ((g.writes s j.desc (uStep j.args)).findSome? (fun r => badPartly s r.1 r.2))
/-- DESIGN CHOICE (log entry 12): the source of the accesses of UPD that the spec gives to no half: the die 0 half. -/
def updSource : MemSource := .upd 0
/-- Work on a group, where no uncorrectable word stops it: what it reads is noted. -/
def grpWork (s : State) (ref : JobRef) (k : Nat) (j : Job) (g : Grp) (go : State → State) : State :=
  match grpStop s j g with
  | some w => grpBad s ref k w
  | none => go (noteReads s updSource (g.reads s j.desc))
/-- R257: a T2 transfer not done in time. -/
def tierFail (s : State) (ref : JobRef) (k : Nat) : State :=
  match runGrp s ref k with
  | some (j, _, x) => grpFail s ref k eTIER_TIMEOUT 0 (grpRun s j k x).win
  | none => s

/-! ### T2 transfers (R257, R533) -/

def split4k (rd : Bool) (off addr : Nat) : Nat → Nat → List (Bool × Nat × Nat × Nat)
  | 0, _ => []
  | n + 1, len => if len = 0 then [] else (rd, off, addr, min 4096 len) :: split4k rd (off + 4096) (addr + 4096) n (len - 4096)
/-- The reads that fetch a group's state. -/
def fetchList (g : Grp) : List (Bool × Nat × Nat × Nat) :=
  g.slots.flatMap (fun k => split4k true (g.st k) (g.stBase k) (cdiv (g.slotBytes k) 4096) (g.slotBytes k))
/-- Bytes of the module or of an ingress's own buffer. -/
def bufRd (buf : List (Nat × List Byte)) (a n : Nat) : List Byte :=
  match buf.find? (fun e => decide (e.1 ≤ a ∧ a < e.1 + e.2.length)) with
  | some e => (e.2.drop (a - e.1)).take n
  | none => zeroBytes n
/-- Requests of a group sent while the window takes them. A window that is not valid sends nothing. -/
def pumpT2 : Nat → State → JobRef → Nat → State
  | 0, s, _, _ => s
  | n + 1, s, ref, k =>
    match runGrp s ref k with
    | none => s
    | some (j, _, x) =>
      match x.todo with
      | [] => s
      | (rd, off, addr, len) :: r =>
        let w := (grpRun s j k x).win
        if !hwValid s w || !hostRoom s w rd then s
        else if rfld s (hwReg w rHW_TIMEOUT) 31 8 = 0 then tierFail (breakWindow s w) ref k
        else
          let bytes := if rd then [] else if dFam j.desc = 8 then rdBytes s addr len else bufRd x.buf addr len
          let q : HostReq := { job := ref, k := k, t2 := true, unit := 0, rd := rd, off := off, len := len, addr := addr, bytes := bytes, sent := 0, tries := 0 }
          pumpT2 n (addHostReq (setGrp s ref k { x with todo := r, left := x.left + 1 }) w q) ref k
/-- A transfer of a group issued: the group waits, in state `st`; with a TIER_TIMEOUT of 0 it fails at once (R15). -/
def startT2 (s : State) (ref : JobRef) (k : Nat) (st : GrpSt) (todo : List (Bool × Nat × Nat × Nat)) : State :=
  match runGrp s ref k with
  | none => s
  | some (j, _, x) =>
    let s := setGrp s ref k { x with st := st, todo := todo, issued := s.clock }
    if uTierTimeout j.args = 0 then tierFail s ref k else pumpT2 todo.length s ref k
/-- A T2 request of a group answered. -/
def t2Answered (s : State) (q : HostReq) (bytes : List Byte) : State :=
  match runGrp s q.job q.k with
  | none => s
  | some (j, _, x) =>
    let b := fitBytes bytes q.len
    match (if q.rd && dFam j.desc == 8 then storeBytes s updSource q.addr b else (s, none)) with
    | (s, some w) => grpBad s q.job q.k w
    | (s, none) =>
      let x := { x with left := x.left - 1, buf := if q.rd && dFam j.desc != 8 then x.buf ++ [(q.addr, b)] else x.buf }
      pumpT2 x.todo.length (setGrp s q.job q.k x) q.job q.k

/-! ### Gradient ingress (R235, R236, R238) -/

def Grp.gtil (g : Grp) (s : State) (n : Nat) : Word := f32Mul g.gscale (g.rbAt s n)
/-- q of ADAFACTOR. -/
def Grp.adaQ (g : Grp) (s : State) (n : Nat) : Word := let x := g.gtil s n; f32Add (f32Mul x x) g.eps
def Grp.stat (g : Grp) (rd : Nat → Nat → List Byte) (k addr : Nat) : Word := decodeState (g.stSpec k) (g.sScale k) (leAt (rd addr 4) 0 4)
/-- The new row and column statistics, as stored (codes), and how many were NaN. -/
def newRho (g : Grp) (s : State) (rd : Nat → Nat → List Byte) (step : Nat) : List (Nat × Bool) :=
  (List.range g.rows).map (fun i => encodeState s g step 2 i
    (ema g.beta2 (g.stat rd 2 (rhoAddr g ((step + 1) % 2) i)) (meanF32 ((List.range g.cols).map (fun j => g.adaQ s (i * g.cols + j))))))
def newKappa (g : Grp) (s : State) (rd : Nat → Nat → List Byte) (step : Nat) : List (Nat × Bool) :=
  (List.range g.cols).map (fun j => encodeState s g step 3 j
    (ema g.beta2 (g.stat rd 3 (kappaAddr g ((step + 1) % 2) j)) (meanF32 ((List.range g.rows).map (fun i => g.adaQ s (i * g.cols + j))))))
def statVals (g : Grp) (k : Nat) (l : List (Nat × Bool)) : List Word := l.map (fun c => decodeState (g.stSpec k) (g.sScale k) c.1)
/-- r of rules 5 and 7 at ingress. -/
def ingestR (g : Grp) (s : State) (rd : Nat → Nat → List Byte) (rho kap : List Word) (n : Nat) : Word :=
  let gr := g.gtil s n
  if g.rule = 5 then
    lambR g (g.applied s + 1) (ema g.beta1 (g.stAt rd 1 n) gr) (ema g.beta2 (g.stAt rd 2 n) (f32Mul gr gr))
      (mulMaster g.lambda (g.hiAt s n) (g.loAt s n))
  else if g.rule = 7 then
    (if g.factored then adaR gr (factoredV rho kap (n / g.cols) (n % g.cols)) else adaR gr (ema g.beta2 (g.stAt rd 1 n) (g.adaQ s n)))
  else 0
def f32Sq (x : Word) : Word := f32Mul x x
def countKind (l : List (Word × Nat)) (k : Nat) : Nat := (l.filter (fun e => e.2 == k)).length
/-- INGEST's data work on a group, but for its end. -/
def ingestWork (s : State) (ref : JobRef) (k : Nat) (g : Grp) (step : Nat) (rd : Nat → Nat → List Byte) : State :=
  let es := (List.range g.count).map (fun n => ingestElem g (g.rbAt s n))
  let nan := countKind es 1
  let inf := countKind es 2
  let cl := countKind es 3
  let s := putWrites 0 s (((List.range g.count).zip es).map (fun e => (g.rbAddr e.1, le32 e.2.1.toNat)))
  let s := rinc (rinc (rinc s rUPD_NAN_REPL nan) rUPD_INF_REPL inf) rUPD_GCLAMP cl
  let s := setVoteIf (setVoteIf s (decide (0 < nan + inf)) vfNONFINITE) (decide (g.clampLimit < nan + inf + cl)) vfCLAMP_EXCESS
  let rho := if g.factored then newRho g s rd step else []
  let kap := if g.factored then newKappa g s rd step else []
  let s := rinc s rUPD_NAN_REPL ((rho ++ kap).filter (·.2)).length
  let r2 := if g.rule = 5 ∨ g.rule = 7 then chunkSum g (fun n => f32Sq (ingestR g s rd (statVals g 2 rho) (statVals g 3 kap) n)) else 0
  let sat (n : Nat) : Nat := min n 0xFFFFFFFF
  let rec0 := le32 (chunkSum g (fun n => f32Sq (g.gtil s n))).toNat ++
    le32 (chunkSum g (fun n => f32Sq (mulMaster f32One (g.hiAt s n) (g.loAt s n)))).toNat ++
    le32 r2.toNat ++ le32 (f32OfNat g.count).toNat ++ le32 (sat nan) ++ le32 (sat inf) ++ le32 (sat cl) ++ le32 0
  let s := store s updSource g.normOut rec0
  let copies := [(rhoAddr g (step % 2) 0, rho.flatMap (fun c => le32 c.1)), (kappaAddr g (step % 2) 0, kap.flatMap (fun c => le32 c.1))]
  if !g.factored then s
  else if g.tier = 2 then
    match runGrp s ref k with
    | some (_, _, x) => setGrp s ref k { x with buf := copies }
    | none => s
  else putWrites 0 s copies
def ingestEnd (s : State) (ref : JobRef) (k : Nat) (g : Grp) (step : Nat) : State := grpDone (store s updSource (g.at_ + 0xE8) (le64 step)) ref k
def rhoBack (g : Grp) (step : Nat) : List (Bool × Nat × Nat × Nat) :=
  let c := step % 2
  split4k false (g.st 2 + 4 * g.rows * c) (rhoAddr g c 0) (cdiv (4 * g.rows) 4096) (4 * g.rows) ++
    split4k false (g.st 3 + 4 * g.cols * c) (kappaAddr g c 0) (cdiv (4 * g.cols) 4096) (4 * g.cols)
/-- The ranges that commands in flight here, and accumulate-writes to this module not yet taken in, still add to. -/
def openAdds (s : State) : List (Nat × Nat) :=
  let own := (s.hold ++ s.due.map (·.pk)).map (fun pk => (pk, pk.payload.length))
  (s.jobs.filter (fun j => j.st == .running && !jobAway j)).flatMap (fun j => addRanges j.desc j.args j.extra) ++
    ((heldLens s ++ own).filter (fun x => x.1.op == opACC && x.1.dest == myId s)).map (fun x => (x.1.addr.toNat, x.2))
/-- R234: what a late addition touches of a reduction buffer is undefined. -/
def spoilLate (s : State) (g : Grp) : State :=
  (openAdds s).foldl (fun s r =>
    let lo := max r.1 g.rb
    makeUndef s lo (min (r.1 + r.2) (g.rb + g.rbBytes) - lo)) s
/-- INGEST of a group whose state is at hand; a factored T2 group then writes its statistics back. -/
def ingestGo (s : State) (ref : JobRef) (k : Nat) (g : Grp) (step : Nat) (rd : Nat → Nat → List Byte) : State :=
  let s := spoilLate (ingestWork (spoilLate s g) ref k g step rd) g
  if g.factored && g.tier == 2 then startT2 s ref k .writing (rhoBack g step) else ingestEnd s ref k g step
def ingestGrp (s : State) (ref : JobRef) (k : Nat) (j : Job) (g : Grp) (step : Nat) : State :=
  if step ≤ g.committed s then grpDone s ref k
  else if g.committed s + 1 < step then grpFail s ref k eSTEP_ORDER 0 0
  else if g.tier = 2 ∧ (g.rule = 5 ∨ g.rule = 7) ∧ fetchList g ≠ [] then startT2 s ref k .aside (fetchList g)
  else grpWork s ref k j g (fun s => ingestGo s ref k g step (rdBytes s))

/-! ### Working copies, element by element (R246, R248, R262) -/

def Grp.wcPlace (g : Grp) (k n : Nat) : Nat × Nat :=
  let b := fmtBits (spFmt g.wcSpec)
  if g.linear then linAddr (g.wc k) b n else swzAddr (g.wc k) g.wcStride b (n / g.cols) (n % g.cols)
/-- A code of b bits put by half h at a byte address and bit offset. -/
def putCode (h : Nat) (s : State) (p : Nat × Nat) (b code : Nat) : State :=
  let n := (p.2 + b + 7) / 8
  store s (.upd h) p.1 (leBytes (nput (leAt (rdBytes s p.1 n) 0 n) (p.2 + b - 1) p.2 code) n)
/-- R232: the half that processes chunk c, and the number of the half's chunks before it. -/
def Grp.half (g : Grp) (s : State) (c : Nat) : Nat := hbmCtl s.order (g.mwHi + 4096 * c) / 4
def Grp.before (g : Grp) (s : State) (c : Nat) : Nat := ((List.range c).filter (fun i => g.half s i == g.half s c)).length
/-- The working copy of an element derived again, with its block's scale. -/
def deriveElem (g : Grp) (step : Nat) (s : State) (n : Nat) : State :=
  let k := g.slotOf step
  let h := g.half s (n / 1024)
  let s := putCode h s (g.wcPlace k n) (fmtBits (spFmt g.wcSpec)) (g.wcCode s step n)
  if isBlockFmt (spFmt g.wcSpec) then store s (.upd h) (g.wcS8 k + g.wcScaleAt n) [BitVec.ofNat 8 (g.wcEnc s step n).1] else s
/-- R262: whether the stored element, or its block's scale, differs from what derivation gives. -/
def Grp.differs (g : Grp) (s : State) (step n : Nat) : Bool :=
  let k := g.slotOf step
  codeAt s (g.wcPlace k n) (fmtBits (spFmt g.wcSpec)) != g.wcCode s step n ||
    (isBlockFmt (spFmt g.wcSpec) && (rdByte s (g.wcS8 k + g.wcScaleAt n)).toNat != (g.wcEnc s step n).1)

/-! ### Commit of chunks (R244, R245, R247, R248) -/

/-- The chunks that the marks leave to do. -/
def Grp.pending (g : Grp) (s : State) : List Nat := (List.range g.chunks).filter (fun c => decide (g.mark s (g.half s c) ≤ g.before s c))
def zeroChunk (g : Grp) (s : State) (c : Nat) : State := putWrites (g.half s c) s (g.zeroWrites c)
/-- A logged chunk's master and state written to their places. -/
def writeChunk (g : Grp) (s : State) (l : LogEntry) : State :=
  let n0 := 1024 * l.chunk
  let m := MemSource.upd (g.half s l.chunk)
  let s := store (store s m (g.mwHi + 4 * n0) (l.hi.flatMap le32)) m (g.mwLo + 2 * n0) (l.lo.flatMap (fun x => leBytes x 2))
  putWrites (g.half s l.chunk) s (l.state.map (fun e => (g.stAddr e.1 n0, e.2)))
def advanceMark (g : Grp) (s : State) (c : Nat) : State :=
  let h := g.half s c
  if g.mark s h = g.before s c then store s (.upd h) (g.at_ + 0xF8 + 4 * h) (le32 (g.mark s h + 1)) else s

/-- An element's commit: master, state codes by slot, and what was replaced or clamped. -/
structure ElemOut where
  hi : Word
  lo : Nat
  st : List (Nat × Nat)
  nan : Nat := 0
  inf : Nat := 0
  ucl : Nat := 0
  wcl : Nat := 0
  deriving DecidableEq, Repr
/-- What a commit of a group works with: the step, the outcome, ETA_MULT, the norms, the clip factor, ADAFACTOR's statistics. -/
structure CommitCtx where
  step : Nat
  skip : Bool
  etaMult : Word
  nm : Norms
  k : Word
  rho : List Word
  kap : List Word
  deriving DecidableEq, Repr
def commitElem (s : State) (g : Grp) (x : CommitCtx) (n : Nat) : ElemOut :=
  let h := g.hiAt s n
  let l := g.loAt s n
  let rd := rdBytes s
  if x.skip then ⟨h, l, if g.factored then [] else g.slots.map (fun k => (k, leAt (rd (g.stAddr k n) (fmtBits (spFmt (g.stSpec k)) / 8)) 0 (fmtBits (spFmt (g.stSpec k)) / 8))), 0, 0, 0, 0⟩
  else
    let gr := f32Mul (g.gtil s n) x.k
    let at' (k : Nat) : Word := if g.slots.contains k && !g.factored then g.stAt rd k n else 0
    let vf := if g.factored then some (factoredV x.rho x.kap (n / g.cols) (n % g.cols)) else none
    let r := applyRule g x.nm x.etaMult (g.applied s + 1) gr (at' 1) (at' 2) vf h l
    let st := if g.factored then [] else g.slots.map (fun k => (k, encodeState s g x.step k n (if k = 1 then r.s1 else r.s2)))
    let u := stepUpdate g r.u
    let m := stepMaster g h l u.1
    ⟨m.1, m.2.1, st.map (fun e => (e.1, e.2.1)), (st.filter (·.2.2)).length + b2n (u.2 == 1), b2n (u.2 == 2), b2n (u.2 == 3), b2n m.2.2⟩
def chunkEntry (s : State) (g : Grp) (x : CommitCtx) (c : Nat) (es : List ElemOut) : LogEntry :=
  ⟨g.id, x.step, g.half s c, c, es.map (·.hi.toNat), es.map (·.lo),
   (if g.factored then [] else g.slots).map (fun k =>
     (k, es.flatMap (fun e => (e.st.filter (·.1 == k)).flatMap (fun q => leBytes q.2 (fmtBits (spFmt (g.stSpec k)) / 8))))), [], 0⟩
/-- R247 step 2: the half's log entry in HBM is written; the entry itself stands in the state, and the bytes of the area, whose layout the spec
does not give, are undefined. -/
def logArea (s : State) (g : Grp) (c : Nat) : State :=
  let a := rn64 s rUPD_LOG_BASE_LO + 65536 * g.half s c
  if rangeMapped s.order a 65536 then (storeUndef s (.upd (g.half s c)) a 65536).1 else s
/-- R247 steps 1 to 3 of a chunk but for the working copy, and its counts. -/
def commitChunk (s : State) (g : Grp) (x : CommitCtx) (c : Nat) : State × LogEntry :=
  let es := (chunkElems g c).map (commitElem s g x)
  let l := chunkEntry s g x c es
  let s := zeroChunk g (writeChunk g (logArea s g c) l) c
  let tot (f : ElemOut → Nat) : Nat := (es.map f).sum
  let s := rinc (rinc (rinc (rinc s rUPD_NAN_REPL (tot (·.nan))) rUPD_INF_REPL (tot (·.inf))) rUPD_UCLAMP (tot (·.ucl))) rUPD_WCLAMP (tot (·.wcl))
  (rinc64 s rUPD_ELEM_LO es.length, l)
def commitCtx (s : State) (j : Job) (g : Grp) (skip : Bool) : CommitCtx :=
  let f (i : Nat) : Word := if g.readsNormIn then w32 (rd32 s (g.normIn + 4 * i)) else 0
  let nm : Norms := ⟨f 0, f 1, f 2, f 3⟩
  let c := uStep j.args % 2
  let rd := rdBytes s
  ⟨uStep j.args, skip, uEtaMult j.args, nm, clipFactor g nm.g2,
   if g.factored then (List.range g.rows).map (fun i => g.stat rd 2 (rhoAddr g c i)) else [],
   if g.factored then (List.range g.cols).map (fun i => g.stat rd 3 (kappaAddr g c i)) else []⟩
def commitAll (s : State) (g : Grp) (x : CommitCtx) : State :=
  (g.pending s).foldl (fun s c => advanceMark g (commitChunk s g x c).1 c) s

def sameEntry (l m : LogEntry) : Bool := l.gid == m.gid && l.chunk == m.chunk
def putEntry (s : State) (l : LogEntry) : State := { s with updLog := s.updLog.map (fun m => if sameEntry l m then l else m) }
/-- R247: a log entry made invalid. -/
def dropEntry (s : State) (l : LogEntry) : State := { s with updLog := s.updLog.filter (fun m => !sameEntry l m) }
/-- R257: the writes that take a chunk's T2 state back to the host. -/
def backList (g : Grp) (l : LogEntry) : List (Nat × List Byte) :=
  l.state.map (fun e => (g.st e.1 + (g.stAddr e.1 (1024 * l.chunk) - g.stBase e.1), e.2))
/-- R248, R257: a replayed entry's write-backs sent while the window takes them; with an ACK_US of 0 the first fails as it is sent (R535). -/
def pumpLog : Nat → State → Nat → Nat → State
  | 0, s, _, _ => s
  | n + 1, s, gid, chunk =>
    match s.updLog.find? (fun l => l.gid == gid && l.chunk == chunk) with
    | none => s
    | some l =>
      match l.todo with
      | [] => s
      | (off, bytes) :: r =>
        let w := (grpOf s gid).win
        if !hwValid s w then s
        else if rfld s (hwReg w rHW_TIMEOUT) 31 8 = 0 then breakWindow s w
        else
          pumpLog n (addHostReq (putEntry s { l with todo := r, left := l.left + 1 }) w
            { job := .remote 0 0, k := gid, t2 := true, unit := chunk, rd := false, off := off, len := bytes.length, addr := 0, bytes := bytes,
              sent := 0, tries := 0, log := true }) gid chunk
/-- R257: whether an admitted command writes an entry's chunk back itself. -/
def entryBusy (s : State) (l : LogEntry) : Bool :=
  (admittedRuns s).any (fun r =>
    match getJob s r.job with
    | some j => (List.range r.grps.length).any (fun k =>
        (r.grps[k]?).elim false (fun x => x.st == .writing && x.chunk == l.chunk && gidOf s j k x == l.gid))
    | none => false)
/-- R247 steps 4 and 5: a chunk's mark advanced and its entry invalid. -/
def endEntry (s : State) (l : LogEntry) : State :=
  let g := grpOf s l.gid
  dropEntry (if g.markStep s = l.step then advanceMark g s l.chunk else s) l
/-- R202: an uncorrectable word that a replay merges with: no command is behind it. -/
def replayStop (s : State) (g : Grp) (l : LogEntry) : Option Nat :=
  ([(g.at_, 256), g.wcRange (g.slotOf l.step)].findSome? (fun r => badIn s r.1 r.2)).or
    ((g.planes ++ g.slots.map (fun k => (g.stBase k, g.slotBytes k)) ++ runsOf (g.zeroWrites l.chunk)).findSome? (fun r => badPartly s r.1 r.2))
/-- R248: a valid log entry replayed: master, state, working copy and ZERO_RB; then the mark, and the entry is invalid. A T2 group's entry
stays until its state is written back (R257). -/
def replayEntry1 (s : State) (l : LogEntry) : State :=
  let g := grpOf s l.gid
  match replayStop s g l with
  | some w => reportUe s w (modFloe s) none
  | none =>
    let s := writeChunk g s l
    let s := (chunkElems g l.chunk).foldl (deriveElem g l.step) s
    let s := rinc (zeroChunk g s l.chunk) rUPD_LOG_REPLAY 1
    if g.tier ≠ 2 ∨ l.state = [] then endEntry s l
    else if entryBusy s l ∨ l.left ≠ 0 then s
    else pumpLog l.state.length (putEntry s { l with todo := backList g l }) l.gid l.chunk
/-- R248: every valid log entry replayed. -/
def replayLogs (s : State) : State := s.updLog.foldl replayEntry1 s
/-- R263: with a commit of UPD's shadow pending and a log entry valid, the entry is replayed without waiting for a command. -/
def execIdleLogReplay (s : State) : Host.Outcome State Fault Refusal :=
  ok (if commitPending s winUpd ∧ admittedRuns s = [] then
        (match s.updLog with
         | [] => s
         | l :: _ => refreshUpd (replayEntry1 s l))
      else s)

/-! ### A group's commit (R242, R247, R253, R257) -/

/-- R253: whether the slot that step retires may be retired. -/
def retireMet (s : State) (g : Grp) (step : Nat) : Bool :=
  let k := g.slotOf step
  waitMet (getC s (g.rdctr k)).val (w64 (g.rdThresh s k)) && readersOf s g.at_ k == 0
/-- R247: the marks describe step s. -/
def setMarks (s : State) (g : Grp) (step : Nat) : State := store (store s updSource (g.at_ + 0xF8) (le64 0)) updSource (g.at_ + 0xF0) (le64 step)
/-- The group's commit point and what precedes it. -/
def commitEnd (s : State) (ref : JobRef) (k : Nat) (g : Grp) (step : Nat) (skip : Bool) : State :=
  let s := deriveWc s g step
  let ap := if skip then g.applied s else min (g.applied s + 1) (2 ^ 24 - 1)
  let s := store s updSource (g.at_ + 0xD8) (le64 (step * 2 ^ 24 + ap))
  grpDone (if skip then rinc s rUPD_SKIPS 1 else s) ref k
/-- R245: ADAFACTOR's statistics carried over a skipped step. -/
def carryStats (s : State) (g : Grp) (step : Nat) : State :=
  let a := (step + 1) % 2
  let b := step % 2
  putWrites 0 s [(rhoAddr g b 0, rdBytes s (rhoAddr g a 0) (4 * g.rows)), (kappaAddr g b 0, rdBytes s (kappaAddr g a 0) (4 * g.cols))]
/-- Whether a group's chunks are written back to the host. -/
def writesBack (g : Grp) (skip : Bool) : Bool := g.tier == 2 && !skip && !g.factored && g.slots != []
/-- R247: a log entry made valid. -/
def addLog (s : State) (l : LogEntry) : State := { s with updLog := s.updLog ++ [l] }
/-- The next chunk of a T2 group: logged, written, and its state sent back; or the commit point after the last. -/
def nextChunk (s : State) (ref : JobRef) (k : Nat) : State :=
  match runGrp s ref k with
  | none => s
  | some (j, u, x) =>
    let g := grpRun s j k x
    grpWork s ref k j g fun s =>
    let cx := commitCtx s j g u.skip
    match g.pending s with
    | [] => commitEnd s ref k g cx.step cx.skip
    | c :: _ =>
      let r := commitChunk s g cx c
      let s := (chunkElems g c).foldl (deriveElem g cx.step) (addLog r.1 r.2)
      let back := r.2.state.map (fun e =>
        let a := g.stAddr e.1 (1024 * c)
        (false, g.st e.1 + (a - g.stBase e.1), a, e.2.length))
      startT2 (setGrp s ref k { x with chunk := c }) ref k .writing back
/-- A group whose slot is retired and whose state is at hand. -/
def commitGo (s : State) (ref : JobRef) (k : Nat) : State :=
  match runGrp s ref k with
  | none => s
  | some (j, u, x) =>
    let g := grpRun s j k x
    if writesBack g u.skip then nextChunk s ref k
    else
      grpWork s ref k j g fun s =>
      let cx := commitCtx s j g u.skip
      let s := commitAll s g cx
      if cx.skip && g.factored then
        (let s := carryStats s g cx.step
         if g.tier = 2 then startT2 (setGrp s ref k { x with chunk := g.chunks }) ref k .writing (rhoBack g cx.step)
         else commitEnd s ref k g cx.step true)
      else commitEnd s ref k g cx.step cx.skip
/-- R253, R257: a group taken up by a STEP_COMMIT. -/
def takeUp (s : State) (ref : JobRef) (k : Nat) (j : Job) (g : Grp) : State :=
  let step := uStep j.args
  let cont := g.markStep s == step
  let genOk := cont || retireMet s g step
  let s := if genOk && !cont then setMarks s g step else s
  let fetch := if g.tier = 2 then fetchList g else []
  let t2Ok := fetch == []
  let s := setGrp s ref k { st := .aside, since := s.clock, issued := s.clock, genOk := genOk, t2Ok := t2Ok, taken := some (g.id, g.b.take 0xB8) }
  if genOk && t2Ok then commitGo s ref k
  else
    let s := rinc s rUPD_SETASIDE 1
    if !genOk && uGenTimeout j.args == 0 then grpFail s ref k eGEN_TIMEOUT (step - g.ngen) (g.rdctr (g.slotOf step))
    else if t2Ok then s else startT2 s ref k .aside fetch
def commitGrp (s : State) (ref : JobRef) (k : Nat) (j : Job) (g : Grp) : State :=
  let step := uStep j.args
  if step ≤ g.committed s then grpDone s ref k
  else if g.committed s + 1 < step then grpFail s ref k eSTEP_ORDER 0 0
  else if g.ingestStep s ≠ step then grpFail s ref k eNO_INGEST 0 0
  else takeUp s ref k j g

/-! ### INIT (R255) and AUDIT (R262) -/

/-- R255: INIT of a group at a step. -/
def initGroup (s : State) (g : Grp) (step : Nat) : State :=
  let s := { s with updLog := s.updLog.filter (fun l => l.gid != g.id) }
  let s := store s updSource (g.at_ + 0xD8) (le64 (step * 2 ^ 24 + g.applied s) ++ le64 step ++ le64 step ++ le64 step ++ le64 0)
  let s := deriveWc s g step
  (List.range g.chunks).foldl (zeroChunk g) s
def initGrp (s : State) (ref : JobRef) (k : Nat) (j : Job) (g : Grp) (step : Nat) : State :=
  grpWork s ref k j g fun s => grpDone (initGroup s g step) ref k
/-- R262: whether chunk c is checked. -/
def auditChunk (s : State) (g : Grp) (fraction c : Nat) : Bool :=
  decide (65536 ≤ fraction) ||
    decide ((srBits (seedOf s) (w64 (g.committed s)) (w64 (g.id * 2 ^ 40 + c)) 4).toNat % 65536 < fraction)
def auditGrp (s : State) (ref : JobRef) (k : Nat) (j : Job) (g : Grp) : State :=
  grpWork s ref k j g fun s =>
  let step := g.committed s
  let ns := if g.initStep s ≤ step then
      ((List.range g.chunks).filter (auditChunk s g (uFraction j.args))).flatMap (chunkElems g) else []
  let bad := ns.filter (g.differs s step)
  let rec0 := le32 ns.length ++ le32 (min bad.length 0xFFFFFFFF) ++ le64 ((bad.head?).getD (2 ^ 64 - 1))
  match storeBytes s updSource (uResult j.args + 16 * k) rec0 with
  | (s, some w) => grpBad s ref k w
  | (s, none) =>
    let s := rinc s rUPD_AUDIT_MISM bad.length
    let s := match getRun s ref with
      | some r => if bad ≠ [] ∧ r.mism = 0 then putRun s { r with mism := g.id } else s
      | none => s
    grpDone s ref k

/-! ### Work over a command's list (R229, R250, R383, R384) -/

/-- R384: whether another entry holds a group. -/
def heldElsewhere (s : State) (ref : JobRef) (k gid : Nat) : Bool :=
  (admittedRuns s).any (fun r =>
    match getJob s r.job with
    | some j => (List.range r.grps.length).any (fun i =>
        (r.job != ref || i != k) && ((r.grps[i]?).elim false (fun x => (x.st == .aside || x.st == .writing) && gidOf s j i x == gid)))
    | none => false)
/-- R248, R257: whether a command that works on a group's T2 state must wait for the write-back of a replayed entry. -/
def awaitsReplay (s : State) (j : Job) (g : Grp) : Bool :=
  g.tier == 2 && (dFam j.desc == 8 || (dFam j.desc == 6 && dVar j.desc == 0)) && s.updLog.any (fun l => l.gid == g.id)
/-- The group waits for it; with a TIER_TIMEOUT of 0 it fails at once (R15). -/
def setAsideReplay (s : State) (ref : JobRef) (k : Nat) : State :=
  match runGrp s ref k with
  | none => s
  | some (j, _, x) =>
    let s := setGrp s ref k { x with st := .aside, replay := true, issued := s.clock }
    if uTierTimeout j.args = 0 then tierFail s ref k else s
/-- A command's work on a group whose descriptor is read and good. -/
def takeGroup (s : State) (ref : JobRef) (k : Nat) (j : Job) (g : Grp) : State :=
  if dFam j.desc = 0xD then auditGrp s ref k j g
  else if awaitsReplay s j g then setAsideReplay s ref k
  else if dFam j.desc = 8 then commitGrp s ref k j g
  else if dVar j.desc = 1 then initGrp s ref k j g (uStep j.args)
  else ingestGrp s ref k j g (uStep j.args)
/-- A group of a list taken up, where no other command holds it: its words are read once in a command (R230). -/
def workGroup (s : State) (ref : JobRef) (k : Nat) : State :=
  match runGrp s ref k with
  | none => s
  | some (j, _, x) =>
    if x.st ≠ .fresh then s
    else
      let gid := gidOf s j k x
      if heldElsewhere s ref k gid then s
      else if x.taken.isSome then takeGroup s ref k j (grpRun s j k x)
      else
        match badIn s (uList j.args + 4 * k) 4 with
        | some w => grpBad s ref k w
        | none =>
          if uEntry s j.args k ≠ gid then grpFail s ref k eBAD_GROUP 0 0
          else
            match (if gid < rn s rUPD_GT_COUNT then badIn s (gdAddr s gid) 256 else none) with
            | some w => grpBad s ref k w
            | none =>
              if !groupOk s gid then grpFail s ref k eBAD_GROUP 0 0
              else
                let g := grpOf s gid
                takeGroup (setGrp s ref k { x with taken := some (gid, g.b.take 0xB8) }) ref k j g
def grpOver (x : UpdGrp) : Bool := match x.st with | .done => true | .failed _ => true | _ => false
def grpErr (x : UpdGrp) : Option Nat := match x.st with | .failed e => some e | _ => none
/-- R250: a command whose groups have all ended. -/
def closeRun (s : State) (r0 : UpdRun) : State :=
  match getRun s r0.job, getJob s r0.job with
  | some r, some j =>
    if r.admitted && r.grps.all grpOver then
      let s := refreshUpd (dropRun s r.job)
      match r.grps.findSome? grpErr with
      | some e => markFaulted s r.job r.part e
      | none =>
        if r.mism ≠ 0 then markFaulted (updErr s j r.mism eAUDIT_MISMATCH 0 0) r.job r.part eAUDIT_MISMATCH
        else markWorked (runProgress s r.job) r.job r.part
    else s
  | _, _ => s
def workGroups (s : State) (r : UpdRun) : State := closeRun ((List.range r.grps.length).foldl (fun s k => workGroup s r.job k) s) r
/-- Whether a command that is admitted still comes to a group whose log entry it must see replayed (R248, R257). -/
def replayAwaited (s : State) (l : LogEntry) : Bool :=
  (admittedRuns s).any (fun r =>
    match getJob s r.job with
    | some j => (List.range r.grps.length).any (fun k =>
        (r.grps[k]?).elim false (fun x => (x.st == .fresh || (x.st == .aside && x.replay)) && gidOf s j k x == l.gid && awaitsReplay s j (grpRun s j k x)))
    | none => false)
/-- R384: log replay runs ahead of every turn: an entry that a failed holder left, and that nothing replays yet. -/
def replayAhead (s : State) : State :=
  (s.updLog.filter (fun l => !entryBusy s l && l.left == 0 && l.todo.isEmpty && replayAwaited s l)).foldl replayEntry1 s
/-- Every admitted command's free groups worked, until nothing more changes hands. -/
def settleRuns : Nat → State → State
  | 0, s => s
  | n + 1, s => settleRuns n ((admittedRuns s).foldl workGroups (replayAhead s))
def settleUpd (s : State) : State := settleRuns (admittedRuns s).length s
/-- An admitted command begins: logs are replayed (R248), and a STEP_COMMIT reads the vote (R242). -/
def beginRun (s : State) (ref : JobRef) : State :=
  match getJob s ref, getRun s ref with
  | some j, some r =>
    let s := refreshUpd (replayLogs (refreshUpd s))
    if dFam j.desc = 8 ∧ (!rbit s rUPD_VOTE_RES 31 ∨ rn64 s rUPD_VOTE_STEP_LO ≠ uStep j.args) then
      markFaulted (refreshUpd (dropRun (updErr s j 0 eNO_VOTE 0 0) ref)) ref r.part eNO_VOTE
    else settleUpd (putRun s { r with skip := updSkips s })
  | _, _ => s
/-- A part reaches UPD: admitted, or waiting behind four others (R383). -/
def effUpd (s : State) (ref : JobRef) (p fam var : Nat) : State :=
  match freshOf s ref p fam var with
  | none => s
  | some (j, _) =>
    -- R394: a pending commit admits no new command
    if commitPending s winUpd then s else
    let adm := decide ((admittedRuns s).length < 4) && s.updRuns.all (·.admitted)
    let s := setPartSt { s with updRuns := s.updRuns ++ [⟨ref, p, adm, List.replicate (uCount j.args) {}, 0, false⟩] } ref p .busy
    if adm then beginRun s ref else s
/-- R235: UPDATE variant 0. -/
def execIngest (j : JobRef) (p : Nat) (s : State) : Host.Outcome State Fault Refusal := ok (effUpd s j p 6 0)
/-- R255: UPDATE variant 1. -/
def execInit (j : JobRef) (p : Nat) (s : State) : Host.Outcome State Fault Refusal := ok (effUpd s j p 6 1)
/-- R242. -/
def execStepCommit (j : JobRef) (p : Nat) (s : State) : Host.Outcome State Fault Refusal := ok (effUpd s j p 8 0)
/-- R262. -/
def execAudit (j : JobRef) (p : Nat) (s : State) : Host.Outcome State Fault Refusal := ok (effUpd s j p 0xD 0)
def effAdmit (s : State) : State :=
  if (admittedRuns s).length < 4 ∧ !commitPending s winUpd then
    match s.updRuns.find? (fun r => !r.admitted) with
    | some r => beginRun (putRun s { r with admitted := true }) r.job
    | none => s
  else s
/-- R383: the next waiting command is admitted. -/
def execUpdAdmit (s : State) : Host.Outcome State Fault Refusal := ok (effAdmit s)

/-! ### Groups set aside go on (R253, R257) -/

def effRetired (s : State) (ref : JobRef) (k : Nat) : State :=
  match runGrp s ref k with
  | some (j, _, x) =>
    let g := grpRun s j k x
    let step := uStep j.args
    if x.st = .aside ∧ !x.replay ∧ dFam j.desc = 8 ∧ !x.genOk ∧ retireMet s g step then
      let s := setGrp (setMarks s g step) ref k { x with genOk := true }
      if x.t2Ok then settleUpd (commitGo s ref k) else s
    else s
  | none => s
/-- R253: a set-aside group's slot is retired, and the group is committed. -/
def execRetirementWaitMet (j : JobRef) (k : Nat) (s : State) : Host.Outcome State Fault Refusal := ok (effRetired s j k)
def effGenTimeout (s : State) (ref : JobRef) (k : Nat) : State :=
  match runGrp s ref k with
  | some (j, _, x) =>
    let g := grpRun s j k x
    let step := uStep j.args
    if x.st = .aside ∧ !x.replay ∧ dFam j.desc = 8 ∧ !x.genOk ∧ x.since + us (uGenTimeout j.args) ≤ s.clock then
      settleUpd (grpFail s ref k eGEN_TIMEOUT (step - g.ngen) (g.rdctr (g.slotOf step)))
    else s
  | none => s
/-- R253: a retirement wait past GEN_TIMEOUT fails its group. -/
def execGenTimeout (j : JobRef) (k : Nat) (s : State) : Host.Outcome State Fault Refusal := ok (effGenTimeout s j k)
/-- R257: a group's transfer is complete. -/
def effT2Done (s : State) (ref : JobRef) (k : Nat) : State :=
  match runGrp s ref k with
  | some (j, _, x) =>
    if !x.todo.isEmpty || x.left != 0 || x.replay then s
    else
      let g := grpRun s j k x
      let step := uStep j.args
      if x.st = .aside ∧ dFam j.desc = 6 then settleUpd (grpWork s ref k j g (fun s => ingestGo s ref k g step (bufRd x.buf)))
      else if x.st = .writing ∧ dFam j.desc = 6 then settleUpd (ingestEnd s ref k g step)
      else if x.st = .aside ∧ !x.t2Ok then
        (let s := setGrp s ref k { x with t2Ok := true }
         if x.genOk then settleUpd (commitGo s ref k) else s)
      else if x.st = .writing then
        (if g.chunks ≤ x.chunk then settleUpd (grpWork s ref k j g (fun s => commitEnd s ref k g step true))
         else
           let s := advanceMark g s x.chunk
           let s := { s with updLog := s.updLog.filter (fun l => !(l.gid == g.id && l.chunk == x.chunk)) }
           settleUpd (nextChunk s ref k))
      else s
  | none => s
/-- R257: a transfer of a tier 2 chunk has ended. -/
def execT2TransferDone (j : JobRef) (k : Nat) (s : State) : Host.Outcome State Fault Refusal := ok (effT2Done s j k)
def effTierTimeout (s : State) (ref : JobRef) (k : Nat) : State :=
  match runGrp s ref k with
  | some (j, _, x) =>
    if (!x.todo.isEmpty || x.left != 0 || x.replay) && (x.st == .aside || x.st == .writing) && decide (x.issued + us (uTierTimeout j.args) ≤ s.clock) then
      settleUpd (tierFail s ref k)
    else s
  | none => s
/-- R257: a T2 transfer past TIER_TIMEOUT fails its group. -/
def execTierTimeout (j : JobRef) (k : Nat) (s : State) : Host.Outcome State Fault Refusal := ok (effTierTimeout s j k)

/-! ### Write-backs of replayed entries (R248, R257) -/

/-- Groups that waited for an entry that is invalid now are taken up. -/
def releaseReplay (s : State) (gid : Nat) : State :=
  if s.updLog.any (fun l => l.gid == gid) then s
  else
    settleUpd ((admittedRuns s).foldl (fun s r =>
      putRun s { r with grps := r.grps.map (fun x => if x.replay ∧ x.st = .aside ∧ (x.taken.map (·.1)) = some gid then { x with st := .fresh, replay := false } else x) }) s)
/-- A write-back of a replayed entry acknowledged: after the last, the entry is invalid. -/
def logAnswered (s : State) (q : HostReq) : State :=
  match s.updLog.find? (fun l => l.gid == q.k && l.chunk == q.unit) with
  | none => s
  | some l =>
    if l.left = 0 then s
    else
      let l := { l with left := l.left - 1 }
      if l.left = 0 ∧ l.todo = [] then refreshUpd (releaseReplay (endEntry s l) l.gid)
      else pumpLog l.todo.length (putEntry s l) l.gid l.chunk
/-- A write-back that failed: the entry stays valid, and the next replay writes it back again. -/
def logFailed (s : State) (q : HostReq) : State :=
  match s.updLog.find? (fun l => l.gid == q.k && l.chunk == q.unit) with
  | none => s
  | some l => putEntry s { l with todo := [], left := 0 }

end Sys2Proof.Machine
end

