-- ==== Sys2Proof/Machine/HostIo.lean ====
section
/-! DEFINITION. Answers, retransmission and rate of the requests to host windows (R532, R535). -/

namespace Sys2Proof.Machine

/-- A request of a window answered: a unit of a copy (R534), a T2 transfer (R257) or a replayed entry's write-back (R248). -/
def hostAnswered (s : State) (q : HostReq) (bytes : List Byte) : State :=
  if q.cut then s else if q.log then logAnswered s q else if q.t2 then t2Answered s q bytes else hostCopyAck s q bytes
/-- Groups and parts of a window that have more to send. -/
def pumpWindow (s : State) : State :=
  (admittedRuns s).foldl (fun s r => (List.range r.grps.length).foldl (fun s k =>
    match runGrp s r.job k with
    | some (_, _, x) => pumpT2 x.todo.length s r.job k
    | none => s) s) s
def effRoceAck (s : State) (w : Nat) (err : Bool) (bytes : List Byte) : State :=
  let h := getH s w
  match h.reqs with
  | [] => s
  | q :: r =>
    if err then s
    else pumpWindow (hostAnswered (putH s w { h with reqs := r }) q bytes)
/-- R535: the oldest request of a window is answered. An answer that is no acknowledgement leaves it unacknowledged. -/
def execRoceAck (w : Nat) (err : Bool) (bytes : List Byte) (s : State) : Host.Outcome State Fault Refusal := ok (effRoceAck s w err bytes)

/-- R535: a window whose retries are exhausted: its queue pair is in error, VALID is cleared, and what waited on it fails. -/
def hostGivesUp (s : State) (w : Nat) : State :=
  let h := getH s w
  let s := breakWindow (putH s w { h with reqs := [] }) w
  h.reqs.foldl (fun s q =>
    if q.cut then s
    else if q.log then logFailed s q
    else if q.t2 then
      match runGrp s q.job q.k with
      | some (_, _, x) => if x.st = .aside ∨ x.st = .writing then settleUpd (tierFail s q.job q.k) else s
      | none => s
    else if (partLive s q.job q.k).isSome then hostFailed s w q.job q.k
    else s) s
def effRoceTimeout (s : State) (w : Nat) : State :=
  let h := getH s w
  match h.reqs with
  | [] => s
  | q :: r =>
    if s.clock < q.sent + hwAckNs s w then s
    else if q.tries < rfld s (hwReg w rHW_TIMEOUT) 2 0 then
      sendRoce (putH s w { h with reqs := { q with tries := q.tries + 1, sent := s.clock } :: r }) w q
    else hostGivesUp s w
/-- R535: the oldest request of a window is sent again, or the window gives up. -/
def execRoceAckTimeout (w : Nat) (s : State) : Host.Outcome State Fault Refusal := ok (effRoceTimeout s w)

/-- R532: the send rate halved; all that the window then lacks of the full rate is the rate lost (log entry 74). -/
def effCnp (s : State) (w : Nat) : State :=
  let h := getH s w
  if w < 64 then putH s w { h with rate := h.rate / 2, lost := 1 - h.rate / 2, rateAt := s.clock } else s
def execCongestionNotification (w : Nat) (s : State) : Host.Outcome State Fault Refusal := ok (effCnp s w)
/-- R532: every 50 µs an eighth of the rate lost is restored, up to the full rate. -/
def effRateRestore (s : State) (w : Nat) : State :=
  let h := getH s w
  if w < 64 ∧ h.rateAt + us 50 ≤ s.clock then
    putH s w { h with rate := if h.rate + h.lost / 8 < 1 then h.rate + h.lost / 8 else 1, rateAt := s.clock }
  else s
def execRateRestore (w : Nat) (s : State) : Host.Outcome State Fault Refusal := ok (effRateRestore s w)

end Sys2Proof.Machine
end

