-- ==== Sys2Proof/Machine/Cipher.lean ====
section
/-! DEFINITION. The cipher engine (R476–R505): root keys, key slots and derivation, the queued class, stream contexts and their images, alarms and erasure. -/

namespace Sys2Proof.Machine

/-! ### Keys (R478–R482) -/

/-- Root r's key, where it is loaded. -/
def rootKey (s : State) (r : Nat) : Option (List Nat) :=
  if r = 0 then (if s.root0Gone then none else some (beBytes Config.deviceKey.toNat 32))
  else
    let k := smGet (fun _ => ([] : List Nat)) s.roots r
    if k = [] then none else some k
def setRoot (s : State) (r : Nat) (k : List Nat) : State := { s with roots := smSet (fun _ => ([] : List Nat)) s.roots r k }
/-- R504: what CPH_ROOT_STAT reads. -/
def rootStat (s : State) : Nat := ((List.range 8).map (fun r => if (rootKey s r).isSome then 2 ^ r else 0)).sum
def slotDefault (_ : Nat) : KeySlot := {}
def getKs (s : State) (n : Nat) : KeySlot := smGet slotDefault s.keySlots n
/-- R481. -/
def kcvOf (key : List Nat) : List Nat := (aesEncrypt key (List.replicate 16 0xA5)).take 8
def slotKcv (x : KeySlot) : List Nat := if x.ready then kcvOf x.key else List.replicate 8 0
/-- A slot changed, with its registers. -/
def putKs (s : State) (n : Nat) (x : KeySlot) : State :=
  let s := { s with keySlots := smSet slotDefault s.keySlots n x }
  let o (b : Nat) : Nat := wreg winCph (b % 65536 + 16 * n)
  let k := slotKcv x
  rputN (rputN (rputN s (o rSLOT_STAT) (x.kgen * 2 ^ 24 + (if x.ready then x.root * 65536 + x.usage * 16 + 1 else 0)))
    (o rSLOT_KCV_LO) (beNat (k.take 4))) (o rSLOT_KCV_HI) (beNat (k.drop 4))
/-- R482: a key derived from another by a label and a context. -/
def deriveKey (root label context : List Nat) : List Nat :=
  let inp (i : Nat) : List Nat := beBytes i 4 ++ label ++ [0] ++ context ++ [0, 0, 1, 0]
  cmacBytes root (inp 1) ++ cmacBytes root (inp 2)
/-- R480: a slot emptied by an alarm or a reset; KGEN counts DERIVE and ERASE only. -/
def emptySlot (s : State) (n : Nat) : State :=
  let x := getKs s n
  if x.ready then putKs s n { kgen := x.kgen } else s

/-! ### Contexts (R496) -/

def ctxDefault (_ : Nat) : CipherCtx := {}
def getCx (s : State) (c : Nat) : CipherCtx := smGet ctxDefault s.ctxs c
def putCx (s : State) (c : Nat) (x : CipherCtx) : State :=
  let s := { s with ctxs := smSet ctxDefault s.ctxs c x }
  let s := rputN s (wreg winCph (rCTX_STAT % 65536 + 4 * c))
    (if x.isOpen then 2 ^ 31 + x.smode * 2 ^ 29 + b2n (decide (0 < x.dataTotal)) * 2 ^ 28 + x.slot * 256 else 0)
  rputN s rCPH_CTX_OPEN s.ctxs.length
def freeCx (s : State) (c : Nat) : State := putCx s c {}

/-! ### The engine's state, counts and errors (R504, R505) -/

/-- R505: an error of the engine; kind 7 of R554 names the context and the slot. -/
def cphErr (s : State) (j : Job) (err causes : Nat) : State :=
  let a := j.args
  let v := dVar j.desc
  let cx := if 4 ≤ v ∧ v ≤ 6 then ciCtx a else 0
  let c := jobCmd s j.ref
  reportErr s winCph err (objOf 7 (cx * 65536 + ciSlot a * 256)) (some c) [v * 2 ^ 28 + cx * 65536 + ciSlot a * 256, c.seq, c.floe, causes]
def cphFail (s : State) (ref : JobRef) (p err : Nat) : State :=
  match getJob s ref with
  | some j => markFaulted (cphErr s j err (if err = eCIPHER_DOWN ∧ cphLatched s then rfld s rCPH_ALARM 3 0 else 0)) ref p err
  | none => s
def cphBad (s : State) (ref : JobRef) (p w : Nat) : State := markFaulted (reportUe s w (modFloe s) (some (jobCmd s ref))) ref p (ueErr s w)
/-- A request done: counted, its units retired, its work ended. -/
def cphDone (s : State) (ref : JobRef) (p units bytes : Nat) : State :=
  let s := rinc64 (rinc64 s rCPH_REQS_LO 1) rCPH_BYTES_LO bytes
  let s := match getJob s ref with
    | some j => putJob s { j with total := units }
    | none => s
  markWorked (unitsRetired s ref (List.range units)) ref p
/-- What a command reads: IN and AAD, an expected tag, a context image. -/
def ciReads (j : Job) : List (Nat × Nat) :=
  let a := j.args
  if dVar j.desc = 6 then [(ciIn a, if ciWrapped a then 160 else 128)] else if dVar j.desc = 7 then [(ciAad a, 48)]
  else [(ciIn a, ciLen a), (ciAad a, ciAadLen a)] ++ (if dVar j.desc = 1 then [(ciTag a, 16)] else [])
/-- The ranges that most variants read: IN and AAD. -/
def ciIns (a : List Byte) : List (Nat × Nat) := [(ciIn a, ciLen a), (ciAad a, ciAadLen a)]
/-- R491: output is written; where it overlaps an input that is not the same range, it is undefined. -/
def putOut (s : State) (ins : List (Nat × Nat)) (outA n : Nat) (b : List Byte) : State × Option Nat :=
  if ins.any (fun i => decide (i ≠ (outA, n) ∧ 0 < n ∧ 0 < i.2 ∧ i.1 < outA + n ∧ outA < i.1 + i.2)) then storeUndef s .cph outA n else storeBytes s .cph outA b

/-! ### The queued class (R492, R493) -/

def reqSlot (s : State) (r : CphReq) : Nat :=
  match r with
  | .cmd j _ => (getJob s j).elim 64 (fun x => ciSlot x.args)
  | .sxu ad _ => ad.slot
  | .sxuOpen _ slot _ => slot
/-- Entries of commands that have ended some other way are gone. -/
def cphPrune (s : State) : State :=
  let live (j : JobRef) (p : Nat) : Bool := (partLive s j p).isSome
  { s with cphQ := s.cphQ.filter (fun r => match r with | .cmd j p => live j p | _ => true), cphWait := s.cphWait.filter (fun r => live r.1 r.2) }
/-- Whether a request is the first of its slot in the queue. -/
def cphFirst (s : State) (r : CphReq) : Bool := (s.cphQ.find? (fun x => reqSlot s x == reqSlot s r)) == some r
/-- Whether the engine takes work. -/
def cphUp (s : State) : Bool := winThere s winCph && rbit s rCPH_CTRL 0 && !cphLatched s
/-- A command of the queued class at its turn: it leaves the queue, and its variant's work is done. While LATCHED the engine admits none (R485). -/
def cphRun (s : State) (ref : JobRef) (p var : Nat) (f : State → Job → State) : State :=
  let s := cphPrune s
  match freshOf s ref p 0xE var with
  | none => s
  | some (j, _) =>
    if cphLatched s then refreshCph (cphFail s ref p eCIPHER_DOWN)
    else if !cphFirst s (.cmd ref p) then s
    else
      let s := { s with cphQ := s.cphQ.filter (· != CphReq.cmd ref p) }
      refreshCph (if cphUp s then f s j else cphFail s ref p eCIPHER_DOWN)
/-- R490: the key of a slot for a use. -/
def slotFor (s : State) (n bit : Nat) : Except Nat (List Nat) :=
  let x := getKs s n
  if !x.ready then .error eCPH_NOKEY else if nbit x.usage bit then .ok x.key else .error eCPH_USAGE

def doSeal (ref : JobRef) (p : Nat) (s : State) (j : Job) : State :=
  let a := j.args
  match slotFor s (ciSlot a) 0 with
  | .error e => cphFail s ref p e
  | .ok key =>
    match (badIn s (ciIn a) (ciLen a)).or (badIn s (ciAad a) (ciAadLen a)) with
    | some w => cphBad s ref p w
    | none =>
      let r := gcmSealBytes key ((ciIv a).take 12) (natsOf (rdBytes s (ciAad a) (ciAadLen a))) (natsOf (rdBytes s (ciIn a) (ciLen a)))
      match putOut (noteReads s .cph (ciReads j)) (ciIns a) (ciOut a) (ciLen a) (bytesOf r.1) with
      | (s, some w) => cphBad s ref p w
      | (s, none) =>
        match putOut s (ciIns a) (ciTag a) 16 (bytesOf r.2) with
        | (s, some w) => cphBad s ref p w
        | (s, none) => cphDone s ref p (cdiv (ciLen a) 4096) (ciLen a + ciAadLen a)
/-- R476, R487: GCM_SEAL. -/
def execGcmSeal (j : JobRef) (p : Nat) (s : State) : Host.Outcome State Fault Refusal := ok (cphRun s j p 0 (doSeal j p))
def doOpen (ref : JobRef) (p : Nat) (s : State) (j : Job) : State :=
  let a := j.args
  match slotFor s (ciSlot a) 0 with
  | .error e => cphFail s ref p e
  | .ok key =>
    match ((badIn s (ciIn a) (ciLen a)).or (badIn s (ciAad a) (ciAadLen a))).or (badIn s (ciTag a) 16) with
    | some w => cphBad s ref p w
    | none =>
      match gcmOpenBytes key ((ciIv a).take 12) (natsOf (rdBytes s (ciAad a) (ciAadLen a))) (natsOf (rdBytes s (ciIn a) (ciLen a))) (natsOf (rdBytes s (ciTag a) 16)) with
      | none =>
        let s := noteReads s .cph (ciReads j)
        cphFail (rinc (storeNoted s .cph (ciOut a) (zeroBytes (ciLen a)) (modFloe s) (some (jobCmd s ref))) rCPH_AUTH_FAIL 1) ref p eCPH_AUTH
      | some pt =>
        match putOut (noteReads s .cph (ciReads j)) ((ciTag a, 16) :: ciIns a) (ciOut a) (ciLen a) (bytesOf pt) with
        | (s, some w) => cphBad s ref p w
        | (s, none) => cphDone s ref p 1 (ciLen a + ciAadLen a)
/-- R494: GCM_OPEN. -/
def execGcmOpen (j : JobRef) (p : Nat) (s : State) : Host.Outcome State Fault Refusal := ok (cphRun s j p 1 (doOpen j p))
def doCtr (ref : JobRef) (p : Nat) (s : State) (j : Job) : State :=
  let a := j.args
  match slotFor s (ciSlot a) 1 with
  | .error e => cphFail s ref p e
  | .ok key =>
    match badIn s (ciIn a) (ciLen a) with
    | some w => cphBad s ref p w
    | none =>
      match putOut (noteReads s .cph (ciReads j)) [(ciIn a, ciLen a)] (ciOut a) (ciLen a)
          (bytesOf (aesCtr true key (beNat (ciIv a)) (natsOf (rdBytes s (ciIn a) (ciLen a))))) with
      | (s, some w) => cphBad s ref p w
      | (s, none) => cphDone s ref p (cdiv (ciLen a) 4096) (ciLen a)
/-- R476, R487: CTR. -/
def execCtr (j : JobRef) (p : Nat) (s : State) : Host.Outcome State Fault Refusal := ok (cphRun s j p 2 (doCtr j p))
def doCmac (ref : JobRef) (p : Nat) (s : State) (j : Job) : State :=
  let a := j.args
  match slotFor s (ciSlot a) 2 with
  | .error e => cphFail s ref p e
  | .ok key =>
    match badIn s (ciIn a) (ciLen a) with
    | some w => cphBad s ref p w
    | none =>
      match putOut (noteReads s .cph (ciReads j)) [(ciIn a, ciLen a)] (ciTag a) 16 (bytesOf (cmacBytes key (natsOf (rdBytes s (ciIn a) (ciLen a))))) with
      | (s, some w) => cphBad s ref p w
      | (s, none) => cphDone s ref p 1 (ciLen a)
/-- R476, R487: CMAC. -/
def execCmac (j : JobRef) (p : Nat) (s : State) : Host.Outcome State Fault Refusal := ok (cphRun s j p 3 (doCmac j p))
def doDerive (ref : JobRef) (p : Nat) (s : State) (j : Job) : State :=
  let a := j.args
  match rootKey s (ciRoot a), badIn s (ciAad a) 48 with
  | none, _ => cphFail s ref p eCPH_NOKEY
  | some _, some w => cphBad s ref p w
  | some r, none =>
    let x := getKs s (ciSlot a)
    let key := deriveKey r (natsOf (rdBytes s (ciAad a) 16)) (natsOf (rdBytes s (ciAad a + 16) 32))
    cphDone (putKs { noteReads s .cph (ciReads j) with keysUsed := true } (ciSlot a) ⟨true, key, ciUsage a, ciRoot a, (x.kgen + 1) % 256⟩) ref p 1 0
/-- R482: DERIVE. -/
def execDerive (j : JobRef) (p : Nat) (s : State) : Host.Outcome State Fault Refusal := ok (cphRun s j p 7 (doDerive j p))
def doErase (ref : JobRef) (p : Nat) (s : State) (j : Job) : State :=
  let n := ciSlot j.args
  cphDone (putKs s n { kgen := ((getKs s n).kgen + 1) % 256 }) ref p 1 0
/-- R480: ERASE. -/
def execErase (j : JobRef) (p : Nat) (s : State) : Host.Outcome State Fault Refusal := ok (cphRun s j p 8 (doErase j p))

/-- R492: an entry has freed: the oldest waiting command enters the queue, and the oldest waiting message of SXU. -/
def effEntryFreed (s : State) : State :=
  let s := cphPrune s
  let s := match s.cphWait with
    | r :: l => if cphCmds s < 512 then { s with cphQ := s.cphQ ++ [CphReq.cmd r.1 r.2], cphWait := l } else s
    | [] => s
  let s := match s.sxuWait with
    | r :: l => if s.cphQ.length - cphCmds s < 512 then { s with cphQ := s.cphQ ++ [r], sxuWait := l } else s
    | [] => s
  refreshCph s
def execCmdQueueEntryFreed (s : State) : Host.Outcome State Fault Refusal := ok (effEntryFreed s)

/-! ### The stream class (R496–R502) -/

/-- A stream-class command: refused by a state of the context leaves the context; any other failure frees it (R497). -/
def streamFail (s : State) (ref : JobRef) (p c err : Nat) : State :=
  cphFail (if err = eCPH_CTX_STATE then s else freeCx s c) ref p err
/-- The context a STREAM works in: opened by INIT, or the one that stands. -/
def streamCtx (s : State) (a : List Byte) : Except Nat CipherCtx :=
  let x := getCx s (ciCtx a)
  if ciInit a then
    (if x.isOpen then .error eCPH_CTX_STATE
     else
       match slotFor s (ciSlot a) (if ciSmode a = 2 then 1 else 0) with
       | .error e => .error e
       | .ok key =>
         let ctr := ciSmode a == 2
         let j0 := if ctr then beNat (ciIv a) else gcmJ0 ((ciIv a).take 12)
         .ok { isOpen := true, smode := ciSmode a, slot := ciSlot a, kcv := kcvOf key, j0 := j0, cb := if ctr then j0 else j0 + 1 })
  else if !x.isOpen then .error eCPH_CTX_STATE
  else if slotKcv (getKs s x.slot) ≠ x.kcv then .error eCPH_KEY_MISMATCH
  else if !nbit (getKs s x.slot).usage (if x.smode = 2 then 1 else 0) then .error eCPH_USAGE
  else if (ciAadLen a ≠ 0 ∧ x.dataTotal ≠ 0) then .error eCPH_CTX_STATE
  else .ok x
/-- The counter block after n blocks. -/
def nextCb (wide : Bool) (cb n : Nat) : Nat :=
  if wide then (cb + n) % 2 ^ 128 else cb / 2 ^ 32 * 2 ^ 32 + (cb + n) % 2 ^ 32
/-- The tag of a GCM context as it stands. -/
def ctxTag (key : List Nat) (x : CipherCtx) : List Nat :=
  let y := ghashMul (x.y ^^^ (x.aadTotal * 8 * 2 ^ 64 + x.dataTotal * 8)) (gcmH key)
  bxor (beBytes y 16) (aesEncrypt key (beBytes x.j0 16))
/-- A segment's effect on the context, and its output. -/
def segment (key : List Nat) (x : CipherCtx) (aad data : List Nat) (out : Nat) : CipherCtx × List Nat :=
  let ctr := x.smode == 2
  let o := aesCtr ctr key x.cb data
  let h := gcmH key
  let y := if ctr then 0 else ghash h (ghash h x.y aad) (if x.smode = 1 then data else o)
  ({ x with y := y, cb := nextCb ctr x.cb (blocks16 data.length), aadTotal := x.aadTotal + aad.length, dataTotal := x.dataTotal + data.length,
            outBase := if x.smode = 1 ∧ x.outBase = none ∧ data.length ≠ 0 then some out else x.outBase }, o)
/-- R499: the output of a decrypting context overwritten. -/
def wipeCtx (s : State) (x : CipherCtx) : State :=
  match x.outBase with
  | some b => if x.smode = 1 then storeNoted s .cph b (zeroBytes x.dataTotal) (modFloe s) none else s
  | none => s
def finishStream (s : State) (ref : JobRef) (p c : Nat) (a : List Byte) (key : List Nat) (x : CipherCtx) : State :=
  let units := if x.smode = 1 then 1 else cdiv (ciLen a) 4096
  let n := ciLen a + ciAadLen a
  if !ciFinal a then cphDone (putCx s c x) ref p units n
  else if x.smode = 2 then cphDone (freeCx s c) ref p units n
  else if x.smode = 0 then
    (match putOut s (ciIns a) (ciTag a) 16 (bytesOf (ctxTag key x)) with
     | (s, some w) => cphBad (freeCx s c) ref p w
     | (s, none) => cphDone (freeCx s c) ref p units n)
  else
    match badIn s (ciTag a) 16 with
    | some w => cphBad (freeCx s c) ref p w
    | none =>
      let s := noteRead s .cph (ciTag a) 16
      if natsOf (rdBytes s (ciTag a) 16) = ctxTag key x then cphDone (freeCx s c) ref p units n
      else streamFail (rinc (wipeCtx s x) rCPH_AUTH_FAIL 1) ref p c eCPH_AUTH
def doStream (s : State) (ref : JobRef) (p : Nat) (j : Job) : State :=
  let a := j.args
  let c := ciCtx a
  match streamCtx s a with
  | .error e => streamFail s ref p c e
  | .ok x =>
    let key := (getKs s x.slot).key
    if 2 ^ 36 - 32 < x.dataTotal + ciLen a ∨ 2 ^ 32 - 16 < x.aadTotal + ciAadLen a then streamFail s ref p c eCPH_LIMIT
    else if x.smode = 1 ∧ ciLen a ≠ 0 ∧ ((x.outBase.map (· + x.dataTotal)).getD (ciOut a)) ≠ ciOut a then streamFail s ref p c eCPH_ORDER
    else
      match (badIn s (ciIn a) (ciLen a)).or (badIn s (ciAad a) (ciAadLen a)) with
      | some w => cphBad (freeCx s c) ref p w
      | none =>
        let r := segment key x (natsOf (rdBytes s (ciAad a) (ciAadLen a))) (natsOf (rdBytes s (ciIn a) (ciLen a))) (ciOut a)
        let tag := if ciFinal a && x.smode == 1 then [(ciTag a, 16)] else []
        match putOut (noteReads s .cph (ciReads j)) (tag ++ ciIns a) (ciOut a) (ciLen a) (bytesOf r.2) with
        | (s, some w) => cphBad (freeCx s c) ref p w
        | (s, none) => finishStream s ref p c a key r.1
/-- R498: a command of the stream class runs behind the earlier ones of its context. -/
def streamEarlier (s : State) (ref : JobRef) (c : Nat) : Bool :=
  (s.jobs.takeWhile (fun j => j.ref != ref)).any (fun j =>
    dFam j.desc == 0xE && decide (4 ≤ dVar j.desc ∧ dVar j.desc ≤ 6) && ciCtx j.args == c && j.parts.any (fun x => !x.away && x.st == .sent) && j.st == .running)
def streamRun (s : State) (ref : JobRef) (p var : Nat) (f : State → JobRef → Nat → Job → State) : State :=
  match freshOf s ref p 0xE var with
  | none => s
  | some (j, _) =>
    if streamEarlier s ref (ciCtx j.args) then s
    else refreshCph (if cphUp s then f s ref p j else if var = 4 then streamFail s ref p (ciCtx j.args) eCIPHER_DOWN else cphFail s ref p eCIPHER_DOWN)
/-- R496. -/
def execStream (j : JobRef) (p : Nat) (s : State) : Host.Outcome State Fault Refusal := ok (streamRun s j p 4 doStream)
/-- R500: the clear image. -/
def ctxImage (x : CipherCtx) : List Byte :=
  le32 (2 ^ 24 + x.smode * 2 ^ 22 + b2n (decide (0 < x.dataTotal)) * 2 ^ 21 + x.slot * 256) ++ le32 0 ++ bytesOf x.kcv ++
    bytesOf (beBytes x.j0 16) ++ bytesOf (beBytes x.cb 16) ++ bytesOf (beBytes x.y 16) ++ le64 x.aadTotal ++ le64 x.dataTotal ++
    le64 (x.outBase.getD 0) ++ zeroBytes 40
def wrapHead (iv : List Nat) : List Byte := le32 (2 ^ 24) ++ bytesOf iv
def doSave (s : State) (ref : JobRef) (p : Nat) (j : Job) : State :=
  let a := j.args
  let x := getCx s (ciCtx a)
  if !x.isOpen then cphFail s ref p eCPH_CTX_STATE
  else
    match (if ciWrapped a then slotFor s (ciSlot a) 3 else .ok []) with
    | .error e => cphFail s ref p e
    | .ok key =>
      let f := takeFree s
      let iv := (List.range 12).map (fun i => (Config.freeByte f.1 i).toNat)
      let w := gcmSealBytes key iv (natsOf (wrapHead iv)) (natsOf (ctxImage x))
      let img := if ciWrapped a then wrapHead iv ++ bytesOf w.1 ++ bytesOf w.2 else ctxImage x
      match storeBytes (if ciWrapped a then f.2 else s) .cph (ciOut a) img with
      | (s, some b) => cphBad s ref p b
      | (s, none) => cphDone s ref p 1 0
/-- R500, R501: CTX_SAVE. The IV comes from the engine's random bit generator. -/
def execCtxSave (j : JobRef) (p : Nat) (s : State) : Host.Outcome State Fault Refusal := ok (streamRun s j p 5 doSave)
/-- A context from a clear image, where its version and reserved fields are right. -/
def imageCtx (b : List Byte) : Option CipherCtx :=
  let w := leAt b 0 4
  let dec := nbits w 23 22 == 1
  if nbits w 31 24 ≠ 1 ∨ nbits w 20 14 ≠ 0 ∨ nbits w 7 0 ≠ 0 ∨ leAt b 4 4 ≠ 0 ∨ nbits w 23 22 = 3 ∨ (b.drop 0x58).any (· != 0) then none
  else some { isOpen := true, smode := nbits w 23 22, slot := nbits w 13 8, kcv := natsOf ((b.drop 8).take 8), j0 := beNat (natsOf ((b.drop 0x10).take 16)),
              cb := beNat (natsOf ((b.drop 0x20).take 16)), y := beNat (natsOf ((b.drop 0x30).take 16)), aadTotal := leAt b 0x40 8, dataTotal := leAt b 0x48 8,
              outBase := if dec && nbit w 21 then some (leAt b 0x50 8) else none }
/-- The clear image that a restore reads. -/
def readImage (s : State) (a : List Byte) : Except Nat (List Byte) :=
  if !ciWrapped a then .ok (rdBytes s (ciIn a) 128)
  else
    match slotFor s (ciSlot a) 3 with
    | .error e => .error e
    | .ok key =>
      let h := rdBytes s (ciIn a) 16
      if leAt h 0 4 ≠ 2 ^ 24 then .error eBAD_DESC
      else
        match gcmOpenBytes key (natsOf (h.drop 4)) (natsOf h) (natsOf (rdBytes s (ciIn a + 16) 128)) (natsOf (rdBytes s (ciIn a + 0x90) 16)) with
        | none => .error eCPH_AUTH
        | some b => .ok (bytesOf b)
def doRestore (s : State) (ref : JobRef) (p : Nat) (j : Job) : State :=
  let a := j.args
  if (getCx s (ciCtx a)).isOpen then cphFail s ref p eCPH_CTX_STATE
  else
    match badIn s (ciIn a) (if ciWrapped a then 160 else 128) with
    | some w => cphBad s ref p w
    | none =>
      let s := noteReads s .cph (ciReads j)
      match readImage s a with
      | .error e => cphFail (if e = eCPH_AUTH then rinc s rCPH_AUTH_FAIL 1 else s) ref p e
      | .ok b =>
        match imageCtx b with
        | none => cphFail s ref p eBAD_DESC
        | some x =>
          if slotKcv (getKs s x.slot) ≠ x.kcv then cphFail s ref p eCPH_KEY_MISMATCH
          else cphDone (putCx s (ciCtx a) x) ref p 1 0
/-- R500, R502: CTX_RESTORE. -/
def execCtxRestore (j : JobRef) (p : Nat) (s : State) : Host.Outcome State Fault Refusal := ok (streamRun s j p 6 doRestore)

/-! ### Root registers (R478, R479, R486) -/

def rootOwner (owner : Nat) : Bool := owner == 109 || owner == 110
def rootData (s : State) : List Nat := (List.range 8).flatMap (fun k => beBytes (rn s (rCPH_ROOT_DATA + 4 * k)) 4)
def effRootCtl (s : State) (owner : Nat) (v : Word) : State :=
  let r := rfld s rCPH_ROOT_SEL 2 0
  if !winThere s winCph then s
  else if !rootOwner owner then rinc s rCPH_ROOT_REJ 1
  else if cphLatched s then s
  else
    let s := if wbit v 1 && r != 0 then setRoot s r [] else s
    let s := if wbit v 0 then
        (List.range 8).foldl (fun s k => rputN s (rCPH_ROOT_DATA + 4 * k) 0) (if r = 0 then s else { setRoot s r (rootData s) with keysUsed := true })
      else s
    s
/-- R478, R479: a write of CPH_ROOT_CTL with LOAD. -/
def execRootLoad (owner : Nat) (v : Word) (s : State) : Host.Outcome State Fault Refusal := ok (byAgent s owner (effRootCtl s owner (v ||| 1)))
/-- R478, R479: a write of CPH_ROOT_CTL with CLEAR. -/
def execRootClear (owner : Nat) (v : Word) (s : State) : Host.Outcome State Fault Refusal := ok (byAgent s owner (effRootCtl s owner (v ||| 2)))
def effLidEn (s : State) (v : Word) : State :=
  if !winThere s winCph ∨ (!wbit v 0 ∧ s.keysUsed) then s else rputBit s rCPH_ALARM_CFG 0 (wbit v 0)
/-- R486. -/
def execLidEnWrite (v : Word) (s : State) : Host.Outcome State Fault Refusal := ok (effLidEn s v)

/-! ### Erasure (R484, R504) -/

def cphJobs (s : State) : List (JobRef × Nat × Job) :=
  s.jobs.flatMap (fun j => if dFam j.desc = 0xE then (List.range j.parts.length).filterMap (fun p => (partLive s j.ref p).map (fun _ => (j.ref, p, j))) else [])
/-- R484: what an unfinished encryption, CTR request or CMAC leaves of its output. -/
def undefOut (s : State) (j : Job) : State :=
  let a := j.args
  let v := dVar j.desc
  let mode := if ciInit a then ciSmode a else (getCx s (ciCtx a)).smode
  let s := if v = 0 ∨ v = 2 ∨ (v = 4 ∧ mode ≠ 1) then (storeUndef s .cph (ciOut a) (ciLen a)).1 else s
  if v = 0 ∨ v = 3 ∨ (v = 4 ∧ mode = 0 ∧ ciFinal a) then (storeUndef s .cph (ciTag a) 16).1 else s
/-- Work not finished fails, the output of every open decrypting context is overwritten, and contexts and slots are emptied. -/
def cphWipe (s : State) : State :=
  let s := s.ctxs.foldl (fun s e => wipeCtx s e.2) s
  let s := (cphJobs s).foldl (fun s x => cphFail (undefOut s x.2.2) x.1 x.2.1 eCIPHER_DOWN) s
  let s := s.ctxs.foldl (fun s e => freeCx s e.1) s
  let s := s.keySlots.foldl (fun s e => emptySlot s e.1) s
  rinc { s with roots := [], cphQ := s.cphQ.filter (fun r => !isCmdReq r), cphWait := [] } rCPH_ERASES 1
/-- R484: an alarm. -/
def cphAlarm (s : State) (cause : Nat) : State :=
  if !winThere s winCph then s
  else
    let s := rputF s rCPH_ALARM 3 0 (rfld s rCPH_ALARM 3 0 ||| cause)
    let s := if cphLatched s then s else cphWipe (rputBit { s with root0Gone := true } rCPH_ALARM 31 true)
    evtSet (refreshCph { s with root0Gone := true }) winCph 4 (rn s rCPH_ALARM)

end Sys2Proof.Machine
end

