-- ==== Sys2Proof/Machine/Acnis.lean ====
section
/-! DEFINITION. SXU's peers and rounds, the site table's buffers (R401–R408), and the Acnis messages it sends: numbering, encryption, transmission and retransmission (R414, R421–R428). -/

namespace Sys2Proof.Machine

/-! ### Peers and rounds (R401, R408, R432, R445) -/

def pPort (s : State) (p : Nat) : Nat := rfld s (pOff rP_CFG p) 30 29
def pPrio (s : State) (p : Nat) : Nat := rfld s (pOff rP_CFG p) 23 16
def pSite (s : State) (p : Nat) : Nat := rfld s (pOff rP_CFG p) 15 8
def pSlot (s : State) (p : Nat) : Nat := rfld s (pOff rP_CFG p) 7 0
def pEpoch (s : State) (p : Nat) : Nat := rfld s (pOff rP_KEY p) 7 0
def pWeight (s : State) (p : Nat) : Word := rget s (pOff rP_WEIGHT p)
def pMisses (s : State) (p : Nat) : Nat := rfld s (pOff rP_STATE p) 15 11
def pRto (s : State) (p : Nat) : Nat := us (rn s (pOff rP_RTO p))
def pJoin (s : State) (p : Nat) : Nat := rn s (pOff rP_JOIN_ROUND p)
def setPState (s : State) (p st : Nat) : State := rputF s (pOff rP_STATE p) 3 0 st
def setMisses (s : State) (p n : Nat) : State := rputF s (pOff rP_STATE p) 15 11 n
def ownSite (s : State) : Nat := rfld s rSXU_SITE 23 16
def ownPrio (s : State) : Nat := rfld s rSXU_SITE 31 24
def exGroup (s : State) : Nat := rfld s rSXU_SITE 11 0
def sxRule (s : State) : Nat := rfld s rSXU_MERGE 31 30
def isoRounds (s : State) : Nat := rfld s rSXU_MERGE 28 24

def sxuHere (s : State) : Bool := winThere s winSxu
/-- R541: whether a reset holds SXU. -/
def sxuHeldReset (s : State) : Bool := s.resets.any (fun r => r.dom == 2 || r.dom == 4 || r.dom == 6)
/-- R411, R541, R568: whether SXU works: enabled, not held in reset, and no replay runs. -/
def sxuUp (s : State) : Bool := sxuHere s && rbit s rSXU_CTRL 0 && !sxuHeldReset s && !morReplay s
/-- R445. -/
def refreshSxu (s : State) : State :=
  if sxuHere s then setCode s winSxu (if !rbit s rSXU_CTRL 0 then 0 else if s.sxRuns.any (·.begun) then 2 else 1) else s
/-- R445: an event of SXU. -/
def sxEvent (s : State) (b : Nat) : State :=
  let s := rputBit s rSXU_EVT b true
  evtSet s winSxu 4 (rn s rSXU_EVT)
def evTIME_SKEW : Nat := 0
def evSLACK_TIGHT : Nat := 1
def evPEER_ISOLATED : Nat := 2
def evPEER_BACK : Nat := 3
def evTHAW_NOSLOT : Nat := 4

/-- Rounds whose open is at or before now: the current round plus 1, or 0 before round 0. -/
def roundsOpen (s : State) : Nat :=
  if siteNow s < sxT0 s ∨ sxPeriod s = 0 then 0 else (siteNow s - sxT0 s) / sxPeriod s + 1

/-! ### The site table (R404) -/

/-- The exact value of a base, or of a snapshot, held as two planes. -/
def planesVal (s : State) (hi lo n : Nat) : FV := mw48Val (w32 (rd32 s (hi + 4 * n))) (rd16 s (lo + 2 * n))
/-- R57: an element of a quantised buffer. -/
def qElem (s : State) (base e n : Nat) : Word :=
  f32Of (blkElem 6 (codeAt s (linAddr base 4 n) 4) (rdByte s (qScales base e + n / 32)).toNat)
/-- R405: a difference rounded once to F32, with saturation. -/
def diffF32 (a b : FV) : Word := w32 (narrow 0 none (fvAdd .rne a (fvNeg b)).1)
/-- A quantised buffer's writes for elements given. -/
def qWrites (ceil : Bool) (base e : Nat) (f : Nat → Word) : List (Nat × List Byte) :=
  (List.range (qBlocks e)).flatMap (fun b =>
    let r := blkEnc 6 ceil ((List.range (min 32 (e - 32 * b))).map (fun i => f32v (f (32 * b + i))))
    [(base + 16 * b, fitBytes (packBits 4 r.2) 16), (qScales base e + b, [BitVec.ofNat 8 r.1])])
/-- Writes, up to the first that an uncorrectable word stops. -/
def storeAll : List (Nat × List Byte) → State → State × Option Nat
  | [], s => (s, none)
  | w :: r, s =>
    match storeBytes s .sxu w.1 w.2 with
    | (s, some b) => (s, some b)
    | (s, none) => storeAll r s

/-! ### Segments and hashes (R407, R424) -/

def segCount (e : Nat) : Nat := cdiv e 15360
def segBlocks (e k : Nat) : Nat := min 480 (qBlocks e - 480 * k)
/-- R407: a segment's payload. -/
def segPayload (s : State) (base e k : Nat) : List Byte :=
  let n := segBlocks e k
  rdBytes s (base + 7680 * k) (16 * n) ++ rdBytes s (qScales base e + 480 * k) n
def segWrites (base e k : Nat) (b : List Byte) : List (Nat × List Byte) :=
  let n := segBlocks e k
  [(base + 7680 * k, fitBytes b (16 * n)), (qScales base e + 480 * k, fitBytes (b.drop (16 * n)) n)]
def hash32 (b : List Byte) : List Byte := bytesOf ((sha512 (natsOf b)).take 32)
def itemHash (s : State) (base e : Nat) : List Byte := hash32 ((List.range (segCount e)).flatMap (segPayload s base e))

/-- The planes of a snapshot: hi, lo, and OUTM where RULE is OUTER_NESTEROV. -/
def planeCount (s : State) : Nat := if sxRule s = 2 then 3 else 2
def planeWidth (pl : Nat) : Nat := if pl = 1 then 2 else 4
def snapChunks (e : Nat) : Nat := cdiv e 1024
/-- The address and length of chunk c of plane pl of the base of an entry. -/
def planeChunk (s : State) (t e pl c : Nat) : Nat × Nat :=
  (stF s t (if pl = 0 then 0x08 else if pl = 1 then 0x10 else 0x18) + planeWidth pl * 1024 * c, planeWidth pl * min 1024 (e - 1024 * c))
def snapPayload (s : State) (t e i : Nat) : List Byte :=
  let q := planeChunk s t e (i / snapChunks e) (i % snapChunks e)
  rdBytes s q.1 q.2
def snapHash (s : State) (t e : Nat) : List Byte := hash32 ((List.range (planeCount s * snapChunks e)).flatMap (snapPayload s t e))

/-! ### Sending (R422, R425) -/

def mtPROBE : Nat := 0
def mtPROBE_REPLY : Nat := 1
def mtDELTA : Nat := 2
def mtDONE : Nat := 3
def mtNACK : Nat := 4
def mtACK : Nat := 5
def mtTHAW_DELTA : Nat := 6
def mtTHAW_DONE : Nat := 7
def mtJOIN_REQ : Nat := 8
def mtJOIN_GRANT : Nat := 9
def mtSNAP : Nat := 10
def mtSNAP_DONE : Nat := 11
def mtLEAVE : Nat := 12

def sxPeerDefault (_ : Nat) : SxPeer := {}
def getSx (s : State) (p : Nat) : SxPeer := smGet sxPeerDefault s.sxPeers p
def putSx (s : State) (p : Nat) (x : SxPeer) : State := { s with sxPeers := smSet sxPeerDefault s.sxPeers p x }
/-- R422: the 32 bytes of a message's header. -/
def acnisHeader (m : AMsg) : List Byte :=
  le32 (m.ver % 16 * 2 ^ 28 + m.typ % 16 * 2 ^ 24 + m.keyEpoch % 256 * 2 ^ 16 + m.srcSite % 256 * 256 + m.dstSite % 256) ++
    le32 (m.stale % 4 * 2 ^ 30 + m.exgroup % 4096 * 2 ^ 18 + m.module % 2 ^ 18) ++ le32 m.round.toNat ++ le32 (m.len % 65536 * 65536 + m.item % 65536) ++
    le64 m.seq.toNat ++ le32 m.arg0.toNat ++ le32 m.arg1.toNat
/-- R425: the IV. -/
def acnisIv (m : AMsg) : List Nat := beBytes (m.module * 2 ^ 78 + m.srcSite * 2 ^ 70 + m.seq.toNat) 12
/-- Where a message to a peer goes, and the site id it bears, by the peer's entry. -/
def peerTo (s : State) (p : Nat) : SxTo × Nat := (⟨p, pSlot s p, pPort s p, ip6At s (pOff rP_IP6_0 p)⟩, pSite s p)
/-- R492: a request of SXU enters the cipher engine's queue, or waits behind it for an entry. -/
def sxuArrive (s : State) (r : CphReq) : State :=
  refreshCph (if s.cphQ.length - cphCmds s < 512 ∧ s.sxuWait = [] then { s with cphQ := s.cphQ ++ [r] } else { s with sxuWait := s.sxuWait ++ [r] })
/-- R425: the next SEQ of a peer starts at 0 when its KEY_EPOCH changes. -/
def noteEpoch (s : State) (p : Nat) : State :=
  let x := getSx s p
  if x.txEpoch = pEpoch s p then s else putSx s p { x with txEpoch := pEpoch s p, txSeq := 0 }
/-- A message of SXU: numbered, and given to the cipher engine. -/
def sendTo (s : State) (ad : SxTo × Nat) (m : AMsg) : State :=
  let p := ad.1.peer
  if !sxuUp s then s
  else
    let s := noteEpoch s p
    let x := getSx s p
    let m := { m with keyEpoch := pEpoch s p, srcSite := ownSite s, dstSite := ad.2, exgroup := exGroup s, module := myId s, seq := w64 x.txSeq, len := m.body.length }
    sxuArrive (putSx s p { x with txSeq := x.txSeq + 1 }) (.sxu ad.1 m)
/-- A message of SXU to a peer. -/
def sendMsg (s : State) (p : Nat) (m : AMsg) : State := sendTo s (peerTo s p) m
def isSegment (m : AMsg) : Bool := m.typ == mtDELTA || m.typ == mtTHAW_DELTA || m.typ == mtSNAP
/-- R444: the port of a message: with both chosen, odd segments go to ETH1; the other port where the chosen one's link is down. -/
def sitePort (s : State) (ad : SxTo) (m : AMsg) : Nat :=
  let want := if ad.portsel = 1 then 1 else if ad.portsel = 2 ∧ isSegment m then m.arg0.toNat % 2 else 0
  if ethUp s want then want else 1 - want
/-- R421, R444: the frame of a message of SXU. -/
def siteWire (s : State) (port : Nat) (ad : SxTo) : Wire :=
  let udp := rfld s rSXU_UDP 15 0
  { portWire s port oETH_S_IP6_0 oETH_S_GW_LO oETH_S_TAG ad.ip (some udp) udp with hop := some 64 }
/-- A sealed message leaves through its port: a frame of the payload, 16 bytes of tag, 32 of header and 66 more, or 70 where tagged. -/
def acnisSend (s : State) (ad : SxTo) (m : AMsg) : State :=
  let port := sitePort s ad m
  let s := if isSegment m then rinc64 s rSXU_TX_SEG_LO 1 else s
  if ethUp s port then
    emit (ethSent s port 2 (m.body.length + 114 + tagLen s (wreg (winEth port) oETH_S_TAG))) (.acnis (siteWire s port ad) m)
  else s

/-! ### Items going out (R413, R414, R428) -/

/-- Where an outgoing item's payload lies, its element count and its number of segments (or chunks of all planes). -/
def outBase (s : State) (o : SxOut) : Nat :=
  let e := (stGrp s o.entry).count
  if o.kind = 0 then qOwn s o.entry e o.round else stF s o.entry 0x38
def outCount (s : State) (kind entry : Nat) : Nat :=
  let e := (stGrp s entry).count
  if kind = 2 then planeCount s * snapChunks e else segCount e
def staleBit (s : State) (o : SxOut) : Nat := if o.kind = 0 ∧ deadlineAt s o.round ≤ siteNow s then 1 else 0
/-- DONE, THAW_DONE or SNAP_DONE of an item. -/
def doneMsg (s : State) (o : SxOut) : AMsg :=
  let e := (stGrp s o.entry).count
  let base : AMsg := { round := w32 o.round, item := o.item, stale := staleBit s o, arg1 := w32 e }
  if o.kind = 2 then { base with typ := mtSNAP_DONE, arg0 := w32 (snapChunks e), body := snapHash s o.entry e }
  else
    let h := itemHash s (outBase s o) e
    if o.kind = 1 then
      { base with typ := mtTHAW_DONE, arg0 := w32 (segCount e), body := h ++ le64 o.steps }
    else { base with typ := mtDONE, arg0 := w32 (segCount e), body := h }
/-- A segment or chunk of an item. -/
def segMsg (s : State) (o : SxOut) (k : Nat) : AMsg :=
  let e := (stGrp s o.entry).count
  if o.kind = 2 then
    { typ := mtSNAP, round := w32 o.round, item := o.item, arg0 := w32 (k % snapChunks e), arg1 := w32 (k / snapChunks e), body := snapPayload s o.entry e k }
  else
    { typ := if o.kind = 1 then mtTHAW_DELTA else mtDELTA, round := w32 o.round, item := o.item, stale := staleBit s o, arg0 := w32 k,
      body := segPayload s (outBase s o) e k }
/-- The memory that an item lies in: a quantised buffer with its S8 array, or the planes of a base. -/
def qRange (base e : Nat) : Nat × Nat := (base, qScales base e + qBlocks e - base)
def baseRanges (s : State) (t : Nat) : List (Nat × Nat) :=
  let e := (stGrp s t).count
  (List.range (planeCount s)).map (fun pl => ((planeChunk s t e pl 0).1, planeWidth pl * e))
def outRanges (s : State) (o : SxOut) : List (Nat × Nat) :=
  if o.kind = 2 then baseRanges s o.entry else [qRange (outBase s o) (stGrp s o.entry).count]
def sameOut (a b : SxOut) : Bool := a.peer == b.peer && a.kind == b.kind && a.round == b.round && a.item == b.item
def putOutItem (s : State) (o : SxOut) : State := { s with sxOut := s.sxOut.map (fun x => if sameOut x o then o else x) }
/-- DONE sent, and the clock noted. -/
def sendDone (s : State) (o : SxOut) : State := sendMsg (putOutItem s { o with sentAll := true, lastDone := s.clock }) o.peer (doneMsg s o)
/-- An item queued to a peer; one of no segments has its DONE sent at once. -/
def queueOut (s : State) (o : SxOut) : State :=
  let o := { o with todo := List.range (outCount s o.kind o.entry) }
  let s := { s with sxOut := s.sxOut.filter (fun x => !sameOut x o) ++ [o] }
  if o.todo = [] then sendDone s o else s
/-- R432: whether an item may go out: no delta is sent to a peer whose state takes none. -/
def mayGo (s : State) (o : SxOut) : Bool := o.kind != 0 || pState s o.peer == psACTIVE || pState s o.peer == psMISSED || pState s o.peer == psLISTEN
/-- An item with something to send to a peer. -/
def toSend (s : State) (p : Nat) (o : SxOut) : Bool := o.peer == p && o.todo != [] && mayGo s o
/-- The next peer in turn that has a segment to send. -/
def turnPeer (s : State) : Option Nat :=
  ((List.range 16).map (fun i => (s.sxTurn + 1 + i) % 16)).find? (fun p => s.sxOut.any (toSend s p))
def effTransmit (s : State) (p : Nat) : State :=
  if !sxuUp s ∨ rn s rSXU_PACE = 0 ∨ turnPeer s ≠ some p then s
  else
    match s.sxOut.find? (toSend s p) with
    | none => s
    | some o =>
      match o.todo with
      | [] => s
      | k :: r =>
        -- R201: an item that cannot be read is not sent
        match (outRanges s o).findSome? (fun x => badIn s x.1 x.2) with
        | some w => reportUe { s with sxTurn := p } w (modFloe s) none
        | none =>
        let s := sendMsg { noteReads s .sxu (outRanges s o) with sxTurn := p } p (segMsg s o k)
        let s := if o.sentAll then rinc s rSXU_RETX 1 else s
        let o' := { o with todo := r }
        let s := { s with sxOut := s.sxOut.filter (fun x => !sameOut x o) ++ [o'] }
        if r = [] ∧ !o.sentAll then sendDone s o' else s
/-- R414: the peer in turn sends one segment of one of its items. -/
def execSegmentTransmit (peer : Nat) (s : State) : Host.Outcome State Fault Refusal := ok (effTransmit s peer)

/-! ### Items coming in (R427, R428, R431) -/

def findSxIn (s : State) (p kind round item : Nat) : Option SxIn :=
  s.sxIn.find? (fun x => x.peer == p && x.kind == kind && (kind == 1 || x.round == round) && x.item == item)
def sameIn (a b : SxIn) : Bool := a.peer == b.peer && a.kind == b.kind && (a.kind == 1 || a.round == b.round) && a.item == b.item
def putIn (s : State) (x : SxIn) : State :=
  { s with sxIn := if s.sxIn.any (sameIn x) then s.sxIn.map (fun y => if sameIn x y then x else y) else s.sxIn ++ [x] }
def dropIn (s : State) (x : SxIn) : State := { s with sxIn := s.sxIn.filter (fun y => !sameIn x y) }
/-- R403: the site-table entry of an item: its place in the last list; of a snapshot, the index itself. -/
def inEntry (s : State) (kind item : Nat) : Option Nat :=
  if kind = 2 then (if item < rn s rSXU_ST_COUNT then some item else none) else s.sxList[item]?
def inBase (s : State) (x : SxIn) (t : Nat) : Nat :=
  let e := (stGrp s t).count
  if x.kind = 0 then qRecv s t e x.peer x.round else stF s t 0x40
def missing (x : SxIn) (n : Nat) : List Nat := (List.range n).filter (fun k => !x.segs.contains k)
/-- Runs of consecutive numbers, as (first, count). -/
def rangesOf : List Nat → List (Nat × Nat)
  | [] => []
  | k :: r =>
    match rangesOf r with
    | (f, n) :: t => if f = k + 1 then (k, n + 1) :: t else (k, 1) :: (f, n) :: t
    | [] => [(k, 1)]
/-- R423: NACK lists the missing segments in up to 1,020 ranges. -/
def sendNack (s : State) (x : SxIn) (n : Nat) : State :=
  let rs := (rangesOf (missing x n)).take 1020
  sendMsg (putIn s { x with lastNack := s.clock }) x.peer
    { typ := mtNACK, round := w32 x.round, item := x.item, arg1 := w32 rs.length, body := rs.flatMap (fun r => le32 r.1 ++ le32 r.2) }
def sendAck (s : State) (x : SxIn) : State := sendMsg s x.peer { typ := mtACK, round := w32 x.round, item := x.item }

end Sys2Proof.Machine
end

