-- ==== Sys2Proof/Machine/Exchange.lean ====
section
/-! DEFINITION. The SITE_ROUND family (R409–R420, R433–R442): deltas formed, merged, exchanged after a partition; snapshots for late joiners; peer states. -/

namespace Sys2Proof.Machine

/-! ### A SITE_ROUND ends (R446, R250) -/

/-- R446: an error of SXU; kind 6 of R554 names the peer, the item's index and the round. -/
def siteErr (s : State) (j : Job) (err item : Nat) : State :=
  let a := j.args
  let c := jobCmd s j.ref
  reportErr s winSxu err (objOf 6 (srPeer a * 2 ^ 56 + item % 2 ^ 24 * 2 ^ 32 + srRound a % 2 ^ 32)) (some c)
    [dVar j.desc * 2 ^ 28 + srPeer a, srRound a % 2 ^ 32, item % 2 ^ 24, c.seq]
def noItem : Nat := 0xFFFFFF
def dropSite (s : State) (ref : JobRef) : State := refreshSxu { s with sxRuns := s.sxRuns.filter (fun r => r.job != ref) }
def siteDone (s : State) (r : SxRun) : State := dropSite (markWorked s r.job r.part) r.job
def siteFail (s : State) (r : SxRun) (err item : Nat) : State :=
  match getJob s r.job with
  | some j => dropSite (markFaulted (siteErr s j err item) r.job r.part err) r.job
  | none => dropSite s r.job
/-- An uncorrectable word met by the command itself. -/
def siteBad (s : State) (r : SxRun) (w : Nat) : State :=
  dropSite (markFaulted (reportUe s w (modFloe s) (some (jobCmd s r.job))) r.job r.part (ueErr s w)) r.job

/-! ### Items (R412, R229, R250) -/

/-- The ranges SXU reads and writes for an item, beside the group's own. -/
def itemRanges (s : State) (t e : Nat) : List (Nat × Nat) := [(stF s t 0x08, 4 * e), (stF s t 0x10, 2 * e)]
/-- Whether an item may be worked: its error, or an uncorrectable word it meets. -/
def itemCheck (s : State) (step t : Nat) : Option (Nat × Option Nat) :=
  match badIn s (stAddr s t) 128 with
  | some w => some (ueErr s w, some w)
  | none =>
    let gid := stGid s t
    if !groupOk s gid then some (eBAD_GROUP, none)
    else
      let g := grpOf s gid
      if g.committed s ≠ step then some (eSTEP_ORDER, none)
      else
        match (g.planes ++ itemRanges s t g.count).findSome? (fun r => badIn s r.1 r.2) with
        | some w => some (ueErr s w, some w)
        | none => none
/-- An item's error reported. -/
def itemErr (s : State) (j : Job) (t err : Nat) (w : Option Nat) : State :=
  match w with
  | some w => reportUe s w (modFloe s) (some (jobCmd s j.ref))
  | none => siteErr s j err t
/-- Every item of a list worked in order (R250): an item that fails leaves the others to go on; the first error is the command's. `units` says whether an item worked is a unit complete. -/
def eachItem (j : Job) (units : Bool) (f : State → Nat → State × Option Nat) : List (Nat × Nat) → State → Nat → State × Nat
  | [], s, e => (s, e)
  | (k, t) :: r, s, e =>
    match itemCheck s (srStep j.args) t with
    | some x => eachItem j units f r (itemErr s j t x.1 x.2) (if e = 0 then x.1 else e)
    | none =>
      let g := stGrp s t
      match f (noteReads s .sxu (g.planes ++ itemRanges s t g.count)) t with
      | (s, some w) => eachItem j units f r (itemErr s j t (ueErr s w) (some w)) (if e = 0 then ueErr s w else e)
      | (s, none) => eachItem j units f r (if units then unitRetired s j.ref k else s) e
/-- Work of an item that reads and writes more: stopped by an uncorrectable word there (R202). -/
def readingOf (s : State) (rs ws : List (Nat × Nat)) (go : State → State × Option Nat) : State × Option Nat :=
  match (if memSound s then none else (rs.findSome? (fun r => badIn s r.1 r.2)).or (ws.findSome? (fun r => badPartly s r.1 r.2))) with
  | some w => (s, some w)
  | none => go (noteReads s .sxu rs)
/-- INIT of an item's group: UPD replays its log first (R248, R255). -/
def initItem (step : Nat) (s : State) (t : Nat) : State × Option Nat :=
  let s := replayLogs s
  let g := stGrp s t
  readingOf s [(g.at_, 256)] (runsOf (g.wcWrites s step (g.slotOf step)) ++ g.zeroRuns) (fun s => (initGroup s g step, none))
def indexed (l : List Nat) : List (Nat × Nat) := (List.range l.length).zip l
/-- The command of a run, and its list; no list where its entries cannot be read. -/
def siteEnd (s : State) (r : SxRun) (e : Nat) : State :=
  if e = 0 then siteDone s r else dropSite (markFaulted s r.job r.part e) r.job
/-- R426: whether the cipher engine can serve a peer. -/
def peerCipher (s : State) (p : Nat) : Bool := cphUp s && (match slotFor s (pSlot s p) 0 with | .ok _ => true | .error _ => false)

/-! ### Thaw slots (R434) -/

def tsRound (s : State) (j : Nat) : Nat := rn s (tsOff rTS_ROUND j)
def tsStep (s : State) (j : Nat) : Nat := rn64 s (tsOff rTS_STEP_LO j)
/-- The base of an item copied into snapshot j. -/
def snapshotItem (j : Nat) (s : State) (t : Nat) : State :=
  let e := (stGrp s t).count
  let d := stF s t 0x30 + j * snapSize e
  if !rangeMapped s.order d (6 * e) then s
  else
  match ((badIn s (stF s t 0x08) (4 * e)).or (badIn s (stF s t 0x10) (2 * e))).or (badPartly s d (6 * e)) with
  | some w => reportUe s w (modFloe s) none
  | none =>
    let s := noteReads s .sxu [(stF s t 0x08, 4 * e), (stF s t 0x10, 2 * e)]
    store s .sxu d (rdBytes s (stF s t 0x08) (4 * e) ++ rdBytes s (stF s t 0x10) (2 * e))
def setSlot (s : State) (p j : Nat) : State := rputF (rputN s (tsOff rTS_MASK j) (nput (tsMask s j) p p 1)) (pOff rP_STATE p) 10 8 j
/-- R434: a peer joins the slot of a snapshot round, takes a free slot, or joins none. -/
def joinSlot (s : State) (p r step : Nat) (items : List Nat) : State :=
  match (List.range 4).find? (fun j => tsMask s j != 0 && tsRound s j == r) with
  | some j => setSlot s p j
  | none =>
    match freeThaw s with
    | some j =>
      let s := (items.filter (fun t => groupOk s (stGid s t))).foldl (snapshotItem j) s
      setSlot (rput64 (rputN s (tsOff rTS_ROUND j) (r % 2 ^ 32)) (tsOff rTS_STEP_LO j) step) p j
    | none => sxEvent s evTHAW_NOSLOT
def leaveSlot (s : State) (p : Nat) : State :=
  let j := pThaw s p
  if 4 ≤ j then s else rputF (rputN s (tsOff rTS_MASK j) (nput (tsMask s j) p p 0)) (pOff rP_STATE p) 10 8 7

/-! ### SEND (R405, R413) -/

/-- R413, R441: the peers that a delta of round r goes to. -/
def sendPeers (s : State) (r : Nat) : List Nat :=
  if (s.sxFrom.elim false (fun f => decide (r < f))) then []
  else (validPeers s).filter (fun p =>
    pState s p == psACTIVE || pState s p == psMISSED || (pState s p == psLISTEN && decide (pJoin s p ≤ r + 1)))
def itemIndex (s : State) (t : Nat) : Nat := (s.sxList.findIdx? (· == t)).getD 0
def sendItem (r : Nat) (s : State) (t : Nat) : State × Option Nat :=
  if r ≤ rd32 s (stAddr s t + 0x60) then (s, none)
  else
    let g := stGrp s t
    let hi := stF s t 0x08
    let lo := stF s t 0x10
    match storeAll (qWrites (rbit s rSXU_MERGE 29) (qOwn s t g.count r) g.count (fun n => diffF32 (g.master s n) (planesVal s hi lo n))) s with
    | (s, some w) => (s, some w)
    | (s, none) =>
      match storeBytes s .sxu (stAddr s t + 0x60) (le32 r) with
      | (s, some w) => (s, some w)
      | (s, none) => ((sendPeers s r).foldl (fun s p => queueOut s { peer := p, kind := 0, round := r, item := itemIndex s t, entry := t }) s, none)
def runSend (s : State) (r : SxRun) (j : Job) : State :=
  let a := j.args
  let rd := srRound a
  match badIn s (srList a) (4 * srCount a) with
  | some w => siteBad s r w
  | none =>
    let items := srItems s a
    let s := { s with sxList := items }
    if (sendPeers s rd).any (fun p => !peerCipher s p) then siteFail s r eCIPHER_DOWN noItem
    else
      let x := eachItem j true (sendItem rd) (indexed items) s 0
      siteEnd (if x.2 = 0 then rputN x.1 rSXU_LAST_SENT (rd % 2 ^ 32) else x.1) r x.2
/-- R413, R441: a peer that listens: the delta already formed of the round before its JOIN_ROUND goes to it too. -/
def enterListen (s : State) (p jr : Nat) : State :=
  let s := rputN (setPState (leaveSlot s p) p psLISTEN) (pOff rP_JOIN_ROUND p) (jr % 2 ^ 32)
  let r := jr - 1
  if (s.sxFrom.elim false (fun f => decide (r < f))) then s
  else
    (indexed s.sxList).foldl (fun s x =>
      if rd32 s (stAddr s x.2 + 0x60) = r ∧ r ≠ 0 then queueOut s { peer := p, kind := 0, round := r, item := x.1, entry := x.2 } else s) s

/-! ### The inclusion set (R415, R433) -/

/-- The item records of a peer's delta of a round, where every item of the list is complete. -/
def wholeDelta (s : State) (p r : Nat) : Option (List SxIn) :=
  let l := (List.range s.sxList.length).map (fun i => findSxIn s p 0 r i)
  if l.all (fun x => x.elim false (·.ok)) && l != [] then some (l.filterMap id) else none
def takesDeltas (s : State) (p : Nat) : Bool := pState s p == psACTIVE || pState s p == psMISSED || pState s p == psLISTEN
/-- R415, R430: a delta complete at the deadline of its round. -/
def isFresh (s : State) (r p : Nat) : Bool := takesDeltas s p && (wholeDelta s p r).elim false (fun l => l.all (fun x => decide (x.at_ ≤ deadlineAt s r)))
def isStale (s : State) (r p : Nat) : Bool :=
  takesDeltas s p && decide (0 < r) &&
    (match wholeDelta s p (r - 1) with
     | some l => l.any (fun x => decide (deadlineAt s (r - 1) < x.at_)) && l.all (fun x => !x.used)
     | none => false)
def markUsed (s : State) (p r : Nat) : State :=
  { s with sxIn := s.sxIn.map (fun x => if x.peer = p ∧ x.kind = 0 ∧ x.round = r then { x with used := true } else x) }
def maskOf (l : List Nat) : Nat := (l.map (2 ^ ·)).sum
/-- R433: a peer's state when the set is fixed. -/
def afterSet (r step : Nat) (items : List Nat) (inc : Nat → Bool) (s : State) (p : Nat) : State :=
  if pState s p ≠ psACTIVE ∧ pState s p ≠ psMISSED then s
  else if inc p then setMisses (setPState (leaveSlot s p) p psACTIVE) p 0
  else
    let n := pMisses s p
    let s := setMisses s p (min 31 (n + 1))
    let s := if n = 0 then joinSlot (setPState s p psMISSED) p r step items else s
    if isoRounds s ≤ min 31 (n + 1) then sxEvent (setPState s p psISOLATED) evPEER_ISOLATED else s
/-- R415: the set fixed, once for a round. -/
def fixSet (s : State) (r step : Nat) (items : List Nat) : State :=
  if s.sxSetRound = r + 1 then s
  else
    let fresh := (validPeers s).filter (isFresh s r)
    let stale := (validPeers s).filter (isStale s r)
    let s := rinc (rputN s rSXU_MERGE_SET (maskOf stale * 65536 + maskOf fresh)) rSXU_LATE_FOLD stale.length
    let s := fresh.foldl (fun s p => markUsed s p r) s
    let s := stale.foldl (fun s p => markUsed s p (r - 1)) s
    (validPeers s).foldl (afterSet r step items (fun p => fresh.contains p || stale.contains p)) { s with sxSetRound := r + 1 }

/-! ### MERGE (R416–R420) -/

/-- A term of the weighted mean: site id, its weight, and the buffer it lies in (none: the value 0). -/
structure Term where
  site : Nat
  weight : Word
  base : Option Nat
  deriving DecidableEq, Repr
/-- R416: the terms in increasing site id, fresh before stale. -/
def mergeTerms (s : State) (t e r : Nat) : List Term :=
  let set := rn s rSXU_MERGE_SET
  let joins := s.sxFrom == some (r + 1)
  let own : Term := ⟨ownSite s, if joins then 0 else rget s rSXU_WEIGHT, if joins then none else some (qOwn s t e r)⟩
  let peers := peerIds.flatMap (fun p =>
    (if nbit set p then [⟨pSite s p, pWeight s p, some (qRecv s t e p r)⟩] else []) ++
      (if nbit set (16 + p) then [(⟨pSite s p, f32Mul (pWeight s p) (rget s rSXU_STALE_W), some (qRecv s t e p (r - 1))⟩ : Term)] else []))
  (List.range 256).flatMap (fun i => ((own :: peers).filter (fun x => x.site == i)))
def sumFrom : List Word → Word
  | [] => 0
  | x :: r => r.foldl f32Add x
def termVal (s : State) (e n : Nat) (x : Term) : Word := match x.base with | some b => qElem s b e n | none => 0
def meanDelta (s : State) (e n : Nat) (ts : List Term) : Word :=
  f32Div (sumFrom (ts.map (fun x => f32Mul x.weight (termVal s e n x)))) (sumFrom (ts.map (·.weight)))
/-- R417: the outer step and the new momentum. -/
def outerStep (s : State) (d m : Word) : Word × Word :=
  let eta := rget s rSXU_OUTER_LR
  let mu := rget s rSXU_OUTER_MOM
  if sxRule s = 1 then (f32Mul eta d, m)
  else if sxRule s = 2 then
    let m' := f32Add (f32Mul mu m) d
    (f32Mul eta (f32Add d (f32Mul mu m')), m')
  else (d, m)
/-- R418 step 1: what an element becomes: base, master, momentum, and whether W_CLAMP held. -/
structure MergeOut where
  bHi : Word
  bLo : Nat
  mHi : Word
  mLo : Nat
  om : Word
  clamped : Bool
  deriving DecidableEq, Repr
def stepBoth (s : State) (g : Grp) (t n : Nat) (sb sm om : Word) : MergeOut :=
  let b := mw48Add (w32 (rd32 s (stF s t 0x08 + 4 * n))) (rd16 s (stF s t 0x10 + 2 * n)) sb
  let m := stepMaster g (g.hiAt s n) (g.loAt s n) sm
  ⟨b.1, b.2, m.1, m.2.1, om, m.2.2⟩
def mergeElem (s : State) (g : Grp) (t r : Nat) (ts : List Term) (n : Nat) : MergeOut :=
  let o := outerStep s (meanDelta s g.count n ts) (if sxRule s = 2 then w32 (rd32 s (stF s t 0x18 + 4 * n)) else 0)
  let own := if s.sxFrom = some (r + 1) then 0 else qElem s (qOwn s t g.count r) g.count n
  stepBoth s g t n o.1 (f32Sub o.1 own) o.2
/-- Where the new values of a chunk go: base, master and, where the rule keeps it, momentum. -/
def mergedRanges (s : State) (g : Grp) (t c : Nat) (withOm : Bool) : List (Nat × Nat) :=
  let n := (chunkElems g c).length
  [(stF s t 0x08 + 4096 * c, 4 * n), (stF s t 0x10 + 2048 * c, 2 * n), (g.mwHi + 4096 * c, 4 * n), (g.mwLo + 2048 * c, 2 * n)] ++
    (if withOm then [(stF s t 0x18 + 4096 * c, 4 * n)] else [])
/-- R418 step 2: the chunk is logged; the log's layout is not given, and its bytes are undefined. -/
def siteLog (s : State) : State :=
  let a := rn64 s rSXU_LOG_BASE_LO
  if rangeMapped s.order a siteLogSize then (storeUndef s .sxu a siteLogSize).1 else s
/-- R418 steps 2 and 3: a chunk logged, and written in place. -/
def putMerged (s : State) (g : Grp) (t c : Nat) (es : List MergeOut) (withOm : Bool) : State × Option Nat :=
  let s := siteLog (rinc s rUPD_WCLAMP (es.filter (·.clamped)).length)
  let vals := [es.flatMap (fun e => le32 e.bHi.toNat), es.flatMap (fun e => leBytes e.bLo 2), es.flatMap (fun e => le32 e.mHi.toNat),
    es.flatMap (fun e => leBytes e.mLo 2), es.flatMap (fun e => le32 e.om.toNat)]
  storeAll (((mergedRanges s g t c withOm).map (·.1)).zip vals) s
/-- A chunk of a quantised buffer, and of its S8 array. -/
def qChunk (base e c : Nat) : List (Nat × Nat) :=
  let n := min 32 (qBlocks e - 32 * c)
  [(base + 512 * c, 16 * n), (qScales base e + 32 * c, n)]
/-- R418 steps 1 to 5 of a chunk. -/
def mergeChunk (r : Nat) (ts : List Term) (g : Grp) (t : Nat) (s : State) (c : Nat) : State × Option Nat :=
  let om := sxRule s == 2
  readingOf s ((ts.filterMap (·.base)).flatMap (fun b => qChunk b g.count c) ++ (if om then [(stF s t 0x18 + 4096 * c, 4 * (chunkElems g c).length)] else []))
    (mergedRanges s g t c om) fun s =>
  match putMerged s g t c ((chunkElems g c).map (mergeElem s g t r ts)) om with
  | (s, some w) => (s, some w)
  | (s, none) => storeBytes s .sxu (stAddr s t + 0x6C) (le32 (c + 1))
/-- Chunks in increasing order, up to one that an uncorrectable word stops. -/
def eachChunk (f : State → Nat → State × Option Nat) : List Nat → State → State × Option Nat
  | [], s => (s, none)
  | c :: r, s =>
    match f s c with
    | (s, some w) => (s, some w)
    | (s, none) => eachChunk f r s
/-- MARK_ROUND and MARK of an item before the first chunk of round r. -/
def startMark (s : State) (t r : Nat) : State × Option Nat :=
  if rd32 s (stAddr s t + 0x68) = r then (s, none) else storeBytes s .sxu (stAddr s t + 0x68) (le32 r ++ le32 0)
/-- R418: an item merged from the chunk that MARK names; its commit point, and INIT. -/
def mergeItem (r step : Nat) (s : State) (t : Nat) : State × Option Nat :=
  let g := stGrp s t
  if r ≤ rd32 s (stAddr s t + 0x64) then initItem step s t
  else
    let ts := mergeTerms s t g.count r
    match startMark s t r with
    | (s, some w) => (s, some w)
    | (s, none) =>
      let k := rd32 s (stAddr s t + 0x6C)
      match eachChunk (mergeChunk r ts g t) ((List.range (g.chunks - k)).map (k + ·)) s with
      | (s, some w) => (s, some w)
      | (s, none) =>
        match storeBytes s .sxu (stAddr s t + 0x64) (le32 r) with
        | (s, some w) => (s, some w)
        | (s, none) => initItem step s t
/-- R420: one peer's entry of the result record. -/
def mergeEntry (s : State) (r p : Nat) : List Byte :=
  if !pValid s p then zeroBytes 48
  else
    let set := rn s rSXU_MERGE_SET
    let f := nbit set p
    let st := nbit set (16 + p)
    let hashes (rd : Nat) : List Byte := (List.range s.sxList.length).flatMap (fun i => (findSxIn s p 0 rd i).elim [] (fun x => x.done.elim [] (·.2.2.1)))
    let h := (if f then hashes r else []) ++ (if st then hashes (r - 1) else [])
    [BitVec.ofNat 8 (pSite s p), BitVec.ofNat 8 (if f then (if st then 2 else 1) else if st then 3 else 0), 0, 0] ++
      le32 (if f then r else if st then r - 1 else 0) ++ zeroBytes 8 ++ (if h = [] then zeroBytes 32 else hash32 h)
def mergeRecord (s : State) (r : Nat) : List Byte := peerIds.flatMap (mergeEntry s r)
/-- R565. -/
def journalSite (s : State) (j : Job) (rd : Nat) (rec0 : List Byte) : State :=
  let c := jobCmd s j.ref
  journal s 3 26 (le32 c.floe ++ le32 (c.queue % 256 * 2 ^ 24) ++ le32 c.seq ++ le32 rd ++ le32 (rn s rSXU_MERGE_SET) ++ zeroBytes 12 ++ rec0)
def runMerge (s : State) (r : SxRun) (j : Job) : State :=
  let a := j.args
  let rd := srRound a
  match badIn s (srList a) (4 * srCount a) with
  | some w => siteBad s r w
  | none =>
    let items := srItems s a
    let s := fixSet { s with sxList := items } rd (srStep a) items
    let x := eachItem j true (mergeItem rd (srStep a)) (indexed items) s 0
    if x.2 ≠ 0 then siteEnd x.1 r x.2
    else
      let rec0 := mergeRecord x.1 rd
      match storeBytes x.1 .sxu (srResult a) rec0 with
      | (s, some w) => siteBad s r w
      | (s, none) => siteDone (journalSite (rputN s rSXU_LAST_MERGED (rd % 2 ^ 32)) j rd rec0) r

/-! ### Thaw (R436–R438) -/

/-- The exact value of an item's thaw snapshot in slot j. -/
def thawVal (s : State) (t e j n : Nat) : FV := let d := stF s t 0x30 + j * snapSize e; planesVal s d (d + 4 * e) n
def thawItem (p rd step : Nat) (s : State) (t : Nat) : State × Option Nat :=
  let g := stGrp s t
  let j := pThaw s p
  readingOf s [(stF s t 0x30 + j * snapSize g.count, 6 * g.count)] [] fun s =>
  match storeAll (qWrites (rbit s rSXU_MERGE 29) (stF s t 0x38) g.count (fun n => diffF32 (g.master s n) (thawVal s t g.count j n))) s with
  | (s, some w) => (s, some w)
  | (s, none) => (queueOut s { peer := p, kind := 1, round := rd, item := itemIndex s t, entry := t, steps := (step + 2 ^ 64 - tsStep s j) % 2 ^ 64 }, none)
def dropThaw (s : State) (p : Nat) : State :=
  { s with sxOut := s.sxOut.filter (fun o => !(o.peer == p && o.kind == 1)), sxIn := s.sxIn.filter (fun x => !(x.peer == p && x.kind == 1)) }
def runThaw (s : State) (r : SxRun) (j : Job) : State :=
  let a := j.args
  let p := srPeer a
  if !pValid s p ∨ pState s p ≠ psRECONNECTED then siteFail s r ePEER_STATE noItem
  else if !peerCipher s p then siteFail s r eCIPHER_DOWN noItem
  else
    match badIn s (srList a) (4 * srCount a) with
    | some w => siteBad s r w
    | none =>
      let items := srItems s a
      let s := dropThaw (setPState { s with sxList := items } p psTHAWING) p
      let x := eachItem j true (thawItem p (srRound a) (srStep a)) (indexed items) s 0
      if x.2 ≠ 0 then siteEnd (setPState (dropThaw x.1 p) p psRECONNECTED) r x.2 else x.1
/-- The sums of R436, over an item's chunks. -/
def thawSums (s : State) (items : List Nat) (f : Nat → Nat → Word) : Word :=
  sumF32 (items.flatMap (fun t =>
    let g := stGrp s t
    (List.range g.chunks).map (fun c => sumF32 ((chunkElems g c).map (fun n => f32Sq (f t n))))))
def aOwn (s : State) (t n : Nat) : Word := qElem s (stF s t 0x38) (stGrp s t).count n
def aPeer (s : State) (t n : Nat) : Word := qElem s (stF s t 0x40) (stGrp s t).count n
def normRecord (s : State) (items : List Nat) (nOwn nPeer : Nat) : List Byte :=
  le32 (thawSums s items (aOwn s)).toNat ++ le32 (thawSums s items (aPeer s)).toNat ++
    le32 (thawSums s items (fun t n => f32Sub (aOwn s t n) (aPeer s t n))).toNat ++ le32 0 ++ le64 nOwn ++ le64 nPeer
/-- R436: a THAW_EXCH whose two directions are complete. -/
def thawReady (s : State) (p : Nat) : Bool :=
  s.sxOut.all (fun o => !(o.peer == p && o.kind == 1)) && (List.range s.sxList.length).all (fun i => (findSxIn s p 1 0 i).elim false (·.ok))
/-- R436: THAW_TIMEOUT: the peer returns to RECONNECTED. -/
def thawFails (s : State) (r : SxRun) (p : Nat) : State := siteFail (setPState (dropThaw s p) p psRECONNECTED) r eTHAW_TIMEOUT noItem
def endThaw (s : State) (r : SxRun) (j : Job) : State :=
  let p := srPeer j.args
  let nPeer := ((findSxIn s p 1 0 0).bind (·.done)).elim 0 (·.2.2.2)
  let nOwn := (srStep j.args + 2 ^ 64 - tsStep s (pThaw s p)) % 2 ^ 64
  match storeBytes s .sxu (srResult j.args) (normRecord s s.sxList nOwn nPeer) with
  | (s, some w) => siteBad s r w
  | (s, none) => siteDone { s with sxOut := s.sxOut.filter (fun o => !(o.peer == p && o.kind == 1)) } r
/-- R438: c of an element. -/
def thawStep (nOwn nPeer a b : Word) : Word :=
  let d := f32Add nOwn nPeer
  if fvIsZero (f32v d) then 0
  else
    let num := f32Of (fvAdd .rne (fvMul (f32v nOwn) (f32v a)).1 (fvMul (f32v nPeer) (f32v b)).1).1
    f32Sub (f32Div num d) a
def applyItem (nOwn nPeer : Word) (step : Nat) (s : State) (t : Nat) : State × Option Nat :=
  let g := stGrp s t
  readingOf s [qRange (stF s t 0x38) g.count, qRange (stF s t 0x40) g.count]
    ((List.range g.chunks).flatMap (fun c => mergedRanges s g t c false)) fun s =>
  let chunk (s : State) (c : Nat) : State × Option Nat :=
    putMerged s g t c ((chunkElems g c).map (fun n =>
      let d := thawStep nOwn nPeer (aOwn s t n) (aPeer s t n)
      stepBoth s g t n d d 0)) false
  match eachChunk chunk (List.range g.chunks) s with
  | (s, some w) => (s, some w)
  | (s, none) => initItem step s t
/-- R438: the divergence ratio of a norm record. -/
def divergence (so sp sd : Word) : Word :=
  let m := f32Max (f32Sqrt so) (f32Sqrt sp)
  if fvIsZero (f32v m) then 0 else f32Div (f32Sqrt sd) m
/-- R438: the site of lower priority, or of higher id where they are equal, defers. -/
def defers (s : State) (p : Nat) : Bool := decide (ownPrio s < pPrio s p) || (ownPrio s == pPrio s p && decide (pSite s p < ownSite s))
def runApply (s : State) (r : SxRun) (j : Job) : State :=
  let a := j.args
  let p := srPeer a
  if !pValid s p ∨ pState s p ≠ psTHAWING then siteFail s r ePEER_STATE noItem
  else
    match (badIn s (srResult a) 32).or (badIn s (srList a) (4 * srCount a)) with
    | some w => siteBad s r w
    | none =>
      let f (o : Nat) : Word := w32 (rd32 s (srResult a + o))
      let items := srItems s a
      let n (o : Nat) : Word := f32OfNat (rd64 s (srResult a + o))
      if f32Le (divergence (f 0) (f 4) (f 8)) (rget s rSXU_DIV_LIMIT) then
        let x := eachItem j true (applyItem (n 0x10) (n 0x18) (srStep a)) (indexed items) s 0
        if x.2 ≠ 0 then siteEnd x.1 r x.2
        else
          match storeBytes x.1 .sxu (srResult a + 0x0C) [1] with
          | (s, some w) => siteBad s r w
          | (s, none) => siteDone (setMisses (setPState (leaveSlot s p) p psACTIVE) p 0) r
      else
        let x := eachItem j false (fun s _ => (s, none)) (indexed items) s 0
        if x.2 ≠ 0 then siteEnd x.1 r x.2
        else
        let s := x.1
        let d := defers s p
        match storeBytes s .sxu (srResult a + 0x0C) [if d then 2 else 3] with
        | (s, some w) => siteBad s r w
        | (s, none) => siteDone (if d then setPState s p psRECONNECTED else setPState (leaveSlot s p) p psNEW) r

/-! ### JOIN (R439–R441) -/

def joinReqMsg (r : Nat) : AMsg := { typ := mtJOIN_REQ, round := w32 r }
def runJoin (s : State) (r : SxRun) (j : Job) : State :=
  let a := j.args
  let p := srPeer a
  if !pValid s p ∨ (pState s p ≠ psNEW ∧ pState s p ≠ psRECONNECTED) then siteFail s r ePEER_STATE noItem
  else if !peerCipher s p then siteFail s r eCIPHER_DOWN noItem
  else
    match badIn s (srList a) (4 * srCount a) with
    | some w => siteBad s r w
    | none =>
      let x := eachItem j false (fun s _ => (s, none)) (indexed (srItems s a)) s 0
      if x.2 ≠ 0 then siteEnd x.1 r x.2
      else
        let s := setPState (leaveSlot x.1 p) p psJOINING
        let s := { s with sxIn := s.sxIn.filter (fun x => x.kind != 2) }
        sendMsg { s with sxJoin := some { peer := p, last := s.clock } } p (joinReqMsg (srRound a))
/-- A JOIN that fails: the donor's entry returns to NEW. -/
def joinFails (s : State) (r : SxRun) (p err : Nat) : State :=
  let s := { setPState s p psNEW with sxJoin := none, sxFrom := none, sxIn := s.sxIn.filter (fun x => x.kind != 2) }
  siteFail s r err noItem
/-- R440: every item of the site table has come. -/
def joinReady (s : State) (p : Nat) : Bool :=
  (s.sxJoin.elim false (·.granted)) && (List.range (rn s rSXU_ST_COUNT)).all (fun i => s.sxIn.any (fun x => x.peer == p && x.kind == 2 && x.item == i && x.ok))
def endJoin (s : State) (r : SxRun) (j : Job) : State :=
  let p := srPeer j.args
  let x := eachItem j true (initItem (srStep j.args)) (indexed (srItems s j.args)) s 0
  let s := x.1
  let s := { s with sxJoin := none }
  siteEnd (enterListen s p (s.sxFrom.getD 0)) r x.2

/-! ### PEER_CTL (R442) -/

/-- What this module does as a donor, or has on its way to a peer, ends. -/
def dropPeerWork (s : State) (p : Nat) : State :=
  let s := { s with sxOut := s.sxOut.filter (fun o => o.peer != p) }
  match s.sxServe with
  | some x => if x.peer = p then { s with sxServe := none } else s
  | none => s
def runPeerCtl (s : State) (r : SxRun) (j : Job) : State :=
  let a := j.args
  let p := srPeer a
  if !pValid s p ∨ pState s p = psOFF then siteFail s r ePEER_STATE noItem
  else if srAction a = 0 then
    let st := pState s p
    match (if srCount a = 0 then none else badIn s (srList a) (4 * srCount a)) with
    | some w => siteBad s r w
    | none =>
    let x := eachItem j false (fun s _ => (s, none)) (indexed (if srCount a = 0 then [] else srItems s a)) s 0
    let s := x.1
    if x.2 ≠ 0 then siteEnd s r x.2
    else if st = psACTIVE ∨ st = psMISSED then
      let s := if pThaw s p < 4 then s else joinSlot s p (srRound a) (srStep a) (if srCount a = 0 then s.sxList else srItems s a)
      siteDone (unitRetired (setPState s p psISOLATED) j.ref 0) r
    else siteDone (unitRetired s j.ref 0) r
  else siteDone (unitRetired (setPState (leaveSlot (dropPeerWork s p) p) p psISOLATED) j.ref 0) r

/-! ### One SITE_ROUND at a time (R412) -/

/-- Whether the executing command may begin its work: SEND from its round's open, MERGE from its deadline. -/
def siteTimeOk (s : State) (j : Job) : Bool :=
  if dVar j.desc = 0 then decide (openAt s (srRound j.args) ≤ siteNow s)
  else if dVar j.desc = 1 then decide (deadlineAt s (srRound j.args) ≤ siteNow s) else true
/-- The command at the front begins, or goes on where what it waits for is there. -/
def driveFront (s : State) : State :=
  match s.sxRuns with
  | [] => s
  | r :: _ =>
    match getJob s r.job with
    | none => dropSite s r.job
    | some j =>
      let v := dVar j.desc
      if !sxuUp s then siteFail s r eSXU_DISABLED noItem
      else if r.begun then
        -- R15: with a TIMEOUT of 0 the first test decides
        (if v = 2 then (if thawReady s (srPeer j.args) then endThaw s r j else if srTimeout j.args = 0 then thawFails s r (srPeer j.args) else s)
         else if v = 4 then
           (if joinReady s (srPeer j.args) then endJoin s r j
            else if srTimeout j.args = 0 then joinFails s r (srPeer j.args) eJOIN_TIMEOUT else s)
         else s)
      else if !siteTimeOk s j ∨ commitPending s winSxu then s
      else
        let s := { s with sxRuns := s.sxRuns.map (fun x => if x.job = r.job then { x with begun := true, since := s.clock } else x) }
        if v = 0 then runSend s r j else if v = 1 then runMerge s r j else if v = 2 then runThaw s r j
        else if v = 3 then runApply s r j else if v = 4 then runJoin s r j else runPeerCtl s r j
def driveSites : Nat → State → State
  | 0, s => s
  | n + 1, s => driveSites n (driveFront s)
/-- SXU's commands go on as far as they can. -/
def settleSites (s : State) : State := refreshSxu (driveSites (2 * s.sxRuns.length) s)
/-- A SITE_ROUND reaches SXU. -/
def effSite (s : State) (ref : JobRef) (p var : Nat) : State :=
  match freshOf s ref p 0xF var with
  | none => s
  | some _ => if commitPending s winSxu then s else settleSites (setPartSt { s with sxRuns := s.sxRuns ++ [{ job := ref, part := p }] } ref p .busy)
def isAction (s : State) (ref : JobRef) (n : Nat) : Bool := (getJob s ref).elim false (fun j => decide (srAction j.args = n))
/-- R405, R413. -/
def execSend (j : JobRef) (p : Nat) (s : State) : Host.Outcome State Fault Refusal := ok (effSite s j p 0)
/-- R415–R420. -/
def execMerge (j : JobRef) (p : Nat) (s : State) : Host.Outcome State Fault Refusal := ok (effSite s j p 1)
/-- R436. -/
def execThawExch (j : JobRef) (p : Nat) (s : State) : Host.Outcome State Fault Refusal := ok (effSite s j p 2)
/-- R438. -/
def execThawApply (j : JobRef) (p : Nat) (s : State) : Host.Outcome State Fault Refusal := ok (effSite s j p 3)
/-- R439. -/
def execJoinSite (j : JobRef) (p : Nat) (s : State) : Host.Outcome State Fault Refusal := ok (effSite s j p 4)
/-- R442, ACTION 0. -/
def execPeerCtlIsolate (j : JobRef) (p : Nat) (s : State) : Host.Outcome State Fault Refusal := ok (if isAction s j 0 then effSite s j p 5 else s)
/-- R442, ACTION 1. -/
def execPeerCtlAbandon (j : JobRef) (p : Nat) (s : State) : Host.Outcome State Fault Refusal := ok (if isAction s j 1 then effSite s j p 5 else s)

end Sys2Proof.Machine
end

