-- ==== Sys2Proof/Machine/AcnisRx.lean ====
section
/-! DEFINITION. Acnis messages sealed and opened by the cipher engine (R425, R426, R495), what each message does on arrival (R423, R427–R431, R435–R441), SXU's timed events, and its reset (R443). -/

namespace Sys2Proof.Machine

/-! ### The cipher engine's work for SXU (R425, R426, R494, R495) -/

/-- R426, R495: a request of a peer that cannot run is returned: the SITE_ROUND that is executing with that peer fails with CIPHER_DOWN. -/
def cipherReturned (s : State) (p : Nat) : State :=
  match s.sxRuns with
  | [] => s
  | r :: _ =>
    match getJob s r.job with
    | none => s
    | some j =>
      if !r.begun ∨ srPeer j.args ≠ p then s
      else if dVar j.desc = 2 then settleSites (siteFail (setPState (dropThaw s p) p psRECONNECTED) r eCIPHER_DOWN noItem)
      else if dVar j.desc = 4 then settleSites (joinFails s r p eCIPHER_DOWN)
      else s
def reqPeer (r : CphReq) : Option Nat := match r with | .cmd _ _ => none | .sxu ad _ => some ad.peer | .sxuOpen p _ _ => some p
/-- R484, R504: an alarm or a reset of the cipher engine returns every request of SXU that has not finished. -/
def returnSxu (s : State) : State :=
  let ps := (s.cphQ ++ s.sxuWait).filterMap reqPeer
  if ps = [] then s
  else ps.foldl cipherReturned (refreshCph { s with cphQ := s.cphQ.filter isCmdReq, sxuWait := [] })
def effSeal (s : State) (m : AMsg) : State :=
  match s.cphQ.find? (fun r => match r with | .sxu _ x => x == m | _ => false) with
  | some (.sxu ad x) =>
    if !cphFirst s (.sxu ad x) then s
    else
      let key := if cphUp s then slotFor s ad.slot 0 else .error eCIPHER_DOWN
      let s := refreshCph { s with cphQ := s.cphQ.erase (.sxu ad x) }
      match key with
      | .error _ => cipherReturned s ad.peer
      | .ok key =>
        let h := natsOf (acnisHeader x)
        let r := gcmSealBytes key (acnisIv x) h (pad16 (natsOf x.body))
        acnisSend (rinc64 (rinc64 s rCPH_REQS_LO 1) rCPH_BYTES_LO (r.1.length + 32)) ad { x with body := bytesOf r.1, tag := bytesOf r.2 }
  | _ => s
/-- R426: the numbers accepted from a peer under a key epoch: the highest, and those at or below it in the window. -/
def rxOf (x : SxPeer) (e : Nat) : Option (Nat × List Nat) := (x.rx.find? (fun r => r.1 == e)).map (·.2)
def replayed (x : SxPeer) (e q : Nat) : Bool :=
  match rxOf x e with
  | none => false
  | some (hi, seen) => decide (q + 4096 < hi) || seen.contains q
def acceptSeq (x : SxPeer) (e q : Nat) : SxPeer :=
  let r := (rxOf x e).getD (0, [])
  let hi := max r.1 q
  { x with rx := x.rx.filter (fun y => y.1 != e) ++ [(e, hi, (r.2 ++ [q]).filter (fun n => decide (hi ≤ n + 4096)))] }
/-- R422: the peer that a message names, where its header matches this module. -/
def msgPeer (s : State) (m : AMsg) : Option Nat :=
  if m.ver ≠ 1 ∨ m.exgroup ≠ exGroup s ∨ m.dstSite ≠ ownSite s ∨ m.module ≠ myId s then none
  else (validPeers s).find? (fun p => pSite s p == m.srcSite)
/-- R425, R426: an arriving message opened under its peer's slot at its turn. -/
def openMsg (s : State) (p slot : Nat) (m : AMsg) : State :=
  let x := getSx s p
  let q := m.seq.toNat
  if replayed x m.keyEpoch q then rinc s rSXU_REPLAY_DROP 1
  else
    match (if cphUp s then slotFor s slot 0 else .error eCIPHER_DOWN) with
    | .error _ => cipherReturned s p
    | .ok key =>
      match gcmOpenBytes key (acnisIv m) (natsOf (acnisHeader m)) (natsOf m.body) (natsOf m.tag) with
      | none =>
        let s := rinc (rinc s rSXU_AUTH_FAIL 1) rCPH_AUTH_FAIL 1
        reportErr s winCph eCPH_AUTH (objOf 7 (slot * 256)) none [0xF * 2 ^ 28 + slot * 256, q % 2 ^ 32, 0, 0]
      | some pt =>
        let s := putSx (rinc64 (rinc64 s rCPH_REQS_LO 1) rCPH_BYTES_LO (m.body.length + 32)) p (acceptSeq x m.keyEpoch q)
        { s with sxRx := s.sxRx ++ [{ m with body := (bytesOf pt).take m.len, tag := [] }] }
/-- Whether a message that has arrived is with the cipher engine, or waits for an entry there. -/
def isOpenReq (m : AMsg) (r : CphReq) : Bool := match r with | .sxuOpen _ _ x => x == m | _ => false
/-- R492: an arriving message enters the cipher engine's queue, and is opened once it is the first of its slot. While the engine is LATCHED it admits
none, and the request is returned (R485, R495). -/
def effOpen (s : State) (m : AMsg) : State :=
  if !sxuUp s then s
  else
    match msgPeer s m with
    | none => rinc s rSXU_BAD_MSG 1
    | some p =>
      if replayed (getSx s p) m.keyEpoch m.seq.toNat then rinc s rSXU_REPLAY_DROP 1
      else if cphLatched s then cipherReturned s p
      else
        let s := if (s.cphQ ++ s.sxuWait).any (isOpenReq m) then s else sxuArrive s (.sxuOpen p (pSlot s p) m)
        match s.cphQ.find? (isOpenReq m) with
        | some (.sxuOpen q slot x) =>
          if cphFirst s (.sxuOpen q slot x) then openMsg (refreshCph { s with cphQ := s.cphQ.erase (.sxuOpen q slot x) }) q slot x else s
        | _ => s
/-- R425, R495: a message sealed and sent, or an arriving one opened. -/
def execSxuCipherRequest (decrypt : Bool) (m : AMsg) (s : State) : Host.Outcome State Fault Refusal := ok (if decrypt then effOpen s m else effSeal s m)

/-- A message that has been accepted and opened takes effect: it leaves the store of those, and its peer is found. -/
def onMsg (s : State) (m : AMsg) (typ : Nat) (f : State → Nat → State) : State :=
  if sxuUp s ∧ m.typ = typ ∧ s.sxRx.contains m then
    match msgPeer s m with
    | some p => f { s with sxRx := s.sxRx.erase m } p
    | none => { s with sxRx := s.sxRx.erase m }
  else s

/-! ### Probes (R429, R435, R441) -/

def probeMsg (s : State) (jr : Nat) : AMsg := { typ := mtPROBE, body := le64 (siteNow s) ++ le64 jr }
/-- The JOIN_ROUND that this module's probes carry while it joins. -/
def joinRound (s : State) : Nat := if (s.sxJoin.elim false (·.granted)) then s.sxFrom.getD 0 else 0
def probeAll (s : State) (ps : List Nat) : State := ps.foldl (fun s p => sendMsg s p (probeMsg s (joinRound s))) s
def effProbe (m : AMsg) (s : State) (p : Nat) : State :=
  let now := siteNow s
  let jr := leAt m.body 8 8
  let s := sendMsg s p { typ := mtPROBE_REPLY, round := m.round, body := fitBytes m.body 8 ++ le64 now ++ le64 now }
  if jr ≠ 0 ∧ (pState s p = psNEW ∨ (pState s p = psISOLATED ∧ 4 ≤ pThaw s p)) then enterListen s p jr else s
/-- R429, R441: answered; one that carries JOIN_ROUND makes a NEW or slotless ISOLATED peer listen. -/
def execProbe (m : AMsg) (s : State) : Host.Outcome State Fault Refusal := ok (onMsg s m mtPROBE (effProbe m))
/-- A signed value held in 32 bits, saturating. -/
def sat32 (i : Int) : Nat := (max (-2147483648) (min 2147483647 i) % 4294967296).toNat
def effProbeReply (m : AMsg) (s : State) (p : Nat) : State :=
  let t (o : Nat) : Int := leAt m.body o 8
  let t4 : Int := siteNow s
  let rtt := ((t4 - t 0) - (t 16 - t 8)).toNat
  let x := getSx s p
  let srtt := if x.sampled then (7 * x.srtt + rtt) / 8 else rtt
  let var := if x.sampled then (3 * x.rttvar + (if srtt ≤ rtt then rtt - srtt else srtt - rtt)) / 4 else rtt / 2
  let off := ((t 8 - t 0) + (t 16 - t4)) / 2
  let s := putSx s p { x with sampled := true, srtt := srtt, rttvar := var }
  let s := rputN (rputN (rputN s (pOff rP_SRTT p) (srtt / 1000)) (pOff rP_RTO p) (max (srtt + 4 * var) 1000000 / 1000)) (pOff rP_OFFSET p) (sat32 off)
  let s := if 1000000 < off.natAbs then sxEvent s evTIME_SKEW else s
  if pState s p = psISOLATED then sxEvent (if pThaw s p < 4 then setPState s p psRECONNECTED else s) evPEER_BACK else s
/-- R429, R435. -/
def execProbeReply (m : AMsg) (s : State) : Host.Outcome State Fault Refusal := ok (onMsg s m mtPROBE_REPLY (effProbeReply m))
def effProbePeriodic (s : State) : State :=
  if sxuUp s ∧ s.sxProbed + 1000000000 ≤ s.clock then
    probeAll { s with sxProbed := s.clock } ((validPeers s).filter (fun p => pState s p == psISOLATED || pState s p == psRECONNECTED))
  else s
/-- R429: once a second. -/
def execProbePeriodic (s : State) : Host.Outcome State Fault Refusal := ok (effProbePeriodic s)

/-! ### Rounds (R408, R413, R415, R428, R433) -/

def effRoundOpen (s : State) : State :=
  let n := roundsOpen s
  if !sxuUp s ∨ n ≤ s.sxOpened then s
  else
    let s := probeAll { s with sxOpened := n } (validPeers s)
    settleSites ((validPeers s).foldl (fun s p =>
      if pState s p = psLISTEN ∧ pJoin s p < n then setMisses (setPState s p psACTIVE) p 0 else s) s)
/-- R413, R429, R433: a round opens: every valid peer is probed, a listening peer whose round it is becomes ACTIVE, and a SEND held for it is released. -/
def execRoundOpen (s : State) : Host.Outcome State Fault Refusal := ok (effRoundOpen s)
/-- R415: a round's deadline releases the MERGE held for it. -/
def execRoundDeadline (s : State) : Host.Outcome State Fault Refusal := ok (settleSites s)
def effDeltaStop (s : State) : State :=
  let late (o : SxOut) : Bool := o.kind == 0 && decide (deadlineAt s (o.round + 1) ≤ siteNow s)
  rinc { s with sxOut := s.sxOut.filter (fun o => !late o) } rSXU_DROPPED (s.sxOut.filter late).length
/-- R428: at the deadline of the round after its own, a delta is sent no further. -/
def execDeltaSendStop (s : State) : Host.Outcome State Fault Refusal := ok (effDeltaStop s)

/-! ### Items arrive (R427, R428, R430, R431) -/

/-- R429: the arrival of a fresh delta. -/
def noteArrive (s : State) (p r : Nat) : State :=
  if s.sxSetRound ≤ r ∧ siteNow s ≤ deadlineAt s r ∧ (wholeDelta s p r).isSome then
    let d := siteNow s - openAt s r
    let s := rputN s (pOff rP_ARRIVE p) (min (d / 1000000) 0xFFFFFFFF)
    if 3 * sxSlack s < 4 * d then sxEvent s evSLACK_TIGHT else s
  else s
/-- R427: whether the item's content checks: its hash, and for a quantised one no scale of FF. -/
def itemGood (s : State) (x : SxIn) (t : Nat) (hash : List Byte) : Bool :=
  let e := (stGrp s t).count
  if x.kind = 2 then snapHash s t e == hash
  else
    let b := inBase s x t
    itemHash s b e == hash && (rdBytes s (qScales b e) (qBlocks e)).all (· != 0xFF)
/-- R201: an uncorrectable word in an item that has come. -/
def inBad (s : State) (x : SxIn) (t : Nat) : Option Nat :=
  (if x.kind = 2 then baseRanges s t else [qRange (inBase s x t) (stGrp s t).count]).findSome? (fun r => badIn s r.1 r.2)
/-- R427: an item that DONE has described, after anything of it has come. -/
def checkItem (s : State) (x : SxIn) (t : Nat) : State :=
  let e := (stGrp s t).count
  let n := outCount s x.kind t
  match x.done with
  | none => putIn s x
  | some (segs, el, hash, _) =>
    if el ≠ e % 2 ^ 32 ∨ segs ≠ (if x.kind = 2 then snapChunks e else segCount e) then rinc (dropIn s x) rSXU_BAD_DELTA 1
    else if missing x n ≠ [] then putIn s x
    else if (inBad s x t).isSome then reportUe (dropIn s x) ((inBad s x t).getD 0) (modFloe s) none
    else if !itemGood s x t hash then rinc (dropIn s x) rSXU_BAD_DELTA 1
    else
      let y := { x with ok := true, at_ := siteNow s }
      let s := sendAck (putIn s y) y
      settleSites (if x.kind = 0 then noteArrive s x.peer x.round else s)
/-- R431: whether a delta's round is the current one, the one before or the one after. -/
def roundNear (s : State) (r : Nat) : Bool := let c := roundsOpen s; decide (r ≤ c ∧ c ≤ r + 2)
/-- Whether items of a kind are taken from a peer. -/
def kindTaken (s : State) (kind p : Nat) : Bool :=
  if kind = 0 then takesDeltas s p else if kind = 1 then pState s p == psTHAWING
  else pState s p == psJOINING && (s.sxJoin.elim false (·.granted))
/-- The record of an item, a new round's data clearing the buffer it takes. -/
def openItem (s : State) (p kind : Nat) (m : AMsg) : State × SxIn :=
  let r := m.round.toNat
  match findSxIn s p kind r m.item with
  | some x => (s, x)
  | none =>
    ({ s with sxIn := s.sxIn.filter (fun y => !(y.peer == p && y.kind == kind && y.item == m.item && y.round % 3 == r % 3)) },
     { peer := p, kind := kind, round := r, item := m.item })
def effSegment (kind : Nat) (m : AMsg) (s : State) (p : Nat) : State :=
  if kind = 0 ∧ !roundNear s m.round.toNat then rinc s rSXU_BAD_MSG 1
  else if !kindTaken s kind p then s
  else
    match inEntry s kind m.item with
    | none => s
    | some t =>
      let e := (stGrp s t).count
      let k := if kind = 2 then m.arg1.toNat * snapChunks e + m.arg0.toNat else m.arg0.toNat
      let q := openItem s p kind m
      let x := q.2
      if x.ok ∨ x.segs.contains k ∨ outCount s kind t ≤ k ∨ (kind = 2 ∧ snapChunks e ≤ m.arg0.toNat) then q.1
      else
        let g := stGrp s t
        let pl := m.arg1.toNat
        let c := planeChunk s t e pl m.arg0.toNat
        let b := fitBytes m.body c.2
        let ws := if kind = 2 then
            (c.1, b) :: (if pl = 0 then [(g.mwHi + 4096 * m.arg0.toNat, b)] else if pl = 1 then [(g.mwLo + 2048 * m.arg0.toNat, b)] else [])
          else segWrites (inBase q.1 x t) e k m.body
        match storeAll ws q.1 with
        | (s, some w) => reportUe s w (modFloe s) none
        | (s, none) => checkItem (rinc64 s rSXU_RX_SEG_LO 1) { x with segs := x.segs ++ [k] } t
/-- R407, R427, R431. -/
def execDelta (m : AMsg) (s : State) : Host.Outcome State Fault Refusal := ok (onMsg s m mtDELTA (effSegment 0 m))
/-- R436. -/
def execThawDelta (m : AMsg) (s : State) : Host.Outcome State Fault Refusal := ok (onMsg s m mtTHAW_DELTA (effSegment 1 m))
/-- R440: a chunk of a snapshot, written to the base and the master. -/
def execSnap (m : AMsg) (s : State) : Host.Outcome State Fault Refusal := ok (onMsg s m mtSNAP (effSegment 2 m))
/-- The record of an item that is complete. -/
def doneAlready (s : State) (kind p : Nat) (m : AMsg) : Option SxIn :=
  (findSxIn s p kind m.round.toNat m.item).filter (fun x => x.ok && x.round == m.round.toNat)
/-- A DONE: an item already complete is acknowledged again; missing segments are asked for. -/
def effDone (kind : Nat) (m : AMsg) (s : State) (p : Nat) : State :=
  match doneAlready s kind p m with
  | some x => sendAck s x
  | none =>
  if !kindTaken s kind p then s
  else if kind = 0 ∧ !roundNear s m.round.toNat then rinc s rSXU_BAD_MSG 1
  else
    match inEntry s kind m.item with
    | none => s
    | some t =>
      let q := openItem s p kind m
      let x := q.2
      if x.ok then sendAck q.1 x
      else
        let x := { x with done := some (m.arg0.toNat, m.arg1.toNat, m.body.take 32, leAt m.body 32 8) }
        let s := checkItem q.1 x t
        match findSxIn s p kind x.round x.item with
        | some y => if y.ok ∨ missing y (outCount s kind t) = [] then s else sendNack s y (outCount s kind t)
        | none => s
/-- R427, R428. -/
def execDone (m : AMsg) (s : State) : Host.Outcome State Fault Refusal := ok (onMsg s m mtDONE (effDone 0 m))
def execThawDone (m : AMsg) (s : State) : Host.Outcome State Fault Refusal := ok (onMsg s m mtTHAW_DONE (effDone 1 m))
def execSnapDone (m : AMsg) (s : State) : Host.Outcome State Fault Refusal := ok (onMsg s m mtSNAP_DONE (effDone 2 m))

/-- The item that a NACK or ACK names. -/
def outNamed (s : State) (p : Nat) (m : AMsg) : Option SxOut :=
  s.sxOut.find? (fun o => o.peer == p && o.round == m.round.toNat && o.item == m.item)
def nackRanges (m : AMsg) : List Nat :=
  (List.range (min m.arg1.toNat 1020)).flatMap (fun i =>
    let f := leAt m.body (8 * i) 4
    (List.range (leAt m.body (8 * i + 4) 4)).map (f + ·))
def effNack (m : AMsg) (s : State) (p : Nat) : State :=
  match outNamed s p m with
  | none => s
  | some o =>
    let n := outCount s o.kind o.entry
    putOutItem s { o with todo := o.todo ++ (List.range n).filter (fun k => (nackRanges m).contains k && !o.todo.contains k) }
/-- R428: the listed segments are to be sent again. -/
def execNack (m : AMsg) (s : State) : Host.Outcome State Fault Refusal := ok (onMsg s m mtNACK (effNack m))
/-- R440: a donor whose snapshot is all acknowledged listens to its joiner. -/
def serveDone (s : State) (p : Nat) : State :=
  match s.sxServe with
  | some x =>
    if x.peer = p ∧ x.started ∧ s.sxOut.all (fun o => !(o.peer == p && o.kind == 2)) then enterListen { s with sxServe := none } p (x.round + 2) else s
  | none => s
def effItemAck (m : AMsg) (s : State) (p : Nat) : State :=
  match outNamed s p m with
  | none => s
  | some o => settleSites (serveDone { s with sxOut := s.sxOut.filter (fun x => !sameOut x o) } p)
/-- R428: an item is complete at its receiver. -/
def execAcnisAck (m : AMsg) (s : State) : Host.Outcome State Fault Refusal := ok (onMsg s m mtACK (effItemAck m))
def effRto (s : State) (p : Nat) : State :=
  if !sxuUp s ∨ !pValid s p then s
  else
    let due (at0 : Nat) : Bool := decide (at0 + pRto s p ≤ s.clock)
    let s := (s.sxOut.filter (fun o => o.peer == p && o.sentAll && due o.lastDone && mayGo s o)).foldl sendDone s
    (s.sxIn.filter (fun x => x.peer == p && x.done.isSome && !x.ok && due x.lastNack)).foldl (fun s x =>
      match inEntry s x.kind x.item with
      | some t => if missing x (outCount s x.kind t) = [] then s else sendNack s x (outCount s x.kind t)
      | none => s) s
/-- R428: each P_RTO, DONE is sent again until ACK, and NACK until nothing is missing. -/
def execAcnisRto (peer : Nat) (s : State) : Host.Outcome State Fault Refusal := ok (effRto s peer)

/-! ### Thaw and join (R436, R439–R441) -/

def effThawTimeout (s : State) (p : Nat) : State :=
  match s.sxRuns with
  | [] => s
  | r :: _ =>
    match getJob s r.job with
    | some j =>
      if r.begun ∧ dVar j.desc = 2 ∧ srPeer j.args = p ∧ r.since + us (srTimeout j.args) ≤ s.clock then
        settleSites (thawFails s r p)
      else s
    | none => s
/-- R436. -/
def execThawTimeout (peer : Nat) (s : State) : Host.Outcome State Fault Refusal := ok (effThawTimeout s peer)
/-- The JOIN that is executing. -/
def joinRun (s : State) : Option (SxRun × Job) :=
  match s.sxRuns with
  | [] => none
  | r :: _ =>
    match getJob s r.job with
    | some j => if r.begun ∧ dVar j.desc = 4 then some (r, j) else none
    | none => none
def effJoinTimeout (s : State) : State :=
  match joinRun s with
  | some (r, j) => if r.since + us (srTimeout j.args) ≤ s.clock then settleSites (joinFails s r (srPeer j.args) eJOIN_TIMEOUT) else s
  | none => s
/-- R440. -/
def execJoinTimeout (s : State) : Host.Outcome State Fault Refusal := ok (effJoinTimeout s)
def grantMsg (r code : Nat) : AMsg := { typ := mtJOIN_GRANT, round := w32 r, arg0 := w32 r, arg1 := w32 code }
/-- R439: the first round whose MERGE this module has not yet fixed. -/
def firstUnfixed (s : State) : Nat := max s.sxSetRound (roundsOpen s - 1)
def effJoinReq (_ : AMsg) (s : State) (p : Nat) : State :=
  match s.sxServe with
  | some x => if x.peer = p ∧ pState s p = psSERVING then sendMsg s p (grantMsg x.round 0) else sendMsg s p (grantMsg 0 1)
  | none =>
    if pState s p = psNEW ∨ pState s p = psISOLATED then
      let r := firstUnfixed s
      sendMsg { setPState (leaveSlot s p) p psSERVING with sxServe := some { peer := p, granted := true, round := r, last := s.clock } } p (grantMsg r 0)
    else sendMsg s p (grantMsg 0 2)
/-- R439: answered with a grant or a refusal. -/
def execJoinReq (m : AMsg) (s : State) : Host.Outcome State Fault Refusal := ok (onMsg s m mtJOIN_REQ (effJoinReq m))
def effJoinRepeat (s : State) : State :=
  match s.sxJoin, joinRun s with
  | some x, some (_, j) =>
    if !x.granted ∧ x.last + pRto s x.peer ≤ s.clock then
      sendMsg { s with sxJoin := some { x with last := s.clock } } x.peer (joinReqMsg (srRound j.args))
    else s
  | _, _ => s
/-- R439: JOIN_REQ each P_RTO until it is granted. -/
def execJoinReqRepeat (s : State) : Host.Outcome State Fault Refusal := ok (effJoinRepeat s)
def effJoinGrant (m : AMsg) (s : State) (p : Nat) : State :=
  match s.sxJoin, joinRun s with
  | some x, some (run, _) =>
    if x.peer ≠ p then s
    else if m.arg1 = 0 then
      (if x.granted then s
       else
         let r := m.arg0.toNat
         let s := { s with sxJoin := some { x with granted := true, round := r }, sxFrom := some (r + 2) }
         let s := probeAll s (validPeers s)
         settleSites ((validPeers s).foldl (fun s q =>
           if pState s q = psNEW ∨ (pState s q = psISOLATED ∧ 4 ≤ pThaw s q) then enterListen s q (r + 2) else s) s))
    else if m.arg1 = 2 ∧ x.granted then settleSites (joinFails s run p eSNAP_LATE)
    else s
  | _, _ => s
/-- R441, R440: a grant makes the joiner probe with JOIN_ROUND; a refusal leaves it asking, and one that ends a snapshot fails the JOIN. -/
def execJoinGrant (m : AMsg) (s : State) : Host.Outcome State Fault Refusal := ok (onMsg s m mtJOIN_GRANT (effJoinGrant m))
def effSnapSend (s : State) : State :=
  match s.sxServe with
  | some x =>
    if sxuUp s ∧ !x.started ∧ pState s x.peer = psSERVING ∧ x.round < s.sxSetRound ∧ rn s rSXU_LAST_MERGED = x.round then
      let s := { s with sxServe := some { x with started := true } }
      serveDone ((List.range (rn s rSXU_ST_COUNT)).foldl (fun s t => queueOut s { peer := x.peer, kind := 2, round := x.round, item := t, entry := t }) s) x.peer
    else s
  | none => s
/-- R440: after its MERGE of round r, the donor queues every item of its site table. -/
def execSnapSend (s : State) : Host.Outcome State Fault Refusal := ok (effSnapSend s)
def effSnapDeadline (s : State) : State :=
  match s.sxServe with
  | some x =>
    if deadlineAt s (x.round + 1) ≤ siteNow s then
      let s := { s with sxServe := none, sxOut := s.sxOut.filter (fun o => !(o.peer == x.peer && o.kind == 2)) }
      sendMsg (setPState s x.peer psNEW) x.peer (grantMsg x.round 2)
    else s
  | none => s
/-- R440: a snapshot unfinished at the deadline of round r + 1 is given up. -/
def execSnapDeadline (s : State) : Host.Outcome State Fault Refusal := ok (effSnapDeadline s)
/-- R423, R432: the sender is disabling its entry; the spec gives the receiver nothing further to do. -/
def execLeave (m : AMsg) (s : State) : Host.Outcome State Fault Refusal := ok (onMsg s m mtLEAVE (fun s _ => s))

/-! ### A commit's effect on peer entries, and SXU's reset (R432, R443, R545) -/

/-- R432: an entry made valid is NEW; one made not valid is OFF, and its peer, whose entry was `ad`, is told. A new KEY_EPOCH starts SEQ at 0 (R425). -/
def peerCommitted (s : State) (p : Nat) (was : Bool) (ad : SxTo × Nat) : State :=
  let s := noteEpoch s p
  if pValid s p ∧ !was then setPState s p psNEW
  else if !pValid s p ∧ was then setMisses (setPState (leaveSlot (dropPeerWork (sendTo s ad { typ := mtLEAVE }) p) p) p psOFF) p 0
  else s
/-- R443: traffic stops, receive state is cleared, thaw slots are free, and every valid peer is NEW. SEQ goes on, since KEY_EPOCH stays (R425). -/
def sxuClear (s : State) : State :=
  let s := { s with sxPeers := smMap sxPeerDefault s.sxPeers (fun x => { txEpoch := x.txEpoch, txSeq := x.txSeq }), sxList := [], sxOut := [], sxIn := [], sxRx := [], sxJoin := none, sxServe := none, sxFrom := none, sxSetRound := 0,
                    sxOpened := 0, sxProbed := 0, sxTurn := 0, sxuWait := [],
                    cphQ := s.cphQ.filter isCmdReq }
  let s := (List.range 4).foldl (fun s j => rput64 (rputN (rputN s (tsOff rTS_MASK j) 0) (tsOff rTS_ROUND j) 0) (tsOff rTS_STEP_LO j) 0) s
  peerIds.foldl (fun s p => rputN s (pOff rP_STATE p) (0x700 + (if pValid s p then psNEW else psOFF))) s
/-- R545: the executing SITE_ROUND fails with UNIT_RESET. -/
def sxuFail (s : State) : State :=
  match s.sxRuns with
  | [] => s
  | r :: _ => siteFail s r eUNIT_RESET noItem

end Sys2Proof.Machine
end

