-- ==== Sys2Proof/Machine/SiteTime.lean ====
section
/-! DEFINITION. Site time: its sources, states and correction (R448–R455), and the timers (R456, R457). -/

namespace Sys2Proof.Machine

/-! ### The passing of time (R448, R454) -/

/-- Site time moved by d beside its own count: what PTP was seen to be off by is that much less. -/
def shiftPtp (x : TimeU) (d : Int) : TimeU := { x with ptpOff := x.ptpOff.map (· - d), goodRef := x.goodRef - d }
/-- R454: one nanosecond of a slew: the offset left and the fraction after it, and what site time moves by beside its own count. -/
def slew (x : TimeU) (ppm : Nat) : TimeU × Int :=
  if x.offset = 0 then ({ x with acc := 0 }, 0)
  else if x.acc + ppm < 1000000 then ({ x with acc := x.acc + ppm }, 0)
  else
    let d : Int := if 0 < x.offset then 1 else -1
    (shiftPtp { x with offset := x.offset - d, acc := (x.acc + ppm) % 1000000 } d, d)
/-- One nanosecond with nothing commanded (log entry 1). -/
def tickNs (s : State) : State :=
  let r := slew s.time (rfld s rTIME_CFG 31 16)
  { s with clock := s.clock + 1, ethBuf := [], time := r.1, siteTime := s.siteTime + w64 (1 + r.2).toNat }

/-! ### States (R452) -/

def timeEvt (s : State) (b : Nat) : State :=
  let s := rputBit s rTIME_EVT b true
  evtSet s winTpw 4 (rn s rTIME_EVT)
/-- A change of the time unit; where site time was valid before it and is not after, the event is raised. -/
def setTime (s : State) (x : TimeU) : State :=
  let was := timeValid s
  let s := { s with time := x }
  if was && !timeValid s then timeEvt s 2 else s
def locked (x : TimeU) : Bool := x.code == 2 || x.code == 3
/-- A source is locked, its offset from site time measured: site time is set once, and afterwards slewed (R454). It never decreases (R448), so that
a first offset that is negative is slewed too (log entry 48). -/
def lockTo (s : State) (code : Nat) (off : Int) : State :=
  let x := s.time
  let x := { x with code := code, lockSince := if locked x then x.lockSince else s.clock }
  if x.stepped then setTime (rputN s rTIME_OFFSET (sat32 off)) { x with offset := off }
  else setTime (rputN { s with siteTime := s.siteTime + w64 off.toNat } rTIME_OFFSET (sat32 off)) { shiftPtp x off.toNat with stepped := true, offset := min off 0 }
/-- R452: the source in use is lost, and no other is locked: HOLDOVER. What was left of an offset is slewed on (R454). -/
def toHoldover (s : State) : State :=
  let x := s.time
  let s := timeEvt s 1
  setTime s { x with code := 4, longLock := decide (x.lockSince + 1800000000000 ≤ s.clock), holdSince := s.clock }
/-- A source is first seen. -/
def seen (s : State) : State := if s.time.code = 0 then setTime s { s.time with code := 1 } else s

/-! ### PTP (R451) -/

/-- The offset that PTP gives, and since when it has stayed within 1 µs. -/
def notePtp (s : State) (off : Int) : State :=
  let x := s.time
  let same := x.ptpOff.isSome && decide ((off - x.goodRef).natAbs ≤ 1000)
  let x := { x with ptpOff := some off, goodRef := if same then x.goodRef else off, goodSince := if same then x.goodSince else s.clock }
  let s := { s with time := x }
  if x.code = 3 then setTime (rputN s rTIME_OFFSET (sat32 off)) { x with offset := off }
  else if x.code = 2 ∧ x.ptpLocked ∧ 1000 < (off - x.offset).natAbs then timeEvt s 0 else s
def ptpDomain (s : State) : Nat := rfld s rTIME_CFG 15 8
/-- The interval of Sync messages that logMessageInterval gives, in ns. -/
def intervalNs (l : Int) : Nat := if 0 ≤ l then 10 ^ 9 * 2 ^ l.toNat else 10 ^ 9 / 2 ^ (-l).toNat
/-- R451: a Sync (with its Follow_Up, where two-step) of the domain is accepted; it gives an offset once the path delay is known, and the
client asks for a delay response. -/
def effSync (s : State) (t1 : DWord) (twoStep followUp : Bool) (domain : Nat) (logInterval : Int) : State :=
  if domain ≠ ptpDomain s ∨ (twoStep && !followUp) then s
  else
    let s := seen { s with time := { s.time with ptpSeen := true, syncAt := s.clock, syncNs := intervalNs logInterval } }
    let s := emit s (.frame "Delay_Req" [])
    match s.time.delay with
    | some d => notePtp s ((t1.toNat : Int) + d - (siteNow s : Int))
    | none => s
def execPtpSync (t1 : DWord) (followUp : Bool) (h : SyncHdr) (s : State) : Host.Outcome State Fault Refusal :=
  ok (effSync s t1 h.twoStep followUp h.domain h.logInterval)
/-- R451: the delay request–response mechanism: half the sum of the two ways is the delay, half their difference the offset. -/
def effDelayResp (s : State) (t1 t2 t3 t4 : DWord) : State :=
  if !s.time.ptpSeen then s
  else
    let a : Int := (t2.toNat : Int) - t1.toNat
    let b : Int := (t4.toNat : Int) - t3.toNat
    notePtp { s with time := { s.time with delay := some ((a + b) / 2) } } ((b - a) / 2)
def execPtpDelayResp (t1 t2 t3 t4 : DWord) (s : State) : Host.Outcome State Fault Refusal := ok (effDelayResp s t1 t2 t3 t4)
/-- R452: PPS is locked, or neither absent nor disabled. -/
def ppsHere (s : State) : Bool := s.time.ppsLocked || (rbit s rTIME_CFG 0 && s.time.ppsLast.isSome)
/-- R452: PTP locks; where PPS is absent or disabled, the unit is LOCKED_PTP. -/
def effPtpLock (s : State) : State :=
  let x := s.time
  match x.ptpOff with
  | some off =>
    if x.ptpSeen && !x.ptpLocked && decide (x.goodSince + 16000000000 ≤ s.clock) then
      let t := { s with time := { x with ptpLocked := true } }
      if ppsHere s then t else lockTo t 3 off
    else s
  | none => s
def execPtpLock (s : State) : Host.Outcome State Fault Refusal := ok (effPtpLock s)
/-- R452: PTP is lost: no Sync has been accepted for four intervals. -/
def effPtpLoss (s : State) : State :=
  if !s.time.ptpSeen ∨ s.clock < s.time.syncAt + 4 * s.time.syncNs then s
  else
  let s := { s with time := { s.time with ptpSeen := false, ptpLocked := false, ptpOff := none, delay := none } }
  if s.time.code = 3 then toHoldover s
  else if s.time.code = 1 ∧ s.time.ppsLast = none then setTime s { s.time with code := 0 } else s
def execPtpLoss (s : State) : Host.Outcome State Fault Refusal := ok (effPtpLoss s)

/-! ### PPS (R450, R452, R609) -/

def ppsDelay (s : State) : Int := (rget s rTIME_PPS_DELAY).toInt
/-- The whole second nearest to a time. -/
def nearSec (t : Int) : Int := (t + 500000000) / 1000000000 * 1000000000
/-- R452: a rising edge that site time stamps t: measured against the second that PTP gives for it, or, in LOCKED_PPS, against the second count that
each edge advances. -/
def effPps (s : State) (t : DWord) : State :=
  if !rbit s rTIME_CFG 0 then s
  else
    let s := seen { s with time := { s.time with ppsLast := some s.clock } }
    let x := s.time
    let e : Int := (t.toNat : Int) - ppsDelay s
    if x.ppsLocked then
      let off := x.second + 1000000000 - e
      let s := rputN { s with time := { x with second := x.second + 1000000000 } } rTIME_OFFSET (sat32 off)
      let s := match x.ptpOff with
        | some po => if x.ptpLocked ∧ 1000 < (po - off).natAbs then timeEvt s 0 else s
        | none => s
      setTime s { s.time with offset := off }
    else
      match x.ptpOff with
      | none => s
      | some po =>
        let y := e + po
        if (nearSec y - y).natAbs ≤ 100 then
          if 3 ≤ x.ppsRun then lockTo { s with time := { x with ppsRun := 4, ppsLocked := true, second := nearSec y } } 2 (nearSec y - e)
          else { s with time := { x with ppsRun := x.ppsRun + 1 } }
        else { s with time := { x with ppsRun := 0 } }
def execPpsEdge (t : DWord) (s : State) : Host.Outcome State Fault Refusal := ok (effPps s t)
/-- R452: with PPS gone and PTP not locked, a locked time goes to HOLDOVER and an acquiring one without PTP runs free. -/
def ppsLost (s : State) (x : TimeU) : State :=
  if x.code = 2 then toHoldover s
  else if x.code = 1 ∧ !x.ptpSeen then setTime s { s.time with code := 0 }
  else s
/-- R452: no edge for 1.5 s: PPS is absent, and PTP takes over where it is locked. -/
def effPpsMissing (s : State) : State :=
  let x := s.time
  match x.ppsLast with
  | none => s
  | some l =>
    if s.clock < l + 1500000000 then s
    else
      let s := { s with time := { x with ppsRun := 0, ppsLocked := false, ppsLast := none } }
      match x.ptpOff with
      | some po => if x.ptpLocked ∧ x.code ≠ 3 then lockTo s 3 po else ppsLost s x
      | none => ppsLost s x
def execPpsMissing (s : State) : Host.Outcome State Fault Refusal := ok (effPpsMissing s)
/-- R452, R453: the bound of HOLDOVER has passed TIME_HOLD_LIMIT: site time is no longer valid, and the event says so. -/
def effHoldLimit (s : State) : State :=
  if s.time.code = 4 ∧ holdLimit s < timeBound s ∧ !rbit s rTIME_EVT 2 then timeEvt s 2 else s
def execHoldoverLimit (s : State) : Host.Outcome State Fault Refusal := ok (effHoldLimit s)

/-! ### Timers (R456, R457) -/

def tmr (r n : Nat) : Nat := r + 32 * n
def effTimer (s : State) (n : Nat) : State :=
  let at_ := rn64 s (tmr rTMR_AT_LO n)
  let per := rn64 s (tmr rTMR_PERIOD_LO n)
  let now := siteNow s
  if 8 ≤ n ∨ !rbit s (tmr rTMR_CFG n) 31 ∨ now < at_ then s
  else
    let s := rinc (raiseHere s (rfld s (tmr rTMR_CFG n) 15 0) (rn s (tmr rTMR_INC n)) (!effAcked s)) (tmr rTMR_FIRED n) 1
    if per = 0 then rputBit s (tmr rTMR_CFG n) 31 false
    else
      let k := (now - at_) / per + 1
      rinc (rput64 s (tmr rTMR_AT_LO n) (at_ + k * per)) (tmr rTMR_MISSED n) (k - 1)
/-- R456, R457: a timer whose time has come signals its counter, and re-arms where it is periodic. -/
def execTimerFire (n : Nat) (s : State) : Host.Outcome State Fault Refusal := ok (effTimer s n)

end Sys2Proof.Machine
end

