-- ==== Sys2Proof/Machine/Power.lean ====
section
/-! DEFINITION. The power governor (R458–R471), parking (R473, R474), and the alarms that erase keys (R483–R486, R601). -/

namespace Sys2Proof.Machine

/-- An event of the governor. -/
def pwEvt (s : State) (b : Nat) : State :=
  let s := rputBit s rPW_EVT b true
  evtSet s winTpw 4 (rn s rPW_EVT)
def floorNat (r : Rat) : Nat := r.floor.toNat
/-- An F32 register's value. -/
def ratOf (w : Word) : Rat :=
  match f32v w with
  | .fin neg m e =>
    let v : Rat := if 0 ≤ e then ((m * 2 ^ e.toNat : Nat) : Rat) else (m : Rat) / ((2 ^ (-e).toNat : Nat) : Rat)
    if neg then -v else v
  | _ => 0
/-- Terms of the exponential's series: Σ xᵏ/k! for k below n. -/
def expTerms (x : Rat) : Nat → Nat → Rat → Rat → Rat
  | 0, _, _, acc => acc
  | n + 1, k, t, acc => expTerms x n (k + 1) (t * x / ((k + 1 : Nat) : Rat)) (acc + t)
/-- e^(−x) for x from 0 to 5, to 40 terms. -/
def expNeg (x : Rat) : Rat := 1 / expTerms x 40 0 1 0

/-! ### The plant (R458, R463, R464) -/

/-- Whether the spec states no value of R_θ: there is no flow, or a coefficient is not finite. -/
def rThetaOpen (s : State) : Bool := s.gov.flow == 0 || !f32Finite (rget s rTH_R0) || !f32Finite (rget s rTH_R1)
/-- R_θ in K/W, or a free value. -/
def rTheta (s : State) : Rat :=
  if rThetaOpen s then ((Config.freeWord s.free).toNat : Rat)
  else ratOf (rget s rTH_R0) + ratOf (rget s rTH_R1) * 100 / (s.gov.flow : Rat)
def tauMs (s : State) : Nat := rn s rTH_TAU
/-- Temperatures in K above 0 °C. -/
def degOf (i : Int) : Rat := (i : Rat) / 16
def steadyTemp (s : State) (p : Nat) : Rat := degOf s.gov.tIn + rTheta s * (p : Rat)
/-- R463: T̂ after a tick. -/
def predict (s : State) (p : Nat) (ts : Int) : Rat :=
  let t := s.gov.tHat
  let n := if tauMs s = 0 then steadyTemp s p else t + (1 / 100 / (tauMs s : Rat)) * (steadyTemp s p - t)
  max n (degOf ts)
/-- R464: the thermal cap; none where the resistance gives no limit. -/
def thermCap (s : State) (p : Nat) (tHat : Rat) : Option Rat :=
  let d : Rat := if tauMs s = 0 then 0 else expNeg (5 / (tauMs s : Rat))
  let ss := steadyTemp s p
  let th := ss + (tHat - ss) * d
  let den := rTheta s * (1 - d)
  if den ≤ 0 then none else some ((p : Rat) + ((rfld s rTH_LIM 7 0 : Nat) - th) / den)
def hottest (old : Int) (sensors : List Int) : Int := match sensors with | [] => old | x :: r => r.foldl max x
def critTemp (s : State) : Int := 16 * (rfld s rTH_LIM 15 8 : Nat)

/-- R484, R515: an alarm: the cipher engine erases its keys, and firmware its copy of the identity key; on an order code without a cipher
engine the lid alarm does not exist and the others have the same effect on the identity key. -/
def alarm (s : State) (cause : Nat) : State :=
  if winThere s winCph || cause != 8 then dropIdentity (returnSxu (cphAlarm s cause)) else s

/-- GOV_F shows the trim and the issue fraction. -/
def showF (s : State) : State := rputN s rGOV_F (s.gov.trim * 256 + s.gov.f)
/-- R465: T_s at CRIT: issue stops, and the temperature alarm erases the keys. -/
def critCheck (s : State) : State :=
  let g := s.gov
  if critTemp s ≤ g.tS then
    let s := showF { s with gov := { g with f := 0, thermCrit := true } }
    let s := if g.thermCrit then s else pwEvt s 3
    alarm s 4
  else if g.thermCrit ∧ g.tS ≤ critTemp s - 160 then { s with gov := { g with thermCrit := false, rose := none } }
  else s
def putTemps (s : State) : State :=
  rputN s rTH_PRED ((s.gov.tS % 65536).toNat * 65536 + ((s.gov.tHat * 16).floor % 65536).toNat)
def effThermCrit (s : State) (sensors : List Int) : State := critCheck (putTemps { s with gov := { s.gov with tS := hottest s.gov.tS sensors } })
/-- R465. -/
def execThermCrit (sensors : List Int) (s : State) : Host.Outcome State Fault Refusal := ok (effThermCrit s sensors)

/-! ### Profiles (R461, R462, R470) -/

/-- A held GRANT whose time has come is the grid profile's. -/
def grantDue (s : State) : State :=
  match s.gov.heldGrant with
  | some (e, w, u, d) => if e ≤ siteNow s then { s with gov := { s.gov with grant := some (w, u, d), heldGrant := none } } else s
  | none => s
/-- R461. -/
def execGrantEffective (s : State) : Host.Outcome State Fault Refusal := ok (grantDue s)
/-- The profile in force: grant and ramps. Before the first GRANT, and when it is lost, the SAFE profile (R462). -/
def profile (s : State) : Nat × Nat × Nat :=
  if s.gov.battery then (rn s rPW_BAT, rfld s rPW_BAT_RAMP 31 16, rfld s rPW_BAT_RAMP 15 0)
  else if s.gov.safe then (rn s rPW_SAFE, 100, 100)
  else s.gov.grant.getD (rn s rPW_SAFE, 100, 100)
def putProfile (s : State) : State :=
  let p := profile s
  rputBit (rputN (rputN s rPW_GRANT p.1) rPW_RAMP (p.2.1 % 65536 * 65536 + p.2.2 % 65536)) rPW_CTRL 1 s.gov.battery
def onBattery (s : State) : State := if s.gov.battery then s else pwEvt { s with gov := { s.gov with battery := true } } 4
def effGrantLost (s : State) : State :=
  if !s.gov.safe ∧ s.gov.grantAt + rfld s rPW_TIMEOUT 15 0 * 1000000 ≤ s.clock then pwEvt { s with gov := { s.gov with safe := true } } 0 else s
/-- R462. -/
def execGrantLost (s : State) : Host.Outcome State Fault Refusal := ok (effGrantLost s)
def putCool (s : State) : State := rputN s rPW_COOL (s.gov.flow % 65536 * 65536 + (s.gov.tIn % 65536).toNat)
def effCoolLost (s : State) : State :=
  if !s.gov.coolLost ∧ s.gov.coolAt + rfld s rPW_TIMEOUT 31 16 * 1000000 ≤ s.clock then
    putCool { s with gov := { s.gov with coolLost := true, tIn := 720, flow := 100 } }
  else s
/-- R462: no COOLANT: 45 °C and 1.0 L/min are assumed. -/
def execCoolantTimeout (s : State) : Host.Outcome State Fault Refusal := ok (effCoolLost s)
/-- R471, R599. -/
def execGridLossN (asserted : Bool) (s : State) : Host.Outcome State Fault Refusal :=
  ok (let s := { s with pins := { s.pins with gridLow := asserted } }; if asserted then onBattery s else s)

/-! ### The control law (R466–R469) -/

def liveEngineCount (s : State) : Nat := ((List.range 96).filter (fun e => !fenced s e)).length
/-- R466: since the last tick an engine had a vector ready that the issue fraction denied: one that issued at a fraction below 1, or one that
still has its next pass ready; or the module is unparking (R474). -/
def demand (s : State) : Bool :=
  blkCode s winTpw == 3 || (decide (s.gov.f < 64) && (s.gov.denied || (List.range 96).any (passReady s)))
def pMin (s : State) : Rat := (rn s rPW_BASE : Rat) + (rn s rPW_DYN : Rat) / 64
/-- R467: the delay of a ramp start, in ns. -/
def staggerNs (s : State) : Nat :=
  let n := rfld s rPW_STAGGER 7 0
  let i := myId s
  if n = 0 then 0 else (axisOf i 0 + 3 * axisOf i 1 + 5 * axisOf i 2 + 7 * axisOf i 3) % n * us (rfld s rPW_STAGGER 31 16)
/-- W/ms over a tick of 10 µs. -/
def perTick (r : Nat) : Rat := (r : Rat) / 100
/-- R467: whether a ramp start is being delayed: demand stays present meanwhile. -/
def delayed (s : State) : Bool := s.gov.stagger.elim false (fun t => decide (s.clock < t))
/-- R466, R467: the target after a tick, with the ramp start's delay begun or ended. -/
def moveTarget (s : State) (dem : Bool) (cap : Rat) (byTherm : Bool) (up dn : Nat) : State :=
  let g := s.gov
  let lo := pMin s
  if cap < g.tgt then
    { s with gov := { g with stagger := none, tgt := max lo (if byTherm then cap else max cap (g.tgt - perTick dn)) } }
  else if !dem && !delayed s then { s with gov := { g with stagger := none, tgt := max lo (g.tgt - perTick dn) } }
  else if g.tgt = cap ∨ up = 0 then { s with gov := { g with tgt := max lo g.tgt } }
  else
    let rise : State := { s with gov := { g with stagger := none, rose := some s.clock, tgt := max lo (min cap (g.tgt + perTick up)) } }
    match g.stagger with
    | some t => if t ≤ s.clock then rise else { s with gov := { g with tgt := max lo g.tgt } }
    | none =>
      let start : Bool := match g.rose with | some t => decide (t + 1000000 ≤ s.clock) | none => true
      if start ∧ staggerNs s ≠ 0 ∧ !g.go then { s with gov := { g with stagger := some (s.clock + staggerNs s), tgt := max lo g.tgt } } else rise
/-- R467: the delay of a ramp start has passed: P_tgt may rise at the next tick. -/
def effStaggerEnd (s : State) : State :=
  match s.gov.stagger with
  | some t => if t ≤ s.clock then { s with gov := { s.gov with stagger := none, go := true } } else s
  | none => s
def execStaggerEnd (s : State) : Host.Outcome State Fault Refusal := ok (effStaggerEnd s)
/-- R468: the issue fraction after a tick. With no dynamic draw the quotient has no value (a free value). -/
def moveF (s : State) (p : Nat) : State :=
  let g := s.gov
  let tol := rn s rPW_TOL
  let trim := if g.tgt + (tol : Rat) < (p : Rat) then min 64 (g.trim + 1) else if (p : Rat) < g.tgt - (tol : Rat) then g.trim - 1 else g.trim
  let dyn : Rat := (rn s rPW_DYN : Rat) * (liveEngineCount s : Rat) / 96
  let ff : Int := if dyn = 0 then ((Config.freeWord s.free).toNat : Int) else (64 * (g.tgt - (rn s rPW_BASE : Rat)) / dyn).floor
  let want := (max 1 (min 64 (ff - trim))).toNat
  let f := if g.thermCrit then 0 else if g.f + 2 < want then g.f + 2 else if want + 2 < g.f then g.f - 2 else want
  { s with gov := { g with trim := trim, f := f }, free := if dyn = 0 then s.free + 1 else s.free }
def effTick (s : State) (p : Nat) (sensors : List Int) : State :=
  -- R463: every 10 µs
  if s.clock < s.gov.tickAt + us 10 then s
  else
  let dem := demand s
  let s := { s with gov := { s.gov with tickAt := s.clock } }
  let s := if s.pins.gridLow then onBattery s else s
  let s := putProfile (grantDue s)
  let ts := hottest s.gov.tS sensors
  let tHat := predict s p ts
  let pt := thermCap s p tHat
  let s := if rThetaOpen s then { s with free := s.free + 1 } else s
  let s := putTemps { s with gov := { s.gov with tS := ts, tHat := tHat } }
  let pr := profile s
  let grant : Rat := (pr.1 : Rat)
  let lim := match pt with | some x => decide (x < grant) | none => false
  let cap := match pt with | some x => min grant x | none => grant
  let was := s.gov.thermLimit
  let s := { s with gov := { s.gov with thermLimit := lim } }
  let s := if lim && !was then pwEvt s 2 else s
  let s := if grant < pMin s then pwEvt s 1 else s
  let s := if dem && decide (s.gov.f < 64) then rinc64 s rPW_THROT_LO 1 else s
  let s := moveTarget s dem cap lim pr.2.1 pr.2.2
  let s := moveF (critCheck { s with gov := { s.gov with go := false, denied := false } }) p
  let s := rputN (rputN (rputN s rPW_MEAS p) rPW_TGT (floorNat s.gov.tgt)) rPW_CAP (floorNat cap)
  showF s
/-- R463–R468: a governor tick, with the draw measured over it and the die sensors. -/
def execGovernorTick (power : Nat) (sensors : List Int) (s : State) : Host.Outcome State Fault Refusal := ok (effTick s power sensors)

/-! ### Parking (R473, R474) -/

/-- R473: nothing is dispatched or held in any queue, and nothing is executed for another module. -/
def mayPark (s : State) : Bool :=
  s.jobs == [] && s.queues.all (fun e => e.2.headCmd.isNone && (e.2.st != .active || e.2.head == e.2.tail))
def effPark (s : State) : State :=
  if unparked s && mayPark s then setCode (rputBit s rPW_CTRL 0 true) winTpw 1 else s
/-- R473: a write of 1 to PW_CTRL.PARK. -/
def execPark (s : State) : Host.Outcome State Fault Refusal := ok (effPark s)
def memWins (o : Order) : List Nat := ((List.range 8).map winMem).filter (winPresent o)
def memCodes (s : State) (code : Nat) : State := (memWins s.order).foldl (fun s w => if blkCode s w = 0 then s else setCode s w code) s
def effParked (s : State) : State := if blkCode s winTpw = 1 then setCode (memCodes s 2) winTpw 2 else s
/-- R473, R581: HBM is in self-refresh, and the compute clocks have stopped. -/
def execParked (s : State) : Host.Outcome State Fault Refusal := ok (effParked s)
/-- R474. -/
def execUnpark (s : State) : Host.Outcome State Fault Refusal := ok (wake s)
/-- R474: back in RUN. -/
def execUnparkDone (s : State) : Host.Outcome State Fault Refusal := ok (if blkCode s winTpw = 3 then setCode (memCodes s 1) winTpw 0 else s)

/-! ### Alarms (R483, R601) -/

/-- R483: a supply rail outside its window. -/
def execVoltageAlarm (s : State) : Host.Outcome State Fault Refusal := ok (alarm { s with pins := { s.pins with railBad := true } } 1)
/-- R483: the reference clock off its frequency or absent. -/
def execClockAlarm (s : State) : Host.Outcome State Fault Refusal := ok (alarm { s with pins := { s.pins with clockBad := true } } 2)
def effLid (s : State) : State :=
  let s := { s with pins := { s.pins with lidOpen := true } }
  if rbit s rCPH_ALARM_CFG 0 then alarm s 8 else s
/-- R483, R601: the lid loop opens; the alarm is taken while LID_EN is 1. -/
def execLidAlarm (s : State) : Host.Outcome State Fault Refusal := ok (effLid s)

end Sys2Proof.Machine
end

