-- ==== Sys2Proof/Machine/Board.lean ====
section
/-! DEFINITION. The board link (R459–R462, R602), the module's signals to the board (R597–R604, R609), the FRU memory (R613) and the test access port (R603). -/

namespace Sys2Proof.Machine

/-! ### Frames (R459, R460) -/

def brdOn (s : State) : Bool := rbit s rBRD_CTRL 0
/-- The bytes of a type that are not reserved. -/
def frameUsed (typ i : Nat) : Bool :=
  decide (i < 4 ∨ 0x1C ≤ i) ||
    (if typ = 1 then decide ((4 ≤ i ∧ i < 0xC) ∨ (0x10 ≤ i ∧ i < 0x18)) else if typ = 2 then decide (4 ≤ i ∧ i < 8)
     else decide (i = 4 ∨ i = 6 ∨ i = 7))
/-- R459: whether a frame is good: length, CRC, TYPE, and reserved fields. -/
def frameGood (b : List Byte) : Bool :=
  b.length == 32 && leAt b 0x1C 4 == crcOf (b.take 0x1C) && leAt b 0 2 == 0 && decide (1 ≤ leAt b 3 1 ∧ leAt b 3 1 ≤ 3) &&
    (List.range 32).all (fun i => frameUsed (leAt b 3 1) i || leAt b i 1 == 0)
def sint16 (n : Nat) : Int := (BitVec.ofNat 16 n).toInt
/-- R460–R462, R470: what an accepted frame does. -/
def frameEffect (s : State) (b : List Byte) : State :=
  let typ := leAt b 3 1
  let g := s.gov
  if typ = 1 then
    let w := leAt b 4 4
    let u := leAt b 8 2
    let d := leAt b 0xA 2
    let e := leAt b 0x10 8
    let s := { s with gov := { g with grantAt := s.clock, safe := false, heldGrant := some (e, w, u, d) } }
    grantDue (if g.safe then pwEvt s 5 else s)
  else if typ = 2 then
    putCool { s with gov := { g with tIn := sint16 (leAt b 4 2), flow := leAt b 6 2, coolAt := s.clock, coolLost := false } }
  else if leAt b 4 1 = 1 then onBattery s
  else if leAt b 4 1 = 0 ∧ !s.pins.gridLow then { s with gov := { g with battery := false, rose := if g.battery then none else g.rose } }
  else s
/-- R459: a frame that has ended is accepted, ignored as a repeat, or discarded and counted. -/
def acceptFrame (s : State) (b : List Byte) : State :=
  if !brdOn s then s
  else if !frameGood b then rinc s rBRD_RX_BAD 1
  else
    let typ := leAt b 3 1
    let seq := leAt b 2 1
    if s.brdLast.contains (typ, seq) then s
    else
      let s := { s with brdLast := s.brdLast.filter (fun x => x.1 != typ) ++ [(typ, seq)] }
      frameEffect (rputN (rinc s rBRD_RX_OK 1) rBRD_LAST (typ * 2 ^ 24 + seq * 65536)) b
/-- R602: an idle of two character times ends a frame. While a MODULE reset or a POR is held, what arrives is discarded. -/
def effFrameEnd (s : State) (b : List Byte) : State := if s.resets.any (fun r => r.dom == 4 || r.dom == 6) then s else acceptFrame s b
def execBoardFrameEnd (bytes : List Byte) (s : State) : Host.Outcome State Fault Refusal := ok (effFrameEnd s bytes)
/-- R460: a COOLANT frame. -/
def execCoolant (bytes : List Byte) (s : State) : Host.Outcome State Fault Refusal := ok (if leAt bytes 3 1 = 2 then effFrameEnd s bytes else s)
/-- R470: a GRID frame. -/
def execGrid (bytes : List Byte) (s : State) : Host.Outcome State Fault Refusal := ok (if leAt bytes 3 1 = 3 then effFrameEnd s bytes else s)
/-- R460: a STATUS frame of the module. -/
def statusFrame (s : State) (power : Nat) : List Byte :=
  let g := s.gov
  let flags := b2n g.battery + 2 * b2n g.thermLimit + 4 * b2n g.thermCrit + 8 * b2n (blkCode s winTpw == 2) + 16 * b2n g.safe
  let b := [0, 0, BitVec.ofNat 8 g.seq, 8] ++ leBytes power 2 ++ leBytes (floorNat g.tgt) 2 ++ leBytes (rn s rPW_CAP) 2 ++
    leBytes ((g.tHat * 16).floor % 65536).toNat 2 ++ leBytes (g.tS % 65536).toNat 2 ++ leBytes g.f 1 ++ leBytes flags 1 ++ le64 (siteNow s) ++ zeroBytes 4
  b ++ le32 (crcOf b)
def effStatus (s : State) (power : Nat) : State :=
  if !brdOn s ∨ s.clock < s.gov.sentAt + us 1000 ∨ s.resets.any (fun r => r.dom == 4 || r.dom == 6) then s
  else emit { s with gov := { s.gov with seq := (s.gov.seq + 1) % 256, sentAt := s.clock } } (.frame "STATUS" (statusFrame s power))
/-- R460: every 1 ms. -/
def execStatus (power : Nat) (s : State) : Host.Outcome State Fault Refusal := ok (effStatus s power)

/-! ### Signals (R597, R600, R609, R610) -/

/-- R600: whether ALARM_N is driven low. -/
def pinAlarmLow (s : State) : Bool := !s.resets.any (fun r => r.dom == 6) && (cphLatched s || s.gov.thermCrit)
/-- R610: whether the module is in reset: a MODULE or power-on reset is in progress. -/
def pinsInReset (s : State) : Bool := s.resets.any (fun r => r.dom == 4 || r.dom == 6)
/-- R609, R610: PPS_OUT: high for 100 ms from each whole second of site time, while it is valid; low in reset. -/
def pinPpsOut (s : State) : Bool := !pinsInReset s && timeValid s && decide (siteNow s % 1000000000 < 100000000)
/-- R597, R610: PRESENT_N is tied low on the module. -/
def pinPresentLow (_ : State) : Bool := true
/-- R597, R610: MOD_PG is low while a rail is outside its window: from a voltage condition until a reset finds it gone (log entry 75). -/
def pinModPgLow (s : State) : Bool := s.pins.railBad

/-- R605, R610: whether a torus port's transmitters are silent: the port is not enabled or is in loopback, or a reset that contains FABRIC is in
progress. -/
def torusSilent (s : State) (p : Nat) : Bool :=
  !portEnabled s p || rbit s (tfpReg p oTFP_CTRL) 1 || s.resets.any (fun r => r.dom == 1 || r.dom == 4 || r.dom == 6)
/-- R610: whether the reset of an Ethernet port's pluggable is driven low. -/
def pinEthRstLow (s : State) : Bool := pinsInReset s

/-! ### The FRU memory (R613) -/

def orderNum (o : Order) : Nat := match o with | .x384 => 0 | .l384 => 1 | .x192 => 2
/-- The character of a decimal digit, of an upper-case letter, and of either (10 to 35 the letters). -/
def chDigit (n : Nat) : Nat := 48 + n % 10
def chLetter (n : Nat) : Nat := 65 + n % 26
def chEither (n : Nat) : Nat := if n % 36 < 10 then chDigit (n % 36) else chLetter (n % 36 - 10)
/-- R614: the serial number: "T9", a plant code of two letters, year and week of manufacture, and eight letters and digits. -/
def serialBytes : List Byte :=
  let yw := Config.madeYear.toNat % 100 * 100 + Config.madeWeek.toNat % 54
  bytesOf ([84, 57, chLetter (Config.serialLetter 0), chLetter (Config.serialLetter 1), chDigit (yw / 1000), chDigit (yw / 100), chDigit (yw / 10), chDigit yw] ++
    (List.range 8).map (fun i => chEither (Config.serialLetter (2 + i))))
/-- R616: the stepping of every die of every T9: A0. -/
def stepping : Nat := 0x10
/-- R472: idle, parked and maximum draw in W. -/
def drawIdle (o : Order) : Nat := if o = .x192 then 330 else 360
def drawParked (o : Order) : Nat := if o = .x192 then 202 else 210
def drawMax : Nat := 1800
/-- R613: bytes 0x000–0x02D, as manufactured. -/
def fruHead (o : Order) : List Byte :=
  le32 0x52463954 ++ leBytes 1 2 ++ leBytes (orderNum o) 2 ++ serialBytes ++ leBytes Config.mgmtMac.toNat 6 ++ leBytes 0 2 ++
    leBytes Config.madeYear.toNat 2 ++ leBytes (Config.madeWeek.toNat % 54) 1 ++ leBytes 0 1 ++ leBytes stepping 1 ++ leBytes stepping 1 ++ leBytes stepping 1 ++
    leBytes 0 1 ++ leBytes (drawIdle o) 2 ++ leBytes (drawParked o) 2 ++ leBytes drawMax 2
/-- R613: bytes 0x000–0x3FB; those that the table does not give are free. -/
def fruMade (o : Order) : List Byte := fruHead o ++ (List.range 0x3CE).map (fun i => Config.fruByte (0x2E + i))
/-- R613: the integrator's bytes, as shipped. -/
def fruDefault (_ : Nat) : Byte := 0
def fruByte (s : State) (a : Nat) : Byte :=
  if a < 0x3FC then ((fruMade s.order)[a]?).getD 0
  else if a < 0x400 then ((le32 (crcOf (fruMade s.order)))[a - 0x3FC]?).getD 0
  else smGet fruDefault s.fru a
def effFruWrite (s : State) (a : Nat) (v : Byte) : State :=
  if 0x400 ≤ a ∧ a < 0x800 ∧ s.pins.fruWpLow then { s with fru := smSet fruDefault s.fru a v } else s
/-- R613: applied to bytes 0x400–0x7FF only, and only while FRU_WP is low. -/
def execFruWrite (addr : Nat) (v : Byte) (s : State) : Host.Outcome State Fault Refusal := ok (effFruWrite s addr v)

/-! ### The test access port (R603) -/

/-- R603: the EXTEST family (numbered 3 EXTEST, 4 EXTEST_PULSE, 5 EXTEST_TRAIN here) is accepted only while RESET_N is low, and acts as
BYPASS (0) otherwise; SAMPLE (1) and PRELOAD (2) are accepted; any other code is BYPASS. -/
def effTap (s : State) (op : Nat) : State :=
  let t := if op = 1 ∨ op = 2 then some op else if (3 ≤ op ∧ op ≤ 5) ∧ s.pins.resetLow then some op else none
  { s with pins := { s.pins with tap := t } }
def execTestAccessPort (opcode : Nat) (s : State) : Host.Outcome State Fault Refusal := ok (effTap s opcode)

end Sys2Proof.Machine
end

