-- ==== Sys2Proof/Machine/Rot.lean ====
section
/-! DEFINITION. The root of trust (R506–R525): module flash and images, the boot ROM, measurements, the attestation report and the opening of sessions. -/

namespace Sys2Proof.Machine

/-! ### Module flash and images (R507, R508, R510) -/

def label16 (t : String) : List Nat := let l := t.toList.map Char.toNat; l ++ List.replicate (16 - l.length) 0
/-- R514: the key that seals the identity record, derived from root 0. -/
def idSealKey (root : List Nat) : List Nat := deriveKey root (label16 "IDENTITY-KEY") (List.replicate 32 0)
/-- R507, R514: the identity record as manufactured: an IV, the private key (modulus and exponent) sealed under root 0, its tag, and the certificate
chain (log entry 76). -/
def idRecord : List Byte :=
  let iv := (List.range 12).map (fun i => (Config.idIv i).toNat)
  let r := gcmSealBytes (idSealKey (beBytes Config.deviceKey.toNat 32)) iv [] (beBytes Config.idModulus 512 ++ beBytes Config.idExponent 512)
  bytesOf (iv ++ r.1 ++ r.2) ++ Config.certChain
/-- R514: the key that the sealed bytes of the record hold. -/
def unsealId (root : List Nat) (b : List Byte) : Option (Nat × Nat) :=
  (gcmOpenBytes (idSealKey root) (natsOf (b.take 12)) [] (natsOf ((b.drop 12).take 1024)) (natsOf ((b.drop 1036).take 16))).map
    (fun k => (beNat (k.take 512), beNat (k.drop 512)))
/-- R507: the bank record: active bank, pending bank (0xFF none) and trial flag, a byte each (log entry 76). -/
def bankRecord (r : RotMem) : List Byte := bytesOf [r.active, r.pending.getD 0xFF, b2n r.trial]
/-- R507: an erased byte. -/
def erased : Byte := 0xFF
def flashSize : Nat := 64 * 2 ^ 20
def flashDefault (a : Nat) : Byte := Config.flashByte a
/-- R507: a byte of module flash: the bank, owner and identity records, the reserved area that reads as erased, and what has been written elsewhere. -/
def flashByte (s : State) (a : Nat) : Byte :=
  if a < 0x10000 then ((bankRecord s.rot)[a]?).getD erased
  else if a < 0x20000 then ((bytesOf s.rot.owner)[a - 0x10000]?).getD 0
  else if a < 0x40000 then (idRecord[a - 0x20000]?).getD erased
  else if 0x80000 ≤ a ∧ a < 0x100000 then erased
  else if a < flashSize then smGet flashDefault s.flash a
  else erased
def flashBytes (s : State) (a n : Nat) : List Byte := (List.range n).map (fun i => flashByte s (a + i))
def putFlash (s : State) (a : Nat) : List Byte → State
  | [] => s
  | b :: r => putFlash { s with flash := smSet flashDefault s.flash a b } (a + 1) r
/-- Bank 0 is A, bank 1 is B. -/
def bankBase (b : Nat) : Nat := if b = 0 then 0x100000 else 0x1900000
def bankSize : Nat := 24 * 2 ^ 20
def imgNum (s : State) (b o n : Nat) : Nat := leAt (flashBytes s (bankBase b + o) n) 0 n
def imgBodyLen (s : State) (b : Nat) : Nat := imgNum s b 8 4
def imgSvn (s : State) (b : Nat) : Nat := imgNum s b 7 1
def imgBody (s : State) (b : Nat) : List Byte := flashBytes s (bankBase b + 0x440) (imgBodyLen s b)
def imgKey (s : State) (b : Nat) : List Nat := natsOf (flashBytes s (bankBase b + 0x40) 512)
/-- R508: the signed message. -/
def imgMessage (s : State) (b : Nat) : List Nat := natsOf (flashBytes s (bankBase b) 0x240 ++ imgBody s b)
/-- R508: the runtime's bytes within the body. -/
def imgRuntime (s : State) (b : Nat) : List Nat := natsOf (((imgBody s b).drop (imgNum s b 0x10 4)).take (imgNum s b 0x14 4))
/-- R510. -/
def imageOk (s : State) (b : Nat) : Bool :=
  let k := imgNum s b 6 1
  imgNum s b 0 4 == 0x46575439 && imgNum s b 4 2 == 1 && decide (k ≤ 3) && sha512 (imgKey s b) == Config.vendorHash k && !Config.vendorRevoked k &&
    decide (s.rot.floor ≤ imgSvn s b) && decide (imgBodyLen s b ≤ bankSize - 0x440) &&
    pssVerify (beNat (imgKey s b)) (sha512 (imgMessage s b)) (natsOf (flashBytes s (bankBase b + 0x240) 512))

/-! ### Measurements (R512, R513) -/

def measWord (i k : Nat) : Nat := rMEAS + 0x40 * i + 4 * k
def measGet (s : State) (i : Nat) : List Nat := (List.range 16).flatMap (fun k => natsOf (le32 (rn s (measWord i k))))
def measPut (s : State) (i : Nat) (d : List Nat) : State :=
  (List.range 16).foldl (fun s k => rputN s (measWord i k) (leAt (bytesOf d) (4 * k) 4)) s
/-- R512: MEASi extended. -/
def measExt (s : State) (i : Nat) (d : List Nat) : State := measPut s i (sha512 (measGet s i ++ d))
/-- A management core (R299). -/
def isMgmt (owner : Nat) : Bool := owner == 109 || owner == 110
/-- R536: an agent that owner-only registers take writes from. -/
def isOwner (s : State) (owner : Nat) : Bool :=
  isMgmt owner || (decide (112 ≤ owner ∧ owner < 128) && (getSess s (owner - 112)).st == 2 && (getSess s (owner - 112)).role == 1)
def effMeasExt (s : State) (owner : Nat) (v : Word) : State :=
  let i := wbits v 2 0
  if isOwner s owner ∧ (i = 6 ∨ i = 7) then measExt s i ((List.range 16).flatMap (fun k => natsOf (le32 (rn s (rTPM_MEAS_DATA + 4 * k))))) else s
/-- R512: a write of TPM_MEAS_EXT. -/
def execTpmMeasExt (owner : Nat) (v : Word) (s : State) : Host.Outcome State Fault Refusal := ok (byAgent s owner (effMeasExt s owner v))

/-! ### The attestation report (R521) -/

def glbStage (s : State) : Nat := blkCode s winGlb
def tpmCode (s : State) : Nat := blkCode s winTpm
def inRecovery (s : State) : Bool := tpmCode s == 2
/-- A MODULE or power-on reset is in progress. -/
def inModReset (s : State) : Bool := s.resets.any (fun r => r.dom == 4 || r.dom == 6)
def rngBytes (s : State) (n : Nat) : List Byte := (List.range n).map (fun i => Config.freeByte s.free i)
/-- R521: report bytes 0x000–0x3FF. -/
def reportBody (s : State) (i : Nat) (nonce modNonce : List Byte) : List Byte :=
  le32 0x41545439 ++ leBytes 1 2 ++ leBytes (orderNum s.order) 2 ++ serialBytes ++ le32 (myId s) ++ le32 s.rot.boots ++
    le64 (siteNow s) ++ leBytes (b2n (timeValid s) * 128 + s.time.code) 1 ++ leBytes (s.rot.booted + b2n s.rot.trial * 128) 1 ++
    leBytes (rfld s rTPM_BOOT 31 24) 1 ++ leBytes s.rot.floor 1 ++
    le32 (b2n (rbit s rCPH_ALARM_CFG 0 && winThere s winCph) + b2n (cphLatched s) * 2 + rfld s rCPH_ALARM 3 0 * 4 +
      b2n (s.rot.owner != []) * 64 + b2n (inRecovery s) * 128) ++
    leBytes (((List.range 96).map (fun e => b2n (fenced s e) * 2 ^ e)).sum) 16 ++ fitBytes nonce 64 ++
    fitBytes (bytesOf s.rot.owner) 64 ++ bytesOf ((List.range 8).flatMap (measGet s)) ++ le32 i ++ zeroBytes 28 ++ modNonce ++ zeroBytes 256
/-- The 1,536-byte report; in RECOVERY its signature is zero (R511). The random bit generator's nonce and salt are free values. -/
def makeReport (s : State) (i : Nat) (nonce : List Byte) : List Byte × State :=
  let body := reportBody s i nonce (rngBytes s 32)
  let s := { s with free := s.free + 1 }
  if inRecovery s then (body ++ zeroBytes 512, s)
  else
    let k := s.idKey.getD (0, 0)
    (body ++ bytesOf (pssSign k.1 k.2 (sha512 (natsOf body)) (natsOf (rngBytes s 64))), { s with free := s.free + 1 })

/-! ### Opening a session (R521) -/

/-- R516: a datagram reaches the firmware: no reset holds the module, its port is in use, and it is addressed to UDP port ETH_C_UDP. -/
def ctrlHeard (s : State) (m : CMsg) : Bool :=
  !inModReset s && (m.via == 0 || (decide (m.via ≤ 2) && ethUp s (m.via - 1))) && m.toPort == rfld s (wreg (winEth (m.via - 1)) oETH_C_UDP) 15 0
/-- R519: an answer in the clear. -/
def clearRsp (s : State) (m : CMsg) (status : Nat) (seq : DWord) : State :=
  sendCtrl s { via := m.via, fromAddr := m.fromAddr, fromPort := m.fromPort, typ := 7, session := m.session, status := status, seq := seq, ackSeq := m.seq }
def badMsg (s : State) : State := rinc s rTPM_BAD_MSG 1
def sendReport (s : State) (m : CMsg) (i : Nat) (rep : List Byte) : State :=
  let half (h : Nat) : CMsg :=
    { via := m.via, fromAddr := m.fromAddr, fromPort := m.fromPort, typ := 2, session := i, status := h, seq := w64 h, ackSeq := m.seq,
      len := 768, body := (rep.drop (768 * h)).take 768 }
  sendCtrl (sendCtrl s (half 0)) (half 1)
/-- OPEN answered: in RECOVERY an unsigned report and no session (R511); DOWN without an identity key (R515); the lowest free session. -/
def answerOpen (s : State) (m : CMsg) : State :=
  if inRecovery s then
    (if m.via ≠ 0 then s else let r := makeReport s 0 (m.body.take 64); sendReport r.2 m 0 r.1)
  else if s.idKey = none then clearRsp s m 8 0
  else
    match sessIds.find? (fun i => (getSess s i).st == 0) with
    | none => clearRsp s m 4 0
    | some i =>
      let r := makeReport s i (m.body.take 64)
      let x : Sess :=
        { st := 1, port := m.via, addr := m.fromAddr, udp := m.fromPort, report := r.1, asked := leAt m.body 64 1, seqOut := 2, lastReq := s.clock }
      sendReport (setSess r.2 i x) m i r.1
/-- Whether a datagram comes from the host of the session it names, in a given state. -/
def ofSession (s : State) (m : CMsg) (st : Nat) : Bool :=
  let x := getSess s (m.session % 16)
  x.st == st && x.addr == m.fromAddr && x.udp == m.fromPort && x.port == m.via
def effOpenSession (s : State) (m : CMsg) : State :=
  if m.typ ≠ 1 ∨ !ctrlHeard s m then s
  else if m.sealed ∨ ofSession s m 2 then badMsg s
  else if glbStage s = 0 ∧ !inRecovery s then { s with openHeld := s.openHeld ++ [m] }
  else answerOpen s m
def execOpenSession (m : CMsg) (s : State) : Host.Outcome State Fault Refusal := ok (effOpenSession s m)
/-- R547: the OPEN messages that waited are answered. -/
def answerHeld (s : State) : State := s.openHeld.foldl answerOpen { s with openHeld := [] }

/-! ### The boot ROM (R506, R511) -/

def putBoot (s : State) : State :=
  let r := s.rot
  let svn := if inRecovery s then 0 else imgSvn s r.booted
  let s := rputN s rTPM_BOOT (svn * 2 ^ 24 + r.floor * 65536 + b2n (inRecovery s) * 4 + b2n r.trial * 2 + r.booted)
  rputF (rputN s rTPM_BOOT_COUNT r.boots) rTPM_FW 1 0 (r.pending.getD 3)
/-- The ROM loads the image of a bank that passed R510 into firmware memory, and runs it (R506). -/
def bootBank (s : State) (b : Nat) (trial : Bool) : State :=
  let s := measExt (measExt s 1 (sha512 (imgMessage s b))) 2 (sha512 (imgKey s b))
  putBoot (setCode { s with fwMem := imgBody s b, rot := { s.rot with booted := b, trial := trial, pending := none } } winTpm 1)
def effBootRom (s : State) : State :=
  if glbStage s ≠ 0 ∨ tpmCode s ≠ 0 ∨ inModReset s then s
  else
    let s := { s with rot := { s.rot with boots := (s.rot.boots + 1) % 2 ^ 32 } }
    let s := measExt (measExt s 0 Config.romHash) 0 (Config.fuseHash s.rot.floor)
    match s.rot.pending.filter (imageOk s) with
    | some b => bootBank s b true
    | none =>
      if imageOk s s.rot.active then bootBank s s.rot.active false
      else answerHeld (putBoot (setCode { s with rot := { s.rot with trial := false } } winTpm 2))
/-- R514: firmware unseals the identity key at boot; root 0 is the cipher engine's, or where there is none TPM's (R515). -/
def unsealKey (s : State) : State :=
  match if winThere s winCph then rootKey s 0 else some (beBytes Config.deviceKey.toNat 32) with
  | some root => { s with idKey := unsealId root (flashBytes s 0x20000 1052) }
  | none => s
/-- R511: the boot ROM tries the pending bank, then the active bank, and else enters RECOVERY. -/
def execBootRom (s : State) : Host.Outcome State Fault Refusal := ok (effBootRom s)

end Sys2Proof.Machine
end

