-- ==== Sys2Proof/Machine/Reset.lean ====
section
/-! DEFINITION. Resets (R539–R546): what each domain's reset does to state at the moment it is requested, and how a reset completes. -/

namespace Sys2Proof.Machine

/-! ### Windows of a reset block (R395, R588) -/

/-- A block's window reset: its registers (but those `keep` names) and shadow copies take their reset values, latches are emptied, GEN goes up
by 1 and the state code becomes `code`. -/
def resetWin (s : State) (w code : Nat) (keep : Nat → Bool) : State :=
  let g := blkGen s w
  let s := { s with regs := s.regs.filter (fun e => offWin e.1 != w || keep (offIn e.1)), shadow := s.shadow.filter (fun e => offWin e.1 != w),
                    rdLatch := s.rdLatch.filter (fun l => l.win != w), wrLatch := s.wrLatch.filter (fun l => l.win != w) }
  rputN s (wreg w hBLK_STATE) ((g + 1) % 65536 * 65536 + code)
def allWins : List Nat := (List.range 256).filter (fun w => (winBlk w).isSome)
/-- R153, R225, R543: statistics that a floe or COMPUTE reset leaves. -/
def keepStats (o : Nat) : Bool := (decide (0x90 ≤ o) && decide (o < 0xB8)) || (decide (0x100 ≤ o) && decide (o < 0x128)) || decide (0x4000 ≤ o)

/-! ### Queues and commands of reset floes (R541, R545) -/

def underFloe (f : Floe) (t : Nat) : Bool := floeUnder (floeOf t) f
/-- Queues that a reset of f returns to DISABLED: those of the floe and beneath it; of every floe for the module floe. -/
def queuesUnder (s : State) (f : Floe) : List Nat := (List.range queueCount).filter (fun q => underFloe f (qFloe s q))
/-- A part sent into a reset floe fails with FLOE_RESET. -/
def floeResetPart (s : State) (ref : JobRef) (p fl : Nat) : State :=
  let g := floeOf fl
  let w := if g.level = 0 then winEng (floeEngine g) else if g.level = 1 then winClu (floeCluster g) else winGlb
  markFaulted (reportErr s w eFLOE_RESET (objOf 1 fl) (some (jobCmd s ref)) []) ref p eFLOE_RESET
/-- R504, R545: families that run in units of FD, which a COMPUTE reset leaves: CIPHER and SITE_ROUND. -/
def onFabricDie (d : List Byte) : Bool := dFam d == 0xE || dFam d == 0xF
def floeResetParts (s : State) (f : Floe) : State :=
  s.jobs.foldl (fun s j => (List.range j.parts.length).foldl (fun s p =>
    match partLive s j.ref p with
    | some (_, x) => if underFloe f x.floe && !onFabricDie j.desc then floeResetPart s j.ref p x.floe else s
    | none => s) s) s
/-- R545: a CIPHER command cut off: the output of a decrypting context is overwritten, and the context of a STREAM is FREE. -/
def cutCipher (s : State) (j : Job) : State :=
  if dFam j.desc = 0xE ∧ dVar j.desc = 4 ∧ !ciInit j.args ∧ (partLive s j.ref 0).isSome then
    freeCx (wipeCtx s (getCx s (ciCtx j.args))) (ciCtx j.args)
  else s
/-- A SITE_ROUND cut off: a thaw's peer is RECONNECTED again, and a join's NEW (R436, R440). -/
def cutSite (s : State) (j : Job) : State :=
  if dFam j.desc ≠ 0xF ∨ (s.sxRuns.head?).elim true (fun r => r.job != j.ref || !r.begun) then s
  else
    let p := srPeer j.args
    if dVar j.desc = 2 then setPState (dropThaw s p) p psRECONNECTED
    else if dVar j.desc = 4 then { setPState s p psNEW with sxJoin := none, sxFrom := none, sxIn := s.sxIn.filter (fun x => x.kind != 2) }
    else s
/-- What the units hold of a command taken from them. A write to a host stays until it is acknowledged (R542). -/
def cutRuns (s : State) (j : Job) : State :=
  let s := (s.cores.filter (fun c => c.2.job == j.ref)).foldl (fun s c => freeCore s c.1) s
  { s with
    updRuns := s.updRuns.filter (fun r => r.job != j.ref)
    sxRuns := s.sxRuns.filter (fun r => r.job != j.ref)
    hosts := smMap hostDefault s.hosts (fun h => { h with reqs := (h.reqs.filter (fun r => r.job != j.ref || !r.rd)).map (fun r => if r.job = j.ref then { r with cut := true } else r) })
    engines := smMap engineDefault s.engines (fun e => { e with loads := e.loads.filter (fun l => l.job != j.ref), blks := e.blks.filter (fun b => b.job != j.ref), outBuf := e.outBuf.filter (fun w => w.job != j.ref) }) }
/-- R362, R367: an operation of a command cut off, that COL has taken up or not: its partners hear of it, and a vote's flags are pending again. -/
def cutCol (s : State) (j : Job) : State :=
  let s := match freshOp s j with
    | some i => let x := openOp (beginEarlier s j.ref) j.ref 0 j i; colEnd x.2 x.1 (myId s)
    | none => s
  (s.colOps.filter (fun o => o.job == j.ref)).foldl (fun s o => colEnd s o (myId s)) s
/-- A command of a reset queue stopped: no error is raised for it, its waits are withdrawn (R290), and its progress record stays. -/
def cutJob (s : State) (j : Job) : State :=
  let s := cutSite (cutCipher (cutCol s j) j) j
  cutRuns (dropJob (withdrawJob s j.ref) j.ref) j
/-- A queue reset, with what this module serves of its commands. -/
def resetQueue (s : State) (q : Nat) : State :=
  let s := withdraw s (fun w => match w with | .head q' _ _ => q' == q | _ => false)
  let s := (queueJobs s q ++ servedOf s q).foldl cutJob s
  putQ s q { getQ s q with enable := false, st := .disabled, headCmd := none, stopErr := 0, failedAt := none }
/-- A held command of another module whose floe is reset fails with FLOE_RESET, and its waits go without a record (R290, R541). -/
def failServed (s : State) (f : Floe) (j : Job) : State :=
  match j.ref with
  | .remote _ _ =>
    if j.st = .held ∧ underFloe f (dTarget j.desc) then
      putJob (reportErr s winGlb eFLOE_RESET (objOf 1 (dTarget j.desc)) (some (jobCmd s j.ref)) []) { j with st := .failed eFLOE_RESET }
    else s
  | .queue _ _ => s
/-- What a command that this module serves for another waits for is withdrawn when its floe is reset, and it fails. -/
def withdrawServed (s : State) (f : Floe) : State :=
  let s := withdraw s (fun w => match w with
    | .job src ctag _ => ((getJob s (.remote src ctag)).elim false (fun j => underFloe f (dTarget j.desc)))
    | .ticket r _ => ((getJob s r).elim false (fun j => underFloe f (dTarget j.desc)))
    | _ => false)
  s.jobs.foldl (fun s j => failServed s f j) s
/-- R338: an operation dispatched and not taken up by COL fails with COL_ABORT. -/
def abortFresh (s : State) (j : Job) : State :=
  match freshOp s j with
  | some i => failFresh s j.ref 0 j i eCOL_ABORT
  | none => s
/-- R545: every collective, vote and barrier in flight at the module fails with COL_ABORT, those not taken up by COL too. -/
def abortCols (s : State) : State :=
  let s := s.colOps.foldl (fun s o => colFail s o eCOL_ABORT (myId s) (myId s)) s
  s.jobs.foldl abortFresh s

/-! ### The floe and COMPUTE domains -/

def enginesIn (f : Floe) : List Nat := enginesUnder f
def coresIn (f : Floe) : List Nat := enginesUnder f ++ (if 1 ≤ f.level then (clustersUnder f).map (96 + ·) else [])
/-- An engine reset: idle, its registers at reset but FENCE and the statistics. -/
def resetEngine (s : State) (e : Nat) : State :=
  let fence := fenced s e
  let s := resetWin { s with engines := smDel s.engines e } (winEng e) 3 keepStats
  rputBit s (wreg (winEng e) oENG_CTRL) 0 fence
def resetCluster (s : State) (c : Nat) : State := resetWin s (winClu c) 1 keepStats
/-- R154, R304: the cores stop, and their heartbeats read 0. -/
def resetCore (s : State) (h : Nat) : State := rputN (putHart { s with cores := smDel s.cores h } h {}) (rMBX_HB + 4 * (h + 1)) 0
/-- R541: what a reset of floe f, and of every floe beneath it, does. -/
def resetFloes (s : State) (f : Floe) : State :=
  let s := (queuesUnder s f).foldl resetQueue s
  let s := floeResetParts (withdrawServed s f) f
  let s := refreshCph (cphPrune s)
  let s := breakCounters s f
  let s := (coresIn f).foldl resetCore s
  let s := (enginesIn f).foldl resetEngine s
  let s := if 1 ≤ f.level then (clustersUnder f).foldl resetCluster s else s
  refreshSxu (refreshUpd s)
def moduleFloe (s : State) : Floe := floeOf (modFloe s)
/-- R541, R543, R545: a COMPUTE reset. -/
def resetCompute (s : State) : State :=
  let s := resetFloes (abortCols s) (moduleFloe s)
  refreshUpd (resetWin { s with updRuns := [] } winUpd (blkCode s winUpd) (fun _ => true))

/-! ### The FABRIC, SXU and CPH domains -/

/-- R316, R338: a port taken down by a FABRIC reset, its registers at reset. -/
def resetPort (s : State) (p : Nat) : State :=
  let s := if lState s p = lsDOWN then s else portDown s p 8
  rputF (resetWin { s with links := smDel s.links p } (winTfp p) lsDOWN (fun _ => false)) (tfpReg p oTFP_STATUS) 15 8 8
def setInj (s : State) (l : List Pkt) : State := { s with inj := l }
/-- R338: what the router holds is lost. -/
def loseHeld (s : State) : State := { s with held := [], inj := [], ejq := [] }
/-- R338, R361: what TFR and COL hold is lost. -/
def dropFabric (s : State) : State := { s with held := [], ejq := [], poisoned := [], colOps := [], colHeld := [], gLive := [] }
/-- R338: every packet in the router is lost; collectives fail; the ports, TFR and COL reset. -/
def resetFabric (s : State) : State :=
  let s := abortCols (loseHeld s)
  let out := s.inj
  let s := dropFabric ((List.range 8).foldl resetPort (setInj s []))
  let s := resetWin (resetWin s winTfr 0 (fun _ => false)) winCol 0 (fun _ => false)
  refreshFabric (pump (releaseHold (setInj s out)))
/-- R443, R545: SXU stops; its statistics start again. -/
def resetSxu (s : State) : State :=
  let s := sxuClear s
  let conf (o : Nat) : Bool := (decide (0x80 ≤ o) && decide (o < 0xD0)) || decide (0x1000 ≤ o)
  refreshSxu (sxuFail (resetWin s winSxu (blkCode s winSxu) conf))
/-- R504: roots, slots and contexts erased, unfinished work failed; root 0 reloaded; LATCHED and CPH_CTRL stay. -/
def resetCph (s : State) : State :=
  let s := cphWipe s
  returnSxu (refreshCph (resetWin { s with root0Gone := false } winCph (blkCode s winCph) (fun o => decide (0x80 ≤ o))))

/-! ### MODULE and POR (R543) -/

/-- R571: the registers that survive every reset but POR. -/
def keepGlb (o : Nat) : Bool := (decide (0x90 ≤ o) && decide (o < 0x110))
def isStore (a : Nat) : Bool := inCstore a || inEstore a
/-- R544: the windows of Firn regions hold undefined content once their entries are disabled. -/
def dropFirn (s : State) : State := (List.range 16).foldl (fun s n => if frEnabled s n then makeUndef s (frBase s n) (frLen s n) else s) s
/-- What no reset changes: the order code, the model's clock and counts, HBM, flash, fuses, pins, and the commands waiting. -/
def keptState (s z : State) : State :=
  { z with order := s.order, clock := s.clock, siteTime := s.siteTime, free := s.free, pending := s.pending, nextWid := s.nextWid,
           mem := s.mem.filter (fun c => !isStore c.1), undef := s.undef.filter (fun u => !isStore u.lo), badWords := s.badWords.filter (fun p => p.cells || !isStore p.word), weak := s.weak.filter (fun w => !isStore w),
           updLog := s.updLog.map (fun l => { l with todo := [], left := 0 }), flash := s.flash, rot := { s.rot with trial := false }, fru := s.fru, pins := { s.pins with tap := none },
           fillDue := s.fillDue, outs := s.outs, time := {}, gov := { z.gov with grantAt := s.clock, coolAt := s.clock, tS := s.gov.tS, tHat := degOf s.gov.tS } }
/-- What a MODULE reset keeps: beside that, the registers of GLB that only POR resets. -/
def moduleKept (s : State) : State := { keptState s State.reset with regs := s.regs.filter (fun e => (offWin e.1 == winGlb && keepGlb (offIn e.1))) }
/-- R588: every window's GEN, one more than in s. -/
def bumpGens (s z : State) : State := allWins.foldl (fun z w => rputN z (wreg w hBLK_STATE) ((blkGen s w + 1) % 65536 * 65536)) z
/-- R362: the destination of an operation that COL has not taken up. -/
def spoilFresh (s : State) (j : Job) : State :=
  match freshOp s j with
  | some i => spoilDst s j.args (openOp s j.ref 0 j i).1
  | none => s
def resetModule (s : State) : State :=
  -- R484, R504: what the cipher engine has decrypted and not released is overwritten
  let s := s.ctxs.foldl (fun s e => wipeCtx s e.2) s
  -- R362, R545: the destinations of the collectives that fail
  let s := dropFirn (s.jobs.foldl spoilFresh (s.colOps.foldl (fun s o => spoilDst s (opArgs s o) o) s))
  let z := bumpGens s (moduleKept s)
  if winThere s winCph then rputN z rCPH_ALARM (rfld s rCPH_ALARM 3 0) else z
def porKept (s : State) : State := { keptState s State.reset with siteTime := 0, updLog := [], fillDue := true }
/-- R543, R548: everything but fuses, flash, the FRU memory and the pins; HBM is filled at start-up. -/
def resetPor (s : State) : State := porKept s

/-! ### Requests (R539–R541, R546) -/

/-- Whether a reset of `r` contains one of domain d (and floe fl). -/
def containsReset (r : ResetP) (d fl : Nat) : Bool :=
  r.dom == 6 && d != 6 || (r.dom == 4 && d != 6 && d != 4) || (r.dom == 0 && d == 5) || (r.dom == 5 && d == 5 && r.floe != fl && underFloe (floeOf r.floe) fl)
def sameReset (r : ResetP) (d fl : Nat) : Bool := r.dom == d && (d != 5 || r.floe == fl)
/-- R540, R571: GLB_RESET_STAT's domains in progress. -/
def refreshResets (s : State) : State :=
  rputF s rGLB_RESET_STAT 5 0 (((List.range 6).map (fun d => if s.resets.any (fun r => r.dom == d) then 2 ^ d else 0)).sum)
/-- R542: the writes of before a reset that are still unacknowledged. -/
def drainSlots (s : State) : List Nat := (s.slots.filter (fun x => x.pk.op == opWR || x.pk.op == opACC)).map (·.id)
/-- The writes to hosts that a part satisfying f made. -/
def drainHosts (s : State) (f : JobRef → Nat → Bool) : List Nat :=
  s.hosts.flatMap (fun h => (h.2.reqs.filter (fun r => !r.rd && f r.job r.k)).map (·.id))
/-- R296: FORCE_ACKED is 1 after every reset. -/
def forceAcked (s : State) : State := refreshFabric (shPut (rputBit s rSYN_MODE 0 true) rSYN_MODE (wput (shGet s rSYN_MODE) 0 0 1))
/-- Whether a part runs on a floe that is reset. -/
def partUnder (s : State) (f : Floe) (j : JobRef) (p : Nat) : Bool :=
  (getJob s j).elim false (fun y => (getPart y p).elim false (fun z => !z.away && underFloe f z.floe))
/-- Whether a unit of a floe issued a request: a part of a copy or of a MATMUL. -/
def issuedUnder (s : State) (f : Floe) (x : Slot) : Bool :=
  match x.why with
  | .write j p _ _ => partUnder s f j p
  | .stream j p _ => partUnder s f j p
  | _ => false
/-- R542: the writes that a reset waits for: those its units issued, to other modules and to hosts. -/
def drainOf (s : State) (d fl : Nat) : List Nat :=
  if d = 0 then drainSlots s ++ drainHosts s (fun _ _ => true)
  else if d = 1 then drainSlots s
  else if d = 5 then drainSlots { s with slots := s.slots.filter (issuedUnder s (floeOf fl)) } ++ drainHosts s (partUnder s (floeOf fl))
  else []
def applyReset (s : State) (d fl : Nat) : State :=
  if d = 0 then resetCompute s else if d = 1 then resetFabric s else if d = 2 then resetSxu s else if d = 3 then resetCph s
  else if d = 4 then resetModule s else if d = 5 then resetFloes s (floeOf fl) else resetPor s
/-- R540: a reset requested: nothing more where its domain, or one that contains it, is in progress; else its effects at once, the contained
ones in progress becoming part of it. -/
def startReset (s : State) (d fl cause : Nat) (pin : Bool) : State :=
  if s.resets.any (fun r => containsReset r d fl || sameReset r d fl) then
    { s with resets := s.resets.map (fun r => if sameReset r d fl then { r with pinHeld := r.pinHeld || pin } else r) }
  else
    let r : ResetP := { dom := d, floe := fl, cause := cause, since := s.clock, pinHeld := pin, drain := drainOf s d fl }
    let old := s.resets.filter (fun x => !containsReset r x.dom x.floe)
    let s := forceAcked (applyReset s d fl)
    refreshResets { s with resets := (if d = 4 ∨ d = 6 then [] else old) ++ [r] }
def execComputeReset (s : State) : Host.Outcome State Fault Refusal := ok (startReset s 0 0 2 false)
def execFabricReset (s : State) : Host.Outcome State Fault Refusal := ok (startReset s 1 0 2 false)
/-- R443. -/
def execSxuReset (s : State) : Host.Outcome State Fault Refusal := ok (if winThere s winSxu then startReset s 2 0 2 false else s)
/-- R504. -/
def execCphReset (s : State) : Host.Outcome State Fault Refusal := ok (if winThere s winCph then startReset s 3 0 2 false else s)
def execModuleReset (s : State) : Host.Outcome State Fault Refusal := ok (startReset s 4 0 2 false)
/-- R546: a floe of levels 0 to 2 on this module, by its address with LOCAL 0. -/
def floeResetTarget (s : State) (v : Word) : Option Nat :=
  let f := floeOf v.toNat
  if f.level ≤ 2 ∧ floeValid s v.toNat ∧ floeHere s v.toNat then some (localFloe s v.toNat) else none
def effFloeReset (s : State) (v : Word) : State :=
  match floeResetTarget s v with
  | some fl => startReset s 5 fl 2 false
  | none => s
def execGlbFloeReset (v : Word) (s : State) : Host.Outcome State Fault Refusal := ok (effFloeReset s v)
/-- R593, R598: power lost, or PWRGD low: POR holds until PWRGD is high. -/
def effPor (s : State) : State := startReset { s with pins := { s.pins with pwrgd := false } } 6 0 0 true
def execPor (s : State) : Host.Outcome State Fault Refusal := ok (effPor s)
/-- R604: PWRGD rises (with the input present and MOD_PG released): 1 ms runs from here. -/
def effPwrgd (s : State) (high : Bool) : State :=
  if high then
    { s with pins := { s.pins with pwrgd := true },
             resets := s.resets.map (fun r => if r.dom = 6 ∧ r.pinHeld then { r with pinHeld := false, since := s.clock } else r) }
  else effPor s
def execPwrgd (high : Bool) (s : State) : Host.Outcome State Fault Refusal := ok (effPwrgd s high)
/-- R598: RESET_N low starts a MODULE reset and holds it; RESET_N high releases it. -/
def effResetN (s : State) (low : Bool) : State :=
  let s := { s with pins := { s.pins with resetLow := low } }
  if low then startReset s 4 0 1 true
  else { s with resets := s.resets.map (fun r => if r.dom = 4 then { r with pinHeld := false } else r) }
def execResetN (low : Bool) (s : State) : Host.Outcome State Fault Refusal := ok (effResetN s low)

/-! ### Completion (R540, R542) -/

/-- R539, R604: the time to complete, ns. -/
def resetTime (d : Nat) : Nat :=
  if d = 0 then us 200 else if d = 1 then us 1000 else if d = 2 then us 50 else if d = 3 then us 20 else if d = 4 then us 2000 else if d = 5 then us 10 else us 1000
def resetDone (s : State) (r : ResetP) : Bool :=
  !r.pinHeld && decide (r.since + resetTime r.dom ≤ s.clock) && r.drain.all (fun d => s.slots.all (fun x => x.id != d) && s.hosts.all (fun h => h.2.reqs.all (fun x => x.id != d)))
/-- R550: counter 65,535 assigned to the module floe with value 0. -/
def assignCheck (s : State) : State := putC s 65535 { st := .live, val := 0, owner := w32 (modFloe s) }
/-- R581: units held in reset come back. -/
def unitsBack (s : State) : State :=
  let held (f : Floe) : Bool := s.resets.any (fun r => r.dom == 0 || (r.dom == 5 && floeUnder f (floeOf r.floe)))
  let s := (List.range 96).foldl (fun s e =>
    if blkCode s (winEng e) = 3 ∧ !held (floeOf (engFloe s e)) then setCode s (winEng e) (b2n (fenced s e)) else s) s
  (List.range 12).foldl (fun s c => if blkCode s (winClu c) = 1 ∧ !held (floeOf (cluFloe s c)) then setCode s (winClu c) 0 else s) s
def domBits (d : Nat) : Nat := if d < 5 then 2 ^ d else if d = 6 then 32 else 0
/-- R485: whether a condition seen before still holds as a reset ends is not the module's to say: a free value (log entry 75). -/
def stillHolds (s : State) (seen : Bool) (cause : Nat) (clear : Pins → Pins) : State :=
  if !seen then s
  else
    let t := (takeFree s).2
    if wbit (Config.freeWord s.free) 0 then (if cause = 8 ∧ !rbit t rCPH_ALARM_CFG 0 then t else alarm t cause) else { t with pins := clear t.pins }
/-- R485: the four conditions as a MODULE or power-on reset ends. -/
def relatch (s : State) : State :=
  let s := stillHolds s s.pins.railBad 1 (fun p => { p with railBad := false })
  let s := stillHolds s s.pins.clockBad 2 (fun p => { p with clockBad := false })
  let s := stillHolds s s.pins.lidOpen 8 (fun p => { p with lidOpen := false })
  if critTemp s ≤ s.gov.tS then alarm s 4 else s
def finishReset (s : State) (r : ResetP) : State :=
  let s := { s with resets := s.resets.filter (· != r) }
  let s := refreshResets (rputF (rputF s rGLB_RESET_STAT 31 24 (domBits r.dom)) rGLB_RESET_STAT 23 16 r.cause)
  let s := if r.dom = 0 ∨ r.dom = 5 then unitsBack s else s
  -- R485, R601: an alarm condition that still holds latches the engine again
  let s := if r.dom = 4 ∨ r.dom = 6 then relatch s else s
  let s := if 3 ≤ glbStage s ∧ (getC s 65535).st ≠ .live then assignCheck s else s
  postRecord s (eventRecord s winGlb 0x8004 (domBits r.dom) r.cause)
def effResetComplete (s : State) (d : Nat) : State :=
  match s.resets.find? (fun r => r.dom == d && resetDone s r) with
  | some r => finishReset s r
  | none => s
/-- R540: a reset of domain `kind` whose time and write drain have passed completes. -/
def execResetComplete (kind : Nat) (s : State) : Host.Outcome State Fault Refusal := ok (effResetComplete s kind)

end Sys2Proof.Machine
end

