-- ==== Sys2Proof/Machine/Start.lean ====
section
/-! DEFINITION. Start-up (R547–R550): the stages after BOOT, the zero fill of memory, and the neighbour check. -/

namespace Sys2Proof.Machine

/-- R547, R556: a stage entered, with its STAGE event. -/
def enterStage (s : State) (n e1 : Nat) : State :=
  let s := setCode s winGlb n
  postRecord s (eventRecord s winGlb 0x8005 n e1)
/-- R548: interfaces trained; after a POR every stack written with zeros, which cures what was wrong only in content; stores zeroed. -/
def trainMemory (s : State) : State :=
  let s := (memWins s.order).foldl (fun s w => setCode s w 1) s
  if s.fillDue then { s with mem := [], undef := [], badWords := s.badWords.filter (·.cells), weak := [], stored := [], fillDue := false }
  else { s with mem := s.mem.filter (fun c => !isStore c.1), undef := s.undef.filter (fun u => !isStore u.lo), badWords := s.badWords.filter (fun p => p.cells || !isStore p.word), weak := s.weak.filter (fun w => !isStore w) }
def portIds : List Nat := List.range 8
def enabledPorts (s : State) : List Nat := portIds.filter (portEnabled s)
/-- R549: every port whose axis has a ring of 2 or more has been enabled. -/
def portsStarted (s : State) : Bool := portIds.all (fun p => !portAxisLive s p || portEnabled s p)
/-- R549: the check's threshold has been reached. -/
def checkMet (s : State) : Bool := waitMet (getC s 65535).val (w64 (enabledPorts s).length)
/-- R506, R514, R547: in stage BOOT firmware unseals the identity key and releases hart 109 (log entry 76). -/
def firmwareUp (s : State) : State := let t := unsealKey s; putHart t 109 { getHart t 109 with held := false }
/-- The registers of TFR that the configuration record gives: TFR_ID, TFR_DIM, TFR_TCTL's orders, the axis tables and the exceptions of both sets. -/
def tfrOffsets : List Nat :=
  [rTFR_ID, rTFR_DIM, rTFR_TCTL] ++ (List.range 128).map (fun k => wreg winTfr (0x1000 + 4 * k)) ++ (List.range 1024).map (fun k => wreg winTfr (0x2000 + 4 * k))
/-- The bits of a register of TFR that the configuration record gives: of TFR_TCTL the two ORDER fields. -/
def recordMask (off : Nat) : Nat :=
  if off = rTFR_TCTL then 0xFFFF00
  else ((fieldsAt off).filter (fun f => f.acc == .rws || f.acc == .rw)).foldl (fun a f => nput a f.hi f.lo (2 ^ (f.hi + 1 - f.lo) - 1)) 0
/-- R549, step 1: a register of TFR written from the configuration record and committed, its other fields as they were. -/
def loadTfr (record : List Byte) (s : State) (off : Nat) : State :=
  let m := w32 (recordMask off)
  let v := (rget s off &&& ~~~m) ||| (Config.tfrWord record off &&& m)
  rput (shPut s off v) off v
/-- R549, steps 1 and 2: the tables and their orders, the neighbour check's counter, and the ports. -/
def fabricUp (s : State) : State :=
  let r := flashBytes s 0x40000 0x40000
  let s := assignCheck (bumpGen (tfrOffsets.foldl (loadTfr r) s) winTfr)
  (portIds.filter (portAxisLive s)).foldl (fun s p => rputBit s (tfpReg p oTFP_CTRL) 0 true) { s with checkSigs := [], fabricAt := s.clock }
/-- R549: the ports enabled whose neighbour's signal has not come; of two ports to one neighbour, the second signal is the second's. -/
def checkMissing (s : State) : List Nat :=
  (enabledPorts s).filter (fun p =>
    let before := ((enabledPorts s).filter (fun q => decide (q < p) && neighbour s q == neighbour s p)).length
    decide ((s.checkSigs.filter (· == neighbour s p)).length ≤ before))
/-- The stage before has ended: the next is entered. -/
def effStage (s : State) : State :=
  if inModReset s ∨ s.pins.resetLow then s
  else
    let n := glbStage s
    if n = 0 then
      (if tpmCode s = 1 then answerHeld (enterStage (measExt (firmwareUp s) 3 (sha512 (natsOf (flashBytes s 0x40000 0x40000)))) 1 0) else s)
    else if n = 1 then enterStage (trainMemory s) 2 0
    else if n = 2 then fabricUp (enterStage (measExt s 4 (sha512 (imgRuntime s s.rot.booted))) 3 0)
    else if n = 3 ∧ portsStarted s ∧ checkMet s then enterStage s 4 0
    else s
/-- R547, R549: a start-up stage ends and the next is entered. -/
def execStartUpStage (s : State) : Host.Outcome State Fault Refusal := ok (effStage s)
/-- R549: the wait of 2 s has expired: READY, with the ports whose check did not complete. -/
def effCheckTimeout (s : State) : State :=
  if glbStage s = 3 ∧ !inModReset s ∧ s.fabricAt + us 2000000 ≤ s.clock then
    enterStage s 4 (((checkMissing s).map (2 ^ ·)).sum)
  else s
def execNeighbourCheckTimeout (s : State) : Host.Outcome State Fault Refusal := ok (effCheckTimeout s)

end Sys2Proof.Machine
end

