-- ==== Sys2Proof/Machine/Access.lean ====
section
/-! DEFINITION. The register space (R572–R590): which accesses a reset holds, what a register reads as, reads and writes by an agent, the latches of 64-bit pairs, and the shadow with its commit. -/

namespace Sys2Proof.Machine

/-! ### Windows that answer (R4, R573, R577) -/

/-- R577: a window whose block is being reset (an absent window has no block, R4). -/
def winHeld (s : State) (w : Nat) : Bool :=
  winPresent s.order w && s.resets.any (fun r =>
    r.dom == 4 || r.dom == 6 ||
    match winBlk w with
    | some (.eng, e) => r.dom == 0 || (r.dom == 5 && (enginesUnder (floeOf r.floe)).contains e)
    | some (.clu, c) => r.dom == 0 || (r.dom == 5 && decide (1 ≤ (floeOf r.floe).level) && (clustersUnder (floeOf r.floe)).contains c)
    | some (.upd, _) => r.dom == 0
    | some (.tfp, _) => r.dom == 1
    | some (.tfr, _) => r.dom == 1
    | some (.col, _) => r.dom == 1
    | some (.sxu, _) => r.dom == 2
    | some (.cph, _) => r.dom == 3
    | _ => false)
/-- A window that is there and takes accesses now. -/
def winOpen (s : State) (w : Nat) : Bool := winPresent s.order w && !winHeld s w

/-! ### What a register reads as -/

/-- R180: the head command is in a wait or before its time here. -/
def headHolds (s : State) (x : Queue) : Bool :=
  x.headCmd.elim false (fun h => waitsHere s h.desc && !(waitsMet h.w0 h.w1 && timePassed s h.desc))
/-- R179–R181: the registers of a queue. DESIGN CHOICE (log entry 22): STATE reads 4 also while dispatched commands still run after Q_OVERRUN or a
pre-emption, where no command has failed. -/
def queueView (s : State) (q r : Nat) : Nat :=
  let x := getQ s q
  let st := match x.st with
    | .disabled => 0
    | .active => if headHolds s x then 3 else if queueIdle s q then 1 else 2
    | .draining => 4
    | .stopped => 5
  if r = 0 then x.base.toNat % 2 ^ 32 / 64 * 64 else if r = 4 then x.base.toNat / 2 ^ 32
  else if r = 8 then b2n x.enable * 2 ^ 31 + x.log2 * 65536 + x.compCtr
  else if r = 0xC then x.tail.toNat else if r = 0x10 then x.head.toNat else if r = 0x14 then x.done.toNat
  else if r = 0x18 then x.err * 65536 + st
  else if r = 0x20 then x.prog.toNat % 2 ^ 32 else if r = 0x24 then x.prog.toNat / 2 ^ 32 else 0
/-- R580. -/
def blkCap1 (s : State) (b : Blk) : Nat :=
  let two (h l : Nat) : Nat := h * 65536 + l
  match b with
  | .glb => two (orderNum s.order) (liveUnder s (floeOf (modFloe s))).length
  | .tpm => two 16 64 | .tpw => two 8 10 | .cph => two 256 64 | .sxu => two 16 4 | .upd => two 2 16 | .syn => two 8192 64
  | .mbx => two 64 0 | .tfp => two 16 224 | .tfr => two 256 4096 | .col => two 16 64 | .mem => two 48 32 | .clu => two 8 16
  | .eng => two 128 128 | .eth => two 800 4096
/-- R41: a word of a capability record. -/
def capWord (s : State) (b : Blk) (i o : Nat) : Option Nat :=
  let at_ (base f : Nat) : Option Nat := if base ≤ o ∧ o < base + 32 then (capRecord s (floeOf f))[(o - base) / 4]? else none
  match b with
  | .glb => (at_ 0x1000 (modFloe s)).orElse (fun _ => (at_ 0x1020 (dieFloe s 0)).orElse (fun _ => at_ 0x1040 (dieFloe s 1)))
  | .clu => at_ 0x1000 (cluFloe s i)
  | .eng => at_ 0x1000 (engFloe s i)
  | _ => none
/-- R196, R226: the DMA queues of a floe, 1 of an engine and 4 of a cluster, that have a part in progress. -/
def dmaActive (s : State) (floe queues : Nat) : Nat :=
  min queues ((s.jobs.filter (fun j => dFam j.desc == 3 || dFam j.desc == 4)).flatMap (fun j => j.parts.filter (fun x => x.floe == floe && x.st == .busy))).length
/-- The stack temperature of a controller: 0 as at reset until the interface is trained, then what the sensor reads, which the spec does not
state (a free value). -/
def memTemp (s : State) (i : Nat) : Nat := if blkCode s (winMem i) = 0 then 0 else (Config.freeByte s.free 0).toNat
/-- R398: the register at an offset of controller i's arbitration page that counts. Which accesses meet at a channel is timing (log entry 12): where
the controller has granted since they were last read, the promotions that such meetings made, and the longest wait, are free values. -/
def arbShown (s : State) (i o : Nat) : Option Nat :=
  let sat (n : Nat) : Nat := min n (2 ^ 32 - 1)
  let free (seen : ChanArb → Bool) : Nat := if (ctlChans i).any (fun ch => seen (getChan s ch)) then (Config.freeWord s.free).toNat else 0
  if o = oMEM_ARB_PROMO then some (sat (promosOf s i + free (·.promoOpen)))
  else if o = oMEM_ARB_MAXWAIT then some (free (·.waitOpen))
  else if oMEM_ARB_GRANT ≤ o ∧ o < oMEM_ARB_GRANT + 28 then some (sat (grantsOf s i ((o - oMEM_ARB_GRANT) / 4)))
  else none
/-- Registers that show other state. -/
def shown (s : State) (b : Blk) (i o : Nat) : Option Nat :=
  let w := if b = .tfp then tfpReg i else if b = .mem then wreg (winMem i) else wreg 0
  match b with
  | .eng => if o = oENG_STATE then some (actCode (getE s i).act + 16 * inflight (getE s i)) else if o = oDMA_ACTIVE then some (dmaActive s (engFloe s i) 1) else none
  | .clu => if o = oDMA_ACTIVE then some (dmaActive s (cluFloe s i) 4) else none
  | .mem =>
    if o = oMEM_STATUS then
      some (memTemp s i * 256 + b2n (blkCode s (winMem i) == 2) * 2 + b2n (blkCode s (winMem i) != 0))
    else arbShown s i o
  | .syn =>
    let c := rn s rCTR_SEL % 65536
    let x := getC s c
    if o = offIn rSYN_MODE then some (b2n (effAcked s) * 4 + b2n (fallback s) * 2 + rn s rSYN_MODE % 2)
    else if o = offIn rSYN_WAITS then some s.waits.length
    else if o = offIn rCTR_VAL_LO then some (x.val.toNat % 2 ^ 32) else if o = offIn rCTR_VAL_HI then some (x.val.toNat / 2 ^ 32)
    else if o = offIn rCTR_OWNER then some (if x.st = .free then 0 else x.owner.toNat)
    else if o = offIn rCTR_STATE then
      some ((s.waits.filter (fun r => r.ctr == c)).length * 65536 + (match x.st with | .free => 0 | .live => 1 | .broken => 2))
    else none
  | .tfp => if o = oTFP_STATUS then some (nput (rn s (w o)) 4 4 (b2n (fallback s))) else none
  | .tfr =>
    if o = offIn rTFR_HELD then some (heldClass s 3 * 2 ^ 24 + heldClass s 2 * 65536 + heldClass s 1 * 256 + heldClass s 0)
    else if o = offIn rTFR_EPOCH_CNT then some (epochCount s 1 * 65536 + epochCount s 0)
    else if o = offIn rTFR_OUTSTANDING then some (slotCount s) else none
  | .tpw =>
    if o = offIn rTIME_LO then some (siteNow s % 2 ^ 32) else if o = offIn rTIME_HI then some (siteNow s / 2 ^ 32)
    else if o = offIn rTIME_STATE then some (b2n (timeValid s) * 2 ^ 31 + s.time.code)
    else if o = offIn rTIME_BOUND then some (timeBound s) else none
  | .tpm =>
    if o = offIn rMG_MAC_LO then some (Config.mgmtMac.toNat % 2 ^ 32) else if o = offIn rMG_MAC_HI then some (Config.mgmtMac.toNat / 2 ^ 32 % 65536) else none
  | .cph => if o = offIn rCPH_ROOT_STAT then some (rootStat s) else none
  | _ => none
/-- A register's readable bits as they stand: reserved and WO bits read 0 (R12, R13). -/
def readable (fs : List Fld) (v : Nat) : Nat := fs.foldl (fun a f => if f.acc = .wo then a else nput a f.hi f.lo (nbits v f.hi f.lo)) 0
/-- What a read of an offset returns. An absent window and a reserved offset read 0 (R4, R12, R573). -/
def viewReg (s : State) (off : Nat) : Nat :=
  let o := offIn off
  match winBlk (offWin off) with
  | none => 0
  | some (b, i) =>
    if !winPresent s.order (offWin off) then 0
    else if o = hBLK_ID then blkType b * 65536 + i
    else if o = hBLK_CAP0 then blkPages b * 256 + b2n (blkOptional b) * 4 + b2n (blkShadow b) * 2 + 1
    else if o = hBLK_CAP1 then blkCap1 s b
    else
      match queueAtOff off with
      | some (q, r) => queueView s q r
      | none => ((capWord s b i o).orElse (fun _ => shown s b i o)).getD (readable (fieldsAt off) (rn s off))

/-! ### Pairs (R11, R585) -/

/-- The _LO offsets of a block's pairs: offset, stride, count. -/
def pairRows (b : Blk) : List (Nat × Nat × Nat) :=
  match b with
  | .glb => [(0x90, 0, 1), (0xB0, 0, 1), (0xC0, 0, 1), (0xC8, 0, 1), (0xE0, 0, 1), (0x100, 0, 1)]
  | .tpm => [(0xF0, 0, 1), (0x2014, 32, 16), (0x3008, 64, 64), (0x3010, 64, 64)]
  | .tpw => [(0xD8, 0, 1), (0x1000, 0, 1), (0x3000, 32, 8), (0x3008, 32, 8)]
  | .cph => [(0xA0, 0, 1), (0xA8, 0, 1), (0x2008, 16, 64)]
  | .sxu => [(0x88, 0, 1), (0xB8, 0, 1), (0xC8, 0, 1), (0xE0, 0, 1), (0xE8, 0, 1), (0x2008, 16, 4)]
  | .upd => [(0x88, 0, 1), (0x98, 0, 1), (0xA0, 0, 1), (0xB0, 0, 1), (0xE0, 0, 1)]
  | .syn => [(0x98, 0, 1), (0xA0, 0, 1), (0x1008, 0, 1)]
  | .mbx => [(0x1000, 32, 64)]
  | .tfp => [(0xA0, 0, 1), (0xA8, 0, 1)]
  | .tfr => [(0xC0, 0, 1), (0xC8, 0, 1), (0x2000, 8, 512)]
  | .col => [(0x98, 0, 1), (0xA0, 0, 1), (0xA8, 0, 1), (0x2008, 16, 16)]
  | .mem => [(0xA0, 0, 1), (0xB8, 0, 1), (0xC0, 0, 1), (0xC8, 0, 1), (0x2000, 32, 16), (0x2008, 32, 16), (0x2010, 32, 16)]
  | .clu => [(0x4010, 0, 1), (0x4018, 0, 1)]
  | .eng => [(0xA0, 0, 1), (0xA8, 0, 1), (0xB0, 0, 1), (0x118, 0, 1), (0x120, 0, 1), (0x4010, 0, 1), (0x4018, 0, 1)]
  | .eth => [(0x88, 0, 1), (0x1010, 0, 1), (0x2010, 0, 1), (0x3000, 16, 3)]
/-- The register-space offset of the _LO register of the pair that an offset belongs to. -/
def pairOf (off : Nat) : Option Nat :=
  match queueAtOff off with
  | some (_, r) => if r = 0 ∨ r = 0x20 then some off else if r = 4 ∨ r = 0x24 then some (off - 4) else none
  | none =>
    match winBlk (offWin off) with
    | none => none
    | some (b, _) =>
      let isLo (o : Nat) : Bool := (pairRows b).any (fun p => decide (p.1 ≤ o) && (if p.2.1 = 0 then o == p.1 else (o - p.1) % p.2.1 == 0 && decide ((o - p.1) / p.2.1 < p.2.2)))
      if isLo (offIn off) then some off else if 4 ≤ offIn off ∧ isLo (offIn off - 4) then some (off - 4) else none
/-- R585: an access to a pair empties the agent's latches of every other pair of the window. -/
def otherLatches (s : State) (owner lo : Nat) : State :=
  let keep (l : Latch) : Bool := !(l.owner == owner && l.win == offWin lo) || l.off == offIn lo
  { s with rdLatch := s.rdLatch.filter keep, wrLatch := s.wrLatch.filter keep }

/-! ### A read by an agent (R13, R301, R303, R576) -/

def isMbxPage (off : Nat) : Bool := offWin off == winMbx && decide (0x1000 ≤ offIn off ∧ offIn off < 0x1800)
/-- R398: a count of controller i read and cleared. -/
def clearArb (s : State) (i o : Nat) : State :=
  if o = oMEM_ARB_PROMO then mapChans (takeFree s).2 i clearPromos
  else if o = oMEM_ARB_MAXWAIT then mapChans (takeFree s).2 i clearWait
  else if oMEM_ARB_GRANT ≤ o ∧ o < oMEM_ARB_GRANT + 28 then mapChans s i (clearGrants ((o - oMEM_ARB_GRANT) / 4))
  else s
/-- R13: the RC fields of a register that was read are cleared. -/
def clearRc (s : State) (off : Nat) : State :=
  let s := match winBlk (offWin off) with
    | some (.mem, i) => clearArb s i (offIn off)
    | _ => s
  let fs := (fieldsAt off).filter (fun f => f.acc = .rc)
  if fs = [] then s else rputN s off (fs.foldl (fun a f => nput a f.hi f.lo 0) (rn s off))
def effRead (s : State) (owner off : Nat) : State :=
  if winHeld s (offWin off) || hartHeld s owner then s
  else if !winPresent s.order (offWin off) then { s with resp := [0] }
  else if isMbxPage off ∧ offIn off % 32 = 16 then effLockAcquire s owner ((offIn off - 0x1000) / 32)
  else
    match pairOf off with
    | none => clearRc { s with resp := [w32 (viewReg s off)] } off
    | some lo =>
      let s := otherLatches s owner lo
      if off = lo then
        (if isMbxPage off then effMbxReceive s owner ((offIn off - 0x1000) / 32)
         else { s with resp := [w32 (viewReg s lo)], rdLatch := latchSet s.rdLatch owner (offWin lo) (offIn lo) (w32 (viewReg s (lo + 4))) })
      else
        { s with resp := [(latchOf s.rdLatch owner (offWin lo) (offIn lo)).getD (w32 (viewReg s off))], rdLatch := latchDrop s.rdLatch owner (offWin lo) }
/-- R13: an agent reads a register; one with an RC field is cleared by the read. -/
def execReadClear (owner off : Nat) (s : State) : Host.Outcome State Fault Refusal := ok (effRead s owner off)

/-! ### The shadow (R13, R586, R393) -/

def rwsFields (off : Nat) : List Fld := (fieldsAt off).filter (fun f => f.acc = .rws)
/-- `base` with the RWS fields of `src`. -/
def rwsMerge (off : Nat) (base src : Word) : Word := (rwsFields off).foldl (fun a f => wput a f.hi f.lo (wbits src f.hi f.lo)) base
def RegDef.offs (d : RegDef) : List Nat := (List.range d.cnt).map (fun k => d.off + d.stride * k)
/-- The offsets of a window whose registers have RWS fields. -/
def rwsOffs (w : Nat) : List Nat :=
  match winBlk w with
  | none => []
  | some (b, _) => (((blkRegs b).filter (fun d => d.flds.any (fun f => f.acc = .rws))).flatMap RegDef.offs).map (wreg w)
/-- Every shadow copy takes the values in force. -/
def reloadShadow (s : State) (w : Nat) : State := (rwsOffs w).foldl (fun s o => shPut s o (rwsMerge o (shGet s o) (rget s o))) s
/-- Every shadowed field takes effect. -/
def applyShadow (s : State) (w : Nat) : State := (rwsOffs w).foldl (fun s o => rput s o (rwsMerge o (rget s o) (shGet s o))) s
def commitStat (w : Nat) : Nat := wreg w hBLK_COMMIT_STAT
/-- R586: the outcome of a commit; IGNORED and CTRL_STALE stay as they are. -/
def putOutcome (s : State) (w status cause off : Nat) : State :=
  rputF (rputF (rputF s (commitStat w) 31 18 (off / 4)) (commitStat w) 15 8 cause) (commitStat w) 3 0 status
def hasShadow (w : Nat) : Bool := match winBlk w with | some (b, _) => blkShadow b | none => false
/-- R586, R393, R396: a BLK_COMMIT write; one that is refused reloads the shadow. A block with no shadow has nothing to commit. -/
def effBlkCommit (s : State) (w gen : Nat) (commit discard : Bool) : State :=
  if !winOpen s w then s
  else if commitPending s w then rputBit s (commitStat w) 4 true
  else if gen ≠ blkGen s w then putOutcome (reloadShadow s w) w 4 0 0
  else if !hasShadow w then s
  else if discard then rputN (reloadShadow s w) (commitStat w) 0
  else if commit then rputN s (commitStat w) 1
  else s
/-- R586. -/
def execBlkCommitCommit (win gen : Nat) (s : State) : Host.Outcome State Fault Refusal := ok (effBlkCommit s win gen true false)
/-- R586. -/
def execBlkCommitDiscard (win gen : Nat) (s : State) : Host.Outcome State Fault Refusal := ok (effBlkCommit s win gen false true)
/-- The offsets of a window's RC statistics: every RC register but ERR_COUNT and a mailbox's data. -/
def rcOffs (w : Nat) : List Nat :=
  match winBlk w with
  | none => []
  | some (b, _) =>
    if b = .mbx then [rMBX_LOCK_REJ]
    else (((blkRegs b).filter (fun d => d.flds.any (fun f => f.acc = .rc))).flatMap RegDef.offs).map (wreg w)
/-- R580, R586: a BLK_CTRL write. -/
def effBlkCtrl (s : State) (w gen : Nat) (statClr test : Bool) : State :=
  if !winOpen s w then s
  else if gen ≠ blkGen s w then rputBit s (commitStat w) 5 true
  else
    let s := rputBit s (commitStat w) 5 false
    let s := if statClr then (rcOffs w).foldl clearRc s else s
    if test then evtSet s w 3 (ownEvt s w) else s
/-- R580. -/
def execStatClr (win gen : Nat) (s : State) : Host.Outcome State Fault Refusal := ok (effBlkCtrl s win gen true false)
/-- R580. -/
def execEvtTest (win gen : Nat) (s : State) : Host.Outcome State Fault Refusal := ok (effBlkCtrl s win gen false true)

/-! ### Refusals of a commit (R587) -/

def cRANGE : Nat := 1
def cALIGN : Nat := 2
def cCONFLICT : Nat := 3
def cBUSY : Nat := 4
def cCAPACITY : Nat := 5
/-- A cause at a window offset, where a condition holds. -/
def refuseIf (b : Bool) (off cause : Nat) : List (Nat × Nat) := if b then [(off, cause)] else []
/-- R115. -/
def engRefusals (t : State) (w : Nat) : List (Nat × Nat) :=
  let len := rfld t (wreg w oENG_RAMP) 6 0
  refuseIf (len != 0 && (decide (len < 16 ∨ 64 < len) || len % 8 != 0)) oENG_RAMP cRANGE
/-- R208: the size of a region's metadata area. -/
def frMetaSize (t : State) (n : Nat) : Nat := frLen t n * 17 / 2048
def overlap (a n b m : Nat) : Bool := decide (0 < n ∧ 0 < m ∧ a < b + m ∧ b < a + n)
/-- R210: the offset of a field of region n. -/
def frOffs (n o : Nat) : Nat := o + 32 * n
def frRefusals (t : State) : List (Nat × Nat) :=
  let on := (List.range 16).filter (frEnabled t)
  on.flatMap (fun n =>
    refuseIf (frBase t n % 2 ^ 18 != 0) (frOffs n oFR_BASE_LO) cALIGN ++ refuseIf (frLen t n % 2 ^ 18 != 0) (frOffs n oFR_LEN_LO) cALIGN ++
    refuseIf (frMeta t n % 2 ^ 11 != 0) (frOffs n oFR_META_LO) cALIGN ++ refuseIf (decide (5 < frElem t n)) (frOffs n oFR_CFG) cRANGE ++
    refuseIf (decide (frLen t n ≠ 0 ∧ hbmSize t.order < frBase t n + frLen t n)) (frOffs n oFR_BASE_LO) cCAPACITY ++
    refuseIf (decide (frLen t n ≠ 0 ∧ hbmSize t.order < frMeta t n + frMetaSize t n)) (frOffs n oFR_META_LO) cCAPACITY ++
    refuseIf (overlap (frBase t n) (frLen t n) (frMeta t n) (frMetaSize t n)) (frOffs n oFR_BASE_LO) cCONFLICT ++
    (on.filter (fun m => decide (n < m))).flatMap (fun m =>
      refuseIf (overlap (frBase t n) (frLen t n) (frBase t m) (frLen t m) || overlap (frBase t n) (frLen t n) (frMeta t m) (frMetaSize t m))
        (frOffs n oFR_BASE_LO) cCONFLICT ++
      refuseIf (overlap (frMeta t n) (frMetaSize t n) (frBase t m) (frLen t m) || overlap (frMeta t n) (frMetaSize t n) (frMeta t m) (frMetaSize t m))
        (frOffs n oFR_META_LO) cCONFLICT))
/-- R408. -/
def sxuRefusals (t : State) : List (Nat × Nat) :=
  refuseIf (decide (rn t rSXU_PERIOD < 10 ∨ 3600 < rn t rSXU_PERIOD)) (offIn rSXU_PERIOD) cRANGE ++
  refuseIf (decide (rn t rSXU_PERIOD * 1000 ≤ rn t rSXU_SLACK)) (offIn rSXU_SLACK) cRANGE
/-- R336, R341, R333: `s` as it stands, `t` with the shadow applied. -/
def tfrRefusals (s t : State) : List (Nat × Nat) :=
  let idNew := rget t rTFR_ID != rget s rTFR_ID
  let dimNew := rget t rTFR_DIM != rget s rTFR_DIM
  let still := rfld s rTFR_QUIESCE 3 0 == 15 && (heldPkts s).isEmpty && slotCount s == 0
  let o := offIn rTFR_TCTL
  refuseIf (!inTorus t (myId t)) (offIn rTFR_ID) cRANGE ++
  refuseIf (idNew && !still) (offIn rTFR_ID) cBUSY ++ refuseIf (dimNew && !still) (offIn rTFR_DIM) cBUSY ++
  refuseIf (!isPerm (orderOf t 0) || !isPerm (orderOf t 1)) o cRANGE ++
  refuseIf ((rbit t rTFR_TCTL 4 || rbit t rTFR_TCTL 5) && orderOf t 0 != orderOf t 1) o cCONFLICT ++
  refuseIf ([0, 1].any (fun e => orderOf t e != orderOf s e && !setWritable s e)) o cBUSY
/-- R345. -/
def colRefusals (t : State) : List (Nat × Nat) :=
  let off (i r : Nat) : Nat := r % 65536 + 32 * i
  ((List.range 64).filter (gValid t)).flatMap (fun i =>
    refuseIf (gGid t i == 0) (off i rG_CFG) cRANGE ++
    refuseIf ((List.range 64).any (fun k => decide (i < k) && gValid t k && gGid t k == gGid t i)) (off i rG_CFG) cCONFLICT ++
    refuseIf ((List.range 4).any (fun a => decide (ringSize t a < boxSize t i a))) (off i rG_EXTENT) cRANGE ++
    refuseIf (!inBox t i (myId t)) (off i rG_ORIGIN) cRANGE ++ refuseIf (!inBox t i (gRoot t i)) (off i rG_ROOT) cRANGE ++
    refuseIf (!isPerm (gAxorder t i)) (off i rG_AXORDER) cRANGE)
def refusals (s t : State) (w : Nat) : List (Nat × Nat) :=
  match winBlk w with
  | some (.eng, _) => engRefusals t w
  | some (.mem, 0) => frRefusals t
  | some (.sxu, _) => sxuRefusals t
  | some (.tfr, _) => tfrRefusals s t
  | some (.col, _) => colRefusals t
  | _ => []
/-- R587: the refusal of the lowest offset. -/
def firstRefusal : List (Nat × Nat) → Option (Nat × Nat)
  | [] => none
  | x :: r => match firstRefusal r with | some y => if y.1 < x.1 then some y else some x | none => some x

/-! ### The safe point, and what an applied commit does -/

/-- Whether the shadow of a page of a window differs from the values in force. -/
def pageChanged (s : State) (w page : Nat) : Bool :=
  (rwsOffs w).any (fun o => offIn o / 4096 == page && rwsMerge o (rget s o) (shGet s o) != rget s o)
/-- R475: TPW's page 0 changes at a boundary of the governor's ticks, its page 1 at one between seconds of site time. -/
def tpwPoint (s : State) : Bool :=
  (!pageChanged s winTpw 0 || s.clock == s.gov.tickAt || decide (s.gov.tickAt + us 10 ≤ s.clock)) &&
    (!pageChanged s winTpw 1 || decide (siteNow s % 10 ^ 9 < 2))
/-- R115, R224, R263, R370, R445, R475: whether the block may be at its safe point. The other blocks' points are moments that the command itself
names. -/
def safePoint (s : State) (w : Nat) : Bool :=
  match winBlk w with
  | some (.eng, e) => (getE s e).act == .idle || !(getE s e).blks.any (unissued s)
  | some (.mem, 0) => s.jobs.all (fun j => !(j.parts.any (fun x => x.st == .busy)) || (jobRanges s j.desc j.args j.extra).all (fun r => !frChangeTouches s r.1 r.2))
  | some (.upd, _) => (admittedRuns s).isEmpty && s.updLog.isEmpty
  | some (.col, _) => s.jobs.all (fun j => j.st == .held || !usesChanged s j.desc j.args)
  | some (.sxu, _) => s.sxRuns.all (fun r => !r.begun)
  | some (.tpw, _) => tpwPoint s
  | _ => true
/-- R214: domains whose mask was already full are sealed once AUTOSEAL is 1; a histogram that cannot be read leaves its domain, with an error that has
no command behind it (R201, R202). -/
def sealFull (n : Nat) (t : State) (d : Nat) : State :=
  if !sealsItself t n d then t
  else
    match histBad t n d with
    | some w => reportUe t w 0 none
    | none => sealDomain (correctWhere t (fetches t (domHdr t n d + 0x200) 1536)) n d
/-- R210: an entry newly enabled begins its initialisation; the window of one disabled or moved becomes undefined. -/
def frApplied (s t : State) (n : Nat) : State :=
  let same := frEnabled s n == frEnabled t n && frBase s n == frBase t n && frLen s n == frLen t n && frMeta s n == frMeta t n && frElem s n == frElem t n
  if same then (if frReady t n ∧ rbit t (frReg n oFR_CFG) 30 then (frDomains t n).foldl (sealFull n) t else t)
  else
    let t := if frEnabled s n then makeUndef (dropStored (rputN t (frReg n oFR_STAT) 0) (frBase s n) (frLen s n)) (frBase s n) (frLen s n) else t
    if frEnabled t n ∧ frLen t n ≠ 0 then rputBit t (frReg n oFR_STAT) 31 true else t
/-- R361: an ABORT held for a group entry that is changed or invalidated is discarded. -/
def dropHeld (s t : State) (i : Nat) : State :=
  if groupChanged s i ∧ gValid s i then { t with colHeld := t.colHeld.filter (fun pk => !(pkKind pk == ckABORT && pkGid pk == gGid s i)) } else t
/-- R345, R347: an entry made valid or changed starts its numbering again; G_MEMBERS counts a valid entry's box. -/
def groupApplied (s t : State) (i : Nat) : State :=
  let t := dropHeld s t i
  let t := if groupChanged s i then
      rputN { t with gLive := t.gLive.filter (fun e => e.1 / 2 ^ 18 != i) } (gReg i rG_SEQ) 0
    else t
  let t := rputN t (gReg i rG_MEMBERS) (if gValid t i then (gMembers t i).length else 0)
  refreshEngines t i
/-- What follows from the new values, by block. -/
def commitHooks (s t : State) (w : Nat) : State :=
  match winBlk w with
  | some (.mem, 0) => (List.range 16).foldl (frApplied s) t
  | some (.upd, _) => refreshUpd (rputN t rUPD_VOTE_RES (voteRes t (rbit t rUPD_VOTE_RES 31) (rfld t rUPD_VOTE_RES 3 0)))
  | some (.syn, _) => refreshFabric t
  | some (.tfr, _) =>
    let t := refreshFabric (pump t)
    if glbStage t = 3 ∧ rget t rTFR_ID != rget s rTFR_ID then assignCheck t else t
  | some (.col, _) => refreshCol ((List.range 64).foldl (groupApplied s) t)
  | some (.sxu, _) => settleSites ((List.range 16).foldl (fun t p => peerCommitted t p (pValid s p) (peerTo s p)) t)
  | some (.cph, _) => refreshCph t
  | some (.tpw, _) => putProfile t
  | _ => t
/-- R393, R395, R586: at the safe point the pending commit is applied, or refused with nothing applied and the shadow reloaded. -/
def effCommitApply (s : State) (w : Nat) : State :=
  if !winOpen s w || !commitPending s w || !safePoint s w then s
  else
    let t := applyShadow s w
    match firstRefusal (refusals s t w) with
    | some (off, cause) => evtSet (putOutcome (reloadShadow s w) w 3 cause off) w 2 (ownEvt s w)
    | none => let t := bumpGen (commitHooks s t w) w; evtSet (putOutcome t w 2 0 0) w 2 (ownEvt t w)
def execCommitApply (win : Nat) (s : State) : Host.Outcome State Fault Refusal := ok (effCommitApply s win)

/-! ### A write by an agent (R13, R575, R576) -/

/-- R13, R584: the fields that a write changes at once, and the shadow. -/
def plainWrite (s : State) (off : Nat) (v : Word) : State :=
  let fs := fieldsAt off
  let now := fs.foldl (fun a f =>
    match f.acc with
    | .rw => wput a f.hi f.lo (wbits v f.hi f.lo)
    | .wo => wput a f.hi f.lo (wbits v f.hi f.lo)
    | .w1c => wput a f.hi f.lo (wbits (a &&& ~~~ v) f.hi f.lo)
    | _ => a) (rget s off)
  let s := if fs.any (fun f => f.acc = .rw || f.acc = .wo || f.acc = .w1c) then rput s off now else s
  if rwsFields off = [] then s
  else if commitPending s (offWin off) then rputBit s (commitStat (offWin off)) 4 true
  else shPut s off (rwsMerge off (shGet s off) v)
/-- R546, R574: an agent whose resets are accepted. -/
def resetWriter (s : State) (owner : Nat) : Bool := decide (1 ≤ owner ∧ owner ≤ 110) || isOwner s owner
/-- R546: a GLB_RESET write: MODULE covers every other domain. -/
def effGlbReset (s : State) (owner : Nat) (v : Word) : State :=
  if !resetWriter s owner ∨ wbits v 31 24 ≠ 0x5A then s
  else if wbit v 4 then startReset s 4 0 2 false
  else (List.range 4).foldl (fun s d =>
    if wbit v d && (d != 2 || winThere s winSxu) && (d != 3 || winThere s winCph) then startReset s d 0 2 false else s) s
/-- Whether a write is accepted; where it is not, what it leaves. -/
def refusedWrite (s : State) (owner off : Nat) : Option State :=
  let w := offWin off
  let o := offIn off
  if w = winTfr ∧ 0x1000 ≤ o then
    (match tableSet off with | some e => if setWritable s e then none else some (rinc s rTFR_TBL_REJ 1) | none => none)
  else if w = winTpm ∧ (0x3000 ≤ o ∨ (0x9C ≤ o ∧ o < 0xE0)) then (if isOwner s owner then none else some s)
  else if w = winCph ∧ 0x1000 ≤ o ∧ o < 0x2000 then
    (if !rootOwner owner then some (rinc s rCPH_ROOT_REJ 1) else if cphLatched s then some s else none)
  else if w = winTpw ∧ 0x3000 ≤ o ∧ o % 32 < 16 then (if rbit s (wreg w (o / 32 * 32 + 0x10)) 31 then some s else none)
  else if w = winGlb ∧ 0xB0 ≤ o ∧ o < 0xBC then (if rbit s rMOR_CTRL 31 then some s else none)
  else if w = winMbx ∧ 0x2000 ≤ o ∧ o < 0x2200 then (if owner = (o - 0x2000) / 4 then none else some s)
  else none
/-- R178–R185: a register of a queue. DESIGN CHOICE (log entry 22): bits 5:0 of Q_PROG_LO, which the spec only calls 64-byte aligned, keep what is
written. -/
def queueWrite (s : State) (q r : Nat) (v : Word) : State :=
  let x := getQ s q
  let lo (d : DWord) : DWord := w64 (d.toNat / 2 ^ 32 * 2 ^ 32 + v.toNat)
  let hi (d : DWord) : DWord := w64 (d.toNat % 2 ^ 32 + 2 ^ 32 * v.toNat)
  if r = 8 then effQueueEnable s q v
  else if r = 0xC then effQTail s q v
  else if r = 0x1C then (if wbits v 1 0 = 1 then effResume s q false else if wbits v 1 0 = 2 then effResume s q true else s)
  else if x.enable then s
  else if r = 0 then putQ s q { x with base := w64 ((lo x.base).toNat / 64 * 64) }
  else if r = 4 then putQ s q { x with base := hi x.base }
  else if r = 0x20 then putQ s q { x with prog := lo x.prog }
  else if r = 0x24 then putQ s q { x with prog := hi x.prog }
  else s
/-- A write of one 4-byte register that takes effect now. -/
def writeWord (s : State) (owner off : Nat) (v : Word) : State :=
  let w := offWin off
  let o := offIn off
  match queueAtOff off with
  | some (q, r) => queueWrite s q r v
  | none =>
    if o = hBLK_CTRL then effBlkCtrl s w (wbits v 31 16) (wbit v 1) (wbit v 0)
    else if o = hBLK_COMMIT then effBlkCommit s w (wbits v 31 16) (wbit v 0) (wbit v 1)
    else if o = hERR_STAT then
      (let s := plainWrite s off v; if wbit v 0 then rputBit s (wreg w hERR_FIRST) 0 false else s)
    else if o < 0x80 then plainWrite s off v
    else
      match winBlk w with
      | some (.glb, _) =>
        if o = rGLB_RESET then effGlbReset s owner v
        else if o = rGLB_FLOE_RESET then (if resetWriter s owner then effFloeReset s v else s)
        else if o = rMOR_CTRL then effMorEnable s v
        else plainWrite s off v
      | some (.tpm, _) =>
        if off = rTPM_MEAS_EXT then effMeasExt s owner v
        else if 0x3000 ≤ o ∧ o < 0x4000 ∧ o % 64 = 0 ∧ wbit v 31 then
          -- R535: a window written again takes its queue pair out of the error state
          (let n := (o - 0x3000) / 64; plainWrite (putH s n { getH s n with broken := false }) off v)
        else plainWrite s off v
      | some (.tpw, _) =>
        if off = rPW_CTRL then
          (let s := if commitPending s w then rputBit s (commitStat w) 4 true else shPut s off (rwsMerge off (shGet s off) v)
           if wbit v 0 then effPark s else wake s)
        else plainWrite s off v
      | some (.cph, _) => if off = rCPH_ALARM_CFG then effLidEn s v else if off = rCPH_ROOT_CTL then effRootCtl s owner v else plainWrite s off v
      | some (.upd, _) =>
        if off = rUPD_ABORT then setVoteIf s (wbit v 0) vfABORT_REQ
        else if off = rUPD_VOTE_RES then rputN s off (voteRes s (wbit v 31) (wbits v 3 0))
        else plainWrite s off v
      | some (.syn, _) => if off = rSYN_PREEMPT then effPreempt s v else plainWrite s off v
      | some (.mbx, _) =>
        if o = 0x80 ∨ o = 0x84 then effMbxForce s owner o v
        else if isMbxPage off ∧ o % 32 = 16 then effLockRelease s owner ((o - 0x1000) / 32) v
        else plainWrite s off v
      | some (.tfp, p) =>
        if o = oTFP_CTRL then
          (let s := if commitPending s w then rputBit s (commitStat w) 4 true else shPut s off (rwsMerge off (shGet s off) v)
           effPortEnable s p v)
        else plainWrite s off v
      | some (.tfr, _) => if off = rTFR_QUIESCE then effQuiesce s v else plainWrite s off v
      | some (.eng, e) =>
        if o = oENG_CTRL then effFenceEngine s e v else if o = oENG_SELFTEST then effSelftestStart s e v else plainWrite s off v
      | _ => plainWrite s off v
/-- The writes of one access, which are accepted or refused as one. -/
def writeAll (s : State) (owner off : Nat) (l : List (Nat × Word)) : State :=
  match refusedWrite s owner off with
  | some t => t
  | none => l.foldl (fun s p => writeWord s owner p.1 p.2) s
/-- Whether software may write the pair whose _LO is at an offset. -/
def pairWritable (lo : Nat) : Bool :=
  (queueAtOff lo).isSome || isMbxPage lo || (fieldsAt lo).any (fun f => f.acc = .rw || f.acc = .rws)
/-- R575, R585, R577: an agent writes a register: a low half waits in the agent's latch for its high half. -/
def effWrite (s : State) (owner off : Nat) (v : Word) : State :=
  if !winOpen s (offWin off) || hartHeld s owner then s
  else
    match pairOf off with
    | none => writeAll s owner off [(off, v)]
    | some lo =>
      let s := otherLatches s owner lo
      if !pairWritable lo then s
      else if off = lo then { s with wrLatch := latchSet s.wrLatch owner (offWin lo) (offIn lo) v }
      else if isMbxPage off then effMbxPost s owner ((offIn lo - 0x1000) / 32) v
      else
        let held := latchOf s.wrLatch owner (offWin lo) (offIn lo)
        let s := { s with wrLatch := latchDrop s.wrLatch owner (offWin lo) }
        writeAll s owner off (match held with | some l => [(lo, l), (off, v)] | none => [(off, v)])
/-- R13: a register written by an agent. -/
def execRegisterWrite (owner off : Nat) (v : Word) (s : State) : Host.Outcome State Fault Refusal :=
  ok (if off % 4 = 0 ∧ off < 2 ^ 24 then effWrite s owner off v else s)
/-- R333: a write to an entry of the route tables. -/
def execTableWrite (owner off : Nat) (v : Word) (s : State) : Host.Outcome State Fault Refusal :=
  ok (if off % 4 = 0 ∧ (tableSet off).isSome then effWrite s owner off v else s)

end Sys2Proof.Machine
end

