-- ==== Sys2Proof/Machine/Control.lean ====
section
/-! DEFINITION. The Edlith control protocol within a session (R516–R531): key exchange, sealed requests and their responses, register access, events, root loading, firmware update, ownership and the session's end. -/

namespace Sys2Proof.Machine

/-! ### Responses (R518–R520) -/

/-- What a request is answered with: the response's type, status and payload; none where it has no response (EVENT_ACK). -/
structure Rsp where
  typ : Nat := 7
  status : Nat := 0
  body : List Byte := []
  deriving DecidableEq, Repr
def rOK : Nat := 0
def rDENIED : Nat := 1
def rBAD_ADDR : Nat := 2
def rSTALE : Nat := 3
def rBUSY : Nat := 4
def rBAD_IMAGE : Nat := 5
def rAUTH : Nat := 6
def rABSENT : Nat := 7
def rDOWN : Nat := 8

/-- A response sealed under the session's next SEQ. -/
def sealRsp (x : Sess) (i : Nat) (m : CMsg) (r : Rsp) : CMsg :=
  ctrlSeal x { via := x.port, fromAddr := x.addr, fromPort := x.udp, typ := r.typ, session := i, status := r.status, seq := x.seqOut, ackSeq := m.seq,
               len := r.body.length, body := r.body }
/-- R520: a request executed: its SEQ is the last executed, and its response, where it has one, is sent and kept. -/
def finishReq (s : State) (i : Nat) (m : CMsg) (r : Option Rsp) : State :=
  let x := getSess s i
  if x.st ≠ 2 then s
  else
    match r with
    | none => setSess s i { x with seqIn := m.seq, stored := none, lastReq := s.clock }
    | some r =>
      let a := sealRsp x i m r
      sendCtrl (setSess s i { x with seqIn := m.seq, seqOut := x.seqOut + 1, stored := some a, lastReq := s.clock }) a
/-- A request's payload, where its tag is right. -/
def ctrlOpen (x : Sess) (m : CMsg) : Option (List Byte) :=
  (gcmOpenBytes x.kIn (ctrlIv m.seq) (natsOf (ctrlHeader m)) (natsOf m.body) (natsOf m.tag)).map (fun p => (bytesOf p).take m.len)
/-- R518, R520, R523: a sealed request of one type: not of an open session, discarded; a repeat, answered again; out of order, discarded;
else executed by `run`, which answers nothing where the request must wait for a block in reset. -/
def sealedReq (s : State) (m : CMsg) (typ : Nat) (run : State → Nat → Sess → List Byte → Option (State × Option Rsp)) : State :=
  let i := m.session % 16
  let x := getSess s i
  if m.typ ≠ typ ∨ !ctrlHeard s m then s
  else if inRecovery s then (if m.via = 0 then clearRsp s m rDENIED 0 else s)
  else if !m.sealed ∨ !ofSession s m 2 then badMsg s
  else
    match ctrlOpen x m with
    | none => rinc s rTPM_AUTH_FAIL 1
    | some p =>
      if m.seq = x.seqIn then
        (match x.stored with
         | some a => sendCtrl (putSess s i { x with lastReq := s.clock }) a
         | none => putSess s i { x with lastReq := s.clock })
      else if m.seq ≠ x.seqIn + 1 then badMsg s
      else
        match run s i x p with
        | none => s
        | some (t, r) => finishReq t i m r
/-- A request that only an OWNER session may make (R527). -/
def ownerReq (run : State → Nat → List Byte → Option (State × Option Rsp)) (s : State) (i : Nat) (x : Sess) (p : List Byte) : Option (State × Option Rsp) :=
  if x.role = 1 then run s i p else some (s, some { status := rDENIED })
def answer (s : State) (status : Nat) : Option (State × Option Rsp) := some (s, some { status := status })

/-! ### Certificate and key exchange (R518, R523, R524) -/

def certParts : Nat := cdiv Config.certChain.length 1024
def effCertGet (s : State) (m : CMsg) : State :=
  if m.typ ≠ 3 ∨ !ctrlHeard s m then s
  else if inRecovery s then (if m.via = 0 then clearRsp s m rDENIED 0 else s)
  else if m.sealed ∨ !ofSession s m 1 then badMsg s
  else
    let i := m.session % 16
    let x := getSess s i
    let part := (Config.certChain.drop (1024 * leAt m.body 0 4)).take 1024
    sendCtrl (setSess s i { x with seqOut := x.seqOut + 1, lastReq := s.clock })
      { via := m.via, fromAddr := m.fromAddr, fromPort := m.fromPort, typ := 4, session := i, status := certParts, seq := x.seqOut, ackSeq := m.seq,
        len := part.length, body := part }
/-- R518: CERT_GET is answered with a part of the certificate chain. -/
def execCertGet (m : CMsg) (s : State) : Host.Outcome State Fault Refusal := ok (effCertGet s m)

def labelIn : List Nat := label16 "EDLITH-H2M"
def labelOut : List Nat := label16 "EDLITH-M2H"
/-- R524: whether a KEYX's signature is the owner's. -/
def keyxSigned (s : State) (x : Sess) (c sig : List Byte) : Bool :=
  sha512 (beBytes s.rot.ownerMod 512) == s.rot.owner && pssVerify s.rot.ownerMod (sha512 (natsOf (x.report.take 0x400 ++ c))) (natsOf sig)
def keyxDenied (s : State) (m : CMsg) (i : Nat) : State := closeSess (clearRsp s m rAUTH (getSess s i).seqOut) i
def effKeyx (s : State) (m : CMsg) : State :=
  if m.typ ≠ 5 ∨ !ctrlHeard s m then s
  else if inRecovery s then (if m.via = 0 then clearRsp s m rDENIED 0 else s)
  else if m.sealed ∨ !ofSession s m 1 then badMsg s
  else
    let i := m.session % 16
    let x := getSess s i
    let c := fitBytes m.body 512
    let owner := x.asked == 1 && s.rot.owner != []
    if owner && !keyxSigned s x c (fitBytes (m.body.drop 512) 512) then keyxDenied (rinc s rTPM_AUTH_FAIL 1) m i
    else
      match s.idKey.bind (fun k => oaepDecrypt k.1 k.2 (natsOf c)) with
      | none => keyxDenied s m i
      | some k =>
        if k.length ≠ 32 then keyxDenied s m i
        else
          let ctx := (sha512 (natsOf (x.report.take 0x400))).take 32
          let x := { x with st := 2, role := b2n owner, kIn := deriveKey k labelIn ctx, kOut := deriveKey k labelOut ctx, seqIn := m.seq, lastReq := s.clock }
          let a := sealRsp x i m { typ := 6, status := b2n owner }
          drainFifo (sendCtrl (setSess s i { x with seqOut := x.seqOut + 1, stored := some a }) a)
/-- R523, R524. -/
def execKeyx (m : CMsg) (s : State) : Host.Outcome State Fault Refusal := ok (effKeyx s m)

/-! ### Register access (R526, R527) -/

def words (p : List Byte) (n : Nat) : List Nat := (List.range (min n (p.length / 4))).map (fun k => leAt p (4 * k) 4)
def badOff (off : Nat) : Bool := off % 4 != 0 || decide (2 ^ 24 ≤ off)
/-- Register offsets read in order. -/
def readAll (owner : Nat) : List Nat → State → State × List Word
  | [], s => (s, [])
  | o :: r, s =>
    let s := effRead s owner o
    let v := s.resp
    let t := readAll owner r s
    (t.1, v ++ t.2)
def runRead (s : State) (i : Nat) (p : List Byte) : Option (State × Option Rsp) :=
  let offs := words p 64
  if offs.any badOff then some (s, some { typ := 0x11, status := rBAD_ADDR })
  else if offs.any (fun o => winHeld s (offWin o)) then none
  else
    let r := readAll (112 + i) offs s
    some (r.1, some { typ := 0x11, body := r.2.flatMap (fun v => le32 v.toNat) })
/-- R526: READ. -/
def execRead (m : CMsg) (s : State) : Host.Outcome State Fault Refusal := ok (sealedReq s m 0x10 (fun s i _ p => runRead s i p))
/-- R396, R526, R527: why a host's write of a register is refused. -/
def writeRefusal (s : State) (off v : Nat) : Nat :=
  let w := offWin off
  let o := offIn off
  if badOff off then rBAD_ADDR
  else if !winPresent s.order w then rABSENT
  else if (w = winCph ∧ 0x1000 ≤ o ∧ o < 0x2000) ∨ (w = winTpm ∧ 0x1000 ≤ o ∧ o < 0x2000) then rDENIED
  else if (o = hBLK_CTRL ∨ (o = hBLK_COMMIT ∧ !commitPending s w)) ∧ v / 65536 ≠ blkGen s w then rSTALE
  else rOK
def pairsOf : List Nat → List (Nat × Nat)
  | a :: b :: r => (a, b) :: pairsOf r
  | _ => []
/-- R526: a WRITE's entries in order, up to the first refused: how many were applied, and the reason. A stale write of BLK_CTRL or BLK_COMMIT still shows in BLK_COMMIT_STAT (R396), and one to a root-key register is counted (R479). -/
def writeEach (owner : Nat) : List (Nat × Nat) → State → Nat → State × Nat × Nat
  | [], s, n => (s, n, rOK)
  | (off, v) :: r, s, n =>
    let e := writeRefusal s off v
    if e = rOK then writeEach owner r (effWrite s owner off (w32 v)) (n + 1)
    else if e = rSTALE ∨ (e = rDENIED ∧ offWin off = winCph) then (effWrite s owner off (w32 v), n, e)
    else (s, n, e)
def runWrite (s : State) (i : Nat) (p : List Byte) : Option (State × Option Rsp) :=
  if glbStage s < 2 then some (s, some { typ := 0x13, status := rBUSY, body := le32 0 })
  else
    let l := pairsOf (words p 128)
    if l.any (fun e => decide (e.1 < 2 ^ 24) && winHeld s (offWin e.1)) then none
    else
      let r := writeEach (112 + i) l s 0
      some (r.1, some { typ := 0x13, status := r.2.2, body := le32 r.2.1 })
/-- R526, R527, R547: WRITE. -/
def execWrite (m : CMsg) (s : State) : Host.Outcome State Fault Refusal :=
  ok (sealedReq s m 0x12 (fun s i x p => if x.role = 1 then runWrite s i p else some (s, some { typ := 0x13, status := rDENIED, body := le32 0 })))

/-! ### Events (R529) -/

def effEventAck (s : State) (m : CMsg) : State :=
  sealedReq s m 0x19 (fun s i x _ => some (putSess s i { x with events := x.events.filter (fun e => e.seq != m.ackSeq) }, none))
/-- R529: EVENT_ACK removes the event that it names. -/
def execEventAck (m : CMsg) (s : State) : Host.Outcome State Fault Refusal := ok (effEventAck s m)
def effEventResend (s : State) (i : Nat) : State :=
  let x := getSess s i
  match x.events with
  | [] => s
  | e :: r =>
    if x.st = 2 ∧ e.sent + us 100000 ≤ s.clock then
      sendCtrl (putSess s i { x with events := { e with sent := s.clock } :: r }) (eventMsg x i e.seq e.body)
    else s
/-- R529: the oldest event of a session is sent again after 100 ms. -/
def execEventResend (sess : Nat) (s : State) : Host.Outcome State Fault Refusal := ok (effEventResend s sess)

/-! ### Root keys (R528) -/

def runKeyLoad (s : State) (_ : Nat) (p : List Byte) : Option (State × Option Rsp) :=
  let r := leAt p 0 4
  if glbStage s < 2 then answer s rBUSY
  else if !winThere s winCph then answer s rABSENT
  else if winHeld s winCph then none
  else if cphLatched s then answer s rDOWN
  else if r = 0 ∨ 7 < r then answer s rBAD_ADDR
  else
    let k := natsOf (fitBytes (p.drop 4) 32)
    let s := rputN s rCPH_ROOT_SEL r
    let s := (List.range 8).foldl (fun s n => rputN s (rCPH_ROOT_DATA + 4 * n) (beNat ((k.drop (4 * n)).take 4))) s
    answer (effRootCtl s 109 1) rOK
/-- R528: KEY_LOAD. -/
def execKeyLoad (m : CMsg) (s : State) : Host.Outcome State Fault Refusal := ok (sealedReq s m 0x20 (ownerReq runKeyLoad))

/-! ### Firmware (R511, R530, R531) -/

/-- R547: firmware messages are admitted in stage READY. -/
def whenReady (run : State → Nat → List Byte → Option (State × Option Rsp)) (s : State) (i : Nat) (p : List Byte) : Option (State × Option Rsp) :=
  if glbStage s = 4 then run s i p else answer s rBUSY
/-- R530: the session that holds the firmware lock. -/
def setFwLock (s : State) (o : Option Nat) : State := { s with fwLock := o }
/-- FW_WRITE: the bytes go into the bank, or a status says why not. -/
def putImage (s : State) (p : List Byte) : State × Nat :=
  let b := leAt p 0 4
  let o := leAt p 4 4
  let d := (p.drop 8).take 1024
  if bankSize < o + d.length then (s, rBAD_ADDR) else (putFlash s (bankBase b + o) d, rOK)
def runFwWrite (s : State) (i : Nat) (p : List Byte) : Option (State × Option Rsp) :=
  let b := leAt p 0 4
  if 1 < b then answer s rBAD_ADDR
  else if b = s.rot.active then answer s rDENIED
  else if s.fwLock.elim false (fun k => k != i) then answer s rBUSY
  else
    let r := putImage s p
    answer (if r.2 = rOK then rputF (setFwLock r.1 (some i)) rTPM_FW 7 4 i else s) r.2
/-- R530: a bank's image checked, and the bank named as pending. -/
def activate (s : State) (b : Nat) : State × Nat :=
  if 1 < b then (s, rBAD_ADDR)
  else if !imageOk s b then (s, rBAD_IMAGE)
  else (rputF { s with rot := { s.rot with pending := some b } } rTPM_FW 1 0 b, rOK)
def runFwActivate (s : State) (i : Nat) (p : List Byte) : Option (State × Option Rsp) :=
  let r := activate s (leAt p 0 4)
  let t := if r.2 = rOK ∧ s.fwLock = some i then rputF (setFwLock r.1 none) rTPM_FW 7 4 0xF else r.1
  answer t r.2
/-- R511: a firmware message in the clear, in RECOVERY. -/
def clearFw (m : CMsg) (r : State × Nat) : State := clearRsp r.1 m r.2 0
def clearHeard (s : State) (m : CMsg) (typ : Nat) : Bool := m.typ == typ && ctrlHeard s m && inRecovery s && m.via == 0 && !m.sealed && m.session % 16 == 0
/-- R511, R530: FW_WRITE. -/
def execFwWrite (m : CMsg) (s : State) : Host.Outcome State Fault Refusal :=
  ok (if clearHeard s m 0x28 then clearFw m (if 1 < leAt m.body 0 4 then (s, rBAD_ADDR) else putImage s (m.body.take m.len))
    else sealedReq s m 0x28 (ownerReq (whenReady runFwWrite)))
/-- R511, R530: FW_ACTIVATE. -/
def execFwActivate (m : CMsg) (s : State) : Host.Outcome State Fault Refusal :=
  ok (if clearHeard s m 0x29 then clearFw m (activate s (leAt m.body 0 4)) else sealedReq s m 0x29 (ownerReq (whenReady runFwActivate)))
def runFwCommit (s : State) (_ : Nat) (p : List Byte) : Option (State × Option Rsp) :=
  let r := s.rot
  let r := if r.trial then { r with active := r.booted, trial := false } else r
  let r := if nbit (leAt p 0 4) 0 then { r with floor := max r.floor (rfld s rTPM_BOOT 31 24) } else r
  answer (rputBit (rputF { s with rot := r } rTPM_BOOT 23 16 r.floor) rTPM_BOOT 1 r.trial) rOK
/-- R531: FW_COMMIT. -/
def execFwCommit (m : CMsg) (s : State) : Host.Outcome State Fault Refusal := ok (sealedReq s m 0x2A (ownerReq (whenReady runFwCommit)))

/-! ### Ownership (R525) -/

def runClaim (s : State) (_ : Nat) (x : Sess) (p : List Byte) : Option (State × Option Rsp) :=
  let n := natsOf (fitBytes p 512)
  let sig := natsOf (fitBytes (p.drop 512) 512)
  if x.role ≠ 1 ∧ s.rot.owner ≠ [] then answer s rDENIED
  else if glbStage s ≠ 4 then answer s rBUSY
  else if s.rot.owner ≠ [] ∧ !(sha512 (beBytes s.rot.ownerMod 512) == s.rot.owner && pssVerify s.rot.ownerMod (sha512 n) sig) then
    answer (rinc s rTPM_AUTH_FAIL 1) rAUTH
  else if beNat n = 0 then answer { s with rot := { s.rot with owner := [], ownerMod := 0 } } rOK
  else answer { s with rot := { s.rot with owner := sha512 n, ownerMod := beNat n } } rOK
/-- R525: CLAIM. -/
def execClaim (m : CMsg) (s : State) : Host.Outcome State Fault Refusal := ok (sealedReq s m 0x30 runClaim)

/-! ### The session's end (R518, R520) -/

def effClose (s : State) (m : CMsg) : State :=
  let i := m.session % 16
  let was := getSess s i
  let t := sealedReq s m 0x38 (fun s _ _ _ => answer s rOK)
  let now := getSess t i
  if now.st = 2 ∧ now.seqIn ≠ was.seqIn then closeSess t i else t
/-- R518: CLOSE is answered, and the session ends. -/
def execClose (m : CMsg) (s : State) : Host.Outcome State Fault Refusal := ok (effClose s m)
/-- R520: KEEPALIVE. -/
def execKeepalive (m : CMsg) (s : State) : Host.Outcome State Fault Refusal := ok (sealedReq s m 0x3F (fun s _ _ _ => answer s rOK))
def effIdle (s : State) (i : Nat) : State :=
  let x := getSess s i
  if x.st ≠ 0 ∧ x.lastReq + us 10000000 ≤ s.clock then closeSess s i else s
/-- R520: a session with no valid request for 10 s is closed. -/
def execSessionIdleTimeout (sess : Nat) (s : State) : Host.Outcome State Fault Refusal := ok (effIdle s sess)

end Sys2Proof.Machine
end

