-- ==== Sys2Proof/Machine/Eth.lean ====
section
/-! DEFINITION. The 800GbE ports (R389, R390, R444, R447): frames that arrive, neighbour solicitations, and the link. -/

namespace Sys2Proof.Machine

/-- R389: the class of a frame, 0 CTRL, 1 BULK, 2 SITE. -/
def ethClassNum (c : EthClass) : Option Nat := match c with | .ctrl => some 0 | .roce => some 1 | .acnis => some 2 | .other => none
def ethBufOf (s : State) (port cls : Nat) : Nat := smGet (fun _ => 0) s.ethBuf (4 * port + cls)
/-- R390: 4 MiB a port, of which 256 KiB is kept for CTRL frames. -/
def ethFits (s : State) (port cls len : Nat) : Bool :=
  let c := ethBufOf s port 0
  let d := ethBufOf s port 1 + ethBufOf s port 2
  if cls = 0 then decide (c + d + len ≤ 4 * 2 ^ 20) else decide (d + len + max c (256 * 1024) ≤ 4 * 2 ^ 20)
/-- R447: bytes received of a class, counted in KiB. -/
def ethCount (s : State) (port cls len : Nat) : State :=
  let k := 4 * port + cls
  let n := smGet (fun _ => 0) s.ethRem k + len
  rinc { s with ethRem := smSet (fun _ => 0) s.ethRem k (n % 1024) } (wreg (winEth port) (oETH_RXB + 16 * cls)) (n / 1024)
def effFrame (s : State) (port : Nat) (c : EthClass) (len : Nat) (frag : Bool) : State :=
  match ethClassNum c with
  | none => s
  | some k =>
    if 2 ≤ port ∨ !ethUp s port then s
    else if !ethFits s port k len then rinc s (wreg (winEth port) (oETH_RXDROP + 16 * k)) 1
    else
      let s := ethCount s port k len
      if k = 2 ∧ frag then rinc s (wreg (winEth port) oETH_FRAG_DROP) 1
      else { s with ethBuf := smSet (fun _ => 0) s.ethBuf (4 * port + k) (ethBufOf s port k + len) }
/-- R390, R421: a frame is buffered by its class, or dropped where its class lacks space; an Acnis fragment is discarded. -/
def execEthFrameReceive (port : Nat) (cls : EthClass) (len : Nat) (fragment : Bool) (s : State) : Host.Outcome State Fault Refusal :=
  ok (effFrame s port cls len fragment)

/-- R444: the answer to a neighbour solicitation: the address and the port's MAC address. -/
def advertise (s : State) (target port : Nat) : State :=
  let w := winEth port
  if ethUp s port ∧ ip6At s (wreg w oETH_S_IP6_0) = target then
    emit (ethSent s port 0 (90 + tagLen s (wreg w oETH_C_TAG)))
      (.frame "NEIGHBOUR_ADVERTISEMENT" (bytesOf (beBytes target 16 ++ beBytes (rn64 s (wreg w oETH_MAC_LO) % 2 ^ 48) 6)))
  else s
/-- R444: a neighbour solicitation for the address of site traffic is answered through the CTRL class. -/
def execNeighbourSolicitation (target : Nat) (s : State) : Host.Outcome State Fault Refusal :=
  ok (advertise (advertise s target 0) target 1)

def effEthLink (s : State) (port : Nat) (up : Bool) : State :=
  if 2 ≤ port then s else setCode (rputBit s (wreg (winEth port) oETH_LINK) 0 up) (winEth port) (b2n up)
/-- R444, R581: a port's PCS lock and FEC alignment come or go. -/
def execEthLink (port : Nat) (up : Bool) (s : State) : Host.Outcome State Fault Refusal := ok (effEthLink s port up)

end Sys2Proof.Machine
end

