-- ==== Sys2Proof/Machine/Dispatch.lean ====
section
/-! DEFINITION. One arm per command of the block: each calls the command's one meaning. -/

namespace Sys2Proof.Machine

/-- The effect of a command on everything but the queue of waiting commands. -/
def exec (i : Instr) (s : State) : Host.Outcome State Fault Refusal :=
  match i with
  | .qTailWrite q v => Sys2Proof.Machine.execQTailWrite q v s
  | .queueEnable q v => Sys2Proof.Machine.execQueueEnable q v s
  | .resumeRetry q => Sys2Proof.Machine.execResumeRetry q s
  | .resumeSkip q => Sys2Proof.Machine.execResumeSkip q s
  | .commandAtHead q => Sys2Proof.Machine.execCommandAtHead q s
  | .commandDispatch j => Sys2Proof.Machine.execCommandDispatch j s
  | .waitTimeout j => Sys2Proof.Machine.execWaitTimeout j s
  | .commandComplete j => Sys2Proof.Machine.execCommandComplete j s
  | .commandFail j => Sys2Proof.Machine.execCommandFail j s
  | .partComplete j p => Sys2Proof.Machine.execPartComplete j p s
  | .partFail j p => Sys2Proof.Machine.execPartFail j p s
  | .cmd pk => Sys2Proof.Machine.execCmd pk s
  | .rpt pk => Sys2Proof.Machine.execRpt pk s
  | .partReportTimer src ctag => Sys2Proof.Machine.execPartReportTimer src ctag s
  | .reportTimeout j p => Sys2Proof.Machine.execReportTimeout j p s
  | .matmul j p => Sys2Proof.Machine.execMatmul j p s
  | .pass e chk => Sys2Proof.Machine.execPass e chk s
  | .drain d => Sys2Proof.Machine.execDrain d s
  | .drainStreamResume e => Sys2Proof.Machine.execDrainStreamResume e s
  | .rampUpStageEnd e => Sys2Proof.Machine.execRampUpStageEnd e s
  | .holdEnd e => Sys2Proof.Machine.execHoldEnd e s
  | .rampDownStageEnd e => Sys2Proof.Machine.execRampDownStageEnd e s
  | .fenceEngine e v => Sys2Proof.Machine.execFenceEngine e v s
  | .selftestStart e v => Sys2Proof.Machine.execSelftestStart e v s
  | .selftestEnd e failing => Sys2Proof.Machine.execSelftestEnd e failing s
  | .elemwiseAdd j p => Sys2Proof.Machine.execElemwiseAdd j p s
  | .elemwiseSub j p => Sys2Proof.Machine.execElemwiseSub j p s
  | .elemwiseMul j p => Sys2Proof.Machine.execElemwiseMul j p s
  | .elemwiseDiv j p => Sys2Proof.Machine.execElemwiseDiv j p s
  | .elemwiseSqrt j p => Sys2Proof.Machine.execElemwiseSqrt j p s
  | .elemwiseFma j p => Sys2Proof.Machine.execElemwiseFma j p s
  | .elemwiseMin j p => Sys2Proof.Machine.execElemwiseMin j p s
  | .elemwiseMax j p => Sys2Proof.Machine.execElemwiseMax j p s
  | .elemwiseMinnum j p => Sys2Proof.Machine.execElemwiseMinnum j p s
  | .elemwiseMaxnum j p => Sys2Proof.Machine.execElemwiseMaxnum j p s
  | .cmpq j p => Sys2Proof.Machine.execCmpq j p s
  | .cmps j p => Sys2Proof.Machine.execCmps j p s
  | .cvt j p => Sys2Proof.Machine.execCvt j p s
  | .cvtToInt j p => Sys2Proof.Machine.execCvtToInt j p s
  | .cvtFromInt j p => Sys2Proof.Machine.execCvtFromInt j p s
  | .roundint j p => Sys2Proof.Machine.execRoundint j p s
  | .augAdd j p => Sys2Proof.Machine.execAugAdd j p s
  | .augMul j p => Sys2Proof.Machine.execAugMul j p s
  | .classOf j p => Sys2Proof.Machine.execClassOf j p s
  | .copysign j p => Sys2Proof.Machine.execCopysign j p s
  | .neg j p => Sys2Proof.Machine.execNeg j p s
  | .abs j p => Sys2Proof.Machine.execAbs j p s
  | .kernel j p core => Sys2Proof.Machine.execKernel j p core s
  | .kernelEcall core a7 k => Sys2Proof.Machine.execKernelEcall core a7 k s
  | .kernelFault core mcause mepc mtval acc => Sys2Proof.Machine.execKernelFault core mcause mepc mtval acc s
  | .kernelTimeout core k => Sys2Proof.Machine.execKernelTimeout core k s
  | .dmaCopyLocal j p => Sys2Proof.Machine.execDmaCopyLocal j p s
  | .dmaCopyRemoteWrite j p => Sys2Proof.Machine.execDmaCopyRemoteWrite j p s
  | .dmaCopyRemoteRead j p => Sys2Proof.Machine.execDmaCopyRemoteRead j p s
  | .dmaCopyHost j p => Sys2Proof.Machine.execDmaCopyHost j p s
  | .accumWriteLocal j p => Sys2Proof.Machine.execAccumWriteLocal j p s
  | .accumWriteRemote j p => Sys2Proof.Machine.execAccumWriteRemote j p s
  | .fenceQueue j p => Sys2Proof.Machine.execFenceQueue j p s
  | .fenceIcache j p => Sys2Proof.Machine.execFenceIcache j p s
  | .firnSeal j p => Sys2Proof.Machine.execFirnSeal j p s
  | .firnRelearn j p => Sys2Proof.Machine.execFirnRelearn j p s
  | .firnExport j p => Sys2Proof.Machine.execFirnExport j p s
  | .firnImport j p => Sys2Proof.Machine.execFirnImport j p s
  | .firnDiscard j p => Sys2Proof.Machine.execFirnDiscard j p s
  | .firnBlockWrite addr bytes => Sys2Proof.Machine.execFirnBlockWrite addr bytes s
  | .reEncodeStep region block => Sys2Proof.Machine.execReEncodeStep region block s
  | .firnInitDone region => Sys2Proof.Machine.execFirnInitDone region s
  | .hbmScrub ctl hits => Sys2Proof.Machine.execHbmScrub ctl hits s
  | .storeScrub hits => Sys2Proof.Machine.execStoreScrub hits s
  | .ingest j p => Sys2Proof.Machine.execIngest j p s
  | .init j p => Sys2Proof.Machine.execInit j p s
  | .stepCommit j p => Sys2Proof.Machine.execStepCommit j p s
  | .audit j p => Sys2Proof.Machine.execAudit j p s
  | .idleLogReplay => Sys2Proof.Machine.execIdleLogReplay s
  | .retirementWaitMet j k => Sys2Proof.Machine.execRetirementWaitMet j k s
  | .genTimeout j k => Sys2Proof.Machine.execGenTimeout j k s
  | .t2TransferDone j k => Sys2Proof.Machine.execT2TransferDone j k s
  | .tierTimeout j k => Sys2Proof.Machine.execTierTimeout j k s
  | .updAdmit => Sys2Proof.Machine.execUpdAdmit s
  | .updAbort v => Sys2Proof.Machine.execUpdAbort v s
  | .stepVote j p => Sys2Proof.Machine.execStepVote j p s
  | .voteUp pk => Sys2Proof.Machine.execVoteUp pk s
  | .voteDown pk => Sys2Proof.Machine.execVoteDown pk s
  | .allReduce j p => Sys2Proof.Machine.execAllReduce j p s
  | .reduceScatter j p => Sys2Proof.Machine.execReduceScatter j p s
  | .allGather j p => Sys2Proof.Machine.execAllGather j p s
  | .allToAll j p => Sys2Proof.Machine.execAllToAll j p s
  | .broadcast j p => Sys2Proof.Machine.execBroadcast j p s
  | .barrier j p => Sys2Proof.Machine.execBarrier j p s
  | .join pk => Sys2Proof.Machine.execJoin pk s
  | .grant pk => Sys2Proof.Machine.execGrant pk s
  | .data pk => Sys2Proof.Machine.execData pk s
  | .abort pk => Sys2Proof.Machine.execAbort pk s
  | .colTimeout j p => Sys2Proof.Machine.execColTimeout j p s
  | .contextGranted => Sys2Proof.Machine.execContextGranted s
  | .gEnginesRefresh group member live => Sys2Proof.Machine.execGEnginesRefresh group member live s
  | .wait j p => Sys2Proof.Machine.execWait j p s
  | .ticket j p => Sys2Proof.Machine.execTicket j p s
  | .signalAdd j p => Sys2Proof.Machine.execSignalAdd j p s
  | .fetchAdd j p => Sys2Proof.Machine.execFetchAdd j p s
  | .assign j p => Sys2Proof.Machine.execAssign j p s
  | .release j p => Sys2Proof.Machine.execRelease j p s
  | .sig pk => Sys2Proof.Machine.execSig pk s
  | .fadd pk => Sys2Proof.Machine.execFadd pk s
  | .waitRegistration pk => Sys2Proof.Machine.execWaitRegistration pk s
  | .verdict pk => Sys2Proof.Machine.execVerdict pk s
  | .counterWaitExpiry wid => Sys2Proof.Machine.execCounterWaitExpiry wid s
  | .waiterBackstop wid => Sys2Proof.Machine.execWaiterBackstop wid s
  | .registrationRetry wid => Sys2Proof.Machine.execRegistrationRetry wid s
  | .synPreempt v => Sys2Proof.Machine.execSynPreempt v s
  | .mbxPost owner m v => Sys2Proof.Machine.execMbxPost owner m v s
  | .mbxReceive owner m => Sys2Proof.Machine.execMbxReceive owner m s
  | .mbxLockAcquire owner m => Sys2Proof.Machine.execMbxLockAcquire owner m s
  | .mbxLockRelease owner m v => Sys2Proof.Machine.execMbxLockRelease owner m v s
  | .mbxForce owner off v => Sys2Proof.Machine.execMbxForce owner off v s
  | .mbxHb owner a v => Sys2Proof.Machine.execMbxHb owner a v s
  | .codeword port seq uncorrectable lcw corrected flits => Sys2Proof.Machine.execCodeword port seq uncorrectable lcw corrected flits s
  | .nak port seq => Sys2Proof.Machine.execNak port seq s
  | .ack port seq => Sys2Proof.Machine.execAck port seq s
  | .credit port vc flits => Sys2Proof.Machine.execCredit port vc flits s
  | .trainingAttempt port => Sys2Proof.Machine.execTrainingAttempt port s
  | .peer port moduleId peerPort => Sys2Proof.Machine.execPeer port moduleId peerPort s
  | .laneLockLoss port lane => Sys2Proof.Machine.execLaneLockLoss port lane s
  | .noCodeword port => Sys2Proof.Machine.execNoCodeword port s
  | .portEnable port v => Sys2Proof.Machine.execPortEnable port v s
  | .retrain port => Sys2Proof.Machine.execRetrain port s
  | .route inPort pk => Sys2Proof.Machine.execRoute inPort pk s
  | .wr pk => Sys2Proof.Machine.execWr pk s
  | .acc pk => Sys2Proof.Machine.execAcc pk s
  | .rd pk => Sys2Proof.Machine.execRd pk s
  | .rspAck pk => Sys2Proof.Machine.execRspAck pk s
  | .rdata pk => Sys2Proof.Machine.execRdata pk s
  | .replyTimeout slot => Sys2Proof.Machine.execReplyTimeout slot s
  | .poisonListExpiry src ctag => Sys2Proof.Machine.execPoisonListExpiry src ctag s
  | .tfrQuiesce v => Sys2Proof.Machine.execTfrQuiesce v s
  | .tableWrite owner off v => Sys2Proof.Machine.execTableWrite owner off v s
  | .roundOpen => Sys2Proof.Machine.execRoundOpen s
  | .roundDeadline => Sys2Proof.Machine.execRoundDeadline s
  | .send j p => Sys2Proof.Machine.execSend j p s
  | .merge j p => Sys2Proof.Machine.execMerge j p s
  | .thawExch j p => Sys2Proof.Machine.execThawExch j p s
  | .thawApply j p => Sys2Proof.Machine.execThawApply j p s
  | .joinSite j p => Sys2Proof.Machine.execJoinSite j p s
  | .peerCtlIsolate j p => Sys2Proof.Machine.execPeerCtlIsolate j p s
  | .peerCtlAbandon j p => Sys2Proof.Machine.execPeerCtlAbandon j p s
  | .thawTimeout peer => Sys2Proof.Machine.execThawTimeout peer s
  | .joinTimeout => Sys2Proof.Machine.execJoinTimeout s
  | .segmentTransmit peer => Sys2Proof.Machine.execSegmentTransmit peer s
  | .probe m => Sys2Proof.Machine.execProbe m s
  | .probeReply m => Sys2Proof.Machine.execProbeReply m s
  | .probePeriodic => Sys2Proof.Machine.execProbePeriodic s
  | .delta m => Sys2Proof.Machine.execDelta m s
  | .done m => Sys2Proof.Machine.execDone m s
  | .nack m => Sys2Proof.Machine.execNack m s
  | .acnisAck m => Sys2Proof.Machine.execAcnisAck m s
  | .acnisRto peer => Sys2Proof.Machine.execAcnisRto peer s
  | .deltaSendStop => Sys2Proof.Machine.execDeltaSendStop s
  | .thawDelta m => Sys2Proof.Machine.execThawDelta m s
  | .thawDone m => Sys2Proof.Machine.execThawDone m s
  | .joinReq m => Sys2Proof.Machine.execJoinReq m s
  | .joinReqRepeat => Sys2Proof.Machine.execJoinReqRepeat s
  | .joinGrant m => Sys2Proof.Machine.execJoinGrant m s
  | .snapSend => Sys2Proof.Machine.execSnapSend s
  | .snap m => Sys2Proof.Machine.execSnap m s
  | .snapDone m => Sys2Proof.Machine.execSnapDone m s
  | .snapDeadline => Sys2Proof.Machine.execSnapDeadline s
  | .leave m => Sys2Proof.Machine.execLeave m s
  | .ppsEdge t => Sys2Proof.Machine.execPpsEdge t s
  | .ppsMissing => Sys2Proof.Machine.execPpsMissing s
  | .ptpSync t1 followUp h => Sys2Proof.Machine.execPtpSync t1 followUp h s
  | .ptpDelayResp t1 t2 t3 t4 => Sys2Proof.Machine.execPtpDelayResp t1 t2 t3 t4 s
  | .ptpLock => Sys2Proof.Machine.execPtpLock s
  | .ptpLoss => Sys2Proof.Machine.execPtpLoss s
  | .holdoverLimit => Sys2Proof.Machine.execHoldoverLimit s
  | .timerFire n => Sys2Proof.Machine.execTimerFire n s
  | .governorTick power sensors => Sys2Proof.Machine.execGovernorTick power sensors s
  | .staggerEnd => Sys2Proof.Machine.execStaggerEnd s
  | .thermCrit sensors => Sys2Proof.Machine.execThermCrit sensors s
  | .grantEffective => Sys2Proof.Machine.execGrantEffective s
  | .coolant bytes => Sys2Proof.Machine.execCoolant bytes s
  | .grid bytes => Sys2Proof.Machine.execGrid bytes s
  | .status power => Sys2Proof.Machine.execStatus power s
  | .grantLost => Sys2Proof.Machine.execGrantLost s
  | .coolantTimeout => Sys2Proof.Machine.execCoolantTimeout s
  | .gridLossN asserted => Sys2Proof.Machine.execGridLossN asserted s
  | .park => Sys2Proof.Machine.execPark s
  | .parked => Sys2Proof.Machine.execParked s
  | .unpark => Sys2Proof.Machine.execUnpark s
  | .unparkDone => Sys2Proof.Machine.execUnparkDone s
  | .voltageAlarm => Sys2Proof.Machine.execVoltageAlarm s
  | .clockAlarm => Sys2Proof.Machine.execClockAlarm s
  | .lidAlarm => Sys2Proof.Machine.execLidAlarm s
  | .gcmSeal j p => Sys2Proof.Machine.execGcmSeal j p s
  | .gcmOpen j p => Sys2Proof.Machine.execGcmOpen j p s
  | .ctr j p => Sys2Proof.Machine.execCtr j p s
  | .cmac j p => Sys2Proof.Machine.execCmac j p s
  | .stream j p => Sys2Proof.Machine.execStream j p s
  | .ctxSave j p => Sys2Proof.Machine.execCtxSave j p s
  | .ctxRestore j p => Sys2Proof.Machine.execCtxRestore j p s
  | .derive j p => Sys2Proof.Machine.execDerive j p s
  | .erase j p => Sys2Proof.Machine.execErase j p s
  | .cmdQueueEntryFreed => Sys2Proof.Machine.execCmdQueueEntryFreed s
  | .sxuCipherRequest decrypt m => Sys2Proof.Machine.execSxuCipherRequest decrypt m s
  | .rootLoad owner v => Sys2Proof.Machine.execRootLoad owner v s
  | .rootClear owner v => Sys2Proof.Machine.execRootClear owner v s
  | .lidEnWrite v => Sys2Proof.Machine.execLidEnWrite v s
  | .openSession m => Sys2Proof.Machine.execOpenSession m s
  | .certGet m => Sys2Proof.Machine.execCertGet m s
  | .keyx m => Sys2Proof.Machine.execKeyx m s
  | .read m => Sys2Proof.Machine.execRead m s
  | .write m => Sys2Proof.Machine.execWrite m s
  | .eventAck m => Sys2Proof.Machine.execEventAck m s
  | .eventResend session => Sys2Proof.Machine.execEventResend session s
  | .keyLoad m => Sys2Proof.Machine.execKeyLoad m s
  | .fwWrite m => Sys2Proof.Machine.execFwWrite m s
  | .fwActivate m => Sys2Proof.Machine.execFwActivate m s
  | .fwCommit m => Sys2Proof.Machine.execFwCommit m s
  | .claim m => Sys2Proof.Machine.execClaim m s
  | .close m => Sys2Proof.Machine.execClose m s
  | .keepalive m => Sys2Proof.Machine.execKeepalive m s
  | .sessionIdleTimeout session => Sys2Proof.Machine.execSessionIdleTimeout session s
  | .tpmMeasExt owner v => Sys2Proof.Machine.execTpmMeasExt owner v s
  | .roceAckTimeout w => Sys2Proof.Machine.execRoceAckTimeout w s
  | .congestionNotification w => Sys2Proof.Machine.execCongestionNotification w s
  | .rateRestore w => Sys2Proof.Machine.execRateRestore w s
  | .ethFrameReceive port cls len fragment => Sys2Proof.Machine.execEthFrameReceive port cls len fragment s
  | .neighbourSolicitation target => Sys2Proof.Machine.execNeighbourSolicitation target s
  | .por => Sys2Proof.Machine.execPor s
  | .resetN low => Sys2Proof.Machine.execResetN low s
  | .computeReset => Sys2Proof.Machine.execComputeReset s
  | .fabricReset => Sys2Proof.Machine.execFabricReset s
  | .sxuReset => Sys2Proof.Machine.execSxuReset s
  | .cphReset => Sys2Proof.Machine.execCphReset s
  | .moduleReset => Sys2Proof.Machine.execModuleReset s
  | .glbFloeReset v => Sys2Proof.Machine.execGlbFloeReset v s
  | .resetComplete kind => Sys2Proof.Machine.execResetComplete kind s
  | .bootRom => Sys2Proof.Machine.execBootRom s
  | .startUpStage => Sys2Proof.Machine.execStartUpStage s
  | .neighbourCheckTimeout => Sys2Proof.Machine.execNeighbourCheckTimeout s
  | .boardFrameEnd bytes => Sys2Proof.Machine.execBoardFrameEnd bytes s
  | .blkCommitCommit win gen => Sys2Proof.Machine.execBlkCommitCommit win gen s
  | .blkCommitDiscard win gen => Sys2Proof.Machine.execBlkCommitDiscard win gen s
  | .commitApply win => Sys2Proof.Machine.execCommitApply win s
  | .statClr win gen => Sys2Proof.Machine.execStatClr win gen s
  | .evtTest win gen => Sys2Proof.Machine.execEvtTest win gen s
  | .morEnable v => Sys2Proof.Machine.execMorEnable v s
  | .readClear owner off => Sys2Proof.Machine.execReadClear owner off s
  | .registerWrite owner off v => Sys2Proof.Machine.execRegisterWrite owner off v s
  | .pwrgd high => Sys2Proof.Machine.execPwrgd high s
  | .ethLink port up => Sys2Proof.Machine.execEthLink port up s
  | .roceAck w err bytes => Sys2Proof.Machine.execRoceAck w err bytes s
  | .fruWrite addr v => Sys2Proof.Machine.execFruWrite addr v s
  | .testAccessPort opcode => Sys2Proof.Machine.execTestAccessPort opcode s

end Sys2Proof.Machine
end

