-- ==== Sys2Proof/Safety.lean ====
section
/-! DEFINITION. What a safe step is, and the canonical form of a state's sparse maps. -/

namespace Sys2Proof

/-- A step that stops at neither a fault nor a refusal. -/
def safeStep (s : Machine.State) : Bool :=
  match Machine.step s with
  | .next _ => true
  | .fault _ => false
  | .refused _ => false

namespace Machine

/-- Every sparse map of the state is in its canonical form: keys strictly rising, no entry equal to what an unlisted key reads as. Equal
contents are then equal data. -/
def State.canonical (s : State) : Bool :=
  Memory.wf s.mem && smWf regReset s.regs && smWf regReset s.shadow && smWf queueDefault s.queues && smWf engineDefault s.engines &&
    smSorted s.cores && smWf counterDefault s.counters && smWf linkDefault s.links && smWf sessDefault s.sess && smWf hostDefault s.hosts &&
    smWf gLiveDefault s.gLive && smWf (fun _ => ([] : List Nat)) s.roots && smWf slotDefault s.keySlots && smWf ctxDefault s.ctxs &&
    smWf sxPeerDefault s.sxPeers && smWf fruDefault s.fru && smWf flashDefault s.flash && smWf (fun _ => (0 : Nat)) s.ethRem &&
    smWf (fun _ => (0 : Nat)) s.ethBuf && smWf hartDefault s.harts && smWf storedDefault s.stored && smWf chanDefault s.chans && smWf bankDefault s.banks

/-- A state of order code o whose waiting commands are q and whose maps are canonical. -/
def State.Sound (o : Order) (q : List Instr) (s : State) : Prop := s.order = o ∧ s.pending = q ∧ s.canonical = true

end Machine

end Sys2Proof
end

