-- ==== Sys2Proof/WellFormed.lean ====
section
/-! DEFINITION. When a command is well formed: each operand lies in the range that its register, port, engine, slot or message field has. -/

namespace Sys2Proof

/-- Owner numbers of register agents (R299): hart id + 1 of a core, or 112 + s of a session. -/
def ownerOk (o : Nat) : Bool := (decide (1 ≤ o) && decide (o ≤ 110)) || (decide (112 ≤ o) && decide (o ≤ 127))
/-- R177, R566: a queue of this module. -/
def queueOk (q : Nat) : Bool := decide (q < 272)
def engineOk (e : Nat) : Bool := decide (e < 96)
def portOk (p : Nat) : Bool := decide (p < 8)
/-- R575: an aligned offset in the 16 MiB register space. -/
def offOk (o : Nat) : Bool := decide (o < 2 ^ 24) && o % 4 == 0
def winOk (w : Nat) : Bool := decide (w < 256)
def genOk (g : Nat) : Bool := decide (g < 65536)
/-- A queue's command, or a command of another module (18-bit module id, 16-bit tag). -/
def JobRef.wf : JobRef → Bool
  | .queue q n => queueOk q && decide (n < 2 ^ 32)
  | .remote src ctag => decide (src < 2 ^ 18) && decide (ctag < 65536)
/-- R318: field widths of a packet. -/
def Pkt.wf (p : Pkt) : Bool :=
  decide (p.op < 16) && decide (p.cls < 4) && decide (p.ttl < 256) && decide (p.dest < 2 ^ 18) && decide (p.src < 2 ^ 18) &&
  decide (p.rtag < 65536) && decide (p.ctag < 65536) && decide (p.status < 256) && decide (p.payload.length ≤ 8192)
/-- R422: field widths of an Acnis message. -/
def AMsg.wf (m : AMsg) : Bool :=
  decide (m.ver < 16) && decide (m.typ < 16) && decide (m.keyEpoch < 256) && decide (m.srcSite < 256) && decide (m.dstSite < 256) &&
  decide (m.stale < 4) && decide (m.exgroup < 4096) && decide (m.module < 2 ^ 18) && decide (m.item < 65536) && decide (m.len ≤ 8160) &&
  decide (m.body.length ≤ 8160) && (m.tag.length == 16 || m.tag.length == 0)
/-- R517: field widths of a control message. -/
def CMsg.wf (m : CMsg) : Bool :=
  decide (m.fromAddr < 2 ^ 128) && decide (m.fromPort < 65536) && decide (m.toPort < 65536) && decide (m.typ < 256) && decide (m.ver < 16) && decide (m.session < 16) &&
  decide (32 + m.body.length + m.tag.length ≤ 1232) && (!m.sealed || m.tag.length == 16)
def KAccess.wf (k : KAccess) : Bool := decide (k.addr < 2 ^ 64) && (k.kind == .store || k.bytes == [])

/-- A command whose operands are all in range. -/
def Instr.wf : Instr → Bool
  | .qTailWrite q _ | .queueEnable q _ | .resumeRetry q | .resumeSkip q | .commandAtHead q => queueOk q
  | .commandDispatch j | .waitTimeout j | .commandComplete j | .commandFail j => j.wf
  | .partComplete j _ | .partFail j _ | .reportTimeout j _ | .matmul j _
  | .elemwiseAdd j _ | .elemwiseSub j _ | .elemwiseMul j _ | .elemwiseDiv j _ | .elemwiseSqrt j _ | .elemwiseFma j _
  | .elemwiseMin j _ | .elemwiseMax j _ | .elemwiseMinnum j _ | .elemwiseMaxnum j _ | .cmpq j _ | .cmps j _ | .cvt j _
  | .cvtToInt j _ | .cvtFromInt j _ | .roundint j _ | .augAdd j _ | .augMul j _ | .classOf j _ | .copysign j _ | .neg j _ | .abs j _
  | .dmaCopyLocal j _ | .dmaCopyRemoteWrite j _ | .dmaCopyRemoteRead j _ | .dmaCopyHost j _ | .accumWriteLocal j _
  | .accumWriteRemote j _ | .fenceQueue j _ | .fenceIcache j _ | .firnSeal j _ | .firnRelearn j _ | .firnExport j _ | .firnImport j _
  | .firnDiscard j _ | .ingest j _ | .init j _ | .stepCommit j _ | .audit j _ | .retirementWaitMet j _ | .genTimeout j _
  | .t2TransferDone j _ | .tierTimeout j _ | .stepVote j _ | .allReduce j _ | .reduceScatter j _ | .allGather j _ | .allToAll j _
  | .broadcast j _ | .barrier j _ | .colTimeout j _ | .wait j _ | .ticket j _ | .signalAdd j _ | .fetchAdd j _ | .assign j _
  | .release j _ | .send j _ | .merge j _ | .thawExch j _ | .thawApply j _ | .joinSite j _ | .peerCtlIsolate j _
  | .peerCtlAbandon j _ | .gcmSeal j _ | .gcmOpen j _ | .ctr j _ | .cmac j _ | .stream j _ | .ctxSave j _ | .ctxRestore j _
  | .derive j _ | .erase j _ => j.wf
  | .cmd pk | .rpt pk | .voteUp pk | .voteDown pk | .join pk | .grant pk | .data pk | .abort pk | .sig pk | .fadd pk
  | .waitRegistration pk | .verdict pk | .wr pk | .acc pk | .rd pk | .rspAck pk | .rdata pk => pk.wf
  | .partReportTimer src ctag => decide (src < 2 ^ 18) && decide (ctag < 65536)
  | .pass e _ | .drainStreamResume e | .rampUpStageEnd e | .holdEnd e | .rampDownStageEnd e | .fenceEngine e _
  | .selftestStart e _ => engineOk e
  | .drain d => engineOk d.engine
  | .selftestEnd e f => engineOk e && f.all (fun p => decide (p.1 ≤ 128) && decide (p.2 ≤ 128))
  | .kernel j _ core => j.wf && decide (core < 108)
  | .kernelEcall core _ k | .kernelTimeout core k => decide (core < 108) && k.acc.all KAccess.wf
  | .kernelFault core _ _ _ l => decide (core < 108) && l.all KAccess.wf
  | .firnBlockWrite addr bytes => decide (addr + bytes.length ≤ 2 ^ 64)
  | .reEncodeStep region block => decide (region < 16) && decide (block < 2 ^ 27)
  | .firnInitDone region => decide (region < 16)
  | .hbmScrub ctl _ => decide (ctl < 8)
  | .storeScrub _ | .idleLogReplay | .updAdmit | .updAbort _ | .contextGranted | .synPreempt _ => true
  | .gEnginesRefresh g m live => decide (g < 64) && decide (m < 2 ^ 18) && decide (live < 2 ^ 32)
  | .counterWaitExpiry _ | .waiterBackstop _ | .registrationRetry _ => true
  | .mbxPost o m _ | .mbxLockRelease o m _ => ownerOk o && decide (m < 64)
  | .mbxReceive o m | .mbxLockAcquire o m => ownerOk o && decide (m < 64)
  | .mbxForce o off _ => ownerOk o && (off == 0x80 || off == 0x84)
  | .mbxHb o a _ => ownerOk o && decide (a < 128)
  | .codeword p seq _ lcw lanes flits =>
    portOk p && decide (seq < 4096) && decide (lcw < 2 ^ 20) && lanes.all (fun n => decide (n < 16)) && decide (flits.length ≤ 5) &&
    flits.all (fun f => decide (f.1 < 8) && decide (f.2.length ≤ 128))
  | .nak p seq | .ack p seq => portOk p && decide (seq < 4096)
  | .credit p vc flits => portOk p && decide (vc < 8) && decide (flits < 512)
  | .trainingAttempt p | .noCodeword p | .portEnable p _ | .retrain p => portOk p
  | .peer p m pp => portOk p && decide (m < 2 ^ 18) && decide (pp < 8)
  | .laneLockLoss p l => portOk p && decide (l < 16)
  | .route inp pk => inp.all portOk && pk.wf
  | .replyTimeout slot => decide (slot < 4096)
  | .poisonListExpiry src ctag => decide (src < 2 ^ 18) && decide (ctag < 65536)
  | .tfrQuiesce _ => true
  | .tableWrite o off _ => ownerOk o && offOk off
  | .roundOpen | .roundDeadline | .joinTimeout | .probePeriodic | .deltaSendStop | .joinReqRepeat | .snapSend | .snapDeadline => true
  | .thawTimeout p | .segmentTransmit p | .acnisRto p => decide (p < 16)
  | .probe m | .probeReply m | .delta m | .done m | .nack m | .acnisAck m | .thawDelta m | .thawDone m | .joinReq m | .joinGrant m
  | .snap m | .snapDone m | .leave m => m.wf
  | .ppsEdge _ | .ppsMissing | .ptpDelayResp _ _ _ _ | .ptpLock | .ptpLoss | .holdoverLimit => true
  | .ptpSync _ _ h => decide (h.domain < 256 ∧ -128 ≤ h.logInterval ∧ h.logInterval < 128)
  | .timerFire n => decide (n < 8)
  | .governorTick _ sensors | .thermCrit sensors => sensors.length == 16
  | .staggerEnd | .grantEffective | .grantLost | .coolantTimeout | .gridLossN _ | .park | .parked | .unpark | .unparkDone
  | .voltageAlarm | .clockAlarm | .lidAlarm | .status _ | .cmdQueueEntryFreed => true
  | .coolant b | .grid b | .boardFrameEnd b => decide (b.length ≤ 64)
  | .sxuCipherRequest _ m => m.wf
  | .rootLoad o _ | .rootClear o _ | .tpmMeasExt o _ => ownerOk o
  | .lidEnWrite _ | .glbFloeReset _ | .morEnable _ => true
  | .openSession m | .certGet m | .keyx m | .read m | .write m | .eventAck m | .keyLoad m | .fwWrite m | .fwActivate m | .fwCommit m
  | .claim m | .close m | .keepalive m => m.wf
  | .eventResend n | .sessionIdleTimeout n => decide (n < 16)
  | .roceAckTimeout w | .congestionNotification w | .rateRestore w => decide (w < 64)
  | .roceAck w _ _ => decide (w < 64)
  | .ethFrameReceive p _ _ _ => decide (p < 2)
  | .ethLink p _ => decide (p < 2)
  | .neighbourSolicitation t => decide (t < 2 ^ 128)
  | .por | .resetN _ | .computeReset | .fabricReset | .sxuReset | .cphReset | .moduleReset | .bootRom | .startUpStage
  | .neighbourCheckTimeout | .pwrgd _ | .testAccessPort _ => true
  | .resetComplete k => decide (k < 7)
  | .blkCommitCommit w g | .blkCommitDiscard w g | .statClr w g | .evtTest w g => winOk w && genOk g
  | .commitApply w => winOk w
  | .readClear o off => ownerOk o && offOk off
  | .registerWrite o off _ => ownerOk o && offOk off
  | .fruWrite a _ => decide (a < 2048)

end Sys2Proof
end

