-- ==== Sys2Proof/Certificates/Slice0/Obligations.lean ====
section
/-! DEFINITION. The statements for the provers. -/

open Sys2Proof Sys2Proof.Machine

/-- Q_TAIL, Q_CFG and RESUME written (R179, R180, R185): the queue changes as stated and nothing else does (SKIP also marks the record SKIPPED). It rests also on the model's own choices of log entry 22. -/
def Obligations.queue_registers : Prop :=
  (∀ (q : Nat) (v : Word) (s : State), q < 272 → (v - (getQ s q).done).toNat ≤ ringSlots (getQ s q) →
    exec (.qTailWrite q v) s = .next (putQ s q { getQ s q with tail := v })) ∧
  (∀ (q : Nat) (v : Word) (s : State), q < 272 → (getQ s q).enable = false → wbit v 31 = true → 3 ≤ stage s → 4 ≤ wbits v 19 16 →
    wbits v 19 16 ≤ 12 →
    exec (.queueEnable q v) s = .next (putQ s q { base := (getQ s q).base, prog := (getQ s q).prog, enable := true, log2 := wbits v 19 16, compCtr := wbits v 15 0, st := .active })) ∧
  (∀ (q : Nat) (v : Word) (s : State), q < 272 → (getQ s q).enable = true → wbit v 31 = false → (queueIdle s q || (getQ s q).st == .stopped) = true →
    exec (.queueEnable q v) s = .next (putQ s q { getQ s q with enable := false, st := .disabled, err := 0, failedAt := none, stopErr := 0 })) ∧
  (∀ (q : Nat) (f : Word) (s : State), (getQ s q).st = .stopped → (getQ s q).failedAt = some f →
    exec (.resumeRetry q) s =
      .next (putQ s q { getQ s q with st := .active, head := f, err := 0, headCmd := none, failedAt := none, stopErr := 0 })) ∧
  (∀ (q : Nat) (f : Word) (s : State), (getQ s q).st = .stopped → (getQ s q).failedAt = some f → rangeMapped s.order (progAddr s q f.toNat) 16 = true →
    exec (.resumeSkip q) s =
      .next (putQ (storeNoted s (.core (qHart q)) (progAddr s q f.toNat + 4) (le32 0x60000000) (qFloe s q) (some (qCmd s q f))) q
        { getQ s q with st := .active, head := f + 1, done := f + 1, err := 0, headCmd := none, failedAt := none, stopErr := 0 }))

/-- COMMAND_AT_HEAD (R172, R173) of a command that every check passes: the words it reads are read (R200), and the head holds the command as read, its waits met where it enables none or where its waits are evaluated elsewhere; nothing else changes. It rests also on the model's own choices of log entries 14, 15, 19, 80. -/
def Obligations.command_head : Prop :=
  ∀ (q : Nat) (s : State), (getQ s q).st = .active → (getQ s q).stopErr = 0 → (getQ s q).failedAt = none → (getQ s q).headCmd = none →
    (getQ s q).head ≠ (getQ s q).tail → unparked s = true → progWaits s (.queue q (getQ s q).head.toNat) = false →
    ∀ sa, sa = slotAddr (getQ s q) (getQ s q).head → rangeMapped s.order sa 64 = true →
    rangeMapped s.order (progAddr s q (getQ s q).head.toNat) 16 = true →
    ∀ d, d = rdBytes s sa 64 → ∀ a, a = headArgs s d →
    ∀ own, own = [(sa, 64)] ++ (if a = [] then [] else [(dArgPtr d, argSize (dFam d) (dVar d))]) →
    anyBusy s (own ++ descReads s d a) = false →
    ((own.findSome? (fun r => badIn s r.1 r.2)).or (progBad s q (getQ s q).head.toNat)).or (descBad s d a) = none →
    ∀ u, u = noteDescs (noteReads s (.core (qHart q)) own) (.core (qHart q)) d a → headChecks u q d a (waitsHere u d) = none →
    (waitsHere u d = false ∨ (dW0 d = false ∧ dW1 d = false ∧ dNotBefore d ≤ siteNow u)) →
    exec (.commandAtHead q) s = .next (putQ u q { getQ s q with headCmd := some ⟨d, a, u.clock, .met, .met⟩ })

/-- COMMAND_DISPATCH, and PART_COMPLETE, PART_FAIL, COMMAND_COMPLETE and COMMAND_FAIL: R29, R31, R173–R175, R187, R252, R294. It rests also on the model's own choices of log entries 11, 18, 20. -/
def Obligations.command_parts_and_end : Prop :=
  (∀ (q n : Nat) (s : State) (h : Head) (g : Option (Nat × Nat)), (getQ s q).headCmd = some h → (getQ s q).head.toNat = n → (getQ s q).st = .active →
    (getQ s q).stopErr = 0 → (getQ s q).failedAt = none → mayDispatch s q h.desc = true → moduleRuns s = true → colHolds s h.desc h.args = false →
    progWaits s (.queue q n) = false → anyBusy s (descReads s h.desc h.args) = false → queueFenced s q = false → fencedOut s h.desc h.args = false →
    (waitsHere s h.desc = true → waitsMet h.w0 h.w1 = true ∧ timePassed s h.desc = true) → descBad s h.desc h.args = none →
    (if waitsHere s h.desc then genResolve s h.desc h.args else .ok none) = .ok g →
    ∀ t, t = newTag (noteDescs s (.core (qHart q)) h.desc h.args) →
    ∀ v, v = takeVote t.2 (makeJob t.2 (.queue q n) h.desc h.args h.arrived t.1 g) → ∀ j, j = v.1 →
    exec (.commandDispatch (.queue q n)) s = .next (cphArrive (startParts (progressOf (putQ { v.2 with jobs := v.2.jobs ++ [j] } q
      { getQ s q with head := (getQ s q).head + 1, headCmd := none }) j prRUNNING 0) j.ref) j.ref)) ∧
  (∀ (q n : Nat) (s : State) (h : Head), (getQ s q).headCmd = some h → (getQ s q).head.toNat = n → waitErr h.w0 h.w1 ≠ 0 →
    exec (.waitTimeout (.queue q n)) s = .next (failCommand s q (w32 n) (waitErr h.w0 h.w1))) ∧
  (∀ (src ctag : Nat) (s : State) (j : Job), getJob s (.remote src ctag) = some j → j.st = .held → waitErr j.w0 j.w1 ≠ 0 →
    exec (.waitTimeout (.remote src ctag)) s = .next
      (putJob (withdraw s (fun w => match w with | .job a b _ => a == src && b == ctag | _ => false)) { j with st := .failed (waitErr j.w0 j.w1) })) ∧
  (∀ (q n : Nat) (s : State) (j : Job), getJob s (.queue q n) = some j → j.st = .worked → (getQ s q).done.toNat = n → canSignal s j = true → progWaits s j.ref = false → progBad s q n = none →
    ∀ v, v = sendDescSignal (sendDescSignal (dropJob (journalCommit (releaseReader s j) j (some q)) j.ref) j q (w32 n) 0) j q (w32 n) 1 →
    ∀ u, u = writeProgress (raiseHere v (getQ s q).compCtr 1 (orderedSignal v j (myId v))) q n prCOMPLETE 0 (doneUnits j) (doneUnits j) →
    exec (.commandComplete (.queue q n)) s = .next (settleQueue (putQ u q { getQ u q with done := (getQ u q).done + 1 }) q)) ∧
  (∀ (src ctag : Nat) (s : State) (j : Job), getJob s (.remote src ctag) = some j → j.st = .worked → (src = myId s ∨ canRequest s = true) →
    ∀ t, t = journalCommit (releaseReader s j) j none →
    exec (.commandComplete (.remote src ctag)) s = .next
      (reportBack (dropJob t j.ref) src ctag 0 (doneUnits j) (doneUnits j) true j.flags (writesOn t j))) ∧
  (∀ (q n e : Nat) (s : State) (j : Job), getJob s (.queue q n) = some j → j.st = .failed e → (getQ s q).failedAt = none →
    exec (.commandFail (.queue q n)) s = .next (failCommand s q (w32 n) e)) ∧
  (∀ (src ctag e : Nat) (s : State) (j : Job), getJob s (.remote src ctag) = some j → j.st = .failed e → (src = myId s ∨ canRequest s = true) →
    exec (.commandFail (.remote src ctag)) s = .next (reportBack (dropJob s j.ref) src ctag e (jobRetired j) (jobCommitted j) true j.flags [])) ∧
  (∀ (r : JobRef) (p : Nat) (s : State) (j : Job) (x : Part), getJob s r = some j → getPart j p = some x → x.st = .worked →
    exec (.partComplete r p) s = .next (closeJob (putJob s (setPart j p { x with st := .done })) r)) ∧
  (∀ (r : JobRef) (p e : Nat) (s : State) (j : Job) (x : Part), getJob s r = some j → getPart j p = some x → x.st = .faulted e → j.firstErr = 0 →
    ∀ k, k = setPart j p { x with st := .failed e } → exec (.partFail r p) s = .next (closeJob (putJob s
      { k with firstErr := e, parts := k.parts.map (fun y => if y.away && y.cursor == 0 then { y with st := .failed e } else y) }) r))

/-- CMD, RPT, PART_REPORT_TIMER and REPORT_TIMEOUT (R172, R618). It rests also on the model's own choices of log entries 17, 21. -/
def Obligations.served_commands : Prop :=
  (∀ (pk : Pkt) (s t : State), fromEjection s opCMD pk = some t → anyBusy s (descReads s (pk.payload.take 64) (pk.payload.drop 64)) = false →
    pk.poisoned = false → cmdHeld t = false → getJob t (.remote pk.src pk.ctag) = none →
    exec (.cmd pk) s = .next (reply (serveCmd (wake t) pk) pk stOK)) ∧
  (∀ (pk : Pkt) (s t : State), fromEjection s opCMD pk = some t → anyBusy s (descReads s (pk.payload.take 64) (pk.payload.drop 64)) = false →
    pk.poisoned = false → cmdHeld t = false → (getJob t (.remote pk.src pk.ctag)).isSome = true →
    exec (.cmd pk) s = .next (reply t pk stOK)) ∧
  (∀ (pk : Pkt) (s t : State) (j : Job) (i : Nat) (x : Part), fromEjection s opRPT pk = some t → pk.poisoned = false → cmdHeld t = false → pk.aux = [1, 0] → reportedPart t pk.src pk.ctag = some (j, i, x) →
    isKernel j.desc j.args = false → leAt pk.payload 0 4 = 0 →
    exec (.rpt pk) s = .next (reply (markWorked (runProgress (putJob t (setPart j i
      { x with retired := leAt pk.payload 4 4, committed := leAt pk.payload 8 4, lastReport := t.clock })) j.ref) j.ref i) pk stOK)) ∧
  (∀ (src ctag : Nat) (s : State) (j : Job), getJob s (.remote src ctag) = some j → (j.st = .running ∨ j.st = .held) → j.lastSent + rtoNs s / 2 ≤ s.clock →
    (src = myId s ∨ canRequest s = true) →
    exec (.partReportTimer src ctag) s = .next (reportBack (putJob s { j with lastSent := s.clock }) src ctag 0 (jobRetired j) (jobCommitted j) false 0 [])) ∧
  (∀ (r : JobRef) (p : Nat) (s : State) (j : Job) (x : Part), getJob s r = some j → getPart j p = some x → j.st = .running → x.away = true → x.cursor = 1 →
    x.st = .sent → partModule s x ≠ myId s → x.lastReport + rtoNs s ≤ s.clock →
    exec (.reportTimeout r p) s = .next (markFaulted (reportErr s winTfr eREPLY_TIMEOUT (objOf 4 (partModule s x * 2 ^ 32 + j.tag)) (some (jobCmd s r))
      [j.tag, opCMD * 2 ^ 28 + partModule s x, 0, 0]) r p eREPLY_TIMEOUT))

/-- MATMUL, PASS, DRAIN and DRAIN_STREAM_RESUME (R89–R91, R107, R108, R121, R130, R132, R143). It rests also on the model's own choices of log entries 23, 24, 82. -/
def Obligations.matmul_part : Prop :=
  (∀ (r : JobRef) (p : Nat) (s : State) (j : Job) (x : Part), freshOf s r p 1 0 = some (j, x) → partBlocks s j.args x ≠ [] →
    ∀ e, e = floeEngine (floeOf x.floe) →
    exec (.matmul r p) s = .next (putE (putJob s (setPart j p { x with st := .busy })) e
      { getE s e with loads := (getE s e).loads ++ [⟨r, p, sourceOfPart r e, 0⟩] })) ∧
  (∀ (e : Nat) (s : State) (y : EngBlk) (j : Job) (x : Part) (b : OutBlk), (getE s e).blks.find? (unissued s) = some y → blkOf s y = some (j, x, b) →
    passBad s j.args b y.issued = none →
    ∀ v, v = noteFetches (issueVector s e) e (passReads j.args b y.issued) → ∀ u, u = (if v.gov.f < 64 then { v with gov := { v.gov with denied := true } } else v) →
    ∀ acc, acc = passAcc u j.args b y.issued y.acc →
    issueNext s e = putBlk (rinc64 (rinc64 u (eReg e oENG_PASS_LO) 1) (eReg e oENG_BUSY_LO) (passVectors j.args (partMode u j.args x) b y.issued)) e
      { y with issued := y.issued + 1, acc := acc, flight := y.flight ++ [if y.chkEn then passChecks u y.tol j.args b y.issued y.acc acc else {}] }) ∧
  (∀ (e : Nat) (s u : State) (y : EngBlk) (j : Job) (x : Part) (b : OutBlk) (c : PassRes) (t : List PassRes), testing s e = false →
    issuePasses 4 (pruneEngine s e) e = u → (getE u e).blks.find? (fun y => y.flight != []) = some y → y.flight = c :: t →
    blkOf u y = some (j, x, b) → c.bad = none →
    exec (.pass e .clean) s = .next (settleEngine (issuePasses 4 (putBlk (rinc u (eReg e oENG_CHK_SKIP) (c.skipR.length + c.skipC.length)) e { y with flight := t }) e) e)) ∧
  (∀ (e i : Nat) (s u : State) (y : EngBlk) (j : Job) (x : Part) (b : OutBlk) (c : PassRes) (t : List PassRes), testing s e = false →
    issuePasses 4 (pruneEngine s e) e = u → (getE u e).blks.find? (fun y => y.flight != []) = some y → y.flight = c :: t →
    blkOf u y = some (j, x, b) → y.chkEn = true → c.skipR.contains i = false → y.runs = 0 →
    ∀ v, v = rinc u (eReg e oENG_CHK_SKIP) (c.skipR.length + c.skipC.length) →
    exec (.pass e (.rowCheck i)) s = .next (settleEngine (issuePasses 4 (rinc (putE v e { getE v e with
      blks := (getE v e).blks.filter (fun z => !z.same y) ++ [{ y with issued := 0, flight := [], acc := clearAcc b, runs := 1 }] }) (eReg e oENG_CHK_RETRY) 1) e) e)) ∧
  (∀ (e : Nat) (s u : State) (y : EngBlk) (j : Job) (b : OutBlk), pruneEngine s e = u → drainReady u e = some (y, j, b) → drainBad u j b = none →
    ∀ v, v = noteReads u (.engine e) (drainReads j b) →
    ∀ q, q = effEngineTiles y ((tilesOf j.args b).map (·.no)) → ∀ d, d = drainBlk v j b y.acc →
    ∀ cs, cs = (tilesOf j.args b).map (tileCtx v j d q) → (∀ c ∈ cs, c.over (kept v j.extra) = false) →
    exec (.drain ⟨e, none⟩) s = .next (releaseBlock v e y j b d cs q)) ∧
  (∀ (e : Nat) (s u : State) (w : OutWrite) (j : Job) (x : Part), pruneEngine s e = u → (getE u e).outBuf = [w] → partLive u w.job w.part = some (j, x) →
    canStream u j w.bytes.length = true →
    exec (.drainStreamResume e) s = .next (settleEngine (request (putE u e { getE u e with outBuf := [] })
      { op := opWR, dest := neighbour u (ddPort j.extra), addr := w64 w.addr, ctag := j.tag, payload := w.bytes, via := some (ddPort j.extra) }
      (.stream w.job w.part w.tile)) e))

/-- RAMP_UP_STAGE_END, HOLD_END, RAMP_DOWN_STAGE_END, FENCE_ENGINE, SELFTEST_START and SELFTEST_END (R100, R101, R111, R113). It rests also on the model's own choices of log entries 23, 81. -/
def Obligations.engine_activity : Prop :=
  (∀ (e : Nat) (s : State), (getE s e).act = .rampUp → (getE s e).stage < 2 →
    ∀ n, n = upStage (rampLen s e) (getE s e).stage →
    exec (.rampUpStageEnd e) s = .next (putE (rinc64 s (eReg e oENG_RAMPLOSS_LO) (n.1 - cdiv n.1 n.2)) e { getE s e with stage := (getE s e).stage + 1 })) ∧
  (∀ (e : Nat) (s : State), (getE s e).act = .rampUp → 2 ≤ (getE s e).stage →
    ∀ n, n = upStage (rampLen s e) (getE s e).stage →
    ∀ u, u = putE (rinc64 s (eReg e oENG_RAMPLOSS_LO) (n.1 - cdiv n.1 n.2)) e { getE s e with act := .active, stage := 0 } →
    exec (.rampUpStageEnd e) s = .next (if vectorsGoOn u e then u else nothingToIssue u e)) ∧
  (∀ (e : Nat) (s : State), (getE s e).act = .hold →
    exec (.holdEnd e) s = .next (putE s e (if rampLen s e = 0 then { getE s e with act := .idle } else { getE s e with act := .rampDown, stage := 0 }))) ∧
  (∀ (e : Nat) (s : State), (getE s e).act = .rampDown → (getE s e).stage < 2 →
    exec (.rampDownStageEnd e) s = .next (putE s e { getE s e with stage := (getE s e).stage + 1 })) ∧
  (∀ (e : Nat) (s : State), (getE s e).act = .rampDown → 2 ≤ (getE s e).stage →
    exec (.rampDownStageEnd e) s = .next (putE s e { getE s e with act := .idle, stage := 0 })) ∧
  (∀ (e : Nat) (v : Word) (s : State), e < 96 → commitPending s (winEng e) = false → (getE s e).act ≠ .selftest →
    ∀ u, u = rputBit s (eReg e oENG_CTRL) 3 (wbit v 3) →
    exec (.fenceEngine e v) s = .next (setFence (putE (shPut u (eReg e oENG_CTRL) (wput (shGet s (eReg e oENG_CTRL)) 2 2 (wbits v 2 2))) e { getE s e with unfence := false }) e (wbit v 0))) ∧
  (∀ (e : Nat) (v : Word) (s : State), e < 96 → wbit v 31 = true → fenced s e = true → (getE s e).act = .idle →
    exec (.selftestStart e v) s = .next (refreshEng (rputBit (putE s e { getE s e with act := .selftest }) (eReg e oENG_SELFTEST) 0 true) e)) ∧
  (∀ (e : Nat) (s : State), (getE s e).act = .selftest → (getE s e).unfence = false →
    exec (.selftestEnd e none) s = .next (refreshEng (putE (rputF (rputBit s (eReg e oENG_SELFTEST) 0 false) (eReg e oENG_SELFTEST) 3 2 1) e { getE s e with act := .idle, unfence := false }) e))

/-- The rows of ELEMWISE (R168, R182) and KERNEL (R154, R169, R170). It rests also on the model's own choices of log entries 28, 30, 83, 84. -/
def Obligations.elemwise_and_kernel : Prop :=
  (∀ c ∈ ([(.elemwiseAdd, 1, ewAdd), (.elemwiseSub, 2, ewSub), (.elemwiseMul, 3, ewMul), (.elemwiseDiv, 4, ewDiv), (.elemwiseSqrt, 5, ewSqrt), (.elemwiseFma, 6, ewFma), (.elemwiseMin, 8, ewMin), (.elemwiseMax, 9, ewMax), (.elemwiseMinnum, 10, ewMinnum), (.elemwiseMaxnum, 11, ewMaxnum), (.cmpq, 12, ewCmpq), (.cmps, 13, ewCmps), (.cvt, 16, ewCvt), (.cvtToInt, 17, ewToInt), (.cvtFromInt, 18, ewFromInt), (.roundint, 19, ewRoundint), (.augAdd, 24, ewAugAdd), (.augMul, 25, ewAugMul), (.classOf, 26, ewClass), (.copysign, 27, ewCopysign), (.neg, 28, ewNeg), (.abs, 29, ewAbs)] :
      List ((JobRef → Nat → Instr) × Nat × (State → List Byte → Nat → EwRes))),
    ∀ (r : JobRef) (p : Nat) (s : State) (j : Job) (x : Part), freshOf s r p 2 0 = some (j, x) → ewOp j.args = c.2.1 → coreTurn s r p x.floe = true →
    ∀ q, q = runUnits r (coreOf x.floe) j.args c.2.1 c.2.2 ((List.range (x.hi - x.lo)).map (x.lo + ·)) s → q.2 = none →
    exec (c.1 r p) s = .next (markWorked (runProgress q.1 r) r p)) ∧
  (∀ (r : JobRef) (p c : Nat) (s : State) (j : Job) (x : Part), freshOf s r p 2 0 = some (j, x) → ewOp j.args = 0x3F → coreOf x.floe = c → coreTurn s r p x.floe = true → getCore s c = none → kRunLimit j.args ≠ 0 →
    exec (.kernel r p c) s = .next (putCore (putJob s (setPart j p { x with st := .busy })) c { job := r, part := p, pc := w64 (kPc j.args), a0 := w64 (kArg j.args), a1 := p, a2 := j.parts.length, a3 := w64 (ewCount j.args), started := s.clock })) ∧
  (∀ (c : Nat) (pc : DWord) (k : CoreRun) (ks : List KAccess) (s t : State) (j : Job) (x : Part), getCore s c = some k → ks.any (fun a => firnBusy s a.addr (accSize a)) = false → kernelAccesses c ks s = (t, .all) →
    partLive (trapCore t c causeUEcall pc 0) k.job k.part = some (j, x) →
    exec (.kernelEcall c 0 ⟨pc, ks⟩) s = .next (markWorked (runProgress (unitRetired (trapCore t c causeUEcall pc 0) k.job x.lo) k.job) k.job k.part)) ∧
  (∀ (c : Nat) (pc a7 : DWord) (k : CoreRun) (ks : List KAccess) (s t : State), getCore s c = some k → ks.any (fun a => firnBusy s a.addr (accSize a)) = false → kernelAccesses c ks s = (t, .all) → a7 ≠ 0 →
    exec (.kernelEcall c a7 ⟨pc, ks⟩) s = .next (kernelFails (trapCore t c 8 pc 0) c k eKERNEL_FAULT 8 pc.toNat 0)) ∧
  (∀ (c : Nat) (mc me mt : DWord) (k : CoreRun) (ks : List KAccess) (s t : State), getCore s c = some k → ks.any (fun a => firnBusy s a.addr (accSize a)) = false → kernelAccesses c ks s = (t, .all) →
    exec (.kernelFault c mc me mt ks) s = .next (kernelFails (trapCore t c mc me mt) c k eKERNEL_FAULT (mc.toNat % 2 ^ 32) me.toNat mt.toNat)) ∧
  (∀ (c : Nat) (pc : DWord) (k : CoreRun) (ks : List KAccess) (a : KAccess) (s t : State), getCore s c = some k →
    ks.any (fun a => firnBusy s a.addr (accSize a)) = false → kernelAccesses c ks s = (t, .access a) →
    exec (.kernelEcall c 0 ⟨pc, ks⟩) s = .next (kernelTraps t c k (accessCause a.kind) a.pc (w64 a.addr))) ∧
  (∀ (c : Nat) (pc : DWord) (k : CoreRun) (ks : List KAccess) (s t : State), getCore s c = some k → ks.any (fun a => firnBusy s a.addr (accSize a)) = false → kernelAccesses c ks s = (t, .all) → k.started + kernelLimit s k ≤ s.clock →
    exec (.kernelTimeout c ⟨pc, ks⟩) s = .next (kernelFails (putHart (freeCore t c) c { getHart t c with mode := .m, mepc := pc }) c k
      eKERNEL_TIMEOUT 0xFFFFFFFF pc.toNat (getHart t c).mtval.toNat))

/-- DMA_COPY variants 0 to 3 and ACCUM_WRITE variants 0 and 1 (R171, R204, R205, R534). It rests also on the model's own choices of log entries 31, 78. -/
def Obligations.copy_part : Prop :=
  (∀ (r : JobRef) (p : Nat) (s : State) (j : Job) (x : Part), freshOf s r p 3 0 = some (j, x) →
    ∀ q, q = localUnits false r x.floe j.args (partUnits x) s → q.2 = none →
    exec (.dmaCopyLocal r p) s = .next (markWorked (runProgress q.1 r) r p)) ∧
  (∀ (r : JobRef) (p : Nat) (s : State) (j : Job) (x : Part), freshOf s r p 4 0 = some (j, x) →
    ∀ q, q = localUnits true r x.floe j.args (partUnits x) s → q.2 = none →
    exec (.accumWriteLocal r p) s = .next (markWorked (runProgress q.1 r) r p)) ∧
  (∀ (r : JobRef) (p : Nat) (s : State) (j : Job) (x : Part), freshOf s r p 3 1 = some (j, x) →
    exec (.dmaCopyRemoteWrite r p) s = .next (issueUnits (x.hi - x.lo) s r p)) ∧
  (∀ (r : JobRef) (p : Nat) (s : State) (j : Job) (x : Part), freshOf s r p 3 2 = some (j, x) →
    exec (.dmaCopyRemoteRead r p) s = .next (issueUnits (x.hi - x.lo) s r p)) ∧
  (∀ (r : JobRef) (p : Nat) (s : State) (j : Job) (x : Part), freshOf s r p 4 1 = some (j, x) →
    exec (.accumWriteRemote r p) s = .next (issueUnits (x.hi - x.lo) s r p)) ∧
  (∀ (r : JobRef) (p : Nat) (s : State) (j : Job) (x : Part), freshOf s r p 3 3 = some (j, x) →
    exec (.dmaCopyHost r p) s = .next (issueHost (x.hi - x.lo) s r p)) ∧
  (∀ (r : JobRef) (p : Nat) (s : State) (j : Job) (x : Part), freshOf s r p 0xB 0 = some (j, x) → exec (.fenceQueue r p) s = .next (markWorked s r p)) ∧
  (∀ (r : JobRef) (p : Nat) (s : State) (j : Job) (x : Part), freshOf s r p 0xB 1 = some (j, x) → exec (.fenceIcache r p) s = .next (markWorked (dropLines s x.floe) r p))

/-- The rows of FIRN (R219–R221) and the events of the codec (R202, R203, R209, R210, R212). It rests also on the model's own choices of log entries 32, 77. -/
def Obligations.firn_rows : Prop :=
  (∀ (r : JobRef) (p k : Nat) (s : State) (j : Job) (x : Part), freshOf s r p 0xC 0 = some (j, x) → fpDomains j.args ≠ 0 → frBusy s (fpRegion s j.args) = false →
    ∀ u, u = packFrom r 0 (fpRegion s j.args) j.args (List.range (fpDomains j.args)) s 64 → u.2 = .ok k →
    exec (.firnSeal r p) s = .next (markWorked (runProgress u.1 r) r p)) ∧
  (∀ (r : JobRef) (p k : Nat) (s : State) (j : Job) (x : Part), freshOf s r p 0xC 1 = some (j, x) → fpDomains j.args ≠ 0 → frBusy s (fpRegion s j.args) = false →
    ∀ u, u = packFrom r 1 (fpRegion s j.args) j.args (List.range (fpDomains j.args)) s 64 → u.2 = .ok k →
    exec (.firnRelearn r p) s = .next (markWorked (runProgress u.1 r) r p)) ∧
  (∀ (r : JobRef) (p k : Nat) (s : State) (j : Job) (x : Part), freshOf s r p 0xC 2 = some (j, x) → fpDomains j.args ≠ 0 → frBusy s (fpRegion s j.args) = false → 64 ≤ fpImageLen j.args →
    ∀ u, u = packFrom r 2 (fpRegion s j.args) j.args (List.range (fpDomains j.args)) s 64 → u.2 = .ok k →
    ∀ v, v = storeBytes u.1 packSource (fpImage j.args) (imageHeader u.1 (fpRegion s j.args) j.args k) → v.2 = none →
    exec (.firnExport r p) s = .next (markWorked (runProgress v.1 r) r p)) ∧
  (∀ (r : JobRef) (p k : Nat) (s : State) (j : Job) (x : Part), freshOf s r p 0xC 3 = some (j, x) → fpDomains j.args ≠ 0 → frBusy s (fpRegion s j.args) = false → headerOk s (fpRegion s j.args) j.args = true →
    badIn s (fpImage j.args) 64 = none →
    ∀ u, u = packFrom r 3 (fpRegion s j.args) j.args (List.range (fpDomains j.args)) (noteRead s packSource (fpImage j.args) 64) 64 → u.2 = .ok k →
    exec (.firnImport r p) s = .next (markWorked (runProgress u.1 r) r p)) ∧
  (∀ (r : JobRef) (p k : Nat) (s : State) (j : Job) (x : Part), freshOf s r p 0xC 4 = some (j, x) → fpDomains j.args ≠ 0 → frBusy s (fpRegion s j.args) = false →
    ∀ u, u = packFrom r 4 (fpRegion s j.args) j.args (List.range (fpDomains j.args)) s 64 → u.2 = .ok k →
    exec (.firnDiscard r p) s = .next (markWorked (runProgress u.1 r) r p)) ∧
  (∀ c ∈ ([(.firnSeal, 0), (.firnRelearn, 1), (.firnExport, 2), (.firnImport, 3), (.firnDiscard, 4)] : List ((JobRef → Nat → Instr) × Nat)), ∀ (r : JobRef) (p : Nat) (s : State) (j : Job) (x : Part),
    freshOf s r p 0xC c.2 = some (j, x) → fpDomains j.args = 0 →
    (c.2 = 3 → badIn s (fpImage j.args) 64 = none ∧ headerOk s (fpRegion s j.args) j.args = true) → exec (c.1 r p) s = .next (markWorked (runProgress s r) r p)) ∧
  (∀ (a : Nat) (bs : List Byte) (s t : State), firnTouches s a bs.length = true → rangeMapped s.order a bs.length = true → firnBusy s a bs.length = false →
    storeBytes s packSource a bs = (t, none) → exec (.firnBlockWrite a bs) s = .next t) ∧
  (∀ (n : Nat) (s : State), frEnabled s n = true → frBusy s n = true → exec (.firnInitDone n) s = .next (initRegion s n)) ∧
  (∀ (k : Nat) (h : ScrubHit) (s : State), rbit s (wreg (winMem k) oMEM_CTRL) 0 = true → winPresent s.order (winMem k) = true → inHbm s.order h.addr = true →
    hbmCtl s.order h.addr = k → h.correctable = true → h.found = true → exec (.hbmScrub k [h]) s = .next (corrected (scrubAt s (codeWord s.order h.addr)) (codeWord s.order h.addr))) ∧
  (∀ (k : Nat) (h : ScrubHit) (s : State), rbit s (wreg (winMem k) oMEM_CTRL) 0 = true → winPresent s.order (winMem k) = true → inHbm s.order h.addr = true →
    hbmCtl s.order h.addr = k → h.correctable = false → h.found = true → ∀ w, w = codeWord s.order h.addr → ∀ u, u = scrubAt s w →
    exec (.hbmScrub k [h]) s = .next (reportUe { u with badWords := u.badWords.filter (fun p => p.word != w) ++ [⟨w, h.cellsFailed, h.onDie⟩], weak := u.weak.filter (· != w) } w 0 none)) ∧
  (∀ (h : ScrubHit) (s : State), (inCstore h.addr || inEstore h.addr) = true → h.correctable = true → h.found = true →
    exec (.storeScrub [h]) s = .next (corrected (scrubAt s (codeWord s.order h.addr)) (codeWord s.order h.addr)))

/-- RE_ENCODE_STEP (R214): only the block's map entry (R212) changes in memory. It rests also on the model's own choices of log entry 32. -/
def Obligations.re_encode_keeps_content : Prop :=
  ∀ (n b : Nat) (s : State), frEnabled s n = true → frBusy s n = false → 4096 * b < frLen s n → domCoded s n (b / 64) = true → mapIsRaw (mapOf s n b) = true →
    badIn s (blockAddr s n b) 4096 = none →
    ∀ u, u = correctWhere s (fetches s (blockAddr s n b) 4096) →
    ∃ t, exec (.reEncodeStep n b) s = .next t ∧ ∀ x, (x < mapEntry u n b ∨ mapEntry u n b + 2 ≤ x) → rdByte t x = rdByte u x

/-- UPD's rows: R235, R242, R250, R253, R255, R257, R262, R383, R384, R394. It rests also on the model's own choices of log entries 33, 34. -/
def Obligations.upd_rows : Prop :=
  (∀ (r : JobRef) (p : Nat) (s : State) (j : Job) (x : Part), freshOf s r p 0x6 0 = some (j, x) → commitPending s winUpd = false → s.updRuns = [] →
    exec (.ingest r p) s = .next (beginRun (setPartSt { s with updRuns := [⟨r, p, true, List.replicate (uCount j.args) {}, 0, false⟩] } r p .busy) r)) ∧
  (∀ (r : JobRef) (p : Nat) (s : State) (j : Job) (x : Part), freshOf s r p 0x6 1 = some (j, x) → commitPending s winUpd = false → s.updRuns = [] →
    exec (.init r p) s = .next (beginRun (setPartSt { s with updRuns := [⟨r, p, true, List.replicate (uCount j.args) {}, 0, false⟩] } r p .busy) r)) ∧
  (∀ (r : JobRef) (p : Nat) (s : State) (j : Job) (x : Part), freshOf s r p 0x8 0 = some (j, x) → commitPending s winUpd = false → s.updRuns = [] →
    exec (.stepCommit r p) s = .next (beginRun (setPartSt { s with updRuns := [⟨r, p, true, List.replicate (uCount j.args) {}, 0, false⟩] } r p .busy) r)) ∧
  (∀ (r : JobRef) (p : Nat) (s : State) (j : Job) (x : Part), freshOf s r p 0xD 0 = some (j, x) → commitPending s winUpd = false → s.updRuns = [] →
    exec (.audit r p) s = .next (beginRun (setPartSt { s with updRuns := [⟨r, p, true, List.replicate (uCount j.args) {}, 0, false⟩] } r p .busy) r)) ∧
  (∀ (s : State) (r : UpdRun), (admittedRuns s).length < 4 → commitPending s winUpd = false → s.updRuns.find? (fun r => !r.admitted) = some r →
    exec .updAdmit s = .next (beginRun (putRun s { r with admitted := true }) r.job)) ∧
  (∀ (v : Word) (s : State), wbit v 0 = true → exec (.updAbort v) s = .next (setVote s vfABORT_REQ)) ∧
  (∀ (s : State) (l : LogEntry) (ls : List LogEntry), commitPending s winUpd = true → admittedRuns s = [] → s.updLog = l :: ls →
    exec .idleLogReplay s = .next (refreshUpd (replayEntry1 s l))) ∧
  (∀ (r : JobRef) (k : Nat) (s : State) (j : Job) (u : UpdRun) (x : UpdGrp), runGrp s r k = some (j, u, x) → x.st = .aside → x.replay = false → dFam j.desc = 8 → x.genOk = false → x.t2Ok = true →
    retireMet s (grpRun s j k x) (uStep j.args) = true →
    exec (.retirementWaitMet r k) s = .next (settleUpd (commitGo (setGrp (setMarks s (grpRun s j k x) (uStep j.args)) r k { x with genOk := true }) r k))) ∧
  (∀ (r : JobRef) (k : Nat) (s : State) (j : Job) (u : UpdRun) (x : UpdGrp), runGrp s r k = some (j, u, x) → x.st = .aside → x.replay = false → dFam j.desc = 8 → x.genOk = false →
    x.since + us (uGenTimeout j.args) ≤ s.clock → ∀ g, g = grpRun s j k x →
    exec (.genTimeout r k) s = .next (settleUpd (grpFail s r k eGEN_TIMEOUT (uStep j.args - g.ngen) (g.rdctr (g.slotOf (uStep j.args)))))) ∧
  (∀ (r : JobRef) (k : Nat) (s : State) (j : Job) (u : UpdRun) (x : UpdGrp), runGrp s r k = some (j, u, x) → x.todo = [] → x.left = 0 → x.replay = false → x.st = .aside → dFam j.desc = 6 →
    ∀ g, g = grpRun s j k x → grpStop s j g = none →
    exec (.t2TransferDone r k) s = .next (settleUpd (ingestGo (noteReads s updSource (g.reads s j.desc)) r k g (uStep j.args) (bufRd x.buf)))) ∧
  (∀ (r : JobRef) (k : Nat) (s : State) (j : Job) (u : UpdRun) (x : UpdGrp), runGrp s r k = some (j, u, x) → x.todo = [] → x.left = 0 → x.replay = false → x.st = .aside → dFam j.desc = 8 → x.t2Ok = false → x.genOk = true →
    exec (.t2TransferDone r k) s = .next (settleUpd (commitGo (setGrp s r k { x with t2Ok := true }) r k))) ∧
  (∀ (r : JobRef) (k : Nat) (s : State) (j : Job) (u : UpdRun) (x : UpdGrp), runGrp s r k = some (j, u, x) → x.left ≠ 0 → x.st = .aside → x.issued + us (uTierTimeout j.args) ≤ s.clock →
    exec (.tierTimeout r k) s = .next (settleUpd (tierFail s r k)))

/-- The rows of COLLECTIVE, the packets between members and the timeouts: R347, R352–R354, R357–R359, R361, R366, R369, R387. It rests also on the model's own choices of log entry 35. -/
def Obligations.collective_rows : Prop :=
  (∀ (r : JobRef) (p i : Nat) (s : State) (j : Job) (x : Part), freshOf s r p 5 0 = some (j, x) → groupEntry s (cGroup 5 j.args) = some i →
    exec (.allReduce r p) s = .next (colBegin (beginEarlier s r) r p j i)) ∧
  (∀ (r : JobRef) (p i : Nat) (s : State) (j : Job) (x : Part), freshOf s r p 5 1 = some (j, x) → groupEntry s (cGroup 5 j.args) = some i →
    exec (.reduceScatter r p) s = .next (colBegin (beginEarlier s r) r p j i)) ∧
  (∀ (r : JobRef) (p i : Nat) (s : State) (j : Job) (x : Part), freshOf s r p 5 2 = some (j, x) → groupEntry s (cGroup 5 j.args) = some i →
    exec (.allGather r p) s = .next (colBegin (beginEarlier s r) r p j i)) ∧
  (∀ (r : JobRef) (p i : Nat) (s : State) (j : Job) (x : Part), freshOf s r p 5 3 = some (j, x) → groupEntry s (cGroup 5 j.args) = some i →
    exec (.allToAll r p) s = .next (colBegin (beginEarlier s r) r p j i)) ∧
  (∀ (r : JobRef) (p i : Nat) (s : State) (j : Job) (x : Part), freshOf s r p 5 4 = some (j, x) → groupEntry s (cGroup 5 j.args) = some i →
    exec (.broadcast r p) s = .next (colBegin (beginEarlier s r) r p j i)) ∧
  (∀ (r : JobRef) (p i : Nat) (s : State) (j : Job) (x : Part), freshOf s r p 5 5 = some (j, x) → groupEntry s (cGroup 5 j.args) = some i →
    exec (.barrier r p) s = .next (colBegin (beginEarlier s r) r p j i)) ∧
  (∀ (r : JobRef) (p i : Nat) (s : State) (j : Job) (x : Part), freshOf s r p 7 0 = some (j, x) → groupEntry s (cGroup 7 j.args) = some i →
    exec (.stepVote r p) s = .next (colBegin (beginEarlier s r) r p j i)) ∧
  (∀ (pk : Pkt) (s t : State) (o : ColOp), pkKind pk = ckJOIN → fromEjection s opCOL pk = some t → pk.poisoned = false → getOp t (pkGid pk) (pkSeq pk) = some o → pk.arg.toNat = o.sig →
    exec (.join pk) s = .next (colStep (putOp t { o with joins := o.joins.filter (· != pk.src) }) o.gid o.seq)) ∧
  (∀ (pk : Pkt) (s t : State) (o : ColOp), pkKind pk = ckJOIN → fromEjection s opCOL pk = some t → pk.poisoned = false → getOp t (pkGid pk) (pkSeq pk) = some o → pk.arg.toNat ≠ o.sig →
    exec (.join pk) s = .next (colFail t o eCOL_MISMATCH pk.src (myId t))) ∧
  (∀ (pk : Pkt) (s t : State) (o : ColOp), pkKind pk = ckGRANT → fromEjection s opCOL pk = some t → pk.poisoned = false → getOp t (pkGid pk) (pkSeq pk) = some o →
    exec (.grant pk) s = .next (colStep (putOp t { o with outs := o.outs.map (fun x => if pkIs pk x then { x with granted := x.granted + 256 * pk.arg.toNat } else x) }) o.gid o.seq)) ∧
  (∀ (pk : Pkt) (s t : State) (o : ColOp) (x : ColStream), pkKind pk = ckDATA → fromEjection s opCOL pk = some t → pk.poisoned = false → getOp t (pkGid pk) (pkSeq pk) = some o →
    o.ins.find? (pkIs pk) = some x → x.data.length = pk.arg.toNat → x.data.length + pk.payload.length ≤ x.granted → pk.payload.length ≤ 2048 →
    ∀ u, u = rinc64 t rCOL_RXBYTES_LO pk.payload.length →
    ∀ v, v = (if x.phase = 0 then rinc64 u rCOL_OPS_LO (pk.payload.length / cEsz o.var (opArgs t o)) else u) →
    exec (.data pk) s = .next (colStep (putOp v { o with ins := o.ins.map (fun y => if pkIs pk y then { y with data := y.data ++ pk.payload } else y) }) o.gid o.seq)) ∧
  (∀ (pk : Pkt) (s t : State) (o : ColOp), pkKind pk = ckABORT → fromEjection s opCOL pk = some t → pk.poisoned = false → getOp t (pkGid pk) (pkSeq pk) = some o → wbit pk.arg 31 = false →
    exec (.abort pk) s = .next (colFail t o eCOL_ABORT (wbits pk.arg 17 0) (wbits pk.arg 17 0))) ∧
  (∀ (pk : Pkt) (s t : State) (o : ColOp), pkKind pk = ckUP → fromEjection s opCOL pk = some t → pk.poisoned = false → getOp t (pkGid pk) (pkSeq pk) = some o → o.ups.contains pk.src = true →
    exec (.voteUp pk) s = .next (colStep (putOp t { o with flags := o.flags ||| wbits pk.arg 3 0, ups := o.ups.filter (· != pk.src) }) o.gid o.seq)) ∧
  (∀ (pk : Pkt) (s t : State) (o : ColOp), pkKind pk = ckDOWN → fromEjection s opCOL pk = some t → pk.poisoned = false → getOp t (pkGid pk) (pkSeq pk) = some o → o.sentUp = true → o.parent.map (·.1) = some pk.src →
    exec (.voteDown pk) s = .next (voteResult t o (wbits pk.arg 3 0))) ∧
  (∀ (r : JobRef) (p : Nat) (s : State) (o : ColOp), s.colOps.find? (fun o => o.job == r && o.part == p) = some o → o.since + us (cTimeout o.fam (opArgs s o)) ≤ s.clock →
    exec (.colTimeout r p) s = .next (colFail s o eCOL_TIMEOUT (awaited s o) (myId s))) ∧
  (∀ (r : JobRef) (p i : Nat) (s : State) (j : Job), s.colOps.find? (fun o => o.job == r && o.part == p) = none → getJob s r = some j → freshOp s j = some i →
    j.began + us (cTimeout (dFam j.desc) j.args) ≤ s.clock →
    exec (.colTimeout r p) s = .next (failFresh (beginEarlier s r) r p j i eCOL_TIMEOUT)) ∧
  (∀ (s : State) (o : ColOp), s.colOps.find? (fun o => o.ctx.isNone) = some o → exec .contextGranted s = .next (takeCtx s o.gid o.seq)) ∧
  (∀ (i m live : Nat) (s : State), i < 64 → gValid s i = true → gRoot s i = myId s → inBox s i m = true →
    exec (.gEnginesRefresh i m live) s = .next (refreshEngines { s with gLive := smSet gLiveDefault s.gLive (i * 2 ^ 18 + m) (min live 96) } i))

/-- R268. -/
def Obligations.wait_test : Prop :=
  ∀ c t : DWord, waitMet c t = true ↔ 0 ≤ (c - t).toInt

/-- R265, R270, R272: `addCounter`, by which every signal reaches a counter. -/
def Obligations.one_addition_satisfies_all : Prop :=
  ∀ (s : State) (i n : Nat), (getC s i).st = .live → ∀ t, t = addCounter s i n →
    (getC t i).val = (getC s i).val + BitVec.ofNat 64 n ∧
    t.waits = s.waits.filter (fun r => !(r.ctr == i && waitMet ((getC s i).val + BitVec.ofNat 64 n) r.thresh))

/-- R275–R277, R279, R280; R282, R283. It rests also on the model's own choices of log entries 10, 22, 36, 79. -/
def Obligations.waits_signals_preemption : Prop :=
  (∀ (r : JobRef) (p : Nat) (s : State) (j : Job) (x : Part), freshOf s r p 9 0 = some (j, x) →
    exec (.wait r p) s = .next (markWorked s r p)) ∧
  (∀ (r : JobRef) (p : Nat) (s : State) (j : Job) (x : Part), freshOf s r p 9 1 = some (j, x) → tkModule j.args = myId s → (getC s (tkIndex j.args)).st = .live →
    exec (.ticket r p) s = .next (ticketTaken (fetchAdd s (tkIndex j.args) 1).2.2 r p (getC s (tkIndex j.args)).val)) ∧
  (∀ (r : JobRef) (p : Nat) (s : State) (j : Job) (x : Part), freshOf s r p 9 1 = some (j, x) → tkModule j.args ≠ myId s → canRequest s = true →
    exec (.ticket r p) s = .next (request (putJob s (setPart j p { x with st := .busy })) { op := opFADD, dest := tkModule j.args, addr := w64 (tkIndex j.args), arg := 1, ctag := j.tag } (.ticket r p))) ∧
  (∀ (r : JobRef) (p : Nat) (s : State) (j : Job) (x : Part), freshOf s r p 0xA 0 = some (j, x) → (∀ i ∈ sgEntries j.args, sgModule j.args i = myId s) →
    exec (.signalAdd r p) s = .next (markWorked ((sgEntries j.args).foldl (addEntry r p j.args (dAcked j.desc) j.tag) (putJob s (setPart j p { x with st := .busy, unacked := 0 }))) r p)) ∧
  (∀ (r : JobRef) (p : Nat) (s : State) (j : Job) (x : Part), freshOf s r p 0xA 1 = some (j, x) → sgCount j.args ≠ 0 → sgModule j.args 0 = myId s → (getC s (sgIndex j.args 0)).st = .live →
    ∀ q, q = writeResult (fetchAdd s (sgIndex j.args 0) (sgVal j.args 0 % 2 ^ 32)).2.2 (sgResult j.args) (getC s (sgIndex j.args 0)).val → q.2 = none →
    exec (.fetchAdd r p) s = .next (markWorked q.1 r p)) ∧
  (∀ (r : JobRef) (p : Nat) (s : State) (j : Job) (x : Part), freshOf s r p 0xA 2 = some (j, x) →
    ∀ q, q = entriesFrom (assignEntry (fromAway s r)) j.args (sgEntries j.args) s → q.2 = none → exec (.assign r p) s = .next (markWorked q.1 r p)) ∧
  (∀ (r : JobRef) (p : Nat) (s : State) (j : Job) (x : Part), freshOf s r p 0xA 3 = some (j, x) →
    ∀ q, q = entriesFrom (releaseEntry (fromAway s r)) j.args (sgEntries j.args) s → q.2 = none → exec (.release r p) s = .next (markWorked q.1 r p)) ∧
  (∀ (away : Bool) (s : State) (a : List Byte) (i : Nat), floeValid s (sgAux a i) = true → floeHere s (sgAux a i) = true → (away && (floeOf (sgAux a i)).isLocal) = false → (getC s (sgIndex a i)).st ≠ .live →
    ownedBy s (w32 (localFloe s (sgAux a i))) < quotaOf (floeOf (sgAux a i)).level →
    assignEntry away s a i = .ok (putC s (sgIndex a i) { st := .live, val := w64 (sgVal a i), owner := w32 (localFloe s (sgAux a i)) })) ∧
  (∀ (away : Bool) (s : State) (a : List Byte) (i : Nat), (getC s (sgIndex a i)).st ≠ .free →
    releaseEntry away s a i = .ok (failWaits (putC s (sgIndex a i) { st := .free, val := (getC s (sgIndex a i)).val, owner := 0 }) (sgIndex a i) eCTR_FREE)) ∧
  (∀ (v : Word) (s : State), floeValid s v.toNat = true → floeHere s v.toNat = true →
    exec (.synPreempt v) s = .next (breakCounters (((List.range queueCount).filter (fun q => floeUnder (floeOf (qFloe s q)) (floeOf v.toNat))).foldl preemptQueue s) (floeOf v.toNat)))

/-- SIG, FADD, WAIT_REGISTRATION, VERDICT, COUNTER_WAIT_EXPIRY, WAITER_BACKSTOP and REGISTRATION_RETRY (R270, R276, R286–R289, R332). It rests also on the model's own choices of log entries 10, 36. -/
def Obligations.counter_packets : Prop :=
  (∀ (pk : Pkt) (s t : State), fromEjection s opSIG pk = some t → pk.poisoned = false → synHeld t = false → (pk.ordered = false ∨ (onPoisonList t pk = false ∧ t.poisoned.length ≠ 64)) →
    ∀ i, i = pk.addr.toNat % 65536 → ∀ u, u = addCounter t i pk.arg.toNat →
    exec (.sig pk) s = .next (reply (if i = 65535 then { u with checkSigs := u.checkSigs ++ [pk.src] } else u) pk stOK)) ∧
  (∀ (pk : Pkt) (s t : State), fromEjection s opFADD pk = some t → pk.poisoned = false → synHeld t = false → (getC t (pk.addr.toNat % 65536)).st = .live →
    exec (.fadd pk) s = .next (reply (fetchAdd t (pk.addr.toNat % 65536) pk.arg.toNat).2.2 pk stOK (le64 (getC t (pk.addr.toNat % 65536)).val.toNat))) ∧
  (∀ (pk : Pkt) (s t : State), fromEjection s opFADD pk = some t → pk.poisoned = false → synHeld t = false → (getC t (pk.addr.toNat % 65536)).st ≠ .live →
    exec (.fadd pk) s = .next (reply t pk (if (getC t (pk.addr.toNat % 65536)).st = .free then stCTR_FREE else stOWNER_LOST))) ∧
  (∀ (pk : Pkt) (s t : State), fromEjection s opMGT pk = some t → pk.poisoned = false → pk.arg = w32 mgtRegister →
    ∀ i, i = pk.addr.toNat % 65536 → (getC t i).st = .live → waitMet (getC t i).val (w64 (leAt pk.payload 8 8)) = true →
    exec (.waitRegistration pk) s = .next (sendVerdict (dropRefused t (leAt pk.payload 0 8) (.remote pk.src 0 0 0 0)) pk.src (leAt pk.payload 0 8) (getC t i) 0)) ∧
  (∀ (pk : Pkt) (s t : State), fromEjection s opMGT pk = some t → pk.poisoned = false → pk.arg = w32 mgtRegister →
    ∀ i, i = pk.addr.toNat % 65536 → (getC t i).st = .live → waitMet (getC t i).val (w64 (leAt pk.payload 8 8)) = false → leAt pk.payload 0x10 8 ≠ 0 →
    waitRoom t (leAt pk.payload 0 8) (.remote pk.src 0 0 0 0) = true →
    ∀ u, u = dropRefused t (leAt pk.payload 0 8) (.remote pk.src 0 0 0 0) →
    exec (.waitRegistration pk) s = .next { u with waits := u.waits ++ [⟨leAt pk.payload 0 8, i, w64 (leAt pk.payload 8 8), u.clock + leAt pk.payload 0x10 8, leAt pk.payload 0x18 8, .remote pk.src 0 0 0 0⟩] }) ∧
  (∀ (pk : Pkt) (s t : State) (r : RemoteWait), fromEjection s opMGT pk = some t → pk.poisoned = false → pk.arg = w32 mgtVerdict → getRwait t (leAt pk.payload 0 8) = some r → r.dest = pk.src →
    leAt pk.payload 0x18 8 ≠ mgtRefused →
    exec (.verdict pk) s = .next (endRemoteWait t r (leAt pk.payload 0x18 8) (leAt pk.payload 8 8) (leAt pk.payload 0x10 8) false)) ∧
  (∀ (w : Nat) (s : State) (r : WaitRec), s.waits.find? (fun r => r.wid == w && decide (r.deadline ≤ s.clock)) = some r →
    exec (.counterWaitExpiry w) s = .next (giveVerdict (rinc { s with waits := s.waits.erase r } rSYN_TIMEOUTS 1) r eWAIT_TIMEOUT)) ∧
  (∀ (w : Nat) (s : State) (r : RemoteWait), getRwait s w = some r → r.backstop ≤ s.clock →
    exec (.waiterBackstop w) s = .next (endRemoteWait (rinc s rSYN_BACKSTOP 1) r eWAIT_TIMEOUT r.val.toNat r.cst true)) ∧
  (∀ (w : Nat) (s : State) (r : RemoteWait), getRwait s w = some r → r.refused = true → r.tried + us 1 ≤ s.clock → r.dest ≠ myId s →
    ∀ u, u = injectRaw s { op := opMGT, cls := clsMGT, dest := r.dest, addr := w64 r.ctr, arg := w32 mgtRegister, payload := mgtBody w r.thresh.toNat (r.backstop - us 10 - s.clock) r.timeout } →
    exec (.registrationRetry w) s = .next (setWaiter { u with rwaits := u.rwaits.map (fun x => if x.wid = w then { x with refused := false, tried := u.clock } else x) } r.who (.registered w)))

/-- MBX_POST, MBX_RECEIVE, MBX_LOCK_ACQUIRE, MBX_LOCK_RELEASE, MBX_FORCE and MBX_HB (R300–R306). It rests also on the model's own choices of log entry 58. -/
def Obligations.mailboxes : Prop :=
  (∀ (o m : Nat) (v : Word) (s : State), hartHeld s o = false → mbxFull s m = false →
    ∀ lo, lo = (latchOf s.wrLatch o winMbx (0x1000 + 0x20 * m)).getD (rget s (mbxReg m rMBX_DATA_LO)) →
    ∀ u, u = rput (rput { s with wrLatch := latchDrop s.wrLatch o winMbx } (mbxReg m rMBX_DATA_LO) lo) (mbxReg m rMBX_DATA_HI) v →
    exec (.mbxPost o m v) s = .next (mbxNotify (rputF (rputF u (mbxReg m rMBX_STAT) 15 8 o) (mbxReg m rMBX_STAT) 0 0 1) m o)) ∧
  (∀ (o m : Nat) (v : Word) (s : State), hartHeld s o = false → mbxFull s m = true →
    exec (.mbxPost o m v) s = .next (rputBit { s with wrLatch := latchDrop s.wrLatch o winMbx } (mbxReg m rMBX_STAT) 1 true)) ∧
  (∀ (o m : Nat) (s : State), hartHeld s o = false →
    ∀ u, u = { s with resp := [rget s (mbxReg m rMBX_DATA_LO)], rdLatch := latchSet s.rdLatch o winMbx (0x1000 + 0x20 * m) (rget s (mbxReg m rMBX_DATA_HI)) } →
    exec (.mbxReceive o m) s = .next (rputF (rput (rput u (mbxReg m rMBX_DATA_LO) 0) (mbxReg m rMBX_DATA_HI) 0) (mbxReg m rMBX_STAT) 0 0 0)) ∧
  (∀ (a m : Nat) (s : State), hartHeld s a = false → rn s (mbxReg m rMBX_LOCK) = 0 →
    exec (.mbxLockAcquire a m) s = .next (rputN { s with resp := [0] } (mbxReg m rMBX_LOCK) a)) ∧
  (∀ (a m : Nat) (s : State), hartHeld s a = false → rn s (mbxReg m rMBX_LOCK) ≠ 0 →
    exec (.mbxLockAcquire a m) s = .next { s with resp := [w32 (rn s (mbxReg m rMBX_LOCK))] }) ∧
  (∀ (a m : Nat) (s : State), hartHeld s a = false → rn s (mbxReg m rMBX_LOCK) ≠ 0 → rn s (mbxReg m rMBX_LOCK) = a → exec (.mbxLockRelease a m 0) s = .next (rputN s (mbxReg m rMBX_LOCK) 0)) ∧
  (∀ (a m : Nat) (s : State), hartHeld s a = false → rn s (mbxReg m rMBX_LOCK) ≠ 0 → rn s (mbxReg m rMBX_LOCK) ≠ a → exec (.mbxLockRelease a m 0) s = .next (rinc s rMBX_LOCK_REJ 1)) ∧
  (∀ (a m : Nat) (v : Word) (s : State), v ≠ 0 → exec (.mbxLockRelease a m v) s = .next s) ∧
  (∀ (a : Nat) (v : Word) (s : State), hartHeld s a = false → (a = 109 ∨ a = 110) →
    exec (.mbxForce a 0x84 v) s = .next ((List.range 32).foldl (fun s i => if wbit v i then rputN s (mbxReg (32 + i) rMBX_LOCK) 0 else s) s)) ∧
  (∀ (a : Nat) (v : Word) (s : State), hartHeld s a = false → exec (.mbxHb a a v) s = .next (rput s (rMBX_HB + 4 * a) v)) ∧
  (∀ (a b : Nat) (v : Word) (s : State), b ≠ a → exec (.mbxHb b a v) s = .next s) ∧
  (∀ (o m off : Nat) (v : Word) (s : State), hartHeld s o = true →
    ∀ c ∈ [Instr.mbxPost o m v, .mbxReceive o m, .mbxLockAcquire o m, .mbxLockRelease o m v, .mbxForce o off v, .mbxHb o o v], exec c s = .next s)

/-- R311–R313, R323; R315, R316. It rests also on the model's own choices of log entry 37. -/
def Obligations.links_and_ports : Prop :=
  (∀ (p lcw : Nat) (cs : List Nat) (fl : List (Nat × List Byte)) (s : State), portUp s p = true → ∀ l, l = getL s p → ∀ c, c = countCorrected s p cs →
    ∀ fs, fs = (if l.rxMark = 128 then [] else flitsIn c.clock lcw fl) →
    ∀ u, u = rinc (rinc64 (putL c p { l with rx := (l.rx + 1) % 4096, rxMark := nextMark l.rxMark, await := false })
      (tfpReg p oTFP_RXFLIT_LO) fs.length) (tfpReg p oTFP_POISON) (fs.filter (·.2.bad)).length →
    exec (.codeword p l.rx false lcw cs fl) s = .next (refreshFabric (effLcw (flow (queueLcw (receive u p fs) p lcwACK l.rx)) p lcw))) ∧
  (∀ (p q lcw : Nat) (cs : List Nat) (fl : List (Nat × List Byte)) (s : State), portUp s p = true → q ≠ (getL s p).rx →
    exec (.codeword p q false lcw cs fl) s = .next (refreshFabric (countCorrected s p cs))) ∧
  (∀ (p q lcw : Nat) (cs : List Nat) (fl : List (Nat × List Byte)) (s : State), portUp s p = true → retryLimit s p ≠ 0 → (getL s p).await = false →
    (recentUes s (getL s p)).length + 1 ≤ ueLimit s p →
    exec (.codeword p q true lcw cs fl) s = .next (flushMsgs (queueLcw (putL (rinc s (tfpReg p oTFP_UE) 1) p
      { getL s p with ues := recentUes s (getL s p) ++ [s.clock], await := true }) p lcwNAK (getL s p).rx) p)) ∧
  (∀ (p q : Nat) (s : State), portUp s p = true → ∀ b, b = fromSeq q (getL s p).buf → b ≠ [] → b.any (fun x => decide (retryLimit s p ≤ x.sends)) = false →
    exec (.nak p q) s = .next (b.foldl (fun s x => emit s (.codeword p x.seq x.lcw x.flits)) (rinc (putL s p { getL s p with buf := beforeSeq q (getL s p).buf ++ b.map (fun x => { x with sends := x.sends + 1 }) }) (tfpReg p oTFP_RETRY) b.length))) ∧
  (∀ (p q : Nat) (s : State), portUp s p = true → fromSeq q (getL s p).buf ≠ [] →
    exec (.ack p q) s = .next (putL s p { getL s p with buf := (fromSeq q (getL s p).buf).drop 1 })) ∧
  (∀ (p vc n : Nat) (s : State), portUp s p = true →
    exec (.credit p vc n) s = .next (flow (putL s p { getL s p with used := (getL s p).used.set vc (usedOf (getL s p) vc - n) }))) ∧
  (∀ (p : Nat) (s : State), portEnabled s p = true → portAxisLive s p = true → lState s p = lsDOWN → (getL s p).began.all (fun t => decide (t + 1000000000 ≤ s.clock)) = true →
    exec (.trainingAttempt p) s = .next (sendPieces (setLState (putL s p { getL s p with loop := rbit s (tfpReg p oTFP_CTRL) 1, began := some s.clock, peer := [] }) p lsTRAINING) p)) ∧
  (∀ (p id pp : Nat) (s : State), lState s p = lsTRAINING → trainFailed s p = false → (getL s p).loop = false → ∀ u, u = rputN s (tfpReg p oTFP_PEER) (2 ^ 31 + pp % 8 * 2 ^ 18 + id % 2 ^ 18) → id = neighbour u p → pp = (p ^^^ 1) →
    exec (.peer p id pp) s = .next (signalNeighbour (setLState (putL u p { inp := (getL u p).inp }) p lsUP) p)) ∧
  (∀ (p id pp : Nat) (s : State), lState s p = lsTRAINING → trainFailed s p = false → (getL s p).loop = false → ∀ u, u = rputN s (tfpReg p oTFP_PEER) (2 ^ 31 + pp % 8 * 2 ^ 18 + id % 2 ^ 18) → (id ≠ neighbour u p ∨ pp ≠ (p ^^^ 1)) →
    exec (.peer p id pp) s = .next (setLState (rputF u (tfpReg p oTFP_STATUS) 15 8 6) p lsFAULT)) ∧
  (∀ (p q lcw : Nat) (cs : List Nat) (fl : List (Nat × List Byte)) (s : State), lState s p = lsTRAINING → lcwKind lcw = lcwPEER →
    exec (.codeword p q false lcw cs fl) s = .next (match (getL s p).peer with
      | [] => putL s p { getL s p with peer := [lcwValue lcw] }
      | a :: _ => effPeer (putL s p { getL s p with peer := [] }) p ((a + 4096 * lcwValue lcw) % 2 ^ 18) ((a + 4096 * lcwValue lcw) / 2 ^ 18 % 8))) ∧
  (∀ (p lane : Nat) (s : State), portUp s p = true → exec (.laneLockLoss p lane) s = .next (portDown (rputF s (tfpReg p oTFP_STATUS) 31 24 lane) p 2)) ∧
  (∀ (p : Nat) (s : State), portUp s p = true → exec (.noCodeword p) s = .next (portDown s p 5)) ∧
  (∀ (p : Nat) (s : State), portUp s p = true → exec (.retrain p) s = .next (portDown s p 7)) ∧
  (∀ (p : Nat) (v : Word) (s : State), wbit v 0 = true → wbit v 2 = false →
    exec (.portEnable p v) s = .next (rputBit (shPut s (tfpReg p oTFP_CTRL) (wput (shGet s (tfpReg p oTFP_CTRL)) 1 1 (wbits v 1 1))) (tfpReg p oTFP_CTRL) 0 true))

/-- `route` (R326), by which ROUTE decides. -/
def Obligations.route_goes_on : Prop :=
  ∀ (s : State) (i : Option Nat) (pk q : Pkt) (p : Nat), route s i pk = (.port p, q) →
    pk.dest ≠ myId s ∧ q.ttl + 1 = pk.ttl ∧ q = { pk with ttl := q.ttl, dlv := q.dlv } ∧
    (∀ k, i = some k → p = (k ^^^ 1) → pk.dlv = true → crossesDateline s p = false)

/-- R320, R323, R326, R334; R204, R319, R322, R328–R330, R332. It rests also on the model's own choices of log entry 38. -/
def Obligations.router_and_endpoints : Prop :=
  (∀ (pk x q : Pkt) (o : Nat) (s : State), s.inj.find? (fun y => y.dest == pk.dest && y.cls == pk.cls && y.epoch == pk.epoch) = some x →
    sameWire x { pk with poisoned := false } = true → pktClass x.op = some x.cls → ∀ u, u = { s with inj := s.inj.erase x } → routeVia u x = (.port o, q) → portUp u o = true →
    exec (.route none pk) s = .next (refreshFabric (flow (addWorm u
      { inp := 8, ivc := 0, out := o, pk := q, len := x.payload.length, data := pktBytes q, left := (pktBytes x).length, born := x.born,
        spoiled := if pk.poisoned then [0] else [] })))) ∧
  (∀ (p : Nat) (pk : Pkt) (s : State), wormOf s p (vcOf pk) = none → ∀ b, b = (flitBytes (streamOf (getL s p) (vcOf pk))).take 32 → b.length = 32 →
    hdrLen b = pk.payload.length → sameWire (hdrOf b) { pk with payload := [], poisoned := false } = true → pktClass (hdrOf b).op = some (hdrOf b).cls →
    ∀ x, x = takeStream s p (vcOf pk) 32 → (hdrOf b).dest = myId x.2.2 →
    exec (.route (some p) pk) s = .next (refreshFabric (flow (addWorm (rinc64 x.2.2 rTFR_EJECT_LO 1)
      { inp := p, ivc := vcOf pk, out := 8, pk := hdrOf b, len := hdrLen b, data := b, badData := x.2.1, left := 32 + hdrLen b, born := ((streamOf (getL s p) (vcOf pk)).head?).elim s.clock (·.born),
        spoiled := if !pk.poisoned then [] else if pk.aux = [] then [0] else pk.aux })))) ∧
  (∀ (p o : Nat) (pk q : Pkt) (s : State), wormOf s p (vcOf pk) = none → ∀ b, b = (flitBytes (streamOf (getL s p) (vcOf pk))).take 32 → b.length = 32 →
    hdrLen b = pk.payload.length → sameWire (hdrOf b) { pk with payload := [], poisoned := false } = true → pktClass (hdrOf b).op = some (hdrOf b).cls →
    ∀ x, x = takeStream s p (vcOf pk) 32 → route x.2.2 (some p) (hdrOf b) = (.port o, q) → portUp x.2.2 o = true →
    exec (.route (some p) pk) s = .next (refreshFabric (flow (addWorm (rinc64 x.2.2 rTFR_FWD_LO 1)
      { inp := p, ivc := vcOf pk, out := o, pk := q, len := hdrLen b, data := hdrOnward b q, badData := x.2.1, left := 32 + hdrLen b, born := ((streamOf (getL s p) (vcOf pk)).head?).elim s.clock (·.born),
        spoiled := if !pk.poisoned then [] else if pk.aux = [] then [0] else pk.aux })))) ∧
  (∀ (pk : Pkt) (s t : State), fromEjection s opACC pk = some t → pk.poisoned = false → endpointStatus t pk.addr.toNat pk.payload.length = stOK → firnBusy t pk.addr.toNat pk.payload.length = false →
    firnTouches t pk.addr.toNat pk.payload.length = false →
    ∀ q, q = accumulate t (.port (cameBy s pk)) pk.addr.toNat pk.payload → q.2 = none →
    exec (.acc pk) s = .next (reply q.1 pk stOK)) ∧
  (∀ (pk : Pkt) (s t : State), fromEjection s opRD pk = some t → pk.poisoned = false → ∀ n, n = min 8192 pk.arg.toNat → endpointStatus t pk.addr.toNat n = stOK → firnBusy t pk.addr.toNat n = false →
    badIn t pk.addr.toNat n = none → exec (.rd pk) s = .next (reply (noteRead t (.port (cameBy s pk)) pk.addr.toNat n) pk stOK (rdBytes t pk.addr.toNat n))) ∧
  (∀ (pk : Pkt) (s t : State) (k : Slot), fromEjection s opACK pk = some t → pk.poisoned = false → getSlot t pk.rtag = some k → pk.ctag = k.pk.ctag → pk.src = k.pk.dest → slotExpired t k = false → pk.status = stOK →
    exec (.rspAck pk) s = .next (refreshFabric (pump (requestOk (dropSlot t pk.rtag) k pk.payload)))) ∧
  (∀ (pk : Pkt) (s t : State) (k : Slot), fromEjection s opRDATA pk = some t → pk.poisoned = false → getSlot t pk.rtag = some k → pk.ctag = k.pk.ctag → pk.src = k.pk.dest → slotExpired t k = false → pk.status = stOK →
    exec (.rdata pk) s = .next (refreshFabric (pump (requestOk (dropSlot t pk.rtag) k pk.payload)))) ∧
  (∀ (n : Nat) (s : State) (k : Slot), getSlot s n = some k → slotExpired s k = true →
    exec (.replyTimeout n) s = .next (refreshFabric (pump (failSlot s k)))) ∧
  (∀ (a b : Nat) (s : State), exec (.poisonListExpiry a b) s = .next { s with poisoned := s.poisoned.filter (fun p => !(p.1 == a && p.2.1 == b && decide (p.2.2 + rtoNs s ≤ s.clock))) }) ∧
  (∀ (v : Word) (s : State), exec (.tfrQuiesce v) s = .next (refreshFabric (pump (releaseHold (rput s rTFR_QUIESCE (v &&& 15))))))

/-- WR (R319, R321) in memory outside Firn windows, no code word of which has gone wrong. -/
def Obligations.remote_write_stores : Prop :=
  (∀ (pk : Pkt) (s t : State), fromEjection s opWR pk = some t → pk.poisoned = false → endpointStatus t pk.addr.toNat pk.payload.length = stOK →
    firnBusy t pk.addr.toNat pk.payload.length = false → memSound t = true → t.weak = [] → firnTouches t pk.addr.toNat pk.payload.length = false → quiesced t clsRSP = false →
    ∃ u, exec (.wr pk) s = .next u ∧ (∀ i (h : i < pk.payload.length), rdByte u (pk.addr.toNat + i) = pk.payload[i]) ∧
      (∀ x, (x < pk.addr.toNat ∨ pk.addr.toNat + pk.payload.length ≤ x) → rdByte u x = rdByte s x) ∧
      u.inj = s.inj ++ [dressed s { op := opACK, cls := clsRSP, dest := pk.src, rtag := pk.rtag, ctag := pk.ctag, status := stOK }]) ∧
  (∀ (pk : Pkt) (s t : State), fromEjection s opWR pk = some t → pk.poisoned = true → quiesced t clsRSP = false →
    ∃ u, exec (.wr pk) s = .next u ∧ u.mem = s.mem ∧ u.undef = s.undef ∧
      u.inj = s.inj ++ [dressed (rinc s rTFR_POISON 1) { op := opACK, cls := clsRSP, dest := pk.src, rtag := pk.rtag, ctag := pk.ctag, status := stPOISONED }])

/-- R405, R411–R413, R415, R416, R436, R438, R439, R442. It rests also on the model's own choices of log entries 43, 44, 45. -/
def Obligations.site_round : Prop :=
  (∀ (r : JobRef) (p : Nat) (s : State) (j : Job) (x : Part), freshOf s r p 0xF 0 = some (j, x) → commitPending s winSxu = false →
    exec (.send r p) s = .next (settleSites (setPartSt { s with sxRuns := s.sxRuns ++ [{ job := r, part := p }] } r p .busy))) ∧
  (∀ (r : JobRef) (p : Nat) (s : State) (j : Job) (x : Part), freshOf s r p 0xF 1 = some (j, x) → commitPending s winSxu = false →
    exec (.merge r p) s = .next (settleSites (setPartSt { s with sxRuns := s.sxRuns ++ [{ job := r, part := p }] } r p .busy))) ∧
  (∀ (r : JobRef) (p : Nat) (s : State) (j : Job) (x : Part), freshOf s r p 0xF 2 = some (j, x) → commitPending s winSxu = false →
    exec (.thawExch r p) s = .next (settleSites (setPartSt { s with sxRuns := s.sxRuns ++ [{ job := r, part := p }] } r p .busy))) ∧
  (∀ (r : JobRef) (p : Nat) (s : State) (j : Job) (x : Part), freshOf s r p 0xF 3 = some (j, x) → commitPending s winSxu = false →
    exec (.thawApply r p) s = .next (settleSites (setPartSt { s with sxRuns := s.sxRuns ++ [{ job := r, part := p }] } r p .busy))) ∧
  (∀ (r : JobRef) (p : Nat) (s : State) (j : Job) (x : Part), freshOf s r p 0xF 4 = some (j, x) → commitPending s winSxu = false →
    exec (.joinSite r p) s = .next (settleSites (setPartSt { s with sxRuns := s.sxRuns ++ [{ job := r, part := p }] } r p .busy))) ∧
  (∀ (r : JobRef) (p : Nat) (s : State) (j : Job) (x : Part), freshOf s r p 0xF 5 = some (j, x) → commitPending s winSxu = false → isAction s r 0 = true →
    exec (.peerCtlIsolate r p) s = .next (settleSites (setPartSt { s with sxRuns := s.sxRuns ++ [{ job := r, part := p }] } r p .busy))) ∧
  (∀ (r : JobRef) (p : Nat) (s : State) (j : Job) (x : Part), freshOf s r p 0xF 5 = some (j, x) → commitPending s winSxu = false → isAction s r 1 = true →
    exec (.peerCtlAbandon r p) s = .next (settleSites (setPartSt { s with sxRuns := s.sxRuns ++ [{ job := r, part := p }] } r p .busy))) ∧
  (∀ (s : State) (r : SxRun) (l : List SxRun) (j : Job), s.sxRuns = r :: l → getJob s r.job = some j → sxuUp s = true → r.begun = false → commitPending s winSxu = false → siteTimeOk s j = true →
    ∀ u : State, u = { s with sxRuns := s.sxRuns.map (fun x : SxRun => if x.job = r.job then { x with begun := true, since := s.clock } else x) } → dVar j.desc = 0 → driveFront s = runSend u r j) ∧
  (∀ (s : State) (r : SxRun) (l : List SxRun) (j : Job), s.sxRuns = r :: l → getJob s r.job = some j → sxuUp s = true → r.begun = false → commitPending s winSxu = false → siteTimeOk s j = true →
    ∀ u : State, u = { s with sxRuns := s.sxRuns.map (fun x : SxRun => if x.job = r.job then { x with begun := true, since := s.clock } else x) } → dVar j.desc = 1 → driveFront s = runMerge u r j) ∧
  (∀ (s : State) (r : SxRun) (l : List SxRun) (j : Job), s.sxRuns = r :: l → getJob s r.job = some j → sxuUp s = true → r.begun = false → commitPending s winSxu = false → siteTimeOk s j = true →
    ∀ u : State, u = { s with sxRuns := s.sxRuns.map (fun x : SxRun => if x.job = r.job then { x with begun := true, since := s.clock } else x) } → dVar j.desc = 2 → driveFront s = runThaw u r j) ∧
  (∀ (s : State) (r : SxRun) (l : List SxRun) (j : Job), s.sxRuns = r :: l → getJob s r.job = some j → sxuUp s = true → r.begun = false → commitPending s winSxu = false → siteTimeOk s j = true →
    ∀ u : State, u = { s with sxRuns := s.sxRuns.map (fun x : SxRun => if x.job = r.job then { x with begun := true, since := s.clock } else x) } → dVar j.desc = 3 → driveFront s = runApply u r j) ∧
  (∀ (s : State) (r : SxRun) (l : List SxRun) (j : Job), s.sxRuns = r :: l → getJob s r.job = some j → sxuUp s = true → r.begun = false → commitPending s winSxu = false → siteTimeOk s j = true →
    ∀ u : State, u = { s with sxRuns := s.sxRuns.map (fun x : SxRun => if x.job = r.job then { x with begun := true, since := s.clock } else x) } → dVar j.desc = 4 → driveFront s = runJoin u r j) ∧
  (∀ (s : State) (r : SxRun) (l : List SxRun) (j : Job), s.sxRuns = r :: l → getJob s r.job = some j → sxuUp s = false → driveFront s = siteFail s r eSXU_DISABLED noItem) ∧
  (∀ (s : State) (r : SxRun) (j : Job) (p : Nat), srPeer j.args = p → srAction j.args ≠ 0 → pValid s p = true → pState s p ≠ psOFF →
    runPeerCtl s r j = siteDone (unitRetired (setPState (leaveSlot (dropPeerWork s p) p) p psISOLATED) j.ref 0) r) ∧
  (∀ (s : State) (r : SxRun) (j : Job), pState s (srPeer j.args) ≠ psRECONNECTED → runThaw s r j = siteFail s r ePEER_STATE noItem) ∧
  (∀ (s : State) (r : SxRun) (j : Job), pState s (srPeer j.args) ≠ psTHAWING → runApply s r j = siteFail s r ePEER_STATE noItem)

/-- The rows of probes and rounds, of thaws past their time, joins, snapshots and LEAVE: R408, R413, R415, R423, R429, R432, R435, R436, R439–R441. The smoothed variation uses the new smoothed time (the model's reading). It rests also on the model's own choices of log entries 44, 46. -/
def Obligations.acnis_probes_and_joins : Prop :=
  (∀ (m : AMsg) (s : State) (p : Nat), sxuUp s = true → m.typ = mtPROBE → s.sxRx.contains m = true → msgPeer s m = some p →
    ∀ u, u = { s with sxRx := s.sxRx.erase m } → leAt m.body 8 8 = 0 →
    exec (.probe m) s = .next (sendMsg u p { typ := mtPROBE_REPLY, round := m.round, body := fitBytes m.body 8 ++ le64 (siteNow u) ++ le64 (siteNow u) })) ∧
  (∀ (m : AMsg) (s : State) (p : Nat), sxuUp s = true → m.typ = mtPROBE → s.sxRx.contains m = true → msgPeer s m = some p →
    ∀ u, u = { s with sxRx := s.sxRx.erase m } → leAt m.body 8 8 ≠ 0 →
    ∀ v, v = sendMsg u p { typ := mtPROBE_REPLY, round := m.round, body := fitBytes m.body 8 ++ le64 (siteNow u) ++ le64 (siteNow u) } → pState v p = psNEW →
    exec (.probe m) s = .next (enterListen v p (leAt m.body 8 8))) ∧
  (∀ (m : AMsg) (s : State) (p : Nat), sxuUp s = true → m.typ = mtPROBE_REPLY → s.sxRx.contains m = true → msgPeer s m = some p →
    ∀ u, u = { s with sxRx := s.sxRx.erase m } → ∀ rtt off srtt var : Nat, (getSx u p).sampled = false → ((siteNow u : Int) - leAt m.body 0 8 - (leAt m.body 16 8 - leAt m.body 8 8)).toNat = rtt →
    ((leAt m.body 8 8 : Int) - leAt m.body 0 8 + (leAt m.body 16 8 - siteNow u)) / 2 = off → off ≤ 1000000 → srtt = rtt → var = rtt / 2 →
    ∀ t, t = rputN (rputN (rputN (putSx u p { getSx u p with sampled := true, srtt := srtt, rttvar := var }) (pOff rP_SRTT p) (srtt / 1000)) (pOff rP_RTO p) (max (srtt + 4 * var) 1000000 / 1000)) (pOff rP_OFFSET p) (sat32 off) →
    pState t p ≠ psISOLATED →
    exec (.probeReply m) s = .next (t)) ∧
  (∀ s : State, sxuUp s = true → s.sxProbed + 1000000000 ≤ s.clock →
    exec .probePeriodic s = .next (probeAll { s with sxProbed := s.clock } ((validPeers s).filter (fun p => pState s p == psISOLATED || pState s p == psRECONNECTED)))) ∧
  (∀ (s : State), sxuUp s = true → s.sxOpened < roundsOpen s → (∀ p ∈ validPeers s, pState (probeAll { s with sxOpened := roundsOpen s } (validPeers s)) p ≠ psLISTEN) →
    exec .roundOpen s = .next (settleSites ((validPeers (probeAll { s with sxOpened := roundsOpen s } (validPeers s))).foldl (fun t p =>
      if pState t p = psLISTEN ∧ pJoin t p < roundsOpen s then setMisses (setPState t p psACTIVE) p 0 else t) (probeAll { s with sxOpened := roundsOpen s } (validPeers s))))) ∧
  (∀ s : State, exec .roundDeadline s = .next (settleSites s)) ∧
  (∀ (p : Nat) (s : State) (r : SxRun) (l : List SxRun) (j : Job), s.sxRuns = r :: l → getJob s r.job = some j → r.begun = true → dVar j.desc = 2 → srPeer j.args = p → r.since + us (srTimeout j.args) ≤ s.clock →
    exec (.thawTimeout p) s = .next (settleSites (siteFail (setPState (dropThaw s p) p psRECONNECTED) r eTHAW_TIMEOUT noItem))) ∧
  (∀ (s : State) (r : SxRun) (j : Job), joinRun s = some (r, j) → r.since + us (srTimeout j.args) ≤ s.clock →
    exec .joinTimeout s = .next (settleSites (joinFails s r (srPeer j.args) eJOIN_TIMEOUT))) ∧
  (∀ (m : AMsg) (s : State) (p : Nat), sxuUp s = true → m.typ = mtJOIN_REQ → s.sxRx.contains m = true → msgPeer s m = some p →
    ∀ u, u = { s with sxRx := s.sxRx.erase m } → u.sxServe = none → (pState u p = psNEW ∨ pState u p = psISOLATED) →
    exec (.joinReq m) s = .next (sendMsg { setPState (leaveSlot u p) p psSERVING with sxServe := some { peer := p, granted := true, round := firstUnfixed u, last := u.clock } } p (grantMsg (firstUnfixed u) 0))) ∧
  (∀ (m : AMsg) (s : State) (p : Nat), sxuUp s = true → m.typ = mtJOIN_REQ → s.sxRx.contains m = true → msgPeer s m = some p →
    ∀ u, u = { s with sxRx := s.sxRx.erase m } → u.sxServe = none → pState u p ≠ psNEW → pState u p ≠ psISOLATED →
    exec (.joinReq m) s = .next (sendMsg u p (grantMsg 0 2))) ∧
  (∀ (s : State) (x : SxJoin) (r : SxRun) (j : Job), s.sxJoin = some x → joinRun s = some (r, j) → x.granted = false → x.last + pRto s x.peer ≤ s.clock →
    exec .joinReqRepeat s = .next (sendMsg { s with sxJoin := some { x with last := s.clock } } x.peer (joinReqMsg (srRound j.args)))) ∧
  (∀ (m : AMsg) (s : State) (p : Nat) (x : SxJoin) (r : SxRun) (j : Job), sxuUp s = true → m.typ = mtJOIN_GRANT → s.sxRx.contains m = true → msgPeer s m = some p →
    ∀ u, u = { s with sxRx := s.sxRx.erase m } → u.sxJoin = some x → joinRun u = some (r, j) → x.peer = p → m.arg1 = 0 → x.granted = false →
    ∀ v, v = probeAll { u with sxJoin := some { x with granted := true, round := m.arg0.toNat }, sxFrom := some (m.arg0.toNat + 2) } (validPeers u) →
    exec (.joinGrant m) s = .next (settleSites ((validPeers v).foldl (fun t q => if pState t q = psNEW ∨ (pState t q = psISOLATED ∧ 4 ≤ pThaw t q) then enterListen t q (m.arg0.toNat + 2) else t) v))) ∧
  (∀ (s : State) (x : SxJoin), s.sxServe = some x → sxuUp s = true → x.started = false → pState s x.peer = psSERVING → x.round < s.sxSetRound → rn s rSXU_LAST_MERGED = x.round →
    ∀ u, u = { s with sxServe := some { x with started := true } } →
    exec .snapSend s = .next (serveDone ((List.range (rn u rSXU_ST_COUNT)).foldl
      (fun s t => queueOut s { peer := x.peer, kind := 2, round := x.round, item := t, entry := t }) u) x.peer)) ∧
  (∀ (s : State) (x : SxJoin), s.sxServe = some x → deadlineAt s (x.round + 1) ≤ siteNow s →
    ∀ u, u = { s with sxServe := none, sxOut := s.sxOut.filter (fun o => !(o.peer == x.peer && o.kind == 2)) } →
    exec .snapDeadline s = .next (sendMsg (setPState u x.peer psNEW) x.peer (grantMsg x.round 2))) ∧
  (∀ (m : AMsg) (s : State) (p : Nat), sxuUp s = true → m.typ = mtLEAVE → s.sxRx.contains m = true → msgPeer s m = some p →
    ∀ u, u = { s with sxRx := s.sxRx.erase m } →
    exec (.leave m) s = .next (u))

/-- R407, R413, R414, R427, R428, R431, R436, R440. It rests also on the model's own choices of log entry 43. -/
def Obligations.acnis_items_and_sending : Prop :=
  (∀ (m : AMsg) (s : State) (p t : Nat), sxuUp s = true → m.typ = mtDELTA → s.sxRx.contains m = true → msgPeer s m = some p →
    ∀ u, u = { s with sxRx := s.sxRx.erase m } → kindTaken u 0 p = true → roundNear u m.round.toNat = true → inEntry u 0 m.item = some t →
    ∀ q, q = openItem u p 0 m → q.2.ok = false → q.2.segs.contains m.arg0.toNat = false → m.arg0.toNat < outCount u 0 t →
    ∀ v, v = storeAll (segWrites (inBase q.1 q.2 t) (stGrp u t).count m.arg0.toNat m.body) q.1 → v.2 = none →
    exec (.delta m) s = .next (checkItem (rinc64 v.1 rSXU_RX_SEG_LO 1) { q.2 with segs := q.2.segs ++ [m.arg0.toNat] } t)) ∧
  (∀ (m : AMsg) (s : State) (p t : Nat), sxuUp s = true → m.typ = mtTHAW_DELTA → s.sxRx.contains m = true → msgPeer s m = some p →
    ∀ u, u = { s with sxRx := s.sxRx.erase m } → kindTaken u 1 p = true → inEntry u 1 m.item = some t →
    ∀ q, q = openItem u p 1 m → q.2.ok = false → q.2.segs.contains m.arg0.toNat = false → m.arg0.toNat < outCount u 1 t →
    ∀ v, v = storeAll (segWrites (inBase q.1 q.2 t) (stGrp u t).count m.arg0.toNat m.body) q.1 → v.2 = none →
    exec (.thawDelta m) s = .next (checkItem (rinc64 v.1 rSXU_RX_SEG_LO 1) { q.2 with segs := q.2.segs ++ [m.arg0.toNat] } t)) ∧
  (∀ (m : AMsg) (s : State) (p t e k : Nat), sxuUp s = true → m.typ = mtSNAP → s.sxRx.contains m = true → msgPeer s m = some p →
    ∀ u, u = { s with sxRx := s.sxRx.erase m } → kindTaken u 2 p = true → inEntry u 2 m.item = some t → e = (stGrp u t).count → k = m.arg1.toNat * snapChunks e + m.arg0.toNat →
    ∀ q, q = openItem u p 2 m → q.2.ok = false → q.2.segs.contains k = false → k < outCount u 2 t → m.arg0.toNat < snapChunks e →
    ∀ v, v = storeAll ((((planeChunk u t e m.arg1.toNat m.arg0.toNat).1, fitBytes m.body (planeChunk u t e m.arg1.toNat m.arg0.toNat).2) ::
      (if m.arg1.toNat = 0 then [((stGrp u t).mwHi + 4096 * m.arg0.toNat, fitBytes m.body (planeChunk u t e m.arg1.toNat m.arg0.toNat).2)]
       else if m.arg1.toNat = 1 then [((stGrp u t).mwLo + 2048 * m.arg0.toNat, fitBytes m.body (planeChunk u t e m.arg1.toNat m.arg0.toNat).2)] else []))) q.1 → v.2 = none →
    exec (.snap m) s = .next (checkItem (rinc64 v.1 rSXU_RX_SEG_LO 1) { q.2 with segs := q.2.segs ++ [k] } t)) ∧
  (∀ (m : AMsg) (s : State) (p : Nat) (x : SxIn), sxuUp s = true → m.typ = mtDONE → s.sxRx.contains m = true → msgPeer s m = some p →
    ∀ u, u = { s with sxRx := s.sxRx.erase m } → doneAlready u 0 p m = some x → exec (.done m) s = .next (sendAck u x)) ∧
  (∀ (m : AMsg) (s : State) (p t : Nat), sxuUp s = true → m.typ = mtDONE → s.sxRx.contains m = true → msgPeer s m = some p →
    ∀ u, u = { s with sxRx := s.sxRx.erase m } → kindTaken u 0 p = true → roundNear u m.round.toNat = true → inEntry u 0 m.item = some t → doneAlready u 0 p m = none →
    ∀ q, q = openItem u p 0 m → q.2.ok = false → ∀ x, x = { q.2 with done := some (m.arg0.toNat, m.arg1.toNat, m.body.take 32, leAt m.body 32 8) } →
    ∀ v, v = checkItem q.1 x t → exec (.done m) s = .next (match findSxIn v p 0 x.round x.item with
      | some y => if y.ok ∨ missing y (outCount v 0 t) = [] then v else sendNack v y (outCount v 0 t)
      | none => v)) ∧
  (∀ (m : AMsg) (s : State) (p : Nat) (x : SxIn), sxuUp s = true → m.typ = mtTHAW_DONE → s.sxRx.contains m = true → msgPeer s m = some p →
    ∀ u, u = { s with sxRx := s.sxRx.erase m } → doneAlready u 1 p m = some x → exec (.thawDone m) s = .next (sendAck u x)) ∧
  (∀ (m : AMsg) (s : State) (p t : Nat), sxuUp s = true → m.typ = mtTHAW_DONE → s.sxRx.contains m = true → msgPeer s m = some p →
    ∀ u, u = { s with sxRx := s.sxRx.erase m } → kindTaken u 1 p = true → inEntry u 1 m.item = some t → doneAlready u 1 p m = none →
    ∀ q, q = openItem u p 1 m → q.2.ok = false → ∀ x, x = { q.2 with done := some (m.arg0.toNat, m.arg1.toNat, m.body.take 32, leAt m.body 32 8) } →
    ∀ v, v = checkItem q.1 x t → exec (.thawDone m) s = .next (match findSxIn v p 1 x.round x.item with
      | some y => if y.ok ∨ missing y (outCount v 1 t) = [] then v else sendNack v y (outCount v 1 t)
      | none => v)) ∧
  (∀ (m : AMsg) (s : State) (p : Nat) (x : SxIn), sxuUp s = true → m.typ = mtSNAP_DONE → s.sxRx.contains m = true → msgPeer s m = some p →
    ∀ u, u = { s with sxRx := s.sxRx.erase m } → doneAlready u 2 p m = some x → exec (.snapDone m) s = .next (sendAck u x)) ∧
  (∀ (m : AMsg) (s : State) (p t : Nat), sxuUp s = true → m.typ = mtSNAP_DONE → s.sxRx.contains m = true → msgPeer s m = some p →
    ∀ u, u = { s with sxRx := s.sxRx.erase m } → kindTaken u 2 p = true → inEntry u 2 m.item = some t → doneAlready u 2 p m = none →
    ∀ q, q = openItem u p 2 m → q.2.ok = false → ∀ x, x = { q.2 with done := some (m.arg0.toNat, m.arg1.toNat, m.body.take 32, leAt m.body 32 8) } →
    ∀ v, v = checkItem q.1 x t → exec (.snapDone m) s = .next (match findSxIn v p 2 x.round x.item with
      | some y => if y.ok ∨ missing y (outCount v 2 t) = [] then v else sendNack v y (outCount v 2 t)
      | none => v)) ∧
  (∀ (p k : Nat) (l : List Nat) (s : State) (o : SxOut), sxuUp s = true → rn s rSXU_PACE ≠ 0 → turnPeer s = some p → s.sxOut.find? (toSend s p) = some o → o.todo = k :: l → o.sentAll = false → l ≠ [] →
    (outRanges s o).findSome? (fun x => badIn s x.1 x.2) = none → ∀ u, u = sendMsg { noteReads s .sxu (outRanges s o) with sxTurn := p } p (segMsg s o k) →
    exec (.segmentTransmit p) s = .next { u with sxOut := u.sxOut.filter (fun x => !sameOut x o) ++ [{ o with todo := l }] }) ∧
  (∀ (m : AMsg) (s : State) (p : Nat) (o : SxOut), sxuUp s = true → m.typ = mtNACK → s.sxRx.contains m = true → msgPeer s m = some p →
    ∀ u, u = { s with sxRx := s.sxRx.erase m } → outNamed u p m = some o →
    exec (.nack m) s = .next (putOutItem u { o with todo := o.todo ++ (List.range (outCount u o.kind o.entry)).filter (fun k => (nackRanges m).contains k && !o.todo.contains k) })) ∧
  (∀ (m : AMsg) (s : State) (p : Nat) (o : SxOut), sxuUp s = true → m.typ = mtACK → s.sxRx.contains m = true → msgPeer s m = some p →
    ∀ u, u = { s with sxRx := s.sxRx.erase m } → outNamed u p m = some o →
    exec (.acnisAck m) s = .next (settleSites (serveDone { u with sxOut := u.sxOut.filter (fun x => !sameOut x o) } p))) ∧
  (∀ (p : Nat) (s : State), sxuUp s = true → pValid s p = true →
    ∀ u, u = (s.sxOut.filter (fun o => o.peer == p && o.sentAll && decide (o.lastDone + pRto s p ≤ s.clock) && mayGo s o)).foldl sendDone s →
    exec (.acnisRto p) s = .next ((u.sxIn.filter (fun x => x.peer == p && x.done.isSome && !x.ok && decide (x.lastNack + pRto s p ≤ s.clock))).foldl (fun t x =>
      match inEntry t x.kind x.item with
      | some e => if missing x (outCount t x.kind e) = [] then t else sendNack t x (outCount t x.kind e)
      | none => t) u)) ∧
  (∀ s : State, exec .deltaSendStop s = .next (rinc { s with sxOut := s.sxOut.filter (fun o => !(o.kind == 0 && decide (deadlineAt s (o.round + 1) ≤ siteNow s))) } rSXU_DROPPED
      (s.sxOut.filter (fun o => o.kind == 0 && decide (deadlineAt s (o.round + 1) ≤ siteNow s))).length))

/-- R415: the set is fixed once. -/
def Obligations.inclusion_set_once : Prop :=
  ∀ (s : State) (r step step2 : Nat) (items items2 : List Nat), fixSet (fixSet s r step items) r step2 items2 = fixSet s r step items

/-- R476, R480, R482, R487, R490, R492–R494, R505. It rests also on the model's own choices of log entry 47. -/
def Obligations.cipher_commands : Prop :=
  (∀ (r : JobRef) (p : Nat) (s : State) (j : Job) (x : Part) (key : List Nat), ∀ u, u = cphPrune s → freshOf u r p 0xE 0 = some (j, x) → cphFirst u (.cmd r p) = true →
    ∀ w, w = { u with cphQ := u.cphQ.filter (· != CphReq.cmd r p) } → cphUp w = true → slotFor w (ciSlot j.args) 0 = .ok key → (badIn w (ciIn j.args) (ciLen j.args)).or (badIn w (ciAad j.args) (ciAadLen j.args)) = none →
    ∀ g, g = gcmSealBytes key ((ciIv j.args).take 12) (natsOf (rdBytes w (ciAad j.args) (ciAadLen j.args))) (natsOf (rdBytes w (ciIn j.args) (ciLen j.args))) →
    ∀ o, o = putOut (noteReads w .cph (ciReads j)) (ciIns j.args) (ciOut j.args) (ciLen j.args) (bytesOf g.1) → o.2 = none →
    ∀ t, t = putOut o.1 (ciIns j.args) (ciTag j.args) 16 (bytesOf g.2) → t.2 = none →
    exec (.gcmSeal r p) s = .next (refreshCph (cphDone t.1 r p (cdiv (ciLen j.args) 4096) (ciLen j.args + ciAadLen j.args)))) ∧
  (∀ (r : JobRef) (p : Nat) (s : State) (j : Job) (x : Part) (key pt : List Nat), ∀ u, u = cphPrune s → freshOf u r p 0xE 1 = some (j, x) → cphFirst u (.cmd r p) = true →
    ∀ w, w = { u with cphQ := u.cphQ.filter (· != CphReq.cmd r p) } → cphUp w = true → slotFor w (ciSlot j.args) 0 = .ok key → ((badIn w (ciIn j.args) (ciLen j.args)).or (badIn w (ciAad j.args) (ciAadLen j.args))).or (badIn w (ciTag j.args) 16) = none →
    gcmOpenBytes key ((ciIv j.args).take 12) (natsOf (rdBytes w (ciAad j.args) (ciAadLen j.args))) (natsOf (rdBytes w (ciIn j.args) (ciLen j.args))) (natsOf (rdBytes w (ciTag j.args) 16)) = some pt →
    ∀ o, o = putOut (noteReads w .cph (ciReads j)) ((ciTag j.args, 16) :: ciIns j.args) (ciOut j.args) (ciLen j.args) (bytesOf pt) → o.2 = none →
    exec (.gcmOpen r p) s = .next (refreshCph (cphDone o.1 r p 1 (ciLen j.args + ciAadLen j.args)))) ∧
  (∀ (r : JobRef) (p : Nat) (s : State) (j : Job) (x : Part) (key : List Nat), ∀ u, u = cphPrune s → freshOf u r p 0xE 1 = some (j, x) → cphFirst u (.cmd r p) = true →
    ∀ w, w = { u with cphQ := u.cphQ.filter (· != CphReq.cmd r p) } → cphUp w = true → slotFor w (ciSlot j.args) 0 = .ok key → ((badIn w (ciIn j.args) (ciLen j.args)).or (badIn w (ciAad j.args) (ciAadLen j.args))).or (badIn w (ciTag j.args) 16) = none →
    gcmOpenBytes key ((ciIv j.args).take 12) (natsOf (rdBytes w (ciAad j.args) (ciAadLen j.args))) (natsOf (rdBytes w (ciIn j.args) (ciLen j.args))) (natsOf (rdBytes w (ciTag j.args) 16)) = none →
    exec (.gcmOpen r p) s = .next (refreshCph (cphFail (rinc (storeNoted (noteReads w .cph (ciReads j)) .cph (ciOut j.args) (zeroBytes (ciLen j.args)) (modFloe (noteReads w .cph (ciReads j))) (some (jobCmd (noteReads w .cph (ciReads j)) r))) rCPH_AUTH_FAIL 1) r p eCPH_AUTH))) ∧
  (∀ (r : JobRef) (p : Nat) (s : State) (j : Job) (x : Part) (e : Nat), ∀ u, u = cphPrune s → freshOf u r p 0xE 0 = some (j, x) → cphFirst u (.cmd r p) = true →
    ∀ w, w = { u with cphQ := u.cphQ.filter (· != CphReq.cmd r p) } → cphUp w = true → slotFor w (ciSlot j.args) 0 = .error e →
    exec (.gcmSeal r p) s = .next (refreshCph (cphFail w r p e))) ∧
  (∀ (r : JobRef) (p : Nat) (s : State) (j : Job) (x : Part) (key : List Nat), ∀ u, u = cphPrune s → freshOf u r p 0xE 2 = some (j, x) → cphFirst u (.cmd r p) = true →
    ∀ w, w = { u with cphQ := u.cphQ.filter (· != CphReq.cmd r p) } → cphUp w = true → slotFor w (ciSlot j.args) 1 = .ok key → badIn w (ciIn j.args) (ciLen j.args) = none →
    ∀ o, o = putOut (noteReads w .cph (ciReads j)) [(ciIn j.args, ciLen j.args)] (ciOut j.args) (ciLen j.args) (bytesOf (aesCtr true key (beNat (ciIv j.args)) (natsOf (rdBytes w (ciIn j.args) (ciLen j.args))))) → o.2 = none →
    exec (.ctr r p) s = .next (refreshCph (cphDone o.1 r p (cdiv (ciLen j.args) 4096) (ciLen j.args)))) ∧
  (∀ (r : JobRef) (p : Nat) (s : State) (j : Job) (x : Part) (key : List Nat), ∀ u, u = cphPrune s → freshOf u r p 0xE 3 = some (j, x) → cphFirst u (.cmd r p) = true →
    ∀ w, w = { u with cphQ := u.cphQ.filter (· != CphReq.cmd r p) } → cphUp w = true → slotFor w (ciSlot j.args) 2 = .ok key → badIn w (ciIn j.args) (ciLen j.args) = none →
    ∀ o, o = putOut (noteReads w .cph (ciReads j)) [(ciIn j.args, ciLen j.args)] (ciTag j.args) 16 (bytesOf (cmacBytes key (natsOf (rdBytes w (ciIn j.args) (ciLen j.args))))) → o.2 = none →
    exec (.cmac r p) s = .next (refreshCph (cphDone o.1 r p 1 (ciLen j.args)))) ∧
  (∀ (r : JobRef) (p : Nat) (s : State) (j : Job) (x : Part) (key : List Nat), ∀ u, u = cphPrune s → freshOf u r p 0xE 7 = some (j, x) → cphFirst u (.cmd r p) = true →
    ∀ w, w = { u with cphQ := u.cphQ.filter (· != CphReq.cmd r p) } → cphUp w = true → rootKey w (ciRoot j.args) = some key → badIn w (ciAad j.args) 48 = none →
    exec (.derive r p) s = .next (refreshCph (cphDone (putKs { noteReads w .cph (ciReads j) with keysUsed := true } (ciSlot j.args) ⟨true, deriveKey key (natsOf (rdBytes w (ciAad j.args) 16)) (natsOf (rdBytes w (ciAad j.args + 16) 32)), ciUsage j.args, ciRoot j.args, ((getKs w (ciSlot j.args)).kgen + 1) % 256⟩) r p 1 0))) ∧
  (∀ (r : JobRef) (p : Nat) (s : State) (j : Job) (x : Part), ∀ u, u = cphPrune s → freshOf u r p 0xE 8 = some (j, x) → cphFirst u (.cmd r p) = true →
    ∀ w, w = { u with cphQ := u.cphQ.filter (· != CphReq.cmd r p) } → cphUp w = true →
    exec (.erase r p) s = .next (refreshCph (cphDone (putKs w (ciSlot j.args) { kgen := ((getKs w (ciSlot j.args)).kgen + 1) % 256 }) r p 1 0))) ∧
  (∀ (s : State) (x : JobRef × Nat) (l : List (JobRef × Nat)), ∀ u, u = cphPrune s → u.cphWait = x :: l → cphCmds u < 512 → u.sxuWait = [] →
    exec .cmdQueueEntryFreed s = .next (refreshCph { u with cphQ := u.cphQ ++ [CphReq.cmd x.1 x.2], cphWait := l }))

/-- STREAM, CTX_SAVE (clear) and CTX_RESTORE (R496, R498, R500, R502). It rests also on the model's own choices of log entry 47. -/
def Obligations.cipher_streams : Prop :=
  (∀ (r : JobRef) (p : Nat) (s : State) (j : Job) (x : Part) (c : CipherCtx), freshOf s r p 0xE 4 = some (j, x) → streamEarlier s r (ciCtx j.args) = false → cphUp s = true → streamCtx s j.args = .ok c → c.dataTotal + ciLen j.args ≤ 2 ^ 36 - 32 → c.aadTotal + ciAadLen j.args ≤ 2 ^ 32 - 16 → (c.smode = 1 → ciLen j.args = 0) →
    (badIn s (ciIn j.args) (ciLen j.args)).or (badIn s (ciAad j.args) (ciAadLen j.args)) = none →
    ∀ g, g = segment (getKs s c.slot).key c (natsOf (rdBytes s (ciAad j.args) (ciAadLen j.args))) (natsOf (rdBytes s (ciIn j.args) (ciLen j.args))) (ciOut j.args) →
    ∀ o, o = putOut (noteReads s .cph (ciReads j)) ((if ciFinal j.args && c.smode == 1 then [(ciTag j.args, 16)] else []) ++ ciIns j.args) (ciOut j.args) (ciLen j.args) (bytesOf g.2) → o.2 = none →
    exec (.stream r p) s = .next (refreshCph (finishStream o.1 r p (ciCtx j.args) j.args (getKs s c.slot).key g.1))) ∧
  (∀ (s : State) (r : JobRef) (p c : Nat) (a : List Byte) (key : List Nat) (x : CipherCtx), ciFinal a = false →
    finishStream s r p c a key x = cphDone (putCx s c x) r p (if x.smode = 1 then 1 else cdiv (ciLen a) 4096) (ciLen a + ciAadLen a)) ∧
  (∀ (s : State) (r : JobRef) (p c : Nat) (a : List Byte) (key : List Nat) (x : CipherCtx), ciFinal a = true → x.smode = 1 → badIn s (ciTag a) 16 = none →
    ∀ t, t = noteRead s .cph (ciTag a) 16 →
    finishStream s r p c a key x = if natsOf (rdBytes t (ciTag a) 16) = ctxTag key x then cphDone (freeCx t c) r p 1 (ciLen a + ciAadLen a)
      else streamFail (rinc (wipeCtx t x) rCPH_AUTH_FAIL 1) r p c eCPH_AUTH) ∧
  (∀ (r : JobRef) (p : Nat) (s : State) (j : Job) (x : Part), freshOf s r p 0xE 5 = some (j, x) → streamEarlier s r (ciCtx j.args) = false → cphUp s = true → (getCx s (ciCtx j.args)).isOpen = true → ciWrapped j.args = false → ∀ o, o = storeBytes s .cph (ciOut j.args) (ctxImage (getCx s (ciCtx j.args))) → o.2 = none →
    exec (.ctxSave r p) s = .next (refreshCph (cphDone o.1 r p 1 0))) ∧
  (∀ (r : JobRef) (p : Nat) (s : State) (j : Job) (x : Part) (im : List Byte) (c : CipherCtx), freshOf s r p 0xE 6 = some (j, x) → streamEarlier s r (ciCtx j.args) = false → cphUp s = true → (getCx s (ciCtx j.args)).isOpen = false → badIn s (ciIn j.args) (if ciWrapped j.args then 160 else 128) = none → readImage (noteReads s .cph (ciReads j)) j.args = .ok im → imageCtx im = some c →
    slotKcv (getKs (noteReads s .cph (ciReads j)) c.slot) = c.kcv →
    exec (.ctxRestore r p) s = .next (refreshCph (cphDone (putCx (noteReads s .cph (ciReads j)) (ciCtx j.args) c) r p 1 0)))

/-- R500: the image of CTX_SAVE holds the whole context. The base of a decrypting context's output is kept exactly where it has taken data. -/
def Obligations.context_image_round_trip : Prop :=
  ∀ x : CipherCtx, x.isOpen = true → x.smode < 3 → x.slot < 64 → x.kcv.length = 8 → (∀ b ∈ x.kcv, b < 256) → x.j0 < 2 ^ 128 → x.cb < 2 ^ 128 → x.y < 2 ^ 128 →
    x.aadTotal < 2 ^ 64 → x.dataTotal < 2 ^ 64 → (∀ b, x.outBase = some b → b < 2 ^ 64) → (x.outBase.isSome = true ↔ x.smode = 1 ∧ 0 < x.dataTotal) →
    imageCtx (ctxImage x) = some x

/-- ROOT_LOAD, ROOT_CLEAR, LID_EN_WRITE and SXU_CIPHER_REQUEST (R425, R426, R478, R479, R486, R495). It rests also on the model's own choices of log entries 46, 47. -/
def Obligations.cipher_roots_and_sites : Prop :=
  (∀ (o r : Nat) (s : State), (o = 109 ∨ o = 110) → hartHeld s o = false → winThere s winCph = true → cphLatched s = false → rfld s rCPH_ROOT_SEL 2 0 = r → r ≠ 0 →
    exec (.rootLoad o 0) s = .next ((List.range 8).foldl (fun s k => rputN s (rCPH_ROOT_DATA + 4 * k) 0) { setRoot s r (rootData s) with keysUsed := true })) ∧
  (∀ (o r : Nat) (s : State), (o = 109 ∨ o = 110) → hartHeld s o = false → winThere s winCph = true → cphLatched s = false → rfld s rCPH_ROOT_SEL 2 0 = r → r ≠ 0 →
    exec (.rootClear o 0) s = .next (setRoot s r [])) ∧
  (∀ (o : Nat) (v : Word) (s : State), o ≠ 109 → o ≠ 110 → winThere s winCph = true → exec (.rootLoad o v) s = .next (rinc s rCPH_ROOT_REJ 1) ∧ exec (.rootClear o v) s = .next (rinc s rCPH_ROOT_REJ 1)) ∧
  (∀ (v : Word) (s : State), winThere s winCph = true → (wbit v 0 = true ∨ s.keysUsed = false) → exec (.lidEnWrite v) s = .next (rputBit s rCPH_ALARM_CFG 0 (wbit v 0))) ∧
  (∀ (v : Word) (s : State), wbit v 0 = false → s.keysUsed = true → exec (.lidEnWrite v) s = .next s) ∧
  (∀ (m x : AMsg) (ad : SxTo) (key : List Nat) (s : State), s.cphQ.find? (fun r => match r with | .sxu _ x => x == m | _ => false) = some (.sxu ad x) → cphFirst s (.sxu ad x) = true → cphUp s = true →
    slotFor s ad.slot 0 = .ok key → ∀ u, u = refreshCph { s with cphQ := s.cphQ.erase (.sxu ad x) } →
    ∀ g, g = gcmSealBytes key (acnisIv x) (natsOf (acnisHeader x)) (pad16 (natsOf x.body)) →
    exec (.sxuCipherRequest false m) s = .next (acnisSend (rinc64 (rinc64 u rCPH_REQS_LO 1) rCPH_BYTES_LO (g.1.length + 32)) ad { x with body := bytesOf g.1, tag := bytesOf g.2 })) ∧
  (∀ (m : AMsg) (p : Nat) (key pt : List Nat) (s : State), sxuUp s = true → msgPeer s m = some p → replayed (getSx s p) m.keyEpoch m.seq.toNat = false → cphLatched s = false →
    (s.cphQ ++ s.sxuWait).any (isOpenReq m) = false →
    ∀ t, t = sxuArrive s (.sxuOpen p (pSlot s p) m) → t.cphQ.find? (isOpenReq m) = some (.sxuOpen p (pSlot s p) m) → cphFirst t (.sxuOpen p (pSlot s p) m) = true →
    ∀ w, w = refreshCph { t with cphQ := t.cphQ.erase (.sxuOpen p (pSlot s p) m) } → replayed (getSx w p) m.keyEpoch m.seq.toNat = false → cphUp w = true → slotFor w (pSlot s p) 0 = .ok key →
    gcmOpenBytes key (acnisIv m) (natsOf (acnisHeader m)) (natsOf m.body) (natsOf m.tag) = some pt →
    ∀ u, u = putSx (rinc64 (rinc64 w rCPH_REQS_LO 1) rCPH_BYTES_LO (m.body.length + 32)) p (acceptSeq (getSx w p) m.keyEpoch m.seq.toNat) →
    exec (.sxuCipherRequest true m) s = .next { u with sxRx := u.sxRx ++ [{ m with body := (bytesOf pt).take m.len, tag := [] }] }) ∧
  (∀ (m : AMsg) (p : Nat) (s : State), sxuUp s = true → msgPeer s m = some p → replayed (getSx s p) m.keyEpoch m.seq.toNat = true →
    exec (.sxuCipherRequest true m) s = .next (rinc s rSXU_REPLAY_DROP 1))

/-- R450–R454; R456, R457. It rests also on the model's own choices of log entry 48. -/
def Obligations.site_time : Prop :=
  (∀ (t : DWord) (s : State), rbit s rTIME_CFG 0 = false → exec (.ppsEdge t) s = .next s) ∧
  (∀ (t : DWord) (s : State) (e off : Int), rbit s rTIME_CFG 0 = true → ∀ u, u = seen { s with time := { s.time with ppsLast := some s.clock } } → u.time.ppsLocked = true → u.time.ptpOff = none →
    (t.toNat : Int) - ppsDelay u = e → u.time.second + 1000000000 - e = off →
    exec (.ppsEdge t) s = .next (setTime (rputN { u with time := { u.time with second := u.time.second + 1000000000 } } rTIME_OFFSET (sat32 off)) { u.time with second := u.time.second + 1000000000, offset := off })) ∧
  (∀ (t : DWord) (s : State) (po y : Int), rbit s rTIME_CFG 0 = true → ∀ u, u = seen { s with time := { s.time with ppsLast := some s.clock } } → u.time.ppsLocked = false → u.time.ptpOff = some po →
    (t.toNat : Int) - ppsDelay u + po = y → (nearSec y - y).natAbs ≤ 100 → u.time.ppsRun < 3 →
    exec (.ppsEdge t) s = .next { u with time := { u.time with ppsRun := u.time.ppsRun + 1 } }) ∧
  (∀ (t : DWord) (s : State) (po y : Int), rbit s rTIME_CFG 0 = true → ∀ u, u = seen { s with time := { s.time with ppsLast := some s.clock } } → u.time.ppsLocked = false → u.time.ptpOff = some po →
    (t.toNat : Int) - ppsDelay u + po = y → (nearSec y - y).natAbs ≤ 100 → 3 ≤ u.time.ppsRun →
    exec (.ppsEdge t) s = .next (lockTo { u with time := { u.time with ppsRun := 4, ppsLocked := true, second := nearSec y } } 2 (nearSec y - (t.toNat - ppsDelay u)))) ∧
  (∀ (t : DWord) (s : State) (po y : Int), rbit s rTIME_CFG 0 = true → ∀ u, u = seen { s with time := { s.time with ppsLast := some s.clock } } → u.time.ppsLocked = false → u.time.ptpOff = some po →
    (t.toNat : Int) - ppsDelay u + po = y → 100 < (nearSec y - y).natAbs → exec (.ppsEdge t) s = .next { u with time := { u.time with ppsRun := 0 } }) ∧
  (∀ (l : Nat) (s : State), s.time.ppsLast = some l → l + 1500000000 ≤ s.clock → s.time.code = 2 → s.time.ptpOff = none →
    exec .ppsMissing s = .next (toHoldover { s with time := { s.time with ppsRun := 0, ppsLocked := false, ppsLast := none } })) ∧
  (∀ (l : Nat) (po : Int) (s : State), s.time.ppsLast = some l → l + 1500000000 ≤ s.clock → s.time.code = 2 → s.time.ptpOff = some po → s.time.ptpLocked = true →
    exec .ppsMissing s = .next (lockTo { s with time := { s.time with ppsRun := 0, ppsLocked := false, ppsLast := none } } 3 po)) ∧
  (∀ (l : Nat) (s : State), s.time.ppsLast = some l → s.clock < l + 1500000000 → exec .ppsMissing s = .next s) ∧
  (∀ (t1 : DWord) (b f : Bool) (d : Nat) (l : Int) (s : State), (d ≠ ptpDomain s ∨ (b = true ∧ f = false)) → exec (.ptpSync t1 f ⟨b, d, l⟩) s = .next s) ∧
  (∀ (t1 : DWord) (b f : Bool) (d : Nat) (l : Int) (s : State), d = ptpDomain s → (b = true → f = true) → ∀ u, u = emit (seen { s with time := { s.time with ptpSeen := true, syncAt := s.clock, syncNs := intervalNs l } }) (.frame "Delay_Req" []) → u.time.delay = none →
    exec (.ptpSync t1 f ⟨b, d, l⟩) s = .next u) ∧
  (∀ (t1 : DWord) (b f : Bool) (d : Nat) (l : Int) (w : Int) (s : State), d = ptpDomain s → (b = true → f = true) → ∀ u, u = emit (seen { s with time := { s.time with ptpSeen := true, syncAt := s.clock, syncNs := intervalNs l } }) (.frame "Delay_Req" []) → u.time.delay = some w →
    exec (.ptpSync t1 f ⟨b, d, l⟩) s = .next (notePtp u (t1.toNat + w - siteNow u))) ∧
  (∀ (t1 t2 t3 t4 : DWord) (a b : Int) (s : State), s.time.ptpSeen = true → (t2.toNat : Int) - t1.toNat = a → (t4.toNat : Int) - t3.toNat = b →
    exec (.ptpDelayResp t1 t2 t3 t4) s = .next (notePtp { s with time := { s.time with delay := some ((a + b) / 2) } } ((b - a) / 2))) ∧
  (∀ (off : Int) (s : State), s.time.ptpOff = some off → s.time.ptpSeen = true → s.time.ptpLocked = false → s.time.goodSince + 16000000000 ≤ s.clock → ppsHere s = false →
    exec .ptpLock s = .next (lockTo { s with time := { s.time with ptpLocked := true } } 3 off)) ∧
  (∀ (off : Int) (s : State), s.time.ptpOff = some off → s.time.ptpSeen = true → s.time.ptpLocked = false → s.time.goodSince + 16000000000 ≤ s.clock → ppsHere s = true →
    exec .ptpLock s = .next { s with time := { s.time with ptpLocked := true } }) ∧
  (∀ s : State, s.time.ptpSeen = true → s.time.syncAt + 4 * s.time.syncNs ≤ s.clock → s.time.code = 3 → exec .ptpLoss s = .next (toHoldover { s with time := { s.time with ptpSeen := false, ptpLocked := false, ptpOff := none, delay := none } })) ∧
  (∀ s : State, s.time.ptpSeen = true → s.time.syncAt + 4 * s.time.syncNs ≤ s.clock → s.time.code = 2 → exec .ptpLoss s = .next { s with time := { s.time with ptpSeen := false, ptpLocked := false, ptpOff := none, delay := none } }) ∧
  (∀ s : State, (s.time.ptpSeen = false ∨ s.clock < s.time.syncAt + 4 * s.time.syncNs) → exec .ptpLoss s = .next s) ∧
  (∀ s : State, s.time.code = 4 → holdLimit s < timeBound s → rbit s rTIME_EVT 2 = false → exec .holdoverLimit s = .next (timeEvt s 2)) ∧
  (∀ (n : Nat) (s : State), n < 8 → rbit s (tmr rTMR_CFG n) 31 = true → rn64 s (tmr rTMR_AT_LO n) ≤ siteNow s → rn64 s (tmr rTMR_PERIOD_LO n) = 0 →
    exec (.timerFire n) s = .next (rputBit (rinc (raiseHere s (rfld s (tmr rTMR_CFG n) 15 0) (rn s (tmr rTMR_INC n)) (!effAcked s)) (tmr rTMR_FIRED n) 1) (tmr rTMR_CFG n) 31 false)) ∧
  (∀ (n a per : Nat) (s : State), n < 8 → rbit s (tmr rTMR_CFG n) 31 = true → rn64 s (tmr rTMR_AT_LO n) = a → rn64 s (tmr rTMR_PERIOD_LO n) = per → a ≤ siteNow s → per ≠ 0 →
    exec (.timerFire n) s = .next (rinc (rput64 (rinc (raiseHere s (rfld s (tmr rTMR_CFG n) 15 0) (rn s (tmr rTMR_INC n)) (!effAcked s)) (tmr rTMR_FIRED n) 1) (tmr rTMR_AT_LO n)
      (a + ((siteNow s - a) / per + 1) * per)) (tmr rTMR_MISSED n) ((siteNow s - a) / per))) ∧
  (∀ a per now : Nat, a ≤ now → per ≠ 0 → now < a + ((now - a) / per + 1) * per ∧ a + (now - a) / per * per ≤ now) ∧
  (∀ (n : Nat) (s : State), (8 ≤ n ∨ rbit s (tmr rTMR_CFG n) 31 = false ∨ siteNow s < rn64 s (tmr rTMR_AT_LO n)) → exec (.timerFire n) s = .next s)

/-- GOVERNOR_TICK (R465, R468). It rests also on the model's own choices of log entry 49. -/
def Obligations.governor_tick : Prop :=
  (∀ (p : Nat) (sensors : List Int) (s : State), s.gov.tickAt + us 10 ≤ s.clock → s.gov.f ≤ 64 → s.gov.trim ≤ 64 → ∃ t, exec (.governorTick p sensors) s = .next t ∧ t.gov.f ≤ 64 ∧ t.gov.trim ≤ 64 ∧
    (t.gov.thermCrit = true → t.gov.f = 0) ∧ (t.gov.thermCrit = false → t.gov.f ≤ s.gov.f + 2 ∧ s.gov.f ≤ t.gov.f + 2)) ∧
  (∀ (p : Nat) (sensors : List Int) (s : State), s.clock < s.gov.tickAt + us 10 → exec (.governorTick p sensors) s = .next s)

/-- STAGGER_END, THERM_CRIT, GRID_LOSS_N, PARK, PARKED, UNPARK, UNPARK_DONE and the alarms (R465, R467, R471, R473, R474, R483). It rests also on the model's own choices of log entries 49, 57, 75. -/
def Obligations.power_events : Prop :=
  (∀ s : State, exec (.gridLossN true) s = .next (onBattery { s with pins := { s.pins with gridLow := true } }) ∧ exec (.gridLossN false) s = .next { s with pins := { s.pins with gridLow := false } }) ∧
  (∀ (t : Nat) (s : State), s.gov.stagger = some t → t ≤ s.clock → exec .staggerEnd s = .next { s with gov := { s.gov with stagger := none, go := true } }) ∧
  (∀ (l : List Int) (s : State), ∀ u, u = putTemps { s with gov := { s.gov with tS := hottest s.gov.tS l } } → critTemp u ≤ u.gov.tS → u.gov.thermCrit = false →
    exec (.thermCrit l) s = .next (alarm (pwEvt (showF { u with gov := { u.gov with f := 0, thermCrit := true } }) 3) 4)) ∧
  (∀ (l : List Int) (s : State), ∀ u, u = putTemps { s with gov := { s.gov with tS := hottest s.gov.tS l } } → u.gov.tS < critTemp u → u.gov.thermCrit = false → exec (.thermCrit l) s = .next u) ∧
  (∀ s : State, unparked s = true → mayPark s = true → exec .park s = .next (setCode (rputBit s rPW_CTRL 0 true) winTpw 1)) ∧
  (∀ s : State, blkCode s winTpw = 1 → exec .parked s = .next (setCode (memCodes s 2) winTpw 2)) ∧
  (∀ s : State, exec .unpark s = .next (wake s)) ∧
  (∀ s : State, blkCode s winTpw = 3 → exec .unparkDone s = .next (setCode (memCodes s 1) winTpw 0)) ∧
  (∀ s : State, exec .voltageAlarm s = .next (alarm { s with pins := { s.pins with railBad := true } } 1) ∧ exec .clockAlarm s = .next (alarm { s with pins := { s.pins with clockBad := true } } 2)) ∧
  (∀ s : State, ∀ u, u = { s with pins := { s.pins with lidOpen := true } } → exec .lidAlarm s = .next (if rbit s rCPH_ALARM_CFG 0 then alarm u 8 else u)) ∧
  (∀ (c : Nat) (s : State), winThere s winCph = true → ∀ u, u = rputF s rCPH_ALARM 3 0 (rfld s rCPH_ALARM 3 0 ||| c) → cphLatched u = false →
    ∀ v, v = cphWipe (rputBit { u with root0Gone := true } rCPH_ALARM 31 true) →
    alarm s c = dropIdentity (returnSxu (evtSet (refreshCph { v with root0Gone := true }) winCph 4 (rn v rCPH_ALARM))))

/-- R459–R462, R470, R602; R603, R613. It rests also on the model's own choices of log entries 9, 50. -/
def Obligations.board_and_pins : Prop :=
  (∀ (a b : Nat) (v : Byte) (s : State), 0x400 ≤ a → a < 0x800 → s.pins.fruWpLow = true → ∃ t, exec (.fruWrite a v) s = .next t ∧ fruByte t a = v ∧ (b ≠ a → fruByte t b = fruByte s b)) ∧
  (∀ (a : Nat) (v : Byte) (s : State), (a < 0x400 ∨ 0x800 ≤ a ∨ s.pins.fruWpLow = false) → exec (.fruWrite a v) s = .next s) ∧
  (∀ (n : Nat) (s : State), (n = 1 ∨ n = 2 ∨ (3 ≤ n ∧ n ≤ 5 ∧ s.pins.resetLow = true)) → exec (.testAccessPort n) s = .next { s with pins := { s.pins with tap := some n } }) ∧
  (∀ (n : Nat) (s : State), n ≠ 1 → n ≠ 2 → (n < 3 ∨ 5 < n ∨ s.pins.resetLow = false) → exec (.testAccessPort n) s = .next { s with pins := { s.pins with tap := none } }) ∧
  (∀ (b : List Byte) (s : State), frameGood b = false → brdOn s = true → s.resets = [] → exec (.boardFrameEnd b) s = .next (rinc s rBRD_RX_BAD 1)) ∧
  (∀ (b : List Byte) (s : State), s.resets.any (fun r => r.dom == 4 || r.dom == 6) = true → exec (.boardFrameEnd b) s = .next s) ∧
  (∀ (b : List Byte) (s : State), frameGood b = true → brdOn s = true → s.resets = [] → s.brdLast.contains (leAt b 3 1, leAt b 2 1) = false →
    ∀ u, u = rputN (rinc { s with brdLast := s.brdLast.filter (fun x => x.1 != leAt b 3 1) ++ [(leAt b 3 1, leAt b 2 1)] } rBRD_RX_OK 1) rBRD_LAST (leAt b 3 1 * 2 ^ 24 + leAt b 2 1 * 65536) → exec (.boardFrameEnd b) s = .next (frameEffect u b)) ∧
  (∀ (b : List Byte) (s : State), leAt b 3 1 = 2 → frameGood b = true → brdOn s = true → s.resets = [] → s.brdLast.contains (leAt b 3 1, leAt b 2 1) = false →
    ∀ u, u = rputN (rinc { s with brdLast := s.brdLast.filter (fun x => x.1 != leAt b 3 1) ++ [(leAt b 3 1, leAt b 2 1)] } rBRD_RX_OK 1) rBRD_LAST (leAt b 3 1 * 2 ^ 24 + leAt b 2 1 * 65536) → exec (.coolant b) s = .next (putCool { u with gov := { u.gov with tIn := sint16 (leAt b 4 2), flow := leAt b 6 2, coolAt := u.clock, coolLost := false } })) ∧
  (∀ (b : List Byte) (s : State), leAt b 3 1 = 3 → leAt b 4 1 = 1 → frameGood b = true → brdOn s = true → s.resets = [] → s.brdLast.contains (leAt b 3 1, leAt b 2 1) = false →
    ∀ u, u = rputN (rinc { s with brdLast := s.brdLast.filter (fun x => x.1 != leAt b 3 1) ++ [(leAt b 3 1, leAt b 2 1)] } rBRD_RX_OK 1) rBRD_LAST (leAt b 3 1 * 2 ^ 24 + leAt b 2 1 * 65536) → exec (.grid b) s = .next (onBattery u)) ∧
  (∀ (b : List Byte) (s : State), leAt b 3 1 = 3 → leAt b 4 1 = 0 → s.pins.gridLow = false → frameGood b = true → brdOn s = true → s.resets = [] → s.brdLast.contains (leAt b 3 1, leAt b 2 1) = false →
    ∀ u, u = rputN (rinc { s with brdLast := s.brdLast.filter (fun x => x.1 != leAt b 3 1) ++ [(leAt b 3 1, leAt b 2 1)] } rBRD_RX_OK 1) rBRD_LAST (leAt b 3 1 * 2 ^ 24 + leAt b 2 1 * 65536) → u.gov.battery = true → exec (.grid b) s = .next { u with gov := { u.gov with battery := false, rose := none } }) ∧
  (∀ (p : Nat) (s : State), brdOn s = true → s.resets = [] → s.gov.sentAt + us 1000 ≤ s.clock →
    exec (.status p) s = .next (emit { s with gov := { s.gov with seq := (s.gov.seq + 1) % 256, sentAt := s.clock } } (.frame "STATUS" (statusFrame s p)))) ∧
  (∀ (e w u d : Nat) (s : State), s.gov.heldGrant = some (e, w, u, d) → e ≤ siteNow s → exec .grantEffective s = .next { s with gov := { s.gov with grant := some (w, u, d), heldGrant := none } }) ∧
  (∀ (s : State), s.gov.safe = false → s.gov.grantAt + rfld s rPW_TIMEOUT 15 0 * 1000000 ≤ s.clock → exec .grantLost s = .next (pwEvt { s with gov := { s.gov with safe := true } } 0)) ∧
  (∀ (s : State), s.gov.coolLost = false → s.gov.coolAt + rfld s rPW_TIMEOUT 31 16 * 1000000 ≤ s.clock →
    exec .coolantTimeout s = .next (putCool { s with gov := { s.gov with coolLost := true, tIn := 720, flow := 100 } }))

/-- READ, WRITE, EVENT_ACK, KEY_LOAD, CLAIM, CLOSE and KEEPALIVE (R518, R520, R525–R529). It rests also on the model's own choices of log entry 52. -/
def Obligations.control_requests : Prop :=
  (∀ (m : CMsg) (s : State) (i : Nat) (x : Sess) (p : List Byte), m.typ = 0x10 → ctrlHeard s m = true → inRecovery s = false → m.sealed = true → ofSession s m 2 = true →
    i = m.session % 16 → x = getSess s i → ctrlOpen x m = some p → m.seq = x.seqIn + 1 → (words p 64).any badOff = false → (words p 64).any (fun o => winHeld s (offWin o)) = false → ∀ q, q = readAll (112 + i) (words p 64) s →
    exec (.read m) s = .next (finishReq q.1 i m (some { typ := 0x11, body := q.2.flatMap (fun v => le32 v.toNat) }))) ∧
  (∀ (m : CMsg) (s : State) (i : Nat) (x : Sess) (p : List Byte), m.typ = 0x12 → ctrlHeard s m = true → inRecovery s = false → m.sealed = true → ofSession s m 2 = true →
    i = m.session % 16 → x = getSess s i → ctrlOpen x m = some p → m.seq = x.seqIn + 1 → x.role = 1 → 2 ≤ glbStage s → (pairsOf (words p 128)).any (fun e => decide (e.1 < 2 ^ 24) && winHeld s (offWin e.1)) = false → ∀ q, q = writeEach (112 + i) (pairsOf (words p 128)) s 0 →
    exec (.write m) s = .next (finishReq q.1 i m (some { typ := 0x13, status := q.2.2, body := le32 q.2.1 }))) ∧
  (∀ (m : CMsg) (s : State) (i : Nat) (x : Sess) (p : List Byte), m.typ = 0x12 → ctrlHeard s m = true → inRecovery s = false → m.sealed = true → ofSession s m 2 = true →
    i = m.session % 16 → x = getSess s i → ctrlOpen x m = some p → m.seq = x.seqIn + 1 → x.role ≠ 1 →
    exec (.write m) s = .next (finishReq s i m (some { typ := 0x13, status := rDENIED, body := le32 0 }))) ∧
  (∀ (m : CMsg) (s : State) (i : Nat) (x : Sess) (p : List Byte), m.typ = 0x19 → ctrlHeard s m = true → inRecovery s = false → m.sealed = true → ofSession s m 2 = true →
    i = m.session % 16 → x = getSess s i → ctrlOpen x m = some p → m.seq = x.seqIn + 1 →
    exec (.eventAck m) s = .next (finishReq (putSess s i { x with events := x.events.filter (fun e => e.seq != m.ackSeq) }) i m none)) ∧
  (∀ (m : CMsg) (s : State) (i : Nat) (x : Sess) (p : List Byte) (r : Nat), m.typ = 0x20 → ctrlHeard s m = true → inRecovery s = false → m.sealed = true → ofSession s m 2 = true →
    i = m.session % 16 → x = getSess s i → ctrlOpen x m = some p → m.seq = x.seqIn + 1 → x.role = 1 → 2 ≤ glbStage s → winThere s winCph = true → winHeld s winCph = false → cphLatched s = false → leAt p 0 4 = r → r ≠ 0 → r ≤ 7 →
    ∀ k, k = natsOf (fitBytes (p.drop 4) 32) → ∀ u, u = (List.range 8).foldl (fun s n => rputN s (rCPH_ROOT_DATA + 4 * n) (beNat ((k.drop (4 * n)).take 4))) (rputN s rCPH_ROOT_SEL r) →
    exec (.keyLoad m) s = .next (finishReq (effRootCtl u 109 1) i m (some {}))) ∧
  (∀ (m : CMsg) (s : State) (i : Nat) (x : Sess) (p : List Byte), m.typ = 0x20 → ctrlHeard s m = true → inRecovery s = false → m.sealed = true → ofSession s m 2 = true →
    i = m.session % 16 → x = getSess s i → ctrlOpen x m = some p → m.seq = x.seqIn + 1 → x.role ≠ 1 →
    exec (.keyLoad m) s = .next (finishReq s i m (some { status := rDENIED }))) ∧
  (∀ (m : CMsg) (s : State) (i : Nat) (x : Sess) (p : List Byte), m.typ = 0x30 → ctrlHeard s m = true → inRecovery s = false → m.sealed = true → ofSession s m 2 = true →
    i = m.session % 16 → x = getSess s i → ctrlOpen x m = some p → m.seq = x.seqIn + 1 → s.rot.owner = [] → glbStage s = 4 → ∀ n, n = natsOf (fitBytes p 512) → beNat n ≠ 0 →
    exec (.claim m) s = .next (finishReq { s with rot := { s.rot with owner := sha512 n, ownerMod := beNat n } } i m (some {}))) ∧
  (∀ (m : CMsg) (s : State) (i : Nat) (x : Sess) (p : List Byte), m.typ = 0x3F → ctrlHeard s m = true → inRecovery s = false → m.sealed = true → ofSession s m 2 = true →
    i = m.session % 16 → x = getSess s i → ctrlOpen x m = some p → m.seq = x.seqIn + 1 →
    exec (.keepalive m) s = .next (finishReq s i m (some {}))) ∧
  (∀ (m : CMsg) (s : State) (i : Nat) (x : Sess) (p : List Byte), m.typ = 0x38 → ctrlHeard s m = true → inRecovery s = false → m.sealed = true → ofSession s m 2 = true →
    i = m.session % 16 → x = getSess s i → ctrlOpen x m = some p → m.seq = x.seqIn + 1 → ∀ t, t = finishReq s i m (some {}) → (getSess t i).st = 2 → (getSess t i).seqIn = m.seq →
    exec (.close m) s = .next (closeSess t i)) ∧
  (∀ (m : CMsg) (s : State) (i : Nat) (x : Sess) (p : List Byte) (a : CMsg), m.typ = 0x3F → ctrlHeard s m = true → inRecovery s = false → m.sealed = true → ofSession s m 2 = true →
    i = m.session % 16 → x = getSess s i → ctrlOpen x m = some p → m.seq = x.seqIn → x.stored = some a →
    exec (.keepalive m) s = .next (sendCtrl (putSess s i { x with lastReq := s.clock }) a)) ∧
  (∀ (i : Nat) (s : State) (e : EvtOut) (l : List EvtOut), (getSess s i).events = e :: l → (getSess s i).st = 2 → e.sent + us 100000 ≤ s.clock →
    exec (.eventResend i) s = .next (sendCtrl (putSess s i { getSess s i with events := { e with sent := s.clock } :: l }) (eventMsg (getSess s i) i e.seq e.body))) ∧
  (∀ (i : Nat) (s : State), (getSess s i).st ≠ 0 → (getSess s i).lastReq + us 10000000 ≤ s.clock → exec (.sessionIdleTimeout i) s = .next (closeSess s i))

/-- OPEN_SESSION, CERT_GET, KEYX and TPM_MEAS_EXT (R512, R518, R521, R523, R524, R547). It rests also on the model's own choices of log entries 51, 52, 76. -/
def Obligations.control_opening : Prop :=
  (∀ (m : CMsg) (s : State), m.typ = 1 → ctrlHeard s m = true → m.sealed = false → ofSession s m 2 = false → (glbStage s ≠ 0 ∨ inRecovery s = true) → exec (.openSession m) s = .next (answerOpen s m)) ∧
  (∀ (m : CMsg) (s : State), m.typ = 1 → ctrlHeard s m = true → m.sealed = false → ofSession s m 2 = false → glbStage s = 0 → inRecovery s = false → exec (.openSession m) s = .next { s with openHeld := s.openHeld ++ [m] }) ∧
  (∀ (m : CMsg) (s : State) (i : Nat), inRecovery s = false → s.idKey ≠ none → sessIds.find? (fun i => (getSess s i).st == 0) = some i → ∀ r, r = makeReport s i (m.body.take 64) →
    answerOpen s m = sendReport (setSess r.2 i { st := 1, port := m.via, addr := m.fromAddr, udp := m.fromPort, report := r.1, asked := leAt m.body 64 1, seqOut := 2, lastReq := s.clock }) m i r.1) ∧
  (∀ (m : CMsg) (s : State), inRecovery s = false → (s.idKey = none → answerOpen s m = clearRsp s m 8 0) ∧
    (s.idKey ≠ none → sessIds.find? (fun i => (getSess s i).st == 0) = none → answerOpen s m = clearRsp s m 4 0)) ∧
  (∀ (m : CMsg) (s : State) (i : Nat) (x : Sess), m.typ = 3 → ctrlHeard s m = true → inRecovery s = false → m.sealed = false → ofSession s m 1 = true → i = m.session % 16 → x = getSess s i →
    ∀ b, b = (Config.certChain.drop (1024 * leAt m.body 0 4)).take 1024 →
    exec (.certGet m) s = .next (sendCtrl (setSess s i { x with seqOut := x.seqOut + 1, lastReq := s.clock })
      { via := m.via, fromAddr := m.fromAddr, fromPort := m.fromPort, typ := 4, session := i, status := certParts, seq := x.seqOut, ackSeq := m.seq, len := b.length, body := b })) ∧
  (∀ (m : CMsg) (s : State) (i : Nat) (x : Sess), m.typ = 5 → ctrlHeard s m = true → inRecovery s = false → m.sealed = false → ofSession s m 1 = true → i = m.session % 16 → x = getSess s i → s.rot.owner = [] →
    ∀ c ctx : List Nat, c = natsOf (fitBytes m.body 512) → ctx = (sha512 (natsOf (x.report.take 0x400))).take 32 →
    exec (.keyx m) s = .next (match s.idKey.bind (fun k => oaepDecrypt k.1 k.2 c) with
      | none => keyxDenied s m i
      | some k => if k.length ≠ 32 then keyxDenied s m i else
        let y := { x with st := 2, role := 0, kIn := deriveKey k labelIn ctx, kOut := deriveKey k labelOut ctx, seqIn := m.seq, lastReq := s.clock }
        let a := sealRsp y i m { typ := 6, status := 0 }
        drainFifo (sendCtrl (setSess s i { y with seqOut := y.seqOut + 1, stored := some a }) a))) ∧
  (∀ (o : Nat) (v : Word) (s : State), hartHeld s o = false → isOwner s o = true → (wbits v 2 0 = 6 ∨ wbits v 2 0 = 7) →
    exec (.tpmMeasExt o v) s = .next (measPut s (wbits v 2 0) (sha512 (measGet s (wbits v 2 0) ++ (List.range 16).flatMap (fun k => natsOf (le32 (rn s (rTPM_MEAS_DATA + 4 * k)))))))) ∧
  (∀ (o : Nat) (v : Word) (s : State), (isOwner s o = false ∨ (wbits v 2 0 ≠ 6 ∧ wbits v 2 0 ≠ 7)) → exec (.tpmMeasExt o v) s = .next s)

/-- FW_WRITE, FW_ACTIVATE and FW_COMMIT (R510, R530, R531, R547). It rests also on the model's own choices of log entries 8, 51, 56. -/
def Obligations.firmware_messages : Prop :=
  (∀ (m : CMsg) (s : State) (i : Nat) (x : Sess) (p : List Byte) (b : Nat), m.typ = 0x28 → ctrlHeard s m = true → inRecovery s = false → m.sealed = true → ofSession s m 2 = true →
    i = m.session % 16 → x = getSess s i → ctrlOpen x m = some p → m.seq = x.seqIn + 1 → x.role = 1 → glbStage s = 4 → leAt p 0 4 = b → b ≤ 1 → b ≠ s.rot.active → s.fwLock.elim false (fun k => k != i) = false → leAt p 4 4 + ((p.drop 8).take 1024).length ≤ bankSize →
    exec (.fwWrite m) s = .next (finishReq (rputF (setFwLock (putFlash s (bankBase b + leAt p 4 4) ((p.drop 8).take 1024)) (some i)) rTPM_FW 7 4 i) i m (some {}))) ∧
  (∀ (m : CMsg) (s : State) (i : Nat) (x : Sess) (p : List Byte) (b : Nat), m.typ = 0x29 → ctrlHeard s m = true → inRecovery s = false → m.sealed = true → ofSession s m 2 = true →
    i = m.session % 16 → x = getSess s i → ctrlOpen x m = some p → m.seq = x.seqIn + 1 → x.role = 1 → glbStage s = 4 → leAt p 0 4 = b → b ≤ 1 → s.fwLock = none →
    exec (.fwActivate m) s = .next (if imageOk s b then finishReq (rputF { s with rot := { s.rot with pending := some b } } rTPM_FW 1 0 b) i m (some {}) else finishReq s i m (some { status := rBAD_IMAGE }))) ∧
  (∀ (m : CMsg) (s : State) (i : Nat) (x : Sess) (p : List Byte), m.typ = 0x2A → ctrlHeard s m = true → inRecovery s = false → m.sealed = true → ofSession s m 2 = true →
    i = m.session % 16 → x = getSess s i → ctrlOpen x m = some p → m.seq = x.seqIn + 1 → x.role = 1 → glbStage s = 4 → ∀ r : RotMem, r = (if s.rot.trial then { s.rot with active := s.rot.booted, trial := false } else s.rot) →
    ∀ q : RotMem, q = (if nbit (leAt p 0 4) 0 then { r with floor := max r.floor (rfld s rTPM_BOOT 31 24) } else r) →
    exec (.fwCommit m) s = .next (finishReq (rputBit (rputF { s with rot := q } rTPM_BOOT 23 16 q.floor) rTPM_BOOT 1 q.trial) i m (some {}))) ∧
  (∀ (m : CMsg) (s : State) (i : Nat) (x : Sess) (p : List Byte), m.typ = 0x2A → ctrlHeard s m = true → inRecovery s = false → m.sealed = true → ofSession s m 2 = true →
    i = m.session % 16 → x = getSess s i → ctrlOpen x m = some p → m.seq = x.seqIn + 1 → x.role = 1 → glbStage s ≠ 4 →
    exec (.fwCommit m) s = .next (finishReq s i m (some { status := rBUSY })))

/-- R389, R390, R421, R444, R447, R581; R532–R535. It rests also on the model's own choices of log entries 53, 54, 74. -/
def Obligations.ethernet_and_roce : Prop :=
  (∀ (w : Nat) (b : List Byte) (s : State) (q : HostReq) (r : List HostReq), (getH s w).reqs = q :: r →
    exec (.roceAck w false b) s = .next (pumpWindow (hostAnswered (putH s w { getH s w with reqs := r }) q b)) ∧ exec (.roceAck w true b) s = .next s) ∧
  (∀ (w : Nat) (s : State) (q : HostReq) (r : List HostReq), (getH s w).reqs = q :: r → q.sent + hwAckNs s w ≤ s.clock → q.tries < rfld s (hwReg w rHW_TIMEOUT) 2 0 →
    exec (.roceAckTimeout w) s = .next (sendRoce (putH s w { getH s w with reqs := { q with tries := q.tries + 1, sent := s.clock } :: r }) w q)) ∧
  (∀ (w : Nat) (s : State) (q : HostReq) (r : List HostReq), (getH s w).reqs = q :: r → q.sent + hwAckNs s w ≤ s.clock → rfld s (hwReg w rHW_TIMEOUT) 2 0 ≤ q.tries →
    exec (.roceAckTimeout w) s = .next (hostGivesUp s w)) ∧
  (∀ (w : Nat) (s : State), w < 64 → exec (.congestionNotification w) s = .next (putH s w { getH s w with rate := (getH s w).rate / 2, lost := 1 - (getH s w).rate / 2, rateAt := s.clock }) ∧
    ((getH s w).rateAt + us 50 ≤ s.clock → exec (.rateRestore w) s = .next (putH s w { getH s w with rate := if (getH s w).rate + (getH s w).lost / 8 < 1 then (getH s w).rate + (getH s w).lost / 8 else 1, rateAt := s.clock })) ∧
    (s.clock < (getH s w).rateAt + us 50 → exec (.rateRestore w) s = .next s)) ∧
  (∀ (p k n : Nat) (c : EthClass) (s : State), ethClassNum c = some k → p < 2 → ethUp s p = true → ethFits s p k n = true →
    exec (.ethFrameReceive p c n false) s = .next { ethCount s p k n with ethBuf := smSet (fun _ => 0) (ethCount s p k n).ethBuf (4 * p + k) (ethBufOf (ethCount s p k n) p k + n) }) ∧
  (∀ (p k n : Nat) (f : Bool) (c : EthClass) (s : State), ethClassNum c = some k → p < 2 → ethUp s p = true → ethFits s p k n = false →
    exec (.ethFrameReceive p c n f) s = .next (rinc s (wreg (winEth p) (oETH_RXDROP + 16 * k)) 1)) ∧
  (∀ (p n : Nat) (s : State), p < 2 → ethUp s p = true → ethFits s p 2 n = true →
    exec (.ethFrameReceive p .acnis n true) s = .next (rinc (ethCount s p 2 n) (wreg (winEth p) oETH_FRAG_DROP) 1)) ∧
  (∀ (p n : Nat) (f : Bool) (c : EthClass) (s : State), p < 2 → ethUp s p = false → exec (.ethFrameReceive p c n f) s = .next s) ∧
  (∀ (t : Nat) (s : State), exec (.neighbourSolicitation t) s = .next (advertise (advertise s t 0) t 1)) ∧
  (∀ (t p : Nat) (s : State), ethUp s p = true → ip6At s (wreg (winEth p) oETH_S_IP6_0) = t →
    advertise s t p = emit (ethSent s p 0 (90 + (if rbit s (wreg (winEth p) oETH_C_TAG) 12 then 4 else 0)))
      (.frame "NEIGHBOUR_ADVERTISEMENT" (bytesOf (beBytes t 16 ++ beBytes (rn64 s (wreg (winEth p) oETH_MAC_LO) % 2 ^ 48) 6)))) ∧
  (∀ (p : Nat) (u : Bool) (s : State), p < 2 → exec (.ethLink p u) s = .next (setCode (rputBit s (wreg (winEth p) oETH_LINK) 0 u) (winEth p) (b2n u)))

/-- COMPUTE, FABRIC, SXU, CPH and MODULE resets, GLB_FLOE_RESET, POR, RESET_N and PWRGD (R539–R546, R598, R604). It rests also on the model's own choices of log entries 55, 60, 75. -/
def Obligations.resets : Prop :=
  (∀ s : State, s.resets.any (fun r => containsReset r 0 0 || sameReset r 0 0) = false →
    ∀ r : ResetP, r = { dom := 0, floe := 0, cause := 2, since := s.clock, pinHeld := false, drain := drainOf s 0 0 } →
    exec .computeReset s = .next (refreshResets { forceAcked (applyReset s 0 0) with resets := s.resets.filter (fun x => !containsReset r x.dom x.floe) ++ [r] })) ∧
  (∀ s : State, s.resets.any (fun r => containsReset r 1 0 || sameReset r 1 0) = false →
    ∀ r : ResetP, r = { dom := 1, floe := 0, cause := 2, since := s.clock, pinHeld := false, drain := drainOf s 1 0 } →
    exec .fabricReset s = .next (refreshResets { forceAcked (applyReset s 1 0) with resets := s.resets.filter (fun x => !containsReset r x.dom x.floe) ++ [r] })) ∧
  (∀ s : State, s.resets.any (fun r => containsReset r 2 0 || sameReset r 2 0) = false → winThere s winSxu = true →
    ∀ r : ResetP, r = { dom := 2, floe := 0, cause := 2, since := s.clock, pinHeld := false, drain := drainOf s 2 0 } →
    exec .sxuReset s = .next (refreshResets { forceAcked (applyReset s 2 0) with resets := s.resets.filter (fun x => !containsReset r x.dom x.floe) ++ [r] })) ∧
  (∀ s : State, s.resets.any (fun r => containsReset r 3 0 || sameReset r 3 0) = false → winThere s winCph = true →
    ∀ r : ResetP, r = { dom := 3, floe := 0, cause := 2, since := s.clock, pinHeld := false, drain := drainOf s 3 0 } →
    exec .cphReset s = .next (refreshResets { forceAcked (applyReset s 3 0) with resets := s.resets.filter (fun x => !containsReset r x.dom x.floe) ++ [r] })) ∧
  (∀ s : State, s.resets.any (fun r => containsReset r 4 0 || sameReset r 4 0) = false →
    ∀ r : ResetP, r = { dom := 4, floe := 0, cause := 2, since := s.clock, pinHeld := false, drain := drainOf s 4 0 } →
    exec .moduleReset s = .next (refreshResets { forceAcked (applyReset s 4 0) with resets := [r] })) ∧
  (∀ (v : Word) (f : Nat) (s : State), floeResetTarget s v = some f → s.resets.any (fun r => containsReset r 5 f || sameReset r 5 f) = false →
    ∀ r : ResetP, r = { dom := 5, floe := f, cause := 2, since := s.clock, pinHeld := false, drain := drainOf s 5 f } →
    exec (.glbFloeReset v) s = .next (refreshResets { forceAcked (resetFloes s (floeOf f)) with resets := s.resets.filter (fun x => !containsReset r x.dom x.floe) ++ [r] })) ∧
  (∀ (v : Word) (s : State), floeResetTarget s v = none → exec (.glbFloeReset v) s = .next s) ∧
  (∀ (s : State), s.resets.any (fun r => containsReset r 0 0 || sameReset r 0 0) = true →
    exec .computeReset s = .next { s with resets := s.resets.map (fun r => if sameReset r 0 0 then { r with pinHeld := r.pinHeld || false } else r) }) ∧
  (∀ s : State, exec (.resetN true) s = .next (startReset { s with pins := { s.pins with resetLow := true } } 4 0 1 true) ∧
    exec (.resetN false) s = .next { s with pins := { s.pins with resetLow := false }, resets := s.resets.map (fun r => if r.dom = 4 then { r with pinHeld := false } else r) }) ∧
  (∀ s : State, exec .por s = .next (startReset { s with pins := { s.pins with pwrgd := false } } 6 0 0 true) ∧ exec (.pwrgd false) s = exec .por s ∧
    exec (.pwrgd true) s = .next { s with pins := { s.pins with pwrgd := true }, resets := s.resets.map (fun r => if r.dom = 6 ∧ r.pinHeld then { r with pinHeld := false, since := s.clock } else r) }) ∧
  (∀ (d : Nat) (s : State) (r : ResetP), s.resets.find? (fun r => r.dom == d && resetDone s r) = some r → exec (.resetComplete d) s = .next (finishReset s r)) ∧
  (∀ (d : Nat) (s : State), s.resets.find? (fun r => r.dom == d && resetDone s r) = none → exec (.resetComplete d) s = .next s)

/-- R543, R544, R548. It rests also on the model's own choices of log entries 5, 55. -/
def Obligations.reset_effects : Prop :=
  (∀ s : State, s.resets.any (fun r => r.dom == 4 || r.dom == 6) = false → ∃ t, exec .moduleReset s = .next t ∧ t.queues = [] ∧ t.jobs = [] ∧ t.engines = [] ∧ t.counters = [] ∧ t.waits = [] ∧ t.rwaits = [] ∧ t.sess = [] ∧ t.roots = [] ∧ t.keySlots = [] ∧
    t.ctxs = [] ∧ t.colOps = [] ∧ t.updRuns = [] ∧ t.sxRuns = [] ∧ t.links = [] ∧ t.flash = s.flash ∧ t.fru = s.fru ∧ t.updLog = s.updLog.map (fun l => { l with todo := [], left := 0 }) ∧ t.pending = s.pending ∧ t.siteTime = s.siteTime ∧ t.order = s.order ∧
    (s.ctxs = [] → s.colOps = [] → (∀ j ∈ s.jobs, freshOp s j = none) → ∀ a, isStore a = false → (∀ n, n < 16 → frEnabled s n = true → ¬ (frBase s n ≤ a ∧ a < frBase s n + frLen s n)) → s.undef = [] → rdByte t a = rdByte s a)) ∧
  (∀ s : State, s.resets.any (fun r => r.dom == 6) = false → ∃ t, exec .por s = .next t ∧ t.updLog = [] ∧ t.fillDue = true ∧ t.flash = s.flash ∧ t.fru = s.fru ∧ t.queues = [] ∧ t.jobs = [] ∧ t.pending = s.pending)

/-- BOOT_ROM, START_UP_STAGE and NEIGHBOUR_CHECK_TIMEOUT (R506, R511, R547–R550). It rests also on the model's own choices of log entries 8, 51, 56, 76. -/
def Obligations.start_up : Prop :=
  (∀ s : State, glbStage s = 0 → tpmCode s = 0 → inModReset s = false →
    ∀ u, u = measExt (measExt { s with rot := { s.rot with boots := (s.rot.boots + 1) % 2 ^ 32 } } 0 Config.romHash) 0 (Config.fuseHash s.rot.floor) →
    exec .bootRom s = .next (match u.rot.pending.filter (imageOk u) with
      | some b => bootBank u b true
      | none => if imageOk u u.rot.active then bootBank u u.rot.active false else answerHeld (putBoot (setCode { u with rot := { u.rot with trial := false } } winTpm 2)))) ∧
  (∀ s : State, (glbStage s ≠ 0 ∨ tpmCode s ≠ 0 ∨ inModReset s = true) → exec .bootRom s = .next s) ∧
  (∀ s : State, inModReset s = false → s.pins.resetLow = false → glbStage s = 0 → tpmCode s = 1 →
    exec .startUpStage s = .next (answerHeld (enterStage (measExt (firmwareUp s) 3 (sha512 (natsOf (flashBytes s 0x40000 0x40000)))) 1 0))) ∧
  (∀ s : State, inModReset s = false → s.pins.resetLow = false → glbStage s = 1 → exec .startUpStage s = .next (enterStage (trainMemory s) 2 0)) ∧
  (∀ s : State, inModReset s = false → s.pins.resetLow = false → glbStage s = 2 →
    exec .startUpStage s = .next (fabricUp (enterStage (measExt s 4 (sha512 (imgRuntime s s.rot.booted))) 3 0))) ∧
  (∀ s : State, inModReset s = false → s.pins.resetLow = false → glbStage s = 3 → portsStarted s = true → checkMet s = true → exec .startUpStage s = .next (enterStage s 4 0)) ∧
  (∀ s : State, glbStage s = 3 → inModReset s = false → s.fabricAt + us 2000000 ≤ s.clock →
    exec .neighbourCheckTimeout s = .next (enterStage s 4 (((checkMissing s).map (2 ^ ·)).sum))) ∧
  (∀ s : State, (trainMemory { s with fillDue := true }).mem = [] ∧ (trainMemory { s with fillDue := true }).undef = [] ∧ (trainMemory { s with fillDue := true }).fillDue = false)

/-- READ_CLEAR (R4, R12, R13, R577, R585). It rests also on the model's own choices of log entries 4, 41. -/
def Obligations.register_reads : Prop :=
  (∀ (o off : Nat) (s : State), hartHeld s o = false → winOpen s (offWin off) = true → isMbxPage off = false → pairOf off = none →
    exec (.readClear o off) s = .next (clearRc { s with resp := [w32 (viewReg s off)] } off)) ∧
  (∀ (o lo : Nat) (s : State), hartHeld s o = false → winOpen s (offWin lo) = true → isMbxPage lo = false → pairOf lo = some lo → ∀ u, u = otherLatches s o lo →
    exec (.readClear o lo) s = .next { u with resp := [w32 (viewReg u lo)], rdLatch := latchSet u.rdLatch o (offWin lo) (offIn lo) (w32 (viewReg u (lo + 4))) }) ∧
  (∀ (o lo off : Nat) (s : State), hartHeld s o = false → winOpen s (offWin off) = true → isMbxPage off = false → pairOf off = some lo → off ≠ lo → ∀ u, u = otherLatches s o lo →
    exec (.readClear o off) s = .next { u with resp := [(latchOf u.rdLatch o (offWin lo) (offIn lo)).getD (w32 (viewReg u off))], rdLatch := latchDrop u.rdLatch o (offWin lo) }) ∧
  (∀ (o off : Nat) (s : State), hartHeld s o = false → winHeld s (offWin off) = false → winPresent s.order (offWin off) = false → exec (.readClear o off) s = .next { s with resp := [0] }) ∧
  (∀ (o off : Nat) (s : State), winHeld s (offWin off) = true → exec (.readClear o off) s = .next s) ∧
  (∀ (o off : Nat) (v : Word) (s : State), hartHeld s o = true → exec (.readClear o off) s = .next s ∧ exec (.registerWrite o off v) s = .next s ∧ exec (.tableWrite o off v) s = .next s)

/-- REGISTER_WRITE, TABLE_WRITE and MOR_ENABLE (R13, R333, R559, R575, R585). It rests also on the model's own choices of log entry 41. -/
def Obligations.register_writes : Prop :=
  (∀ (o off : Nat) (v : Word) (s : State), hartHeld s o = false → off % 4 = 0 → off < 2 ^ 24 → winOpen s (offWin off) = true → pairOf off = none → refusedWrite s o off = none →
    exec (.registerWrite o off v) s = .next (writeWord s o off v)) ∧
  (∀ (o off : Nat) (v : Word) (s t : State), hartHeld s o = false → off % 4 = 0 → off < 2 ^ 24 → winOpen s (offWin off) = true → pairOf off = none → refusedWrite s o off = some t →
    exec (.registerWrite o off v) s = .next t) ∧
  (∀ (o lo : Nat) (v : Word) (s : State), hartHeld s o = false → lo % 4 = 0 → lo < 2 ^ 24 → winOpen s (offWin lo) = true → pairOf lo = some lo → pairWritable lo = true → ∀ u, u = otherLatches s o lo →
    exec (.registerWrite o lo v) s = .next { u with wrLatch := latchSet u.wrLatch o (offWin lo) (offIn lo) v }) ∧
  (∀ (o lo off : Nat) (v l : Word) (s : State), hartHeld s o = false → off % 4 = 0 → off < 2 ^ 24 → winOpen s (offWin off) = true → pairOf off = some lo → off ≠ lo → pairWritable lo = true → isMbxPage off = false →
    ∀ u, u = otherLatches s o lo → latchOf u.wrLatch o (offWin lo) (offIn lo) = some l → ∀ w, w = { u with wrLatch := latchDrop u.wrLatch o (offWin lo) } → refusedWrite w o off = none →
    exec (.registerWrite o off v) s = .next (writeWord (writeWord w o lo l) o off v)) ∧
  (∀ (o off e : Nat) (v : Word) (s : State), hartHeld s o = false → off % 4 = 0 → tableSet off = some e → winOpen s (offWin off) = true → pairOf off = none → setWritable s e = true → refusedWrite s o off = none →
    exec (.tableWrite o off v) s = .next (writeWord s o off v)) ∧
  (∀ (o off e : Nat) (s : State), offWin off = winTfr → tableSet off = some e → refusedWrite s o off = if setWritable s e then none else some (rinc s rTFR_TBL_REJ 1)) ∧
  (∀ (o off e : Nat) (v : Word) (s : State), hartHeld s o = false → off % 4 = 0 → tableSet off = some e → winOpen s (offWin off) = true → pairOf off = none → refusedWrite s o off = some (rinc s rTFR_TBL_REJ 1) →
    exec (.tableWrite o off v) s = .next (rinc s rTFR_TBL_REJ 1)) ∧
  (∀ (o off lo e : Nat) (v : Word) (s : State), hartHeld s o = false → off % 4 = 0 → tableSet off = some e → winOpen s (offWin off) = true → pairOf off = some lo → off = lo → pairWritable lo = true → ∀ u, u = otherLatches s o lo →
    exec (.tableWrite o off v) s = .next { u with wrLatch := latchSet u.wrLatch o (offWin lo) (offIn lo) v }) ∧
  (∀ (v : Word) (s : State), ∀ u, u = rputBit (rput s rMOR_CTRL (v &&& 0x80000007)) rREPLAY_STAT 31 false →
    exec (.morEnable v) s = .next (if morOn s = false ∧ wbit v 31 = true then rput64 u rMOR_WR_LO 0 else u))

/-- BLK_COMMIT_COMMIT, BLK_COMMIT_DISCARD, COMMIT_APPLY, STAT_CLR and EVT_TEST (R393, R395, R580, R586, R587). It rests also on the model's own choices of log entry 42. -/
def Obligations.shadow_commit : Prop :=
  (∀ (w g : Nat) (s : State), winOpen s w = true → hasShadow w = true → commitPending s w = false → g = blkGen s w →
    exec (.blkCommitCommit w g) s = .next (rputN s (commitStat w) 1) ∧ exec (.blkCommitDiscard w g) s = .next (rputN (reloadShadow s w) (commitStat w) 0)) ∧
  (∀ (w g : Nat) (s : State), winOpen s w = true → hasShadow w = true → commitPending s w = false → g ≠ blkGen s w →
    ∀ u, u = putOutcome (reloadShadow s w) w 4 0 0 →
    exec (.blkCommitCommit w g) s = .next u ∧ exec (.blkCommitDiscard w g) s = .next u) ∧
  (∀ (w g : Nat) (s : State), winOpen s w = true → hasShadow w = true → commitPending s w = true →
    exec (.blkCommitCommit w g) s = .next (rputBit s (commitStat w) 4 true) ∧ exec (.blkCommitDiscard w g) s = .next (rputBit s (commitStat w) 4 true)) ∧
  (∀ (w : Nat) (s : State), winOpen s w = true → commitPending s w = true → safePoint s w = true → firstRefusal (refusals s (applyShadow s w) w) = none →
    ∀ u, u = bumpGen (commitHooks s (applyShadow s w) w) w → exec (.commitApply w) s = .next (evtSet (putOutcome u w 2 0 0) w 2 (ownEvt u w))) ∧
  (∀ (w off c : Nat) (s : State), winOpen s w = true → commitPending s w = true → safePoint s w = true → firstRefusal (refusals s (applyShadow s w) w) = some (off, c) →
    exec (.commitApply w) s = .next (evtSet (putOutcome (reloadShadow s w) w 3 c off) w 2 (ownEvt s w))) ∧
  (∀ (w g : Nat) (s : State), winOpen s w = true → g = blkGen s w → ∀ u, u = rputBit s (commitStat w) 5 false →
    exec (.statClr w g) s = .next ((rcOffs w).foldl clearRc u) ∧ exec (.evtTest w g) s = .next (evtSet u w 3 (ownEvt u w))) ∧
  (∀ (w g : Nat) (s : State), winOpen s w = true → g ≠ blkGen s w →
    exec (.statClr w g) s = .next (rputBit s (commitStat w) 5 true) ∧ exec (.evtTest w g) s = .next (rputBit s (commitStat w) 5 true))

/-- R12, R13: the access codes RO, RW, RWS and RC of a word under a write, and reserved bits. It rests also on the model's own choices of log entry 41. -/
def Obligations.register_write_fields : Prop :=
  (∀ (s : State) (off b : Nat) (v : Word), commitPending s (offWin off) = false → b < 32 → (∀ f ∈ fieldsAt off, f.acc = .rw ∨ f.acc = .wo ∨ f.acc = .w1c → f.hi < 32 ∧ f.lo ≤ f.hi ∧ (b < f.lo ∨ f.hi < b)) →
    (rget (plainWrite s off v) off).getLsbD b = (rget s off).getLsbD b) ∧
  (∀ (s : State) (off : Nat) (v : Word) (f : Fld), commitPending s (offWin off) = false → f ∈ fieldsAt off → f.acc = .rw → f.lo ≤ f.hi → f.hi < 32 →
    (fieldsAt off).Nodup → (∀ g ∈ fieldsAt off, g ≠ f → g.lo ≤ g.hi ∧ g.hi < 32 ∧ (g.hi < f.lo ∨ f.hi < g.lo)) →
    wbits (rget (plainWrite s off v) off) f.hi f.lo = wbits v f.hi f.lo)

/-- R585. -/
def Obligations.pair_reads_are_whole : Prop :=
  ∀ (o lo : Nat) (s u : State), winOpen s (offWin lo) = true → winOpen u (offWin lo) = true → offWin (lo + 4) = offWin lo → isMbxPage lo = false → isMbxPage (lo + 4) = false →
    pairOf lo = some lo → pairOf (lo + 4) = some lo → hartHeld s o = false → hartHeld u o = false → (∀ t, exec (.readClear o lo) s = .next t → u.rdLatch = t.rdLatch) →
    ∃ t, exec (.readClear o (lo + 4)) u = .next t ∧ t.resp = [w32 (viewReg s (lo + 4))]

/-- The frame of every command over queues, engines, cores, counters, waits, reply slots, held packets, links, resets, the poison list and host windows. It rests also on the model's own choices of log entry 11. -/
def Obligations.frame_of_commands : Prop :=
  ∀ (i : Instr) (s t : State), exec i s = .next t →
    (t.queues = s.queues ∨ (match i with
      | .qTailWrite .. | .queueEnable .. | .resumeRetry .. | .resumeSkip .. | .commandAtHead .. | .commandDispatch .. | .waitTimeout .. | .commandComplete ..
      | .commandFail .. | .ticket .. | .signalAdd .. | .fetchAdd .. | .release .. | .sig .. | .fadd .. | .verdict .. | .counterWaitExpiry .. | .waiterBackstop ..
      | .registrationRetry .. | .synPreempt .. | .codeword .. | .peer .. | .tableWrite .. | .timerFire .. | .write .. | .por | .resetN .. | .computeReset
      | .fabricReset | .sxuReset | .cphReset | .moduleReset | .glbFloeReset .. | .registerWrite .. | .pwrgd .. => True | _ => False)) ∧
    (t.engines = s.engines ∨ (match i with
      | .matmul .. | .pass .. | .drain .. | .drainStreamResume .. | .rampUpStageEnd .. | .holdEnd .. | .rampDownStageEnd .. | .fenceEngine .. | .selftestStart ..
      | .selftestEnd .. | .tableWrite .. | .write .. | .por | .resetN .. | .computeReset | .fabricReset | .sxuReset | .cphReset | .moduleReset | .glbFloeReset ..
      | .registerWrite .. | .pwrgd .. => True | _ => False)) ∧
    (t.cores = s.cores ∨ (match i with
      | .kernel .. | .kernelEcall .. | .kernelFault .. | .kernelTimeout .. | .fenceQueue .. | .fenceIcache .. | .tableWrite .. | .write .. | .por | .resetN ..
      | .computeReset | .fabricReset | .sxuReset | .cphReset | .moduleReset | .glbFloeReset .. | .startUpStage | .registerWrite .. | .pwrgd .. => True | _ => False)) ∧
    ((t.counters, t.checkSigs) = (s.counters, s.checkSigs) ∨ (match i with
      | .commandComplete .. | .ticket .. | .signalAdd .. | .fetchAdd .. | .assign .. | .release .. | .sig .. | .fadd .. | .synPreempt .. | .codeword ..
      | .peer .. | .tableWrite .. | .timerFire .. | .write .. | .por | .resetN .. | .computeReset | .fabricReset | .sxuReset | .cphReset | .moduleReset
      | .glbFloeReset .. | .resetComplete .. | .startUpStage | .commitApply .. | .registerWrite .. | .pwrgd .. => True | _ => False)) ∧
    ((t.waits, t.rwaits) = (s.waits, s.rwaits) ∨ (match i with
      | .qTailWrite .. | .commandAtHead .. | .commandDispatch .. | .waitTimeout .. | .commandComplete .. | .commandFail .. | .cmd .. | .partReportTimer ..
      | .drain .. | .drainStreamResume .. | .dmaCopyRemoteWrite .. | .dmaCopyRemoteRead .. | .dmaCopyHost .. | .accumWriteRemote .. | .ingest .. | .init ..
      | .stepCommit .. | .audit .. | .idleLogReplay | .retirementWaitMet .. | .genTimeout .. | .t2TransferDone .. | .tierTimeout .. | .updAdmit | .ticket ..
      | .signalAdd .. | .fetchAdd .. | .release .. | .sig .. | .fadd .. | .waitRegistration .. | .verdict .. | .counterWaitExpiry .. | .waiterBackstop ..
      | .registrationRetry .. | .synPreempt .. | .codeword .. | .peer .. | .rspAck .. | .rdata .. | .replyTimeout .. | .tfrQuiesce .. | .tableWrite .. | .roundOpen
      | .roundDeadline | .send .. | .merge .. | .thawExch .. | .thawApply .. | .joinSite .. | .peerCtlIsolate .. | .peerCtlAbandon .. | .thawTimeout ..
      | .joinTimeout | .delta .. | .done .. | .acnisAck .. | .thawDelta .. | .thawDone .. | .joinGrant .. | .snap .. | .snapDone .. | .timerFire .. | .governorTick ..
      | .thermCrit .. | .voltageAlarm | .clockAlarm | .lidAlarm | .sxuCipherRequest .. | .write .. | .roceAckTimeout .. | .por | .resetN .. | .computeReset
      | .fabricReset | .sxuReset | .cphReset | .moduleReset | .glbFloeReset .. | .resetComplete .. | .commitApply .. | .registerWrite .. | .pwrgd .. | .roceAck .. => True | _ => False)) ∧
    (t.slots = s.slots ∨ (match i with
      | .commandDispatch .. | .commandComplete .. | .commandFail .. | .partReportTimer .. | .drain .. | .drainStreamResume .. | .dmaCopyRemoteWrite .. | .dmaCopyRemoteRead ..
      | .accumWriteRemote .. | .ticket .. | .signalAdd .. | .fetchAdd .. | .codeword .. | .peer .. | .rspAck .. | .rdata .. | .replyTimeout .. | .tfrQuiesce ..
      | .tableWrite .. | .write .. | .por | .resetN .. | .computeReset | .fabricReset | .sxuReset | .cphReset | .moduleReset | .glbFloeReset .. | .commitApply ..
      | .registerWrite .. | .pwrgd .. => True | _ => False)) ∧
    (t.held = s.held ∨ (match i with
      | .cmd .. | .rpt .. | .voteUp .. | .voteDown .. | .join .. | .grant .. | .data .. | .abort .. | .sig .. | .fadd .. | .waitRegistration .. | .verdict ..
      | .codeword .. | .nak .. | .credit .. | .laneLockLoss .. | .noCodeword .. | .portEnable .. | .retrain .. | .route .. | .wr .. | .acc .. | .rd .. | .rspAck ..
      | .rdata .. | .tableWrite .. | .write .. | .por | .resetN .. | .computeReset | .fabricReset | .sxuReset | .cphReset | .moduleReset | .glbFloeReset ..
      | .registerWrite .. | .pwrgd .. => True | _ => False)) ∧
    (t.links = s.links ∨ (match i with
      | .codeword .. | .nak .. | .ack .. | .credit .. | .trainingAttempt .. | .peer .. | .laneLockLoss .. | .noCodeword .. | .portEnable .. | .retrain ..
      | .route .. | .tableWrite .. | .write .. | .por | .resetN .. | .computeReset | .fabricReset | .sxuReset | .cphReset | .moduleReset | .glbFloeReset ..
      | .registerWrite .. | .pwrgd .. => True | _ => False)) ∧
    (t.resets = s.resets ∨ (match i with
      | .tableWrite .. | .write .. | .por | .resetN .. | .computeReset | .fabricReset | .sxuReset | .cphReset | .moduleReset | .glbFloeReset .. | .resetComplete ..
      | .registerWrite .. | .pwrgd .. => True | _ => False)) ∧
    (t.poisoned = s.poisoned ∨ (match i with
      | .cmd .. | .rpt .. | .sig .. | .fadd .. | .wr .. | .acc .. | .rd .. | .poisonListExpiry .. | .tableWrite .. | .write .. | .por | .resetN .. | .computeReset
      | .fabricReset | .sxuReset | .cphReset | .moduleReset | .glbFloeReset .. | .registerWrite .. | .pwrgd .. => True | _ => False)) ∧
    (t.hosts = s.hosts ∨ (match i with
      | .dmaCopyHost .. | .ingest .. | .init .. | .stepCommit .. | .audit .. | .idleLogReplay | .retirementWaitMet .. | .genTimeout .. | .t2TransferDone ..
      | .tierTimeout .. | .updAdmit | .tableWrite .. | .roundOpen | .roundDeadline | .send .. | .merge .. | .thawExch .. | .thawApply .. | .joinSite ..
      | .peerCtlIsolate .. | .peerCtlAbandon .. | .thawTimeout .. | .joinTimeout | .delta .. | .done .. | .acnisAck .. | .thawDelta .. | .thawDone .. | .joinGrant ..
      | .snap .. | .snapDone .. | .governorTick .. | .thermCrit .. | .voltageAlarm | .clockAlarm | .lidAlarm | .sxuCipherRequest .. | .write .. | .roceAckTimeout ..
      | .congestionNotification .. | .rateRestore .. | .por | .resetN .. | .computeReset | .fabricReset | .sxuReset | .cphReset | .moduleReset | .glbFloeReset ..
      | .resetComplete .. | .commitApply .. | .registerWrite .. | .pwrgd .. | .roceAck .. => True | _ => False))

/-- The frame of every command over the shadow, site time, collective operations, the governor, the pins and FRU memory, module flash, UPD, the cipher engine, site exchange, Ethernet, the pair latches and the memory arbiters. It rests also on the model's own choices of log entry 11. -/
def Obligations.frame_of_units : Prop :=
  ∀ (i : Instr) (s t : State), exec i s = .next t →
    (t.shadow = s.shadow ∨ (match i with
      | .fenceEngine .. | .portEnable .. | .tableWrite .. | .write .. | .por | .resetN .. | .computeReset | .fabricReset | .sxuReset | .cphReset | .moduleReset
      | .glbFloeReset .. | .startUpStage | .blkCommitCommit .. | .blkCommitDiscard .. | .commitApply .. | .registerWrite .. | .pwrgd .. => True | _ => False)) ∧
    ((t.clock, t.siteTime, t.time) = (s.clock, s.siteTime, s.time) ∨ (match i with
      | .tableWrite .. | .ppsEdge .. | .ppsMissing | .ptpSync .. | .ptpDelayResp .. | .ptpLock | .ptpLoss | .write .. | .por | .resetN .. | .computeReset
      | .fabricReset | .sxuReset | .cphReset | .moduleReset | .glbFloeReset .. | .resetComplete .. | .registerWrite .. | .pwrgd .. => True | _ => False)) ∧
    ((t.colOps, t.colHeld, t.gLive) = (s.colOps, s.colHeld, s.gLive) ∨ (match i with
      | .stepVote .. | .voteUp .. | .voteDown .. | .allReduce .. | .reduceScatter .. | .allGather .. | .allToAll .. | .broadcast .. | .barrier .. | .join ..
      | .grant .. | .data .. | .abort .. | .colTimeout .. | .contextGranted | .gEnginesRefresh .. | .codeword .. | .nak .. | .laneLockLoss .. | .noCodeword ..
      | .portEnable .. | .retrain .. | .tableWrite .. | .write .. | .por | .resetN .. | .computeReset | .fabricReset | .sxuReset | .cphReset | .moduleReset
      | .glbFloeReset .. | .commitApply .. | .registerWrite .. | .pwrgd .. => True | _ => False)) ∧
    ((t.gov, t.brdLast) = (s.gov, s.brdLast) ∨ (match i with
      | .pass .. | .tableWrite .. | .governorTick .. | .staggerEnd | .thermCrit .. | .grantEffective | .coolant .. | .grid .. | .status .. | .grantLost
      | .coolantTimeout | .gridLossN .. | .write .. | .por | .resetN .. | .computeReset | .fabricReset | .sxuReset | .cphReset | .moduleReset | .glbFloeReset ..
      | .boardFrameEnd .. | .registerWrite .. | .pwrgd .. => True | _ => False)) ∧
    ((t.pins, t.fru) = (s.pins, s.fru) ∨ (match i with
      | .tableWrite .. | .gridLossN .. | .voltageAlarm | .clockAlarm | .lidAlarm | .write .. | .por | .resetN .. | .computeReset | .fabricReset | .sxuReset
      | .cphReset | .moduleReset | .glbFloeReset .. | .resetComplete .. | .registerWrite .. | .pwrgd .. | .fruWrite .. | .testAccessPort .. => True | _ => False)) ∧
    ((t.flash, t.rot, t.idKey, t.fwMem) = (s.flash, s.rot, s.idKey, s.fwMem) ∨ (match i with
      | .tableWrite .. | .governorTick .. | .thermCrit .. | .voltageAlarm | .clockAlarm | .lidAlarm | .openSession .. | .keyx .. | .write .. | .fwWrite ..
      | .fwActivate .. | .fwCommit .. | .claim .. | .close .. | .sessionIdleTimeout .. | .por | .resetN .. | .computeReset | .fabricReset | .sxuReset | .cphReset
      | .moduleReset | .glbFloeReset .. | .resetComplete .. | .bootRom | .startUpStage | .registerWrite .. | .pwrgd .. => True | _ => False)) ∧
    ((t.updRuns, t.updLog) = (s.updRuns, s.updLog) ∨ (match i with
      | .ingest .. | .init .. | .stepCommit .. | .audit .. | .idleLogReplay | .retirementWaitMet .. | .genTimeout .. | .t2TransferDone .. | .tierTimeout ..
      | .updAdmit | .tableWrite .. | .roundOpen | .roundDeadline | .send .. | .merge .. | .thawExch .. | .thawApply .. | .joinSite .. | .peerCtlIsolate ..
      | .peerCtlAbandon .. | .thawTimeout .. | .joinTimeout | .delta .. | .done .. | .acnisAck .. | .thawDelta .. | .thawDone .. | .joinGrant .. | .snap ..
      | .snapDone .. | .governorTick .. | .thermCrit .. | .voltageAlarm | .clockAlarm | .lidAlarm | .sxuCipherRequest .. | .write .. | .roceAckTimeout ..
      | .por | .resetN .. | .computeReset | .fabricReset | .sxuReset | .cphReset | .moduleReset | .glbFloeReset .. | .resetComplete .. | .commitApply ..
      | .registerWrite .. | .pwrgd .. | .roceAck .. => True | _ => False)) ∧
    ((t.roots, t.keySlots, t.ctxs, t.cphQ, t.sxuWait) = (s.roots, s.keySlots, s.ctxs, s.cphQ, s.sxuWait) ∨ (match i with
      | .commandDispatch .. | .tableWrite .. | .roundOpen | .roundDeadline | .send .. | .merge .. | .thawExch .. | .thawApply .. | .joinSite .. | .peerCtlIsolate ..
      | .peerCtlAbandon .. | .thawTimeout .. | .joinTimeout | .segmentTransmit .. | .probe .. | .probePeriodic | .delta .. | .done .. | .acnisAck .. | .acnisRto ..
      | .thawDelta .. | .thawDone .. | .joinReq .. | .joinReqRepeat | .joinGrant .. | .snapSend | .snap .. | .snapDone .. | .snapDeadline | .governorTick ..
      | .thermCrit .. | .voltageAlarm | .clockAlarm | .lidAlarm | .gcmSeal .. | .gcmOpen .. | .ctr .. | .cmac .. | .stream .. | .ctxSave .. | .ctxRestore ..
      | .derive .. | .erase .. | .cmdQueueEntryFreed | .sxuCipherRequest .. | .rootLoad .. | .rootClear .. | .write .. | .keyLoad .. | .por | .resetN ..
      | .computeReset | .fabricReset | .sxuReset | .cphReset | .moduleReset | .glbFloeReset .. | .resetComplete .. | .commitApply .. | .registerWrite ..
      | .pwrgd .. => True | _ => False)) ∧
    ((t.sxPeers, t.sxRuns, t.sxOut, t.sxIn, t.sxJoin) = (s.sxPeers, s.sxRuns, s.sxOut, s.sxIn, s.sxJoin) ∨ (match i with
      | .tableWrite .. | .roundOpen | .roundDeadline | .send .. | .merge .. | .thawExch .. | .thawApply .. | .joinSite .. | .peerCtlIsolate .. | .peerCtlAbandon ..
      | .thawTimeout .. | .joinTimeout | .segmentTransmit .. | .probe .. | .probeReply .. | .probePeriodic | .delta .. | .done .. | .nack .. | .acnisAck ..
      | .acnisRto .. | .deltaSendStop | .thawDelta .. | .thawDone .. | .joinReq .. | .joinReqRepeat | .joinGrant .. | .snapSend | .snap .. | .snapDone ..
      | .snapDeadline | .leave .. | .governorTick .. | .thermCrit .. | .voltageAlarm | .clockAlarm | .lidAlarm | .sxuCipherRequest .. | .write .. | .por
      | .resetN .. | .computeReset | .fabricReset | .sxuReset | .cphReset | .moduleReset | .glbFloeReset .. | .resetComplete .. | .commitApply .. | .registerWrite ..
      | .pwrgd .. => True | _ => False)) ∧
    ((t.ethRem, t.ethBuf) = (s.ethRem, s.ethBuf) ∨ (match i with
      | .tableWrite .. | .write .. | .ethFrameReceive .. | .por | .resetN .. | .computeReset | .fabricReset | .sxuReset | .cphReset | .moduleReset | .glbFloeReset ..
      | .registerWrite .. | .pwrgd .. => True | _ => False)) ∧
    ((t.rdLatch, t.wrLatch) = (s.rdLatch, s.wrLatch) ∨ (match i with
      | .mbxPost .. | .mbxReceive .. | .tableWrite .. | .read .. | .write .. | .por | .resetN .. | .computeReset | .fabricReset | .sxuReset | .cphReset
      | .moduleReset | .glbFloeReset .. | .readClear .. | .registerWrite .. | .pwrgd .. => True | _ => False)) ∧
    ((t.chans, t.banks, t.badWords, t.weak) = (s.chans, s.banks, s.badWords, s.weak) ∨ (match i with
      | .qTailWrite .. | .resumeRetry .. | .resumeSkip .. | .commandAtHead .. | .commandDispatch .. | .waitTimeout .. | .commandComplete .. | .commandFail ..
      | .cmd .. | .rpt .. | .partReportTimer .. | .reportTimeout .. | .pass .. | .drain .. | .drainStreamResume .. | .fenceEngine .. | .selftestStart ..
      | .selftestEnd .. | .elemwiseAdd .. | .elemwiseSub .. | .elemwiseMul .. | .elemwiseDiv .. | .elemwiseSqrt .. | .elemwiseFma .. | .elemwiseMin .. | .elemwiseMax ..
      | .elemwiseMinnum .. | .elemwiseMaxnum .. | .cmpq .. | .cmps .. | .cvt .. | .cvtToInt .. | .cvtFromInt .. | .roundint .. | .augAdd .. | .augMul ..
      | .classOf .. | .copysign .. | .neg .. | .abs .. | .kernel .. | .kernelEcall .. | .kernelFault .. | .kernelTimeout .. | .dmaCopyLocal .. | .dmaCopyRemoteWrite ..
      | .dmaCopyRemoteRead .. | .dmaCopyHost .. | .accumWriteLocal .. | .accumWriteRemote .. | .firnSeal .. | .firnRelearn .. | .firnExport .. | .firnImport ..
      | .firnDiscard .. | .firnBlockWrite .. | .reEncodeStep .. | .firnInitDone .. | .hbmScrub .. | .storeScrub .. | .ingest .. | .init .. | .stepCommit ..
      | .audit .. | .idleLogReplay | .retirementWaitMet .. | .genTimeout .. | .t2TransferDone .. | .tierTimeout .. | .updAdmit | .stepVote .. | .voteUp ..
      | .voteDown .. | .allReduce .. | .reduceScatter .. | .allGather .. | .allToAll .. | .broadcast .. | .barrier .. | .join .. | .grant .. | .data ..
      | .abort .. | .colTimeout .. | .contextGranted | .ticket .. | .signalAdd .. | .fetchAdd .. | .assign .. | .release .. | .sig .. | .fadd .. | .verdict ..
      | .counterWaitExpiry .. | .waiterBackstop .. | .registrationRetry .. | .synPreempt .. | .codeword .. | .nak .. | .trainingAttempt .. | .peer .. | .laneLockLoss ..
      | .noCodeword .. | .portEnable .. | .retrain .. | .route .. | .wr .. | .acc .. | .rd .. | .rspAck .. | .rdata .. | .replyTimeout .. | .tfrQuiesce ..
      | .tableWrite .. | .roundOpen | .roundDeadline | .send .. | .merge .. | .thawExch .. | .thawApply .. | .joinSite .. | .peerCtlIsolate .. | .peerCtlAbandon ..
      | .thawTimeout .. | .joinTimeout | .segmentTransmit .. | .probe .. | .probeReply .. | .probePeriodic | .delta .. | .done .. | .acnisAck .. | .acnisRto ..
      | .thawDelta .. | .thawDone .. | .joinReq .. | .joinReqRepeat | .joinGrant .. | .snapSend | .snap .. | .snapDone .. | .snapDeadline | .ppsEdge ..
      | .ppsMissing | .ptpSync .. | .ptpDelayResp .. | .ptpLock | .ptpLoss | .holdoverLimit | .timerFire .. | .governorTick .. | .thermCrit .. | .coolant ..
      | .grid .. | .grantLost | .gridLossN .. | .park | .parked | .unpark | .unparkDone | .voltageAlarm | .clockAlarm | .lidAlarm | .gcmSeal .. | .gcmOpen ..
      | .ctr .. | .cmac .. | .stream .. | .ctxSave .. | .ctxRestore .. | .derive .. | .erase .. | .cmdQueueEntryFreed | .sxuCipherRequest .. | .read ..
      | .write .. | .roceAckTimeout .. | .por | .resetN .. | .computeReset | .fabricReset | .sxuReset | .cphReset | .moduleReset | .glbFloeReset .. | .resetComplete ..
      | .bootRom | .startUpStage | .neighbourCheckTimeout | .boardFrameEnd .. | .blkCommitCommit .. | .blkCommitDiscard .. | .commitApply .. | .statClr ..
      | .evtTest .. | .readClear .. | .registerWrite .. | .pwrgd .. | .ethLink .. | .roceAck .. => True | _ => False))

/-- The frame of memory, of the registers and of the commands in flight, each for the commands that touch none of it. It rests also on the model's own choices of log entry 11. -/
def Obligations.frame_of_memory : Prop :=
  (∀ (i : Instr) (s t : State), exec i s = .next t → (match i with
      | .queueEnable .. | .partComplete .. | .partFail .. | .matmul .. | .rampUpStageEnd .. | .holdEnd .. | .rampDownStageEnd .. | .fenceQueue .. | .fenceIcache ..
      | .updAbort .. | .gEnginesRefresh .. | .wait .. | .waitRegistration .. | .mbxPost .. | .mbxReceive .. | .mbxLockAcquire .. | .mbxLockRelease .. | .mbxForce ..
      | .mbxHb .. | .ack .. | .credit .. | .poisonListExpiry .. | .nack .. | .deltaSendStop | .leave .. | .staggerEnd | .grantEffective | .status .. | .coolantTimeout
      | .rootLoad .. | .rootClear .. | .lidEnWrite .. | .openSession .. | .certGet .. | .keyx .. | .read .. | .eventAck .. | .eventResend .. | .keyLoad ..
      | .fwWrite .. | .fwActivate .. | .fwCommit .. | .claim .. | .close .. | .keepalive .. | .sessionIdleTimeout .. | .tpmMeasExt .. | .congestionNotification ..
      | .rateRestore .. | .ethFrameReceive .. | .neighbourSolicitation .. | .morEnable .. | .readClear .. | .fruWrite .. | .testAccessPort .. => True | _ => False) → ∀ a, rdByte t a = rdByte s a) ∧
  (∀ (i : Instr) (s t : State), exec i s = .next t → (match i with
      | .queueEnable .. | .partComplete .. | .partFail .. | .matmul .. | .holdEnd .. | .rampDownStageEnd .. | .fenceQueue .. | .fenceIcache .. | .wait ..
      | .ack .. | .poisonListExpiry .. | .nack .. | .leave .. | .staggerEnd | .grantEffective | .status .. | .congestionNotification .. | .rateRestore ..
      | .fruWrite .. | .testAccessPort .. => True | _ => False) → ∀ off, rget t off = rget s off) ∧
  (∀ (i : Instr) (s t : State), exec i s = .next t → (match i with
      | .queueEnable .. | .resumeRetry .. | .resumeSkip .. | .rampUpStageEnd .. | .holdEnd .. | .rampDownStageEnd .. | .fenceEngine .. | .selftestStart ..
      | .selftestEnd .. | .firnBlockWrite .. | .reEncodeStep .. | .firnInitDone .. | .hbmScrub .. | .storeScrub .. | .idleLogReplay | .updAbort .. | .gEnginesRefresh ..
      | .waitRegistration .. | .mbxPost .. | .mbxReceive .. | .mbxLockAcquire .. | .mbxLockRelease .. | .mbxForce .. | .mbxHb .. | .ack .. | .credit ..
      | .trainingAttempt .. | .route .. | .wr .. | .acc .. | .rd .. | .poisonListExpiry .. | .segmentTransmit .. | .probe .. | .probeReply .. | .probePeriodic
      | .nack .. | .acnisRto .. | .deltaSendStop | .joinReq .. | .joinReqRepeat | .snapSend | .snapDeadline | .leave .. | .ppsEdge .. | .ppsMissing | .ptpSync ..
      | .ptpDelayResp .. | .ptpLock | .ptpLoss | .holdoverLimit | .staggerEnd | .grantEffective | .coolant .. | .grid .. | .status .. | .grantLost | .coolantTimeout
      | .gridLossN .. | .park | .parked | .unpark | .unparkDone | .cmdQueueEntryFreed | .rootLoad .. | .rootClear .. | .lidEnWrite .. | .openSession ..
      | .certGet .. | .keyx .. | .read .. | .eventAck .. | .eventResend .. | .keyLoad .. | .fwWrite .. | .fwActivate .. | .fwCommit .. | .claim .. | .close ..
      | .keepalive .. | .sessionIdleTimeout .. | .tpmMeasExt .. | .congestionNotification .. | .rateRestore .. | .ethFrameReceive .. | .neighbourSolicitation ..
      | .bootRom | .startUpStage | .neighbourCheckTimeout | .boardFrameEnd .. | .blkCommitCommit .. | .blkCommitDiscard .. | .statClr .. | .evtTest .. | .morEnable ..
      | .readClear .. | .ethLink .. | .fruWrite .. | .testAccessPort .. => True | _ => False) → t.jobs = s.jobs)

/-- The block's step on a queue that is not empty (the queue of waiting commands is the model's, log entry 1). -/
def Obligations.step_runs_front : Prop :=
  ∀ (c : Instr) (r : List Instr) (s : State), s.pending = c :: r → step s = exec c { s with pending := r }

/-- The idle step (a choice of the model, log entry 1), with the slew of R454. -/
def Obligations.idle_step : Prop :=
  (∀ s : State, s.pending = [] → s.time.offset = 0 → ∃ t, step s = .next t ∧ t.clock = s.clock + 1 ∧ t.siteTime = s.siteTime + 1 ∧ t.regs = s.regs ∧ t.mem = s.mem ∧ t.queues = s.queues ∧ t.jobs = s.jobs ∧ t.counters = s.counters ∧ t.engines = s.engines) ∧
  (∀ s : State, s.pending = [] → ∃ t, step s = .next t ∧ (s.time.offset - t.time.offset).natAbs ≤ 1 ∧ t.siteTime = s.siteTime + BitVec.ofInt 64 (1 + (s.time.offset - t.time.offset)))

/-- The block has no stop: an event whose condition does not hold leaves the state unchanged, errors are reported in the block's own registers and records. It rests also on the model's own choices of log entry 11. -/
def Obligations.nothing_stops : Prop :=
  (∀ (c : Instr) (s : State), ∃ t, exec c s = .next t) ∧
  (∀ s : State, safeStep s = true)

/-- The invariant of the machine: memory, registers, the shadow, queues, engines, counters, links, sessions, host windows, keys, contexts, peers, flash and the FRU memory are held in one form, so that equal contents are equal data; the order code is fixed; a command adds none to the queue. It rests also on the model's own choices of log entry 6. -/
def Obligations.step_keeps_canonical : Prop :=
  ∀ s t : State, s.canonical = true → step s = .next t → t.canonical = true ∧ t.order = s.order ∧ t.pending = s.pending.tail

/-- R543, R547: State.reset. It rests also on the model's own choices of log entries 3, 8, 9, 59. -/
def Obligations.reset_is_canonical : Prop :=
  State.reset.canonical = true ∧ State.reset.pending = [] ∧ (∀ q, (getQ State.reset q).enable = false ∧ (getQ State.reset q).st = .disabled) ∧ (∀ e, getE State.reset e = {} ∧ (getE State.reset e).act = .idle) ∧
    (∀ c, (getC State.reset c).st = .free) ∧ (∀ c, getCore State.reset c = none) ∧ (∀ p, p < 8 → portUp State.reset p = false) ∧ State.reset.resets = [] ∧ glbStage State.reset = 0 ∧ tpmCode State.reset = 0

/-- R53 and R54. A P4 value is shown by twice itself, an integer. -/
def Obligations.value_tables : Prop :=
  (fmtDec fP8B 0x7C = .inf false ∧ fmtDec fP8B 0xFC = .inf true ∧ (∀ c ∈ [0x7D, 0x7E, 0x7F, 0xFD, 0xFE, 0xFF], fmtDec fP8B c = .nan false ∨ fmtDec fP8B c = .nan true) ∧
    (∃ e, fmtDec fP8B 0 = .fin false 0 e) ∧ (∃ e, fmtDec fP8B 0x80 = .fin true 0 e)) ∧
  ((∀ p ∈ ([(0, 0), (1, 1), (2, 2), (3, 3), (4, 4), (5, 6), (6, 8), (7, 12)] : List (Nat × Nat)), ∃ (a : Nat) (e : Int), blkVal 6 p.1 = .fin false a e ∧ 0 ≤ e + 1 ∧ a * 2 ^ (e + 1).toNat = p.2) ∧
    (∀ p ∈ ([(9, 1), (10, 2), (11, 3), (12, 4), (13, 6), (14, 8), (15, 12)] : List (Nat × Nat)), ∃ (a : Nat) (e : Int), blkVal 6 p.1 = .fin true a e ∧ 0 ≤ e + 1 ∧ a * 2 ^ (e + 1).toNat = p.2) ∧
    ∃ e, blkVal 6 8 = .fin false 0 e) ∧
  ([0, 1, 2, 3, 4, 5, 6, 7].map (blkVal 7) = [.fin false 0 0, .fin false 1 0, .fin false 2 0, .fin false 3 0, .fin false 0 0, .fin true 1 0, .fin true 2 0, .fin true 3 0] ∧
    [0, 1, 2, 3].map (blkVal 8) = [.fin false 1 0, .fin false 3 0, .fin true 1 0, .fin true 3 0] ∧
    [0, 1, 2, 3].map (blkVal 9) = [.fin false 0 0, .fin false 1 0, .fin false 0 0, .fin true 1 0])

/-- R189 and R352: both divide by floors. -/
def Obligations.division_is_a_partition : Prop :=
  (∀ (r : Nat × Nat) (n k : Nat), r.1 ≤ r.2 → 0 < n → (chunkOf r n 0).1 = r.1 ∧ (chunkOf r n (n - 1)).2 = r.2 ∧ (chunkOf r n k).2 = (chunkOf r n (k + 1)).1 ∧ (chunkOf r n k).1 ≤ (chunkOf r n k).2) ∧
  (∀ (lo hi u : Nat) (kids : List Nat), kids ≠ [] → lo ≤ u → u < hi → ((splitUnits lo hi kids).filter (fun p => decide (p.2.1 ≤ u ∧ u < p.2.2))).length = 1) ∧
  (∀ (lo hi : Nat) (kids : List Nat) (p : Nat × Nat × Nat), lo ≤ hi → p ∈ splitUnits lo hi kids → p.1 ∈ kids ∧ lo ≤ p.2.1 ∧ p.2.1 < p.2.2 ∧ p.2.2 ≤ hi)

/-- R4 (R573 says the same of an unassigned window). The first three clauses say which windows those are. -/
def Obligations.absent_windows : Prop :=
  (winPresent .l384 winSxu = false ∧ winPresent .l384 winCph = false ∧ (∀ k, k < 4 → winPresent .x192 (winMem (4 + k)) = false)) ∧
  (∀ w, winBlk w = none → ∀ o, winPresent o w = false) ∧
  (∀ (o off : Nat) (s : State), hartHeld s o = false → winPresent s.order (offWin off) = false → exec (.readClear o off) s = .next { s with resp := [0] } ∧ readAll o [off] s = ({ s with resp := [0] }, [0])) ∧
  (∀ (o off : Nat) (v : Word) (s : State), winPresent s.order (offWin off) = false → exec (.registerWrite o off v) s = .next s ∧ exec (.tableWrite o off v) s = .next s)

/-- R66 and R67: the value of the code written, for every magnitude m · 2^e. -/
def Obligations.p2_and_pt_rounding : Prop :=
  (∀ (neg : Bool) (m : Nat) (e : Int), blkVal 8 (blkRound 8 neg m e) = .fin neg (if (m : ℚ) * (2 : ℚ) ^ e ≤ 2 then 1 else 3) 0) ∧
  (∀ (neg : Bool) (m : Nat) (e : Int), blkVal 9 (blkRound 9 neg m e) = if (m : ℚ) * (2 : ℚ) ^ e ≤ 1 / 2 then .fin false 0 0 else .fin neg 1 0)

/-- R62: of all the magnitudes a P8A code can hold none is nearer than the one written, and one as near has an odd code where the one written is even; on that grid, which ends at 480, a larger magnitude is nearest to 480. -/
def Obligations.p8a_conversion : Prop :=
  (∀ (neg : Bool) (m : Nat) (e : Int) (d n : Nat) (f : Int), d < 128 → p8aDec d = .fin false n f →
    ∃ (c k : Nat) (g : Int), c < 128 ∧ p8aDec c = .fin false k g ∧ p8aEnc (.fin neg m e) = (if c = 0 then 0 else if neg then 128 + c else c) ∧
      |(m : ℚ) * (2 : ℚ) ^ e - k * (2 : ℚ) ^ g| ≤ |(m : ℚ) * (2 : ℚ) ^ e - n * (2 : ℚ) ^ f| ∧
      (|(m : ℚ) * (2 : ℚ) ^ e - k * (2 : ℚ) ^ g| = |(m : ℚ) * (2 : ℚ) ^ e - n * (2 : ℚ) ^ f| → c = d ∨ c % 2 = 0)) ∧
  ((∃ (k : Nat) (g : Int), p8aDec 127 = .fin false k g ∧ (k : ℚ) * (2 : ℚ) ^ g = 480) ∧ (∃ (k : Nat) (g : Int), p8aDec 255 = .fin true k g ∧ (k : ℚ) * (2 : ℚ) ^ g = 480) ∧
    p8aEnc (.inf false) = 127 ∧ p8aEnc (.inf true) = 255 ∧ (∀ b, p8aEnc (.nan b) = 0x80) ∧ ∀ (neg : Bool) (e : Int), p8aEnc (.fin neg 0 e) = 0)

/-- The grants of the arbiters: R373–R375, R377. The state before a grant and what is pending are any; a command of the model makes its accesses within one step, so that it finds no other source's access pending (log entry 12). -/
def Obligations.arbitration : Prop :=
  (∀ (l : Losses MemSource) (ps : List MemSource) (m x : MemSource), ps.Nodup → x ∈ ps → x ≠ m → lossOf (noteGrant l ps m) x = lossOf l x + 1) ∧
  (∀ (l : Losses MemSource) (ps : List MemSource) (m : MemSource), lossOf (noteGrant l ps m) m = 0 ∧ m ∉ (noteGrant l ps m).promoted) ∧
  (∀ (l : Losses MemSource) (m : MemSource), lossOf l m = 63 → (loseOne l m).promoted = l.promoted ++ [m] ∧ (loseOne l m).promos = l.promos + 1) ∧
  (∀ (ws : List Nat) (ps : List MemSource) (bg : Bool) (a : ChanArb) (m : MemSource), a.losses.promoted.find? (fun m => ps.contains m) = some m →
    chanGrant ws ps bg a = (.source m, countGrant { a with losses := lossesAfter a.losses ps m } m)) ∧
  (∀ (a : ChanArb) (b : Nat) (ps : List MemSource), (holdBlock a b).losses.promoted = a.losses.promoted ++ [.holder b] ∧ .holder b ∈ (lossesAfter a.losses ps (.holder b)).promoted ∧
    .holder b ∉ (freeBlock a b).losses.promoted) ∧
  (∀ (ws : List Nat) (ps : List MemSource) (bg : Bool) (a : ChanArb) (m : MemSource), a.losses.promoted.find? (fun m => ps.contains m) = none → a.left ≠ 0 →
    classTurn a ps a.visit = some m → ∀ b, b = noteTurn { a with left := a.left - 1 } a.visit m →
    chanGrant ws ps bg a = (.source m, countGrant { b with losses := lossesAfter b.losses ps m } m)) ∧
  (∀ (s : State) (f : Bool) (m : MemSource) (a n c : Nat), inHbm s.order a = true → n ≠ 0 → a % 4096 + n ≤ 4096 → hbmChannel s.order a = c →
    accessMem s f m a n = putChan s c (chanTimes (arbWeights s (c / 32)) m (cdiv (a + n) 64 - a / 64) (getChan s c))) ∧
  (∀ (ws : List Nat) (a : ChanArb), chanGrant ws [] true a = (.background, a) ∧ chanGrant ws [] false a = (.idle, a)) ∧
  (∀ (ps : List BankSource) (a : BankArb), (a.fetched = false → (bankGrant true ps a).1 = .fetch ∧ (bankGrant true ps a).2.fetched = true) ∧
    (a.fetched = true → (bankGrant true ps a).1 ≠ .fetch ∧ (bankGrant true ps a).2.fetched = false))

/-- R318: the header of a packet loses none of its fields. The names of a packet's sender and of its way on, which the model keeps beside it, are not on the wire (log entries 17, 62). -/
def Obligations.packet_round_trip : Prop :=
  ∀ pk : Pkt, pk.wf = true → pk.aux = [] → pk.via = none → pktOf (pktBytes pk) pk.poisoned = pk
end

