-- ==== Sys2Proof/Laws/Maps.lean ====
section
/-! SUPPORT. The laws of sparse maps and of memory: read after write, and the canonical form kept. -/

namespace Sys2Proof.Machine

variable {α : Type}

/-! ### Reading after writing -/

theorem smGet_smPut_same (d : Nat → α) (m : SMap α) (k : Nat) (v : α) (h : ∀ p ∈ m, p.1 ≠ k) : smGet d (smPut k v m) k = v := by
  induction m with
  | nil => simp [smPut, smGet]
  | cons p r ih =>
    obtain ⟨k', v'⟩ := p
    have hk : k' ≠ k := h _ (List.mem_cons_self ..)
    have hr : ∀ p ∈ r, p.1 ≠ k := fun p hp => h p (List.mem_cons_of_mem _ hp)
    by_cases c : k < k'
    · simp [smPut, c, smGet]
    · simp [smPut, c, smGet, ih hr, Ne.symm hk]
theorem smGet_smPut_other (d : Nat → α) (m : SMap α) (k a : Nat) (v : α) (h : a ≠ k) : smGet d (smPut k v m) a = smGet d m a := by
  induction m with
  | nil => simp [smPut, smGet, h]
  | cons p r ih =>
    obtain ⟨k', v'⟩ := p
    by_cases c : k < k'
    · simp [smPut, c, smGet, h]
    · simp [smPut, c, smGet, ih]
theorem smGet_smDel_same (d : Nat → α) (m : SMap α) (k : Nat) : smGet d (smDel m k) k = d k := by
  induction m with
  | nil => simp [smDel, smGet]
  | cons p r ih =>
    obtain ⟨k', v'⟩ := p
    by_cases c : k' = k
    · subst c; simpa [smDel] using ih
    · simp only [smDel, List.filter_cons] at ih ⊢
      simp [c, smGet, Ne.symm c, ih]
theorem smGet_smDel_other (d : Nat → α) (m : SMap α) (k a : Nat) (h : a ≠ k) : smGet d (smDel m k) a = smGet d m a := by
  induction m with
  | nil => simp [smDel, smGet]
  | cons p r ih =>
    obtain ⟨k', v'⟩ := p
    simp only [smDel, List.filter_cons] at ih ⊢
    by_cases c : k' = k
    · subst c; simpa [smGet, h] using ih
    · by_cases e : a = k'
      · simp [c, smGet, e]
      · simp [c, smGet, e, ih]
theorem smDel_no_key (m : SMap α) (k : Nat) : ∀ p ∈ smDel m k, p.1 ≠ k := by
  intro p hp
  simp only [smDel, List.mem_filter, bne_iff_ne] at hp
  exact hp.2
/-- What was put at a key is read there. -/
@[simp] theorem smGet_smSet_same [DecidableEq α] (d : Nat → α) (m : SMap α) (k : Nat) (v : α) : smGet d (smSet d m k v) k = v := by
  unfold smSet
  split
  · rename_i h; rw [smGet_smDel_same, h]
  · exact smGet_smPut_same d _ k v (smDel_no_key m k)
/-- Every other key reads as before. -/
theorem smGet_smSet_other [DecidableEq α] (d : Nat → α) (m : SMap α) (k a : Nat) (v : α) (h : a ≠ k) :
    smGet d (smSet d m k v) a = smGet d m a := by
  unfold smSet
  split
  · exact smGet_smDel_other d m k a h
  · rw [smGet_smPut_other d _ k a v h, smGet_smDel_other d m k a h]
theorem smGet_smSet [DecidableEq α] (d : Nat → α) (m : SMap α) (k a : Nat) (v : α) :
    smGet d (smSet d m k v) a = if a = k then v else smGet d m a := by
  by_cases h : a = k
  · subst h; simp
  · simp [h, smGet_smSet_other]

/-- What is put in at a key goes with the key. -/
theorem smDel_smPut (m : SMap α) (k : Nat) (v : α) : smDel (smPut k v m) k = smDel m k := by
  induction m with
  | nil => simp [smPut, smDel]
  | cons x r ih =>
    obtain ⟨k', v'⟩ := x
    simp only [smPut]
    split
    · simp [smDel]
    · simp only [smDel, List.filter_cons] at ih ⊢
      split <;> simp [ih]

theorem smDel_smDel (m : SMap α) (k : Nat) : smDel (smDel m k) k = smDel m k := by simp [smDel]

/-- Of two writes at one key the last stands. -/
theorem smSet_smSet [DecidableEq α] (d : Nat → α) (m : SMap α) (k : Nat) (v w : α) : smSet d (smSet d m k v) k w = smSet d m k w := by
  have h : smDel (smSet d m k v) k = smDel m k := by
    unfold smSet; split
    · exact smDel_smDel m k
    · rw [smDel_smPut, smDel_smDel]
  unfold smSet at h ⊢; rw [h]

/-! ### The canonical form -/

theorem smSorted_filter (m : SMap α) (f : Nat × α → Bool) (h : smSorted m = true) : smSorted (m.filter f) = true := by
  induction m with
  | nil => rfl
  | cons p r ih =>
    obtain ⟨k, v⟩ := p
    simp only [smSorted, Bool.and_eq_true, List.all_eq_true, decide_eq_true_eq] at h
    simp only [List.filter_cons]
    split
    · simp only [smSorted, Bool.and_eq_true, List.all_eq_true, decide_eq_true_eq]
      exact ⟨fun q hq => h.1 q (List.mem_filter.1 hq).1, ih h.2⟩
    · exact ih h.2
theorem mem_smPut (m : SMap α) (k : Nat) (v : α) (p : Nat × α) (h : p ∈ smPut k v m) : p = (k, v) ∨ p ∈ m := by
  induction m with
  | nil => simpa [smPut] using h
  | cons q r ih =>
    obtain ⟨k', v'⟩ := q
    by_cases c : k < k'
    · simpa [smPut, c] using h
    · simp only [smPut, c, if_false, List.mem_cons] at h ⊢
      rcases h with h | h
      · exact .inr (.inl h)
      · rcases ih h with h | h
        · exact .inl h
        · exact .inr (.inr h)
theorem smSorted_smPut (m : SMap α) (k : Nat) (v : α) (hk : ∀ p ∈ m, p.1 ≠ k) (h : smSorted m = true) : smSorted (smPut k v m) = true := by
  induction m with
  | nil => rfl
  | cons q r ih =>
    obtain ⟨k', v'⟩ := q
    have hne : k' ≠ k := hk _ (List.mem_cons_self ..)
    simp only [smSorted, Bool.and_eq_true, List.all_eq_true, decide_eq_true_eq] at h
    by_cases c : k < k'
    · simp only [smPut, c, if_true, smSorted, Bool.and_eq_true, List.all_eq_true, decide_eq_true_eq, List.mem_cons]
      refine ⟨?_, h.1, h.2⟩
      intro p hp
      rcases hp with hp | hp
      · subst hp; exact c
      · exact Nat.lt_trans c (h.1 p hp)
    · simp only [smPut, c, if_false, smSorted, Bool.and_eq_true, List.all_eq_true, decide_eq_true_eq]
      refine ⟨?_, ih (fun p hp => hk p (List.mem_cons_of_mem _ hp)) h.2⟩
      intro p hp
      rcases mem_smPut r k v p hp with hp | hp
      · subst hp; exact Nat.lt_of_le_of_ne (Nat.le_of_not_lt c) hne
      · exact h.1 p hp
theorem smWf_iff [DecidableEq α] (d : Nat → α) (m : SMap α) :
    smWf d m = true ↔ smSorted m = true ∧ ∀ p ∈ m, p.2 ≠ d p.1 := by
  simp [smWf, List.all_eq_true]
/-- Leaving entries out keeps the form. -/
theorem smWf_filter [DecidableEq α] (d : Nat → α) (m : SMap α) (f : Nat × α → Bool) (h : smWf d m = true) : smWf d (m.filter f) = true := by
  rw [smWf_iff] at h ⊢
  exact ⟨smSorted_filter m f h.1, fun p hp => h.2 p (List.mem_filter.1 hp).1⟩
theorem smWf_smDel [DecidableEq α] (d : Nat → α) (m : SMap α) (k : Nat) (h : smWf d m = true) : smWf d (smDel m k) = true := smWf_filter d m _ h
/-- Putting a value keeps the form. -/
theorem smWf_smSet [DecidableEq α] (d : Nat → α) (m : SMap α) (k : Nat) (v : α) (h : smWf d m = true) : smWf d (smSet d m k v) = true := by
  unfold smSet
  split
  · exact smWf_smDel d m k h
  · rename_i hv
    have hd := (smWf_iff d _).1 (smWf_smDel d m k h)
    rw [smWf_iff]
    refine ⟨smSorted_smPut _ k v (smDel_no_key m k) hd.1, ?_⟩
    intro p hp
    rcases mem_smPut _ k v p hp with hp | hp
    · subst hp; exact hv
    · exact hd.2 p hp
theorem smSorted_map (m : SMap α) (f : α → α) (h : smSorted m = true) : smSorted (m.map (fun p => (p.1, f p.2))) = true := by
  induction m with
  | nil => rfl
  | cons q r ih =>
    obtain ⟨k, v⟩ := q
    simp only [smSorted, Bool.and_eq_true, List.all_eq_true, decide_eq_true_eq] at h
    simp only [List.map_cons, smSorted, Bool.and_eq_true, List.all_eq_true, decide_eq_true_eq, List.mem_map]
    refine ⟨?_, ih h.2⟩
    rintro p ⟨x, hx, rfl⟩
    exact h.1 x hx
theorem smWf_smMap [DecidableEq α] (d : Nat → α) (m : SMap α) (f : α → α) (h : smWf d m = true) : smWf d (smMap d m f) = true := by
  rw [smWf_iff] at h ⊢
  refine ⟨smSorted_filter _ _ (smSorted_map m f h.1), ?_⟩
  intro p hp
  simpa using (List.mem_filter.1 hp).2

/-! ### Memory -/

theorem memWf_filter (m : List Host.Cell) (f : Host.Cell → Bool) (h : Memory.wf m = true) : Memory.wf (m.filter f) = true := smWf_filter _ m f h
/-- Every write of bytes keeps memory's canonical form. -/
theorem memWf_putBytes (m : List Host.Cell) (a : Nat) (b : List Byte) (h : Memory.wf m = true) : Memory.wf (memPutBytes m a b) = true := by
  induction b generalizing m a with
  | nil => exact h
  | cons x r ih => exact ih _ _ (smWf_smSet _ _ _ _ h)
/-- A byte outside the range written reads as before. -/
theorem memByte_putBytes_other (m : List Host.Cell) (a : Nat) (b : List Byte) (x : Nat) (h : x < a ∨ a + b.length ≤ x) :
    memByte (memPutBytes m a b) x = memByte m x := by
  induction b generalizing m a with
  | nil => rfl
  | cons y r ih =>
    simp only [List.length_cons] at h
    have hx : x ≠ a := by omega
    rw [memPutBytes, ih _ _ (by omega)]
    exact smGet_smSet_other _ _ _ _ _ hx
/-- A byte of the range written reads as it was written. -/
theorem memByte_putBytes (m : List Host.Cell) (a : Nat) (b : List Byte) (i : Nat) (h : i < b.length) :
    memByte (memPutBytes m a b) (a + i) = b[i] := by
  induction b generalizing m a i with
  | nil => exact absurd h (Nat.not_lt_zero _)
  | cons y r ih =>
    cases i with
    | zero =>
      rw [memPutBytes, memByte_putBytes_other _ _ _ _ (by omega)]
      exact smGet_smSet_same _ _ _ _
    | succ i =>
      rw [memPutBytes, show a + (i + 1) = a + 1 + i by omega, ih _ _ _ (by simpa using h)]
      rfl

end Sys2Proof.Machine
end

