-- ==== Sys2Proof/Laws/Touch.lean ====
section
/-! SUPPORT. What an operation may write. The state's fields form 32 areas, numbered by the bits of a mask: 0 time, 1 free, 2 resp, 3 regs, 4 shadow, 5 latch, 6 mem, 7 bad, 8 queues, 9 jobs, 10 engines, 11 cores, 12 counters, 13 waits, 14 errFifo, 15 slots, 16 inj, 17 held, 18 links, 19 resets, 20 poisoned, 21 sess, 22 hosts, 23 upd, 24 col, 25 cph, 26 sxu, 27 gov, 28 pins, 29 rot, 30 eth, 31 outs.
`Touch f s t` says that t differs from s in the areas of the mask f only, and that the sparse maps of t are canonical where those of s are. A property P
with `Keep P f` stands under every such change, so that one lemma for each operation (`<operation>_keeps`) gives both its frame and the canonical form. -/

namespace Sys2Proof.Machine

/-- An area kept twice is kept. -/
theorem either {q : Prop} {α : Type} {a b c : α} (x : q ∨ b = a) (y : q ∨ c = b) : q ∨ c = a :=
  x.elim .inl (fun e => y.imp_right (fun k => k.trans e))
/-- The areas 0–7. -/
structure TouchStore (f : Nat) (s t : State) : Prop where
  time : f.testBit 0 = true ∨ (t.clock, t.siteTime, t.time) = (s.clock, s.siteTime, s.time)
  free : f.testBit 1 = true ∨ t.free = s.free
  resp : f.testBit 2 = true ∨ t.resp = s.resp
  regs : f.testBit 3 = true ∨ t.regs = s.regs
  shadow : f.testBit 4 = true ∨ t.shadow = s.shadow
  latch : f.testBit 5 = true ∨ (t.rdLatch, t.wrLatch) = (s.rdLatch, s.wrLatch)
  mem : f.testBit 6 = true ∨ (t.mem, t.undef, t.stored) = (s.mem, s.undef, s.stored)
  bad : f.testBit 7 = true ∨ (t.badWords, t.weak, t.chans, t.banks) = (s.badWords, s.weak, s.chans, s.banks)
theorem TouchStore.same {f : Nat} {s t : State} (h : (t.clock, t.siteTime, t.time, t.free, t.resp, t.regs, t.shadow, t.rdLatch, t.wrLatch, t.mem, t.undef, t.stored, t.badWords, t.weak, t.chans, t.banks) = (s.clock, s.siteTime, s.time, s.free, s.resp, s.regs, s.shadow, s.rdLatch, s.wrLatch, s.mem, s.undef, s.stored, s.badWords, s.weak, s.chans, s.banks)) : TouchStore f s t := by
  simp only [Prod.mk.injEq] at h
  constructor <;> simp only [h, or_true]
theorem TouchStore.mono {f g : Nat} {s t : State} (hb : ∀ i, g.testBit i = true → f.testBit i = true) (x : TouchStore g s t) : TouchStore f s t where
  time := x.time.imp_left (hb _)
  free := x.free.imp_left (hb _)
  resp := x.resp.imp_left (hb _)
  regs := x.regs.imp_left (hb _)
  shadow := x.shadow.imp_left (hb _)
  latch := x.latch.imp_left (hb _)
  mem := x.mem.imp_left (hb _)
  bad := x.bad.imp_left (hb _)
theorem TouchStore.trans {f : Nat} {s t u : State} (x : TouchStore f s t) (y : TouchStore f t u) : TouchStore f s u where
  time := either x.time y.time
  free := either x.free y.free
  resp := either x.resp y.resp
  regs := either x.regs y.regs
  shadow := either x.shadow y.shadow
  latch := either x.latch y.latch
  mem := either x.mem y.mem
  bad := either x.bad y.bad
/-- The areas 8–15. -/
structure TouchWork (f : Nat) (s t : State) : Prop where
  queues : f.testBit 8 = true ∨ t.queues = s.queues
  jobs : f.testBit 9 = true ∨ t.jobs = s.jobs
  engines : f.testBit 10 = true ∨ t.engines = s.engines
  cores : f.testBit 11 = true ∨ (t.cores, t.harts) = (s.cores, s.harts)
  counters : f.testBit 12 = true ∨ (t.counters, t.checkSigs) = (s.counters, s.checkSigs)
  waits : f.testBit 13 = true ∨ (t.waits, t.rwaits, t.refusals, t.nextWid) = (s.waits, s.rwaits, s.refusals, s.nextWid)
  errFifo : f.testBit 14 = true ∨ t.errFifo = s.errFifo
  slots : f.testBit 15 = true ∨ t.slots = s.slots
theorem TouchWork.same {f : Nat} {s t : State} (h : (t.queues, t.jobs, t.engines, t.cores, t.harts, t.counters, t.checkSigs, t.waits, t.rwaits, t.refusals, t.nextWid, t.errFifo, t.slots) = (s.queues, s.jobs, s.engines, s.cores, s.harts, s.counters, s.checkSigs, s.waits, s.rwaits, s.refusals, s.nextWid, s.errFifo, s.slots)) : TouchWork f s t := by
  simp only [Prod.mk.injEq] at h
  constructor <;> simp only [h, or_true]
theorem TouchWork.mono {f g : Nat} {s t : State} (hb : ∀ i, g.testBit i = true → f.testBit i = true) (x : TouchWork g s t) : TouchWork f s t where
  queues := x.queues.imp_left (hb _)
  jobs := x.jobs.imp_left (hb _)
  engines := x.engines.imp_left (hb _)
  cores := x.cores.imp_left (hb _)
  counters := x.counters.imp_left (hb _)
  waits := x.waits.imp_left (hb _)
  errFifo := x.errFifo.imp_left (hb _)
  slots := x.slots.imp_left (hb _)
theorem TouchWork.trans {f : Nat} {s t u : State} (x : TouchWork f s t) (y : TouchWork f t u) : TouchWork f s u where
  queues := either x.queues y.queues
  jobs := either x.jobs y.jobs
  engines := either x.engines y.engines
  cores := either x.cores y.cores
  counters := either x.counters y.counters
  waits := either x.waits y.waits
  errFifo := either x.errFifo y.errFifo
  slots := either x.slots y.slots
/-- The areas 16–23. -/
structure TouchNet (f : Nat) (s t : State) : Prop where
  inj : f.testBit 16 = true ∨ (t.inj, t.hold, t.due) = (s.inj, s.hold, s.due)
  held : f.testBit 17 = true ∨ (t.held, t.ejq) = (s.held, s.ejq)
  links : f.testBit 18 = true ∨ t.links = s.links
  resets : f.testBit 19 = true ∨ t.resets = s.resets
  poisoned : f.testBit 20 = true ∨ t.poisoned = s.poisoned
  sess : f.testBit 21 = true ∨ t.sess = s.sess
  hosts : f.testBit 22 = true ∨ t.hosts = s.hosts
  upd : f.testBit 23 = true ∨ (t.updRuns, t.updLog) = (s.updRuns, s.updLog)
theorem TouchNet.same {f : Nat} {s t : State} (h : (t.inj, t.hold, t.due, t.held, t.ejq, t.links, t.resets, t.poisoned, t.sess, t.hosts, t.updRuns, t.updLog) = (s.inj, s.hold, s.due, s.held, s.ejq, s.links, s.resets, s.poisoned, s.sess, s.hosts, s.updRuns, s.updLog)) : TouchNet f s t := by
  simp only [Prod.mk.injEq] at h
  constructor <;> simp only [h, or_true]
theorem TouchNet.mono {f g : Nat} {s t : State} (hb : ∀ i, g.testBit i = true → f.testBit i = true) (x : TouchNet g s t) : TouchNet f s t where
  inj := x.inj.imp_left (hb _)
  held := x.held.imp_left (hb _)
  links := x.links.imp_left (hb _)
  resets := x.resets.imp_left (hb _)
  poisoned := x.poisoned.imp_left (hb _)
  sess := x.sess.imp_left (hb _)
  hosts := x.hosts.imp_left (hb _)
  upd := x.upd.imp_left (hb _)
theorem TouchNet.trans {f : Nat} {s t u : State} (x : TouchNet f s t) (y : TouchNet f t u) : TouchNet f s u where
  inj := either x.inj y.inj
  held := either x.held y.held
  links := either x.links y.links
  resets := either x.resets y.resets
  poisoned := either x.poisoned y.poisoned
  sess := either x.sess y.sess
  hosts := either x.hosts y.hosts
  upd := either x.upd y.upd
/-- The areas 24–31. -/
structure TouchUnits (f : Nat) (s t : State) : Prop where
  col : f.testBit 24 = true ∨ (t.colOps, t.colHeld, t.gLive) = (s.colOps, s.colHeld, s.gLive)
  cph : f.testBit 25 = true ∨ (t.roots, t.root0Gone, t.keySlots, t.ctxs, t.keysUsed, t.cphQ, t.cphWait, t.sxuWait) = (s.roots, s.root0Gone, s.keySlots, s.ctxs, s.keysUsed, s.cphQ, s.cphWait, s.sxuWait)
  sxu : f.testBit 26 = true ∨ (t.sxPeers, t.sxRuns, t.sxList, t.sxOut, t.sxIn, t.sxRx, t.sxJoin, t.sxServe, t.sxFrom, t.sxSetRound, t.sxOpened, t.sxProbed, t.sxTurn) = (s.sxPeers, s.sxRuns, s.sxList, s.sxOut, s.sxIn, s.sxRx, s.sxJoin, s.sxServe, s.sxFrom, s.sxSetRound, s.sxOpened, s.sxProbed, s.sxTurn)
  gov : f.testBit 27 = true ∨ (t.gov, t.brdLast) = (s.gov, s.brdLast)
  pins : f.testBit 28 = true ∨ (t.pins, t.fru) = (s.pins, s.fru)
  rot : f.testBit 29 = true ∨ (t.flash, t.rot, t.openHeld, t.fwLock, t.idKey, t.fwMem, t.fillDue, t.fabricAt) = (s.flash, s.rot, s.openHeld, s.fwLock, s.idKey, s.fwMem, s.fillDue, s.fabricAt)
  eth : f.testBit 30 = true ∨ (t.ethRem, t.ethBuf) = (s.ethRem, s.ethBuf)
  outs : f.testBit 31 = true ∨ t.outs = s.outs
theorem TouchUnits.same {f : Nat} {s t : State} (h : (t.colOps, t.colHeld, t.gLive, t.roots, t.root0Gone, t.keySlots, t.ctxs, t.keysUsed, t.cphQ, t.cphWait, t.sxuWait, t.sxPeers, t.sxRuns, t.sxList, t.sxOut, t.sxIn, t.sxRx, t.sxJoin, t.sxServe, t.sxFrom, t.sxSetRound, t.sxOpened, t.sxProbed, t.sxTurn, t.gov, t.brdLast, t.pins, t.fru, t.flash, t.rot, t.openHeld, t.fwLock, t.idKey, t.fwMem, t.fillDue, t.fabricAt, t.ethRem, t.ethBuf, t.outs) = (s.colOps, s.colHeld, s.gLive, s.roots, s.root0Gone, s.keySlots, s.ctxs, s.keysUsed, s.cphQ, s.cphWait, s.sxuWait, s.sxPeers, s.sxRuns, s.sxList, s.sxOut, s.sxIn, s.sxRx, s.sxJoin, s.sxServe, s.sxFrom, s.sxSetRound, s.sxOpened, s.sxProbed, s.sxTurn, s.gov, s.brdLast, s.pins, s.fru, s.flash, s.rot, s.openHeld, s.fwLock, s.idKey, s.fwMem, s.fillDue, s.fabricAt, s.ethRem, s.ethBuf, s.outs)) : TouchUnits f s t := by
  simp only [Prod.mk.injEq] at h
  constructor <;> simp only [h, or_true]
theorem TouchUnits.mono {f g : Nat} {s t : State} (hb : ∀ i, g.testBit i = true → f.testBit i = true) (x : TouchUnits g s t) : TouchUnits f s t where
  col := x.col.imp_left (hb _)
  cph := x.cph.imp_left (hb _)
  sxu := x.sxu.imp_left (hb _)
  gov := x.gov.imp_left (hb _)
  pins := x.pins.imp_left (hb _)
  rot := x.rot.imp_left (hb _)
  eth := x.eth.imp_left (hb _)
  outs := x.outs.imp_left (hb _)
theorem TouchUnits.trans {f : Nat} {s t u : State} (x : TouchUnits f s t) (y : TouchUnits f t u) : TouchUnits f s u where
  col := either x.col y.col
  cph := either x.cph y.cph
  sxu := either x.sxu y.sxu
  gov := either x.gov y.gov
  pins := either x.pins y.pins
  rot := either x.rot y.rot
  eth := either x.eth y.eth
  outs := either x.outs y.outs
/-- t is s but for the areas of f. -/
structure Touch (f : Nat) (s t : State) : Prop where
  order : t.order = s.order
  pending : t.pending = s.pending
  canon : s.canonical = true → t.canonical = true
  store : TouchStore f s t
  work : TouchWork f s t
  net : TouchNet f s t
  units : TouchUnits f s t

/-- P stands under every change of the areas of f. -/
def Keep (P : State → Prop) (f : Nat) : Prop := ∀ s t, Touch f s t → P s → P t

variable {P : State → Prop} {f g : Nat} {s : State}

theorem Touch.mono {t : State} (h : g &&& f = g) (x : Touch g s t) : Touch f s t := by
  have hb : ∀ i, g.testBit i = true → f.testBit i = true := by
    intro i hi
    have h2 := congrArg (fun n => n.testBit i) h
    simp only [Nat.testBit_and, hi, Bool.true_and] at h2
    exact h2
  exact ⟨x.order, x.pending, x.canon, x.store.mono hb, x.work.mono hb, x.net.mono hb, x.units.mono hb⟩
theorem Keep.sub (h : g &&& f = g) (K : Keep P f) : Keep P g := fun s t ht => K s t (ht.mono h)
theorem Touch.refl (f : Nat) (s : State) : Touch f s s :=
  ⟨rfl, rfl, id, .same rfl, .same rfl, .same rfl, .same rfl⟩
theorem Touch.trans {t u : State} (x : Touch f s t) (y : Touch f t u) : Touch f s u where
  order := y.order.trans x.order
  pending := y.pending.trans x.pending
  canon := fun h => y.canon (x.canon h)
  store := x.store.trans y.store
  work := x.work.trans y.work
  net := x.net.trans y.net
  units := x.units.trans y.units
/-- What an operation touches, from what its keeps lemma says. -/
theorem Keep.touch (f : Nat) (s : State) : Keep (fun t => Touch f s t) f := fun _ _ ht h => h.trans ht
/-- A record update. -/
theorem Keep.mk {x_clock : Nat} {x_siteTime : DWord} {x_free : Nat} {x_resp : List Word} {x_regs : SMap Word} {x_shadow : SMap Word} {x_rdLatch : List Latch} {x_wrLatch : List Latch} {x_mem : List Host.Cell} {x_undef : List Undef} {x_badWords : List BadWord} {x_weak : List Nat} {x_stored : SMap (List Byte)} {x_chans : SMap ChanArb} {x_banks : SMap BankArb} {x_queues : SMap Queue} {x_jobs : List Job} {x_engines : SMap Engine} {x_cores : SMap CoreRun} {x_harts : SMap Hart} {x_counters : SMap Counter} {x_waits : List WaitRec} {x_rwaits : List RemoteWait} {x_refusals : List Refused} {x_nextWid : Nat} {x_errFifo : List (List Byte)} {x_slots : List Slot} {x_inj : List Pkt} {x_held : List Worm} {x_ejq : List Pkt} {x_hold : List Pkt} {x_due : List Due} {x_links : SMap Link} {x_resets : List ResetP} {x_poisoned : List (Nat × Nat × Nat)} {x_sess : SMap Sess} {x_hosts : SMap HostWin} {x_updRuns : List UpdRun} {x_updLog : List LogEntry} {x_colOps : List ColOp} {x_colHeld : List Pkt} {x_gLive : SMap Nat} {x_roots : SMap (List Nat)} {x_root0Gone : Bool} {x_keySlots : SMap KeySlot} {x_ctxs : SMap CipherCtx} {x_keysUsed : Bool} {x_cphQ : List CphReq} {x_cphWait : List (JobRef × Nat)} {x_sxuWait : List CphReq} {x_sxPeers : SMap SxPeer} {x_sxRuns : List SxRun} {x_sxList : List Nat} {x_sxOut : List SxOut} {x_sxIn : List SxIn} {x_sxRx : List AMsg} {x_sxJoin : Option SxJoin} {x_sxServe : Option SxJoin} {x_sxFrom : Option Nat} {x_sxSetRound : Nat} {x_sxOpened : Nat} {x_sxProbed : Nat} {x_sxTurn : Nat} {x_time : TimeU} {x_gov : Gov} {x_brdLast : List (Nat × Nat)} {x_pins : Pins} {x_fru : SMap Byte} {x_flash : SMap Byte} {x_rot : RotMem} {x_openHeld : List CMsg} {x_fwLock : Option Nat} {x_idKey : Option (Nat × Nat)} {x_fwMem : List Byte} {x_fillDue : Bool} {x_fabricAt : Nat} {x_checkSigs : List Nat} {x_ethRem : SMap Nat} {x_ethBuf : SMap Nat} {x_outs : List Outp} (K : Keep P f) (h : P s)
    (ht : Touch f s (State.mk s.order x_clock x_siteTime x_free s.pending x_resp x_regs x_shadow x_rdLatch x_wrLatch x_mem x_undef x_badWords x_weak x_stored x_chans x_banks x_queues x_jobs x_engines x_cores x_harts x_counters x_waits x_rwaits x_refusals x_nextWid x_errFifo x_slots x_inj x_held x_ejq x_hold x_due x_links x_resets x_poisoned x_sess x_hosts x_updRuns x_updLog x_colOps x_colHeld x_gLive x_roots x_root0Gone x_keySlots x_ctxs x_keysUsed x_cphQ x_cphWait x_sxuWait x_sxPeers x_sxRuns x_sxList x_sxOut x_sxIn x_sxRx x_sxJoin x_sxServe x_sxFrom x_sxSetRound x_sxOpened x_sxProbed x_sxTurn x_time x_gov x_brdLast x_pins x_fru x_flash x_rot x_openHeld x_fwLock x_idKey x_fwMem x_fillDue x_fabricAt x_checkSigs x_ethRem x_ethBuf x_outs)) : P (State.mk s.order x_clock x_siteTime x_free s.pending x_resp x_regs x_shadow x_rdLatch x_wrLatch x_mem x_undef x_badWords x_weak x_stored x_chans x_banks x_queues x_jobs x_engines x_cores x_harts x_counters x_waits x_rwaits x_refusals x_nextWid x_errFifo x_slots x_inj x_held x_ejq x_hold x_due x_links x_resets x_poisoned x_sess x_hosts x_updRuns x_updLog x_colOps x_colHeld x_gLive x_roots x_root0Gone x_keySlots x_ctxs x_keysUsed x_cphQ x_cphWait x_sxuWait x_sxPeers x_sxRuns x_sxList x_sxOut x_sxIn x_sxRx x_sxJoin x_sxServe x_sxFrom x_sxSetRound x_sxOpened x_sxProbed x_sxTurn x_time x_gov x_brdLast x_pins x_fru x_flash x_rot x_openHeld x_fwLock x_idKey x_fwMem x_fillDue x_fabricAt x_checkSigs x_ethRem x_ethBuf x_outs) := K s _ ht h

/-! ### Frames: what stands where a mask leaves an area out -/

theorem Keep.sound (o : Order) (q : List Instr) (f : Nat) : Keep (State.Sound o q) f :=
  fun _ _ ht h => ⟨ht.order.trans h.1, ht.pending.trans h.2.1, ht.canon h.2.2⟩
theorem Keep.frame_order (o : Order) (f : Nat) : Keep (fun t => t.order = o) f := fun _ _ ht h => ht.order.trans h
theorem Keep.frame_pending (q : List Instr) (f : Nat) : Keep (fun t => t.pending = q) f := fun _ _ ht h => ht.pending.trans h
theorem Keep.frame_clock (x : Nat) (h : f.testBit 0 = false) : Keep (fun t => t.clock = x) f := fun _ _ ht hs =>
  (congrArg (fun p => p.1) (ht.store.time.resolve_left (fun e => Bool.false_ne_true (h.symm.trans e)))).trans hs
theorem Keep.frame_siteTime (x : DWord) (h : f.testBit 0 = false) : Keep (fun t => t.siteTime = x) f := fun _ _ ht hs =>
  (congrArg (fun p => p.2.1) (ht.store.time.resolve_left (fun e => Bool.false_ne_true (h.symm.trans e)))).trans hs
theorem Keep.frame_time (x : TimeU) (h : f.testBit 0 = false) : Keep (fun t => t.time = x) f := fun _ _ ht hs =>
  (congrArg (fun p => p.2.2) (ht.store.time.resolve_left (fun e => Bool.false_ne_true (h.symm.trans e)))).trans hs
theorem Keep.frame_free (x : Nat) (h : f.testBit 1 = false) : Keep (fun t => t.free = x) f := fun _ _ ht hs =>
  ((ht.store.free.resolve_left (fun e => Bool.false_ne_true (h.symm.trans e)))).trans hs
theorem Keep.frame_resp (x : List Word) (h : f.testBit 2 = false) : Keep (fun t => t.resp = x) f := fun _ _ ht hs =>
  ((ht.store.resp.resolve_left (fun e => Bool.false_ne_true (h.symm.trans e)))).trans hs
theorem Keep.frame_regs (x : SMap Word) (h : f.testBit 3 = false) : Keep (fun t => t.regs = x) f := fun _ _ ht hs =>
  ((ht.store.regs.resolve_left (fun e => Bool.false_ne_true (h.symm.trans e)))).trans hs
theorem Keep.frame_shadow (x : SMap Word) (h : f.testBit 4 = false) : Keep (fun t => t.shadow = x) f := fun _ _ ht hs =>
  ((ht.store.shadow.resolve_left (fun e => Bool.false_ne_true (h.symm.trans e)))).trans hs
theorem Keep.frame_rdLatch (x : List Latch) (h : f.testBit 5 = false) : Keep (fun t => t.rdLatch = x) f := fun _ _ ht hs =>
  (congrArg (fun p => p.1) (ht.store.latch.resolve_left (fun e => Bool.false_ne_true (h.symm.trans e)))).trans hs
theorem Keep.frame_wrLatch (x : List Latch) (h : f.testBit 5 = false) : Keep (fun t => t.wrLatch = x) f := fun _ _ ht hs =>
  (congrArg (fun p => p.2) (ht.store.latch.resolve_left (fun e => Bool.false_ne_true (h.symm.trans e)))).trans hs
theorem Keep.frame_mem (x : List Host.Cell) (h : f.testBit 6 = false) : Keep (fun t => t.mem = x) f := fun _ _ ht hs =>
  (congrArg (fun p => p.1) (ht.store.mem.resolve_left (fun e => Bool.false_ne_true (h.symm.trans e)))).trans hs
theorem Keep.frame_undef (x : List Undef) (h : f.testBit 6 = false) : Keep (fun t => t.undef = x) f := fun _ _ ht hs =>
  (congrArg (fun p => p.2.1) (ht.store.mem.resolve_left (fun e => Bool.false_ne_true (h.symm.trans e)))).trans hs
theorem Keep.frame_stored (x : SMap (List Byte)) (h : f.testBit 6 = false) : Keep (fun t => t.stored = x) f := fun _ _ ht hs =>
  (congrArg (fun p => p.2.2) (ht.store.mem.resolve_left (fun e => Bool.false_ne_true (h.symm.trans e)))).trans hs
theorem Keep.frame_badWords (x : List BadWord) (h : f.testBit 7 = false) : Keep (fun t => t.badWords = x) f := fun _ _ ht hs =>
  (congrArg (fun p => p.1) (ht.store.bad.resolve_left (fun e => Bool.false_ne_true (h.symm.trans e)))).trans hs
theorem Keep.frame_weak (x : List Nat) (h : f.testBit 7 = false) : Keep (fun t => t.weak = x) f := fun _ _ ht hs =>
  (congrArg (fun p => p.2.1) (ht.store.bad.resolve_left (fun e => Bool.false_ne_true (h.symm.trans e)))).trans hs
theorem Keep.frame_chans (x : SMap ChanArb) (h : f.testBit 7 = false) : Keep (fun t => t.chans = x) f := fun _ _ ht hs =>
  (congrArg (fun p => p.2.2.1) (ht.store.bad.resolve_left (fun e => Bool.false_ne_true (h.symm.trans e)))).trans hs
theorem Keep.frame_banks (x : SMap BankArb) (h : f.testBit 7 = false) : Keep (fun t => t.banks = x) f := fun _ _ ht hs =>
  (congrArg (fun p => p.2.2.2) (ht.store.bad.resolve_left (fun e => Bool.false_ne_true (h.symm.trans e)))).trans hs
theorem Keep.frame_queues (x : SMap Queue) (h : f.testBit 8 = false) : Keep (fun t => t.queues = x) f := fun _ _ ht hs =>
  ((ht.work.queues.resolve_left (fun e => Bool.false_ne_true (h.symm.trans e)))).trans hs
theorem Keep.frame_jobs (x : List Job) (h : f.testBit 9 = false) : Keep (fun t => t.jobs = x) f := fun _ _ ht hs =>
  ((ht.work.jobs.resolve_left (fun e => Bool.false_ne_true (h.symm.trans e)))).trans hs
theorem Keep.frame_engines (x : SMap Engine) (h : f.testBit 10 = false) : Keep (fun t => t.engines = x) f := fun _ _ ht hs =>
  ((ht.work.engines.resolve_left (fun e => Bool.false_ne_true (h.symm.trans e)))).trans hs
theorem Keep.frame_cores (x : SMap CoreRun) (h : f.testBit 11 = false) : Keep (fun t => t.cores = x) f := fun _ _ ht hs =>
  (congrArg (fun p => p.1) (ht.work.cores.resolve_left (fun e => Bool.false_ne_true (h.symm.trans e)))).trans hs
theorem Keep.frame_harts (x : SMap Hart) (h : f.testBit 11 = false) : Keep (fun t => t.harts = x) f := fun _ _ ht hs =>
  (congrArg (fun p => p.2) (ht.work.cores.resolve_left (fun e => Bool.false_ne_true (h.symm.trans e)))).trans hs
theorem Keep.frame_counters (x : SMap Counter) (h : f.testBit 12 = false) : Keep (fun t => t.counters = x) f := fun _ _ ht hs =>
  (congrArg (fun p => p.1) (ht.work.counters.resolve_left (fun e => Bool.false_ne_true (h.symm.trans e)))).trans hs
theorem Keep.frame_checkSigs (x : List Nat) (h : f.testBit 12 = false) : Keep (fun t => t.checkSigs = x) f := fun _ _ ht hs =>
  (congrArg (fun p => p.2) (ht.work.counters.resolve_left (fun e => Bool.false_ne_true (h.symm.trans e)))).trans hs
theorem Keep.frame_waits (x : List WaitRec) (h : f.testBit 13 = false) : Keep (fun t => t.waits = x) f := fun _ _ ht hs =>
  (congrArg (fun p => p.1) (ht.work.waits.resolve_left (fun e => Bool.false_ne_true (h.symm.trans e)))).trans hs
theorem Keep.frame_rwaits (x : List RemoteWait) (h : f.testBit 13 = false) : Keep (fun t => t.rwaits = x) f := fun _ _ ht hs =>
  (congrArg (fun p => p.2.1) (ht.work.waits.resolve_left (fun e => Bool.false_ne_true (h.symm.trans e)))).trans hs
theorem Keep.frame_refusals (x : List Refused) (h : f.testBit 13 = false) : Keep (fun t => t.refusals = x) f := fun _ _ ht hs =>
  (congrArg (fun p => p.2.2.1) (ht.work.waits.resolve_left (fun e => Bool.false_ne_true (h.symm.trans e)))).trans hs
theorem Keep.frame_nextWid (x : Nat) (h : f.testBit 13 = false) : Keep (fun t => t.nextWid = x) f := fun _ _ ht hs =>
  (congrArg (fun p => p.2.2.2) (ht.work.waits.resolve_left (fun e => Bool.false_ne_true (h.symm.trans e)))).trans hs
theorem Keep.frame_errFifo (x : List (List Byte)) (h : f.testBit 14 = false) : Keep (fun t => t.errFifo = x) f := fun _ _ ht hs =>
  ((ht.work.errFifo.resolve_left (fun e => Bool.false_ne_true (h.symm.trans e)))).trans hs
theorem Keep.frame_slots (x : List Slot) (h : f.testBit 15 = false) : Keep (fun t => t.slots = x) f := fun _ _ ht hs =>
  ((ht.work.slots.resolve_left (fun e => Bool.false_ne_true (h.symm.trans e)))).trans hs
theorem Keep.frame_inj (x : List Pkt) (h : f.testBit 16 = false) : Keep (fun t => t.inj = x) f := fun _ _ ht hs =>
  (congrArg (fun p => p.1) (ht.net.inj.resolve_left (fun e => Bool.false_ne_true (h.symm.trans e)))).trans hs
theorem Keep.frame_hold (x : List Pkt) (h : f.testBit 16 = false) : Keep (fun t => t.hold = x) f := fun _ _ ht hs =>
  (congrArg (fun p => p.2.1) (ht.net.inj.resolve_left (fun e => Bool.false_ne_true (h.symm.trans e)))).trans hs
theorem Keep.frame_due (x : List Due) (h : f.testBit 16 = false) : Keep (fun t => t.due = x) f := fun _ _ ht hs =>
  (congrArg (fun p => p.2.2) (ht.net.inj.resolve_left (fun e => Bool.false_ne_true (h.symm.trans e)))).trans hs
theorem Keep.frame_held (x : List Worm) (h : f.testBit 17 = false) : Keep (fun t => t.held = x) f := fun _ _ ht hs =>
  (congrArg (fun p => p.1) (ht.net.held.resolve_left (fun e => Bool.false_ne_true (h.symm.trans e)))).trans hs
theorem Keep.frame_ejq (x : List Pkt) (h : f.testBit 17 = false) : Keep (fun t => t.ejq = x) f := fun _ _ ht hs =>
  (congrArg (fun p => p.2) (ht.net.held.resolve_left (fun e => Bool.false_ne_true (h.symm.trans e)))).trans hs
theorem Keep.frame_links (x : SMap Link) (h : f.testBit 18 = false) : Keep (fun t => t.links = x) f := fun _ _ ht hs =>
  ((ht.net.links.resolve_left (fun e => Bool.false_ne_true (h.symm.trans e)))).trans hs
theorem Keep.frame_resets (x : List ResetP) (h : f.testBit 19 = false) : Keep (fun t => t.resets = x) f := fun _ _ ht hs =>
  ((ht.net.resets.resolve_left (fun e => Bool.false_ne_true (h.symm.trans e)))).trans hs
theorem Keep.frame_poisoned (x : List (Nat × Nat × Nat)) (h : f.testBit 20 = false) : Keep (fun t => t.poisoned = x) f := fun _ _ ht hs =>
  ((ht.net.poisoned.resolve_left (fun e => Bool.false_ne_true (h.symm.trans e)))).trans hs
theorem Keep.frame_sess (x : SMap Sess) (h : f.testBit 21 = false) : Keep (fun t => t.sess = x) f := fun _ _ ht hs =>
  ((ht.net.sess.resolve_left (fun e => Bool.false_ne_true (h.symm.trans e)))).trans hs
theorem Keep.frame_hosts (x : SMap HostWin) (h : f.testBit 22 = false) : Keep (fun t => t.hosts = x) f := fun _ _ ht hs =>
  ((ht.net.hosts.resolve_left (fun e => Bool.false_ne_true (h.symm.trans e)))).trans hs
theorem Keep.frame_updRuns (x : List UpdRun) (h : f.testBit 23 = false) : Keep (fun t => t.updRuns = x) f := fun _ _ ht hs =>
  (congrArg (fun p => p.1) (ht.net.upd.resolve_left (fun e => Bool.false_ne_true (h.symm.trans e)))).trans hs
theorem Keep.frame_updLog (x : List LogEntry) (h : f.testBit 23 = false) : Keep (fun t => t.updLog = x) f := fun _ _ ht hs =>
  (congrArg (fun p => p.2) (ht.net.upd.resolve_left (fun e => Bool.false_ne_true (h.symm.trans e)))).trans hs
theorem Keep.frame_colOps (x : List ColOp) (h : f.testBit 24 = false) : Keep (fun t => t.colOps = x) f := fun _ _ ht hs =>
  (congrArg (fun p => p.1) (ht.units.col.resolve_left (fun e => Bool.false_ne_true (h.symm.trans e)))).trans hs
theorem Keep.frame_colHeld (x : List Pkt) (h : f.testBit 24 = false) : Keep (fun t => t.colHeld = x) f := fun _ _ ht hs =>
  (congrArg (fun p => p.2.1) (ht.units.col.resolve_left (fun e => Bool.false_ne_true (h.symm.trans e)))).trans hs
theorem Keep.frame_gLive (x : SMap Nat) (h : f.testBit 24 = false) : Keep (fun t => t.gLive = x) f := fun _ _ ht hs =>
  (congrArg (fun p => p.2.2) (ht.units.col.resolve_left (fun e => Bool.false_ne_true (h.symm.trans e)))).trans hs
theorem Keep.frame_roots (x : SMap (List Nat)) (h : f.testBit 25 = false) : Keep (fun t => t.roots = x) f := fun _ _ ht hs =>
  (congrArg (fun p => p.1) (ht.units.cph.resolve_left (fun e => Bool.false_ne_true (h.symm.trans e)))).trans hs
theorem Keep.frame_root0Gone (x : Bool) (h : f.testBit 25 = false) : Keep (fun t => t.root0Gone = x) f := fun _ _ ht hs =>
  (congrArg (fun p => p.2.1) (ht.units.cph.resolve_left (fun e => Bool.false_ne_true (h.symm.trans e)))).trans hs
theorem Keep.frame_keySlots (x : SMap KeySlot) (h : f.testBit 25 = false) : Keep (fun t => t.keySlots = x) f := fun _ _ ht hs =>
  (congrArg (fun p => p.2.2.1) (ht.units.cph.resolve_left (fun e => Bool.false_ne_true (h.symm.trans e)))).trans hs
theorem Keep.frame_ctxs (x : SMap CipherCtx) (h : f.testBit 25 = false) : Keep (fun t => t.ctxs = x) f := fun _ _ ht hs =>
  (congrArg (fun p => p.2.2.2.1) (ht.units.cph.resolve_left (fun e => Bool.false_ne_true (h.symm.trans e)))).trans hs
theorem Keep.frame_keysUsed (x : Bool) (h : f.testBit 25 = false) : Keep (fun t => t.keysUsed = x) f := fun _ _ ht hs =>
  (congrArg (fun p => p.2.2.2.2.1) (ht.units.cph.resolve_left (fun e => Bool.false_ne_true (h.symm.trans e)))).trans hs
theorem Keep.frame_cphQ (x : List CphReq) (h : f.testBit 25 = false) : Keep (fun t => t.cphQ = x) f := fun _ _ ht hs =>
  (congrArg (fun p => p.2.2.2.2.2.1) (ht.units.cph.resolve_left (fun e => Bool.false_ne_true (h.symm.trans e)))).trans hs
theorem Keep.frame_cphWait (x : List (JobRef × Nat)) (h : f.testBit 25 = false) : Keep (fun t => t.cphWait = x) f := fun _ _ ht hs =>
  (congrArg (fun p => p.2.2.2.2.2.2.1) (ht.units.cph.resolve_left (fun e => Bool.false_ne_true (h.symm.trans e)))).trans hs
theorem Keep.frame_sxuWait (x : List CphReq) (h : f.testBit 25 = false) : Keep (fun t => t.sxuWait = x) f := fun _ _ ht hs =>
  (congrArg (fun p => p.2.2.2.2.2.2.2) (ht.units.cph.resolve_left (fun e => Bool.false_ne_true (h.symm.trans e)))).trans hs
theorem Keep.frame_sxPeers (x : SMap SxPeer) (h : f.testBit 26 = false) : Keep (fun t => t.sxPeers = x) f := fun _ _ ht hs =>
  (congrArg (fun p => p.1) (ht.units.sxu.resolve_left (fun e => Bool.false_ne_true (h.symm.trans e)))).trans hs
theorem Keep.frame_sxRuns (x : List SxRun) (h : f.testBit 26 = false) : Keep (fun t => t.sxRuns = x) f := fun _ _ ht hs =>
  (congrArg (fun p => p.2.1) (ht.units.sxu.resolve_left (fun e => Bool.false_ne_true (h.symm.trans e)))).trans hs
theorem Keep.frame_sxList (x : List Nat) (h : f.testBit 26 = false) : Keep (fun t => t.sxList = x) f := fun _ _ ht hs =>
  (congrArg (fun p => p.2.2.1) (ht.units.sxu.resolve_left (fun e => Bool.false_ne_true (h.symm.trans e)))).trans hs
theorem Keep.frame_sxOut (x : List SxOut) (h : f.testBit 26 = false) : Keep (fun t => t.sxOut = x) f := fun _ _ ht hs =>
  (congrArg (fun p => p.2.2.2.1) (ht.units.sxu.resolve_left (fun e => Bool.false_ne_true (h.symm.trans e)))).trans hs
theorem Keep.frame_sxIn (x : List SxIn) (h : f.testBit 26 = false) : Keep (fun t => t.sxIn = x) f := fun _ _ ht hs =>
  (congrArg (fun p => p.2.2.2.2.1) (ht.units.sxu.resolve_left (fun e => Bool.false_ne_true (h.symm.trans e)))).trans hs
theorem Keep.frame_sxRx (x : List AMsg) (h : f.testBit 26 = false) : Keep (fun t => t.sxRx = x) f := fun _ _ ht hs =>
  (congrArg (fun p => p.2.2.2.2.2.1) (ht.units.sxu.resolve_left (fun e => Bool.false_ne_true (h.symm.trans e)))).trans hs
theorem Keep.frame_sxJoin (x : Option SxJoin) (h : f.testBit 26 = false) : Keep (fun t => t.sxJoin = x) f := fun _ _ ht hs =>
  (congrArg (fun p => p.2.2.2.2.2.2.1) (ht.units.sxu.resolve_left (fun e => Bool.false_ne_true (h.symm.trans e)))).trans hs
theorem Keep.frame_sxServe (x : Option SxJoin) (h : f.testBit 26 = false) : Keep (fun t => t.sxServe = x) f := fun _ _ ht hs =>
  (congrArg (fun p => p.2.2.2.2.2.2.2.1) (ht.units.sxu.resolve_left (fun e => Bool.false_ne_true (h.symm.trans e)))).trans hs
theorem Keep.frame_sxFrom (x : Option Nat) (h : f.testBit 26 = false) : Keep (fun t => t.sxFrom = x) f := fun _ _ ht hs =>
  (congrArg (fun p => p.2.2.2.2.2.2.2.2.1) (ht.units.sxu.resolve_left (fun e => Bool.false_ne_true (h.symm.trans e)))).trans hs
theorem Keep.frame_sxSetRound (x : Nat) (h : f.testBit 26 = false) : Keep (fun t => t.sxSetRound = x) f := fun _ _ ht hs =>
  (congrArg (fun p => p.2.2.2.2.2.2.2.2.2.1) (ht.units.sxu.resolve_left (fun e => Bool.false_ne_true (h.symm.trans e)))).trans hs
theorem Keep.frame_sxOpened (x : Nat) (h : f.testBit 26 = false) : Keep (fun t => t.sxOpened = x) f := fun _ _ ht hs =>
  (congrArg (fun p => p.2.2.2.2.2.2.2.2.2.2.1) (ht.units.sxu.resolve_left (fun e => Bool.false_ne_true (h.symm.trans e)))).trans hs
theorem Keep.frame_sxProbed (x : Nat) (h : f.testBit 26 = false) : Keep (fun t => t.sxProbed = x) f := fun _ _ ht hs =>
  (congrArg (fun p => p.2.2.2.2.2.2.2.2.2.2.2.1) (ht.units.sxu.resolve_left (fun e => Bool.false_ne_true (h.symm.trans e)))).trans hs
theorem Keep.frame_sxTurn (x : Nat) (h : f.testBit 26 = false) : Keep (fun t => t.sxTurn = x) f := fun _ _ ht hs =>
  (congrArg (fun p => p.2.2.2.2.2.2.2.2.2.2.2.2) (ht.units.sxu.resolve_left (fun e => Bool.false_ne_true (h.symm.trans e)))).trans hs
theorem Keep.frame_gov (x : Gov) (h : f.testBit 27 = false) : Keep (fun t => t.gov = x) f := fun _ _ ht hs =>
  (congrArg (fun p => p.1) (ht.units.gov.resolve_left (fun e => Bool.false_ne_true (h.symm.trans e)))).trans hs
theorem Keep.frame_brdLast (x : List (Nat × Nat)) (h : f.testBit 27 = false) : Keep (fun t => t.brdLast = x) f := fun _ _ ht hs =>
  (congrArg (fun p => p.2) (ht.units.gov.resolve_left (fun e => Bool.false_ne_true (h.symm.trans e)))).trans hs
theorem Keep.frame_pins (x : Pins) (h : f.testBit 28 = false) : Keep (fun t => t.pins = x) f := fun _ _ ht hs =>
  (congrArg (fun p => p.1) (ht.units.pins.resolve_left (fun e => Bool.false_ne_true (h.symm.trans e)))).trans hs
theorem Keep.frame_fru (x : SMap Byte) (h : f.testBit 28 = false) : Keep (fun t => t.fru = x) f := fun _ _ ht hs =>
  (congrArg (fun p => p.2) (ht.units.pins.resolve_left (fun e => Bool.false_ne_true (h.symm.trans e)))).trans hs
theorem Keep.frame_flash (x : SMap Byte) (h : f.testBit 29 = false) : Keep (fun t => t.flash = x) f := fun _ _ ht hs =>
  (congrArg (fun p => p.1) (ht.units.rot.resolve_left (fun e => Bool.false_ne_true (h.symm.trans e)))).trans hs
theorem Keep.frame_rot (x : RotMem) (h : f.testBit 29 = false) : Keep (fun t => t.rot = x) f := fun _ _ ht hs =>
  (congrArg (fun p => p.2.1) (ht.units.rot.resolve_left (fun e => Bool.false_ne_true (h.symm.trans e)))).trans hs
theorem Keep.frame_openHeld (x : List CMsg) (h : f.testBit 29 = false) : Keep (fun t => t.openHeld = x) f := fun _ _ ht hs =>
  (congrArg (fun p => p.2.2.1) (ht.units.rot.resolve_left (fun e => Bool.false_ne_true (h.symm.trans e)))).trans hs
theorem Keep.frame_fwLock (x : Option Nat) (h : f.testBit 29 = false) : Keep (fun t => t.fwLock = x) f := fun _ _ ht hs =>
  (congrArg (fun p => p.2.2.2.1) (ht.units.rot.resolve_left (fun e => Bool.false_ne_true (h.symm.trans e)))).trans hs
theorem Keep.frame_idKey (x : Option (Nat × Nat)) (h : f.testBit 29 = false) : Keep (fun t => t.idKey = x) f := fun _ _ ht hs =>
  (congrArg (fun p => p.2.2.2.2.1) (ht.units.rot.resolve_left (fun e => Bool.false_ne_true (h.symm.trans e)))).trans hs
theorem Keep.frame_fwMem (x : List Byte) (h : f.testBit 29 = false) : Keep (fun t => t.fwMem = x) f := fun _ _ ht hs =>
  (congrArg (fun p => p.2.2.2.2.2.1) (ht.units.rot.resolve_left (fun e => Bool.false_ne_true (h.symm.trans e)))).trans hs
theorem Keep.frame_fillDue (x : Bool) (h : f.testBit 29 = false) : Keep (fun t => t.fillDue = x) f := fun _ _ ht hs =>
  (congrArg (fun p => p.2.2.2.2.2.2.1) (ht.units.rot.resolve_left (fun e => Bool.false_ne_true (h.symm.trans e)))).trans hs
theorem Keep.frame_fabricAt (x : Nat) (h : f.testBit 29 = false) : Keep (fun t => t.fabricAt = x) f := fun _ _ ht hs =>
  (congrArg (fun p => p.2.2.2.2.2.2.2) (ht.units.rot.resolve_left (fun e => Bool.false_ne_true (h.symm.trans e)))).trans hs
theorem Keep.frame_ethRem (x : SMap Nat) (h : f.testBit 30 = false) : Keep (fun t => t.ethRem = x) f := fun _ _ ht hs =>
  (congrArg (fun p => p.1) (ht.units.eth.resolve_left (fun e => Bool.false_ne_true (h.symm.trans e)))).trans hs
theorem Keep.frame_ethBuf (x : SMap Nat) (h : f.testBit 30 = false) : Keep (fun t => t.ethBuf = x) f := fun _ _ ht hs =>
  (congrArg (fun p => p.2) (ht.units.eth.resolve_left (fun e => Bool.false_ne_true (h.symm.trans e)))).trans hs
theorem Keep.frame_outs (x : List Outp) (h : f.testBit 31 = false) : Keep (fun t => t.outs = x) f := fun _ _ ht hs =>
  ((ht.units.outs.resolve_left (fun e => Bool.false_ne_true (h.symm.trans e)))).trans hs

/-! ### The canonical form, map by map -/

theorem canon_mem {m : List Host.Cell} (hm : smWf memDefault s.mem = true → smWf memDefault m = true) (h : s.canonical = true) : ({ s with mem := m } : State).canonical = true := by
  simp only [State.canonical, Memory.wf, Bool.and_eq_true] at h ⊢
  have h2 := hm (by simp only [h])
  simp only [h, h2, and_self]
theorem canon_regs {m : SMap Word} (hm : smWf regReset s.regs = true → smWf regReset m = true) (h : s.canonical = true) : ({ s with regs := m } : State).canonical = true := by
  simp only [State.canonical, Memory.wf, Bool.and_eq_true] at h ⊢
  have h2 := hm (by simp only [h])
  simp only [h, h2, and_self]
theorem canon_shadow {m : SMap Word} (hm : smWf regReset s.shadow = true → smWf regReset m = true) (h : s.canonical = true) : ({ s with shadow := m } : State).canonical = true := by
  simp only [State.canonical, Memory.wf, Bool.and_eq_true] at h ⊢
  have h2 := hm (by simp only [h])
  simp only [h, h2, and_self]
theorem canon_queues {m : SMap Queue} (hm : smWf queueDefault s.queues = true → smWf queueDefault m = true) (h : s.canonical = true) : ({ s with queues := m } : State).canonical = true := by
  simp only [State.canonical, Memory.wf, Bool.and_eq_true] at h ⊢
  have h2 := hm (by simp only [h])
  simp only [h, h2, and_self]
theorem canon_engines {m : SMap Engine} (hm : smWf engineDefault s.engines = true → smWf engineDefault m = true) (h : s.canonical = true) : ({ s with engines := m } : State).canonical = true := by
  simp only [State.canonical, Memory.wf, Bool.and_eq_true] at h ⊢
  have h2 := hm (by simp only [h])
  simp only [h, h2, and_self]
theorem canon_counters {m : SMap Counter} (hm : smWf counterDefault s.counters = true → smWf counterDefault m = true) (h : s.canonical = true) : ({ s with counters := m } : State).canonical = true := by
  simp only [State.canonical, Memory.wf, Bool.and_eq_true] at h ⊢
  have h2 := hm (by simp only [h])
  simp only [h, h2, and_self]
theorem canon_links {m : SMap Link} (hm : smWf linkDefault s.links = true → smWf linkDefault m = true) (h : s.canonical = true) : ({ s with links := m } : State).canonical = true := by
  simp only [State.canonical, Memory.wf, Bool.and_eq_true] at h ⊢
  have h2 := hm (by simp only [h])
  simp only [h, h2, and_self]
theorem canon_sess {m : SMap Sess} (hm : smWf sessDefault s.sess = true → smWf sessDefault m = true) (h : s.canonical = true) : ({ s with sess := m } : State).canonical = true := by
  simp only [State.canonical, Memory.wf, Bool.and_eq_true] at h ⊢
  have h2 := hm (by simp only [h])
  simp only [h, h2, and_self]
theorem canon_hosts {m : SMap HostWin} (hm : smWf hostDefault s.hosts = true → smWf hostDefault m = true) (h : s.canonical = true) : ({ s with hosts := m } : State).canonical = true := by
  simp only [State.canonical, Memory.wf, Bool.and_eq_true] at h ⊢
  have h2 := hm (by simp only [h])
  simp only [h, h2, and_self]
theorem canon_gLive {m : SMap Nat} (hm : smWf gLiveDefault s.gLive = true → smWf gLiveDefault m = true) (h : s.canonical = true) : ({ s with gLive := m } : State).canonical = true := by
  simp only [State.canonical, Memory.wf, Bool.and_eq_true] at h ⊢
  have h2 := hm (by simp only [h])
  simp only [h, h2, and_self]
theorem canon_roots {m : SMap (List Nat)} (hm : smWf (fun _ => ([] : List Nat)) s.roots = true → smWf (fun _ => ([] : List Nat)) m = true) (h : s.canonical = true) : ({ s with roots := m } : State).canonical = true := by
  simp only [State.canonical, Memory.wf, Bool.and_eq_true] at h ⊢
  have h2 := hm (by simp only [h])
  simp only [h, h2, and_self]
theorem canon_keySlots {m : SMap KeySlot} (hm : smWf slotDefault s.keySlots = true → smWf slotDefault m = true) (h : s.canonical = true) : ({ s with keySlots := m } : State).canonical = true := by
  simp only [State.canonical, Memory.wf, Bool.and_eq_true] at h ⊢
  have h2 := hm (by simp only [h])
  simp only [h, h2, and_self]
theorem canon_ctxs {m : SMap CipherCtx} (hm : smWf ctxDefault s.ctxs = true → smWf ctxDefault m = true) (h : s.canonical = true) : ({ s with ctxs := m } : State).canonical = true := by
  simp only [State.canonical, Memory.wf, Bool.and_eq_true] at h ⊢
  have h2 := hm (by simp only [h])
  simp only [h, h2, and_self]
theorem canon_sxPeers {m : SMap SxPeer} (hm : smWf sxPeerDefault s.sxPeers = true → smWf sxPeerDefault m = true) (h : s.canonical = true) : ({ s with sxPeers := m } : State).canonical = true := by
  simp only [State.canonical, Memory.wf, Bool.and_eq_true] at h ⊢
  have h2 := hm (by simp only [h])
  simp only [h, h2, and_self]
theorem canon_fru {m : SMap Byte} (hm : smWf fruDefault s.fru = true → smWf fruDefault m = true) (h : s.canonical = true) : ({ s with fru := m } : State).canonical = true := by
  simp only [State.canonical, Memory.wf, Bool.and_eq_true] at h ⊢
  have h2 := hm (by simp only [h])
  simp only [h, h2, and_self]
theorem canon_flash {m : SMap Byte} (hm : smWf flashDefault s.flash = true → smWf flashDefault m = true) (h : s.canonical = true) : ({ s with flash := m } : State).canonical = true := by
  simp only [State.canonical, Memory.wf, Bool.and_eq_true] at h ⊢
  have h2 := hm (by simp only [h])
  simp only [h, h2, and_self]
theorem canon_ethRem {m : SMap Nat} (hm : smWf (fun _ => (0 : Nat)) s.ethRem = true → smWf (fun _ => (0 : Nat)) m = true) (h : s.canonical = true) : ({ s with ethRem := m } : State).canonical = true := by
  simp only [State.canonical, Memory.wf, Bool.and_eq_true] at h ⊢
  have h2 := hm (by simp only [h])
  simp only [h, h2, and_self]
theorem canon_ethBuf {m : SMap Nat} (hm : smWf (fun _ => (0 : Nat)) s.ethBuf = true → smWf (fun _ => (0 : Nat)) m = true) (h : s.canonical = true) : ({ s with ethBuf := m } : State).canonical = true := by
  simp only [State.canonical, Memory.wf, Bool.and_eq_true] at h ⊢
  have h2 := hm (by simp only [h])
  simp only [h, h2, and_self]
theorem canon_harts {m : SMap Hart} (hm : smWf hartDefault s.harts = true → smWf hartDefault m = true) (h : s.canonical = true) : ({ s with harts := m } : State).canonical = true := by
  simp only [State.canonical, Memory.wf, Bool.and_eq_true] at h ⊢
  have h2 := hm (by simp only [h])
  simp only [h, h2, and_self]
theorem canon_stored {m : SMap (List Byte)} (hm : smWf storedDefault s.stored = true → smWf storedDefault m = true) (h : s.canonical = true) : ({ s with stored := m } : State).canonical = true := by
  simp only [State.canonical, Memory.wf, Bool.and_eq_true] at h ⊢
  have h2 := hm (by simp only [h])
  simp only [h, h2, and_self]
theorem canon_chans {m : SMap ChanArb} (hm : smWf chanDefault s.chans = true → smWf chanDefault m = true) (h : s.canonical = true) : ({ s with chans := m } : State).canonical = true := by
  simp only [State.canonical, Memory.wf, Bool.and_eq_true] at h ⊢
  have h2 := hm (by simp only [h])
  simp only [h, h2, and_self]
theorem canon_banks {m : SMap BankArb} (hm : smWf bankDefault s.banks = true → smWf bankDefault m = true) (h : s.canonical = true) : ({ s with banks := m } : State).canonical = true := by
  simp only [State.canonical, Memory.wf, Bool.and_eq_true] at h ⊢
  have h2 := hm (by simp only [h])
  simp only [h, h2, and_self]
theorem canon_cores {m : SMap CoreRun} (hm : smSorted s.cores = true → smSorted m = true) (h : s.canonical = true) : ({ s with cores := m } : State).canonical = true := by
  simp only [State.canonical, Memory.wf, Bool.and_eq_true] at h ⊢
  have h2 := hm (by simp only [h])
  simp only [h, h2, and_self]
/-- No map changed. -/
theorem canon_same {t : State} (e : (t.mem, t.regs, t.shadow, t.queues, t.engines, t.counters, t.links, t.sess, t.hosts, t.gLive, t.roots, t.keySlots, t.ctxs, t.sxPeers, t.fru, t.flash, t.ethRem, t.ethBuf, t.harts, t.stored, t.chans, t.banks, t.cores) = (s.mem, s.regs, s.shadow, s.queues, s.engines, s.counters, s.links, s.sess, s.hosts, s.gLive, s.roots, s.keySlots, s.ctxs, s.sxPeers, s.fru, s.flash, s.ethRem, s.ethBuf, s.harts, s.stored, s.chans, s.banks, s.cores)) (h : s.canonical = true) : t.canonical = true := by
  simp only [Prod.mk.injEq] at e
  simp only [State.canonical, e] at h ⊢
  exact h
/-- Map by map. -/
theorem canon_of {t : State} (h_mem : smWf memDefault s.mem = true → smWf memDefault t.mem = true) (h_regs : smWf regReset s.regs = true → smWf regReset t.regs = true) (h_shadow : smWf regReset s.shadow = true → smWf regReset t.shadow = true) (h_queues : smWf queueDefault s.queues = true → smWf queueDefault t.queues = true) (h_engines : smWf engineDefault s.engines = true → smWf engineDefault t.engines = true) (h_cores : smSorted s.cores = true → smSorted t.cores = true) (h_counters : smWf counterDefault s.counters = true → smWf counterDefault t.counters = true) (h_links : smWf linkDefault s.links = true → smWf linkDefault t.links = true) (h_sess : smWf sessDefault s.sess = true → smWf sessDefault t.sess = true) (h_hosts : smWf hostDefault s.hosts = true → smWf hostDefault t.hosts = true) (h_gLive : smWf gLiveDefault s.gLive = true → smWf gLiveDefault t.gLive = true) (h_roots : smWf (fun _ => ([] : List Nat)) s.roots = true → smWf (fun _ => ([] : List Nat)) t.roots = true) (h_keySlots : smWf slotDefault s.keySlots = true → smWf slotDefault t.keySlots = true) (h_ctxs : smWf ctxDefault s.ctxs = true → smWf ctxDefault t.ctxs = true) (h_sxPeers : smWf sxPeerDefault s.sxPeers = true → smWf sxPeerDefault t.sxPeers = true) (h_fru : smWf fruDefault s.fru = true → smWf fruDefault t.fru = true) (h_flash : smWf flashDefault s.flash = true → smWf flashDefault t.flash = true) (h_ethRem : smWf (fun _ => (0 : Nat)) s.ethRem = true → smWf (fun _ => (0 : Nat)) t.ethRem = true) (h_ethBuf : smWf (fun _ => (0 : Nat)) s.ethBuf = true → smWf (fun _ => (0 : Nat)) t.ethBuf = true) (h_harts : smWf hartDefault s.harts = true → smWf hartDefault t.harts = true) (h_stored : smWf storedDefault s.stored = true → smWf storedDefault t.stored = true) (h_chans : smWf chanDefault s.chans = true → smWf chanDefault t.chans = true) (h_banks : smWf bankDefault s.banks = true → smWf bankDefault t.banks = true)
    (h : s.canonical = true) : t.canonical = true := by
  simp only [State.canonical, Memory.wf, Bool.and_eq_true] at h ⊢
  obtain ⟨⟨⟨⟨⟨⟨⟨⟨⟨⟨⟨⟨⟨⟨⟨⟨⟨⟨⟨⟨⟨⟨w_mem, w_regs⟩, w_shadow⟩, w_queues⟩, w_engines⟩, w_cores⟩, w_counters⟩, w_links⟩, w_sess⟩, w_hosts⟩, w_gLive⟩, w_roots⟩, w_keySlots⟩, w_ctxs⟩, w_sxPeers⟩, w_fru⟩, w_flash⟩, w_ethRem⟩, w_ethBuf⟩, w_harts⟩, w_stored⟩, w_chans⟩, w_banks⟩ := h
  exact ⟨⟨⟨⟨⟨⟨⟨⟨⟨⟨⟨⟨⟨⟨⟨⟨⟨⟨⟨⟨⟨⟨h_mem w_mem, h_regs w_regs⟩, h_shadow w_shadow⟩, h_queues w_queues⟩, h_engines w_engines⟩, h_cores w_cores⟩, h_counters w_counters⟩, h_links w_links⟩, h_sess w_sess⟩, h_hosts w_hosts⟩, h_gLive w_gLive⟩, h_roots w_roots⟩, h_keySlots w_keySlots⟩, h_ctxs w_ctxs⟩, h_sxPeers w_sxPeers⟩, h_fru w_fru⟩, h_flash w_flash⟩, h_ethRem w_ethRem⟩, h_ethBuf w_ethBuf⟩, h_harts w_harts⟩, h_stored w_stored⟩, h_chans w_chans⟩, h_banks w_banks⟩

/-! ### Shared shapes -/

theorem foldl_keeps {α : Type} {l : List α} {b : State → α → State} (h : P s) (hb : ∀ (s : State) (a : α), P s → P (b s a)) : P (l.foldl b s) := by
  induction l generalizing s with
  | nil => exact h
  | cons a r ih => exact ih (hb s a h)
theorem foldl_keeps_fst {α β : Type} {l : List α} {x : State × β} {b : State × β → α → State × β} (h : P x.1)
    (hb : ∀ (x : State × β) (a : α), P x.1 → P (b x a).1) : P (l.foldl b x).1 := by
  induction l generalizing x with
  | nil => exact h
  | cons a r ih => exact ih (hb x a h)
theorem keeps_ofFst {β : Type} {p : State × β} {t : State} {b : β} (e : p = (t, b)) (h : P p.1) : P t := by subst e; exact h
theorem keeps_ofSnd {β : Type} {p : β × State} {t : State} {b : β} (e : p = (b, t)) (h : P p.2) : P t := by subst e; exact h
theorem keeps_ofThird {β γ : Type} {p : β × γ × State} {t : State} {b : β} {c : γ} (e : p = (b, c, t)) (h : P p.2.2) : P t := by subst e; exact h
/-- P of the state in an optional answer. -/
structure OptKeeps {β : Type} (P : State → Prop) (o : Option (State × β)) : Prop where
  out : ∀ t b, o = some (t, b) → P t
theorem OptKeeps.some {β : Type} {t : State} {b : β} (h : P t) : OptKeeps P (some (t, b)) := ⟨fun t' b' e => by cases e; exact h⟩
theorem OptKeeps.none {β : Type} : OptKeeps P (none : Option (State × β)) := ⟨fun t' b' e => by cases e⟩
theorem keeps_ofOpt {β : Type} {o : Option (State × β)} {t : State} {b : β} (e : o = .some (t, b)) (h : OptKeeps P o) : P t := h.out t b e
/-- P of the state in an answer. -/
structure ExKeeps (P : State → Prop) (o : Except Nat State) : Prop where
  out : ∀ t, o = .ok t → P t
theorem ExKeeps.ok {t : State} (h : P t) : ExKeeps P (.ok t) := ⟨fun t' e => by cases e; exact h⟩
theorem ExKeeps.error {n : Nat} : ExKeeps P (.error n) := ⟨fun t' e => by cases e⟩
theorem keeps_ofEx {o : Except Nat State} {t : State} (e : o = .ok t) (h : ExKeeps P o) : P t := h.out t e
structure SomeKeeps (P : State → Prop) (o : Option State) : Prop where
  out : ∀ t, o = some t → P t
theorem SomeKeeps.some {t : State} (h : P t) : SomeKeeps P (some t) := ⟨fun t' e => by cases e; exact h⟩
theorem SomeKeeps.none : SomeKeeps P none := ⟨fun t' e => by cases e⟩
theorem keeps_ofSome {o : Option State} {t : State} (e : o = .some t) (h : SomeKeeps P o) : P t := h.out t e
theorem ok_keeps {x t : State} (h : P x) (e : Machine.ok x = .next t) : P t := by
  cases e
  exact h

end Sys2Proof.Machine
end

