-- ==== Sys2Proof/Laws/KeepOps.lean ====
section
/-! SUPPORT. What each operation of Machine/Ops.lean may write (Touch): a property that stands under changes of those areas stands after the
operation. The mask is the union of the areas written. -/

set_option linter.unreachableTactic false
set_option linter.unusedTactic false
set_option linter.unusedVariables false
set_option linter.tactic.unusedName false

namespace Sys2Proof.Machine

variable {P : State → Prop}

theorem putBytes_keeps (K : Keep P 64) {s : State} {a : Nat} {b : List Byte}  (hP : P s) : P (putBytes s a b) := by
  unfold putBytes
  repeat' (first
    | with_reducible assumption
    | ((with_reducible refine Keep.mk (f := 64) ?_ ?_ ?_); (exact K.sub rfl); rotate_left; (exact ⟨rfl, rfl, canon_of (by first | with_reducible exact id | exact memWf_putBytes _ _ _) id id id id id id id id id id id id id id id id id id id id id id, ⟨.inr rfl, .inr rfl, .inr rfl, .inr rfl, .inr rfl, .inr rfl, .inl rfl, .inr rfl⟩, .same rfl, .same rfl, .same rfl⟩); first | with_reducible assumption))
theorem makeUndef_keeps (K : Keep P 66) {s : State} {a n : Nat}  (hP : P s) : P (makeUndef s a n) := by
  unfold makeUndef
  repeat' (first
    | with_reducible assumption
    | intro _
    | split
    | ((with_reducible refine Keep.mk (f := 66) ?_ ?_ ?_); (exact K.sub rfl); rotate_left; (exact ⟨rfl, rfl, canon_of (by first | with_reducible exact id | exact smWf_filter _ _ _) id id id id id id id id id id id id id id id id id id id id id id, ⟨.inr rfl, .inl rfl, .inr rfl, .inr rfl, .inr rfl, .inr rfl, .inl rfl, .inr rfl⟩, .same rfl, .same rfl, .same rfl⟩); first | with_reducible assumption))
theorem cureWords_keeps (K : Keep P 128) {s : State} {a n : Nat}  (hP : P s) : P (cureWords s a n) := by
  unfold cureWords
  repeat' (first
    | with_reducible assumption
    | intro _
    | split
    | ((with_reducible refine Keep.mk (f := 128) ?_ ?_ ?_); (exact K.sub rfl); rotate_left; (exact ⟨rfl, rfl, canon_same rfl, ⟨.inr rfl, .inr rfl, .inr rfl, .inr rfl, .inr rfl, .inr rfl, .inr rfl, .inl rfl⟩, .same rfl, .same rfl, .same rfl⟩); first | with_reducible assumption))
theorem rput_keeps (K : Keep P 8) {s : State} {off : Nat} {v : Word}  (hP : P s) : P (rput s off v) := by
  unfold rput
  repeat' (first
    | with_reducible assumption
    | ((with_reducible refine Keep.mk (f := 8) ?_ ?_ ?_); (exact K.sub rfl); rotate_left; (exact ⟨rfl, rfl, canon_of id (by first | with_reducible exact id | exact smWf_smSet _ _ _ _) id id id id id id id id id id id id id id id id id id id id id, ⟨.inr rfl, .inr rfl, .inr rfl, .inl rfl, .inr rfl, .inr rfl, .inr rfl, .inr rfl⟩, .same rfl, .same rfl, .same rfl⟩); first | with_reducible assumption))
theorem rputN_keeps (K : Keep P 8) {s : State} {off v : Nat}  (hP : P s) : P (rputN s off v) := rput_keeps (K.sub rfl) hP
theorem rputF_keeps (K : Keep P 8) {s : State} {off hi lo v : Nat}  (hP : P s) : P (rputF s off hi lo v) := rput_keeps (K.sub rfl) hP
theorem rputBit_keeps (K : Keep P 8) {s : State} {off i : Nat} {b : Bool}  (hP : P s) : P (rputBit s off i b) := rputF_keeps (K.sub rfl) hP
theorem shPut_keeps (K : Keep P 16) {s : State} {off : Nat} {v : Word}  (hP : P s) : P (shPut s off v) := by
  unfold shPut
  repeat' (first
    | with_reducible assumption
    | ((with_reducible refine Keep.mk (f := 16) ?_ ?_ ?_); (exact K.sub rfl); rotate_left; (exact ⟨rfl, rfl, canon_of id id (by first | with_reducible exact id | exact smWf_smSet _ _ _ _) id id id id id id id id id id id id id id id id id id id id, ⟨.inr rfl, .inr rfl, .inr rfl, .inr rfl, .inl rfl, .inr rfl, .inr rfl, .inr rfl⟩, .same rfl, .same rfl, .same rfl⟩); first | with_reducible assumption))
theorem rinc_keeps (K : Keep P 8) {s : State} {off n : Nat}  (hP : P s) : P (rinc s off n) := rputN_keeps (K.sub rfl) hP
theorem rput64_keeps (K : Keep P 8) {s : State} {off v : Nat}  (hP : P s) : P (rput64 s off v) := by
  have k8 : Keep P 8 := K.sub rfl
  unfold rput64
  repeat' (first
    | with_reducible assumption
    | intro _
    | (extract_lets +onlyGivenNames s'; first | (refine (fun (hs' : P s') => ?_) ?_; clear_value s'; rotate_left; subst s') | (refine (fun (hs' : P s'.1) => ?_) ?_; clear_value s'; rotate_left; subst s') | (refine (fun (hs' : P s'.s) => ?_) ?_; clear_value s'; rotate_left; subst s') | (refine (fun (hs' : P s'.2) => ?_) ?_; clear_value s'; rotate_left; subst s') | (refine (fun (hs' : P s'.2.2) => ?_) ?_; clear_value s'; rotate_left; subst s') | (refine (fun (hs' : OptKeeps P s') => ?_) ?_; clear_value s'; rotate_left; subst s') | (refine (fun (hs' : ExKeeps P s') => ?_) ?_; clear_value s'; rotate_left; subst s') | (have _hs : State → _ := s'; clear _hs) | clear_value s' | skip)
    | (with_reducible apply rputN_keeps k8)
    | split
    | (with_reducible refine keeps_ofFst (by assumption) ?_)
    | (with_reducible refine keeps_ofSnd (by assumption) ?_)
    | (with_reducible refine keeps_ofThird (by assumption) ?_)
    | (with_reducible refine keeps_ofOpt (by assumption) ?_)
    | (with_reducible refine keeps_ofEx (by assumption) ?_)
    | (with_reducible refine keeps_ofSome (by assumption) ?_)
    | dsimp -zeta only)
theorem rinc64_keeps (K : Keep P 8) {s : State} {off n : Nat}  (hP : P s) : P (rinc64 s off n) := rput64_keeps (K.sub rfl) hP
theorem takeFree_keeps (K : Keep P 2) {s : State}  (hP : P s) : P (takeFree s).2 := by
  unfold takeFree
  repeat' (first
    | with_reducible assumption
    | ((with_reducible refine Keep.mk (f := 2) ?_ ?_ ?_); (exact K.sub rfl); rotate_left; (exact ⟨rfl, rfl, canon_same rfl, ⟨.inr rfl, .inl rfl, .inr rfl, .inr rfl, .inr rfl, .inr rfl, .inr rfl, .inr rfl⟩, .same rfl, .same rfl, .same rfl⟩); first | with_reducible assumption)
    | dsimp -zeta only)
theorem emit_keeps (K : Keep P 2147483648) {s : State} {o : Outp}  (hP : P s) : P (emit s o) := by
  unfold emit
  repeat' (first
    | with_reducible assumption
    | ((with_reducible refine Keep.mk (f := 2147483648) ?_ ?_ ?_); (exact K.sub rfl); rotate_left; (exact ⟨rfl, rfl, canon_same rfl, .same rfl, .same rfl, .same rfl, ⟨.inr rfl, .inr rfl, .inr rfl, .inr rfl, .inr rfl, .inr rfl, .inr rfl, .inl rfl⟩⟩); first | with_reducible assumption))
theorem putQ_keeps (K : Keep P 256) {s : State} {q : Nat} {v : Queue}  (hP : P s) : P (putQ s q v) := by
  unfold putQ
  repeat' (first
    | with_reducible assumption
    | ((with_reducible refine Keep.mk (f := 256) ?_ ?_ ?_); (exact K.sub rfl); rotate_left; (exact ⟨rfl, rfl, canon_of id id id (by first | with_reducible exact id | exact smWf_smSet _ _ _ _) id id id id id id id id id id id id id id id id id id id, .same rfl, ⟨.inl rfl, .inr rfl, .inr rfl, .inr rfl, .inr rfl, .inr rfl, .inr rfl, .inr rfl⟩, .same rfl, .same rfl⟩); first | with_reducible assumption))
theorem putE_keeps (K : Keep P 1024) {s : State} {e : Nat} {v : Engine}  (hP : P s) : P (putE s e v) := by
  unfold putE
  repeat' (first
    | with_reducible assumption
    | ((with_reducible refine Keep.mk (f := 1024) ?_ ?_ ?_); (exact K.sub rfl); rotate_left; (exact ⟨rfl, rfl, canon_of id id id id (by first | with_reducible exact id | exact smWf_smSet _ _ _ _) id id id id id id id id id id id id id id id id id id, .same rfl, ⟨.inr rfl, .inr rfl, .inl rfl, .inr rfl, .inr rfl, .inr rfl, .inr rfl, .inr rfl⟩, .same rfl, .same rfl⟩); first | with_reducible assumption))
theorem putHart_keeps (K : Keep P 2048) {s : State} {h : Nat} {x : Hart}  (hP : P s) : P (putHart s h x) := by
  unfold putHart
  repeat' (first
    | with_reducible assumption
    | ((with_reducible refine Keep.mk (f := 2048) ?_ ?_ ?_); (exact K.sub rfl); rotate_left; (exact ⟨rfl, rfl, canon_of id id id id id id id id id id id id id id id id id id id (by first | with_reducible exact id | exact smWf_smSet _ _ _ _) id id id, .same rfl, ⟨.inr rfl, .inr rfl, .inr rfl, .inl rfl, .inr rfl, .inr rfl, .inr rfl, .inr rfl⟩, .same rfl, .same rfl⟩); first | with_reducible assumption))
theorem byAgent_keeps (K : Keep P 0) {s : State} {owner : Nat} {t : State}  (hP : P s) (hP1 : P t) : P (byAgent s owner t) := by
  unfold byAgent
  repeat' (first
    | with_reducible assumption
    | split)
theorem putC_keeps (K : Keep P 4096) {s : State} {c : Nat} {v : Counter}  (hP : P s) : P (putC s c v) := by
  unfold putC
  repeat' (first
    | with_reducible assumption
    | ((with_reducible refine Keep.mk (f := 4096) ?_ ?_ ?_); (exact K.sub rfl); rotate_left; (exact ⟨rfl, rfl, canon_of id id id id id id (by first | with_reducible exact id | exact smWf_smSet _ _ _ _) id id id id id id id id id id id id id id id id, .same rfl, ⟨.inr rfl, .inr rfl, .inr rfl, .inr rfl, .inl rfl, .inr rfl, .inr rfl, .inr rfl⟩, .same rfl, .same rfl⟩); first | with_reducible assumption))
theorem putJob_keeps (K : Keep P 512) {s : State} {j : Job}  (hP : P s) : P (putJob s j) := by
  unfold putJob
  repeat' (first
    | with_reducible assumption
    | intro _
    | split
    | ((with_reducible refine Keep.mk (f := 512) ?_ ?_ ?_); (exact K.sub rfl); rotate_left; (exact ⟨rfl, rfl, canon_same rfl, .same rfl, ⟨.inr rfl, .inl rfl, .inr rfl, .inr rfl, .inr rfl, .inr rfl, .inr rfl, .inr rfl⟩, .same rfl, .same rfl⟩); first | with_reducible assumption))
theorem dropJob_keeps (K : Keep P 512) {s : State} {j : JobRef}  (hP : P s) : P (dropJob s j) := by
  unfold dropJob
  repeat' (first
    | with_reducible assumption
    | intro _
    | ((with_reducible refine Keep.mk (f := 512) ?_ ?_ ?_); (exact K.sub rfl); rotate_left; (exact ⟨rfl, rfl, canon_same rfl, .same rfl, ⟨.inr rfl, .inl rfl, .inr rfl, .inr rfl, .inr rfl, .inr rfl, .inr rfl, .inr rfl⟩, .same rfl, .same rfl⟩); first | with_reducible assumption))

end Sys2Proof.Machine
end

