-- ==== Sys2Proof/Laws/KeepArbiter.lean ====
section
/-! SUPPORT. What each operation of Machine/Arbiter.lean may write (Touch): a property that stands under changes of those areas stands after the
operation. The mask is the union of the areas written. -/

set_option linter.unreachableTactic false
set_option linter.unusedTactic false
set_option linter.unusedVariables false
set_option linter.tactic.unusedName false

namespace Sys2Proof.Machine

variable {P : State → Prop}

theorem putChan_keeps (K : Keep P 128) {s : State} {ch : Nat} {a : ChanArb}  (hP : P s) : P (putChan s ch a) := by
  unfold putChan
  repeat' (first
    | with_reducible assumption
    | ((with_reducible refine Keep.mk (f := 128) ?_ ?_ ?_); (exact K.sub rfl); rotate_left; (exact ⟨rfl, rfl, canon_of id id id id id id id id id id id id id id id id id id id id id (by first | with_reducible exact id | exact smWf_smSet _ _ _ _) id, ⟨.inr rfl, .inr rfl, .inr rfl, .inr rfl, .inr rfl, .inr rfl, .inr rfl, .inl rfl⟩, .same rfl, .same rfl, .same rfl⟩); first | with_reducible assumption))
theorem putBank_keeps (K : Keep P 128) {s : State} {b : Nat} {a : BankArb}  (hP : P s) : P (putBank s b a) := by
  unfold putBank
  repeat' (first
    | with_reducible assumption
    | ((with_reducible refine Keep.mk (f := 128) ?_ ?_ ?_); (exact K.sub rfl); rotate_left; (exact ⟨rfl, rfl, canon_of id id id id id id id id id id id id id id id id id id id id id id (by first | with_reducible exact id | exact smWf_smSet _ _ _ _), ⟨.inr rfl, .inr rfl, .inr rfl, .inr rfl, .inr rfl, .inr rfl, .inr rfl, .inl rfl⟩, .same rfl, .same rfl, .same rfl⟩); first | with_reducible assumption))
theorem burst_keeps (K : Keep P 128) {s : State} {fetch : Bool} {m : MemSource} {a : Nat}  (hP : P s) : P (burst s fetch m a) := by
  have k128 : Keep P 128 := K.sub rfl
  unfold burst
  repeat' (first
    | with_reducible assumption
    | (extract_lets +onlyGivenNames s'; first | (refine (fun (hs' : P s') => ?_) ?_; clear_value s'; rotate_left; subst s') | clear_value s' | skip)
    | (with_reducible apply putBank_keeps k128)
    | split)
theorem bursts_keeps (K : Keep P 128) {s : State} {fetch : Bool} {m : MemSource} {a n : Nat}  (hP : P s) : P (bursts s fetch m a n) := by
  have k128 : Keep P 128 := K.sub rfl
  unfold bursts
  repeat' (first
    | with_reducible assumption
    | intro _
    | (extract_lets +onlyGivenNames s'; first | (refine (fun (hs' : P s') => ?_) ?_; clear_value s'; rotate_left; subst s') | clear_value s' | skip)
    | (with_reducible apply putChan_keeps k128)
    | (with_reducible apply burst_keeps k128)
    | (with_reducible apply foldl_keeps)
    | split)
theorem accessFrom_keeps (K : Keep P 128) {fetch : Bool} {m : MemSource} {e0 : Nat} {e1 : State} {e2 : Nat} {e3 : Nat}  (hP : P e1) : P (accessFrom fetch m e0 e1 e2 e3) := by
  have k128 : Keep P 128 := K.sub rfl
  induction e0 generalizing fetch m e1 e2 e3 with
  | zero =>
    unfold accessFrom
    repeat' (first
    | with_reducible assumption
    | (extract_lets +onlyGivenNames s'; first | (refine (fun (hs' : P s') => ?_) ?_; clear_value s'; rotate_left; subst s') | clear_value s' | skip)
    | (with_reducible apply bursts_keeps k128)
    | split)
  | succ n ih =>
    unfold accessFrom
    repeat' (first
    | (with_reducible apply ih)
    | with_reducible assumption
    | (extract_lets +onlyGivenNames s'; first | (refine (fun (hs' : P s') => ?_) ?_; clear_value s'; rotate_left; subst s') | clear_value s' | skip)
    | (with_reducible apply bursts_keeps k128)
    | split)
theorem accessMem_keeps (K : Keep P 128) {s : State} {fetch : Bool} {m : MemSource} {a n : Nat}  (hP : P s) : P (accessMem s fetch m a n) := accessFrom_keeps (K.sub rfl) hP
theorem holdFor_keeps (K : Keep P 128) {s : State} {a n : Nat}  (hP : P s) : P (holdFor s a n) := by
  have k128 : Keep P 128 := K.sub rfl
  unfold holdFor
  repeat' (first
    | with_reducible assumption
    | (extract_lets +onlyGivenNames s'; first | (refine (fun (hs' : P s') => ?_) ?_; clear_value s'; rotate_left; subst s') | clear_value s' | skip)
    | (with_reducible apply putChan_keeps k128))
theorem scrubAt_keeps (K : Keep P 128) {s : State} {a : Nat}  (hP : P s) : P (scrubAt s a) := by
  have k128 : Keep P 128 := K.sub rfl
  unfold scrubAt
  repeat' (first
    | with_reducible assumption
    | (extract_lets +onlyGivenNames s'; first | (refine (fun (hs' : P s') => ?_) ?_; clear_value s'; rotate_left; subst s') | clear_value s' | skip)
    | (with_reducible apply putChan_keeps k128)
    | (with_reducible apply putBank_keeps k128)
    | split)
theorem mapChans_keeps (K : Keep P 128) {s : State} {i : Nat} {f : ChanArb → ChanArb}  (hP : P s) : P (mapChans s i f) := by
  have k128 : Keep P 128 := K.sub rfl
  unfold mapChans
  repeat' (first
    | with_reducible assumption
    | intro _
    | (with_reducible apply putChan_keeps k128)
    | (with_reducible apply foldl_keeps))

end Sys2Proof.Machine
end

