-- ==== Sys2Proof/Laws/KeepFirn.lean ====
section
/-! SUPPORT. What each operation of Machine/Firn.lean may write (Touch): a property that stands under changes of those areas stands after the
operation. The mask is the union of the areas written. -/

set_option linter.unreachableTactic false
set_option linter.unusedTactic false
set_option linter.unusedVariables false
set_option linter.tactic.unusedName false

namespace Sys2Proof.Machine

variable {P : State → Prop}

theorem frCodedAdd_keeps (K : Keep P 8) {s : State} {n : Nat} {up : Bool}  (hP : P s) : P (frCodedAdd s n up) := by
  have k8 : Keep P 8 := K.sub rfl
  unfold frCodedAdd
  repeat' (first
    | with_reducible assumption
    | (extract_lets +onlyGivenNames s'; first | (refine (fun (hs' : P s') => ?_) ?_; clear_value s'; rotate_left; subst s') | clear_value s' | skip)
    | (with_reducible apply rputF_keeps k8)
    | split)
theorem setMap_keeps (K : Keep P 64) {s : State} {n b v : Nat}  (hP : P s) : P (setMap s n b v) := putBytes_keeps (K.sub rfl) hP
theorem memStat_keeps (K : Keep P 8) {s : State} {a off : Nat}  (hP : P s) : P (memStat s a off) := rinc_keeps (K.sub rfl) hP
theorem putSlot_keeps (K : Keep P 192) {s : State} {n b e : Nat} {code : List Byte}  (hP : P s) : P (putSlot s n b e code) := by
  have k64 : Keep P 64 := K.sub rfl
  have k128 : Keep P 128 := K.sub rfl
  unfold putSlot
  repeat' (first
    | with_reducible assumption
    | (extract_lets +onlyGivenNames s'; first | (refine (fun (hs' : P s') => ?_) ?_; clear_value s'; rotate_left; subst s') | clear_value s' | skip)
    | (with_reducible apply cureWords_keeps k128)
    | (with_reducible apply setMap_keeps k64)
    | split
    | ((with_reducible refine Keep.mk (f := 64) ?_ ?_ ?_); (exact K.sub rfl); rotate_left; (exact ⟨rfl, rfl, canon_of id id id id id id id id id id id id id id id id id id id id (by first | with_reducible exact id | exact smWf_smSet _ _ _ _) id id, ⟨.inr rfl, .inr rfl, .inr rfl, .inr rfl, .inr rfl, .inr rfl, .inl rfl, .inr rfl⟩, .same rfl, .same rfl, .same rfl⟩); first | with_reducible assumption))
theorem dropStored_keeps (K : Keep P 64) {s : State} {lo len : Nat}  (hP : P s) : P (dropStored s lo len) := by
  unfold dropStored
  repeat' (first
    | with_reducible assumption
    | intro _
    | ((with_reducible refine Keep.mk (f := 64) ?_ ?_ ?_); (exact K.sub rfl); rotate_left; (exact ⟨rfl, rfl, canon_of id id id id id id id id id id id id id id id id id id id id (by first | with_reducible exact id | exact smWf_filter _ _ _) id id, ⟨.inr rfl, .inr rfl, .inr rfl, .inr rfl, .inr rfl, .inr rfl, .inl rfl, .inr rfl⟩, .same rfl, .same rfl, .same rfl⟩); first | with_reducible assumption))
theorem rawSlot_keeps (K : Keep P 192) {s : State} {n b : Nat}  (hP : P s) : P (rawSlot s n b) := putSlot_keeps (K.sub rfl) hP
theorem voidSlot_keeps (K : Keep P 192) {s : State} {n b : Nat}  (hP : P s) : P (voidSlot s n b) := by
  have k64 : Keep P 64 := K.sub rfl
  have k192 : Keep P 192 := K.sub rfl
  unfold voidSlot
  repeat' (first
    | with_reducible assumption
    | (with_reducible apply putBytes_keeps k64)
    | (with_reducible apply putSlot_keeps k192))
theorem codeSlot_keeps (K : Keep P 192) {s : State} {n b : Nat}  (hP : P s) : P (codeSlot s n b) := by
  have k192 : Keep P 192 := K.sub rfl
  unfold codeSlot
  repeat' (first
    | with_reducible assumption
    | (extract_lets +onlyGivenNames s'; first | (refine (fun (hs' : P s') => ?_) ?_; clear_value s'; rotate_left; subst s') | clear_value s' | skip)
    | (with_reducible apply putSlot_keeps k192)
    | (with_reducible apply rawSlot_keeps k192)
    | split)
theorem putMeta_keeps (K : Keep P 192) {s : State} {a : Nat} {bs : List Byte}  (hP : P s) : P (putMeta s a bs) := by
  have k64 : Keep P 64 := K.sub rfl
  have k128 : Keep P 128 := K.sub rfl
  unfold putMeta
  repeat' (first
    | with_reducible assumption
    | (with_reducible apply putBytes_keeps k64)
    | (with_reducible apply cureWords_keeps k128))
theorem sealDomain_keeps (K : Keep P 200) {s : State} {n d : Nat}  (hP : P s) : P (sealDomain s n d) := by
  have k8 : Keep P 8 := K.sub rfl
  have k64 : Keep P 64 := K.sub rfl
  have k192 : Keep P 192 := K.sub rfl
  unfold sealDomain
  repeat' (first
    | with_reducible assumption
    | (extract_lets +onlyGivenNames s'; first | (refine (fun (hs' : P s') => ?_) ?_; clear_value s'; rotate_left; subst s') | clear_value s' | skip)
    | (with_reducible apply putMeta_keeps k192)
    | (with_reducible apply frCodedAdd_keeps k8)
    | (with_reducible apply putBytes_keeps k64)
    | split)
theorem autoSeal_keeps (K : Keep P 200) {s : State} {n d : Nat}  (hP : P s) : P (autoSeal s n d) := by
  have k200 : Keep P 200 := K.sub rfl
  unfold autoSeal
  repeat' (first
    | with_reducible assumption
    | (with_reducible apply sealDomain_keeps k200)
    | split)
theorem firnPutBlock_keeps (K : Keep P 200) {s : State} {n b : Nat} {new : List Byte}  (hP : P s) : P (firnPutBlock s n b new) := by
  have k8 : Keep P 8 := K.sub rfl
  have k64 : Keep P 64 := K.sub rfl
  have k192 : Keep P 192 := K.sub rfl
  have k200 : Keep P 200 := K.sub rfl
  unfold firnPutBlock
  repeat' (first
    | with_reducible assumption
    | (extract_lets +onlyGivenNames s'; first | (refine (fun (hs' : P s') => ?_) ?_; clear_value s'; rotate_left; subst s') | clear_value s' | skip)
    | (with_reducible apply putBytes_keeps k64)
    | (with_reducible apply codeSlot_keeps k192)
    | (with_reducible apply memStat_keeps k8)
    | (with_reducible apply rawSlot_keeps k192)
    | (with_reducible apply putMeta_keeps k192)
    | (with_reducible apply autoSeal_keeps k200)
    | split)
theorem stall_keeps (K : Keep P 10) {s : State} {a : Nat}  (hP : P s) : P (stall s a) := by
  have k2 : Keep P 2 := K.sub rfl
  have k8 : Keep P 8 := K.sub rfl
  unfold stall
  repeat' (first
    | with_reducible assumption
    | (with_reducible apply rinc64_keeps k8)
    | (with_reducible apply takeFree_keeps k2)
    | (with_reducible refine keeps_ofSnd (by assumption) ?_)
    | dsimp -zeta only)
theorem firnPutPart_keeps (K : Keep P 202) {s : State} {m : MemSource} {n a : Nat} {bs : List Byte}  (hP : P s) : P (firnPutPart s m n a bs) := by
  have k8 : Keep P 8 := K.sub rfl
  have k10 : Keep P 10 := K.sub rfl
  have k128 : Keep P 128 := K.sub rfl
  have k200 : Keep P 200 := K.sub rfl
  unfold firnPutPart
  repeat' (first
    | with_reducible assumption
    | (extract_lets +onlyGivenNames s'; first | (refine (fun (hs' : P s') => ?_) ?_; clear_value s'; rotate_left; subst s') | clear_value s' | skip)
    | (with_reducible apply firnPutBlock_keeps k200)
    | (with_reducible apply accessMem_keeps k128)
    | (with_reducible apply stall_keeps k10)
    | (with_reducible apply memStat_keeps k8)
    | (with_reducible apply holdFor_keeps k128)
    | split)
theorem storeGranules_keeps (K : Keep P 202) {m : MemSource} {e0 : Nat} {e1 : State} {e2 : Nat} {e3 : List Byte}  (hP : P e1) : P (storeGranules m e0 e1 e2 e3) := by
  have k128 : Keep P 128 := K.sub rfl
  have k192 : Keep P 192 := K.sub rfl
  have k202 : Keep P 202 := K.sub rfl
  induction e0 generalizing m e1 e2 e3 with
  | zero =>
    unfold storeGranules
    repeat' (first
    | with_reducible assumption
    | (extract_lets +onlyGivenNames s'; first | (refine (fun (hs' : P s') => ?_) ?_; clear_value s'; rotate_left; subst s') | clear_value s' | skip)
    | (with_reducible apply firnPutPart_keeps k202)
    | (with_reducible apply putMeta_keeps k192)
    | (with_reducible apply accessMem_keeps k128)
    | split)
  | succ n ih =>
    unfold storeGranules
    repeat' (first
    | (with_reducible apply ih)
    | with_reducible assumption
    | (extract_lets +onlyGivenNames s'; first | (refine (fun (hs' : P s') => ?_) ?_; clear_value s'; rotate_left; subst s') | clear_value s' | skip)
    | (with_reducible apply firnPutPart_keeps k202)
    | (with_reducible apply putMeta_keeps k192)
    | (with_reducible apply accessMem_keeps k128)
    | split)
theorem rereadBlock_keeps (K : Keep P 66) {n : Nat} {old s : State} {b : Nat}  (hP : P old) (hP1 : P s) : P (rereadBlock n old s b) := by
  have k64 : Keep P 64 := K.sub rfl
  have k66 : Keep P 66 := K.sub rfl
  unfold rereadBlock
  repeat' (first
    | with_reducible assumption
    | (extract_lets +onlyGivenNames s'; first | (refine (fun (hs' : P s') => ?_) ?_; clear_value s'; rotate_left; subst s') | clear_value s' | skip)
    | (with_reducible apply putBytes_keeps k64)
    | (with_reducible apply makeUndef_keeps k66)
    | split
    | ((with_reducible refine Keep.mk (f := 64) ?_ ?_ ?_); (exact K.sub rfl); rotate_left; (exact ⟨rfl, rfl, canon_of id id id id id id id id id id id id id id id id id id id id (by first | with_reducible exact id | exact smWf_smDel _ _ _ | exact smWf_smSet _ _ _ _) id id, ⟨.inr rfl, .inr rfl, .inr rfl, .inr rfl, .inr rfl, .inr rfl, .inl rfl, .inr rfl⟩, .same rfl, .same rfl, .same rfl⟩); first | with_reducible assumption))
theorem rereadRegion_keeps (K : Keep P 74) {a len : Nat} {old s : State} {n : Nat}  (hP : P old) (hP1 : P s) : P (rereadRegion a len old s n) := by
  have k8 : Keep P 8 := K.sub rfl
  have k66 : Keep P 66 := K.sub rfl
  unfold rereadRegion
  repeat' (first
    | with_reducible assumption
    | intro _
    | (extract_lets +onlyGivenNames s'; first | (refine (fun (hs' : P s') => ?_) ?_; clear_value s'; rotate_left; subst s') | clear_value s' | skip)
    | (with_reducible apply rereadBlock_keeps k66)
    | (with_reducible apply rputF_keeps k8)
    | (with_reducible apply foldl_keeps)
    | split)
theorem putPlain_keeps (K : Keep P 194) {s : State} {a : Nat} {c : Content}  (hP : P s) : P (putPlain s a c) := by
  have k66 : Keep P 66 := K.sub rfl
  have k128 : Keep P 128 := K.sub rfl
  have k192 : Keep P 192 := K.sub rfl
  unfold putPlain
  repeat' (first
    | with_reducible assumption
    | (with_reducible apply putMeta_keeps k192)
    | (with_reducible apply makeUndef_keeps k66)
    | (with_reducible apply cureWords_keeps k128)
    | split)
theorem putStore_keeps (K : Keep P 202) {s : State} {m : MemSource} {a : Nat} {c : Content}  (hP : P s) : P (putStore s m a c).1 := by
  have k2 : Keep P 2 := K.sub rfl
  have k74 : Keep P 74 := K.sub rfl
  have k128 : Keep P 128 := K.sub rfl
  have k194 : Keep P 194 := K.sub rfl
  have k202 : Keep P 202 := K.sub rfl
  unfold putStore
  repeat' (first
    | with_reducible assumption
    | intro _
    | (extract_lets +onlyGivenNames s'; first | (refine (fun (hs' : P s') => ?_) ?_; clear_value s'; rotate_left; subst s') | (refine (fun (hs' : P s'.2) => ?_) ?_; clear_value s'; rotate_left; subst s') | clear_value s' | skip)
    | (with_reducible apply storeGranules_keeps k202)
    | (with_reducible apply takeFree_keeps k2)
    | (with_reducible apply putPlain_keeps k194)
    | (with_reducible apply accessMem_keeps k128)
    | (with_reducible apply rereadRegion_keeps k74)
    | (with_reducible apply foldl_keeps)
    | split
    | (with_reducible refine keeps_ofSnd (by assumption) ?_)
    | dsimp -zeta only)
theorem noteGranules_keeps (K : Keep P 138) {fetch : Bool} {m : MemSource} {e0 : Nat} {e1 : State} {e2 : Nat} {e3 : Nat}  (hP : P e1) : P (noteGranules fetch m e0 e1 e2 e3) := by
  have k8 : Keep P 8 := K.sub rfl
  have k10 : Keep P 10 := K.sub rfl
  have k128 : Keep P 128 := K.sub rfl
  induction e0 generalizing fetch m e1 e2 e3 with
  | zero =>
    unfold noteGranules
    repeat' (first
    | with_reducible assumption
    | (extract_lets +onlyGivenNames s'; first | (refine (fun (hs' : P s') => ?_) ?_; clear_value s'; rotate_left; subst s') | clear_value s' | skip)
    | (with_reducible apply accessMem_keeps k128)
    | (with_reducible apply rinc64_keeps k8)
    | (with_reducible apply stall_keeps k10)
    | (with_reducible apply rinc_keeps k8)
    | split)
  | succ n ih =>
    unfold noteGranules
    repeat' (first
    | (with_reducible apply ih)
    | with_reducible assumption
    | (extract_lets +onlyGivenNames s'; first | (refine (fun (hs' : P s') => ?_) ?_; clear_value s'; rotate_left; subst s') | clear_value s' | skip)
    | (with_reducible apply accessMem_keeps k128)
    | (with_reducible apply rinc64_keeps k8)
    | (with_reducible apply stall_keeps k10)
    | (with_reducible apply rinc_keeps k8)
    | split)

end Sys2Proof.Machine
end

