-- ==== Sys2Proof/Laws/KeepErrors.lean ====
section
/-! SUPPORT. What each operation of Machine/Errors.lean may write (Touch): a property that stands under changes of those areas stands after the
operation. The mask is the union of the areas written. -/

set_option linter.unreachableTactic false
set_option linter.unusedTactic false
set_option linter.unusedVariables false
set_option linter.tactic.unusedName false

namespace Sys2Proof.Machine

variable {P : State → Prop}

theorem putSess_keeps (K : Keep P 2097152) {s : State} {i : Nat} {x : Sess}  (hP : P s) : P (putSess s i x) := by
  unfold putSess
  repeat' (first
    | with_reducible assumption
    | ((with_reducible refine Keep.mk (f := 2097152) ?_ ?_ ?_); (exact K.sub rfl); rotate_left; (exact ⟨rfl, rfl, canon_of id id id id id id id id (by first | with_reducible exact id | exact smWf_smSet _ _ _ _) id id id id id id id id id id id id id id, .same rfl, .same rfl, ⟨.inr rfl, .inr rfl, .inr rfl, .inr rfl, .inr rfl, .inl rfl, .inr rfl, .inr rfl⟩, .same rfl⟩); first | with_reducible assumption))
theorem ethSent_keeps (K : Keep P 8) {s : State} {port cls bytes : Nat}  (hP : P s) : P (ethSent s port cls bytes) := rinc64_keeps (K.sub rfl) hP
theorem sendCtrl_keeps (K : Keep P 2147483656) {s : State} {m : CMsg}  (hP : P s) : P (sendCtrl s m) := by
  have k8 : Keep P 8 := K.sub rfl
  have k2147483648 : Keep P 2147483648 := K.sub rfl
  unfold sendCtrl
  repeat' (first
    | with_reducible assumption
    | (extract_lets +onlyGivenNames s'; first | (refine (fun (hs' : P s') => ?_) ?_; clear_value s'; rotate_left; subst s') | clear_value s' | skip)
    | (with_reducible apply emit_keeps k2147483648)
    | (with_reducible apply ethSent_keeps k8)
    | split)
theorem sendEvent_keeps (K : Keep P 2149580808) {s : State} {i : Nat} {r : List Byte}  (hP : P s) : P (sendEvent s i r) := by
  have k8 : Keep P 8 := K.sub rfl
  have k2097152 : Keep P 2097152 := K.sub rfl
  have k2147483656 : Keep P 2147483656 := K.sub rfl
  unfold sendEvent
  repeat' (first
    | with_reducible assumption
    | (extract_lets +onlyGivenNames s'; first | (refine (fun (hs' : P s') => ?_) ?_; clear_value s'; rotate_left; subst s') | clear_value s' | skip)
    | (with_reducible apply rinc_keeps k8)
    | (with_reducible apply putSess_keeps k2097152)
    | (with_reducible apply sendCtrl_keeps k2147483656)
    | split)
theorem drainFifo_keeps (K : Keep P 2149597192) {s : State}  (hP : P s) : P (drainFifo s) := by
  have k2149580808 : Keep P 2149580808 := K.sub rfl
  unfold drainFifo
  repeat' (first
    | with_reducible assumption
    | intro _
    | (with_reducible apply sendEvent_keeps k2149580808)
    | (with_reducible apply foldl_keeps)
    | split
    | ((with_reducible refine Keep.mk (f := 16384) ?_ ?_ ?_); (exact K.sub rfl); rotate_left; (exact ⟨rfl, rfl, canon_same rfl, .same rfl, ⟨.inr rfl, .inr rfl, .inr rfl, .inr rfl, .inr rfl, .inr rfl, .inl rfl, .inr rfl⟩, .same rfl, .same rfl⟩); first | with_reducible assumption))
theorem refreshSess_keeps (K : Keep P 8) {s : State} {i : Nat}  (hP : P s) : P (refreshSess s i) := by
  have k8 : Keep P 8 := K.sub rfl
  unfold refreshSess
  repeat' (first
    | with_reducible assumption
    | intro _
    | (extract_lets +onlyGivenNames s'; first | (refine (fun (hs' : P s') => ?_) ?_; clear_value s'; rotate_left; subst s') | clear_value s' | skip)
    | (with_reducible apply rputN_keeps k8)
    | (with_reducible apply rput64_keeps k8)
    | (with_reducible apply rputF_keeps k8)
    | (with_reducible apply foldl_keeps))
theorem setSess_keeps (K : Keep P 2097160) {s : State} {i : Nat} {x : Sess}  (hP : P s) : P (setSess s i x) := by
  have k8 : Keep P 8 := K.sub rfl
  have k2097152 : Keep P 2097152 := K.sub rfl
  unfold setSess
  repeat' (first
    | with_reducible assumption
    | (with_reducible apply refreshSess_keeps k8)
    | (with_reducible apply putSess_keeps k2097152))
theorem closeSess_keeps (K : Keep P 538968072) {s : State} {i : Nat}  (hP : P s) : P (closeSess s i) := by
  have k8 : Keep P 8 := K.sub rfl
  have k2097160 : Keep P 2097160 := K.sub rfl
  unfold closeSess
  repeat' (first
    | with_reducible assumption
    | (extract_lets +onlyGivenNames s'; first | (refine (fun (hs' : P s') => ?_) ?_; clear_value s'; rotate_left; subst s') | clear_value s' | skip)
    | (with_reducible apply rputN_keeps k8)
    | (with_reducible apply setSess_keeps k2097160)
    | (with_reducible apply rputF_keeps k8)
    | split
    | ((with_reducible refine Keep.mk (f := 536870912) ?_ ?_ ?_); (exact K.sub rfl); rotate_left; (exact ⟨rfl, rfl, canon_same rfl, .same rfl, .same rfl, .same rfl, ⟨.inr rfl, .inr rfl, .inr rfl, .inr rfl, .inr rfl, .inl rfl, .inr rfl, .inr rfl⟩⟩); first | with_reducible assumption))
theorem dropIdentity_keeps (K : Keep P 538968072) {s : State}  (hP : P s) : P (dropIdentity s) := by
  have k538968072 : Keep P 538968072 := K.sub rfl
  unfold dropIdentity
  repeat' (first
    | with_reducible assumption
    | intro _
    | (with_reducible apply closeSess_keeps k538968072)
    | (with_reducible apply foldl_keeps)
    | split
    | ((with_reducible refine Keep.mk (f := 536870912) ?_ ?_ ?_); (exact K.sub rfl); rotate_left; (exact ⟨rfl, rfl, canon_same rfl, .same rfl, .same rfl, .same rfl, ⟨.inr rfl, .inr rfl, .inr rfl, .inr rfl, .inr rfl, .inl rfl, .inr rfl, .inr rfl⟩⟩); first | with_reducible assumption))
theorem postMailbox_keeps (K : Keep P 2149580808) {s : State} {owner n sender : Nat}  (hP : P s) : P (postMailbox s owner n sender) := by
  have k2149580808 : Keep P 2149580808 := K.sub rfl
  unfold postMailbox
  repeat' (first
    | with_reducible assumption
    | (extract_lets +onlyGivenNames s'; first | (refine (fun (hs' : P s') => ?_) ?_; clear_value s'; rotate_left; subst s') | clear_value s' | skip)
    | (with_reducible apply sendEvent_keeps k2149580808)
    | split)
theorem evtMark_keeps (K : Keep P 8) {s : State} {w bit own : Nat}  (hP : P s) : P (evtMark s w bit own).1 := by
  have k8 : Keep P 8 := K.sub rfl
  unfold evtMark
  repeat' (first
    | with_reducible assumption
    | (extract_lets +onlyGivenNames s'; first | (refine (fun (hs' : P s') => ?_) ?_; clear_value s'; rotate_left; subst s') | clear_value s' | skip)
    | (with_reducible apply rputBit_keeps k8)
    | split
    | dsimp -zeta only)
theorem captureMark_keeps (K : Keep P 8) {s : State} {w code : Nat} {info : List Nat}  (hP : P s) : P (captureMark s w code info).1 := by
  have k8 : Keep P 8 := K.sub rfl
  unfold captureMark
  repeat' (first
    | with_reducible assumption
    | intro _
    | (extract_lets +onlyGivenNames s'; first | (refine (fun (hs' : P s') => ?_) ?_; clear_value s'; rotate_left; subst s') | (refine (fun (hs' : P s'.1) => ?_) ?_; clear_value s'; rotate_left; subst s') | clear_value s' | skip)
    | (with_reducible apply rinc_keeps k8)
    | (with_reducible apply rputBit_keeps k8)
    | (with_reducible apply rputN_keeps k8)
    | (with_reducible apply evtMark_keeps k8)
    | (with_reducible apply foldl_keeps)
    | (with_reducible apply foldl_keeps_fst)
    | split
    | (with_reducible refine keeps_ofFst (by assumption) ?_)
    | dsimp -zeta only)
theorem errorMark_keeps (K : Keep P 8) {s : State} {w code obj : Nat} {cmd : Option CmdName} {info : List Nat}  (hP : P s) : P (errorMark s w code obj cmd info).1 := by
  have k8 : Keep P 8 := K.sub rfl
  unfold errorMark
  repeat' (first
    | with_reducible assumption
    | (extract_lets +onlyGivenNames s'; first | (refine (fun (hs' : P s') => ?_) ?_; clear_value s'; rotate_left; subst s') | (refine (fun (hs' : P s'.1) => ?_) ?_; clear_value s'; rotate_left; subst s') | clear_value s' | skip)
    | (with_reducible apply captureMark_keeps k8)
    | split
    | (with_reducible refine keeps_ofFst (by assumption) ?_)
    | dsimp -zeta only)
theorem ceMark_keeps (K : Keep P 8) {s : State} {a : Nat}  (hP : P s) : P (ceMark s a).1 := by
  have k8 : Keep P 8 := K.sub rfl
  unfold ceMark
  repeat' (first
    | with_reducible assumption
    | (extract_lets +onlyGivenNames s'; first | (refine (fun (hs' : P s') => ?_) ?_; clear_value s'; rotate_left; subst s') | (refine (fun (hs' : P s'.1) => ?_) ?_; clear_value s'; rotate_left; subst s') | clear_value s' | skip)
    | (with_reducible apply rinc_keeps k8)
    | (with_reducible apply evtMark_keeps k8)
    | split
    | (with_reducible refine keeps_ofFst (by assumption) ?_)
    | dsimp -zeta only)
theorem correctMark_keeps (K : Keep P 136) {s : State} {p : Nat → Bool}  (hP : P s) : P (correctMark s p).1 := by
  have k8 : Keep P 8 := K.sub rfl
  unfold correctMark
  repeat' (first
    | with_reducible assumption
    | intro _
    | (with_reducible apply ceMark_keeps k8)
    | (with_reducible apply foldl_keeps)
    | (with_reducible apply foldl_keeps_fst)
    | ((with_reducible refine Keep.mk (f := 128) ?_ ?_ ?_); (exact K.sub rfl); rotate_left; (exact ⟨rfl, rfl, canon_same rfl, ⟨.inr rfl, .inr rfl, .inr rfl, .inr rfl, .inr rfl, .inr rfl, .inr rfl, .inl rfl⟩, .same rfl, .same rfl, .same rfl⟩); first | with_reducible assumption | (with_reducible refine keeps_ofFst (by assumption) ?_))
    | (with_reducible refine keeps_ofFst (by assumption) ?_)
    | dsimp -zeta only)
theorem ueMark_keeps (K : Keep P 8) {s : State} {a requester : Nat} {cmd : Option CmdName}  (hP : P s) : P (ueMark s a requester cmd).1 := by
  have k8 : Keep P 8 := K.sub rfl
  unfold ueMark
  repeat' (first
    | with_reducible assumption
    | (extract_lets +onlyGivenNames s'; first | (refine (fun (hs' : P s') => ?_) ?_; clear_value s'; rotate_left; subst s') | (refine (fun (hs' : P s'.1) => ?_) ?_; clear_value s'; rotate_left; subst s') | clear_value s' | skip)
    | (with_reducible apply rinc_keeps k8)
    | (with_reducible apply errorMark_keeps k8)
    | split
    | (with_reducible refine keeps_ofFst (by assumption) ?_)
    | dsimp -zeta only)
theorem ringWrite_keeps (K : Keep P 202) {s : State} {a : Nat} {r : List Byte}  (hP : P s) : P (ringWrite s a r).1 := by
  have k8 : Keep P 8 := K.sub rfl
  have k136 : Keep P 136 := K.sub rfl
  have k202 : Keep P 202 := K.sub rfl
  unfold ringWrite
  repeat' (first
    | with_reducible assumption
    | (extract_lets +onlyGivenNames s'; first | (refine (fun (hs' : P s') => ?_) ?_; clear_value s'; rotate_left; subst s') | (refine (fun (hs' : P s'.1) => ?_) ?_; clear_value s'; rotate_left; subst s') | clear_value s' | skip)
    | (with_reducible apply correctMark_keeps k136)
    | (with_reducible apply putStore_keeps k202)
    | (with_reducible apply ueMark_keeps k8)
    | split
    | (with_reducible refine keeps_ofFst (by assumption) ?_)
    | dsimp -zeta only)
theorem ringRecord_keeps (K : Keep P 202) {s : State} {r : List Byte}  (hP : P s) : P (ringRecord s r).1 := by
  have k8 : Keep P 8 := K.sub rfl
  have k202 : Keep P 202 := K.sub rfl
  unfold ringRecord
  repeat' (first
    | with_reducible assumption
    | (extract_lets +onlyGivenNames s'; first | (refine (fun (hs' : P s') => ?_) ?_; clear_value s'; rotate_left; subst s') | (refine (fun (hs' : P s'.1) => ?_) ?_; clear_value s'; rotate_left; subst s') | clear_value s' | skip)
    | (with_reducible apply rinc_keeps k8)
    | (with_reducible apply ringWrite_keeps k202)
    | (with_reducible apply rput_keeps k8)
    | split
    | (with_reducible refine keeps_ofFst (by assumption) ?_)
    | dsimp -zeta only)
theorem fifoRecord_keeps (K : Keep P 16392) {s : State} {r : List Byte}  (hP : P s) : P (fifoRecord s r) := by
  have k8 : Keep P 8 := K.sub rfl
  unfold fifoRecord
  repeat' (first
    | with_reducible assumption
    | (with_reducible apply rinc_keeps k8)
    | split
    | ((with_reducible refine Keep.mk (f := 16384) ?_ ?_ ?_); (exact K.sub rfl); rotate_left; (exact ⟨rfl, rfl, canon_same rfl, .same rfl, ⟨.inr rfl, .inr rfl, .inr rfl, .inr rfl, .inr rfl, .inr rfl, .inl rfl, .inr rfl⟩, .same rfl, .same rfl⟩); first | with_reducible assumption))
theorem postRecord_keeps (K : Keep P 2149597386) {s : State} {r : List Byte}  (hP : P s) : P (postRecord s r) := by
  have k202 : Keep P 202 := K.sub rfl
  have k16392 : Keep P 16392 := K.sub rfl
  have k2149597192 : Keep P 2149597192 := K.sub rfl
  unfold postRecord
  repeat' (first
    | with_reducible assumption
    | intro _
    | (extract_lets +onlyGivenNames s'; first | (refine (fun (hs' : P s') => ?_) ?_; clear_value s'; rotate_left; subst s') | (refine (fun (hs' : P s'.1) => ?_) ?_; clear_value s'; rotate_left; subst s') | clear_value s' | skip)
    | (with_reducible apply ringRecord_keeps k202)
    | (with_reducible apply drainFifo_keeps k2149597192)
    | (with_reducible apply fifoRecord_keeps k16392)
    | (with_reducible apply foldl_keeps)
    | (with_reducible apply foldl_keeps_fst)
    | (with_reducible refine keeps_ofFst (by assumption) ?_)
    | dsimp -zeta only)
theorem postFor_keeps (K : Keep P 2149597386) {s : State} {cmd : Option CmdName} {r : List Byte}  (hP : P s) : P (postFor s cmd r) := by
  have k2149597386 : Keep P 2149597386 := K.sub rfl
  unfold postFor
  repeat' (first
    | with_reducible assumption
    | (with_reducible apply postRecord_keeps k2149597386)
    | split)
theorem postMarks_keeps (K : Keep P 2149597386) {x : State × List (List Byte)}  (hP : P x.1) : P (postMarks x) := by
  have k2149597386 : Keep P 2149597386 := K.sub rfl
  unfold postMarks
  repeat' (first
    | with_reducible assumption
    | intro _
    | (with_reducible apply postRecord_keeps k2149597386)
    | (with_reducible apply foldl_keeps)
    | (with_reducible refine keeps_ofFst (by assumption) ?_))
theorem evtSet_keeps (K : Keep P 2149597386) {s : State} {w bit own : Nat}  (hP : P s) : P (evtSet s w bit own) := by
  have k8 : Keep P 8 := K.sub rfl
  have k2149597386 : Keep P 2149597386 := K.sub rfl
  unfold evtSet
  repeat' (first
    | with_reducible assumption
    | (with_reducible apply postMarks_keeps k2149597386)
    | (with_reducible apply evtMark_keeps k8)
    | (with_reducible refine keeps_ofFst (by assumption) ?_)
    | dsimp -zeta only)
theorem captureErr_keeps (K : Keep P 2149597386) {s : State} {w code : Nat} {info : List Nat}  (hP : P s) : P (captureErr s w code info) := by
  have k8 : Keep P 8 := K.sub rfl
  have k2149597386 : Keep P 2149597386 := K.sub rfl
  unfold captureErr
  repeat' (first
    | with_reducible assumption
    | (with_reducible apply postMarks_keeps k2149597386)
    | (with_reducible apply captureMark_keeps k8)
    | (with_reducible refine keeps_ofFst (by assumption) ?_)
    | dsimp -zeta only)
theorem reportErr_keeps (K : Keep P 2149597386) {s : State} {w code obj : Nat} {cmd : Option CmdName} {info : List Nat}  (hP : P s) : P (reportErr s w code obj cmd info) := by
  have k8 : Keep P 8 := K.sub rfl
  have k2149597386 : Keep P 2149597386 := K.sub rfl
  unfold reportErr
  repeat' (first
    | with_reducible assumption
    | (with_reducible apply postMarks_keeps k2149597386)
    | (with_reducible apply errorMark_keeps k8)
    | (with_reducible refine keeps_ofFst (by assumption) ?_)
    | dsimp -zeta only)
theorem reportUe_keeps (K : Keep P 2149597386) {s : State} {a requester : Nat} {cmd : Option CmdName}  (hP : P s) : P (reportUe s a requester cmd) := by
  have k8 : Keep P 8 := K.sub rfl
  have k2149597386 : Keep P 2149597386 := K.sub rfl
  unfold reportUe
  repeat' (first
    | with_reducible assumption
    | (with_reducible apply postMarks_keeps k2149597386)
    | (with_reducible apply ueMark_keeps k8)
    | (with_reducible refine keeps_ofFst (by assumption) ?_)
    | dsimp -zeta only)
theorem corrected_keeps (K : Keep P 2149597386) {s : State} {a : Nat}  (hP : P s) : P (corrected s a) := by
  have k8 : Keep P 8 := K.sub rfl
  have k2149597386 : Keep P 2149597386 := K.sub rfl
  unfold corrected
  repeat' (first
    | with_reducible assumption
    | (with_reducible apply postMarks_keeps k2149597386)
    | (with_reducible apply ceMark_keeps k8)
    | (with_reducible refine keeps_ofFst (by assumption) ?_)
    | dsimp -zeta only)
theorem correctWhere_keeps (K : Keep P 2149597386) {s : State} {p : Nat → Bool}  (hP : P s) : P (correctWhere s p) := by
  have k136 : Keep P 136 := K.sub rfl
  have k2149597386 : Keep P 2149597386 := K.sub rfl
  unfold correctWhere
  repeat' (first
    | with_reducible assumption
    | (with_reducible apply postMarks_keeps k2149597386)
    | (with_reducible apply correctMark_keeps k136)
    | (with_reducible refine keeps_ofFst (by assumption) ?_)
    | dsimp -zeta only)
theorem bumpGen_keeps (K : Keep P 8) {s : State} {w : Nat}  (hP : P s) : P (bumpGen s w) := rputF_keeps (K.sub rfl) hP
theorem setCode_keeps (K : Keep P 2149597386) {s : State} {w code : Nat}  (hP : P s) : P (setCode s w code) := by
  have k8 : Keep P 8 := K.sub rfl
  have k2149597386 : Keep P 2149597386 := K.sub rfl
  unfold setCode
  repeat' (first
    | with_reducible assumption
    | (with_reducible apply evtSet_keeps k2149597386)
    | (with_reducible apply bumpGen_keeps k8)
    | (with_reducible apply rputF_keeps k8)
    | split)
theorem noteReadAs_keeps (K : Keep P 2149597386) {s : State} {fetch : Bool} {m : MemSource} {a len : Nat}  (hP : P s) : P (noteReadAs s fetch m a len) := by
  have k128 : Keep P 128 := K.sub rfl
  have k138 : Keep P 138 := K.sub rfl
  have k2149597386 : Keep P 2149597386 := K.sub rfl
  unfold noteReadAs
  repeat' (first
    | with_reducible assumption
    | (extract_lets +onlyGivenNames s'; first | (refine (fun (hs' : P s') => ?_) ?_; clear_value s'; rotate_left; subst s') | clear_value s' | skip)
    | (with_reducible apply correctWhere_keeps k2149597386)
    | (with_reducible apply noteGranules_keeps k138)
    | (with_reducible apply accessMem_keeps k128)
    | split)
theorem noteRead_keeps (K : Keep P 2149597386) {s : State} {m : MemSource} {a len : Nat}  (hP : P s) : P (noteRead s m a len) := noteReadAs_keeps (K.sub rfl) hP
theorem noteReads_keeps (K : Keep P 2149597386) {s : State} {m : MemSource} {l : List (Nat × Nat)}  (hP : P s) : P (noteReads s m l) := by
  have k2149597386 : Keep P 2149597386 := K.sub rfl
  unfold noteReads
  repeat' (first
    | with_reducible assumption
    | intro _
    | (with_reducible apply noteRead_keeps k2149597386)
    | (with_reducible apply foldl_keeps)
    | (with_reducible refine keeps_ofFst (by assumption) ?_))
theorem noteFetches_keeps (K : Keep P 2149597386) {s : State} {e : Nat} {l : List (Nat × Nat)}  (hP : P s) : P (noteFetches s e l) := by
  have k2149597386 : Keep P 2149597386 := K.sub rfl
  unfold noteFetches
  repeat' (first
    | with_reducible assumption
    | intro _
    | (with_reducible apply noteReadAs_keeps k2149597386)
    | (with_reducible apply foldl_keeps)
    | (with_reducible refine keeps_ofFst (by assumption) ?_))
theorem storeContent_keeps (K : Keep P 2149597386) {s : State} {m : MemSource} {a : Nat} {c : Content}  (hP : P s) : P (storeContent s m a c).1 := by
  have k202 : Keep P 202 := K.sub rfl
  have k2149597386 : Keep P 2149597386 := K.sub rfl
  unfold storeContent
  repeat' (first
    | with_reducible assumption
    | (with_reducible apply putStore_keeps k202)
    | (with_reducible apply correctWhere_keeps k2149597386)
    | (with_reducible refine keeps_ofFst (by assumption) ?_)
    | dsimp -zeta only)
theorem storeBytes_keeps (K : Keep P 2149597386) {s : State} {m : MemSource} {a : Nat} {bs : List Byte}  (hP : P s) : P (storeBytes s m a bs).1 := by
  have k2149597386 : Keep P 2149597386 := K.sub rfl
  unfold storeBytes
  repeat' (first
    | with_reducible assumption
    | (with_reducible apply storeContent_keeps k2149597386)
    | (with_reducible refine keeps_ofFst (by assumption) ?_)
    | dsimp -zeta only)
theorem storeUndef_keeps (K : Keep P 2149597386) {s : State} {m : MemSource} {a n : Nat}  (hP : P s) : P (storeUndef s m a n).1 := by
  have k2149597386 : Keep P 2149597386 := K.sub rfl
  unfold storeUndef
  repeat' (first
    | with_reducible assumption
    | (with_reducible apply storeContent_keeps k2149597386)
    | (with_reducible refine keeps_ofFst (by assumption) ?_)
    | dsimp -zeta only)
theorem store_keeps (K : Keep P 2149597386) {s : State} {m : MemSource} {a : Nat} {bs : List Byte}  (hP : P s) : P (store s m a bs) := by
  have k2149597386 : Keep P 2149597386 := K.sub rfl
  unfold store
  repeat' (first
    | with_reducible assumption
    | (with_reducible apply storeBytes_keeps k2149597386)
    | (with_reducible refine keeps_ofFst (by assumption) ?_)
    | dsimp -zeta only)
theorem storeNoted_keeps (K : Keep P 2149597386) {s : State} {m : MemSource} {a : Nat} {bs : List Byte} {requester : Nat} {cmd : Option CmdName}  (hP : P s) : P (storeNoted s m a bs requester cmd) := by
  have k2149597386 : Keep P 2149597386 := K.sub rfl
  unfold storeNoted
  repeat' (first
    | with_reducible assumption
    | (with_reducible apply storeBytes_keeps k2149597386)
    | (with_reducible apply reportUe_keeps k2149597386)
    | split
    | (with_reducible refine keeps_ofFst (by assumption) ?_)
    | dsimp -zeta only)

end Sys2Proof.Machine
end

