-- ==== Sys2Proof/Laws/KeepRouter.lean ====
section
/-! SUPPORT. What each operation of Machine/Router.lean may write (Touch): a property that stands under changes of those areas stands after the
operation. The mask is the union of the areas written. -/

set_option linter.unreachableTactic false
set_option linter.unusedTactic false
set_option linter.unusedVariables false
set_option linter.tactic.unusedName false

namespace Sys2Proof.Machine

variable {P : State → Prop}

theorem injectRaw_keeps (K : Keep P 65536) {s : State} {pk : Pkt}  (hP : P s) : P (injectRaw s pk) := by
  unfold injectRaw
  repeat' (first
    | with_reducible assumption
    | split
    | ((with_reducible refine Keep.mk (f := 65536) ?_ ?_ ?_); (exact K.sub rfl); rotate_left; (exact ⟨rfl, rfl, canon_same rfl, .same rfl, .same rfl, ⟨.inl rfl, .inr rfl, .inr rfl, .inr rfl, .inr rfl, .inr rfl, .inr rfl, .inr rfl⟩, .same rfl⟩); first | with_reducible assumption))
theorem releaseHold_keeps (K : Keep P 65536) {s : State}  (hP : P s) : P (releaseHold s) := by
  unfold releaseHold
  repeat' (first
    | with_reducible assumption
    | intro _
    | ((with_reducible refine Keep.mk (f := 65536) ?_ ?_ ?_); (exact K.sub rfl); rotate_left; (exact ⟨rfl, rfl, canon_same rfl, .same rfl, .same rfl, ⟨.inl rfl, .inr rfl, .inr rfl, .inr rfl, .inr rfl, .inr rfl, .inr rfl, .inr rfl⟩, .same rfl⟩); first | with_reducible assumption))
theorem dropSlot_keeps (K : Keep P 32768) {s : State} {t : Nat}  (hP : P s) : P (dropSlot s t) := by
  unfold dropSlot
  repeat' (first
    | with_reducible assumption
    | intro _
    | ((with_reducible refine Keep.mk (f := 32768) ?_ ?_ ?_); (exact K.sub rfl); rotate_left; (exact ⟨rfl, rfl, canon_same rfl, .same rfl, ⟨.inr rfl, .inr rfl, .inr rfl, .inr rfl, .inr rfl, .inr rfl, .inr rfl, .inl rfl⟩, .same rfl, .same rfl⟩); first | with_reducible assumption))
theorem reply_keeps (K : Keep P 65536) {s : State} {pk : Pkt} {status : Nat} {payload : List Byte}  (hP : P s) : P (reply s pk status payload) := injectRaw_keeps (K.sub rfl) hP
theorem routerReply_keeps (K : Keep P 65536) {s : State} {pk : Pkt} {status : Nat}  (hP : P s) : P (routerReply s pk status) := by
  unfold routerReply
  repeat' (first
    | with_reducible assumption
    | ((with_reducible refine Keep.mk (f := 65536) ?_ ?_ ?_); (exact K.sub rfl); rotate_left; (exact ⟨rfl, rfl, canon_same rfl, .same rfl, .same rfl, ⟨.inl rfl, .inr rfl, .inr rfl, .inr rfl, .inr rfl, .inr rfl, .inr rfl, .inr rfl⟩, .same rfl⟩); first | with_reducible assumption))
theorem putL_keeps (K : Keep P 262144) {s : State} {p : Nat} {l : Link}  (hP : P s) : P (putL s p l) := by
  unfold putL
  repeat' (first
    | with_reducible assumption
    | ((with_reducible refine Keep.mk (f := 262144) ?_ ?_ ?_); (exact K.sub rfl); rotate_left; (exact ⟨rfl, rfl, canon_of id id id id id id id (by first | with_reducible exact id | exact smWf_smSet _ _ _ _) id id id id id id id id id id id id id id id, .same rfl, .same rfl, ⟨.inr rfl, .inr rfl, .inl rfl, .inr rfl, .inr rfl, .inr rfl, .inr rfl, .inr rfl⟩, .same rfl⟩); first | with_reducible assumption))
theorem refreshFabric_keeps (K : Keep P 2149597386) {s : State}  (hP : P s) : P (refreshFabric s) := by
  have k2149597386 : Keep P 2149597386 := K.sub rfl
  unfold refreshFabric
  repeat' (first
    | with_reducible assumption
    | (with_reducible apply setCode_keeps k2149597386)
    | split)
theorem dropDown_keeps (K : Keep P 65544) {s : State} {pk : Pkt}  (hP : P s) : P (dropDown s pk) := by
  have k8 : Keep P 8 := K.sub rfl
  have k65536 : Keep P 65536 := K.sub rfl
  unfold dropDown
  repeat' (first
    | with_reducible assumption
    | (extract_lets +onlyGivenNames s'; first | (refine (fun (hs' : P s') => ?_) ?_; clear_value s'; rotate_left; subst s') | clear_value s' | skip)
    | (with_reducible apply rinc_keeps k8)
    | (with_reducible apply routerReply_keeps k65536)
    | split)
theorem dropRoute_keeps (K : Keep P 65544) {s : State} {pk : Pkt}  (hP : P s) : P (dropRoute s pk) := by
  have k8 : Keep P 8 := K.sub rfl
  have k65536 : Keep P 65536 := K.sub rfl
  unfold dropRoute
  repeat' (first
    | with_reducible assumption
    | (extract_lets +onlyGivenNames s'; first | (refine (fun (hs' : P s') => ?_) ?_; clear_value s'; rotate_left; subst s') | clear_value s' | skip)
    | (with_reducible apply rinc_keeps k8)
    | (with_reducible apply routerReply_keeps k65536)
    | split)
theorem fromEjection_keeps (K : Keep P 131072) {s : State} {op : Nat} {pk : Pkt}  (hP : P s) : SomeKeeps P (fromEjection s op pk) := by
  unfold fromEjection
  repeat' (first
    | with_reducible assumption
    | intro _
    | split
    | ((with_reducible refine Keep.mk (f := 131072) ?_ ?_ ?_); (exact K.sub rfl); rotate_left; (exact ⟨rfl, rfl, canon_same rfl, .same rfl, .same rfl, ⟨.inr rfl, .inl rfl, .inr rfl, .inr rfl, .inr rfl, .inr rfl, .inr rfl, .inr rfl⟩, .same rfl⟩); first | with_reducible assumption)
    | exact SomeKeeps.none
    | (with_reducible apply SomeKeeps.some))
theorem ejected_keeps (K : Keep P 131072) {s : State} {op : Nat} {pk : Pkt} {f : State → State} (hf_f : ∀ (a0 : State), P a0 → P (f a0)) (hP : P s) : P (ejected s op pk f) := by
  have k131072 : Keep P 131072 := K.sub rfl
  unfold ejected
  repeat' (first
    | with_reducible assumption
    | (with_reducible apply fromEjection_keeps k131072)
    | (with_reducible apply hf_f)
    | split
    | (with_reducible refine keeps_ofSome (by assumption) ?_))

end Sys2Proof.Machine
end

