-- ==== Sys2Proof/Laws/KeepFlow.lean ====
section
/-! SUPPORT. What each operation of Machine/Flow.lean may write (Touch): a property that stands under changes of those areas stands after the
operation. The mask is the union of the areas written. -/

set_option linter.unreachableTactic false
set_option linter.unusedTactic false
set_option linter.unusedVariables false
set_option linter.tactic.unusedName false

namespace Sys2Proof.Machine

variable {P : State → Prop}

theorem queueLcw_keeps (K : Keep P 262144) {s : State} {p kind v : Nat}  (hP : P s) : P (queueLcw s p kind v) := by
  have k262144 : Keep P 262144 := K.sub rfl
  unfold queueLcw
  repeat' (first
    | with_reducible assumption
    | (extract_lets +onlyGivenNames s'; first | (refine (fun (hs' : P s') => ?_) ?_; clear_value s'; rotate_left; subst s') | clear_value s' | skip)
    | (with_reducible apply putL_keeps k262144))
theorem returnCredit_keeps (K : Keep P 262144) {e0 : Nat} {e1 : State} {e2 : Nat} {e3 : Nat} {e4 : Nat}  (hP : P e1) : P (returnCredit e0 e1 e2 e3 e4) := by
  have k262144 : Keep P 262144 := K.sub rfl
  induction e0 generalizing e1 e2 e3 e4 with
  | zero =>
    unfold returnCredit
    repeat' (first
    | with_reducible assumption
    | (with_reducible apply queueLcw_keeps k262144)
    | split)
  | succ n ih =>
    unfold returnCredit
    repeat' (first
    | (with_reducible apply ih)
    | with_reducible assumption
    | (with_reducible apply queueLcw_keeps k262144)
    | split)
theorem sendCodeword_keeps (K : Keep P 2147745800) {s : State} {p : Nat} {poison : Nat} {flits : List (Nat × List Byte)}  (hP : P s) : P (sendCodeword s p poison flits) := by
  have k8 : Keep P 8 := K.sub rfl
  have k262144 : Keep P 262144 := K.sub rfl
  have k2147483648 : Keep P 2147483648 := K.sub rfl
  unfold sendCodeword
  repeat' (first
    | with_reducible assumption
    | (extract_lets +onlyGivenNames s'; first | (refine (fun (hs' : P s') => ?_) ?_; clear_value s'; rotate_left; subst s') | clear_value s' | skip)
    | (with_reducible apply putL_keeps k262144)
    | (with_reducible apply emit_keeps k2147483648)
    | (with_reducible apply rinc64_keeps k8)
    | split
    | (with_reducible refine keeps_ofFst (by assumption) ?_))
theorem sendFlits_keeps (K : Keep P 2147745800) {e0 : Nat} {e1 : State} {e2 : Nat} {e3 : List (Nat × Flit)}  (hP : P e1) : P (sendFlits e0 e1 e2 e3) := by
  have k2147745800 : Keep P 2147745800 := K.sub rfl
  induction e0 generalizing e1 e2 e3 with
  | zero =>
    unfold sendFlits
    repeat' (first
    | with_reducible assumption
    | intro _
    | (extract_lets +onlyGivenNames s'; first | (refine (fun (hs' : P s') => ?_) ?_; clear_value s'; rotate_left; subst s') | clear_value s' | skip)
    | (with_reducible apply sendCodeword_keeps k2147745800)
    | split)
  | succ n ih =>
    unfold sendFlits
    repeat' (first
    | (with_reducible apply ih)
    | with_reducible assumption
    | intro _
    | (extract_lets +onlyGivenNames s'; first | (refine (fun (hs' : P s') => ?_) ?_; clear_value s'; rotate_left; subst s') | clear_value s' | skip)
    | (with_reducible apply sendCodeword_keeps k2147745800)
    | split)
theorem sendMsgs_keeps (K : Keep P 2147745800) {e0 : Nat} {e1 : State} {e2 : Nat}  (hP : P e1) : P (sendMsgs e0 e1 e2) := by
  have k2147745800 : Keep P 2147745800 := K.sub rfl
  induction e0 generalizing e1 e2 with
  | zero =>
    unfold sendMsgs
    repeat' (first
    | with_reducible assumption
    | (with_reducible apply sendCodeword_keeps k2147745800)
    | split)
  | succ n ih =>
    unfold sendMsgs
    repeat' (first
    | (with_reducible apply ih)
    | with_reducible assumption
    | (with_reducible apply sendCodeword_keeps k2147745800)
    | split)
theorem flushMsgs_keeps (K : Keep P 2147745800) {s : State} {p : Nat}  (hP : P s) : P (flushMsgs s p) := sendMsgs_keeps (K.sub rfl) hP
theorem takeStream_keeps (K : Keep P 262144) {s : State} {p vc n : Nat}  (hP : P s) : P (takeStream s p vc n).2.2 := by
  have k262144 : Keep P 262144 := K.sub rfl
  unfold takeStream
  repeat' (first
    | with_reducible assumption
    | (extract_lets +onlyGivenNames s'; first | (refine (fun (hs' : P s') => ?_) ?_; clear_value s'; rotate_left; subst s') | clear_value s' | skip)
    | (with_reducible apply returnCredit_keeps k262144)
    | (with_reducible apply putL_keeps k262144)
    | dsimp -zeta only)
theorem takeWorm_keeps (K : Keep P 262144) {s : State} {w : Worm} {n : Nat}  (hP : P s) : P (takeWorm s w n).s := by
  have k262144 : Keep P 262144 := K.sub rfl
  unfold takeWorm
  repeat' (first
    | with_reducible assumption
    | (extract_lets +onlyGivenNames s'; first | (refine (fun (hs' : P s') => ?_) ?_; clear_value s'; rotate_left; subst s') | (refine (fun (hs' : P s'.2.2) => ?_) ?_; clear_value s'; rotate_left; subst s') | clear_value s' | skip)
    | (with_reducible apply takeStream_keeps k262144)
    | split
    | (with_reducible refine keeps_ofThird (by assumption) ?_)
    | dsimp -zeta only)
theorem putWorm_keeps (K : Keep P 131072) {s : State} {i : Nat} {w : Worm}  (hP : P s) : P (putWorm s i w) := by
  unfold putWorm
  repeat' (first
    | with_reducible assumption
    | split
    | ((with_reducible refine Keep.mk (f := 131072) ?_ ?_ ?_); (exact K.sub rfl); rotate_left; (exact ⟨rfl, rfl, canon_same rfl, .same rfl, .same rfl, ⟨.inr rfl, .inl rfl, .inr rfl, .inr rfl, .inr rfl, .inr rfl, .inr rfl, .inr rfl⟩, .same rfl⟩); first | with_reducible assumption))
theorem ejectTo_keeps (K : Keep P 131072) {s : State} {q : Pkt}  (hP : P s) : P (ejectTo s q) := by
  unfold ejectTo
  repeat' (first
    | with_reducible assumption
    | split
    | ((with_reducible refine Keep.mk (f := 131072) ?_ ?_ ?_); (exact K.sub rfl); rotate_left; (exact ⟨rfl, rfl, canon_same rfl, .same rfl, .same rfl, ⟨.inr rfl, .inl rfl, .inr rfl, .inr rfl, .inr rfl, .inr rfl, .inr rfl, .inr rfl⟩, .same rfl⟩); first | with_reducible assumption))
theorem settleWorm_keeps (K : Keep P 393216) {s : State} {w : Worm} {i : Nat}  (hP : P s) : P (settleWorm s w i) := by
  have k131072 : Keep P 131072 := K.sub rfl
  have k262144 : Keep P 262144 := K.sub rfl
  unfold settleWorm
  repeat' (first
    | with_reducible assumption
    | intro _
    | (extract_lets +onlyGivenNames s'; first | (refine (fun (hs' : P s') => ?_) ?_; clear_value s'; rotate_left; subst s') | (refine (fun (hs' : P s'.1) => ?_) ?_; clear_value s'; rotate_left; subst s') | (refine (fun (hs' : P s'.s) => ?_) ?_; clear_value s'; rotate_left; subst s') | (refine (fun (hs' : P s'.2) => ?_) ?_; clear_value s'; rotate_left; subst s') | (refine (fun (hs' : P s'.2.2) => ?_) ?_; clear_value s'; rotate_left; subst s') | (refine (fun (hs' : OptKeeps P s') => ?_) ?_; clear_value s'; rotate_left; subst s') | (refine (fun (hs' : ExKeeps P s') => ?_) ?_; clear_value s'; rotate_left; subst s') | (have _hs : State → _ := s'; clear _hs) | clear_value s' | skip)
    | (with_reducible apply takeWorm_keeps k262144)
    | (with_reducible apply putWorm_keeps k131072)
    | (with_reducible apply ejectTo_keeps k131072)
    | split
    | (with_reducible refine keeps_ofFst (by assumption) ?_)
    | (with_reducible refine keeps_ofSnd (by assumption) ?_)
    | (with_reducible refine keeps_ofThird (by assumption) ?_)
    | (with_reducible refine keeps_ofOpt (by assumption) ?_)
    | (with_reducible refine keeps_ofEx (by assumption) ?_)
    | (with_reducible refine keeps_ofSome (by assumption) ?_)
    | dsimp -zeta only)
theorem settleIn_keeps (K : Keep P 393216) {s : State}  (hP : P s) : P (settleIn s) := by
  have k393216 : Keep P 393216 := K.sub rfl
  unfold settleIn
  repeat' (first
    | with_reducible assumption
    | intro _
    | (with_reducible apply settleWorm_keeps k393216)
    | (with_reducible apply foldl_keeps)
    | split)
theorem grant_keeps (K : Keep P 131072) {s : State} {idx : List Nat} {i : Nat}  (hP : P s) : P (grant s idx i) := by
  unfold grant
  repeat' (first
    | with_reducible assumption
    | intro _
    | (extract_lets +onlyGivenNames s'; first | (refine (fun (hs' : P s') => ?_) ?_; clear_value s'; rotate_left; subst s') | clear_value s' | skip)
    | (with_reducible apply foldl_keeps)
    | split
    | ((with_reducible refine Keep.mk (f := 131072) ?_ ?_ ?_); (exact K.sub rfl); rotate_left; (exact ⟨rfl, rfl, canon_same rfl, .same rfl, .same rfl, ⟨.inr rfl, .inl rfl, .inr rfl, .inr rfl, .inr rfl, .inr rfl, .inr rfl, .inr rfl⟩, .same rfl⟩); first | with_reducible assumption))
theorem grantAll_keeps (K : Keep P 131072) {e0 : Nat} {e1 : State} {e2 : Nat}  (hP : P e1) : P (grantAll e0 e1 e2) := by
  have k131072 : Keep P 131072 := K.sub rfl
  induction e0 generalizing e1 e2 with
  | zero =>
    unfold grantAll
    repeat' (first
    | with_reducible assumption
    | (extract_lets +onlyGivenNames s'; first | (refine (fun (hs' : P s') => ?_) ?_; clear_value s'; rotate_left; subst s') | clear_value s' | skip)
    | (with_reducible apply grant_keeps k131072)
    | split)
  | succ n ih =>
    unfold grantAll
    repeat' (first
    | (with_reducible apply ih)
    | with_reducible assumption
    | (extract_lets +onlyGivenNames s'; first | (refine (fun (hs' : P s') => ?_) ?_; clear_value s'; rotate_left; subst s') | clear_value s' | skip)
    | (with_reducible apply grant_keeps k131072)
    | split)
theorem fillFlit_keeps (K : Keep P 393216) {e0 : Nat} {e1 : State} {e2 : Nat} {e3 : Nat} {e4 : Nat} {e5 : List Byte} {e6 : Bool}  (hP : P e1) : P (fillFlit e0 e1 e2 e3 e4 e5 e6).2.2 := by
  have k131072 : Keep P 131072 := K.sub rfl
  have k262144 : Keep P 262144 := K.sub rfl
  induction e0 generalizing e1 e2 e3 e4 e5 e6 with
  | zero =>
    unfold fillFlit
    repeat' (first
    | with_reducible assumption
    | intro _
    | (extract_lets +onlyGivenNames s'; first | (refine (fun (hs' : P s') => ?_) ?_; clear_value s'; rotate_left; subst s') | (refine (fun (hs' : P s'.s) => ?_) ?_; clear_value s'; rotate_left; subst s') | clear_value s' | skip)
    | (with_reducible apply takeWorm_keeps k262144)
    | (with_reducible apply putWorm_keeps k131072)
    | (with_reducible apply grant_keeps k131072)
    | split
    | dsimp -zeta only)
  | succ n ih =>
    unfold fillFlit
    repeat' (first
    | (with_reducible apply ih)
    | with_reducible assumption
    | intro _
    | (extract_lets +onlyGivenNames s'; first | (refine (fun (hs' : P s') => ?_) ?_; clear_value s'; rotate_left; subst s') | (refine (fun (hs' : P s'.s) => ?_) ?_; clear_value s'; rotate_left; subst s') | clear_value s' | skip)
    | (with_reducible apply takeWorm_keeps k262144)
    | (with_reducible apply putWorm_keeps k131072)
    | (with_reducible apply grant_keeps k131072)
    | split
    | dsimp -zeta only)
theorem fillSlots_keeps (K : Keep P 393216) {e0 : Nat} {e1 : State} {e2 : Nat}  (hP : P e1) : P (fillSlots e0 e1 e2).2 := by
  have k131072 : Keep P 131072 := K.sub rfl
  have k262144 : Keep P 262144 := K.sub rfl
  have k393216 : Keep P 393216 := K.sub rfl
  induction e0 generalizing e1 e2 with
  | zero =>
    unfold fillSlots
    repeat' (first
    | with_reducible assumption
    | intro _
    | (extract_lets +onlyGivenNames s'; first | (refine (fun (hs' : P s') => ?_) ?_; clear_value s'; rotate_left; subst s') | (refine (fun (hs' : P s'.2.2) => ?_) ?_; clear_value s'; rotate_left; subst s') | clear_value s' | skip)
    | (with_reducible apply grantAll_keeps k131072)
    | (with_reducible apply fillFlit_keeps k393216)
    | (with_reducible apply putL_keeps k262144)
    | split
    | (with_reducible refine keeps_ofThird (by assumption) ?_)
    | dsimp -zeta only)
  | succ n ih =>
    unfold fillSlots
    repeat' (first
    | (with_reducible apply ih)
    | with_reducible assumption
    | intro _
    | (extract_lets +onlyGivenNames s'; first | (refine (fun (hs' : P s') => ?_) ?_; clear_value s'; rotate_left; subst s') | (refine (fun (hs' : P s'.2.2) => ?_) ?_; clear_value s'; rotate_left; subst s') | clear_value s' | skip)
    | (with_reducible apply grantAll_keeps k131072)
    | (with_reducible apply fillFlit_keeps k393216)
    | (with_reducible apply putL_keeps k262144)
    | split
    | (with_reducible refine keeps_ofThird (by assumption) ?_)
    | dsimp -zeta only)
theorem flowPort_keeps (K : Keep P 2147876872) {s : State} {p : Nat}  (hP : P s) : P (flowPort s p) := by
  have k393216 : Keep P 393216 := K.sub rfl
  have k2147745800 : Keep P 2147745800 := K.sub rfl
  unfold flowPort
  repeat' (first
    | with_reducible assumption
    | intro _
    | (extract_lets +onlyGivenNames s'; first | (refine (fun (hs' : P s') => ?_) ?_; clear_value s'; rotate_left; subst s') | (refine (fun (hs' : P s'.1) => ?_) ?_; clear_value s'; rotate_left; subst s') | (refine (fun (hs' : P s'.s) => ?_) ?_; clear_value s'; rotate_left; subst s') | (refine (fun (hs' : P s'.2) => ?_) ?_; clear_value s'; rotate_left; subst s') | (refine (fun (hs' : P s'.2.2) => ?_) ?_; clear_value s'; rotate_left; subst s') | (refine (fun (hs' : OptKeeps P s') => ?_) ?_; clear_value s'; rotate_left; subst s') | (refine (fun (hs' : ExKeeps P s') => ?_) ?_; clear_value s'; rotate_left; subst s') | (have _hs : State → _ := s'; clear _hs) | clear_value s' | skip)
    | (with_reducible apply fillSlots_keeps k393216)
    | (with_reducible apply sendFlits_keeps k2147745800)
    | split
    | (with_reducible refine keeps_ofFst (by assumption) ?_)
    | (with_reducible refine keeps_ofSnd (by assumption) ?_)
    | (with_reducible refine keeps_ofThird (by assumption) ?_)
    | (with_reducible refine keeps_ofOpt (by assumption) ?_)
    | (with_reducible refine keeps_ofEx (by assumption) ?_)
    | (with_reducible refine keeps_ofSome (by assumption) ?_)
    | dsimp -zeta only)
theorem flow_keeps (K : Keep P 2147876872) {s : State}  (hP : P s) : P (flow s) := by
  have k393216 : Keep P 393216 := K.sub rfl
  have k2147745800 : Keep P 2147745800 := K.sub rfl
  have k2147876872 : Keep P 2147876872 := K.sub rfl
  unfold flow
  repeat' (first
    | with_reducible assumption
    | intro _
    | (with_reducible apply flushMsgs_keeps k2147745800)
    | (with_reducible apply flowPort_keeps k2147876872)
    | (with_reducible apply settleIn_keeps k393216)
    | (with_reducible apply foldl_keeps))
theorem addWorm_keeps (K : Keep P 131072) {s : State} {w : Worm}  (hP : P s) : P (addWorm s w) := by
  unfold addWorm
  repeat' (first
    | with_reducible assumption
    | split
    | ((with_reducible refine Keep.mk (f := 131072) ?_ ?_ ?_); (exact K.sub rfl); rotate_left; (exact ⟨rfl, rfl, canon_same rfl, .same rfl, .same rfl, ⟨.inr rfl, .inl rfl, .inr rfl, .inr rfl, .inr rfl, .inr rfl, .inr rfl, .inr rfl⟩, .same rfl⟩); first | with_reducible assumption))
theorem dropWorm_keeps (K : Keep P 65544) {s : State} {w : Worm}  (hP : P s) : P (dropWorm s w) := by
  have k8 : Keep P 8 := K.sub rfl
  have k65544 : Keep P 65544 := K.sub rfl
  unfold dropWorm
  repeat' (first
    | with_reducible assumption
    | (with_reducible apply rinc_keeps k8)
    | (with_reducible apply dropDown_keeps k65544)
    | split)
theorem cutOff_keeps (K : Keep P 196616) {s : State} {p : Nat}  (hP : P s) : P (cutOff s p) := by
  have k65544 : Keep P 65544 := K.sub rfl
  unfold cutOff
  repeat' (first
    | with_reducible assumption
    | intro _
    | (extract_lets +onlyGivenNames s'; first | (refine (fun (hs' : P s') => ?_) ?_; clear_value s'; rotate_left; subst s') | clear_value s' | skip)
    | (with_reducible apply dropWorm_keeps k65544)
    | (with_reducible apply foldl_keeps)
    | split
    | ((with_reducible refine Keep.mk (f := 131072) ?_ ?_ ?_); (exact K.sub rfl); rotate_left; (exact ⟨rfl, rfl, canon_same rfl, .same rfl, .same rfl, ⟨.inr rfl, .inl rfl, .inr rfl, .inr rfl, .inr rfl, .inr rfl, .inr rfl, .inr rfl⟩, .same rfl⟩); first | with_reducible assumption))

end Sys2Proof.Machine
end

