-- ==== Sys2Proof/Laws/KeepSync.lean ====
section
/-! SUPPORT. What each operation of Machine/Sync.lean may write (Touch): a property that stands under changes of those areas stands after the
operation. The mask is the union of the areas written. -/

set_option linter.unreachableTactic false
set_option linter.unusedTactic false
set_option linter.unusedVariables false
set_option linter.tactic.unusedName false

namespace Sys2Proof.Machine

variable {P : State → Prop}

theorem dropSignal_keeps (K : Keep P 2149597386) {s : State} {i : Nat}  (hP : P s) : P (dropSignal s i) := by
  have k8 : Keep P 8 := K.sub rfl
  have k2149597386 : Keep P 2149597386 := K.sub rfl
  unfold dropSignal
  repeat' (first
    | with_reducible assumption
    | (extract_lets +onlyGivenNames s'; first | (refine (fun (hs' : P s') => ?_) ?_; clear_value s'; rotate_left; subst s') | clear_value s' | skip)
    | (with_reducible apply rinc_keeps k8)
    | (with_reducible apply captureErr_keeps k2149597386)
    | (with_reducible apply postRecord_keeps k2149597386))
theorem setHeadWait_keeps (K : Keep P 256) {s : State} {q : Nat} {n : Word} {which : Nat} {w : WaitSt}  (hP : P s) : P (setHeadWait s q n which w) := by
  have k256 : Keep P 256 := K.sub rfl
  unfold setHeadWait
  repeat' (first
    | with_reducible assumption
    | (extract_lets +onlyGivenNames s'; first | (refine (fun (hs' : P s') => ?_) ?_; clear_value s'; rotate_left; subst s') | clear_value s' | skip)
    | (with_reducible apply putQ_keeps k256)
    | split)
theorem setJobWait_keeps (K : Keep P 512) {s : State} {j : JobRef} {which : Nat} {w : WaitSt}  (hP : P s) : P (setJobWait s j which w) := by
  have k512 : Keep P 512 := K.sub rfl
  unfold setJobWait
  repeat' (first
    | with_reducible assumption
    | (with_reducible apply putJob_keeps k512)
    | split)
theorem markWorked_keeps (K : Keep P 512) {s : State} {ref : JobRef} {p : Nat}  (hP : P s) : P (markWorked s ref p) := by
  have k512 : Keep P 512 := K.sub rfl
  unfold markWorked
  repeat' (first
    | with_reducible assumption
    | (extract_lets +onlyGivenNames s'; first | (refine (fun (hs' : P s') => ?_) ?_; clear_value s'; rotate_left; subst s') | clear_value s' | skip)
    | (with_reducible apply putJob_keeps k512)
    | split)
theorem markFaulted_keeps (K : Keep P 512) {s : State} {ref : JobRef} {p err : Nat}  (hP : P s) : P (markFaulted s ref p err) := by
  have k512 : Keep P 512 := K.sub rfl
  unfold markFaulted
  repeat' (first
    | with_reducible assumption
    | (with_reducible apply putJob_keeps k512)
    | split)
theorem setPartSt_keeps (K : Keep P 512) {s : State} {j : JobRef} {p : Nat} {st : PartSt}  (hP : P s) : P (setPartSt s j p st) := by
  have k512 : Keep P 512 := K.sub rfl
  unfold setPartSt
  repeat' (first
    | with_reducible assumption
    | (with_reducible apply putJob_keeps k512)
    | split)
theorem giveVerdict_keeps (K : Keep P 2149663690) {s : State} {r : WaitRec} {err : Nat}  (hP : P s) : P (giveVerdict s r err) := by
  have k256 : Keep P 256 := K.sub rfl
  have k512 : Keep P 512 := K.sub rfl
  have k65536 : Keep P 65536 := K.sub rfl
  have k2149597386 : Keep P 2149597386 := K.sub rfl
  unfold giveVerdict
  repeat' (first
    | with_reducible assumption
    | (extract_lets +onlyGivenNames s'; first | (refine (fun (hs' : P s') => ?_) ?_; clear_value s'; rotate_left; subst s') | clear_value s' | skip)
    | (with_reducible apply injectRaw_keeps k65536)
    | (with_reducible apply captureErr_keeps k2149597386)
    | (with_reducible apply postFor_keeps k2149597386)
    | (with_reducible apply setHeadWait_keeps k256)
    | (with_reducible apply setJobWait_keeps k512)
    | (with_reducible apply markWorked_keeps k512)
    | (with_reducible apply markFaulted_keeps k512)
    | split)
theorem satisfy_keeps (K : Keep P 2149671882) {s : State} {i : Nat}  (hP : P s) : P (satisfy s i) := by
  have k2149663690 : Keep P 2149663690 := K.sub rfl
  unfold satisfy
  repeat' (first
    | with_reducible assumption
    | intro _
    | (extract_lets +onlyGivenNames s'; first | (refine (fun (hs' : P s') => ?_) ?_; clear_value s'; rotate_left; subst s') | clear_value s' | skip)
    | (with_reducible apply giveVerdict_keeps k2149663690)
    | (with_reducible apply foldl_keeps)
    | ((with_reducible refine Keep.mk (f := 8192) ?_ ?_ ?_); (exact K.sub rfl); rotate_left; (exact ⟨rfl, rfl, canon_same rfl, .same rfl, ⟨.inr rfl, .inr rfl, .inr rfl, .inr rfl, .inr rfl, .inl rfl, .inr rfl, .inr rfl⟩, .same rfl, .same rfl⟩); first | with_reducible assumption))
theorem addCounter_keeps (K : Keep P 2149675978) {s : State} {i : Nat} {inc : Nat}  (hP : P s) : P (addCounter s i inc) := by
  have k8 : Keep P 8 := K.sub rfl
  have k4096 : Keep P 4096 := K.sub rfl
  have k2149597386 : Keep P 2149597386 := K.sub rfl
  have k2149671882 : Keep P 2149671882 := K.sub rfl
  unfold addCounter
  repeat' (first
    | with_reducible assumption
    | (extract_lets +onlyGivenNames s'; first | (refine (fun (hs' : P s') => ?_) ?_; clear_value s'; rotate_left; subst s') | clear_value s' | skip)
    | (with_reducible apply satisfy_keeps k2149671882)
    | (with_reducible apply rinc64_keeps k8)
    | (with_reducible apply putC_keeps k4096)
    | (with_reducible apply dropSignal_keeps k2149597386)
    | split)
theorem failWaits_keeps (K : Keep P 2149671882) {s : State} {i err : Nat}  (hP : P s) : P (failWaits s i err) := by
  have k8 : Keep P 8 := K.sub rfl
  have k2149663690 : Keep P 2149663690 := K.sub rfl
  unfold failWaits
  repeat' (first
    | with_reducible assumption
    | intro _
    | (extract_lets +onlyGivenNames s'; first | (refine (fun (hs' : P s') => ?_) ?_; clear_value s'; rotate_left; subst s') | clear_value s' | skip)
    | (with_reducible apply giveVerdict_keeps k2149663690)
    | (with_reducible apply rinc_keeps k8)
    | (with_reducible apply foldl_keeps)
    | ((with_reducible refine Keep.mk (f := 8192) ?_ ?_ ?_); (exact K.sub rfl); rotate_left; (exact ⟨rfl, rfl, canon_same rfl, .same rfl, ⟨.inr rfl, .inr rfl, .inr rfl, .inr rfl, .inr rfl, .inl rfl, .inr rfl, .inr rfl⟩, .same rfl, .same rfl⟩); first | with_reducible assumption))
theorem fetchAdd_keeps (K : Keep P 2149675978) {s : State} {i inc : Nat}  (hP : P s) : P (fetchAdd s i inc).2.2 := by
  have k8 : Keep P 8 := K.sub rfl
  have k4096 : Keep P 4096 := K.sub rfl
  have k2149671882 : Keep P 2149671882 := K.sub rfl
  unfold fetchAdd
  repeat' (first
    | with_reducible assumption
    | (extract_lets +onlyGivenNames s'; first | (refine (fun (hs' : P s') => ?_) ?_; clear_value s'; rotate_left; subst s') | clear_value s' | skip)
    | (with_reducible apply satisfy_keeps k2149671882)
    | (with_reducible apply rinc64_keeps k8)
    | (with_reducible apply putC_keeps k4096)
    | split
    | dsimp -zeta only)
theorem noteRefused_keeps (K : Keep P 8192) {s : State} {wid left : Nat} {w : Waiter}  (hP : P s) : P (noteRefused s wid left w) := by
  unfold noteRefused
  repeat' (first
    | with_reducible assumption
    | intro _
    | (extract_lets +onlyGivenNames s'; first | (refine (fun (hs' : P s') => ?_) ?_; clear_value s'; rotate_left; subst s') | clear_value s' | skip)
    | split
    | ((with_reducible refine Keep.mk (f := 8192) ?_ ?_ ?_); (exact K.sub rfl); rotate_left; (exact ⟨rfl, rfl, canon_same rfl, .same rfl, ⟨.inr rfl, .inr rfl, .inr rfl, .inr rfl, .inr rfl, .inl rfl, .inr rfl, .inr rfl⟩, .same rfl, .same rfl⟩); first | with_reducible assumption))
theorem dropRefused_keeps (K : Keep P 8192) {s : State} {wid : Nat} {w : Waiter}  (hP : P s) : P (dropRefused s wid w) := by
  unfold dropRefused
  repeat' (first
    | with_reducible assumption
    | intro _
    | split
    | ((with_reducible refine Keep.mk (f := 8192) ?_ ?_ ?_); (exact K.sub rfl); rotate_left; (exact ⟨rfl, rfl, canon_same rfl, .same rfl, ⟨.inr rfl, .inr rfl, .inr rfl, .inr rfl, .inr rfl, .inl rfl, .inr rfl, .inr rfl⟩, .same rfl, .same rfl⟩); first | with_reducible assumption))
theorem register_keeps (K : Keep P 8200) {s : State} {wid i : Nat} {t : DWord} {left timeout : Nat} {w : Waiter}  (hP : P s) : P (register s wid i t left timeout w).2 := by
  have k8 : Keep P 8 := K.sub rfl
  have k8192 : Keep P 8192 := K.sub rfl
  unfold register
  repeat' (first
    | with_reducible assumption
    | (extract_lets +onlyGivenNames s'; first | (refine (fun (hs' : P s') => ?_) ?_; clear_value s'; rotate_left; subst s') | clear_value s' | skip)
    | (with_reducible apply rinc_keeps k8)
    | (with_reducible apply dropRefused_keeps k8192)
    | (with_reducible apply noteRefused_keeps k8192)
    | split
    | ((with_reducible refine Keep.mk (f := 8192) ?_ ?_ ?_); (exact K.sub rfl); rotate_left; (exact ⟨rfl, rfl, canon_same rfl, .same rfl, ⟨.inr rfl, .inr rfl, .inr rfl, .inr rfl, .inr rfl, .inl rfl, .inr rfl, .inr rfl⟩, .same rfl, .same rfl⟩); first | with_reducible assumption)
    | dsimp -zeta only)
theorem beginWait_keeps (K : Keep P 2149671114) {s : State} {m i : Nat} {t : DWord} {timeout : Nat} {elapsed : Nat} {w : Waiter}  (hP : P s) : P (beginWait s m i t timeout elapsed w).2 := by
  have k8200 : Keep P 8200 := K.sub rfl
  have k65536 : Keep P 65536 := K.sub rfl
  have k2149597386 : Keep P 2149597386 := K.sub rfl
  unfold beginWait
  repeat' (first
    | with_reducible assumption
    | (extract_lets +onlyGivenNames s'; first | (refine (fun (hs' : P s') => ?_) ?_; clear_value s'; rotate_left; subst s') | (refine (fun (hs' : P s'.2) => ?_) ?_; clear_value s'; rotate_left; subst s') | clear_value s' | skip)
    | (with_reducible apply register_keeps k8200)
    | (with_reducible apply captureErr_keeps k2149597386)
    | (with_reducible apply postFor_keeps k2149597386)
    | (with_reducible apply injectRaw_keeps k65536)
    | split
    | ((with_reducible refine Keep.mk (f := 8192) ?_ ?_ ?_); (exact K.sub rfl); rotate_left; (exact ⟨rfl, rfl, canon_same rfl, .same rfl, ⟨.inr rfl, .inr rfl, .inr rfl, .inr rfl, .inr rfl, .inl rfl, .inr rfl, .inr rfl⟩, .same rfl, .same rfl⟩); first | with_reducible assumption | (with_reducible refine keeps_ofSnd (by assumption) ?_))
    | (with_reducible refine keeps_ofSnd (by assumption) ?_)
    | dsimp -zeta only)
theorem withdraw_keeps (K : Keep P 8192) {s : State} {p : Waiter → Bool}  (hP : P s) : P (withdraw s p) := by
  unfold withdraw
  repeat' (first
    | with_reducible assumption
    | intro _
    | ((with_reducible refine Keep.mk (f := 8192) ?_ ?_ ?_); (exact K.sub rfl); rotate_left; (exact ⟨rfl, rfl, canon_same rfl, .same rfl, ⟨.inr rfl, .inr rfl, .inr rfl, .inr rfl, .inr rfl, .inl rfl, .inr rfl, .inr rfl⟩, .same rfl, .same rfl⟩); first | with_reducible assumption))
theorem breakCounters_keeps (K : Keep P 2149675978) {s : State} {f : Floe}  (hP : P s) : P (breakCounters s f) := by
  have k4096 : Keep P 4096 := K.sub rfl
  have k2149671882 : Keep P 2149671882 := K.sub rfl
  unfold breakCounters
  repeat' (first
    | with_reducible assumption
    | intro _
    | (extract_lets +onlyGivenNames s'; first | (refine (fun (hs' : P s') => ?_) ?_; clear_value s'; rotate_left; subst s') | clear_value s' | skip)
    | (with_reducible apply failWaits_keeps k2149671882)
    | (with_reducible apply putC_keeps k4096)
    | (with_reducible apply foldl_keeps))
theorem raised_keeps (K : Keep P 8) {s : State} {ordered : Bool}  (hP : P s) : P (raised s ordered) := by
  have k8 : Keep P 8 := K.sub rfl
  unfold raised
  repeat' (first
    | with_reducible assumption
    | (with_reducible apply rinc64_keeps k8)
    | split)
theorem raiseHere_keeps (K : Keep P 2149675978) {s : State} {i inc : Nat} {ordered : Bool}  (hP : P s) : P (raiseHere s i inc ordered) := by
  have k8 : Keep P 8 := K.sub rfl
  have k2149675978 : Keep P 2149675978 := K.sub rfl
  unfold raiseHere
  repeat' (first
    | with_reducible assumption
    | (with_reducible apply addCounter_keeps k2149675978)
    | (with_reducible apply raised_keeps k8))

end Sys2Proof.Machine
end

