-- ==== Sys2Proof/Laws/KeepOutward.lean ====
section
/-! SUPPORT. What each operation of Machine/Outward.lean may write (Touch): a property that stands under changes of those areas stands after the
operation. The mask is the union of the areas written. -/

set_option linter.unreachableTactic false
set_option linter.unusedTactic false
set_option linter.unusedVariables false
set_option linter.tactic.unusedName false

namespace Sys2Proof.Machine

variable {P : State → Prop}

theorem orFlags_keeps (K : Keep P 2149597898) {s : State} {ref : JobRef} {fl : Nat}  (hP : P s) : P (orFlags s ref fl) := by
  have k512 : Keep P 512 := K.sub rfl
  have k2149597386 : Keep P 2149597386 := K.sub rfl
  unfold orFlags
  repeat' (first
    | with_reducible assumption
    | (extract_lets +onlyGivenNames s'; first | (refine (fun (hs' : P s') => ?_) ?_; clear_value s'; rotate_left; subst s') | clear_value s' | skip)
    | (with_reducible apply store_keeps k2149597386)
    | (with_reducible apply putJob_keeps k512)
    | split)
theorem signalFailed_keeps (K : Keep P 2149597386) {s : State} {k : Slot} {q : Nat} {n : Word} {which err : Nat}  (hP : P s) : P (signalFailed s k q n which err) := by
  have k2149597386 : Keep P 2149597386 := K.sub rfl
  unfold signalFailed
  repeat' (first
    | with_reducible assumption
    | (extract_lets +onlyGivenNames s'; first | (refine (fun (hs' : P s') => ?_) ?_; clear_value s'; rotate_left; subst s') | clear_value s' | skip)
    | (with_reducible apply captureErr_keeps k2149597386)
    | (with_reducible apply postRecord_keeps k2149597386))
theorem fetchRefused_keeps (K : Keep P 2149597898) {s : State} {j : JobRef} {m i err : Nat}  (hP : P s) : P (fetchRefused s j m i err) := by
  have k2149597386 : Keep P 2149597386 := K.sub rfl
  have k2149597898 : Keep P 2149597898 := K.sub rfl
  unfold fetchRefused
  repeat' (first
    | with_reducible assumption
    | (extract_lets +onlyGivenNames s'; first | (refine (fun (hs' : P s') => ?_) ?_; clear_value s'; rotate_left; subst s') | clear_value s' | skip)
    | (with_reducible apply captureErr_keeps k2149597386)
    | (with_reducible apply postFor_keeps k2149597386)
    | (with_reducible apply orFlags_keeps k2149597898)
    | split)
theorem streamFailed_keeps (K : Keep P 2149597898) {s : State} {j : JobRef} {p : Nat} {k : Slot} {err : Nat}  (hP : P s) : P (streamFailed s j p k err) := by
  have k512 : Keep P 512 := K.sub rfl
  have k2149597386 : Keep P 2149597386 := K.sub rfl
  unfold streamFailed
  repeat' (first
    | with_reducible assumption
    | (extract_lets +onlyGivenNames s'; first | (refine (fun (hs' : P s') => ?_) ?_; clear_value s'; rotate_left; subst s') | clear_value s' | skip)
    | (with_reducible apply reportErr_keeps k2149597386)
    | (with_reducible apply markFaulted_keeps k512)
    | split)
theorem failPart_keeps (K : Keep P 512) {s : State} {j : JobRef} {p err : Nat}  (hP : P s) : P (failPart s j p err) := by
  have k512 : Keep P 512 := K.sub rfl
  unfold failPart
  repeat' (first
    | with_reducible assumption
    | (with_reducible apply markFaulted_keeps k512)
    | split)
theorem requestFailed_keeps (K : Keep P 2149597898) {s : State} {k : Slot} {err : Nat}  (hP : P s) : P (requestFailed s k err) := by
  have k512 : Keep P 512 := K.sub rfl
  have k2149597386 : Keep P 2149597386 := K.sub rfl
  have k2149597898 : Keep P 2149597898 := K.sub rfl
  unfold requestFailed
  repeat' (first
    | with_reducible assumption
    | intro _
    | (extract_lets +onlyGivenNames s'; first | (refine (fun (hs' : P s') => ?_) ?_; clear_value s'; rotate_left; subst s') | (refine (fun (hs' : P s'.1) => ?_) ?_; clear_value s'; rotate_left; subst s') | (refine (fun (hs' : P s'.s) => ?_) ?_; clear_value s'; rotate_left; subst s') | (refine (fun (hs' : P s'.2) => ?_) ?_; clear_value s'; rotate_left; subst s') | (refine (fun (hs' : P s'.2.2) => ?_) ?_; clear_value s'; rotate_left; subst s') | (refine (fun (hs' : OptKeeps P s') => ?_) ?_; clear_value s'; rotate_left; subst s') | (refine (fun (hs' : ExKeeps P s') => ?_) ?_; clear_value s'; rotate_left; subst s') | (have _hs : State → _ := s'; clear _hs) | clear_value s' | skip)
    | (with_reducible apply reportErr_keeps k2149597386)
    | (with_reducible apply signalFailed_keeps k2149597386)
    | (with_reducible apply captureErr_keeps k2149597386)
    | (with_reducible apply streamFailed_keeps k2149597898)
    | (with_reducible apply failPart_keeps k512)
    | (with_reducible apply fetchRefused_keeps k2149597898)
    | split
    | (with_reducible refine keeps_ofFst (by assumption) ?_)
    | (with_reducible refine keeps_ofSnd (by assumption) ?_)
    | (with_reducible refine keeps_ofThird (by assumption) ?_)
    | (with_reducible refine keeps_ofOpt (by assumption) ?_)
    | (with_reducible refine keeps_ofEx (by assumption) ?_)
    | (with_reducible refine keeps_ofSome (by assumption) ?_)
    | dsimp -zeta only)
theorem failSlot_keeps (K : Keep P 2149630666) {s : State} {k : Slot}  (hP : P s) : P (failSlot s k) := by
  have k8 : Keep P 8 := K.sub rfl
  have k32768 : Keep P 32768 := K.sub rfl
  have k2149597898 : Keep P 2149597898 := K.sub rfl
  unfold failSlot
  repeat' (first
    | with_reducible assumption
    | (with_reducible apply requestFailed_keeps k2149597898)
    | (with_reducible apply rinc_keeps k8)
    | (with_reducible apply dropSlot_keeps k32768))
theorem sendOn_keeps (K : Keep P 2149696202) {s : State} {k : Slot}  (hP : P s) : P (sendOn s k) := by
  have k2149630666 : Keep P 2149630666 := K.sub rfl
  unfold sendOn
  repeat' (first
    | with_reducible assumption
    | (extract_lets +onlyGivenNames s'; first | (refine (fun (hs' : P s') => ?_) ?_; clear_value s'; rotate_left; subst s') | clear_value s' | skip)
    | (with_reducible apply failSlot_keeps k2149630666)
    | split
    | ((with_reducible refine Keep.mk (f := 98304) ?_ ?_ ?_); (exact K.sub rfl); rotate_left; (exact ⟨rfl, rfl, canon_same rfl, .same rfl, ⟨.inr rfl, .inr rfl, .inr rfl, .inr rfl, .inr rfl, .inr rfl, .inr rfl, .inl rfl⟩, ⟨.inl rfl, .inr rfl, .inr rfl, .inr rfl, .inr rfl, .inr rfl, .inr rfl, .inr rfl⟩, .same rfl⟩); first | with_reducible assumption))
theorem requestAs_keeps (K : Keep P 2149704394) {s : State} {d : Due}  (hP : P s) : P (requestAs s d) := by
  have k2149696202 : Keep P 2149696202 := K.sub rfl
  unfold requestAs
  repeat' (first
    | with_reducible assumption
    | (with_reducible apply sendOn_keeps k2149696202)
    | split
    | ((with_reducible refine Keep.mk (f := 73728) ?_ ?_ ?_); (exact K.sub rfl); rotate_left; (exact ⟨rfl, rfl, canon_same rfl, .same rfl, ⟨.inr rfl, .inr rfl, .inr rfl, .inr rfl, .inr rfl, .inl rfl, .inr rfl, .inr rfl⟩, ⟨.inl rfl, .inr rfl, .inr rfl, .inr rfl, .inr rfl, .inr rfl, .inr rfl, .inr rfl⟩, .same rfl⟩); first | with_reducible assumption))
theorem request_keeps (K : Keep P 2149704394) {s : State} {pk : Pkt} {why : Purpose}  (hP : P s) : P (request s pk why) := by
  have k2149704394 : Keep P 2149704394 := K.sub rfl
  unfold request
  repeat' (first
    | with_reducible assumption
    | (with_reducible apply requestAs_keeps k2149704394))
theorem sendDue_keeps (K : Keep P 2149704394) {e0 : Nat} {e1 : State}  (hP : P e1) : P (sendDue e0 e1) := by
  have k2149704394 : Keep P 2149704394 := K.sub rfl
  induction e0 generalizing e1 with
  | zero =>
    unfold sendDue
    repeat' (first
    | with_reducible assumption
    | (with_reducible apply requestAs_keeps k2149704394)
    | split
    | ((with_reducible refine Keep.mk (f := 65536) ?_ ?_ ?_); (exact K.sub rfl); rotate_left; (exact ⟨rfl, rfl, canon_same rfl, .same rfl, .same rfl, ⟨.inl rfl, .inr rfl, .inr rfl, .inr rfl, .inr rfl, .inr rfl, .inr rfl, .inr rfl⟩, .same rfl⟩); first | with_reducible assumption))
  | succ n ih =>
    unfold sendDue
    repeat' (first
    | (with_reducible apply ih)
    | with_reducible assumption
    | (with_reducible apply requestAs_keeps k2149704394)
    | split
    | ((with_reducible refine Keep.mk (f := 65536) ?_ ?_ ?_); (exact K.sub rfl); rotate_left; (exact ⟨rfl, rfl, canon_same rfl, .same rfl, .same rfl, ⟨.inl rfl, .inr rfl, .inr rfl, .inr rfl, .inr rfl, .inr rfl, .inr rfl, .inr rfl⟩, .same rfl⟩); first | with_reducible assumption))
theorem sendSignal_keeps (K : Keep P 2149708746) {s : State} {m i inc : Nat} {ordered : Bool} {via : Option Nat} {ctag : Nat} {why : Purpose}  (hP : P s) : P (sendSignal s m i inc ordered via ctag why) := by
  have k8 : Keep P 8 := K.sub rfl
  have k2149675978 : Keep P 2149675978 := K.sub rfl
  have k2149704394 : Keep P 2149704394 := K.sub rfl
  unfold sendSignal
  repeat' (first
    | with_reducible assumption
    | (extract_lets +onlyGivenNames s'; first | (refine (fun (hs' : P s') => ?_) ?_; clear_value s'; rotate_left; subst s') | clear_value s' | skip)
    | (with_reducible apply raised_keeps k8)
    | (with_reducible apply addCounter_keeps k2149675978)
    | (with_reducible apply request_keeps k2149704394)
    | split)

end Sys2Proof.Machine
end

