-- ==== Sys2Proof/Laws/KeepJobs.lean ====
section
/-! SUPPORT. What each operation of Machine/Jobs.lean may write (Touch): a property that stands under changes of those areas stands after the
operation. The mask is the union of the areas written. -/

set_option linter.unreachableTactic false
set_option linter.unusedTactic false
set_option linter.unusedVariables false
set_option linter.tactic.unusedName false

namespace Sys2Proof.Machine

variable {P : State → Prop}

theorem writeProgress_keeps (K : Keep P 2149597386) {s : State} {q n st err retired committed : Nat}  (hP : P s) : P (writeProgress s q n st err retired committed) := by
  have k2149597386 : Keep P 2149597386 := K.sub rfl
  unfold writeProgress
  repeat' (first
    | with_reducible assumption
    | (extract_lets +onlyGivenNames s'; first | (refine (fun (hs' : P s') => ?_) ?_; clear_value s'; rotate_left; subst s') | clear_value s' | skip)
    | (with_reducible apply storeNoted_keeps k2149597386)
    | split)
theorem markRecord_keeps (K : Keep P 2149597386) {s : State} {q n st : Nat}  (hP : P s) : P (markRecord s q n st) := by
  have k2149597386 : Keep P 2149597386 := K.sub rfl
  unfold markRecord
  repeat' (first
    | with_reducible assumption
    | (extract_lets +onlyGivenNames s'; first | (refine (fun (hs' : P s') => ?_) ?_; clear_value s'; rotate_left; subst s') | clear_value s' | skip)
    | (with_reducible apply storeNoted_keeps k2149597386)
    | split)
theorem progressOf_keeps (K : Keep P 2149597386) {s : State} {j : Job} {st err : Nat}  (hP : P s) : P (progressOf s j st err) := by
  have k2149597386 : Keep P 2149597386 := K.sub rfl
  unfold progressOf
  repeat' (first
    | with_reducible assumption
    | (with_reducible apply writeProgress_keeps k2149597386)
    | split)
theorem runProgress_keeps (K : Keep P 2149597386) {s : State} {ref : JobRef}  (hP : P s) : P (runProgress s ref) := by
  have k2149597386 : Keep P 2149597386 := K.sub rfl
  unfold runProgress
  repeat' (first
    | with_reducible assumption
    | (with_reducible apply progressOf_keeps k2149597386)
    | split)
theorem addUnit_keeps (K : Keep P 512) {s : State} {ref : JobRef} {u : Nat}  (hP : P s) : P (addUnit s ref u) := by
  have k512 : Keep P 512 := K.sub rfl
  unfold addUnit
  repeat' (first
    | with_reducible assumption
    | (with_reducible apply putJob_keeps k512)
    | split)
theorem addUnits_keeps (K : Keep P 512) {s : State} {ref : JobRef} {us : List Nat}  (hP : P s) : P (addUnits s ref us) := by
  have k512 : Keep P 512 := K.sub rfl
  unfold addUnits
  repeat' (first
    | with_reducible assumption
    | intro _
    | (with_reducible apply addUnit_keeps k512)
    | (with_reducible apply foldl_keeps))
theorem unitRetired_keeps (K : Keep P 2149597898) {s : State} {ref : JobRef} {u : Nat}  (hP : P s) : P (unitRetired s ref u) := by
  have k512 : Keep P 512 := K.sub rfl
  have k2149597386 : Keep P 2149597386 := K.sub rfl
  unfold unitRetired
  repeat' (first
    | with_reducible assumption
    | (extract_lets +onlyGivenNames s'; first | (refine (fun (hs' : P s') => ?_) ?_; clear_value s'; rotate_left; subst s') | clear_value s' | skip)
    | (with_reducible apply addUnit_keeps k512)
    | (with_reducible apply runProgress_keeps k2149597386)
    | split)
theorem unitsRetired_keeps (K : Keep P 2149597898) {s : State} {ref : JobRef} {us : List Nat}  (hP : P s) : P (unitsRetired s ref us) := by
  have k2149597898 : Keep P 2149597898 := K.sub rfl
  unfold unitsRetired
  repeat' (first
    | with_reducible assumption
    | intro _
    | (with_reducible apply unitRetired_keeps k2149597898)
    | (with_reducible apply foldl_keeps))
theorem setJobSt_keeps (K : Keep P 512) {s : State} {ref : JobRef} {st : JobSt}  (hP : P s) : P (setJobSt s ref st) := by
  have k512 : Keep P 512 := K.sub rfl
  unfold setJobSt
  repeat' (first
    | with_reducible assumption
    | (with_reducible apply putJob_keeps k512)
    | split)
theorem closeJob_keeps (K : Keep P 512) {s : State} {ref : JobRef}  (hP : P s) : P (closeJob s ref) := by
  have k512 : Keep P 512 := K.sub rfl
  unfold closeJob
  repeat' (first
    | with_reducible assumption
    | (with_reducible apply putJob_keeps k512)
    | split)
theorem newTag_keeps (K : Keep P 8192) {s : State}  (hP : P s) : P (newTag s).2 := by
  unfold newTag
  repeat' (first
    | with_reducible assumption
    | ((with_reducible refine Keep.mk (f := 8192) ?_ ?_ ?_); (exact K.sub rfl); rotate_left; (exact ⟨rfl, rfl, canon_same rfl, .same rfl, ⟨.inr rfl, .inr rfl, .inr rfl, .inr rfl, .inr rfl, .inl rfl, .inr rfl, .inr rfl⟩, .same rfl, .same rfl⟩); first | with_reducible assumption)
    | dsimp -zeta only)
theorem sendParts_keeps (K : Keep P 2149704394) {s : State} {ref : JobRef}  (hP : P s) : P (sendParts s ref) := by
  have k512 : Keep P 512 := K.sub rfl
  have k2149704394 : Keep P 2149704394 := K.sub rfl
  unfold sendParts
  repeat' (first
    | with_reducible assumption
    | intro _
    | (with_reducible apply request_keeps k2149704394)
    | (with_reducible apply putJob_keeps k512)
    | (with_reducible apply foldl_keeps)
    | split)
theorem pump_keeps (K : Keep P 2149704394) {s : State}  (hP : P s) : P (pump s) := by
  have k2149704394 : Keep P 2149704394 := K.sub rfl
  unfold pump
  repeat' (first
    | with_reducible assumption
    | intro _
    | (extract_lets +onlyGivenNames s'; first | (refine (fun (hs' : P s') => ?_) ?_; clear_value s'; rotate_left; subst s') | clear_value s' | skip)
    | (with_reducible apply sendDue_keeps k2149704394)
    | (with_reducible apply sendParts_keeps k2149704394)
    | (with_reducible apply foldl_keeps)
    | split)
theorem releaseReader_keeps (K : Keep P 2149675978) {s : State} {j : Job}  (hP : P s) : P (releaseReader s j) := by
  have k2149675978 : Keep P 2149675978 := K.sub rfl
  unfold releaseReader
  repeat' (first
    | with_reducible assumption
    | (with_reducible apply raiseHere_keeps k2149675978)
    | split)
theorem abandonEnded_keeps (K : Keep P 2149597898) {s : State} {q : Nat}  (hP : P s) : P (abandonEnded s q) := by
  have k512 : Keep P 512 := K.sub rfl
  have k2149597386 : Keep P 2149597386 := K.sub rfl
  unfold abandonEnded
  repeat' (first
    | with_reducible assumption
    | intro _
    | (extract_lets +onlyGivenNames s'; first | (refine (fun (hs' : P s') => ?_) ?_; clear_value s'; rotate_left; subst s') | clear_value s' | skip)
    | (with_reducible apply dropJob_keeps k512)
    | (with_reducible apply progressOf_keeps k2149597386)
    | (with_reducible apply foldl_keeps)
    | split)
theorem settleQueue_keeps (K : Keep P 2149598154) {s : State} {q : Nat}  (hP : P s) : P (settleQueue s q) := by
  have k256 : Keep P 256 := K.sub rfl
  have k2149597898 : Keep P 2149597898 := K.sub rfl
  unfold settleQueue
  repeat' (first
    | with_reducible assumption
    | (extract_lets +onlyGivenNames s'; first | (refine (fun (hs' : P s') => ?_) ?_; clear_value s'; rotate_left; subst s') | clear_value s' | skip)
    | (with_reducible apply abandonEnded_keeps k2149597898)
    | (with_reducible apply putQ_keeps k256)
    | split)
theorem failCommand_keeps (K : Keep P 2149606346) {s : State} {q : Nat} {n : Word} {err : Nat}  (hP : P s) : P (failCommand s q n err) := by
  have k256 : Keep P 256 := K.sub rfl
  have k512 : Keep P 512 := K.sub rfl
  have k8192 : Keep P 8192 := K.sub rfl
  have k2149597386 : Keep P 2149597386 := K.sub rfl
  have k2149598154 : Keep P 2149598154 := K.sub rfl
  unfold failCommand
  repeat' (first
    | with_reducible assumption
    | intro _
    | (extract_lets +onlyGivenNames s'; first | (refine (fun (hs' : P s') => ?_) ?_; clear_value s'; rotate_left; subst s') | clear_value s' | skip)
    | (with_reducible apply markRecord_keeps k2149597386)
    | (with_reducible apply dropJob_keeps k512)
    | (with_reducible apply progressOf_keeps k2149597386)
    | (with_reducible apply writeProgress_keeps k2149597386)
    | (with_reducible apply withdraw_keeps k8192)
    | (with_reducible apply settleQueue_keeps k2149598154)
    | (with_reducible apply putQ_keeps k256)
    | split)

end Sys2Proof.Machine
end

