-- ==== Sys2Proof/Laws/KeepRequests.lean ====
section
/-! SUPPORT. What each operation of Machine/Requests.lean may write (Touch): a property that stands under changes of those areas stands after the
operation. The mask is the union of the areas written. -/

set_option linter.unreachableTactic false
set_option linter.unusedTactic false
set_option linter.unusedVariables false
set_option linter.tactic.unusedName false

namespace Sys2Proof.Machine

variable {P : State → Prop}

theorem accStat_keeps (K : Keep P 8) {e0 : Nat} {e1 : State} {e2 : Nat} {e3 : Nat}  (hP : P e1) : P (accStat e0 e1 e2 e3) := by
  have k8 : Keep P 8 := K.sub rfl
  induction e0 generalizing e1 e2 e3 with
  | zero =>
    unfold accStat
    repeat' (first
    | with_reducible assumption
    | (extract_lets +onlyGivenNames s'; first | (refine (fun (hs' : P s') => ?_) ?_; clear_value s'; rotate_left; subst s') | clear_value s' | skip)
    | (with_reducible apply rinc64_keeps k8)
    | split)
  | succ n ih =>
    unfold accStat
    repeat' (first
    | (with_reducible apply ih)
    | with_reducible assumption
    | (extract_lets +onlyGivenNames s'; first | (refine (fun (hs' : P s') => ?_) ?_; clear_value s'; rotate_left; subst s') | clear_value s' | skip)
    | (with_reducible apply rinc64_keeps k8)
    | split)
theorem accumulateAs_keeps (K : Keep P 2149597386) {s : State} {m : MemSource} {a : Nat} {c : Content}  (hP : P s) : P (accumulateAs s m a c).1 := by
  have k8 : Keep P 8 := K.sub rfl
  have k2149597386 : Keep P 2149597386 := K.sub rfl
  unfold accumulateAs
  repeat' (first
    | with_reducible assumption
    | (with_reducible apply storeContent_keeps k2149597386)
    | (with_reducible apply noteRead_keeps k2149597386)
    | (with_reducible apply accStat_keeps k8)
    | split
    | (with_reducible refine keeps_ofFst (by assumption) ?_)
    | dsimp -zeta only)
theorem accumulate_keeps (K : Keep P 2149597386) {s : State} {m : MemSource} {a : Nat} {bs : List Byte}  (hP : P s) : P (accumulate s m a bs).1 := by
  have k2149597386 : Keep P 2149597386 := K.sub rfl
  unfold accumulate
  repeat' (first
    | with_reducible assumption
    | (with_reducible apply accumulateAs_keeps k2149597386)
    | (with_reducible refine keeps_ofFst (by assumption) ?_)
    | dsimp -zeta only)
theorem unitRequest_keeps (K : Keep P 2149704394) {s : State} {ref : JobRef} {p u : Nat} {j : Job} {x : Part}  (hP : P s) : P (unitRequest s ref p u j x) := by
  have k8 : Keep P 8 := K.sub rfl
  have k2149597386 : Keep P 2149597386 := K.sub rfl
  have k2149704394 : Keep P 2149704394 := K.sub rfl
  unfold unitRequest
  repeat' (first
    | with_reducible assumption
    | (extract_lets +onlyGivenNames s'; first | (refine (fun (hs' : P s') => ?_) ?_; clear_value s'; rotate_left; subst s') | clear_value s' | skip)
    | (with_reducible apply rinc64_keeps k8)
    | (with_reducible apply request_keeps k2149704394)
    | (with_reducible apply noteRead_keeps k2149597386)
    | split)
theorem issueUnits_keeps (K : Keep P 2149704394) {e0 : Nat} {e1 : State} {e2 : JobRef} {e3 : Nat}  (hP : P e1) : P (issueUnits e0 e1 e2 e3) := by
  have k512 : Keep P 512 := K.sub rfl
  have k2149597386 : Keep P 2149597386 := K.sub rfl
  have k2149704394 : Keep P 2149704394 := K.sub rfl
  induction e0 generalizing e1 e2 e3 with
  | zero =>
    unfold issueUnits
    repeat' (first
    | with_reducible assumption
    | (extract_lets +onlyGivenNames s'; first | (refine (fun (hs' : P s') => ?_) ?_; clear_value s'; rotate_left; subst s') | clear_value s' | skip)
    | (with_reducible apply markFaulted_keeps k512)
    | (with_reducible apply reportUe_keeps k2149597386)
    | (with_reducible apply putJob_keeps k512)
    | (with_reducible apply unitRequest_keeps k2149704394)
    | split)
  | succ n ih =>
    unfold issueUnits
    repeat' (first
    | (with_reducible apply ih)
    | with_reducible assumption
    | (extract_lets +onlyGivenNames s'; first | (refine (fun (hs' : P s') => ?_) ?_; clear_value s'; rotate_left; subst s') | clear_value s' | skip)
    | (with_reducible apply markFaulted_keeps k512)
    | (with_reducible apply reportUe_keeps k2149597386)
    | (with_reducible apply putJob_keeps k512)
    | (with_reducible apply unitRequest_keeps k2149704394)
    | split)
theorem unitDone_keeps (K : Keep P 2149704394) {s : State} {ref : JobRef} {p u : Nat}  (hP : P s) : P (unitDone s ref p u) := by
  have k512 : Keep P 512 := K.sub rfl
  have k2149597898 : Keep P 2149597898 := K.sub rfl
  have k2149704394 : Keep P 2149704394 := K.sub rfl
  unfold unitDone
  repeat' (first
    | with_reducible assumption
    | (extract_lets +onlyGivenNames s'; first | (refine (fun (hs' : P s') => ?_) ?_; clear_value s'; rotate_left; subst s') | clear_value s' | skip)
    | (with_reducible apply unitRetired_keeps k2149597898)
    | (with_reducible apply putJob_keeps k512)
    | (with_reducible apply issueUnits_keeps k2149704394)
    | (with_reducible apply markWorked_keeps k512)
    | split)
theorem writeResult_keeps (K : Keep P 2149597386) {s : State} {addr : Nat} {v : DWord}  (hP : P s) : P (writeResult s addr v).1 := by
  have k2149597386 : Keep P 2149597386 := K.sub rfl
  unfold writeResult
  repeat' (first
    | with_reducible assumption
    | (with_reducible apply storeBytes_keeps k2149597386)
    | split
    | (with_reducible refine keeps_ofFst (by assumption) ?_)
    | dsimp -zeta only)
theorem ticketTaken_keeps (K : Keep P 2149671626) {s : State} {ref : JobRef} {p : Nat} {k : DWord}  (hP : P s) : P (ticketTaken s ref p k) := by
  have k512 : Keep P 512 := K.sub rfl
  have k2149597386 : Keep P 2149597386 := K.sub rfl
  have k2149671114 : Keep P 2149671114 := K.sub rfl
  unfold ticketTaken
  repeat' (first
    | with_reducible assumption
    | (with_reducible apply writeResult_keeps k2149597386)
    | (with_reducible apply markFaulted_keeps k512)
    | (with_reducible apply reportUe_keeps k2149597386)
    | (with_reducible apply beginWait_keeps k2149671114)
    | (with_reducible apply markWorked_keeps k512)
    | (with_reducible apply setPartSt_keeps k512)
    | split
    | (with_reducible refine keeps_ofFst (by assumption) ?_)
    | (with_reducible refine keeps_ofSnd (by assumption) ?_)
    | dsimp -zeta only)
theorem requestOk_keeps (K : Keep P 2149704394) {s : State} {k : Slot} {payload : List Byte}  (hP : P s) : P (requestOk s k payload) := by
  have k512 : Keep P 512 := K.sub rfl
  have k2149597386 : Keep P 2149597386 := K.sub rfl
  have k2149671626 : Keep P 2149671626 := K.sub rfl
  have k2149704394 : Keep P 2149704394 := K.sub rfl
  unfold requestOk
  repeat' (first
    | with_reducible assumption
    | intro _
    | (extract_lets +onlyGivenNames s'; first | (refine (fun (hs' : P s') => ?_) ?_; clear_value s'; rotate_left; subst s') | (refine (fun (hs' : P s'.1) => ?_) ?_; clear_value s'; rotate_left; subst s') | clear_value s' | skip)
    | (with_reducible apply unitDone_keeps k2149704394)
    | (with_reducible apply storeBytes_keeps k2149597386)
    | (with_reducible apply markFaulted_keeps k512)
    | (with_reducible apply reportUe_keeps k2149597386)
    | (with_reducible apply writeResult_keeps k2149597386)
    | (with_reducible apply markWorked_keeps k512)
    | (with_reducible apply ticketTaken_keeps k2149671626)
    | (with_reducible apply putJob_keeps k512)
    | (with_reducible apply runProgress_keeps k2149597386)
    | (with_reducible apply addUnit_keeps k512)
    | split
    | (with_reducible refine keeps_ofFst (by assumption) ?_)
    | dsimp -zeta only)
theorem reissue_keeps (K : Keep P 2149696202) {s : State} {k : Slot}  (hP : P s) : P (reissue s k) := by
  have k32768 : Keep P 32768 := K.sub rfl
  have k2149696202 : Keep P 2149696202 := K.sub rfl
  unfold reissue
  repeat' (first
    | with_reducible assumption
    | (extract_lets +onlyGivenNames s'; first | (refine (fun (hs' : P s') => ?_) ?_; clear_value s'; rotate_left; subst s') | clear_value s' | skip)
    | (with_reducible apply dropSlot_keeps k32768)
    | (with_reducible apply sendOn_keeps k2149696202)
    | split
    | ((with_reducible refine Keep.mk (f := 65536) ?_ ?_ ?_); (exact K.sub rfl); rotate_left; (exact ⟨rfl, rfl, canon_same rfl, .same rfl, .same rfl, ⟨.inl rfl, .inr rfl, .inr rfl, .inr rfl, .inr rfl, .inr rfl, .inr rfl, .inr rfl⟩, .same rfl⟩); first | with_reducible assumption))
theorem expireSlot_keeps (K : Keep P 2149704394) {s : State} {k : Slot}  (hP : P s) : P (expireSlot s k) := by
  have k2149630666 : Keep P 2149630666 := K.sub rfl
  have k2149704394 : Keep P 2149704394 := K.sub rfl
  unfold expireSlot
  repeat' (first
    | with_reducible assumption
    | (with_reducible apply pump_keeps k2149704394)
    | (with_reducible apply failSlot_keeps k2149630666))
theorem onReply_keeps (K : Keep P 2149704394) {s : State} {pk : Pkt}  (hP : P s) : P (onReply s pk) := by
  have k8 : Keep P 8 := K.sub rfl
  have k32768 : Keep P 32768 := K.sub rfl
  have k2149597898 : Keep P 2149597898 := K.sub rfl
  have k2149696202 : Keep P 2149696202 := K.sub rfl
  have k2149704394 : Keep P 2149704394 := K.sub rfl
  unfold onReply
  repeat' (first
    | with_reducible assumption
    | (with_reducible apply rinc_keeps k8)
    | (with_reducible apply expireSlot_keeps k2149704394)
    | (with_reducible apply pump_keeps k2149704394)
    | (with_reducible apply requestOk_keeps k2149704394)
    | (with_reducible apply dropSlot_keeps k32768)
    | (with_reducible apply reissue_keeps k2149696202)
    | (with_reducible apply requestFailed_keeps k2149597898)
    | split)
theorem wake_keeps (K : Keep P 2149597386) {s : State}  (hP : P s) : P (wake s) := by
  have k8 : Keep P 8 := K.sub rfl
  have k2149597386 : Keep P 2149597386 := K.sub rfl
  unfold wake
  repeat' (first
    | with_reducible assumption
    | (with_reducible apply rputBit_keeps k8)
    | (with_reducible apply setCode_keeps k2149597386)
    | split)

end Sys2Proof.Machine
end

