-- ==== Sys2Proof/Laws/KeepJournal.lean ====
section
/-! SUPPORT. What each operation of Machine/Journal.lean may write (Touch): a property that stands under changes of those areas stands after the
operation. The mask is the union of the areas written. -/

set_option linter.unreachableTactic false
set_option linter.unusedTactic false
set_option linter.unusedVariables false
set_option linter.tactic.unusedName false

namespace Sys2Proof.Machine

variable {P : State → Prop}

theorem putJournal_keeps (K : Keep P 2149597386) {s : State} {typ len32 : Nat} {body : List Byte}  (hP : P s) : P (putJournal s typ len32 body) := by
  have k8 : Keep P 8 := K.sub rfl
  have k2149597386 : Keep P 2149597386 := K.sub rfl
  unfold putJournal
  repeat' (first
    | with_reducible assumption
    | (extract_lets +onlyGivenNames s'; first | (refine (fun (hs' : P s') => ?_) ?_; clear_value s'; rotate_left; subst s') | clear_value s' | skip)
    | (with_reducible apply storeNoted_keeps k2149597386)
    | (with_reducible apply rinc64_keeps k8)
    | (with_reducible apply rput64_keeps k8)
    | split)
theorem padJournal_keeps (K : Keep P 2149597386) {e0 : Nat} {e1 : State}  (hP : P e1) : P (padJournal e0 e1) := by
  have k2149597386 : Keep P 2149597386 := K.sub rfl
  induction e0 generalizing e1 with
  | zero =>
    unfold padJournal
    repeat' (first
    | with_reducible assumption
    | (extract_lets +onlyGivenNames s'; first | (refine (fun (hs' : P s') => ?_) ?_; clear_value s'; rotate_left; subst s') | clear_value s' | skip)
    | (with_reducible apply putJournal_keeps k2149597386)
    | split)
  | succ n ih =>
    unfold padJournal
    repeat' (first
    | (with_reducible apply ih)
    | with_reducible assumption
    | (extract_lets +onlyGivenNames s'; first | (refine (fun (hs' : P s') => ?_) ?_; clear_value s'; rotate_left; subst s') | clear_value s' | skip)
    | (with_reducible apply putJournal_keeps k2149597386)
    | split)
theorem noteHold_keeps (K : Keep P 10) {s : State}  (hP : P s) : P (noteHold s) := by
  have k2 : Keep P 2 := K.sub rfl
  have k8 : Keep P 8 := K.sub rfl
  unfold noteHold
  repeat' (first
    | with_reducible assumption
    | (with_reducible apply rinc_keeps k8)
    | (with_reducible apply takeFree_keeps k2)
    | (with_reducible refine keeps_ofSnd (by assumption) ?_)
    | dsimp -zeta only)
theorem journal_keeps (K : Keep P 2149597386) {s : State} {typ len32 : Nat} {body : List Byte}  (hP : P s) : P (journal s typ len32 body) := by
  have k8 : Keep P 8 := K.sub rfl
  have k10 : Keep P 10 := K.sub rfl
  have k2149597386 : Keep P 2149597386 := K.sub rfl
  unfold journal
  repeat' (first
    | with_reducible assumption
    | (extract_lets +onlyGivenNames s'; first | (refine (fun (hs' : P s') => ?_) ?_; clear_value s'; rotate_left; subst s') | clear_value s' | skip)
    | (with_reducible apply rinc_keeps k8)
    | (with_reducible apply padJournal_keeps k2149597386)
    | (with_reducible apply noteHold_keeps k10)
    | (with_reducible apply putJournal_keeps k2149597386)
    | split)
theorem lookupFrom_keeps (K : Keep P 2149597386) {key : List Byte} {e0 : Nat} {e1 : Nat} {e2 : State}  (hP : P e2) : P (lookupFrom key e0 e1 e2).2 := by
  have k2149597386 : Keep P 2149597386 := K.sub rfl
  induction e0 generalizing key e1 e2 with
  | zero =>
    unfold lookupFrom
    repeat' (first
    | with_reducible assumption
    | (extract_lets +onlyGivenNames s'; first | (refine (fun (hs' : P s') => ?_) ?_; clear_value s'; rotate_left; subst s') | clear_value s' | skip)
    | (with_reducible apply noteRead_keeps k2149597386)
    | split
    | dsimp -zeta only)
  | succ n ih =>
    unfold lookupFrom
    repeat' (first
    | (with_reducible apply ih)
    | with_reducible assumption
    | (extract_lets +onlyGivenNames s'; first | (refine (fun (hs' : P s') => ?_) ?_; clear_value s'; rotate_left; subst s') | clear_value s' | skip)
    | (with_reducible apply noteRead_keeps k2149597386)
    | split
    | dsimp -zeta only)
theorem lookupRef_keeps (K : Keep P 2149597386) {s : State} {key : List Byte}  (hP : P s) : P (lookupRef s key).2 := by
  have k2149597386 : Keep P 2149597386 := K.sub rfl
  unfold lookupRef
  repeat' (first
    | with_reducible assumption
    | (with_reducible apply lookupFrom_keeps k2149597386)
    | (with_reducible refine keeps_ofSnd (by assumption) ?_)
    | dsimp -zeta only)
theorem diverge_keeps (K : Keep P 2149597386) {s : State} {c : CmdName} {kind engine tile : Nat} {info : List Nat}  (hP : P s) : P (diverge s c kind engine tile info) := by
  have k8 : Keep P 8 := K.sub rfl
  have k2149597386 : Keep P 2149597386 := K.sub rfl
  unfold diverge
  repeat' (first
    | with_reducible assumption
    | (extract_lets +onlyGivenNames s'; first | (refine (fun (hs' : P s') => ?_) ?_; clear_value s'; rotate_left; subst s') | clear_value s' | skip)
    | (with_reducible apply rinc_keeps k8)
    | (with_reducible apply rputN_keeps k8)
    | (with_reducible apply rput64_keeps k8)
    | (with_reducible apply reportErr_keeps k2149597386)
    | split)
theorem replayOne_keeps (K : Keep P 2149597386) {s : State} {c : CmdName} {typ engine tile code crc : Nat} {info : List Nat}  (hP : P s) : P (replayOne s c typ engine tile code crc info) := by
  have k8 : Keep P 8 := K.sub rfl
  have k2149597386 : Keep P 2149597386 := K.sub rfl
  unfold replayOne
  repeat' (first
    | with_reducible assumption
    | (with_reducible apply lookupRef_keeps k2149597386)
    | (with_reducible apply reportUe_keeps k2149597386)
    | (with_reducible apply diverge_keeps k2149597386)
    | (with_reducible apply rinc_keeps k8)
    | (with_reducible apply store_keeps k2149597386)
    | split
    | (with_reducible refine keeps_ofSnd (by assumption) ?_)
    | dsimp -zeta only)
theorem journalBlock_keeps (K : Keep P 2149597386) {s : State} {c : CmdName} {engine ovf stride : Nat} {tiles : List (Nat × Nat × Nat)}  (hP : P s) : P (journalBlock s c engine ovf stride tiles) := by
  have k2149597386 : Keep P 2149597386 := K.sub rfl
  unfold journalBlock
  repeat' (first
    | with_reducible assumption
    | intro _
    | (extract_lets +onlyGivenNames s'; first | (refine (fun (hs' : P s') => ?_) ?_; clear_value s'; rotate_left; subst s') | clear_value s' | skip)
    | (with_reducible apply replayOne_keeps k2149597386)
    | (with_reducible apply journal_keeps k2149597386)
    | (with_reducible apply foldl_keeps)
    | split
    | (with_reducible refine keeps_ofFst (by assumption) ?_))
theorem journalColl_keeps (K : Keep P 2149597386) {s : State} {c : CmdName} {fam var axes gid seq crc size : Nat}  (hP : P s) : P (journalColl s c fam var axes gid seq crc size) := by
  have k2149597386 : Keep P 2149597386 := K.sub rfl
  unfold journalColl
  repeat' (first
    | with_reducible assumption
    | (with_reducible apply replayOne_keeps k2149597386)
    | (with_reducible apply journal_keeps k2149597386)
    | split)
theorem journalCommit_keeps (K : Keep P 2149597386) {s : State} {j : Job} {own : Option Nat}  (hP : P s) : P (journalCommit s j own) := by
  have k2149597386 : Keep P 2149597386 := K.sub rfl
  unfold journalCommit
  repeat' (first
    | with_reducible assumption
    | intro _
    | (extract_lets +onlyGivenNames s'; first | (refine (fun (hs' : P s') => ?_) ?_; clear_value s'; rotate_left; subst s') | clear_value s' | skip)
    | (with_reducible apply journal_keeps k2149597386)
    | split)
theorem effMorEnable_keeps (K : Keep P 8) {s : State} {v : Word}  (hP : P s) : P (effMorEnable s v) := by
  have k8 : Keep P 8 := K.sub rfl
  unfold effMorEnable
  repeat' (first
    | with_reducible assumption
    | (extract_lets +onlyGivenNames s'; first | (refine (fun (hs' : P s') => ?_) ?_; clear_value s'; rotate_left; subst s') | clear_value s' | skip)
    | (with_reducible apply rput_keeps k8)
    | (with_reducible apply rputBit_keeps k8)
    | (with_reducible apply rput64_keeps k8)
    | split)
theorem execMorEnable_keeps (K : Keep P 8) {v : Word} {s : State} {sOut : State} (hP : P s) (e : execMorEnable v s = .next sOut) : P sOut := ok_keeps (effMorEnable_keeps (K.sub rfl) hP) e

end Sys2Proof.Machine
end

