-- ==== Sys2Proof/Laws/KeepCollective.lean ====
section
/-! SUPPORT. What each operation of Machine/Collective.lean may write (Touch): a property that stands under changes of those areas stands after the
operation. The mask is the union of the areas written. -/

set_option linter.unreachableTactic false
set_option linter.unusedTactic false
set_option linter.unusedVariables false
set_option linter.tactic.unusedName false

namespace Sys2Proof.Machine

variable {P : State → Prop}

theorem setVote_keeps (K : Keep P 8) {s : State} {fl : Nat}  (hP : P s) : P (setVote s fl) := rputN_keeps (K.sub rfl) hP
theorem setVoteIf_keeps (K : Keep P 8) {s : State} {b : Bool} {fl : Nat}  (hP : P s) : P (setVoteIf s b fl) := by
  have k8 : Keep P 8 := K.sub rfl
  unfold setVoteIf
  repeat' (first
    | with_reducible assumption
    | (with_reducible apply setVote_keeps k8)
    | split)
theorem putOp_keeps (K : Keep P 16777216) {s : State} {o : ColOp}  (hP : P s) : P (putOp s o) := by
  unfold putOp
  repeat' (first
    | with_reducible assumption
    | intro _
    | split
    | ((with_reducible refine Keep.mk (f := 16777216) ?_ ?_ ?_); (exact K.sub rfl); rotate_left; (exact ⟨rfl, rfl, canon_same rfl, .same rfl, .same rfl, .same rfl, ⟨.inl rfl, .inr rfl, .inr rfl, .inr rfl, .inr rfl, .inr rfl, .inr rfl, .inr rfl⟩⟩); first | with_reducible assumption))
theorem dropOp_keeps (K : Keep P 16777216) {s : State} {o : ColOp}  (hP : P s) : P (dropOp s o) := by
  unfold dropOp
  repeat' (first
    | with_reducible assumption
    | intro _
    | ((with_reducible refine Keep.mk (f := 16777216) ?_ ?_ ?_); (exact K.sub rfl); rotate_left; (exact ⟨rfl, rfl, canon_same rfl, .same rfl, .same rfl, .same rfl, ⟨.inl rfl, .inr rfl, .inr rfl, .inr rfl, .inr rfl, .inr rfl, .inr rfl, .inr rfl⟩⟩); first | with_reducible assumption))
theorem refreshCtx_keeps (K : Keep P 8) {s : State} {c : Nat}  (hP : P s) : P (refreshCtx s c) := by
  have k8 : Keep P 8 := K.sub rfl
  unfold refreshCtx
  repeat' (first
    | with_reducible assumption
    | intro _
    | (with_reducible apply rputN_keeps k8)
    | split)
theorem refreshCol_keeps (K : Keep P 2149597386) {s : State}  (hP : P s) : P (refreshCol s) := by
  have k8 : Keep P 8 := K.sub rfl
  have k2149597386 : Keep P 2149597386 := K.sub rfl
  unfold refreshCol
  repeat' (first
    | with_reducible assumption
    | intro _
    | (extract_lets +onlyGivenNames s'; first | (refine (fun (hs' : P s') => ?_) ?_; clear_value s'; rotate_left; subst s') | clear_value s' | skip)
    | (with_reducible apply rputN_keeps k8)
    | (with_reducible apply refreshCtx_keeps k8)
    | (with_reducible apply setCode_keeps k2149597386)
    | (with_reducible apply foldl_keeps)
    | split)
theorem eitherAdded_keeps (K : Keep P 66) {s0 : State} {a : List Byte} {o : ColOp} {dst lo n : Nat}  (hP : P s0) : P (eitherAdded s0 a o dst lo n) := by
  have k2 : Keep P 2 := K.sub rfl
  have k64 : Keep P 64 := K.sub rfl
  unfold eitherAdded
  repeat' (first
    | with_reducible assumption
    | intro _
    | (extract_lets +onlyGivenNames s'; first | (refine (fun (hs' : P s') => ?_) ?_; clear_value s'; rotate_left; subst s') | (refine (fun (hs' : P s'.2) => ?_) ?_; clear_value s'; rotate_left; subst s') | clear_value s' | skip)
    | (with_reducible apply takeFree_keeps k2)
    | (with_reducible apply putBytes_keeps k64)
    | split
    | (with_reducible refine keeps_ofSnd (by assumption) ?_)
    | dsimp -zeta only)
theorem spoilDst_keeps (K : Keep P 2149597386) {s : State} {a : List Byte} {o : ColOp}  (hP : P s) : P (spoilDst s a o) := by
  have k66 : Keep P 66 := K.sub rfl
  have k2149597386 : Keep P 2149597386 := K.sub rfl
  unfold spoilDst
  repeat' (first
    | with_reducible assumption
    | (extract_lets +onlyGivenNames s'; first | (refine (fun (hs' : P s') => ?_) ?_; clear_value s'; rotate_left; subst s') | (refine (fun (hs' : P s'.1) => ?_) ?_; clear_value s'; rotate_left; subst s') | clear_value s' | skip)
    | (with_reducible apply eitherAdded_keeps k66)
    | (with_reducible apply storeUndef_keeps k2149597386)
    | split
    | (with_reducible refine keeps_ofFst (by assumption) ?_)
    | dsimp -zeta only)
theorem sendAbort_keeps (K : Keep P 65536) {s : State} {i m gid seq arg : Nat}  (hP : P s) : P (sendAbort s i m gid seq arg) := injectRaw_keeps (K.sub rfl) hP
theorem colEnd_keeps (K : Keep P 2166440138) {s : State} {o : ColOp} {first : Nat}  (hP : P s) : P (colEnd s o first) := by
  have k8 : Keep P 8 := K.sub rfl
  have k65536 : Keep P 65536 := K.sub rfl
  have k16777216 : Keep P 16777216 := K.sub rfl
  have k2149597386 : Keep P 2149597386 := K.sub rfl
  unfold colEnd
  repeat' (first
    | with_reducible assumption
    | intro _
    | (extract_lets +onlyGivenNames s'; first | (refine (fun (hs' : P s') => ?_) ?_; clear_value s'; rotate_left; subst s') | clear_value s' | skip)
    | (with_reducible apply setVote_keeps k8)
    | (with_reducible apply sendAbort_keeps k65536)
    | (with_reducible apply refreshCol_keeps k2149597386)
    | (with_reducible apply dropOp_keeps k16777216)
    | (with_reducible apply spoilDst_keeps k2149597386)
    | (with_reducible apply foldl_keeps)
    | split)
theorem colFail_keeps (K : Keep P 2166440650) {s : State} {o : ColOp} {err info2 first : Nat}  (hP : P s) : P (colFail s o err info2 first) := by
  have k8 : Keep P 8 := K.sub rfl
  have k512 : Keep P 512 := K.sub rfl
  have k2149597386 : Keep P 2149597386 := K.sub rfl
  have k2166440138 : Keep P 2166440138 := K.sub rfl
  unfold colFail
  repeat' (first
    | with_reducible assumption
    | (extract_lets +onlyGivenNames s'; first | (refine (fun (hs' : P s') => ?_) ?_; clear_value s'; rotate_left; subst s') | clear_value s' | skip)
    | (with_reducible apply rinc_keeps k8)
    | (with_reducible apply reportErr_keeps k2149597386)
    | (with_reducible apply markFaulted_keeps k512)
    | (with_reducible apply colEnd_keeps k2166440138)
    | split)
theorem colDone_keeps (K : Keep P 2166375114) {s : State} {o : ColOp} {crc size : Nat}  (hP : P s) : P (colDone s o crc size) := by
  have k8 : Keep P 8 := K.sub rfl
  have k512 : Keep P 512 := K.sub rfl
  have k16777216 : Keep P 16777216 := K.sub rfl
  have k2149597386 : Keep P 2149597386 := K.sub rfl
  unfold colDone
  repeat' (first
    | with_reducible assumption
    | (extract_lets +onlyGivenNames s'; first | (refine (fun (hs' : P s') => ?_) ?_; clear_value s'; rotate_left; subst s') | clear_value s' | skip)
    | (with_reducible apply rinc64_keeps k8)
    | (with_reducible apply dropOp_keeps k16777216)
    | (with_reducible apply journalColl_keeps k2149597386)
    | (with_reducible apply refreshCol_keeps k2149597386)
    | (with_reducible apply markWorked_keeps k512)
    | (with_reducible apply addUnit_keeps k512)
    | split)
theorem colWrite_keeps (K : Keep P 2166440650) {s : State} {o : ColOp}  (hP : P s) : P (colWrite s o) := by
  have k8 : Keep P 8 := K.sub rfl
  have k2149597386 : Keep P 2149597386 := K.sub rfl
  have k2166375114 : Keep P 2166375114 := K.sub rfl
  have k2166440650 : Keep P 2166440650 := K.sub rfl
  unfold colWrite
  repeat' (first
    | with_reducible assumption
    | intro _
    | (extract_lets +onlyGivenNames s'; first | (refine (fun (hs' : P s') => ?_) ?_; clear_value s'; rotate_left; subst s') | (refine (fun (hs' : P s'.1) => ?_) ?_; clear_value s'; rotate_left; subst s') | clear_value s' | skip)
    | (with_reducible apply accumulate_keeps k2149597386)
    | (with_reducible apply storeBytes_keeps k2149597386)
    | (with_reducible apply colFail_keeps k2166440650)
    | (with_reducible apply reportUe_keeps k2149597386)
    | (with_reducible apply rput64_keeps k8)
    | (with_reducible apply colDone_keeps k2166375114)
    | split
    | (with_reducible refine keeps_ofFst (by assumption) ?_)
    | dsimp -zeta only)
theorem colSettle_keeps (K : Keep P 2166440650) {s : State} {gid seq : Nat}  (hP : P s) : P (colSettle s gid seq) := by
  have k2166440650 : Keep P 2166440650 := K.sub rfl
  unfold colSettle
  repeat' (first
    | with_reducible assumption
    | (with_reducible apply colWrite_keeps k2166440650)
    | split)
theorem colSendStream_keeps (K : Keep P 16842752) {e0 : Nat} {e1 : State} {e2 : Nat} {e3 : Nat} {e4 : Nat}  (hP : P e1) : P (colSendStream e0 e1 e2 e3 e4) := by
  have k65536 : Keep P 65536 := K.sub rfl
  have k16777216 : Keep P 16777216 := K.sub rfl
  induction e0 generalizing e1 e2 e3 e4 with
  | zero =>
    unfold colSendStream
    repeat' (first
    | with_reducible assumption
    | (extract_lets +onlyGivenNames s'; first | (refine (fun (hs' : P s') => ?_) ?_; clear_value s'; rotate_left; subst s') | clear_value s' | skip)
    | (with_reducible apply injectRaw_keeps k65536)
    | (with_reducible apply putOp_keeps k16777216)
    | split)
  | succ n ih =>
    unfold colSendStream
    repeat' (first
    | (with_reducible apply ih)
    | with_reducible assumption
    | (extract_lets +onlyGivenNames s'; first | (refine (fun (hs' : P s') => ?_) ?_; clear_value s'; rotate_left; subst s') | clear_value s' | skip)
    | (with_reducible apply injectRaw_keeps k65536)
    | (with_reducible apply putOp_keeps k16777216)
    | split)
theorem colPump_keeps (K : Keep P 16842752) {s : State} {gid seq : Nat}  (hP : P s) : P (colPump s gid seq) := by
  have k16842752 : Keep P 16842752 := K.sub rfl
  unfold colPump
  repeat' (first
    | with_reducible assumption
    | intro _
    | (extract_lets +onlyGivenNames s'; first | (refine (fun (hs' : P s') => ?_) ?_; clear_value s'; rotate_left; subst s') | clear_value s' | skip)
    | (with_reducible apply colSendStream_keeps k16842752)
    | (with_reducible apply foldl_keeps)
    | split)
theorem regrant_keeps (K : Keep P 16842752) {s : State} {gid seq : Nat} {i : Nat}  (hP : P s) : P (regrant s gid seq i) := by
  have k65536 : Keep P 65536 := K.sub rfl
  have k16777216 : Keep P 16777216 := K.sub rfl
  unfold regrant
  repeat' (first
    | with_reducible assumption
    | (extract_lets +onlyGivenNames s'; first | (refine (fun (hs' : P s') => ?_) ?_; clear_value s'; rotate_left; subst s') | clear_value s' | skip)
    | (with_reducible apply injectRaw_keeps k65536)
    | (with_reducible apply putOp_keeps k16777216)
    | split)
theorem regrantAll_keeps (K : Keep P 16842752) {s : State} {gid seq : Nat}  (hP : P s) : P (regrantAll s gid seq) := by
  have k16842752 : Keep P 16842752 := K.sub rfl
  unfold regrantAll
  repeat' (first
    | with_reducible assumption
    | intro _
    | (with_reducible apply regrant_keeps k16842752)
    | (with_reducible apply foldl_keeps)
    | split)
theorem colGo_keeps (K : Keep P 2166440650) {s : State} {gid seq : Nat}  (hP : P s) : P (colGo s gid seq) := by
  have k16842752 : Keep P 16842752 := K.sub rfl
  have k2166440650 : Keep P 2166440650 := K.sub rfl
  unfold colGo
  repeat' (first
    | with_reducible assumption
    | (with_reducible apply colSettle_keeps k2166440650)
    | (with_reducible apply regrantAll_keeps k16842752)
    | (with_reducible apply colPump_keeps k16842752))
theorem voteResult_keeps (K : Keep P 2166440650) {s : State} {o : ColOp} {flags : Nat}  (hP : P s) : P (voteResult s o flags) := by
  have k8 : Keep P 8 := K.sub rfl
  have k65536 : Keep P 65536 := K.sub rfl
  have k2166375114 : Keep P 2166375114 := K.sub rfl
  unfold voteResult
  repeat' (first
    | with_reducible assumption
    | intro _
    | (extract_lets +onlyGivenNames s'; first | (refine (fun (hs' : P s') => ?_) ?_; clear_value s'; rotate_left; subst s') | clear_value s' | skip)
    | (with_reducible apply rputN_keeps k8)
    | (with_reducible apply rput64_keeps k8)
    | (with_reducible apply injectRaw_keeps k65536)
    | (with_reducible apply colDone_keeps k2166375114)
    | (with_reducible apply foldl_keeps)
    | split)
theorem voteGo_keeps (K : Keep P 2166440650) {s : State} {gid seq : Nat}  (hP : P s) : P (voteGo s gid seq) := by
  have k65536 : Keep P 65536 := K.sub rfl
  have k16777216 : Keep P 16777216 := K.sub rfl
  have k2166440650 : Keep P 2166440650 := K.sub rfl
  unfold voteGo
  repeat' (first
    | with_reducible assumption
    | (with_reducible apply voteResult_keeps k2166440650)
    | (with_reducible apply injectRaw_keeps k65536)
    | (with_reducible apply putOp_keeps k16777216)
    | split)
theorem colStep_keeps (K : Keep P 2166440650) {s : State} {gid seq : Nat}  (hP : P s) : P (colStep s gid seq) := by
  have k2149597386 : Keep P 2149597386 := K.sub rfl
  have k2166440650 : Keep P 2166440650 := K.sub rfl
  unfold colStep
  repeat' (first
    | with_reducible assumption
    | (with_reducible apply refreshCol_keeps k2149597386)
    | (with_reducible apply voteGo_keeps k2166440650)
    | (with_reducible apply colGo_keeps k2166440650)
    | split)
theorem takeCtx_keeps (K : Keep P 2166440650) {s : State} {gid seq : Nat}  (hP : P s) : P (takeCtx s gid seq) := by
  have k8 : Keep P 8 := K.sub rfl
  have k16777216 : Keep P 16777216 := K.sub rfl
  have k16842752 : Keep P 16842752 := K.sub rfl
  have k2149597386 : Keep P 2149597386 := K.sub rfl
  have k2166440650 : Keep P 2166440650 := K.sub rfl
  unfold takeCtx
  repeat' (first
    | with_reducible assumption
    | (extract_lets +onlyGivenNames s'; first | (refine (fun (hs' : P s') => ?_) ?_; clear_value s'; rotate_left; subst s') | clear_value s' | skip)
    | (with_reducible apply rput64_keeps k8)
    | (with_reducible apply colFail_keeps k2166440650)
    | (with_reducible apply reportUe_keeps k2149597386)
    | (with_reducible apply putOp_keeps k16777216)
    | (with_reducible apply noteRead_keeps k2149597386)
    | (with_reducible apply colStep_keeps k2166440650)
    | (with_reducible apply regrantAll_keeps k16842752)
    | split)
theorem takeJoin_keeps (K : Keep P 2166440650) {s : State} {o : ColOp} {pk : Pkt}  (hP : P s) : P (takeJoin s o pk) := by
  have k16777216 : Keep P 16777216 := K.sub rfl
  have k2166440650 : Keep P 2166440650 := K.sub rfl
  unfold takeJoin
  repeat' (first
    | with_reducible assumption
    | (with_reducible apply colFail_keeps k2166440650)
    | (with_reducible apply colStep_keeps k2166440650)
    | (with_reducible apply putOp_keeps k16777216)
    | split)
theorem takeAbort_keeps (K : Keep P 2166440650) {s : State} {o : ColOp} {pk : Pkt}  (hP : P s) : P (takeAbort s o pk) := by
  have k2166440650 : Keep P 2166440650 := K.sub rfl
  unfold takeAbort
  repeat' (first
    | with_reducible assumption
    | (extract_lets +onlyGivenNames s'; first | (refine (fun (hs' : P s') => ?_) ?_; clear_value s'; rotate_left; subst s') | clear_value s' | skip)
    | (with_reducible apply colFail_keeps k2166440650)
    | split)
theorem takeUp'_keeps (K : Keep P 2166440650) {s : State} {o : ColOp} {pk : Pkt}  (hP : P s) : P (takeUp' s o pk) := by
  have k16777216 : Keep P 16777216 := K.sub rfl
  have k2166440650 : Keep P 2166440650 := K.sub rfl
  unfold takeUp'
  repeat' (first
    | with_reducible assumption
    | (with_reducible apply colStep_keeps k2166440650)
    | (with_reducible apply putOp_keeps k16777216)
    | split)
theorem takeGrant_keeps (K : Keep P 2166440650) {s : State} {o : ColOp} {pk : Pkt}  (hP : P s) : P (takeGrant s o pk) := by
  have k16777216 : Keep P 16777216 := K.sub rfl
  have k2166440650 : Keep P 2166440650 := K.sub rfl
  unfold takeGrant
  repeat' (first
    | with_reducible assumption
    | intro _
    | (with_reducible apply colStep_keeps k2166440650)
    | (with_reducible apply putOp_keeps k16777216)
    | split)
theorem takeCol_keeps (K : Keep P 2166440650) {s : State} {o : ColOp} {pk : Pkt}  (hP : P s) : P (takeCol s o pk) := by
  have k2166440650 : Keep P 2166440650 := K.sub rfl
  unfold takeCol
  repeat' (first
    | with_reducible assumption
    | (with_reducible apply takeJoin_keeps k2166440650)
    | (with_reducible apply takeGrant_keeps k2166440650)
    | (with_reducible apply takeAbort_keeps k2166440650)
    | (with_reducible apply takeUp'_keeps k2166440650)
    | split)
theorem takeHeld_keeps (K : Keep P 2166440650) {s : State} {gid seq : Nat}  (hP : P s) : P (takeHeld s gid seq) := by
  have k2166440650 : Keep P 2166440650 := K.sub rfl
  unfold takeHeld
  repeat' (first
    | with_reducible assumption
    | intro _
    | (extract_lets +onlyGivenNames s'; first | (refine (fun (hs' : P s') => ?_) ?_; clear_value s'; rotate_left; subst s') | clear_value s' | skip)
    | (with_reducible apply takeCol_keeps k2166440650)
    | (with_reducible apply foldl_keeps)
    | split
    | ((with_reducible refine Keep.mk (f := 16777216) ?_ ?_ ?_); (exact K.sub rfl); rotate_left; (exact ⟨rfl, rfl, canon_same rfl, .same rfl, .same rfl, .same rfl, ⟨.inl rfl, .inr rfl, .inr rfl, .inr rfl, .inr rfl, .inr rfl, .inr rfl, .inr rfl⟩⟩); first | with_reducible assumption))
theorem openOp_keeps (K : Keep P 16777736) {s : State} {ref : JobRef} {p : Nat} {j : Job} {i : Nat}  (hP : P s) : P (openOp s ref p j i).2 := by
  have k8 : Keep P 8 := K.sub rfl
  have k512 : Keep P 512 := K.sub rfl
  unfold openOp
  repeat' (first
    | with_reducible assumption
    | intro _
    | (extract_lets +onlyGivenNames s'; first | (refine (fun (hs' : P s') => ?_) ?_; clear_value s'; rotate_left; subst s') | clear_value s' | skip)
    | (with_reducible apply rputN_keeps k8)
    | (with_reducible apply setPartSt_keeps k512)
    | split
    | ((with_reducible refine Keep.mk (f := 16777216) ?_ ?_ ?_); (exact K.sub rfl); rotate_left; (exact ⟨rfl, rfl, canon_same rfl, .same rfl, .same rfl, .same rfl, ⟨.inl rfl, .inr rfl, .inr rfl, .inr rfl, .inr rfl, .inr rfl, .inr rfl, .inr rfl⟩⟩); first | with_reducible assumption)
    | dsimp -zeta only)
theorem colBegin_keeps (K : Keep P 2166440650) {s : State} {ref : JobRef} {p : Nat} {j : Job} {i : Nat}  (hP : P s) : P (colBegin s ref p j i) := by
  have k65536 : Keep P 65536 := K.sub rfl
  have k16777736 : Keep P 16777736 := K.sub rfl
  have k2149597386 : Keep P 2149597386 := K.sub rfl
  have k2166440650 : Keep P 2166440650 := K.sub rfl
  unfold colBegin
  repeat' (first
    | with_reducible assumption
    | intro _
    | (extract_lets +onlyGivenNames s'; first | (refine (fun (hs' : P s') => ?_) ?_; clear_value s'; rotate_left; subst s') | (refine (fun (hs' : P s'.2) => ?_) ?_; clear_value s'; rotate_left; subst s') | clear_value s' | skip)
    | (with_reducible apply openOp_keeps k16777736)
    | (with_reducible apply injectRaw_keeps k65536)
    | (with_reducible apply takeHeld_keeps k2166440650)
    | (with_reducible apply takeCtx_keeps k2166440650)
    | (with_reducible apply colFail_keeps k2166440650)
    | (with_reducible apply refreshCol_keeps k2149597386)
    | (with_reducible apply foldl_keeps)
    | split
    | (with_reducible refine keeps_ofSnd (by assumption) ?_)
    | dsimp -zeta only)
theorem failFresh_keeps (K : Keep P 2166440650) {s : State} {ref : JobRef} {p : Nat} {j : Job} {i err : Nat}  (hP : P s) : P (failFresh s ref p j i err) := by
  have k16777736 : Keep P 16777736 := K.sub rfl
  have k2166440650 : Keep P 2166440650 := K.sub rfl
  unfold failFresh
  repeat' (first
    | with_reducible assumption
    | intro _
    | (extract_lets +onlyGivenNames s'; first | (refine (fun (hs' : P s') => ?_) ?_; clear_value s'; rotate_left; subst s') | (refine (fun (hs' : P s'.2) => ?_) ?_; clear_value s'; rotate_left; subst s') | clear_value s' | skip)
    | (with_reducible apply openOp_keeps k16777736)
    | (with_reducible apply colFail_keeps k2166440650)
    | split
    | ((with_reducible refine Keep.mk (f := 16777216) ?_ ?_ ?_); (exact K.sub rfl); rotate_left; (exact ⟨rfl, rfl, canon_same rfl, .same rfl, .same rfl, .same rfl, ⟨.inl rfl, .inr rfl, .inr rfl, .inr rfl, .inr rfl, .inr rfl, .inr rfl, .inr rfl⟩⟩); first | with_reducible assumption | (with_reducible refine keeps_ofSnd (by assumption) ?_))
    | (with_reducible refine keeps_ofSnd (by assumption) ?_)
    | dsimp -zeta only)
theorem beginEarlier_keeps (K : Keep P 2166440650) {s : State} {ref : JobRef}  (hP : P s) : P (beginEarlier s ref) := by
  have k2166440650 : Keep P 2166440650 := K.sub rfl
  unfold beginEarlier
  repeat' (first
    | with_reducible assumption
    | intro _
    | (with_reducible apply colBegin_keeps k2166440650)
    | (with_reducible apply foldl_keeps)
    | split)
theorem colPortDown_keeps (K : Keep P 2166440650) {s : State} {p : Nat}  (hP : P s) : P (colPortDown s p) := by
  have k16777736 : Keep P 16777736 := K.sub rfl
  have k2166440650 : Keep P 2166440650 := K.sub rfl
  unfold colPortDown
  repeat' (first
    | with_reducible assumption
    | intro _
    | (extract_lets +onlyGivenNames s'; first | (refine (fun (hs' : P s') => ?_) ?_; clear_value s'; rotate_left; subst s') | (refine (fun (hs' : P s'.2) => ?_) ?_; clear_value s'; rotate_left; subst s') | clear_value s' | skip)
    | (with_reducible apply colFail_keeps k2166440650)
    | (with_reducible apply openOp_keeps k16777736)
    | (with_reducible apply failFresh_keeps k2166440650)
    | (with_reducible apply beginEarlier_keeps k2166440650)
    | (with_reducible apply foldl_keeps)
    | split
    | (with_reducible refine keeps_ofSnd (by assumption) ?_)
    | dsimp -zeta only)
theorem effColl_keeps (K : Keep P 2166440650) {s : State} {ref : JobRef} {p fam var : Nat}  (hP : P s) : P (effColl s ref p fam var) := by
  have k2166440650 : Keep P 2166440650 := K.sub rfl
  unfold effColl
  repeat' (first
    | with_reducible assumption
    | (with_reducible apply colBegin_keeps k2166440650)
    | (with_reducible apply beginEarlier_keeps k2166440650)
    | split)
theorem execStepVote_keeps (K : Keep P 2166440650) {j : JobRef} {p : Nat} {s : State} {sOut : State} (hP : P s) (e : execStepVote j p s = .next sOut) : P sOut := ok_keeps (effColl_keeps (K.sub rfl) hP) e
theorem execAllReduce_keeps (K : Keep P 2166440650) {j : JobRef} {p : Nat} {s : State} {sOut : State} (hP : P s) (e : execAllReduce j p s = .next sOut) : P sOut := ok_keeps (effColl_keeps (K.sub rfl) hP) e
theorem execReduceScatter_keeps (K : Keep P 2166440650) {j : JobRef} {p : Nat} {s : State} {sOut : State} (hP : P s) (e : execReduceScatter j p s = .next sOut) : P sOut := ok_keeps (effColl_keeps (K.sub rfl) hP) e
theorem execAllGather_keeps (K : Keep P 2166440650) {j : JobRef} {p : Nat} {s : State} {sOut : State} (hP : P s) (e : execAllGather j p s = .next sOut) : P sOut := ok_keeps (effColl_keeps (K.sub rfl) hP) e
theorem execAllToAll_keeps (K : Keep P 2166440650) {j : JobRef} {p : Nat} {s : State} {sOut : State} (hP : P s) (e : execAllToAll j p s = .next sOut) : P sOut := ok_keeps (effColl_keeps (K.sub rfl) hP) e
theorem execBroadcast_keeps (K : Keep P 2166440650) {j : JobRef} {p : Nat} {s : State} {sOut : State} (hP : P s) (e : execBroadcast j p s = .next sOut) : P sOut := ok_keeps (effColl_keeps (K.sub rfl) hP) e
theorem execBarrier_keeps (K : Keep P 2166440650) {j : JobRef} {p : Nat} {s : State} {sOut : State} (hP : P s) (e : execBarrier j p s = .next sOut) : P sOut := ok_keeps (effColl_keeps (K.sub rfl) hP) e
theorem colPacket_keeps (K : Keep P 131080) {s : State} {pk : Pkt} {kind : Nat} {f : State → Option ColOp → State} (hf_f : ∀ (a0 : State) (a1 : Option ColOp), P a0 → P (f a0 a1)) (hP : P s) : P (colPacket s pk kind f) := by
  have k8 : Keep P 8 := K.sub rfl
  have k131072 : Keep P 131072 := K.sub rfl
  unfold colPacket
  repeat' (first
    | with_reducible assumption
    | intro _
    | (with_reducible apply ejected_keeps k131072)
    | (with_reducible apply rinc_keeps k8)
    | (with_reducible apply hf_f)
    | split)
theorem colHold_keeps (K : Keep P 16777216) {s : State} {pk : Pkt}  (hP : P s) : P (colHold s pk) := by
  unfold colHold
  repeat' (first
    | with_reducible assumption
    | ((with_reducible refine Keep.mk (f := 16777216) ?_ ?_ ?_); (exact K.sub rfl); rotate_left; (exact ⟨rfl, rfl, canon_same rfl, .same rfl, .same rfl, .same rfl, ⟨.inl rfl, .inr rfl, .inr rfl, .inr rfl, .inr rfl, .inr rfl, .inr rfl, .inr rfl⟩⟩); first | with_reducible assumption))
theorem effJoin_keeps (K : Keep P 2166440650) {pk : Pkt} {s : State} {o : Option ColOp}  (hP : P s) : P (effJoin pk s o) := by
  have k8 : Keep P 8 := K.sub rfl
  have k65536 : Keep P 65536 := K.sub rfl
  have k16777216 : Keep P 16777216 := K.sub rfl
  have k2166440650 : Keep P 2166440650 := K.sub rfl
  unfold effJoin
  repeat' (first
    | with_reducible assumption
    | (with_reducible apply takeJoin_keeps k2166440650)
    | (with_reducible apply rinc_keeps k8)
    | (with_reducible apply colHold_keeps k16777216)
    | (with_reducible apply sendAbort_keeps k65536)
    | split)
theorem execJoin_keeps (K : Keep P 2166571722) {pk : Pkt} {s : State} {sOut : State} (hP : P s) (e : execJoin pk s = .next sOut) : P sOut := by
  have k131080 : Keep P 131080 := K.sub rfl
  have k2166440650 : Keep P 2166440650 := K.sub rfl
  refine ok_keeps ?_ e
  repeat' (first
    | with_reducible assumption
    | intro _
    | (extract_lets +onlyGivenNames s'; first | (refine (fun (hs' : P s') => ?_) ?_; clear_value s'; rotate_left; subst s') | (refine (fun (hs' : P s'.1) => ?_) ?_; clear_value s'; rotate_left; subst s') | (refine (fun (hs' : P s'.s) => ?_) ?_; clear_value s'; rotate_left; subst s') | (refine (fun (hs' : P s'.2) => ?_) ?_; clear_value s'; rotate_left; subst s') | (refine (fun (hs' : P s'.2.2) => ?_) ?_; clear_value s'; rotate_left; subst s') | (refine (fun (hs' : OptKeeps P s') => ?_) ?_; clear_value s'; rotate_left; subst s') | (refine (fun (hs' : ExKeeps P s') => ?_) ?_; clear_value s'; rotate_left; subst s') | (have _hs : State → _ := s'; clear _hs) | clear_value s' | skip)
    | (with_reducible apply colPacket_keeps k131080)
    | (with_reducible apply effJoin_keeps k2166440650)
    | split
    | (with_reducible refine keeps_ofFst (by assumption) ?_)
    | (with_reducible refine keeps_ofSnd (by assumption) ?_)
    | (with_reducible refine keeps_ofThird (by assumption) ?_)
    | (with_reducible refine keeps_ofOpt (by assumption) ?_)
    | (with_reducible refine keeps_ofEx (by assumption) ?_)
    | (with_reducible refine keeps_ofSome (by assumption) ?_)
    | dsimp -zeta only)
theorem effGrant_keeps (K : Keep P 2166440650) {pk : Pkt} {s : State} {o : Option ColOp}  (hP : P s) : P (effGrant pk s o) := by
  have k16777216 : Keep P 16777216 := K.sub rfl
  have k2166440650 : Keep P 2166440650 := K.sub rfl
  unfold effGrant
  repeat' (first
    | with_reducible assumption
    | (with_reducible apply takeGrant_keeps k2166440650)
    | (with_reducible apply colHold_keeps k16777216)
    | split)
theorem execGrant_keeps (K : Keep P 2166571722) {pk : Pkt} {s : State} {sOut : State} (hP : P s) (e : execGrant pk s = .next sOut) : P sOut := by
  have k131080 : Keep P 131080 := K.sub rfl
  have k2166440650 : Keep P 2166440650 := K.sub rfl
  refine ok_keeps ?_ e
  repeat' (first
    | with_reducible assumption
    | intro _
    | (extract_lets +onlyGivenNames s'; first | (refine (fun (hs' : P s') => ?_) ?_; clear_value s'; rotate_left; subst s') | (refine (fun (hs' : P s'.1) => ?_) ?_; clear_value s'; rotate_left; subst s') | (refine (fun (hs' : P s'.s) => ?_) ?_; clear_value s'; rotate_left; subst s') | (refine (fun (hs' : P s'.2) => ?_) ?_; clear_value s'; rotate_left; subst s') | (refine (fun (hs' : P s'.2.2) => ?_) ?_; clear_value s'; rotate_left; subst s') | (refine (fun (hs' : OptKeeps P s') => ?_) ?_; clear_value s'; rotate_left; subst s') | (refine (fun (hs' : ExKeeps P s') => ?_) ?_; clear_value s'; rotate_left; subst s') | (have _hs : State → _ := s'; clear _hs) | clear_value s' | skip)
    | (with_reducible apply colPacket_keeps k131080)
    | (with_reducible apply effGrant_keeps k2166440650)
    | split
    | (with_reducible refine keeps_ofFst (by assumption) ?_)
    | (with_reducible refine keeps_ofSnd (by assumption) ?_)
    | (with_reducible refine keeps_ofThird (by assumption) ?_)
    | (with_reducible refine keeps_ofOpt (by assumption) ?_)
    | (with_reducible refine keeps_ofEx (by assumption) ?_)
    | (with_reducible refine keeps_ofSome (by assumption) ?_)
    | dsimp -zeta only)
theorem effData_keeps (K : Keep P 2166440650) {pk : Pkt} {s : State} {o : Option ColOp}  (hP : P s) : P (effData pk s o) := by
  have k8 : Keep P 8 := K.sub rfl
  have k16777216 : Keep P 16777216 := K.sub rfl
  have k2166440650 : Keep P 2166440650 := K.sub rfl
  unfold effData
  repeat' (first
    | with_reducible assumption
    | intro _
    | (extract_lets +onlyGivenNames s'; first | (refine (fun (hs' : P s') => ?_) ?_; clear_value s'; rotate_left; subst s') | clear_value s' | skip)
    | (with_reducible apply rinc64_keeps k8)
    | (with_reducible apply colStep_keeps k2166440650)
    | (with_reducible apply putOp_keeps k16777216)
    | split)
theorem execData_keeps (K : Keep P 2166571722) {pk : Pkt} {s : State} {sOut : State} (hP : P s) (e : execData pk s = .next sOut) : P sOut := by
  have k131080 : Keep P 131080 := K.sub rfl
  have k2166440650 : Keep P 2166440650 := K.sub rfl
  refine ok_keeps ?_ e
  repeat' (first
    | with_reducible assumption
    | intro _
    | (extract_lets +onlyGivenNames s'; first | (refine (fun (hs' : P s') => ?_) ?_; clear_value s'; rotate_left; subst s') | (refine (fun (hs' : P s'.1) => ?_) ?_; clear_value s'; rotate_left; subst s') | (refine (fun (hs' : P s'.s) => ?_) ?_; clear_value s'; rotate_left; subst s') | (refine (fun (hs' : P s'.2) => ?_) ?_; clear_value s'; rotate_left; subst s') | (refine (fun (hs' : P s'.2.2) => ?_) ?_; clear_value s'; rotate_left; subst s') | (refine (fun (hs' : OptKeeps P s') => ?_) ?_; clear_value s'; rotate_left; subst s') | (refine (fun (hs' : ExKeeps P s') => ?_) ?_; clear_value s'; rotate_left; subst s') | (have _hs : State → _ := s'; clear _hs) | clear_value s' | skip)
    | (with_reducible apply colPacket_keeps k131080)
    | (with_reducible apply effData_keeps k2166440650)
    | split
    | (with_reducible refine keeps_ofFst (by assumption) ?_)
    | (with_reducible refine keeps_ofSnd (by assumption) ?_)
    | (with_reducible refine keeps_ofThird (by assumption) ?_)
    | (with_reducible refine keeps_ofOpt (by assumption) ?_)
    | (with_reducible refine keeps_ofEx (by assumption) ?_)
    | (with_reducible refine keeps_ofSome (by assumption) ?_)
    | dsimp -zeta only)
theorem effAbort_keeps (K : Keep P 2166440650) {pk : Pkt} {s : State} {o : Option ColOp}  (hP : P s) : P (effAbort pk s o) := by
  have k16777216 : Keep P 16777216 := K.sub rfl
  have k2166440650 : Keep P 2166440650 := K.sub rfl
  unfold effAbort
  repeat' (first
    | with_reducible assumption
    | (with_reducible apply takeAbort_keeps k2166440650)
    | (with_reducible apply colHold_keeps k16777216)
    | split)
theorem execAbort_keeps (K : Keep P 2166571722) {pk : Pkt} {s : State} {sOut : State} (hP : P s) (e : execAbort pk s = .next sOut) : P sOut := by
  have k131080 : Keep P 131080 := K.sub rfl
  have k2166440650 : Keep P 2166440650 := K.sub rfl
  refine ok_keeps ?_ e
  repeat' (first
    | with_reducible assumption
    | intro _
    | (extract_lets +onlyGivenNames s'; first | (refine (fun (hs' : P s') => ?_) ?_; clear_value s'; rotate_left; subst s') | (refine (fun (hs' : P s'.1) => ?_) ?_; clear_value s'; rotate_left; subst s') | (refine (fun (hs' : P s'.s) => ?_) ?_; clear_value s'; rotate_left; subst s') | (refine (fun (hs' : P s'.2) => ?_) ?_; clear_value s'; rotate_left; subst s') | (refine (fun (hs' : P s'.2.2) => ?_) ?_; clear_value s'; rotate_left; subst s') | (refine (fun (hs' : OptKeeps P s') => ?_) ?_; clear_value s'; rotate_left; subst s') | (refine (fun (hs' : ExKeeps P s') => ?_) ?_; clear_value s'; rotate_left; subst s') | (have _hs : State → _ := s'; clear _hs) | clear_value s' | skip)
    | (with_reducible apply colPacket_keeps k131080)
    | (with_reducible apply effAbort_keeps k2166440650)
    | split
    | (with_reducible refine keeps_ofFst (by assumption) ?_)
    | (with_reducible refine keeps_ofSnd (by assumption) ?_)
    | (with_reducible refine keeps_ofThird (by assumption) ?_)
    | (with_reducible refine keeps_ofOpt (by assumption) ?_)
    | (with_reducible refine keeps_ofEx (by assumption) ?_)
    | (with_reducible refine keeps_ofSome (by assumption) ?_)
    | dsimp -zeta only)
theorem effVoteUp_keeps (K : Keep P 2166440650) {pk : Pkt} {s : State} {o : Option ColOp}  (hP : P s) : P (effVoteUp pk s o) := by
  have k16777216 : Keep P 16777216 := K.sub rfl
  have k2166440650 : Keep P 2166440650 := K.sub rfl
  unfold effVoteUp
  repeat' (first
    | with_reducible assumption
    | (with_reducible apply takeUp'_keeps k2166440650)
    | (with_reducible apply colHold_keeps k16777216)
    | split)
theorem execVoteUp_keeps (K : Keep P 2166571722) {pk : Pkt} {s : State} {sOut : State} (hP : P s) (e : execVoteUp pk s = .next sOut) : P sOut := by
  have k131080 : Keep P 131080 := K.sub rfl
  have k2166440650 : Keep P 2166440650 := K.sub rfl
  refine ok_keeps ?_ e
  repeat' (first
    | with_reducible assumption
    | intro _
    | (extract_lets +onlyGivenNames s'; first | (refine (fun (hs' : P s') => ?_) ?_; clear_value s'; rotate_left; subst s') | (refine (fun (hs' : P s'.1) => ?_) ?_; clear_value s'; rotate_left; subst s') | (refine (fun (hs' : P s'.s) => ?_) ?_; clear_value s'; rotate_left; subst s') | (refine (fun (hs' : P s'.2) => ?_) ?_; clear_value s'; rotate_left; subst s') | (refine (fun (hs' : P s'.2.2) => ?_) ?_; clear_value s'; rotate_left; subst s') | (refine (fun (hs' : OptKeeps P s') => ?_) ?_; clear_value s'; rotate_left; subst s') | (refine (fun (hs' : ExKeeps P s') => ?_) ?_; clear_value s'; rotate_left; subst s') | (have _hs : State → _ := s'; clear _hs) | clear_value s' | skip)
    | (with_reducible apply colPacket_keeps k131080)
    | (with_reducible apply effVoteUp_keeps k2166440650)
    | split
    | (with_reducible refine keeps_ofFst (by assumption) ?_)
    | (with_reducible refine keeps_ofSnd (by assumption) ?_)
    | (with_reducible refine keeps_ofThird (by assumption) ?_)
    | (with_reducible refine keeps_ofOpt (by assumption) ?_)
    | (with_reducible refine keeps_ofEx (by assumption) ?_)
    | (with_reducible refine keeps_ofSome (by assumption) ?_)
    | dsimp -zeta only)
theorem effVoteDown_keeps (K : Keep P 2166440650) {pk : Pkt} {s : State} {o : Option ColOp}  (hP : P s) : P (effVoteDown pk s o) := by
  have k2166440650 : Keep P 2166440650 := K.sub rfl
  unfold effVoteDown
  repeat' (first
    | with_reducible assumption
    | (with_reducible apply voteResult_keeps k2166440650)
    | split)
theorem execVoteDown_keeps (K : Keep P 2166571722) {pk : Pkt} {s : State} {sOut : State} (hP : P s) (e : execVoteDown pk s = .next sOut) : P sOut := by
  have k131080 : Keep P 131080 := K.sub rfl
  have k2166440650 : Keep P 2166440650 := K.sub rfl
  refine ok_keeps ?_ e
  repeat' (first
    | with_reducible assumption
    | intro _
    | (extract_lets +onlyGivenNames s'; first | (refine (fun (hs' : P s') => ?_) ?_; clear_value s'; rotate_left; subst s') | (refine (fun (hs' : P s'.1) => ?_) ?_; clear_value s'; rotate_left; subst s') | (refine (fun (hs' : P s'.s) => ?_) ?_; clear_value s'; rotate_left; subst s') | (refine (fun (hs' : P s'.2) => ?_) ?_; clear_value s'; rotate_left; subst s') | (refine (fun (hs' : P s'.2.2) => ?_) ?_; clear_value s'; rotate_left; subst s') | (refine (fun (hs' : OptKeeps P s') => ?_) ?_; clear_value s'; rotate_left; subst s') | (refine (fun (hs' : ExKeeps P s') => ?_) ?_; clear_value s'; rotate_left; subst s') | (have _hs : State → _ := s'; clear _hs) | clear_value s' | skip)
    | (with_reducible apply colPacket_keeps k131080)
    | (with_reducible apply effVoteDown_keeps k2166440650)
    | split
    | (with_reducible refine keeps_ofFst (by assumption) ?_)
    | (with_reducible refine keeps_ofSnd (by assumption) ?_)
    | (with_reducible refine keeps_ofThird (by assumption) ?_)
    | (with_reducible refine keeps_ofOpt (by assumption) ?_)
    | (with_reducible refine keeps_ofEx (by assumption) ?_)
    | (with_reducible refine keeps_ofSome (by assumption) ?_)
    | dsimp -zeta only)
theorem effColTimeout_keeps (K : Keep P 2166440650) {s : State} {ref : JobRef} {p : Nat}  (hP : P s) : P (effColTimeout s ref p) := by
  have k2166440650 : Keep P 2166440650 := K.sub rfl
  unfold effColTimeout
  repeat' (first
    | with_reducible assumption
    | intro _
    | (with_reducible apply colFail_keeps k2166440650)
    | (with_reducible apply failFresh_keeps k2166440650)
    | (with_reducible apply beginEarlier_keeps k2166440650)
    | split)
theorem execColTimeout_keeps (K : Keep P 2166440650) {j : JobRef} {p : Nat} {s : State} {sOut : State} (hP : P s) (e : execColTimeout j p s = .next sOut) : P sOut := ok_keeps (effColTimeout_keeps (K.sub rfl) hP) e
theorem effCtxGranted_keeps (K : Keep P 2166440650) {s : State}  (hP : P s) : P (effCtxGranted s) := by
  have k2166440650 : Keep P 2166440650 := K.sub rfl
  unfold effCtxGranted
  repeat' (first
    | with_reducible assumption
    | intro _
    | (with_reducible apply takeCtx_keeps k2166440650)
    | split)
theorem execContextGranted_keeps (K : Keep P 2166440650) {s : State} {sOut : State} (hP : P s) (e : execContextGranted s = .next sOut) : P sOut := ok_keeps (effCtxGranted_keeps (K.sub rfl) hP) e
theorem refreshEngines_keeps (K : Keep P 8) {s : State} {i : Nat}  (hP : P s) : P (refreshEngines s i) := by
  have k8 : Keep P 8 := K.sub rfl
  unfold refreshEngines
  repeat' (first
    | with_reducible assumption
    | (with_reducible apply rputN_keeps k8)
    | split)
theorem effGEngines_keeps (K : Keep P 16777224) {s : State} {i m live : Nat}  (hP : P s) : P (effGEngines s i m live) := by
  have k8 : Keep P 8 := K.sub rfl
  unfold effGEngines
  repeat' (first
    | with_reducible assumption
    | (with_reducible apply refreshEngines_keeps k8)
    | split
    | ((with_reducible refine Keep.mk (f := 16777216) ?_ ?_ ?_); (exact K.sub rfl); rotate_left; (exact ⟨rfl, rfl, canon_of id id id id id id id id id id (by first | with_reducible exact id | exact smWf_smSet _ _ _ _) id id id id id id id id id id id id, .same rfl, .same rfl, .same rfl, ⟨.inl rfl, .inr rfl, .inr rfl, .inr rfl, .inr rfl, .inr rfl, .inr rfl, .inr rfl⟩⟩); first | with_reducible assumption))
theorem execGEnginesRefresh_keeps (K : Keep P 16777224) {group member live : Nat} {s : State} {sOut : State} (hP : P s) (e : execGEnginesRefresh group member live s = .next sOut) : P sOut := ok_keeps (effGEngines_keeps (K.sub rfl) hP) e

end Sys2Proof.Machine
end

