-- ==== Sys2Proof/Laws/KeepTorus.lean ====
section
/-! SUPPORT. What each operation of Machine/Torus.lean may write (Touch): a property that stands under changes of those areas stands after the
operation. The mask is the union of the areas written. -/

set_option linter.unreachableTactic false
set_option linter.unusedTactic false
set_option linter.unusedVariables false
set_option linter.tactic.unusedName false

namespace Sys2Proof.Machine

variable {P : State → Prop}

theorem portRecord_keeps (K : Keep P 2149597386) {s : State} {p : Nat}  (hP : P s) : P (portRecord s p) := postRecord_keeps (K.sub rfl) hP
theorem setLState_keeps (K : Keep P 2149597386) {s : State} {p st : Nat}  (hP : P s) : P (setLState s p st) := by
  have k8 : Keep P 8 := K.sub rfl
  have k2149597386 : Keep P 2149597386 := K.sub rfl
  unfold setLState
  repeat' (first
    | with_reducible assumption
    | (with_reducible apply portRecord_keeps k2149597386)
    | (with_reducible apply setCode_keeps k2149597386)
    | (with_reducible apply rputF_keeps k8))
theorem portDown_keeps (K : Keep P 2166833866) {s : State} {p cause : Nat}  (hP : P s) : P (portDown s p cause) := by
  have k8 : Keep P 8 := K.sub rfl
  have k196616 : Keep P 196616 := K.sub rfl
  have k262144 : Keep P 262144 := K.sub rfl
  have k2147876872 : Keep P 2147876872 := K.sub rfl
  have k2149597386 : Keep P 2149597386 := K.sub rfl
  have k2166440650 : Keep P 2166440650 := K.sub rfl
  unfold portDown
  repeat' (first
    | with_reducible assumption
    | (extract_lets +onlyGivenNames s'; first | (refine (fun (hs' : P s') => ?_) ?_; clear_value s'; rotate_left; subst s') | clear_value s' | skip)
    | (with_reducible apply rinc_keeps k8)
    | (with_reducible apply rputF_keeps k8)
    | (with_reducible apply putL_keeps k262144)
    | (with_reducible apply flow_keeps k2147876872)
    | (with_reducible apply colPortDown_keeps k2166440650)
    | (with_reducible apply setLState_keeps k2149597386)
    | (with_reducible apply cutOff_keeps k196616)
    | split)
theorem countCorrected_keeps (K : Keep P 8) {s : State} {p : Nat} {lanes : List Nat}  (hP : P s) : P (countCorrected s p lanes) := by
  have k8 : Keep P 8 := K.sub rfl
  unfold countCorrected
  repeat' (first
    | with_reducible assumption
    | intro _
    | (with_reducible apply rinc_keeps k8)
    | (with_reducible apply foldl_keeps))
theorem effNak_keeps (K : Keep P 2166833866) {s : State} {p seq : Nat}  (hP : P s) : P (effNak s p seq) := by
  have k8 : Keep P 8 := K.sub rfl
  have k262144 : Keep P 262144 := K.sub rfl
  have k2147483648 : Keep P 2147483648 := K.sub rfl
  have k2166833866 : Keep P 2166833866 := K.sub rfl
  unfold effNak
  repeat' (first
    | with_reducible assumption
    | intro _
    | (extract_lets +onlyGivenNames s'; first | (refine (fun (hs' : P s') => ?_) ?_; clear_value s'; rotate_left; subst s') | clear_value s' | skip)
    | (with_reducible apply portDown_keeps k2166833866)
    | (with_reducible apply putL_keeps k262144)
    | (with_reducible apply rinc_keeps k8)
    | (with_reducible apply emit_keeps k2147483648)
    | (with_reducible apply foldl_keeps)
    | split)
theorem execNak_keeps (K : Keep P 2166833866) {port seq : Nat} {s : State} {sOut : State} (hP : P s) (e : execNak port seq s = .next sOut) : P sOut := ok_keeps (effNak_keeps (K.sub rfl) hP) e
theorem effAck_keeps (K : Keep P 262144) {s : State} {p seq : Nat}  (hP : P s) : P (effAck s p seq) := by
  have k262144 : Keep P 262144 := K.sub rfl
  unfold effAck
  repeat' (first
    | with_reducible assumption
    | (extract_lets +onlyGivenNames s'; first | (refine (fun (hs' : P s') => ?_) ?_; clear_value s'; rotate_left; subst s') | clear_value s' | skip)
    | (with_reducible apply putL_keeps k262144)
    | split)
theorem execAck_keeps (K : Keep P 262144) {port seq : Nat} {s : State} {sOut : State} (hP : P s) (e : execAck port seq s = .next sOut) : P sOut := ok_keeps (effAck_keeps (K.sub rfl) hP) e
theorem effCredit_keeps (K : Keep P 2147876872) {s : State} {p vc n : Nat}  (hP : P s) : P (effCredit s p vc n) := by
  have k262144 : Keep P 262144 := K.sub rfl
  have k2147876872 : Keep P 2147876872 := K.sub rfl
  unfold effCredit
  repeat' (first
    | with_reducible assumption
    | (extract_lets +onlyGivenNames s'; first | (refine (fun (hs' : P s') => ?_) ?_; clear_value s'; rotate_left; subst s') | clear_value s' | skip)
    | (with_reducible apply flow_keeps k2147876872)
    | (with_reducible apply putL_keeps k262144)
    | split)
theorem execCredit_keeps (K : Keep P 2147876872) {port vc flits : Nat} {s : State} {sOut : State} (hP : P s) (e : execCredit port vc flits s = .next sOut) : P sOut := ok_keeps (effCredit_keeps (K.sub rfl) hP) e
theorem endTraining_keeps (K : Keep P 2149597386) {s : State} {p : Nat}  (hP : P s) : P (endTraining s p) := by
  have k2149597386 : Keep P 2149597386 := K.sub rfl
  unfold endTraining
  repeat' (first
    | with_reducible assumption
    | (with_reducible apply setLState_keeps k2149597386)
    | split)
theorem sendPieces_keeps (K : Keep P 2147483648) {s : State} {p : Nat}  (hP : P s) : P (sendPieces s p) := by
  have k2147483648 : Keep P 2147483648 := K.sub rfl
  unfold sendPieces
  repeat' (first
    | with_reducible assumption
    | intro _
    | (with_reducible apply emit_keeps k2147483648)
    | (with_reducible apply foldl_keeps))
theorem effTraining_keeps (K : Keep P 2149859530) {s0 : State} {p : Nat}  (hP : P s0) : P (effTraining s0 p) := by
  have k262144 : Keep P 262144 := K.sub rfl
  have k2147483648 : Keep P 2147483648 := K.sub rfl
  have k2149597386 : Keep P 2149597386 := K.sub rfl
  unfold effTraining
  repeat' (first
    | with_reducible assumption
    | intro _
    | (extract_lets +onlyGivenNames s'; first | (refine (fun (hs' : P s') => ?_) ?_; clear_value s'; rotate_left; subst s') | clear_value s' | skip)
    | (with_reducible apply endTraining_keeps k2149597386)
    | (with_reducible apply sendPieces_keeps k2147483648)
    | (with_reducible apply setLState_keeps k2149597386)
    | (with_reducible apply putL_keeps k262144)
    | split)
theorem execTrainingAttempt_keeps (K : Keep P 2149859530) {port : Nat} {s : State} {sOut : State} (hP : P s) (e : execTrainingAttempt port s = .next sOut) : P sOut := ok_keeps (effTraining_keeps (K.sub rfl) hP) e
theorem signalNeighbour_keeps (K : Keep P 2149708746) {s : State} {p : Nat}  (hP : P s) : P (signalNeighbour s p) := by
  have k2149708746 : Keep P 2149708746 := K.sub rfl
  unfold signalNeighbour
  repeat' (first
    | with_reducible assumption
    | (with_reducible apply sendSignal_keeps k2149708746)
    | split)
theorem effPeer_keeps (K : Keep P 2149970890) {s0 : State} {p id pp : Nat}  (hP : P s0) : P (effPeer s0 p id pp) := by
  have k8 : Keep P 8 := K.sub rfl
  have k262144 : Keep P 262144 := K.sub rfl
  have k2149597386 : Keep P 2149597386 := K.sub rfl
  have k2149708746 : Keep P 2149708746 := K.sub rfl
  unfold effPeer
  repeat' (first
    | with_reducible assumption
    | (extract_lets +onlyGivenNames s'; first | (refine (fun (hs' : P s') => ?_) ?_; clear_value s'; rotate_left; subst s') | clear_value s' | skip)
    | (with_reducible apply endTraining_keeps k2149597386)
    | (with_reducible apply rputN_keeps k8)
    | (with_reducible apply signalNeighbour_keeps k2149708746)
    | (with_reducible apply setLState_keeps k2149597386)
    | (with_reducible apply putL_keeps k262144)
    | (with_reducible apply rputF_keeps k8)
    | split)
theorem execPeer_keeps (K : Keep P 2149970890) {port moduleId peerPort : Nat} {s : State} {sOut : State} (hP : P s) (e : execPeer port moduleId peerPort s = .next sOut) : P sOut := ok_keeps (effPeer_keeps (K.sub rfl) hP) e
theorem effPiece_keeps (K : Keep P 2149970890) {s : State} {p v : Nat}  (hP : P s) : P (effPiece s p v) := by
  have k262144 : Keep P 262144 := K.sub rfl
  have k2149970890 : Keep P 2149970890 := K.sub rfl
  unfold effPiece
  repeat' (first
    | with_reducible assumption
    | (extract_lets +onlyGivenNames s'; first | (refine (fun (hs' : P s') => ?_) ?_; clear_value s'; rotate_left; subst s') | clear_value s' | skip)
    | (with_reducible apply putL_keeps k262144)
    | (with_reducible apply effPeer_keeps k2149970890)
    | split)
theorem effLcw_keeps (K : Keep P 2166833866) {s : State} {p w : Nat}  (hP : P s) : P (effLcw s p w) := by
  have k262144 : Keep P 262144 := K.sub rfl
  have k2147876872 : Keep P 2147876872 := K.sub rfl
  have k2166833866 : Keep P 2166833866 := K.sub rfl
  unfold effLcw
  repeat' (first
    | with_reducible assumption
    | (with_reducible apply effAck_keeps k262144)
    | (with_reducible apply effNak_keeps k2166833866)
    | (with_reducible apply effCredit_keeps k2147876872)
    | split)
theorem receive_keeps (K : Keep P 262144) {s : State} {p : Nat} {fs : List (Nat × Flit)}  (hP : P s) : P (receive s p fs) := by
  have k262144 : Keep P 262144 := K.sub rfl
  unfold receive
  repeat' (first
    | with_reducible assumption
    | intro _
    | (extract_lets +onlyGivenNames s'; first | (refine (fun (hs' : P s') => ?_) ?_; clear_value s'; rotate_left; subst s') | clear_value s' | skip)
    | (with_reducible apply putL_keeps k262144)
    | (with_reducible apply foldl_keeps)
    | (with_reducible refine keeps_ofFst (by assumption) ?_))
theorem badCodeword_keeps (K : Keep P 2166833866) {s : State} {p seq : Nat}  (hP : P s) : P (badCodeword s p seq) := by
  have k8 : Keep P 8 := K.sub rfl
  have k262144 : Keep P 262144 := K.sub rfl
  have k2147745800 : Keep P 2147745800 := K.sub rfl
  have k2166833866 : Keep P 2166833866 := K.sub rfl
  unfold badCodeword
  repeat' (first
    | with_reducible assumption
    | (extract_lets +onlyGivenNames s'; first | (refine (fun (hs' : P s') => ?_) ?_; clear_value s'; rotate_left; subst s') | clear_value s' | skip)
    | (with_reducible apply putL_keeps k262144)
    | (with_reducible apply rinc_keeps k8)
    | (with_reducible apply portDown_keeps k2166833866)
    | (with_reducible apply flushMsgs_keeps k2147745800)
    | (with_reducible apply queueLcw_keeps k262144)
    | split)
theorem goodCodeword_keeps (K : Keep P 2147876872) {s : State} {p lcw : Nat} {flits : List (Nat × List Byte)}  (hP : P s) : P (goodCodeword s p lcw flits) := by
  have k8 : Keep P 8 := K.sub rfl
  have k262144 : Keep P 262144 := K.sub rfl
  have k2147876872 : Keep P 2147876872 := K.sub rfl
  unfold goodCodeword
  repeat' (first
    | with_reducible assumption
    | (extract_lets +onlyGivenNames s'; first | (refine (fun (hs' : P s') => ?_) ?_; clear_value s'; rotate_left; subst s') | clear_value s' | skip)
    | (with_reducible apply putL_keeps k262144)
    | (with_reducible apply rinc_keeps k8)
    | (with_reducible apply rinc64_keeps k8)
    | (with_reducible apply flow_keeps k2147876872)
    | (with_reducible apply queueLcw_keeps k262144)
    | (with_reducible apply receive_keeps k262144)
    | split
    | (with_reducible refine keeps_ofFst (by assumption) ?_))
theorem effCodeword_keeps (K : Keep P 2166879178) {s : State} {p seq : Nat} {bad : Bool} {lcw : Nat} {lanes : List Nat} {flits : List (Nat × List Byte)}  (hP : P s) : P (effCodeword s p seq bad lcw lanes flits) := by
  have k8 : Keep P 8 := K.sub rfl
  have k2147876872 : Keep P 2147876872 := K.sub rfl
  have k2149597386 : Keep P 2149597386 := K.sub rfl
  have k2149970890 : Keep P 2149970890 := K.sub rfl
  have k2166833866 : Keep P 2166833866 := K.sub rfl
  unfold effCodeword
  repeat' (first
    | with_reducible assumption
    | (extract_lets +onlyGivenNames s'; first | (refine (fun (hs' : P s') => ?_) ?_; clear_value s'; rotate_left; subst s') | clear_value s' | skip)
    | (with_reducible apply effPiece_keeps k2149970890)
    | (with_reducible apply badCodeword_keeps k2166833866)
    | (with_reducible apply countCorrected_keeps k8)
    | (with_reducible apply refreshFabric_keeps k2149597386)
    | (with_reducible apply effLcw_keeps k2166833866)
    | (with_reducible apply goodCodeword_keeps k2147876872)
    | split
    | (with_reducible refine keeps_ofFst (by assumption) ?_))
theorem execCodeword_keeps (K : Keep P 2166879178) {port seq : Nat} {uncorrectable : Bool} {lcw : Nat} {corrected : List Nat} {flits : List (Nat × List Byte)} {s : State} {sOut : State} (hP : P s) (e : execCodeword port seq uncorrectable lcw corrected flits s = .next sOut) : P sOut := by
  have k2149597386 : Keep P 2149597386 := K.sub rfl
  have k2166879178 : Keep P 2166879178 := K.sub rfl
  refine ok_keeps ?_ e
  repeat' (first
    | with_reducible assumption
    | (with_reducible apply effCodeword_keeps k2166879178)
    | (with_reducible apply corrected_keeps k2149597386)
    | (with_reducible refine keeps_ofFst (by assumption) ?_))
theorem effLaneLoss_keeps (K : Keep P 2166833866) {s : State} {p lane : Nat}  (hP : P s) : P (effLaneLoss s p lane) := by
  have k8 : Keep P 8 := K.sub rfl
  have k2166833866 : Keep P 2166833866 := K.sub rfl
  unfold effLaneLoss
  repeat' (first
    | with_reducible assumption
    | (with_reducible apply portDown_keeps k2166833866)
    | (with_reducible apply rputF_keeps k8)
    | split)
theorem execLaneLockLoss_keeps (K : Keep P 2166833866) {port lane : Nat} {s : State} {sOut : State} (hP : P s) (e : execLaneLockLoss port lane s = .next sOut) : P sOut := ok_keeps (effLaneLoss_keeps (K.sub rfl) hP) e
theorem execNoCodeword_keeps (K : Keep P 2166833866) {port : Nat} {s : State} {sOut : State} (hP : P s) (e : execNoCodeword port s = .next sOut) : P sOut := by
  have k2166833866 : Keep P 2166833866 := K.sub rfl
  refine ok_keeps ?_ e
  repeat' (first
    | with_reducible assumption
    | (with_reducible apply portDown_keeps k2166833866)
    | split)
theorem effRetrain_keeps (K : Keep P 2166833866) {s : State} {p : Nat}  (hP : P s) : P (effRetrain s p) := by
  have k2166833866 : Keep P 2166833866 := K.sub rfl
  unfold effRetrain
  repeat' (first
    | with_reducible assumption
    | (with_reducible apply portDown_keeps k2166833866)
    | split)
theorem execRetrain_keeps (K : Keep P 2166833866) {port : Nat} {s : State} {sOut : State} (hP : P s) (e : execRetrain port s = .next sOut) : P sOut := ok_keeps (effRetrain_keeps (K.sub rfl) hP) e
theorem effPortEnable_keeps (K : Keep P 2166833866) {s : State} {p : Nat} {v : Word}  (hP : P s) : P (effPortEnable s p v) := by
  have k8 : Keep P 8 := K.sub rfl
  have k2166833866 : Keep P 2166833866 := K.sub rfl
  unfold effPortEnable
  repeat' (first
    | with_reducible assumption
    | (extract_lets +onlyGivenNames s'; first | (refine (fun (hs' : P s') => ?_) ?_; clear_value s'; rotate_left; subst s') | clear_value s' | skip)
    | (with_reducible apply rputBit_keeps k8)
    | (with_reducible apply portDown_keeps k2166833866)
    | (with_reducible apply effRetrain_keeps k2166833866)
    | split)
theorem execPortEnable_keeps (K : Keep P 2166833882) {port : Nat} {v : Word} {s : State} {sOut : State} (hP : P s) (e : execPortEnable port v s = .next sOut) : P sOut := by
  have k16 : Keep P 16 := K.sub rfl
  have k2166833866 : Keep P 2166833866 := K.sub rfl
  refine ok_keeps ?_ e
  repeat' (first
    | with_reducible assumption
    | (with_reducible apply effPortEnable_keeps k2166833866)
    | (with_reducible apply shPut_keeps k16))
theorem placed_keeps (K : Keep P 196616) {s : State} {inp : Option Nat} {w : Worm} {head : Pkt → List Byte}  (hP : P s) : P (placed s inp w head) := by
  have k8 : Keep P 8 := K.sub rfl
  have k65544 : Keep P 65544 := K.sub rfl
  have k131072 : Keep P 131072 := K.sub rfl
  unfold placed
  repeat' (first
    | with_reducible assumption
    | intro _
    | (extract_lets +onlyGivenNames s'; first | (refine (fun (hs' : P s') => ?_) ?_; clear_value s'; rotate_left; subst s') | (refine (fun (hs' : P s'.1) => ?_) ?_; clear_value s'; rotate_left; subst s') | (refine (fun (hs' : P s'.s) => ?_) ?_; clear_value s'; rotate_left; subst s') | (refine (fun (hs' : P s'.2) => ?_) ?_; clear_value s'; rotate_left; subst s') | (refine (fun (hs' : P s'.2.2) => ?_) ?_; clear_value s'; rotate_left; subst s') | (refine (fun (hs' : OptKeeps P s') => ?_) ?_; clear_value s'; rotate_left; subst s') | (refine (fun (hs' : ExKeeps P s') => ?_) ?_; clear_value s'; rotate_left; subst s') | (have _hs : State → _ := s'; clear _hs) | clear_value s' | skip)
    | (with_reducible apply addWorm_keeps k131072)
    | (with_reducible apply rinc_keeps k8)
    | (with_reducible apply dropRoute_keeps k65544)
    | (with_reducible apply rinc64_keeps k8)
    | (with_reducible apply dropDown_keeps k65544)
    | split
    | (with_reducible refine keeps_ofFst (by assumption) ?_)
    | (with_reducible refine keeps_ofSnd (by assumption) ?_)
    | (with_reducible refine keeps_ofThird (by assumption) ?_)
    | (with_reducible refine keeps_ofOpt (by assumption) ?_)
    | (with_reducible refine keeps_ofEx (by assumption) ?_)
    | (with_reducible refine keeps_ofSome (by assumption) ?_)
    | dsimp -zeta only)
theorem routeOwn_keeps (K : Keep P 196616) {s : State} {pk : Pkt}  (hP : P s) : P (routeOwn s pk) := by
  have k196616 : Keep P 196616 := K.sub rfl
  unfold routeOwn
  repeat' (first
    | with_reducible assumption
    | intro _
    | (extract_lets +onlyGivenNames s'; first | (refine (fun (hs' : P s') => ?_) ?_; clear_value s'; rotate_left; subst s') | clear_value s' | skip)
    | (with_reducible apply placed_keeps k196616)
    | split
    | ((with_reducible refine Keep.mk (f := 65536) ?_ ?_ ?_); (exact K.sub rfl); rotate_left; (exact ⟨rfl, rfl, canon_same rfl, .same rfl, .same rfl, ⟨.inl rfl, .inr rfl, .inr rfl, .inr rfl, .inr rfl, .inr rfl, .inr rfl, .inr rfl⟩, .same rfl⟩); first | with_reducible assumption))
theorem routeIn_keeps (K : Keep P 458760) {s : State} {p : Nat} {pk : Pkt}  (hP : P s) : P (routeIn s p pk) := by
  have k196616 : Keep P 196616 := K.sub rfl
  have k262144 : Keep P 262144 := K.sub rfl
  unfold routeIn
  repeat' (first
    | with_reducible assumption
    | (extract_lets +onlyGivenNames s'; first | (refine (fun (hs' : P s') => ?_) ?_; clear_value s'; rotate_left; subst s') | (refine (fun (hs' : P s'.2.2) => ?_) ?_; clear_value s'; rotate_left; subst s') | clear_value s' | skip)
    | (with_reducible apply takeStream_keeps k262144)
    | (with_reducible apply placed_keeps k196616)
    | split
    | (with_reducible refine keeps_ofThird (by assumption) ?_)
    | dsimp -zeta only)
theorem effRoute_keeps (K : Keep P 2150056138) {s : State} {inp : Option Nat} {pk : Pkt}  (hP : P s) : P (effRoute s inp pk) := by
  have k196616 : Keep P 196616 := K.sub rfl
  have k458760 : Keep P 458760 := K.sub rfl
  have k2147876872 : Keep P 2147876872 := K.sub rfl
  have k2149597386 : Keep P 2149597386 := K.sub rfl
  unfold effRoute
  repeat' (first
    | with_reducible assumption
    | (with_reducible apply refreshFabric_keeps k2149597386)
    | (with_reducible apply flow_keeps k2147876872)
    | (with_reducible apply routeOwn_keeps k196616)
    | (with_reducible apply routeIn_keeps k458760)
    | split)
theorem execRoute_keeps (K : Keep P 2150056138) {inPort : Option Nat} {pk : Pkt} {s : State} {sOut : State} (hP : P s) (e : execRoute inPort pk s = .next sOut) : P sOut := ok_keeps (effRoute_keeps (K.sub rfl) hP) e
theorem poisonedReq_keeps (K : Keep P 1114120) {s : State} {pk : Pkt}  (hP : P s) : P (poisonedReq s pk) := by
  have k8 : Keep P 8 := K.sub rfl
  have k65536 : Keep P 65536 := K.sub rfl
  unfold poisonedReq
  repeat' (first
    | with_reducible assumption
    | (extract_lets +onlyGivenNames s'; first | (refine (fun (hs' : P s') => ?_) ?_; clear_value s'; rotate_left; subst s') | clear_value s' | skip)
    | (with_reducible apply rinc_keeps k8)
    | (with_reducible apply reply_keeps k65536)
    | split
    | ((with_reducible refine Keep.mk (f := 1048576) ?_ ?_ ?_); (exact K.sub rfl); rotate_left; (exact ⟨rfl, rfl, canon_same rfl, .same rfl, .same rfl, ⟨.inr rfl, .inr rfl, .inr rfl, .inr rfl, .inl rfl, .inr rfl, .inr rfl, .inr rfl⟩, .same rfl⟩); first | with_reducible assumption))
theorem endpoint_keeps (K : Keep P 2150842570) {s : State} {op : Nat} {pk : Pkt} {n : Nat} {serve : Nat → State → State} (hf_serve : ∀ (a0 : Nat) (a1 : State), P a1 → P (serve a0 a1)) (hP : P s) : P (endpoint s op pk n serve) := by
  have k65536 : Keep P 65536 := K.sub rfl
  have k131072 : Keep P 131072 := K.sub rfl
  have k1114120 : Keep P 1114120 := K.sub rfl
  have k2149597386 : Keep P 2149597386 := K.sub rfl
  unfold endpoint
  repeat' (first
    | with_reducible assumption
    | (extract_lets +onlyGivenNames s'; first | (refine (fun (hs' : P s') => ?_) ?_; clear_value s'; rotate_left; subst s') | clear_value s' | skip)
    | (with_reducible apply fromEjection_keeps k131072)
    | (with_reducible apply poisonedReq_keeps k1114120)
    | (with_reducible apply reply_keeps k65536)
    | (with_reducible apply wake_keeps k2149597386)
    | (with_reducible apply hf_serve)
    | split
    | (with_reducible refine keeps_ofSome (by assumption) ?_))
theorem answerStore_keeps (K : Keep P 2149662922) {pk : Pkt} {r : State × Option Nat}  (hP : P r.1) : P (answerStore pk r) := by
  have k65536 : Keep P 65536 := K.sub rfl
  have k2149597386 : Keep P 2149597386 := K.sub rfl
  unfold answerStore
  repeat' (first
    | with_reducible assumption
    | (with_reducible apply reply_keeps k65536)
    | (with_reducible apply reportUe_keeps k2149597386)
    | split
    | (with_reducible refine keeps_ofFst (by assumption) ?_))
theorem serveWr_keeps (K : Keep P 2149662922) {pk : Pkt} {port : Nat} {s : State}  (hP : P s) : P (serveWr pk port s) := by
  have k2149597386 : Keep P 2149597386 := K.sub rfl
  have k2149662922 : Keep P 2149662922 := K.sub rfl
  unfold serveWr
  repeat' (first
    | with_reducible assumption
    | (with_reducible apply answerStore_keeps k2149662922)
    | (with_reducible apply storeBytes_keeps k2149597386)
    | (with_reducible refine keeps_ofFst (by assumption) ?_)
    | dsimp -zeta only)
theorem execWr_keeps (K : Keep P 2150842570) {pk : Pkt} {s : State} {sOut : State} (hP : P s) (e : execWr pk s = .next sOut) : P sOut := by
  have k2149662922 : Keep P 2149662922 := K.sub rfl
  have k2150842570 : Keep P 2150842570 := K.sub rfl
  refine ok_keeps ?_ e
  repeat' (first
    | with_reducible assumption
    | intro _
    | (extract_lets +onlyGivenNames s'; first | (refine (fun (hs' : P s') => ?_) ?_; clear_value s'; rotate_left; subst s') | (refine (fun (hs' : P s'.1) => ?_) ?_; clear_value s'; rotate_left; subst s') | (refine (fun (hs' : P s'.s) => ?_) ?_; clear_value s'; rotate_left; subst s') | (refine (fun (hs' : P s'.2) => ?_) ?_; clear_value s'; rotate_left; subst s') | (refine (fun (hs' : P s'.2.2) => ?_) ?_; clear_value s'; rotate_left; subst s') | (refine (fun (hs' : OptKeeps P s') => ?_) ?_; clear_value s'; rotate_left; subst s') | (refine (fun (hs' : ExKeeps P s') => ?_) ?_; clear_value s'; rotate_left; subst s') | (have _hs : State → _ := s'; clear _hs) | clear_value s' | skip)
    | (with_reducible apply endpoint_keeps k2150842570)
    | (with_reducible apply serveWr_keeps k2149662922)
    | split
    | (with_reducible refine keeps_ofFst (by assumption) ?_)
    | (with_reducible refine keeps_ofSnd (by assumption) ?_)
    | (with_reducible refine keeps_ofThird (by assumption) ?_)
    | (with_reducible refine keeps_ofOpt (by assumption) ?_)
    | (with_reducible refine keeps_ofEx (by assumption) ?_)
    | (with_reducible refine keeps_ofSome (by assumption) ?_)
    | dsimp -zeta only)
theorem serveAcc_keeps (K : Keep P 2149662922) {pk : Pkt} {port : Nat} {s : State}  (hP : P s) : P (serveAcc pk port s) := by
  have k65536 : Keep P 65536 := K.sub rfl
  have k2149597386 : Keep P 2149597386 := K.sub rfl
  have k2149662922 : Keep P 2149662922 := K.sub rfl
  unfold serveAcc
  repeat' (first
    | with_reducible assumption
    | (with_reducible apply reply_keeps k65536)
    | (with_reducible apply answerStore_keeps k2149662922)
    | (with_reducible apply accumulate_keeps k2149597386)
    | split
    | (with_reducible refine keeps_ofFst (by assumption) ?_)
    | dsimp -zeta only)
theorem execAcc_keeps (K : Keep P 2150842570) {pk : Pkt} {s : State} {sOut : State} (hP : P s) (e : execAcc pk s = .next sOut) : P sOut := by
  have k2149662922 : Keep P 2149662922 := K.sub rfl
  have k2150842570 : Keep P 2150842570 := K.sub rfl
  refine ok_keeps ?_ e
  repeat' (first
    | with_reducible assumption
    | intro _
    | (extract_lets +onlyGivenNames s'; first | (refine (fun (hs' : P s') => ?_) ?_; clear_value s'; rotate_left; subst s') | (refine (fun (hs' : P s'.1) => ?_) ?_; clear_value s'; rotate_left; subst s') | (refine (fun (hs' : P s'.s) => ?_) ?_; clear_value s'; rotate_left; subst s') | (refine (fun (hs' : P s'.2) => ?_) ?_; clear_value s'; rotate_left; subst s') | (refine (fun (hs' : P s'.2.2) => ?_) ?_; clear_value s'; rotate_left; subst s') | (refine (fun (hs' : OptKeeps P s') => ?_) ?_; clear_value s'; rotate_left; subst s') | (refine (fun (hs' : ExKeeps P s') => ?_) ?_; clear_value s'; rotate_left; subst s') | (have _hs : State → _ := s'; clear _hs) | clear_value s' | skip)
    | (with_reducible apply endpoint_keeps k2150842570)
    | (with_reducible apply serveAcc_keeps k2149662922)
    | split
    | (with_reducible refine keeps_ofFst (by assumption) ?_)
    | (with_reducible refine keeps_ofSnd (by assumption) ?_)
    | (with_reducible refine keeps_ofThird (by assumption) ?_)
    | (with_reducible refine keeps_ofOpt (by assumption) ?_)
    | (with_reducible refine keeps_ofEx (by assumption) ?_)
    | (with_reducible refine keeps_ofSome (by assumption) ?_)
    | dsimp -zeta only)
theorem serveRd_keeps (K : Keep P 2149662922) {pk : Pkt} {port : Nat} {s : State}  (hP : P s) : P (serveRd pk port s) := by
  have k65536 : Keep P 65536 := K.sub rfl
  have k2149597386 : Keep P 2149597386 := K.sub rfl
  unfold serveRd
  repeat' (first
    | with_reducible assumption
    | (extract_lets +onlyGivenNames s'; first | (refine (fun (hs' : P s') => ?_) ?_; clear_value s'; rotate_left; subst s') | clear_value s' | skip)
    | (with_reducible apply reply_keeps k65536)
    | (with_reducible apply reportUe_keeps k2149597386)
    | (with_reducible apply noteRead_keeps k2149597386)
    | split)
theorem execRd_keeps (K : Keep P 2150842570) {pk : Pkt} {s : State} {sOut : State} (hP : P s) (e : execRd pk s = .next sOut) : P sOut := by
  have k2149662922 : Keep P 2149662922 := K.sub rfl
  have k2150842570 : Keep P 2150842570 := K.sub rfl
  refine ok_keeps ?_ e
  repeat' (first
    | with_reducible assumption
    | intro _
    | (extract_lets +onlyGivenNames s'; first | (refine (fun (hs' : P s') => ?_) ?_; clear_value s'; rotate_left; subst s') | (refine (fun (hs' : P s'.1) => ?_) ?_; clear_value s'; rotate_left; subst s') | (refine (fun (hs' : P s'.s) => ?_) ?_; clear_value s'; rotate_left; subst s') | (refine (fun (hs' : P s'.2) => ?_) ?_; clear_value s'; rotate_left; subst s') | (refine (fun (hs' : P s'.2.2) => ?_) ?_; clear_value s'; rotate_left; subst s') | (refine (fun (hs' : OptKeeps P s') => ?_) ?_; clear_value s'; rotate_left; subst s') | (refine (fun (hs' : ExKeeps P s') => ?_) ?_; clear_value s'; rotate_left; subst s') | (have _hs : State → _ := s'; clear _hs) | clear_value s' | skip)
    | (with_reducible apply endpoint_keeps k2150842570)
    | (with_reducible apply serveRd_keeps k2149662922)
    | split
    | (with_reducible refine keeps_ofFst (by assumption) ?_)
    | (with_reducible refine keeps_ofSnd (by assumption) ?_)
    | (with_reducible refine keeps_ofThird (by assumption) ?_)
    | (with_reducible refine keeps_ofOpt (by assumption) ?_)
    | (with_reducible refine keeps_ofEx (by assumption) ?_)
    | (with_reducible refine keeps_ofSome (by assumption) ?_)
    | dsimp -zeta only)
theorem effReply_keeps (K : Keep P 2149704394) {pk : Pkt} {s : State}  (hP : P s) : P (effReply pk s) := by
  have k8 : Keep P 8 := K.sub rfl
  have k2149597386 : Keep P 2149597386 := K.sub rfl
  have k2149704394 : Keep P 2149704394 := K.sub rfl
  unfold effReply
  repeat' (first
    | with_reducible assumption
    | (with_reducible apply rinc_keeps k8)
    | (with_reducible apply refreshFabric_keeps k2149597386)
    | (with_reducible apply onReply_keeps k2149704394)
    | split)
theorem execRspAck_keeps (K : Keep P 2149835466) {pk : Pkt} {s : State} {sOut : State} (hP : P s) (e : execRspAck pk s = .next sOut) : P sOut := by
  have k131072 : Keep P 131072 := K.sub rfl
  have k2149704394 : Keep P 2149704394 := K.sub rfl
  refine ok_keeps ?_ e
  repeat' (first
    | with_reducible assumption
    | intro _
    | (extract_lets +onlyGivenNames s'; first | (refine (fun (hs' : P s') => ?_) ?_; clear_value s'; rotate_left; subst s') | (refine (fun (hs' : P s'.1) => ?_) ?_; clear_value s'; rotate_left; subst s') | (refine (fun (hs' : P s'.s) => ?_) ?_; clear_value s'; rotate_left; subst s') | (refine (fun (hs' : P s'.2) => ?_) ?_; clear_value s'; rotate_left; subst s') | (refine (fun (hs' : P s'.2.2) => ?_) ?_; clear_value s'; rotate_left; subst s') | (refine (fun (hs' : OptKeeps P s') => ?_) ?_; clear_value s'; rotate_left; subst s') | (refine (fun (hs' : ExKeeps P s') => ?_) ?_; clear_value s'; rotate_left; subst s') | (have _hs : State → _ := s'; clear _hs) | clear_value s' | skip)
    | (with_reducible apply ejected_keeps k131072)
    | (with_reducible apply effReply_keeps k2149704394)
    | split
    | (with_reducible refine keeps_ofFst (by assumption) ?_)
    | (with_reducible refine keeps_ofSnd (by assumption) ?_)
    | (with_reducible refine keeps_ofThird (by assumption) ?_)
    | (with_reducible refine keeps_ofOpt (by assumption) ?_)
    | (with_reducible refine keeps_ofEx (by assumption) ?_)
    | (with_reducible refine keeps_ofSome (by assumption) ?_)
    | dsimp -zeta only)
theorem execRdata_keeps (K : Keep P 2149835466) {pk : Pkt} {s : State} {sOut : State} (hP : P s) (e : execRdata pk s = .next sOut) : P sOut := by
  have k131072 : Keep P 131072 := K.sub rfl
  have k2149704394 : Keep P 2149704394 := K.sub rfl
  refine ok_keeps ?_ e
  repeat' (first
    | with_reducible assumption
    | intro _
    | (extract_lets +onlyGivenNames s'; first | (refine (fun (hs' : P s') => ?_) ?_; clear_value s'; rotate_left; subst s') | (refine (fun (hs' : P s'.1) => ?_) ?_; clear_value s'; rotate_left; subst s') | (refine (fun (hs' : P s'.s) => ?_) ?_; clear_value s'; rotate_left; subst s') | (refine (fun (hs' : P s'.2) => ?_) ?_; clear_value s'; rotate_left; subst s') | (refine (fun (hs' : P s'.2.2) => ?_) ?_; clear_value s'; rotate_left; subst s') | (refine (fun (hs' : OptKeeps P s') => ?_) ?_; clear_value s'; rotate_left; subst s') | (refine (fun (hs' : ExKeeps P s') => ?_) ?_; clear_value s'; rotate_left; subst s') | (have _hs : State → _ := s'; clear _hs) | clear_value s' | skip)
    | (with_reducible apply ejected_keeps k131072)
    | (with_reducible apply effReply_keeps k2149704394)
    | split
    | (with_reducible refine keeps_ofFst (by assumption) ?_)
    | (with_reducible refine keeps_ofSnd (by assumption) ?_)
    | (with_reducible refine keeps_ofThird (by assumption) ?_)
    | (with_reducible refine keeps_ofOpt (by assumption) ?_)
    | (with_reducible refine keeps_ofEx (by assumption) ?_)
    | (with_reducible refine keeps_ofSome (by assumption) ?_)
    | dsimp -zeta only)
theorem effReplyTimeout_keeps (K : Keep P 2149704394) {s : State} {slot : Nat}  (hP : P s) : P (effReplyTimeout s slot) := by
  have k2149597386 : Keep P 2149597386 := K.sub rfl
  have k2149704394 : Keep P 2149704394 := K.sub rfl
  unfold effReplyTimeout
  repeat' (first
    | with_reducible assumption
    | (with_reducible apply refreshFabric_keeps k2149597386)
    | (with_reducible apply expireSlot_keeps k2149704394)
    | split)
theorem execReplyTimeout_keeps (K : Keep P 2149704394) {slot : Nat} {s : State} {sOut : State} (hP : P s) (e : execReplyTimeout slot s = .next sOut) : P sOut := ok_keeps (effReplyTimeout_keeps (K.sub rfl) hP) e
theorem execPoisonListExpiry_keeps (K : Keep P 1048576) {src ctag : Nat} {s : State} {sOut : State} (hP : P s) (e : execPoisonListExpiry src ctag s = .next sOut) : P sOut := by
  refine ok_keeps ?_ e
  repeat' (first
    | with_reducible assumption
    | intro _
    | ((with_reducible refine Keep.mk (f := 1048576) ?_ ?_ ?_); (exact K.sub rfl); rotate_left; (exact ⟨rfl, rfl, canon_same rfl, .same rfl, .same rfl, ⟨.inr rfl, .inr rfl, .inr rfl, .inr rfl, .inl rfl, .inr rfl, .inr rfl, .inr rfl⟩, .same rfl⟩); first | with_reducible assumption))
theorem effQuiesce_keeps (K : Keep P 2149704394) {s : State} {v : Word}  (hP : P s) : P (effQuiesce s v) := by
  have k8 : Keep P 8 := K.sub rfl
  have k65536 : Keep P 65536 := K.sub rfl
  have k2149597386 : Keep P 2149597386 := K.sub rfl
  have k2149704394 : Keep P 2149704394 := K.sub rfl
  unfold effQuiesce
  repeat' (first
    | with_reducible assumption
    | (with_reducible apply refreshFabric_keeps k2149597386)
    | (with_reducible apply pump_keeps k2149704394)
    | (with_reducible apply releaseHold_keeps k65536)
    | (with_reducible apply rput_keeps k8))
theorem execTfrQuiesce_keeps (K : Keep P 2149704394) {v : Word} {s : State} {sOut : State} (hP : P s) (e : execTfrQuiesce v s = .next sOut) : P sOut := ok_keeps (effQuiesce_keeps (K.sub rfl) hP) e

end Sys2Proof.Machine
end

