-- ==== Sys2Proof/Laws/KeepCounters.lean ====
section
/-! SUPPORT. What each operation of Machine/Counters.lean may write (Touch): a property that stands under changes of those areas stands after the
operation. The mask is the union of the areas written. -/

set_option linter.unreachableTactic false
set_option linter.unusedTactic false
set_option linter.unusedVariables false
set_option linter.tactic.unusedName false

namespace Sys2Proof.Machine

variable {P : State → Prop}

theorem effWait_keeps (K : Keep P 512) {s : State} {ref : JobRef} {p : Nat}  (hP : P s) : P (effWait s ref p) := by
  have k512 : Keep P 512 := K.sub rfl
  unfold effWait
  repeat' (first
    | with_reducible assumption
    | (with_reducible apply markWorked_keeps k512)
    | split)
theorem execWait_keeps (K : Keep P 512) {j : JobRef} {p : Nat} {s : State} {sOut : State} (hP : P s) (e : execWait j p s = .next sOut) : P sOut := ok_keeps (effWait_keeps (K.sub rfl) hP) e
theorem effTicket_keeps (K : Keep P 2149708746) {s : State} {ref : JobRef} {p : Nat}  (hP : P s) : P (effTicket s ref p) := by
  have k512 : Keep P 512 := K.sub rfl
  have k2149597898 : Keep P 2149597898 := K.sub rfl
  have k2149671626 : Keep P 2149671626 := K.sub rfl
  have k2149675978 : Keep P 2149675978 := K.sub rfl
  have k2149704394 : Keep P 2149704394 := K.sub rfl
  unfold effTicket
  repeat' (first
    | with_reducible assumption
    | (extract_lets +onlyGivenNames s'; first | (refine (fun (hs' : P s') => ?_) ?_; clear_value s'; rotate_left; subst s') | (refine (fun (hs' : P s'.2.2) => ?_) ?_; clear_value s'; rotate_left; subst s') | clear_value s' | skip)
    | (with_reducible apply fetchAdd_keeps k2149675978)
    | (with_reducible apply ticketTaken_keeps k2149671626)
    | (with_reducible apply markFaulted_keeps k512)
    | (with_reducible apply fetchRefused_keeps k2149597898)
    | (with_reducible apply request_keeps k2149704394)
    | (with_reducible apply putJob_keeps k512)
    | split
    | (with_reducible refine keeps_ofThird (by assumption) ?_)
    | dsimp -zeta only)
theorem execTicket_keeps (K : Keep P 2149708746) {j : JobRef} {p : Nat} {s : State} {sOut : State} (hP : P s) (e : execTicket j p s = .next sOut) : P sOut := ok_keeps (effTicket_keeps (K.sub rfl) hP) e
theorem addEntry_keeps (K : Keep P 2149708746) {ref : JobRef} {p : Nat} {a : List Byte} {acked : Bool} {tag : Nat} {s : State} {i : Nat}  (hP : P s) : P (addEntry ref p a acked tag s i) := sendSignal_keeps (K.sub rfl) hP
theorem effSignalAdd_keeps (K : Keep P 2149708746) {s : State} {ref : JobRef} {p : Nat}  (hP : P s) : P (effSignalAdd s ref p) := by
  have k512 : Keep P 512 := K.sub rfl
  have k2149708746 : Keep P 2149708746 := K.sub rfl
  unfold effSignalAdd
  repeat' (first
    | with_reducible assumption
    | intro _
    | (extract_lets +onlyGivenNames s'; first | (refine (fun (hs' : P s') => ?_) ?_; clear_value s'; rotate_left; subst s') | clear_value s' | skip)
    | (with_reducible apply putJob_keeps k512)
    | (with_reducible apply addEntry_keeps k2149708746)
    | (with_reducible apply markWorked_keeps k512)
    | (with_reducible apply foldl_keeps)
    | split)
theorem execSignalAdd_keeps (K : Keep P 2149708746) {j : JobRef} {p : Nat} {s : State} {sOut : State} (hP : P s) (e : execSignalAdd j p s = .next sOut) : P sOut := ok_keeps (effSignalAdd_keeps (K.sub rfl) hP) e
theorem effFetchAdd_keeps (K : Keep P 2149708746) {s : State} {ref : JobRef} {p : Nat}  (hP : P s) : P (effFetchAdd s ref p) := by
  have k512 : Keep P 512 := K.sub rfl
  have k2149597386 : Keep P 2149597386 := K.sub rfl
  have k2149597898 : Keep P 2149597898 := K.sub rfl
  have k2149675978 : Keep P 2149675978 := K.sub rfl
  have k2149704394 : Keep P 2149704394 := K.sub rfl
  unfold effFetchAdd
  repeat' (first
    | with_reducible assumption
    | (extract_lets +onlyGivenNames s'; first | (refine (fun (hs' : P s') => ?_) ?_; clear_value s'; rotate_left; subst s') | (refine (fun (hs' : P s'.1) => ?_) ?_; clear_value s'; rotate_left; subst s') | (refine (fun (hs' : P s'.2.2) => ?_) ?_; clear_value s'; rotate_left; subst s') | clear_value s' | skip)
    | (with_reducible apply markWorked_keeps k512)
    | (with_reducible apply fetchAdd_keeps k2149675978)
    | (with_reducible apply writeResult_keeps k2149597386)
    | (with_reducible apply markFaulted_keeps k512)
    | (with_reducible apply reportUe_keeps k2149597386)
    | (with_reducible apply fetchRefused_keeps k2149597898)
    | (with_reducible apply request_keeps k2149704394)
    | (with_reducible apply putJob_keeps k512)
    | split
    | (with_reducible refine keeps_ofFst (by assumption) ?_)
    | (with_reducible refine keeps_ofThird (by assumption) ?_)
    | dsimp -zeta only)
theorem execFetchAdd_keeps (K : Keep P 2149708746) {j : JobRef} {p : Nat} {s : State} {sOut : State} (hP : P s) (e : execFetchAdd j p s = .next sOut) : P sOut := ok_keeps (effFetchAdd_keeps (K.sub rfl) hP) e
theorem assignEntry_keeps (K : Keep P 4096) {away : Bool} {s : State} {a : List Byte} {i : Nat}  (hP : P s) : ExKeeps P (assignEntry away s a i) := by
  have k4096 : Keep P 4096 := K.sub rfl
  unfold assignEntry
  repeat' (first
    | with_reducible assumption
    | (extract_lets +onlyGivenNames s'; first | (refine (fun (hs' : P s') => ?_) ?_; clear_value s'; rotate_left; subst s') | clear_value s' | skip)
    | (with_reducible apply putC_keeps k4096)
    | split
    | exact ExKeeps.error
    | (with_reducible apply ExKeeps.ok))
theorem releaseEntry_keeps (K : Keep P 2149675978) {u0 : Bool} {s : State} {a : List Byte} {i : Nat}  (hP : P s) : ExKeeps P (releaseEntry u0 s a i) := by
  have k4096 : Keep P 4096 := K.sub rfl
  have k2149671882 : Keep P 2149671882 := K.sub rfl
  unfold releaseEntry
  repeat' (first
    | with_reducible assumption
    | (extract_lets +onlyGivenNames s'; first | (refine (fun (hs' : P s') => ?_) ?_; clear_value s'; rotate_left; subst s') | clear_value s' | skip)
    | (with_reducible apply failWaits_keeps k2149671882)
    | (with_reducible apply putC_keeps k4096)
    | split
    | exact ExKeeps.error
    | (with_reducible apply ExKeeps.ok))
theorem entriesFrom_keeps (K : Keep P 0) {f : State → List Byte → Nat → Except Nat State} {a : List Byte} {e0 : List Nat} {e1 : State} (hf_f : ∀ (a0 : State) (a1 : List Byte) (a2 : Nat), P a0 → ExKeeps P (f a0 a1 a2)) (hP : P e1) : P (entriesFrom f a e0 e1).1 := by
  induction e0 generalizing a e1 with
  | nil =>
    unfold entriesFrom
    repeat' (first
    | with_reducible assumption
    | intro _
    | (extract_lets +onlyGivenNames s'; first | (refine (fun (hs' : P s') => ?_) ?_; clear_value s'; rotate_left; subst s') | (refine (fun (hs' : P s'.1) => ?_) ?_; clear_value s'; rotate_left; subst s') | (refine (fun (hs' : P s'.s) => ?_) ?_; clear_value s'; rotate_left; subst s') | (refine (fun (hs' : P s'.2) => ?_) ?_; clear_value s'; rotate_left; subst s') | (refine (fun (hs' : P s'.2.2) => ?_) ?_; clear_value s'; rotate_left; subst s') | (refine (fun (hs' : OptKeeps P s') => ?_) ?_; clear_value s'; rotate_left; subst s') | (refine (fun (hs' : ExKeeps P s') => ?_) ?_; clear_value s'; rotate_left; subst s') | (have _hs : State → _ := s'; clear _hs) | clear_value s' | skip)
    | (with_reducible apply hf_f)
    | split
    | (with_reducible refine keeps_ofFst (by assumption) ?_)
    | (with_reducible refine keeps_ofSnd (by assumption) ?_)
    | (with_reducible refine keeps_ofThird (by assumption) ?_)
    | (with_reducible refine keeps_ofOpt (by assumption) ?_)
    | (with_reducible refine keeps_ofEx (by assumption) ?_)
    | (with_reducible refine keeps_ofSome (by assumption) ?_)
    | dsimp -zeta only)
  | cons a r ih =>
    unfold entriesFrom
    repeat' (first
    | (with_reducible apply ih)
    | with_reducible assumption
    | intro _
    | (extract_lets +onlyGivenNames s'; first | (refine (fun (hs' : P s') => ?_) ?_; clear_value s'; rotate_left; subst s') | (refine (fun (hs' : P s'.1) => ?_) ?_; clear_value s'; rotate_left; subst s') | (refine (fun (hs' : P s'.s) => ?_) ?_; clear_value s'; rotate_left; subst s') | (refine (fun (hs' : P s'.2) => ?_) ?_; clear_value s'; rotate_left; subst s') | (refine (fun (hs' : P s'.2.2) => ?_) ?_; clear_value s'; rotate_left; subst s') | (refine (fun (hs' : OptKeeps P s') => ?_) ?_; clear_value s'; rotate_left; subst s') | (refine (fun (hs' : ExKeeps P s') => ?_) ?_; clear_value s'; rotate_left; subst s') | (have _hs : State → _ := s'; clear _hs) | clear_value s' | skip)
    | (with_reducible apply hf_f)
    | split
    | (with_reducible refine keeps_ofFst (by assumption) ?_)
    | (with_reducible refine keeps_ofSnd (by assumption) ?_)
    | (with_reducible refine keeps_ofThird (by assumption) ?_)
    | (with_reducible refine keeps_ofOpt (by assumption) ?_)
    | (with_reducible refine keeps_ofEx (by assumption) ?_)
    | (with_reducible refine keeps_ofSome (by assumption) ?_)
    | dsimp -zeta only)
theorem effEntries_keeps (K : Keep P 2149597898) {s : State} {ref : JobRef} {p var : Nat} {f : Bool → State → List Byte → Nat → Except Nat State} (hf_f : ∀ (a0 : Bool) (a1 : State) (a2 : List Byte) (a3 : Nat), P a1 → ExKeeps P (f a0 a1 a2 a3)) (hP : P s) : P (effEntries s ref p var f) := by
  have k0 : Keep P 0 := K.sub rfl
  have k512 : Keep P 512 := K.sub rfl
  have k2149597386 : Keep P 2149597386 := K.sub rfl
  unfold effEntries
  repeat' (first
    | with_reducible assumption
    | intro _
    | (extract_lets +onlyGivenNames s'; first | (refine (fun (hs' : P s') => ?_) ?_; clear_value s'; rotate_left; subst s') | (refine (fun (hs' : P s'.1) => ?_) ?_; clear_value s'; rotate_left; subst s') | clear_value s' | skip)
    | (with_reducible apply entriesFrom_keeps k0)
    | (with_reducible apply markWorked_keeps k512)
    | (with_reducible apply captureErr_keeps k2149597386)
    | (with_reducible apply markFaulted_keeps k512)
    | (with_reducible apply postFor_keeps k2149597386)
    | (with_reducible apply hf_f)
    | split
    | (with_reducible refine keeps_ofFst (by assumption) ?_)
    | dsimp -zeta only)
theorem execAssign_keeps (K : Keep P 2149601994) {j : JobRef} {p : Nat} {s : State} {sOut : State} (hP : P s) (e : execAssign j p s = .next sOut) : P sOut := by
  have k4096 : Keep P 4096 := K.sub rfl
  have k2149597898 : Keep P 2149597898 := K.sub rfl
  refine ok_keeps ?_ e
  repeat' (first
    | with_reducible assumption
    | intro _
    | (extract_lets +onlyGivenNames s'; first | (refine (fun (hs' : P s') => ?_) ?_; clear_value s'; rotate_left; subst s') | (refine (fun (hs' : P s'.1) => ?_) ?_; clear_value s'; rotate_left; subst s') | (refine (fun (hs' : P s'.s) => ?_) ?_; clear_value s'; rotate_left; subst s') | (refine (fun (hs' : P s'.2) => ?_) ?_; clear_value s'; rotate_left; subst s') | (refine (fun (hs' : P s'.2.2) => ?_) ?_; clear_value s'; rotate_left; subst s') | (refine (fun (hs' : OptKeeps P s') => ?_) ?_; clear_value s'; rotate_left; subst s') | (refine (fun (hs' : ExKeeps P s') => ?_) ?_; clear_value s'; rotate_left; subst s') | (have _hs : State → _ := s'; clear _hs) | clear_value s' | skip)
    | (with_reducible apply effEntries_keeps k2149597898)
    | (with_reducible apply assignEntry_keeps k4096)
    | split
    | (with_reducible refine keeps_ofFst (by assumption) ?_)
    | (with_reducible refine keeps_ofSnd (by assumption) ?_)
    | (with_reducible refine keeps_ofThird (by assumption) ?_)
    | (with_reducible refine keeps_ofOpt (by assumption) ?_)
    | (with_reducible refine keeps_ofEx (by assumption) ?_)
    | (with_reducible refine keeps_ofSome (by assumption) ?_)
    | dsimp -zeta only)
theorem execRelease_keeps (K : Keep P 2149675978) {j : JobRef} {p : Nat} {s : State} {sOut : State} (hP : P s) (e : execRelease j p s = .next sOut) : P sOut := by
  have k2149597898 : Keep P 2149597898 := K.sub rfl
  have k2149675978 : Keep P 2149675978 := K.sub rfl
  refine ok_keeps ?_ e
  repeat' (first
    | with_reducible assumption
    | intro _
    | (extract_lets +onlyGivenNames s'; first | (refine (fun (hs' : P s') => ?_) ?_; clear_value s'; rotate_left; subst s') | (refine (fun (hs' : P s'.1) => ?_) ?_; clear_value s'; rotate_left; subst s') | (refine (fun (hs' : P s'.s) => ?_) ?_; clear_value s'; rotate_left; subst s') | (refine (fun (hs' : P s'.2) => ?_) ?_; clear_value s'; rotate_left; subst s') | (refine (fun (hs' : P s'.2.2) => ?_) ?_; clear_value s'; rotate_left; subst s') | (refine (fun (hs' : OptKeeps P s') => ?_) ?_; clear_value s'; rotate_left; subst s') | (refine (fun (hs' : ExKeeps P s') => ?_) ?_; clear_value s'; rotate_left; subst s') | (have _hs : State → _ := s'; clear _hs) | clear_value s' | skip)
    | (with_reducible apply effEntries_keeps k2149597898)
    | (with_reducible apply releaseEntry_keeps k2149675978)
    | split
    | (with_reducible refine keeps_ofFst (by assumption) ?_)
    | (with_reducible refine keeps_ofSnd (by assumption) ?_)
    | (with_reducible refine keeps_ofThird (by assumption) ?_)
    | (with_reducible refine keeps_ofOpt (by assumption) ?_)
    | (with_reducible refine keeps_ofEx (by assumption) ?_)
    | (with_reducible refine keeps_ofSome (by assumption) ?_)
    | dsimp -zeta only)
theorem effSig_keeps (K : Keep P 2150724554) {pk : Pkt} {s : State}  (hP : P s) : P (effSig pk s) := by
  have k65536 : Keep P 65536 := K.sub rfl
  have k1114120 : Keep P 1114120 := K.sub rfl
  have k2149675978 : Keep P 2149675978 := K.sub rfl
  unfold effSig
  repeat' (first
    | with_reducible assumption
    | intro _
    | (extract_lets +onlyGivenNames s'; first | (refine (fun (hs' : P s') => ?_) ?_; clear_value s'; rotate_left; subst s') | clear_value s' | skip)
    | (with_reducible apply poisonedReq_keeps k1114120)
    | (with_reducible apply reply_keeps k65536)
    | (with_reducible apply addCounter_keeps k2149675978)
    | split
    | ((with_reducible refine Keep.mk (f := 1052672) ?_ ?_ ?_); (exact K.sub rfl); rotate_left; (exact ⟨rfl, rfl, canon_same rfl, .same rfl, ⟨.inr rfl, .inr rfl, .inr rfl, .inr rfl, .inl rfl, .inr rfl, .inr rfl, .inr rfl⟩, ⟨.inr rfl, .inr rfl, .inr rfl, .inr rfl, .inl rfl, .inr rfl, .inr rfl, .inr rfl⟩, .same rfl⟩); first | with_reducible assumption))
theorem execSig_keeps (K : Keep P 2150855626) {pk : Pkt} {s : State} {sOut : State} (hP : P s) (e : execSig pk s = .next sOut) : P sOut := by
  have k131072 : Keep P 131072 := K.sub rfl
  have k2150724554 : Keep P 2150724554 := K.sub rfl
  refine ok_keeps ?_ e
  repeat' (first
    | with_reducible assumption
    | intro _
    | (extract_lets +onlyGivenNames s'; first | (refine (fun (hs' : P s') => ?_) ?_; clear_value s'; rotate_left; subst s') | (refine (fun (hs' : P s'.1) => ?_) ?_; clear_value s'; rotate_left; subst s') | (refine (fun (hs' : P s'.s) => ?_) ?_; clear_value s'; rotate_left; subst s') | (refine (fun (hs' : P s'.2) => ?_) ?_; clear_value s'; rotate_left; subst s') | (refine (fun (hs' : P s'.2.2) => ?_) ?_; clear_value s'; rotate_left; subst s') | (refine (fun (hs' : OptKeeps P s') => ?_) ?_; clear_value s'; rotate_left; subst s') | (refine (fun (hs' : ExKeeps P s') => ?_) ?_; clear_value s'; rotate_left; subst s') | (have _hs : State → _ := s'; clear _hs) | clear_value s' | skip)
    | (with_reducible apply ejected_keeps k131072)
    | (with_reducible apply effSig_keeps k2150724554)
    | split
    | (with_reducible refine keeps_ofFst (by assumption) ?_)
    | (with_reducible refine keeps_ofSnd (by assumption) ?_)
    | (with_reducible refine keeps_ofThird (by assumption) ?_)
    | (with_reducible refine keeps_ofOpt (by assumption) ?_)
    | (with_reducible refine keeps_ofEx (by assumption) ?_)
    | (with_reducible refine keeps_ofSome (by assumption) ?_)
    | dsimp -zeta only)
theorem effFadd_keeps (K : Keep P 2150724554) {pk : Pkt} {s : State}  (hP : P s) : P (effFadd pk s) := by
  have k65536 : Keep P 65536 := K.sub rfl
  have k1114120 : Keep P 1114120 := K.sub rfl
  have k2149675978 : Keep P 2149675978 := K.sub rfl
  unfold effFadd
  repeat' (first
    | with_reducible assumption
    | (with_reducible apply poisonedReq_keeps k1114120)
    | (with_reducible apply reply_keeps k65536)
    | (with_reducible apply fetchAdd_keeps k2149675978)
    | split
    | (with_reducible refine keeps_ofThird (by assumption) ?_)
    | dsimp -zeta only)
theorem execFadd_keeps (K : Keep P 2150855626) {pk : Pkt} {s : State} {sOut : State} (hP : P s) (e : execFadd pk s = .next sOut) : P sOut := by
  have k131072 : Keep P 131072 := K.sub rfl
  have k2150724554 : Keep P 2150724554 := K.sub rfl
  refine ok_keeps ?_ e
  repeat' (first
    | with_reducible assumption
    | intro _
    | (extract_lets +onlyGivenNames s'; first | (refine (fun (hs' : P s') => ?_) ?_; clear_value s'; rotate_left; subst s') | (refine (fun (hs' : P s'.1) => ?_) ?_; clear_value s'; rotate_left; subst s') | (refine (fun (hs' : P s'.s) => ?_) ?_; clear_value s'; rotate_left; subst s') | (refine (fun (hs' : P s'.2) => ?_) ?_; clear_value s'; rotate_left; subst s') | (refine (fun (hs' : P s'.2.2) => ?_) ?_; clear_value s'; rotate_left; subst s') | (refine (fun (hs' : OptKeeps P s') => ?_) ?_; clear_value s'; rotate_left; subst s') | (refine (fun (hs' : ExKeeps P s') => ?_) ?_; clear_value s'; rotate_left; subst s') | (have _hs : State → _ := s'; clear _hs) | clear_value s' | skip)
    | (with_reducible apply ejected_keeps k131072)
    | (with_reducible apply effFadd_keeps k2150724554)
    | split
    | (with_reducible refine keeps_ofFst (by assumption) ?_)
    | (with_reducible refine keeps_ofSnd (by assumption) ?_)
    | (with_reducible refine keeps_ofThird (by assumption) ?_)
    | (with_reducible refine keeps_ofOpt (by assumption) ?_)
    | (with_reducible refine keeps_ofEx (by assumption) ?_)
    | (with_reducible refine keeps_ofSome (by assumption) ?_)
    | dsimp -zeta only)
theorem sendVerdict_keeps (K : Keep P 65536) {s : State} {src wid : Nat} {c : Counter} {verdict : Nat}  (hP : P s) : P (sendVerdict s src wid c verdict) := by
  have k65536 : Keep P 65536 := K.sub rfl
  unfold sendVerdict
  repeat' (first
    | with_reducible assumption
    | (with_reducible apply injectRaw_keeps k65536))
theorem effRegistration_keeps (K : Keep P 73736) {pk : Pkt} {s : State}  (hP : P s) : P (effRegistration pk s) := by
  have k8 : Keep P 8 := K.sub rfl
  have k8200 : Keep P 8200 := K.sub rfl
  have k65536 : Keep P 65536 := K.sub rfl
  unfold effRegistration
  repeat' (first
    | with_reducible assumption
    | (extract_lets +onlyGivenNames s'; first | (refine (fun (hs' : P s') => ?_) ?_; clear_value s'; rotate_left; subst s') | (refine (fun (hs' : P s'.2) => ?_) ?_; clear_value s'; rotate_left; subst s') | clear_value s' | skip)
    | (with_reducible apply rinc_keeps k8)
    | (with_reducible apply register_keeps k8200)
    | (with_reducible apply sendVerdict_keeps k65536)
    | split
    | (with_reducible refine keeps_ofSnd (by assumption) ?_)
    | dsimp -zeta only)
theorem mgtPacket_keeps (K : Keep P 131072) {s : State} {pk : Pkt} {sub : Nat} {f : State → State} (hf_f : ∀ (a0 : State), P a0 → P (f a0)) (hP : P s) : P (mgtPacket s pk sub f) := by
  have k131072 : Keep P 131072 := K.sub rfl
  unfold mgtPacket
  repeat' (first
    | with_reducible assumption
    | intro _
    | (with_reducible apply ejected_keeps k131072)
    | (with_reducible apply hf_f)
    | split)
theorem execWaitRegistration_keeps (K : Keep P 204808) {pk : Pkt} {s : State} {sOut : State} (hP : P s) (e : execWaitRegistration pk s = .next sOut) : P sOut := by
  have k73736 : Keep P 73736 := K.sub rfl
  have k131072 : Keep P 131072 := K.sub rfl
  refine ok_keeps ?_ e
  repeat' (first
    | with_reducible assumption
    | intro _
    | (extract_lets +onlyGivenNames s'; first | (refine (fun (hs' : P s') => ?_) ?_; clear_value s'; rotate_left; subst s') | (refine (fun (hs' : P s'.1) => ?_) ?_; clear_value s'; rotate_left; subst s') | (refine (fun (hs' : P s'.s) => ?_) ?_; clear_value s'; rotate_left; subst s') | (refine (fun (hs' : P s'.2) => ?_) ?_; clear_value s'; rotate_left; subst s') | (refine (fun (hs' : P s'.2.2) => ?_) ?_; clear_value s'; rotate_left; subst s') | (refine (fun (hs' : OptKeeps P s') => ?_) ?_; clear_value s'; rotate_left; subst s') | (refine (fun (hs' : ExKeeps P s') => ?_) ?_; clear_value s'; rotate_left; subst s') | (have _hs : State → _ := s'; clear _hs) | clear_value s' | skip)
    | (with_reducible apply mgtPacket_keeps k131072)
    | (with_reducible apply effRegistration_keeps k73736)
    | split
    | (with_reducible refine keeps_ofFst (by assumption) ?_)
    | (with_reducible refine keeps_ofSnd (by assumption) ?_)
    | (with_reducible refine keeps_ofThird (by assumption) ?_)
    | (with_reducible refine keeps_ofOpt (by assumption) ?_)
    | (with_reducible refine keeps_ofEx (by assumption) ?_)
    | (with_reducible refine keeps_ofSome (by assumption) ?_)
    | dsimp -zeta only)
theorem endRemoteWait_keeps (K : Keep P 2149606346) {s : State} {r : RemoteWait} {err val cst : Nat} {noVerdict : Bool}  (hP : P s) : P (endRemoteWait s r err val cst noVerdict) := by
  have k256 : Keep P 256 := K.sub rfl
  have k512 : Keep P 512 := K.sub rfl
  have k2149597386 : Keep P 2149597386 := K.sub rfl
  unfold endRemoteWait
  repeat' (first
    | with_reducible assumption
    | intro _
    | (extract_lets +onlyGivenNames s'; first | (refine (fun (hs' : P s') => ?_) ?_; clear_value s'; rotate_left; subst s') | clear_value s' | skip)
    | (with_reducible apply captureErr_keeps k2149597386)
    | (with_reducible apply postFor_keeps k2149597386)
    | (with_reducible apply setHeadWait_keeps k256)
    | (with_reducible apply setJobWait_keeps k512)
    | (with_reducible apply markWorked_keeps k512)
    | (with_reducible apply markFaulted_keeps k512)
    | split
    | ((with_reducible refine Keep.mk (f := 8192) ?_ ?_ ?_); (exact K.sub rfl); rotate_left; (exact ⟨rfl, rfl, canon_same rfl, .same rfl, ⟨.inr rfl, .inr rfl, .inr rfl, .inr rfl, .inr rfl, .inl rfl, .inr rfl, .inr rfl⟩, .same rfl, .same rfl⟩); first | with_reducible assumption))
theorem setWaiter_keeps (K : Keep P 768) {s : State} {w : Waiter} {st : WaitSt}  (hP : P s) : P (setWaiter s w st) := by
  have k256 : Keep P 256 := K.sub rfl
  have k512 : Keep P 512 := K.sub rfl
  unfold setWaiter
  repeat' (first
    | with_reducible assumption
    | (with_reducible apply setHeadWait_keeps k256)
    | (with_reducible apply setJobWait_keeps k512)
    | split)
theorem noteRefusal_keeps (K : Keep P 8192) {s : State} {r : RemoteWait} {val : DWord} {cst : Nat}  (hP : P s) : P (noteRefusal s r val cst) := by
  unfold noteRefusal
  repeat' (first
    | with_reducible assumption
    | intro _
    | split
    | ((with_reducible refine Keep.mk (f := 8192) ?_ ?_ ?_); (exact K.sub rfl); rotate_left; (exact ⟨rfl, rfl, canon_same rfl, .same rfl, ⟨.inr rfl, .inr rfl, .inr rfl, .inr rfl, .inr rfl, .inl rfl, .inr rfl, .inr rfl⟩, .same rfl, .same rfl⟩); first | with_reducible assumption))
theorem effVerdict_keeps (K : Keep P 2149606346) {pk : Pkt} {s : State}  (hP : P s) : P (effVerdict pk s) := by
  have k8 : Keep P 8 := K.sub rfl
  have k768 : Keep P 768 := K.sub rfl
  have k8192 : Keep P 8192 := K.sub rfl
  have k2149606346 : Keep P 2149606346 := K.sub rfl
  unfold effVerdict
  repeat' (first
    | with_reducible assumption
    | (extract_lets +onlyGivenNames s'; first | (refine (fun (hs' : P s') => ?_) ?_; clear_value s'; rotate_left; subst s') | clear_value s' | skip)
    | (with_reducible apply rinc_keeps k8)
    | (with_reducible apply setWaiter_keeps k768)
    | (with_reducible apply noteRefusal_keeps k8192)
    | (with_reducible apply endRemoteWait_keeps k2149606346)
    | split)
theorem execVerdict_keeps (K : Keep P 2149737418) {pk : Pkt} {s : State} {sOut : State} (hP : P s) (e : execVerdict pk s = .next sOut) : P sOut := by
  have k131072 : Keep P 131072 := K.sub rfl
  have k2149606346 : Keep P 2149606346 := K.sub rfl
  refine ok_keeps ?_ e
  repeat' (first
    | with_reducible assumption
    | intro _
    | (extract_lets +onlyGivenNames s'; first | (refine (fun (hs' : P s') => ?_) ?_; clear_value s'; rotate_left; subst s') | (refine (fun (hs' : P s'.1) => ?_) ?_; clear_value s'; rotate_left; subst s') | (refine (fun (hs' : P s'.s) => ?_) ?_; clear_value s'; rotate_left; subst s') | (refine (fun (hs' : P s'.2) => ?_) ?_; clear_value s'; rotate_left; subst s') | (refine (fun (hs' : P s'.2.2) => ?_) ?_; clear_value s'; rotate_left; subst s') | (refine (fun (hs' : OptKeeps P s') => ?_) ?_; clear_value s'; rotate_left; subst s') | (refine (fun (hs' : ExKeeps P s') => ?_) ?_; clear_value s'; rotate_left; subst s') | (have _hs : State → _ := s'; clear _hs) | clear_value s' | skip)
    | (with_reducible apply mgtPacket_keeps k131072)
    | (with_reducible apply effVerdict_keeps k2149606346)
    | split
    | (with_reducible refine keeps_ofFst (by assumption) ?_)
    | (with_reducible refine keeps_ofSnd (by assumption) ?_)
    | (with_reducible refine keeps_ofThird (by assumption) ?_)
    | (with_reducible refine keeps_ofOpt (by assumption) ?_)
    | (with_reducible refine keeps_ofEx (by assumption) ?_)
    | (with_reducible refine keeps_ofSome (by assumption) ?_)
    | dsimp -zeta only)
theorem effWaitExpiry_keeps (K : Keep P 2149671882) {s : State} {wid : Nat}  (hP : P s) : P (effWaitExpiry s wid) := by
  have k8 : Keep P 8 := K.sub rfl
  have k2149663690 : Keep P 2149663690 := K.sub rfl
  unfold effWaitExpiry
  repeat' (first
    | with_reducible assumption
    | intro _
    | (with_reducible apply giveVerdict_keeps k2149663690)
    | (with_reducible apply rinc_keeps k8)
    | split
    | ((with_reducible refine Keep.mk (f := 8192) ?_ ?_ ?_); (exact K.sub rfl); rotate_left; (exact ⟨rfl, rfl, canon_same rfl, .same rfl, ⟨.inr rfl, .inr rfl, .inr rfl, .inr rfl, .inr rfl, .inl rfl, .inr rfl, .inr rfl⟩, .same rfl, .same rfl⟩); first | with_reducible assumption))
theorem execCounterWaitExpiry_keeps (K : Keep P 2149671882) {wid : Nat} {s : State} {sOut : State} (hP : P s) (e : execCounterWaitExpiry wid s = .next sOut) : P sOut := ok_keeps (effWaitExpiry_keeps (K.sub rfl) hP) e
theorem effBackstop_keeps (K : Keep P 2149606346) {s : State} {wid : Nat}  (hP : P s) : P (effBackstop s wid) := by
  have k8 : Keep P 8 := K.sub rfl
  have k2149606346 : Keep P 2149606346 := K.sub rfl
  unfold effBackstop
  repeat' (first
    | with_reducible assumption
    | (with_reducible apply endRemoteWait_keeps k2149606346)
    | (with_reducible apply rinc_keeps k8)
    | split)
theorem execWaiterBackstop_keeps (K : Keep P 2149606346) {wid : Nat} {s : State} {sOut : State} (hP : P s) (e : execWaiterBackstop wid s = .next sOut) : P sOut := ok_keeps (effBackstop_keeps (K.sub rfl) hP) e
theorem retried_keeps (K : Keep P 8192) {s : State} {wid : Nat}  (hP : P s) : P (retried s wid) := by
  unfold retried
  repeat' (first
    | with_reducible assumption
    | intro _
    | split
    | ((with_reducible refine Keep.mk (f := 8192) ?_ ?_ ?_); (exact K.sub rfl); rotate_left; (exact ⟨rfl, rfl, canon_same rfl, .same rfl, ⟨.inr rfl, .inr rfl, .inr rfl, .inr rfl, .inr rfl, .inl rfl, .inr rfl, .inr rfl⟩, .same rfl, .same rfl⟩); first | with_reducible assumption))
theorem effRetry_keeps (K : Keep P 2149671882) {s : State} {wid : Nat}  (hP : P s) : P (effRetry s wid) := by
  have k768 : Keep P 768 := K.sub rfl
  have k8192 : Keep P 8192 := K.sub rfl
  have k8200 : Keep P 8200 := K.sub rfl
  have k65536 : Keep P 65536 := K.sub rfl
  have k2149606346 : Keep P 2149606346 := K.sub rfl
  unfold effRetry
  repeat' (first
    | with_reducible assumption
    | intro _
    | (extract_lets +onlyGivenNames s'; first | (refine (fun (hs' : P s') => ?_) ?_; clear_value s'; rotate_left; subst s') | (refine (fun (hs' : P s'.2) => ?_) ?_; clear_value s'; rotate_left; subst s') | clear_value s' | skip)
    | (with_reducible apply register_keeps k8200)
    | (with_reducible apply endRemoteWait_keeps k2149606346)
    | (with_reducible apply setWaiter_keeps k768)
    | (with_reducible apply noteRefusal_keeps k8192)
    | (with_reducible apply retried_keeps k8192)
    | (with_reducible apply injectRaw_keeps k65536)
    | split
    | ((with_reducible refine Keep.mk (f := 8192) ?_ ?_ ?_); (exact K.sub rfl); rotate_left; (exact ⟨rfl, rfl, canon_same rfl, .same rfl, ⟨.inr rfl, .inr rfl, .inr rfl, .inr rfl, .inr rfl, .inl rfl, .inr rfl, .inr rfl⟩, .same rfl, .same rfl⟩); first | with_reducible assumption | (with_reducible refine keeps_ofSnd (by assumption) ?_))
    | (with_reducible refine keeps_ofSnd (by assumption) ?_)
    | dsimp -zeta only)
theorem execRegistrationRetry_keeps (K : Keep P 2149671882) {wid : Nat} {s : State} {sOut : State} (hP : P s) (e : execRegistrationRetry wid s = .next sOut) : P sOut := ok_keeps (effRetry_keeps (K.sub rfl) hP) e
theorem withdrawJob_keeps (K : Keep P 8192) {s : State} {j : JobRef}  (hP : P s) : P (withdrawJob s j) := by
  have k8192 : Keep P 8192 := K.sub rfl
  unfold withdrawJob
  repeat' (first
    | with_reducible assumption
    | intro _
    | (with_reducible apply withdraw_keeps k8192)
    | split)
theorem preemptTicket_keeps (K : Keep P 2149606090) {s : State} {j : Job}  (hP : P s) : P (preemptTicket s j) := by
  have k512 : Keep P 512 := K.sub rfl
  have k8192 : Keep P 8192 := K.sub rfl
  have k2149597386 : Keep P 2149597386 := K.sub rfl
  unfold preemptTicket
  repeat' (first
    | with_reducible assumption
    | (extract_lets +onlyGivenNames s'; first | (refine (fun (hs' : P s') => ?_) ?_; clear_value s'; rotate_left; subst s') | clear_value s' | skip)
    | (with_reducible apply captureErr_keeps k2149597386)
    | (with_reducible apply withdrawJob_keeps k8192)
    | (with_reducible apply markFaulted_keeps k512)
    | (with_reducible apply postFor_keeps k2149597386))
theorem preemptTickets_keeps (K : Keep P 2149606090) {s : State} {q : Nat}  (hP : P s) : P (preemptTickets s q) := by
  have k2 : Keep P 2 := K.sub rfl
  have k2149606090 : Keep P 2149606090 := K.sub rfl
  unfold preemptTickets
  repeat' (first
    | with_reducible assumption
    | intro _
    | (with_reducible apply preemptTicket_keeps k2149606090)
    | (with_reducible apply takeFree_keeps k2)
    | (with_reducible apply foldl_keeps)
    | split
    | (with_reducible refine keeps_ofSnd (by assumption) ?_)
    | dsimp -zeta only)
theorem preemptServed_keeps (K : Keep P 8704) {s : State} {q : Nat}  (hP : P s) : P (preemptServed s q) := by
  have k512 : Keep P 512 := K.sub rfl
  have k8192 : Keep P 8192 := K.sub rfl
  unfold preemptServed
  repeat' (first
    | with_reducible assumption
    | intro _
    | (with_reducible apply putJob_keeps k512)
    | (with_reducible apply withdrawJob_keeps k8192)
    | (with_reducible apply foldl_keeps)
    | split)
theorem preemptQueue_keeps (K : Keep P 2149606346) {s : State} {q : Nat}  (hP : P s) : P (preemptQueue s q) := by
  have k256 : Keep P 256 := K.sub rfl
  have k8192 : Keep P 8192 := K.sub rfl
  have k8704 : Keep P 8704 := K.sub rfl
  have k2149598154 : Keep P 2149598154 := K.sub rfl
  have k2149606090 : Keep P 2149606090 := K.sub rfl
  unfold preemptQueue
  repeat' (first
    | with_reducible assumption
    | intro _
    | (extract_lets +onlyGivenNames s'; first | (refine (fun (hs' : P s') => ?_) ?_; clear_value s'; rotate_left; subst s') | clear_value s' | skip)
    | (with_reducible apply withdraw_keeps k8192)
    | (with_reducible apply putQ_keeps k256)
    | (with_reducible apply settleQueue_keeps k2149598154)
    | (with_reducible apply preemptServed_keeps k8704)
    | (with_reducible apply preemptTickets_keeps k2149606090)
    | split)
theorem effPreempt_keeps (K : Keep P 2149675978) {s : State} {v : Word}  (hP : P s) : P (effPreempt s v) := by
  have k2149606346 : Keep P 2149606346 := K.sub rfl
  have k2149675978 : Keep P 2149675978 := K.sub rfl
  unfold effPreempt
  repeat' (first
    | with_reducible assumption
    | intro _
    | (extract_lets +onlyGivenNames s'; first | (refine (fun (hs' : P s') => ?_) ?_; clear_value s'; rotate_left; subst s') | clear_value s' | skip)
    | (with_reducible apply breakCounters_keeps k2149675978)
    | (with_reducible apply preemptQueue_keeps k2149606346)
    | (with_reducible apply foldl_keeps)
    | split)
theorem execSynPreempt_keeps (K : Keep P 2149675978) {v : Word} {s : State} {sOut : State} (hP : P s) (e : execSynPreempt v s = .next sOut) : P sOut := ok_keeps (effPreempt_keeps (K.sub rfl) hP) e
theorem mbxNotify_keeps (K : Keep P 2149580808) {s : State} {m owner : Nat}  (hP : P s) : P (mbxNotify s m owner) := by
  have k2147483648 : Keep P 2147483648 := K.sub rfl
  have k2149580808 : Keep P 2149580808 := K.sub rfl
  unfold mbxNotify
  repeat' (first
    | with_reducible assumption
    | (extract_lets +onlyGivenNames s'; first | (refine (fun (hs' : P s') => ?_) ?_; clear_value s'; rotate_left; subst s') | clear_value s' | skip)
    | (with_reducible apply emit_keeps k2147483648)
    | (with_reducible apply postMailbox_keeps k2149580808)
    | split)
theorem effMbxPost_keeps (K : Keep P 2149580840) {s : State} {owner m : Nat} {v : Word}  (hP : P s) : P (effMbxPost s owner m v) := by
  have k8 : Keep P 8 := K.sub rfl
  have k2149580808 : Keep P 2149580808 := K.sub rfl
  unfold effMbxPost
  repeat' (first
    | with_reducible assumption
    | (extract_lets +onlyGivenNames s'; first | (refine (fun (hs' : P s') => ?_) ?_; clear_value s'; rotate_left; subst s') | clear_value s' | skip)
    | (with_reducible apply rputBit_keeps k8)
    | (with_reducible apply rput_keeps k8)
    | (with_reducible apply mbxNotify_keeps k2149580808)
    | (with_reducible apply rputF_keeps k8)
    | split
    | ((with_reducible refine Keep.mk (f := 32) ?_ ?_ ?_); (exact K.sub rfl); rotate_left; (exact ⟨rfl, rfl, canon_same rfl, ⟨.inr rfl, .inr rfl, .inr rfl, .inr rfl, .inr rfl, .inl rfl, .inr rfl, .inr rfl⟩, .same rfl, .same rfl, .same rfl⟩); first | with_reducible assumption))
theorem execMbxPost_keeps (K : Keep P 2149580840) {owner m : Nat} {v : Word} {s : State} {sOut : State} (hP : P s) (e : execMbxPost owner m v s = .next sOut) : P sOut := by
  have k0 : Keep P 0 := K.sub rfl
  have k2149580840 : Keep P 2149580840 := K.sub rfl
  refine ok_keeps ?_ e
  repeat' (first
    | with_reducible assumption
    | (with_reducible apply byAgent_keeps k0)
    | (with_reducible apply effMbxPost_keeps k2149580840))
theorem effMbxReceive_keeps (K : Keep P 44) {s : State} {owner m : Nat}  (hP : P s) : P (effMbxReceive s owner m) := by
  have k8 : Keep P 8 := K.sub rfl
  unfold effMbxReceive
  repeat' (first
    | with_reducible assumption
    | (extract_lets +onlyGivenNames s'; first | (refine (fun (hs' : P s') => ?_) ?_; clear_value s'; rotate_left; subst s') | clear_value s' | skip)
    | (with_reducible apply rputF_keeps k8)
    | (with_reducible apply rput_keeps k8)
    | ((with_reducible refine Keep.mk (f := 36) ?_ ?_ ?_); (exact K.sub rfl); rotate_left; (exact ⟨rfl, rfl, canon_same rfl, ⟨.inr rfl, .inr rfl, .inl rfl, .inr rfl, .inr rfl, .inl rfl, .inr rfl, .inr rfl⟩, .same rfl, .same rfl, .same rfl⟩); first | with_reducible assumption))
theorem execMbxReceive_keeps (K : Keep P 44) {owner m : Nat} {s : State} {sOut : State} (hP : P s) (e : execMbxReceive owner m s = .next sOut) : P sOut := by
  have k0 : Keep P 0 := K.sub rfl
  have k44 : Keep P 44 := K.sub rfl
  refine ok_keeps ?_ e
  repeat' (first
    | with_reducible assumption
    | (with_reducible apply byAgent_keeps k0)
    | (with_reducible apply effMbxReceive_keeps k44))
theorem effLockAcquire_keeps (K : Keep P 12) {s : State} {owner m : Nat}  (hP : P s) : P (effLockAcquire s owner m) := by
  have k8 : Keep P 8 := K.sub rfl
  unfold effLockAcquire
  repeat' (first
    | with_reducible assumption
    | (extract_lets +onlyGivenNames s'; first | (refine (fun (hs' : P s') => ?_) ?_; clear_value s'; rotate_left; subst s') | clear_value s' | skip)
    | (with_reducible apply rputN_keeps k8)
    | split
    | ((with_reducible refine Keep.mk (f := 4) ?_ ?_ ?_); (exact K.sub rfl); rotate_left; (exact ⟨rfl, rfl, canon_same rfl, ⟨.inr rfl, .inr rfl, .inl rfl, .inr rfl, .inr rfl, .inr rfl, .inr rfl, .inr rfl⟩, .same rfl, .same rfl, .same rfl⟩); first | with_reducible assumption))
theorem execMbxLockAcquire_keeps (K : Keep P 12) {owner m : Nat} {s : State} {sOut : State} (hP : P s) (e : execMbxLockAcquire owner m s = .next sOut) : P sOut := by
  have k0 : Keep P 0 := K.sub rfl
  have k12 : Keep P 12 := K.sub rfl
  refine ok_keeps ?_ e
  repeat' (first
    | with_reducible assumption
    | (with_reducible apply byAgent_keeps k0)
    | (with_reducible apply effLockAcquire_keeps k12))
theorem effLockRelease_keeps (K : Keep P 8) {s : State} {owner m : Nat} {v : Word}  (hP : P s) : P (effLockRelease s owner m v) := by
  have k8 : Keep P 8 := K.sub rfl
  unfold effLockRelease
  repeat' (first
    | with_reducible assumption
    | (extract_lets +onlyGivenNames s'; first | (refine (fun (hs' : P s') => ?_) ?_; clear_value s'; rotate_left; subst s') | clear_value s' | skip)
    | (with_reducible apply rputN_keeps k8)
    | (with_reducible apply rinc_keeps k8)
    | split)
theorem execMbxLockRelease_keeps (K : Keep P 8) {owner m : Nat} {v : Word} {s : State} {sOut : State} (hP : P s) (e : execMbxLockRelease owner m v s = .next sOut) : P sOut := by
  have k0 : Keep P 0 := K.sub rfl
  have k8 : Keep P 8 := K.sub rfl
  refine ok_keeps ?_ e
  repeat' (first
    | with_reducible assumption
    | (with_reducible apply byAgent_keeps k0)
    | (with_reducible apply effLockRelease_keeps k8))
theorem effMbxForce_keeps (K : Keep P 8) {s : State} {owner off : Nat} {v : Word}  (hP : P s) : P (effMbxForce s owner off v) := by
  have k8 : Keep P 8 := K.sub rfl
  unfold effMbxForce
  repeat' (first
    | with_reducible assumption
    | intro _
    | (with_reducible apply rputN_keeps k8)
    | (with_reducible apply foldl_keeps)
    | split)
theorem execMbxForce_keeps (K : Keep P 8) {owner off : Nat} {v : Word} {s : State} {sOut : State} (hP : P s) (e : execMbxForce owner off v s = .next sOut) : P sOut := by
  have k0 : Keep P 0 := K.sub rfl
  have k8 : Keep P 8 := K.sub rfl
  refine ok_keeps ?_ e
  repeat' (first
    | with_reducible assumption
    | (with_reducible apply byAgent_keeps k0)
    | (with_reducible apply effMbxForce_keeps k8)
    | split)
theorem execMbxHb_keeps (K : Keep P 8) {owner a : Nat} {v : Word} {s : State} {sOut : State} (hP : P s) (e : execMbxHb owner a v s = .next sOut) : P sOut := by
  have k0 : Keep P 0 := K.sub rfl
  have k8 : Keep P 8 := K.sub rfl
  refine ok_keeps ?_ e
  repeat' (first
    | with_reducible assumption
    | (with_reducible apply byAgent_keeps k0)
    | (with_reducible apply rput_keeps k8)
    | split)

end Sys2Proof.Machine
end

