-- ==== Sys2Proof/Laws/KeepQueues.lean ====
section
/-! SUPPORT. What each operation of Machine/Queues.lean may write (Touch): a property that stands under changes of those areas stands after the
operation. The mask is the union of the areas written. -/

set_option linter.unreachableTactic false
set_option linter.unusedTactic false
set_option linter.unusedVariables false
set_option linter.tactic.unusedName false

namespace Sys2Proof.Machine

variable {P : State → Prop}

theorem stopQueue_keeps (K : Keep P 2149606346) {s : State} {q err : Nat}  (hP : P s) : P (stopQueue s q err) := by
  have k256 : Keep P 256 := K.sub rfl
  have k8192 : Keep P 8192 := K.sub rfl
  have k2149598154 : Keep P 2149598154 := K.sub rfl
  unfold stopQueue
  repeat' (first
    | with_reducible assumption
    | intro _
    | (extract_lets +onlyGivenNames s'; first | (refine (fun (hs' : P s') => ?_) ?_; clear_value s'; rotate_left; subst s') | clear_value s' | skip)
    | (with_reducible apply withdraw_keeps k8192)
    | (with_reducible apply settleQueue_keeps k2149598154)
    | (with_reducible apply putQ_keeps k256)
    | split)
theorem effQTail_keeps (K : Keep P 2149606346) {s : State} {q : Nat} {v : Word}  (hP : P s) : P (effQTail s q v) := by
  have k256 : Keep P 256 := K.sub rfl
  have k2149597386 : Keep P 2149597386 := K.sub rfl
  have k2149606346 : Keep P 2149606346 := K.sub rfl
  unfold effQTail
  repeat' (first
    | with_reducible assumption
    | (extract_lets +onlyGivenNames s'; first | (refine (fun (hs' : P s') => ?_) ?_; clear_value s'; rotate_left; subst s') | clear_value s' | skip)
    | (with_reducible apply stopQueue_keeps k2149606346)
    | (with_reducible apply reportErr_keeps k2149597386)
    | (with_reducible apply putQ_keeps k256)
    | split)
theorem execQTailWrite_keeps (K : Keep P 2149606346) {q : Nat} {v : Word} {s : State} {sOut : State} (hP : P s) (e : execQTailWrite q v s = .next sOut) : P sOut := by
  have k2149606346 : Keep P 2149606346 := K.sub rfl
  refine ok_keeps ?_ e
  repeat' (first
    | with_reducible assumption
    | (with_reducible apply effQTail_keeps k2149606346)
    | split)
theorem effQueueEnable_keeps (K : Keep P 256) {s : State} {q : Nat} {v : Word}  (hP : P s) : P (effQueueEnable s q v) := by
  have k256 : Keep P 256 := K.sub rfl
  unfold effQueueEnable
  repeat' (first
    | with_reducible assumption
    | (extract_lets +onlyGivenNames s'; first | (refine (fun (hs' : P s') => ?_) ?_; clear_value s'; rotate_left; subst s') | clear_value s' | skip)
    | (with_reducible apply putQ_keeps k256)
    | split)
theorem execQueueEnable_keeps (K : Keep P 256) {q : Nat} {v : Word} {s : State} {sOut : State} (hP : P s) (e : execQueueEnable q v s = .next sOut) : P sOut := by
  have k256 : Keep P 256 := K.sub rfl
  refine ok_keeps ?_ e
  repeat' (first
    | with_reducible assumption
    | (with_reducible apply effQueueEnable_keeps k256)
    | split)
theorem effResume_keeps (K : Keep P 2149597642) {s : State} {q : Nat} {skip : Bool}  (hP : P s) : P (effResume s q skip) := by
  have k256 : Keep P 256 := K.sub rfl
  have k2149597386 : Keep P 2149597386 := K.sub rfl
  unfold effResume
  repeat' (first
    | with_reducible assumption
    | (extract_lets +onlyGivenNames s'; first | (refine (fun (hs' : P s') => ?_) ?_; clear_value s'; rotate_left; subst s') | clear_value s' | skip)
    | (with_reducible apply putQ_keeps k256)
    | (with_reducible apply storeNoted_keeps k2149597386)
    | split)
theorem execResumeRetry_keeps (K : Keep P 2149597642) {q : Nat} {s : State} {sOut : State} (hP : P s) (e : execResumeRetry q s = .next sOut) : P sOut := ok_keeps (effResume_keeps (K.sub rfl) hP) e
theorem execResumeSkip_keeps (K : Keep P 2149597642) {q : Nat} {s : State} {sOut : State} (hP : P s) (e : execResumeSkip q s = .next sOut) : P sOut := ok_keeps (effResume_keeps (K.sub rfl) hP) e
theorem beginOne_keeps (K : Keep P 2149671114) {s : State} {d : List Byte} {which elapsed : Nat} {w : Waiter}  (hP : P s) : P (beginOne s d which elapsed w).2 := by
  have k2149671114 : Keep P 2149671114 := K.sub rfl
  unfold beginOne
  repeat' (first
    | with_reducible assumption
    | (with_reducible apply beginWait_keeps k2149671114)
    | split
    | (with_reducible refine keeps_ofSnd (by assumption) ?_)
    | dsimp -zeta only)
theorem reportRej_keeps (K : Keep P 2149597386) {s : State} {w : Nat} {c : CmdName} {r : Rej}  (hP : P s) : P (reportRej s w c r) := reportErr_keeps (K.sub rfl) hP
theorem rejectHead_keeps (K : Keep P 2149606346) {s : State} {q : Nat} {r : Rej}  (hP : P s) : P (rejectHead s q r) := by
  have k2149597386 : Keep P 2149597386 := K.sub rfl
  have k2149606346 : Keep P 2149606346 := K.sub rfl
  unfold rejectHead
  repeat' (first
    | with_reducible assumption
    | (extract_lets +onlyGivenNames s'; first | (refine (fun (hs' : P s') => ?_) ?_; clear_value s'; rotate_left; subst s') | clear_value s' | skip)
    | (with_reducible apply failCommand_keeps k2149606346)
    | (with_reducible apply reportRej_keeps k2149597386))
theorem noteDescs_keeps (K : Keep P 2149597386) {s : State} {m : MemSource} {d a : List Byte}  (hP : P s) : P (noteDescs s m d a) := noteReads_keeps (K.sub rfl) hP
theorem effAtHead_keeps (K : Keep P 2149671882) {s : State} {q : Nat}  (hP : P s) : P (effAtHead s q) := by
  have k256 : Keep P 256 := K.sub rfl
  have k2149597386 : Keep P 2149597386 := K.sub rfl
  have k2149606346 : Keep P 2149606346 := K.sub rfl
  have k2149671114 : Keep P 2149671114 := K.sub rfl
  unfold effAtHead
  repeat' (first
    | with_reducible assumption
    | intro _
    | (extract_lets +onlyGivenNames s'; first | (refine (fun (hs' : P s') => ?_) ?_; clear_value s'; rotate_left; subst s') | (refine (fun (hs' : P s'.2) => ?_) ?_; clear_value s'; rotate_left; subst s') | clear_value s' | skip)
    | (with_reducible apply wake_keeps k2149597386)
    | (with_reducible apply rejectHead_keeps k2149606346)
    | (with_reducible apply failCommand_keeps k2149606346)
    | (with_reducible apply reportUe_keeps k2149597386)
    | (with_reducible apply noteDescs_keeps k2149597386)
    | (with_reducible apply noteReads_keeps k2149597386)
    | (with_reducible apply putQ_keeps k256)
    | (with_reducible apply beginOne_keeps k2149671114)
    | (with_reducible apply setHeadWait_keeps k256)
    | (with_reducible apply writeProgress_keeps k2149597386)
    | split
    | (with_reducible refine keeps_ofSnd (by assumption) ?_)
    | dsimp -zeta only)
theorem execCommandAtHead_keeps (K : Keep P 2149671882) {q : Nat} {s : State} {sOut : State} (hP : P s) (e : execCommandAtHead q s = .next sOut) : P sOut := ok_keeps (effAtHead_keeps (K.sub rfl) hP) e
theorem takeVote_keeps (K : Keep P 8) {s : State} {j : Job}  (hP : P s) : P (takeVote s j).2 := by
  have k8 : Keep P 8 := K.sub rfl
  unfold takeVote
  repeat' (first
    | with_reducible assumption
    | (with_reducible apply rputBit_keeps k8)
    | (with_reducible apply rputN_keeps k8)
    | split
    | dsimp -zeta only)
theorem refreshCph_keeps (K : Keep P 2149597386) {s : State}  (hP : P s) : P (refreshCph s) := by
  have k8 : Keep P 8 := K.sub rfl
  have k2149597386 : Keep P 2149597386 := K.sub rfl
  unfold refreshCph
  repeat' (first
    | with_reducible assumption
    | (extract_lets +onlyGivenNames s'; first | (refine (fun (hs' : P s') => ?_) ?_; clear_value s'; rotate_left; subst s') | clear_value s' | skip)
    | (with_reducible apply rputN_keeps k8)
    | (with_reducible apply setCode_keeps k2149597386)
    | split)
theorem cphArrive_keeps (K : Keep P 2183151818) {s : State} {ref : JobRef}  (hP : P s) : P (cphArrive s ref) := by
  have k2149597386 : Keep P 2149597386 := K.sub rfl
  unfold cphArrive
  repeat' (first
    | with_reducible assumption
    | (with_reducible apply refreshCph_keeps k2149597386)
    | split
    | ((with_reducible refine Keep.mk (f := 33554432) ?_ ?_ ?_); (exact K.sub rfl); rotate_left; (exact ⟨rfl, rfl, canon_same rfl, .same rfl, .same rfl, .same rfl, ⟨.inr rfl, .inl rfl, .inr rfl, .inr rfl, .inr rfl, .inr rfl, .inr rfl, .inr rfl⟩⟩); first | with_reducible assumption))
theorem effReport_keeps (K : Keep P 2149597898) {s : State} {pk : Pkt}  (hP : P s) : P (effReport s pk) := by
  have k512 : Keep P 512 := K.sub rfl
  have k2149597386 : Keep P 2149597386 := K.sub rfl
  have k2149597898 : Keep P 2149597898 := K.sub rfl
  unfold effReport
  repeat' (first
    | with_reducible assumption
    | (extract_lets +onlyGivenNames s'; first | (refine (fun (hs' : P s') => ?_) ?_; clear_value s'; rotate_left; subst s') | clear_value s' | skip)
    | (with_reducible apply putJob_keeps k512)
    | (with_reducible apply runProgress_keeps k2149597386)
    | (with_reducible apply fetchRefused_keeps k2149597898)
    | (with_reducible apply markFaulted_keeps k512)
    | (with_reducible apply reportUe_keeps k2149597386)
    | (with_reducible apply orFlags_keeps k2149597898)
    | (with_reducible apply markWorked_keeps k512)
    | split)
theorem reportBack_keeps (K : Keep P 2149704394) {s : State} {src ctag err retired committed : Nat} {last : Bool} {flags : Nat} {wrote : List Nat}  (hP : P s) : P (reportBack s src ctag err retired committed last flags wrote) := by
  have k2149597898 : Keep P 2149597898 := K.sub rfl
  have k2149704394 : Keep P 2149704394 := K.sub rfl
  unfold reportBack
  repeat' (first
    | with_reducible assumption
    | (extract_lets +onlyGivenNames s'; first | (refine (fun (hs' : P s') => ?_) ?_; clear_value s'; rotate_left; subst s') | clear_value s' | skip)
    | (with_reducible apply effReport_keeps k2149597898)
    | (with_reducible apply request_keeps k2149704394)
    | split)
theorem serveCmd_keeps (K : Keep P 2149671626) {s : State} {pk : Pkt}  (hP : P s) : P (serveCmd s pk) := by
  have k512 : Keep P 512 := K.sub rfl
  have k8192 : Keep P 8192 := K.sub rfl
  have k2149597386 : Keep P 2149597386 := K.sub rfl
  have k2149671114 : Keep P 2149671114 := K.sub rfl
  unfold serveCmd
  repeat' (first
    | with_reducible assumption
    | (extract_lets +onlyGivenNames s'; first | (refine (fun (hs' : P s') => ?_) ?_; clear_value s'; rotate_left; subst s') | (refine (fun (hs' : P s'.2) => ?_) ?_; clear_value s'; rotate_left; subst s') | clear_value s' | skip)
    | (with_reducible apply newTag_keeps k8192)
    | (with_reducible apply reportUe_keeps k2149597386)
    | (with_reducible apply noteDescs_keeps k2149597386)
    | (with_reducible apply reportRej_keeps k2149597386)
    | (with_reducible apply beginOne_keeps k2149671114)
    | (with_reducible apply setJobWait_keeps k512)
    | split
    | ((with_reducible refine Keep.mk (f := 512) ?_ ?_ ?_); (exact K.sub rfl); rotate_left; (exact ⟨rfl, rfl, canon_same rfl, .same rfl, ⟨.inr rfl, .inl rfl, .inr rfl, .inr rfl, .inr rfl, .inr rfl, .inr rfl, .inr rfl⟩, .same rfl, .same rfl⟩); first | with_reducible assumption | (with_reducible refine keeps_ofSnd (by assumption) ?_))
    | (with_reducible refine keeps_ofSnd (by assumption) ?_)
    | dsimp -zeta only)
theorem serveOwn_keeps (K : Keep P 2149671626) {s : State} {ref : JobRef}  (hP : P s) : P (serveOwn s ref) := by
  have k512 : Keep P 512 := K.sub rfl
  have k2149671626 : Keep P 2149671626 := K.sub rfl
  unfold serveOwn
  repeat' (first
    | with_reducible assumption
    | intro _
    | (with_reducible apply serveCmd_keeps k2149671626)
    | (with_reducible apply putJob_keeps k512)
    | (with_reducible apply foldl_keeps)
    | split)
theorem startParts_keeps (K : Keep P 2149704394) {s : State} {ref : JobRef}  (hP : P s) : P (startParts s ref) := by
  have k2149671626 : Keep P 2149671626 := K.sub rfl
  have k2149704394 : Keep P 2149704394 := K.sub rfl
  unfold startParts
  repeat' (first
    | with_reducible assumption
    | (with_reducible apply serveOwn_keeps k2149671626)
    | (with_reducible apply sendParts_keeps k2149704394))
theorem effDispatchQueue_keeps (K : Keep P 2183259082) {s : State} {q n : Nat}  (hP : P s) : P (effDispatchQueue s q n) := by
  have k8 : Keep P 8 := K.sub rfl
  have k256 : Keep P 256 := K.sub rfl
  have k8192 : Keep P 8192 := K.sub rfl
  have k2149597386 : Keep P 2149597386 := K.sub rfl
  have k2149606346 : Keep P 2149606346 := K.sub rfl
  have k2149704394 : Keep P 2149704394 := K.sub rfl
  have k2183151818 : Keep P 2183151818 := K.sub rfl
  unfold effDispatchQueue
  repeat' (first
    | with_reducible assumption
    | (extract_lets +onlyGivenNames s'; first | (refine (fun (hs' : P s') => ?_) ?_; clear_value s'; rotate_left; subst s') | (refine (fun (hs' : P s'.2) => ?_) ?_; clear_value s'; rotate_left; subst s') | clear_value s' | skip)
    | (with_reducible apply rejectHead_keeps k2149606346)
    | (with_reducible apply failCommand_keeps k2149606346)
    | (with_reducible apply reportUe_keeps k2149597386)
    | (with_reducible apply newTag_keeps k8192)
    | (with_reducible apply noteDescs_keeps k2149597386)
    | (with_reducible apply takeVote_keeps k8)
    | (with_reducible apply putQ_keeps k256)
    | (with_reducible apply cphArrive_keeps k2183151818)
    | (with_reducible apply startParts_keeps k2149704394)
    | (with_reducible apply progressOf_keeps k2149597386)
    | split
    | ((with_reducible refine Keep.mk (f := 512) ?_ ?_ ?_); (exact K.sub rfl); rotate_left; (exact ⟨rfl, rfl, canon_same rfl, .same rfl, ⟨.inr rfl, .inl rfl, .inr rfl, .inr rfl, .inr rfl, .inr rfl, .inr rfl, .inr rfl⟩, .same rfl, .same rfl⟩); first | with_reducible assumption | (with_reducible refine keeps_ofSnd (by assumption) ?_))
    | (with_reducible refine keeps_ofSnd (by assumption) ?_)
    | dsimp -zeta only)
theorem putLast_keeps (K : Keep P 512) {s : State} {j : Job}  (hP : P s) : P (putLast s j) := by
  have k512 : Keep P 512 := K.sub rfl
  unfold putLast
  repeat' (first
    | with_reducible assumption
    | (extract_lets +onlyGivenNames s'; first | (refine (fun (hs' : P s') => ?_) ?_; clear_value s'; rotate_left; subst s') | clear_value s' | skip)
    | (with_reducible apply dropJob_keeps k512)
    | ((with_reducible refine Keep.mk (f := 512) ?_ ?_ ?_); (exact K.sub rfl); rotate_left; (exact ⟨rfl, rfl, canon_same rfl, .same rfl, ⟨.inr rfl, .inl rfl, .inr rfl, .inr rfl, .inr rfl, .inr rfl, .inr rfl, .inr rfl⟩, .same rfl, .same rfl⟩); first | with_reducible assumption))
theorem effDispatchServed_keeps (K : Keep P 2183258826) {s : State} {src ctag : Nat}  (hP : P s) : P (effDispatchServed s src ctag) := by
  have k8 : Keep P 8 := K.sub rfl
  have k512 : Keep P 512 := K.sub rfl
  have k2149597386 : Keep P 2149597386 := K.sub rfl
  have k2149704394 : Keep P 2149704394 := K.sub rfl
  have k2183151818 : Keep P 2183151818 := K.sub rfl
  unfold effDispatchServed
  repeat' (first
    | with_reducible assumption
    | (extract_lets +onlyGivenNames s'; first | (refine (fun (hs' : P s') => ?_) ?_; clear_value s'; rotate_left; subst s') | (refine (fun (hs' : P s'.2) => ?_) ?_; clear_value s'; rotate_left; subst s') | clear_value s' | skip)
    | (with_reducible apply putJob_keeps k512)
    | (with_reducible apply reportErr_keeps k2149597386)
    | (with_reducible apply reportUe_keeps k2149597386)
    | (with_reducible apply reportRej_keeps k2149597386)
    | (with_reducible apply takeVote_keeps k8)
    | (with_reducible apply noteDescs_keeps k2149597386)
    | (with_reducible apply cphArrive_keeps k2183151818)
    | (with_reducible apply startParts_keeps k2149704394)
    | (with_reducible apply putLast_keeps k512)
    | split
    | (with_reducible refine keeps_ofSnd (by assumption) ?_)
    | dsimp -zeta only)
theorem execCommandDispatch_keeps (K : Keep P 2183259082) {j : JobRef} {s : State} {sOut : State} (hP : P s) (e : execCommandDispatch j s = .next sOut) : P sOut := by
  have k2183258826 : Keep P 2183258826 := K.sub rfl
  have k2183259082 : Keep P 2183259082 := K.sub rfl
  refine ok_keeps ?_ e
  repeat' (first
    | with_reducible assumption
    | (with_reducible apply effDispatchQueue_keeps k2183259082)
    | (with_reducible apply effDispatchServed_keeps k2183258826)
    | split)
theorem effWaitTimeout_keeps (K : Keep P 2149606346) {s : State} {ref : JobRef}  (hP : P s) : P (effWaitTimeout s ref) := by
  have k512 : Keep P 512 := K.sub rfl
  have k8192 : Keep P 8192 := K.sub rfl
  have k2149606346 : Keep P 2149606346 := K.sub rfl
  unfold effWaitTimeout
  repeat' (first
    | with_reducible assumption
    | intro _
    | (with_reducible apply failCommand_keeps k2149606346)
    | (with_reducible apply putJob_keeps k512)
    | (with_reducible apply withdraw_keeps k8192)
    | split)
theorem execWaitTimeout_keeps (K : Keep P 2149606346) {j : JobRef} {s : State} {sOut : State} (hP : P s) (e : execWaitTimeout j s = .next sOut) : P sOut := ok_keeps (effWaitTimeout_keeps (K.sub rfl) hP) e
theorem sendDescSignal_keeps (K : Keep P 2149708746) {s : State} {j : Job} {q : Nat} {n : Word} {which : Nat}  (hP : P s) : P (sendDescSignal s j q n which) := by
  have k2149708746 : Keep P 2149708746 := K.sub rfl
  unfold sendDescSignal
  repeat' (first
    | with_reducible assumption
    | (extract_lets +onlyGivenNames s'; first | (refine (fun (hs' : P s') => ?_) ?_; clear_value s'; rotate_left; subst s') | clear_value s' | skip)
    | (with_reducible apply sendSignal_keeps k2149708746)
    | split)
theorem effCompleteQueue_keeps (K : Keep P 2149708746) {s : State} {q n : Nat}  (hP : P s) : P (effCompleteQueue s q n) := by
  have k256 : Keep P 256 := K.sub rfl
  have k512 : Keep P 512 := K.sub rfl
  have k2149597386 : Keep P 2149597386 := K.sub rfl
  have k2149598154 : Keep P 2149598154 := K.sub rfl
  have k2149675978 : Keep P 2149675978 := K.sub rfl
  have k2149708746 : Keep P 2149708746 := K.sub rfl
  unfold effCompleteQueue
  repeat' (first
    | with_reducible assumption
    | (extract_lets +onlyGivenNames s'; first | (refine (fun (hs' : P s') => ?_) ?_; clear_value s'; rotate_left; subst s') | clear_value s' | skip)
    | (with_reducible apply putJob_keeps k512)
    | (with_reducible apply reportUe_keeps k2149597386)
    | (with_reducible apply releaseReader_keeps k2149675978)
    | (with_reducible apply dropJob_keeps k512)
    | (with_reducible apply journalCommit_keeps k2149597386)
    | (with_reducible apply sendDescSignal_keeps k2149708746)
    | (with_reducible apply raiseHere_keeps k2149675978)
    | (with_reducible apply writeProgress_keeps k2149597386)
    | (with_reducible apply settleQueue_keeps k2149598154)
    | (with_reducible apply putQ_keeps k256)
    | split)
theorem effCompleteServed_keeps (K : Keep P 2149708746) {s : State} {src ctag : Nat}  (hP : P s) : P (effCompleteServed s src ctag) := by
  have k512 : Keep P 512 := K.sub rfl
  have k2149597386 : Keep P 2149597386 := K.sub rfl
  have k2149675978 : Keep P 2149675978 := K.sub rfl
  have k2149704394 : Keep P 2149704394 := K.sub rfl
  unfold effCompleteServed
  repeat' (first
    | with_reducible assumption
    | (extract_lets +onlyGivenNames s'; first | (refine (fun (hs' : P s') => ?_) ?_; clear_value s'; rotate_left; subst s') | clear_value s' | skip)
    | (with_reducible apply journalCommit_keeps k2149597386)
    | (with_reducible apply releaseReader_keeps k2149675978)
    | (with_reducible apply reportBack_keeps k2149704394)
    | (with_reducible apply dropJob_keeps k512)
    | split)
theorem execCommandComplete_keeps (K : Keep P 2149708746) {j : JobRef} {s : State} {sOut : State} (hP : P s) (e : execCommandComplete j s = .next sOut) : P sOut := by
  have k2149708746 : Keep P 2149708746 := K.sub rfl
  refine ok_keeps ?_ e
  repeat' (first
    | with_reducible assumption
    | (with_reducible apply effCompleteQueue_keeps k2149708746)
    | (with_reducible apply effCompleteServed_keeps k2149708746)
    | split)
theorem effFailQueue_keeps (K : Keep P 2149606346) {s : State} {q n : Nat}  (hP : P s) : P (effFailQueue s q n) := by
  have k2149598154 : Keep P 2149598154 := K.sub rfl
  have k2149606346 : Keep P 2149606346 := K.sub rfl
  unfold effFailQueue
  repeat' (first
    | with_reducible assumption
    | (extract_lets +onlyGivenNames s'; first | (refine (fun (hs' : P s') => ?_) ?_; clear_value s'; rotate_left; subst s') | clear_value s' | skip)
    | (with_reducible apply settleQueue_keeps k2149598154)
    | (with_reducible apply failCommand_keeps k2149606346)
    | split)
theorem effFailServed_keeps (K : Keep P 2149704394) {s : State} {src ctag : Nat}  (hP : P s) : P (effFailServed s src ctag) := by
  have k512 : Keep P 512 := K.sub rfl
  have k2149704394 : Keep P 2149704394 := K.sub rfl
  unfold effFailServed
  repeat' (first
    | with_reducible assumption
    | (with_reducible apply reportBack_keeps k2149704394)
    | (with_reducible apply dropJob_keeps k512)
    | split)
theorem execCommandFail_keeps (K : Keep P 2149704650) {j : JobRef} {s : State} {sOut : State} (hP : P s) (e : execCommandFail j s = .next sOut) : P sOut := by
  have k2149606346 : Keep P 2149606346 := K.sub rfl
  have k2149704394 : Keep P 2149704394 := K.sub rfl
  refine ok_keeps ?_ e
  repeat' (first
    | with_reducible assumption
    | (with_reducible apply effFailQueue_keeps k2149606346)
    | (with_reducible apply effFailServed_keeps k2149704394)
    | split)
theorem effPartComplete_keeps (K : Keep P 512) {s : State} {ref : JobRef} {p : Nat}  (hP : P s) : P (effPartComplete s ref p) := by
  have k512 : Keep P 512 := K.sub rfl
  unfold effPartComplete
  repeat' (first
    | with_reducible assumption
    | (with_reducible apply closeJob_keeps k512)
    | (with_reducible apply putJob_keeps k512)
    | split)
theorem execPartComplete_keeps (K : Keep P 512) {j : JobRef} {p : Nat} {s : State} {sOut : State} (hP : P s) (e : execPartComplete j p s = .next sOut) : P sOut := ok_keeps (effPartComplete_keeps (K.sub rfl) hP) e
theorem effPartFail_keeps (K : Keep P 512) {s : State} {ref : JobRef} {p : Nat}  (hP : P s) : P (effPartFail s ref p) := by
  have k512 : Keep P 512 := K.sub rfl
  unfold effPartFail
  repeat' (first
    | with_reducible assumption
    | intro _
    | (extract_lets +onlyGivenNames s'; first | (refine (fun (hs' : P s') => ?_) ?_; clear_value s'; rotate_left; subst s') | clear_value s' | skip)
    | (with_reducible apply closeJob_keeps k512)
    | (with_reducible apply putJob_keeps k512)
    | split)
theorem execPartFail_keeps (K : Keep P 512) {j : JobRef} {p : Nat} {s : State} {sOut : State} (hP : P s) (e : execPartFail j p s = .next sOut) : P sOut := ok_keeps (effPartFail_keeps (K.sub rfl) hP) e
theorem effCmd_keeps (K : Keep P 2150720202) {pk : Pkt} {s : State}  (hP : P s) : P (effCmd pk s) := by
  have k65536 : Keep P 65536 := K.sub rfl
  have k1114120 : Keep P 1114120 := K.sub rfl
  have k2149597386 : Keep P 2149597386 := K.sub rfl
  have k2149671626 : Keep P 2149671626 := K.sub rfl
  unfold effCmd
  repeat' (first
    | with_reducible assumption
    | (with_reducible apply poisonedReq_keeps k1114120)
    | (with_reducible apply reply_keeps k65536)
    | (with_reducible apply serveCmd_keeps k2149671626)
    | (with_reducible apply wake_keeps k2149597386)
    | split)
theorem execCmd_keeps (K : Keep P 2150851274) {pk : Pkt} {s : State} {sOut : State} (hP : P s) (e : execCmd pk s = .next sOut) : P sOut := by
  have k131072 : Keep P 131072 := K.sub rfl
  have k2150720202 : Keep P 2150720202 := K.sub rfl
  refine ok_keeps ?_ e
  repeat' (first
    | with_reducible assumption
    | intro _
    | (extract_lets +onlyGivenNames s'; first | (refine (fun (hs' : P s') => ?_) ?_; clear_value s'; rotate_left; subst s') | (refine (fun (hs' : P s'.1) => ?_) ?_; clear_value s'; rotate_left; subst s') | (refine (fun (hs' : P s'.s) => ?_) ?_; clear_value s'; rotate_left; subst s') | (refine (fun (hs' : P s'.2) => ?_) ?_; clear_value s'; rotate_left; subst s') | (refine (fun (hs' : P s'.2.2) => ?_) ?_; clear_value s'; rotate_left; subst s') | (refine (fun (hs' : OptKeeps P s') => ?_) ?_; clear_value s'; rotate_left; subst s') | (refine (fun (hs' : ExKeeps P s') => ?_) ?_; clear_value s'; rotate_left; subst s') | (have _hs : State → _ := s'; clear _hs) | clear_value s' | skip)
    | (with_reducible apply ejected_keeps k131072)
    | (with_reducible apply effCmd_keeps k2150720202)
    | split
    | (with_reducible refine keeps_ofFst (by assumption) ?_)
    | (with_reducible refine keeps_ofSnd (by assumption) ?_)
    | (with_reducible refine keeps_ofThird (by assumption) ?_)
    | (with_reducible refine keeps_ofOpt (by assumption) ?_)
    | (with_reducible refine keeps_ofEx (by assumption) ?_)
    | (with_reducible refine keeps_ofSome (by assumption) ?_)
    | dsimp -zeta only)
theorem effRpt_keeps (K : Keep P 2150712010) {pk : Pkt} {s : State}  (hP : P s) : P (effRpt pk s) := by
  have k65536 : Keep P 65536 := K.sub rfl
  have k1114120 : Keep P 1114120 := K.sub rfl
  have k2149597898 : Keep P 2149597898 := K.sub rfl
  unfold effRpt
  repeat' (first
    | with_reducible assumption
    | (with_reducible apply poisonedReq_keeps k1114120)
    | (with_reducible apply reply_keeps k65536)
    | (with_reducible apply effReport_keeps k2149597898)
    | split)
theorem execRpt_keeps (K : Keep P 2150843082) {pk : Pkt} {s : State} {sOut : State} (hP : P s) (e : execRpt pk s = .next sOut) : P sOut := by
  have k131072 : Keep P 131072 := K.sub rfl
  have k2150712010 : Keep P 2150712010 := K.sub rfl
  refine ok_keeps ?_ e
  repeat' (first
    | with_reducible assumption
    | intro _
    | (extract_lets +onlyGivenNames s'; first | (refine (fun (hs' : P s') => ?_) ?_; clear_value s'; rotate_left; subst s') | (refine (fun (hs' : P s'.1) => ?_) ?_; clear_value s'; rotate_left; subst s') | (refine (fun (hs' : P s'.s) => ?_) ?_; clear_value s'; rotate_left; subst s') | (refine (fun (hs' : P s'.2) => ?_) ?_; clear_value s'; rotate_left; subst s') | (refine (fun (hs' : P s'.2.2) => ?_) ?_; clear_value s'; rotate_left; subst s') | (refine (fun (hs' : OptKeeps P s') => ?_) ?_; clear_value s'; rotate_left; subst s') | (refine (fun (hs' : ExKeeps P s') => ?_) ?_; clear_value s'; rotate_left; subst s') | (have _hs : State → _ := s'; clear _hs) | clear_value s' | skip)
    | (with_reducible apply ejected_keeps k131072)
    | (with_reducible apply effRpt_keeps k2150712010)
    | split
    | (with_reducible refine keeps_ofFst (by assumption) ?_)
    | (with_reducible refine keeps_ofSnd (by assumption) ?_)
    | (with_reducible refine keeps_ofThird (by assumption) ?_)
    | (with_reducible refine keeps_ofOpt (by assumption) ?_)
    | (with_reducible refine keeps_ofEx (by assumption) ?_)
    | (with_reducible refine keeps_ofSome (by assumption) ?_)
    | dsimp -zeta only)
theorem effReportTimer_keeps (K : Keep P 2149704394) {s : State} {src ctag : Nat}  (hP : P s) : P (effReportTimer s src ctag) := by
  have k512 : Keep P 512 := K.sub rfl
  have k2149704394 : Keep P 2149704394 := K.sub rfl
  unfold effReportTimer
  repeat' (first
    | with_reducible assumption
    | (with_reducible apply reportBack_keeps k2149704394)
    | (with_reducible apply putJob_keeps k512)
    | split)
theorem execPartReportTimer_keeps (K : Keep P 2149704394) {src ctag : Nat} {s : State} {sOut : State} (hP : P s) (e : execPartReportTimer src ctag s = .next sOut) : P sOut := ok_keeps (effReportTimer_keeps (K.sub rfl) hP) e
theorem effReportTimeout_keeps (K : Keep P 2149597898) {s : State} {ref : JobRef} {p : Nat}  (hP : P s) : P (effReportTimeout s ref p) := by
  have k512 : Keep P 512 := K.sub rfl
  have k2149597386 : Keep P 2149597386 := K.sub rfl
  unfold effReportTimeout
  repeat' (first
    | with_reducible assumption
    | (extract_lets +onlyGivenNames s'; first | (refine (fun (hs' : P s') => ?_) ?_; clear_value s'; rotate_left; subst s') | clear_value s' | skip)
    | (with_reducible apply reportErr_keeps k2149597386)
    | (with_reducible apply markFaulted_keeps k512)
    | split)
theorem execReportTimeout_keeps (K : Keep P 2149597898) {j : JobRef} {p : Nat} {s : State} {sOut : State} (hP : P s) (e : execReportTimeout j p s = .next sOut) : P sOut := ok_keeps (effReportTimeout_keeps (K.sub rfl) hP) e

end Sys2Proof.Machine
end

