-- ==== Sys2Proof/Laws/KeepFold.lean ====
section
/-! SUPPORT. What each operation of Machine/Fold.lean may write (Touch): a property that stands under changes of those areas stands after the
operation. The mask is the union of the areas written. -/

set_option linter.unreachableTactic false
set_option linter.unusedTactic false
set_option linter.unusedVariables false
set_option linter.tactic.unusedName false

namespace Sys2Proof.Machine

variable {P : State → Prop}

theorem issueVector_keeps (K : Keep P 1024) {s : State} {e : Nat}  (hP : P s) : P (issueVector s e) := by
  have k1024 : Keep P 1024 := K.sub rfl
  unfold issueVector
  repeat' (first
    | with_reducible assumption
    | (extract_lets +onlyGivenNames s'; first | (refine (fun (hs' : P s') => ?_) ?_; clear_value s'; rotate_left; subst s') | clear_value s' | skip)
    | (with_reducible apply putE_keeps k1024)
    | split)
theorem beginDown_keeps (K : Keep P 1024) {s : State} {e : Nat}  (hP : P s) : P (beginDown s e) := by
  have k1024 : Keep P 1024 := K.sub rfl
  unfold beginDown
  repeat' (first
    | with_reducible assumption
    | (with_reducible apply putE_keeps k1024)
    | split)
theorem nothingToIssue_keeps (K : Keep P 1024) {s : State} {e : Nat}  (hP : P s) : P (nothingToIssue s e) := by
  have k1024 : Keep P 1024 := K.sub rfl
  unfold nothingToIssue
  repeat' (first
    | with_reducible assumption
    | (with_reducible apply beginDown_keeps k1024)
    | (with_reducible apply putE_keeps k1024)
    | split)
theorem effRampUp_keeps (K : Keep P 1032) {s : State} {e : Nat}  (hP : P s) : P (effRampUp s e) := by
  have k8 : Keep P 8 := K.sub rfl
  have k1024 : Keep P 1024 := K.sub rfl
  unfold effRampUp
  repeat' (first
    | with_reducible assumption
    | (extract_lets +onlyGivenNames s'; first | (refine (fun (hs' : P s') => ?_) ?_; clear_value s'; rotate_left; subst s') | clear_value s' | skip)
    | (with_reducible apply rinc64_keeps k8)
    | (with_reducible apply putE_keeps k1024)
    | (with_reducible apply nothingToIssue_keeps k1024)
    | split)
theorem execRampUpStageEnd_keeps (K : Keep P 1032) {e : Nat} {s : State} {sOut : State} (hP : P s) (e : execRampUpStageEnd e s = .next sOut) : P sOut := ok_keeps (effRampUp_keeps (K.sub rfl) hP) e
theorem execHoldEnd_keeps (K : Keep P 1024) {e : Nat} {s : State} {sOut : State} (hP : P s) (e : execHoldEnd e s = .next sOut) : P sOut := by
  have k1024 : Keep P 1024 := K.sub rfl
  refine ok_keeps ?_ e
  repeat' (first
    | with_reducible assumption
    | (with_reducible apply beginDown_keeps k1024)
    | split)
theorem effRampDown_keeps (K : Keep P 1024) {s : State} {e : Nat}  (hP : P s) : P (effRampDown s e) := by
  have k1024 : Keep P 1024 := K.sub rfl
  unfold effRampDown
  repeat' (first
    | with_reducible assumption
    | (extract_lets +onlyGivenNames s'; first | (refine (fun (hs' : P s') => ?_) ?_; clear_value s'; rotate_left; subst s') | clear_value s' | skip)
    | (with_reducible apply putE_keeps k1024)
    | split)
theorem execRampDownStageEnd_keeps (K : Keep P 1024) {e : Nat} {s : State} {sOut : State} (hP : P s) (e : execRampDownStageEnd e s = .next sOut) : P sOut := ok_keeps (effRampDown_keeps (K.sub rfl) hP) e
theorem refreshEng_keeps (K : Keep P 2149597386) {s : State} {e : Nat}  (hP : P s) : P (refreshEng s e) := by
  have k2149597386 : Keep P 2149597386 := K.sub rfl
  unfold refreshEng
  repeat' (first
    | with_reducible assumption
    | intro _
    | (extract_lets +onlyGivenNames s'; first | (refine (fun (hs' : P s') => ?_) ?_; clear_value s'; rotate_left; subst s') | clear_value s' | skip)
    | (with_reducible apply setCode_keeps k2149597386)
    | split)
theorem setFence_keeps (K : Keep P 2149597386) {s : State} {e : Nat} {b : Bool}  (hP : P s) : P (setFence s e b) := by
  have k8 : Keep P 8 := K.sub rfl
  have k2149597386 : Keep P 2149597386 := K.sub rfl
  unfold setFence
  repeat' (first
    | with_reducible assumption
    | (with_reducible apply refreshEng_keeps k2149597386)
    | (with_reducible apply rputBit_keeps k8))
theorem effFenceEngine_keeps (K : Keep P 2149598426) {s : State} {e : Nat} {v : Word}  (hP : P s) : P (effFenceEngine s e v) := by
  have k8 : Keep P 8 := K.sub rfl
  have k16 : Keep P 16 := K.sub rfl
  have k1024 : Keep P 1024 := K.sub rfl
  have k2149597386 : Keep P 2149597386 := K.sub rfl
  unfold effFenceEngine
  repeat' (first
    | with_reducible assumption
    | (extract_lets +onlyGivenNames s'; first | (refine (fun (hs' : P s') => ?_) ?_; clear_value s'; rotate_left; subst s') | clear_value s' | skip)
    | (with_reducible apply rputBit_keeps k8)
    | (with_reducible apply shPut_keeps k16)
    | (with_reducible apply putE_keeps k1024)
    | (with_reducible apply setFence_keeps k2149597386)
    | split)
theorem execFenceEngine_keeps (K : Keep P 2149598426) {e : Nat} {v : Word} {s : State} {sOut : State} (hP : P s) (e : execFenceEngine e v s = .next sOut) : P sOut := by
  have k2149598426 : Keep P 2149598426 := K.sub rfl
  refine ok_keeps ?_ e
  repeat' (first
    | with_reducible assumption
    | (with_reducible apply effFenceEngine_keeps k2149598426)
    | split)
theorem effSelftestStart_keeps (K : Keep P 2149598410) {s : State} {e : Nat} {v : Word}  (hP : P s) : P (effSelftestStart s e v) := by
  have k8 : Keep P 8 := K.sub rfl
  have k1024 : Keep P 1024 := K.sub rfl
  have k2149597386 : Keep P 2149597386 := K.sub rfl
  unfold effSelftestStart
  repeat' (first
    | with_reducible assumption
    | (with_reducible apply refreshEng_keeps k2149597386)
    | (with_reducible apply rputBit_keeps k8)
    | (with_reducible apply putE_keeps k1024)
    | (with_reducible apply rputF_keeps k8)
    | split)
theorem execSelftestStart_keeps (K : Keep P 2149598410) {e : Nat} {v : Word} {s : State} {sOut : State} (hP : P s) (e : execSelftestStart e v s = .next sOut) : P sOut := by
  have k2149598410 : Keep P 2149598410 := K.sub rfl
  refine ok_keeps ?_ e
  repeat' (first
    | with_reducible assumption
    | (with_reducible apply effSelftestStart_keeps k2149598410)
    | split)
theorem effSelftestEnd_keeps (K : Keep P 2149598410) {s : State} {e : Nat} {failing : Option (Nat × Nat)}  (hP : P s) : P (effSelftestEnd s e failing) := by
  have k8 : Keep P 8 := K.sub rfl
  have k1024 : Keep P 1024 := K.sub rfl
  have k2149597386 : Keep P 2149597386 := K.sub rfl
  unfold effSelftestEnd
  repeat' (first
    | with_reducible assumption
    | (extract_lets +onlyGivenNames s'; first | (refine (fun (hs' : P s') => ?_) ?_; clear_value s'; rotate_left; subst s') | clear_value s' | skip)
    | (with_reducible apply rputBit_keeps k8)
    | (with_reducible apply rputF_keeps k8)
    | (with_reducible apply putE_keeps k1024)
    | (with_reducible apply setFence_keeps k2149597386)
    | (with_reducible apply refreshEng_keeps k2149597386)
    | split
    | (with_reducible refine keeps_ofFst (by assumption) ?_))
theorem execSelftestEnd_keeps (K : Keep P 2149598410) {e : Nat} {failing : Option (Nat × Nat)} {s : State} {sOut : State} (hP : P s) (e : execSelftestEnd e failing s = .next sOut) : P sOut := ok_keeps (effSelftestEnd_keeps (K.sub rfl) hP) e
theorem effMatmul_keeps (K : Keep P 1536) {s : State} {ref : JobRef} {p : Nat}  (hP : P s) : P (effMatmul s ref p) := by
  have k512 : Keep P 512 := K.sub rfl
  have k1024 : Keep P 1024 := K.sub rfl
  unfold effMatmul
  repeat' (first
    | with_reducible assumption
    | (extract_lets +onlyGivenNames s'; first | (refine (fun (hs' : P s') => ?_) ?_; clear_value s'; rotate_left; subst s') | clear_value s' | skip)
    | (with_reducible apply markWorked_keeps k512)
    | (with_reducible apply putE_keeps k1024)
    | (with_reducible apply putJob_keeps k512)
    | split)
theorem execMatmul_keeps (K : Keep P 1536) {j : JobRef} {p : Nat} {s : State} {sOut : State} (hP : P s) (e : execMatmul j p s = .next sOut) : P sOut := ok_keeps (effMatmul_keeps (K.sub rfl) hP) e
theorem putBlk_keeps (K : Keep P 1024) {s : State} {e : Nat} {y : EngBlk}  (hP : P s) : P (putBlk s e y) := by
  have k1024 : Keep P 1024 := K.sub rfl
  unfold putBlk
  repeat' (first
    | with_reducible assumption
    | intro _
    | (with_reducible apply putE_keeps k1024)
    | split)
theorem dropBlk_keeps (K : Keep P 1024) {s : State} {e : Nat} {y : EngBlk}  (hP : P s) : P (dropBlk s e y) := by
  have k1024 : Keep P 1024 := K.sub rfl
  unfold dropBlk
  repeat' (first
    | with_reducible assumption
    | intro _
    | (with_reducible apply putE_keeps k1024))
theorem pruneEngine_keeps (K : Keep P 1024) {s : State} {e : Nat}  (hP : P s) : P (pruneEngine s e) := by
  have k1024 : Keep P 1024 := K.sub rfl
  unfold pruneEngine
  repeat' (first
    | with_reducible assumption
    | intro _
    | (extract_lets +onlyGivenNames s'; first | (refine (fun (hs' : P s') => ?_) ?_; clear_value s'; rotate_left; subst s') | clear_value s' | skip)
    | (with_reducible apply putE_keeps k1024))
theorem settleEngine_keeps (K : Keep P 1024) {s : State} {e : Nat}  (hP : P s) : P (settleEngine s e) := by
  have k1024 : Keep P 1024 := K.sub rfl
  unfold settleEngine
  repeat' (first
    | with_reducible assumption
    | (with_reducible apply nothingToIssue_keeps k1024)
    | split)
theorem dropLoad_keeps (K : Keep P 1024) {s : State} {e : Nat} {ref : JobRef} {p : Nat}  (hP : P s) : P (dropLoad s e ref p) := by
  have k1024 : Keep P 1024 := K.sub rfl
  unfold dropLoad
  repeat' (first
    | with_reducible assumption
    | intro _
    | (extract_lets +onlyGivenNames s'; first | (refine (fun (hs' : P s') => ?_) ?_; clear_value s'; rotate_left; subst s') | clear_value s' | skip)
    | (with_reducible apply settleEngine_keeps k1024)
    | (with_reducible apply putE_keeps k1024))
theorem mismatch_keeps (K : Keep P 2149598922) {s : State} {e : Nat} {y : EngBlk} {j : Job} {b : OutBlk} {pass kind idx : Nat}  (hP : P s) : P (mismatch s e y j b pass kind idx) := by
  have k8 : Keep P 8 := K.sub rfl
  have k512 : Keep P 512 := K.sub rfl
  have k1024 : Keep P 1024 := K.sub rfl
  have k2149597386 : Keep P 2149597386 := K.sub rfl
  unfold mismatch
  repeat' (first
    | with_reducible assumption
    | intro _
    | (extract_lets +onlyGivenNames s'; first | (refine (fun (hs' : P s') => ?_) ?_; clear_value s'; rotate_left; subst s') | clear_value s' | skip)
    | (with_reducible apply rinc_keeps k8)
    | (with_reducible apply putE_keeps k1024)
    | (with_reducible apply reportErr_keeps k2149597386)
    | (with_reducible apply setFence_keeps k2149597386)
    | (with_reducible apply dropLoad_keeps k1024)
    | (with_reducible apply markFaulted_keeps k512)
    | split)
theorem engineUe_keeps (K : Keep P 2149598922) {s : State} {e : Nat} {ref : JobRef} {p w : Nat}  (hP : P s) : P (engineUe s e ref p w) := by
  have k512 : Keep P 512 := K.sub rfl
  have k1024 : Keep P 1024 := K.sub rfl
  have k2149597386 : Keep P 2149597386 := K.sub rfl
  unfold engineUe
  repeat' (first
    | with_reducible assumption
    | (with_reducible apply dropLoad_keeps k1024)
    | (with_reducible apply markFaulted_keeps k512)
    | (with_reducible apply reportUe_keeps k2149597386))
theorem beginBlock_keeps (K : Keep P 1024) {s : State} {e : Nat}  (hP : P s) : P (beginBlock s e) := by
  have k1024 : Keep P 1024 := K.sub rfl
  unfold beginBlock
  repeat' (first
    | with_reducible assumption
    | intro _
    | (extract_lets +onlyGivenNames s'; first | (refine (fun (hs' : P s') => ?_) ?_; clear_value s'; rotate_left; subst s') | clear_value s' | skip)
    | (with_reducible apply putE_keeps k1024)
    | split)
theorem issuePass_keeps (K : Keep P 2283816650) {s : State} {e : Nat} {y : EngBlk} {j : Job} {x : Part} {b : OutBlk}  (hP : P s) : P (issuePass s e y j x b) := by
  have k8 : Keep P 8 := K.sub rfl
  have k1024 : Keep P 1024 := K.sub rfl
  have k2149597386 : Keep P 2149597386 := K.sub rfl
  have k2149598922 : Keep P 2149598922 := K.sub rfl
  unfold issuePass
  repeat' (first
    | with_reducible assumption
    | (extract_lets +onlyGivenNames s'; first | (refine (fun (hs' : P s') => ?_) ?_; clear_value s'; rotate_left; subst s') | clear_value s' | skip)
    | (with_reducible apply engineUe_keeps k2149598922)
    | (with_reducible apply issueVector_keeps k1024)
    | (with_reducible apply noteFetches_keeps k2149597386)
    | (with_reducible apply rinc64_keeps k8)
    | (with_reducible apply putBlk_keeps k1024)
    | split
    | ((with_reducible refine Keep.mk (f := 134217728) ?_ ?_ ?_); (exact K.sub rfl); rotate_left; (exact ⟨rfl, rfl, canon_same rfl, .same rfl, .same rfl, .same rfl, ⟨.inr rfl, .inr rfl, .inr rfl, .inl rfl, .inr rfl, .inr rfl, .inr rfl, .inr rfl⟩⟩); first | with_reducible assumption))
theorem issueNext_keeps (K : Keep P 2283816650) {s : State} {e : Nat}  (hP : P s) : P (issueNext s e) := by
  have k1024 : Keep P 1024 := K.sub rfl
  have k2283816650 : Keep P 2283816650 := K.sub rfl
  unfold issueNext
  repeat' (first
    | with_reducible assumption
    | (extract_lets +onlyGivenNames s'; first | (refine (fun (hs' : P s') => ?_) ?_; clear_value s'; rotate_left; subst s') | clear_value s' | skip)
    | (with_reducible apply beginBlock_keeps k1024)
    | (with_reducible apply issuePass_keeps k2283816650)
    | split)
theorem issuePasses_keeps (K : Keep P 2283816650) {e0 : Nat} {e1 : State} {e2 : Nat}  (hP : P e1) : P (issuePasses e0 e1 e2) := by
  have k2283816650 : Keep P 2283816650 := K.sub rfl
  induction e0 generalizing e1 e2 with
  | zero =>
    unfold issuePasses
    repeat' (first
    | with_reducible assumption
    | (with_reducible apply issueNext_keeps k2283816650)
    | split)
  | succ n ih =>
    unfold issuePasses
    repeat' (first
    | (with_reducible apply ih)
    | with_reducible assumption
    | (with_reducible apply issueNext_keeps k2283816650)
    | split)
theorem completePass_keeps (K : Keep P 2149598922) {s : State} {e : Nat} {y : EngBlk} {r : PassRes} {chk : PassCheck}  (hP : P s) : P (completePass s e y r chk) := by
  have k8 : Keep P 8 := K.sub rfl
  have k1024 : Keep P 1024 := K.sub rfl
  have k2149598922 : Keep P 2149598922 := K.sub rfl
  unfold completePass
  repeat' (first
    | with_reducible assumption
    | (extract_lets +onlyGivenNames s'; first | (refine (fun (hs' : P s') => ?_) ?_; clear_value s'; rotate_left; subst s') | clear_value s' | skip)
    | (with_reducible apply rinc_keeps k8)
    | (with_reducible apply engineUe_keeps k2149598922)
    | (with_reducible apply mismatch_keeps k2149598922)
    | (with_reducible apply putBlk_keeps k1024)
    | split
    | ((with_reducible refine Keep.mk (f := 128) ?_ ?_ ?_); (exact K.sub rfl); rotate_left; (exact ⟨rfl, rfl, canon_same rfl, ⟨.inr rfl, .inr rfl, .inr rfl, .inr rfl, .inr rfl, .inr rfl, .inr rfl, .inl rfl⟩, .same rfl, .same rfl, .same rfl⟩); first | with_reducible assumption))
theorem effPass_keeps (K : Keep P 2283816650) {s : State} {e : Nat} {chk : PassCheck}  (hP : P s) : P (effPass s e chk) := by
  have k1024 : Keep P 1024 := K.sub rfl
  have k2149598922 : Keep P 2149598922 := K.sub rfl
  have k2283816650 : Keep P 2283816650 := K.sub rfl
  unfold effPass
  repeat' (first
    | with_reducible assumption
    | intro _
    | (extract_lets +onlyGivenNames s'; first | (refine (fun (hs' : P s') => ?_) ?_; clear_value s'; rotate_left; subst s') | (refine (fun (hs' : P s'.1) => ?_) ?_; clear_value s'; rotate_left; subst s') | (refine (fun (hs' : P s'.s) => ?_) ?_; clear_value s'; rotate_left; subst s') | (refine (fun (hs' : P s'.2) => ?_) ?_; clear_value s'; rotate_left; subst s') | (refine (fun (hs' : P s'.2.2) => ?_) ?_; clear_value s'; rotate_left; subst s') | (refine (fun (hs' : OptKeeps P s') => ?_) ?_; clear_value s'; rotate_left; subst s') | (refine (fun (hs' : ExKeeps P s') => ?_) ?_; clear_value s'; rotate_left; subst s') | (have _hs : State → _ := s'; clear _hs) | clear_value s' | skip)
    | (with_reducible apply pruneEngine_keeps k1024)
    | (with_reducible apply issuePasses_keeps k2283816650)
    | (with_reducible apply completePass_keeps k2149598922)
    | (with_reducible apply settleEngine_keeps k1024)
    | split
    | (with_reducible refine keeps_ofFst (by assumption) ?_)
    | (with_reducible refine keeps_ofSnd (by assumption) ?_)
    | (with_reducible refine keeps_ofThird (by assumption) ?_)
    | (with_reducible refine keeps_ofOpt (by assumption) ?_)
    | (with_reducible refine keeps_ofEx (by assumption) ?_)
    | (with_reducible refine keeps_ofSome (by assumption) ?_)
    | dsimp -zeta only)
theorem execPass_keeps (K : Keep P 2283816650) {e : Nat} {chk : PassCheck} {s : State} {sOut : State} (hP : P s) (e : execPass e chk s = .next sOut) : P sOut := ok_keeps (effPass_keeps (K.sub rfl) hP) e

end Sys2Proof.Machine
end

