-- ==== Sys2Proof/Laws/KeepDrain.lean ====
section
/-! SUPPORT. What each operation of Machine/Drain.lean may write (Touch): a property that stands under changes of those areas stands after the
operation. The mask is the union of the areas written. -/

set_option linter.unreachableTactic false
set_option linter.unusedTactic false
set_option linter.unusedVariables false
set_option linter.tactic.unusedName false

namespace Sys2Proof.Machine

variable {P : State → Prop}

theorem writesFrom_keeps (K : Keep P 0) {put : State → Nat → List Byte → State × Option Nat} {e0 : List (Nat × List Byte)} {e1 : State × Option Nat} (hf_put : ∀ (a0 : State) (a1 : Nat) (a2 : List Byte), P a0 → P (put a0 a1 a2).1) (hP : P e1.1) : P (writesFrom put e0 e1).1 := by
  induction e0 generalizing e1 with
  | nil =>
    unfold writesFrom
    repeat' (first
    | with_reducible assumption
    | (extract_lets +onlyGivenNames s'; first | (refine (fun (hs' : P s') => ?_) ?_; clear_value s'; rotate_left; subst s') | clear_value s' | skip)
    | (with_reducible apply hf_put)
    | split
    | (with_reducible refine keeps_ofFst (by assumption) ?_)
    | dsimp -zeta only)
  | cons a r ih =>
    unfold writesFrom
    repeat' (first
    | (with_reducible apply ih)
    | with_reducible assumption
    | (extract_lets +onlyGivenNames s'; first | (refine (fun (hs' : P s') => ?_) ?_; clear_value s'; rotate_left; subst s') | clear_value s' | skip)
    | (with_reducible apply hf_put)
    | split
    | (with_reducible refine keeps_ofFst (by assumption) ?_)
    | dsimp -zeta only)
theorem drainStats_keeps (K : Keep P 8) {s : State} {e : Nat} {j : Job} {d : DrainBlk} {cs : List TileCtx} {streamed : Nat}  (hP : P s) : P (drainStats s e j d cs streamed) := by
  have k8 : Keep P 8 := K.sub rfl
  unfold drainStats
  repeat' (first
    | with_reducible assumption
    | intro _
    | (extract_lets +onlyGivenNames s'; first | (refine (fun (hs' : P s') => ?_) ?_; clear_value s'; rotate_left; subst s') | clear_value s' | skip)
    | (with_reducible apply rinc_keeps k8)
    | (with_reducible apply rinc64_keeps k8)
    | (with_reducible apply setVoteIf_keeps k8)
    | split)
theorem addFree_keeps (K : Keep P 2149597386) {e n : Nat} {a dd : List Byte} {s : State} {x : Nat} {bs : List Byte}  (hP : P s) : P (addFree e n a dd s x bs).1 := by
  have k2149597386 : Keep P 2149597386 := K.sub rfl
  unfold addFree
  repeat' (first
    | with_reducible assumption
    | (with_reducible apply accumulateAs_keeps k2149597386)
    | (with_reducible refine keeps_ofFst (by assumption) ?_)
    | dsimp -zeta only)
theorem drainJournal_keeps (K : Keep P 2149597386) {s : State} {e : Nat} {j : Job} {b : OutBlk} {cs : List TileCtx} {recomp : List (Nat × Nat)}  (hP : P s) : P (drainJournal s e j b cs recomp) := by
  have k2149597386 : Keep P 2149597386 := K.sub rfl
  unfold drainJournal
  repeat' (first
    | with_reducible assumption
    | intro _
    | (extract_lets +onlyGivenNames s'; first | (refine (fun (hs' : P s') => ?_) ?_; clear_value s'; rotate_left; subst s') | clear_value s' | skip)
    | (with_reducible apply journalBlock_keeps k2149597386)
    | split
    | (with_reducible refine keeps_ofFst (by assumption) ?_))
theorem partDrained_keeps (K : Keep P 1536) {s : State} {e : Nat} {ref : JobRef} {p : Nat}  (hP : P s) : P (partDrained s e ref p) := by
  have k512 : Keep P 512 := K.sub rfl
  have k1024 : Keep P 1024 := K.sub rfl
  unfold partDrained
  repeat' (first
    | with_reducible assumption
    | intro _
    | (extract_lets +onlyGivenNames s'; first | (refine (fun (hs' : P s') => ?_) ?_; clear_value s'; rotate_left; subst s') | clear_value s' | skip)
    | (with_reducible apply putE_keeps k1024)
    | (with_reducible apply markWorked_keeps k512)
    | (with_reducible apply putJob_keeps k512)
    | split)
theorem sendOut_keeps (K : Keep P 2149705418) {e0 : Nat} {e1 : State} {e2 : Nat}  (hP : P e1) : P (sendOut e0 e1 e2) := by
  have k1024 : Keep P 1024 := K.sub rfl
  have k2149704394 : Keep P 2149704394 := K.sub rfl
  induction e0 generalizing e1 e2 with
  | zero =>
    unfold sendOut
    repeat' (first
    | with_reducible assumption
    | (with_reducible apply putE_keeps k1024)
    | (with_reducible apply request_keeps k2149704394)
    | split)
  | succ n ih =>
    unfold sendOut
    repeat' (first
    | (with_reducible apply ih)
    | with_reducible assumption
    | (with_reducible apply putE_keeps k1024)
    | (with_reducible apply request_keeps k2149704394)
    | split)
theorem sendStream_keeps (K : Keep P 2149705418) {s : State} {e : Nat} {ref : JobRef} {p : Nat} {all : List Nat} {ws : List (Nat × Nat × List Byte)}  (hP : P s) : P (sendStream s e ref p all ws) := by
  have k512 : Keep P 512 := K.sub rfl
  have k1024 : Keep P 1024 := K.sub rfl
  have k2149597386 : Keep P 2149597386 := K.sub rfl
  have k2149705418 : Keep P 2149705418 := K.sub rfl
  unfold sendStream
  repeat' (first
    | with_reducible assumption
    | intro _
    | (extract_lets +onlyGivenNames s'; first | (refine (fun (hs' : P s') => ?_) ?_; clear_value s'; rotate_left; subst s') | clear_value s' | skip)
    | (with_reducible apply putJob_keeps k512)
    | (with_reducible apply runProgress_keeps k2149597386)
    | (with_reducible apply addUnits_keeps k512)
    | (with_reducible apply putE_keeps k1024)
    | (with_reducible apply sendOut_keeps k2149705418)
    | split
    | (with_reducible refine keeps_ofFst (by assumption) ?_))
theorem releaseBlock_keeps (K : Keep P 2149705418) {s : State} {e : Nat} {y : EngBlk} {j : Job} {b : OutBlk} {d : DrainBlk} {cs : List TileCtx} {recomp : List (Nat × Nat)}  (hP : P s) : P (releaseBlock s e y j b d cs recomp) := by
  have k0 : Keep P 0 := K.sub rfl
  have k2 : Keep P 2 := K.sub rfl
  have k8 : Keep P 8 := K.sub rfl
  have k512 : Keep P 512 := K.sub rfl
  have k1024 : Keep P 1024 := K.sub rfl
  have k1536 : Keep P 1536 := K.sub rfl
  have k2149597386 : Keep P 2149597386 := K.sub rfl
  have k2149598922 : Keep P 2149598922 := K.sub rfl
  have k2149705418 : Keep P 2149705418 := K.sub rfl
  unfold releaseBlock
  repeat' (first
    | with_reducible assumption
    | intro _
    | (extract_lets +onlyGivenNames s'; first | (refine (fun (hs' : P s') => ?_) ?_; clear_value s'; rotate_left; subst s') | (refine (fun (hs' : P s'.1) => ?_) ?_; clear_value s'; rotate_left; subst s') | (refine (fun (hs' : P s'.2) => ?_) ?_; clear_value s'; rotate_left; subst s') | clear_value s' | skip)
    | (with_reducible apply takeFree_keeps k2)
    | (with_reducible apply writesFrom_keeps k0)
    | (with_reducible apply storeBytes_keeps k2149597386)
    | (with_reducible apply addFree_keeps k2149597386)
    | (with_reducible apply engineUe_keeps k2149598922)
    | (with_reducible apply drainStats_keeps k8)
    | (with_reducible apply drainJournal_keeps k2149597386)
    | (with_reducible apply dropBlk_keeps k1024)
    | (with_reducible apply sendStream_keeps k2149705418)
    | (with_reducible apply runProgress_keeps k2149597386)
    | (with_reducible apply addUnits_keeps k512)
    | (with_reducible apply settleEngine_keeps k1024)
    | (with_reducible apply partDrained_keeps k1536)
    | split
    | (with_reducible refine keeps_ofFst (by assumption) ?_)
    | (with_reducible refine keeps_ofSnd (by assumption) ?_)
    | dsimp -zeta only)
theorem drainNow_keeps (K : Keep P 2149705418) {s : State} {e : Nat} {y : EngBlk} {j : Job} {b : OutBlk}  (hP : P s) : P (drainNow s e y j b) := by
  have k8 : Keep P 8 := K.sub rfl
  have k1024 : Keep P 1024 := K.sub rfl
  have k2149597386 : Keep P 2149597386 := K.sub rfl
  have k2149598922 : Keep P 2149598922 := K.sub rfl
  have k2149705418 : Keep P 2149705418 := K.sub rfl
  unfold drainNow
  repeat' (first
    | with_reducible assumption
    | intro _
    | (extract_lets +onlyGivenNames s'; first | (refine (fun (hs' : P s') => ?_) ?_; clear_value s'; rotate_left; subst s') | clear_value s' | skip)
    | (with_reducible apply engineUe_keeps k2149598922)
    | (with_reducible apply noteReads_keeps k2149597386)
    | (with_reducible apply rinc_keeps k8)
    | (with_reducible apply putBlk_keeps k1024)
    | (with_reducible apply releaseBlock_keeps k2149705418)
    | split)
theorem effDrain_keeps (K : Keep P 2149705418) {s : State} {e : Nat} {residue : Option (Nat × Nat)}  (hP : P s) : P (effDrain s e residue) := by
  have k8 : Keep P 8 := K.sub rfl
  have k1024 : Keep P 1024 := K.sub rfl
  have k2149598922 : Keep P 2149598922 := K.sub rfl
  have k2149705418 : Keep P 2149705418 := K.sub rfl
  unfold effDrain
  repeat' (first
    | with_reducible assumption
    | (extract_lets +onlyGivenNames s'; first | (refine (fun (hs' : P s') => ?_) ?_; clear_value s'; rotate_left; subst s') | clear_value s' | skip)
    | (with_reducible apply pruneEngine_keeps k1024)
    | (with_reducible apply settleEngine_keeps k1024)
    | (with_reducible apply mismatch_keeps k2149598922)
    | (with_reducible apply rinc_keeps k8)
    | (with_reducible apply drainNow_keeps k2149705418)
    | split
    | (with_reducible refine keeps_ofFst (by assumption) ?_))
theorem execDrain_keeps (K : Keep P 2149705418) {d : DrainEvt} {s : State} {sOut : State} (hP : P s) (e : execDrain d s = .next sOut) : P sOut := ok_keeps (effDrain_keeps (K.sub rfl) hP) e
theorem effDrainResume_keeps (K : Keep P 2149705418) {s : State} {e : Nat}  (hP : P s) : P (effDrainResume s e) := by
  have k1024 : Keep P 1024 := K.sub rfl
  have k2149705418 : Keep P 2149705418 := K.sub rfl
  unfold effDrainResume
  repeat' (first
    | with_reducible assumption
    | (extract_lets +onlyGivenNames s'; first | (refine (fun (hs' : P s') => ?_) ?_; clear_value s'; rotate_left; subst s') | clear_value s' | skip)
    | (with_reducible apply pruneEngine_keeps k1024)
    | (with_reducible apply settleEngine_keeps k1024)
    | (with_reducible apply sendOut_keeps k2149705418))
theorem execDrainStreamResume_keeps (K : Keep P 2149705418) {e : Nat} {s : State} {sOut : State} (hP : P s) (e : execDrainStreamResume e s = .next sOut) : P sOut := ok_keeps (effDrainResume_keeps (K.sub rfl) hP) e

end Sys2Proof.Machine
end

