-- ==== Sys2Proof/Laws/KeepElemwise.lean ====
section
/-! SUPPORT. What each operation of Machine/Elemwise.lean may write (Touch): a property that stands under changes of those areas stands after the
operation. The mask is the union of the areas written. -/

set_option linter.unreachableTactic false
set_option linter.unusedTactic false
set_option linter.unusedVariables false
set_option linter.tactic.unusedName false

namespace Sys2Proof.Machine

variable {P : State → Prop}

theorem runUnit_keeps (K : Keep P 2149597386) {s : State} {h : Nat} {a : List Byte} {op u : Nat} {f : State → List Byte → Nat → EwRes}  (hP : P s) : P (runUnit s h a op u f).1 := by
  have k0 : Keep P 0 := K.sub rfl
  have k2149597386 : Keep P 2149597386 := K.sub rfl
  unfold runUnit
  repeat' (first
    | with_reducible assumption
    | intro _
    | (extract_lets +onlyGivenNames s'; first | (refine (fun (hs' : P s') => ?_) ?_; clear_value s'; rotate_left; subst s') | (refine (fun (hs' : P s'.1) => ?_) ?_; clear_value s'; rotate_left; subst s') | clear_value s' | skip)
    | (with_reducible apply writesFrom_keeps k0)
    | (with_reducible apply storeBytes_keeps k2149597386)
    | (with_reducible apply noteReads_keeps k2149597386)
    | (with_reducible apply foldl_keeps)
    | (with_reducible apply foldl_keeps_fst)
    | (with_reducible apply hf_f)
    | split
    | (with_reducible refine keeps_ofFst (by assumption) ?_)
    | dsimp -zeta only)
theorem runUnits_keeps (K : Keep P 2149597898) {ref : JobRef} {h : Nat} {a : List Byte} {op : Nat} {f : State → List Byte → Nat → EwRes} {e0 : List Nat} {e1 : State}  (hP : P e1) : P (runUnits ref h a op f e0 e1).1 := by
  have k2149597386 : Keep P 2149597386 := K.sub rfl
  have k2149597898 : Keep P 2149597898 := K.sub rfl
  induction e0 generalizing ref h a op e1 with
  | nil =>
    unfold runUnits
    repeat' (first
    | with_reducible assumption
    | intro _
    | (with_reducible apply runUnit_keeps k2149597386)
    | (with_reducible apply unitRetired_keeps k2149597898)
    | (with_reducible apply orFlags_keeps k2149597898)
    | (with_reducible apply hf_f)
    | split
    | (with_reducible refine keeps_ofFst (by assumption) ?_)
    | dsimp -zeta only)
  | cons a r ih =>
    unfold runUnits
    repeat' (first
    | (with_reducible apply ih)
    | with_reducible assumption
    | intro _
    | (with_reducible apply runUnit_keeps k2149597386)
    | (with_reducible apply unitRetired_keeps k2149597898)
    | (with_reducible apply orFlags_keeps k2149597898)
    | (with_reducible apply hf_f)
    | split
    | (with_reducible refine keeps_ofFst (by assumption) ?_)
    | dsimp -zeta only)
theorem effElemwise_keeps (K : Keep P 2149597898) {s : State} {ref : JobRef} {p op : Nat} {f : State → List Byte → Nat → EwRes}  (hP : P s) : P (effElemwise s ref p op f) := by
  have k512 : Keep P 512 := K.sub rfl
  have k2149597386 : Keep P 2149597386 := K.sub rfl
  have k2149597898 : Keep P 2149597898 := K.sub rfl
  unfold effElemwise
  repeat' (first
    | with_reducible assumption
    | intro _
    | (with_reducible apply runUnits_keeps k2149597898)
    | (with_reducible apply markFaulted_keeps k512)
    | (with_reducible apply reportUe_keeps k2149597386)
    | (with_reducible apply markWorked_keeps k512)
    | (with_reducible apply runProgress_keeps k2149597386)
    | (with_reducible apply hf_f)
    | split
    | (with_reducible refine keeps_ofFst (by assumption) ?_)
    | dsimp -zeta only)
theorem execElemwiseAdd_keeps (K : Keep P 2149597898) {j : JobRef} {p : Nat} {s : State} {sOut : State} (hP : P s) (e : execElemwiseAdd j p s = .next sOut) : P sOut := ok_keeps (effElemwise_keeps (K.sub rfl) hP) e
theorem execElemwiseSub_keeps (K : Keep P 2149597898) {j : JobRef} {p : Nat} {s : State} {sOut : State} (hP : P s) (e : execElemwiseSub j p s = .next sOut) : P sOut := ok_keeps (effElemwise_keeps (K.sub rfl) hP) e
theorem execElemwiseMul_keeps (K : Keep P 2149597898) {j : JobRef} {p : Nat} {s : State} {sOut : State} (hP : P s) (e : execElemwiseMul j p s = .next sOut) : P sOut := ok_keeps (effElemwise_keeps (K.sub rfl) hP) e
theorem execElemwiseDiv_keeps (K : Keep P 2149597898) {j : JobRef} {p : Nat} {s : State} {sOut : State} (hP : P s) (e : execElemwiseDiv j p s = .next sOut) : P sOut := ok_keeps (effElemwise_keeps (K.sub rfl) hP) e
theorem execElemwiseSqrt_keeps (K : Keep P 2149597898) {j : JobRef} {p : Nat} {s : State} {sOut : State} (hP : P s) (e : execElemwiseSqrt j p s = .next sOut) : P sOut := ok_keeps (effElemwise_keeps (K.sub rfl) hP) e
theorem execElemwiseFma_keeps (K : Keep P 2149597898) {j : JobRef} {p : Nat} {s : State} {sOut : State} (hP : P s) (e : execElemwiseFma j p s = .next sOut) : P sOut := ok_keeps (effElemwise_keeps (K.sub rfl) hP) e
theorem execElemwiseMin_keeps (K : Keep P 2149597898) {j : JobRef} {p : Nat} {s : State} {sOut : State} (hP : P s) (e : execElemwiseMin j p s = .next sOut) : P sOut := ok_keeps (effElemwise_keeps (K.sub rfl) hP) e
theorem execElemwiseMax_keeps (K : Keep P 2149597898) {j : JobRef} {p : Nat} {s : State} {sOut : State} (hP : P s) (e : execElemwiseMax j p s = .next sOut) : P sOut := ok_keeps (effElemwise_keeps (K.sub rfl) hP) e
theorem execElemwiseMinnum_keeps (K : Keep P 2149597898) {j : JobRef} {p : Nat} {s : State} {sOut : State} (hP : P s) (e : execElemwiseMinnum j p s = .next sOut) : P sOut := ok_keeps (effElemwise_keeps (K.sub rfl) hP) e
theorem execElemwiseMaxnum_keeps (K : Keep P 2149597898) {j : JobRef} {p : Nat} {s : State} {sOut : State} (hP : P s) (e : execElemwiseMaxnum j p s = .next sOut) : P sOut := ok_keeps (effElemwise_keeps (K.sub rfl) hP) e
theorem execCmpq_keeps (K : Keep P 2149597898) {j : JobRef} {p : Nat} {s : State} {sOut : State} (hP : P s) (e : execCmpq j p s = .next sOut) : P sOut := ok_keeps (effElemwise_keeps (K.sub rfl) hP) e
theorem execCmps_keeps (K : Keep P 2149597898) {j : JobRef} {p : Nat} {s : State} {sOut : State} (hP : P s) (e : execCmps j p s = .next sOut) : P sOut := ok_keeps (effElemwise_keeps (K.sub rfl) hP) e
theorem execCvt_keeps (K : Keep P 2149597898) {j : JobRef} {p : Nat} {s : State} {sOut : State} (hP : P s) (e : execCvt j p s = .next sOut) : P sOut := ok_keeps (effElemwise_keeps (K.sub rfl) hP) e
theorem execCvtToInt_keeps (K : Keep P 2149597898) {j : JobRef} {p : Nat} {s : State} {sOut : State} (hP : P s) (e : execCvtToInt j p s = .next sOut) : P sOut := ok_keeps (effElemwise_keeps (K.sub rfl) hP) e
theorem execCvtFromInt_keeps (K : Keep P 2149597898) {j : JobRef} {p : Nat} {s : State} {sOut : State} (hP : P s) (e : execCvtFromInt j p s = .next sOut) : P sOut := ok_keeps (effElemwise_keeps (K.sub rfl) hP) e
theorem execRoundint_keeps (K : Keep P 2149597898) {j : JobRef} {p : Nat} {s : State} {sOut : State} (hP : P s) (e : execRoundint j p s = .next sOut) : P sOut := ok_keeps (effElemwise_keeps (K.sub rfl) hP) e
theorem execAugAdd_keeps (K : Keep P 2149597898) {j : JobRef} {p : Nat} {s : State} {sOut : State} (hP : P s) (e : execAugAdd j p s = .next sOut) : P sOut := ok_keeps (effElemwise_keeps (K.sub rfl) hP) e
theorem execAugMul_keeps (K : Keep P 2149597898) {j : JobRef} {p : Nat} {s : State} {sOut : State} (hP : P s) (e : execAugMul j p s = .next sOut) : P sOut := ok_keeps (effElemwise_keeps (K.sub rfl) hP) e
theorem execClassOf_keeps (K : Keep P 2149597898) {j : JobRef} {p : Nat} {s : State} {sOut : State} (hP : P s) (e : execClassOf j p s = .next sOut) : P sOut := ok_keeps (effElemwise_keeps (K.sub rfl) hP) e
theorem execCopysign_keeps (K : Keep P 2149597898) {j : JobRef} {p : Nat} {s : State} {sOut : State} (hP : P s) (e : execCopysign j p s = .next sOut) : P sOut := ok_keeps (effElemwise_keeps (K.sub rfl) hP) e
theorem execNeg_keeps (K : Keep P 2149597898) {j : JobRef} {p : Nat} {s : State} {sOut : State} (hP : P s) (e : execNeg j p s = .next sOut) : P sOut := ok_keeps (effElemwise_keeps (K.sub rfl) hP) e
theorem execAbs_keeps (K : Keep P 2149597898) {j : JobRef} {p : Nat} {s : State} {sOut : State} (hP : P s) (e : execAbs j p s = .next sOut) : P sOut := ok_keeps (effElemwise_keeps (K.sub rfl) hP) e

end Sys2Proof.Machine
end

