-- ==== Sys2Proof/Laws/KeepKernel.lean ====
section
/-! SUPPORT. What each operation of Machine/Kernel.lean may write (Touch): a property that stands under changes of those areas stands after the
operation. The mask is the union of the areas written. -/

set_option linter.unreachableTactic false
set_option linter.unusedTactic false
set_option linter.unusedVariables false
set_option linter.tactic.unusedName false

namespace Sys2Proof.Machine

variable {P : State → Prop}

theorem putCore_keeps (K : Keep P 2048) {s : State} {h : Nat} {c : CoreRun}  (hP : P s) : P (putCore s h c) := by
  have k2048 : Keep P 2048 := K.sub rfl
  unfold putCore
  repeat' (first
    | with_reducible assumption
    | (with_reducible apply putHart_keeps k2048)
    | ((with_reducible refine Keep.mk (f := 2048) ?_ ?_ ?_); (exact K.sub rfl); rotate_left; (exact ⟨rfl, rfl, canon_of id id id id id (by first | with_reducible exact id | exact fun h => smSorted_smPut _ _ _ (smDel_no_key _ _) (smSorted_filter _ _ h)) id id id id id id id id id id id id id id id id id, .same rfl, ⟨.inr rfl, .inr rfl, .inr rfl, .inl rfl, .inr rfl, .inr rfl, .inr rfl, .inr rfl⟩, .same rfl, .same rfl⟩); first | with_reducible assumption))
theorem freeCore_keeps (K : Keep P 2048) {s : State} {h : Nat}  (hP : P s) : P (freeCore s h) := by
  have k2048 : Keep P 2048 := K.sub rfl
  unfold freeCore
  repeat' (first
    | with_reducible assumption
    | (with_reducible apply putHart_keeps k2048)
    | ((with_reducible refine Keep.mk (f := 2048) ?_ ?_ ?_); (exact K.sub rfl); rotate_left; (exact ⟨rfl, rfl, canon_of id id id id id (by first | with_reducible exact id | exact smSorted_filter _ _) id id id id id id id id id id id id id id id id id, .same rfl, ⟨.inr rfl, .inr rfl, .inr rfl, .inl rfl, .inr rfl, .inr rfl, .inr rfl, .inr rfl⟩, .same rfl, .same rfl⟩); first | with_reducible assumption))
theorem trapCore_keeps (K : Keep P 2048) {s : State} {h : Nat} {mcause mepc mtval : DWord}  (hP : P s) : P (trapCore s h mcause mepc mtval) := by
  have k2048 : Keep P 2048 := K.sub rfl
  unfold trapCore
  repeat' (first
    | with_reducible assumption
    | (with_reducible apply putHart_keeps k2048)
    | (with_reducible apply freeCore_keeps k2048))
theorem kernelFails_keeps (K : Keep P 2149597898) {s : State} {h : Nat} {c : CoreRun} {err cause pc val : Nat}  (hP : P s) : P (kernelFails s h c err cause pc val) := by
  have k512 : Keep P 512 := K.sub rfl
  have k2149597386 : Keep P 2149597386 := K.sub rfl
  unfold kernelFails
  repeat' (first
    | with_reducible assumption
    | (with_reducible apply markFaulted_keeps k512)
    | (with_reducible apply reportErr_keeps k2149597386)
    | split)
theorem kernelTraps_keeps (K : Keep P 2149599946) {s : State} {h : Nat} {c : CoreRun} {mcause mepc mtval : DWord}  (hP : P s) : P (kernelTraps s h c mcause mepc mtval) := by
  have k2048 : Keep P 2048 := K.sub rfl
  have k2149597898 : Keep P 2149597898 := K.sub rfl
  unfold kernelTraps
  repeat' (first
    | with_reducible assumption
    | (with_reducible apply kernelFails_keeps k2149597898)
    | (with_reducible apply trapCore_keeps k2048))
theorem effKernel_keeps (K : Keep P 2149599946) {s : State} {ref : JobRef} {p core : Nat}  (hP : P s) : P (effKernel s ref p core) := by
  have k512 : Keep P 512 := K.sub rfl
  have k2048 : Keep P 2048 := K.sub rfl
  have k2149597898 : Keep P 2149597898 := K.sub rfl
  unfold effKernel
  repeat' (first
    | with_reducible assumption
    | (extract_lets +onlyGivenNames s'; first | (refine (fun (hs' : P s') => ?_) ?_; clear_value s'; rotate_left; subst s') | clear_value s' | skip)
    | (with_reducible apply kernelFails_keeps k2149597898)
    | (with_reducible apply putCore_keeps k2048)
    | (with_reducible apply putJob_keeps k512)
    | split)
theorem execKernel_keeps (K : Keep P 2149599946) {j : JobRef} {p core : Nat} {s : State} {sOut : State} (hP : P s) (e : execKernel j p core s = .next sOut) : P sOut := ok_keeps (effKernel_keeps (K.sub rfl) hP) e
theorem kernelReads_keeps (K : Keep P 2149599434) {h : Nat} {k : KAccess} {s : State}  (hP : P s) : P (kernelReads h k s).1 := by
  have k2048 : Keep P 2048 := K.sub rfl
  have k2149597386 : Keep P 2149597386 := K.sub rfl
  unfold kernelReads
  repeat' (first
    | with_reducible assumption
    | intro _
    | (extract_lets +onlyGivenNames s'; first | (refine (fun (hs' : P s') => ?_) ?_; clear_value s'; rotate_left; subst s') | clear_value s' | skip)
    | (with_reducible apply noteRead_keeps k2149597386)
    | (with_reducible apply putHart_keeps k2048)
    | split
    | dsimp -zeta only)
theorem kernelAccesses_keeps (K : Keep P 2149599434) {h : Nat} {e0 : List KAccess} {e1 : State}  (hP : P e1) : P (kernelAccesses h e0 e1).1 := by
  have k2149597386 : Keep P 2149597386 := K.sub rfl
  have k2149599434 : Keep P 2149599434 := K.sub rfl
  induction e0 generalizing h e1 with
  | nil =>
    unfold kernelAccesses
    repeat' (first
    | with_reducible assumption
    | (with_reducible apply storeBytes_keeps k2149597386)
    | (with_reducible apply kernelReads_keeps k2149599434)
    | split
    | (with_reducible refine keeps_ofFst (by assumption) ?_)
    | dsimp -zeta only)
  | cons a r ih =>
    unfold kernelAccesses
    repeat' (first
    | (with_reducible apply ih)
    | with_reducible assumption
    | (with_reducible apply storeBytes_keeps k2149597386)
    | (with_reducible apply kernelReads_keeps k2149599434)
    | split
    | (with_reducible refine keeps_ofFst (by assumption) ?_)
    | dsimp -zeta only)
theorem kernelEnds_keeps (K : Keep P 2149599946) {s : State} {h : Nat} {acc : List KAccess} {go : State → CoreRun → State} (hf_go : ∀ (a0 : State) (a1 : CoreRun), P a0 → P (go a0 a1)) (hP : P s) : P (kernelEnds s h acc go) := by
  have k512 : Keep P 512 := K.sub rfl
  have k2048 : Keep P 2048 := K.sub rfl
  have k2149597386 : Keep P 2149597386 := K.sub rfl
  have k2149599434 : Keep P 2149599434 := K.sub rfl
  have k2149599946 : Keep P 2149599946 := K.sub rfl
  unfold kernelEnds
  repeat' (first
    | with_reducible assumption
    | intro _
    | (extract_lets +onlyGivenNames s'; first | (refine (fun (hs' : P s') => ?_) ?_; clear_value s'; rotate_left; subst s') | (refine (fun (hs' : P s'.1) => ?_) ?_; clear_value s'; rotate_left; subst s') | clear_value s' | skip)
    | (with_reducible apply kernelAccesses_keeps k2149599434)
    | (with_reducible apply kernelTraps_keeps k2149599946)
    | (with_reducible apply freeCore_keeps k2048)
    | (with_reducible apply markFaulted_keeps k512)
    | (with_reducible apply reportUe_keeps k2149597386)
    | (with_reducible apply hf_go)
    | split
    | (with_reducible refine keeps_ofFst (by assumption) ?_)
    | dsimp -zeta only)
theorem kernelDone_keeps (K : Keep P 2149599946) {s : State} {h : Nat} {c : CoreRun} {pc : DWord}  (hP : P s) : P (kernelDone s h c pc) := by
  have k512 : Keep P 512 := K.sub rfl
  have k2048 : Keep P 2048 := K.sub rfl
  have k2149597386 : Keep P 2149597386 := K.sub rfl
  have k2149597898 : Keep P 2149597898 := K.sub rfl
  unfold kernelDone
  repeat' (first
    | with_reducible assumption
    | (extract_lets +onlyGivenNames s'; first | (refine (fun (hs' : P s') => ?_) ?_; clear_value s'; rotate_left; subst s') | clear_value s' | skip)
    | (with_reducible apply trapCore_keeps k2048)
    | (with_reducible apply markWorked_keeps k512)
    | (with_reducible apply runProgress_keeps k2149597386)
    | (with_reducible apply unitRetired_keeps k2149597898)
    | split)
theorem execKernelEcall_keeps (K : Keep P 2149599946) {core : Nat} {a7 : DWord} {k : KEnd} {s : State} {sOut : State} (hP : P s) (e : execKernelEcall core a7 k s = .next sOut) : P sOut := by
  have k2149599946 : Keep P 2149599946 := K.sub rfl
  refine ok_keeps ?_ e
  repeat' (first
    | with_reducible assumption
    | intro _
    | (with_reducible apply kernelEnds_keeps k2149599946)
    | (with_reducible apply kernelDone_keeps k2149599946)
    | (with_reducible apply kernelTraps_keeps k2149599946)
    | split)
theorem execKernelFault_keeps (K : Keep P 2149599946) {core : Nat} {mcause mepc mtval : DWord} {acc : List KAccess} {s : State} {sOut : State} (hP : P s) (e : execKernelFault core mcause mepc mtval acc s = .next sOut) : P sOut := by
  have k2149599946 : Keep P 2149599946 := K.sub rfl
  refine ok_keeps ?_ e
  repeat' (first
    | with_reducible assumption
    | intro _
    | (with_reducible apply kernelEnds_keeps k2149599946)
    | (with_reducible apply kernelTraps_keeps k2149599946))
theorem effKernelTimeout_keeps (K : Keep P 2149599946) {s : State} {core : Nat} {pc : DWord} {acc : List KAccess}  (hP : P s) : P (effKernelTimeout s core pc acc) := by
  have k2048 : Keep P 2048 := K.sub rfl
  have k2149597898 : Keep P 2149597898 := K.sub rfl
  have k2149599946 : Keep P 2149599946 := K.sub rfl
  unfold effKernelTimeout
  repeat' (first
    | with_reducible assumption
    | intro _
    | (with_reducible apply kernelEnds_keeps k2149599946)
    | (with_reducible apply kernelFails_keeps k2149597898)
    | (with_reducible apply putHart_keeps k2048)
    | (with_reducible apply freeCore_keeps k2048)
    | split)
theorem execKernelTimeout_keeps (K : Keep P 2149599946) {core : Nat} {k : KEnd} {s : State} {sOut : State} (hP : P s) (e : execKernelTimeout core k s = .next sOut) : P sOut := ok_keeps (effKernelTimeout_keeps (K.sub rfl) hP) e
theorem dropLines_keeps (K : Keep P 2048) {s : State} {fl : Nat}  (hP : P s) : P (dropLines s fl) := by
  have k2048 : Keep P 2048 := K.sub rfl
  unfold dropLines
  repeat' (first
    | with_reducible assumption
    | intro _
    | (with_reducible apply putHart_keeps k2048)
    | (with_reducible apply foldl_keeps))
theorem effFence_keeps (K : Keep P 2560) {s : State} {ref : JobRef} {p var : Nat}  (hP : P s) : P (effFence s ref p var) := by
  have k512 : Keep P 512 := K.sub rfl
  have k2048 : Keep P 2048 := K.sub rfl
  unfold effFence
  repeat' (first
    | with_reducible assumption
    | (with_reducible apply markWorked_keeps k512)
    | (with_reducible apply dropLines_keeps k2048)
    | split)
theorem execFenceQueue_keeps (K : Keep P 2560) {j : JobRef} {p : Nat} {s : State} {sOut : State} (hP : P s) (e : execFenceQueue j p s = .next sOut) : P sOut := ok_keeps (effFence_keeps (K.sub rfl) hP) e
theorem execFenceIcache_keeps (K : Keep P 2560) {j : JobRef} {p : Nat} {s : State} {sOut : State} (hP : P s) (e : execFenceIcache j p s = .next sOut) : P sOut := ok_keeps (effFence_keeps (K.sub rfl) hP) e

end Sys2Proof.Machine
end

