-- ==== Sys2Proof/Laws/KeepDma.lean ====
section
/-! SUPPORT. What each operation of Machine/Dma.lean may write (Touch): a property that stands under changes of those areas stands after the
operation. The mask is the union of the areas written. -/

set_option linter.unreachableTactic false
set_option linter.unusedTactic false
set_option linter.unusedVariables false
set_option linter.tactic.unusedName false

namespace Sys2Proof.Machine

variable {P : State → Prop}

theorem localUnit_keeps (K : Keep P 2149597386) {acc : Bool} {m : MemSource} {a : List Byte} {u : Nat} {s : State}  (hP : P s) : P (localUnit acc m a u s).1 := by
  have k2149597386 : Keep P 2149597386 := K.sub rfl
  unfold localUnit
  repeat' (first
    | with_reducible assumption
    | (extract_lets +onlyGivenNames s'; first | (refine (fun (hs' : P s') => ?_) ?_; clear_value s'; rotate_left; subst s') | (refine (fun (hs' : P s'.1) => ?_) ?_; clear_value s'; rotate_left; subst s') | clear_value s' | skip)
    | (with_reducible apply noteRead_keeps k2149597386)
    | (with_reducible apply accumulateAs_keeps k2149597386)
    | (with_reducible apply storeUndef_keeps k2149597386)
    | (with_reducible apply accumulate_keeps k2149597386)
    | (with_reducible apply storeBytes_keeps k2149597386)
    | split
    | (with_reducible refine keeps_ofFst (by assumption) ?_)
    | dsimp -zeta only)
theorem localUnits_keeps (K : Keep P 2149597898) {acc : Bool} {ref : JobRef} {fl : Nat} {a : List Byte} {e0 : List Nat} {e1 : State}  (hP : P e1) : P (localUnits acc ref fl a e0 e1).1 := by
  have k8 : Keep P 8 := K.sub rfl
  have k2149597386 : Keep P 2149597386 := K.sub rfl
  have k2149597898 : Keep P 2149597898 := K.sub rfl
  induction e0 generalizing acc ref fl a e1 with
  | nil =>
    unfold localUnits
    repeat' (first
    | with_reducible assumption
    | (with_reducible apply localUnit_keeps k2149597386)
    | (with_reducible apply unitRetired_keeps k2149597898)
    | (with_reducible apply rinc64_keeps k8)
    | split
    | (with_reducible refine keeps_ofFst (by assumption) ?_)
    | dsimp -zeta only)
  | cons a r ih =>
    unfold localUnits
    repeat' (first
    | (with_reducible apply ih)
    | with_reducible assumption
    | (with_reducible apply localUnit_keeps k2149597386)
    | (with_reducible apply unitRetired_keeps k2149597898)
    | (with_reducible apply rinc64_keeps k8)
    | split
    | (with_reducible refine keeps_ofFst (by assumption) ?_)
    | dsimp -zeta only)
theorem effLocalCopy_keeps (K : Keep P 2149597898) {s : State} {ref : JobRef} {p fam : Nat}  (hP : P s) : P (effLocalCopy s ref p fam) := by
  have k512 : Keep P 512 := K.sub rfl
  have k2149597386 : Keep P 2149597386 := K.sub rfl
  have k2149597898 : Keep P 2149597898 := K.sub rfl
  unfold effLocalCopy
  repeat' (first
    | with_reducible assumption
    | (with_reducible apply localUnits_keeps k2149597898)
    | (with_reducible apply markFaulted_keeps k512)
    | (with_reducible apply reportUe_keeps k2149597386)
    | (with_reducible apply markWorked_keeps k512)
    | (with_reducible apply runProgress_keeps k2149597386)
    | split
    | (with_reducible refine keeps_ofFst (by assumption) ?_)
    | dsimp -zeta only)
theorem execDmaCopyLocal_keeps (K : Keep P 2149597898) {j : JobRef} {p : Nat} {s : State} {sOut : State} (hP : P s) (e : execDmaCopyLocal j p s = .next sOut) : P sOut := ok_keeps (effLocalCopy_keeps (K.sub rfl) hP) e
theorem execAccumWriteLocal_keeps (K : Keep P 2149597898) {j : JobRef} {p : Nat} {s : State} {sOut : State} (hP : P s) (e : execAccumWriteLocal j p s = .next sOut) : P sOut := ok_keeps (effLocalCopy_keeps (K.sub rfl) hP) e
theorem effRemoteCopy_keeps (K : Keep P 2149704394) {s : State} {ref : JobRef} {p fam var : Nat}  (hP : P s) : P (effRemoteCopy s ref p fam var) := by
  have k2149704394 : Keep P 2149704394 := K.sub rfl
  unfold effRemoteCopy
  repeat' (first
    | with_reducible assumption
    | (with_reducible apply issueUnits_keeps k2149704394)
    | split)
theorem execDmaCopyRemoteWrite_keeps (K : Keep P 2149704394) {j : JobRef} {p : Nat} {s : State} {sOut : State} (hP : P s) (e : execDmaCopyRemoteWrite j p s = .next sOut) : P sOut := ok_keeps (effRemoteCopy_keeps (K.sub rfl) hP) e
theorem execDmaCopyRemoteRead_keeps (K : Keep P 2149704394) {j : JobRef} {p : Nat} {s : State} {sOut : State} (hP : P s) (e : execDmaCopyRemoteRead j p s = .next sOut) : P sOut := ok_keeps (effRemoteCopy_keeps (K.sub rfl) hP) e
theorem execAccumWriteRemote_keeps (K : Keep P 2149704394) {j : JobRef} {p : Nat} {s : State} {sOut : State} (hP : P s) (e : execAccumWriteRemote j p s = .next sOut) : P sOut := ok_keeps (effRemoteCopy_keeps (K.sub rfl) hP) e
theorem putH_keeps (K : Keep P 4194304) {s : State} {w : Nat} {h : HostWin}  (hP : P s) : P (putH s w h) := by
  unfold putH
  repeat' (first
    | with_reducible assumption
    | ((with_reducible refine Keep.mk (f := 4194304) ?_ ?_ ?_); (exact K.sub rfl); rotate_left; (exact ⟨rfl, rfl, canon_of id id id id id id id id id (by first | with_reducible exact id | exact smWf_smSet _ _ _ _) id id id id id id id id id id id id id, .same rfl, .same rfl, ⟨.inr rfl, .inr rfl, .inr rfl, .inr rfl, .inr rfl, .inr rfl, .inl rfl, .inr rfl⟩, .same rfl⟩); first | with_reducible assumption))
theorem sendRoce_keeps (K : Keep P 2147483656) {s : State} {w : Nat} {q : HostReq}  (hP : P s) : P (sendRoce s w q) := by
  have k8 : Keep P 8 := K.sub rfl
  have k2147483648 : Keep P 2147483648 := K.sub rfl
  unfold sendRoce
  repeat' (first
    | with_reducible assumption
    | (extract_lets +onlyGivenNames s'; first | (refine (fun (hs' : P s') => ?_) ?_; clear_value s'; rotate_left; subst s') | clear_value s' | skip)
    | (with_reducible apply emit_keeps k2147483648)
    | (with_reducible apply ethSent_keeps k8)
    | split)
theorem addHostReq_keeps (K : Keep P 2151686152) {s : State} {w : Nat} {q : HostReq}  (hP : P s) : P (addHostReq s w q) := by
  have k4194304 : Keep P 4194304 := K.sub rfl
  have k2147483656 : Keep P 2147483656 := K.sub rfl
  unfold addHostReq
  repeat' (first
    | with_reducible assumption
    | (extract_lets +onlyGivenNames s'; first | (refine (fun (hs' : P s') => ?_) ?_; clear_value s'; rotate_left; subst s') | clear_value s' | skip)
    | (with_reducible apply sendRoce_keeps k2147483656)
    | (with_reducible apply putH_keeps k4194304)
    | ((with_reducible refine Keep.mk (f := 8192) ?_ ?_ ?_); (exact K.sub rfl); rotate_left; (exact ⟨rfl, rfl, canon_same rfl, .same rfl, ⟨.inr rfl, .inr rfl, .inr rfl, .inr rfl, .inr rfl, .inl rfl, .inr rfl, .inr rfl⟩, .same rfl, .same rfl⟩); first | with_reducible assumption))
theorem breakWindow_keeps (K : Keep P 4194312) {s : State} {w : Nat}  (hP : P s) : P (breakWindow s w) := by
  have k8 : Keep P 8 := K.sub rfl
  have k4194304 : Keep P 4194304 := K.sub rfl
  unfold breakWindow
  repeat' (first
    | with_reducible assumption
    | (with_reducible apply rputBit_keeps k8)
    | (with_reducible apply putH_keeps k4194304))
theorem hostFailed_keeps (K : Keep P 2149597898) {s : State} {w : Nat} {ref : JobRef} {p : Nat}  (hP : P s) : P (hostFailed s w ref p) := by
  have k512 : Keep P 512 := K.sub rfl
  have k2149597386 : Keep P 2149597386 := K.sub rfl
  unfold hostFailed
  repeat' (first
    | with_reducible assumption
    | intro _
    | (extract_lets +onlyGivenNames s'; first | (refine (fun (hs' : P s') => ?_) ?_; clear_value s'; rotate_left; subst s') | clear_value s' | skip)
    | (with_reducible apply reportErr_keeps k2149597386)
    | (with_reducible apply markFaulted_keeps k512)
    | split)
theorem issueHost_keeps (K : Keep P 2153800394) {e0 : Nat} {e1 : State} {e2 : JobRef} {e3 : Nat}  (hP : P e1) : P (issueHost e0 e1 e2 e3) := by
  have k8 : Keep P 8 := K.sub rfl
  have k512 : Keep P 512 := K.sub rfl
  have k4194312 : Keep P 4194312 := K.sub rfl
  have k2149597386 : Keep P 2149597386 := K.sub rfl
  have k2149597898 : Keep P 2149597898 := K.sub rfl
  have k2151686152 : Keep P 2151686152 := K.sub rfl
  induction e0 generalizing e1 e2 e3 with
  | zero =>
    unfold issueHost
    repeat' (first
    | with_reducible assumption
    | (extract_lets +onlyGivenNames s'; first | (refine (fun (hs' : P s') => ?_) ?_; clear_value s'; rotate_left; subst s') | clear_value s' | skip)
    | (with_reducible apply hostFailed_keeps k2149597898)
    | (with_reducible apply breakWindow_keeps k4194312)
    | (with_reducible apply markFaulted_keeps k512)
    | (with_reducible apply reportUe_keeps k2149597386)
    | (with_reducible apply putJob_keeps k512)
    | (with_reducible apply noteRead_keeps k2149597386)
    | (with_reducible apply addHostReq_keeps k2151686152)
    | (with_reducible apply rinc64_keeps k8)
    | split)
  | succ n ih =>
    unfold issueHost
    repeat' (first
    | (with_reducible apply ih)
    | with_reducible assumption
    | (extract_lets +onlyGivenNames s'; first | (refine (fun (hs' : P s') => ?_) ?_; clear_value s'; rotate_left; subst s') | clear_value s' | skip)
    | (with_reducible apply hostFailed_keeps k2149597898)
    | (with_reducible apply breakWindow_keeps k4194312)
    | (with_reducible apply markFaulted_keeps k512)
    | (with_reducible apply reportUe_keeps k2149597386)
    | (with_reducible apply putJob_keeps k512)
    | (with_reducible apply noteRead_keeps k2149597386)
    | (with_reducible apply addHostReq_keeps k2151686152)
    | (with_reducible apply rinc64_keeps k8)
    | split)
theorem effHostCopy_keeps (K : Keep P 2153800394) {s : State} {ref : JobRef} {p : Nat}  (hP : P s) : P (effHostCopy s ref p) := by
  have k2153800394 : Keep P 2153800394 := K.sub rfl
  unfold effHostCopy
  repeat' (first
    | with_reducible assumption
    | (with_reducible apply issueHost_keeps k2153800394)
    | split)
theorem execDmaCopyHost_keeps (K : Keep P 2153800394) {j : JobRef} {p : Nat} {s : State} {sOut : State} (hP : P s) (e : execDmaCopyHost j p s = .next sOut) : P sOut := ok_keeps (effHostCopy_keeps (K.sub rfl) hP) e
theorem hostUnitDone_keeps (K : Keep P 2153800394) {s : State} {ref : JobRef} {p u : Nat}  (hP : P s) : P (hostUnitDone s ref p u) := by
  have k512 : Keep P 512 := K.sub rfl
  have k2149597898 : Keep P 2149597898 := K.sub rfl
  have k2153800394 : Keep P 2153800394 := K.sub rfl
  unfold hostUnitDone
  repeat' (first
    | with_reducible assumption
    | (extract_lets +onlyGivenNames s'; first | (refine (fun (hs' : P s') => ?_) ?_; clear_value s'; rotate_left; subst s') | clear_value s' | skip)
    | (with_reducible apply unitRetired_keeps k2149597898)
    | (with_reducible apply putJob_keeps k512)
    | (with_reducible apply issueHost_keeps k2153800394)
    | (with_reducible apply markWorked_keeps k512)
    | split)
theorem hostCopyAck_keeps (K : Keep P 2153800394) {s : State} {q : HostReq} {bytes : List Byte}  (hP : P s) : P (hostCopyAck s q bytes) := by
  have k512 : Keep P 512 := K.sub rfl
  have k2149597386 : Keep P 2149597386 := K.sub rfl
  have k2153800394 : Keep P 2153800394 := K.sub rfl
  unfold hostCopyAck
  repeat' (first
    | with_reducible assumption
    | (with_reducible apply storeBytes_keeps k2149597386)
    | (with_reducible apply markFaulted_keeps k512)
    | (with_reducible apply reportUe_keeps k2149597386)
    | (with_reducible apply hostUnitDone_keeps k2153800394)
    | split
    | (with_reducible refine keeps_ofFst (by assumption) ?_)
    | dsimp -zeta only)

end Sys2Proof.Machine
end

