-- ==== Sys2Proof/Laws/KeepFirnRows.lean ====
section
/-! SUPPORT. What each operation of Machine/FirnRows.lean may write (Touch): a property that stands under changes of those areas stands after the
operation. The mask is the union of the areas written. -/

set_option linter.unreachableTactic false
set_option linter.unusedTactic false
set_option linter.unusedVariables false
set_option linter.tactic.unusedName false

namespace Sys2Proof.Machine

variable {P : State → Prop}

theorem encodeBlock_keeps (K : Keep P 192) {s : State} {n b : Nat}  (hP : P s) : P (encodeBlock s n b) := by
  have k128 : Keep P 128 := K.sub rfl
  have k192 : Keep P 192 := K.sub rfl
  unfold encodeBlock
  repeat' (first
    | with_reducible assumption
    | (extract_lets +onlyGivenNames s'; first | (refine (fun (hs' : P s') => ?_) ?_; clear_value s'; rotate_left; subst s') | clear_value s' | skip)
    | (with_reducible apply codeSlot_keeps k192)
    | (with_reducible apply holdFor_keeps k128)
    | split)
theorem encodeDomain_keeps (K : Keep P 192) {s : State} {n d : Nat}  (hP : P s) : P (encodeDomain s n d) := by
  have k192 : Keep P 192 := K.sub rfl
  unfold encodeDomain
  repeat' (first
    | with_reducible assumption
    | intro _
    | (with_reducible apply encodeBlock_keeps k192)
    | (with_reducible apply foldl_keeps))
theorem sealFully_keeps (K : Keep P 200) {s : State} {n d : Nat}  (hP : P s) : P (sealFully s n d) := by
  have k192 : Keep P 192 := K.sub rfl
  have k200 : Keep P 200 := K.sub rfl
  unfold sealFully
  repeat' (first
    | with_reducible assumption
    | (with_reducible apply encodeDomain_keeps k192)
    | (with_reducible apply sealDomain_keeps k200)
    | split)
theorem rebuildHist_keeps (K : Keep P 192) {s : State} {n d : Nat}  (hP : P s) : P (rebuildHist s n d) := putMeta_keeps (K.sub rfl) hP
theorem relearn_keeps (K : Keep P 200) {s : State} {n d : Nat}  (hP : P s) : P (relearn s n d) := by
  have k8 : Keep P 8 := K.sub rfl
  have k64 : Keep P 64 := K.sub rfl
  have k192 : Keep P 192 := K.sub rfl
  unfold relearn
  repeat' (first
    | with_reducible assumption
    | (extract_lets +onlyGivenNames s'; first | (refine (fun (hs' : P s') => ?_) ?_; clear_value s'; rotate_left; subst s') | clear_value s' | skip)
    | (with_reducible apply rebuildHist_keeps k192)
    | (with_reducible apply putMeta_keeps k192)
    | (with_reducible apply frCodedAdd_keeps k8)
    | (with_reducible apply encodeDomain_keeps k192)
    | (with_reducible apply putBytes_keeps k64)
    | split)
theorem cureMeta_keeps (K : Keep P 128) {s : State} {n d : Nat}  (hP : P s) : P (cureMeta s n d) := by
  have k128 : Keep P 128 := K.sub rfl
  unfold cureMeta
  repeat' (first
    | with_reducible assumption
    | intro _
    | (extract_lets +onlyGivenNames s'; first | (refine (fun (hs' : P s') => ?_) ?_; clear_value s'; rotate_left; subst s') | (refine (fun (hs' : P s'.1) => ?_) ?_; clear_value s'; rotate_left; subst s') | (refine (fun (hs' : P s'.s) => ?_) ?_; clear_value s'; rotate_left; subst s') | (refine (fun (hs' : P s'.2) => ?_) ?_; clear_value s'; rotate_left; subst s') | (refine (fun (hs' : P s'.2.2) => ?_) ?_; clear_value s'; rotate_left; subst s') | (refine (fun (hs' : OptKeeps P s') => ?_) ?_; clear_value s'; rotate_left; subst s') | (refine (fun (hs' : ExKeeps P s') => ?_) ?_; clear_value s'; rotate_left; subst s') | (have _hs : State → _ := s'; clear _hs) | clear_value s' | skip)
    | (with_reducible apply cureWords_keeps k128)
    | split
    | (with_reducible refine keeps_ofFst (by assumption) ?_)
    | (with_reducible refine keeps_ofSnd (by assumption) ?_)
    | (with_reducible refine keeps_ofThird (by assumption) ?_)
    | (with_reducible refine keeps_ofOpt (by assumption) ?_)
    | (with_reducible refine keeps_ofEx (by assumption) ?_)
    | (with_reducible refine keeps_ofSome (by assumption) ?_)
    | dsimp -zeta only)
theorem discard_keeps (K : Keep P 200) {s : State} {n d : Nat}  (hP : P s) : P (discard s n d) := by
  have k8 : Keep P 8 := K.sub rfl
  have k64 : Keep P 64 := K.sub rfl
  have k128 : Keep P 128 := K.sub rfl
  have k192 : Keep P 192 := K.sub rfl
  unfold discard
  repeat' (first
    | with_reducible assumption
    | intro _
    | (extract_lets +onlyGivenNames s'; first | (refine (fun (hs' : P s') => ?_) ?_; clear_value s'; rotate_left; subst s') | clear_value s' | skip)
    | (with_reducible apply voidSlot_keeps k192)
    | (with_reducible apply cureMeta_keeps k128)
    | (with_reducible apply frCodedAdd_keeps k8)
    | (with_reducible apply putBytes_keeps k64)
    | (with_reducible apply foldl_keeps)
    | split)
theorem exportDomain_keeps (K : Keep P 2149597386) {n : Nat} {a : List Byte} {s : State} {d pos : Nat}  (hP : P s) : P (exportDomain n a s d pos).1 := by
  have k2149597386 : Keep P 2149597386 := K.sub rfl
  unfold exportDomain
  repeat' (first
    | with_reducible assumption
    | (extract_lets +onlyGivenNames s'; first | (refine (fun (hs' : P s') => ?_) ?_; clear_value s'; rotate_left; subst s') | (refine (fun (hs' : P s'.1) => ?_) ?_; clear_value s'; rotate_left; subst s') | clear_value s' | skip)
    | (with_reducible apply storeBytes_keeps k2149597386)
    | split
    | (with_reducible refine keeps_ofFst (by assumption) ?_)
    | dsimp -zeta only)
theorem importBlocks_keeps (K : Keep P 192) {n : Nat} {t : FirnTables} {img : Nat} {e0 : List (Nat × Nat)} {e1 : State} {e2 : Nat}  (hP : P e1) : P (importBlocks n t img e0 e1 e2).1 := by
  have k64 : Keep P 64 := K.sub rfl
  have k192 : Keep P 192 := K.sub rfl
  induction e0 generalizing n t img e1 e2 with
  | nil =>
    unfold importBlocks
    repeat' (first
    | with_reducible assumption
    | (extract_lets +onlyGivenNames s'; first | (refine (fun (hs' : P s') => ?_) ?_; clear_value s'; rotate_left; subst s') | clear_value s' | skip)
    | (with_reducible apply voidSlot_keeps k192)
    | (with_reducible apply putBytes_keeps k64)
    | (with_reducible apply putSlot_keeps k192)
    | split
    | dsimp -zeta only)
  | cons a r ih =>
    unfold importBlocks
    repeat' (first
    | (with_reducible apply ih)
    | with_reducible assumption
    | (extract_lets +onlyGivenNames s'; first | (refine (fun (hs' : P s') => ?_) ?_; clear_value s'; rotate_left; subst s') | clear_value s' | skip)
    | (with_reducible apply voidSlot_keeps k192)
    | (with_reducible apply putBytes_keeps k64)
    | (with_reducible apply putSlot_keeps k192)
    | split
    | dsimp -zeta only)
theorem importDomain_keeps (K : Keep P 2149597386) {n : Nat} {a : List Byte} {s : State} {d pos : Nat}  (hP : P s) : P (importDomain n a s d pos).1 := by
  have k8 : Keep P 8 := K.sub rfl
  have k64 : Keep P 64 := K.sub rfl
  have k128 : Keep P 128 := K.sub rfl
  have k192 : Keep P 192 := K.sub rfl
  have k200 : Keep P 200 := K.sub rfl
  have k2149597386 : Keep P 2149597386 := K.sub rfl
  unfold importDomain
  repeat' (first
    | with_reducible assumption
    | intro _
    | (extract_lets +onlyGivenNames s'; first | (refine (fun (hs' : P s') => ?_) ?_; clear_value s'; rotate_left; subst s') | (refine (fun (hs' : P s'.1) => ?_) ?_; clear_value s'; rotate_left; subst s') | clear_value s' | skip)
    | (with_reducible apply cureMeta_keeps k128)
    | (with_reducible apply noteRead_keeps k2149597386)
    | (with_reducible apply importBlocks_keeps k192)
    | (with_reducible apply putBytes_keeps k64)
    | (with_reducible apply putMeta_keeps k192)
    | (with_reducible apply frCodedAdd_keeps k8)
    | (with_reducible apply autoSeal_keeps k200)
    | (with_reducible apply rebuildHist_keeps k192)
    | (with_reducible apply foldl_keeps)
    | (with_reducible apply foldl_keeps_fst)
    | split
    | (with_reducible refine keeps_ofFst (by assumption) ?_)
    | dsimp -zeta only)
theorem packDomain_keeps (K : Keep P 2149597386) {var n : Nat} {a : List Byte} {s : State} {d pos : Nat}  (hP : P s) : P (packDomain var n a s d pos).1 := by
  have k200 : Keep P 200 := K.sub rfl
  have k2149597386 : Keep P 2149597386 := K.sub rfl
  unfold packDomain
  repeat' (first
    | with_reducible assumption
    | intro _
    | (extract_lets +onlyGivenNames s'; first | (refine (fun (hs' : P s') => ?_) ?_; clear_value s'; rotate_left; subst s') | (refine (fun (hs' : P s'.1) => ?_) ?_; clear_value s'; rotate_left; subst s') | clear_value s' | skip)
    | (with_reducible apply noteReads_keeps k2149597386)
    | (with_reducible apply sealFully_keeps k200)
    | (with_reducible apply relearn_keeps k200)
    | (with_reducible apply exportDomain_keeps k2149597386)
    | (with_reducible apply importDomain_keeps k2149597386)
    | (with_reducible apply discard_keeps k200)
    | split
    | (with_reducible refine keeps_ofFst (by assumption) ?_)
    | dsimp -zeta only)
theorem packFrom_keeps (K : Keep P 2149597898) {ref : JobRef} {var n : Nat} {a : List Byte} {e0 : List Nat} {e1 : State} {e2 : Nat}  (hP : P e1) : P (packFrom ref var n a e0 e1 e2).1 := by
  have k2149597386 : Keep P 2149597386 := K.sub rfl
  have k2149597898 : Keep P 2149597898 := K.sub rfl
  induction e0 generalizing ref var n a e1 e2 with
  | nil =>
    unfold packFrom
    repeat' (first
    | with_reducible assumption
    | (with_reducible apply packDomain_keeps k2149597386)
    | (with_reducible apply unitRetired_keeps k2149597898)
    | split
    | (with_reducible refine keeps_ofFst (by assumption) ?_)
    | dsimp -zeta only)
  | cons a r ih =>
    unfold packFrom
    repeat' (first
    | (with_reducible apply ih)
    | with_reducible assumption
    | (with_reducible apply packDomain_keeps k2149597386)
    | (with_reducible apply unitRetired_keeps k2149597898)
    | split
    | (with_reducible refine keeps_ofFst (by assumption) ?_)
    | dsimp -zeta only)
theorem reportCorrupt_keeps (K : Keep P 2149597386) {s : State} {a requester : Nat} {cmd : Option CmdName}  (hP : P s) : P (reportCorrupt s a requester cmd) := reportErr_keeps (K.sub rfl) hP
theorem packFails_keeps (K : Keep P 2149597898) {s : State} {ref : JobRef} {p : Nat} {x : Part} {a : List Byte} {e : PackEnd}  (hP : P s) : P (packFails s ref p x a e) := by
  have k512 : Keep P 512 := K.sub rfl
  have k2149597386 : Keep P 2149597386 := K.sub rfl
  unfold packFails
  repeat' (first
    | with_reducible assumption
    | (with_reducible apply markFaulted_keeps k512)
    | (with_reducible apply reportUe_keeps k2149597386)
    | (with_reducible apply reportCorrupt_keeps k2149597386)
    | (with_reducible apply reportErr_keeps k2149597386)
    | (with_reducible apply markWorked_keeps k512)
    | (with_reducible apply runProgress_keeps k2149597386)
    | split)
theorem effPack_keeps (K : Keep P 2149597898) {s : State} {ref : JobRef} {p var : Nat}  (hP : P s) : P (effPack s ref p var) := by
  have k2149597386 : Keep P 2149597386 := K.sub rfl
  have k2149597898 : Keep P 2149597898 := K.sub rfl
  unfold effPack
  repeat' (first
    | with_reducible assumption
    | (extract_lets +onlyGivenNames s'; first | (refine (fun (hs' : P s') => ?_) ?_; clear_value s'; rotate_left; subst s') | (refine (fun (hs' : P s'.1) => ?_) ?_; clear_value s'; rotate_left; subst s') | clear_value s' | skip)
    | (with_reducible apply packFails_keeps k2149597898)
    | (with_reducible apply packFrom_keeps k2149597898)
    | (with_reducible apply noteRead_keeps k2149597386)
    | (with_reducible apply storeBytes_keeps k2149597386)
    | split
    | (with_reducible refine keeps_ofFst (by assumption) ?_)
    | dsimp -zeta only)
theorem execFirnSeal_keeps (K : Keep P 2149597898) {j : JobRef} {p : Nat} {s : State} {sOut : State} (hP : P s) (e : execFirnSeal j p s = .next sOut) : P sOut := ok_keeps (effPack_keeps (K.sub rfl) hP) e
theorem execFirnRelearn_keeps (K : Keep P 2149597898) {j : JobRef} {p : Nat} {s : State} {sOut : State} (hP : P s) (e : execFirnRelearn j p s = .next sOut) : P sOut := ok_keeps (effPack_keeps (K.sub rfl) hP) e
theorem execFirnExport_keeps (K : Keep P 2149597898) {j : JobRef} {p : Nat} {s : State} {sOut : State} (hP : P s) (e : execFirnExport j p s = .next sOut) : P sOut := ok_keeps (effPack_keeps (K.sub rfl) hP) e
theorem execFirnImport_keeps (K : Keep P 2149597898) {j : JobRef} {p : Nat} {s : State} {sOut : State} (hP : P s) (e : execFirnImport j p s = .next sOut) : P sOut := ok_keeps (effPack_keeps (K.sub rfl) hP) e
theorem execFirnDiscard_keeps (K : Keep P 2149597898) {j : JobRef} {p : Nat} {s : State} {sOut : State} (hP : P s) (e : execFirnDiscard j p s = .next sOut) : P sOut := ok_keeps (effPack_keeps (K.sub rfl) hP) e
theorem effFirnWrite_keeps (K : Keep P 2149597386) {s : State} {a : Nat} {bs : List Byte}  (hP : P s) : P (effFirnWrite s a bs) := by
  have k2149597386 : Keep P 2149597386 := K.sub rfl
  unfold effFirnWrite
  repeat' (first
    | with_reducible assumption
    | (with_reducible apply storeNoted_keeps k2149597386)
    | split)
theorem execFirnBlockWrite_keeps (K : Keep P 2149597386) {addr : Nat} {bytes : List Byte} {s : State} {sOut : State} (hP : P s) (e : execFirnBlockWrite addr bytes s = .next sOut) : P sOut := ok_keeps (effFirnWrite_keeps (K.sub rfl) hP) e
theorem effReEncode_keeps (K : Keep P 2149597386) {s : State} {n b : Nat}  (hP : P s) : P (effReEncode s n b) := by
  have k192 : Keep P 192 := K.sub rfl
  have k2149597386 : Keep P 2149597386 := K.sub rfl
  unfold effReEncode
  repeat' (first
    | with_reducible assumption
    | (with_reducible apply reportUe_keeps k2149597386)
    | (with_reducible apply encodeBlock_keeps k192)
    | (with_reducible apply correctWhere_keeps k2149597386)
    | split)
theorem execReEncodeStep_keeps (K : Keep P 2149597386) {region block : Nat} {s : State} {sOut : State} (hP : P s) (e : execReEncodeStep region block s = .next sOut) : P sOut := ok_keeps (effReEncode_keeps (K.sub rfl) hP) e
theorem initRegion_keeps (K : Keep P 200) {s : State} {n : Nat}  (hP : P s) : P (initRegion s n) := by
  have k8 : Keep P 8 := K.sub rfl
  have k64 : Keep P 64 := K.sub rfl
  have k128 : Keep P 128 := K.sub rfl
  unfold initRegion
  repeat' (first
    | with_reducible assumption
    | intro _
    | (extract_lets +onlyGivenNames s'; first | (refine (fun (hs' : P s') => ?_) ?_; clear_value s'; rotate_left; subst s') | clear_value s' | skip)
    | (with_reducible apply cureWords_keeps k128)
    | (with_reducible apply putBytes_keeps k64)
    | (with_reducible apply setMap_keeps k64)
    | (with_reducible apply dropStored_keeps k64)
    | (with_reducible apply rputN_keeps k8)
    | (with_reducible apply foldl_keeps))
theorem effFirnInit_keeps (K : Keep P 200) {s : State} {n : Nat}  (hP : P s) : P (effFirnInit s n) := by
  have k200 : Keep P 200 := K.sub rfl
  unfold effFirnInit
  repeat' (first
    | with_reducible assumption
    | (with_reducible apply initRegion_keeps k200)
    | split)
theorem execFirnInitDone_keeps (K : Keep P 200) {region : Nat} {s : State} {sOut : State} (hP : P s) (e : execFirnInitDone region s = .next sOut) : P sOut := ok_keeps (effFirnInit_keeps (K.sub rfl) hP) e
theorem wordHit_keeps (K : Keep P 2149597386) {s : State} {h : ScrubHit}  (hP : P s) : P (wordHit s h) := by
  have k128 : Keep P 128 := K.sub rfl
  have k2149597386 : Keep P 2149597386 := K.sub rfl
  unfold wordHit
  repeat' (first
    | with_reducible assumption
    | intro _
    | (extract_lets +onlyGivenNames s'; first | (refine (fun (hs' : P s') => ?_) ?_; clear_value s'; rotate_left; subst s') | clear_value s' | skip)
    | (with_reducible apply scrubAt_keeps k128)
    | (with_reducible apply corrected_keeps k2149597386)
    | (with_reducible apply reportUe_keeps k2149597386)
    | split
    | ((with_reducible refine Keep.mk (f := 128) ?_ ?_ ?_); (exact K.sub rfl); rotate_left; (exact ⟨rfl, rfl, canon_same rfl, ⟨.inr rfl, .inr rfl, .inr rfl, .inr rfl, .inr rfl, .inr rfl, .inr rfl, .inl rfl⟩, .same rfl, .same rfl, .same rfl⟩); first | with_reducible assumption))
theorem hbmHit_keeps (K : Keep P 2149597386) {ctl : Nat} {s : State} {h : ScrubHit}  (hP : P s) : P (hbmHit ctl s h) := by
  have k2149597386 : Keep P 2149597386 := K.sub rfl
  unfold hbmHit
  repeat' (first
    | with_reducible assumption
    | (with_reducible apply wordHit_keeps k2149597386)
    | split)
theorem execHbmScrub_keeps (K : Keep P 2149597386) {ctl : Nat} {hits : List ScrubHit} {s : State} {sOut : State} (hP : P s) (e : execHbmScrub ctl hits s = .next sOut) : P sOut := by
  have k2149597386 : Keep P 2149597386 := K.sub rfl
  refine ok_keeps ?_ e
  repeat' (first
    | with_reducible assumption
    | intro _
    | (with_reducible apply hbmHit_keeps k2149597386)
    | (with_reducible apply foldl_keeps)
    | split)
theorem storeHit_keeps (K : Keep P 2149597386) {s : State} {h : ScrubHit}  (hP : P s) : P (storeHit s h) := by
  have k2149597386 : Keep P 2149597386 := K.sub rfl
  unfold storeHit
  repeat' (first
    | with_reducible assumption
    | (with_reducible apply wordHit_keeps k2149597386)
    | split)
theorem execStoreScrub_keeps (K : Keep P 2149597386) {hits : List ScrubHit} {s : State} {sOut : State} (hP : P s) (e : execStoreScrub hits s = .next sOut) : P sOut := by
  have k2149597386 : Keep P 2149597386 := K.sub rfl
  refine ok_keeps ?_ e
  repeat' (first
    | with_reducible assumption
    | intro _
    | (with_reducible apply storeHit_keeps k2149597386)
    | (with_reducible apply foldl_keeps))

end Sys2Proof.Machine
end

