-- ==== Sys2Proof/Laws/KeepGroups.lean ====
section
/-! SUPPORT. What each operation of Machine/Groups.lean may write (Touch): a property that stands under changes of those areas stands after the
operation. The mask is the union of the areas written. -/

set_option linter.unreachableTactic false
set_option linter.unusedTactic false
set_option linter.unusedVariables false
set_option linter.tactic.unusedName false

namespace Sys2Proof.Machine

variable {P : State → Prop}

theorem putWrites_keeps (K : Keep P 2149597386) {h : Nat} {s : State} {ws : List (Nat × List Byte)}  (hP : P s) : P (putWrites h s ws) := by
  have k2149597386 : Keep P 2149597386 := K.sub rfl
  unfold putWrites
  repeat' (first
    | with_reducible assumption
    | intro _
    | (with_reducible apply store_keeps k2149597386)
    | (with_reducible apply foldl_keeps)
    | (with_reducible refine keeps_ofFst (by assumption) ?_))
theorem deriveWc_keeps (K : Keep P 2149597386) {s : State} {g : Grp} {step : Nat}  (hP : P s) : P (deriveWc s g step) := by
  have k2149597386 : Keep P 2149597386 := K.sub rfl
  unfold deriveWc
  repeat' (first
    | with_reducible assumption
    | (with_reducible apply putWrites_keeps k2149597386)
    | split)

end Sys2Proof.Machine
end

