-- ==== Sys2Proof/Laws/KeepUpdate.lean ====
section
/-! SUPPORT. What each operation of Machine/Update.lean may write (Touch): a property that stands under changes of those areas stands after the
operation. The mask is the union of the areas written. -/

set_option linter.unreachableTactic false
set_option linter.unusedTactic false
set_option linter.unusedVariables false
set_option linter.tactic.unusedName false

namespace Sys2Proof.Machine

variable {P : State → Prop}

theorem execUpdAbort_keeps (K : Keep P 8) {v : Word} {s : State} {sOut : State} (hP : P s) (e : execUpdAbort v s = .next sOut) : P sOut := ok_keeps (setVoteIf_keeps (K.sub rfl) hP) e
theorem putRun_keeps (K : Keep P 8388608) {s : State} {r : UpdRun}  (hP : P s) : P (putRun s r) := by
  unfold putRun
  repeat' (first
    | with_reducible assumption
    | intro _
    | split
    | ((with_reducible refine Keep.mk (f := 8388608) ?_ ?_ ?_); (exact K.sub rfl); rotate_left; (exact ⟨rfl, rfl, canon_same rfl, .same rfl, .same rfl, ⟨.inr rfl, .inr rfl, .inr rfl, .inr rfl, .inr rfl, .inr rfl, .inr rfl, .inl rfl⟩, .same rfl⟩); first | with_reducible assumption))
theorem dropRun_keeps (K : Keep P 8388608) {s : State} {ref : JobRef}  (hP : P s) : P (dropRun s ref) := by
  unfold dropRun
  repeat' (first
    | with_reducible assumption
    | intro _
    | ((with_reducible refine Keep.mk (f := 8388608) ?_ ?_ ?_); (exact K.sub rfl); rotate_left; (exact ⟨rfl, rfl, canon_same rfl, .same rfl, .same rfl, ⟨.inr rfl, .inr rfl, .inr rfl, .inr rfl, .inr rfl, .inr rfl, .inr rfl, .inl rfl⟩, .same rfl⟩); first | with_reducible assumption))
theorem setGrp_keeps (K : Keep P 8388608) {s : State} {ref : JobRef} {k : Nat} {x : UpdGrp}  (hP : P s) : P (setGrp s ref k x) := by
  have k8388608 : Keep P 8388608 := K.sub rfl
  unfold setGrp
  repeat' (first
    | with_reducible assumption
    | (with_reducible apply putRun_keeps k8388608)
    | split)
theorem refreshUpd_keeps (K : Keep P 2149597386) {s : State}  (hP : P s) : P (refreshUpd s) := setCode_keeps (K.sub rfl) hP
theorem updErr_keeps (K : Keep P 2149597386) {s : State} {j : Job} {gid err gen hi : Nat}  (hP : P s) : P (updErr s j gid err gen hi) := by
  have k2149597386 : Keep P 2149597386 := K.sub rfl
  unfold updErr
  repeat' (first
    | with_reducible assumption
    | (extract_lets +onlyGivenNames s'; first | (refine (fun (hs' : P s') => ?_) ?_; clear_value s'; rotate_left; subst s') | clear_value s' | skip)
    | (with_reducible apply reportErr_keeps k2149597386))
theorem grpDone_keeps (K : Keep P 2157986506) {s : State} {ref : JobRef} {k : Nat}  (hP : P s) : P (grpDone s ref k) := by
  have k8388608 : Keep P 8388608 := K.sub rfl
  have k2149597898 : Keep P 2149597898 := K.sub rfl
  unfold grpDone
  repeat' (first
    | with_reducible assumption
    | (with_reducible apply unitRetired_keeps k2149597898)
    | (with_reducible apply setGrp_keeps k8388608)
    | split)
theorem grpFail_keeps (K : Keep P 2157985994) {s : State} {ref : JobRef} {k err gen hi : Nat}  (hP : P s) : P (grpFail s ref k err gen hi) := by
  have k8388608 : Keep P 8388608 := K.sub rfl
  have k2149597386 : Keep P 2149597386 := K.sub rfl
  unfold grpFail
  repeat' (first
    | with_reducible assumption
    | (with_reducible apply updErr_keeps k2149597386)
    | (with_reducible apply setGrp_keeps k8388608)
    | split)
theorem grpBad_keeps (K : Keep P 2157985994) {s : State} {ref : JobRef} {k w : Nat}  (hP : P s) : P (grpBad s ref k w) := by
  have k8388608 : Keep P 8388608 := K.sub rfl
  have k2149597386 : Keep P 2149597386 := K.sub rfl
  unfold grpBad
  repeat' (first
    | with_reducible assumption
    | (with_reducible apply reportUe_keeps k2149597386)
    | (with_reducible apply setGrp_keeps k8388608)
    | split)
theorem grpWork_keeps (K : Keep P 2157985994) {s : State} {ref : JobRef} {k : Nat} {j : Job} {g : Grp} {go : State → State} (hf_go : ∀ (a0 : State), P a0 → P (go a0)) (hP : P s) : P (grpWork s ref k j g go) := by
  have k2149597386 : Keep P 2149597386 := K.sub rfl
  have k2157985994 : Keep P 2157985994 := K.sub rfl
  unfold grpWork
  repeat' (first
    | with_reducible assumption
    | (with_reducible apply grpBad_keeps k2157985994)
    | (with_reducible apply noteReads_keeps k2149597386)
    | (with_reducible apply hf_go)
    | split)
theorem tierFail_keeps (K : Keep P 2157985994) {s : State} {ref : JobRef} {k : Nat}  (hP : P s) : P (tierFail s ref k) := by
  have k2157985994 : Keep P 2157985994 := K.sub rfl
  unfold tierFail
  repeat' (first
    | with_reducible assumption
    | (with_reducible apply grpFail_keeps k2157985994)
    | split)
theorem pumpT2_keeps (K : Keep P 2162188490) {e0 : Nat} {e1 : State} {e2 : JobRef} {e3 : Nat}  (hP : P e1) : P (pumpT2 e0 e1 e2 e3) := by
  have k4194312 : Keep P 4194312 := K.sub rfl
  have k8388608 : Keep P 8388608 := K.sub rfl
  have k2151686152 : Keep P 2151686152 := K.sub rfl
  have k2157985994 : Keep P 2157985994 := K.sub rfl
  induction e0 generalizing e1 e2 e3 with
  | zero =>
    unfold pumpT2
    repeat' (first
    | with_reducible assumption
    | (extract_lets +onlyGivenNames s'; first | (refine (fun (hs' : P s') => ?_) ?_; clear_value s'; rotate_left; subst s') | clear_value s' | skip)
    | (with_reducible apply tierFail_keeps k2157985994)
    | (with_reducible apply breakWindow_keeps k4194312)
    | (with_reducible apply addHostReq_keeps k2151686152)
    | (with_reducible apply setGrp_keeps k8388608)
    | split)
  | succ n ih =>
    unfold pumpT2
    repeat' (first
    | (with_reducible apply ih)
    | with_reducible assumption
    | (extract_lets +onlyGivenNames s'; first | (refine (fun (hs' : P s') => ?_) ?_; clear_value s'; rotate_left; subst s') | clear_value s' | skip)
    | (with_reducible apply tierFail_keeps k2157985994)
    | (with_reducible apply breakWindow_keeps k4194312)
    | (with_reducible apply addHostReq_keeps k2151686152)
    | (with_reducible apply setGrp_keeps k8388608)
    | split)
theorem startT2_keeps (K : Keep P 2162188490) {s : State} {ref : JobRef} {k : Nat} {st : GrpSt} {todo : List (Bool × Nat × Nat × Nat)}  (hP : P s) : P (startT2 s ref k st todo) := by
  have k8388608 : Keep P 8388608 := K.sub rfl
  have k2157985994 : Keep P 2157985994 := K.sub rfl
  have k2162188490 : Keep P 2162188490 := K.sub rfl
  unfold startT2
  repeat' (first
    | with_reducible assumption
    | (extract_lets +onlyGivenNames s'; first | (refine (fun (hs' : P s') => ?_) ?_; clear_value s'; rotate_left; subst s') | clear_value s' | skip)
    | (with_reducible apply setGrp_keeps k8388608)
    | (with_reducible apply tierFail_keeps k2157985994)
    | (with_reducible apply pumpT2_keeps k2162188490)
    | split
    | (with_reducible refine keeps_ofFst (by assumption) ?_))
theorem t2Answered_keeps (K : Keep P 2162188490) {s : State} {q : HostReq} {bytes : List Byte}  (hP : P s) : P (t2Answered s q bytes) := by
  have k8388608 : Keep P 8388608 := K.sub rfl
  have k2149597386 : Keep P 2149597386 := K.sub rfl
  have k2157985994 : Keep P 2157985994 := K.sub rfl
  have k2162188490 : Keep P 2162188490 := K.sub rfl
  unfold t2Answered
  repeat' (first
    | with_reducible assumption
    | (extract_lets +onlyGivenNames s'; first | (refine (fun (hs' : P s') => ?_) ?_; clear_value s'; rotate_left; subst s') | (refine (fun (hs' : P s'.1) => ?_) ?_; clear_value s'; rotate_left; subst s') | clear_value s' | skip)
    | (with_reducible apply storeBytes_keeps k2149597386)
    | (with_reducible apply grpBad_keeps k2157985994)
    | (with_reducible apply pumpT2_keeps k2162188490)
    | (with_reducible apply setGrp_keeps k8388608)
    | split
    | (with_reducible refine keeps_ofFst (by assumption) ?_)
    | dsimp -zeta only)
theorem ingestWork_keeps (K : Keep P 2157985994) {s : State} {ref : JobRef} {k : Nat} {g : Grp} {step : Nat} {rd : Nat → Nat → List Byte}  (hP : P s) : P (ingestWork s ref k g step rd) := by
  have k8 : Keep P 8 := K.sub rfl
  have k8388608 : Keep P 8388608 := K.sub rfl
  have k2149597386 : Keep P 2149597386 := K.sub rfl
  unfold ingestWork
  repeat' (first
    | with_reducible assumption
    | intro _
    | (extract_lets +onlyGivenNames s'; first | (refine (fun (hs' : P s') => ?_) ?_; clear_value s'; rotate_left; subst s') | clear_value s' | skip)
    | (with_reducible apply putWrites_keeps k2149597386)
    | (with_reducible apply rinc_keeps k8)
    | (with_reducible apply setVoteIf_keeps k8)
    | (with_reducible apply store_keeps k2149597386)
    | (with_reducible apply setGrp_keeps k8388608)
    | split)
theorem ingestEnd_keeps (K : Keep P 2157986506) {s : State} {ref : JobRef} {k : Nat} {g : Grp} {step : Nat}  (hP : P s) : P (ingestEnd s ref k g step) := by
  have k2149597386 : Keep P 2149597386 := K.sub rfl
  have k2157986506 : Keep P 2157986506 := K.sub rfl
  unfold ingestEnd
  repeat' (first
    | with_reducible assumption
    | (with_reducible apply grpDone_keeps k2157986506)
    | (with_reducible apply store_keeps k2149597386))
theorem spoilLate_keeps (K : Keep P 66) {s : State} {g : Grp}  (hP : P s) : P (spoilLate s g) := by
  have k66 : Keep P 66 := K.sub rfl
  unfold spoilLate
  repeat' (first
    | with_reducible assumption
    | intro _
    | (extract_lets +onlyGivenNames s'; first | (refine (fun (hs' : P s') => ?_) ?_; clear_value s'; rotate_left; subst s') | clear_value s' | skip)
    | (with_reducible apply makeUndef_keeps k66)
    | (with_reducible apply foldl_keeps))
theorem ingestGo_keeps (K : Keep P 2162189002) {s : State} {ref : JobRef} {k : Nat} {g : Grp} {step : Nat} {rd : Nat → Nat → List Byte}  (hP : P s) : P (ingestGo s ref k g step rd) := by
  have k66 : Keep P 66 := K.sub rfl
  have k2157985994 : Keep P 2157985994 := K.sub rfl
  have k2157986506 : Keep P 2157986506 := K.sub rfl
  have k2162188490 : Keep P 2162188490 := K.sub rfl
  unfold ingestGo
  repeat' (first
    | with_reducible assumption
    | (extract_lets +onlyGivenNames s'; first | (refine (fun (hs' : P s') => ?_) ?_; clear_value s'; rotate_left; subst s') | clear_value s' | skip)
    | (with_reducible apply spoilLate_keeps k66)
    | (with_reducible apply ingestWork_keeps k2157985994)
    | (with_reducible apply startT2_keeps k2162188490)
    | (with_reducible apply ingestEnd_keeps k2157986506)
    | split)
theorem ingestGrp_keeps (K : Keep P 2162189002) {s : State} {ref : JobRef} {k : Nat} {j : Job} {g : Grp} {step : Nat}  (hP : P s) : P (ingestGrp s ref k j g step) := by
  have k2157985994 : Keep P 2157985994 := K.sub rfl
  have k2157986506 : Keep P 2157986506 := K.sub rfl
  have k2162188490 : Keep P 2162188490 := K.sub rfl
  have k2162189002 : Keep P 2162189002 := K.sub rfl
  unfold ingestGrp
  repeat' (first
    | with_reducible assumption
    | intro _
    | (with_reducible apply grpDone_keeps k2157986506)
    | (with_reducible apply grpFail_keeps k2157985994)
    | (with_reducible apply startT2_keeps k2162188490)
    | (with_reducible apply grpWork_keeps k2157985994)
    | (with_reducible apply ingestGo_keeps k2162189002)
    | split)
theorem putCode_keeps (K : Keep P 2149597386) {h : Nat} {s : State} {p : Nat × Nat} {b code : Nat}  (hP : P s) : P (putCode h s p b code) := by
  have k2149597386 : Keep P 2149597386 := K.sub rfl
  unfold putCode
  repeat' (first
    | with_reducible assumption
    | (extract_lets +onlyGivenNames s'; first | (refine (fun (hs' : P s') => ?_) ?_; clear_value s'; rotate_left; subst s') | clear_value s' | skip)
    | (with_reducible apply store_keeps k2149597386)
    | (with_reducible refine keeps_ofFst (by assumption) ?_))
theorem deriveElem_keeps (K : Keep P 2149597386) {g : Grp} {step : Nat} {s : State} {n : Nat}  (hP : P s) : P (deriveElem g step s n) := by
  have k2149597386 : Keep P 2149597386 := K.sub rfl
  unfold deriveElem
  repeat' (first
    | with_reducible assumption
    | (extract_lets +onlyGivenNames s'; first | (refine (fun (hs' : P s') => ?_) ?_; clear_value s'; rotate_left; subst s') | clear_value s' | skip)
    | (with_reducible apply putCode_keeps k2149597386)
    | (with_reducible apply store_keeps k2149597386)
    | split)
theorem zeroChunk_keeps (K : Keep P 2149597386) {g : Grp} {s : State} {c : Nat}  (hP : P s) : P (zeroChunk g s c) := putWrites_keeps (K.sub rfl) hP
theorem writeChunk_keeps (K : Keep P 2149597386) {g : Grp} {s : State} {l : LogEntry}  (hP : P s) : P (writeChunk g s l) := by
  have k2149597386 : Keep P 2149597386 := K.sub rfl
  unfold writeChunk
  repeat' (first
    | with_reducible assumption
    | intro _
    | (extract_lets +onlyGivenNames s'; first | (refine (fun (hs' : P s') => ?_) ?_; clear_value s'; rotate_left; subst s') | clear_value s' | skip)
    | (with_reducible apply store_keeps k2149597386)
    | (with_reducible apply putWrites_keeps k2149597386))
theorem advanceMark_keeps (K : Keep P 2149597386) {g : Grp} {s : State} {c : Nat}  (hP : P s) : P (advanceMark g s c) := by
  have k2149597386 : Keep P 2149597386 := K.sub rfl
  unfold advanceMark
  repeat' (first
    | with_reducible assumption
    | (extract_lets +onlyGivenNames s'; first | (refine (fun (hs' : P s') => ?_) ?_; clear_value s'; rotate_left; subst s') | clear_value s' | skip)
    | (with_reducible apply store_keeps k2149597386)
    | split)
theorem logArea_keeps (K : Keep P 2149597386) {s : State} {g : Grp} {c : Nat}  (hP : P s) : P (logArea s g c) := by
  have k2149597386 : Keep P 2149597386 := K.sub rfl
  unfold logArea
  repeat' (first
    | with_reducible assumption
    | (extract_lets +onlyGivenNames s'; first | (refine (fun (hs' : P s') => ?_) ?_; clear_value s'; rotate_left; subst s') | (refine (fun (hs' : P s'.1) => ?_) ?_; clear_value s'; rotate_left; subst s') | clear_value s' | skip)
    | (with_reducible apply storeUndef_keeps k2149597386)
    | split
    | (with_reducible refine keeps_ofFst (by assumption) ?_)
    | dsimp -zeta only)
theorem commitChunk_keeps (K : Keep P 2149597386) {s : State} {g : Grp} {x : CommitCtx} {c : Nat}  (hP : P s) : P (commitChunk s g x c).1 := by
  have k8 : Keep P 8 := K.sub rfl
  have k2149597386 : Keep P 2149597386 := K.sub rfl
  unfold commitChunk
  repeat' (first
    | with_reducible assumption
    | (extract_lets +onlyGivenNames s'; first | (refine (fun (hs' : P s') => ?_) ?_; clear_value s'; rotate_left; subst s') | clear_value s' | skip)
    | (with_reducible apply zeroChunk_keeps k2149597386)
    | (with_reducible apply writeChunk_keeps k2149597386)
    | (with_reducible apply logArea_keeps k2149597386)
    | (with_reducible apply rinc_keeps k8)
    | (with_reducible apply rinc64_keeps k8)
    | dsimp -zeta only)
theorem commitAll_keeps (K : Keep P 2149597386) {s : State} {g : Grp} {x : CommitCtx}  (hP : P s) : P (commitAll s g x) := by
  have k2149597386 : Keep P 2149597386 := K.sub rfl
  unfold commitAll
  repeat' (first
    | with_reducible assumption
    | intro _
    | (with_reducible apply advanceMark_keeps k2149597386)
    | (with_reducible apply commitChunk_keeps k2149597386)
    | (with_reducible apply foldl_keeps)
    | (with_reducible apply foldl_keeps_fst)
    | (with_reducible refine keeps_ofFst (by assumption) ?_)
    | dsimp -zeta only)
theorem putEntry_keeps (K : Keep P 8388608) {s : State} {l : LogEntry}  (hP : P s) : P (putEntry s l) := by
  unfold putEntry
  repeat' (first
    | with_reducible assumption
    | intro _
    | split
    | ((with_reducible refine Keep.mk (f := 8388608) ?_ ?_ ?_); (exact K.sub rfl); rotate_left; (exact ⟨rfl, rfl, canon_same rfl, .same rfl, .same rfl, ⟨.inr rfl, .inr rfl, .inr rfl, .inr rfl, .inr rfl, .inr rfl, .inr rfl, .inl rfl⟩, .same rfl⟩); first | with_reducible assumption))
theorem dropEntry_keeps (K : Keep P 8388608) {s : State} {l : LogEntry}  (hP : P s) : P (dropEntry s l) := by
  unfold dropEntry
  repeat' (first
    | with_reducible assumption
    | intro _
    | ((with_reducible refine Keep.mk (f := 8388608) ?_ ?_ ?_); (exact K.sub rfl); rotate_left; (exact ⟨rfl, rfl, canon_same rfl, .same rfl, .same rfl, ⟨.inr rfl, .inr rfl, .inr rfl, .inr rfl, .inr rfl, .inr rfl, .inr rfl, .inl rfl⟩, .same rfl⟩); first | with_reducible assumption))
theorem pumpLog_keeps (K : Keep P 2160074760) {e0 : Nat} {e1 : State} {e2 : Nat} {e3 : Nat}  (hP : P e1) : P (pumpLog e0 e1 e2 e3) := by
  have k4194312 : Keep P 4194312 := K.sub rfl
  have k8388608 : Keep P 8388608 := K.sub rfl
  have k2151686152 : Keep P 2151686152 := K.sub rfl
  induction e0 generalizing e1 e2 e3 with
  | zero =>
    unfold pumpLog
    repeat' (first
    | with_reducible assumption
    | intro _
    | (extract_lets +onlyGivenNames s'; first | (refine (fun (hs' : P s') => ?_) ?_; clear_value s'; rotate_left; subst s') | clear_value s' | skip)
    | (with_reducible apply breakWindow_keeps k4194312)
    | (with_reducible apply addHostReq_keeps k2151686152)
    | (with_reducible apply putEntry_keeps k8388608)
    | split)
  | succ n ih =>
    unfold pumpLog
    repeat' (first
    | (with_reducible apply ih)
    | with_reducible assumption
    | intro _
    | (extract_lets +onlyGivenNames s'; first | (refine (fun (hs' : P s') => ?_) ?_; clear_value s'; rotate_left; subst s') | clear_value s' | skip)
    | (with_reducible apply breakWindow_keeps k4194312)
    | (with_reducible apply addHostReq_keeps k2151686152)
    | (with_reducible apply putEntry_keeps k8388608)
    | split)
theorem endEntry_keeps (K : Keep P 2157985994) {s : State} {l : LogEntry}  (hP : P s) : P (endEntry s l) := by
  have k8388608 : Keep P 8388608 := K.sub rfl
  have k2149597386 : Keep P 2149597386 := K.sub rfl
  unfold endEntry
  repeat' (first
    | with_reducible assumption
    | (extract_lets +onlyGivenNames s'; first | (refine (fun (hs' : P s') => ?_) ?_; clear_value s'; rotate_left; subst s') | clear_value s' | skip)
    | (with_reducible apply dropEntry_keeps k8388608)
    | (with_reducible apply advanceMark_keeps k2149597386)
    | split)
theorem replayEntry1_keeps (K : Keep P 2162188490) {s : State} {l : LogEntry}  (hP : P s) : P (replayEntry1 s l) := by
  have k8 : Keep P 8 := K.sub rfl
  have k8388608 : Keep P 8388608 := K.sub rfl
  have k2149597386 : Keep P 2149597386 := K.sub rfl
  have k2157985994 : Keep P 2157985994 := K.sub rfl
  have k2160074760 : Keep P 2160074760 := K.sub rfl
  unfold replayEntry1
  repeat' (first
    | with_reducible assumption
    | intro _
    | (extract_lets +onlyGivenNames s'; first | (refine (fun (hs' : P s') => ?_) ?_; clear_value s'; rotate_left; subst s') | clear_value s' | skip)
    | (with_reducible apply reportUe_keeps k2149597386)
    | (with_reducible apply writeChunk_keeps k2149597386)
    | (with_reducible apply deriveElem_keeps k2149597386)
    | (with_reducible apply rinc_keeps k8)
    | (with_reducible apply zeroChunk_keeps k2149597386)
    | (with_reducible apply endEntry_keeps k2157985994)
    | (with_reducible apply pumpLog_keeps k2160074760)
    | (with_reducible apply putEntry_keeps k8388608)
    | (with_reducible apply foldl_keeps)
    | split)
theorem replayLogs_keeps (K : Keep P 2162188490) {s : State}  (hP : P s) : P (replayLogs s) := by
  have k2162188490 : Keep P 2162188490 := K.sub rfl
  unfold replayLogs
  repeat' (first
    | with_reducible assumption
    | intro _
    | (with_reducible apply replayEntry1_keeps k2162188490)
    | (with_reducible apply foldl_keeps))
theorem execIdleLogReplay_keeps (K : Keep P 2162188490) {s : State} {sOut : State} (hP : P s) (e : execIdleLogReplay s = .next sOut) : P sOut := by
  have k2149597386 : Keep P 2149597386 := K.sub rfl
  have k2162188490 : Keep P 2162188490 := K.sub rfl
  refine ok_keeps ?_ e
  repeat' (first
    | with_reducible assumption
    | (with_reducible apply refreshUpd_keeps k2149597386)
    | (with_reducible apply replayEntry1_keeps k2162188490)
    | split)
theorem setMarks_keeps (K : Keep P 2149597386) {s : State} {g : Grp} {step : Nat}  (hP : P s) : P (setMarks s g step) := by
  have k2149597386 : Keep P 2149597386 := K.sub rfl
  unfold setMarks
  repeat' (first
    | with_reducible assumption
    | intro _
    | (extract_lets +onlyGivenNames s'; first | (refine (fun (hs' : P s') => ?_) ?_; clear_value s'; rotate_left; subst s') | (refine (fun (hs' : P s'.1) => ?_) ?_; clear_value s'; rotate_left; subst s') | (refine (fun (hs' : P s'.s) => ?_) ?_; clear_value s'; rotate_left; subst s') | (refine (fun (hs' : P s'.2) => ?_) ?_; clear_value s'; rotate_left; subst s') | (refine (fun (hs' : P s'.2.2) => ?_) ?_; clear_value s'; rotate_left; subst s') | (refine (fun (hs' : OptKeeps P s') => ?_) ?_; clear_value s'; rotate_left; subst s') | (refine (fun (hs' : ExKeeps P s') => ?_) ?_; clear_value s'; rotate_left; subst s') | (have _hs : State → _ := s'; clear _hs) | clear_value s' | skip)
    | (with_reducible apply store_keeps k2149597386)
    | split
    | (with_reducible refine keeps_ofFst (by assumption) ?_)
    | (with_reducible refine keeps_ofSnd (by assumption) ?_)
    | (with_reducible refine keeps_ofThird (by assumption) ?_)
    | (with_reducible refine keeps_ofOpt (by assumption) ?_)
    | (with_reducible refine keeps_ofEx (by assumption) ?_)
    | (with_reducible refine keeps_ofSome (by assumption) ?_)
    | dsimp -zeta only)
theorem commitEnd_keeps (K : Keep P 2157986506) {s : State} {ref : JobRef} {k : Nat} {g : Grp} {step : Nat} {skip : Bool}  (hP : P s) : P (commitEnd s ref k g step skip) := by
  have k8 : Keep P 8 := K.sub rfl
  have k2149597386 : Keep P 2149597386 := K.sub rfl
  have k2157986506 : Keep P 2157986506 := K.sub rfl
  unfold commitEnd
  repeat' (first
    | with_reducible assumption
    | (extract_lets +onlyGivenNames s'; first | (refine (fun (hs' : P s') => ?_) ?_; clear_value s'; rotate_left; subst s') | clear_value s' | skip)
    | (with_reducible apply deriveWc_keeps k2149597386)
    | (with_reducible apply store_keeps k2149597386)
    | (with_reducible apply grpDone_keeps k2157986506)
    | (with_reducible apply rinc_keeps k8)
    | split)
theorem carryStats_keeps (K : Keep P 2149597386) {s : State} {g : Grp} {step : Nat}  (hP : P s) : P (carryStats s g step) := by
  have k2149597386 : Keep P 2149597386 := K.sub rfl
  unfold carryStats
  repeat' (first
    | with_reducible assumption
    | (extract_lets +onlyGivenNames s'; first | (refine (fun (hs' : P s') => ?_) ?_; clear_value s'; rotate_left; subst s') | clear_value s' | skip)
    | (with_reducible apply putWrites_keeps k2149597386))
theorem addLog_keeps (K : Keep P 8388608) {s : State} {l : LogEntry}  (hP : P s) : P (addLog s l) := by
  unfold addLog
  repeat' (first
    | with_reducible assumption
    | ((with_reducible refine Keep.mk (f := 8388608) ?_ ?_ ?_); (exact K.sub rfl); rotate_left; (exact ⟨rfl, rfl, canon_same rfl, .same rfl, .same rfl, ⟨.inr rfl, .inr rfl, .inr rfl, .inr rfl, .inr rfl, .inr rfl, .inr rfl, .inl rfl⟩, .same rfl⟩); first | with_reducible assumption))
theorem nextChunk_keeps (K : Keep P 2162189002) {s : State} {ref : JobRef} {k : Nat}  (hP : P s) : P (nextChunk s ref k) := by
  have k8388608 : Keep P 8388608 := K.sub rfl
  have k2149597386 : Keep P 2149597386 := K.sub rfl
  have k2157985994 : Keep P 2157985994 := K.sub rfl
  have k2157986506 : Keep P 2157986506 := K.sub rfl
  have k2162188490 : Keep P 2162188490 := K.sub rfl
  unfold nextChunk
  repeat' (first
    | with_reducible assumption
    | intro _
    | (extract_lets +onlyGivenNames s'; first | (refine (fun (hs' : P s') => ?_) ?_; clear_value s'; rotate_left; subst s') | (refine (fun (hs' : P s'.1) => ?_) ?_; clear_value s'; rotate_left; subst s') | clear_value s' | skip)
    | (with_reducible apply grpWork_keeps k2157985994)
    | (with_reducible apply commitEnd_keeps k2157986506)
    | (with_reducible apply commitChunk_keeps k2149597386)
    | (with_reducible apply deriveElem_keeps k2149597386)
    | (with_reducible apply addLog_keeps k8388608)
    | (with_reducible apply startT2_keeps k2162188490)
    | (with_reducible apply setGrp_keeps k8388608)
    | (with_reducible apply foldl_keeps)
    | (with_reducible apply foldl_keeps_fst)
    | split
    | (with_reducible refine keeps_ofFst (by assumption) ?_)
    | dsimp -zeta only)
theorem commitGo_keeps (K : Keep P 2162189002) {s : State} {ref : JobRef} {k : Nat}  (hP : P s) : P (commitGo s ref k) := by
  have k8388608 : Keep P 8388608 := K.sub rfl
  have k2149597386 : Keep P 2149597386 := K.sub rfl
  have k2157985994 : Keep P 2157985994 := K.sub rfl
  have k2157986506 : Keep P 2157986506 := K.sub rfl
  have k2162188490 : Keep P 2162188490 := K.sub rfl
  have k2162189002 : Keep P 2162189002 := K.sub rfl
  unfold commitGo
  repeat' (first
    | with_reducible assumption
    | intro _
    | (extract_lets +onlyGivenNames s'; first | (refine (fun (hs' : P s') => ?_) ?_; clear_value s'; rotate_left; subst s') | clear_value s' | skip)
    | (with_reducible apply nextChunk_keeps k2162189002)
    | (with_reducible apply grpWork_keeps k2157985994)
    | (with_reducible apply commitAll_keeps k2149597386)
    | (with_reducible apply carryStats_keeps k2149597386)
    | (with_reducible apply startT2_keeps k2162188490)
    | (with_reducible apply setGrp_keeps k8388608)
    | (with_reducible apply commitEnd_keeps k2157986506)
    | split)
theorem takeUp_keeps (K : Keep P 2162189002) {s : State} {ref : JobRef} {k : Nat} {j : Job} {g : Grp}  (hP : P s) : P (takeUp s ref k j g) := by
  have k8 : Keep P 8 := K.sub rfl
  have k8388608 : Keep P 8388608 := K.sub rfl
  have k2149597386 : Keep P 2149597386 := K.sub rfl
  have k2157985994 : Keep P 2157985994 := K.sub rfl
  have k2162188490 : Keep P 2162188490 := K.sub rfl
  have k2162189002 : Keep P 2162189002 := K.sub rfl
  unfold takeUp
  repeat' (first
    | with_reducible assumption
    | (extract_lets +onlyGivenNames s'; first | (refine (fun (hs' : P s') => ?_) ?_; clear_value s'; rotate_left; subst s') | clear_value s' | skip)
    | (with_reducible apply setMarks_keeps k2149597386)
    | (with_reducible apply setGrp_keeps k8388608)
    | (with_reducible apply commitGo_keeps k2162189002)
    | (with_reducible apply rinc_keeps k8)
    | (with_reducible apply grpFail_keeps k2157985994)
    | (with_reducible apply startT2_keeps k2162188490)
    | split)
theorem commitGrp_keeps (K : Keep P 2162189002) {s : State} {ref : JobRef} {k : Nat} {j : Job} {g : Grp}  (hP : P s) : P (commitGrp s ref k j g) := by
  have k2157985994 : Keep P 2157985994 := K.sub rfl
  have k2157986506 : Keep P 2157986506 := K.sub rfl
  have k2162189002 : Keep P 2162189002 := K.sub rfl
  unfold commitGrp
  repeat' (first
    | with_reducible assumption
    | (extract_lets +onlyGivenNames s'; first | (refine (fun (hs' : P s') => ?_) ?_; clear_value s'; rotate_left; subst s') | clear_value s' | skip)
    | (with_reducible apply grpDone_keeps k2157986506)
    | (with_reducible apply grpFail_keeps k2157985994)
    | (with_reducible apply takeUp_keeps k2162189002)
    | split)
theorem initGroup_keeps (K : Keep P 2157985994) {s : State} {g : Grp} {step : Nat}  (hP : P s) : P (initGroup s g step) := by
  have k2149597386 : Keep P 2149597386 := K.sub rfl
  unfold initGroup
  repeat' (first
    | with_reducible assumption
    | intro _
    | (extract_lets +onlyGivenNames s'; first | (refine (fun (hs' : P s') => ?_) ?_; clear_value s'; rotate_left; subst s') | clear_value s' | skip)
    | (with_reducible apply store_keeps k2149597386)
    | (with_reducible apply deriveWc_keeps k2149597386)
    | (with_reducible apply zeroChunk_keeps k2149597386)
    | (with_reducible apply foldl_keeps)
    | ((with_reducible refine Keep.mk (f := 8388608) ?_ ?_ ?_); (exact K.sub rfl); rotate_left; (exact ⟨rfl, rfl, canon_same rfl, .same rfl, .same rfl, ⟨.inr rfl, .inr rfl, .inr rfl, .inr rfl, .inr rfl, .inr rfl, .inr rfl, .inl rfl⟩, .same rfl⟩); first | with_reducible assumption))
theorem initGrp_keeps (K : Keep P 2157986506) {s : State} {ref : JobRef} {k : Nat} {j : Job} {g : Grp} {step : Nat}  (hP : P s) : P (initGrp s ref k j g step) := by
  have k2157985994 : Keep P 2157985994 := K.sub rfl
  have k2157986506 : Keep P 2157986506 := K.sub rfl
  unfold initGrp
  repeat' (first
    | with_reducible assumption
    | intro _
    | (with_reducible apply grpWork_keeps k2157985994)
    | (with_reducible apply grpDone_keeps k2157986506)
    | (with_reducible apply initGroup_keeps k2157985994))
theorem auditGrp_keeps (K : Keep P 2157986506) {s : State} {ref : JobRef} {k : Nat} {j : Job} {g : Grp}  (hP : P s) : P (auditGrp s ref k j g) := by
  have k8 : Keep P 8 := K.sub rfl
  have k8388608 : Keep P 8388608 := K.sub rfl
  have k2149597386 : Keep P 2149597386 := K.sub rfl
  have k2157985994 : Keep P 2157985994 := K.sub rfl
  have k2157986506 : Keep P 2157986506 := K.sub rfl
  unfold auditGrp
  repeat' (first
    | with_reducible assumption
    | intro _
    | (extract_lets +onlyGivenNames s'; first | (refine (fun (hs' : P s') => ?_) ?_; clear_value s'; rotate_left; subst s') | (refine (fun (hs' : P s'.1) => ?_) ?_; clear_value s'; rotate_left; subst s') | clear_value s' | skip)
    | (with_reducible apply grpWork_keeps k2157985994)
    | (with_reducible apply storeBytes_keeps k2149597386)
    | (with_reducible apply grpBad_keeps k2157985994)
    | (with_reducible apply rinc_keeps k8)
    | (with_reducible apply putRun_keeps k8388608)
    | (with_reducible apply grpDone_keeps k2157986506)
    | split
    | (with_reducible refine keeps_ofFst (by assumption) ?_)
    | dsimp -zeta only)
theorem setAsideReplay_keeps (K : Keep P 2157985994) {s : State} {ref : JobRef} {k : Nat}  (hP : P s) : P (setAsideReplay s ref k) := by
  have k8388608 : Keep P 8388608 := K.sub rfl
  have k2157985994 : Keep P 2157985994 := K.sub rfl
  unfold setAsideReplay
  repeat' (first
    | with_reducible assumption
    | (extract_lets +onlyGivenNames s'; first | (refine (fun (hs' : P s') => ?_) ?_; clear_value s'; rotate_left; subst s') | clear_value s' | skip)
    | (with_reducible apply setGrp_keeps k8388608)
    | (with_reducible apply tierFail_keeps k2157985994)
    | split)
theorem takeGroup_keeps (K : Keep P 2162189002) {s : State} {ref : JobRef} {k : Nat} {j : Job} {g : Grp}  (hP : P s) : P (takeGroup s ref k j g) := by
  have k2157985994 : Keep P 2157985994 := K.sub rfl
  have k2157986506 : Keep P 2157986506 := K.sub rfl
  have k2162189002 : Keep P 2162189002 := K.sub rfl
  unfold takeGroup
  repeat' (first
    | with_reducible assumption
    | (with_reducible apply auditGrp_keeps k2157986506)
    | (with_reducible apply setAsideReplay_keeps k2157985994)
    | (with_reducible apply commitGrp_keeps k2162189002)
    | (with_reducible apply initGrp_keeps k2157986506)
    | (with_reducible apply ingestGrp_keeps k2162189002)
    | split)
theorem workGroup_keeps (K : Keep P 2162189002) {s : State} {ref : JobRef} {k : Nat}  (hP : P s) : P (workGroup s ref k) := by
  have k8388608 : Keep P 8388608 := K.sub rfl
  have k2157985994 : Keep P 2157985994 := K.sub rfl
  have k2162189002 : Keep P 2162189002 := K.sub rfl
  unfold workGroup
  repeat' (first
    | with_reducible assumption
    | (extract_lets +onlyGivenNames s'; first | (refine (fun (hs' : P s') => ?_) ?_; clear_value s'; rotate_left; subst s') | clear_value s' | skip)
    | (with_reducible apply takeGroup_keeps k2162189002)
    | (with_reducible apply grpBad_keeps k2157985994)
    | (with_reducible apply grpFail_keeps k2157985994)
    | (with_reducible apply setGrp_keeps k8388608)
    | split)
theorem closeRun_keeps (K : Keep P 2157986506) {s : State} {r0 : UpdRun}  (hP : P s) : P (closeRun s r0) := by
  have k512 : Keep P 512 := K.sub rfl
  have k8388608 : Keep P 8388608 := K.sub rfl
  have k2149597386 : Keep P 2149597386 := K.sub rfl
  unfold closeRun
  repeat' (first
    | with_reducible assumption
    | (extract_lets +onlyGivenNames s'; first | (refine (fun (hs' : P s') => ?_) ?_; clear_value s'; rotate_left; subst s') | clear_value s' | skip)
    | (with_reducible apply refreshUpd_keeps k2149597386)
    | (with_reducible apply dropRun_keeps k8388608)
    | (with_reducible apply markFaulted_keeps k512)
    | (with_reducible apply updErr_keeps k2149597386)
    | (with_reducible apply markWorked_keeps k512)
    | (with_reducible apply runProgress_keeps k2149597386)
    | split)
theorem workGroups_keeps (K : Keep P 2162189002) {s : State} {r : UpdRun}  (hP : P s) : P (workGroups s r) := by
  have k2157986506 : Keep P 2157986506 := K.sub rfl
  have k2162189002 : Keep P 2162189002 := K.sub rfl
  unfold workGroups
  repeat' (first
    | with_reducible assumption
    | intro _
    | (with_reducible apply closeRun_keeps k2157986506)
    | (with_reducible apply workGroup_keeps k2162189002)
    | (with_reducible apply foldl_keeps))
theorem replayAhead_keeps (K : Keep P 2162188490) {s : State}  (hP : P s) : P (replayAhead s) := by
  have k2162188490 : Keep P 2162188490 := K.sub rfl
  unfold replayAhead
  repeat' (first
    | with_reducible assumption
    | intro _
    | (with_reducible apply replayEntry1_keeps k2162188490)
    | (with_reducible apply foldl_keeps))
theorem settleRuns_keeps (K : Keep P 2162189002) {e0 : Nat} {e1 : State}  (hP : P e1) : P (settleRuns e0 e1) := by
  have k2162188490 : Keep P 2162188490 := K.sub rfl
  have k2162189002 : Keep P 2162189002 := K.sub rfl
  induction e0 generalizing e1 with
  | zero =>
    unfold settleRuns
    repeat' (first
    | with_reducible assumption
    | intro _
    | (with_reducible apply workGroups_keeps k2162189002)
    | (with_reducible apply replayAhead_keeps k2162188490)
    | (with_reducible apply foldl_keeps)
    | split)
  | succ n ih =>
    unfold settleRuns
    repeat' (first
    | (with_reducible apply ih)
    | with_reducible assumption
    | intro _
    | (with_reducible apply workGroups_keeps k2162189002)
    | (with_reducible apply replayAhead_keeps k2162188490)
    | (with_reducible apply foldl_keeps)
    | split)
theorem settleUpd_keeps (K : Keep P 2162189002) {s : State}  (hP : P s) : P (settleUpd s) := settleRuns_keeps (K.sub rfl) hP
theorem beginRun_keeps (K : Keep P 2162189002) {s : State} {ref : JobRef}  (hP : P s) : P (beginRun s ref) := by
  have k512 : Keep P 512 := K.sub rfl
  have k8388608 : Keep P 8388608 := K.sub rfl
  have k2149597386 : Keep P 2149597386 := K.sub rfl
  have k2162188490 : Keep P 2162188490 := K.sub rfl
  have k2162189002 : Keep P 2162189002 := K.sub rfl
  unfold beginRun
  repeat' (first
    | with_reducible assumption
    | (extract_lets +onlyGivenNames s'; first | (refine (fun (hs' : P s') => ?_) ?_; clear_value s'; rotate_left; subst s') | clear_value s' | skip)
    | (with_reducible apply refreshUpd_keeps k2149597386)
    | (with_reducible apply replayLogs_keeps k2162188490)
    | (with_reducible apply markFaulted_keeps k512)
    | (with_reducible apply dropRun_keeps k8388608)
    | (with_reducible apply updErr_keeps k2149597386)
    | (with_reducible apply settleUpd_keeps k2162189002)
    | (with_reducible apply putRun_keeps k8388608)
    | split)
theorem effUpd_keeps (K : Keep P 2162189002) {s : State} {ref : JobRef} {p fam var : Nat}  (hP : P s) : P (effUpd s ref p fam var) := by
  have k512 : Keep P 512 := K.sub rfl
  have k2162189002 : Keep P 2162189002 := K.sub rfl
  unfold effUpd
  repeat' (first
    | with_reducible assumption
    | (extract_lets +onlyGivenNames s'; first | (refine (fun (hs' : P s') => ?_) ?_; clear_value s'; rotate_left; subst s') | clear_value s' | skip)
    | (with_reducible apply setPartSt_keeps k512)
    | (with_reducible apply beginRun_keeps k2162189002)
    | split
    | ((with_reducible refine Keep.mk (f := 8388608) ?_ ?_ ?_); (exact K.sub rfl); rotate_left; (exact ⟨rfl, rfl, canon_same rfl, .same rfl, .same rfl, ⟨.inr rfl, .inr rfl, .inr rfl, .inr rfl, .inr rfl, .inr rfl, .inr rfl, .inl rfl⟩, .same rfl⟩); first | with_reducible assumption))
theorem execIngest_keeps (K : Keep P 2162189002) {j : JobRef} {p : Nat} {s : State} {sOut : State} (hP : P s) (e : execIngest j p s = .next sOut) : P sOut := ok_keeps (effUpd_keeps (K.sub rfl) hP) e
theorem execInit_keeps (K : Keep P 2162189002) {j : JobRef} {p : Nat} {s : State} {sOut : State} (hP : P s) (e : execInit j p s = .next sOut) : P sOut := ok_keeps (effUpd_keeps (K.sub rfl) hP) e
theorem execStepCommit_keeps (K : Keep P 2162189002) {j : JobRef} {p : Nat} {s : State} {sOut : State} (hP : P s) (e : execStepCommit j p s = .next sOut) : P sOut := ok_keeps (effUpd_keeps (K.sub rfl) hP) e
theorem execAudit_keeps (K : Keep P 2162189002) {j : JobRef} {p : Nat} {s : State} {sOut : State} (hP : P s) (e : execAudit j p s = .next sOut) : P sOut := ok_keeps (effUpd_keeps (K.sub rfl) hP) e
theorem effAdmit_keeps (K : Keep P 2162189002) {s : State}  (hP : P s) : P (effAdmit s) := by
  have k8388608 : Keep P 8388608 := K.sub rfl
  have k2162189002 : Keep P 2162189002 := K.sub rfl
  unfold effAdmit
  repeat' (first
    | with_reducible assumption
    | intro _
    | (with_reducible apply beginRun_keeps k2162189002)
    | (with_reducible apply putRun_keeps k8388608)
    | split)
theorem execUpdAdmit_keeps (K : Keep P 2162189002) {s : State} {sOut : State} (hP : P s) (e : execUpdAdmit s = .next sOut) : P sOut := ok_keeps (effAdmit_keeps (K.sub rfl) hP) e
theorem effRetired_keeps (K : Keep P 2162189002) {s : State} {ref : JobRef} {k : Nat}  (hP : P s) : P (effRetired s ref k) := by
  have k8388608 : Keep P 8388608 := K.sub rfl
  have k2149597386 : Keep P 2149597386 := K.sub rfl
  have k2162189002 : Keep P 2162189002 := K.sub rfl
  unfold effRetired
  repeat' (first
    | with_reducible assumption
    | (extract_lets +onlyGivenNames s'; first | (refine (fun (hs' : P s') => ?_) ?_; clear_value s'; rotate_left; subst s') | clear_value s' | skip)
    | (with_reducible apply setGrp_keeps k8388608)
    | (with_reducible apply setMarks_keeps k2149597386)
    | (with_reducible apply settleUpd_keeps k2162189002)
    | (with_reducible apply commitGo_keeps k2162189002)
    | split)
theorem execRetirementWaitMet_keeps (K : Keep P 2162189002) {j : JobRef} {k : Nat} {s : State} {sOut : State} (hP : P s) (e : execRetirementWaitMet j k s = .next sOut) : P sOut := ok_keeps (effRetired_keeps (K.sub rfl) hP) e
theorem effGenTimeout_keeps (K : Keep P 2162189002) {s : State} {ref : JobRef} {k : Nat}  (hP : P s) : P (effGenTimeout s ref k) := by
  have k2157985994 : Keep P 2157985994 := K.sub rfl
  have k2162189002 : Keep P 2162189002 := K.sub rfl
  unfold effGenTimeout
  repeat' (first
    | with_reducible assumption
    | (extract_lets +onlyGivenNames s'; first | (refine (fun (hs' : P s') => ?_) ?_; clear_value s'; rotate_left; subst s') | clear_value s' | skip)
    | (with_reducible apply settleUpd_keeps k2162189002)
    | (with_reducible apply grpFail_keeps k2157985994)
    | split)
theorem execGenTimeout_keeps (K : Keep P 2162189002) {j : JobRef} {k : Nat} {s : State} {sOut : State} (hP : P s) (e : execGenTimeout j k s = .next sOut) : P sOut := ok_keeps (effGenTimeout_keeps (K.sub rfl) hP) e
theorem effT2Done_keeps (K : Keep P 2162189002) {s : State} {ref : JobRef} {k : Nat}  (hP : P s) : P (effT2Done s ref k) := by
  have k8388608 : Keep P 8388608 := K.sub rfl
  have k2149597386 : Keep P 2149597386 := K.sub rfl
  have k2157985994 : Keep P 2157985994 := K.sub rfl
  have k2157986506 : Keep P 2157986506 := K.sub rfl
  have k2162189002 : Keep P 2162189002 := K.sub rfl
  unfold effT2Done
  repeat' (first
    | with_reducible assumption
    | intro _
    | (extract_lets +onlyGivenNames s'; first | (refine (fun (hs' : P s') => ?_) ?_; clear_value s'; rotate_left; subst s') | clear_value s' | skip)
    | (with_reducible apply settleUpd_keeps k2162189002)
    | (with_reducible apply grpWork_keeps k2157985994)
    | (with_reducible apply ingestGo_keeps k2162189002)
    | (with_reducible apply ingestEnd_keeps k2157986506)
    | (with_reducible apply setGrp_keeps k8388608)
    | (with_reducible apply commitGo_keeps k2162189002)
    | (with_reducible apply commitEnd_keeps k2157986506)
    | (with_reducible apply advanceMark_keeps k2149597386)
    | (with_reducible apply nextChunk_keeps k2162189002)
    | split
    | ((with_reducible refine Keep.mk (f := 8388608) ?_ ?_ ?_); (exact K.sub rfl); rotate_left; (exact ⟨rfl, rfl, canon_same rfl, .same rfl, .same rfl, ⟨.inr rfl, .inr rfl, .inr rfl, .inr rfl, .inr rfl, .inr rfl, .inr rfl, .inl rfl⟩, .same rfl⟩); first | with_reducible assumption))
theorem execT2TransferDone_keeps (K : Keep P 2162189002) {j : JobRef} {k : Nat} {s : State} {sOut : State} (hP : P s) (e : execT2TransferDone j k s = .next sOut) : P sOut := ok_keeps (effT2Done_keeps (K.sub rfl) hP) e
theorem effTierTimeout_keeps (K : Keep P 2162189002) {s : State} {ref : JobRef} {k : Nat}  (hP : P s) : P (effTierTimeout s ref k) := by
  have k2157985994 : Keep P 2157985994 := K.sub rfl
  have k2162189002 : Keep P 2162189002 := K.sub rfl
  unfold effTierTimeout
  repeat' (first
    | with_reducible assumption
    | (with_reducible apply settleUpd_keeps k2162189002)
    | (with_reducible apply tierFail_keeps k2157985994)
    | split)
theorem execTierTimeout_keeps (K : Keep P 2162189002) {j : JobRef} {k : Nat} {s : State} {sOut : State} (hP : P s) (e : execTierTimeout j k s = .next sOut) : P sOut := ok_keeps (effTierTimeout_keeps (K.sub rfl) hP) e
theorem releaseReplay_keeps (K : Keep P 2162189002) {s : State} {gid : Nat}  (hP : P s) : P (releaseReplay s gid) := by
  have k8388608 : Keep P 8388608 := K.sub rfl
  have k2162189002 : Keep P 2162189002 := K.sub rfl
  unfold releaseReplay
  repeat' (first
    | with_reducible assumption
    | intro _
    | (with_reducible apply settleUpd_keeps k2162189002)
    | (with_reducible apply putRun_keeps k8388608)
    | (with_reducible apply foldl_keeps)
    | split)
theorem logAnswered_keeps (K : Keep P 2162189002) {s : State} {q : HostReq}  (hP : P s) : P (logAnswered s q) := by
  have k8388608 : Keep P 8388608 := K.sub rfl
  have k2149597386 : Keep P 2149597386 := K.sub rfl
  have k2157985994 : Keep P 2157985994 := K.sub rfl
  have k2160074760 : Keep P 2160074760 := K.sub rfl
  have k2162189002 : Keep P 2162189002 := K.sub rfl
  unfold logAnswered
  repeat' (first
    | with_reducible assumption
    | intro _
    | (extract_lets +onlyGivenNames s'; first | (refine (fun (hs' : P s') => ?_) ?_; clear_value s'; rotate_left; subst s') | clear_value s' | skip)
    | (with_reducible apply refreshUpd_keeps k2149597386)
    | (with_reducible apply releaseReplay_keeps k2162189002)
    | (with_reducible apply endEntry_keeps k2157985994)
    | (with_reducible apply pumpLog_keeps k2160074760)
    | (with_reducible apply putEntry_keeps k8388608)
    | split)
theorem logFailed_keeps (K : Keep P 8388608) {s : State} {q : HostReq}  (hP : P s) : P (logFailed s q) := by
  have k8388608 : Keep P 8388608 := K.sub rfl
  unfold logFailed
  repeat' (first
    | with_reducible assumption
    | intro _
    | (with_reducible apply putEntry_keeps k8388608)
    | split)

end Sys2Proof.Machine
end

