-- ==== Sys2Proof/Laws/KeepHostIo.lean ====
section
/-! SUPPORT. What each operation of Machine/HostIo.lean may write (Touch): a property that stands under changes of those areas stands after the
operation. The mask is the union of the areas written. -/

set_option linter.unreachableTactic false
set_option linter.unusedTactic false
set_option linter.unusedVariables false
set_option linter.tactic.unusedName false

namespace Sys2Proof.Machine

variable {P : State → Prop}

theorem hostAnswered_keeps (K : Keep P 2162189002) {s : State} {q : HostReq} {bytes : List Byte}  (hP : P s) : P (hostAnswered s q bytes) := by
  have k2153800394 : Keep P 2153800394 := K.sub rfl
  have k2162188490 : Keep P 2162188490 := K.sub rfl
  have k2162189002 : Keep P 2162189002 := K.sub rfl
  unfold hostAnswered
  repeat' (first
    | with_reducible assumption
    | (with_reducible apply logAnswered_keeps k2162189002)
    | (with_reducible apply t2Answered_keeps k2162188490)
    | (with_reducible apply hostCopyAck_keeps k2153800394)
    | split)
theorem pumpWindow_keeps (K : Keep P 2162188490) {s : State}  (hP : P s) : P (pumpWindow s) := by
  have k2162188490 : Keep P 2162188490 := K.sub rfl
  unfold pumpWindow
  repeat' (first
    | with_reducible assumption
    | intro _
    | (with_reducible apply pumpT2_keeps k2162188490)
    | (with_reducible apply foldl_keeps)
    | split)
theorem effRoceAck_keeps (K : Keep P 2162189002) {s : State} {w : Nat} {err : Bool} {bytes : List Byte}  (hP : P s) : P (effRoceAck s w err bytes) := by
  have k4194304 : Keep P 4194304 := K.sub rfl
  have k2162188490 : Keep P 2162188490 := K.sub rfl
  have k2162189002 : Keep P 2162189002 := K.sub rfl
  unfold effRoceAck
  repeat' (first
    | with_reducible assumption
    | (extract_lets +onlyGivenNames s'; first | (refine (fun (hs' : P s') => ?_) ?_; clear_value s'; rotate_left; subst s') | clear_value s' | skip)
    | (with_reducible apply pumpWindow_keeps k2162188490)
    | (with_reducible apply hostAnswered_keeps k2162189002)
    | (with_reducible apply putH_keeps k4194304)
    | split)
theorem execRoceAck_keeps (K : Keep P 2162189002) {w : Nat} {err : Bool} {bytes : List Byte} {s : State} {sOut : State} (hP : P s) (e : execRoceAck w err bytes s = .next sOut) : P sOut := ok_keeps (effRoceAck_keeps (K.sub rfl) hP) e
theorem hostGivesUp_keeps (K : Keep P 2162189002) {s : State} {w : Nat}  (hP : P s) : P (hostGivesUp s w) := by
  have k4194304 : Keep P 4194304 := K.sub rfl
  have k4194312 : Keep P 4194312 := K.sub rfl
  have k8388608 : Keep P 8388608 := K.sub rfl
  have k2149597898 : Keep P 2149597898 := K.sub rfl
  have k2157985994 : Keep P 2157985994 := K.sub rfl
  have k2162189002 : Keep P 2162189002 := K.sub rfl
  unfold hostGivesUp
  repeat' (first
    | with_reducible assumption
    | intro _
    | (extract_lets +onlyGivenNames s'; first | (refine (fun (hs' : P s') => ?_) ?_; clear_value s'; rotate_left; subst s') | clear_value s' | skip)
    | (with_reducible apply breakWindow_keeps k4194312)
    | (with_reducible apply putH_keeps k4194304)
    | (with_reducible apply logFailed_keeps k8388608)
    | (with_reducible apply settleUpd_keeps k2162189002)
    | (with_reducible apply tierFail_keeps k2157985994)
    | (with_reducible apply hostFailed_keeps k2149597898)
    | (with_reducible apply foldl_keeps)
    | split)
theorem effRoceTimeout_keeps (K : Keep P 2162189002) {s : State} {w : Nat}  (hP : P s) : P (effRoceTimeout s w) := by
  have k4194304 : Keep P 4194304 := K.sub rfl
  have k2147483656 : Keep P 2147483656 := K.sub rfl
  have k2162189002 : Keep P 2162189002 := K.sub rfl
  unfold effRoceTimeout
  repeat' (first
    | with_reducible assumption
    | (extract_lets +onlyGivenNames s'; first | (refine (fun (hs' : P s') => ?_) ?_; clear_value s'; rotate_left; subst s') | clear_value s' | skip)
    | (with_reducible apply sendRoce_keeps k2147483656)
    | (with_reducible apply putH_keeps k4194304)
    | (with_reducible apply hostGivesUp_keeps k2162189002)
    | split)
theorem execRoceAckTimeout_keeps (K : Keep P 2162189002) {w : Nat} {s : State} {sOut : State} (hP : P s) (e : execRoceAckTimeout w s = .next sOut) : P sOut := ok_keeps (effRoceTimeout_keeps (K.sub rfl) hP) e
theorem effCnp_keeps (K : Keep P 4194304) {s : State} {w : Nat}  (hP : P s) : P (effCnp s w) := by
  have k4194304 : Keep P 4194304 := K.sub rfl
  unfold effCnp
  repeat' (first
    | with_reducible assumption
    | (extract_lets +onlyGivenNames s'; first | (refine (fun (hs' : P s') => ?_) ?_; clear_value s'; rotate_left; subst s') | clear_value s' | skip)
    | (with_reducible apply putH_keeps k4194304)
    | split)
theorem execCongestionNotification_keeps (K : Keep P 4194304) {w : Nat} {s : State} {sOut : State} (hP : P s) (e : execCongestionNotification w s = .next sOut) : P sOut := ok_keeps (effCnp_keeps (K.sub rfl) hP) e
theorem effRateRestore_keeps (K : Keep P 4194304) {s : State} {w : Nat}  (hP : P s) : P (effRateRestore s w) := by
  have k4194304 : Keep P 4194304 := K.sub rfl
  unfold effRateRestore
  repeat' (first
    | with_reducible assumption
    | (extract_lets +onlyGivenNames s'; first | (refine (fun (hs' : P s') => ?_) ?_; clear_value s'; rotate_left; subst s') | clear_value s' | skip)
    | (with_reducible apply putH_keeps k4194304)
    | split)
theorem execRateRestore_keeps (K : Keep P 4194304) {w : Nat} {s : State} {sOut : State} (hP : P s) (e : execRateRestore w s = .next sOut) : P sOut := ok_keeps (effRateRestore_keeps (K.sub rfl) hP) e

end Sys2Proof.Machine
end

