-- ==== Sys2Proof/Laws/KeepCipher.lean ====
section
/-! SUPPORT. What each operation of Machine/Cipher.lean may write (Touch): a property that stands under changes of those areas stands after the
operation. The mask is the union of the areas written. -/

set_option linter.unreachableTactic false
set_option linter.unusedTactic false
set_option linter.unusedVariables false
set_option linter.tactic.unusedName false

namespace Sys2Proof.Machine

variable {P : State → Prop}

theorem setRoot_keeps (K : Keep P 33554432) {s : State} {r : Nat} {k : List Nat}  (hP : P s) : P (setRoot s r k) := by
  unfold setRoot
  repeat' (first
    | with_reducible assumption
    | intro _
    | ((with_reducible refine Keep.mk (f := 33554432) ?_ ?_ ?_); (exact K.sub rfl); rotate_left; (exact ⟨rfl, rfl, canon_of id id id id id id id id id id id (by first | with_reducible exact id | exact smWf_smSet _ _ _ _) id id id id id id id id id id id, .same rfl, .same rfl, .same rfl, ⟨.inr rfl, .inl rfl, .inr rfl, .inr rfl, .inr rfl, .inr rfl, .inr rfl, .inr rfl⟩⟩); first | with_reducible assumption))
theorem putKs_keeps (K : Keep P 33554440) {s : State} {n : Nat} {x : KeySlot}  (hP : P s) : P (putKs s n x) := by
  have k8 : Keep P 8 := K.sub rfl
  unfold putKs
  repeat' (first
    | with_reducible assumption
    | (extract_lets +onlyGivenNames s'; first | (refine (fun (hs' : P s') => ?_) ?_; clear_value s'; rotate_left; subst s') | clear_value s' | skip)
    | (with_reducible apply rputN_keeps k8)
    | split
    | ((with_reducible refine Keep.mk (f := 33554432) ?_ ?_ ?_); (exact K.sub rfl); rotate_left; (exact ⟨rfl, rfl, canon_of id id id id id id id id id id id id (by first | with_reducible exact id | exact smWf_smSet _ _ _ _) id id id id id id id id id id, .same rfl, .same rfl, .same rfl, ⟨.inr rfl, .inl rfl, .inr rfl, .inr rfl, .inr rfl, .inr rfl, .inr rfl, .inr rfl⟩⟩); first | with_reducible assumption))
theorem emptySlot_keeps (K : Keep P 33554440) {s : State} {n : Nat}  (hP : P s) : P (emptySlot s n) := by
  have k33554440 : Keep P 33554440 := K.sub rfl
  unfold emptySlot
  repeat' (first
    | with_reducible assumption
    | (extract_lets +onlyGivenNames s'; first | (refine (fun (hs' : P s') => ?_) ?_; clear_value s'; rotate_left; subst s') | clear_value s' | skip)
    | (with_reducible apply putKs_keeps k33554440)
    | split)
theorem putCx_keeps (K : Keep P 33554440) {s : State} {c : Nat} {x : CipherCtx}  (hP : P s) : P (putCx s c x) := by
  have k8 : Keep P 8 := K.sub rfl
  unfold putCx
  repeat' (first
    | with_reducible assumption
    | (extract_lets +onlyGivenNames s'; first | (refine (fun (hs' : P s') => ?_) ?_; clear_value s'; rotate_left; subst s') | clear_value s' | skip)
    | (with_reducible apply rputN_keeps k8)
    | split
    | ((with_reducible refine Keep.mk (f := 33554432) ?_ ?_ ?_); (exact K.sub rfl); rotate_left; (exact ⟨rfl, rfl, canon_of id id id id id id id id id id id id id (by first | with_reducible exact id | exact smWf_smSet _ _ _ _) id id id id id id id id id, .same rfl, .same rfl, .same rfl, ⟨.inr rfl, .inl rfl, .inr rfl, .inr rfl, .inr rfl, .inr rfl, .inr rfl, .inr rfl⟩⟩); first | with_reducible assumption))
theorem freeCx_keeps (K : Keep P 33554440) {s : State} {c : Nat}  (hP : P s) : P (freeCx s c) := by
  have k33554440 : Keep P 33554440 := K.sub rfl
  unfold freeCx
  repeat' (first
    | with_reducible assumption
    | (with_reducible apply putCx_keeps k33554440))
theorem cphErr_keeps (K : Keep P 2149597386) {s : State} {j : Job} {err causes : Nat}  (hP : P s) : P (cphErr s j err causes) := by
  have k2149597386 : Keep P 2149597386 := K.sub rfl
  unfold cphErr
  repeat' (first
    | with_reducible assumption
    | (extract_lets +onlyGivenNames s'; first | (refine (fun (hs' : P s') => ?_) ?_; clear_value s'; rotate_left; subst s') | clear_value s' | skip)
    | (with_reducible apply reportErr_keeps k2149597386)
    | split)
theorem cphFail_keeps (K : Keep P 2149597898) {s : State} {ref : JobRef} {p err : Nat}  (hP : P s) : P (cphFail s ref p err) := by
  have k512 : Keep P 512 := K.sub rfl
  have k2149597386 : Keep P 2149597386 := K.sub rfl
  unfold cphFail
  repeat' (first
    | with_reducible assumption
    | (with_reducible apply markFaulted_keeps k512)
    | (with_reducible apply cphErr_keeps k2149597386)
    | split)
theorem cphBad_keeps (K : Keep P 2149597898) {s : State} {ref : JobRef} {p w : Nat}  (hP : P s) : P (cphBad s ref p w) := by
  have k512 : Keep P 512 := K.sub rfl
  have k2149597386 : Keep P 2149597386 := K.sub rfl
  unfold cphBad
  repeat' (first
    | with_reducible assumption
    | (with_reducible apply markFaulted_keeps k512)
    | (with_reducible apply reportUe_keeps k2149597386))
theorem cphDone_keeps (K : Keep P 2149597898) {s : State} {ref : JobRef} {p units bytes : Nat}  (hP : P s) : P (cphDone s ref p units bytes) := by
  have k8 : Keep P 8 := K.sub rfl
  have k512 : Keep P 512 := K.sub rfl
  have k2149597898 : Keep P 2149597898 := K.sub rfl
  unfold cphDone
  repeat' (first
    | with_reducible assumption
    | (extract_lets +onlyGivenNames s'; first | (refine (fun (hs' : P s') => ?_) ?_; clear_value s'; rotate_left; subst s') | clear_value s' | skip)
    | (with_reducible apply rinc64_keeps k8)
    | (with_reducible apply putJob_keeps k512)
    | (with_reducible apply markWorked_keeps k512)
    | (with_reducible apply unitsRetired_keeps k2149597898)
    | split)
theorem putOut_keeps (K : Keep P 2149597386) {s : State} {ins : List (Nat × Nat)} {outA n : Nat} {b : List Byte}  (hP : P s) : P (putOut s ins outA n b).1 := by
  have k2149597386 : Keep P 2149597386 := K.sub rfl
  unfold putOut
  repeat' (first
    | with_reducible assumption
    | intro _
    | (with_reducible apply storeUndef_keeps k2149597386)
    | (with_reducible apply storeBytes_keeps k2149597386)
    | split
    | (with_reducible refine keeps_ofFst (by assumption) ?_)
    | dsimp -zeta only)
theorem cphPrune_keeps (K : Keep P 33554432) {s : State}  (hP : P s) : P (cphPrune s) := by
  unfold cphPrune
  repeat' (first
    | with_reducible assumption
    | intro _
    | (extract_lets +onlyGivenNames s'; first | (refine (fun (hs' : P s') => ?_) ?_; clear_value s'; rotate_left; subst s') | clear_value s' | skip)
    | split
    | ((with_reducible refine Keep.mk (f := 33554432) ?_ ?_ ?_); (exact K.sub rfl); rotate_left; (exact ⟨rfl, rfl, canon_same rfl, .same rfl, .same rfl, .same rfl, ⟨.inr rfl, .inl rfl, .inr rfl, .inr rfl, .inr rfl, .inr rfl, .inr rfl, .inr rfl⟩⟩); first | with_reducible assumption))
theorem cphRun_keeps (K : Keep P 2183152330) {s : State} {ref : JobRef} {p var : Nat} {f : State → Job → State} (hf_f : ∀ (a0 : State) (a1 : Job), P a0 → P (f a0 a1)) (hP : P s) : P (cphRun s ref p var f) := by
  have k33554432 : Keep P 33554432 := K.sub rfl
  have k2149597386 : Keep P 2149597386 := K.sub rfl
  have k2149597898 : Keep P 2149597898 := K.sub rfl
  unfold cphRun
  repeat' (first
    | with_reducible assumption
    | (extract_lets +onlyGivenNames s'; first | (refine (fun (hs' : P s') => ?_) ?_; clear_value s'; rotate_left; subst s') | clear_value s' | skip)
    | (with_reducible apply cphPrune_keeps k33554432)
    | (with_reducible apply refreshCph_keeps k2149597386)
    | (with_reducible apply cphFail_keeps k2149597898)
    | (with_reducible apply hf_f)
    | split
    | ((with_reducible refine Keep.mk (f := 33554432) ?_ ?_ ?_); (exact K.sub rfl); rotate_left; (exact ⟨rfl, rfl, canon_same rfl, .same rfl, .same rfl, .same rfl, ⟨.inr rfl, .inl rfl, .inr rfl, .inr rfl, .inr rfl, .inr rfl, .inr rfl, .inr rfl⟩⟩); first | with_reducible assumption))
theorem doSeal_keeps (K : Keep P 2149597898) {ref : JobRef} {p : Nat} {s : State} {j : Job}  (hP : P s) : P (doSeal ref p s j) := by
  have k2149597386 : Keep P 2149597386 := K.sub rfl
  have k2149597898 : Keep P 2149597898 := K.sub rfl
  unfold doSeal
  repeat' (first
    | with_reducible assumption
    | (extract_lets +onlyGivenNames s'; first | (refine (fun (hs' : P s') => ?_) ?_; clear_value s'; rotate_left; subst s') | (refine (fun (hs' : P s'.1) => ?_) ?_; clear_value s'; rotate_left; subst s') | clear_value s' | skip)
    | (with_reducible apply cphFail_keeps k2149597898)
    | (with_reducible apply cphBad_keeps k2149597898)
    | (with_reducible apply putOut_keeps k2149597386)
    | (with_reducible apply noteReads_keeps k2149597386)
    | (with_reducible apply cphDone_keeps k2149597898)
    | split
    | (with_reducible refine keeps_ofFst (by assumption) ?_)
    | dsimp -zeta only)
theorem execGcmSeal_keeps (K : Keep P 2183152330) {j : JobRef} {p : Nat} {s : State} {sOut : State} (hP : P s) (e : execGcmSeal j p s = .next sOut) : P sOut := by
  have k2149597898 : Keep P 2149597898 := K.sub rfl
  have k2183152330 : Keep P 2183152330 := K.sub rfl
  refine ok_keeps ?_ e
  repeat' (first
    | with_reducible assumption
    | intro _
    | (extract_lets +onlyGivenNames s'; first | (refine (fun (hs' : P s') => ?_) ?_; clear_value s'; rotate_left; subst s') | (refine (fun (hs' : P s'.1) => ?_) ?_; clear_value s'; rotate_left; subst s') | (refine (fun (hs' : P s'.s) => ?_) ?_; clear_value s'; rotate_left; subst s') | (refine (fun (hs' : P s'.2) => ?_) ?_; clear_value s'; rotate_left; subst s') | (refine (fun (hs' : P s'.2.2) => ?_) ?_; clear_value s'; rotate_left; subst s') | (refine (fun (hs' : OptKeeps P s') => ?_) ?_; clear_value s'; rotate_left; subst s') | (refine (fun (hs' : ExKeeps P s') => ?_) ?_; clear_value s'; rotate_left; subst s') | (have _hs : State → _ := s'; clear _hs) | clear_value s' | skip)
    | (with_reducible apply cphRun_keeps k2183152330)
    | (with_reducible apply doSeal_keeps k2149597898)
    | split
    | (with_reducible refine keeps_ofFst (by assumption) ?_)
    | (with_reducible refine keeps_ofSnd (by assumption) ?_)
    | (with_reducible refine keeps_ofThird (by assumption) ?_)
    | (with_reducible refine keeps_ofOpt (by assumption) ?_)
    | (with_reducible refine keeps_ofEx (by assumption) ?_)
    | (with_reducible refine keeps_ofSome (by assumption) ?_)
    | dsimp -zeta only)
theorem doOpen_keeps (K : Keep P 2149597898) {ref : JobRef} {p : Nat} {s : State} {j : Job}  (hP : P s) : P (doOpen ref p s j) := by
  have k8 : Keep P 8 := K.sub rfl
  have k2149597386 : Keep P 2149597386 := K.sub rfl
  have k2149597898 : Keep P 2149597898 := K.sub rfl
  unfold doOpen
  repeat' (first
    | with_reducible assumption
    | (extract_lets +onlyGivenNames s'; first | (refine (fun (hs' : P s') => ?_) ?_; clear_value s'; rotate_left; subst s') | (refine (fun (hs' : P s'.1) => ?_) ?_; clear_value s'; rotate_left; subst s') | clear_value s' | skip)
    | (with_reducible apply cphFail_keeps k2149597898)
    | (with_reducible apply cphBad_keeps k2149597898)
    | (with_reducible apply noteReads_keeps k2149597386)
    | (with_reducible apply rinc_keeps k8)
    | (with_reducible apply storeNoted_keeps k2149597386)
    | (with_reducible apply putOut_keeps k2149597386)
    | (with_reducible apply cphDone_keeps k2149597898)
    | split
    | (with_reducible refine keeps_ofFst (by assumption) ?_)
    | dsimp -zeta only)
theorem execGcmOpen_keeps (K : Keep P 2183152330) {j : JobRef} {p : Nat} {s : State} {sOut : State} (hP : P s) (e : execGcmOpen j p s = .next sOut) : P sOut := by
  have k2149597898 : Keep P 2149597898 := K.sub rfl
  have k2183152330 : Keep P 2183152330 := K.sub rfl
  refine ok_keeps ?_ e
  repeat' (first
    | with_reducible assumption
    | intro _
    | (extract_lets +onlyGivenNames s'; first | (refine (fun (hs' : P s') => ?_) ?_; clear_value s'; rotate_left; subst s') | (refine (fun (hs' : P s'.1) => ?_) ?_; clear_value s'; rotate_left; subst s') | (refine (fun (hs' : P s'.s) => ?_) ?_; clear_value s'; rotate_left; subst s') | (refine (fun (hs' : P s'.2) => ?_) ?_; clear_value s'; rotate_left; subst s') | (refine (fun (hs' : P s'.2.2) => ?_) ?_; clear_value s'; rotate_left; subst s') | (refine (fun (hs' : OptKeeps P s') => ?_) ?_; clear_value s'; rotate_left; subst s') | (refine (fun (hs' : ExKeeps P s') => ?_) ?_; clear_value s'; rotate_left; subst s') | (have _hs : State → _ := s'; clear _hs) | clear_value s' | skip)
    | (with_reducible apply cphRun_keeps k2183152330)
    | (with_reducible apply doOpen_keeps k2149597898)
    | split
    | (with_reducible refine keeps_ofFst (by assumption) ?_)
    | (with_reducible refine keeps_ofSnd (by assumption) ?_)
    | (with_reducible refine keeps_ofThird (by assumption) ?_)
    | (with_reducible refine keeps_ofOpt (by assumption) ?_)
    | (with_reducible refine keeps_ofEx (by assumption) ?_)
    | (with_reducible refine keeps_ofSome (by assumption) ?_)
    | dsimp -zeta only)
theorem doCtr_keeps (K : Keep P 2149597898) {ref : JobRef} {p : Nat} {s : State} {j : Job}  (hP : P s) : P (doCtr ref p s j) := by
  have k2149597386 : Keep P 2149597386 := K.sub rfl
  have k2149597898 : Keep P 2149597898 := K.sub rfl
  unfold doCtr
  repeat' (first
    | with_reducible assumption
    | (extract_lets +onlyGivenNames s'; first | (refine (fun (hs' : P s') => ?_) ?_; clear_value s'; rotate_left; subst s') | (refine (fun (hs' : P s'.1) => ?_) ?_; clear_value s'; rotate_left; subst s') | clear_value s' | skip)
    | (with_reducible apply cphFail_keeps k2149597898)
    | (with_reducible apply cphBad_keeps k2149597898)
    | (with_reducible apply putOut_keeps k2149597386)
    | (with_reducible apply noteReads_keeps k2149597386)
    | (with_reducible apply cphDone_keeps k2149597898)
    | split
    | (with_reducible refine keeps_ofFst (by assumption) ?_)
    | dsimp -zeta only)
theorem execCtr_keeps (K : Keep P 2183152330) {j : JobRef} {p : Nat} {s : State} {sOut : State} (hP : P s) (e : execCtr j p s = .next sOut) : P sOut := by
  have k2149597898 : Keep P 2149597898 := K.sub rfl
  have k2183152330 : Keep P 2183152330 := K.sub rfl
  refine ok_keeps ?_ e
  repeat' (first
    | with_reducible assumption
    | intro _
    | (extract_lets +onlyGivenNames s'; first | (refine (fun (hs' : P s') => ?_) ?_; clear_value s'; rotate_left; subst s') | (refine (fun (hs' : P s'.1) => ?_) ?_; clear_value s'; rotate_left; subst s') | (refine (fun (hs' : P s'.s) => ?_) ?_; clear_value s'; rotate_left; subst s') | (refine (fun (hs' : P s'.2) => ?_) ?_; clear_value s'; rotate_left; subst s') | (refine (fun (hs' : P s'.2.2) => ?_) ?_; clear_value s'; rotate_left; subst s') | (refine (fun (hs' : OptKeeps P s') => ?_) ?_; clear_value s'; rotate_left; subst s') | (refine (fun (hs' : ExKeeps P s') => ?_) ?_; clear_value s'; rotate_left; subst s') | (have _hs : State → _ := s'; clear _hs) | clear_value s' | skip)
    | (with_reducible apply cphRun_keeps k2183152330)
    | (with_reducible apply doCtr_keeps k2149597898)
    | split
    | (with_reducible refine keeps_ofFst (by assumption) ?_)
    | (with_reducible refine keeps_ofSnd (by assumption) ?_)
    | (with_reducible refine keeps_ofThird (by assumption) ?_)
    | (with_reducible refine keeps_ofOpt (by assumption) ?_)
    | (with_reducible refine keeps_ofEx (by assumption) ?_)
    | (with_reducible refine keeps_ofSome (by assumption) ?_)
    | dsimp -zeta only)
theorem doCmac_keeps (K : Keep P 2149597898) {ref : JobRef} {p : Nat} {s : State} {j : Job}  (hP : P s) : P (doCmac ref p s j) := by
  have k2149597386 : Keep P 2149597386 := K.sub rfl
  have k2149597898 : Keep P 2149597898 := K.sub rfl
  unfold doCmac
  repeat' (first
    | with_reducible assumption
    | (extract_lets +onlyGivenNames s'; first | (refine (fun (hs' : P s') => ?_) ?_; clear_value s'; rotate_left; subst s') | (refine (fun (hs' : P s'.1) => ?_) ?_; clear_value s'; rotate_left; subst s') | clear_value s' | skip)
    | (with_reducible apply cphFail_keeps k2149597898)
    | (with_reducible apply cphBad_keeps k2149597898)
    | (with_reducible apply putOut_keeps k2149597386)
    | (with_reducible apply noteReads_keeps k2149597386)
    | (with_reducible apply cphDone_keeps k2149597898)
    | split
    | (with_reducible refine keeps_ofFst (by assumption) ?_)
    | dsimp -zeta only)
theorem execCmac_keeps (K : Keep P 2183152330) {j : JobRef} {p : Nat} {s : State} {sOut : State} (hP : P s) (e : execCmac j p s = .next sOut) : P sOut := by
  have k2149597898 : Keep P 2149597898 := K.sub rfl
  have k2183152330 : Keep P 2183152330 := K.sub rfl
  refine ok_keeps ?_ e
  repeat' (first
    | with_reducible assumption
    | intro _
    | (extract_lets +onlyGivenNames s'; first | (refine (fun (hs' : P s') => ?_) ?_; clear_value s'; rotate_left; subst s') | (refine (fun (hs' : P s'.1) => ?_) ?_; clear_value s'; rotate_left; subst s') | (refine (fun (hs' : P s'.s) => ?_) ?_; clear_value s'; rotate_left; subst s') | (refine (fun (hs' : P s'.2) => ?_) ?_; clear_value s'; rotate_left; subst s') | (refine (fun (hs' : P s'.2.2) => ?_) ?_; clear_value s'; rotate_left; subst s') | (refine (fun (hs' : OptKeeps P s') => ?_) ?_; clear_value s'; rotate_left; subst s') | (refine (fun (hs' : ExKeeps P s') => ?_) ?_; clear_value s'; rotate_left; subst s') | (have _hs : State → _ := s'; clear _hs) | clear_value s' | skip)
    | (with_reducible apply cphRun_keeps k2183152330)
    | (with_reducible apply doCmac_keeps k2149597898)
    | split
    | (with_reducible refine keeps_ofFst (by assumption) ?_)
    | (with_reducible refine keeps_ofSnd (by assumption) ?_)
    | (with_reducible refine keeps_ofThird (by assumption) ?_)
    | (with_reducible refine keeps_ofOpt (by assumption) ?_)
    | (with_reducible refine keeps_ofEx (by assumption) ?_)
    | (with_reducible refine keeps_ofSome (by assumption) ?_)
    | dsimp -zeta only)
theorem doDerive_keeps (K : Keep P 2183152330) {ref : JobRef} {p : Nat} {s : State} {j : Job}  (hP : P s) : P (doDerive ref p s j) := by
  have k33554440 : Keep P 33554440 := K.sub rfl
  have k2149597386 : Keep P 2149597386 := K.sub rfl
  have k2149597898 : Keep P 2149597898 := K.sub rfl
  unfold doDerive
  repeat' (first
    | with_reducible assumption
    | (extract_lets +onlyGivenNames s'; first | (refine (fun (hs' : P s') => ?_) ?_; clear_value s'; rotate_left; subst s') | clear_value s' | skip)
    | (with_reducible apply cphFail_keeps k2149597898)
    | (with_reducible apply cphBad_keeps k2149597898)
    | (with_reducible apply cphDone_keeps k2149597898)
    | (with_reducible apply putKs_keeps k33554440)
    | (with_reducible apply noteReads_keeps k2149597386)
    | split
    | ((with_reducible refine Keep.mk (f := 33554432) ?_ ?_ ?_); (exact K.sub rfl); rotate_left; (exact ⟨rfl, rfl, canon_same rfl, .same rfl, .same rfl, .same rfl, ⟨.inr rfl, .inl rfl, .inr rfl, .inr rfl, .inr rfl, .inr rfl, .inr rfl, .inr rfl⟩⟩); first | with_reducible assumption))
theorem execDerive_keeps (K : Keep P 2183152330) {j : JobRef} {p : Nat} {s : State} {sOut : State} (hP : P s) (e : execDerive j p s = .next sOut) : P sOut := by
  have k2183152330 : Keep P 2183152330 := K.sub rfl
  refine ok_keeps ?_ e
  repeat' (first
    | with_reducible assumption
    | intro _
    | (extract_lets +onlyGivenNames s'; first | (refine (fun (hs' : P s') => ?_) ?_; clear_value s'; rotate_left; subst s') | (refine (fun (hs' : P s'.1) => ?_) ?_; clear_value s'; rotate_left; subst s') | (refine (fun (hs' : P s'.s) => ?_) ?_; clear_value s'; rotate_left; subst s') | (refine (fun (hs' : P s'.2) => ?_) ?_; clear_value s'; rotate_left; subst s') | (refine (fun (hs' : P s'.2.2) => ?_) ?_; clear_value s'; rotate_left; subst s') | (refine (fun (hs' : OptKeeps P s') => ?_) ?_; clear_value s'; rotate_left; subst s') | (refine (fun (hs' : ExKeeps P s') => ?_) ?_; clear_value s'; rotate_left; subst s') | (have _hs : State → _ := s'; clear _hs) | clear_value s' | skip)
    | (with_reducible apply cphRun_keeps k2183152330)
    | (with_reducible apply doDerive_keeps k2183152330)
    | split
    | (with_reducible refine keeps_ofFst (by assumption) ?_)
    | (with_reducible refine keeps_ofSnd (by assumption) ?_)
    | (with_reducible refine keeps_ofThird (by assumption) ?_)
    | (with_reducible refine keeps_ofOpt (by assumption) ?_)
    | (with_reducible refine keeps_ofEx (by assumption) ?_)
    | (with_reducible refine keeps_ofSome (by assumption) ?_)
    | dsimp -zeta only)
theorem doErase_keeps (K : Keep P 2183152330) {ref : JobRef} {p : Nat} {s : State} {j : Job}  (hP : P s) : P (doErase ref p s j) := by
  have k33554440 : Keep P 33554440 := K.sub rfl
  have k2149597898 : Keep P 2149597898 := K.sub rfl
  unfold doErase
  repeat' (first
    | with_reducible assumption
    | (extract_lets +onlyGivenNames s'; first | (refine (fun (hs' : P s') => ?_) ?_; clear_value s'; rotate_left; subst s') | clear_value s' | skip)
    | (with_reducible apply cphDone_keeps k2149597898)
    | (with_reducible apply putKs_keeps k33554440))
theorem execErase_keeps (K : Keep P 2183152330) {j : JobRef} {p : Nat} {s : State} {sOut : State} (hP : P s) (e : execErase j p s = .next sOut) : P sOut := by
  have k2183152330 : Keep P 2183152330 := K.sub rfl
  refine ok_keeps ?_ e
  repeat' (first
    | with_reducible assumption
    | intro _
    | (extract_lets +onlyGivenNames s'; first | (refine (fun (hs' : P s') => ?_) ?_; clear_value s'; rotate_left; subst s') | (refine (fun (hs' : P s'.1) => ?_) ?_; clear_value s'; rotate_left; subst s') | (refine (fun (hs' : P s'.s) => ?_) ?_; clear_value s'; rotate_left; subst s') | (refine (fun (hs' : P s'.2) => ?_) ?_; clear_value s'; rotate_left; subst s') | (refine (fun (hs' : P s'.2.2) => ?_) ?_; clear_value s'; rotate_left; subst s') | (refine (fun (hs' : OptKeeps P s') => ?_) ?_; clear_value s'; rotate_left; subst s') | (refine (fun (hs' : ExKeeps P s') => ?_) ?_; clear_value s'; rotate_left; subst s') | (have _hs : State → _ := s'; clear _hs) | clear_value s' | skip)
    | (with_reducible apply cphRun_keeps k2183152330)
    | (with_reducible apply doErase_keeps k2183152330)
    | split
    | (with_reducible refine keeps_ofFst (by assumption) ?_)
    | (with_reducible refine keeps_ofSnd (by assumption) ?_)
    | (with_reducible refine keeps_ofThird (by assumption) ?_)
    | (with_reducible refine keeps_ofOpt (by assumption) ?_)
    | (with_reducible refine keeps_ofEx (by assumption) ?_)
    | (with_reducible refine keeps_ofSome (by assumption) ?_)
    | dsimp -zeta only)
theorem effEntryFreed_keeps (K : Keep P 2183151818) {s : State}  (hP : P s) : P (effEntryFreed s) := by
  have k33554432 : Keep P 33554432 := K.sub rfl
  have k2149597386 : Keep P 2149597386 := K.sub rfl
  unfold effEntryFreed
  repeat' (first
    | with_reducible assumption
    | (extract_lets +onlyGivenNames s'; first | (refine (fun (hs' : P s') => ?_) ?_; clear_value s'; rotate_left; subst s') | clear_value s' | skip)
    | (with_reducible apply cphPrune_keeps k33554432)
    | (with_reducible apply refreshCph_keeps k2149597386)
    | split
    | ((with_reducible refine Keep.mk (f := 33554432) ?_ ?_ ?_); (exact K.sub rfl); rotate_left; (exact ⟨rfl, rfl, canon_same rfl, .same rfl, .same rfl, .same rfl, ⟨.inr rfl, .inl rfl, .inr rfl, .inr rfl, .inr rfl, .inr rfl, .inr rfl, .inr rfl⟩⟩); first | with_reducible assumption))
theorem execCmdQueueEntryFreed_keeps (K : Keep P 2183151818) {s : State} {sOut : State} (hP : P s) (e : execCmdQueueEntryFreed s = .next sOut) : P sOut := ok_keeps (effEntryFreed_keeps (K.sub rfl) hP) e
theorem streamFail_keeps (K : Keep P 2183152330) {s : State} {ref : JobRef} {p c err : Nat}  (hP : P s) : P (streamFail s ref p c err) := by
  have k33554440 : Keep P 33554440 := K.sub rfl
  have k2149597898 : Keep P 2149597898 := K.sub rfl
  unfold streamFail
  repeat' (first
    | with_reducible assumption
    | (with_reducible apply cphFail_keeps k2149597898)
    | (with_reducible apply freeCx_keeps k33554440)
    | split)
theorem wipeCtx_keeps (K : Keep P 2149597386) {s : State} {x : CipherCtx}  (hP : P s) : P (wipeCtx s x) := by
  have k2149597386 : Keep P 2149597386 := K.sub rfl
  unfold wipeCtx
  repeat' (first
    | with_reducible assumption
    | (with_reducible apply storeNoted_keeps k2149597386)
    | split)
theorem finishStream_keeps (K : Keep P 2183152330) {s : State} {ref : JobRef} {p c : Nat} {a : List Byte} {key : List Nat} {x : CipherCtx}  (hP : P s) : P (finishStream s ref p c a key x) := by
  have k8 : Keep P 8 := K.sub rfl
  have k33554440 : Keep P 33554440 := K.sub rfl
  have k2149597386 : Keep P 2149597386 := K.sub rfl
  have k2149597898 : Keep P 2149597898 := K.sub rfl
  have k2183152330 : Keep P 2183152330 := K.sub rfl
  unfold finishStream
  repeat' (first
    | with_reducible assumption
    | (extract_lets +onlyGivenNames s'; first | (refine (fun (hs' : P s') => ?_) ?_; clear_value s'; rotate_left; subst s') | (refine (fun (hs' : P s'.1) => ?_) ?_; clear_value s'; rotate_left; subst s') | clear_value s' | skip)
    | (with_reducible apply cphDone_keeps k2149597898)
    | (with_reducible apply putCx_keeps k33554440)
    | (with_reducible apply freeCx_keeps k33554440)
    | (with_reducible apply putOut_keeps k2149597386)
    | (with_reducible apply cphBad_keeps k2149597898)
    | (with_reducible apply noteRead_keeps k2149597386)
    | (with_reducible apply streamFail_keeps k2183152330)
    | (with_reducible apply rinc_keeps k8)
    | (with_reducible apply wipeCtx_keeps k2149597386)
    | split
    | (with_reducible refine keeps_ofFst (by assumption) ?_)
    | dsimp -zeta only)
theorem doStream_keeps (K : Keep P 2183152330) {s : State} {ref : JobRef} {p : Nat} {j : Job}  (hP : P s) : P (doStream s ref p j) := by
  have k33554440 : Keep P 33554440 := K.sub rfl
  have k2149597386 : Keep P 2149597386 := K.sub rfl
  have k2149597898 : Keep P 2149597898 := K.sub rfl
  have k2183152330 : Keep P 2183152330 := K.sub rfl
  unfold doStream
  repeat' (first
    | with_reducible assumption
    | (extract_lets +onlyGivenNames s'; first | (refine (fun (hs' : P s') => ?_) ?_; clear_value s'; rotate_left; subst s') | (refine (fun (hs' : P s'.1) => ?_) ?_; clear_value s'; rotate_left; subst s') | clear_value s' | skip)
    | (with_reducible apply streamFail_keeps k2183152330)
    | (with_reducible apply cphBad_keeps k2149597898)
    | (with_reducible apply freeCx_keeps k33554440)
    | (with_reducible apply putOut_keeps k2149597386)
    | (with_reducible apply noteReads_keeps k2149597386)
    | (with_reducible apply finishStream_keeps k2183152330)
    | split
    | (with_reducible refine keeps_ofFst (by assumption) ?_)
    | dsimp -zeta only)
theorem streamRun_keeps (K : Keep P 2183152330) {s : State} {ref : JobRef} {p var : Nat} {f : State → JobRef → Nat → Job → State} (hf_f : ∀ (a0 : State) (a1 : JobRef) (a2 : Nat) (a3 : Job), P a0 → P (f a0 a1 a2 a3)) (hP : P s) : P (streamRun s ref p var f) := by
  have k2149597386 : Keep P 2149597386 := K.sub rfl
  have k2149597898 : Keep P 2149597898 := K.sub rfl
  have k2183152330 : Keep P 2183152330 := K.sub rfl
  unfold streamRun
  repeat' (first
    | with_reducible assumption
    | (with_reducible apply refreshCph_keeps k2149597386)
    | (with_reducible apply streamFail_keeps k2183152330)
    | (with_reducible apply cphFail_keeps k2149597898)
    | (with_reducible apply hf_f)
    | split)
theorem execStream_keeps (K : Keep P 2183152330) {j : JobRef} {p : Nat} {s : State} {sOut : State} (hP : P s) (e : execStream j p s = .next sOut) : P sOut := by
  have k2183152330 : Keep P 2183152330 := K.sub rfl
  refine ok_keeps ?_ e
  repeat' (first
    | with_reducible assumption
    | intro _
    | (extract_lets +onlyGivenNames s'; first | (refine (fun (hs' : P s') => ?_) ?_; clear_value s'; rotate_left; subst s') | (refine (fun (hs' : P s'.1) => ?_) ?_; clear_value s'; rotate_left; subst s') | (refine (fun (hs' : P s'.s) => ?_) ?_; clear_value s'; rotate_left; subst s') | (refine (fun (hs' : P s'.2) => ?_) ?_; clear_value s'; rotate_left; subst s') | (refine (fun (hs' : P s'.2.2) => ?_) ?_; clear_value s'; rotate_left; subst s') | (refine (fun (hs' : OptKeeps P s') => ?_) ?_; clear_value s'; rotate_left; subst s') | (refine (fun (hs' : ExKeeps P s') => ?_) ?_; clear_value s'; rotate_left; subst s') | (have _hs : State → _ := s'; clear _hs) | clear_value s' | skip)
    | (with_reducible apply streamRun_keeps k2183152330)
    | (with_reducible apply doStream_keeps k2183152330)
    | split
    | (with_reducible refine keeps_ofFst (by assumption) ?_)
    | (with_reducible refine keeps_ofSnd (by assumption) ?_)
    | (with_reducible refine keeps_ofThird (by assumption) ?_)
    | (with_reducible refine keeps_ofOpt (by assumption) ?_)
    | (with_reducible refine keeps_ofEx (by assumption) ?_)
    | (with_reducible refine keeps_ofSome (by assumption) ?_)
    | dsimp -zeta only)
theorem doSave_keeps (K : Keep P 2149597898) {s : State} {ref : JobRef} {p : Nat} {j : Job}  (hP : P s) : P (doSave s ref p j) := by
  have k2 : Keep P 2 := K.sub rfl
  have k2149597386 : Keep P 2149597386 := K.sub rfl
  have k2149597898 : Keep P 2149597898 := K.sub rfl
  unfold doSave
  repeat' (first
    | with_reducible assumption
    | intro _
    | (extract_lets +onlyGivenNames s'; first | (refine (fun (hs' : P s') => ?_) ?_; clear_value s'; rotate_left; subst s') | (refine (fun (hs' : P s'.1) => ?_) ?_; clear_value s'; rotate_left; subst s') | (refine (fun (hs' : P s'.2) => ?_) ?_; clear_value s'; rotate_left; subst s') | clear_value s' | skip)
    | (with_reducible apply cphFail_keeps k2149597898)
    | (with_reducible apply takeFree_keeps k2)
    | (with_reducible apply storeBytes_keeps k2149597386)
    | (with_reducible apply cphBad_keeps k2149597898)
    | (with_reducible apply cphDone_keeps k2149597898)
    | split
    | (with_reducible refine keeps_ofFst (by assumption) ?_)
    | (with_reducible refine keeps_ofSnd (by assumption) ?_)
    | dsimp -zeta only)
theorem execCtxSave_keeps (K : Keep P 2183152330) {j : JobRef} {p : Nat} {s : State} {sOut : State} (hP : P s) (e : execCtxSave j p s = .next sOut) : P sOut := by
  have k2149597898 : Keep P 2149597898 := K.sub rfl
  have k2183152330 : Keep P 2183152330 := K.sub rfl
  refine ok_keeps ?_ e
  repeat' (first
    | with_reducible assumption
    | intro _
    | (extract_lets +onlyGivenNames s'; first | (refine (fun (hs' : P s') => ?_) ?_; clear_value s'; rotate_left; subst s') | (refine (fun (hs' : P s'.1) => ?_) ?_; clear_value s'; rotate_left; subst s') | (refine (fun (hs' : P s'.s) => ?_) ?_; clear_value s'; rotate_left; subst s') | (refine (fun (hs' : P s'.2) => ?_) ?_; clear_value s'; rotate_left; subst s') | (refine (fun (hs' : P s'.2.2) => ?_) ?_; clear_value s'; rotate_left; subst s') | (refine (fun (hs' : OptKeeps P s') => ?_) ?_; clear_value s'; rotate_left; subst s') | (refine (fun (hs' : ExKeeps P s') => ?_) ?_; clear_value s'; rotate_left; subst s') | (have _hs : State → _ := s'; clear _hs) | clear_value s' | skip)
    | (with_reducible apply streamRun_keeps k2183152330)
    | (with_reducible apply doSave_keeps k2149597898)
    | split
    | (with_reducible refine keeps_ofFst (by assumption) ?_)
    | (with_reducible refine keeps_ofSnd (by assumption) ?_)
    | (with_reducible refine keeps_ofThird (by assumption) ?_)
    | (with_reducible refine keeps_ofOpt (by assumption) ?_)
    | (with_reducible refine keeps_ofEx (by assumption) ?_)
    | (with_reducible refine keeps_ofSome (by assumption) ?_)
    | dsimp -zeta only)
theorem doRestore_keeps (K : Keep P 2183152330) {s : State} {ref : JobRef} {p : Nat} {j : Job}  (hP : P s) : P (doRestore s ref p j) := by
  have k8 : Keep P 8 := K.sub rfl
  have k33554440 : Keep P 33554440 := K.sub rfl
  have k2149597386 : Keep P 2149597386 := K.sub rfl
  have k2149597898 : Keep P 2149597898 := K.sub rfl
  unfold doRestore
  repeat' (first
    | with_reducible assumption
    | (extract_lets +onlyGivenNames s'; first | (refine (fun (hs' : P s') => ?_) ?_; clear_value s'; rotate_left; subst s') | clear_value s' | skip)
    | (with_reducible apply cphFail_keeps k2149597898)
    | (with_reducible apply cphBad_keeps k2149597898)
    | (with_reducible apply noteReads_keeps k2149597386)
    | (with_reducible apply rinc_keeps k8)
    | (with_reducible apply cphDone_keeps k2149597898)
    | (with_reducible apply putCx_keeps k33554440)
    | split)
theorem execCtxRestore_keeps (K : Keep P 2183152330) {j : JobRef} {p : Nat} {s : State} {sOut : State} (hP : P s) (e : execCtxRestore j p s = .next sOut) : P sOut := by
  have k2183152330 : Keep P 2183152330 := K.sub rfl
  refine ok_keeps ?_ e
  repeat' (first
    | with_reducible assumption
    | intro _
    | (extract_lets +onlyGivenNames s'; first | (refine (fun (hs' : P s') => ?_) ?_; clear_value s'; rotate_left; subst s') | (refine (fun (hs' : P s'.1) => ?_) ?_; clear_value s'; rotate_left; subst s') | (refine (fun (hs' : P s'.s) => ?_) ?_; clear_value s'; rotate_left; subst s') | (refine (fun (hs' : P s'.2) => ?_) ?_; clear_value s'; rotate_left; subst s') | (refine (fun (hs' : P s'.2.2) => ?_) ?_; clear_value s'; rotate_left; subst s') | (refine (fun (hs' : OptKeeps P s') => ?_) ?_; clear_value s'; rotate_left; subst s') | (refine (fun (hs' : ExKeeps P s') => ?_) ?_; clear_value s'; rotate_left; subst s') | (have _hs : State → _ := s'; clear _hs) | clear_value s' | skip)
    | (with_reducible apply streamRun_keeps k2183152330)
    | (with_reducible apply doRestore_keeps k2183152330)
    | split
    | (with_reducible refine keeps_ofFst (by assumption) ?_)
    | (with_reducible refine keeps_ofSnd (by assumption) ?_)
    | (with_reducible refine keeps_ofThird (by assumption) ?_)
    | (with_reducible refine keeps_ofOpt (by assumption) ?_)
    | (with_reducible refine keeps_ofEx (by assumption) ?_)
    | (with_reducible refine keeps_ofSome (by assumption) ?_)
    | dsimp -zeta only)
theorem effRootCtl_keeps (K : Keep P 33554440) {s : State} {owner : Nat} {v : Word}  (hP : P s) : P (effRootCtl s owner v) := by
  have k8 : Keep P 8 := K.sub rfl
  have k33554432 : Keep P 33554432 := K.sub rfl
  unfold effRootCtl
  repeat' (first
    | with_reducible assumption
    | intro _
    | (extract_lets +onlyGivenNames s'; first | (refine (fun (hs' : P s') => ?_) ?_; clear_value s'; rotate_left; subst s') | clear_value s' | skip)
    | (with_reducible apply rinc_keeps k8)
    | (with_reducible apply setRoot_keeps k33554432)
    | (with_reducible apply rputN_keeps k8)
    | (with_reducible apply foldl_keeps)
    | split
    | ((with_reducible refine Keep.mk (f := 33554432) ?_ ?_ ?_); (exact K.sub rfl); rotate_left; (exact ⟨rfl, rfl, canon_same rfl, .same rfl, .same rfl, .same rfl, ⟨.inr rfl, .inl rfl, .inr rfl, .inr rfl, .inr rfl, .inr rfl, .inr rfl, .inr rfl⟩⟩); first | with_reducible assumption))
theorem execRootLoad_keeps (K : Keep P 33554440) {owner : Nat} {v : Word} {s : State} {sOut : State} (hP : P s) (e : execRootLoad owner v s = .next sOut) : P sOut := by
  have k0 : Keep P 0 := K.sub rfl
  have k33554440 : Keep P 33554440 := K.sub rfl
  refine ok_keeps ?_ e
  repeat' (first
    | with_reducible assumption
    | (with_reducible apply byAgent_keeps k0)
    | (with_reducible apply effRootCtl_keeps k33554440)
    | split)
theorem execRootClear_keeps (K : Keep P 33554440) {owner : Nat} {v : Word} {s : State} {sOut : State} (hP : P s) (e : execRootClear owner v s = .next sOut) : P sOut := by
  have k0 : Keep P 0 := K.sub rfl
  have k33554440 : Keep P 33554440 := K.sub rfl
  refine ok_keeps ?_ e
  repeat' (first
    | with_reducible assumption
    | (with_reducible apply byAgent_keeps k0)
    | (with_reducible apply effRootCtl_keeps k33554440)
    | split)
theorem effLidEn_keeps (K : Keep P 8) {s : State} {v : Word}  (hP : P s) : P (effLidEn s v) := by
  have k8 : Keep P 8 := K.sub rfl
  unfold effLidEn
  repeat' (first
    | with_reducible assumption
    | (with_reducible apply rputBit_keeps k8)
    | split)
theorem execLidEnWrite_keeps (K : Keep P 8) {v : Word} {s : State} {sOut : State} (hP : P s) (e : execLidEnWrite v s = .next sOut) : P sOut := ok_keeps (effLidEn_keeps (K.sub rfl) hP) e
theorem undefOut_keeps (K : Keep P 2149597386) {s : State} {j : Job}  (hP : P s) : P (undefOut s j) := by
  have k2149597386 : Keep P 2149597386 := K.sub rfl
  unfold undefOut
  repeat' (first
    | with_reducible assumption
    | (extract_lets +onlyGivenNames s'; first | (refine (fun (hs' : P s') => ?_) ?_; clear_value s'; rotate_left; subst s') | (refine (fun (hs' : P s'.1) => ?_) ?_; clear_value s'; rotate_left; subst s') | clear_value s' | skip)
    | (with_reducible apply storeUndef_keeps k2149597386)
    | split
    | (with_reducible refine keeps_ofFst (by assumption) ?_)
    | dsimp -zeta only)
theorem cphWipe_keeps (K : Keep P 2183152330) {s : State}  (hP : P s) : P (cphWipe s) := by
  have k8 : Keep P 8 := K.sub rfl
  have k33554440 : Keep P 33554440 := K.sub rfl
  have k2149597386 : Keep P 2149597386 := K.sub rfl
  have k2149597898 : Keep P 2149597898 := K.sub rfl
  unfold cphWipe
  repeat' (first
    | with_reducible assumption
    | intro _
    | (extract_lets +onlyGivenNames s'; first | (refine (fun (hs' : P s') => ?_) ?_; clear_value s'; rotate_left; subst s') | clear_value s' | skip)
    | (with_reducible apply wipeCtx_keeps k2149597386)
    | (with_reducible apply cphFail_keeps k2149597898)
    | (with_reducible apply undefOut_keeps k2149597386)
    | (with_reducible apply freeCx_keeps k33554440)
    | (with_reducible apply emptySlot_keeps k33554440)
    | (with_reducible apply rinc_keeps k8)
    | (with_reducible apply foldl_keeps)
    | ((with_reducible refine Keep.mk (f := 33554432) ?_ ?_ ?_); (exact K.sub rfl); rotate_left; (exact ⟨rfl, rfl, canon_of id id id id id id id id id id id (by first | with_reducible exact id | exact fun _ => rfl) id id id id id id id id id id id, .same rfl, .same rfl, .same rfl, ⟨.inr rfl, .inl rfl, .inr rfl, .inr rfl, .inr rfl, .inr rfl, .inr rfl, .inr rfl⟩⟩); first | with_reducible assumption))
theorem cphAlarm_keeps (K : Keep P 2183152330) {s : State} {cause : Nat}  (hP : P s) : P (cphAlarm s cause) := by
  have k8 : Keep P 8 := K.sub rfl
  have k2149597386 : Keep P 2149597386 := K.sub rfl
  have k2183152330 : Keep P 2183152330 := K.sub rfl
  unfold cphAlarm
  repeat' (first
    | with_reducible assumption
    | (extract_lets +onlyGivenNames s'; first | (refine (fun (hs' : P s') => ?_) ?_; clear_value s'; rotate_left; subst s') | clear_value s' | skip)
    | (with_reducible apply rputF_keeps k8)
    | (with_reducible apply cphWipe_keeps k2183152330)
    | (with_reducible apply rputBit_keeps k8)
    | (with_reducible apply evtSet_keeps k2149597386)
    | (with_reducible apply refreshCph_keeps k2149597386)
    | split
    | ((with_reducible refine Keep.mk (f := 33554432) ?_ ?_ ?_); (exact K.sub rfl); rotate_left; (exact ⟨rfl, rfl, canon_same rfl, .same rfl, .same rfl, .same rfl, ⟨.inr rfl, .inl rfl, .inr rfl, .inr rfl, .inr rfl, .inr rfl, .inr rfl, .inr rfl⟩⟩); first | with_reducible assumption))

end Sys2Proof.Machine
end

