-- ==== Sys2Proof/Laws/KeepAcnis.lean ====
section
/-! SUPPORT. What each operation of Machine/Acnis.lean may write (Touch): a property that stands under changes of those areas stands after the
operation. The mask is the union of the areas written. -/

set_option linter.unreachableTactic false
set_option linter.unusedTactic false
set_option linter.unusedVariables false
set_option linter.tactic.unusedName false

namespace Sys2Proof.Machine

variable {P : State → Prop}

theorem setPState_keeps (K : Keep P 8) {s : State} {p st : Nat}  (hP : P s) : P (setPState s p st) := rputF_keeps (K.sub rfl) hP
theorem setMisses_keeps (K : Keep P 8) {s : State} {p n : Nat}  (hP : P s) : P (setMisses s p n) := rputF_keeps (K.sub rfl) hP
theorem refreshSxu_keeps (K : Keep P 2149597386) {s : State}  (hP : P s) : P (refreshSxu s) := by
  have k2149597386 : Keep P 2149597386 := K.sub rfl
  unfold refreshSxu
  repeat' (first
    | with_reducible assumption
    | (with_reducible apply setCode_keeps k2149597386)
    | split)
theorem sxEvent_keeps (K : Keep P 2149597386) {s : State} {b : Nat}  (hP : P s) : P (sxEvent s b) := by
  have k8 : Keep P 8 := K.sub rfl
  have k2149597386 : Keep P 2149597386 := K.sub rfl
  unfold sxEvent
  repeat' (first
    | with_reducible assumption
    | (extract_lets +onlyGivenNames s'; first | (refine (fun (hs' : P s') => ?_) ?_; clear_value s'; rotate_left; subst s') | clear_value s' | skip)
    | (with_reducible apply rputBit_keeps k8)
    | (with_reducible apply evtSet_keeps k2149597386))
theorem storeAll_keeps (K : Keep P 2149597386) {e0 : List (Nat × List Byte)} {e1 : State}  (hP : P e1) : P (storeAll e0 e1).1 := by
  have k2149597386 : Keep P 2149597386 := K.sub rfl
  induction e0 generalizing e1 with
  | nil =>
    unfold storeAll
    repeat' (first
    | with_reducible assumption
    | (with_reducible apply storeBytes_keeps k2149597386)
    | split
    | (with_reducible refine keeps_ofFst (by assumption) ?_)
    | dsimp -zeta only)
  | cons a r ih =>
    unfold storeAll
    repeat' (first
    | (with_reducible apply ih)
    | with_reducible assumption
    | (with_reducible apply storeBytes_keeps k2149597386)
    | split
    | (with_reducible refine keeps_ofFst (by assumption) ?_)
    | dsimp -zeta only)
theorem putSx_keeps (K : Keep P 67108864) {s : State} {p : Nat} {x : SxPeer}  (hP : P s) : P (putSx s p x) := by
  unfold putSx
  repeat' (first
    | with_reducible assumption
    | ((with_reducible refine Keep.mk (f := 67108864) ?_ ?_ ?_); (exact K.sub rfl); rotate_left; (exact ⟨rfl, rfl, canon_of id id id id id id id id id id id id id id (by first | with_reducible exact id | exact smWf_smSet _ _ _ _) id id id id id id id id, .same rfl, .same rfl, .same rfl, ⟨.inr rfl, .inr rfl, .inl rfl, .inr rfl, .inr rfl, .inr rfl, .inr rfl, .inr rfl⟩⟩); first | with_reducible assumption))
theorem sxuArrive_keeps (K : Keep P 2183151818) {s : State} {r : CphReq}  (hP : P s) : P (sxuArrive s r) := by
  have k2149597386 : Keep P 2149597386 := K.sub rfl
  unfold sxuArrive
  repeat' (first
    | with_reducible assumption
    | (with_reducible apply refreshCph_keeps k2149597386)
    | split
    | ((with_reducible refine Keep.mk (f := 33554432) ?_ ?_ ?_); (exact K.sub rfl); rotate_left; (exact ⟨rfl, rfl, canon_same rfl, .same rfl, .same rfl, .same rfl, ⟨.inr rfl, .inl rfl, .inr rfl, .inr rfl, .inr rfl, .inr rfl, .inr rfl, .inr rfl⟩⟩); first | with_reducible assumption))
theorem noteEpoch_keeps (K : Keep P 67108864) {s : State} {p : Nat}  (hP : P s) : P (noteEpoch s p) := by
  have k67108864 : Keep P 67108864 := K.sub rfl
  unfold noteEpoch
  repeat' (first
    | with_reducible assumption
    | (extract_lets +onlyGivenNames s'; first | (refine (fun (hs' : P s') => ?_) ?_; clear_value s'; rotate_left; subst s') | clear_value s' | skip)
    | (with_reducible apply putSx_keeps k67108864)
    | split)
theorem sendTo_keeps (K : Keep P 2250260682) {s : State} {ad : SxTo × Nat} {m : AMsg}  (hP : P s) : P (sendTo s ad m) := by
  have k67108864 : Keep P 67108864 := K.sub rfl
  have k2183151818 : Keep P 2183151818 := K.sub rfl
  unfold sendTo
  repeat' (first
    | with_reducible assumption
    | (extract_lets +onlyGivenNames s'; first | (refine (fun (hs' : P s') => ?_) ?_; clear_value s'; rotate_left; subst s') | clear_value s' | skip)
    | (with_reducible apply noteEpoch_keeps k67108864)
    | (with_reducible apply sxuArrive_keeps k2183151818)
    | (with_reducible apply putSx_keeps k67108864)
    | split
    | (with_reducible refine keeps_ofFst (by assumption) ?_))
theorem sendMsg_keeps (K : Keep P 2250260682) {s : State} {p : Nat} {m : AMsg}  (hP : P s) : P (sendMsg s p m) := sendTo_keeps (K.sub rfl) hP
theorem acnisSend_keeps (K : Keep P 2147483656) {s : State} {ad : SxTo} {m : AMsg}  (hP : P s) : P (acnisSend s ad m) := by
  have k8 : Keep P 8 := K.sub rfl
  have k2147483648 : Keep P 2147483648 := K.sub rfl
  unfold acnisSend
  repeat' (first
    | with_reducible assumption
    | (extract_lets +onlyGivenNames s'; first | (refine (fun (hs' : P s') => ?_) ?_; clear_value s'; rotate_left; subst s') | clear_value s' | skip)
    | (with_reducible apply rinc64_keeps k8)
    | (with_reducible apply emit_keeps k2147483648)
    | (with_reducible apply ethSent_keeps k8)
    | split)
theorem putOutItem_keeps (K : Keep P 67108864) {s : State} {o : SxOut}  (hP : P s) : P (putOutItem s o) := by
  unfold putOutItem
  repeat' (first
    | with_reducible assumption
    | intro _
    | split
    | ((with_reducible refine Keep.mk (f := 67108864) ?_ ?_ ?_); (exact K.sub rfl); rotate_left; (exact ⟨rfl, rfl, canon_same rfl, .same rfl, .same rfl, .same rfl, ⟨.inr rfl, .inr rfl, .inl rfl, .inr rfl, .inr rfl, .inr rfl, .inr rfl, .inr rfl⟩⟩); first | with_reducible assumption))
theorem sendDone_keeps (K : Keep P 2250260682) {s : State} {o : SxOut}  (hP : P s) : P (sendDone s o) := by
  have k67108864 : Keep P 67108864 := K.sub rfl
  have k2250260682 : Keep P 2250260682 := K.sub rfl
  unfold sendDone
  repeat' (first
    | with_reducible assumption
    | (with_reducible apply sendMsg_keeps k2250260682)
    | (with_reducible apply putOutItem_keeps k67108864))
theorem queueOut_keeps (K : Keep P 2250260682) {s : State} {o : SxOut}  (hP : P s) : P (queueOut s o) := by
  have k2250260682 : Keep P 2250260682 := K.sub rfl
  unfold queueOut
  repeat' (first
    | with_reducible assumption
    | intro _
    | (extract_lets +onlyGivenNames s'; first | (refine (fun (hs' : P s') => ?_) ?_; clear_value s'; rotate_left; subst s') | clear_value s' | skip)
    | (with_reducible apply sendDone_keeps k2250260682)
    | split
    | ((with_reducible refine Keep.mk (f := 67108864) ?_ ?_ ?_); (exact K.sub rfl); rotate_left; (exact ⟨rfl, rfl, canon_same rfl, .same rfl, .same rfl, .same rfl, ⟨.inr rfl, .inr rfl, .inl rfl, .inr rfl, .inr rfl, .inr rfl, .inr rfl, .inr rfl⟩⟩); first | with_reducible assumption))
theorem effTransmit_keeps (K : Keep P 2250260682) {s : State} {p : Nat}  (hP : P s) : P (effTransmit s p) := by
  have k8 : Keep P 8 := K.sub rfl
  have k2149597386 : Keep P 2149597386 := K.sub rfl
  have k2250260682 : Keep P 2250260682 := K.sub rfl
  unfold effTransmit
  repeat' (first
    | with_reducible assumption
    | intro _
    | (extract_lets +onlyGivenNames s'; first | (refine (fun (hs' : P s') => ?_) ?_; clear_value s'; rotate_left; subst s') | clear_value s' | skip)
    | (with_reducible apply reportUe_keeps k2149597386)
    | (with_reducible apply sendMsg_keeps k2250260682)
    | (with_reducible apply noteReads_keeps k2149597386)
    | (with_reducible apply rinc_keeps k8)
    | (with_reducible apply sendDone_keeps k2250260682)
    | split
    | ((with_reducible refine Keep.mk (f := 67108864) ?_ ?_ ?_); (exact K.sub rfl); rotate_left; (exact ⟨rfl, rfl, canon_same rfl, .same rfl, .same rfl, .same rfl, ⟨.inr rfl, .inr rfl, .inl rfl, .inr rfl, .inr rfl, .inr rfl, .inr rfl, .inr rfl⟩⟩); first | with_reducible assumption))
theorem execSegmentTransmit_keeps (K : Keep P 2250260682) {peer : Nat} {s : State} {sOut : State} (hP : P s) (e : execSegmentTransmit peer s = .next sOut) : P sOut := ok_keeps (effTransmit_keeps (K.sub rfl) hP) e
theorem putIn_keeps (K : Keep P 67108864) {s : State} {x : SxIn}  (hP : P s) : P (putIn s x) := by
  unfold putIn
  repeat' (first
    | with_reducible assumption
    | intro _
    | split
    | ((with_reducible refine Keep.mk (f := 67108864) ?_ ?_ ?_); (exact K.sub rfl); rotate_left; (exact ⟨rfl, rfl, canon_same rfl, .same rfl, .same rfl, .same rfl, ⟨.inr rfl, .inr rfl, .inl rfl, .inr rfl, .inr rfl, .inr rfl, .inr rfl, .inr rfl⟩⟩); first | with_reducible assumption))
theorem dropIn_keeps (K : Keep P 67108864) {s : State} {x : SxIn}  (hP : P s) : P (dropIn s x) := by
  unfold dropIn
  repeat' (first
    | with_reducible assumption
    | intro _
    | ((with_reducible refine Keep.mk (f := 67108864) ?_ ?_ ?_); (exact K.sub rfl); rotate_left; (exact ⟨rfl, rfl, canon_same rfl, .same rfl, .same rfl, .same rfl, ⟨.inr rfl, .inr rfl, .inl rfl, .inr rfl, .inr rfl, .inr rfl, .inr rfl, .inr rfl⟩⟩); first | with_reducible assumption))
theorem sendNack_keeps (K : Keep P 2250260682) {s : State} {x : SxIn} {n : Nat}  (hP : P s) : P (sendNack s x n) := by
  have k67108864 : Keep P 67108864 := K.sub rfl
  have k2250260682 : Keep P 2250260682 := K.sub rfl
  unfold sendNack
  repeat' (first
    | with_reducible assumption
    | intro _
    | (extract_lets +onlyGivenNames s'; first | (refine (fun (hs' : P s') => ?_) ?_; clear_value s'; rotate_left; subst s') | clear_value s' | skip)
    | (with_reducible apply sendMsg_keeps k2250260682)
    | (with_reducible apply putIn_keeps k67108864))
theorem sendAck_keeps (K : Keep P 2250260682) {s : State} {x : SxIn}  (hP : P s) : P (sendAck s x) := by
  have k2250260682 : Keep P 2250260682 := K.sub rfl
  unfold sendAck
  repeat' (first
    | with_reducible assumption
    | (with_reducible apply sendMsg_keeps k2250260682))

end Sys2Proof.Machine
end

