-- ==== Sys2Proof/Laws/KeepExchange.lean ====
section
/-! SUPPORT. What each operation of Machine/Exchange.lean may write (Touch): a property that stands under changes of those areas stands after the
operation. The mask is the union of the areas written. -/

set_option linter.unreachableTactic false
set_option linter.unusedTactic false
set_option linter.unusedVariables false
set_option linter.tactic.unusedName false

namespace Sys2Proof.Machine

variable {P : State → Prop}

theorem siteErr_keeps (K : Keep P 2149597386) {s : State} {j : Job} {err item : Nat}  (hP : P s) : P (siteErr s j err item) := by
  have k2149597386 : Keep P 2149597386 := K.sub rfl
  unfold siteErr
  repeat' (first
    | with_reducible assumption
    | (extract_lets +onlyGivenNames s'; first | (refine (fun (hs' : P s') => ?_) ?_; clear_value s'; rotate_left; subst s') | clear_value s' | skip)
    | (with_reducible apply reportErr_keeps k2149597386))
theorem dropSite_keeps (K : Keep P 2216706250) {s : State} {ref : JobRef}  (hP : P s) : P (dropSite s ref) := by
  have k2149597386 : Keep P 2149597386 := K.sub rfl
  unfold dropSite
  repeat' (first
    | with_reducible assumption
    | intro _
    | (with_reducible apply refreshSxu_keeps k2149597386)
    | ((with_reducible refine Keep.mk (f := 67108864) ?_ ?_ ?_); (exact K.sub rfl); rotate_left; (exact ⟨rfl, rfl, canon_same rfl, .same rfl, .same rfl, .same rfl, ⟨.inr rfl, .inr rfl, .inl rfl, .inr rfl, .inr rfl, .inr rfl, .inr rfl, .inr rfl⟩⟩); first | with_reducible assumption))
theorem siteDone_keeps (K : Keep P 2216706762) {s : State} {r : SxRun}  (hP : P s) : P (siteDone s r) := by
  have k512 : Keep P 512 := K.sub rfl
  have k2216706250 : Keep P 2216706250 := K.sub rfl
  unfold siteDone
  repeat' (first
    | with_reducible assumption
    | (with_reducible apply dropSite_keeps k2216706250)
    | (with_reducible apply markWorked_keeps k512))
theorem siteFail_keeps (K : Keep P 2216706762) {s : State} {r : SxRun} {err item : Nat}  (hP : P s) : P (siteFail s r err item) := by
  have k512 : Keep P 512 := K.sub rfl
  have k2149597386 : Keep P 2149597386 := K.sub rfl
  have k2216706250 : Keep P 2216706250 := K.sub rfl
  unfold siteFail
  repeat' (first
    | with_reducible assumption
    | (with_reducible apply dropSite_keeps k2216706250)
    | (with_reducible apply markFaulted_keeps k512)
    | (with_reducible apply siteErr_keeps k2149597386)
    | split)
theorem siteBad_keeps (K : Keep P 2216706762) {s : State} {r : SxRun} {w : Nat}  (hP : P s) : P (siteBad s r w) := by
  have k512 : Keep P 512 := K.sub rfl
  have k2149597386 : Keep P 2149597386 := K.sub rfl
  have k2216706250 : Keep P 2216706250 := K.sub rfl
  unfold siteBad
  repeat' (first
    | with_reducible assumption
    | (with_reducible apply dropSite_keeps k2216706250)
    | (with_reducible apply markFaulted_keeps k512)
    | (with_reducible apply reportUe_keeps k2149597386))
theorem itemErr_keeps (K : Keep P 2149597386) {s : State} {j : Job} {t err : Nat} {w : Option Nat}  (hP : P s) : P (itemErr s j t err w) := by
  have k2149597386 : Keep P 2149597386 := K.sub rfl
  unfold itemErr
  repeat' (first
    | with_reducible assumption
    | (with_reducible apply reportUe_keeps k2149597386)
    | (with_reducible apply siteErr_keeps k2149597386)
    | split)
theorem eachItem_keeps (K : Keep P 2149597898) {j : Job} {units : Bool} {f : State → Nat → State × Option Nat} {e0 : List (Nat × Nat)} {e1 : State} {e2 : Nat} (hf_f : ∀ (a0 : State) (a1 : Nat), P a0 → P (f a0 a1).1) (hP : P e1) : P (eachItem j units f e0 e1 e2).1 := by
  have k2149597386 : Keep P 2149597386 := K.sub rfl
  have k2149597898 : Keep P 2149597898 := K.sub rfl
  induction e0 generalizing j units e1 e2 with
  | nil =>
    unfold eachItem
    repeat' (first
    | with_reducible assumption
    | (extract_lets +onlyGivenNames s'; first | (refine (fun (hs' : P s') => ?_) ?_; clear_value s'; rotate_left; subst s') | clear_value s' | skip)
    | (with_reducible apply itemErr_keeps k2149597386)
    | (with_reducible apply noteReads_keeps k2149597386)
    | (with_reducible apply unitRetired_keeps k2149597898)
    | (with_reducible apply hf_f)
    | split
    | (with_reducible refine keeps_ofFst (by assumption) ?_)
    | dsimp -zeta only)
  | cons a r ih =>
    unfold eachItem
    repeat' (first
    | (with_reducible apply ih)
    | with_reducible assumption
    | (extract_lets +onlyGivenNames s'; first | (refine (fun (hs' : P s') => ?_) ?_; clear_value s'; rotate_left; subst s') | clear_value s' | skip)
    | (with_reducible apply itemErr_keeps k2149597386)
    | (with_reducible apply noteReads_keeps k2149597386)
    | (with_reducible apply unitRetired_keeps k2149597898)
    | (with_reducible apply hf_f)
    | split
    | (with_reducible refine keeps_ofFst (by assumption) ?_)
    | dsimp -zeta only)
theorem readingOf_keeps (K : Keep P 2149597386) {s : State} {rs ws : List (Nat × Nat)} {go : State → State × Option Nat} (hf_go : ∀ (a0 : State), P a0 → P (go a0).1) (hP : P s) : P (readingOf s rs ws go).1 := by
  have k2149597386 : Keep P 2149597386 := K.sub rfl
  unfold readingOf
  repeat' (first
    | with_reducible assumption
    | intro _
    | (with_reducible apply noteReads_keeps k2149597386)
    | (with_reducible apply hf_go)
    | split
    | (with_reducible refine keeps_ofFst (by assumption) ?_)
    | dsimp -zeta only)
theorem initItem_keeps (K : Keep P 2162188490) {step : Nat} {s : State} {t : Nat}  (hP : P s) : P (initItem step s t).1 := by
  have k2149597386 : Keep P 2149597386 := K.sub rfl
  have k2157985994 : Keep P 2157985994 := K.sub rfl
  have k2162188490 : Keep P 2162188490 := K.sub rfl
  unfold initItem
  repeat' (first
    | with_reducible assumption
    | intro _
    | (extract_lets +onlyGivenNames s'; first | (refine (fun (hs' : P s') => ?_) ?_; clear_value s'; rotate_left; subst s') | (refine (fun (hs' : P s'.1) => ?_) ?_; clear_value s'; rotate_left; subst s') | clear_value s' | skip)
    | (with_reducible apply replayLogs_keeps k2162188490)
    | (with_reducible apply readingOf_keeps k2149597386)
    | (with_reducible apply initGroup_keeps k2157985994)
    | (with_reducible refine keeps_ofFst (by assumption) ?_)
    | dsimp -zeta only)
theorem siteEnd_keeps (K : Keep P 2216706762) {s : State} {r : SxRun} {e : Nat}  (hP : P s) : P (siteEnd s r e) := by
  have k512 : Keep P 512 := K.sub rfl
  have k2216706250 : Keep P 2216706250 := K.sub rfl
  have k2216706762 : Keep P 2216706762 := K.sub rfl
  unfold siteEnd
  repeat' (first
    | with_reducible assumption
    | (with_reducible apply siteDone_keeps k2216706762)
    | (with_reducible apply dropSite_keeps k2216706250)
    | (with_reducible apply markFaulted_keeps k512)
    | split)
theorem snapshotItem_keeps (K : Keep P 2149597386) {j : Nat} {s : State} {t : Nat}  (hP : P s) : P (snapshotItem j s t) := by
  have k2149597386 : Keep P 2149597386 := K.sub rfl
  unfold snapshotItem
  repeat' (first
    | with_reducible assumption
    | (extract_lets +onlyGivenNames s'; first | (refine (fun (hs' : P s') => ?_) ?_; clear_value s'; rotate_left; subst s') | clear_value s' | skip)
    | (with_reducible apply reportUe_keeps k2149597386)
    | (with_reducible apply noteReads_keeps k2149597386)
    | (with_reducible apply store_keeps k2149597386)
    | split)
theorem setSlot_keeps (K : Keep P 8) {s : State} {p j : Nat}  (hP : P s) : P (setSlot s p j) := by
  have k8 : Keep P 8 := K.sub rfl
  unfold setSlot
  repeat' (first
    | with_reducible assumption
    | (with_reducible apply rputF_keeps k8)
    | (with_reducible apply rputN_keeps k8))
theorem joinSlot_keeps (K : Keep P 2149597386) {s : State} {p r step : Nat} {items : List Nat}  (hP : P s) : P (joinSlot s p r step items) := by
  have k8 : Keep P 8 := K.sub rfl
  have k2149597386 : Keep P 2149597386 := K.sub rfl
  unfold joinSlot
  repeat' (first
    | with_reducible assumption
    | intro _
    | (extract_lets +onlyGivenNames s'; first | (refine (fun (hs' : P s') => ?_) ?_; clear_value s'; rotate_left; subst s') | clear_value s' | skip)
    | (with_reducible apply setSlot_keeps k8)
    | (with_reducible apply snapshotItem_keeps k2149597386)
    | (with_reducible apply rput64_keeps k8)
    | (with_reducible apply rputN_keeps k8)
    | (with_reducible apply sxEvent_keeps k2149597386)
    | (with_reducible apply foldl_keeps)
    | split)
theorem leaveSlot_keeps (K : Keep P 8) {s : State} {p : Nat}  (hP : P s) : P (leaveSlot s p) := by
  have k8 : Keep P 8 := K.sub rfl
  unfold leaveSlot
  repeat' (first
    | with_reducible assumption
    | (extract_lets +onlyGivenNames s'; first | (refine (fun (hs' : P s') => ?_) ?_; clear_value s'; rotate_left; subst s') | clear_value s' | skip)
    | (with_reducible apply rputF_keeps k8)
    | (with_reducible apply rputN_keeps k8)
    | split)
theorem sendItem_keeps (K : Keep P 2250260682) {r : Nat} {s : State} {t : Nat}  (hP : P s) : P (sendItem r s t).1 := by
  have k2149597386 : Keep P 2149597386 := K.sub rfl
  have k2250260682 : Keep P 2250260682 := K.sub rfl
  unfold sendItem
  repeat' (first
    | with_reducible assumption
    | intro _
    | (extract_lets +onlyGivenNames s'; first | (refine (fun (hs' : P s') => ?_) ?_; clear_value s'; rotate_left; subst s') | (refine (fun (hs' : P s'.1) => ?_) ?_; clear_value s'; rotate_left; subst s') | clear_value s' | skip)
    | (with_reducible apply storeAll_keeps k2149597386)
    | (with_reducible apply storeBytes_keeps k2149597386)
    | (with_reducible apply queueOut_keeps k2250260682)
    | (with_reducible apply foldl_keeps)
    | (with_reducible apply foldl_keeps_fst)
    | split
    | (with_reducible refine keeps_ofFst (by assumption) ?_)
    | dsimp -zeta only)
theorem runSend_keeps (K : Keep P 2250261194) {s : State} {r : SxRun} {j : Job}  (hP : P s) : P (runSend s r j) := by
  have k8 : Keep P 8 := K.sub rfl
  have k2149597898 : Keep P 2149597898 := K.sub rfl
  have k2216706762 : Keep P 2216706762 := K.sub rfl
  have k2250260682 : Keep P 2250260682 := K.sub rfl
  unfold runSend
  repeat' (first
    | with_reducible assumption
    | intro _
    | (extract_lets +onlyGivenNames s'; first | (refine (fun (hs' : P s') => ?_) ?_; clear_value s'; rotate_left; subst s') | (refine (fun (hs' : P s'.1) => ?_) ?_; clear_value s'; rotate_left; subst s') | clear_value s' | skip)
    | (with_reducible apply siteBad_keeps k2216706762)
    | (with_reducible apply siteFail_keeps k2216706762)
    | (with_reducible apply eachItem_keeps k2149597898)
    | (with_reducible apply sendItem_keeps k2250260682)
    | (with_reducible apply siteEnd_keeps k2216706762)
    | (with_reducible apply rputN_keeps k8)
    | split
    | ((with_reducible refine Keep.mk (f := 67108864) ?_ ?_ ?_); (exact K.sub rfl); rotate_left; (exact ⟨rfl, rfl, canon_same rfl, .same rfl, .same rfl, .same rfl, ⟨.inr rfl, .inr rfl, .inl rfl, .inr rfl, .inr rfl, .inr rfl, .inr rfl, .inr rfl⟩⟩); first | with_reducible assumption | (with_reducible refine keeps_ofFst (by assumption) ?_))
    | (with_reducible refine keeps_ofFst (by assumption) ?_)
    | dsimp -zeta only)
theorem enterListen_keeps (K : Keep P 2250260682) {s : State} {p jr : Nat}  (hP : P s) : P (enterListen s p jr) := by
  have k8 : Keep P 8 := K.sub rfl
  have k2250260682 : Keep P 2250260682 := K.sub rfl
  unfold enterListen
  repeat' (first
    | with_reducible assumption
    | intro _
    | (extract_lets +onlyGivenNames s'; first | (refine (fun (hs' : P s') => ?_) ?_; clear_value s'; rotate_left; subst s') | clear_value s' | skip)
    | (with_reducible apply rputN_keeps k8)
    | (with_reducible apply setPState_keeps k8)
    | (with_reducible apply leaveSlot_keeps k8)
    | (with_reducible apply queueOut_keeps k2250260682)
    | (with_reducible apply foldl_keeps)
    | split)
theorem markUsed_keeps (K : Keep P 67108864) {s : State} {p r : Nat}  (hP : P s) : P (markUsed s p r) := by
  unfold markUsed
  repeat' (first
    | with_reducible assumption
    | intro _
    | split
    | ((with_reducible refine Keep.mk (f := 67108864) ?_ ?_ ?_); (exact K.sub rfl); rotate_left; (exact ⟨rfl, rfl, canon_same rfl, .same rfl, .same rfl, .same rfl, ⟨.inr rfl, .inr rfl, .inl rfl, .inr rfl, .inr rfl, .inr rfl, .inr rfl, .inr rfl⟩⟩); first | with_reducible assumption))
theorem afterSet_keeps (K : Keep P 2149597386) {r step : Nat} {items : List Nat} {inc : Nat → Bool} {s : State} {p : Nat}  (hP : P s) : P (afterSet r step items inc s p) := by
  have k8 : Keep P 8 := K.sub rfl
  have k2149597386 : Keep P 2149597386 := K.sub rfl
  unfold afterSet
  repeat' (first
    | with_reducible assumption
    | (extract_lets +onlyGivenNames s'; first | (refine (fun (hs' : P s') => ?_) ?_; clear_value s'; rotate_left; subst s') | clear_value s' | skip)
    | (with_reducible apply setMisses_keeps k8)
    | (with_reducible apply setPState_keeps k8)
    | (with_reducible apply leaveSlot_keeps k8)
    | (with_reducible apply joinSlot_keeps k2149597386)
    | (with_reducible apply sxEvent_keeps k2149597386)
    | split)
theorem fixSet_keeps (K : Keep P 2216706250) {s : State} {r step : Nat} {items : List Nat}  (hP : P s) : P (fixSet s r step items) := by
  have k8 : Keep P 8 := K.sub rfl
  have k67108864 : Keep P 67108864 := K.sub rfl
  have k2149597386 : Keep P 2149597386 := K.sub rfl
  unfold fixSet
  repeat' (first
    | with_reducible assumption
    | intro _
    | (extract_lets +onlyGivenNames s'; first | (refine (fun (hs' : P s') => ?_) ?_; clear_value s'; rotate_left; subst s') | clear_value s' | skip)
    | (with_reducible apply rinc_keeps k8)
    | (with_reducible apply rputN_keeps k8)
    | (with_reducible apply markUsed_keeps k67108864)
    | (with_reducible apply afterSet_keeps k2149597386)
    | (with_reducible apply foldl_keeps)
    | split
    | ((with_reducible refine Keep.mk (f := 67108864) ?_ ?_ ?_); (exact K.sub rfl); rotate_left; (exact ⟨rfl, rfl, canon_same rfl, .same rfl, .same rfl, .same rfl, ⟨.inr rfl, .inr rfl, .inl rfl, .inr rfl, .inr rfl, .inr rfl, .inr rfl, .inr rfl⟩⟩); first | with_reducible assumption))
theorem siteLog_keeps (K : Keep P 2149597386) {s : State}  (hP : P s) : P (siteLog s) := by
  have k2149597386 : Keep P 2149597386 := K.sub rfl
  unfold siteLog
  repeat' (first
    | with_reducible assumption
    | (extract_lets +onlyGivenNames s'; first | (refine (fun (hs' : P s') => ?_) ?_; clear_value s'; rotate_left; subst s') | (refine (fun (hs' : P s'.1) => ?_) ?_; clear_value s'; rotate_left; subst s') | clear_value s' | skip)
    | (with_reducible apply storeUndef_keeps k2149597386)
    | split
    | (with_reducible refine keeps_ofFst (by assumption) ?_)
    | dsimp -zeta only)
theorem putMerged_keeps (K : Keep P 2149597386) {s : State} {g : Grp} {t c : Nat} {es : List MergeOut} {withOm : Bool}  (hP : P s) : P (putMerged s g t c es withOm).1 := by
  have k8 : Keep P 8 := K.sub rfl
  have k2149597386 : Keep P 2149597386 := K.sub rfl
  unfold putMerged
  repeat' (first
    | with_reducible assumption
    | intro _
    | (extract_lets +onlyGivenNames s'; first | (refine (fun (hs' : P s') => ?_) ?_; clear_value s'; rotate_left; subst s') | (refine (fun (hs' : P s'.1) => ?_) ?_; clear_value s'; rotate_left; subst s') | clear_value s' | skip)
    | (with_reducible apply siteLog_keeps k2149597386)
    | (with_reducible apply rinc_keeps k8)
    | (with_reducible apply storeAll_keeps k2149597386)
    | (with_reducible refine keeps_ofFst (by assumption) ?_)
    | dsimp -zeta only)
theorem mergeChunk_keeps (K : Keep P 2149597386) {r : Nat} {ts : List Term} {g : Grp} {t : Nat} {s : State} {c : Nat}  (hP : P s) : P (mergeChunk r ts g t s c).1 := by
  have k2149597386 : Keep P 2149597386 := K.sub rfl
  unfold mergeChunk
  repeat' (first
    | with_reducible assumption
    | intro _
    | (extract_lets +onlyGivenNames s'; first | (refine (fun (hs' : P s') => ?_) ?_; clear_value s'; rotate_left; subst s') | (refine (fun (hs' : P s'.1) => ?_) ?_; clear_value s'; rotate_left; subst s') | clear_value s' | skip)
    | (with_reducible apply readingOf_keeps k2149597386)
    | (with_reducible apply putMerged_keeps k2149597386)
    | (with_reducible apply storeBytes_keeps k2149597386)
    | split
    | (with_reducible refine keeps_ofFst (by assumption) ?_)
    | dsimp -zeta only)
theorem eachChunk_keeps (K : Keep P 0) {f : State → Nat → State × Option Nat} {e0 : List Nat} {e1 : State} (hf_f : ∀ (a0 : State) (a1 : Nat), P a0 → P (f a0 a1).1) (hP : P e1) : P (eachChunk f e0 e1).1 := by
  induction e0 generalizing e1 with
  | nil =>
    unfold eachChunk
    repeat' (first
    | with_reducible assumption
    | (with_reducible apply hf_f)
    | split
    | (with_reducible refine keeps_ofFst (by assumption) ?_)
    | dsimp -zeta only)
  | cons a r ih =>
    unfold eachChunk
    repeat' (first
    | (with_reducible apply ih)
    | with_reducible assumption
    | (with_reducible apply hf_f)
    | split
    | (with_reducible refine keeps_ofFst (by assumption) ?_)
    | dsimp -zeta only)
theorem startMark_keeps (K : Keep P 2149597386) {s : State} {t r : Nat}  (hP : P s) : P (startMark s t r).1 := by
  have k2149597386 : Keep P 2149597386 := K.sub rfl
  unfold startMark
  repeat' (first
    | with_reducible assumption
    | (with_reducible apply storeBytes_keeps k2149597386)
    | split
    | (with_reducible refine keeps_ofFst (by assumption) ?_)
    | dsimp -zeta only)
theorem mergeItem_keeps (K : Keep P 2162188490) {r step : Nat} {s : State} {t : Nat}  (hP : P s) : P (mergeItem r step s t).1 := by
  have k0 : Keep P 0 := K.sub rfl
  have k2149597386 : Keep P 2149597386 := K.sub rfl
  have k2162188490 : Keep P 2162188490 := K.sub rfl
  unfold mergeItem
  repeat' (first
    | with_reducible assumption
    | intro _
    | (extract_lets +onlyGivenNames s'; first | (refine (fun (hs' : P s') => ?_) ?_; clear_value s'; rotate_left; subst s') | (refine (fun (hs' : P s'.1) => ?_) ?_; clear_value s'; rotate_left; subst s') | (refine (fun (hs' : P s'.s) => ?_) ?_; clear_value s'; rotate_left; subst s') | (refine (fun (hs' : P s'.2) => ?_) ?_; clear_value s'; rotate_left; subst s') | (refine (fun (hs' : P s'.2.2) => ?_) ?_; clear_value s'; rotate_left; subst s') | (refine (fun (hs' : OptKeeps P s') => ?_) ?_; clear_value s'; rotate_left; subst s') | (refine (fun (hs' : ExKeeps P s') => ?_) ?_; clear_value s'; rotate_left; subst s') | (have _hs : State → _ := s'; clear _hs) | clear_value s' | skip)
    | (with_reducible apply initItem_keeps k2162188490)
    | (with_reducible apply startMark_keeps k2149597386)
    | (with_reducible apply eachChunk_keeps k0)
    | (with_reducible apply mergeChunk_keeps k2149597386)
    | (with_reducible apply storeBytes_keeps k2149597386)
    | split
    | (with_reducible refine keeps_ofFst (by assumption) ?_)
    | (with_reducible refine keeps_ofSnd (by assumption) ?_)
    | (with_reducible refine keeps_ofThird (by assumption) ?_)
    | (with_reducible refine keeps_ofOpt (by assumption) ?_)
    | (with_reducible refine keeps_ofEx (by assumption) ?_)
    | (with_reducible refine keeps_ofSome (by assumption) ?_)
    | dsimp -zeta only)
theorem journalSite_keeps (K : Keep P 2149597386) {s : State} {j : Job} {rd : Nat} {rec0 : List Byte}  (hP : P s) : P (journalSite s j rd rec0) := by
  have k2149597386 : Keep P 2149597386 := K.sub rfl
  unfold journalSite
  repeat' (first
    | with_reducible assumption
    | (extract_lets +onlyGivenNames s'; first | (refine (fun (hs' : P s') => ?_) ?_; clear_value s'; rotate_left; subst s') | clear_value s' | skip)
    | (with_reducible apply journal_keeps k2149597386))
theorem runMerge_keeps (K : Keep P 2229297866) {s : State} {r : SxRun} {j : Job}  (hP : P s) : P (runMerge s r j) := by
  have k8 : Keep P 8 := K.sub rfl
  have k2149597386 : Keep P 2149597386 := K.sub rfl
  have k2149597898 : Keep P 2149597898 := K.sub rfl
  have k2162188490 : Keep P 2162188490 := K.sub rfl
  have k2216706250 : Keep P 2216706250 := K.sub rfl
  have k2216706762 : Keep P 2216706762 := K.sub rfl
  unfold runMerge
  repeat' (first
    | with_reducible assumption
    | intro _
    | (extract_lets +onlyGivenNames s'; first | (refine (fun (hs' : P s') => ?_) ?_; clear_value s'; rotate_left; subst s') | (refine (fun (hs' : P s'.1) => ?_) ?_; clear_value s'; rotate_left; subst s') | (refine (fun (hs' : P s'.s) => ?_) ?_; clear_value s'; rotate_left; subst s') | (refine (fun (hs' : P s'.2) => ?_) ?_; clear_value s'; rotate_left; subst s') | (refine (fun (hs' : P s'.2.2) => ?_) ?_; clear_value s'; rotate_left; subst s') | (refine (fun (hs' : OptKeeps P s') => ?_) ?_; clear_value s'; rotate_left; subst s') | (refine (fun (hs' : ExKeeps P s') => ?_) ?_; clear_value s'; rotate_left; subst s') | (have _hs : State → _ := s'; clear _hs) | clear_value s' | skip)
    | (with_reducible apply siteBad_keeps k2216706762)
    | (with_reducible apply fixSet_keeps k2216706250)
    | (with_reducible apply eachItem_keeps k2149597898)
    | (with_reducible apply mergeItem_keeps k2162188490)
    | (with_reducible apply siteEnd_keeps k2216706762)
    | (with_reducible apply storeBytes_keeps k2149597386)
    | (with_reducible apply siteDone_keeps k2216706762)
    | (with_reducible apply journalSite_keeps k2149597386)
    | (with_reducible apply rputN_keeps k8)
    | split
    | ((with_reducible refine Keep.mk (f := 67108864) ?_ ?_ ?_); (exact K.sub rfl); rotate_left; (exact ⟨rfl, rfl, canon_same rfl, .same rfl, .same rfl, .same rfl, ⟨.inr rfl, .inr rfl, .inl rfl, .inr rfl, .inr rfl, .inr rfl, .inr rfl, .inr rfl⟩⟩); first | with_reducible assumption | (with_reducible refine keeps_ofFst (by assumption) ?_) | (with_reducible refine keeps_ofSnd (by assumption) ?_) | (with_reducible refine keeps_ofThird (by assumption) ?_) | (with_reducible refine keeps_ofOpt (by assumption) ?_) | (with_reducible refine keeps_ofEx (by assumption) ?_) | (with_reducible refine keeps_ofSome (by assumption) ?_))
    | (with_reducible refine keeps_ofFst (by assumption) ?_)
    | (with_reducible refine keeps_ofSnd (by assumption) ?_)
    | (with_reducible refine keeps_ofThird (by assumption) ?_)
    | (with_reducible refine keeps_ofOpt (by assumption) ?_)
    | (with_reducible refine keeps_ofEx (by assumption) ?_)
    | (with_reducible refine keeps_ofSome (by assumption) ?_)
    | dsimp -zeta only)
theorem thawItem_keeps (K : Keep P 2250260682) {p rd step : Nat} {s : State} {t : Nat}  (hP : P s) : P (thawItem p rd step s t).1 := by
  have k2149597386 : Keep P 2149597386 := K.sub rfl
  have k2250260682 : Keep P 2250260682 := K.sub rfl
  unfold thawItem
  repeat' (first
    | with_reducible assumption
    | intro _
    | (extract_lets +onlyGivenNames s'; first | (refine (fun (hs' : P s') => ?_) ?_; clear_value s'; rotate_left; subst s') | (refine (fun (hs' : P s'.1) => ?_) ?_; clear_value s'; rotate_left; subst s') | clear_value s' | skip)
    | (with_reducible apply readingOf_keeps k2149597386)
    | (with_reducible apply storeAll_keeps k2149597386)
    | (with_reducible apply queueOut_keeps k2250260682)
    | split
    | (with_reducible refine keeps_ofFst (by assumption) ?_)
    | dsimp -zeta only)
theorem dropThaw_keeps (K : Keep P 67108864) {s : State} {p : Nat}  (hP : P s) : P (dropThaw s p) := by
  unfold dropThaw
  repeat' (first
    | with_reducible assumption
    | intro _
    | ((with_reducible refine Keep.mk (f := 67108864) ?_ ?_ ?_); (exact K.sub rfl); rotate_left; (exact ⟨rfl, rfl, canon_same rfl, .same rfl, .same rfl, .same rfl, ⟨.inr rfl, .inr rfl, .inl rfl, .inr rfl, .inr rfl, .inr rfl, .inr rfl, .inr rfl⟩⟩); first | with_reducible assumption))
theorem runThaw_keeps (K : Keep P 2250261194) {s : State} {r : SxRun} {j : Job}  (hP : P s) : P (runThaw s r j) := by
  have k8 : Keep P 8 := K.sub rfl
  have k67108864 : Keep P 67108864 := K.sub rfl
  have k2149597898 : Keep P 2149597898 := K.sub rfl
  have k2216706762 : Keep P 2216706762 := K.sub rfl
  have k2250260682 : Keep P 2250260682 := K.sub rfl
  unfold runThaw
  repeat' (first
    | with_reducible assumption
    | intro _
    | (extract_lets +onlyGivenNames s'; first | (refine (fun (hs' : P s') => ?_) ?_; clear_value s'; rotate_left; subst s') | (refine (fun (hs' : P s'.1) => ?_) ?_; clear_value s'; rotate_left; subst s') | (refine (fun (hs' : P s'.s) => ?_) ?_; clear_value s'; rotate_left; subst s') | (refine (fun (hs' : P s'.2) => ?_) ?_; clear_value s'; rotate_left; subst s') | (refine (fun (hs' : P s'.2.2) => ?_) ?_; clear_value s'; rotate_left; subst s') | (refine (fun (hs' : OptKeeps P s') => ?_) ?_; clear_value s'; rotate_left; subst s') | (refine (fun (hs' : ExKeeps P s') => ?_) ?_; clear_value s'; rotate_left; subst s') | (have _hs : State → _ := s'; clear _hs) | clear_value s' | skip)
    | (with_reducible apply siteFail_keeps k2216706762)
    | (with_reducible apply siteBad_keeps k2216706762)
    | (with_reducible apply dropThaw_keeps k67108864)
    | (with_reducible apply setPState_keeps k8)
    | (with_reducible apply eachItem_keeps k2149597898)
    | (with_reducible apply thawItem_keeps k2250260682)
    | (with_reducible apply siteEnd_keeps k2216706762)
    | split
    | ((with_reducible refine Keep.mk (f := 67108864) ?_ ?_ ?_); (exact K.sub rfl); rotate_left; (exact ⟨rfl, rfl, canon_same rfl, .same rfl, .same rfl, .same rfl, ⟨.inr rfl, .inr rfl, .inl rfl, .inr rfl, .inr rfl, .inr rfl, .inr rfl, .inr rfl⟩⟩); first | with_reducible assumption | (with_reducible refine keeps_ofFst (by assumption) ?_) | (with_reducible refine keeps_ofSnd (by assumption) ?_) | (with_reducible refine keeps_ofThird (by assumption) ?_) | (with_reducible refine keeps_ofOpt (by assumption) ?_) | (with_reducible refine keeps_ofEx (by assumption) ?_) | (with_reducible refine keeps_ofSome (by assumption) ?_))
    | (with_reducible refine keeps_ofFst (by assumption) ?_)
    | (with_reducible refine keeps_ofSnd (by assumption) ?_)
    | (with_reducible refine keeps_ofThird (by assumption) ?_)
    | (with_reducible refine keeps_ofOpt (by assumption) ?_)
    | (with_reducible refine keeps_ofEx (by assumption) ?_)
    | (with_reducible refine keeps_ofSome (by assumption) ?_)
    | dsimp -zeta only)
theorem thawFails_keeps (K : Keep P 2216706762) {s : State} {r : SxRun} {p : Nat}  (hP : P s) : P (thawFails s r p) := by
  have k8 : Keep P 8 := K.sub rfl
  have k67108864 : Keep P 67108864 := K.sub rfl
  have k2216706762 : Keep P 2216706762 := K.sub rfl
  unfold thawFails
  repeat' (first
    | with_reducible assumption
    | (with_reducible apply siteFail_keeps k2216706762)
    | (with_reducible apply setPState_keeps k8)
    | (with_reducible apply dropThaw_keeps k67108864))
theorem endThaw_keeps (K : Keep P 2216706762) {s : State} {r : SxRun} {j : Job}  (hP : P s) : P (endThaw s r j) := by
  have k2149597386 : Keep P 2149597386 := K.sub rfl
  have k2216706762 : Keep P 2216706762 := K.sub rfl
  unfold endThaw
  repeat' (first
    | with_reducible assumption
    | intro _
    | (extract_lets +onlyGivenNames s'; first | (refine (fun (hs' : P s') => ?_) ?_; clear_value s'; rotate_left; subst s') | (refine (fun (hs' : P s'.1) => ?_) ?_; clear_value s'; rotate_left; subst s') | clear_value s' | skip)
    | (with_reducible apply storeBytes_keeps k2149597386)
    | (with_reducible apply siteBad_keeps k2216706762)
    | (with_reducible apply siteDone_keeps k2216706762)
    | split
    | ((with_reducible refine Keep.mk (f := 67108864) ?_ ?_ ?_); (exact K.sub rfl); rotate_left; (exact ⟨rfl, rfl, canon_same rfl, .same rfl, .same rfl, .same rfl, ⟨.inr rfl, .inr rfl, .inl rfl, .inr rfl, .inr rfl, .inr rfl, .inr rfl, .inr rfl⟩⟩); first | with_reducible assumption | (with_reducible refine keeps_ofFst (by assumption) ?_))
    | (with_reducible refine keeps_ofFst (by assumption) ?_)
    | dsimp -zeta only)
theorem applyItem_keeps (K : Keep P 2162188490) {nOwn nPeer : Word} {step : Nat} {s : State} {t : Nat}  (hP : P s) : P (applyItem nOwn nPeer step s t).1 := by
  have k0 : Keep P 0 := K.sub rfl
  have k2149597386 : Keep P 2149597386 := K.sub rfl
  have k2162188490 : Keep P 2162188490 := K.sub rfl
  unfold applyItem
  repeat' (first
    | with_reducible assumption
    | intro _
    | (extract_lets +onlyGivenNames s'; first | (refine (fun (hs' : P s') => ?_) ?_; clear_value s'; rotate_left; subst s') | (refine (fun (hs' : P s'.1) => ?_) ?_; clear_value s'; rotate_left; subst s') | (refine (fun (hs' : P s'.s) => ?_) ?_; clear_value s'; rotate_left; subst s') | (refine (fun (hs' : P s'.2) => ?_) ?_; clear_value s'; rotate_left; subst s') | (refine (fun (hs' : P s'.2.2) => ?_) ?_; clear_value s'; rotate_left; subst s') | (refine (fun (hs' : OptKeeps P s') => ?_) ?_; clear_value s'; rotate_left; subst s') | (refine (fun (hs' : ExKeeps P s') => ?_) ?_; clear_value s'; rotate_left; subst s') | (have _hs : State → _ := s'; clear _hs) | clear_value s' | skip)
    | (with_reducible apply readingOf_keeps k2149597386)
    | (with_reducible apply putMerged_keeps k2149597386)
    | (with_reducible apply eachChunk_keeps k0)
    | (with_reducible apply initItem_keeps k2162188490)
    | split
    | (with_reducible refine keeps_ofFst (by assumption) ?_)
    | (with_reducible refine keeps_ofSnd (by assumption) ?_)
    | (with_reducible refine keeps_ofThird (by assumption) ?_)
    | (with_reducible refine keeps_ofOpt (by assumption) ?_)
    | (with_reducible refine keeps_ofEx (by assumption) ?_)
    | (with_reducible refine keeps_ofSome (by assumption) ?_)
    | dsimp -zeta only)
theorem runApply_keeps (K : Keep P 2229297866) {s : State} {r : SxRun} {j : Job}  (hP : P s) : P (runApply s r j) := by
  have k8 : Keep P 8 := K.sub rfl
  have k2149597386 : Keep P 2149597386 := K.sub rfl
  have k2149597898 : Keep P 2149597898 := K.sub rfl
  have k2162188490 : Keep P 2162188490 := K.sub rfl
  have k2216706762 : Keep P 2216706762 := K.sub rfl
  unfold runApply
  repeat' (first
    | with_reducible assumption
    | intro _
    | (extract_lets +onlyGivenNames s'; first | (refine (fun (hs' : P s') => ?_) ?_; clear_value s'; rotate_left; subst s') | (refine (fun (hs' : P s'.1) => ?_) ?_; clear_value s'; rotate_left; subst s') | (refine (fun (hs' : P s'.s) => ?_) ?_; clear_value s'; rotate_left; subst s') | (refine (fun (hs' : P s'.2) => ?_) ?_; clear_value s'; rotate_left; subst s') | (refine (fun (hs' : P s'.2.2) => ?_) ?_; clear_value s'; rotate_left; subst s') | (refine (fun (hs' : OptKeeps P s') => ?_) ?_; clear_value s'; rotate_left; subst s') | (refine (fun (hs' : ExKeeps P s') => ?_) ?_; clear_value s'; rotate_left; subst s') | (have _hs : State → _ := s'; clear _hs) | clear_value s' | skip)
    | (with_reducible apply siteFail_keeps k2216706762)
    | (with_reducible apply siteBad_keeps k2216706762)
    | (with_reducible apply eachItem_keeps k2149597898)
    | (with_reducible apply applyItem_keeps k2162188490)
    | (with_reducible apply siteEnd_keeps k2216706762)
    | (with_reducible apply storeBytes_keeps k2149597386)
    | (with_reducible apply siteDone_keeps k2216706762)
    | (with_reducible apply setMisses_keeps k8)
    | (with_reducible apply setPState_keeps k8)
    | (with_reducible apply leaveSlot_keeps k8)
    | split
    | (with_reducible refine keeps_ofFst (by assumption) ?_)
    | (with_reducible refine keeps_ofSnd (by assumption) ?_)
    | (with_reducible refine keeps_ofThird (by assumption) ?_)
    | (with_reducible refine keeps_ofOpt (by assumption) ?_)
    | (with_reducible refine keeps_ofEx (by assumption) ?_)
    | (with_reducible refine keeps_ofSome (by assumption) ?_)
    | dsimp -zeta only)
theorem runJoin_keeps (K : Keep P 2250261194) {s : State} {r : SxRun} {j : Job}  (hP : P s) : P (runJoin s r j) := by
  have k8 : Keep P 8 := K.sub rfl
  have k2149597898 : Keep P 2149597898 := K.sub rfl
  have k2216706762 : Keep P 2216706762 := K.sub rfl
  have k2250260682 : Keep P 2250260682 := K.sub rfl
  unfold runJoin
  repeat' (first
    | with_reducible assumption
    | intro _
    | (extract_lets +onlyGivenNames s'; first | (refine (fun (hs' : P s') => ?_) ?_; clear_value s'; rotate_left; subst s') | (refine (fun (hs' : P s'.1) => ?_) ?_; clear_value s'; rotate_left; subst s') | clear_value s' | skip)
    | (with_reducible apply siteFail_keeps k2216706762)
    | (with_reducible apply siteBad_keeps k2216706762)
    | (with_reducible apply eachItem_keeps k2149597898)
    | (with_reducible apply siteEnd_keeps k2216706762)
    | (with_reducible apply setPState_keeps k8)
    | (with_reducible apply leaveSlot_keeps k8)
    | (with_reducible apply sendMsg_keeps k2250260682)
    | split
    | ((with_reducible refine Keep.mk (f := 67108864) ?_ ?_ ?_); (exact K.sub rfl); rotate_left; (exact ⟨rfl, rfl, canon_same rfl, .same rfl, .same rfl, .same rfl, ⟨.inr rfl, .inr rfl, .inl rfl, .inr rfl, .inr rfl, .inr rfl, .inr rfl, .inr rfl⟩⟩); first | with_reducible assumption | (with_reducible refine keeps_ofFst (by assumption) ?_))
    | (with_reducible refine keeps_ofFst (by assumption) ?_)
    | dsimp -zeta only)
theorem joinFails_keeps (K : Keep P 2216706762) {s : State} {r : SxRun} {p err : Nat}  (hP : P s) : P (joinFails s r p err) := by
  have k8 : Keep P 8 := K.sub rfl
  have k2216706762 : Keep P 2216706762 := K.sub rfl
  unfold joinFails
  repeat' (first
    | with_reducible assumption
    | intro _
    | (extract_lets +onlyGivenNames s'; first | (refine (fun (hs' : P s') => ?_) ?_; clear_value s'; rotate_left; subst s') | clear_value s' | skip)
    | (with_reducible apply setPState_keeps k8)
    | (with_reducible apply siteFail_keeps k2216706762)
    | ((with_reducible refine Keep.mk (f := 67108864) ?_ ?_ ?_); (exact K.sub rfl); rotate_left; (exact ⟨rfl, rfl, canon_same rfl, .same rfl, .same rfl, .same rfl, ⟨.inr rfl, .inr rfl, .inl rfl, .inr rfl, .inr rfl, .inr rfl, .inr rfl, .inr rfl⟩⟩); first | with_reducible assumption))
theorem endJoin_keeps (K : Keep P 2262852298) {s : State} {r : SxRun} {j : Job}  (hP : P s) : P (endJoin s r j) := by
  have k2149597898 : Keep P 2149597898 := K.sub rfl
  have k2162188490 : Keep P 2162188490 := K.sub rfl
  have k2216706762 : Keep P 2216706762 := K.sub rfl
  have k2250260682 : Keep P 2250260682 := K.sub rfl
  unfold endJoin
  repeat' (first
    | with_reducible assumption
    | intro _
    | (extract_lets +onlyGivenNames s'; first | (refine (fun (hs' : P s') => ?_) ?_; clear_value s'; rotate_left; subst s') | (refine (fun (hs' : P s'.1) => ?_) ?_; clear_value s'; rotate_left; subst s') | clear_value s' | skip)
    | (with_reducible apply eachItem_keeps k2149597898)
    | (with_reducible apply initItem_keeps k2162188490)
    | (with_reducible apply siteEnd_keeps k2216706762)
    | (with_reducible apply enterListen_keeps k2250260682)
    | ((with_reducible refine Keep.mk (f := 67108864) ?_ ?_ ?_); (exact K.sub rfl); rotate_left; (exact ⟨rfl, rfl, canon_same rfl, .same rfl, .same rfl, .same rfl, ⟨.inr rfl, .inr rfl, .inl rfl, .inr rfl, .inr rfl, .inr rfl, .inr rfl, .inr rfl⟩⟩); first | with_reducible assumption | (with_reducible refine keeps_ofFst (by assumption) ?_))
    | (with_reducible refine keeps_ofFst (by assumption) ?_)
    | dsimp -zeta only)
theorem dropPeerWork_keeps (K : Keep P 67108864) {s : State} {p : Nat}  (hP : P s) : P (dropPeerWork s p) := by
  unfold dropPeerWork
  repeat' (first
    | with_reducible assumption
    | intro _
    | (extract_lets +onlyGivenNames s'; first | (refine (fun (hs' : P s') => ?_) ?_; clear_value s'; rotate_left; subst s') | clear_value s' | skip)
    | split
    | ((with_reducible refine Keep.mk (f := 67108864) ?_ ?_ ?_); (exact K.sub rfl); rotate_left; (exact ⟨rfl, rfl, canon_same rfl, .same rfl, .same rfl, .same rfl, ⟨.inr rfl, .inr rfl, .inl rfl, .inr rfl, .inr rfl, .inr rfl, .inr rfl, .inr rfl⟩⟩); first | with_reducible assumption))
theorem runPeerCtl_keeps (K : Keep P 2216706762) {s : State} {r : SxRun} {j : Job}  (hP : P s) : P (runPeerCtl s r j) := by
  have k8 : Keep P 8 := K.sub rfl
  have k67108864 : Keep P 67108864 := K.sub rfl
  have k2149597386 : Keep P 2149597386 := K.sub rfl
  have k2149597898 : Keep P 2149597898 := K.sub rfl
  have k2216706762 : Keep P 2216706762 := K.sub rfl
  unfold runPeerCtl
  repeat' (first
    | with_reducible assumption
    | intro _
    | (extract_lets +onlyGivenNames s'; first | (refine (fun (hs' : P s') => ?_) ?_; clear_value s'; rotate_left; subst s') | (refine (fun (hs' : P s'.1) => ?_) ?_; clear_value s'; rotate_left; subst s') | clear_value s' | skip)
    | (with_reducible apply siteFail_keeps k2216706762)
    | (with_reducible apply siteBad_keeps k2216706762)
    | (with_reducible apply eachItem_keeps k2149597898)
    | (with_reducible apply siteEnd_keeps k2216706762)
    | (with_reducible apply joinSlot_keeps k2149597386)
    | (with_reducible apply siteDone_keeps k2216706762)
    | (with_reducible apply unitRetired_keeps k2149597898)
    | (with_reducible apply setPState_keeps k8)
    | (with_reducible apply leaveSlot_keeps k8)
    | (with_reducible apply dropPeerWork_keeps k67108864)
    | split
    | (with_reducible refine keeps_ofFst (by assumption) ?_)
    | dsimp -zeta only)
theorem driveFront_keeps (K : Keep P 2262852298) {s : State}  (hP : P s) : P (driveFront s) := by
  have k2216706250 : Keep P 2216706250 := K.sub rfl
  have k2216706762 : Keep P 2216706762 := K.sub rfl
  have k2229297866 : Keep P 2229297866 := K.sub rfl
  have k2250261194 : Keep P 2250261194 := K.sub rfl
  have k2262852298 : Keep P 2262852298 := K.sub rfl
  unfold driveFront
  repeat' (first
    | with_reducible assumption
    | intro _
    | (extract_lets +onlyGivenNames s'; first | (refine (fun (hs' : P s') => ?_) ?_; clear_value s'; rotate_left; subst s') | clear_value s' | skip)
    | (with_reducible apply dropSite_keeps k2216706250)
    | (with_reducible apply siteFail_keeps k2216706762)
    | (with_reducible apply endThaw_keeps k2216706762)
    | (with_reducible apply thawFails_keeps k2216706762)
    | (with_reducible apply endJoin_keeps k2262852298)
    | (with_reducible apply joinFails_keeps k2216706762)
    | (with_reducible apply runSend_keeps k2250261194)
    | (with_reducible apply runMerge_keeps k2229297866)
    | (with_reducible apply runThaw_keeps k2250261194)
    | (with_reducible apply runApply_keeps k2229297866)
    | (with_reducible apply runJoin_keeps k2250261194)
    | (with_reducible apply runPeerCtl_keeps k2216706762)
    | split
    | ((with_reducible refine Keep.mk (f := 67108864) ?_ ?_ ?_); (exact K.sub rfl); rotate_left; (exact ⟨rfl, rfl, canon_same rfl, .same rfl, .same rfl, .same rfl, ⟨.inr rfl, .inr rfl, .inl rfl, .inr rfl, .inr rfl, .inr rfl, .inr rfl, .inr rfl⟩⟩); first | with_reducible assumption))
theorem driveSites_keeps (K : Keep P 2262852298) {e0 : Nat} {e1 : State}  (hP : P e1) : P (driveSites e0 e1) := by
  have k2262852298 : Keep P 2262852298 := K.sub rfl
  induction e0 generalizing e1 with
  | zero =>
    unfold driveSites
    repeat' (first
    | with_reducible assumption
    | (with_reducible apply driveFront_keeps k2262852298)
    | split)
  | succ n ih =>
    unfold driveSites
    repeat' (first
    | (with_reducible apply ih)
    | with_reducible assumption
    | (with_reducible apply driveFront_keeps k2262852298)
    | split)
theorem settleSites_keeps (K : Keep P 2262852298) {s : State}  (hP : P s) : P (settleSites s) := by
  have k2149597386 : Keep P 2149597386 := K.sub rfl
  have k2262852298 : Keep P 2262852298 := K.sub rfl
  unfold settleSites
  repeat' (first
    | with_reducible assumption
    | (with_reducible apply refreshSxu_keeps k2149597386)
    | (with_reducible apply driveSites_keeps k2262852298))
theorem effSite_keeps (K : Keep P 2262852298) {s : State} {ref : JobRef} {p var : Nat}  (hP : P s) : P (effSite s ref p var) := by
  have k512 : Keep P 512 := K.sub rfl
  have k2262852298 : Keep P 2262852298 := K.sub rfl
  unfold effSite
  repeat' (first
    | with_reducible assumption
    | (with_reducible apply settleSites_keeps k2262852298)
    | (with_reducible apply setPartSt_keeps k512)
    | split
    | ((with_reducible refine Keep.mk (f := 67108864) ?_ ?_ ?_); (exact K.sub rfl); rotate_left; (exact ⟨rfl, rfl, canon_same rfl, .same rfl, .same rfl, .same rfl, ⟨.inr rfl, .inr rfl, .inl rfl, .inr rfl, .inr rfl, .inr rfl, .inr rfl, .inr rfl⟩⟩); first | with_reducible assumption))
theorem execSend_keeps (K : Keep P 2262852298) {j : JobRef} {p : Nat} {s : State} {sOut : State} (hP : P s) (e : execSend j p s = .next sOut) : P sOut := ok_keeps (effSite_keeps (K.sub rfl) hP) e
theorem execMerge_keeps (K : Keep P 2262852298) {j : JobRef} {p : Nat} {s : State} {sOut : State} (hP : P s) (e : execMerge j p s = .next sOut) : P sOut := ok_keeps (effSite_keeps (K.sub rfl) hP) e
theorem execThawExch_keeps (K : Keep P 2262852298) {j : JobRef} {p : Nat} {s : State} {sOut : State} (hP : P s) (e : execThawExch j p s = .next sOut) : P sOut := ok_keeps (effSite_keeps (K.sub rfl) hP) e
theorem execThawApply_keeps (K : Keep P 2262852298) {j : JobRef} {p : Nat} {s : State} {sOut : State} (hP : P s) (e : execThawApply j p s = .next sOut) : P sOut := ok_keeps (effSite_keeps (K.sub rfl) hP) e
theorem execJoinSite_keeps (K : Keep P 2262852298) {j : JobRef} {p : Nat} {s : State} {sOut : State} (hP : P s) (e : execJoinSite j p s = .next sOut) : P sOut := ok_keeps (effSite_keeps (K.sub rfl) hP) e
theorem execPeerCtlIsolate_keeps (K : Keep P 2262852298) {j : JobRef} {p : Nat} {s : State} {sOut : State} (hP : P s) (e : execPeerCtlIsolate j p s = .next sOut) : P sOut := by
  have k2262852298 : Keep P 2262852298 := K.sub rfl
  refine ok_keeps ?_ e
  repeat' (first
    | with_reducible assumption
    | (with_reducible apply effSite_keeps k2262852298)
    | split)
theorem execPeerCtlAbandon_keeps (K : Keep P 2262852298) {j : JobRef} {p : Nat} {s : State} {sOut : State} (hP : P s) (e : execPeerCtlAbandon j p s = .next sOut) : P sOut := by
  have k2262852298 : Keep P 2262852298 := K.sub rfl
  refine ok_keeps ?_ e
  repeat' (first
    | with_reducible assumption
    | (with_reducible apply effSite_keeps k2262852298)
    | split)

end Sys2Proof.Machine
end

