-- ==== Sys2Proof/Laws/KeepAcnisRx.lean ====
section
/-! SUPPORT. What each operation of Machine/AcnisRx.lean may write (Touch): a property that stands under changes of those areas stands after the
operation. The mask is the union of the areas written. -/

set_option linter.unreachableTactic false
set_option linter.unusedTactic false
set_option linter.unusedVariables false
set_option linter.tactic.unusedName false

namespace Sys2Proof.Machine

variable {P : State → Prop}

theorem cipherReturned_keeps (K : Keep P 2262852298) {s : State} {p : Nat}  (hP : P s) : P (cipherReturned s p) := by
  have k8 : Keep P 8 := K.sub rfl
  have k67108864 : Keep P 67108864 := K.sub rfl
  have k2216706762 : Keep P 2216706762 := K.sub rfl
  have k2262852298 : Keep P 2262852298 := K.sub rfl
  unfold cipherReturned
  repeat' (first
    | with_reducible assumption
    | (with_reducible apply settleSites_keeps k2262852298)
    | (with_reducible apply siteFail_keeps k2216706762)
    | (with_reducible apply setPState_keeps k8)
    | (with_reducible apply dropThaw_keeps k67108864)
    | (with_reducible apply joinFails_keeps k2216706762)
    | split)
theorem returnSxu_keeps (K : Keep P 2262852298) {s : State}  (hP : P s) : P (returnSxu s) := by
  have k2149597386 : Keep P 2149597386 := K.sub rfl
  have k2262852298 : Keep P 2262852298 := K.sub rfl
  unfold returnSxu
  repeat' (first
    | with_reducible assumption
    | intro _
    | (extract_lets +onlyGivenNames s'; first | (refine (fun (hs' : P s') => ?_) ?_; clear_value s'; rotate_left; subst s') | clear_value s' | skip)
    | (with_reducible apply cipherReturned_keeps k2262852298)
    | (with_reducible apply refreshCph_keeps k2149597386)
    | (with_reducible apply foldl_keeps)
    | split
    | ((with_reducible refine Keep.mk (f := 33554432) ?_ ?_ ?_); (exact K.sub rfl); rotate_left; (exact ⟨rfl, rfl, canon_same rfl, .same rfl, .same rfl, .same rfl, ⟨.inr rfl, .inl rfl, .inr rfl, .inr rfl, .inr rfl, .inr rfl, .inr rfl, .inr rfl⟩⟩); first | with_reducible assumption))
theorem effSeal_keeps (K : Keep P 2262852298) {s : State} {m : AMsg}  (hP : P s) : P (effSeal s m) := by
  have k8 : Keep P 8 := K.sub rfl
  have k2147483656 : Keep P 2147483656 := K.sub rfl
  have k2149597386 : Keep P 2149597386 := K.sub rfl
  have k2262852298 : Keep P 2262852298 := K.sub rfl
  unfold effSeal
  repeat' (first
    | with_reducible assumption
    | intro _
    | (extract_lets +onlyGivenNames s'; first | (refine (fun (hs' : P s') => ?_) ?_; clear_value s'; rotate_left; subst s') | clear_value s' | skip)
    | (with_reducible apply refreshCph_keeps k2149597386)
    | (with_reducible apply cipherReturned_keeps k2262852298)
    | (with_reducible apply acnisSend_keeps k2147483656)
    | (with_reducible apply rinc64_keeps k8)
    | split
    | ((with_reducible refine Keep.mk (f := 33554432) ?_ ?_ ?_); (exact K.sub rfl); rotate_left; (exact ⟨rfl, rfl, canon_same rfl, .same rfl, .same rfl, .same rfl, ⟨.inr rfl, .inl rfl, .inr rfl, .inr rfl, .inr rfl, .inr rfl, .inr rfl, .inr rfl⟩⟩); first | with_reducible assumption))
theorem openMsg_keeps (K : Keep P 2262852298) {s : State} {p slot : Nat} {m : AMsg}  (hP : P s) : P (openMsg s p slot m) := by
  have k8 : Keep P 8 := K.sub rfl
  have k67108864 : Keep P 67108864 := K.sub rfl
  have k2149597386 : Keep P 2149597386 := K.sub rfl
  have k2262852298 : Keep P 2262852298 := K.sub rfl
  unfold openMsg
  repeat' (first
    | with_reducible assumption
    | (extract_lets +onlyGivenNames s'; first | (refine (fun (hs' : P s') => ?_) ?_; clear_value s'; rotate_left; subst s') | clear_value s' | skip)
    | (with_reducible apply rinc_keeps k8)
    | (with_reducible apply cipherReturned_keeps k2262852298)
    | (with_reducible apply reportErr_keeps k2149597386)
    | (with_reducible apply putSx_keeps k67108864)
    | (with_reducible apply rinc64_keeps k8)
    | split
    | ((with_reducible refine Keep.mk (f := 67108864) ?_ ?_ ?_); (exact K.sub rfl); rotate_left; (exact ⟨rfl, rfl, canon_same rfl, .same rfl, .same rfl, .same rfl, ⟨.inr rfl, .inr rfl, .inl rfl, .inr rfl, .inr rfl, .inr rfl, .inr rfl, .inr rfl⟩⟩); first | with_reducible assumption))
theorem effOpen_keeps (K : Keep P 2262852298) {s : State} {m : AMsg}  (hP : P s) : P (effOpen s m) := by
  have k8 : Keep P 8 := K.sub rfl
  have k2149597386 : Keep P 2149597386 := K.sub rfl
  have k2183151818 : Keep P 2183151818 := K.sub rfl
  have k2262852298 : Keep P 2262852298 := K.sub rfl
  unfold effOpen
  repeat' (first
    | with_reducible assumption
    | (extract_lets +onlyGivenNames s'; first | (refine (fun (hs' : P s') => ?_) ?_; clear_value s'; rotate_left; subst s') | clear_value s' | skip)
    | (with_reducible apply rinc_keeps k8)
    | (with_reducible apply cipherReturned_keeps k2262852298)
    | (with_reducible apply sxuArrive_keeps k2183151818)
    | (with_reducible apply openMsg_keeps k2262852298)
    | (with_reducible apply refreshCph_keeps k2149597386)
    | split
    | ((with_reducible refine Keep.mk (f := 33554432) ?_ ?_ ?_); (exact K.sub rfl); rotate_left; (exact ⟨rfl, rfl, canon_same rfl, .same rfl, .same rfl, .same rfl, ⟨.inr rfl, .inl rfl, .inr rfl, .inr rfl, .inr rfl, .inr rfl, .inr rfl, .inr rfl⟩⟩); first | with_reducible assumption))
theorem execSxuCipherRequest_keeps (K : Keep P 2262852298) {decrypt : Bool} {m : AMsg} {s : State} {sOut : State} (hP : P s) (e : execSxuCipherRequest decrypt m s = .next sOut) : P sOut := by
  have k2262852298 : Keep P 2262852298 := K.sub rfl
  refine ok_keeps ?_ e
  repeat' (first
    | with_reducible assumption
    | (with_reducible apply effOpen_keeps k2262852298)
    | (with_reducible apply effSeal_keeps k2262852298)
    | split)
theorem onMsg_keeps (K : Keep P 67108864) {s : State} {m : AMsg} {typ : Nat} {f : State → Nat → State} (hf_f : ∀ (a0 : State) (a1 : Nat), P a0 → P (f a0 a1)) (hP : P s) : P (onMsg s m typ f) := by
  unfold onMsg
  repeat' (first
    | with_reducible assumption
    | (with_reducible apply hf_f)
    | split
    | ((with_reducible refine Keep.mk (f := 67108864) ?_ ?_ ?_); (exact K.sub rfl); rotate_left; (exact ⟨rfl, rfl, canon_same rfl, .same rfl, .same rfl, .same rfl, ⟨.inr rfl, .inr rfl, .inl rfl, .inr rfl, .inr rfl, .inr rfl, .inr rfl, .inr rfl⟩⟩); first | with_reducible assumption))
theorem probeAll_keeps (K : Keep P 2250260682) {s : State} {ps : List Nat}  (hP : P s) : P (probeAll s ps) := by
  have k2250260682 : Keep P 2250260682 := K.sub rfl
  unfold probeAll
  repeat' (first
    | with_reducible assumption
    | intro _
    | (with_reducible apply sendMsg_keeps k2250260682)
    | (with_reducible apply foldl_keeps))
theorem effProbe_keeps (K : Keep P 2250260682) {m : AMsg} {s : State} {p : Nat}  (hP : P s) : P (effProbe m s p) := by
  have k2250260682 : Keep P 2250260682 := K.sub rfl
  unfold effProbe
  repeat' (first
    | with_reducible assumption
    | (extract_lets +onlyGivenNames s'; first | (refine (fun (hs' : P s') => ?_) ?_; clear_value s'; rotate_left; subst s') | clear_value s' | skip)
    | (with_reducible apply sendMsg_keeps k2250260682)
    | (with_reducible apply enterListen_keeps k2250260682)
    | split)
theorem execProbe_keeps (K : Keep P 2250260682) {m : AMsg} {s : State} {sOut : State} (hP : P s) (e : execProbe m s = .next sOut) : P sOut := by
  have k67108864 : Keep P 67108864 := K.sub rfl
  have k2250260682 : Keep P 2250260682 := K.sub rfl
  refine ok_keeps ?_ e
  repeat' (first
    | with_reducible assumption
    | intro _
    | (extract_lets +onlyGivenNames s'; first | (refine (fun (hs' : P s') => ?_) ?_; clear_value s'; rotate_left; subst s') | (refine (fun (hs' : P s'.1) => ?_) ?_; clear_value s'; rotate_left; subst s') | (refine (fun (hs' : P s'.s) => ?_) ?_; clear_value s'; rotate_left; subst s') | (refine (fun (hs' : P s'.2) => ?_) ?_; clear_value s'; rotate_left; subst s') | (refine (fun (hs' : P s'.2.2) => ?_) ?_; clear_value s'; rotate_left; subst s') | (refine (fun (hs' : OptKeeps P s') => ?_) ?_; clear_value s'; rotate_left; subst s') | (refine (fun (hs' : ExKeeps P s') => ?_) ?_; clear_value s'; rotate_left; subst s') | (have _hs : State → _ := s'; clear _hs) | clear_value s' | skip)
    | (with_reducible apply onMsg_keeps k67108864)
    | (with_reducible apply effProbe_keeps k2250260682)
    | split
    | (with_reducible refine keeps_ofFst (by assumption) ?_)
    | (with_reducible refine keeps_ofSnd (by assumption) ?_)
    | (with_reducible refine keeps_ofThird (by assumption) ?_)
    | (with_reducible refine keeps_ofOpt (by assumption) ?_)
    | (with_reducible refine keeps_ofEx (by assumption) ?_)
    | (with_reducible refine keeps_ofSome (by assumption) ?_)
    | dsimp -zeta only)
theorem effProbeReply_keeps (K : Keep P 2216706250) {m : AMsg} {s : State} {p : Nat}  (hP : P s) : P (effProbeReply m s p) := by
  have k8 : Keep P 8 := K.sub rfl
  have k67108864 : Keep P 67108864 := K.sub rfl
  have k2149597386 : Keep P 2149597386 := K.sub rfl
  unfold effProbeReply
  repeat' (first
    | with_reducible assumption
    | (extract_lets +onlyGivenNames s'; first | (refine (fun (hs' : P s') => ?_) ?_; clear_value s'; rotate_left; subst s') | clear_value s' | skip)
    | (with_reducible apply putSx_keeps k67108864)
    | (with_reducible apply rputN_keeps k8)
    | (with_reducible apply sxEvent_keeps k2149597386)
    | (with_reducible apply setPState_keeps k8)
    | split)
theorem execProbeReply_keeps (K : Keep P 2216706250) {m : AMsg} {s : State} {sOut : State} (hP : P s) (e : execProbeReply m s = .next sOut) : P sOut := by
  have k67108864 : Keep P 67108864 := K.sub rfl
  have k2216706250 : Keep P 2216706250 := K.sub rfl
  refine ok_keeps ?_ e
  repeat' (first
    | with_reducible assumption
    | intro _
    | (extract_lets +onlyGivenNames s'; first | (refine (fun (hs' : P s') => ?_) ?_; clear_value s'; rotate_left; subst s') | (refine (fun (hs' : P s'.1) => ?_) ?_; clear_value s'; rotate_left; subst s') | (refine (fun (hs' : P s'.s) => ?_) ?_; clear_value s'; rotate_left; subst s') | (refine (fun (hs' : P s'.2) => ?_) ?_; clear_value s'; rotate_left; subst s') | (refine (fun (hs' : P s'.2.2) => ?_) ?_; clear_value s'; rotate_left; subst s') | (refine (fun (hs' : OptKeeps P s') => ?_) ?_; clear_value s'; rotate_left; subst s') | (refine (fun (hs' : ExKeeps P s') => ?_) ?_; clear_value s'; rotate_left; subst s') | (have _hs : State → _ := s'; clear _hs) | clear_value s' | skip)
    | (with_reducible apply onMsg_keeps k67108864)
    | (with_reducible apply effProbeReply_keeps k2216706250)
    | split
    | (with_reducible refine keeps_ofFst (by assumption) ?_)
    | (with_reducible refine keeps_ofSnd (by assumption) ?_)
    | (with_reducible refine keeps_ofThird (by assumption) ?_)
    | (with_reducible refine keeps_ofOpt (by assumption) ?_)
    | (with_reducible refine keeps_ofEx (by assumption) ?_)
    | (with_reducible refine keeps_ofSome (by assumption) ?_)
    | dsimp -zeta only)
theorem effProbePeriodic_keeps (K : Keep P 2250260682) {s : State}  (hP : P s) : P (effProbePeriodic s) := by
  have k2250260682 : Keep P 2250260682 := K.sub rfl
  unfold effProbePeriodic
  repeat' (first
    | with_reducible assumption
    | intro _
    | (with_reducible apply probeAll_keeps k2250260682)
    | split
    | ((with_reducible refine Keep.mk (f := 67108864) ?_ ?_ ?_); (exact K.sub rfl); rotate_left; (exact ⟨rfl, rfl, canon_same rfl, .same rfl, .same rfl, .same rfl, ⟨.inr rfl, .inr rfl, .inl rfl, .inr rfl, .inr rfl, .inr rfl, .inr rfl, .inr rfl⟩⟩); first | with_reducible assumption))
theorem execProbePeriodic_keeps (K : Keep P 2250260682) {s : State} {sOut : State} (hP : P s) (e : execProbePeriodic s = .next sOut) : P sOut := ok_keeps (effProbePeriodic_keeps (K.sub rfl) hP) e
theorem effRoundOpen_keeps (K : Keep P 2262852298) {s : State}  (hP : P s) : P (effRoundOpen s) := by
  have k8 : Keep P 8 := K.sub rfl
  have k2250260682 : Keep P 2250260682 := K.sub rfl
  have k2262852298 : Keep P 2262852298 := K.sub rfl
  unfold effRoundOpen
  repeat' (first
    | with_reducible assumption
    | intro _
    | (extract_lets +onlyGivenNames s'; first | (refine (fun (hs' : P s') => ?_) ?_; clear_value s'; rotate_left; subst s') | clear_value s' | skip)
    | (with_reducible apply probeAll_keeps k2250260682)
    | (with_reducible apply settleSites_keeps k2262852298)
    | (with_reducible apply setMisses_keeps k8)
    | (with_reducible apply setPState_keeps k8)
    | (with_reducible apply foldl_keeps)
    | split
    | ((with_reducible refine Keep.mk (f := 67108864) ?_ ?_ ?_); (exact K.sub rfl); rotate_left; (exact ⟨rfl, rfl, canon_same rfl, .same rfl, .same rfl, .same rfl, ⟨.inr rfl, .inr rfl, .inl rfl, .inr rfl, .inr rfl, .inr rfl, .inr rfl, .inr rfl⟩⟩); first | with_reducible assumption))
theorem execRoundOpen_keeps (K : Keep P 2262852298) {s : State} {sOut : State} (hP : P s) (e : execRoundOpen s = .next sOut) : P sOut := ok_keeps (effRoundOpen_keeps (K.sub rfl) hP) e
theorem execRoundDeadline_keeps (K : Keep P 2262852298) {s : State} {sOut : State} (hP : P s) (e : execRoundDeadline s = .next sOut) : P sOut := ok_keeps (settleSites_keeps (K.sub rfl) hP) e
theorem effDeltaStop_keeps (K : Keep P 67108872) {s : State}  (hP : P s) : P (effDeltaStop s) := by
  have k8 : Keep P 8 := K.sub rfl
  unfold effDeltaStop
  repeat' (first
    | with_reducible assumption
    | intro _
    | (extract_lets +onlyGivenNames s'; first | (refine (fun (hs' : P s') => ?_) ?_; clear_value s'; rotate_left; subst s') | clear_value s' | skip)
    | (with_reducible apply rinc_keeps k8)
    | ((with_reducible refine Keep.mk (f := 67108864) ?_ ?_ ?_); (exact K.sub rfl); rotate_left; (exact ⟨rfl, rfl, canon_same rfl, .same rfl, .same rfl, .same rfl, ⟨.inr rfl, .inr rfl, .inl rfl, .inr rfl, .inr rfl, .inr rfl, .inr rfl, .inr rfl⟩⟩); first | with_reducible assumption))
theorem execDeltaSendStop_keeps (K : Keep P 67108872) {s : State} {sOut : State} (hP : P s) (e : execDeltaSendStop s = .next sOut) : P sOut := ok_keeps (effDeltaStop_keeps (K.sub rfl) hP) e
theorem noteArrive_keeps (K : Keep P 2149597386) {s : State} {p r : Nat}  (hP : P s) : P (noteArrive s p r) := by
  have k8 : Keep P 8 := K.sub rfl
  have k2149597386 : Keep P 2149597386 := K.sub rfl
  unfold noteArrive
  repeat' (first
    | with_reducible assumption
    | (extract_lets +onlyGivenNames s'; first | (refine (fun (hs' : P s') => ?_) ?_; clear_value s'; rotate_left; subst s') | clear_value s' | skip)
    | (with_reducible apply rputN_keeps k8)
    | (with_reducible apply sxEvent_keeps k2149597386)
    | split)
theorem checkItem_keeps (K : Keep P 2262852298) {s : State} {x : SxIn} {t : Nat}  (hP : P s) : P (checkItem s x t) := by
  have k8 : Keep P 8 := K.sub rfl
  have k67108864 : Keep P 67108864 := K.sub rfl
  have k2149597386 : Keep P 2149597386 := K.sub rfl
  have k2250260682 : Keep P 2250260682 := K.sub rfl
  have k2262852298 : Keep P 2262852298 := K.sub rfl
  unfold checkItem
  repeat' (first
    | with_reducible assumption
    | (extract_lets +onlyGivenNames s'; first | (refine (fun (hs' : P s') => ?_) ?_; clear_value s'; rotate_left; subst s') | clear_value s' | skip)
    | (with_reducible apply putIn_keeps k67108864)
    | (with_reducible apply rinc_keeps k8)
    | (with_reducible apply dropIn_keeps k67108864)
    | (with_reducible apply reportUe_keeps k2149597386)
    | (with_reducible apply sendAck_keeps k2250260682)
    | (with_reducible apply settleSites_keeps k2262852298)
    | (with_reducible apply noteArrive_keeps k2149597386)
    | split)
theorem openItem_keeps (K : Keep P 67108864) {s : State} {p kind : Nat} {m : AMsg}  (hP : P s) : P (openItem s p kind m).1 := by
  unfold openItem
  repeat' (first
    | with_reducible assumption
    | intro _
    | (extract_lets +onlyGivenNames s'; first | (refine (fun (hs' : P s') => ?_) ?_; clear_value s'; rotate_left; subst s') | clear_value s' | skip)
    | split
    | ((with_reducible refine Keep.mk (f := 67108864) ?_ ?_ ?_); (exact K.sub rfl); rotate_left; (exact ⟨rfl, rfl, canon_same rfl, .same rfl, .same rfl, .same rfl, ⟨.inr rfl, .inr rfl, .inl rfl, .inr rfl, .inr rfl, .inr rfl, .inr rfl, .inr rfl⟩⟩); first | with_reducible assumption)
    | dsimp -zeta only)
theorem effSegment_keeps (K : Keep P 2262852298) {kind : Nat} {m : AMsg} {s : State} {p : Nat}  (hP : P s) : P (effSegment kind m s p) := by
  have k8 : Keep P 8 := K.sub rfl
  have k67108864 : Keep P 67108864 := K.sub rfl
  have k2149597386 : Keep P 2149597386 := K.sub rfl
  have k2262852298 : Keep P 2262852298 := K.sub rfl
  unfold effSegment
  repeat' (first
    | with_reducible assumption
    | (extract_lets +onlyGivenNames s'; first | (refine (fun (hs' : P s') => ?_) ?_; clear_value s'; rotate_left; subst s') | (refine (fun (hs' : P s'.1) => ?_) ?_; clear_value s'; rotate_left; subst s') | clear_value s' | skip)
    | (with_reducible apply rinc_keeps k8)
    | (with_reducible apply openItem_keeps k67108864)
    | (with_reducible apply storeAll_keeps k2149597386)
    | (with_reducible apply reportUe_keeps k2149597386)
    | (with_reducible apply checkItem_keeps k2262852298)
    | (with_reducible apply rinc64_keeps k8)
    | split
    | (with_reducible refine keeps_ofFst (by assumption) ?_)
    | dsimp -zeta only)
theorem execDelta_keeps (K : Keep P 2262852298) {m : AMsg} {s : State} {sOut : State} (hP : P s) (e : execDelta m s = .next sOut) : P sOut := by
  have k67108864 : Keep P 67108864 := K.sub rfl
  have k2262852298 : Keep P 2262852298 := K.sub rfl
  refine ok_keeps ?_ e
  repeat' (first
    | with_reducible assumption
    | intro _
    | (extract_lets +onlyGivenNames s'; first | (refine (fun (hs' : P s') => ?_) ?_; clear_value s'; rotate_left; subst s') | (refine (fun (hs' : P s'.1) => ?_) ?_; clear_value s'; rotate_left; subst s') | (refine (fun (hs' : P s'.s) => ?_) ?_; clear_value s'; rotate_left; subst s') | (refine (fun (hs' : P s'.2) => ?_) ?_; clear_value s'; rotate_left; subst s') | (refine (fun (hs' : P s'.2.2) => ?_) ?_; clear_value s'; rotate_left; subst s') | (refine (fun (hs' : OptKeeps P s') => ?_) ?_; clear_value s'; rotate_left; subst s') | (refine (fun (hs' : ExKeeps P s') => ?_) ?_; clear_value s'; rotate_left; subst s') | (have _hs : State → _ := s'; clear _hs) | clear_value s' | skip)
    | (with_reducible apply onMsg_keeps k67108864)
    | (with_reducible apply effSegment_keeps k2262852298)
    | split
    | (with_reducible refine keeps_ofFst (by assumption) ?_)
    | (with_reducible refine keeps_ofSnd (by assumption) ?_)
    | (with_reducible refine keeps_ofThird (by assumption) ?_)
    | (with_reducible refine keeps_ofOpt (by assumption) ?_)
    | (with_reducible refine keeps_ofEx (by assumption) ?_)
    | (with_reducible refine keeps_ofSome (by assumption) ?_)
    | dsimp -zeta only)
theorem execThawDelta_keeps (K : Keep P 2262852298) {m : AMsg} {s : State} {sOut : State} (hP : P s) (e : execThawDelta m s = .next sOut) : P sOut := by
  have k67108864 : Keep P 67108864 := K.sub rfl
  have k2262852298 : Keep P 2262852298 := K.sub rfl
  refine ok_keeps ?_ e
  repeat' (first
    | with_reducible assumption
    | intro _
    | (extract_lets +onlyGivenNames s'; first | (refine (fun (hs' : P s') => ?_) ?_; clear_value s'; rotate_left; subst s') | (refine (fun (hs' : P s'.1) => ?_) ?_; clear_value s'; rotate_left; subst s') | (refine (fun (hs' : P s'.s) => ?_) ?_; clear_value s'; rotate_left; subst s') | (refine (fun (hs' : P s'.2) => ?_) ?_; clear_value s'; rotate_left; subst s') | (refine (fun (hs' : P s'.2.2) => ?_) ?_; clear_value s'; rotate_left; subst s') | (refine (fun (hs' : OptKeeps P s') => ?_) ?_; clear_value s'; rotate_left; subst s') | (refine (fun (hs' : ExKeeps P s') => ?_) ?_; clear_value s'; rotate_left; subst s') | (have _hs : State → _ := s'; clear _hs) | clear_value s' | skip)
    | (with_reducible apply onMsg_keeps k67108864)
    | (with_reducible apply effSegment_keeps k2262852298)
    | split
    | (with_reducible refine keeps_ofFst (by assumption) ?_)
    | (with_reducible refine keeps_ofSnd (by assumption) ?_)
    | (with_reducible refine keeps_ofThird (by assumption) ?_)
    | (with_reducible refine keeps_ofOpt (by assumption) ?_)
    | (with_reducible refine keeps_ofEx (by assumption) ?_)
    | (with_reducible refine keeps_ofSome (by assumption) ?_)
    | dsimp -zeta only)
theorem execSnap_keeps (K : Keep P 2262852298) {m : AMsg} {s : State} {sOut : State} (hP : P s) (e : execSnap m s = .next sOut) : P sOut := by
  have k67108864 : Keep P 67108864 := K.sub rfl
  have k2262852298 : Keep P 2262852298 := K.sub rfl
  refine ok_keeps ?_ e
  repeat' (first
    | with_reducible assumption
    | intro _
    | (extract_lets +onlyGivenNames s'; first | (refine (fun (hs' : P s') => ?_) ?_; clear_value s'; rotate_left; subst s') | (refine (fun (hs' : P s'.1) => ?_) ?_; clear_value s'; rotate_left; subst s') | (refine (fun (hs' : P s'.s) => ?_) ?_; clear_value s'; rotate_left; subst s') | (refine (fun (hs' : P s'.2) => ?_) ?_; clear_value s'; rotate_left; subst s') | (refine (fun (hs' : P s'.2.2) => ?_) ?_; clear_value s'; rotate_left; subst s') | (refine (fun (hs' : OptKeeps P s') => ?_) ?_; clear_value s'; rotate_left; subst s') | (refine (fun (hs' : ExKeeps P s') => ?_) ?_; clear_value s'; rotate_left; subst s') | (have _hs : State → _ := s'; clear _hs) | clear_value s' | skip)
    | (with_reducible apply onMsg_keeps k67108864)
    | (with_reducible apply effSegment_keeps k2262852298)
    | split
    | (with_reducible refine keeps_ofFst (by assumption) ?_)
    | (with_reducible refine keeps_ofSnd (by assumption) ?_)
    | (with_reducible refine keeps_ofThird (by assumption) ?_)
    | (with_reducible refine keeps_ofOpt (by assumption) ?_)
    | (with_reducible refine keeps_ofEx (by assumption) ?_)
    | (with_reducible refine keeps_ofSome (by assumption) ?_)
    | dsimp -zeta only)
theorem effDone_keeps (K : Keep P 2262852298) {kind : Nat} {m : AMsg} {s : State} {p : Nat}  (hP : P s) : P (effDone kind m s p) := by
  have k8 : Keep P 8 := K.sub rfl
  have k67108864 : Keep P 67108864 := K.sub rfl
  have k2250260682 : Keep P 2250260682 := K.sub rfl
  have k2262852298 : Keep P 2262852298 := K.sub rfl
  unfold effDone
  repeat' (first
    | with_reducible assumption
    | (extract_lets +onlyGivenNames s'; first | (refine (fun (hs' : P s') => ?_) ?_; clear_value s'; rotate_left; subst s') | (refine (fun (hs' : P s'.1) => ?_) ?_; clear_value s'; rotate_left; subst s') | clear_value s' | skip)
    | (with_reducible apply sendAck_keeps k2250260682)
    | (with_reducible apply rinc_keeps k8)
    | (with_reducible apply openItem_keeps k67108864)
    | (with_reducible apply checkItem_keeps k2262852298)
    | (with_reducible apply sendNack_keeps k2250260682)
    | split
    | (with_reducible refine keeps_ofFst (by assumption) ?_)
    | dsimp -zeta only)
theorem execDone_keeps (K : Keep P 2262852298) {m : AMsg} {s : State} {sOut : State} (hP : P s) (e : execDone m s = .next sOut) : P sOut := by
  have k67108864 : Keep P 67108864 := K.sub rfl
  have k2262852298 : Keep P 2262852298 := K.sub rfl
  refine ok_keeps ?_ e
  repeat' (first
    | with_reducible assumption
    | intro _
    | (extract_lets +onlyGivenNames s'; first | (refine (fun (hs' : P s') => ?_) ?_; clear_value s'; rotate_left; subst s') | (refine (fun (hs' : P s'.1) => ?_) ?_; clear_value s'; rotate_left; subst s') | (refine (fun (hs' : P s'.s) => ?_) ?_; clear_value s'; rotate_left; subst s') | (refine (fun (hs' : P s'.2) => ?_) ?_; clear_value s'; rotate_left; subst s') | (refine (fun (hs' : P s'.2.2) => ?_) ?_; clear_value s'; rotate_left; subst s') | (refine (fun (hs' : OptKeeps P s') => ?_) ?_; clear_value s'; rotate_left; subst s') | (refine (fun (hs' : ExKeeps P s') => ?_) ?_; clear_value s'; rotate_left; subst s') | (have _hs : State → _ := s'; clear _hs) | clear_value s' | skip)
    | (with_reducible apply onMsg_keeps k67108864)
    | (with_reducible apply effDone_keeps k2262852298)
    | split
    | (with_reducible refine keeps_ofFst (by assumption) ?_)
    | (with_reducible refine keeps_ofSnd (by assumption) ?_)
    | (with_reducible refine keeps_ofThird (by assumption) ?_)
    | (with_reducible refine keeps_ofOpt (by assumption) ?_)
    | (with_reducible refine keeps_ofEx (by assumption) ?_)
    | (with_reducible refine keeps_ofSome (by assumption) ?_)
    | dsimp -zeta only)
theorem execThawDone_keeps (K : Keep P 2262852298) {m : AMsg} {s : State} {sOut : State} (hP : P s) (e : execThawDone m s = .next sOut) : P sOut := by
  have k67108864 : Keep P 67108864 := K.sub rfl
  have k2262852298 : Keep P 2262852298 := K.sub rfl
  refine ok_keeps ?_ e
  repeat' (first
    | with_reducible assumption
    | intro _
    | (extract_lets +onlyGivenNames s'; first | (refine (fun (hs' : P s') => ?_) ?_; clear_value s'; rotate_left; subst s') | (refine (fun (hs' : P s'.1) => ?_) ?_; clear_value s'; rotate_left; subst s') | (refine (fun (hs' : P s'.s) => ?_) ?_; clear_value s'; rotate_left; subst s') | (refine (fun (hs' : P s'.2) => ?_) ?_; clear_value s'; rotate_left; subst s') | (refine (fun (hs' : P s'.2.2) => ?_) ?_; clear_value s'; rotate_left; subst s') | (refine (fun (hs' : OptKeeps P s') => ?_) ?_; clear_value s'; rotate_left; subst s') | (refine (fun (hs' : ExKeeps P s') => ?_) ?_; clear_value s'; rotate_left; subst s') | (have _hs : State → _ := s'; clear _hs) | clear_value s' | skip)
    | (with_reducible apply onMsg_keeps k67108864)
    | (with_reducible apply effDone_keeps k2262852298)
    | split
    | (with_reducible refine keeps_ofFst (by assumption) ?_)
    | (with_reducible refine keeps_ofSnd (by assumption) ?_)
    | (with_reducible refine keeps_ofThird (by assumption) ?_)
    | (with_reducible refine keeps_ofOpt (by assumption) ?_)
    | (with_reducible refine keeps_ofEx (by assumption) ?_)
    | (with_reducible refine keeps_ofSome (by assumption) ?_)
    | dsimp -zeta only)
theorem execSnapDone_keeps (K : Keep P 2262852298) {m : AMsg} {s : State} {sOut : State} (hP : P s) (e : execSnapDone m s = .next sOut) : P sOut := by
  have k67108864 : Keep P 67108864 := K.sub rfl
  have k2262852298 : Keep P 2262852298 := K.sub rfl
  refine ok_keeps ?_ e
  repeat' (first
    | with_reducible assumption
    | intro _
    | (extract_lets +onlyGivenNames s'; first | (refine (fun (hs' : P s') => ?_) ?_; clear_value s'; rotate_left; subst s') | (refine (fun (hs' : P s'.1) => ?_) ?_; clear_value s'; rotate_left; subst s') | (refine (fun (hs' : P s'.s) => ?_) ?_; clear_value s'; rotate_left; subst s') | (refine (fun (hs' : P s'.2) => ?_) ?_; clear_value s'; rotate_left; subst s') | (refine (fun (hs' : P s'.2.2) => ?_) ?_; clear_value s'; rotate_left; subst s') | (refine (fun (hs' : OptKeeps P s') => ?_) ?_; clear_value s'; rotate_left; subst s') | (refine (fun (hs' : ExKeeps P s') => ?_) ?_; clear_value s'; rotate_left; subst s') | (have _hs : State → _ := s'; clear _hs) | clear_value s' | skip)
    | (with_reducible apply onMsg_keeps k67108864)
    | (with_reducible apply effDone_keeps k2262852298)
    | split
    | (with_reducible refine keeps_ofFst (by assumption) ?_)
    | (with_reducible refine keeps_ofSnd (by assumption) ?_)
    | (with_reducible refine keeps_ofThird (by assumption) ?_)
    | (with_reducible refine keeps_ofOpt (by assumption) ?_)
    | (with_reducible refine keeps_ofEx (by assumption) ?_)
    | (with_reducible refine keeps_ofSome (by assumption) ?_)
    | dsimp -zeta only)
theorem effNack_keeps (K : Keep P 67108864) {m : AMsg} {s : State} {p : Nat}  (hP : P s) : P (effNack m s p) := by
  have k67108864 : Keep P 67108864 := K.sub rfl
  unfold effNack
  repeat' (first
    | with_reducible assumption
    | intro _
    | (extract_lets +onlyGivenNames s'; first | (refine (fun (hs' : P s') => ?_) ?_; clear_value s'; rotate_left; subst s') | clear_value s' | skip)
    | (with_reducible apply putOutItem_keeps k67108864)
    | split)
theorem execNack_keeps (K : Keep P 67108864) {m : AMsg} {s : State} {sOut : State} (hP : P s) (e : execNack m s = .next sOut) : P sOut := by
  have k67108864 : Keep P 67108864 := K.sub rfl
  refine ok_keeps ?_ e
  repeat' (first
    | with_reducible assumption
    | intro _
    | (extract_lets +onlyGivenNames s'; first | (refine (fun (hs' : P s') => ?_) ?_; clear_value s'; rotate_left; subst s') | (refine (fun (hs' : P s'.1) => ?_) ?_; clear_value s'; rotate_left; subst s') | (refine (fun (hs' : P s'.s) => ?_) ?_; clear_value s'; rotate_left; subst s') | (refine (fun (hs' : P s'.2) => ?_) ?_; clear_value s'; rotate_left; subst s') | (refine (fun (hs' : P s'.2.2) => ?_) ?_; clear_value s'; rotate_left; subst s') | (refine (fun (hs' : OptKeeps P s') => ?_) ?_; clear_value s'; rotate_left; subst s') | (refine (fun (hs' : ExKeeps P s') => ?_) ?_; clear_value s'; rotate_left; subst s') | (have _hs : State → _ := s'; clear _hs) | clear_value s' | skip)
    | (with_reducible apply onMsg_keeps k67108864)
    | (with_reducible apply effNack_keeps k67108864)
    | split
    | (with_reducible refine keeps_ofFst (by assumption) ?_)
    | (with_reducible refine keeps_ofSnd (by assumption) ?_)
    | (with_reducible refine keeps_ofThird (by assumption) ?_)
    | (with_reducible refine keeps_ofOpt (by assumption) ?_)
    | (with_reducible refine keeps_ofEx (by assumption) ?_)
    | (with_reducible refine keeps_ofSome (by assumption) ?_)
    | dsimp -zeta only)
theorem serveDone_keeps (K : Keep P 2250260682) {s : State} {p : Nat}  (hP : P s) : P (serveDone s p) := by
  have k2250260682 : Keep P 2250260682 := K.sub rfl
  unfold serveDone
  repeat' (first
    | with_reducible assumption
    | intro _
    | (with_reducible apply enterListen_keeps k2250260682)
    | split
    | ((with_reducible refine Keep.mk (f := 67108864) ?_ ?_ ?_); (exact K.sub rfl); rotate_left; (exact ⟨rfl, rfl, canon_same rfl, .same rfl, .same rfl, .same rfl, ⟨.inr rfl, .inr rfl, .inl rfl, .inr rfl, .inr rfl, .inr rfl, .inr rfl, .inr rfl⟩⟩); first | with_reducible assumption))
theorem effItemAck_keeps (K : Keep P 2262852298) {m : AMsg} {s : State} {p : Nat}  (hP : P s) : P (effItemAck m s p) := by
  have k2250260682 : Keep P 2250260682 := K.sub rfl
  have k2262852298 : Keep P 2262852298 := K.sub rfl
  unfold effItemAck
  repeat' (first
    | with_reducible assumption
    | intro _
    | (with_reducible apply settleSites_keeps k2262852298)
    | (with_reducible apply serveDone_keeps k2250260682)
    | split
    | ((with_reducible refine Keep.mk (f := 67108864) ?_ ?_ ?_); (exact K.sub rfl); rotate_left; (exact ⟨rfl, rfl, canon_same rfl, .same rfl, .same rfl, .same rfl, ⟨.inr rfl, .inr rfl, .inl rfl, .inr rfl, .inr rfl, .inr rfl, .inr rfl, .inr rfl⟩⟩); first | with_reducible assumption))
theorem execAcnisAck_keeps (K : Keep P 2262852298) {m : AMsg} {s : State} {sOut : State} (hP : P s) (e : execAcnisAck m s = .next sOut) : P sOut := by
  have k67108864 : Keep P 67108864 := K.sub rfl
  have k2262852298 : Keep P 2262852298 := K.sub rfl
  refine ok_keeps ?_ e
  repeat' (first
    | with_reducible assumption
    | intro _
    | (extract_lets +onlyGivenNames s'; first | (refine (fun (hs' : P s') => ?_) ?_; clear_value s'; rotate_left; subst s') | (refine (fun (hs' : P s'.1) => ?_) ?_; clear_value s'; rotate_left; subst s') | (refine (fun (hs' : P s'.s) => ?_) ?_; clear_value s'; rotate_left; subst s') | (refine (fun (hs' : P s'.2) => ?_) ?_; clear_value s'; rotate_left; subst s') | (refine (fun (hs' : P s'.2.2) => ?_) ?_; clear_value s'; rotate_left; subst s') | (refine (fun (hs' : OptKeeps P s') => ?_) ?_; clear_value s'; rotate_left; subst s') | (refine (fun (hs' : ExKeeps P s') => ?_) ?_; clear_value s'; rotate_left; subst s') | (have _hs : State → _ := s'; clear _hs) | clear_value s' | skip)
    | (with_reducible apply onMsg_keeps k67108864)
    | (with_reducible apply effItemAck_keeps k2262852298)
    | split
    | (with_reducible refine keeps_ofFst (by assumption) ?_)
    | (with_reducible refine keeps_ofSnd (by assumption) ?_)
    | (with_reducible refine keeps_ofThird (by assumption) ?_)
    | (with_reducible refine keeps_ofOpt (by assumption) ?_)
    | (with_reducible refine keeps_ofEx (by assumption) ?_)
    | (with_reducible refine keeps_ofSome (by assumption) ?_)
    | dsimp -zeta only)
theorem effRto_keeps (K : Keep P 2250260682) {s : State} {p : Nat}  (hP : P s) : P (effRto s p) := by
  have k2250260682 : Keep P 2250260682 := K.sub rfl
  unfold effRto
  repeat' (first
    | with_reducible assumption
    | intro _
    | (extract_lets +onlyGivenNames s'; first | (refine (fun (hs' : P s') => ?_) ?_; clear_value s'; rotate_left; subst s') | clear_value s' | skip)
    | (with_reducible apply sendDone_keeps k2250260682)
    | (with_reducible apply sendNack_keeps k2250260682)
    | (with_reducible apply foldl_keeps)
    | split)
theorem execAcnisRto_keeps (K : Keep P 2250260682) {peer : Nat} {s : State} {sOut : State} (hP : P s) (e : execAcnisRto peer s = .next sOut) : P sOut := ok_keeps (effRto_keeps (K.sub rfl) hP) e
theorem effThawTimeout_keeps (K : Keep P 2262852298) {s : State} {p : Nat}  (hP : P s) : P (effThawTimeout s p) := by
  have k2216706762 : Keep P 2216706762 := K.sub rfl
  have k2262852298 : Keep P 2262852298 := K.sub rfl
  unfold effThawTimeout
  repeat' (first
    | with_reducible assumption
    | (with_reducible apply settleSites_keeps k2262852298)
    | (with_reducible apply thawFails_keeps k2216706762)
    | split)
theorem execThawTimeout_keeps (K : Keep P 2262852298) {peer : Nat} {s : State} {sOut : State} (hP : P s) (e : execThawTimeout peer s = .next sOut) : P sOut := ok_keeps (effThawTimeout_keeps (K.sub rfl) hP) e
theorem effJoinTimeout_keeps (K : Keep P 2262852298) {s : State}  (hP : P s) : P (effJoinTimeout s) := by
  have k2216706762 : Keep P 2216706762 := K.sub rfl
  have k2262852298 : Keep P 2262852298 := K.sub rfl
  unfold effJoinTimeout
  repeat' (first
    | with_reducible assumption
    | (with_reducible apply settleSites_keeps k2262852298)
    | (with_reducible apply joinFails_keeps k2216706762)
    | split)
theorem execJoinTimeout_keeps (K : Keep P 2262852298) {s : State} {sOut : State} (hP : P s) (e : execJoinTimeout s = .next sOut) : P sOut := ok_keeps (effJoinTimeout_keeps (K.sub rfl) hP) e
theorem effJoinReq_keeps (K : Keep P 2250260682) {u0 : AMsg} {s : State} {p : Nat}  (hP : P s) : P (effJoinReq u0 s p) := by
  have k8 : Keep P 8 := K.sub rfl
  have k2250260682 : Keep P 2250260682 := K.sub rfl
  unfold effJoinReq
  repeat' (first
    | with_reducible assumption
    | (extract_lets +onlyGivenNames s'; first | (refine (fun (hs' : P s') => ?_) ?_; clear_value s'; rotate_left; subst s') | clear_value s' | skip)
    | (with_reducible apply sendMsg_keeps k2250260682)
    | (with_reducible apply setPState_keeps k8)
    | (with_reducible apply leaveSlot_keeps k8)
    | split
    | ((with_reducible refine Keep.mk (f := 67108864) ?_ ?_ ?_); (exact K.sub rfl); rotate_left; (exact ⟨rfl, rfl, canon_same rfl, .same rfl, .same rfl, .same rfl, ⟨.inr rfl, .inr rfl, .inl rfl, .inr rfl, .inr rfl, .inr rfl, .inr rfl, .inr rfl⟩⟩); first | with_reducible assumption))
theorem execJoinReq_keeps (K : Keep P 2250260682) {m : AMsg} {s : State} {sOut : State} (hP : P s) (e : execJoinReq m s = .next sOut) : P sOut := by
  have k67108864 : Keep P 67108864 := K.sub rfl
  have k2250260682 : Keep P 2250260682 := K.sub rfl
  refine ok_keeps ?_ e
  repeat' (first
    | with_reducible assumption
    | intro _
    | (extract_lets +onlyGivenNames s'; first | (refine (fun (hs' : P s') => ?_) ?_; clear_value s'; rotate_left; subst s') | (refine (fun (hs' : P s'.1) => ?_) ?_; clear_value s'; rotate_left; subst s') | (refine (fun (hs' : P s'.s) => ?_) ?_; clear_value s'; rotate_left; subst s') | (refine (fun (hs' : P s'.2) => ?_) ?_; clear_value s'; rotate_left; subst s') | (refine (fun (hs' : P s'.2.2) => ?_) ?_; clear_value s'; rotate_left; subst s') | (refine (fun (hs' : OptKeeps P s') => ?_) ?_; clear_value s'; rotate_left; subst s') | (refine (fun (hs' : ExKeeps P s') => ?_) ?_; clear_value s'; rotate_left; subst s') | (have _hs : State → _ := s'; clear _hs) | clear_value s' | skip)
    | (with_reducible apply onMsg_keeps k67108864)
    | (with_reducible apply effJoinReq_keeps k2250260682)
    | split
    | (with_reducible refine keeps_ofFst (by assumption) ?_)
    | (with_reducible refine keeps_ofSnd (by assumption) ?_)
    | (with_reducible refine keeps_ofThird (by assumption) ?_)
    | (with_reducible refine keeps_ofOpt (by assumption) ?_)
    | (with_reducible refine keeps_ofEx (by assumption) ?_)
    | (with_reducible refine keeps_ofSome (by assumption) ?_)
    | dsimp -zeta only)
theorem effJoinRepeat_keeps (K : Keep P 2250260682) {s : State}  (hP : P s) : P (effJoinRepeat s) := by
  have k2250260682 : Keep P 2250260682 := K.sub rfl
  unfold effJoinRepeat
  repeat' (first
    | with_reducible assumption
    | (with_reducible apply sendMsg_keeps k2250260682)
    | split
    | ((with_reducible refine Keep.mk (f := 67108864) ?_ ?_ ?_); (exact K.sub rfl); rotate_left; (exact ⟨rfl, rfl, canon_same rfl, .same rfl, .same rfl, .same rfl, ⟨.inr rfl, .inr rfl, .inl rfl, .inr rfl, .inr rfl, .inr rfl, .inr rfl, .inr rfl⟩⟩); first | with_reducible assumption))
theorem execJoinReqRepeat_keeps (K : Keep P 2250260682) {s : State} {sOut : State} (hP : P s) (e : execJoinReqRepeat s = .next sOut) : P sOut := ok_keeps (effJoinRepeat_keeps (K.sub rfl) hP) e
theorem effJoinGrant_keeps (K : Keep P 2262852298) {m : AMsg} {s : State} {p : Nat}  (hP : P s) : P (effJoinGrant m s p) := by
  have k2216706762 : Keep P 2216706762 := K.sub rfl
  have k2250260682 : Keep P 2250260682 := K.sub rfl
  have k2262852298 : Keep P 2262852298 := K.sub rfl
  unfold effJoinGrant
  repeat' (first
    | with_reducible assumption
    | intro _
    | (extract_lets +onlyGivenNames s'; first | (refine (fun (hs' : P s') => ?_) ?_; clear_value s'; rotate_left; subst s') | clear_value s' | skip)
    | (with_reducible apply probeAll_keeps k2250260682)
    | (with_reducible apply settleSites_keeps k2262852298)
    | (with_reducible apply enterListen_keeps k2250260682)
    | (with_reducible apply joinFails_keeps k2216706762)
    | (with_reducible apply foldl_keeps)
    | split
    | ((with_reducible refine Keep.mk (f := 67108864) ?_ ?_ ?_); (exact K.sub rfl); rotate_left; (exact ⟨rfl, rfl, canon_same rfl, .same rfl, .same rfl, .same rfl, ⟨.inr rfl, .inr rfl, .inl rfl, .inr rfl, .inr rfl, .inr rfl, .inr rfl, .inr rfl⟩⟩); first | with_reducible assumption))
theorem execJoinGrant_keeps (K : Keep P 2262852298) {m : AMsg} {s : State} {sOut : State} (hP : P s) (e : execJoinGrant m s = .next sOut) : P sOut := by
  have k67108864 : Keep P 67108864 := K.sub rfl
  have k2262852298 : Keep P 2262852298 := K.sub rfl
  refine ok_keeps ?_ e
  repeat' (first
    | with_reducible assumption
    | intro _
    | (extract_lets +onlyGivenNames s'; first | (refine (fun (hs' : P s') => ?_) ?_; clear_value s'; rotate_left; subst s') | (refine (fun (hs' : P s'.1) => ?_) ?_; clear_value s'; rotate_left; subst s') | (refine (fun (hs' : P s'.s) => ?_) ?_; clear_value s'; rotate_left; subst s') | (refine (fun (hs' : P s'.2) => ?_) ?_; clear_value s'; rotate_left; subst s') | (refine (fun (hs' : P s'.2.2) => ?_) ?_; clear_value s'; rotate_left; subst s') | (refine (fun (hs' : OptKeeps P s') => ?_) ?_; clear_value s'; rotate_left; subst s') | (refine (fun (hs' : ExKeeps P s') => ?_) ?_; clear_value s'; rotate_left; subst s') | (have _hs : State → _ := s'; clear _hs) | clear_value s' | skip)
    | (with_reducible apply onMsg_keeps k67108864)
    | (with_reducible apply effJoinGrant_keeps k2262852298)
    | split
    | (with_reducible refine keeps_ofFst (by assumption) ?_)
    | (with_reducible refine keeps_ofSnd (by assumption) ?_)
    | (with_reducible refine keeps_ofThird (by assumption) ?_)
    | (with_reducible refine keeps_ofOpt (by assumption) ?_)
    | (with_reducible refine keeps_ofEx (by assumption) ?_)
    | (with_reducible refine keeps_ofSome (by assumption) ?_)
    | dsimp -zeta only)
theorem effSnapSend_keeps (K : Keep P 2250260682) {s : State}  (hP : P s) : P (effSnapSend s) := by
  have k2250260682 : Keep P 2250260682 := K.sub rfl
  unfold effSnapSend
  repeat' (first
    | with_reducible assumption
    | intro _
    | (extract_lets +onlyGivenNames s'; first | (refine (fun (hs' : P s') => ?_) ?_; clear_value s'; rotate_left; subst s') | clear_value s' | skip)
    | (with_reducible apply serveDone_keeps k2250260682)
    | (with_reducible apply queueOut_keeps k2250260682)
    | (with_reducible apply foldl_keeps)
    | split
    | ((with_reducible refine Keep.mk (f := 67108864) ?_ ?_ ?_); (exact K.sub rfl); rotate_left; (exact ⟨rfl, rfl, canon_same rfl, .same rfl, .same rfl, .same rfl, ⟨.inr rfl, .inr rfl, .inl rfl, .inr rfl, .inr rfl, .inr rfl, .inr rfl, .inr rfl⟩⟩); first | with_reducible assumption))
theorem execSnapSend_keeps (K : Keep P 2250260682) {s : State} {sOut : State} (hP : P s) (e : execSnapSend s = .next sOut) : P sOut := ok_keeps (effSnapSend_keeps (K.sub rfl) hP) e
theorem effSnapDeadline_keeps (K : Keep P 2250260682) {s : State}  (hP : P s) : P (effSnapDeadline s) := by
  have k8 : Keep P 8 := K.sub rfl
  have k2250260682 : Keep P 2250260682 := K.sub rfl
  unfold effSnapDeadline
  repeat' (first
    | with_reducible assumption
    | intro _
    | (extract_lets +onlyGivenNames s'; first | (refine (fun (hs' : P s') => ?_) ?_; clear_value s'; rotate_left; subst s') | clear_value s' | skip)
    | (with_reducible apply sendMsg_keeps k2250260682)
    | (with_reducible apply setPState_keeps k8)
    | split
    | ((with_reducible refine Keep.mk (f := 67108864) ?_ ?_ ?_); (exact K.sub rfl); rotate_left; (exact ⟨rfl, rfl, canon_same rfl, .same rfl, .same rfl, .same rfl, ⟨.inr rfl, .inr rfl, .inl rfl, .inr rfl, .inr rfl, .inr rfl, .inr rfl, .inr rfl⟩⟩); first | with_reducible assumption))
theorem execSnapDeadline_keeps (K : Keep P 2250260682) {s : State} {sOut : State} (hP : P s) (e : execSnapDeadline s = .next sOut) : P sOut := ok_keeps (effSnapDeadline_keeps (K.sub rfl) hP) e
theorem execLeave_keeps (K : Keep P 67108864) {m : AMsg} {s : State} {sOut : State} (hP : P s) (e : execLeave m s = .next sOut) : P sOut := by
  have k67108864 : Keep P 67108864 := K.sub rfl
  refine ok_keeps ?_ e
  repeat' (first
    | with_reducible assumption
    | intro _
    | (with_reducible apply onMsg_keeps k67108864))
theorem peerCommitted_keeps (K : Keep P 2250260682) {s : State} {p : Nat} {was : Bool} {ad : SxTo × Nat}  (hP : P s) : P (peerCommitted s p was ad) := by
  have k8 : Keep P 8 := K.sub rfl
  have k67108864 : Keep P 67108864 := K.sub rfl
  have k2250260682 : Keep P 2250260682 := K.sub rfl
  unfold peerCommitted
  repeat' (first
    | with_reducible assumption
    | (extract_lets +onlyGivenNames s'; first | (refine (fun (hs' : P s') => ?_) ?_; clear_value s'; rotate_left; subst s') | clear_value s' | skip)
    | (with_reducible apply noteEpoch_keeps k67108864)
    | (with_reducible apply setPState_keeps k8)
    | (with_reducible apply setMisses_keeps k8)
    | (with_reducible apply leaveSlot_keeps k8)
    | (with_reducible apply dropPeerWork_keeps k67108864)
    | (with_reducible apply sendTo_keeps k2250260682)
    | split
    | (with_reducible refine keeps_ofFst (by assumption) ?_))
theorem sxuClear_keeps (K : Keep P 100663304) {s : State}  (hP : P s) : P (sxuClear s) := by
  have k8 : Keep P 8 := K.sub rfl
  unfold sxuClear
  repeat' (first
    | with_reducible assumption
    | intro _
    | (extract_lets +onlyGivenNames s'; first | (refine (fun (hs' : P s') => ?_) ?_; clear_value s'; rotate_left; subst s') | clear_value s' | skip)
    | (with_reducible apply rput64_keeps k8)
    | (with_reducible apply rputN_keeps k8)
    | (with_reducible apply foldl_keeps)
    | split
    | ((with_reducible refine Keep.mk (f := 100663296) ?_ ?_ ?_); (exact K.sub rfl); rotate_left; (exact ⟨rfl, rfl, canon_of id id id id id id id id id id id id id id (by first | with_reducible exact id | exact (by intro h; dsimp only; exact smWf_smMap sxPeerDefault _ _ h)) id id id id id id id id, .same rfl, .same rfl, .same rfl, ⟨.inr rfl, .inl rfl, .inl rfl, .inr rfl, .inr rfl, .inr rfl, .inr rfl, .inr rfl⟩⟩); first | with_reducible assumption))
theorem sxuFail_keeps (K : Keep P 2216706762) {s : State}  (hP : P s) : P (sxuFail s) := by
  have k2216706762 : Keep P 2216706762 := K.sub rfl
  unfold sxuFail
  repeat' (first
    | with_reducible assumption
    | (with_reducible apply siteFail_keeps k2216706762)
    | split)

end Sys2Proof.Machine
end

