-- ==== Sys2Proof/Laws/KeepSiteTime.lean ====
section
/-! SUPPORT. What each operation of Machine/SiteTime.lean may write (Touch): a property that stands under changes of those areas stands after the
operation. The mask is the union of the areas written. -/

set_option linter.unreachableTactic false
set_option linter.unusedTactic false
set_option linter.unusedVariables false
set_option linter.tactic.unusedName false

namespace Sys2Proof.Machine

variable {P : State → Prop}

theorem tickNs_keeps (K : Keep P 1073741825) {s : State}  (hP : P s) : P (tickNs s) := by
  unfold tickNs
  repeat' (first
    | with_reducible assumption
    | (extract_lets +onlyGivenNames s'; first | (refine (fun (hs' : P s') => ?_) ?_; clear_value s'; rotate_left; subst s') | clear_value s' | skip)
    | ((with_reducible refine Keep.mk (f := 1073741825) ?_ ?_ ?_); (exact K.sub rfl); rotate_left; (exact ⟨rfl, rfl, canon_of id id id id id id id id id id id id id id id id id id (by first | with_reducible exact id | exact fun _ => rfl) id id id id, ⟨.inl rfl, .inr rfl, .inr rfl, .inr rfl, .inr rfl, .inr rfl, .inr rfl, .inr rfl⟩, .same rfl, .same rfl, ⟨.inr rfl, .inr rfl, .inr rfl, .inr rfl, .inr rfl, .inr rfl, .inl rfl, .inr rfl⟩⟩); first | with_reducible assumption))
theorem timeEvt_keeps (K : Keep P 2149597386) {s : State} {b : Nat}  (hP : P s) : P (timeEvt s b) := by
  have k8 : Keep P 8 := K.sub rfl
  have k2149597386 : Keep P 2149597386 := K.sub rfl
  unfold timeEvt
  repeat' (first
    | with_reducible assumption
    | (extract_lets +onlyGivenNames s'; first | (refine (fun (hs' : P s') => ?_) ?_; clear_value s'; rotate_left; subst s') | clear_value s' | skip)
    | (with_reducible apply rputBit_keeps k8)
    | (with_reducible apply evtSet_keeps k2149597386))
theorem setTime_keeps (K : Keep P 2149597387) {s : State} {x : TimeU}  (hP : P s) : P (setTime s x) := by
  have k2149597386 : Keep P 2149597386 := K.sub rfl
  unfold setTime
  repeat' (first
    | with_reducible assumption
    | (extract_lets +onlyGivenNames s'; first | (refine (fun (hs' : P s') => ?_) ?_; clear_value s'; rotate_left; subst s') | clear_value s' | skip)
    | (with_reducible apply timeEvt_keeps k2149597386)
    | split
    | ((with_reducible refine Keep.mk (f := 1) ?_ ?_ ?_); (exact K.sub rfl); rotate_left; (exact ⟨rfl, rfl, canon_same rfl, ⟨.inl rfl, .inr rfl, .inr rfl, .inr rfl, .inr rfl, .inr rfl, .inr rfl, .inr rfl⟩, .same rfl, .same rfl, .same rfl⟩); first | with_reducible assumption))
theorem lockTo_keeps (K : Keep P 2149597387) {s : State} {code : Nat} {off : Int}  (hP : P s) : P (lockTo s code off) := by
  have k8 : Keep P 8 := K.sub rfl
  have k2149597387 : Keep P 2149597387 := K.sub rfl
  unfold lockTo
  repeat' (first
    | with_reducible assumption
    | (extract_lets +onlyGivenNames s'; first | (refine (fun (hs' : P s') => ?_) ?_; clear_value s'; rotate_left; subst s') | clear_value s' | skip)
    | (with_reducible apply setTime_keeps k2149597387)
    | (with_reducible apply rputN_keeps k8)
    | split
    | ((with_reducible refine Keep.mk (f := 1) ?_ ?_ ?_); (exact K.sub rfl); rotate_left; (exact ⟨rfl, rfl, canon_same rfl, ⟨.inl rfl, .inr rfl, .inr rfl, .inr rfl, .inr rfl, .inr rfl, .inr rfl, .inr rfl⟩, .same rfl, .same rfl, .same rfl⟩); first | with_reducible assumption))
theorem toHoldover_keeps (K : Keep P 2149597387) {s : State}  (hP : P s) : P (toHoldover s) := by
  have k2149597386 : Keep P 2149597386 := K.sub rfl
  have k2149597387 : Keep P 2149597387 := K.sub rfl
  unfold toHoldover
  repeat' (first
    | with_reducible assumption
    | (extract_lets +onlyGivenNames s'; first | (refine (fun (hs' : P s') => ?_) ?_; clear_value s'; rotate_left; subst s') | clear_value s' | skip)
    | (with_reducible apply timeEvt_keeps k2149597386)
    | (with_reducible apply setTime_keeps k2149597387))
theorem seen_keeps (K : Keep P 2149597387) {s : State}  (hP : P s) : P (seen s) := by
  have k2149597387 : Keep P 2149597387 := K.sub rfl
  unfold seen
  repeat' (first
    | with_reducible assumption
    | (with_reducible apply setTime_keeps k2149597387)
    | split)
theorem notePtp_keeps (K : Keep P 2149597387) {s : State} {off : Int}  (hP : P s) : P (notePtp s off) := by
  have k8 : Keep P 8 := K.sub rfl
  have k2149597386 : Keep P 2149597386 := K.sub rfl
  have k2149597387 : Keep P 2149597387 := K.sub rfl
  unfold notePtp
  repeat' (first
    | with_reducible assumption
    | (extract_lets +onlyGivenNames s'; first | (refine (fun (hs' : P s') => ?_) ?_; clear_value s'; rotate_left; subst s') | clear_value s' | skip)
    | (with_reducible apply setTime_keeps k2149597387)
    | (with_reducible apply rputN_keeps k8)
    | (with_reducible apply timeEvt_keeps k2149597386)
    | split
    | ((with_reducible refine Keep.mk (f := 1) ?_ ?_ ?_); (exact K.sub rfl); rotate_left; (exact ⟨rfl, rfl, canon_same rfl, ⟨.inl rfl, .inr rfl, .inr rfl, .inr rfl, .inr rfl, .inr rfl, .inr rfl, .inr rfl⟩, .same rfl, .same rfl, .same rfl⟩); first | with_reducible assumption))
theorem effSync_keeps (K : Keep P 2149597387) {s : State} {t1 : DWord} {twoStep followUp : Bool} {domain : Nat} {logInterval : Int}  (hP : P s) : P (effSync s t1 twoStep followUp domain logInterval) := by
  have k2147483648 : Keep P 2147483648 := K.sub rfl
  have k2149597387 : Keep P 2149597387 := K.sub rfl
  unfold effSync
  repeat' (first
    | with_reducible assumption
    | (extract_lets +onlyGivenNames s'; first | (refine (fun (hs' : P s') => ?_) ?_; clear_value s'; rotate_left; subst s') | clear_value s' | skip)
    | (with_reducible apply seen_keeps k2149597387)
    | (with_reducible apply emit_keeps k2147483648)
    | (with_reducible apply notePtp_keeps k2149597387)
    | split
    | ((with_reducible refine Keep.mk (f := 1) ?_ ?_ ?_); (exact K.sub rfl); rotate_left; (exact ⟨rfl, rfl, canon_same rfl, ⟨.inl rfl, .inr rfl, .inr rfl, .inr rfl, .inr rfl, .inr rfl, .inr rfl, .inr rfl⟩, .same rfl, .same rfl, .same rfl⟩); first | with_reducible assumption))
theorem execPtpSync_keeps (K : Keep P 2149597387) {t1 : DWord} {followUp : Bool} {h : SyncHdr} {s : State} {sOut : State} (hP : P s) (e : execPtpSync t1 followUp h s = .next sOut) : P sOut := ok_keeps (effSync_keeps (K.sub rfl) hP) e
theorem effDelayResp_keeps (K : Keep P 2149597387) {s : State} {t1 t2 t3 t4 : DWord}  (hP : P s) : P (effDelayResp s t1 t2 t3 t4) := by
  have k2149597387 : Keep P 2149597387 := K.sub rfl
  unfold effDelayResp
  repeat' (first
    | with_reducible assumption
    | (extract_lets +onlyGivenNames s'; first | (refine (fun (hs' : P s') => ?_) ?_; clear_value s'; rotate_left; subst s') | clear_value s' | skip)
    | (with_reducible apply notePtp_keeps k2149597387)
    | split
    | ((with_reducible refine Keep.mk (f := 1) ?_ ?_ ?_); (exact K.sub rfl); rotate_left; (exact ⟨rfl, rfl, canon_same rfl, ⟨.inl rfl, .inr rfl, .inr rfl, .inr rfl, .inr rfl, .inr rfl, .inr rfl, .inr rfl⟩, .same rfl, .same rfl, .same rfl⟩); first | with_reducible assumption))
theorem execPtpDelayResp_keeps (K : Keep P 2149597387) {t1 t2 t3 t4 : DWord} {s : State} {sOut : State} (hP : P s) (e : execPtpDelayResp t1 t2 t3 t4 s = .next sOut) : P sOut := ok_keeps (effDelayResp_keeps (K.sub rfl) hP) e
theorem effPtpLock_keeps (K : Keep P 2149597387) {s : State}  (hP : P s) : P (effPtpLock s) := by
  have k2149597387 : Keep P 2149597387 := K.sub rfl
  unfold effPtpLock
  repeat' (first
    | with_reducible assumption
    | (extract_lets +onlyGivenNames s'; first | (refine (fun (hs' : P s') => ?_) ?_; clear_value s'; rotate_left; subst s') | clear_value s' | skip)
    | (with_reducible apply lockTo_keeps k2149597387)
    | split
    | ((with_reducible refine Keep.mk (f := 1) ?_ ?_ ?_); (exact K.sub rfl); rotate_left; (exact ⟨rfl, rfl, canon_same rfl, ⟨.inl rfl, .inr rfl, .inr rfl, .inr rfl, .inr rfl, .inr rfl, .inr rfl, .inr rfl⟩, .same rfl, .same rfl, .same rfl⟩); first | with_reducible assumption))
theorem execPtpLock_keeps (K : Keep P 2149597387) {s : State} {sOut : State} (hP : P s) (e : execPtpLock s = .next sOut) : P sOut := ok_keeps (effPtpLock_keeps (K.sub rfl) hP) e
theorem effPtpLoss_keeps (K : Keep P 2149597387) {s : State}  (hP : P s) : P (effPtpLoss s) := by
  have k2149597387 : Keep P 2149597387 := K.sub rfl
  unfold effPtpLoss
  repeat' (first
    | with_reducible assumption
    | (extract_lets +onlyGivenNames s'; first | (refine (fun (hs' : P s') => ?_) ?_; clear_value s'; rotate_left; subst s') | clear_value s' | skip)
    | (with_reducible apply toHoldover_keeps k2149597387)
    | (with_reducible apply setTime_keeps k2149597387)
    | split
    | ((with_reducible refine Keep.mk (f := 1) ?_ ?_ ?_); (exact K.sub rfl); rotate_left; (exact ⟨rfl, rfl, canon_same rfl, ⟨.inl rfl, .inr rfl, .inr rfl, .inr rfl, .inr rfl, .inr rfl, .inr rfl, .inr rfl⟩, .same rfl, .same rfl, .same rfl⟩); first | with_reducible assumption))
theorem execPtpLoss_keeps (K : Keep P 2149597387) {s : State} {sOut : State} (hP : P s) (e : execPtpLoss s = .next sOut) : P sOut := ok_keeps (effPtpLoss_keeps (K.sub rfl) hP) e
theorem effPps_keeps (K : Keep P 2149597387) {s : State} {t : DWord}  (hP : P s) : P (effPps s t) := by
  have k8 : Keep P 8 := K.sub rfl
  have k2149597386 : Keep P 2149597386 := K.sub rfl
  have k2149597387 : Keep P 2149597387 := K.sub rfl
  unfold effPps
  repeat' (first
    | with_reducible assumption
    | (extract_lets +onlyGivenNames s'; first | (refine (fun (hs' : P s') => ?_) ?_; clear_value s'; rotate_left; subst s') | clear_value s' | skip)
    | (with_reducible apply seen_keeps k2149597387)
    | (with_reducible apply rputN_keeps k8)
    | (with_reducible apply timeEvt_keeps k2149597386)
    | (with_reducible apply setTime_keeps k2149597387)
    | (with_reducible apply lockTo_keeps k2149597387)
    | split
    | ((with_reducible refine Keep.mk (f := 1) ?_ ?_ ?_); (exact K.sub rfl); rotate_left; (exact ⟨rfl, rfl, canon_same rfl, ⟨.inl rfl, .inr rfl, .inr rfl, .inr rfl, .inr rfl, .inr rfl, .inr rfl, .inr rfl⟩, .same rfl, .same rfl, .same rfl⟩); first | with_reducible assumption))
theorem execPpsEdge_keeps (K : Keep P 2149597387) {t : DWord} {s : State} {sOut : State} (hP : P s) (e : execPpsEdge t s = .next sOut) : P sOut := ok_keeps (effPps_keeps (K.sub rfl) hP) e
theorem ppsLost_keeps (K : Keep P 2149597387) {s : State} {x : TimeU}  (hP : P s) : P (ppsLost s x) := by
  have k2149597387 : Keep P 2149597387 := K.sub rfl
  unfold ppsLost
  repeat' (first
    | with_reducible assumption
    | (with_reducible apply toHoldover_keeps k2149597387)
    | (with_reducible apply setTime_keeps k2149597387)
    | split)
theorem effPpsMissing_keeps (K : Keep P 2149597387) {s : State}  (hP : P s) : P (effPpsMissing s) := by
  have k2149597387 : Keep P 2149597387 := K.sub rfl
  unfold effPpsMissing
  repeat' (first
    | with_reducible assumption
    | intro _
    | (extract_lets +onlyGivenNames s'; first | (refine (fun (hs' : P s') => ?_) ?_; clear_value s'; rotate_left; subst s') | (refine (fun (hs' : P s'.1) => ?_) ?_; clear_value s'; rotate_left; subst s') | (refine (fun (hs' : P s'.s) => ?_) ?_; clear_value s'; rotate_left; subst s') | (refine (fun (hs' : P s'.2) => ?_) ?_; clear_value s'; rotate_left; subst s') | (refine (fun (hs' : P s'.2.2) => ?_) ?_; clear_value s'; rotate_left; subst s') | (refine (fun (hs' : OptKeeps P s') => ?_) ?_; clear_value s'; rotate_left; subst s') | (refine (fun (hs' : ExKeeps P s') => ?_) ?_; clear_value s'; rotate_left; subst s') | (have _hs : State → _ := s'; clear _hs) | clear_value s' | skip)
    | (with_reducible apply lockTo_keeps k2149597387)
    | (with_reducible apply ppsLost_keeps k2149597387)
    | split
    | ((with_reducible refine Keep.mk (f := 1) ?_ ?_ ?_); (exact K.sub rfl); rotate_left; (exact ⟨rfl, rfl, canon_same rfl, ⟨.inl rfl, .inr rfl, .inr rfl, .inr rfl, .inr rfl, .inr rfl, .inr rfl, .inr rfl⟩, .same rfl, .same rfl, .same rfl⟩); first | with_reducible assumption | (with_reducible refine keeps_ofFst (by assumption) ?_) | (with_reducible refine keeps_ofSnd (by assumption) ?_) | (with_reducible refine keeps_ofThird (by assumption) ?_) | (with_reducible refine keeps_ofOpt (by assumption) ?_) | (with_reducible refine keeps_ofEx (by assumption) ?_) | (with_reducible refine keeps_ofSome (by assumption) ?_))
    | (with_reducible refine keeps_ofFst (by assumption) ?_)
    | (with_reducible refine keeps_ofSnd (by assumption) ?_)
    | (with_reducible refine keeps_ofThird (by assumption) ?_)
    | (with_reducible refine keeps_ofOpt (by assumption) ?_)
    | (with_reducible refine keeps_ofEx (by assumption) ?_)
    | (with_reducible refine keeps_ofSome (by assumption) ?_)
    | dsimp -zeta only)
theorem execPpsMissing_keeps (K : Keep P 2149597387) {s : State} {sOut : State} (hP : P s) (e : execPpsMissing s = .next sOut) : P sOut := ok_keeps (effPpsMissing_keeps (K.sub rfl) hP) e
theorem effHoldLimit_keeps (K : Keep P 2149597386) {s : State}  (hP : P s) : P (effHoldLimit s) := by
  have k2149597386 : Keep P 2149597386 := K.sub rfl
  unfold effHoldLimit
  repeat' (first
    | with_reducible assumption
    | (with_reducible apply timeEvt_keeps k2149597386)
    | split)
theorem execHoldoverLimit_keeps (K : Keep P 2149597386) {s : State} {sOut : State} (hP : P s) (e : execHoldoverLimit s = .next sOut) : P sOut := ok_keeps (effHoldLimit_keeps (K.sub rfl) hP) e
theorem effTimer_keeps (K : Keep P 2149675978) {s : State} {n : Nat}  (hP : P s) : P (effTimer s n) := by
  have k8 : Keep P 8 := K.sub rfl
  have k2149675978 : Keep P 2149675978 := K.sub rfl
  unfold effTimer
  repeat' (first
    | with_reducible assumption
    | (extract_lets +onlyGivenNames s'; first | (refine (fun (hs' : P s') => ?_) ?_; clear_value s'; rotate_left; subst s') | clear_value s' | skip)
    | (with_reducible apply rinc_keeps k8)
    | (with_reducible apply raiseHere_keeps k2149675978)
    | (with_reducible apply rputBit_keeps k8)
    | (with_reducible apply rput64_keeps k8)
    | split)
theorem execTimerFire_keeps (K : Keep P 2149675978) {n : Nat} {s : State} {sOut : State} (hP : P s) (e : execTimerFire n s = .next sOut) : P sOut := ok_keeps (effTimer_keeps (K.sub rfl) hP) e

end Sys2Proof.Machine
end

