-- ==== Sys2Proof/Laws/KeepPower.lean ====
section
/-! SUPPORT. What each operation of Machine/Power.lean may write (Touch): a property that stands under changes of those areas stands after the
operation. The mask is the union of the areas written. -/

set_option linter.unreachableTactic false
set_option linter.unusedTactic false
set_option linter.unusedVariables false
set_option linter.tactic.unusedName false

namespace Sys2Proof.Machine

variable {P : State → Prop}

theorem pwEvt_keeps (K : Keep P 2149597386) {s : State} {b : Nat}  (hP : P s) : P (pwEvt s b) := by
  have k8 : Keep P 8 := K.sub rfl
  have k2149597386 : Keep P 2149597386 := K.sub rfl
  unfold pwEvt
  repeat' (first
    | with_reducible assumption
    | (extract_lets +onlyGivenNames s'; first | (refine (fun (hs' : P s') => ?_) ?_; clear_value s'; rotate_left; subst s') | clear_value s' | skip)
    | (with_reducible apply rputBit_keeps k8)
    | (with_reducible apply evtSet_keeps k2149597386))
theorem alarm_keeps (K : Keep P 2799723210) {s : State} {cause : Nat}  (hP : P s) : P (alarm s cause) := by
  have k538968072 : Keep P 538968072 := K.sub rfl
  have k2183152330 : Keep P 2183152330 := K.sub rfl
  have k2262852298 : Keep P 2262852298 := K.sub rfl
  unfold alarm
  repeat' (first
    | with_reducible assumption
    | (with_reducible apply dropIdentity_keeps k538968072)
    | (with_reducible apply returnSxu_keeps k2262852298)
    | (with_reducible apply cphAlarm_keeps k2183152330)
    | split)
theorem showF_keeps (K : Keep P 8) {s : State}  (hP : P s) : P (showF s) := rputN_keeps (K.sub rfl) hP
theorem critCheck_keeps (K : Keep P 2933940938) {s : State}  (hP : P s) : P (critCheck s) := by
  have k8 : Keep P 8 := K.sub rfl
  have k2149597386 : Keep P 2149597386 := K.sub rfl
  have k2799723210 : Keep P 2799723210 := K.sub rfl
  unfold critCheck
  repeat' (first
    | with_reducible assumption
    | (extract_lets +onlyGivenNames s'; first | (refine (fun (hs' : P s') => ?_) ?_; clear_value s'; rotate_left; subst s') | clear_value s' | skip)
    | (with_reducible apply showF_keeps k8)
    | (with_reducible apply pwEvt_keeps k2149597386)
    | (with_reducible apply alarm_keeps k2799723210)
    | split
    | ((with_reducible refine Keep.mk (f := 134217728) ?_ ?_ ?_); (exact K.sub rfl); rotate_left; (exact ⟨rfl, rfl, canon_same rfl, .same rfl, .same rfl, .same rfl, ⟨.inr rfl, .inr rfl, .inr rfl, .inl rfl, .inr rfl, .inr rfl, .inr rfl, .inr rfl⟩⟩); first | with_reducible assumption))
theorem putTemps_keeps (K : Keep P 8) {s : State}  (hP : P s) : P (putTemps s) := rputN_keeps (K.sub rfl) hP
theorem effThermCrit_keeps (K : Keep P 2933940938) {s : State} {sensors : List Int}  (hP : P s) : P (effThermCrit s sensors) := by
  have k8 : Keep P 8 := K.sub rfl
  have k2933940938 : Keep P 2933940938 := K.sub rfl
  unfold effThermCrit
  repeat' (first
    | with_reducible assumption
    | (with_reducible apply critCheck_keeps k2933940938)
    | (with_reducible apply putTemps_keeps k8)
    | ((with_reducible refine Keep.mk (f := 134217728) ?_ ?_ ?_); (exact K.sub rfl); rotate_left; (exact ⟨rfl, rfl, canon_same rfl, .same rfl, .same rfl, .same rfl, ⟨.inr rfl, .inr rfl, .inr rfl, .inl rfl, .inr rfl, .inr rfl, .inr rfl, .inr rfl⟩⟩); first | with_reducible assumption))
theorem execThermCrit_keeps (K : Keep P 2933940938) {sensors : List Int} {s : State} {sOut : State} (hP : P s) (e : execThermCrit sensors s = .next sOut) : P sOut := ok_keeps (effThermCrit_keeps (K.sub rfl) hP) e
theorem grantDue_keeps (K : Keep P 134217728) {s : State}  (hP : P s) : P (grantDue s) := by
  unfold grantDue
  repeat' (first
    | with_reducible assumption
    | split
    | ((with_reducible refine Keep.mk (f := 134217728) ?_ ?_ ?_); (exact K.sub rfl); rotate_left; (exact ⟨rfl, rfl, canon_same rfl, .same rfl, .same rfl, .same rfl, ⟨.inr rfl, .inr rfl, .inr rfl, .inl rfl, .inr rfl, .inr rfl, .inr rfl, .inr rfl⟩⟩); first | with_reducible assumption))
theorem execGrantEffective_keeps (K : Keep P 134217728) {s : State} {sOut : State} (hP : P s) (e : execGrantEffective s = .next sOut) : P sOut := ok_keeps (grantDue_keeps (K.sub rfl) hP) e
theorem putProfile_keeps (K : Keep P 8) {s : State}  (hP : P s) : P (putProfile s) := by
  have k8 : Keep P 8 := K.sub rfl
  unfold putProfile
  repeat' (first
    | with_reducible assumption
    | (extract_lets +onlyGivenNames s'; first | (refine (fun (hs' : P s') => ?_) ?_; clear_value s'; rotate_left; subst s') | clear_value s' | skip)
    | (with_reducible apply rputBit_keeps k8)
    | (with_reducible apply rputN_keeps k8))
theorem onBattery_keeps (K : Keep P 2283815114) {s : State}  (hP : P s) : P (onBattery s) := by
  have k2149597386 : Keep P 2149597386 := K.sub rfl
  unfold onBattery
  repeat' (first
    | with_reducible assumption
    | (with_reducible apply pwEvt_keeps k2149597386)
    | split
    | ((with_reducible refine Keep.mk (f := 134217728) ?_ ?_ ?_); (exact K.sub rfl); rotate_left; (exact ⟨rfl, rfl, canon_same rfl, .same rfl, .same rfl, .same rfl, ⟨.inr rfl, .inr rfl, .inr rfl, .inl rfl, .inr rfl, .inr rfl, .inr rfl, .inr rfl⟩⟩); first | with_reducible assumption))
theorem effGrantLost_keeps (K : Keep P 2283815114) {s : State}  (hP : P s) : P (effGrantLost s) := by
  have k2149597386 : Keep P 2149597386 := K.sub rfl
  unfold effGrantLost
  repeat' (first
    | with_reducible assumption
    | (with_reducible apply pwEvt_keeps k2149597386)
    | split
    | ((with_reducible refine Keep.mk (f := 134217728) ?_ ?_ ?_); (exact K.sub rfl); rotate_left; (exact ⟨rfl, rfl, canon_same rfl, .same rfl, .same rfl, .same rfl, ⟨.inr rfl, .inr rfl, .inr rfl, .inl rfl, .inr rfl, .inr rfl, .inr rfl, .inr rfl⟩⟩); first | with_reducible assumption))
theorem execGrantLost_keeps (K : Keep P 2283815114) {s : State} {sOut : State} (hP : P s) (e : execGrantLost s = .next sOut) : P sOut := ok_keeps (effGrantLost_keeps (K.sub rfl) hP) e
theorem putCool_keeps (K : Keep P 8) {s : State}  (hP : P s) : P (putCool s) := rputN_keeps (K.sub rfl) hP
theorem effCoolLost_keeps (K : Keep P 134217736) {s : State}  (hP : P s) : P (effCoolLost s) := by
  have k8 : Keep P 8 := K.sub rfl
  unfold effCoolLost
  repeat' (first
    | with_reducible assumption
    | (with_reducible apply putCool_keeps k8)
    | split
    | ((with_reducible refine Keep.mk (f := 134217728) ?_ ?_ ?_); (exact K.sub rfl); rotate_left; (exact ⟨rfl, rfl, canon_same rfl, .same rfl, .same rfl, .same rfl, ⟨.inr rfl, .inr rfl, .inr rfl, .inl rfl, .inr rfl, .inr rfl, .inr rfl, .inr rfl⟩⟩); first | with_reducible assumption))
theorem execCoolantTimeout_keeps (K : Keep P 134217736) {s : State} {sOut : State} (hP : P s) (e : execCoolantTimeout s = .next sOut) : P sOut := ok_keeps (effCoolLost_keeps (K.sub rfl) hP) e
theorem execGridLossN_keeps (K : Keep P 2552250570) {asserted : Bool} {s : State} {sOut : State} (hP : P s) (e : execGridLossN asserted s = .next sOut) : P sOut := by
  have k2283815114 : Keep P 2283815114 := K.sub rfl
  refine ok_keeps ?_ e
  repeat' (first
    | with_reducible assumption
    | (extract_lets +onlyGivenNames s'; first | (refine (fun (hs' : P s') => ?_) ?_; clear_value s'; rotate_left; subst s') | clear_value s' | skip)
    | (with_reducible apply onBattery_keeps k2283815114)
    | split
    | ((with_reducible refine Keep.mk (f := 268435456) ?_ ?_ ?_); (exact K.sub rfl); rotate_left; (exact ⟨rfl, rfl, canon_same rfl, .same rfl, .same rfl, .same rfl, ⟨.inr rfl, .inr rfl, .inr rfl, .inr rfl, .inl rfl, .inr rfl, .inr rfl, .inr rfl⟩⟩); first | with_reducible assumption))
theorem moveTarget_keeps (K : Keep P 134217728) {s : State} {dem : Bool} {cap : Rat} {byTherm : Bool} {up dn : Nat}  (hP : P s) : P (moveTarget s dem cap byTherm up dn) := by
  unfold moveTarget
  repeat' (first
    | with_reducible assumption
    | (extract_lets +onlyGivenNames s'; first | (refine (fun (hs' : P s') => ?_) ?_; clear_value s'; rotate_left; subst s') | clear_value s' | skip)
    | split
    | ((with_reducible refine Keep.mk (f := 134217728) ?_ ?_ ?_); (exact K.sub rfl); rotate_left; (exact ⟨rfl, rfl, canon_same rfl, .same rfl, .same rfl, .same rfl, ⟨.inr rfl, .inr rfl, .inr rfl, .inl rfl, .inr rfl, .inr rfl, .inr rfl, .inr rfl⟩⟩); first | with_reducible assumption))
theorem effStaggerEnd_keeps (K : Keep P 134217728) {s : State}  (hP : P s) : P (effStaggerEnd s) := by
  unfold effStaggerEnd
  repeat' (first
    | with_reducible assumption
    | split
    | ((with_reducible refine Keep.mk (f := 134217728) ?_ ?_ ?_); (exact K.sub rfl); rotate_left; (exact ⟨rfl, rfl, canon_same rfl, .same rfl, .same rfl, .same rfl, ⟨.inr rfl, .inr rfl, .inr rfl, .inl rfl, .inr rfl, .inr rfl, .inr rfl, .inr rfl⟩⟩); first | with_reducible assumption))
theorem execStaggerEnd_keeps (K : Keep P 134217728) {s : State} {sOut : State} (hP : P s) (e : execStaggerEnd s = .next sOut) : P sOut := ok_keeps (effStaggerEnd_keeps (K.sub rfl) hP) e
theorem moveF_keeps (K : Keep P 134217730) {s : State} {p : Nat}  (hP : P s) : P (moveF s p) := by
  unfold moveF
  repeat' (first
    | with_reducible assumption
    | (extract_lets +onlyGivenNames s'; first | (refine (fun (hs' : P s') => ?_) ?_; clear_value s'; rotate_left; subst s') | clear_value s' | skip)
    | split
    | ((with_reducible refine Keep.mk (f := 134217730) ?_ ?_ ?_); (exact K.sub rfl); rotate_left; (exact ⟨rfl, rfl, canon_same rfl, ⟨.inr rfl, .inl rfl, .inr rfl, .inr rfl, .inr rfl, .inr rfl, .inr rfl, .inr rfl⟩, .same rfl, .same rfl, ⟨.inr rfl, .inr rfl, .inr rfl, .inl rfl, .inr rfl, .inr rfl, .inr rfl, .inr rfl⟩⟩); first | with_reducible assumption))
theorem effTick_keeps (K : Keep P 2933940938) {s : State} {p : Nat} {sensors : List Int}  (hP : P s) : P (effTick s p sensors) := by
  have k8 : Keep P 8 := K.sub rfl
  have k134217728 : Keep P 134217728 := K.sub rfl
  have k134217730 : Keep P 134217730 := K.sub rfl
  have k2149597386 : Keep P 2149597386 := K.sub rfl
  have k2283815114 : Keep P 2283815114 := K.sub rfl
  have k2933940938 : Keep P 2933940938 := K.sub rfl
  unfold effTick
  repeat' (first
    | with_reducible assumption
    | (extract_lets +onlyGivenNames s'; first | (refine (fun (hs' : P s') => ?_) ?_; clear_value s'; rotate_left; subst s') | clear_value s' | skip)
    | (with_reducible apply onBattery_keeps k2283815114)
    | (with_reducible apply putProfile_keeps k8)
    | (with_reducible apply grantDue_keeps k134217728)
    | (with_reducible apply putTemps_keeps k8)
    | (with_reducible apply pwEvt_keeps k2149597386)
    | (with_reducible apply rinc64_keeps k8)
    | (with_reducible apply moveTarget_keeps k134217728)
    | (with_reducible apply moveF_keeps k134217730)
    | (with_reducible apply critCheck_keeps k2933940938)
    | (with_reducible apply rputN_keeps k8)
    | (with_reducible apply showF_keeps k8)
    | split
    | ((with_reducible refine Keep.mk (f := 134217730) ?_ ?_ ?_); (exact K.sub rfl); rotate_left; (exact ⟨rfl, rfl, canon_same rfl, ⟨.inr rfl, .inl rfl, .inr rfl, .inr rfl, .inr rfl, .inr rfl, .inr rfl, .inr rfl⟩, .same rfl, .same rfl, ⟨.inr rfl, .inr rfl, .inr rfl, .inl rfl, .inr rfl, .inr rfl, .inr rfl, .inr rfl⟩⟩); first | with_reducible assumption))
theorem execGovernorTick_keeps (K : Keep P 2933940938) {power : Nat} {sensors : List Int} {s : State} {sOut : State} (hP : P s) (e : execGovernorTick power sensors s = .next sOut) : P sOut := ok_keeps (effTick_keeps (K.sub rfl) hP) e
theorem effPark_keeps (K : Keep P 2149597386) {s : State}  (hP : P s) : P (effPark s) := by
  have k8 : Keep P 8 := K.sub rfl
  have k2149597386 : Keep P 2149597386 := K.sub rfl
  unfold effPark
  repeat' (first
    | with_reducible assumption
    | (with_reducible apply setCode_keeps k2149597386)
    | (with_reducible apply rputBit_keeps k8)
    | split)
theorem execPark_keeps (K : Keep P 2149597386) {s : State} {sOut : State} (hP : P s) (e : execPark s = .next sOut) : P sOut := ok_keeps (effPark_keeps (K.sub rfl) hP) e
theorem memCodes_keeps (K : Keep P 2149597386) {s : State} {code : Nat}  (hP : P s) : P (memCodes s code) := by
  have k2149597386 : Keep P 2149597386 := K.sub rfl
  unfold memCodes
  repeat' (first
    | with_reducible assumption
    | intro _
    | (with_reducible apply setCode_keeps k2149597386)
    | (with_reducible apply foldl_keeps)
    | split)
theorem effParked_keeps (K : Keep P 2149597386) {s : State}  (hP : P s) : P (effParked s) := by
  have k2149597386 : Keep P 2149597386 := K.sub rfl
  unfold effParked
  repeat' (first
    | with_reducible assumption
    | (with_reducible apply setCode_keeps k2149597386)
    | (with_reducible apply memCodes_keeps k2149597386)
    | split)
theorem execParked_keeps (K : Keep P 2149597386) {s : State} {sOut : State} (hP : P s) (e : execParked s = .next sOut) : P sOut := ok_keeps (effParked_keeps (K.sub rfl) hP) e
theorem execUnpark_keeps (K : Keep P 2149597386) {s : State} {sOut : State} (hP : P s) (e : execUnpark s = .next sOut) : P sOut := ok_keeps (wake_keeps (K.sub rfl) hP) e
theorem execUnparkDone_keeps (K : Keep P 2149597386) {s : State} {sOut : State} (hP : P s) (e : execUnparkDone s = .next sOut) : P sOut := by
  have k2149597386 : Keep P 2149597386 := K.sub rfl
  refine ok_keeps ?_ e
  repeat' (first
    | with_reducible assumption
    | (with_reducible apply setCode_keeps k2149597386)
    | (with_reducible apply memCodes_keeps k2149597386)
    | split)
theorem execVoltageAlarm_keeps (K : Keep P 3068158666) {s : State} {sOut : State} (hP : P s) (e : execVoltageAlarm s = .next sOut) : P sOut := by
  have k2799723210 : Keep P 2799723210 := K.sub rfl
  refine ok_keeps ?_ e
  repeat' (first
    | with_reducible assumption
    | (with_reducible apply alarm_keeps k2799723210)
    | ((with_reducible refine Keep.mk (f := 268435456) ?_ ?_ ?_); (exact K.sub rfl); rotate_left; (exact ⟨rfl, rfl, canon_same rfl, .same rfl, .same rfl, .same rfl, ⟨.inr rfl, .inr rfl, .inr rfl, .inr rfl, .inl rfl, .inr rfl, .inr rfl, .inr rfl⟩⟩); first | with_reducible assumption))
theorem execClockAlarm_keeps (K : Keep P 3068158666) {s : State} {sOut : State} (hP : P s) (e : execClockAlarm s = .next sOut) : P sOut := by
  have k2799723210 : Keep P 2799723210 := K.sub rfl
  refine ok_keeps ?_ e
  repeat' (first
    | with_reducible assumption
    | (with_reducible apply alarm_keeps k2799723210)
    | ((with_reducible refine Keep.mk (f := 268435456) ?_ ?_ ?_); (exact K.sub rfl); rotate_left; (exact ⟨rfl, rfl, canon_same rfl, .same rfl, .same rfl, .same rfl, ⟨.inr rfl, .inr rfl, .inr rfl, .inr rfl, .inl rfl, .inr rfl, .inr rfl, .inr rfl⟩⟩); first | with_reducible assumption))
theorem effLid_keeps (K : Keep P 3068158666) {s : State}  (hP : P s) : P (effLid s) := by
  have k2799723210 : Keep P 2799723210 := K.sub rfl
  unfold effLid
  repeat' (first
    | with_reducible assumption
    | (extract_lets +onlyGivenNames s'; first | (refine (fun (hs' : P s') => ?_) ?_; clear_value s'; rotate_left; subst s') | clear_value s' | skip)
    | (with_reducible apply alarm_keeps k2799723210)
    | split
    | ((with_reducible refine Keep.mk (f := 268435456) ?_ ?_ ?_); (exact K.sub rfl); rotate_left; (exact ⟨rfl, rfl, canon_same rfl, .same rfl, .same rfl, .same rfl, ⟨.inr rfl, .inr rfl, .inr rfl, .inr rfl, .inl rfl, .inr rfl, .inr rfl, .inr rfl⟩⟩); first | with_reducible assumption))
theorem execLidAlarm_keeps (K : Keep P 3068158666) {s : State} {sOut : State} (hP : P s) (e : execLidAlarm s = .next sOut) : P sOut := ok_keeps (effLid_keeps (K.sub rfl) hP) e

end Sys2Proof.Machine
end

