-- ==== Sys2Proof/Laws/KeepBoard.lean ====
section
/-! SUPPORT. What each operation of Machine/Board.lean may write (Touch): a property that stands under changes of those areas stands after the
operation. The mask is the union of the areas written. -/

set_option linter.unreachableTactic false
set_option linter.unusedTactic false
set_option linter.unusedVariables false
set_option linter.tactic.unusedName false

namespace Sys2Proof.Machine

variable {P : State → Prop}

theorem frameEffect_keeps (K : Keep P 2283815114) {s : State} {b : List Byte}  (hP : P s) : P (frameEffect s b) := by
  have k8 : Keep P 8 := K.sub rfl
  have k134217728 : Keep P 134217728 := K.sub rfl
  have k2149597386 : Keep P 2149597386 := K.sub rfl
  have k2283815114 : Keep P 2283815114 := K.sub rfl
  unfold frameEffect
  repeat' (first
    | with_reducible assumption
    | (extract_lets +onlyGivenNames s'; first | (refine (fun (hs' : P s') => ?_) ?_; clear_value s'; rotate_left; subst s') | clear_value s' | skip)
    | (with_reducible apply grantDue_keeps k134217728)
    | (with_reducible apply pwEvt_keeps k2149597386)
    | (with_reducible apply putCool_keeps k8)
    | (with_reducible apply onBattery_keeps k2283815114)
    | split
    | ((with_reducible refine Keep.mk (f := 134217728) ?_ ?_ ?_); (exact K.sub rfl); rotate_left; (exact ⟨rfl, rfl, canon_same rfl, .same rfl, .same rfl, .same rfl, ⟨.inr rfl, .inr rfl, .inr rfl, .inl rfl, .inr rfl, .inr rfl, .inr rfl, .inr rfl⟩⟩); first | with_reducible assumption))
theorem acceptFrame_keeps (K : Keep P 2283815114) {s : State} {b : List Byte}  (hP : P s) : P (acceptFrame s b) := by
  have k8 : Keep P 8 := K.sub rfl
  have k2283815114 : Keep P 2283815114 := K.sub rfl
  unfold acceptFrame
  repeat' (first
    | with_reducible assumption
    | intro _
    | (extract_lets +onlyGivenNames s'; first | (refine (fun (hs' : P s') => ?_) ?_; clear_value s'; rotate_left; subst s') | clear_value s' | skip)
    | (with_reducible apply rinc_keeps k8)
    | (with_reducible apply frameEffect_keeps k2283815114)
    | (with_reducible apply rputN_keeps k8)
    | split
    | ((with_reducible refine Keep.mk (f := 134217728) ?_ ?_ ?_); (exact K.sub rfl); rotate_left; (exact ⟨rfl, rfl, canon_same rfl, .same rfl, .same rfl, .same rfl, ⟨.inr rfl, .inr rfl, .inr rfl, .inl rfl, .inr rfl, .inr rfl, .inr rfl, .inr rfl⟩⟩); first | with_reducible assumption))
theorem effFrameEnd_keeps (K : Keep P 2283815114) {s : State} {b : List Byte}  (hP : P s) : P (effFrameEnd s b) := by
  have k2283815114 : Keep P 2283815114 := K.sub rfl
  unfold effFrameEnd
  repeat' (first
    | with_reducible assumption
    | intro _
    | (with_reducible apply acceptFrame_keeps k2283815114)
    | split)
theorem execBoardFrameEnd_keeps (K : Keep P 2283815114) {bytes : List Byte} {s : State} {sOut : State} (hP : P s) (e : execBoardFrameEnd bytes s = .next sOut) : P sOut := ok_keeps (effFrameEnd_keeps (K.sub rfl) hP) e
theorem execCoolant_keeps (K : Keep P 2283815114) {bytes : List Byte} {s : State} {sOut : State} (hP : P s) (e : execCoolant bytes s = .next sOut) : P sOut := by
  have k2283815114 : Keep P 2283815114 := K.sub rfl
  refine ok_keeps ?_ e
  repeat' (first
    | with_reducible assumption
    | (with_reducible apply effFrameEnd_keeps k2283815114)
    | split)
theorem execGrid_keeps (K : Keep P 2283815114) {bytes : List Byte} {s : State} {sOut : State} (hP : P s) (e : execGrid bytes s = .next sOut) : P sOut := by
  have k2283815114 : Keep P 2283815114 := K.sub rfl
  refine ok_keeps ?_ e
  repeat' (first
    | with_reducible assumption
    | (with_reducible apply effFrameEnd_keeps k2283815114)
    | split)
theorem effStatus_keeps (K : Keep P 2281701376) {s : State} {power : Nat}  (hP : P s) : P (effStatus s power) := by
  have k2147483648 : Keep P 2147483648 := K.sub rfl
  unfold effStatus
  repeat' (first
    | with_reducible assumption
    | intro _
    | (with_reducible apply emit_keeps k2147483648)
    | split
    | ((with_reducible refine Keep.mk (f := 134217728) ?_ ?_ ?_); (exact K.sub rfl); rotate_left; (exact ⟨rfl, rfl, canon_same rfl, .same rfl, .same rfl, .same rfl, ⟨.inr rfl, .inr rfl, .inr rfl, .inl rfl, .inr rfl, .inr rfl, .inr rfl, .inr rfl⟩⟩); first | with_reducible assumption))
theorem execStatus_keeps (K : Keep P 2281701376) {power : Nat} {s : State} {sOut : State} (hP : P s) (e : execStatus power s = .next sOut) : P sOut := ok_keeps (effStatus_keeps (K.sub rfl) hP) e
theorem effFruWrite_keeps (K : Keep P 268435456) {s : State} {a : Nat} {v : Byte}  (hP : P s) : P (effFruWrite s a v) := by
  unfold effFruWrite
  repeat' (first
    | with_reducible assumption
    | split
    | ((with_reducible refine Keep.mk (f := 268435456) ?_ ?_ ?_); (exact K.sub rfl); rotate_left; (exact ⟨rfl, rfl, canon_of id id id id id id id id id id id id id id id (by first | with_reducible exact id | exact smWf_smSet _ _ _ _) id id id id id id id, .same rfl, .same rfl, .same rfl, ⟨.inr rfl, .inr rfl, .inr rfl, .inr rfl, .inl rfl, .inr rfl, .inr rfl, .inr rfl⟩⟩); first | with_reducible assumption))
theorem execFruWrite_keeps (K : Keep P 268435456) {addr : Nat} {v : Byte} {s : State} {sOut : State} (hP : P s) (e : execFruWrite addr v s = .next sOut) : P sOut := ok_keeps (effFruWrite_keeps (K.sub rfl) hP) e
theorem effTap_keeps (K : Keep P 268435456) {s : State} {op : Nat}  (hP : P s) : P (effTap s op) := by
  unfold effTap
  repeat' (first
    | with_reducible assumption
    | (extract_lets +onlyGivenNames s'; first | (refine (fun (hs' : P s') => ?_) ?_; clear_value s'; rotate_left; subst s') | clear_value s' | skip)
    | split
    | ((with_reducible refine Keep.mk (f := 268435456) ?_ ?_ ?_); (exact K.sub rfl); rotate_left; (exact ⟨rfl, rfl, canon_same rfl, .same rfl, .same rfl, .same rfl, ⟨.inr rfl, .inr rfl, .inr rfl, .inr rfl, .inl rfl, .inr rfl, .inr rfl, .inr rfl⟩⟩); first | with_reducible assumption))
theorem execTestAccessPort_keeps (K : Keep P 268435456) {opcode : Nat} {s : State} {sOut : State} (hP : P s) (e : execTestAccessPort opcode s = .next sOut) : P sOut := ok_keeps (effTap_keeps (K.sub rfl) hP) e

end Sys2Proof.Machine
end

