-- ==== Sys2Proof/Laws/KeepRot.lean ====
section
/-! SUPPORT. What each operation of Machine/Rot.lean may write (Touch): a property that stands under changes of those areas stands after the
operation. The mask is the union of the areas written. -/

set_option linter.unreachableTactic false
set_option linter.unusedTactic false
set_option linter.unusedVariables false
set_option linter.tactic.unusedName false

namespace Sys2Proof.Machine

variable {P : State → Prop}

theorem putFlash_keeps (K : Keep P 536870912) {s : State} {a : Nat} {e0 : List Byte}  (hP : P s) : P (putFlash s a e0) := by
  induction e0 generalizing s a with
  | nil =>
    unfold putFlash
    repeat' (first
    | with_reducible assumption
    | split
    | ((with_reducible refine Keep.mk (f := 536870912) ?_ ?_ ?_); (exact K.sub rfl); rotate_left; (exact ⟨rfl, rfl, canon_of id id id id id id id id id id id id id id id id (by first | with_reducible exact id | exact smWf_smSet _ _ _ _) id id id id id id, .same rfl, .same rfl, .same rfl, ⟨.inr rfl, .inr rfl, .inr rfl, .inr rfl, .inr rfl, .inl rfl, .inr rfl, .inr rfl⟩⟩); first | with_reducible assumption))
  | cons a r ih =>
    unfold putFlash
    repeat' (first
    | (with_reducible apply ih)
    | with_reducible assumption
    | split
    | ((with_reducible refine Keep.mk (f := 536870912) ?_ ?_ ?_); (exact K.sub rfl); rotate_left; (exact ⟨rfl, rfl, canon_of id id id id id id id id id id id id id id id id (by first | with_reducible exact id | exact smWf_smSet _ _ _ _) id id id id id id, .same rfl, .same rfl, .same rfl, ⟨.inr rfl, .inr rfl, .inr rfl, .inr rfl, .inr rfl, .inl rfl, .inr rfl, .inr rfl⟩⟩); first | with_reducible assumption))
theorem measPut_keeps (K : Keep P 8) {s : State} {i : Nat} {d : List Nat}  (hP : P s) : P (measPut s i d) := by
  have k8 : Keep P 8 := K.sub rfl
  unfold measPut
  repeat' (first
    | with_reducible assumption
    | intro _
    | (with_reducible apply rputN_keeps k8)
    | (with_reducible apply foldl_keeps))
theorem measExt_keeps (K : Keep P 8) {s : State} {i : Nat} {d : List Nat}  (hP : P s) : P (measExt s i d) := measPut_keeps (K.sub rfl) hP
theorem effMeasExt_keeps (K : Keep P 8) {s : State} {owner : Nat} {v : Word}  (hP : P s) : P (effMeasExt s owner v) := by
  have k8 : Keep P 8 := K.sub rfl
  unfold effMeasExt
  repeat' (first
    | with_reducible assumption
    | intro _
    | (extract_lets +onlyGivenNames s'; first | (refine (fun (hs' : P s') => ?_) ?_; clear_value s'; rotate_left; subst s') | clear_value s' | skip)
    | (with_reducible apply measExt_keeps k8)
    | split)
theorem execTpmMeasExt_keeps (K : Keep P 8) {owner : Nat} {v : Word} {s : State} {sOut : State} (hP : P s) (e : execTpmMeasExt owner v s = .next sOut) : P sOut := by
  have k0 : Keep P 0 := K.sub rfl
  have k8 : Keep P 8 := K.sub rfl
  refine ok_keeps ?_ e
  repeat' (first
    | with_reducible assumption
    | (with_reducible apply byAgent_keeps k0)
    | (with_reducible apply effMeasExt_keeps k8))
theorem makeReport_keeps (K : Keep P 2) {s : State} {i : Nat} {nonce : List Byte}  (hP : P s) : P (makeReport s i nonce).2 := by
  unfold makeReport
  repeat' (first
    | with_reducible assumption
    | (extract_lets +onlyGivenNames s'; first | (refine (fun (hs' : P s') => ?_) ?_; clear_value s'; rotate_left; subst s') | clear_value s' | skip)
    | split
    | ((with_reducible refine Keep.mk (f := 2) ?_ ?_ ?_); (exact K.sub rfl); rotate_left; (exact ⟨rfl, rfl, canon_same rfl, ⟨.inr rfl, .inl rfl, .inr rfl, .inr rfl, .inr rfl, .inr rfl, .inr rfl, .inr rfl⟩, .same rfl, .same rfl, .same rfl⟩); first | with_reducible assumption)
    | dsimp -zeta only)
theorem clearRsp_keeps (K : Keep P 2147483656) {s : State} {m : CMsg} {status : Nat} {seq : DWord}  (hP : P s) : P (clearRsp s m status seq) := by
  have k2147483656 : Keep P 2147483656 := K.sub rfl
  unfold clearRsp
  repeat' (first
    | with_reducible assumption
    | (with_reducible apply sendCtrl_keeps k2147483656))
theorem badMsg_keeps (K : Keep P 8) {s : State}  (hP : P s) : P (badMsg s) := rinc_keeps (K.sub rfl) hP
theorem sendReport_keeps (K : Keep P 2147483656) {s : State} {m : CMsg} {i : Nat} {rep : List Byte}  (hP : P s) : P (sendReport s m i rep) := by
  have k2147483656 : Keep P 2147483656 := K.sub rfl
  unfold sendReport
  repeat' (first
    | with_reducible assumption
    | (extract_lets +onlyGivenNames s'; first | (refine (fun (hs' : P s') => ?_) ?_; clear_value s'; rotate_left; subst s') | clear_value s' | skip)
    | (with_reducible apply sendCtrl_keeps k2147483656))
theorem answerOpen_keeps (K : Keep P 2149580810) {s : State} {m : CMsg}  (hP : P s) : P (answerOpen s m) := by
  have k2 : Keep P 2 := K.sub rfl
  have k2097160 : Keep P 2097160 := K.sub rfl
  have k2147483656 : Keep P 2147483656 := K.sub rfl
  unfold answerOpen
  repeat' (first
    | with_reducible assumption
    | intro _
    | (extract_lets +onlyGivenNames s'; first | (refine (fun (hs' : P s') => ?_) ?_; clear_value s'; rotate_left; subst s') | (refine (fun (hs' : P s'.2) => ?_) ?_; clear_value s'; rotate_left; subst s') | clear_value s' | skip)
    | (with_reducible apply makeReport_keeps k2)
    | (with_reducible apply sendReport_keeps k2147483656)
    | (with_reducible apply clearRsp_keeps k2147483656)
    | (with_reducible apply setSess_keeps k2097160)
    | split
    | (with_reducible refine keeps_ofSnd (by assumption) ?_)
    | dsimp -zeta only)
theorem effOpenSession_keeps (K : Keep P 2686451722) {s : State} {m : CMsg}  (hP : P s) : P (effOpenSession s m) := by
  have k8 : Keep P 8 := K.sub rfl
  have k2149580810 : Keep P 2149580810 := K.sub rfl
  unfold effOpenSession
  repeat' (first
    | with_reducible assumption
    | (with_reducible apply badMsg_keeps k8)
    | (with_reducible apply answerOpen_keeps k2149580810)
    | split
    | ((with_reducible refine Keep.mk (f := 536870912) ?_ ?_ ?_); (exact K.sub rfl); rotate_left; (exact ⟨rfl, rfl, canon_same rfl, .same rfl, .same rfl, .same rfl, ⟨.inr rfl, .inr rfl, .inr rfl, .inr rfl, .inr rfl, .inl rfl, .inr rfl, .inr rfl⟩⟩); first | with_reducible assumption))
theorem execOpenSession_keeps (K : Keep P 2686451722) {m : CMsg} {s : State} {sOut : State} (hP : P s) (e : execOpenSession m s = .next sOut) : P sOut := ok_keeps (effOpenSession_keeps (K.sub rfl) hP) e
theorem answerHeld_keeps (K : Keep P 2686451722) {s : State}  (hP : P s) : P (answerHeld s) := by
  have k2149580810 : Keep P 2149580810 := K.sub rfl
  unfold answerHeld
  repeat' (first
    | with_reducible assumption
    | intro _
    | (with_reducible apply answerOpen_keeps k2149580810)
    | (with_reducible apply foldl_keeps)
    | ((with_reducible refine Keep.mk (f := 536870912) ?_ ?_ ?_); (exact K.sub rfl); rotate_left; (exact ⟨rfl, rfl, canon_same rfl, .same rfl, .same rfl, .same rfl, ⟨.inr rfl, .inr rfl, .inr rfl, .inr rfl, .inr rfl, .inl rfl, .inr rfl, .inr rfl⟩⟩); first | with_reducible assumption))
theorem putBoot_keeps (K : Keep P 8) {s : State}  (hP : P s) : P (putBoot s) := by
  have k8 : Keep P 8 := K.sub rfl
  unfold putBoot
  repeat' (first
    | with_reducible assumption
    | (extract_lets +onlyGivenNames s'; first | (refine (fun (hs' : P s') => ?_) ?_; clear_value s'; rotate_left; subst s') | clear_value s' | skip)
    | (with_reducible apply rputN_keeps k8)
    | (with_reducible apply rputF_keeps k8)
    | split)
theorem bootBank_keeps (K : Keep P 2686468298) {s : State} {b : Nat} {trial : Bool}  (hP : P s) : P (bootBank s b trial) := by
  have k8 : Keep P 8 := K.sub rfl
  have k2149597386 : Keep P 2149597386 := K.sub rfl
  unfold bootBank
  repeat' (first
    | with_reducible assumption
    | (extract_lets +onlyGivenNames s'; first | (refine (fun (hs' : P s') => ?_) ?_; clear_value s'; rotate_left; subst s') | clear_value s' | skip)
    | (with_reducible apply measExt_keeps k8)
    | (with_reducible apply putBoot_keeps k8)
    | (with_reducible apply setCode_keeps k2149597386)
    | ((with_reducible refine Keep.mk (f := 536870912) ?_ ?_ ?_); (exact K.sub rfl); rotate_left; (exact ⟨rfl, rfl, canon_same rfl, .same rfl, .same rfl, .same rfl, ⟨.inr rfl, .inr rfl, .inr rfl, .inr rfl, .inr rfl, .inl rfl, .inr rfl, .inr rfl⟩⟩); first | with_reducible assumption))
theorem effBootRom_keeps (K : Keep P 2686468298) {s : State}  (hP : P s) : P (effBootRom s) := by
  have k8 : Keep P 8 := K.sub rfl
  have k2149597386 : Keep P 2149597386 := K.sub rfl
  have k2686451722 : Keep P 2686451722 := K.sub rfl
  have k2686468298 : Keep P 2686468298 := K.sub rfl
  unfold effBootRom
  repeat' (first
    | with_reducible assumption
    | (extract_lets +onlyGivenNames s'; first | (refine (fun (hs' : P s') => ?_) ?_; clear_value s'; rotate_left; subst s') | clear_value s' | skip)
    | (with_reducible apply measExt_keeps k8)
    | (with_reducible apply bootBank_keeps k2686468298)
    | (with_reducible apply answerHeld_keeps k2686451722)
    | (with_reducible apply putBoot_keeps k8)
    | (with_reducible apply setCode_keeps k2149597386)
    | split
    | ((with_reducible refine Keep.mk (f := 536870912) ?_ ?_ ?_); (exact K.sub rfl); rotate_left; (exact ⟨rfl, rfl, canon_same rfl, .same rfl, .same rfl, .same rfl, ⟨.inr rfl, .inr rfl, .inr rfl, .inr rfl, .inr rfl, .inl rfl, .inr rfl, .inr rfl⟩⟩); first | with_reducible assumption))
theorem unsealKey_keeps (K : Keep P 536870912) {s : State}  (hP : P s) : P (unsealKey s) := by
  unfold unsealKey
  repeat' (first
    | with_reducible assumption
    | split
    | ((with_reducible refine Keep.mk (f := 536870912) ?_ ?_ ?_); (exact K.sub rfl); rotate_left; (exact ⟨rfl, rfl, canon_same rfl, .same rfl, .same rfl, .same rfl, ⟨.inr rfl, .inr rfl, .inr rfl, .inr rfl, .inr rfl, .inl rfl, .inr rfl, .inr rfl⟩⟩); first | with_reducible assumption))
theorem execBootRom_keeps (K : Keep P 2686468298) {s : State} {sOut : State} (hP : P s) (e : execBootRom s = .next sOut) : P sOut := ok_keeps (effBootRom_keeps (K.sub rfl) hP) e

end Sys2Proof.Machine
end

