-- ==== Sys2Proof/Laws/KeepReset.lean ====
section
/-! SUPPORT. What each operation of Machine/Reset.lean may write (Touch): a property that stands under changes of those areas stands after the
operation. The mask is the union of the areas written. -/

set_option linter.unreachableTactic false
set_option linter.unusedTactic false
set_option linter.unusedVariables false
set_option linter.tactic.unusedName false

namespace Sys2Proof.Machine

variable {P : State → Prop}

theorem resetWin_keeps (K : Keep P 56) {s : State} {w code : Nat} {keep : Nat → Bool}  (hP : P s) : P (resetWin s w code keep) := by
  have k8 : Keep P 8 := K.sub rfl
  unfold resetWin
  repeat' (first
    | with_reducible assumption
    | intro _
    | (extract_lets +onlyGivenNames s'; first | (refine (fun (hs' : P s') => ?_) ?_; clear_value s'; rotate_left; subst s') | clear_value s' | skip)
    | (with_reducible apply rputN_keeps k8)
    | split
    | ((with_reducible refine Keep.mk (f := 56) ?_ ?_ ?_); (exact K.sub rfl); rotate_left; (exact ⟨rfl, rfl, canon_of id (by first | with_reducible exact id | exact smWf_filter _ _ _) (by first | with_reducible exact id | exact smWf_filter _ _ _) id id id id id id id id id id id id id id id id id id id id, ⟨.inr rfl, .inr rfl, .inr rfl, .inl rfl, .inl rfl, .inl rfl, .inr rfl, .inr rfl⟩, .same rfl, .same rfl, .same rfl⟩); first | with_reducible assumption))
theorem floeResetPart_keeps (K : Keep P 2149597898) {s : State} {ref : JobRef} {p fl : Nat}  (hP : P s) : P (floeResetPart s ref p fl) := by
  have k512 : Keep P 512 := K.sub rfl
  have k2149597386 : Keep P 2149597386 := K.sub rfl
  unfold floeResetPart
  repeat' (first
    | with_reducible assumption
    | (extract_lets +onlyGivenNames s'; first | (refine (fun (hs' : P s') => ?_) ?_; clear_value s'; rotate_left; subst s') | clear_value s' | skip)
    | (with_reducible apply markFaulted_keeps k512)
    | (with_reducible apply reportErr_keeps k2149597386)
    | split)
theorem floeResetParts_keeps (K : Keep P 2149597898) {s : State} {f : Floe}  (hP : P s) : P (floeResetParts s f) := by
  have k2149597898 : Keep P 2149597898 := K.sub rfl
  unfold floeResetParts
  repeat' (first
    | with_reducible assumption
    | intro _
    | (with_reducible apply floeResetPart_keeps k2149597898)
    | (with_reducible apply foldl_keeps)
    | split)
theorem cutCipher_keeps (K : Keep P 2183151818) {s : State} {j : Job}  (hP : P s) : P (cutCipher s j) := by
  have k33554440 : Keep P 33554440 := K.sub rfl
  have k2149597386 : Keep P 2149597386 := K.sub rfl
  unfold cutCipher
  repeat' (first
    | with_reducible assumption
    | (with_reducible apply freeCx_keeps k33554440)
    | (with_reducible apply wipeCtx_keeps k2149597386)
    | split)
theorem cutSite_keeps (K : Keep P 67108872) {s : State} {j : Job}  (hP : P s) : P (cutSite s j) := by
  have k8 : Keep P 8 := K.sub rfl
  have k67108864 : Keep P 67108864 := K.sub rfl
  unfold cutSite
  repeat' (first
    | with_reducible assumption
    | intro _
    | (extract_lets +onlyGivenNames s'; first | (refine (fun (hs' : P s') => ?_) ?_; clear_value s'; rotate_left; subst s') | clear_value s' | skip)
    | (with_reducible apply setPState_keeps k8)
    | (with_reducible apply dropThaw_keeps k67108864)
    | split
    | ((with_reducible refine Keep.mk (f := 67108864) ?_ ?_ ?_); (exact K.sub rfl); rotate_left; (exact ⟨rfl, rfl, canon_same rfl, .same rfl, .same rfl, .same rfl, ⟨.inr rfl, .inr rfl, .inl rfl, .inr rfl, .inr rfl, .inr rfl, .inr rfl, .inr rfl⟩⟩); first | with_reducible assumption))
theorem cutRuns_keeps (K : Keep P 79694848) {s : State} {j : Job}  (hP : P s) : P (cutRuns s j) := by
  have k2048 : Keep P 2048 := K.sub rfl
  unfold cutRuns
  repeat' (first
    | with_reducible assumption
    | intro _
    | (extract_lets +onlyGivenNames s'; first | (refine (fun (hs' : P s') => ?_) ?_; clear_value s'; rotate_left; subst s') | clear_value s' | skip)
    | (with_reducible apply freeCore_keeps k2048)
    | (with_reducible apply foldl_keeps)
    | split
    | ((with_reducible refine Keep.mk (f := 79692800) ?_ ?_ ?_); (exact K.sub rfl); rotate_left; (exact ⟨rfl, rfl, canon_of id id id id (by first | with_reducible exact id | exact (by intro h; dsimp only; exact smWf_smMap engineDefault _ _ h)) id id id id (by first | with_reducible exact id | exact (by intro h; dsimp only; exact smWf_smMap hostDefault _ _ h)) id id id id id id id id id id id id id, .same rfl, ⟨.inr rfl, .inr rfl, .inl rfl, .inr rfl, .inr rfl, .inr rfl, .inr rfl, .inr rfl⟩, ⟨.inr rfl, .inr rfl, .inr rfl, .inr rfl, .inr rfl, .inr rfl, .inl rfl, .inl rfl⟩, ⟨.inr rfl, .inr rfl, .inl rfl, .inr rfl, .inr rfl, .inr rfl, .inr rfl, .inr rfl⟩⟩); first | with_reducible assumption))
theorem cutCol_keeps (K : Keep P 2166440650) {s : State} {j : Job}  (hP : P s) : P (cutCol s j) := by
  have k16777736 : Keep P 16777736 := K.sub rfl
  have k2166440138 : Keep P 2166440138 := K.sub rfl
  have k2166440650 : Keep P 2166440650 := K.sub rfl
  unfold cutCol
  repeat' (first
    | with_reducible assumption
    | intro _
    | (extract_lets +onlyGivenNames s'; first | (refine (fun (hs' : P s') => ?_) ?_; clear_value s'; rotate_left; subst s') | (refine (fun (hs' : P s'.2) => ?_) ?_; clear_value s'; rotate_left; subst s') | clear_value s' | skip)
    | (with_reducible apply openOp_keeps k16777736)
    | (with_reducible apply beginEarlier_keeps k2166440650)
    | (with_reducible apply colEnd_keeps k2166440138)
    | (with_reducible apply foldl_keeps)
    | split
    | (with_reducible refine keeps_ofSnd (by assumption) ?_)
    | dsimp -zeta only)
theorem cutJob_keeps (K : Keep P 2279698122) {s : State} {j : Job}  (hP : P s) : P (cutJob s j) := by
  have k512 : Keep P 512 := K.sub rfl
  have k8192 : Keep P 8192 := K.sub rfl
  have k67108872 : Keep P 67108872 := K.sub rfl
  have k79694848 : Keep P 79694848 := K.sub rfl
  have k2166440650 : Keep P 2166440650 := K.sub rfl
  have k2183151818 : Keep P 2183151818 := K.sub rfl
  unfold cutJob
  repeat' (first
    | with_reducible assumption
    | (extract_lets +onlyGivenNames s'; first | (refine (fun (hs' : P s') => ?_) ?_; clear_value s'; rotate_left; subst s') | clear_value s' | skip)
    | (with_reducible apply cutSite_keeps k67108872)
    | (with_reducible apply cutCipher_keeps k2183151818)
    | (with_reducible apply cutCol_keeps k2166440650)
    | (with_reducible apply cutRuns_keeps k79694848)
    | (with_reducible apply dropJob_keeps k512)
    | (with_reducible apply withdrawJob_keeps k8192))
theorem resetQueue_keeps (K : Keep P 2279698378) {s : State} {q : Nat}  (hP : P s) : P (resetQueue s q) := by
  have k256 : Keep P 256 := K.sub rfl
  have k8192 : Keep P 8192 := K.sub rfl
  have k2279698122 : Keep P 2279698122 := K.sub rfl
  unfold resetQueue
  repeat' (first
    | with_reducible assumption
    | intro _
    | (extract_lets +onlyGivenNames s'; first | (refine (fun (hs' : P s') => ?_) ?_; clear_value s'; rotate_left; subst s') | clear_value s' | skip)
    | (with_reducible apply withdraw_keeps k8192)
    | (with_reducible apply cutJob_keeps k2279698122)
    | (with_reducible apply putQ_keeps k256)
    | (with_reducible apply foldl_keeps)
    | split)
theorem failServed_keeps (K : Keep P 2149597898) {s : State} {f : Floe} {j : Job}  (hP : P s) : P (failServed s f j) := by
  have k512 : Keep P 512 := K.sub rfl
  have k2149597386 : Keep P 2149597386 := K.sub rfl
  unfold failServed
  repeat' (first
    | with_reducible assumption
    | (with_reducible apply putJob_keeps k512)
    | (with_reducible apply reportErr_keeps k2149597386)
    | split)
theorem withdrawServed_keeps (K : Keep P 2149606090) {s : State} {f : Floe}  (hP : P s) : P (withdrawServed s f) := by
  have k8192 : Keep P 8192 := K.sub rfl
  have k2149597898 : Keep P 2149597898 := K.sub rfl
  unfold withdrawServed
  repeat' (first
    | with_reducible assumption
    | intro _
    | (extract_lets +onlyGivenNames s'; first | (refine (fun (hs' : P s') => ?_) ?_; clear_value s'; rotate_left; subst s') | clear_value s' | skip)
    | (with_reducible apply withdraw_keeps k8192)
    | (with_reducible apply failServed_keeps k2149597898)
    | (with_reducible apply foldl_keeps)
    | split)
theorem abortFresh_keeps (K : Keep P 2166440650) {s : State} {j : Job}  (hP : P s) : P (abortFresh s j) := by
  have k2166440650 : Keep P 2166440650 := K.sub rfl
  unfold abortFresh
  repeat' (first
    | with_reducible assumption
    | (with_reducible apply failFresh_keeps k2166440650)
    | split)
theorem abortCols_keeps (K : Keep P 2166440650) {s : State}  (hP : P s) : P (abortCols s) := by
  have k2166440650 : Keep P 2166440650 := K.sub rfl
  unfold abortCols
  repeat' (first
    | with_reducible assumption
    | intro _
    | (extract_lets +onlyGivenNames s'; first | (refine (fun (hs' : P s') => ?_) ?_; clear_value s'; rotate_left; subst s') | clear_value s' | skip)
    | (with_reducible apply colFail_keeps k2166440650)
    | (with_reducible apply abortFresh_keeps k2166440650)
    | (with_reducible apply foldl_keeps))
theorem resetEngine_keeps (K : Keep P 1080) {s : State} {e : Nat}  (hP : P s) : P (resetEngine s e) := by
  have k8 : Keep P 8 := K.sub rfl
  have k56 : Keep P 56 := K.sub rfl
  unfold resetEngine
  repeat' (first
    | with_reducible assumption
    | (extract_lets +onlyGivenNames s'; first | (refine (fun (hs' : P s') => ?_) ?_; clear_value s'; rotate_left; subst s') | clear_value s' | skip)
    | (with_reducible apply resetWin_keeps k56)
    | (with_reducible apply rputBit_keeps k8)
    | ((with_reducible refine Keep.mk (f := 1024) ?_ ?_ ?_); (exact K.sub rfl); rotate_left; (exact ⟨rfl, rfl, canon_of id id id id (by first | with_reducible exact id | exact smWf_smDel _ _ _) id id id id id id id id id id id id id id id id id id, .same rfl, ⟨.inr rfl, .inr rfl, .inl rfl, .inr rfl, .inr rfl, .inr rfl, .inr rfl, .inr rfl⟩, .same rfl, .same rfl⟩); first | with_reducible assumption))
theorem resetCluster_keeps (K : Keep P 56) {s : State} {c : Nat}  (hP : P s) : P (resetCluster s c) := resetWin_keeps (K.sub rfl) hP
theorem resetCore_keeps (K : Keep P 2056) {s : State} {h : Nat}  (hP : P s) : P (resetCore s h) := by
  have k8 : Keep P 8 := K.sub rfl
  have k2048 : Keep P 2048 := K.sub rfl
  unfold resetCore
  repeat' (first
    | with_reducible assumption
    | (with_reducible apply rputN_keeps k8)
    | (with_reducible apply putHart_keeps k2048)
    | ((with_reducible refine Keep.mk (f := 2048) ?_ ?_ ?_); (exact K.sub rfl); rotate_left; (exact ⟨rfl, rfl, canon_of id id id id id (by first | with_reducible exact id | exact smSorted_filter _ _) id id id id id id id id id id id id id id id id id, .same rfl, ⟨.inr rfl, .inr rfl, .inr rfl, .inl rfl, .inr rfl, .inr rfl, .inr rfl, .inr rfl⟩, .same rfl, .same rfl⟩); first | with_reducible assumption))
theorem resetFloes_keeps (K : Keep P 2279702522) {s : State} {f : Floe}  (hP : P s) : P (resetFloes s f) := by
  have k56 : Keep P 56 := K.sub rfl
  have k1080 : Keep P 1080 := K.sub rfl
  have k2056 : Keep P 2056 := K.sub rfl
  have k33554432 : Keep P 33554432 := K.sub rfl
  have k2149597386 : Keep P 2149597386 := K.sub rfl
  have k2149597898 : Keep P 2149597898 := K.sub rfl
  have k2149606090 : Keep P 2149606090 := K.sub rfl
  have k2149675978 : Keep P 2149675978 := K.sub rfl
  have k2279698378 : Keep P 2279698378 := K.sub rfl
  unfold resetFloes
  repeat' (first
    | with_reducible assumption
    | intro _
    | (extract_lets +onlyGivenNames s'; first | (refine (fun (hs' : P s') => ?_) ?_; clear_value s'; rotate_left; subst s') | clear_value s' | skip)
    | (with_reducible apply resetQueue_keeps k2279698378)
    | (with_reducible apply floeResetParts_keeps k2149597898)
    | (with_reducible apply withdrawServed_keeps k2149606090)
    | (with_reducible apply refreshCph_keeps k2149597386)
    | (with_reducible apply cphPrune_keeps k33554432)
    | (with_reducible apply breakCounters_keeps k2149675978)
    | (with_reducible apply resetCore_keeps k2056)
    | (with_reducible apply resetEngine_keeps k1080)
    | (with_reducible apply resetCluster_keeps k56)
    | (with_reducible apply refreshSxu_keeps k2149597386)
    | (with_reducible apply refreshUpd_keeps k2149597386)
    | (with_reducible apply foldl_keeps)
    | split)
theorem resetCompute_keeps (K : Keep P 2279702522) {s : State}  (hP : P s) : P (resetCompute s) := by
  have k56 : Keep P 56 := K.sub rfl
  have k2149597386 : Keep P 2149597386 := K.sub rfl
  have k2166440650 : Keep P 2166440650 := K.sub rfl
  have k2279702522 : Keep P 2279702522 := K.sub rfl
  unfold resetCompute
  repeat' (first
    | with_reducible assumption
    | intro _
    | (extract_lets +onlyGivenNames s'; first | (refine (fun (hs' : P s') => ?_) ?_; clear_value s'; rotate_left; subst s') | clear_value s' | skip)
    | (with_reducible apply resetFloes_keeps k2279702522)
    | (with_reducible apply abortCols_keeps k2166440650)
    | (with_reducible apply refreshUpd_keeps k2149597386)
    | (with_reducible apply resetWin_keeps k56)
    | ((with_reducible refine Keep.mk (f := 8388608) ?_ ?_ ?_); (exact K.sub rfl); rotate_left; (exact ⟨rfl, rfl, canon_same rfl, .same rfl, .same rfl, ⟨.inr rfl, .inr rfl, .inr rfl, .inr rfl, .inr rfl, .inr rfl, .inr rfl, .inl rfl⟩, .same rfl⟩); first | with_reducible assumption))
theorem resetPort_keeps (K : Keep P 2166833914) {s : State} {p : Nat}  (hP : P s) : P (resetPort s p) := by
  have k8 : Keep P 8 := K.sub rfl
  have k56 : Keep P 56 := K.sub rfl
  have k2166833866 : Keep P 2166833866 := K.sub rfl
  unfold resetPort
  repeat' (first
    | with_reducible assumption
    | intro _
    | (extract_lets +onlyGivenNames s'; first | (refine (fun (hs' : P s') => ?_) ?_; clear_value s'; rotate_left; subst s') | clear_value s' | skip)
    | (with_reducible apply portDown_keeps k2166833866)
    | (with_reducible apply rputF_keeps k8)
    | (with_reducible apply resetWin_keeps k56)
    | split
    | ((with_reducible refine Keep.mk (f := 262144) ?_ ?_ ?_); (exact K.sub rfl); rotate_left; (exact ⟨rfl, rfl, canon_of id id id id id id id (by first | with_reducible exact id | exact smWf_smDel _ _ _) id id id id id id id id id id id id id id id, .same rfl, .same rfl, ⟨.inr rfl, .inr rfl, .inl rfl, .inr rfl, .inr rfl, .inr rfl, .inr rfl, .inr rfl⟩, .same rfl⟩); first | with_reducible assumption))
theorem setInj_keeps (K : Keep P 65536) {s : State} {l : List Pkt}  (hP : P s) : P (setInj s l) := by
  unfold setInj
  repeat' (first
    | with_reducible assumption
    | ((with_reducible refine Keep.mk (f := 65536) ?_ ?_ ?_); (exact K.sub rfl); rotate_left; (exact ⟨rfl, rfl, canon_same rfl, .same rfl, .same rfl, ⟨.inl rfl, .inr rfl, .inr rfl, .inr rfl, .inr rfl, .inr rfl, .inr rfl, .inr rfl⟩, .same rfl⟩); first | with_reducible assumption))
theorem loseHeld_keeps (K : Keep P 196608) {s : State}  (hP : P s) : P (loseHeld s) := by
  unfold loseHeld
  repeat' (first
    | with_reducible assumption
    | ((with_reducible refine Keep.mk (f := 196608) ?_ ?_ ?_); (exact K.sub rfl); rotate_left; (exact ⟨rfl, rfl, canon_same rfl, .same rfl, .same rfl, ⟨.inl rfl, .inl rfl, .inr rfl, .inr rfl, .inr rfl, .inr rfl, .inr rfl, .inr rfl⟩, .same rfl⟩); first | with_reducible assumption))
theorem dropFabric_keeps (K : Keep P 17956864) {s : State}  (hP : P s) : P (dropFabric s) := by
  unfold dropFabric
  repeat' (first
    | with_reducible assumption
    | ((with_reducible refine Keep.mk (f := 17956864) ?_ ?_ ?_); (exact K.sub rfl); rotate_left; (exact ⟨rfl, rfl, canon_of id id id id id id id id id id (by first | with_reducible exact id | exact fun _ => rfl) id id id id id id id id id id id id, .same rfl, .same rfl, ⟨.inr rfl, .inl rfl, .inr rfl, .inr rfl, .inl rfl, .inr rfl, .inr rfl, .inr rfl⟩, ⟨.inl rfl, .inr rfl, .inr rfl, .inr rfl, .inr rfl, .inr rfl, .inr rfl, .inr rfl⟩⟩); first | with_reducible assumption))
theorem resetFabric_keeps (K : Keep P 2167923450) {s : State}  (hP : P s) : P (resetFabric s) := by
  have k56 : Keep P 56 := K.sub rfl
  have k65536 : Keep P 65536 := K.sub rfl
  have k196608 : Keep P 196608 := K.sub rfl
  have k17956864 : Keep P 17956864 := K.sub rfl
  have k2149597386 : Keep P 2149597386 := K.sub rfl
  have k2149704394 : Keep P 2149704394 := K.sub rfl
  have k2166440650 : Keep P 2166440650 := K.sub rfl
  have k2166833914 : Keep P 2166833914 := K.sub rfl
  unfold resetFabric
  repeat' (first
    | with_reducible assumption
    | intro _
    | (extract_lets +onlyGivenNames s'; first | (refine (fun (hs' : P s') => ?_) ?_; clear_value s'; rotate_left; subst s') | clear_value s' | skip)
    | (with_reducible apply abortCols_keeps k2166440650)
    | (with_reducible apply loseHeld_keeps k196608)
    | (with_reducible apply dropFabric_keeps k17956864)
    | (with_reducible apply resetPort_keeps k2166833914)
    | (with_reducible apply setInj_keeps k65536)
    | (with_reducible apply resetWin_keeps k56)
    | (with_reducible apply refreshFabric_keeps k2149597386)
    | (with_reducible apply pump_keeps k2149704394)
    | (with_reducible apply releaseHold_keeps k65536)
    | (with_reducible apply foldl_keeps))
theorem resetSxu_keeps (K : Keep P 2250261242) {s : State}  (hP : P s) : P (resetSxu s) := by
  have k56 : Keep P 56 := K.sub rfl
  have k100663304 : Keep P 100663304 := K.sub rfl
  have k2149597386 : Keep P 2149597386 := K.sub rfl
  have k2216706762 : Keep P 2216706762 := K.sub rfl
  unfold resetSxu
  repeat' (first
    | with_reducible assumption
    | (extract_lets +onlyGivenNames s'; first | (refine (fun (hs' : P s') => ?_) ?_; clear_value s'; rotate_left; subst s') | clear_value s' | skip)
    | (with_reducible apply sxuClear_keeps k100663304)
    | (with_reducible apply refreshSxu_keeps k2149597386)
    | (with_reducible apply sxuFail_keeps k2216706762)
    | (with_reducible apply resetWin_keeps k56)
    | split)
theorem resetCph_keeps (K : Keep P 2262852346) {s : State}  (hP : P s) : P (resetCph s) := by
  have k56 : Keep P 56 := K.sub rfl
  have k2149597386 : Keep P 2149597386 := K.sub rfl
  have k2183152330 : Keep P 2183152330 := K.sub rfl
  have k2262852298 : Keep P 2262852298 := K.sub rfl
  unfold resetCph
  repeat' (first
    | with_reducible assumption
    | intro _
    | (extract_lets +onlyGivenNames s'; first | (refine (fun (hs' : P s') => ?_) ?_; clear_value s'; rotate_left; subst s') | clear_value s' | skip)
    | (with_reducible apply cphWipe_keeps k2183152330)
    | (with_reducible apply returnSxu_keeps k2262852298)
    | (with_reducible apply refreshCph_keeps k2149597386)
    | (with_reducible apply resetWin_keeps k56)
    | ((with_reducible refine Keep.mk (f := 33554432) ?_ ?_ ?_); (exact K.sub rfl); rotate_left; (exact ⟨rfl, rfl, canon_same rfl, .same rfl, .same rfl, .same rfl, ⟨.inr rfl, .inl rfl, .inr rfl, .inr rfl, .inr rfl, .inr rfl, .inr rfl, .inr rfl⟩⟩); first | with_reducible assumption))
theorem dropFirn_keeps (K : Keep P 66) {s : State}  (hP : P s) : P (dropFirn s) := by
  have k66 : Keep P 66 := K.sub rfl
  unfold dropFirn
  repeat' (first
    | with_reducible assumption
    | intro _
    | (with_reducible apply makeUndef_keeps k66)
    | (with_reducible apply foldl_keeps)
    | split)
theorem keptState_keeps (K : Keep P 4294967295) {s : State} (hP : P s) : P (keptState s State.reset) := by
  refine K s (keptState s State.reset) ?_ hP
  exact ⟨rfl, rfl, (by apply canon_of <;> first | exact fun _ => rfl | exact id | exact smWf_filter _ _ _), ⟨.inl rfl, .inl rfl, .inl rfl, .inl rfl, .inl rfl, .inl rfl, .inl rfl, .inl rfl⟩, ⟨.inl rfl, .inl rfl, .inl rfl, .inl rfl, .inl rfl, .inl rfl, .inl rfl, .inl rfl⟩, ⟨.inl rfl, .inl rfl, .inl rfl, .inl rfl, .inl rfl, .inl rfl, .inl rfl, .inl rfl⟩, ⟨.inl rfl, .inl rfl, .inl rfl, .inl rfl, .inl rfl, .inl rfl, .inl rfl, .inl rfl⟩⟩
theorem moduleKept_keeps (K : Keep P 4294967295) {s : State}  (hP : P s) : P (moduleKept s) := by
  refine K s (moduleKept s) ?_ hP
  exact ⟨rfl, rfl, (by apply canon_of <;> first | exact fun _ => rfl | exact id | exact smWf_filter _ _ _), ⟨.inl rfl, .inl rfl, .inl rfl, .inl rfl, .inl rfl, .inl rfl, .inl rfl, .inl rfl⟩, ⟨.inl rfl, .inl rfl, .inl rfl, .inl rfl, .inl rfl, .inl rfl, .inl rfl, .inl rfl⟩, ⟨.inl rfl, .inl rfl, .inl rfl, .inl rfl, .inl rfl, .inl rfl, .inl rfl, .inl rfl⟩, ⟨.inl rfl, .inl rfl, .inl rfl, .inl rfl, .inl rfl, .inl rfl, .inl rfl, .inl rfl⟩⟩
theorem bumpGens_keeps (K : Keep P 8) {s z : State}  (hP : P s) (hP1 : P z) : P (bumpGens s z) := by
  have k8 : Keep P 8 := K.sub rfl
  unfold bumpGens
  repeat' (first
    | with_reducible assumption
    | intro _
    | (with_reducible apply rputN_keeps k8)
    | (with_reducible apply foldl_keeps))
theorem spoilFresh_keeps (K : Keep P 2166375114) {s : State} {j : Job}  (hP : P s) : P (spoilFresh s j) := by
  have k16777736 : Keep P 16777736 := K.sub rfl
  have k2149597386 : Keep P 2149597386 := K.sub rfl
  unfold spoilFresh
  repeat' (first
    | with_reducible assumption
    | (with_reducible apply spoilDst_keeps k2149597386)
    | (with_reducible apply openOp_keeps k16777736)
    | split
    | (with_reducible refine keeps_ofSnd (by assumption) ?_)
    | dsimp -zeta only)
theorem resetModule_keeps (K : Keep P 4294967295) {s : State}  (hP : P s) : P (resetModule s) := by
  have k8 : Keep P 8 := K.sub rfl
  have k66 : Keep P 66 := K.sub rfl
  have k2149597386 : Keep P 2149597386 := K.sub rfl
  have k2166375114 : Keep P 2166375114 := K.sub rfl
  have k4294967295 : Keep P 4294967295 := K.sub rfl
  unfold resetModule
  repeat' (first
    | with_reducible assumption
    | intro _
    | (extract_lets +onlyGivenNames s'; first | (refine (fun (hs' : P s') => ?_) ?_; clear_value s'; rotate_left; subst s') | clear_value s' | skip)
    | (with_reducible apply wipeCtx_keeps k2149597386)
    | (with_reducible apply dropFirn_keeps k66)
    | (with_reducible apply spoilFresh_keeps k2166375114)
    | (with_reducible apply spoilDst_keeps k2149597386)
    | (with_reducible apply bumpGens_keeps k8)
    | (with_reducible apply moduleKept_keeps k4294967295)
    | (with_reducible apply rputN_keeps k8)
    | (with_reducible apply foldl_keeps)
    | split)
theorem porKept_keeps (K : Keep P 4294967295) {s : State}  (hP : P s) : P (porKept s) := by
  refine K s (porKept s) ?_ hP
  exact ⟨rfl, rfl, (by apply canon_of <;> first | exact fun _ => rfl | exact id | exact smWf_filter _ _ _), ⟨.inl rfl, .inl rfl, .inl rfl, .inl rfl, .inl rfl, .inl rfl, .inl rfl, .inl rfl⟩, ⟨.inl rfl, .inl rfl, .inl rfl, .inl rfl, .inl rfl, .inl rfl, .inl rfl, .inl rfl⟩, ⟨.inl rfl, .inl rfl, .inl rfl, .inl rfl, .inl rfl, .inl rfl, .inl rfl, .inl rfl⟩, ⟨.inl rfl, .inl rfl, .inl rfl, .inl rfl, .inl rfl, .inl rfl, .inl rfl, .inl rfl⟩⟩
theorem resetPor_keeps (K : Keep P 4294967295) {s : State}  (hP : P s) : P (resetPor s) := porKept_keeps (K.sub rfl) hP
theorem refreshResets_keeps (K : Keep P 8) {s : State}  (hP : P s) : P (refreshResets s) := by
  have k8 : Keep P 8 := K.sub rfl
  unfold refreshResets
  repeat' (first
    | with_reducible assumption
    | intro _
    | (with_reducible apply rputF_keeps k8)
    | split)
theorem forceAcked_keeps (K : Keep P 2149597402) {s : State}  (hP : P s) : P (forceAcked s) := by
  have k8 : Keep P 8 := K.sub rfl
  have k16 : Keep P 16 := K.sub rfl
  have k2149597386 : Keep P 2149597386 := K.sub rfl
  unfold forceAcked
  repeat' (first
    | with_reducible assumption
    | (with_reducible apply refreshFabric_keeps k2149597386)
    | (with_reducible apply shPut_keeps k16)
    | (with_reducible apply rputBit_keeps k8))
theorem applyReset_keeps (K : Keep P 4294967295) {s : State} {d fl : Nat}  (hP : P s) : P (applyReset s d fl) := by
  have k2167923450 : Keep P 2167923450 := K.sub rfl
  have k2250261242 : Keep P 2250261242 := K.sub rfl
  have k2262852346 : Keep P 2262852346 := K.sub rfl
  have k2279702522 : Keep P 2279702522 := K.sub rfl
  have k4294967295 : Keep P 4294967295 := K.sub rfl
  unfold applyReset
  repeat' (first
    | with_reducible assumption
    | (with_reducible apply resetCompute_keeps k2279702522)
    | (with_reducible apply resetFabric_keeps k2167923450)
    | (with_reducible apply resetSxu_keeps k2250261242)
    | (with_reducible apply resetCph_keeps k2262852346)
    | (with_reducible apply resetModule_keeps k4294967295)
    | (with_reducible apply resetFloes_keeps k2279702522)
    | (with_reducible apply resetPor_keeps k4294967295)
    | split)
theorem startReset_keeps (K : Keep P 4294967295) {s : State} {d fl cause : Nat} {pin : Bool}  (hP : P s) : P (startReset s d fl cause pin) := by
  have k8 : Keep P 8 := K.sub rfl
  have k2149597402 : Keep P 2149597402 := K.sub rfl
  have k4294967295 : Keep P 4294967295 := K.sub rfl
  unfold startReset
  repeat' (first
    | with_reducible assumption
    | intro _
    | (extract_lets +onlyGivenNames s'; first | (refine (fun (hs' : P s') => ?_) ?_; clear_value s'; rotate_left; subst s') | clear_value s' | skip)
    | (with_reducible apply forceAcked_keeps k2149597402)
    | (with_reducible apply applyReset_keeps k4294967295)
    | (with_reducible apply refreshResets_keeps k8)
    | split
    | ((with_reducible refine Keep.mk (f := 524288) ?_ ?_ ?_); (exact K.sub rfl); rotate_left; (exact ⟨rfl, rfl, canon_same rfl, .same rfl, .same rfl, ⟨.inr rfl, .inr rfl, .inr rfl, .inl rfl, .inr rfl, .inr rfl, .inr rfl, .inr rfl⟩, .same rfl⟩); first | with_reducible assumption))
theorem execComputeReset_keeps (K : Keep P 4294967295) {s : State} {sOut : State} (hP : P s) (e : execComputeReset s = .next sOut) : P sOut := ok_keeps (startReset_keeps (K.sub rfl) hP) e
theorem execFabricReset_keeps (K : Keep P 4294967295) {s : State} {sOut : State} (hP : P s) (e : execFabricReset s = .next sOut) : P sOut := ok_keeps (startReset_keeps (K.sub rfl) hP) e
theorem execSxuReset_keeps (K : Keep P 4294967295) {s : State} {sOut : State} (hP : P s) (e : execSxuReset s = .next sOut) : P sOut := by
  have k4294967295 : Keep P 4294967295 := K.sub rfl
  refine ok_keeps ?_ e
  repeat' (first
    | with_reducible assumption
    | (with_reducible apply startReset_keeps k4294967295)
    | split)
theorem execCphReset_keeps (K : Keep P 4294967295) {s : State} {sOut : State} (hP : P s) (e : execCphReset s = .next sOut) : P sOut := by
  have k4294967295 : Keep P 4294967295 := K.sub rfl
  refine ok_keeps ?_ e
  repeat' (first
    | with_reducible assumption
    | (with_reducible apply startReset_keeps k4294967295)
    | split)
theorem execModuleReset_keeps (K : Keep P 4294967295) {s : State} {sOut : State} (hP : P s) (e : execModuleReset s = .next sOut) : P sOut := ok_keeps (startReset_keeps (K.sub rfl) hP) e
theorem effFloeReset_keeps (K : Keep P 4294967295) {s : State} {v : Word}  (hP : P s) : P (effFloeReset s v) := by
  have k4294967295 : Keep P 4294967295 := K.sub rfl
  unfold effFloeReset
  repeat' (first
    | with_reducible assumption
    | (with_reducible apply startReset_keeps k4294967295)
    | split)
theorem execGlbFloeReset_keeps (K : Keep P 4294967295) {v : Word} {s : State} {sOut : State} (hP : P s) (e : execGlbFloeReset v s = .next sOut) : P sOut := ok_keeps (effFloeReset_keeps (K.sub rfl) hP) e
theorem effPor_keeps (K : Keep P 4294967295) {s : State}  (hP : P s) : P (effPor s) := by
  have k4294967295 : Keep P 4294967295 := K.sub rfl
  unfold effPor
  repeat' (first
    | with_reducible assumption
    | (with_reducible apply startReset_keeps k4294967295)
    | ((with_reducible refine Keep.mk (f := 268435456) ?_ ?_ ?_); (exact K.sub rfl); rotate_left; (exact ⟨rfl, rfl, canon_same rfl, .same rfl, .same rfl, .same rfl, ⟨.inr rfl, .inr rfl, .inr rfl, .inr rfl, .inl rfl, .inr rfl, .inr rfl, .inr rfl⟩⟩); first | with_reducible assumption))
theorem execPor_keeps (K : Keep P 4294967295) {s : State} {sOut : State} (hP : P s) (e : execPor s = .next sOut) : P sOut := ok_keeps (effPor_keeps (K.sub rfl) hP) e
theorem effPwrgd_keeps (K : Keep P 4294967295) {s : State} {high : Bool}  (hP : P s) : P (effPwrgd s high) := by
  have k4294967295 : Keep P 4294967295 := K.sub rfl
  unfold effPwrgd
  repeat' (first
    | with_reducible assumption
    | intro _
    | (with_reducible apply effPor_keeps k4294967295)
    | split
    | ((with_reducible refine Keep.mk (f := 268959744) ?_ ?_ ?_); (exact K.sub rfl); rotate_left; (exact ⟨rfl, rfl, canon_same rfl, .same rfl, .same rfl, ⟨.inr rfl, .inr rfl, .inr rfl, .inl rfl, .inr rfl, .inr rfl, .inr rfl, .inr rfl⟩, ⟨.inr rfl, .inr rfl, .inr rfl, .inr rfl, .inl rfl, .inr rfl, .inr rfl, .inr rfl⟩⟩); first | with_reducible assumption))
theorem execPwrgd_keeps (K : Keep P 4294967295) {high : Bool} {s : State} {sOut : State} (hP : P s) (e : execPwrgd high s = .next sOut) : P sOut := ok_keeps (effPwrgd_keeps (K.sub rfl) hP) e
theorem effResetN_keeps (K : Keep P 4294967295) {s : State} {low : Bool}  (hP : P s) : P (effResetN s low) := by
  have k4294967295 : Keep P 4294967295 := K.sub rfl
  unfold effResetN
  repeat' (first
    | with_reducible assumption
    | intro _
    | (extract_lets +onlyGivenNames s'; first | (refine (fun (hs' : P s') => ?_) ?_; clear_value s'; rotate_left; subst s') | clear_value s' | skip)
    | (with_reducible apply startReset_keeps k4294967295)
    | split
    | ((with_reducible refine Keep.mk (f := 268959744) ?_ ?_ ?_); (exact K.sub rfl); rotate_left; (exact ⟨rfl, rfl, canon_same rfl, .same rfl, .same rfl, ⟨.inr rfl, .inr rfl, .inr rfl, .inl rfl, .inr rfl, .inr rfl, .inr rfl, .inr rfl⟩, ⟨.inr rfl, .inr rfl, .inr rfl, .inr rfl, .inl rfl, .inr rfl, .inr rfl, .inr rfl⟩⟩); first | with_reducible assumption))
theorem execResetN_keeps (K : Keep P 4294967295) {low : Bool} {s : State} {sOut : State} (hP : P s) (e : execResetN low s = .next sOut) : P sOut := ok_keeps (effResetN_keeps (K.sub rfl) hP) e
theorem assignCheck_keeps (K : Keep P 4096) {s : State}  (hP : P s) : P (assignCheck s) := by
  have k4096 : Keep P 4096 := K.sub rfl
  unfold assignCheck
  repeat' (first
    | with_reducible assumption
    | (with_reducible apply putC_keeps k4096))
theorem unitsBack_keeps (K : Keep P 2149597386) {s : State}  (hP : P s) : P (unitsBack s) := by
  have k2149597386 : Keep P 2149597386 := K.sub rfl
  unfold unitsBack
  repeat' (first
    | with_reducible assumption
    | intro _
    | (extract_lets +onlyGivenNames s'; first | (refine (fun (hs' : P s') => ?_) ?_; clear_value s'; rotate_left; subst s') | clear_value s' | skip)
    | (with_reducible apply setCode_keeps k2149597386)
    | (with_reducible apply foldl_keeps)
    | split)
theorem stillHolds_keeps (K : Keep P 3068158667) {s : State} {seen : Bool} {cause : Nat} {clear : Pins → Pins}  (hP : P s) : P (stillHolds s seen cause clear) := by
  have k2 : Keep P 2 := K.sub rfl
  have k2149597387 : Keep P 2149597387 := K.sub rfl
  have k2799723210 : Keep P 2799723210 := K.sub rfl
  unfold stillHolds
  repeat' (first
    | with_reducible assumption
    | (extract_lets +onlyGivenNames s'; first | (refine (fun (hs' : P s') => ?_) ?_; clear_value s'; rotate_left; subst s') | (refine (fun (hs' : P s'.2) => ?_) ?_; clear_value s'; rotate_left; subst s') | clear_value s' | skip)
    | (with_reducible apply seen_keeps k2149597387)
    | (with_reducible apply takeFree_keeps k2)
    | (with_reducible apply alarm_keeps k2799723210)
    | split
    | ((with_reducible refine Keep.mk (f := 268435456) ?_ ?_ ?_); (exact K.sub rfl); rotate_left; (exact ⟨rfl, rfl, canon_same rfl, .same rfl, .same rfl, .same rfl, ⟨.inr rfl, .inr rfl, .inr rfl, .inr rfl, .inl rfl, .inr rfl, .inr rfl, .inr rfl⟩⟩); first | with_reducible assumption | (with_reducible refine keeps_ofSnd (by assumption) ?_))
    | (with_reducible refine keeps_ofSnd (by assumption) ?_)
    | dsimp -zeta only)
theorem relatch_keeps (K : Keep P 3068158667) {s : State}  (hP : P s) : P (relatch s) := by
  have k2799723210 : Keep P 2799723210 := K.sub rfl
  have k3068158667 : Keep P 3068158667 := K.sub rfl
  unfold relatch
  repeat' (first
    | with_reducible assumption
    | intro _
    | (extract_lets +onlyGivenNames s'; first | (refine (fun (hs' : P s') => ?_) ?_; clear_value s'; rotate_left; subst s') | clear_value s' | skip)
    | (with_reducible apply stillHolds_keeps k3068158667)
    | (with_reducible apply alarm_keeps k2799723210)
    | split)
theorem finishReset_keeps (K : Keep P 3068687051) {s : State} {r : ResetP}  (hP : P s) : P (finishReset s r) := by
  have k8 : Keep P 8 := K.sub rfl
  have k4096 : Keep P 4096 := K.sub rfl
  have k2149597386 : Keep P 2149597386 := K.sub rfl
  have k3068158667 : Keep P 3068158667 := K.sub rfl
  unfold finishReset
  repeat' (first
    | with_reducible assumption
    | (extract_lets +onlyGivenNames s'; first | (refine (fun (hs' : P s') => ?_) ?_; clear_value s'; rotate_left; subst s') | clear_value s' | skip)
    | (with_reducible apply refreshResets_keeps k8)
    | (with_reducible apply rputF_keeps k8)
    | (with_reducible apply unitsBack_keeps k2149597386)
    | (with_reducible apply relatch_keeps k3068158667)
    | (with_reducible apply assignCheck_keeps k4096)
    | (with_reducible apply postRecord_keeps k2149597386)
    | split
    | ((with_reducible refine Keep.mk (f := 524288) ?_ ?_ ?_); (exact K.sub rfl); rotate_left; (exact ⟨rfl, rfl, canon_same rfl, .same rfl, .same rfl, ⟨.inr rfl, .inr rfl, .inr rfl, .inl rfl, .inr rfl, .inr rfl, .inr rfl, .inr rfl⟩, .same rfl⟩); first | with_reducible assumption))
theorem effResetComplete_keeps (K : Keep P 3068687051) {s : State} {d : Nat}  (hP : P s) : P (effResetComplete s d) := by
  have k3068687051 : Keep P 3068687051 := K.sub rfl
  unfold effResetComplete
  repeat' (first
    | with_reducible assumption
    | intro _
    | (with_reducible apply finishReset_keeps k3068687051)
    | split)
theorem execResetComplete_keeps (K : Keep P 3068687051) {kind : Nat} {s : State} {sOut : State} (hP : P s) (e : execResetComplete kind s = .next sOut) : P sOut := ok_keeps (effResetComplete_keeps (K.sub rfl) hP) e

end Sys2Proof.Machine
end

