-- ==== Sys2Proof/Laws/KeepStart.lean ====
section
/-! SUPPORT. What each operation of Machine/Start.lean may write (Touch): a property that stands under changes of those areas stands after the
operation. The mask is the union of the areas written. -/

set_option linter.unreachableTactic false
set_option linter.unusedTactic false
set_option linter.unusedVariables false
set_option linter.tactic.unusedName false

namespace Sys2Proof.Machine

variable {P : State → Prop}

theorem enterStage_keeps (K : Keep P 2149597386) {s : State} {n e1 : Nat}  (hP : P s) : P (enterStage s n e1) := by
  have k2149597386 : Keep P 2149597386 := K.sub rfl
  unfold enterStage
  repeat' (first
    | with_reducible assumption
    | (extract_lets +onlyGivenNames s'; first | (refine (fun (hs' : P s') => ?_) ?_; clear_value s'; rotate_left; subst s') | clear_value s' | skip)
    | (with_reducible apply setCode_keeps k2149597386)
    | (with_reducible apply postRecord_keeps k2149597386))
theorem trainMemory_keeps (K : Keep P 2686468298) {s : State}  (hP : P s) : P (trainMemory s) := by
  have k2149597386 : Keep P 2149597386 := K.sub rfl
  unfold trainMemory
  repeat' (first
    | with_reducible assumption
    | intro _
    | (extract_lets +onlyGivenNames s'; first | (refine (fun (hs' : P s') => ?_) ?_; clear_value s'; rotate_left; subst s') | clear_value s' | skip)
    | (with_reducible apply setCode_keeps k2149597386)
    | (with_reducible apply foldl_keeps)
    | split
    | ((with_reducible refine Keep.mk (f := 536871104) ?_ ?_ ?_); (exact K.sub rfl); rotate_left; (exact ⟨rfl, rfl, canon_of (by first | with_reducible exact id | exact fun _ => rfl | exact smWf_filter _ _ _) id id id id id id id id id id id id id id id id id id id (by first | with_reducible exact id | exact fun _ => rfl) id id, ⟨.inr rfl, .inr rfl, .inr rfl, .inr rfl, .inr rfl, .inr rfl, .inl rfl, .inl rfl⟩, .same rfl, .same rfl, ⟨.inr rfl, .inr rfl, .inr rfl, .inr rfl, .inr rfl, .inl rfl, .inr rfl, .inr rfl⟩⟩); first | with_reducible assumption))
theorem firmwareUp_keeps (K : Keep P 536872960) {s : State}  (hP : P s) : P (firmwareUp s) := by
  have k2048 : Keep P 2048 := K.sub rfl
  have k536870912 : Keep P 536870912 := K.sub rfl
  unfold firmwareUp
  repeat' (first
    | with_reducible assumption
    | (extract_lets +onlyGivenNames s'; first | (refine (fun (hs' : P s') => ?_) ?_; clear_value s'; rotate_left; subst s') | clear_value s' | skip)
    | (with_reducible apply unsealKey_keeps k536870912)
    | (with_reducible apply putHart_keeps k2048))
theorem loadTfr_keeps (K : Keep P 24) {record : List Byte} {s : State} {off : Nat}  (hP : P s) : P (loadTfr record s off) := by
  have k8 : Keep P 8 := K.sub rfl
  have k16 : Keep P 16 := K.sub rfl
  unfold loadTfr
  repeat' (first
    | with_reducible assumption
    | (extract_lets +onlyGivenNames s'; first | (refine (fun (hs' : P s') => ?_) ?_; clear_value s'; rotate_left; subst s') | clear_value s' | skip)
    | (with_reducible apply rput_keeps k8)
    | (with_reducible apply shPut_keeps k16)
    | split)
theorem fabricUp_keeps (K : Keep P 536875032) {s : State}  (hP : P s) : P (fabricUp s) := by
  have k8 : Keep P 8 := K.sub rfl
  have k24 : Keep P 24 := K.sub rfl
  have k4096 : Keep P 4096 := K.sub rfl
  unfold fabricUp
  repeat' (first
    | with_reducible assumption
    | intro _
    | (extract_lets +onlyGivenNames s'; first | (refine (fun (hs' : P s') => ?_) ?_; clear_value s'; rotate_left; subst s') | clear_value s' | skip)
    | (with_reducible apply assignCheck_keeps k4096)
    | (with_reducible apply bumpGen_keeps k8)
    | (with_reducible apply loadTfr_keeps k24)
    | (with_reducible apply rputBit_keeps k8)
    | (with_reducible apply foldl_keeps)
    | ((with_reducible refine Keep.mk (f := 536875008) ?_ ?_ ?_); (exact K.sub rfl); rotate_left; (exact ⟨rfl, rfl, canon_same rfl, .same rfl, ⟨.inr rfl, .inr rfl, .inr rfl, .inr rfl, .inl rfl, .inr rfl, .inr rfl, .inr rfl⟩, .same rfl, ⟨.inr rfl, .inr rfl, .inr rfl, .inr rfl, .inr rfl, .inl rfl, .inr rfl, .inr rfl⟩⟩); first | with_reducible assumption))
theorem effStage_keeps (K : Keep P 2686474458) {s : State}  (hP : P s) : P (effStage s) := by
  have k8 : Keep P 8 := K.sub rfl
  have k536872960 : Keep P 536872960 := K.sub rfl
  have k536875032 : Keep P 536875032 := K.sub rfl
  have k2149597386 : Keep P 2149597386 := K.sub rfl
  have k2686451722 : Keep P 2686451722 := K.sub rfl
  have k2686468298 : Keep P 2686468298 := K.sub rfl
  unfold effStage
  repeat' (first
    | with_reducible assumption
    | (extract_lets +onlyGivenNames s'; first | (refine (fun (hs' : P s') => ?_) ?_; clear_value s'; rotate_left; subst s') | clear_value s' | skip)
    | (with_reducible apply answerHeld_keeps k2686451722)
    | (with_reducible apply enterStage_keeps k2149597386)
    | (with_reducible apply measExt_keeps k8)
    | (with_reducible apply firmwareUp_keeps k536872960)
    | (with_reducible apply trainMemory_keeps k2686468298)
    | (with_reducible apply fabricUp_keeps k536875032)
    | split)
theorem execStartUpStage_keeps (K : Keep P 2686474458) {s : State} {sOut : State} (hP : P s) (e : execStartUpStage s = .next sOut) : P sOut := ok_keeps (effStage_keeps (K.sub rfl) hP) e
theorem effCheckTimeout_keeps (K : Keep P 2149597386) {s : State}  (hP : P s) : P (effCheckTimeout s) := by
  have k2149597386 : Keep P 2149597386 := K.sub rfl
  unfold effCheckTimeout
  repeat' (first
    | with_reducible assumption
    | (with_reducible apply enterStage_keeps k2149597386)
    | split)
theorem execNeighbourCheckTimeout_keeps (K : Keep P 2149597386) {s : State} {sOut : State} (hP : P s) (e : execNeighbourCheckTimeout s = .next sOut) : P sOut := ok_keeps (effCheckTimeout_keeps (K.sub rfl) hP) e

end Sys2Proof.Machine
end

