-- ==== Sys2Proof/Laws/KeepAccess.lean ====
section
/-! SUPPORT. What each operation of Machine/Access.lean may write (Touch): a property that stands under changes of those areas stands after the
operation. The mask is the union of the areas written. -/

set_option linter.unreachableTactic false
set_option linter.unusedTactic false
set_option linter.unusedVariables false
set_option linter.tactic.unusedName false

namespace Sys2Proof.Machine

variable {P : State → Prop}

theorem otherLatches_keeps (K : Keep P 32) {s : State} {owner lo : Nat}  (hP : P s) : P (otherLatches s owner lo) := by
  unfold otherLatches
  repeat' (first
    | with_reducible assumption
    | (extract_lets +onlyGivenNames s'; first | (refine (fun (hs' : P s') => ?_) ?_; clear_value s'; rotate_left; subst s') | clear_value s' | skip)
    | split
    | ((with_reducible refine Keep.mk (f := 32) ?_ ?_ ?_); (exact K.sub rfl); rotate_left; (exact ⟨rfl, rfl, canon_same rfl, ⟨.inr rfl, .inr rfl, .inr rfl, .inr rfl, .inr rfl, .inl rfl, .inr rfl, .inr rfl⟩, .same rfl, .same rfl, .same rfl⟩); first | with_reducible assumption))
theorem clearArb_keeps (K : Keep P 130) {s : State} {i o : Nat}  (hP : P s) : P (clearArb s i o) := by
  have k2 : Keep P 2 := K.sub rfl
  have k128 : Keep P 128 := K.sub rfl
  unfold clearArb
  repeat' (first
    | with_reducible assumption
    | (with_reducible apply mapChans_keeps k128)
    | (with_reducible apply takeFree_keeps k2)
    | split
    | (with_reducible refine keeps_ofSnd (by assumption) ?_)
    | dsimp -zeta only)
theorem clearRc_keeps (K : Keep P 138) {s : State} {off : Nat}  (hP : P s) : P (clearRc s off) := by
  have k8 : Keep P 8 := K.sub rfl
  have k130 : Keep P 130 := K.sub rfl
  unfold clearRc
  repeat' (first
    | with_reducible assumption
    | intro _
    | (extract_lets +onlyGivenNames s'; first | (refine (fun (hs' : P s') => ?_) ?_; clear_value s'; rotate_left; subst s') | clear_value s' | skip)
    | (with_reducible apply clearArb_keeps k130)
    | (with_reducible apply rputN_keeps k8)
    | (with_reducible apply foldl_keeps)
    | split)
theorem effRead_keeps (K : Keep P 174) {s : State} {owner off : Nat}  (hP : P s) : P (effRead s owner off) := by
  have k12 : Keep P 12 := K.sub rfl
  have k32 : Keep P 32 := K.sub rfl
  have k44 : Keep P 44 := K.sub rfl
  have k138 : Keep P 138 := K.sub rfl
  unfold effRead
  repeat' (first
    | with_reducible assumption
    | (extract_lets +onlyGivenNames s'; first | (refine (fun (hs' : P s') => ?_) ?_; clear_value s'; rotate_left; subst s') | clear_value s' | skip)
    | (with_reducible apply effLockAcquire_keeps k12)
    | (with_reducible apply clearRc_keeps k138)
    | (with_reducible apply otherLatches_keeps k32)
    | (with_reducible apply effMbxReceive_keeps k44)
    | split
    | ((with_reducible refine Keep.mk (f := 36) ?_ ?_ ?_); (exact K.sub rfl); rotate_left; (exact ⟨rfl, rfl, canon_same rfl, ⟨.inr rfl, .inr rfl, .inl rfl, .inr rfl, .inr rfl, .inl rfl, .inr rfl, .inr rfl⟩, .same rfl, .same rfl, .same rfl⟩); first | with_reducible assumption))
theorem execReadClear_keeps (K : Keep P 174) {owner off : Nat} {s : State} {sOut : State} (hP : P s) (e : execReadClear owner off s = .next sOut) : P sOut := ok_keeps (effRead_keeps (K.sub rfl) hP) e
theorem reloadShadow_keeps (K : Keep P 16) {s : State} {w : Nat}  (hP : P s) : P (reloadShadow s w) := by
  have k16 : Keep P 16 := K.sub rfl
  unfold reloadShadow
  repeat' (first
    | with_reducible assumption
    | intro _
    | (with_reducible apply shPut_keeps k16)
    | (with_reducible apply foldl_keeps))
theorem applyShadow_keeps (K : Keep P 8) {s : State} {w : Nat}  (hP : P s) : P (applyShadow s w) := by
  have k8 : Keep P 8 := K.sub rfl
  unfold applyShadow
  repeat' (first
    | with_reducible assumption
    | intro _
    | (with_reducible apply rput_keeps k8)
    | (with_reducible apply foldl_keeps))
theorem putOutcome_keeps (K : Keep P 8) {s : State} {w status cause off : Nat}  (hP : P s) : P (putOutcome s w status cause off) := by
  have k8 : Keep P 8 := K.sub rfl
  unfold putOutcome
  repeat' (first
    | with_reducible assumption
    | intro _
    | (extract_lets +onlyGivenNames s'; first | (refine (fun (hs' : P s') => ?_) ?_; clear_value s'; rotate_left; subst s') | (refine (fun (hs' : P s'.1) => ?_) ?_; clear_value s'; rotate_left; subst s') | (refine (fun (hs' : P s'.s) => ?_) ?_; clear_value s'; rotate_left; subst s') | (refine (fun (hs' : P s'.2) => ?_) ?_; clear_value s'; rotate_left; subst s') | (refine (fun (hs' : P s'.2.2) => ?_) ?_; clear_value s'; rotate_left; subst s') | (refine (fun (hs' : OptKeeps P s') => ?_) ?_; clear_value s'; rotate_left; subst s') | (refine (fun (hs' : ExKeeps P s') => ?_) ?_; clear_value s'; rotate_left; subst s') | (have _hs : State → _ := s'; clear _hs) | clear_value s' | skip)
    | (with_reducible apply rputF_keeps k8)
    | split
    | (with_reducible refine keeps_ofFst (by assumption) ?_)
    | (with_reducible refine keeps_ofSnd (by assumption) ?_)
    | (with_reducible refine keeps_ofThird (by assumption) ?_)
    | (with_reducible refine keeps_ofOpt (by assumption) ?_)
    | (with_reducible refine keeps_ofEx (by assumption) ?_)
    | (with_reducible refine keeps_ofSome (by assumption) ?_)
    | dsimp -zeta only)
theorem effBlkCommit_keeps (K : Keep P 216) {s : State} {w gen : Nat} {commit discard : Bool}  (hP : P s) : P (effBlkCommit s w gen commit discard) := by
  have k8 : Keep P 8 := K.sub rfl
  have k16 : Keep P 16 := K.sub rfl
  have k200 : Keep P 200 := K.sub rfl
  unfold effBlkCommit
  repeat' (first
    | with_reducible assumption
    | (with_reducible apply rputBit_keeps k8)
    | (with_reducible apply putOutcome_keeps k8)
    | (with_reducible apply reloadShadow_keeps k16)
    | (with_reducible apply discard_keeps k200)
    | (with_reducible apply rputN_keeps k8)
    | split)
theorem execBlkCommitCommit_keeps (K : Keep P 216) {win gen : Nat} {s : State} {sOut : State} (hP : P s) (e : execBlkCommitCommit win gen s = .next sOut) : P sOut := ok_keeps (effBlkCommit_keeps (K.sub rfl) hP) e
theorem execBlkCommitDiscard_keeps (K : Keep P 216) {win gen : Nat} {s : State} {sOut : State} (hP : P s) (e : execBlkCommitDiscard win gen s = .next sOut) : P sOut := ok_keeps (effBlkCommit_keeps (K.sub rfl) hP) e
theorem effBlkCtrl_keeps (K : Keep P 2149597386) {s : State} {w gen : Nat} {statClr test : Bool}  (hP : P s) : P (effBlkCtrl s w gen statClr test) := by
  have k8 : Keep P 8 := K.sub rfl
  have k138 : Keep P 138 := K.sub rfl
  have k2149597386 : Keep P 2149597386 := K.sub rfl
  unfold effBlkCtrl
  repeat' (first
    | with_reducible assumption
    | intro _
    | (extract_lets +onlyGivenNames s'; first | (refine (fun (hs' : P s') => ?_) ?_; clear_value s'; rotate_left; subst s') | clear_value s' | skip)
    | (with_reducible apply rputBit_keeps k8)
    | (with_reducible apply clearRc_keeps k138)
    | (with_reducible apply evtSet_keeps k2149597386)
    | (with_reducible apply foldl_keeps)
    | split)
theorem execStatClr_keeps (K : Keep P 2149597386) {win gen : Nat} {s : State} {sOut : State} (hP : P s) (e : execStatClr win gen s = .next sOut) : P sOut := ok_keeps (effBlkCtrl_keeps (K.sub rfl) hP) e
theorem execEvtTest_keeps (K : Keep P 2149597386) {win gen : Nat} {s : State} {sOut : State} (hP : P s) (e : execEvtTest win gen s = .next sOut) : P sOut := ok_keeps (effBlkCtrl_keeps (K.sub rfl) hP) e
theorem sealFull_keeps (K : Keep P 2149597386) {n : Nat} {t : State} {d : Nat}  (hP : P t) : P (sealFull n t d) := by
  have k200 : Keep P 200 := K.sub rfl
  have k2149597386 : Keep P 2149597386 := K.sub rfl
  unfold sealFull
  repeat' (first
    | with_reducible assumption
    | (with_reducible apply reportUe_keeps k2149597386)
    | (with_reducible apply sealDomain_keeps k200)
    | (with_reducible apply correctWhere_keeps k2149597386)
    | split)
theorem frApplied_keeps (K : Keep P 2149597386) {s t : State} {n : Nat}  (hP : P s) (hP1 : P t) : P (frApplied s t n) := by
  have k8 : Keep P 8 := K.sub rfl
  have k64 : Keep P 64 := K.sub rfl
  have k66 : Keep P 66 := K.sub rfl
  have k2149597386 : Keep P 2149597386 := K.sub rfl
  unfold frApplied
  repeat' (first
    | with_reducible assumption
    | intro _
    | (extract_lets +onlyGivenNames s'; first | (refine (fun (hs' : P s') => ?_) ?_; clear_value s'; rotate_left; subst s') | clear_value s' | skip)
    | (with_reducible apply sealFull_keeps k2149597386)
    | (with_reducible apply makeUndef_keeps k66)
    | (with_reducible apply dropStored_keeps k64)
    | (with_reducible apply rputN_keeps k8)
    | (with_reducible apply rputBit_keeps k8)
    | (with_reducible apply foldl_keeps)
    | split)
theorem dropHeld_keeps (K : Keep P 16777216) {s t : State} {i : Nat}  (hP : P s) (hP1 : P t) : P (dropHeld s t i) := by
  unfold dropHeld
  repeat' (first
    | with_reducible assumption
    | intro _
    | split
    | ((with_reducible refine Keep.mk (f := 16777216) ?_ ?_ ?_); (exact K.sub rfl); rotate_left; (exact ⟨rfl, rfl, canon_same rfl, .same rfl, .same rfl, .same rfl, ⟨.inl rfl, .inr rfl, .inr rfl, .inr rfl, .inr rfl, .inr rfl, .inr rfl, .inr rfl⟩⟩); first | with_reducible assumption))
theorem groupApplied_keeps (K : Keep P 16777224) {s t : State} {i : Nat}  (hP : P s) (hP1 : P t) : P (groupApplied s t i) := by
  have k8 : Keep P 8 := K.sub rfl
  have k16777216 : Keep P 16777216 := K.sub rfl
  unfold groupApplied
  repeat' (first
    | with_reducible assumption
    | intro _
    | (extract_lets +onlyGivenNames s'; first | (refine (fun (hs' : P s') => ?_) ?_; clear_value s'; rotate_left; subst s') | clear_value s' | skip)
    | (with_reducible apply dropHeld_keeps k16777216)
    | (with_reducible apply rputN_keeps k8)
    | (with_reducible apply refreshEngines_keeps k8)
    | split
    | ((with_reducible refine Keep.mk (f := 16777216) ?_ ?_ ?_); (exact K.sub rfl); rotate_left; (exact ⟨rfl, rfl, canon_of id id id id id id id id id id (by first | with_reducible exact id | exact smWf_filter _ _ _) id id id id id id id id id id id id, .same rfl, .same rfl, .same rfl, ⟨.inl rfl, .inr rfl, .inr rfl, .inr rfl, .inr rfl, .inr rfl, .inr rfl, .inr rfl⟩⟩); first | with_reducible assumption))
theorem commitHooks_keeps (K : Keep P 2279731914) {s t : State} {w : Nat}  (hP : P s) (hP1 : P t) : P (commitHooks s t w) := by
  have k8 : Keep P 8 := K.sub rfl
  have k4096 : Keep P 4096 := K.sub rfl
  have k16777224 : Keep P 16777224 := K.sub rfl
  have k2149597386 : Keep P 2149597386 := K.sub rfl
  have k2149704394 : Keep P 2149704394 := K.sub rfl
  have k2250260682 : Keep P 2250260682 := K.sub rfl
  have k2262852298 : Keep P 2262852298 := K.sub rfl
  unfold commitHooks
  repeat' (first
    | with_reducible assumption
    | intro _
    | (extract_lets +onlyGivenNames s'; first | (refine (fun (hs' : P s') => ?_) ?_; clear_value s'; rotate_left; subst s') | clear_value s' | skip)
    | (with_reducible apply frApplied_keeps k2149597386)
    | (with_reducible apply refreshUpd_keeps k2149597386)
    | (with_reducible apply rputN_keeps k8)
    | (with_reducible apply refreshFabric_keeps k2149597386)
    | (with_reducible apply pump_keeps k2149704394)
    | (with_reducible apply assignCheck_keeps k4096)
    | (with_reducible apply refreshCol_keeps k2149597386)
    | (with_reducible apply groupApplied_keeps k16777224)
    | (with_reducible apply settleSites_keeps k2262852298)
    | (with_reducible apply peerCommitted_keeps k2250260682)
    | (with_reducible apply refreshCph_keeps k2149597386)
    | (with_reducible apply putProfile_keeps k8)
    | (with_reducible apply foldl_keeps)
    | split)
theorem effCommitApply_keeps (K : Keep P 2279731930) {s : State} {w : Nat}  (hP : P s) : P (effCommitApply s w) := by
  have k8 : Keep P 8 := K.sub rfl
  have k16 : Keep P 16 := K.sub rfl
  have k2149597386 : Keep P 2149597386 := K.sub rfl
  have k2279731914 : Keep P 2279731914 := K.sub rfl
  unfold effCommitApply
  repeat' (first
    | with_reducible assumption
    | (extract_lets +onlyGivenNames s'; first | (refine (fun (hs' : P s') => ?_) ?_; clear_value s'; rotate_left; subst s') | clear_value s' | skip)
    | (with_reducible apply applyShadow_keeps k8)
    | (with_reducible apply evtSet_keeps k2149597386)
    | (with_reducible apply putOutcome_keeps k8)
    | (with_reducible apply reloadShadow_keeps k16)
    | (with_reducible apply bumpGen_keeps k8)
    | (with_reducible apply commitHooks_keeps k2279731914)
    | split)
theorem execCommitApply_keeps (K : Keep P 2279731930) {win : Nat} {s : State} {sOut : State} (hP : P s) (e : execCommitApply win s = .next sOut) : P sOut := ok_keeps (effCommitApply_keeps (K.sub rfl) hP) e
theorem plainWrite_keeps (K : Keep P 24) {s : State} {off : Nat} {v : Word}  (hP : P s) : P (plainWrite s off v) := by
  have k8 : Keep P 8 := K.sub rfl
  have k16 : Keep P 16 := K.sub rfl
  unfold plainWrite
  repeat' (first
    | with_reducible assumption
    | intro _
    | (extract_lets +onlyGivenNames s'; first | (refine (fun (hs' : P s') => ?_) ?_; clear_value s'; rotate_left; subst s') | clear_value s' | skip)
    | (with_reducible apply rput_keeps k8)
    | (with_reducible apply rputBit_keeps k8)
    | (with_reducible apply shPut_keeps k16)
    | (with_reducible apply foldl_keeps)
    | split)
theorem effGlbReset_keeps (K : Keep P 4294967295) {s : State} {owner : Nat} {v : Word}  (hP : P s) : P (effGlbReset s owner v) := by
  have k4294967295 : Keep P 4294967295 := K.sub rfl
  unfold effGlbReset
  repeat' (first
    | with_reducible assumption
    | intro _
    | (with_reducible apply startReset_keeps k4294967295)
    | (with_reducible apply foldl_keeps)
    | split)
theorem refusedWrite_keeps (K : Keep P 8) {s : State} {owner off : Nat}  (hP : P s) : SomeKeeps P (refusedWrite s owner off) := by
  have k8 : Keep P 8 := K.sub rfl
  unfold refusedWrite
  repeat' (first
    | with_reducible assumption
    | (extract_lets +onlyGivenNames s'; first | (refine (fun (hs' : P s') => ?_) ?_; clear_value s'; rotate_left; subst s') | clear_value s' | skip)
    | (with_reducible apply rinc_keeps k8)
    | split
    | exact SomeKeeps.none
    | (with_reducible apply SomeKeeps.some))
theorem queueWrite_keeps (K : Keep P 2149606346) {s : State} {q r : Nat} {v : Word}  (hP : P s) : P (queueWrite s q r v) := by
  have k256 : Keep P 256 := K.sub rfl
  have k2149597642 : Keep P 2149597642 := K.sub rfl
  have k2149606346 : Keep P 2149606346 := K.sub rfl
  unfold queueWrite
  repeat' (first
    | with_reducible assumption
    | (extract_lets +onlyGivenNames s'; first | (refine (fun (hs' : P s') => ?_) ?_; clear_value s'; rotate_left; subst s') | clear_value s' | skip)
    | (with_reducible apply effQueueEnable_keeps k256)
    | (with_reducible apply effQTail_keeps k2149606346)
    | (with_reducible apply effResume_keeps k2149597642)
    | (with_reducible apply putQ_keeps k256)
    | split)
theorem writeWord_keeps (K : Keep P 4294967295) {s : State} {owner off : Nat} {v : Word}  (hP : P s) : P (writeWord s owner off v) := by
  have k8 : Keep P 8 := K.sub rfl
  have k16 : Keep P 16 := K.sub rfl
  have k24 : Keep P 24 := K.sub rfl
  have k216 : Keep P 216 := K.sub rfl
  have k4194304 : Keep P 4194304 := K.sub rfl
  have k33554440 : Keep P 33554440 := K.sub rfl
  have k2149597386 : Keep P 2149597386 := K.sub rfl
  have k2149598410 : Keep P 2149598410 := K.sub rfl
  have k2149598426 : Keep P 2149598426 := K.sub rfl
  have k2149606346 : Keep P 2149606346 := K.sub rfl
  have k2149675978 : Keep P 2149675978 := K.sub rfl
  have k2149704394 : Keep P 2149704394 := K.sub rfl
  have k2166833866 : Keep P 2166833866 := K.sub rfl
  have k4294967295 : Keep P 4294967295 := K.sub rfl
  unfold writeWord
  repeat' (first
    | with_reducible assumption
    | (extract_lets +onlyGivenNames s'; first | (refine (fun (hs' : P s') => ?_) ?_; clear_value s'; rotate_left; subst s') | clear_value s' | skip)
    | (with_reducible apply queueWrite_keeps k2149606346)
    | (with_reducible apply effBlkCtrl_keeps k2149597386)
    | (with_reducible apply effBlkCommit_keeps k216)
    | (with_reducible apply plainWrite_keeps k24)
    | (with_reducible apply rputBit_keeps k8)
    | (with_reducible apply effGlbReset_keeps k4294967295)
    | (with_reducible apply effFloeReset_keeps k4294967295)
    | (with_reducible apply effMorEnable_keeps k8)
    | (with_reducible apply effMeasExt_keeps k8)
    | (with_reducible apply putH_keeps k4194304)
    | (with_reducible apply shPut_keeps k16)
    | (with_reducible apply effPark_keeps k2149597386)
    | (with_reducible apply wake_keeps k2149597386)
    | (with_reducible apply effLidEn_keeps k8)
    | (with_reducible apply effRootCtl_keeps k33554440)
    | (with_reducible apply setVoteIf_keeps k8)
    | (with_reducible apply rputN_keeps k8)
    | (with_reducible apply effPreempt_keeps k2149675978)
    | (with_reducible apply effMbxForce_keeps k8)
    | (with_reducible apply effLockRelease_keeps k8)
    | (with_reducible apply effPortEnable_keeps k2166833866)
    | (with_reducible apply effQuiesce_keeps k2149704394)
    | (with_reducible apply effFenceEngine_keeps k2149598426)
    | (with_reducible apply effSelftestStart_keeps k2149598410)
    | split)
theorem writeAll_keeps (K : Keep P 4294967295) {s : State} {owner off : Nat} {l : List (Nat × Word)}  (hP : P s) : P (writeAll s owner off l) := by
  have k8 : Keep P 8 := K.sub rfl
  have k4294967295 : Keep P 4294967295 := K.sub rfl
  unfold writeAll
  repeat' (first
    | with_reducible assumption
    | intro _
    | (with_reducible apply refusedWrite_keeps k8)
    | (with_reducible apply writeWord_keeps k4294967295)
    | (with_reducible apply foldl_keeps)
    | split
    | (with_reducible refine keeps_ofFst (by assumption) ?_)
    | (with_reducible refine keeps_ofSome (by assumption) ?_))
theorem effWrite_keeps (K : Keep P 4294967295) {s : State} {owner off : Nat} {v : Word}  (hP : P s) : P (effWrite s owner off v) := by
  have k32 : Keep P 32 := K.sub rfl
  have k2149580840 : Keep P 2149580840 := K.sub rfl
  have k4294967295 : Keep P 4294967295 := K.sub rfl
  unfold effWrite
  repeat' (first
    | with_reducible assumption
    | (extract_lets +onlyGivenNames s'; first | (refine (fun (hs' : P s') => ?_) ?_; clear_value s'; rotate_left; subst s') | clear_value s' | skip)
    | (with_reducible apply writeAll_keeps k4294967295)
    | (with_reducible apply otherLatches_keeps k32)
    | (with_reducible apply effMbxPost_keeps k2149580840)
    | split
    | ((with_reducible refine Keep.mk (f := 32) ?_ ?_ ?_); (exact K.sub rfl); rotate_left; (exact ⟨rfl, rfl, canon_same rfl, ⟨.inr rfl, .inr rfl, .inr rfl, .inr rfl, .inr rfl, .inl rfl, .inr rfl, .inr rfl⟩, .same rfl, .same rfl, .same rfl⟩); first | with_reducible assumption))
theorem execRegisterWrite_keeps (K : Keep P 4294967295) {owner off : Nat} {v : Word} {s : State} {sOut : State} (hP : P s) (e : execRegisterWrite owner off v s = .next sOut) : P sOut := by
  have k4294967295 : Keep P 4294967295 := K.sub rfl
  refine ok_keeps ?_ e
  repeat' (first
    | with_reducible assumption
    | (with_reducible apply effWrite_keeps k4294967295)
    | split)
theorem execTableWrite_keeps (K : Keep P 4294967295) {owner off : Nat} {v : Word} {s : State} {sOut : State} (hP : P s) (e : execTableWrite owner off v s = .next sOut) : P sOut := by
  have k4294967295 : Keep P 4294967295 := K.sub rfl
  refine ok_keeps ?_ e
  repeat' (first
    | with_reducible assumption
    | (with_reducible apply effWrite_keeps k4294967295)
    | split)

end Sys2Proof.Machine
end

