-- ==== Sys2Proof/Laws/KeepControl.lean ====
section
/-! SUPPORT. What each operation of Machine/Control.lean may write (Touch): a property that stands under changes of those areas stands after the
operation. The mask is the union of the areas written. -/

set_option linter.unreachableTactic false
set_option linter.unusedTactic false
set_option linter.unusedVariables false
set_option linter.tactic.unusedName false

namespace Sys2Proof.Machine

variable {P : State → Prop}

theorem finishReq_keeps (K : Keep P 2149580808) {s : State} {i : Nat} {m : CMsg} {r : Option Rsp}  (hP : P s) : P (finishReq s i m r) := by
  have k2097160 : Keep P 2097160 := K.sub rfl
  have k2147483656 : Keep P 2147483656 := K.sub rfl
  unfold finishReq
  repeat' (first
    | with_reducible assumption
    | (extract_lets +onlyGivenNames s'; first | (refine (fun (hs' : P s') => ?_) ?_; clear_value s'; rotate_left; subst s') | clear_value s' | skip)
    | (with_reducible apply setSess_keeps k2097160)
    | (with_reducible apply sendCtrl_keeps k2147483656)
    | split)
theorem sealedReq_keeps (K : Keep P 2149580808) {s : State} {m : CMsg} {typ : Nat} {run : State → Nat → Sess → List Byte → Option (State × Option Rsp)} (hf_run : ∀ (a0 : State) (a1 : Nat) (a2 : Sess) (a3 : List Byte), P a0 → OptKeeps P (run a0 a1 a2 a3)) (hP : P s) : P (sealedReq s m typ run) := by
  have k8 : Keep P 8 := K.sub rfl
  have k2097152 : Keep P 2097152 := K.sub rfl
  have k2147483656 : Keep P 2147483656 := K.sub rfl
  have k2149580808 : Keep P 2149580808 := K.sub rfl
  unfold sealedReq
  repeat' (first
    | with_reducible assumption
    | intro _
    | (extract_lets +onlyGivenNames s'; first | (refine (fun (hs' : P s') => ?_) ?_; clear_value s'; rotate_left; subst s') | (refine (fun (hs' : P s'.1) => ?_) ?_; clear_value s'; rotate_left; subst s') | (refine (fun (hs' : P s'.s) => ?_) ?_; clear_value s'; rotate_left; subst s') | (refine (fun (hs' : P s'.2) => ?_) ?_; clear_value s'; rotate_left; subst s') | (refine (fun (hs' : P s'.2.2) => ?_) ?_; clear_value s'; rotate_left; subst s') | (refine (fun (hs' : OptKeeps P s') => ?_) ?_; clear_value s'; rotate_left; subst s') | (refine (fun (hs' : ExKeeps P s') => ?_) ?_; clear_value s'; rotate_left; subst s') | (have _hs : State → _ := s'; clear _hs) | clear_value s' | skip)
    | (with_reducible apply clearRsp_keeps k2147483656)
    | (with_reducible apply badMsg_keeps k8)
    | (with_reducible apply rinc_keeps k8)
    | (with_reducible apply sendCtrl_keeps k2147483656)
    | (with_reducible apply putSess_keeps k2097152)
    | (with_reducible apply finishReq_keeps k2149580808)
    | (with_reducible apply hf_run)
    | split
    | (with_reducible refine keeps_ofFst (by assumption) ?_)
    | (with_reducible refine keeps_ofSnd (by assumption) ?_)
    | (with_reducible refine keeps_ofThird (by assumption) ?_)
    | (with_reducible refine keeps_ofOpt (by assumption) ?_)
    | (with_reducible refine keeps_ofEx (by assumption) ?_)
    | (with_reducible refine keeps_ofSome (by assumption) ?_)
    | exact OptKeeps.none
    | (with_reducible apply OptKeeps.some)
    | dsimp -zeta only)
theorem ownerReq_keeps (K : Keep P 0) {run : State → Nat → List Byte → Option (State × Option Rsp)} {s : State} {i : Nat} {x : Sess} {p : List Byte} (hf_run : ∀ (a0 : State) (a1 : Nat) (a2 : List Byte), P a0 → OptKeeps P (run a0 a1 a2)) (hP : P s) : OptKeeps P (ownerReq run s i x p) := by
  unfold ownerReq
  repeat' (first
    | with_reducible assumption
    | (with_reducible apply hf_run)
    | split
    | (with_reducible refine keeps_ofFst (by assumption) ?_)
    | exact OptKeeps.none
    | (with_reducible apply OptKeeps.some)
    | dsimp -zeta only)
theorem answer_keeps (K : Keep P 0) {s : State} {status : Nat}  (hP : P s) : OptKeeps P (answer s status) := by
  unfold answer
  repeat' (first
    | with_reducible assumption
    | exact OptKeeps.none
    | (with_reducible apply OptKeeps.some)
    | dsimp -zeta only)
theorem effCertGet_keeps (K : Keep P 2149580808) {s : State} {m : CMsg}  (hP : P s) : P (effCertGet s m) := by
  have k8 : Keep P 8 := K.sub rfl
  have k2097160 : Keep P 2097160 := K.sub rfl
  have k2147483656 : Keep P 2147483656 := K.sub rfl
  unfold effCertGet
  repeat' (first
    | with_reducible assumption
    | (extract_lets +onlyGivenNames s'; first | (refine (fun (hs' : P s') => ?_) ?_; clear_value s'; rotate_left; subst s') | clear_value s' | skip)
    | (with_reducible apply clearRsp_keeps k2147483656)
    | (with_reducible apply badMsg_keeps k8)
    | (with_reducible apply sendCtrl_keeps k2147483656)
    | (with_reducible apply setSess_keeps k2097160)
    | split)
theorem execCertGet_keeps (K : Keep P 2149580808) {m : CMsg} {s : State} {sOut : State} (hP : P s) (e : execCertGet m s = .next sOut) : P sOut := ok_keeps (effCertGet_keeps (K.sub rfl) hP) e
theorem keyxDenied_keeps (K : Keep P 2686451720) {s : State} {m : CMsg} {i : Nat}  (hP : P s) : P (keyxDenied s m i) := by
  have k538968072 : Keep P 538968072 := K.sub rfl
  have k2147483656 : Keep P 2147483656 := K.sub rfl
  unfold keyxDenied
  repeat' (first
    | with_reducible assumption
    | (with_reducible apply closeSess_keeps k538968072)
    | (with_reducible apply clearRsp_keeps k2147483656))
theorem effKeyx_keeps (K : Keep P 2686468104) {s : State} {m : CMsg}  (hP : P s) : P (effKeyx s m) := by
  have k8 : Keep P 8 := K.sub rfl
  have k2097160 : Keep P 2097160 := K.sub rfl
  have k2147483656 : Keep P 2147483656 := K.sub rfl
  have k2149597192 : Keep P 2149597192 := K.sub rfl
  have k2686451720 : Keep P 2686451720 := K.sub rfl
  unfold effKeyx
  repeat' (first
    | with_reducible assumption
    | intro _
    | (extract_lets +onlyGivenNames s'; first | (refine (fun (hs' : P s') => ?_) ?_; clear_value s'; rotate_left; subst s') | clear_value s' | skip)
    | (with_reducible apply clearRsp_keeps k2147483656)
    | (with_reducible apply badMsg_keeps k8)
    | (with_reducible apply keyxDenied_keeps k2686451720)
    | (with_reducible apply rinc_keeps k8)
    | (with_reducible apply drainFifo_keeps k2149597192)
    | (with_reducible apply sendCtrl_keeps k2147483656)
    | (with_reducible apply setSess_keeps k2097160)
    | split)
theorem execKeyx_keeps (K : Keep P 2686468104) {m : CMsg} {s : State} {sOut : State} (hP : P s) (e : execKeyx m s = .next sOut) : P sOut := ok_keeps (effKeyx_keeps (K.sub rfl) hP) e
theorem readAll_keeps (K : Keep P 174) {owner : Nat} {e0 : List Nat} {e1 : State}  (hP : P e1) : P (readAll owner e0 e1).1 := by
  have k174 : Keep P 174 := K.sub rfl
  induction e0 generalizing owner e1 with
  | nil =>
    unfold readAll
    repeat' (first
    | with_reducible assumption
    | (extract_lets +onlyGivenNames s'; first | (refine (fun (hs' : P s') => ?_) ?_; clear_value s'; rotate_left; subst s') | clear_value s' | skip)
    | (with_reducible apply effRead_keeps k174)
    | split
    | dsimp -zeta only)
  | cons a r ih =>
    unfold readAll
    repeat' (first
    | (with_reducible apply ih)
    | with_reducible assumption
    | (extract_lets +onlyGivenNames s'; first | (refine (fun (hs' : P s') => ?_) ?_; clear_value s'; rotate_left; subst s') | clear_value s' | skip)
    | (with_reducible apply effRead_keeps k174)
    | split
    | dsimp -zeta only)
theorem runRead_keeps (K : Keep P 174) {s : State} {i : Nat} {p : List Byte}  (hP : P s) : OptKeeps P (runRead s i p) := by
  have k174 : Keep P 174 := K.sub rfl
  unfold runRead
  repeat' (first
    | with_reducible assumption
    | intro _
    | (extract_lets +onlyGivenNames s'; first | (refine (fun (hs' : P s') => ?_) ?_; clear_value s'; rotate_left; subst s') | (refine (fun (hs' : P s'.1) => ?_) ?_; clear_value s'; rotate_left; subst s') | clear_value s' | skip)
    | (with_reducible apply readAll_keeps k174)
    | split
    | (with_reducible refine keeps_ofFst (by assumption) ?_)
    | exact OptKeeps.none
    | (with_reducible apply OptKeeps.some)
    | dsimp -zeta only)
theorem execRead_keeps (K : Keep P 2149580974) {m : CMsg} {s : State} {sOut : State} (hP : P s) (e : execRead m s = .next sOut) : P sOut := by
  have k174 : Keep P 174 := K.sub rfl
  have k2149580808 : Keep P 2149580808 := K.sub rfl
  refine ok_keeps ?_ e
  repeat' (first
    | with_reducible assumption
    | intro _
    | (with_reducible apply sealedReq_keeps k2149580808)
    | (with_reducible apply runRead_keeps k174)
    | (with_reducible refine keeps_ofOpt (by assumption) ?_)
    | dsimp -zeta only)
theorem writeEach_keeps (K : Keep P 4294967295) {owner : Nat} {e0 : List (Nat × Nat)} {e1 : State} {e2 : Nat}  (hP : P e1) : P (writeEach owner e0 e1 e2).1 := by
  have k4294967295 : Keep P 4294967295 := K.sub rfl
  induction e0 generalizing owner e1 e2 with
  | nil =>
    unfold writeEach
    repeat' (first
    | with_reducible assumption
    | (extract_lets +onlyGivenNames s'; first | (refine (fun (hs' : P s') => ?_) ?_; clear_value s'; rotate_left; subst s') | clear_value s' | skip)
    | (with_reducible apply effWrite_keeps k4294967295)
    | split
    | dsimp -zeta only)
  | cons a r ih =>
    unfold writeEach
    repeat' (first
    | (with_reducible apply ih)
    | with_reducible assumption
    | (extract_lets +onlyGivenNames s'; first | (refine (fun (hs' : P s') => ?_) ?_; clear_value s'; rotate_left; subst s') | clear_value s' | skip)
    | (with_reducible apply effWrite_keeps k4294967295)
    | split
    | dsimp -zeta only)
theorem runWrite_keeps (K : Keep P 4294967295) {s : State} {i : Nat} {p : List Byte}  (hP : P s) : OptKeeps P (runWrite s i p) := by
  have k4294967295 : Keep P 4294967295 := K.sub rfl
  unfold runWrite
  repeat' (first
    | with_reducible assumption
    | intro _
    | (extract_lets +onlyGivenNames s'; first | (refine (fun (hs' : P s') => ?_) ?_; clear_value s'; rotate_left; subst s') | (refine (fun (hs' : P s'.1) => ?_) ?_; clear_value s'; rotate_left; subst s') | clear_value s' | skip)
    | (with_reducible apply writeEach_keeps k4294967295)
    | split
    | (with_reducible refine keeps_ofFst (by assumption) ?_)
    | exact OptKeeps.none
    | (with_reducible apply OptKeeps.some)
    | dsimp -zeta only)
theorem execWrite_keeps (K : Keep P 4294967295) {m : CMsg} {s : State} {sOut : State} (hP : P s) (e : execWrite m s = .next sOut) : P sOut := by
  have k2149580808 : Keep P 2149580808 := K.sub rfl
  have k4294967295 : Keep P 4294967295 := K.sub rfl
  refine ok_keeps ?_ e
  repeat' (first
    | with_reducible assumption
    | intro _
    | (with_reducible apply sealedReq_keeps k2149580808)
    | (with_reducible apply runWrite_keeps k4294967295)
    | split
    | (with_reducible refine keeps_ofOpt (by assumption) ?_)
    | exact OptKeeps.none
    | (with_reducible apply OptKeeps.some)
    | dsimp -zeta only)
theorem effEventAck_keeps (K : Keep P 2149580808) {s : State} {m : CMsg}  (hP : P s) : P (effEventAck s m) := by
  have k2097152 : Keep P 2097152 := K.sub rfl
  have k2149580808 : Keep P 2149580808 := K.sub rfl
  unfold effEventAck
  repeat' (first
    | with_reducible assumption
    | intro _
    | (with_reducible apply sealedReq_keeps k2149580808)
    | (with_reducible apply putSess_keeps k2097152)
    | exact OptKeeps.none
    | (with_reducible apply OptKeeps.some))
theorem execEventAck_keeps (K : Keep P 2149580808) {m : CMsg} {s : State} {sOut : State} (hP : P s) (e : execEventAck m s = .next sOut) : P sOut := ok_keeps (effEventAck_keeps (K.sub rfl) hP) e
theorem effEventResend_keeps (K : Keep P 2149580808) {s : State} {i : Nat}  (hP : P s) : P (effEventResend s i) := by
  have k2097152 : Keep P 2097152 := K.sub rfl
  have k2147483656 : Keep P 2147483656 := K.sub rfl
  unfold effEventResend
  repeat' (first
    | with_reducible assumption
    | (extract_lets +onlyGivenNames s'; first | (refine (fun (hs' : P s') => ?_) ?_; clear_value s'; rotate_left; subst s') | clear_value s' | skip)
    | (with_reducible apply sendCtrl_keeps k2147483656)
    | (with_reducible apply putSess_keeps k2097152)
    | split)
theorem execEventResend_keeps (K : Keep P 2149580808) {sess : Nat} {s : State} {sOut : State} (hP : P s) (e : execEventResend sess s = .next sOut) : P sOut := ok_keeps (effEventResend_keeps (K.sub rfl) hP) e
theorem runKeyLoad_keeps (K : Keep P 33554440) {s : State} {u0 : Nat} {p : List Byte}  (hP : P s) : OptKeeps P (runKeyLoad s u0 p) := by
  have k0 : Keep P 0 := K.sub rfl
  have k8 : Keep P 8 := K.sub rfl
  have k33554440 : Keep P 33554440 := K.sub rfl
  unfold runKeyLoad
  repeat' (first
    | with_reducible assumption
    | intro _
    | (extract_lets +onlyGivenNames s'; first | (refine (fun (hs' : P s') => ?_) ?_; clear_value s'; rotate_left; subst s') | (refine (fun (hs' : OptKeeps P s') => ?_) ?_; clear_value s'; rotate_left; subst s') | clear_value s' | skip)
    | (with_reducible apply answer_keeps k0)
    | (with_reducible apply rputN_keeps k8)
    | (with_reducible apply effRootCtl_keeps k33554440)
    | (with_reducible apply foldl_keeps)
    | split
    | (with_reducible refine keeps_ofOpt (by assumption) ?_)
    | exact OptKeeps.none
    | (with_reducible apply OptKeeps.some)
    | dsimp -zeta only)
theorem execKeyLoad_keeps (K : Keep P 2183135240) {m : CMsg} {s : State} {sOut : State} (hP : P s) (e : execKeyLoad m s = .next sOut) : P sOut := by
  have k0 : Keep P 0 := K.sub rfl
  have k33554440 : Keep P 33554440 := K.sub rfl
  have k2149580808 : Keep P 2149580808 := K.sub rfl
  refine ok_keeps ?_ e
  repeat' (first
    | with_reducible assumption
    | intro _
    | (extract_lets +onlyGivenNames s'; first | (refine (fun (hs' : P s') => ?_) ?_; clear_value s'; rotate_left; subst s') | (refine (fun (hs' : P s'.1) => ?_) ?_; clear_value s'; rotate_left; subst s') | (refine (fun (hs' : P s'.s) => ?_) ?_; clear_value s'; rotate_left; subst s') | (refine (fun (hs' : P s'.2) => ?_) ?_; clear_value s'; rotate_left; subst s') | (refine (fun (hs' : P s'.2.2) => ?_) ?_; clear_value s'; rotate_left; subst s') | (refine (fun (hs' : OptKeeps P s') => ?_) ?_; clear_value s'; rotate_left; subst s') | (refine (fun (hs' : ExKeeps P s') => ?_) ?_; clear_value s'; rotate_left; subst s') | (have _hs : State → _ := s'; clear _hs) | clear_value s' | skip)
    | (with_reducible apply sealedReq_keeps k2149580808)
    | (with_reducible apply ownerReq_keeps k0)
    | (with_reducible apply runKeyLoad_keeps k33554440)
    | split
    | (with_reducible refine keeps_ofFst (by assumption) ?_)
    | (with_reducible refine keeps_ofSnd (by assumption) ?_)
    | (with_reducible refine keeps_ofThird (by assumption) ?_)
    | (with_reducible refine keeps_ofOpt (by assumption) ?_)
    | (with_reducible refine keeps_ofEx (by assumption) ?_)
    | (with_reducible refine keeps_ofSome (by assumption) ?_)
    | dsimp -zeta only)
theorem whenReady_keeps (K : Keep P 0) {run : State → Nat → List Byte → Option (State × Option Rsp)} {s : State} {i : Nat} {p : List Byte} (hf_run : ∀ (a0 : State) (a1 : Nat) (a2 : List Byte), P a0 → OptKeeps P (run a0 a1 a2)) (hP : P s) : OptKeeps P (whenReady run s i p) := by
  have k0 : Keep P 0 := K.sub rfl
  unfold whenReady
  repeat' (first
    | with_reducible assumption
    | (with_reducible apply answer_keeps k0)
    | (with_reducible apply hf_run)
    | split
    | (with_reducible refine keeps_ofFst (by assumption) ?_)
    | (with_reducible refine keeps_ofOpt (by assumption) ?_)
    | exact OptKeeps.none
    | (with_reducible apply OptKeeps.some)
    | dsimp -zeta only)
theorem setFwLock_keeps (K : Keep P 536870912) {s : State} {o : Option Nat}  (hP : P s) : P (setFwLock s o) := by
  unfold setFwLock
  repeat' (first
    | with_reducible assumption
    | ((with_reducible refine Keep.mk (f := 536870912) ?_ ?_ ?_); (exact K.sub rfl); rotate_left; (exact ⟨rfl, rfl, canon_same rfl, .same rfl, .same rfl, .same rfl, ⟨.inr rfl, .inr rfl, .inr rfl, .inr rfl, .inr rfl, .inl rfl, .inr rfl, .inr rfl⟩⟩); first | with_reducible assumption))
theorem putImage_keeps (K : Keep P 536870912) {s : State} {p : List Byte}  (hP : P s) : P (putImage s p).1 := by
  have k536870912 : Keep P 536870912 := K.sub rfl
  unfold putImage
  repeat' (first
    | with_reducible assumption
    | (extract_lets +onlyGivenNames s'; first | (refine (fun (hs' : P s') => ?_) ?_; clear_value s'; rotate_left; subst s') | clear_value s' | skip)
    | (with_reducible apply putFlash_keeps k536870912)
    | split
    | dsimp -zeta only)
theorem runFwWrite_keeps (K : Keep P 536870920) {s : State} {i : Nat} {p : List Byte}  (hP : P s) : OptKeeps P (runFwWrite s i p) := by
  have k0 : Keep P 0 := K.sub rfl
  have k8 : Keep P 8 := K.sub rfl
  have k536870912 : Keep P 536870912 := K.sub rfl
  unfold runFwWrite
  repeat' (first
    | with_reducible assumption
    | intro _
    | (extract_lets +onlyGivenNames s'; first | (refine (fun (hs' : P s') => ?_) ?_; clear_value s'; rotate_left; subst s') | (refine (fun (hs' : P s'.1) => ?_) ?_; clear_value s'; rotate_left; subst s') | (refine (fun (hs' : OptKeeps P s') => ?_) ?_; clear_value s'; rotate_left; subst s') | clear_value s' | skip)
    | (with_reducible apply answer_keeps k0)
    | (with_reducible apply putImage_keeps k536870912)
    | (with_reducible apply rputF_keeps k8)
    | (with_reducible apply setFwLock_keeps k536870912)
    | split
    | (with_reducible refine keeps_ofFst (by assumption) ?_)
    | (with_reducible refine keeps_ofOpt (by assumption) ?_)
    | exact OptKeeps.none
    | (with_reducible apply OptKeeps.some)
    | dsimp -zeta only)
theorem activate_keeps (K : Keep P 536870920) {s : State} {b : Nat}  (hP : P s) : P (activate s b).1 := by
  have k8 : Keep P 8 := K.sub rfl
  unfold activate
  repeat' (first
    | with_reducible assumption
    | (with_reducible apply rputF_keeps k8)
    | split
    | ((with_reducible refine Keep.mk (f := 536870912) ?_ ?_ ?_); (exact K.sub rfl); rotate_left; (exact ⟨rfl, rfl, canon_same rfl, .same rfl, .same rfl, .same rfl, ⟨.inr rfl, .inr rfl, .inr rfl, .inr rfl, .inr rfl, .inl rfl, .inr rfl, .inr rfl⟩⟩); first | with_reducible assumption)
    | dsimp -zeta only)
theorem runFwActivate_keeps (K : Keep P 536870920) {s : State} {i : Nat} {p : List Byte}  (hP : P s) : OptKeeps P (runFwActivate s i p) := by
  have k0 : Keep P 0 := K.sub rfl
  have k8 : Keep P 8 := K.sub rfl
  have k536870912 : Keep P 536870912 := K.sub rfl
  have k536870920 : Keep P 536870920 := K.sub rfl
  unfold runFwActivate
  repeat' (first
    | with_reducible assumption
    | (extract_lets +onlyGivenNames s'; first | (refine (fun (hs' : P s') => ?_) ?_; clear_value s'; rotate_left; subst s') | (refine (fun (hs' : P s'.1) => ?_) ?_; clear_value s'; rotate_left; subst s') | (refine (fun (hs' : OptKeeps P s') => ?_) ?_; clear_value s'; rotate_left; subst s') | clear_value s' | skip)
    | (with_reducible apply activate_keeps k536870920)
    | (with_reducible apply rputF_keeps k8)
    | (with_reducible apply setFwLock_keeps k536870912)
    | (with_reducible apply answer_keeps k0)
    | split
    | (with_reducible refine keeps_ofFst (by assumption) ?_)
    | (with_reducible refine keeps_ofOpt (by assumption) ?_)
    | exact OptKeeps.none
    | (with_reducible apply OptKeeps.some)
    | dsimp -zeta only)
theorem clearFw_keeps (K : Keep P 2147483656) {m : CMsg} {r : State × Nat}  (hP : P r.1) : P (clearFw m r) := by
  have k2147483656 : Keep P 2147483656 := K.sub rfl
  unfold clearFw
  repeat' (first
    | with_reducible assumption
    | intro _
    | (extract_lets +onlyGivenNames s'; first | (refine (fun (hs' : P s') => ?_) ?_; clear_value s'; rotate_left; subst s') | (refine (fun (hs' : P s'.1) => ?_) ?_; clear_value s'; rotate_left; subst s') | (refine (fun (hs' : P s'.s) => ?_) ?_; clear_value s'; rotate_left; subst s') | (refine (fun (hs' : P s'.2) => ?_) ?_; clear_value s'; rotate_left; subst s') | (refine (fun (hs' : P s'.2.2) => ?_) ?_; clear_value s'; rotate_left; subst s') | (refine (fun (hs' : OptKeeps P s') => ?_) ?_; clear_value s'; rotate_left; subst s') | (refine (fun (hs' : ExKeeps P s') => ?_) ?_; clear_value s'; rotate_left; subst s') | (have _hs : State → _ := s'; clear _hs) | clear_value s' | skip)
    | (with_reducible apply clearRsp_keeps k2147483656)
    | split
    | (with_reducible refine keeps_ofFst (by assumption) ?_)
    | (with_reducible refine keeps_ofSnd (by assumption) ?_)
    | (with_reducible refine keeps_ofThird (by assumption) ?_)
    | (with_reducible refine keeps_ofOpt (by assumption) ?_)
    | (with_reducible refine keeps_ofEx (by assumption) ?_)
    | (with_reducible refine keeps_ofSome (by assumption) ?_)
    | dsimp -zeta only)
theorem execFwWrite_keeps (K : Keep P 2686451720) {m : CMsg} {s : State} {sOut : State} (hP : P s) (e : execFwWrite m s = .next sOut) : P sOut := by
  have k0 : Keep P 0 := K.sub rfl
  have k536870912 : Keep P 536870912 := K.sub rfl
  have k536870920 : Keep P 536870920 := K.sub rfl
  have k2147483656 : Keep P 2147483656 := K.sub rfl
  have k2149580808 : Keep P 2149580808 := K.sub rfl
  refine ok_keeps ?_ e
  repeat' (first
    | with_reducible assumption
    | intro _
    | (extract_lets +onlyGivenNames s'; first | (refine (fun (hs' : P s') => ?_) ?_; clear_value s'; rotate_left; subst s') | (refine (fun (hs' : P s'.1) => ?_) ?_; clear_value s'; rotate_left; subst s') | (refine (fun (hs' : P s'.s) => ?_) ?_; clear_value s'; rotate_left; subst s') | (refine (fun (hs' : P s'.2) => ?_) ?_; clear_value s'; rotate_left; subst s') | (refine (fun (hs' : P s'.2.2) => ?_) ?_; clear_value s'; rotate_left; subst s') | (refine (fun (hs' : OptKeeps P s') => ?_) ?_; clear_value s'; rotate_left; subst s') | (refine (fun (hs' : ExKeeps P s') => ?_) ?_; clear_value s'; rotate_left; subst s') | (have _hs : State → _ := s'; clear _hs) | clear_value s' | skip)
    | (with_reducible apply clearFw_keeps k2147483656)
    | (with_reducible apply putImage_keeps k536870912)
    | (with_reducible apply sealedReq_keeps k2149580808)
    | (with_reducible apply ownerReq_keeps k0)
    | (with_reducible apply whenReady_keeps k0)
    | (with_reducible apply runFwWrite_keeps k536870920)
    | split
    | (with_reducible refine keeps_ofFst (by assumption) ?_)
    | (with_reducible refine keeps_ofSnd (by assumption) ?_)
    | (with_reducible refine keeps_ofThird (by assumption) ?_)
    | (with_reducible refine keeps_ofOpt (by assumption) ?_)
    | (with_reducible refine keeps_ofEx (by assumption) ?_)
    | (with_reducible refine keeps_ofSome (by assumption) ?_)
    | dsimp -zeta only)
theorem execFwActivate_keeps (K : Keep P 2686451720) {m : CMsg} {s : State} {sOut : State} (hP : P s) (e : execFwActivate m s = .next sOut) : P sOut := by
  have k0 : Keep P 0 := K.sub rfl
  have k536870920 : Keep P 536870920 := K.sub rfl
  have k2147483656 : Keep P 2147483656 := K.sub rfl
  have k2149580808 : Keep P 2149580808 := K.sub rfl
  refine ok_keeps ?_ e
  repeat' (first
    | with_reducible assumption
    | intro _
    | (extract_lets +onlyGivenNames s'; first | (refine (fun (hs' : P s') => ?_) ?_; clear_value s'; rotate_left; subst s') | (refine (fun (hs' : P s'.1) => ?_) ?_; clear_value s'; rotate_left; subst s') | (refine (fun (hs' : P s'.s) => ?_) ?_; clear_value s'; rotate_left; subst s') | (refine (fun (hs' : P s'.2) => ?_) ?_; clear_value s'; rotate_left; subst s') | (refine (fun (hs' : P s'.2.2) => ?_) ?_; clear_value s'; rotate_left; subst s') | (refine (fun (hs' : OptKeeps P s') => ?_) ?_; clear_value s'; rotate_left; subst s') | (refine (fun (hs' : ExKeeps P s') => ?_) ?_; clear_value s'; rotate_left; subst s') | (have _hs : State → _ := s'; clear _hs) | clear_value s' | skip)
    | (with_reducible apply clearFw_keeps k2147483656)
    | (with_reducible apply activate_keeps k536870920)
    | (with_reducible apply sealedReq_keeps k2149580808)
    | (with_reducible apply ownerReq_keeps k0)
    | (with_reducible apply whenReady_keeps k0)
    | (with_reducible apply runFwActivate_keeps k536870920)
    | split
    | (with_reducible refine keeps_ofFst (by assumption) ?_)
    | (with_reducible refine keeps_ofSnd (by assumption) ?_)
    | (with_reducible refine keeps_ofThird (by assumption) ?_)
    | (with_reducible refine keeps_ofOpt (by assumption) ?_)
    | (with_reducible refine keeps_ofEx (by assumption) ?_)
    | (with_reducible refine keeps_ofSome (by assumption) ?_)
    | dsimp -zeta only)
theorem runFwCommit_keeps (K : Keep P 536870920) {s : State} {u0 : Nat} {p : List Byte}  (hP : P s) : OptKeeps P (runFwCommit s u0 p) := by
  have k0 : Keep P 0 := K.sub rfl
  have k8 : Keep P 8 := K.sub rfl
  unfold runFwCommit
  repeat' (first
    | with_reducible assumption
    | (extract_lets +onlyGivenNames s'; first | (refine (fun (hs' : P s') => ?_) ?_; clear_value s'; rotate_left; subst s') | (refine (fun (hs' : OptKeeps P s') => ?_) ?_; clear_value s'; rotate_left; subst s') | clear_value s' | skip)
    | (with_reducible apply answer_keeps k0)
    | (with_reducible apply rputBit_keeps k8)
    | (with_reducible apply rputF_keeps k8)
    | split
    | ((with_reducible refine Keep.mk (f := 536870912) ?_ ?_ ?_); (exact K.sub rfl); rotate_left; (exact ⟨rfl, rfl, canon_same rfl, .same rfl, .same rfl, .same rfl, ⟨.inr rfl, .inr rfl, .inr rfl, .inr rfl, .inr rfl, .inl rfl, .inr rfl, .inr rfl⟩⟩); first | with_reducible assumption | (with_reducible refine keeps_ofOpt (by assumption) ?_))
    | (with_reducible refine keeps_ofOpt (by assumption) ?_)
    | exact OptKeeps.none
    | (with_reducible apply OptKeeps.some)
    | dsimp -zeta only)
theorem execFwCommit_keeps (K : Keep P 2686451720) {m : CMsg} {s : State} {sOut : State} (hP : P s) (e : execFwCommit m s = .next sOut) : P sOut := by
  have k0 : Keep P 0 := K.sub rfl
  have k536870920 : Keep P 536870920 := K.sub rfl
  have k2149580808 : Keep P 2149580808 := K.sub rfl
  refine ok_keeps ?_ e
  repeat' (first
    | with_reducible assumption
    | intro _
    | (extract_lets +onlyGivenNames s'; first | (refine (fun (hs' : P s') => ?_) ?_; clear_value s'; rotate_left; subst s') | (refine (fun (hs' : P s'.1) => ?_) ?_; clear_value s'; rotate_left; subst s') | (refine (fun (hs' : P s'.s) => ?_) ?_; clear_value s'; rotate_left; subst s') | (refine (fun (hs' : P s'.2) => ?_) ?_; clear_value s'; rotate_left; subst s') | (refine (fun (hs' : P s'.2.2) => ?_) ?_; clear_value s'; rotate_left; subst s') | (refine (fun (hs' : OptKeeps P s') => ?_) ?_; clear_value s'; rotate_left; subst s') | (refine (fun (hs' : ExKeeps P s') => ?_) ?_; clear_value s'; rotate_left; subst s') | (have _hs : State → _ := s'; clear _hs) | clear_value s' | skip)
    | (with_reducible apply sealedReq_keeps k2149580808)
    | (with_reducible apply ownerReq_keeps k0)
    | (with_reducible apply whenReady_keeps k0)
    | (with_reducible apply runFwCommit_keeps k536870920)
    | split
    | (with_reducible refine keeps_ofFst (by assumption) ?_)
    | (with_reducible refine keeps_ofSnd (by assumption) ?_)
    | (with_reducible refine keeps_ofThird (by assumption) ?_)
    | (with_reducible refine keeps_ofOpt (by assumption) ?_)
    | (with_reducible refine keeps_ofEx (by assumption) ?_)
    | (with_reducible refine keeps_ofSome (by assumption) ?_)
    | dsimp -zeta only)
theorem runClaim_keeps (K : Keep P 536870920) {s : State} {u0 : Nat} {x : Sess} {p : List Byte}  (hP : P s) : OptKeeps P (runClaim s u0 x p) := by
  have k0 : Keep P 0 := K.sub rfl
  have k8 : Keep P 8 := K.sub rfl
  unfold runClaim
  repeat' (first
    | with_reducible assumption
    | (extract_lets +onlyGivenNames s'; first | (refine (fun (hs' : P s') => ?_) ?_; clear_value s'; rotate_left; subst s') | (refine (fun (hs' : OptKeeps P s') => ?_) ?_; clear_value s'; rotate_left; subst s') | clear_value s' | skip)
    | (with_reducible apply answer_keeps k0)
    | (with_reducible apply rinc_keeps k8)
    | split
    | ((with_reducible refine Keep.mk (f := 536870912) ?_ ?_ ?_); (exact K.sub rfl); rotate_left; (exact ⟨rfl, rfl, canon_same rfl, .same rfl, .same rfl, .same rfl, ⟨.inr rfl, .inr rfl, .inr rfl, .inr rfl, .inr rfl, .inl rfl, .inr rfl, .inr rfl⟩⟩); first | with_reducible assumption | (with_reducible refine keeps_ofOpt (by assumption) ?_))
    | (with_reducible refine keeps_ofOpt (by assumption) ?_)
    | exact OptKeeps.none
    | (with_reducible apply OptKeeps.some)
    | dsimp -zeta only)
theorem execClaim_keeps (K : Keep P 2686451720) {m : CMsg} {s : State} {sOut : State} (hP : P s) (e : execClaim m s = .next sOut) : P sOut := by
  have k536870920 : Keep P 536870920 := K.sub rfl
  have k2149580808 : Keep P 2149580808 := K.sub rfl
  refine ok_keeps ?_ e
  repeat' (first
    | with_reducible assumption
    | intro _
    | (extract_lets +onlyGivenNames s'; first | (refine (fun (hs' : P s') => ?_) ?_; clear_value s'; rotate_left; subst s') | (refine (fun (hs' : P s'.1) => ?_) ?_; clear_value s'; rotate_left; subst s') | (refine (fun (hs' : P s'.s) => ?_) ?_; clear_value s'; rotate_left; subst s') | (refine (fun (hs' : P s'.2) => ?_) ?_; clear_value s'; rotate_left; subst s') | (refine (fun (hs' : P s'.2.2) => ?_) ?_; clear_value s'; rotate_left; subst s') | (refine (fun (hs' : OptKeeps P s') => ?_) ?_; clear_value s'; rotate_left; subst s') | (refine (fun (hs' : ExKeeps P s') => ?_) ?_; clear_value s'; rotate_left; subst s') | (have _hs : State → _ := s'; clear _hs) | clear_value s' | skip)
    | (with_reducible apply sealedReq_keeps k2149580808)
    | (with_reducible apply runClaim_keeps k536870920)
    | split
    | (with_reducible refine keeps_ofFst (by assumption) ?_)
    | (with_reducible refine keeps_ofSnd (by assumption) ?_)
    | (with_reducible refine keeps_ofThird (by assumption) ?_)
    | (with_reducible refine keeps_ofOpt (by assumption) ?_)
    | (with_reducible refine keeps_ofEx (by assumption) ?_)
    | (with_reducible refine keeps_ofSome (by assumption) ?_)
    | dsimp -zeta only)
theorem effClose_keeps (K : Keep P 2686451720) {s : State} {m : CMsg}  (hP : P s) : P (effClose s m) := by
  have k0 : Keep P 0 := K.sub rfl
  have k538968072 : Keep P 538968072 := K.sub rfl
  have k2149580808 : Keep P 2149580808 := K.sub rfl
  unfold effClose
  repeat' (first
    | with_reducible assumption
    | intro _
    | (extract_lets +onlyGivenNames s'; first | (refine (fun (hs' : P s') => ?_) ?_; clear_value s'; rotate_left; subst s') | (refine (fun (hs' : OptKeeps P s') => ?_) ?_; clear_value s'; rotate_left; subst s') | clear_value s' | skip)
    | (with_reducible apply sealedReq_keeps k2149580808)
    | (with_reducible apply answer_keeps k0)
    | (with_reducible apply closeSess_keeps k538968072)
    | split
    | (with_reducible refine keeps_ofOpt (by assumption) ?_)
    | dsimp -zeta only)
theorem execClose_keeps (K : Keep P 2686451720) {m : CMsg} {s : State} {sOut : State} (hP : P s) (e : execClose m s = .next sOut) : P sOut := ok_keeps (effClose_keeps (K.sub rfl) hP) e
theorem execKeepalive_keeps (K : Keep P 2149580808) {m : CMsg} {s : State} {sOut : State} (hP : P s) (e : execKeepalive m s = .next sOut) : P sOut := by
  have k0 : Keep P 0 := K.sub rfl
  have k2149580808 : Keep P 2149580808 := K.sub rfl
  refine ok_keeps ?_ e
  repeat' (first
    | with_reducible assumption
    | intro _
    | (with_reducible apply sealedReq_keeps k2149580808)
    | (with_reducible apply answer_keeps k0)
    | (with_reducible refine keeps_ofOpt (by assumption) ?_)
    | dsimp -zeta only)
theorem effIdle_keeps (K : Keep P 538968072) {s : State} {i : Nat}  (hP : P s) : P (effIdle s i) := by
  have k538968072 : Keep P 538968072 := K.sub rfl
  unfold effIdle
  repeat' (first
    | with_reducible assumption
    | (extract_lets +onlyGivenNames s'; first | (refine (fun (hs' : P s') => ?_) ?_; clear_value s'; rotate_left; subst s') | clear_value s' | skip)
    | (with_reducible apply closeSess_keeps k538968072)
    | split)
theorem execSessionIdleTimeout_keeps (K : Keep P 538968072) {sess : Nat} {s : State} {sOut : State} (hP : P s) (e : execSessionIdleTimeout sess s = .next sOut) : P sOut := ok_keeps (effIdle_keeps (K.sub rfl) hP) e

end Sys2Proof.Machine
end

