-- ==== Sys2Proof/Laws/KeepEth.lean ====
section
/-! SUPPORT. What each operation of Machine/Eth.lean may write (Touch): a property that stands under changes of those areas stands after the
operation. The mask is the union of the areas written. -/

set_option linter.unreachableTactic false
set_option linter.unusedTactic false
set_option linter.unusedVariables false
set_option linter.tactic.unusedName false

namespace Sys2Proof.Machine

variable {P : State → Prop}

theorem ethCount_keeps (K : Keep P 1073741832) {s : State} {port cls len : Nat}  (hP : P s) : P (ethCount s port cls len) := by
  have k8 : Keep P 8 := K.sub rfl
  unfold ethCount
  repeat' (first
    | with_reducible assumption
    | intro _
    | (extract_lets +onlyGivenNames s'; first | (refine (fun (hs' : P s') => ?_) ?_; clear_value s'; rotate_left; subst s') | clear_value s' | skip)
    | (with_reducible apply rinc_keeps k8)
    | ((with_reducible refine Keep.mk (f := 1073741824) ?_ ?_ ?_); (exact K.sub rfl); rotate_left; (exact ⟨rfl, rfl, canon_of id id id id id id id id id id id id id id id id id (by first | with_reducible exact id | exact smWf_smSet _ _ _ _) id id id id id, .same rfl, .same rfl, .same rfl, ⟨.inr rfl, .inr rfl, .inr rfl, .inr rfl, .inr rfl, .inr rfl, .inl rfl, .inr rfl⟩⟩); first | with_reducible assumption))
theorem effFrame_keeps (K : Keep P 1073741832) {s : State} {port : Nat} {c : EthClass} {len : Nat} {frag : Bool}  (hP : P s) : P (effFrame s port c len frag) := by
  have k8 : Keep P 8 := K.sub rfl
  have k1073741832 : Keep P 1073741832 := K.sub rfl
  unfold effFrame
  repeat' (first
    | with_reducible assumption
    | intro _
    | (extract_lets +onlyGivenNames s'; first | (refine (fun (hs' : P s') => ?_) ?_; clear_value s'; rotate_left; subst s') | clear_value s' | skip)
    | (with_reducible apply rinc_keeps k8)
    | (with_reducible apply ethCount_keeps k1073741832)
    | split
    | ((with_reducible refine Keep.mk (f := 1073741824) ?_ ?_ ?_); (exact K.sub rfl); rotate_left; (exact ⟨rfl, rfl, canon_of id id id id id id id id id id id id id id id id id id (by first | with_reducible exact id | exact smWf_smSet _ _ _ _) id id id id, .same rfl, .same rfl, .same rfl, ⟨.inr rfl, .inr rfl, .inr rfl, .inr rfl, .inr rfl, .inr rfl, .inl rfl, .inr rfl⟩⟩); first | with_reducible assumption))
theorem execEthFrameReceive_keeps (K : Keep P 1073741832) {port : Nat} {cls : EthClass} {len : Nat} {fragment : Bool} {s : State} {sOut : State} (hP : P s) (e : execEthFrameReceive port cls len fragment s = .next sOut) : P sOut := ok_keeps (effFrame_keeps (K.sub rfl) hP) e
theorem advertise_keeps (K : Keep P 2147483656) {s : State} {target port : Nat}  (hP : P s) : P (advertise s target port) := by
  have k8 : Keep P 8 := K.sub rfl
  have k2147483648 : Keep P 2147483648 := K.sub rfl
  unfold advertise
  repeat' (first
    | with_reducible assumption
    | (extract_lets +onlyGivenNames s'; first | (refine (fun (hs' : P s') => ?_) ?_; clear_value s'; rotate_left; subst s') | clear_value s' | skip)
    | (with_reducible apply emit_keeps k2147483648)
    | (with_reducible apply ethSent_keeps k8)
    | split)
theorem execNeighbourSolicitation_keeps (K : Keep P 2147483656) {target : Nat} {s : State} {sOut : State} (hP : P s) (e : execNeighbourSolicitation target s = .next sOut) : P sOut := by
  have k2147483656 : Keep P 2147483656 := K.sub rfl
  refine ok_keeps ?_ e
  repeat' (first
    | with_reducible assumption
    | intro _
    | (extract_lets +onlyGivenNames s'; first | (refine (fun (hs' : P s') => ?_) ?_; clear_value s'; rotate_left; subst s') | (refine (fun (hs' : P s'.1) => ?_) ?_; clear_value s'; rotate_left; subst s') | (refine (fun (hs' : P s'.s) => ?_) ?_; clear_value s'; rotate_left; subst s') | (refine (fun (hs' : P s'.2) => ?_) ?_; clear_value s'; rotate_left; subst s') | (refine (fun (hs' : P s'.2.2) => ?_) ?_; clear_value s'; rotate_left; subst s') | (refine (fun (hs' : OptKeeps P s') => ?_) ?_; clear_value s'; rotate_left; subst s') | (refine (fun (hs' : ExKeeps P s') => ?_) ?_; clear_value s'; rotate_left; subst s') | (have _hs : State → _ := s'; clear _hs) | clear_value s' | skip)
    | (with_reducible apply advertise_keeps k2147483656)
    | split
    | (with_reducible refine keeps_ofFst (by assumption) ?_)
    | (with_reducible refine keeps_ofSnd (by assumption) ?_)
    | (with_reducible refine keeps_ofThird (by assumption) ?_)
    | (with_reducible refine keeps_ofOpt (by assumption) ?_)
    | (with_reducible refine keeps_ofEx (by assumption) ?_)
    | (with_reducible refine keeps_ofSome (by assumption) ?_)
    | dsimp -zeta only)
theorem effEthLink_keeps (K : Keep P 2149597386) {s : State} {port : Nat} {up : Bool}  (hP : P s) : P (effEthLink s port up) := by
  have k8 : Keep P 8 := K.sub rfl
  have k2149597386 : Keep P 2149597386 := K.sub rfl
  unfold effEthLink
  repeat' (first
    | with_reducible assumption
    | (with_reducible apply setCode_keeps k2149597386)
    | (with_reducible apply rputBit_keeps k8)
    | split)
theorem execEthLink_keeps (K : Keep P 2149597386) {port : Nat} {up : Bool} {s : State} {sOut : State} (hP : P s) (e : execEthLink port up s = .next sOut) : P sOut := ok_keeps (effEthLink_keeps (K.sub rfl) hP) e

end Sys2Proof.Machine
end

