-- ==== Sys2Proof/Laws/KeepStep.lean ====
section
/-! SUPPORT. What each operation of Machine/Step.lean may write (Touch): a property that stands under changes of those areas stands after the
operation. The mask is the union of the areas written. -/

set_option linter.unreachableTactic false
set_option linter.unusedTactic false
set_option linter.unusedVariables false
set_option linter.tactic.unusedName false

namespace Sys2Proof.Machine

variable {P : State → Prop}

theorem idle_keeps (K : Keep P 1073741825) {s : State}  (hP : P s) : P (idle s) := tickNs_keeps (K.sub rfl) hP

end Sys2Proof.Machine
end

