-- ==== Sys2Proof/Laws/Memory.lean ====
section
/-! SUPPORT. What a byte of memory reads as after a write of bytes as they stand: the bytes written, and every other byte as before. -/

namespace Sys2Proof.Machine

theorem cut_has_other (z : Undef) (a n x : Nat) (hx : x < a ∨ a + n ≤ x) :
    ((Undef.cut a n z).find? (fun y => y.has x)).map (·.n) = if z.has x then some z.n else none := by
  by_cases hz : z.lo ≤ x ∧ x < z.lo + z.size
  · rw [if_pos (by simpa [Undef.has] using hz)]
    unfold Undef.cut
    split
    · simp [Undef.has, hz]
    · split <;> split <;> rcases hx with hx | hx <;> simp_all [Undef.has, List.find?_cons] <;> (try (repeat' split)) <;> (try simp_all) <;> (try omega)
  · rw [if_neg (by simpa [Undef.has] using hz)]
    unfold Undef.cut
    split
    · simp [Undef.has]; omega
    · split <;> split <;> simp_all [Undef.has] <;> omega

theorem cut_has_inside (z : Undef) (a n x : Nat) (hx : a ≤ x ∧ x < a + n) : (Undef.cut a n z).find? (fun y => y.has x) = none := by
  unfold Undef.cut
  split
  · simp [Undef.has]; omega
  · split <;> split <;> simp [Undef.has] <;> omega

theorem find_cut_other (us : List Undef) (a n x : Nat) (hx : x < a ∨ a + n ≤ x) :
    ((us.flatMap (Undef.cut a n)).find? (fun y => y.has x)).map (·.n) = (us.find? (fun y => y.has x)).map (·.n) := by
  induction us with
  | nil => rfl
  | cons z r ih =>
    have h := cut_has_other z a n x hx
    rw [List.flatMap_cons, List.find?_append, List.find?_cons]
    cases hz : z.has x with
    | true => rw [hz] at h; simp only [if_true] at h; cases hf : (Undef.cut a n z).find? (fun y => y.has x) <;> simp_all
    | false => rw [hz] at h; cases hf : (Undef.cut a n z).find? (fun y => y.has x) <;> simp_all

theorem find_cut_inside (us : List Undef) (a n x : Nat) (hx : a ≤ x ∧ x < a + n) : (us.flatMap (Undef.cut a n)).find? (fun y => y.has x) = none := by
  induction us with
  | nil => rfl
  | cons z r ih => rw [List.flatMap_cons, List.find?_append, cut_has_inside z a n x hx, ih]; rfl

/-- A byte as its undefined range and the memory give it. -/
theorem rdByte_eq (s : State) (x : Nat) :
    rdByte s x = (match (s.undef.find? (fun z => z.has x)).map (·.n) with | some n => Config.freeByte n x | none => memByte s.mem x) := by
  unfold rdByte; cases s.undef.find? (fun z => z.has x) <;> rfl

/-- A write leaves every other byte as it was. -/
theorem rdByte_putBytes_other (s : State) (a : Nat) (b : List Byte) (x : Nat) (hx : x < a ∨ a + b.length ≤ x) :
    rdByte (putBytes s a b) x = rdByte s x := by
  rw [rdByte_eq, rdByte_eq]
  simp only [putBytes, find_cut_other _ _ _ _ hx, memByte_putBytes_other _ _ _ _ hx]

/-- A byte written reads as written. -/
theorem rdByte_putBytes (s : State) (a : Nat) (b : List Byte) (i : Nat) (h : i < b.length) : rdByte (putBytes s a b) (a + i) = b[i] := by
  rw [rdByte_eq]
  simp only [putBytes, find_cut_inside _ a b.length (a + i) (by omega)]
  exact memByte_putBytes _ _ _ _ h

end Sys2Proof.Machine
end

