-- ==== Sys2Proof/Laws/Runs.lean ====
section
/-! SUPPORT. What shared operations answer on their main path: the one equation that a statement about a command needs of each. -/

namespace Sys2Proof.Machine

/-- A message accepted and opened takes its effect with its peer. -/
theorem onMsg_run {s : State} {m : AMsg} {typ p : Nat} {f : State → Nat → State} (h1 : sxuUp s = true) (h2 : m.typ = typ) (h3 : s.sxRx.contains m = true)
    (h4 : msgPeer s m = some p) : onMsg s m typ f = f { s with sxRx := s.sxRx.erase m } p := by
  unfold onMsg
  rw [if_pos ⟨h1, h2, h3⟩, h4]
/-- A good frame that is no repeat takes its effect once counted. -/
theorem accept_run {s u : State} {b : List Byte} (h1 : frameGood b = true) (h2 : brdOn s = true) (h4 : s.brdLast.contains (leAt b 3 1, leAt b 2 1) = false)
    (hu : u = rputN (rinc { s with brdLast := s.brdLast.filter (fun x => x.1 != leAt b 3 1) ++ [(leAt b 3 1, leAt b 2 1)] } rBRD_RX_OK 1) rBRD_LAST (leAt b 3 1 * 2 ^ 24 + leAt b 2 1 * 65536)) :
    acceptFrame s b = frameEffect u b := by
  unfold acceptFrame
  simp only [h1, h2, h4, ← hu]; rfl
/-- A sealed request whose number is the next one runs in its session. -/
theorem sealed_run {s : State} {m : CMsg} {typ : Nat} {p : List Byte} {run : State → Nat → Sess → List Byte → Option (State × Option Rsp)} (h1 : m.typ = typ) (h2 : ctrlHeard s m = true)
    (h3 : inRecovery s = false) (h4 : m.sealed = true) (h5 : ofSession s m 2 = true) (h6 : ctrlOpen (getSess s (m.session % 16)) m = some p)
    (h7 : m.seq = (getSess s (m.session % 16)).seqIn + 1) : sealedReq s m typ run = match run s (m.session % 16) (getSess s (m.session % 16)) p with
      | none => s
      | some (t, r) => finishReq t (m.session % 16) m r := by
  have h8 : m.seq ≠ (getSess s (m.session % 16)).seqIn := by rw [h7]; bv_omega
  have h9 : ¬ (m.typ ≠ typ ∨ (!ctrlHeard s m) = true) := by simp [h1, h2]
  have h10 : ¬ ((!m.sealed) = true ∨ (!ofSession s m 2) = true) := by simp [h4, h5]
  unfold sealedReq
  simp only [if_neg h9, h3, Bool.false_eq_true, if_false, if_neg h10, h6]
  refine (if_neg h8).trans ((if_neg (fun h => h h7)).trans ?_)
  cases run s (m.session % 16) (getSess s (m.session % 16)) p <;> rfl
/-- Outside RECOVERY no clear request is heard. -/
theorem notClear {s : State} {m : CMsg} {t : Nat} (h : inRecovery s = false) : clearHeard s m t = false := by simp [clearHeard, h]
/-- An open window is present and not held in reset. -/
theorem held_of_open {s : State} {w : Nat} (h : winOpen s w = true) : winHeld s w = false ∧ winPresent s.order w = true := by
  unfold winOpen at h
  rw [Bool.and_eq_true] at h
  exact ⟨by simpa using h.2, h.1⟩
/-- No flags raise no error. -/
theorem flagBad_zero (s : State) (r : JobRef) : flagBad s r 0 = none := by cases r <;> simp [flagBad]
/-- No flags change no queue. -/
theorem orFlags_zero (s : State) (r : JobRef) : orFlags s r 0 = s := by
  cases r
  all_goals simp only [orFlags, if_true]
  all_goals (first | rfl | (split <;> rfl))
/-- Without correctable words nothing is corrected. -/
theorem correctWhere_none {s : State} (p : Nat → Bool) (h : s.weak = []) : correctWhere s p = s := by
  simp only [correctWhere, correctMark, h, List.filter_nil, List.foldl_nil, postMarks]
  rw [← h]
/-- Without bad or correctable words a write cures none. -/
theorem cureWords_none {s : State} (a n : Nat) (h : s.weak = []) (hb : s.badWords = []) : cureWords s a n = s := by
  simp only [cureWords, h, hb, List.filter_nil]
  rw [← h, ← hb]
/-- A fold whose every step leaves its start leaves it. -/
theorem foldl_same {α β : Type} {f : β → α → β} {b : β} : ∀ (l : List α), (∀ x ∈ l, f b x = b) → l.foldl f b = b
  | [], _ => rfl
  | x :: r, h => by rw [List.foldl_cons, h x (by simp)]; exact foldl_same r (fun y hy => h y (by simp [hy]))
/-- t is s but for the grants of the channels and banks. -/
def Granted (s t : State) : Prop := ∃ c b, t = { s with chans := c, banks := b }
theorem Granted.refl (s : State) : Granted s s := ⟨s.chans, s.banks, rfl⟩
theorem Granted.trans {s t u : State} (h : Granted s t) (k : Granted t u) : Granted s u := by
  obtain ⟨c, b, rfl⟩ := h
  obtain ⟨c', b', rfl⟩ := k
  exact ⟨c', b', rfl⟩
theorem Granted.foldl {s : State} {f : State → Nat → State} (hf : ∀ s i, Granted s (f s i)) (l : List Nat) : Granted s (l.foldl f s) := by
  induction l generalizing s with
  | nil => exact .refl s
  | cons i r ih => exact (hf s i).trans ih
/-- An access takes grants, and nothing else. -/
theorem accessMem_granted (s : State) (fetch : Bool) (m : MemSource) (a n : Nat) : Granted s (accessMem s fetch m a n) := by
  have hb : ∀ (s : State) (i : Nat), Granted s (burst s fetch m i) := by
    intro s i
    cases m <;> simp only [burst] <;> (try split) <;> exact ⟨_, _, rfl⟩
  have hg : ∀ (s : State) (a n : Nat), Granted s (bursts s fetch m a n) := by
    intro s a n
    simp only [bursts]
    split
    · exact ⟨_, _, rfl⟩
    · exact Granted.foldl (fun s i => hb s _) _
  have hf : ∀ (f : Nat) (s : State) (a n : Nat), Granted s (accessFrom fetch m f s a n) := by
    intro f
    induction f with
    | zero => exact fun s _ _ => .refl s
    | succ f ih =>
      intro s a n
      simp only [accessFrom]
      split
      · exact .refl s
      · exact (hg s _ _).trans (ih _ _ _)
  exact hf _ _ _ _
/-- Outside Firn windows, with sound memory, a write is a plain write of its bytes, and takes its grants. -/
theorem storeBytes_sound {s : State} {m : MemSource} {a : Nat} {bs : List Byte} (h : memSound s = true) (hf : firnTouches s a bs.length = false) (hw : s.weak = []) :
    storeBytes s m a bs = (putBytes (accessMem s false m a bs.length) a bs, none) := by
  simp only [memSound, Bool.and_eq_true, List.isEmpty_iff, List.all_eq_true, Bool.not_eq_eq_eq_not, Bool.not_true] at h
  obtain ⟨hb, hr⟩ := h
  have hrf : regions.filter (fun r => frReady s r && meets a bs.length (frBase s r) (frLen s r)) = [] := by
    rw [List.filter_eq_nil_iff]; intro r hm; simp [hr r hm]
  have ht : touchedBlocks s a bs.length = [] := by simp [touchedBlocks, hrf]
  have hp : badPartly s a bs.length = none := by simp [badPartly, hb, ht]
  have hx : ∀ t, regions.foldl (rereadRegion a bs.length s) t = t :=
    fun t => foldl_same _ (fun n hn => by simp [rereadRegion, metaTouched, hr n hn])
  obtain ⟨c, b, hg⟩ := accessMem_granted s false m a bs.length
  simp only [storeBytes, storeContent, correctWhere_none _ hw, putStore, Content.size, hp, hf, Bool.false_eq_true, if_false, hx, putPlain, putMeta, hg]
  rw [cureWords_none _ _ (by exact hw) (by exact hb)]
/-- What comes from an ejection queue leaves it. -/
theorem fromEjection_some {s t : State} {op : Nat} {pk : Pkt} (h : fromEjection s op pk = some t) : pk.op = op ∧ ∃ q, t = { s with ejq := s.ejq.erase q } := by
  unfold fromEjection at h
  split at h
  · split at h
    · rename_i q _ hq
      simp only [Option.some.injEq] at h
      exact ⟨hq.2, q, h.symm⟩
    · cases h
  · cases h

/-- One loss raises one counter (R374). -/
theorem lossOf_loseOne {α : Type} [DecidableEq α] (l : Losses α) (x y : α) : lossOf (loseOne l y) x = if y = x then lossOf l x + 1 else lossOf l x := by
  have f : ∀ (c : List (α × Nat)) (n : Nat), ((c.filter (fun z => z.1 != y) ++ [(y, n)]).find? (fun z => z.1 == x)) =
      if y = x then some (y, n) else c.find? (fun z => z.1 == x) := by
    intro c n
    rw [List.find?_append]
    induction c with
    | nil => by_cases h : y = x <;> simp [h]
    | cons a c ih =>
      by_cases h1 : a.1 = y
      · by_cases h : y = x
        · simp_all
        · have : (a.1 == x) = false := by simp [h1, h]
          simp_all
      · by_cases h2 : a.1 = x
        · have : y ≠ x := fun e => h1 (h2.trans e.symm)
          simp_all
        · simp_all
  unfold loseOne
  dsimp only
  split <;> simp only [lossOf, f] <;> split <;> simp_all

end Sys2Proof.Machine
end

