-- ==== Sys2Proof/Laws/State.lean ====
section
/-! SUPPORT. The fields of State after one of the model's named updates: every field but the one written is as it was, and what was written reads as written. -/

namespace Sys2Proof.Machine

variable (s : State)

/-! ### rput -/

@[simp] theorem rput_order (off : Nat) (v : Word) : (rput s off v).order = s.order := rfl
@[simp] theorem rput_clock (off : Nat) (v : Word) : (rput s off v).clock = s.clock := rfl
@[simp] theorem rput_siteTime (off : Nat) (v : Word) : (rput s off v).siteTime = s.siteTime := rfl
@[simp] theorem rput_free (off : Nat) (v : Word) : (rput s off v).free = s.free := rfl
@[simp] theorem rput_pending (off : Nat) (v : Word) : (rput s off v).pending = s.pending := rfl
@[simp] theorem rput_resp (off : Nat) (v : Word) : (rput s off v).resp = s.resp := rfl
@[simp] theorem rput_shadow (off : Nat) (v : Word) : (rput s off v).shadow = s.shadow := rfl
@[simp] theorem rput_rdLatch (off : Nat) (v : Word) : (rput s off v).rdLatch = s.rdLatch := rfl
@[simp] theorem rput_wrLatch (off : Nat) (v : Word) : (rput s off v).wrLatch = s.wrLatch := rfl
@[simp] theorem rput_mem (off : Nat) (v : Word) : (rput s off v).mem = s.mem := rfl
@[simp] theorem rput_undef (off : Nat) (v : Word) : (rput s off v).undef = s.undef := rfl
@[simp] theorem rput_badWords (off : Nat) (v : Word) : (rput s off v).badWords = s.badWords := rfl
@[simp] theorem rput_weak (off : Nat) (v : Word) : (rput s off v).weak = s.weak := rfl
@[simp] theorem rput_stored (off : Nat) (v : Word) : (rput s off v).stored = s.stored := rfl
@[simp] theorem rput_chans (off : Nat) (v : Word) : (rput s off v).chans = s.chans := rfl
@[simp] theorem rput_banks (off : Nat) (v : Word) : (rput s off v).banks = s.banks := rfl
@[simp] theorem rput_queues (off : Nat) (v : Word) : (rput s off v).queues = s.queues := rfl
@[simp] theorem rput_jobs (off : Nat) (v : Word) : (rput s off v).jobs = s.jobs := rfl
@[simp] theorem rput_engines (off : Nat) (v : Word) : (rput s off v).engines = s.engines := rfl
@[simp] theorem rput_cores (off : Nat) (v : Word) : (rput s off v).cores = s.cores := rfl
@[simp] theorem rput_harts (off : Nat) (v : Word) : (rput s off v).harts = s.harts := rfl
@[simp] theorem rput_counters (off : Nat) (v : Word) : (rput s off v).counters = s.counters := rfl
@[simp] theorem rput_waits (off : Nat) (v : Word) : (rput s off v).waits = s.waits := rfl
@[simp] theorem rput_rwaits (off : Nat) (v : Word) : (rput s off v).rwaits = s.rwaits := rfl
@[simp] theorem rput_refusals (off : Nat) (v : Word) : (rput s off v).refusals = s.refusals := rfl
@[simp] theorem rput_nextWid (off : Nat) (v : Word) : (rput s off v).nextWid = s.nextWid := rfl
@[simp] theorem rput_errFifo (off : Nat) (v : Word) : (rput s off v).errFifo = s.errFifo := rfl
@[simp] theorem rput_slots (off : Nat) (v : Word) : (rput s off v).slots = s.slots := rfl
@[simp] theorem rput_inj (off : Nat) (v : Word) : (rput s off v).inj = s.inj := rfl
@[simp] theorem rput_held (off : Nat) (v : Word) : (rput s off v).held = s.held := rfl
@[simp] theorem rput_ejq (off : Nat) (v : Word) : (rput s off v).ejq = s.ejq := rfl
@[simp] theorem rput_hold (off : Nat) (v : Word) : (rput s off v).hold = s.hold := rfl
@[simp] theorem rput_due (off : Nat) (v : Word) : (rput s off v).due = s.due := rfl
@[simp] theorem rput_links (off : Nat) (v : Word) : (rput s off v).links = s.links := rfl
@[simp] theorem rput_resets (off : Nat) (v : Word) : (rput s off v).resets = s.resets := rfl
@[simp] theorem rput_poisoned (off : Nat) (v : Word) : (rput s off v).poisoned = s.poisoned := rfl
@[simp] theorem rput_sess (off : Nat) (v : Word) : (rput s off v).sess = s.sess := rfl
@[simp] theorem rput_hosts (off : Nat) (v : Word) : (rput s off v).hosts = s.hosts := rfl
@[simp] theorem rput_updRuns (off : Nat) (v : Word) : (rput s off v).updRuns = s.updRuns := rfl
@[simp] theorem rput_updLog (off : Nat) (v : Word) : (rput s off v).updLog = s.updLog := rfl
@[simp] theorem rput_colOps (off : Nat) (v : Word) : (rput s off v).colOps = s.colOps := rfl
@[simp] theorem rput_colHeld (off : Nat) (v : Word) : (rput s off v).colHeld = s.colHeld := rfl
@[simp] theorem rput_gLive (off : Nat) (v : Word) : (rput s off v).gLive = s.gLive := rfl
@[simp] theorem rput_roots (off : Nat) (v : Word) : (rput s off v).roots = s.roots := rfl
@[simp] theorem rput_root0Gone (off : Nat) (v : Word) : (rput s off v).root0Gone = s.root0Gone := rfl
@[simp] theorem rput_keySlots (off : Nat) (v : Word) : (rput s off v).keySlots = s.keySlots := rfl
@[simp] theorem rput_ctxs (off : Nat) (v : Word) : (rput s off v).ctxs = s.ctxs := rfl
@[simp] theorem rput_keysUsed (off : Nat) (v : Word) : (rput s off v).keysUsed = s.keysUsed := rfl
@[simp] theorem rput_cphQ (off : Nat) (v : Word) : (rput s off v).cphQ = s.cphQ := rfl
@[simp] theorem rput_cphWait (off : Nat) (v : Word) : (rput s off v).cphWait = s.cphWait := rfl
@[simp] theorem rput_sxuWait (off : Nat) (v : Word) : (rput s off v).sxuWait = s.sxuWait := rfl
@[simp] theorem rput_sxPeers (off : Nat) (v : Word) : (rput s off v).sxPeers = s.sxPeers := rfl
@[simp] theorem rput_sxRuns (off : Nat) (v : Word) : (rput s off v).sxRuns = s.sxRuns := rfl
@[simp] theorem rput_sxList (off : Nat) (v : Word) : (rput s off v).sxList = s.sxList := rfl
@[simp] theorem rput_sxOut (off : Nat) (v : Word) : (rput s off v).sxOut = s.sxOut := rfl
@[simp] theorem rput_sxIn (off : Nat) (v : Word) : (rput s off v).sxIn = s.sxIn := rfl
@[simp] theorem rput_sxRx (off : Nat) (v : Word) : (rput s off v).sxRx = s.sxRx := rfl
@[simp] theorem rput_sxJoin (off : Nat) (v : Word) : (rput s off v).sxJoin = s.sxJoin := rfl
@[simp] theorem rput_sxServe (off : Nat) (v : Word) : (rput s off v).sxServe = s.sxServe := rfl
@[simp] theorem rput_sxFrom (off : Nat) (v : Word) : (rput s off v).sxFrom = s.sxFrom := rfl
@[simp] theorem rput_sxSetRound (off : Nat) (v : Word) : (rput s off v).sxSetRound = s.sxSetRound := rfl
@[simp] theorem rput_sxOpened (off : Nat) (v : Word) : (rput s off v).sxOpened = s.sxOpened := rfl
@[simp] theorem rput_sxProbed (off : Nat) (v : Word) : (rput s off v).sxProbed = s.sxProbed := rfl
@[simp] theorem rput_sxTurn (off : Nat) (v : Word) : (rput s off v).sxTurn = s.sxTurn := rfl
@[simp] theorem rput_time (off : Nat) (v : Word) : (rput s off v).time = s.time := rfl
@[simp] theorem rput_gov (off : Nat) (v : Word) : (rput s off v).gov = s.gov := rfl
@[simp] theorem rput_brdLast (off : Nat) (v : Word) : (rput s off v).brdLast = s.brdLast := rfl
@[simp] theorem rput_pins (off : Nat) (v : Word) : (rput s off v).pins = s.pins := rfl
@[simp] theorem rput_fru (off : Nat) (v : Word) : (rput s off v).fru = s.fru := rfl
@[simp] theorem rput_flash (off : Nat) (v : Word) : (rput s off v).flash = s.flash := rfl
@[simp] theorem rput_rot (off : Nat) (v : Word) : (rput s off v).rot = s.rot := rfl
@[simp] theorem rput_openHeld (off : Nat) (v : Word) : (rput s off v).openHeld = s.openHeld := rfl
@[simp] theorem rput_fwLock (off : Nat) (v : Word) : (rput s off v).fwLock = s.fwLock := rfl
@[simp] theorem rput_idKey (off : Nat) (v : Word) : (rput s off v).idKey = s.idKey := rfl
@[simp] theorem rput_fwMem (off : Nat) (v : Word) : (rput s off v).fwMem = s.fwMem := rfl
@[simp] theorem rput_fillDue (off : Nat) (v : Word) : (rput s off v).fillDue = s.fillDue := rfl
@[simp] theorem rput_fabricAt (off : Nat) (v : Word) : (rput s off v).fabricAt = s.fabricAt := rfl
@[simp] theorem rput_checkSigs (off : Nat) (v : Word) : (rput s off v).checkSigs = s.checkSigs := rfl
@[simp] theorem rput_ethRem (off : Nat) (v : Word) : (rput s off v).ethRem = s.ethRem := rfl
@[simp] theorem rput_ethBuf (off : Nat) (v : Word) : (rput s off v).ethBuf = s.ethBuf := rfl
@[simp] theorem rput_outs (off : Nat) (v : Word) : (rput s off v).outs = s.outs := rfl

/-! ### shPut -/

@[simp] theorem shPut_order (off : Nat) (v : Word) : (shPut s off v).order = s.order := rfl
@[simp] theorem shPut_clock (off : Nat) (v : Word) : (shPut s off v).clock = s.clock := rfl
@[simp] theorem shPut_siteTime (off : Nat) (v : Word) : (shPut s off v).siteTime = s.siteTime := rfl
@[simp] theorem shPut_free (off : Nat) (v : Word) : (shPut s off v).free = s.free := rfl
@[simp] theorem shPut_pending (off : Nat) (v : Word) : (shPut s off v).pending = s.pending := rfl
@[simp] theorem shPut_resp (off : Nat) (v : Word) : (shPut s off v).resp = s.resp := rfl
@[simp] theorem shPut_regs (off : Nat) (v : Word) : (shPut s off v).regs = s.regs := rfl
@[simp] theorem shPut_rdLatch (off : Nat) (v : Word) : (shPut s off v).rdLatch = s.rdLatch := rfl
@[simp] theorem shPut_wrLatch (off : Nat) (v : Word) : (shPut s off v).wrLatch = s.wrLatch := rfl
@[simp] theorem shPut_mem (off : Nat) (v : Word) : (shPut s off v).mem = s.mem := rfl
@[simp] theorem shPut_undef (off : Nat) (v : Word) : (shPut s off v).undef = s.undef := rfl
@[simp] theorem shPut_badWords (off : Nat) (v : Word) : (shPut s off v).badWords = s.badWords := rfl
@[simp] theorem shPut_weak (off : Nat) (v : Word) : (shPut s off v).weak = s.weak := rfl
@[simp] theorem shPut_stored (off : Nat) (v : Word) : (shPut s off v).stored = s.stored := rfl
@[simp] theorem shPut_chans (off : Nat) (v : Word) : (shPut s off v).chans = s.chans := rfl
@[simp] theorem shPut_banks (off : Nat) (v : Word) : (shPut s off v).banks = s.banks := rfl
@[simp] theorem shPut_queues (off : Nat) (v : Word) : (shPut s off v).queues = s.queues := rfl
@[simp] theorem shPut_jobs (off : Nat) (v : Word) : (shPut s off v).jobs = s.jobs := rfl
@[simp] theorem shPut_engines (off : Nat) (v : Word) : (shPut s off v).engines = s.engines := rfl
@[simp] theorem shPut_cores (off : Nat) (v : Word) : (shPut s off v).cores = s.cores := rfl
@[simp] theorem shPut_harts (off : Nat) (v : Word) : (shPut s off v).harts = s.harts := rfl
@[simp] theorem shPut_counters (off : Nat) (v : Word) : (shPut s off v).counters = s.counters := rfl
@[simp] theorem shPut_waits (off : Nat) (v : Word) : (shPut s off v).waits = s.waits := rfl
@[simp] theorem shPut_rwaits (off : Nat) (v : Word) : (shPut s off v).rwaits = s.rwaits := rfl
@[simp] theorem shPut_refusals (off : Nat) (v : Word) : (shPut s off v).refusals = s.refusals := rfl
@[simp] theorem shPut_nextWid (off : Nat) (v : Word) : (shPut s off v).nextWid = s.nextWid := rfl
@[simp] theorem shPut_errFifo (off : Nat) (v : Word) : (shPut s off v).errFifo = s.errFifo := rfl
@[simp] theorem shPut_slots (off : Nat) (v : Word) : (shPut s off v).slots = s.slots := rfl
@[simp] theorem shPut_inj (off : Nat) (v : Word) : (shPut s off v).inj = s.inj := rfl
@[simp] theorem shPut_held (off : Nat) (v : Word) : (shPut s off v).held = s.held := rfl
@[simp] theorem shPut_ejq (off : Nat) (v : Word) : (shPut s off v).ejq = s.ejq := rfl
@[simp] theorem shPut_hold (off : Nat) (v : Word) : (shPut s off v).hold = s.hold := rfl
@[simp] theorem shPut_due (off : Nat) (v : Word) : (shPut s off v).due = s.due := rfl
@[simp] theorem shPut_links (off : Nat) (v : Word) : (shPut s off v).links = s.links := rfl
@[simp] theorem shPut_resets (off : Nat) (v : Word) : (shPut s off v).resets = s.resets := rfl
@[simp] theorem shPut_poisoned (off : Nat) (v : Word) : (shPut s off v).poisoned = s.poisoned := rfl
@[simp] theorem shPut_sess (off : Nat) (v : Word) : (shPut s off v).sess = s.sess := rfl
@[simp] theorem shPut_hosts (off : Nat) (v : Word) : (shPut s off v).hosts = s.hosts := rfl
@[simp] theorem shPut_updRuns (off : Nat) (v : Word) : (shPut s off v).updRuns = s.updRuns := rfl
@[simp] theorem shPut_updLog (off : Nat) (v : Word) : (shPut s off v).updLog = s.updLog := rfl
@[simp] theorem shPut_colOps (off : Nat) (v : Word) : (shPut s off v).colOps = s.colOps := rfl
@[simp] theorem shPut_colHeld (off : Nat) (v : Word) : (shPut s off v).colHeld = s.colHeld := rfl
@[simp] theorem shPut_gLive (off : Nat) (v : Word) : (shPut s off v).gLive = s.gLive := rfl
@[simp] theorem shPut_roots (off : Nat) (v : Word) : (shPut s off v).roots = s.roots := rfl
@[simp] theorem shPut_root0Gone (off : Nat) (v : Word) : (shPut s off v).root0Gone = s.root0Gone := rfl
@[simp] theorem shPut_keySlots (off : Nat) (v : Word) : (shPut s off v).keySlots = s.keySlots := rfl
@[simp] theorem shPut_ctxs (off : Nat) (v : Word) : (shPut s off v).ctxs = s.ctxs := rfl
@[simp] theorem shPut_keysUsed (off : Nat) (v : Word) : (shPut s off v).keysUsed = s.keysUsed := rfl
@[simp] theorem shPut_cphQ (off : Nat) (v : Word) : (shPut s off v).cphQ = s.cphQ := rfl
@[simp] theorem shPut_cphWait (off : Nat) (v : Word) : (shPut s off v).cphWait = s.cphWait := rfl
@[simp] theorem shPut_sxuWait (off : Nat) (v : Word) : (shPut s off v).sxuWait = s.sxuWait := rfl
@[simp] theorem shPut_sxPeers (off : Nat) (v : Word) : (shPut s off v).sxPeers = s.sxPeers := rfl
@[simp] theorem shPut_sxRuns (off : Nat) (v : Word) : (shPut s off v).sxRuns = s.sxRuns := rfl
@[simp] theorem shPut_sxList (off : Nat) (v : Word) : (shPut s off v).sxList = s.sxList := rfl
@[simp] theorem shPut_sxOut (off : Nat) (v : Word) : (shPut s off v).sxOut = s.sxOut := rfl
@[simp] theorem shPut_sxIn (off : Nat) (v : Word) : (shPut s off v).sxIn = s.sxIn := rfl
@[simp] theorem shPut_sxRx (off : Nat) (v : Word) : (shPut s off v).sxRx = s.sxRx := rfl
@[simp] theorem shPut_sxJoin (off : Nat) (v : Word) : (shPut s off v).sxJoin = s.sxJoin := rfl
@[simp] theorem shPut_sxServe (off : Nat) (v : Word) : (shPut s off v).sxServe = s.sxServe := rfl
@[simp] theorem shPut_sxFrom (off : Nat) (v : Word) : (shPut s off v).sxFrom = s.sxFrom := rfl
@[simp] theorem shPut_sxSetRound (off : Nat) (v : Word) : (shPut s off v).sxSetRound = s.sxSetRound := rfl
@[simp] theorem shPut_sxOpened (off : Nat) (v : Word) : (shPut s off v).sxOpened = s.sxOpened := rfl
@[simp] theorem shPut_sxProbed (off : Nat) (v : Word) : (shPut s off v).sxProbed = s.sxProbed := rfl
@[simp] theorem shPut_sxTurn (off : Nat) (v : Word) : (shPut s off v).sxTurn = s.sxTurn := rfl
@[simp] theorem shPut_time (off : Nat) (v : Word) : (shPut s off v).time = s.time := rfl
@[simp] theorem shPut_gov (off : Nat) (v : Word) : (shPut s off v).gov = s.gov := rfl
@[simp] theorem shPut_brdLast (off : Nat) (v : Word) : (shPut s off v).brdLast = s.brdLast := rfl
@[simp] theorem shPut_pins (off : Nat) (v : Word) : (shPut s off v).pins = s.pins := rfl
@[simp] theorem shPut_fru (off : Nat) (v : Word) : (shPut s off v).fru = s.fru := rfl
@[simp] theorem shPut_flash (off : Nat) (v : Word) : (shPut s off v).flash = s.flash := rfl
@[simp] theorem shPut_rot (off : Nat) (v : Word) : (shPut s off v).rot = s.rot := rfl
@[simp] theorem shPut_openHeld (off : Nat) (v : Word) : (shPut s off v).openHeld = s.openHeld := rfl
@[simp] theorem shPut_fwLock (off : Nat) (v : Word) : (shPut s off v).fwLock = s.fwLock := rfl
@[simp] theorem shPut_idKey (off : Nat) (v : Word) : (shPut s off v).idKey = s.idKey := rfl
@[simp] theorem shPut_fwMem (off : Nat) (v : Word) : (shPut s off v).fwMem = s.fwMem := rfl
@[simp] theorem shPut_fillDue (off : Nat) (v : Word) : (shPut s off v).fillDue = s.fillDue := rfl
@[simp] theorem shPut_fabricAt (off : Nat) (v : Word) : (shPut s off v).fabricAt = s.fabricAt := rfl
@[simp] theorem shPut_checkSigs (off : Nat) (v : Word) : (shPut s off v).checkSigs = s.checkSigs := rfl
@[simp] theorem shPut_ethRem (off : Nat) (v : Word) : (shPut s off v).ethRem = s.ethRem := rfl
@[simp] theorem shPut_ethBuf (off : Nat) (v : Word) : (shPut s off v).ethBuf = s.ethBuf := rfl
@[simp] theorem shPut_outs (off : Nat) (v : Word) : (shPut s off v).outs = s.outs := rfl

/-! ### putQ -/

@[simp] theorem putQ_order (n : Nat) (x : Queue) : (putQ s n x).order = s.order := rfl
@[simp] theorem putQ_clock (n : Nat) (x : Queue) : (putQ s n x).clock = s.clock := rfl
@[simp] theorem putQ_siteTime (n : Nat) (x : Queue) : (putQ s n x).siteTime = s.siteTime := rfl
@[simp] theorem putQ_free (n : Nat) (x : Queue) : (putQ s n x).free = s.free := rfl
@[simp] theorem putQ_pending (n : Nat) (x : Queue) : (putQ s n x).pending = s.pending := rfl
@[simp] theorem putQ_resp (n : Nat) (x : Queue) : (putQ s n x).resp = s.resp := rfl
@[simp] theorem putQ_regs (n : Nat) (x : Queue) : (putQ s n x).regs = s.regs := rfl
@[simp] theorem putQ_shadow (n : Nat) (x : Queue) : (putQ s n x).shadow = s.shadow := rfl
@[simp] theorem putQ_rdLatch (n : Nat) (x : Queue) : (putQ s n x).rdLatch = s.rdLatch := rfl
@[simp] theorem putQ_wrLatch (n : Nat) (x : Queue) : (putQ s n x).wrLatch = s.wrLatch := rfl
@[simp] theorem putQ_mem (n : Nat) (x : Queue) : (putQ s n x).mem = s.mem := rfl
@[simp] theorem putQ_undef (n : Nat) (x : Queue) : (putQ s n x).undef = s.undef := rfl
@[simp] theorem putQ_badWords (n : Nat) (x : Queue) : (putQ s n x).badWords = s.badWords := rfl
@[simp] theorem putQ_weak (n : Nat) (x : Queue) : (putQ s n x).weak = s.weak := rfl
@[simp] theorem putQ_stored (n : Nat) (x : Queue) : (putQ s n x).stored = s.stored := rfl
@[simp] theorem putQ_chans (n : Nat) (x : Queue) : (putQ s n x).chans = s.chans := rfl
@[simp] theorem putQ_banks (n : Nat) (x : Queue) : (putQ s n x).banks = s.banks := rfl
@[simp] theorem putQ_jobs (n : Nat) (x : Queue) : (putQ s n x).jobs = s.jobs := rfl
@[simp] theorem putQ_engines (n : Nat) (x : Queue) : (putQ s n x).engines = s.engines := rfl
@[simp] theorem putQ_cores (n : Nat) (x : Queue) : (putQ s n x).cores = s.cores := rfl
@[simp] theorem putQ_harts (n : Nat) (x : Queue) : (putQ s n x).harts = s.harts := rfl
@[simp] theorem putQ_counters (n : Nat) (x : Queue) : (putQ s n x).counters = s.counters := rfl
@[simp] theorem putQ_waits (n : Nat) (x : Queue) : (putQ s n x).waits = s.waits := rfl
@[simp] theorem putQ_rwaits (n : Nat) (x : Queue) : (putQ s n x).rwaits = s.rwaits := rfl
@[simp] theorem putQ_refusals (n : Nat) (x : Queue) : (putQ s n x).refusals = s.refusals := rfl
@[simp] theorem putQ_nextWid (n : Nat) (x : Queue) : (putQ s n x).nextWid = s.nextWid := rfl
@[simp] theorem putQ_errFifo (n : Nat) (x : Queue) : (putQ s n x).errFifo = s.errFifo := rfl
@[simp] theorem putQ_slots (n : Nat) (x : Queue) : (putQ s n x).slots = s.slots := rfl
@[simp] theorem putQ_inj (n : Nat) (x : Queue) : (putQ s n x).inj = s.inj := rfl
@[simp] theorem putQ_held (n : Nat) (x : Queue) : (putQ s n x).held = s.held := rfl
@[simp] theorem putQ_ejq (n : Nat) (x : Queue) : (putQ s n x).ejq = s.ejq := rfl
@[simp] theorem putQ_hold (n : Nat) (x : Queue) : (putQ s n x).hold = s.hold := rfl
@[simp] theorem putQ_due (n : Nat) (x : Queue) : (putQ s n x).due = s.due := rfl
@[simp] theorem putQ_links (n : Nat) (x : Queue) : (putQ s n x).links = s.links := rfl
@[simp] theorem putQ_resets (n : Nat) (x : Queue) : (putQ s n x).resets = s.resets := rfl
@[simp] theorem putQ_poisoned (n : Nat) (x : Queue) : (putQ s n x).poisoned = s.poisoned := rfl
@[simp] theorem putQ_sess (n : Nat) (x : Queue) : (putQ s n x).sess = s.sess := rfl
@[simp] theorem putQ_hosts (n : Nat) (x : Queue) : (putQ s n x).hosts = s.hosts := rfl
@[simp] theorem putQ_updRuns (n : Nat) (x : Queue) : (putQ s n x).updRuns = s.updRuns := rfl
@[simp] theorem putQ_updLog (n : Nat) (x : Queue) : (putQ s n x).updLog = s.updLog := rfl
@[simp] theorem putQ_colOps (n : Nat) (x : Queue) : (putQ s n x).colOps = s.colOps := rfl
@[simp] theorem putQ_colHeld (n : Nat) (x : Queue) : (putQ s n x).colHeld = s.colHeld := rfl
@[simp] theorem putQ_gLive (n : Nat) (x : Queue) : (putQ s n x).gLive = s.gLive := rfl
@[simp] theorem putQ_roots (n : Nat) (x : Queue) : (putQ s n x).roots = s.roots := rfl
@[simp] theorem putQ_root0Gone (n : Nat) (x : Queue) : (putQ s n x).root0Gone = s.root0Gone := rfl
@[simp] theorem putQ_keySlots (n : Nat) (x : Queue) : (putQ s n x).keySlots = s.keySlots := rfl
@[simp] theorem putQ_ctxs (n : Nat) (x : Queue) : (putQ s n x).ctxs = s.ctxs := rfl
@[simp] theorem putQ_keysUsed (n : Nat) (x : Queue) : (putQ s n x).keysUsed = s.keysUsed := rfl
@[simp] theorem putQ_cphQ (n : Nat) (x : Queue) : (putQ s n x).cphQ = s.cphQ := rfl
@[simp] theorem putQ_cphWait (n : Nat) (x : Queue) : (putQ s n x).cphWait = s.cphWait := rfl
@[simp] theorem putQ_sxuWait (n : Nat) (x : Queue) : (putQ s n x).sxuWait = s.sxuWait := rfl
@[simp] theorem putQ_sxPeers (n : Nat) (x : Queue) : (putQ s n x).sxPeers = s.sxPeers := rfl
@[simp] theorem putQ_sxRuns (n : Nat) (x : Queue) : (putQ s n x).sxRuns = s.sxRuns := rfl
@[simp] theorem putQ_sxList (n : Nat) (x : Queue) : (putQ s n x).sxList = s.sxList := rfl
@[simp] theorem putQ_sxOut (n : Nat) (x : Queue) : (putQ s n x).sxOut = s.sxOut := rfl
@[simp] theorem putQ_sxIn (n : Nat) (x : Queue) : (putQ s n x).sxIn = s.sxIn := rfl
@[simp] theorem putQ_sxRx (n : Nat) (x : Queue) : (putQ s n x).sxRx = s.sxRx := rfl
@[simp] theorem putQ_sxJoin (n : Nat) (x : Queue) : (putQ s n x).sxJoin = s.sxJoin := rfl
@[simp] theorem putQ_sxServe (n : Nat) (x : Queue) : (putQ s n x).sxServe = s.sxServe := rfl
@[simp] theorem putQ_sxFrom (n : Nat) (x : Queue) : (putQ s n x).sxFrom = s.sxFrom := rfl
@[simp] theorem putQ_sxSetRound (n : Nat) (x : Queue) : (putQ s n x).sxSetRound = s.sxSetRound := rfl
@[simp] theorem putQ_sxOpened (n : Nat) (x : Queue) : (putQ s n x).sxOpened = s.sxOpened := rfl
@[simp] theorem putQ_sxProbed (n : Nat) (x : Queue) : (putQ s n x).sxProbed = s.sxProbed := rfl
@[simp] theorem putQ_sxTurn (n : Nat) (x : Queue) : (putQ s n x).sxTurn = s.sxTurn := rfl
@[simp] theorem putQ_time (n : Nat) (x : Queue) : (putQ s n x).time = s.time := rfl
@[simp] theorem putQ_gov (n : Nat) (x : Queue) : (putQ s n x).gov = s.gov := rfl
@[simp] theorem putQ_brdLast (n : Nat) (x : Queue) : (putQ s n x).brdLast = s.brdLast := rfl
@[simp] theorem putQ_pins (n : Nat) (x : Queue) : (putQ s n x).pins = s.pins := rfl
@[simp] theorem putQ_fru (n : Nat) (x : Queue) : (putQ s n x).fru = s.fru := rfl
@[simp] theorem putQ_flash (n : Nat) (x : Queue) : (putQ s n x).flash = s.flash := rfl
@[simp] theorem putQ_rot (n : Nat) (x : Queue) : (putQ s n x).rot = s.rot := rfl
@[simp] theorem putQ_openHeld (n : Nat) (x : Queue) : (putQ s n x).openHeld = s.openHeld := rfl
@[simp] theorem putQ_fwLock (n : Nat) (x : Queue) : (putQ s n x).fwLock = s.fwLock := rfl
@[simp] theorem putQ_idKey (n : Nat) (x : Queue) : (putQ s n x).idKey = s.idKey := rfl
@[simp] theorem putQ_fwMem (n : Nat) (x : Queue) : (putQ s n x).fwMem = s.fwMem := rfl
@[simp] theorem putQ_fillDue (n : Nat) (x : Queue) : (putQ s n x).fillDue = s.fillDue := rfl
@[simp] theorem putQ_fabricAt (n : Nat) (x : Queue) : (putQ s n x).fabricAt = s.fabricAt := rfl
@[simp] theorem putQ_checkSigs (n : Nat) (x : Queue) : (putQ s n x).checkSigs = s.checkSigs := rfl
@[simp] theorem putQ_ethRem (n : Nat) (x : Queue) : (putQ s n x).ethRem = s.ethRem := rfl
@[simp] theorem putQ_ethBuf (n : Nat) (x : Queue) : (putQ s n x).ethBuf = s.ethBuf := rfl
@[simp] theorem putQ_outs (n : Nat) (x : Queue) : (putQ s n x).outs = s.outs := rfl

/-! ### putE -/

@[simp] theorem putE_order (n : Nat) (x : Engine) : (putE s n x).order = s.order := rfl
@[simp] theorem putE_clock (n : Nat) (x : Engine) : (putE s n x).clock = s.clock := rfl
@[simp] theorem putE_siteTime (n : Nat) (x : Engine) : (putE s n x).siteTime = s.siteTime := rfl
@[simp] theorem putE_free (n : Nat) (x : Engine) : (putE s n x).free = s.free := rfl
@[simp] theorem putE_pending (n : Nat) (x : Engine) : (putE s n x).pending = s.pending := rfl
@[simp] theorem putE_resp (n : Nat) (x : Engine) : (putE s n x).resp = s.resp := rfl
@[simp] theorem putE_regs (n : Nat) (x : Engine) : (putE s n x).regs = s.regs := rfl
@[simp] theorem putE_shadow (n : Nat) (x : Engine) : (putE s n x).shadow = s.shadow := rfl
@[simp] theorem putE_rdLatch (n : Nat) (x : Engine) : (putE s n x).rdLatch = s.rdLatch := rfl
@[simp] theorem putE_wrLatch (n : Nat) (x : Engine) : (putE s n x).wrLatch = s.wrLatch := rfl
@[simp] theorem putE_mem (n : Nat) (x : Engine) : (putE s n x).mem = s.mem := rfl
@[simp] theorem putE_undef (n : Nat) (x : Engine) : (putE s n x).undef = s.undef := rfl
@[simp] theorem putE_badWords (n : Nat) (x : Engine) : (putE s n x).badWords = s.badWords := rfl
@[simp] theorem putE_weak (n : Nat) (x : Engine) : (putE s n x).weak = s.weak := rfl
@[simp] theorem putE_stored (n : Nat) (x : Engine) : (putE s n x).stored = s.stored := rfl
@[simp] theorem putE_chans (n : Nat) (x : Engine) : (putE s n x).chans = s.chans := rfl
@[simp] theorem putE_banks (n : Nat) (x : Engine) : (putE s n x).banks = s.banks := rfl
@[simp] theorem putE_queues (n : Nat) (x : Engine) : (putE s n x).queues = s.queues := rfl
@[simp] theorem putE_jobs (n : Nat) (x : Engine) : (putE s n x).jobs = s.jobs := rfl
@[simp] theorem putE_cores (n : Nat) (x : Engine) : (putE s n x).cores = s.cores := rfl
@[simp] theorem putE_harts (n : Nat) (x : Engine) : (putE s n x).harts = s.harts := rfl
@[simp] theorem putE_counters (n : Nat) (x : Engine) : (putE s n x).counters = s.counters := rfl
@[simp] theorem putE_waits (n : Nat) (x : Engine) : (putE s n x).waits = s.waits := rfl
@[simp] theorem putE_rwaits (n : Nat) (x : Engine) : (putE s n x).rwaits = s.rwaits := rfl
@[simp] theorem putE_refusals (n : Nat) (x : Engine) : (putE s n x).refusals = s.refusals := rfl
@[simp] theorem putE_nextWid (n : Nat) (x : Engine) : (putE s n x).nextWid = s.nextWid := rfl
@[simp] theorem putE_errFifo (n : Nat) (x : Engine) : (putE s n x).errFifo = s.errFifo := rfl
@[simp] theorem putE_slots (n : Nat) (x : Engine) : (putE s n x).slots = s.slots := rfl
@[simp] theorem putE_inj (n : Nat) (x : Engine) : (putE s n x).inj = s.inj := rfl
@[simp] theorem putE_held (n : Nat) (x : Engine) : (putE s n x).held = s.held := rfl
@[simp] theorem putE_ejq (n : Nat) (x : Engine) : (putE s n x).ejq = s.ejq := rfl
@[simp] theorem putE_hold (n : Nat) (x : Engine) : (putE s n x).hold = s.hold := rfl
@[simp] theorem putE_due (n : Nat) (x : Engine) : (putE s n x).due = s.due := rfl
@[simp] theorem putE_links (n : Nat) (x : Engine) : (putE s n x).links = s.links := rfl
@[simp] theorem putE_resets (n : Nat) (x : Engine) : (putE s n x).resets = s.resets := rfl
@[simp] theorem putE_poisoned (n : Nat) (x : Engine) : (putE s n x).poisoned = s.poisoned := rfl
@[simp] theorem putE_sess (n : Nat) (x : Engine) : (putE s n x).sess = s.sess := rfl
@[simp] theorem putE_hosts (n : Nat) (x : Engine) : (putE s n x).hosts = s.hosts := rfl
@[simp] theorem putE_updRuns (n : Nat) (x : Engine) : (putE s n x).updRuns = s.updRuns := rfl
@[simp] theorem putE_updLog (n : Nat) (x : Engine) : (putE s n x).updLog = s.updLog := rfl
@[simp] theorem putE_colOps (n : Nat) (x : Engine) : (putE s n x).colOps = s.colOps := rfl
@[simp] theorem putE_colHeld (n : Nat) (x : Engine) : (putE s n x).colHeld = s.colHeld := rfl
@[simp] theorem putE_gLive (n : Nat) (x : Engine) : (putE s n x).gLive = s.gLive := rfl
@[simp] theorem putE_roots (n : Nat) (x : Engine) : (putE s n x).roots = s.roots := rfl
@[simp] theorem putE_root0Gone (n : Nat) (x : Engine) : (putE s n x).root0Gone = s.root0Gone := rfl
@[simp] theorem putE_keySlots (n : Nat) (x : Engine) : (putE s n x).keySlots = s.keySlots := rfl
@[simp] theorem putE_ctxs (n : Nat) (x : Engine) : (putE s n x).ctxs = s.ctxs := rfl
@[simp] theorem putE_keysUsed (n : Nat) (x : Engine) : (putE s n x).keysUsed = s.keysUsed := rfl
@[simp] theorem putE_cphQ (n : Nat) (x : Engine) : (putE s n x).cphQ = s.cphQ := rfl
@[simp] theorem putE_cphWait (n : Nat) (x : Engine) : (putE s n x).cphWait = s.cphWait := rfl
@[simp] theorem putE_sxuWait (n : Nat) (x : Engine) : (putE s n x).sxuWait = s.sxuWait := rfl
@[simp] theorem putE_sxPeers (n : Nat) (x : Engine) : (putE s n x).sxPeers = s.sxPeers := rfl
@[simp] theorem putE_sxRuns (n : Nat) (x : Engine) : (putE s n x).sxRuns = s.sxRuns := rfl
@[simp] theorem putE_sxList (n : Nat) (x : Engine) : (putE s n x).sxList = s.sxList := rfl
@[simp] theorem putE_sxOut (n : Nat) (x : Engine) : (putE s n x).sxOut = s.sxOut := rfl
@[simp] theorem putE_sxIn (n : Nat) (x : Engine) : (putE s n x).sxIn = s.sxIn := rfl
@[simp] theorem putE_sxRx (n : Nat) (x : Engine) : (putE s n x).sxRx = s.sxRx := rfl
@[simp] theorem putE_sxJoin (n : Nat) (x : Engine) : (putE s n x).sxJoin = s.sxJoin := rfl
@[simp] theorem putE_sxServe (n : Nat) (x : Engine) : (putE s n x).sxServe = s.sxServe := rfl
@[simp] theorem putE_sxFrom (n : Nat) (x : Engine) : (putE s n x).sxFrom = s.sxFrom := rfl
@[simp] theorem putE_sxSetRound (n : Nat) (x : Engine) : (putE s n x).sxSetRound = s.sxSetRound := rfl
@[simp] theorem putE_sxOpened (n : Nat) (x : Engine) : (putE s n x).sxOpened = s.sxOpened := rfl
@[simp] theorem putE_sxProbed (n : Nat) (x : Engine) : (putE s n x).sxProbed = s.sxProbed := rfl
@[simp] theorem putE_sxTurn (n : Nat) (x : Engine) : (putE s n x).sxTurn = s.sxTurn := rfl
@[simp] theorem putE_time (n : Nat) (x : Engine) : (putE s n x).time = s.time := rfl
@[simp] theorem putE_gov (n : Nat) (x : Engine) : (putE s n x).gov = s.gov := rfl
@[simp] theorem putE_brdLast (n : Nat) (x : Engine) : (putE s n x).brdLast = s.brdLast := rfl
@[simp] theorem putE_pins (n : Nat) (x : Engine) : (putE s n x).pins = s.pins := rfl
@[simp] theorem putE_fru (n : Nat) (x : Engine) : (putE s n x).fru = s.fru := rfl
@[simp] theorem putE_flash (n : Nat) (x : Engine) : (putE s n x).flash = s.flash := rfl
@[simp] theorem putE_rot (n : Nat) (x : Engine) : (putE s n x).rot = s.rot := rfl
@[simp] theorem putE_openHeld (n : Nat) (x : Engine) : (putE s n x).openHeld = s.openHeld := rfl
@[simp] theorem putE_fwLock (n : Nat) (x : Engine) : (putE s n x).fwLock = s.fwLock := rfl
@[simp] theorem putE_idKey (n : Nat) (x : Engine) : (putE s n x).idKey = s.idKey := rfl
@[simp] theorem putE_fwMem (n : Nat) (x : Engine) : (putE s n x).fwMem = s.fwMem := rfl
@[simp] theorem putE_fillDue (n : Nat) (x : Engine) : (putE s n x).fillDue = s.fillDue := rfl
@[simp] theorem putE_fabricAt (n : Nat) (x : Engine) : (putE s n x).fabricAt = s.fabricAt := rfl
@[simp] theorem putE_checkSigs (n : Nat) (x : Engine) : (putE s n x).checkSigs = s.checkSigs := rfl
@[simp] theorem putE_ethRem (n : Nat) (x : Engine) : (putE s n x).ethRem = s.ethRem := rfl
@[simp] theorem putE_ethBuf (n : Nat) (x : Engine) : (putE s n x).ethBuf = s.ethBuf := rfl
@[simp] theorem putE_outs (n : Nat) (x : Engine) : (putE s n x).outs = s.outs := rfl

/-! ### putC -/

@[simp] theorem putC_order (n : Nat) (x : Counter) : (putC s n x).order = s.order := rfl
@[simp] theorem putC_clock (n : Nat) (x : Counter) : (putC s n x).clock = s.clock := rfl
@[simp] theorem putC_siteTime (n : Nat) (x : Counter) : (putC s n x).siteTime = s.siteTime := rfl
@[simp] theorem putC_free (n : Nat) (x : Counter) : (putC s n x).free = s.free := rfl
@[simp] theorem putC_pending (n : Nat) (x : Counter) : (putC s n x).pending = s.pending := rfl
@[simp] theorem putC_resp (n : Nat) (x : Counter) : (putC s n x).resp = s.resp := rfl
@[simp] theorem putC_regs (n : Nat) (x : Counter) : (putC s n x).regs = s.regs := rfl
@[simp] theorem putC_shadow (n : Nat) (x : Counter) : (putC s n x).shadow = s.shadow := rfl
@[simp] theorem putC_rdLatch (n : Nat) (x : Counter) : (putC s n x).rdLatch = s.rdLatch := rfl
@[simp] theorem putC_wrLatch (n : Nat) (x : Counter) : (putC s n x).wrLatch = s.wrLatch := rfl
@[simp] theorem putC_mem (n : Nat) (x : Counter) : (putC s n x).mem = s.mem := rfl
@[simp] theorem putC_undef (n : Nat) (x : Counter) : (putC s n x).undef = s.undef := rfl
@[simp] theorem putC_badWords (n : Nat) (x : Counter) : (putC s n x).badWords = s.badWords := rfl
@[simp] theorem putC_weak (n : Nat) (x : Counter) : (putC s n x).weak = s.weak := rfl
@[simp] theorem putC_stored (n : Nat) (x : Counter) : (putC s n x).stored = s.stored := rfl
@[simp] theorem putC_chans (n : Nat) (x : Counter) : (putC s n x).chans = s.chans := rfl
@[simp] theorem putC_banks (n : Nat) (x : Counter) : (putC s n x).banks = s.banks := rfl
@[simp] theorem putC_queues (n : Nat) (x : Counter) : (putC s n x).queues = s.queues := rfl
@[simp] theorem putC_jobs (n : Nat) (x : Counter) : (putC s n x).jobs = s.jobs := rfl
@[simp] theorem putC_engines (n : Nat) (x : Counter) : (putC s n x).engines = s.engines := rfl
@[simp] theorem putC_cores (n : Nat) (x : Counter) : (putC s n x).cores = s.cores := rfl
@[simp] theorem putC_harts (n : Nat) (x : Counter) : (putC s n x).harts = s.harts := rfl
@[simp] theorem putC_waits (n : Nat) (x : Counter) : (putC s n x).waits = s.waits := rfl
@[simp] theorem putC_rwaits (n : Nat) (x : Counter) : (putC s n x).rwaits = s.rwaits := rfl
@[simp] theorem putC_refusals (n : Nat) (x : Counter) : (putC s n x).refusals = s.refusals := rfl
@[simp] theorem putC_nextWid (n : Nat) (x : Counter) : (putC s n x).nextWid = s.nextWid := rfl
@[simp] theorem putC_errFifo (n : Nat) (x : Counter) : (putC s n x).errFifo = s.errFifo := rfl
@[simp] theorem putC_slots (n : Nat) (x : Counter) : (putC s n x).slots = s.slots := rfl
@[simp] theorem putC_inj (n : Nat) (x : Counter) : (putC s n x).inj = s.inj := rfl
@[simp] theorem putC_held (n : Nat) (x : Counter) : (putC s n x).held = s.held := rfl
@[simp] theorem putC_ejq (n : Nat) (x : Counter) : (putC s n x).ejq = s.ejq := rfl
@[simp] theorem putC_hold (n : Nat) (x : Counter) : (putC s n x).hold = s.hold := rfl
@[simp] theorem putC_due (n : Nat) (x : Counter) : (putC s n x).due = s.due := rfl
@[simp] theorem putC_links (n : Nat) (x : Counter) : (putC s n x).links = s.links := rfl
@[simp] theorem putC_resets (n : Nat) (x : Counter) : (putC s n x).resets = s.resets := rfl
@[simp] theorem putC_poisoned (n : Nat) (x : Counter) : (putC s n x).poisoned = s.poisoned := rfl
@[simp] theorem putC_sess (n : Nat) (x : Counter) : (putC s n x).sess = s.sess := rfl
@[simp] theorem putC_hosts (n : Nat) (x : Counter) : (putC s n x).hosts = s.hosts := rfl
@[simp] theorem putC_updRuns (n : Nat) (x : Counter) : (putC s n x).updRuns = s.updRuns := rfl
@[simp] theorem putC_updLog (n : Nat) (x : Counter) : (putC s n x).updLog = s.updLog := rfl
@[simp] theorem putC_colOps (n : Nat) (x : Counter) : (putC s n x).colOps = s.colOps := rfl
@[simp] theorem putC_colHeld (n : Nat) (x : Counter) : (putC s n x).colHeld = s.colHeld := rfl
@[simp] theorem putC_gLive (n : Nat) (x : Counter) : (putC s n x).gLive = s.gLive := rfl
@[simp] theorem putC_roots (n : Nat) (x : Counter) : (putC s n x).roots = s.roots := rfl
@[simp] theorem putC_root0Gone (n : Nat) (x : Counter) : (putC s n x).root0Gone = s.root0Gone := rfl
@[simp] theorem putC_keySlots (n : Nat) (x : Counter) : (putC s n x).keySlots = s.keySlots := rfl
@[simp] theorem putC_ctxs (n : Nat) (x : Counter) : (putC s n x).ctxs = s.ctxs := rfl
@[simp] theorem putC_keysUsed (n : Nat) (x : Counter) : (putC s n x).keysUsed = s.keysUsed := rfl
@[simp] theorem putC_cphQ (n : Nat) (x : Counter) : (putC s n x).cphQ = s.cphQ := rfl
@[simp] theorem putC_cphWait (n : Nat) (x : Counter) : (putC s n x).cphWait = s.cphWait := rfl
@[simp] theorem putC_sxuWait (n : Nat) (x : Counter) : (putC s n x).sxuWait = s.sxuWait := rfl
@[simp] theorem putC_sxPeers (n : Nat) (x : Counter) : (putC s n x).sxPeers = s.sxPeers := rfl
@[simp] theorem putC_sxRuns (n : Nat) (x : Counter) : (putC s n x).sxRuns = s.sxRuns := rfl
@[simp] theorem putC_sxList (n : Nat) (x : Counter) : (putC s n x).sxList = s.sxList := rfl
@[simp] theorem putC_sxOut (n : Nat) (x : Counter) : (putC s n x).sxOut = s.sxOut := rfl
@[simp] theorem putC_sxIn (n : Nat) (x : Counter) : (putC s n x).sxIn = s.sxIn := rfl
@[simp] theorem putC_sxRx (n : Nat) (x : Counter) : (putC s n x).sxRx = s.sxRx := rfl
@[simp] theorem putC_sxJoin (n : Nat) (x : Counter) : (putC s n x).sxJoin = s.sxJoin := rfl
@[simp] theorem putC_sxServe (n : Nat) (x : Counter) : (putC s n x).sxServe = s.sxServe := rfl
@[simp] theorem putC_sxFrom (n : Nat) (x : Counter) : (putC s n x).sxFrom = s.sxFrom := rfl
@[simp] theorem putC_sxSetRound (n : Nat) (x : Counter) : (putC s n x).sxSetRound = s.sxSetRound := rfl
@[simp] theorem putC_sxOpened (n : Nat) (x : Counter) : (putC s n x).sxOpened = s.sxOpened := rfl
@[simp] theorem putC_sxProbed (n : Nat) (x : Counter) : (putC s n x).sxProbed = s.sxProbed := rfl
@[simp] theorem putC_sxTurn (n : Nat) (x : Counter) : (putC s n x).sxTurn = s.sxTurn := rfl
@[simp] theorem putC_time (n : Nat) (x : Counter) : (putC s n x).time = s.time := rfl
@[simp] theorem putC_gov (n : Nat) (x : Counter) : (putC s n x).gov = s.gov := rfl
@[simp] theorem putC_brdLast (n : Nat) (x : Counter) : (putC s n x).brdLast = s.brdLast := rfl
@[simp] theorem putC_pins (n : Nat) (x : Counter) : (putC s n x).pins = s.pins := rfl
@[simp] theorem putC_fru (n : Nat) (x : Counter) : (putC s n x).fru = s.fru := rfl
@[simp] theorem putC_flash (n : Nat) (x : Counter) : (putC s n x).flash = s.flash := rfl
@[simp] theorem putC_rot (n : Nat) (x : Counter) : (putC s n x).rot = s.rot := rfl
@[simp] theorem putC_openHeld (n : Nat) (x : Counter) : (putC s n x).openHeld = s.openHeld := rfl
@[simp] theorem putC_fwLock (n : Nat) (x : Counter) : (putC s n x).fwLock = s.fwLock := rfl
@[simp] theorem putC_idKey (n : Nat) (x : Counter) : (putC s n x).idKey = s.idKey := rfl
@[simp] theorem putC_fwMem (n : Nat) (x : Counter) : (putC s n x).fwMem = s.fwMem := rfl
@[simp] theorem putC_fillDue (n : Nat) (x : Counter) : (putC s n x).fillDue = s.fillDue := rfl
@[simp] theorem putC_fabricAt (n : Nat) (x : Counter) : (putC s n x).fabricAt = s.fabricAt := rfl
@[simp] theorem putC_checkSigs (n : Nat) (x : Counter) : (putC s n x).checkSigs = s.checkSigs := rfl
@[simp] theorem putC_ethRem (n : Nat) (x : Counter) : (putC s n x).ethRem = s.ethRem := rfl
@[simp] theorem putC_ethBuf (n : Nat) (x : Counter) : (putC s n x).ethBuf = s.ethBuf := rfl
@[simp] theorem putC_outs (n : Nat) (x : Counter) : (putC s n x).outs = s.outs := rfl

/-! ### putHart -/

@[simp] theorem putHart_order (h : Nat) (x : Hart) : (putHart s h x).order = s.order := rfl
@[simp] theorem putHart_clock (h : Nat) (x : Hart) : (putHart s h x).clock = s.clock := rfl
@[simp] theorem putHart_siteTime (h : Nat) (x : Hart) : (putHart s h x).siteTime = s.siteTime := rfl
@[simp] theorem putHart_free (h : Nat) (x : Hart) : (putHart s h x).free = s.free := rfl
@[simp] theorem putHart_pending (h : Nat) (x : Hart) : (putHart s h x).pending = s.pending := rfl
@[simp] theorem putHart_resp (h : Nat) (x : Hart) : (putHart s h x).resp = s.resp := rfl
@[simp] theorem putHart_regs (h : Nat) (x : Hart) : (putHart s h x).regs = s.regs := rfl
@[simp] theorem putHart_shadow (h : Nat) (x : Hart) : (putHart s h x).shadow = s.shadow := rfl
@[simp] theorem putHart_rdLatch (h : Nat) (x : Hart) : (putHart s h x).rdLatch = s.rdLatch := rfl
@[simp] theorem putHart_wrLatch (h : Nat) (x : Hart) : (putHart s h x).wrLatch = s.wrLatch := rfl
@[simp] theorem putHart_mem (h : Nat) (x : Hart) : (putHart s h x).mem = s.mem := rfl
@[simp] theorem putHart_undef (h : Nat) (x : Hart) : (putHart s h x).undef = s.undef := rfl
@[simp] theorem putHart_badWords (h : Nat) (x : Hart) : (putHart s h x).badWords = s.badWords := rfl
@[simp] theorem putHart_weak (h : Nat) (x : Hart) : (putHart s h x).weak = s.weak := rfl
@[simp] theorem putHart_stored (h : Nat) (x : Hart) : (putHart s h x).stored = s.stored := rfl
@[simp] theorem putHart_chans (h : Nat) (x : Hart) : (putHart s h x).chans = s.chans := rfl
@[simp] theorem putHart_banks (h : Nat) (x : Hart) : (putHart s h x).banks = s.banks := rfl
@[simp] theorem putHart_queues (h : Nat) (x : Hart) : (putHart s h x).queues = s.queues := rfl
@[simp] theorem putHart_jobs (h : Nat) (x : Hart) : (putHart s h x).jobs = s.jobs := rfl
@[simp] theorem putHart_engines (h : Nat) (x : Hart) : (putHart s h x).engines = s.engines := rfl
@[simp] theorem putHart_cores (h : Nat) (x : Hart) : (putHart s h x).cores = s.cores := rfl
@[simp] theorem putHart_counters (h : Nat) (x : Hart) : (putHart s h x).counters = s.counters := rfl
@[simp] theorem putHart_waits (h : Nat) (x : Hart) : (putHart s h x).waits = s.waits := rfl
@[simp] theorem putHart_rwaits (h : Nat) (x : Hart) : (putHart s h x).rwaits = s.rwaits := rfl
@[simp] theorem putHart_refusals (h : Nat) (x : Hart) : (putHart s h x).refusals = s.refusals := rfl
@[simp] theorem putHart_nextWid (h : Nat) (x : Hart) : (putHart s h x).nextWid = s.nextWid := rfl
@[simp] theorem putHart_errFifo (h : Nat) (x : Hart) : (putHart s h x).errFifo = s.errFifo := rfl
@[simp] theorem putHart_slots (h : Nat) (x : Hart) : (putHart s h x).slots = s.slots := rfl
@[simp] theorem putHart_inj (h : Nat) (x : Hart) : (putHart s h x).inj = s.inj := rfl
@[simp] theorem putHart_held (h : Nat) (x : Hart) : (putHart s h x).held = s.held := rfl
@[simp] theorem putHart_ejq (h : Nat) (x : Hart) : (putHart s h x).ejq = s.ejq := rfl
@[simp] theorem putHart_hold (h : Nat) (x : Hart) : (putHart s h x).hold = s.hold := rfl
@[simp] theorem putHart_due (h : Nat) (x : Hart) : (putHart s h x).due = s.due := rfl
@[simp] theorem putHart_links (h : Nat) (x : Hart) : (putHart s h x).links = s.links := rfl
@[simp] theorem putHart_resets (h : Nat) (x : Hart) : (putHart s h x).resets = s.resets := rfl
@[simp] theorem putHart_poisoned (h : Nat) (x : Hart) : (putHart s h x).poisoned = s.poisoned := rfl
@[simp] theorem putHart_sess (h : Nat) (x : Hart) : (putHart s h x).sess = s.sess := rfl
@[simp] theorem putHart_hosts (h : Nat) (x : Hart) : (putHart s h x).hosts = s.hosts := rfl
@[simp] theorem putHart_updRuns (h : Nat) (x : Hart) : (putHart s h x).updRuns = s.updRuns := rfl
@[simp] theorem putHart_updLog (h : Nat) (x : Hart) : (putHart s h x).updLog = s.updLog := rfl
@[simp] theorem putHart_colOps (h : Nat) (x : Hart) : (putHart s h x).colOps = s.colOps := rfl
@[simp] theorem putHart_colHeld (h : Nat) (x : Hart) : (putHart s h x).colHeld = s.colHeld := rfl
@[simp] theorem putHart_gLive (h : Nat) (x : Hart) : (putHart s h x).gLive = s.gLive := rfl
@[simp] theorem putHart_roots (h : Nat) (x : Hart) : (putHart s h x).roots = s.roots := rfl
@[simp] theorem putHart_root0Gone (h : Nat) (x : Hart) : (putHart s h x).root0Gone = s.root0Gone := rfl
@[simp] theorem putHart_keySlots (h : Nat) (x : Hart) : (putHart s h x).keySlots = s.keySlots := rfl
@[simp] theorem putHart_ctxs (h : Nat) (x : Hart) : (putHart s h x).ctxs = s.ctxs := rfl
@[simp] theorem putHart_keysUsed (h : Nat) (x : Hart) : (putHart s h x).keysUsed = s.keysUsed := rfl
@[simp] theorem putHart_cphQ (h : Nat) (x : Hart) : (putHart s h x).cphQ = s.cphQ := rfl
@[simp] theorem putHart_cphWait (h : Nat) (x : Hart) : (putHart s h x).cphWait = s.cphWait := rfl
@[simp] theorem putHart_sxuWait (h : Nat) (x : Hart) : (putHart s h x).sxuWait = s.sxuWait := rfl
@[simp] theorem putHart_sxPeers (h : Nat) (x : Hart) : (putHart s h x).sxPeers = s.sxPeers := rfl
@[simp] theorem putHart_sxRuns (h : Nat) (x : Hart) : (putHart s h x).sxRuns = s.sxRuns := rfl
@[simp] theorem putHart_sxList (h : Nat) (x : Hart) : (putHart s h x).sxList = s.sxList := rfl
@[simp] theorem putHart_sxOut (h : Nat) (x : Hart) : (putHart s h x).sxOut = s.sxOut := rfl
@[simp] theorem putHart_sxIn (h : Nat) (x : Hart) : (putHart s h x).sxIn = s.sxIn := rfl
@[simp] theorem putHart_sxRx (h : Nat) (x : Hart) : (putHart s h x).sxRx = s.sxRx := rfl
@[simp] theorem putHart_sxJoin (h : Nat) (x : Hart) : (putHart s h x).sxJoin = s.sxJoin := rfl
@[simp] theorem putHart_sxServe (h : Nat) (x : Hart) : (putHart s h x).sxServe = s.sxServe := rfl
@[simp] theorem putHart_sxFrom (h : Nat) (x : Hart) : (putHart s h x).sxFrom = s.sxFrom := rfl
@[simp] theorem putHart_sxSetRound (h : Nat) (x : Hart) : (putHart s h x).sxSetRound = s.sxSetRound := rfl
@[simp] theorem putHart_sxOpened (h : Nat) (x : Hart) : (putHart s h x).sxOpened = s.sxOpened := rfl
@[simp] theorem putHart_sxProbed (h : Nat) (x : Hart) : (putHart s h x).sxProbed = s.sxProbed := rfl
@[simp] theorem putHart_sxTurn (h : Nat) (x : Hart) : (putHart s h x).sxTurn = s.sxTurn := rfl
@[simp] theorem putHart_time (h : Nat) (x : Hart) : (putHart s h x).time = s.time := rfl
@[simp] theorem putHart_gov (h : Nat) (x : Hart) : (putHart s h x).gov = s.gov := rfl
@[simp] theorem putHart_brdLast (h : Nat) (x : Hart) : (putHart s h x).brdLast = s.brdLast := rfl
@[simp] theorem putHart_pins (h : Nat) (x : Hart) : (putHart s h x).pins = s.pins := rfl
@[simp] theorem putHart_fru (h : Nat) (x : Hart) : (putHart s h x).fru = s.fru := rfl
@[simp] theorem putHart_flash (h : Nat) (x : Hart) : (putHart s h x).flash = s.flash := rfl
@[simp] theorem putHart_rot (h : Nat) (x : Hart) : (putHart s h x).rot = s.rot := rfl
@[simp] theorem putHart_openHeld (h : Nat) (x : Hart) : (putHart s h x).openHeld = s.openHeld := rfl
@[simp] theorem putHart_fwLock (h : Nat) (x : Hart) : (putHart s h x).fwLock = s.fwLock := rfl
@[simp] theorem putHart_idKey (h : Nat) (x : Hart) : (putHart s h x).idKey = s.idKey := rfl
@[simp] theorem putHart_fwMem (h : Nat) (x : Hart) : (putHart s h x).fwMem = s.fwMem := rfl
@[simp] theorem putHart_fillDue (h : Nat) (x : Hart) : (putHart s h x).fillDue = s.fillDue := rfl
@[simp] theorem putHart_fabricAt (h : Nat) (x : Hart) : (putHart s h x).fabricAt = s.fabricAt := rfl
@[simp] theorem putHart_checkSigs (h : Nat) (x : Hart) : (putHart s h x).checkSigs = s.checkSigs := rfl
@[simp] theorem putHart_ethRem (h : Nat) (x : Hart) : (putHart s h x).ethRem = s.ethRem := rfl
@[simp] theorem putHart_ethBuf (h : Nat) (x : Hart) : (putHart s h x).ethBuf = s.ethBuf := rfl
@[simp] theorem putHart_outs (h : Nat) (x : Hart) : (putHart s h x).outs = s.outs := rfl

/-! ### putL -/

@[simp] theorem putL_order (p : Nat) (x : Link) : (putL s p x).order = s.order := rfl
@[simp] theorem putL_clock (p : Nat) (x : Link) : (putL s p x).clock = s.clock := rfl
@[simp] theorem putL_siteTime (p : Nat) (x : Link) : (putL s p x).siteTime = s.siteTime := rfl
@[simp] theorem putL_free (p : Nat) (x : Link) : (putL s p x).free = s.free := rfl
@[simp] theorem putL_pending (p : Nat) (x : Link) : (putL s p x).pending = s.pending := rfl
@[simp] theorem putL_resp (p : Nat) (x : Link) : (putL s p x).resp = s.resp := rfl
@[simp] theorem putL_regs (p : Nat) (x : Link) : (putL s p x).regs = s.regs := rfl
@[simp] theorem putL_shadow (p : Nat) (x : Link) : (putL s p x).shadow = s.shadow := rfl
@[simp] theorem putL_rdLatch (p : Nat) (x : Link) : (putL s p x).rdLatch = s.rdLatch := rfl
@[simp] theorem putL_wrLatch (p : Nat) (x : Link) : (putL s p x).wrLatch = s.wrLatch := rfl
@[simp] theorem putL_mem (p : Nat) (x : Link) : (putL s p x).mem = s.mem := rfl
@[simp] theorem putL_undef (p : Nat) (x : Link) : (putL s p x).undef = s.undef := rfl
@[simp] theorem putL_badWords (p : Nat) (x : Link) : (putL s p x).badWords = s.badWords := rfl
@[simp] theorem putL_weak (p : Nat) (x : Link) : (putL s p x).weak = s.weak := rfl
@[simp] theorem putL_stored (p : Nat) (x : Link) : (putL s p x).stored = s.stored := rfl
@[simp] theorem putL_chans (p : Nat) (x : Link) : (putL s p x).chans = s.chans := rfl
@[simp] theorem putL_banks (p : Nat) (x : Link) : (putL s p x).banks = s.banks := rfl
@[simp] theorem putL_queues (p : Nat) (x : Link) : (putL s p x).queues = s.queues := rfl
@[simp] theorem putL_jobs (p : Nat) (x : Link) : (putL s p x).jobs = s.jobs := rfl
@[simp] theorem putL_engines (p : Nat) (x : Link) : (putL s p x).engines = s.engines := rfl
@[simp] theorem putL_cores (p : Nat) (x : Link) : (putL s p x).cores = s.cores := rfl
@[simp] theorem putL_harts (p : Nat) (x : Link) : (putL s p x).harts = s.harts := rfl
@[simp] theorem putL_counters (p : Nat) (x : Link) : (putL s p x).counters = s.counters := rfl
@[simp] theorem putL_waits (p : Nat) (x : Link) : (putL s p x).waits = s.waits := rfl
@[simp] theorem putL_rwaits (p : Nat) (x : Link) : (putL s p x).rwaits = s.rwaits := rfl
@[simp] theorem putL_refusals (p : Nat) (x : Link) : (putL s p x).refusals = s.refusals := rfl
@[simp] theorem putL_nextWid (p : Nat) (x : Link) : (putL s p x).nextWid = s.nextWid := rfl
@[simp] theorem putL_errFifo (p : Nat) (x : Link) : (putL s p x).errFifo = s.errFifo := rfl
@[simp] theorem putL_slots (p : Nat) (x : Link) : (putL s p x).slots = s.slots := rfl
@[simp] theorem putL_inj (p : Nat) (x : Link) : (putL s p x).inj = s.inj := rfl
@[simp] theorem putL_held (p : Nat) (x : Link) : (putL s p x).held = s.held := rfl
@[simp] theorem putL_ejq (p : Nat) (x : Link) : (putL s p x).ejq = s.ejq := rfl
@[simp] theorem putL_hold (p : Nat) (x : Link) : (putL s p x).hold = s.hold := rfl
@[simp] theorem putL_due (p : Nat) (x : Link) : (putL s p x).due = s.due := rfl
@[simp] theorem putL_resets (p : Nat) (x : Link) : (putL s p x).resets = s.resets := rfl
@[simp] theorem putL_poisoned (p : Nat) (x : Link) : (putL s p x).poisoned = s.poisoned := rfl
@[simp] theorem putL_sess (p : Nat) (x : Link) : (putL s p x).sess = s.sess := rfl
@[simp] theorem putL_hosts (p : Nat) (x : Link) : (putL s p x).hosts = s.hosts := rfl
@[simp] theorem putL_updRuns (p : Nat) (x : Link) : (putL s p x).updRuns = s.updRuns := rfl
@[simp] theorem putL_updLog (p : Nat) (x : Link) : (putL s p x).updLog = s.updLog := rfl
@[simp] theorem putL_colOps (p : Nat) (x : Link) : (putL s p x).colOps = s.colOps := rfl
@[simp] theorem putL_colHeld (p : Nat) (x : Link) : (putL s p x).colHeld = s.colHeld := rfl
@[simp] theorem putL_gLive (p : Nat) (x : Link) : (putL s p x).gLive = s.gLive := rfl
@[simp] theorem putL_roots (p : Nat) (x : Link) : (putL s p x).roots = s.roots := rfl
@[simp] theorem putL_root0Gone (p : Nat) (x : Link) : (putL s p x).root0Gone = s.root0Gone := rfl
@[simp] theorem putL_keySlots (p : Nat) (x : Link) : (putL s p x).keySlots = s.keySlots := rfl
@[simp] theorem putL_ctxs (p : Nat) (x : Link) : (putL s p x).ctxs = s.ctxs := rfl
@[simp] theorem putL_keysUsed (p : Nat) (x : Link) : (putL s p x).keysUsed = s.keysUsed := rfl
@[simp] theorem putL_cphQ (p : Nat) (x : Link) : (putL s p x).cphQ = s.cphQ := rfl
@[simp] theorem putL_cphWait (p : Nat) (x : Link) : (putL s p x).cphWait = s.cphWait := rfl
@[simp] theorem putL_sxuWait (p : Nat) (x : Link) : (putL s p x).sxuWait = s.sxuWait := rfl
@[simp] theorem putL_sxPeers (p : Nat) (x : Link) : (putL s p x).sxPeers = s.sxPeers := rfl
@[simp] theorem putL_sxRuns (p : Nat) (x : Link) : (putL s p x).sxRuns = s.sxRuns := rfl
@[simp] theorem putL_sxList (p : Nat) (x : Link) : (putL s p x).sxList = s.sxList := rfl
@[simp] theorem putL_sxOut (p : Nat) (x : Link) : (putL s p x).sxOut = s.sxOut := rfl
@[simp] theorem putL_sxIn (p : Nat) (x : Link) : (putL s p x).sxIn = s.sxIn := rfl
@[simp] theorem putL_sxRx (p : Nat) (x : Link) : (putL s p x).sxRx = s.sxRx := rfl
@[simp] theorem putL_sxJoin (p : Nat) (x : Link) : (putL s p x).sxJoin = s.sxJoin := rfl
@[simp] theorem putL_sxServe (p : Nat) (x : Link) : (putL s p x).sxServe = s.sxServe := rfl
@[simp] theorem putL_sxFrom (p : Nat) (x : Link) : (putL s p x).sxFrom = s.sxFrom := rfl
@[simp] theorem putL_sxSetRound (p : Nat) (x : Link) : (putL s p x).sxSetRound = s.sxSetRound := rfl
@[simp] theorem putL_sxOpened (p : Nat) (x : Link) : (putL s p x).sxOpened = s.sxOpened := rfl
@[simp] theorem putL_sxProbed (p : Nat) (x : Link) : (putL s p x).sxProbed = s.sxProbed := rfl
@[simp] theorem putL_sxTurn (p : Nat) (x : Link) : (putL s p x).sxTurn = s.sxTurn := rfl
@[simp] theorem putL_time (p : Nat) (x : Link) : (putL s p x).time = s.time := rfl
@[simp] theorem putL_gov (p : Nat) (x : Link) : (putL s p x).gov = s.gov := rfl
@[simp] theorem putL_brdLast (p : Nat) (x : Link) : (putL s p x).brdLast = s.brdLast := rfl
@[simp] theorem putL_pins (p : Nat) (x : Link) : (putL s p x).pins = s.pins := rfl
@[simp] theorem putL_fru (p : Nat) (x : Link) : (putL s p x).fru = s.fru := rfl
@[simp] theorem putL_flash (p : Nat) (x : Link) : (putL s p x).flash = s.flash := rfl
@[simp] theorem putL_rot (p : Nat) (x : Link) : (putL s p x).rot = s.rot := rfl
@[simp] theorem putL_openHeld (p : Nat) (x : Link) : (putL s p x).openHeld = s.openHeld := rfl
@[simp] theorem putL_fwLock (p : Nat) (x : Link) : (putL s p x).fwLock = s.fwLock := rfl
@[simp] theorem putL_idKey (p : Nat) (x : Link) : (putL s p x).idKey = s.idKey := rfl
@[simp] theorem putL_fwMem (p : Nat) (x : Link) : (putL s p x).fwMem = s.fwMem := rfl
@[simp] theorem putL_fillDue (p : Nat) (x : Link) : (putL s p x).fillDue = s.fillDue := rfl
@[simp] theorem putL_fabricAt (p : Nat) (x : Link) : (putL s p x).fabricAt = s.fabricAt := rfl
@[simp] theorem putL_checkSigs (p : Nat) (x : Link) : (putL s p x).checkSigs = s.checkSigs := rfl
@[simp] theorem putL_ethRem (p : Nat) (x : Link) : (putL s p x).ethRem = s.ethRem := rfl
@[simp] theorem putL_ethBuf (p : Nat) (x : Link) : (putL s p x).ethBuf = s.ethBuf := rfl
@[simp] theorem putL_outs (p : Nat) (x : Link) : (putL s p x).outs = s.outs := rfl

/-! ### putH -/

@[simp] theorem putH_order (w : Nat) (x : HostWin) : (putH s w x).order = s.order := rfl
@[simp] theorem putH_clock (w : Nat) (x : HostWin) : (putH s w x).clock = s.clock := rfl
@[simp] theorem putH_siteTime (w : Nat) (x : HostWin) : (putH s w x).siteTime = s.siteTime := rfl
@[simp] theorem putH_free (w : Nat) (x : HostWin) : (putH s w x).free = s.free := rfl
@[simp] theorem putH_pending (w : Nat) (x : HostWin) : (putH s w x).pending = s.pending := rfl
@[simp] theorem putH_resp (w : Nat) (x : HostWin) : (putH s w x).resp = s.resp := rfl
@[simp] theorem putH_regs (w : Nat) (x : HostWin) : (putH s w x).regs = s.regs := rfl
@[simp] theorem putH_shadow (w : Nat) (x : HostWin) : (putH s w x).shadow = s.shadow := rfl
@[simp] theorem putH_rdLatch (w : Nat) (x : HostWin) : (putH s w x).rdLatch = s.rdLatch := rfl
@[simp] theorem putH_wrLatch (w : Nat) (x : HostWin) : (putH s w x).wrLatch = s.wrLatch := rfl
@[simp] theorem putH_mem (w : Nat) (x : HostWin) : (putH s w x).mem = s.mem := rfl
@[simp] theorem putH_undef (w : Nat) (x : HostWin) : (putH s w x).undef = s.undef := rfl
@[simp] theorem putH_badWords (w : Nat) (x : HostWin) : (putH s w x).badWords = s.badWords := rfl
@[simp] theorem putH_weak (w : Nat) (x : HostWin) : (putH s w x).weak = s.weak := rfl
@[simp] theorem putH_stored (w : Nat) (x : HostWin) : (putH s w x).stored = s.stored := rfl
@[simp] theorem putH_chans (w : Nat) (x : HostWin) : (putH s w x).chans = s.chans := rfl
@[simp] theorem putH_banks (w : Nat) (x : HostWin) : (putH s w x).banks = s.banks := rfl
@[simp] theorem putH_queues (w : Nat) (x : HostWin) : (putH s w x).queues = s.queues := rfl
@[simp] theorem putH_jobs (w : Nat) (x : HostWin) : (putH s w x).jobs = s.jobs := rfl
@[simp] theorem putH_engines (w : Nat) (x : HostWin) : (putH s w x).engines = s.engines := rfl
@[simp] theorem putH_cores (w : Nat) (x : HostWin) : (putH s w x).cores = s.cores := rfl
@[simp] theorem putH_harts (w : Nat) (x : HostWin) : (putH s w x).harts = s.harts := rfl
@[simp] theorem putH_counters (w : Nat) (x : HostWin) : (putH s w x).counters = s.counters := rfl
@[simp] theorem putH_waits (w : Nat) (x : HostWin) : (putH s w x).waits = s.waits := rfl
@[simp] theorem putH_rwaits (w : Nat) (x : HostWin) : (putH s w x).rwaits = s.rwaits := rfl
@[simp] theorem putH_refusals (w : Nat) (x : HostWin) : (putH s w x).refusals = s.refusals := rfl
@[simp] theorem putH_nextWid (w : Nat) (x : HostWin) : (putH s w x).nextWid = s.nextWid := rfl
@[simp] theorem putH_errFifo (w : Nat) (x : HostWin) : (putH s w x).errFifo = s.errFifo := rfl
@[simp] theorem putH_slots (w : Nat) (x : HostWin) : (putH s w x).slots = s.slots := rfl
@[simp] theorem putH_inj (w : Nat) (x : HostWin) : (putH s w x).inj = s.inj := rfl
@[simp] theorem putH_held (w : Nat) (x : HostWin) : (putH s w x).held = s.held := rfl
@[simp] theorem putH_ejq (w : Nat) (x : HostWin) : (putH s w x).ejq = s.ejq := rfl
@[simp] theorem putH_hold (w : Nat) (x : HostWin) : (putH s w x).hold = s.hold := rfl
@[simp] theorem putH_due (w : Nat) (x : HostWin) : (putH s w x).due = s.due := rfl
@[simp] theorem putH_links (w : Nat) (x : HostWin) : (putH s w x).links = s.links := rfl
@[simp] theorem putH_resets (w : Nat) (x : HostWin) : (putH s w x).resets = s.resets := rfl
@[simp] theorem putH_poisoned (w : Nat) (x : HostWin) : (putH s w x).poisoned = s.poisoned := rfl
@[simp] theorem putH_sess (w : Nat) (x : HostWin) : (putH s w x).sess = s.sess := rfl
@[simp] theorem putH_updRuns (w : Nat) (x : HostWin) : (putH s w x).updRuns = s.updRuns := rfl
@[simp] theorem putH_updLog (w : Nat) (x : HostWin) : (putH s w x).updLog = s.updLog := rfl
@[simp] theorem putH_colOps (w : Nat) (x : HostWin) : (putH s w x).colOps = s.colOps := rfl
@[simp] theorem putH_colHeld (w : Nat) (x : HostWin) : (putH s w x).colHeld = s.colHeld := rfl
@[simp] theorem putH_gLive (w : Nat) (x : HostWin) : (putH s w x).gLive = s.gLive := rfl
@[simp] theorem putH_roots (w : Nat) (x : HostWin) : (putH s w x).roots = s.roots := rfl
@[simp] theorem putH_root0Gone (w : Nat) (x : HostWin) : (putH s w x).root0Gone = s.root0Gone := rfl
@[simp] theorem putH_keySlots (w : Nat) (x : HostWin) : (putH s w x).keySlots = s.keySlots := rfl
@[simp] theorem putH_ctxs (w : Nat) (x : HostWin) : (putH s w x).ctxs = s.ctxs := rfl
@[simp] theorem putH_keysUsed (w : Nat) (x : HostWin) : (putH s w x).keysUsed = s.keysUsed := rfl
@[simp] theorem putH_cphQ (w : Nat) (x : HostWin) : (putH s w x).cphQ = s.cphQ := rfl
@[simp] theorem putH_cphWait (w : Nat) (x : HostWin) : (putH s w x).cphWait = s.cphWait := rfl
@[simp] theorem putH_sxuWait (w : Nat) (x : HostWin) : (putH s w x).sxuWait = s.sxuWait := rfl
@[simp] theorem putH_sxPeers (w : Nat) (x : HostWin) : (putH s w x).sxPeers = s.sxPeers := rfl
@[simp] theorem putH_sxRuns (w : Nat) (x : HostWin) : (putH s w x).sxRuns = s.sxRuns := rfl
@[simp] theorem putH_sxList (w : Nat) (x : HostWin) : (putH s w x).sxList = s.sxList := rfl
@[simp] theorem putH_sxOut (w : Nat) (x : HostWin) : (putH s w x).sxOut = s.sxOut := rfl
@[simp] theorem putH_sxIn (w : Nat) (x : HostWin) : (putH s w x).sxIn = s.sxIn := rfl
@[simp] theorem putH_sxRx (w : Nat) (x : HostWin) : (putH s w x).sxRx = s.sxRx := rfl
@[simp] theorem putH_sxJoin (w : Nat) (x : HostWin) : (putH s w x).sxJoin = s.sxJoin := rfl
@[simp] theorem putH_sxServe (w : Nat) (x : HostWin) : (putH s w x).sxServe = s.sxServe := rfl
@[simp] theorem putH_sxFrom (w : Nat) (x : HostWin) : (putH s w x).sxFrom = s.sxFrom := rfl
@[simp] theorem putH_sxSetRound (w : Nat) (x : HostWin) : (putH s w x).sxSetRound = s.sxSetRound := rfl
@[simp] theorem putH_sxOpened (w : Nat) (x : HostWin) : (putH s w x).sxOpened = s.sxOpened := rfl
@[simp] theorem putH_sxProbed (w : Nat) (x : HostWin) : (putH s w x).sxProbed = s.sxProbed := rfl
@[simp] theorem putH_sxTurn (w : Nat) (x : HostWin) : (putH s w x).sxTurn = s.sxTurn := rfl
@[simp] theorem putH_time (w : Nat) (x : HostWin) : (putH s w x).time = s.time := rfl
@[simp] theorem putH_gov (w : Nat) (x : HostWin) : (putH s w x).gov = s.gov := rfl
@[simp] theorem putH_brdLast (w : Nat) (x : HostWin) : (putH s w x).brdLast = s.brdLast := rfl
@[simp] theorem putH_pins (w : Nat) (x : HostWin) : (putH s w x).pins = s.pins := rfl
@[simp] theorem putH_fru (w : Nat) (x : HostWin) : (putH s w x).fru = s.fru := rfl
@[simp] theorem putH_flash (w : Nat) (x : HostWin) : (putH s w x).flash = s.flash := rfl
@[simp] theorem putH_rot (w : Nat) (x : HostWin) : (putH s w x).rot = s.rot := rfl
@[simp] theorem putH_openHeld (w : Nat) (x : HostWin) : (putH s w x).openHeld = s.openHeld := rfl
@[simp] theorem putH_fwLock (w : Nat) (x : HostWin) : (putH s w x).fwLock = s.fwLock := rfl
@[simp] theorem putH_idKey (w : Nat) (x : HostWin) : (putH s w x).idKey = s.idKey := rfl
@[simp] theorem putH_fwMem (w : Nat) (x : HostWin) : (putH s w x).fwMem = s.fwMem := rfl
@[simp] theorem putH_fillDue (w : Nat) (x : HostWin) : (putH s w x).fillDue = s.fillDue := rfl
@[simp] theorem putH_fabricAt (w : Nat) (x : HostWin) : (putH s w x).fabricAt = s.fabricAt := rfl
@[simp] theorem putH_checkSigs (w : Nat) (x : HostWin) : (putH s w x).checkSigs = s.checkSigs := rfl
@[simp] theorem putH_ethRem (w : Nat) (x : HostWin) : (putH s w x).ethRem = s.ethRem := rfl
@[simp] theorem putH_ethBuf (w : Nat) (x : HostWin) : (putH s w x).ethBuf = s.ethBuf := rfl
@[simp] theorem putH_outs (w : Nat) (x : HostWin) : (putH s w x).outs = s.outs := rfl

/-! ### putSess -/

@[simp] theorem putSess_order (i : Nat) (x : Sess) : (putSess s i x).order = s.order := rfl
@[simp] theorem putSess_clock (i : Nat) (x : Sess) : (putSess s i x).clock = s.clock := rfl
@[simp] theorem putSess_siteTime (i : Nat) (x : Sess) : (putSess s i x).siteTime = s.siteTime := rfl
@[simp] theorem putSess_free (i : Nat) (x : Sess) : (putSess s i x).free = s.free := rfl
@[simp] theorem putSess_pending (i : Nat) (x : Sess) : (putSess s i x).pending = s.pending := rfl
@[simp] theorem putSess_resp (i : Nat) (x : Sess) : (putSess s i x).resp = s.resp := rfl
@[simp] theorem putSess_regs (i : Nat) (x : Sess) : (putSess s i x).regs = s.regs := rfl
@[simp] theorem putSess_shadow (i : Nat) (x : Sess) : (putSess s i x).shadow = s.shadow := rfl
@[simp] theorem putSess_rdLatch (i : Nat) (x : Sess) : (putSess s i x).rdLatch = s.rdLatch := rfl
@[simp] theorem putSess_wrLatch (i : Nat) (x : Sess) : (putSess s i x).wrLatch = s.wrLatch := rfl
@[simp] theorem putSess_mem (i : Nat) (x : Sess) : (putSess s i x).mem = s.mem := rfl
@[simp] theorem putSess_undef (i : Nat) (x : Sess) : (putSess s i x).undef = s.undef := rfl
@[simp] theorem putSess_badWords (i : Nat) (x : Sess) : (putSess s i x).badWords = s.badWords := rfl
@[simp] theorem putSess_weak (i : Nat) (x : Sess) : (putSess s i x).weak = s.weak := rfl
@[simp] theorem putSess_stored (i : Nat) (x : Sess) : (putSess s i x).stored = s.stored := rfl
@[simp] theorem putSess_chans (i : Nat) (x : Sess) : (putSess s i x).chans = s.chans := rfl
@[simp] theorem putSess_banks (i : Nat) (x : Sess) : (putSess s i x).banks = s.banks := rfl
@[simp] theorem putSess_queues (i : Nat) (x : Sess) : (putSess s i x).queues = s.queues := rfl
@[simp] theorem putSess_jobs (i : Nat) (x : Sess) : (putSess s i x).jobs = s.jobs := rfl
@[simp] theorem putSess_engines (i : Nat) (x : Sess) : (putSess s i x).engines = s.engines := rfl
@[simp] theorem putSess_cores (i : Nat) (x : Sess) : (putSess s i x).cores = s.cores := rfl
@[simp] theorem putSess_harts (i : Nat) (x : Sess) : (putSess s i x).harts = s.harts := rfl
@[simp] theorem putSess_counters (i : Nat) (x : Sess) : (putSess s i x).counters = s.counters := rfl
@[simp] theorem putSess_waits (i : Nat) (x : Sess) : (putSess s i x).waits = s.waits := rfl
@[simp] theorem putSess_rwaits (i : Nat) (x : Sess) : (putSess s i x).rwaits = s.rwaits := rfl
@[simp] theorem putSess_refusals (i : Nat) (x : Sess) : (putSess s i x).refusals = s.refusals := rfl
@[simp] theorem putSess_nextWid (i : Nat) (x : Sess) : (putSess s i x).nextWid = s.nextWid := rfl
@[simp] theorem putSess_errFifo (i : Nat) (x : Sess) : (putSess s i x).errFifo = s.errFifo := rfl
@[simp] theorem putSess_slots (i : Nat) (x : Sess) : (putSess s i x).slots = s.slots := rfl
@[simp] theorem putSess_inj (i : Nat) (x : Sess) : (putSess s i x).inj = s.inj := rfl
@[simp] theorem putSess_held (i : Nat) (x : Sess) : (putSess s i x).held = s.held := rfl
@[simp] theorem putSess_ejq (i : Nat) (x : Sess) : (putSess s i x).ejq = s.ejq := rfl
@[simp] theorem putSess_hold (i : Nat) (x : Sess) : (putSess s i x).hold = s.hold := rfl
@[simp] theorem putSess_due (i : Nat) (x : Sess) : (putSess s i x).due = s.due := rfl
@[simp] theorem putSess_links (i : Nat) (x : Sess) : (putSess s i x).links = s.links := rfl
@[simp] theorem putSess_resets (i : Nat) (x : Sess) : (putSess s i x).resets = s.resets := rfl
@[simp] theorem putSess_poisoned (i : Nat) (x : Sess) : (putSess s i x).poisoned = s.poisoned := rfl
@[simp] theorem putSess_hosts (i : Nat) (x : Sess) : (putSess s i x).hosts = s.hosts := rfl
@[simp] theorem putSess_updRuns (i : Nat) (x : Sess) : (putSess s i x).updRuns = s.updRuns := rfl
@[simp] theorem putSess_updLog (i : Nat) (x : Sess) : (putSess s i x).updLog = s.updLog := rfl
@[simp] theorem putSess_colOps (i : Nat) (x : Sess) : (putSess s i x).colOps = s.colOps := rfl
@[simp] theorem putSess_colHeld (i : Nat) (x : Sess) : (putSess s i x).colHeld = s.colHeld := rfl
@[simp] theorem putSess_gLive (i : Nat) (x : Sess) : (putSess s i x).gLive = s.gLive := rfl
@[simp] theorem putSess_roots (i : Nat) (x : Sess) : (putSess s i x).roots = s.roots := rfl
@[simp] theorem putSess_root0Gone (i : Nat) (x : Sess) : (putSess s i x).root0Gone = s.root0Gone := rfl
@[simp] theorem putSess_keySlots (i : Nat) (x : Sess) : (putSess s i x).keySlots = s.keySlots := rfl
@[simp] theorem putSess_ctxs (i : Nat) (x : Sess) : (putSess s i x).ctxs = s.ctxs := rfl
@[simp] theorem putSess_keysUsed (i : Nat) (x : Sess) : (putSess s i x).keysUsed = s.keysUsed := rfl
@[simp] theorem putSess_cphQ (i : Nat) (x : Sess) : (putSess s i x).cphQ = s.cphQ := rfl
@[simp] theorem putSess_cphWait (i : Nat) (x : Sess) : (putSess s i x).cphWait = s.cphWait := rfl
@[simp] theorem putSess_sxuWait (i : Nat) (x : Sess) : (putSess s i x).sxuWait = s.sxuWait := rfl
@[simp] theorem putSess_sxPeers (i : Nat) (x : Sess) : (putSess s i x).sxPeers = s.sxPeers := rfl
@[simp] theorem putSess_sxRuns (i : Nat) (x : Sess) : (putSess s i x).sxRuns = s.sxRuns := rfl
@[simp] theorem putSess_sxList (i : Nat) (x : Sess) : (putSess s i x).sxList = s.sxList := rfl
@[simp] theorem putSess_sxOut (i : Nat) (x : Sess) : (putSess s i x).sxOut = s.sxOut := rfl
@[simp] theorem putSess_sxIn (i : Nat) (x : Sess) : (putSess s i x).sxIn = s.sxIn := rfl
@[simp] theorem putSess_sxRx (i : Nat) (x : Sess) : (putSess s i x).sxRx = s.sxRx := rfl
@[simp] theorem putSess_sxJoin (i : Nat) (x : Sess) : (putSess s i x).sxJoin = s.sxJoin := rfl
@[simp] theorem putSess_sxServe (i : Nat) (x : Sess) : (putSess s i x).sxServe = s.sxServe := rfl
@[simp] theorem putSess_sxFrom (i : Nat) (x : Sess) : (putSess s i x).sxFrom = s.sxFrom := rfl
@[simp] theorem putSess_sxSetRound (i : Nat) (x : Sess) : (putSess s i x).sxSetRound = s.sxSetRound := rfl
@[simp] theorem putSess_sxOpened (i : Nat) (x : Sess) : (putSess s i x).sxOpened = s.sxOpened := rfl
@[simp] theorem putSess_sxProbed (i : Nat) (x : Sess) : (putSess s i x).sxProbed = s.sxProbed := rfl
@[simp] theorem putSess_sxTurn (i : Nat) (x : Sess) : (putSess s i x).sxTurn = s.sxTurn := rfl
@[simp] theorem putSess_time (i : Nat) (x : Sess) : (putSess s i x).time = s.time := rfl
@[simp] theorem putSess_gov (i : Nat) (x : Sess) : (putSess s i x).gov = s.gov := rfl
@[simp] theorem putSess_brdLast (i : Nat) (x : Sess) : (putSess s i x).brdLast = s.brdLast := rfl
@[simp] theorem putSess_pins (i : Nat) (x : Sess) : (putSess s i x).pins = s.pins := rfl
@[simp] theorem putSess_fru (i : Nat) (x : Sess) : (putSess s i x).fru = s.fru := rfl
@[simp] theorem putSess_flash (i : Nat) (x : Sess) : (putSess s i x).flash = s.flash := rfl
@[simp] theorem putSess_rot (i : Nat) (x : Sess) : (putSess s i x).rot = s.rot := rfl
@[simp] theorem putSess_openHeld (i : Nat) (x : Sess) : (putSess s i x).openHeld = s.openHeld := rfl
@[simp] theorem putSess_fwLock (i : Nat) (x : Sess) : (putSess s i x).fwLock = s.fwLock := rfl
@[simp] theorem putSess_idKey (i : Nat) (x : Sess) : (putSess s i x).idKey = s.idKey := rfl
@[simp] theorem putSess_fwMem (i : Nat) (x : Sess) : (putSess s i x).fwMem = s.fwMem := rfl
@[simp] theorem putSess_fillDue (i : Nat) (x : Sess) : (putSess s i x).fillDue = s.fillDue := rfl
@[simp] theorem putSess_fabricAt (i : Nat) (x : Sess) : (putSess s i x).fabricAt = s.fabricAt := rfl
@[simp] theorem putSess_checkSigs (i : Nat) (x : Sess) : (putSess s i x).checkSigs = s.checkSigs := rfl
@[simp] theorem putSess_ethRem (i : Nat) (x : Sess) : (putSess s i x).ethRem = s.ethRem := rfl
@[simp] theorem putSess_ethBuf (i : Nat) (x : Sess) : (putSess s i x).ethBuf = s.ethBuf := rfl
@[simp] theorem putSess_outs (i : Nat) (x : Sess) : (putSess s i x).outs = s.outs := rfl

/-! ### putJob -/

@[simp] theorem putJob_order (j : Job) : (putJob s j).order = s.order := rfl
@[simp] theorem putJob_clock (j : Job) : (putJob s j).clock = s.clock := rfl
@[simp] theorem putJob_siteTime (j : Job) : (putJob s j).siteTime = s.siteTime := rfl
@[simp] theorem putJob_free (j : Job) : (putJob s j).free = s.free := rfl
@[simp] theorem putJob_pending (j : Job) : (putJob s j).pending = s.pending := rfl
@[simp] theorem putJob_resp (j : Job) : (putJob s j).resp = s.resp := rfl
@[simp] theorem putJob_regs (j : Job) : (putJob s j).regs = s.regs := rfl
@[simp] theorem putJob_shadow (j : Job) : (putJob s j).shadow = s.shadow := rfl
@[simp] theorem putJob_rdLatch (j : Job) : (putJob s j).rdLatch = s.rdLatch := rfl
@[simp] theorem putJob_wrLatch (j : Job) : (putJob s j).wrLatch = s.wrLatch := rfl
@[simp] theorem putJob_mem (j : Job) : (putJob s j).mem = s.mem := rfl
@[simp] theorem putJob_undef (j : Job) : (putJob s j).undef = s.undef := rfl
@[simp] theorem putJob_badWords (j : Job) : (putJob s j).badWords = s.badWords := rfl
@[simp] theorem putJob_weak (j : Job) : (putJob s j).weak = s.weak := rfl
@[simp] theorem putJob_stored (j : Job) : (putJob s j).stored = s.stored := rfl
@[simp] theorem putJob_chans (j : Job) : (putJob s j).chans = s.chans := rfl
@[simp] theorem putJob_banks (j : Job) : (putJob s j).banks = s.banks := rfl
@[simp] theorem putJob_queues (j : Job) : (putJob s j).queues = s.queues := rfl
@[simp] theorem putJob_engines (j : Job) : (putJob s j).engines = s.engines := rfl
@[simp] theorem putJob_cores (j : Job) : (putJob s j).cores = s.cores := rfl
@[simp] theorem putJob_harts (j : Job) : (putJob s j).harts = s.harts := rfl
@[simp] theorem putJob_counters (j : Job) : (putJob s j).counters = s.counters := rfl
@[simp] theorem putJob_waits (j : Job) : (putJob s j).waits = s.waits := rfl
@[simp] theorem putJob_rwaits (j : Job) : (putJob s j).rwaits = s.rwaits := rfl
@[simp] theorem putJob_refusals (j : Job) : (putJob s j).refusals = s.refusals := rfl
@[simp] theorem putJob_nextWid (j : Job) : (putJob s j).nextWid = s.nextWid := rfl
@[simp] theorem putJob_errFifo (j : Job) : (putJob s j).errFifo = s.errFifo := rfl
@[simp] theorem putJob_slots (j : Job) : (putJob s j).slots = s.slots := rfl
@[simp] theorem putJob_inj (j : Job) : (putJob s j).inj = s.inj := rfl
@[simp] theorem putJob_held (j : Job) : (putJob s j).held = s.held := rfl
@[simp] theorem putJob_ejq (j : Job) : (putJob s j).ejq = s.ejq := rfl
@[simp] theorem putJob_hold (j : Job) : (putJob s j).hold = s.hold := rfl
@[simp] theorem putJob_due (j : Job) : (putJob s j).due = s.due := rfl
@[simp] theorem putJob_links (j : Job) : (putJob s j).links = s.links := rfl
@[simp] theorem putJob_resets (j : Job) : (putJob s j).resets = s.resets := rfl
@[simp] theorem putJob_poisoned (j : Job) : (putJob s j).poisoned = s.poisoned := rfl
@[simp] theorem putJob_sess (j : Job) : (putJob s j).sess = s.sess := rfl
@[simp] theorem putJob_hosts (j : Job) : (putJob s j).hosts = s.hosts := rfl
@[simp] theorem putJob_updRuns (j : Job) : (putJob s j).updRuns = s.updRuns := rfl
@[simp] theorem putJob_updLog (j : Job) : (putJob s j).updLog = s.updLog := rfl
@[simp] theorem putJob_colOps (j : Job) : (putJob s j).colOps = s.colOps := rfl
@[simp] theorem putJob_colHeld (j : Job) : (putJob s j).colHeld = s.colHeld := rfl
@[simp] theorem putJob_gLive (j : Job) : (putJob s j).gLive = s.gLive := rfl
@[simp] theorem putJob_roots (j : Job) : (putJob s j).roots = s.roots := rfl
@[simp] theorem putJob_root0Gone (j : Job) : (putJob s j).root0Gone = s.root0Gone := rfl
@[simp] theorem putJob_keySlots (j : Job) : (putJob s j).keySlots = s.keySlots := rfl
@[simp] theorem putJob_ctxs (j : Job) : (putJob s j).ctxs = s.ctxs := rfl
@[simp] theorem putJob_keysUsed (j : Job) : (putJob s j).keysUsed = s.keysUsed := rfl
@[simp] theorem putJob_cphQ (j : Job) : (putJob s j).cphQ = s.cphQ := rfl
@[simp] theorem putJob_cphWait (j : Job) : (putJob s j).cphWait = s.cphWait := rfl
@[simp] theorem putJob_sxuWait (j : Job) : (putJob s j).sxuWait = s.sxuWait := rfl
@[simp] theorem putJob_sxPeers (j : Job) : (putJob s j).sxPeers = s.sxPeers := rfl
@[simp] theorem putJob_sxRuns (j : Job) : (putJob s j).sxRuns = s.sxRuns := rfl
@[simp] theorem putJob_sxList (j : Job) : (putJob s j).sxList = s.sxList := rfl
@[simp] theorem putJob_sxOut (j : Job) : (putJob s j).sxOut = s.sxOut := rfl
@[simp] theorem putJob_sxIn (j : Job) : (putJob s j).sxIn = s.sxIn := rfl
@[simp] theorem putJob_sxRx (j : Job) : (putJob s j).sxRx = s.sxRx := rfl
@[simp] theorem putJob_sxJoin (j : Job) : (putJob s j).sxJoin = s.sxJoin := rfl
@[simp] theorem putJob_sxServe (j : Job) : (putJob s j).sxServe = s.sxServe := rfl
@[simp] theorem putJob_sxFrom (j : Job) : (putJob s j).sxFrom = s.sxFrom := rfl
@[simp] theorem putJob_sxSetRound (j : Job) : (putJob s j).sxSetRound = s.sxSetRound := rfl
@[simp] theorem putJob_sxOpened (j : Job) : (putJob s j).sxOpened = s.sxOpened := rfl
@[simp] theorem putJob_sxProbed (j : Job) : (putJob s j).sxProbed = s.sxProbed := rfl
@[simp] theorem putJob_sxTurn (j : Job) : (putJob s j).sxTurn = s.sxTurn := rfl
@[simp] theorem putJob_time (j : Job) : (putJob s j).time = s.time := rfl
@[simp] theorem putJob_gov (j : Job) : (putJob s j).gov = s.gov := rfl
@[simp] theorem putJob_brdLast (j : Job) : (putJob s j).brdLast = s.brdLast := rfl
@[simp] theorem putJob_pins (j : Job) : (putJob s j).pins = s.pins := rfl
@[simp] theorem putJob_fru (j : Job) : (putJob s j).fru = s.fru := rfl
@[simp] theorem putJob_flash (j : Job) : (putJob s j).flash = s.flash := rfl
@[simp] theorem putJob_rot (j : Job) : (putJob s j).rot = s.rot := rfl
@[simp] theorem putJob_openHeld (j : Job) : (putJob s j).openHeld = s.openHeld := rfl
@[simp] theorem putJob_fwLock (j : Job) : (putJob s j).fwLock = s.fwLock := rfl
@[simp] theorem putJob_idKey (j : Job) : (putJob s j).idKey = s.idKey := rfl
@[simp] theorem putJob_fwMem (j : Job) : (putJob s j).fwMem = s.fwMem := rfl
@[simp] theorem putJob_fillDue (j : Job) : (putJob s j).fillDue = s.fillDue := rfl
@[simp] theorem putJob_fabricAt (j : Job) : (putJob s j).fabricAt = s.fabricAt := rfl
@[simp] theorem putJob_checkSigs (j : Job) : (putJob s j).checkSigs = s.checkSigs := rfl
@[simp] theorem putJob_ethRem (j : Job) : (putJob s j).ethRem = s.ethRem := rfl
@[simp] theorem putJob_ethBuf (j : Job) : (putJob s j).ethBuf = s.ethBuf := rfl
@[simp] theorem putJob_outs (j : Job) : (putJob s j).outs = s.outs := rfl

/-! ### putBytes -/

@[simp] theorem putBytes_order (a : Nat) (b : List Byte) : (putBytes s a b).order = s.order := rfl
@[simp] theorem putBytes_clock (a : Nat) (b : List Byte) : (putBytes s a b).clock = s.clock := rfl
@[simp] theorem putBytes_siteTime (a : Nat) (b : List Byte) : (putBytes s a b).siteTime = s.siteTime := rfl
@[simp] theorem putBytes_free (a : Nat) (b : List Byte) : (putBytes s a b).free = s.free := rfl
@[simp] theorem putBytes_pending (a : Nat) (b : List Byte) : (putBytes s a b).pending = s.pending := rfl
@[simp] theorem putBytes_resp (a : Nat) (b : List Byte) : (putBytes s a b).resp = s.resp := rfl
@[simp] theorem putBytes_regs (a : Nat) (b : List Byte) : (putBytes s a b).regs = s.regs := rfl
@[simp] theorem putBytes_shadow (a : Nat) (b : List Byte) : (putBytes s a b).shadow = s.shadow := rfl
@[simp] theorem putBytes_rdLatch (a : Nat) (b : List Byte) : (putBytes s a b).rdLatch = s.rdLatch := rfl
@[simp] theorem putBytes_wrLatch (a : Nat) (b : List Byte) : (putBytes s a b).wrLatch = s.wrLatch := rfl
@[simp] theorem putBytes_badWords (a : Nat) (b : List Byte) : (putBytes s a b).badWords = s.badWords := rfl
@[simp] theorem putBytes_weak (a : Nat) (b : List Byte) : (putBytes s a b).weak = s.weak := rfl
@[simp] theorem putBytes_stored (a : Nat) (b : List Byte) : (putBytes s a b).stored = s.stored := rfl
@[simp] theorem putBytes_chans (a : Nat) (b : List Byte) : (putBytes s a b).chans = s.chans := rfl
@[simp] theorem putBytes_banks (a : Nat) (b : List Byte) : (putBytes s a b).banks = s.banks := rfl
@[simp] theorem putBytes_queues (a : Nat) (b : List Byte) : (putBytes s a b).queues = s.queues := rfl
@[simp] theorem putBytes_jobs (a : Nat) (b : List Byte) : (putBytes s a b).jobs = s.jobs := rfl
@[simp] theorem putBytes_engines (a : Nat) (b : List Byte) : (putBytes s a b).engines = s.engines := rfl
@[simp] theorem putBytes_cores (a : Nat) (b : List Byte) : (putBytes s a b).cores = s.cores := rfl
@[simp] theorem putBytes_harts (a : Nat) (b : List Byte) : (putBytes s a b).harts = s.harts := rfl
@[simp] theorem putBytes_counters (a : Nat) (b : List Byte) : (putBytes s a b).counters = s.counters := rfl
@[simp] theorem putBytes_waits (a : Nat) (b : List Byte) : (putBytes s a b).waits = s.waits := rfl
@[simp] theorem putBytes_rwaits (a : Nat) (b : List Byte) : (putBytes s a b).rwaits = s.rwaits := rfl
@[simp] theorem putBytes_refusals (a : Nat) (b : List Byte) : (putBytes s a b).refusals = s.refusals := rfl
@[simp] theorem putBytes_nextWid (a : Nat) (b : List Byte) : (putBytes s a b).nextWid = s.nextWid := rfl
@[simp] theorem putBytes_errFifo (a : Nat) (b : List Byte) : (putBytes s a b).errFifo = s.errFifo := rfl
@[simp] theorem putBytes_slots (a : Nat) (b : List Byte) : (putBytes s a b).slots = s.slots := rfl
@[simp] theorem putBytes_inj (a : Nat) (b : List Byte) : (putBytes s a b).inj = s.inj := rfl
@[simp] theorem putBytes_held (a : Nat) (b : List Byte) : (putBytes s a b).held = s.held := rfl
@[simp] theorem putBytes_ejq (a : Nat) (b : List Byte) : (putBytes s a b).ejq = s.ejq := rfl
@[simp] theorem putBytes_hold (a : Nat) (b : List Byte) : (putBytes s a b).hold = s.hold := rfl
@[simp] theorem putBytes_due (a : Nat) (b : List Byte) : (putBytes s a b).due = s.due := rfl
@[simp] theorem putBytes_links (a : Nat) (b : List Byte) : (putBytes s a b).links = s.links := rfl
@[simp] theorem putBytes_resets (a : Nat) (b : List Byte) : (putBytes s a b).resets = s.resets := rfl
@[simp] theorem putBytes_poisoned (a : Nat) (b : List Byte) : (putBytes s a b).poisoned = s.poisoned := rfl
@[simp] theorem putBytes_sess (a : Nat) (b : List Byte) : (putBytes s a b).sess = s.sess := rfl
@[simp] theorem putBytes_hosts (a : Nat) (b : List Byte) : (putBytes s a b).hosts = s.hosts := rfl
@[simp] theorem putBytes_updRuns (a : Nat) (b : List Byte) : (putBytes s a b).updRuns = s.updRuns := rfl
@[simp] theorem putBytes_updLog (a : Nat) (b : List Byte) : (putBytes s a b).updLog = s.updLog := rfl
@[simp] theorem putBytes_colOps (a : Nat) (b : List Byte) : (putBytes s a b).colOps = s.colOps := rfl
@[simp] theorem putBytes_colHeld (a : Nat) (b : List Byte) : (putBytes s a b).colHeld = s.colHeld := rfl
@[simp] theorem putBytes_gLive (a : Nat) (b : List Byte) : (putBytes s a b).gLive = s.gLive := rfl
@[simp] theorem putBytes_roots (a : Nat) (b : List Byte) : (putBytes s a b).roots = s.roots := rfl
@[simp] theorem putBytes_root0Gone (a : Nat) (b : List Byte) : (putBytes s a b).root0Gone = s.root0Gone := rfl
@[simp] theorem putBytes_keySlots (a : Nat) (b : List Byte) : (putBytes s a b).keySlots = s.keySlots := rfl
@[simp] theorem putBytes_ctxs (a : Nat) (b : List Byte) : (putBytes s a b).ctxs = s.ctxs := rfl
@[simp] theorem putBytes_keysUsed (a : Nat) (b : List Byte) : (putBytes s a b).keysUsed = s.keysUsed := rfl
@[simp] theorem putBytes_cphQ (a : Nat) (b : List Byte) : (putBytes s a b).cphQ = s.cphQ := rfl
@[simp] theorem putBytes_cphWait (a : Nat) (b : List Byte) : (putBytes s a b).cphWait = s.cphWait := rfl
@[simp] theorem putBytes_sxuWait (a : Nat) (b : List Byte) : (putBytes s a b).sxuWait = s.sxuWait := rfl
@[simp] theorem putBytes_sxPeers (a : Nat) (b : List Byte) : (putBytes s a b).sxPeers = s.sxPeers := rfl
@[simp] theorem putBytes_sxRuns (a : Nat) (b : List Byte) : (putBytes s a b).sxRuns = s.sxRuns := rfl
@[simp] theorem putBytes_sxList (a : Nat) (b : List Byte) : (putBytes s a b).sxList = s.sxList := rfl
@[simp] theorem putBytes_sxOut (a : Nat) (b : List Byte) : (putBytes s a b).sxOut = s.sxOut := rfl
@[simp] theorem putBytes_sxIn (a : Nat) (b : List Byte) : (putBytes s a b).sxIn = s.sxIn := rfl
@[simp] theorem putBytes_sxRx (a : Nat) (b : List Byte) : (putBytes s a b).sxRx = s.sxRx := rfl
@[simp] theorem putBytes_sxJoin (a : Nat) (b : List Byte) : (putBytes s a b).sxJoin = s.sxJoin := rfl
@[simp] theorem putBytes_sxServe (a : Nat) (b : List Byte) : (putBytes s a b).sxServe = s.sxServe := rfl
@[simp] theorem putBytes_sxFrom (a : Nat) (b : List Byte) : (putBytes s a b).sxFrom = s.sxFrom := rfl
@[simp] theorem putBytes_sxSetRound (a : Nat) (b : List Byte) : (putBytes s a b).sxSetRound = s.sxSetRound := rfl
@[simp] theorem putBytes_sxOpened (a : Nat) (b : List Byte) : (putBytes s a b).sxOpened = s.sxOpened := rfl
@[simp] theorem putBytes_sxProbed (a : Nat) (b : List Byte) : (putBytes s a b).sxProbed = s.sxProbed := rfl
@[simp] theorem putBytes_sxTurn (a : Nat) (b : List Byte) : (putBytes s a b).sxTurn = s.sxTurn := rfl
@[simp] theorem putBytes_time (a : Nat) (b : List Byte) : (putBytes s a b).time = s.time := rfl
@[simp] theorem putBytes_gov (a : Nat) (b : List Byte) : (putBytes s a b).gov = s.gov := rfl
@[simp] theorem putBytes_brdLast (a : Nat) (b : List Byte) : (putBytes s a b).brdLast = s.brdLast := rfl
@[simp] theorem putBytes_pins (a : Nat) (b : List Byte) : (putBytes s a b).pins = s.pins := rfl
@[simp] theorem putBytes_fru (a : Nat) (b : List Byte) : (putBytes s a b).fru = s.fru := rfl
@[simp] theorem putBytes_flash (a : Nat) (b : List Byte) : (putBytes s a b).flash = s.flash := rfl
@[simp] theorem putBytes_rot (a : Nat) (b : List Byte) : (putBytes s a b).rot = s.rot := rfl
@[simp] theorem putBytes_openHeld (a : Nat) (b : List Byte) : (putBytes s a b).openHeld = s.openHeld := rfl
@[simp] theorem putBytes_fwLock (a : Nat) (b : List Byte) : (putBytes s a b).fwLock = s.fwLock := rfl
@[simp] theorem putBytes_idKey (a : Nat) (b : List Byte) : (putBytes s a b).idKey = s.idKey := rfl
@[simp] theorem putBytes_fwMem (a : Nat) (b : List Byte) : (putBytes s a b).fwMem = s.fwMem := rfl
@[simp] theorem putBytes_fillDue (a : Nat) (b : List Byte) : (putBytes s a b).fillDue = s.fillDue := rfl
@[simp] theorem putBytes_fabricAt (a : Nat) (b : List Byte) : (putBytes s a b).fabricAt = s.fabricAt := rfl
@[simp] theorem putBytes_checkSigs (a : Nat) (b : List Byte) : (putBytes s a b).checkSigs = s.checkSigs := rfl
@[simp] theorem putBytes_ethRem (a : Nat) (b : List Byte) : (putBytes s a b).ethRem = s.ethRem := rfl
@[simp] theorem putBytes_ethBuf (a : Nat) (b : List Byte) : (putBytes s a b).ethBuf = s.ethBuf := rfl
@[simp] theorem putBytes_outs (a : Nat) (b : List Byte) : (putBytes s a b).outs = s.outs := rfl

/-! ### emit -/

@[simp] theorem emit_order (o : Outp) : (emit s o).order = s.order := rfl
@[simp] theorem emit_clock (o : Outp) : (emit s o).clock = s.clock := rfl
@[simp] theorem emit_siteTime (o : Outp) : (emit s o).siteTime = s.siteTime := rfl
@[simp] theorem emit_free (o : Outp) : (emit s o).free = s.free := rfl
@[simp] theorem emit_pending (o : Outp) : (emit s o).pending = s.pending := rfl
@[simp] theorem emit_resp (o : Outp) : (emit s o).resp = s.resp := rfl
@[simp] theorem emit_regs (o : Outp) : (emit s o).regs = s.regs := rfl
@[simp] theorem emit_shadow (o : Outp) : (emit s o).shadow = s.shadow := rfl
@[simp] theorem emit_rdLatch (o : Outp) : (emit s o).rdLatch = s.rdLatch := rfl
@[simp] theorem emit_wrLatch (o : Outp) : (emit s o).wrLatch = s.wrLatch := rfl
@[simp] theorem emit_mem (o : Outp) : (emit s o).mem = s.mem := rfl
@[simp] theorem emit_undef (o : Outp) : (emit s o).undef = s.undef := rfl
@[simp] theorem emit_badWords (o : Outp) : (emit s o).badWords = s.badWords := rfl
@[simp] theorem emit_weak (o : Outp) : (emit s o).weak = s.weak := rfl
@[simp] theorem emit_stored (o : Outp) : (emit s o).stored = s.stored := rfl
@[simp] theorem emit_chans (o : Outp) : (emit s o).chans = s.chans := rfl
@[simp] theorem emit_banks (o : Outp) : (emit s o).banks = s.banks := rfl
@[simp] theorem emit_queues (o : Outp) : (emit s o).queues = s.queues := rfl
@[simp] theorem emit_jobs (o : Outp) : (emit s o).jobs = s.jobs := rfl
@[simp] theorem emit_engines (o : Outp) : (emit s o).engines = s.engines := rfl
@[simp] theorem emit_cores (o : Outp) : (emit s o).cores = s.cores := rfl
@[simp] theorem emit_harts (o : Outp) : (emit s o).harts = s.harts := rfl
@[simp] theorem emit_counters (o : Outp) : (emit s o).counters = s.counters := rfl
@[simp] theorem emit_waits (o : Outp) : (emit s o).waits = s.waits := rfl
@[simp] theorem emit_rwaits (o : Outp) : (emit s o).rwaits = s.rwaits := rfl
@[simp] theorem emit_refusals (o : Outp) : (emit s o).refusals = s.refusals := rfl
@[simp] theorem emit_nextWid (o : Outp) : (emit s o).nextWid = s.nextWid := rfl
@[simp] theorem emit_errFifo (o : Outp) : (emit s o).errFifo = s.errFifo := rfl
@[simp] theorem emit_slots (o : Outp) : (emit s o).slots = s.slots := rfl
@[simp] theorem emit_inj (o : Outp) : (emit s o).inj = s.inj := rfl
@[simp] theorem emit_held (o : Outp) : (emit s o).held = s.held := rfl
@[simp] theorem emit_ejq (o : Outp) : (emit s o).ejq = s.ejq := rfl
@[simp] theorem emit_hold (o : Outp) : (emit s o).hold = s.hold := rfl
@[simp] theorem emit_due (o : Outp) : (emit s o).due = s.due := rfl
@[simp] theorem emit_links (o : Outp) : (emit s o).links = s.links := rfl
@[simp] theorem emit_resets (o : Outp) : (emit s o).resets = s.resets := rfl
@[simp] theorem emit_poisoned (o : Outp) : (emit s o).poisoned = s.poisoned := rfl
@[simp] theorem emit_sess (o : Outp) : (emit s o).sess = s.sess := rfl
@[simp] theorem emit_hosts (o : Outp) : (emit s o).hosts = s.hosts := rfl
@[simp] theorem emit_updRuns (o : Outp) : (emit s o).updRuns = s.updRuns := rfl
@[simp] theorem emit_updLog (o : Outp) : (emit s o).updLog = s.updLog := rfl
@[simp] theorem emit_colOps (o : Outp) : (emit s o).colOps = s.colOps := rfl
@[simp] theorem emit_colHeld (o : Outp) : (emit s o).colHeld = s.colHeld := rfl
@[simp] theorem emit_gLive (o : Outp) : (emit s o).gLive = s.gLive := rfl
@[simp] theorem emit_roots (o : Outp) : (emit s o).roots = s.roots := rfl
@[simp] theorem emit_root0Gone (o : Outp) : (emit s o).root0Gone = s.root0Gone := rfl
@[simp] theorem emit_keySlots (o : Outp) : (emit s o).keySlots = s.keySlots := rfl
@[simp] theorem emit_ctxs (o : Outp) : (emit s o).ctxs = s.ctxs := rfl
@[simp] theorem emit_keysUsed (o : Outp) : (emit s o).keysUsed = s.keysUsed := rfl
@[simp] theorem emit_cphQ (o : Outp) : (emit s o).cphQ = s.cphQ := rfl
@[simp] theorem emit_cphWait (o : Outp) : (emit s o).cphWait = s.cphWait := rfl
@[simp] theorem emit_sxuWait (o : Outp) : (emit s o).sxuWait = s.sxuWait := rfl
@[simp] theorem emit_sxPeers (o : Outp) : (emit s o).sxPeers = s.sxPeers := rfl
@[simp] theorem emit_sxRuns (o : Outp) : (emit s o).sxRuns = s.sxRuns := rfl
@[simp] theorem emit_sxList (o : Outp) : (emit s o).sxList = s.sxList := rfl
@[simp] theorem emit_sxOut (o : Outp) : (emit s o).sxOut = s.sxOut := rfl
@[simp] theorem emit_sxIn (o : Outp) : (emit s o).sxIn = s.sxIn := rfl
@[simp] theorem emit_sxRx (o : Outp) : (emit s o).sxRx = s.sxRx := rfl
@[simp] theorem emit_sxJoin (o : Outp) : (emit s o).sxJoin = s.sxJoin := rfl
@[simp] theorem emit_sxServe (o : Outp) : (emit s o).sxServe = s.sxServe := rfl
@[simp] theorem emit_sxFrom (o : Outp) : (emit s o).sxFrom = s.sxFrom := rfl
@[simp] theorem emit_sxSetRound (o : Outp) : (emit s o).sxSetRound = s.sxSetRound := rfl
@[simp] theorem emit_sxOpened (o : Outp) : (emit s o).sxOpened = s.sxOpened := rfl
@[simp] theorem emit_sxProbed (o : Outp) : (emit s o).sxProbed = s.sxProbed := rfl
@[simp] theorem emit_sxTurn (o : Outp) : (emit s o).sxTurn = s.sxTurn := rfl
@[simp] theorem emit_time (o : Outp) : (emit s o).time = s.time := rfl
@[simp] theorem emit_gov (o : Outp) : (emit s o).gov = s.gov := rfl
@[simp] theorem emit_brdLast (o : Outp) : (emit s o).brdLast = s.brdLast := rfl
@[simp] theorem emit_pins (o : Outp) : (emit s o).pins = s.pins := rfl
@[simp] theorem emit_fru (o : Outp) : (emit s o).fru = s.fru := rfl
@[simp] theorem emit_flash (o : Outp) : (emit s o).flash = s.flash := rfl
@[simp] theorem emit_rot (o : Outp) : (emit s o).rot = s.rot := rfl
@[simp] theorem emit_openHeld (o : Outp) : (emit s o).openHeld = s.openHeld := rfl
@[simp] theorem emit_fwLock (o : Outp) : (emit s o).fwLock = s.fwLock := rfl
@[simp] theorem emit_idKey (o : Outp) : (emit s o).idKey = s.idKey := rfl
@[simp] theorem emit_fwMem (o : Outp) : (emit s o).fwMem = s.fwMem := rfl
@[simp] theorem emit_fillDue (o : Outp) : (emit s o).fillDue = s.fillDue := rfl
@[simp] theorem emit_fabricAt (o : Outp) : (emit s o).fabricAt = s.fabricAt := rfl
@[simp] theorem emit_checkSigs (o : Outp) : (emit s o).checkSigs = s.checkSigs := rfl
@[simp] theorem emit_ethRem (o : Outp) : (emit s o).ethRem = s.ethRem := rfl
@[simp] theorem emit_ethBuf (o : Outp) : (emit s o).ethBuf = s.ethBuf := rfl

/-! ### What was written reads as written -/

theorem rget_rput (off : Nat) (v : Word) (a : Nat) : rget (rput s off v) a = if a = off then v else rget s a := smGet_smSet _ _ _ _ _
theorem shGet_shPut (off : Nat) (v : Word) (a : Nat) : shGet (shPut s off v) a = if a = off then v else shGet s a := by
  unfold shGet shPut; exact smGet_smSet _ _ _ _ _
theorem getQ_putQ (n : Nat) (x : Queue) (a : Nat) : getQ (putQ s n x) a = if a = n then x else getQ s a := smGet_smSet _ _ _ _ _
theorem getE_putE (n : Nat) (x : Engine) (a : Nat) : getE (putE s n x) a = if a = n then x else getE s a := smGet_smSet _ _ _ _ _
theorem getC_putC (n : Nat) (x : Counter) (a : Nat) : getC (putC s n x) a = if a = n then x else getC s a := smGet_smSet _ _ _ _ _
theorem getHart_putHart (n : Nat) (x : Hart) (a : Nat) : getHart (putHart s n x) a = if a = n then x else getHart s a := smGet_smSet _ _ _ _ _
theorem getL_putL (n : Nat) (x : Link) (a : Nat) : getL (putL s n x) a = if a = n then x else getL s a := smGet_smSet _ _ _ _ _
theorem getH_putH (n : Nat) (x : HostWin) (a : Nat) : getH (putH s n x) a = if a = n then x else getH s a := smGet_smSet _ _ _ _ _
theorem getSess_putSess (n : Nat) (x : Sess) (a : Nat) : getSess (putSess s n x) a = if a = n then x else getSess s a := smGet_smSet _ _ _ _ _

end Sys2Proof.Machine
end

