-- ==== Sys2Proof/Tests/Slice0.lean ====
section
/-! SUPPORT. The model's own tests: the checks of well-formedness, the spec's worked examples and published vectors on single operations, and, for each
statement with hypotheses, a state and operands that meet them. -/

namespace Sys2Proof.Tests

set_option Elab.async false
set_option linter.unusedVariables false

open Sys2Proof.Machine

/-- A module in stage READY with nothing in progress. -/
def tst : State := rput State.reset 0x14 4
/-- A descriptor of first word w and target t, every other field 0. -/
def tdesc (w t : Nat) : List Byte := le32 w ++ le32 t ++ zeroBytes 56
/-- FENCE of variant 0 to this module. -/
def tfence : List Byte := tdesc 0xB0000000 0x60000000
/-- One job of one part. -/
def tjob (ref : JobRef) (d a : List Byte) (st : JobSt) (x : Part) : Job := { ref := ref, desc := d, args := a, st := st, parts := [x] }
def tpart (st : PartSt) : Part := { floe := 0x60000000, lo := 0, hi := 1, st := st }
def twith (s : State) (j : Job) : State := { s with jobs := [j] }
/-- MATMUL arguments: one element each of A, B and C, weight-stationary. -/
def tmatArgs : List Byte := leBytes 1 2 ++ leBytes 1 2 ++ [1, 0] ++ leBytes 1 2 ++ zeroBytes 88 ++ leBytes 0x1000 8 ++ zeroBytes 24
def tmat : List Byte := tdesc 0x10000000 0x60000000
def tmatPart (st : PartSt) : Part := { floe := 0, lo := 0, hi := 1, c0 := 0, c1 := 1, st := st }
def tmatJob (st : PartSt) : Job := { ref := .queue 0 0, desc := tmat, args := tmatArgs, parts := [tmatPart st], extra := ddDefault }
def tmatBlk (i runs : Nat) (fl : List PassRes) : EngBlk :=
  { job := .queue 0 0, part := 0, block := 0, issued := i, flight := fl, acc := [(0, 0)], runs := runs }
/-- A MATMUL on engine 0 with i passes of its block issued, of which those of fl are in flight. -/
def tmatOn (i runs : Nat) (fl : List PassRes) : State :=
  putE (twith tst (tmatJob .busy)) 0 { act := .active, loads := [⟨.queue 0 0, 0, 0, 1⟩], blks := [tmatBlk i runs fl] }
/-- ELEMWISE arguments of an operation over no elements. -/
def tewArgs (op : Nat) : List Byte := [0, 0, 0, BitVec.ofNat 8 op] ++ zeroBytes 156
def tew : List Byte := tdesc 0x20000000 0x60000000
def tewPart (st : PartSt) : Part := { floe := 0, lo := 0, hi := 0, st := st }
def tewJob (op : Nat) (st : PartSt) : Job := { ref := .queue 0 0, desc := tew, args := tewArgs op, parts := [tewPart st] }
/-- KERNEL arguments with RUN_LIMIT 5 µs. -/
def tkArgs : List Byte := [0, 0, 0, 0x3F] ++ le32 5 ++ zeroBytes 152
def tkJob (st : PartSt) : Job := { tewJob 0x3F st with args := tkArgs, parts := [{ tewPart st with hi := 1 }] }
/-- A kernel part running on core 0. -/
def tkRun : CoreRun := { job := .queue 0 0, part := 0, pc := 0, a0 := 0, a1 := 0, a2 := 1, a3 := 0, started := 0 }
def tkOn : State := putCore (twith tst (tkJob .busy)) 0 tkRun
/-- DMA_COPY arguments: 4 bytes from 0 to 4,096. -/
def tcpArgs : List Byte := zeroBytes 8 ++ le64 0 ++ le64 4096 ++ le64 4 ++ zeroBytes 32
def tcpJob (fv : Nat) : Job := { ref := .queue 0 0, desc := tdesc (fv * 2 ^ 24) 0x60000000, args := tcpArgs, parts := [tpart .sent] }
/-- Region 0 enabled over the first 256 KiB, its metadata at 16 MiB. -/
def tfirn : State := rput (rput (rput tst (frReg 0 oFR_CFG) 0x80000000) (frReg 0 oFR_LEN_LO) 0x40000) (frReg 0 oFR_META_LO) 0x1000000
/-- FIRN_PACK over the first domain of that region, its image at 32 MiB. -/
def tfpJob (v : Nat) : Job := { ref := .queue 0 0, desc := tdesc (0xC * 2 ^ 28 + v * 2 ^ 24) 0x60000000, args := le64 0 ++ le64 0x40000 ++ le64 0x2000000 ++ le64 8192, parts := [tpart .sent] }
/-- UPDATE, STEP_COMMIT and AUDIT arguments: no groups, but for the list of the last. -/
def tupArgs (step count : Nat) : List Byte := le64 step ++ le64 0 ++ le32 count ++ zeroBytes 12
def tupJob (fv count : Nat) (st : PartSt) : Job := { ref := .queue 0 0, desc := tdesc (fv * 2 ^ 24) 0x60000000, args := tupArgs 1 count, parts := [tpart st] }
def tupRun (g : UpdGrp) : UpdRun := ⟨.queue 0 0, 0, true, [g], 0, false⟩
/-- UPD enabled with one STEP_COMMIT (or UPDATE) admitted over one group. -/
def tupOn (fv : Nat) (g : UpdGrp) : State := { twith (rput tst rUPD_CTRL 1) (tupJob fv 1 .busy) with updRuns := [tupRun g] }
/-- COLLECTIVE, BARRIER or STEP_VOTE of group 1. -/
def tcoArgs (fam : Nat) : List Byte := if fam = 7 then le64 0 ++ le32 1 ++ le32 5 ++ zeroBytes 16 else le32 0 ++ le32 1 ++ zeroBytes 24 ++ le32 5 ++ zeroBytes 28
def tcoJob (fv : Nat) (st : PartSt) : Job := { ref := .queue 0 0, desc := tdesc (fv * 2 ^ 24) 0x60000000, args := tcoArgs (fv / 16), parts := [tpart st] }
/-- Group 1 in entry 0: this module alone. -/
def tgrp : State := rput (rput tst (gReg 0 rG_CFG) 0x80000001) rCOL_CTRL 1
def tcoStream : ColStream := { step := 0, phase := 0, half := 0, chunk := 0, peer := 1, lo := 0, hi := 1, granted := 256 }
def tcoOp : ColOp := { job := .queue 0 0, part := 0, fam := 5, var := 0, gid := 1, seq := 0, entry := 0, joins := [1], ins := [tcoStream], outs := [tcoStream] }
def tvoOp : ColOp := { job := .queue 0 0, part := 0, fam := 7, var := 0, gid := 1, seq := 0, entry := 0, ups := [1], kids := [(1, 0, 0)], parent := some (1, 0, 0), sentUp := true }
def tcoOn (o : ColOp) : State := { twith tgrp (tcoJob (o.fam * 16) .busy) with colOps := [o] }
/-- A COL packet of a kind from module 1 for the operation of group 1. -/
def tcoPkt (kind arg : Nat) (b : List Byte) : Pkt := { colPkt 0 kind 1 0 0 0 0 0 arg b with src := 1 }
/-- WAIT and SIGNAL arguments naming counter 0 of this module, one entry. -/
def tsyArgs (fv : Nat) : List Byte := if fv = 0x90 then [] else if fv = 0x91 then zeroBytes 32 else le32 1 ++ zeroBytes 28 ++ le64 1 ++ zeroBytes 88
def tsyJob (fv : Nat) (st : PartSt) : Job := { ref := .queue 0 0, desc := tdesc (fv * 2 ^ 24) 0x60000000, args := tsyArgs fv, parts := [tpart st] }
/-- Counter 0 LIVE at 5, owned by the module floe. -/
def tctr : State := putC tst 0 { st := .live, val := 5, owner := 0x60000000 }
def twait : WaitRec := { wid := 3, ctr := 0, thresh := 9, deadline := 0, timeout := 1, who := .remote 1 0 0 0 0 }
def trwait : RemoteWait := { wid := 4, dest := 1, ctr := 0, thresh := 9, who := .job 1 2 0, backstop := 0, timeout := 1, refused := false }
def tsyn : State := { tctr with waits := [twait], rwaits := [trwait] }
/-- Port 0 UP on a torus of two modules along axis 0, its link as given. -/
def tup (l : Link) : State := putL (rput (rput tst rTFR_DIM 1) (tfpReg 0 oTFP_STATUS) 2) 0 l
/-- The same with two resends of a codeword allowed. -/
def tup2 (l : Link) : State := rput (tup l) (tfpReg 0 oTFP_LINK_CFG) 0x20002
def twr : Pkt := { op := opWR, src := 1, addr := 64, payload := [1, 2, 3] }
/-- A request outstanding on slot 0. -/
def tslot : Slot := { rtag := 0, pk := { op := opWR, dest := 1, ctag := 9 }, why := .other, sent := 0, again := false }
/-- SXU and the cipher engine enabled, slot 0 with a key for every use, peer entry 0 valid for site 2 of this site 1, in a state of R432. -/
def tsx (st : Nat) : State :=
  rput (rputN (rput (rput { rput (rput tst rSXU_CTRL 1) rCPH_CTRL 1 with keySlots := [(0, ⟨true, List.replicate 32 7, 0xF, 1, 1⟩)] } rSXU_SITE 0x00010000)
    (pOff rP_CFG 0) 0x80000200) (pOff rP_STATE 0) (0x700 + st)) rSXU_PERIOD 1
/-- A message of a type from that peer, accepted and opened. -/
def tam (typ : Nat) (b : List Byte) : AMsg := { typ := typ, srcSite := 2, dstSite := 1, len := b.length, body := b }
def tsxm (st typ : Nat) (b : List Byte) : State := { tsx st with sxRx := [tam typ b] }
/-- SITE_ROUND arguments: peer 0, TIMEOUT 5 µs, no items. -/
def tsrArgs (act : Nat) : List Byte := zeroBytes 20 ++ le32 (act * 16) ++ zeroBytes 16 ++ le32 5 ++ zeroBytes 20
def tsrJob (v act : Nat) (st : PartSt) : Job := { ref := .queue 0 0, desc := tdesc ((0xF0 + v) * 2 ^ 24) 0x60000000, args := tsrArgs act, parts := [tpart st] }
def tsrRun (b : Bool) : SxRun := { job := .queue 0 0, part := 0, begun := b }
def tsrOn (st v act : Nat) (b : Bool) : State := { twith (tsx st) (tsrJob v act .busy) with sxRuns := [tsrRun b] }
def tout (k : Nat) : SxOut := { peer := 0, kind := k, round := 0, item := 0, entry := 0, todo := [0, 1] }
/-- CIPHER arguments of all zeros. -/
def tciJob (v : Nat) (a : List Byte) : Job := { ref := .queue 0 0, desc := tdesc ((0xE0 + v) * 2 ^ 24) 0x60000000, args := a, parts := [tpart .sent] }
def tciOn (v : Nat) (a : List Byte) : State := { twith (tsx 0) (tciJob v a) with cphQ := [.cmd (.queue 0 0) 0] }
/-- Site-table entry 0 names group 0, of 32 elements. -/
def tsxE (st : Nat) : State := putBytes (rput (tsx st) rUPD_GT_BASE_LO 0x100000) 0x100000 (le32 1 ++ le32 32)
/-- An empty PROBE of the peer, sealed under the key of slot 0. -/
def tsealed : AMsg := { tam 0 [] with tag := [4, 105, 64, 183, 222, 96, 112, 253, 2, 238, 130, 64, 245, 125, 185, 182] }
/-- The tag of nothing under that key and an IV of zeros. -/
def ttag : List Byte := [94, 219, 81, 121, 86, 225, 55, 254, 20, 151, 206, 192, 169, 117, 12, 121]
/-- Site time in a state of R452, its source enabled. -/
def ttime (x : TimeU) : State := { rput tst rTIME_CFG 1 with time := x }
/-- Timer 0 armed for 5 at site time 17 on LIVE counter 0. -/
def ttmr (per : Word) : State := { rput (rput (rput (rput tctr (tmr rTMR_CFG 0) 0x80000000) (tmr rTMR_AT_LO 0) 5) (tmr rTMR_PERIOD_LO 0) per) (tmr rTMR_INC 0) 1 with siteTime := 17 }
/-- A board frame of a type with a payload from byte 4 on, its CRC right; and the board link enabled. -/
def tbrdB (typ : Byte) (b : List Byte) : List Byte := let x := [0, 0, 1, typ] ++ b ++ zeroBytes (24 - b.length); x ++ le32 (crcOf x)
def tbrd : State := rput tst rBRD_CTRL 1
/-- Session 0 open to host 0 of the management port, its inbound key as given. -/
def tses (role : Nat) : State := setSess tst 0 { st := 2, role := role, kIn := List.replicate 32 7 }
/-- The request of a type with a payload that is next in that session. -/
def tcm (typ : Nat) (p : List Byte) : CMsg :=
  let m : CMsg := { typ := typ, seq := 1, len := p.length, sealed := true }
  let r := gcmSealBytes (List.replicate 32 7) (ctrlIv 1) (natsOf (ctrlHeader m)) (natsOf p)
  { m with body := bytesOf r.1, tag := bytesOf r.2 }
/-- Host window 0 with one request outstanding. -/
def treq : HostReq :=
  { job := .queue 0 0, k := 0, t2 := false, unit := 0, rd := false, off := 0, len := 4, addr := 0, bytes := [], sent := 0, tries := 0 }
def thost (w : HostReq) : State := putH tst 0 { reqs := [w] }
def teth : State := rputBit (rputBit tst (wreg (winEth 0) oETH_CTRL) 0 true) (wreg (winEth 0) oETH_LINK) 0 true
/-- A reset of a domain in progress since 0. -/
def trst (d : Nat) : ResetP := { dom := d, floe := 0, cause := 2, since := 0, pinHeld := false }

/-! ### Well-formed commands -/

def tbadPk : Pkt := { op := 16 }
/-- Ill-formed commands, one for each check of `Instr.wf` at least, in three parts. -/
def tillA : List Instr := [.qTailWrite 272 0, .commandDispatch (.queue 272 0), .commandDispatch (.queue 0 (2 ^ 32)), .matmul (.remote (2 ^ 18) 0) 0, .matmul (.remote 0 65536) 0,
  .cmd tbadPk, .cmd { cls := 4 }, .cmd { ttl := 256 }, .cmd { dest := 2 ^ 18 }, .cmd { src := 2 ^ 18 }, .cmd { rtag := 65536 }, .cmd { ctag := 65536 }, .cmd { status := 256 },
  .partReportTimer (2 ^ 18) 0, .partReportTimer 0 65536, .pass 96 .clean, .selftestEnd 96 none, .selftestEnd 0 (some (129, 0)), .selftestEnd 0 (some (0, 129)),
  .kernel (.queue 0 0) 0 108, .kernelEcall 108 0 ⟨0, []⟩, .kernelEcall 0 0 ⟨0, [⟨0, .store, 2 ^ 64, [], 0⟩]⟩, .kernelFault 0 2 0 0 [⟨0, .load, 0, [1], 8⟩], .drain ⟨96, none⟩, .firnBlockWrite (2 ^ 64) [1], .reEncodeStep 16 0, .reEncodeStep 0 (2 ^ 27), .firnInitDone 16,
  .hbmScrub 8 [], .gEnginesRefresh 64 0 0, .gEnginesRefresh 0 (2 ^ 18) 0, .gEnginesRefresh 0 0 (2 ^ 32), .mbxPost 111 0 0, .mbxPost 1 64 0, .mbxReceive 0 0, .mbxReceive 1 64,
  .mbxForce 1 0x88 0, .mbxHb 1 128 0, .codeword 8 0 false 0 [] [], .codeword 0 4096 false 0 [] [], .codeword 0 0 false (2 ^ 20) [] [], .codeword 0 0 false 0 [16] [], .codeword 0 0 false 0 [] [(0, []), (0, []), (0, []), (0, []), (0, []), (0, [])], .codeword 0 0 false 0 [] [(8, [])], .nak 8 0, .ack 0 4096, .credit 0 8 0, .credit 0 0 512]
def tillC : List Instr := [.probe { ver := 16 }, .probe { typ := 16 }, .probe { keyEpoch := 256 }, .probe { srcSite := 256 }, .probe { dstSite := 256 }, .probe { stale := 4 }, .probe { exgroup := 4096 }, .probe { module := 2 ^ 18 },
  .probe { item := 65536 }, .probe { len := 8161 }, .probe { tag := [1] }, .read { fromAddr := 2 ^ 128 }, .read { fromPort := 65536 }, .read { typ := 256 }, .read { ver := 16 }, .read { session := 16 }, .read { sealed := true }]
theorem test_wf_refuses_a : tillA.all (fun i => !i.wf) = true := by decide +kernel
theorem test_wf_refuses_b : ([.portEnable 8 0, .peer 0 (2 ^ 18) 0, .peer 0 0 8, .laneLockLoss 0 16, .route (some 8) {}, .route none tbadPk, .replyTimeout 4096, .poisonListExpiry (2 ^ 18) 0, .poisonListExpiry 0 65536,
  .tableWrite 1 2 0, .thawTimeout 16, .ptpSync 0 false ⟨false, 256, 0⟩, .ptpSync 0 false ⟨false, 0, 128⟩, .timerFire 8, .thermCrit [], .governorTick 0 [1], .coolant (List.replicate 65 0), .rootLoad 111 0,
  .eventResend 16, .roceAckTimeout 64, .roceAck 64 false [], .ethFrameReceive 2 .ctrl 0 false, .ethLink 2 true, .neighbourSolicitation (2 ^ 128), .resetComplete 7, .blkCommitCommit 256 0, .blkCommitCommit 0 65536, .commitApply 256,
  .readClear 128 0, .readClear 1 2, .registerWrite 1 (2 ^ 24) 0, .fruWrite 2048 0] : List Instr).all (fun i => !i.wf) = true := by decide +kernel
theorem test_wf_refuses_c : tillC.all (fun i => !i.wf) = true := by decide +kernel
theorem test_wf_accepts : ([.qTailWrite 271 0, .pass 95 .clean, .kernel (.remote 5 9) 0 107, .nak 7 4095, .resetComplete 6, .registerWrite 127 0xFFFFFC 1, .roundOpen, .por] : List Instr).all Instr.wf = true := by decide +kernel

/-! ### Published vectors -/

/-- FIPS 197, C.3. -/
theorem test_aes256 : aesEncrypt (List.range 32) ((List.range 16).map (fun i => i * 17)) = [0x8E, 0xA2, 0xB7, 0xCA, 0x51, 0x67, 0x45, 0xBF, 0xEA, 0xFC, 0x49, 0x90, 0x4B, 0x49, 0x60, 0x89] := by decide +kernel
/-- FIPS 180-4: the message "abc". -/
theorem test_sha512 : (sha512 [0x61, 0x62, 0x63]).take 16 = [0xDD, 0xAF, 0x35, 0xA1, 0x93, 0x61, 0x7A, 0xBA, 0xCC, 0x41, 0x73, 0x49, 0xAE, 0x20, 0x41, 0x31] := by decide +kernel
/-- GCM specification, test case 13: AES-256, a key and an IV of zeros, nothing to encrypt. -/
theorem test_gcm : (gcmSealBytes (List.replicate 32 0) (List.replicate 12 0) [] []).2 = [0x53, 0x0F, 0x8A, 0xFB, 0xC7, 0x45, 0x36, 0xB9, 0xA9, 0x63, 0xB4, 0xF1, 0xC4, 0xCB, 0x73, 0x8B] := by decide +kernel

/-! ### The spec's worked examples -/

def tq (neg : Bool) (m : Nat) (e : Int) : FV := .fin neg m e
/-- 02_number_formats.md, the limits of the 8-bit formats: 500, 60,000, 70,000, −0, 2⁻¹⁰ and NaN. -/
theorem test_p8a_limits : [tq false 500 0, tq false 60000 0, tq false 70000 0, tq true 0 0, tq false 1 (-10), .nan false].map p8aEnc = [0x7F, 0x7F, 0x7F, 0x00, 0x00, 0x80] := by decide +kernel
theorem test_p8b_limits : [tq false 500 0, tq false 60000 0, tq false 70000 0, tq true 0 0, tq false 1 (-10), .nan false].map (fun v => (fmtEnc fP8B .rne v).1) = [0x60, 0x7B, 0x7C, 0x80, 0x14, 0x7E] := by decide +kernel
/-- The same chapter: 0.3 (as its binary64 value) to F32, F16, B16, P8A and P8B. -/
theorem test_encode_03 : [fF32, fF16, fB16, fP8A, fP8B].map (fun f => (fmtEnc f .rne (tq false 5404319552844595 (-54))).1) = [0x3E99999A, 0x34CD, 0x3E9A, 0x2A, 0x35] := by decide +kernel
/-- The same chapter, the P4 block of 0.45, 0.3 and −0.05 (each to 15 bits), under FLOOR and under CEIL, and the same block as P2. -/
def tblk : List FV := [tq false 14746 (-15), tq false 9830 (-15), tq true 1638 (-15)] ++ List.replicate 29 (tq false 0 0)
theorem test_p4_floor : (blkEnc 6 false tblk).1 = 0x7B ∧ (blkEnc 6 false tblk).2.take 4 = [7, 6, 0xA, 0] := by decide +kernel
theorem test_p4_ceil : (blkEnc 6 true tblk).1 = 0x7C ∧ (blkEnc 6 true tblk).2.take 4 = [6, 4, 9, 0] := by decide +kernel
theorem test_p2_floor : (blkEnc 8 false tblk).1 = 0x7C ∧ (blkEnc 8 false tblk).2.take 4 = [1, 1, 2, 0] := by decide +kernel
/-- 06_memory_and_firn.md, the example of R195: element (70, 45). -/
theorem test_swizzle : 0x100000 + (swzAddr 0 320 16 70 45).1 = 0x10A99A := by decide +kernel

/-! ### Single steps -/

/-- What is asked of the next state, false where there is none. -/
def tnext (o : Host.Outcome State Fault Refusal) (p : State → Bool) : Bool := match o with | .next t => p t | _ => false
theorem test_idle : tnext (step State.reset) (fun t => t.clock == 1 && t.siteTime == 1) = true := by decide +kernel
theorem test_no_word_is_a_command : decodeTableWord 32 0 = none ∧ State.reset.withFetchWord 32 0 = State.reset := by decide +kernel
theorem test_dma_copy : tnext (exec (.dmaCopyLocal (.queue 0 0) 0) (putBytes (twith tst (tcpJob 0x30)) 0 [1, 2, 3, 4])) (fun t => rdBytes t 4096 4 == [1, 2, 3, 4]) = true := by decide +kernel
/-- R456: an armed timer whose moment has come adds its increment to its counter, and stops. -/
theorem test_timer : tnext (exec (.timerFire 0) (ttmr 0)) (fun t => (getC t 0).val == 6 && !rbit t (tmr rTMR_CFG 0) 31) = true := by decide +kernel
/-- R300, R301: a message posted is received with its two halves, and a second one before that sets OVERRUN. -/
theorem test_mailbox : tnext (exec (.mbxPost 1 0 5) tst) (fun s => mbxFull s 0 && tnext (exec (.mbxPost 2 0 6) s) (fun t => rbit t (mbxReg 0 rMBX_STAT) 1)) = true := by decide +kernel
/-- Three reset values of the register tables of R475 and R341. -/
theorem test_reset_value : rget State.reset rPW_BASE = 360 ∧ rget State.reset rPW_DYN = 1440 ∧ rget State.reset rTFR_TTL = 128 := by decide +kernel
/-- The classes of a channel's next grants, with the same sources pending throughout. -/
def tgrants (ws : List Nat) (ps : List MemSource) : Nat → ChanArb → List (Option Nat)
  | 0, _ => []
  | n + 1, a =>
    let r := chanGrant ws ps false a
    (match r.1 with | .source m => m.cls | _ => none) :: tgrants ws ps n r.2
/-- 11_sharing_and_progress.md, the example of R373 and R374: a round of 21 grants, and a core whose class has weight 0 granted as the 65th. -/
theorem test_round : tgrants [8, 4, 4, 4, 1, 1, 1] [.engine 0, .engDma 0, .upd 0, .col 0, .core 0] 22 {} =
    (List.replicate 8 0 ++ List.replicate 4 1 ++ List.replicate 4 2 ++ List.replicate 4 3 ++ [6, 0]).map some := by decide +kernel
theorem test_promotion : (tgrants [8, 4, 4, 4, 1, 1, 0] [.engine 0, .engDma 0, .upd 0, .col 0, .core 0] 66 {}).idxOf (some 6) = 64 := by decide +kernel
/-- R318: a packet with every field full is read as it was written. -/
theorem test_packet : (fun p : Pkt => pktOf (pktBytes p) true == p) { op := 15, cls := 3, epoch := true, ordered := true, dlv := true, ttl := 255, dest := 2 ^ 18 - 1, src := 2 ^ 18 - 1, rtag := 65535, ctag := 65535, addr := 0xFFFFFFFFFFFFFFFF, arg := 0xFFFFFFFF, status := 255, payload := [1, 2, 3], poisoned := true } = true := by decide +kernel

/-! ### States that meet the hypotheses of each statement -/

theorem witness_queue_registers :
    (∃ (q : Nat) (v : Word) (s : State), (q < 272) ∧ ((v - (getQ s q).done).toNat ≤ ringSlots (getQ s q))) ∧
    (∃ (q : Nat) (v : Word) (s : State), (q < 272) ∧ ((getQ s q).enable = false) ∧ (wbit v 31 = true) ∧ (3 ≤ stage s) ∧ (4 ≤ wbits v 19 16) ∧ (wbits v 19 16 ≤ 12)) ∧
    (∃ (q : Nat) (v : Word) (s : State), (q < 272) ∧ ((getQ s q).enable = true) ∧ (wbit v 31 = false) ∧ ((queueIdle s q || (getQ s q).st == .stopped) = true)) ∧
    (∃ (q : Nat) (f : Word) (s : State), ((getQ s q).st = .stopped) ∧ ((getQ s q).failedAt = some f)) ∧
    (∃ (q : Nat) (f : Word) (s : State), ((getQ s q).st = .stopped) ∧ ((getQ s q).failedAt = some f) ∧ (rangeMapped s.order (progAddr s q f.toNat) 16 = true)) :=
  ⟨⟨3, 16, tst, by decide +kernel⟩,
   ⟨271, 0x800C0005, tst, by decide +kernel⟩,
   ⟨0, 0, putQ tst 0 { enable := true, st := .active }, by decide +kernel⟩,
   ⟨0, 5, putQ tst 0 { st := .stopped, failedAt := some 5 }, by decide +kernel⟩,
   ⟨0, 0xFFFFFFFF, putQ tst 0 { st := .stopped, failedAt := some 0xFFFFFFFF }, by decide +kernel⟩⟩

theorem witness_command_head : ∃ (q : Nat) (s : State), ((getQ s q).st = .active) ∧ ((getQ s q).stopErr = 0) ∧ ((getQ s q).failedAt = none) ∧ ((getQ s q).headCmd = none) ∧ ((getQ s q).head ≠ (getQ s q).tail) ∧ (unparked s = true) ∧ (progWaits s (.queue q (getQ s q).head.toNat) = false) ∧ ∃ sa, (sa = slotAddr (getQ s q) (getQ s q).head) ∧ (rangeMapped s.order sa 64 = true) ∧ (rangeMapped s.order (progAddr s q (getQ s q).head.toNat) 16 = true) ∧ ∃ d, (d = rdBytes s sa 64) ∧ ∃ a, (a = headArgs s d) ∧ ∃ own, (own = [(sa, 64)] ++ (if a = [] then [] else [(dArgPtr d, argSize (dFam d) (dVar d))])) ∧ (anyBusy s (own ++ descReads s d a) = false) ∧ (((own.findSome? (fun r => badIn s r.1 r.2)).or (progBad s q (getQ s q).head.toNat)).or (descBad s d a) = none) ∧ ∃ u, (u = noteDescs (noteReads s (.core (qHart q)) own) (.core (qHart q)) d a) ∧ (headChecks u q d a (waitsHere u d) = none) ∧ ((waitsHere u d = false ∨ (dW0 d = false ∧ dW1 d = false ∧ dNotBefore d ≤ siteNow u))) :=
  ⟨2, putQ (putBytes tst 0 tfence) 2 { st := .active, tail := 1, prog := 4096 }, by decide +kernel, by decide +kernel, by decide +kernel, (by decide +kernel), by decide +kernel, by decide +kernel, by decide +kernel, 0, by decide +kernel, by decide +kernel, by decide +kernel, tfence, by decide +kernel, [], by decide +kernel, [(0, 64)], by decide +kernel, by decide +kernel, by decide +kernel, _, rfl, by decide +kernel⟩

theorem witness_command_parts_and_end :
    (∃ (q n : Nat) (s : State) (h : Head) (g : Option (Nat × Nat)), ((getQ s q).headCmd = some h) ∧ ((getQ s q).head.toNat = n) ∧ ((getQ s q).st = .active) ∧ ((getQ s q).stopErr = 0) ∧ ((getQ s q).failedAt = none) ∧ (mayDispatch s q h.desc = true) ∧ (moduleRuns s = true) ∧ (colHolds s h.desc h.args = false) ∧ (progWaits s (.queue q n) = false) ∧ (anyBusy s (descReads s h.desc h.args) = false) ∧ (queueFenced s q = false) ∧ (fencedOut s h.desc h.args = false) ∧ ((waitsHere s h.desc = true → waitsMet h.w0 h.w1 = true ∧ timePassed s h.desc = true)) ∧ (descBad s h.desc h.args = none) ∧ ((if waitsHere s h.desc then genResolve s h.desc h.args else .ok none) = .ok g) ∧ ∃ t, (t = newTag (noteDescs s (.core (qHart q)) h.desc h.args)) ∧ ∃ v, (v = takeVote t.2 (makeJob t.2 (.queue q n) h.desc h.args h.arrived t.1 g)) ∧ ∃ j, (j = v.1)) ∧
    (∃ (q n : Nat) (s : State) (h : Head), ((getQ s q).headCmd = some h) ∧ ((getQ s q).head.toNat = n) ∧ (waitErr h.w0 h.w1 ≠ 0)) ∧
    (∃ (src ctag : Nat) (s : State) (j : Job), (getJob s (.remote src ctag) = some j) ∧ (j.st = .held) ∧ (waitErr j.w0 j.w1 ≠ 0)) ∧
    (∃ (q n : Nat) (s : State) (j : Job), (getJob s (.queue q n) = some j) ∧ (j.st = .worked) ∧ ((getQ s q).done.toNat = n) ∧ (canSignal s j = true) ∧ (progWaits s j.ref = false) ∧ (progBad s q n = none) ∧ ∃ v, (v = sendDescSignal (sendDescSignal (dropJob (journalCommit (releaseReader s j) j (some q)) j.ref) j q (w32 n) 0) j q (w32 n) 1) ∧ ∃ u, (u = writeProgress (raiseHere v (getQ s q).compCtr 1 (orderedSignal v j (myId v))) q n prCOMPLETE 0 (doneUnits j) (doneUnits j))) ∧
    (∃ (src ctag : Nat) (s : State) (j : Job), (getJob s (.remote src ctag) = some j) ∧ (j.st = .worked) ∧ ((src = myId s ∨ canRequest s = true)) ∧ ∃ t, (t = journalCommit (releaseReader s j) j none)) ∧
    (∃ (q n e : Nat) (s : State) (j : Job), (getJob s (.queue q n) = some j) ∧ (j.st = .failed e) ∧ ((getQ s q).failedAt = none)) ∧
    (∃ (src ctag e : Nat) (s : State) (j : Job), (getJob s (.remote src ctag) = some j) ∧ (j.st = .failed e) ∧ ((src = myId s ∨ canRequest s = true))) ∧
    (∃ (r : JobRef) (p : Nat) (s : State) (j : Job) (x : Part), (getJob s r = some j) ∧ (getPart j p = some x) ∧ (x.st = .worked)) ∧
    (∃ (r : JobRef) (p e : Nat) (s : State) (j : Job) (x : Part), (getJob s r = some j) ∧ (getPart j p = some x) ∧ (x.st = .faulted e) ∧ (j.firstErr = 0) ∧ ∃ k, (k = setPart j p { x with st := .failed e })) :=
  ⟨⟨0, 0, putQ tst 0 { st := .active, tail := 1, headCmd := some ⟨tfence, [], 0, .met, .met⟩ }, ⟨tfence, [], 0, .met, .met⟩, none, by decide +kernel, by decide +kernel, by decide +kernel, (by decide +kernel), by decide +kernel, by decide +kernel, by decide +kernel, (by decide +kernel), by decide +kernel, by decide +kernel, by decide +kernel, (by decide +kernel), by decide +kernel, by decide +kernel, by decide +kernel, _, rfl, _, rfl, _, rfl⟩,
   ⟨0, 0, putQ tst 0 { st := .active, tail := 1, headCmd := some ⟨tfence, [], 0, .met, .failed 5⟩ }, ⟨tfence, [], 0, .met, .failed 5⟩, by decide +kernel⟩,
   ⟨3, 4, twith tst { ref := .remote 3 4, desc := tfence, args := [], st := .held, w0 := .failed 7 }, { ref := .remote 3 4, desc := tfence, args := [], st := .held, w0 := .failed 7 }, by decide +kernel⟩,
   ⟨0, 0, twith tst (tjob (.queue 0 0) tfence [] .worked (tpart .done)), tjob (.queue 0 0) tfence [] .worked (tpart .done), by decide +kernel, by decide +kernel, by decide +kernel, (by decide +kernel), by decide +kernel, by decide +kernel, _, rfl, _, rfl⟩,
   ⟨1, 2, twith tst (tjob (.remote 1 2) tfence [] .worked (tpart .done)), tjob (.remote 1 2) tfence [] .worked (tpart .done), by decide +kernel, by decide +kernel, by decide +kernel, _, rfl⟩,
   ⟨0, 0, 9, twith tst (tjob (.queue 0 0) tfence [] (.failed 9) (tpart .done)), tjob (.queue 0 0) tfence [] (.failed 9) (tpart .done), by decide +kernel⟩,
   ⟨1, 2, 9, twith tst (tjob (.remote 1 2) tfence [] (.failed 9) (tpart .done)), tjob (.remote 1 2) tfence [] (.failed 9) (tpart .done), by decide +kernel⟩,
   ⟨.queue 0 0, 0, twith tst (tjob (.queue 0 0) tfence [] .running (tpart .worked)), tjob (.queue 0 0) tfence [] .running (tpart .worked), tpart .worked, by decide +kernel⟩,
   ⟨.queue 0 0, 0, 9, twith tst (tjob (.queue 0 0) tfence [] .running (tpart (.faulted 9))), tjob (.queue 0 0) tfence [] .running (tpart (.faulted 9)), tpart (.faulted 9), by decide +kernel, by decide +kernel, by decide +kernel, (by decide +kernel), _, rfl⟩⟩

theorem witness_served_commands :
    (∃ (pk : Pkt) (s t : State), (fromEjection s opCMD pk = some t) ∧ (anyBusy s (descReads s (pk.payload.take 64) (pk.payload.drop 64)) = false) ∧ (pk.poisoned = false) ∧ (cmdHeld t = false) ∧ (getJob t (.remote pk.src pk.ctag) = none)) ∧
    (∃ (pk : Pkt) (s t : State), (fromEjection s opCMD pk = some t) ∧ (anyBusy s (descReads s (pk.payload.take 64) (pk.payload.drop 64)) = false) ∧ (pk.poisoned = false) ∧ (cmdHeld t = false) ∧ ((getJob t (.remote pk.src pk.ctag)).isSome = true)) ∧
    (∃ (pk : Pkt) (s t : State) (j : Job) (i : Nat) (x : Part), (fromEjection s opRPT pk = some t) ∧ (pk.poisoned = false) ∧ (cmdHeld t = false) ∧ (pk.aux = [1, 0]) ∧ (reportedPart t pk.src pk.ctag = some (j, i, x)) ∧ (isKernel j.desc j.args = false) ∧ (leAt pk.payload 0 4 = 0)) ∧
    (∃ (src ctag : Nat) (s : State) (j : Job), (getJob s (.remote src ctag) = some j) ∧ ((j.st = .running ∨ j.st = .held)) ∧ (j.lastSent + rtoNs s / 2 ≤ s.clock) ∧ ((src = myId s ∨ canRequest s = true))) ∧
    (∃ (r : JobRef) (p : Nat) (s : State) (j : Job) (x : Part), (getJob s r = some j) ∧ (getPart j p = some x) ∧ (j.st = .running) ∧ (x.away = true) ∧ (x.cursor = 1) ∧ (x.st = .sent) ∧ (partModule s x ≠ myId s) ∧ (x.lastReport + rtoNs s ≤ s.clock)) :=
  ⟨⟨{ op := 4, src := 1 }, { tst with ejq := [{ op := 4, src := 1 }] }, tst, by decide +kernel⟩,
   ⟨{ op := 4, src := 1, ctag := 2 }, twith { tst with ejq := [{ op := 4, src := 1, ctag := 2 }] } (tjob (.remote 1 2) tfence [] .running (tpart .busy)), twith tst (tjob (.remote 1 2) tfence [] .running (tpart .busy)), by decide +kernel⟩,
   ⟨{ op := 6, src := 1, payload := le32 0 ++ le32 1 ++ le32 1 ++ le32 0, aux := [1, 0] }, twith { tst with ejq := [{ op := 6, src := 1, payload := le32 0 ++ le32 1 ++ le32 1 ++ le32 0, aux := [1, 0] }] } (tjob (.queue 0 0) (tdesc 0xB0000000 0x60000001) [] .running { tpart .sent with floe := 0x60000001, away := true, cursor := 1 }), twith tst (tjob (.queue 0 0) (tdesc 0xB0000000 0x60000001) [] .running { tpart .sent with floe := 0x60000001, away := true, cursor := 1 }), tjob (.queue 0 0) (tdesc 0xB0000000 0x60000001) [] .running { tpart .sent with floe := 0x60000001, away := true, cursor := 1 }, 0, { tpart .sent with floe := 0x60000001, away := true, cursor := 1 }, by decide +kernel⟩,
   ⟨1, 2, twith { tst with clock := 10000000000 } (tjob (.remote 1 2) tfence [] .running (tpart .busy)), tjob (.remote 1 2) tfence [] .running (tpart .busy), by decide +kernel⟩,
   ⟨.queue 0 0, 0, twith { tst with clock := 10000000000 } (tjob (.queue 0 0) (tdesc 0xB0000000 0x60000001) [] .running { tpart .sent with floe := 0x60000001, away := true, cursor := 1 }), tjob (.queue 0 0) (tdesc 0xB0000000 0x60000001) [] .running { tpart .sent with floe := 0x60000001, away := true, cursor := 1 }, { tpart .sent with floe := 0x60000001, away := true, cursor := 1 }, by decide +kernel⟩⟩

theorem witness_matmul_part :
    (∃ (r : JobRef) (p : Nat) (s : State) (j : Job) (x : Part), (freshOf s r p 1 0 = some (j, x)) ∧ (partBlocks s j.args x ≠ []) ∧ ∃ e, (e = floeEngine (floeOf x.floe))) ∧
    (∃ (e : Nat) (s : State) (y : EngBlk) (j : Job) (x : Part) (b : OutBlk), ((getE s e).blks.find? (unissued s) = some y) ∧ (blkOf s y = some (j, x, b)) ∧ (passBad s j.args b y.issued = none) ∧ ∃ v, (v = noteFetches (issueVector s e) e (passReads j.args b y.issued)) ∧ ∃ u, (u = (if v.gov.f < 64 then { v with gov := { v.gov with denied := true } } else v)) ∧ ∃ acc, (acc = passAcc u j.args b y.issued y.acc)) ∧
    (∃ (e : Nat) (s u : State) (y : EngBlk) (j : Job) (x : Part) (b : OutBlk) (c : PassRes) (t : List PassRes), (testing s e = false) ∧ (issuePasses 4 (pruneEngine s e) e = u) ∧ ((getE u e).blks.find? (fun y => y.flight != []) = some y) ∧ (y.flight = c :: t) ∧ (blkOf u y = some (j, x, b)) ∧ (c.bad = none)) ∧
    (∃ (e i : Nat) (s u : State) (y : EngBlk) (j : Job) (x : Part) (b : OutBlk) (c : PassRes) (t : List PassRes), (testing s e = false) ∧ (issuePasses 4 (pruneEngine s e) e = u) ∧ ((getE u e).blks.find? (fun y => y.flight != []) = some y) ∧ (y.flight = c :: t) ∧ (blkOf u y = some (j, x, b)) ∧ (y.chkEn = true) ∧ (c.skipR.contains i = false) ∧ (y.runs = 0) ∧ ∃ v, (v = rinc u (eReg e oENG_CHK_SKIP) (c.skipR.length + c.skipC.length))) ∧
    (∃ (e : Nat) (s u : State) (y : EngBlk) (j : Job) (b : OutBlk), (pruneEngine s e = u) ∧ (drainReady u e = some (y, j, b)) ∧ (drainBad u j b = none) ∧ ∃ v, (v = noteReads u (.engine e) (drainReads j b)) ∧ ∃ q, (q = effEngineTiles y ((tilesOf j.args b).map (·.no))) ∧ ∃ d, (d = drainBlk v j b y.acc) ∧ ∃ cs, (cs = (tilesOf j.args b).map (tileCtx v j d q)) ∧ ((∀ c ∈ cs, c.over (kept v j.extra) = false))) ∧
    (∃ (e : Nat) (s u : State) (w : OutWrite) (j : Job) (x : Part), (pruneEngine s e = u) ∧ ((getE u e).outBuf = [w]) ∧ (partLive u w.job w.part = some (j, x)) ∧ (canStream u j w.bytes.length = true)) :=
  ⟨⟨.queue 0 0, 0, twith tst (tmatJob .sent), tmatJob .sent, tmatPart .sent, by decide +kernel, by decide +kernel, _, rfl⟩,
   ⟨0, tmatOn 0 0 [], tmatBlk 0 0 [], tmatJob .busy, tmatPart .busy, ⟨0, 1, 0, 1⟩, by decide +kernel, by decide +kernel, by decide +kernel, _, rfl, _, rfl, _, rfl⟩,
   ⟨0, tmatOn 4 0 [{}], tmatOn 4 0 [{}], tmatBlk 4 0 [{}], tmatJob .busy, tmatPart .busy, ⟨0, 1, 0, 1⟩, {}, [], by decide +kernel⟩,
   ⟨0, 0, tmatOn 4 0 [{}], tmatOn 4 0 [{}], tmatBlk 4 0 [{}], tmatJob .busy, tmatPart .busy, ⟨0, 1, 0, 1⟩, {}, [], by decide +kernel, by decide +kernel, by decide +kernel, (by decide +kernel), by decide +kernel, by decide +kernel, by decide +kernel, (by decide +kernel), _, rfl⟩,
   ⟨0, tmatOn 4 0 [], tmatOn 4 0 [], tmatBlk 4 0 [], tmatJob .busy, ⟨0, 1, 0, 1⟩, by decide +kernel, by decide +kernel, by decide +kernel, _, rfl, _, rfl, _, rfl, _, rfl, by decide +kernel⟩,
   ⟨0, putE (twith tst (tmatJob .busy)) 0 { outBuf := [⟨.queue 0 0, 0, 0, 64, [1]⟩] }, putE (twith tst (tmatJob .busy)) 0 { outBuf := [⟨.queue 0 0, 0, 0, 64, [1]⟩] }, ⟨.queue 0 0, 0, 0, 64, [1]⟩, tmatJob .busy, tmatPart .busy, by decide +kernel⟩⟩

theorem witness_engine_activity :
    (∃ (e : Nat) (s : State), ((getE s e).act = .rampUp) ∧ ((getE s e).stage < 2) ∧ ∃ n, (n = upStage (rampLen s e) (getE s e).stage)) ∧
    (∃ (e : Nat) (s : State), ((getE s e).act = .rampUp) ∧ (2 ≤ (getE s e).stage) ∧ ∃ n, (n = upStage (rampLen s e) (getE s e).stage) ∧ ∃ u, (u = putE (rinc64 s (eReg e oENG_RAMPLOSS_LO) (n.1 - cdiv n.1 n.2)) e { getE s e with act := .active, stage := 0 })) ∧
    (∃ (e : Nat) (s : State), ((getE s e).act = .hold)) ∧
    (∃ (e : Nat) (s : State), ((getE s e).act = .rampDown) ∧ ((getE s e).stage < 2)) ∧
    (∃ (e : Nat) (s : State), ((getE s e).act = .rampDown) ∧ (2 ≤ (getE s e).stage)) ∧
    (∃ (e : Nat) (v : Word) (s : State), (e < 96) ∧ (commitPending s (winEng e) = false) ∧ ((getE s e).act ≠ .selftest) ∧ ∃ u, (u = rputBit s (eReg e oENG_CTRL) 3 (wbit v 3))) ∧
    (∃ (e : Nat) (v : Word) (s : State), (e < 96) ∧ (wbit v 31 = true) ∧ (fenced s e = true) ∧ ((getE s e).act = .idle)) ∧
    (∃ (e : Nat) (s : State), ((getE s e).act = .selftest) ∧ ((getE s e).unfence = false)) :=
  ⟨⟨0, putE tst 0 { act := .rampUp, stage := 1 }, by decide +kernel, by decide +kernel, _, rfl⟩,
   ⟨0, putE tst 0 { act := .rampUp, stage := 2 }, by decide +kernel, by decide +kernel, _, rfl, _, rfl⟩,
   ⟨0, putE tst 0 { act := .hold }, by decide +kernel⟩,
   ⟨0, putE tst 0 { act := .rampDown, stage := 1 }, by decide +kernel⟩,
   ⟨0, putE tst 0 { act := .rampDown, stage := 2 }, by decide +kernel⟩,
   ⟨95, 1, tst, by decide +kernel, by decide +kernel, by decide +kernel, _, rfl⟩,
   ⟨0, 0x80000000, rput tst (eReg 0 oENG_CTRL) 1, by decide +kernel⟩,
   ⟨0, putE tst 0 { act := .selftest }, by decide +kernel⟩⟩

theorem witness_elemwise_and_kernel :
    (∀ op ∈ ([1, 2, 3, 4, 5, 6, 8, 9, 10, 11, 12, 13, 16, 17, 18, 19, 24, 25, 26, 27, 28, 29] : List Nat), freshOf (twith tst (tewJob op .sent)) (.queue 0 0) 0 2 0 = some (tewJob op .sent, tewPart .sent) ∧ ewOp (tewJob op .sent).args = op ∧ coreTurn (twith tst (tewJob op .sent)) (.queue 0 0) 0 (tewPart .sent).floe = true ∧ ∀ f, (runUnits (.queue 0 0) (coreOf (tewPart .sent).floe) (tewJob op .sent).args op f ((List.range ((tewPart .sent).hi - (tewPart .sent).lo)).map ((tewPart .sent).lo + ·)) (twith tst (tewJob op .sent))).2 = none) ∧
    (∃ (r : JobRef) (p c : Nat) (s : State) (j : Job) (x : Part), (freshOf s r p 2 0 = some (j, x)) ∧ (ewOp j.args = 0x3F) ∧ (coreOf x.floe = c) ∧ (coreTurn s r p x.floe = true) ∧ (getCore s c = none) ∧ (kRunLimit j.args ≠ 0)) ∧
    (∃ (c : Nat) (pc : DWord) (k : CoreRun) (ks : List KAccess) (s t : State) (j : Job) (x : Part), (getCore s c = some k) ∧ (ks.any (fun a => firnBusy s a.addr (accSize a)) = false) ∧ (kernelAccesses c ks s = (t, .all)) ∧ (partLive (trapCore t c causeUEcall pc 0) k.job k.part = some (j, x))) ∧
    (∃ (c : Nat) (pc a7 : DWord) (k : CoreRun) (ks : List KAccess) (s t : State), (getCore s c = some k) ∧ (ks.any (fun a => firnBusy s a.addr (accSize a)) = false) ∧ (kernelAccesses c ks s = (t, .all)) ∧ (a7 ≠ 0)) ∧
    (∃ (c : Nat) (mc me mt : DWord) (k : CoreRun) (ks : List KAccess) (s t : State), (getCore s c = some k) ∧ (ks.any (fun a => firnBusy s a.addr (accSize a)) = false) ∧ (kernelAccesses c ks s = (t, .all))) ∧
    (∃ (c : Nat) (pc : DWord) (k : CoreRun) (ks : List KAccess) (a : KAccess) (s t : State), (getCore s c = some k) ∧ (ks.any (fun a => firnBusy s a.addr (accSize a)) = false) ∧ (kernelAccesses c ks s = (t, .access a))) ∧
    (∃ (c : Nat) (pc : DWord) (k : CoreRun) (ks : List KAccess) (s t : State), (getCore s c = some k) ∧ (ks.any (fun a => firnBusy s a.addr (accSize a)) = false) ∧ (kernelAccesses c ks s = (t, .all)) ∧ (k.started + kernelLimit s k ≤ s.clock)) :=
  ⟨by
  have h : ∀ op ∈ ([1, 2, 3, 4, 5, 6, 8, 9, 10, 11, 12, 13, 16, 17, 18, 19, 24, 25, 26, 27, 28, 29] : List Nat), freshOf (twith tst (tewJob op .sent)) (.queue 0 0) 0 2 0 = some (tewJob op .sent, tewPart .sent) ∧ ewOp (tewJob op .sent).args = op ∧ coreTurn (twith tst (tewJob op .sent)) (.queue 0 0) 0 (tewPart .sent).floe = true := by decide +kernel
  intro op ho; exact ⟨(h op ho).1, (h op ho).2.1, (h op ho).2.2, fun f => rfl⟩,
   ⟨.queue 0 0, 0, 0, twith tst (tkJob .sent), tkJob .sent, { tewPart .sent with hi := 1 }, by decide +kernel⟩,
   ⟨0, 4, tkRun, [], tkOn, tkOn, tkJob .busy, { tewPart .busy with hi := 1 }, by decide +kernel⟩,
   ⟨0, 4, 1, tkRun, [], tkOn, tkOn, by decide +kernel⟩,
   ⟨0, 2, 0, 0, tkRun, [], tkOn, tkOn, by decide +kernel⟩,
   ⟨0, 4, tkRun, [⟨8, .load, 2 ^ 47, [], 8⟩], ⟨8, .load, 2 ^ 47, [], 8⟩, tkOn, tkOn, by decide +kernel⟩,
   ⟨0, 4, tkRun, [], { tkOn with clock := 5000 }, { tkOn with clock := 5000 }, by decide +kernel⟩⟩

theorem witness_copy_part :
    (∃ (r : JobRef) (p : Nat) (s : State) (j : Job) (x : Part), (freshOf s r p 3 0 = some (j, x)) ∧ ∃ q, (q = localUnits false r x.floe j.args (partUnits x) s) ∧ (q.2 = none)) ∧
    (∃ (r : JobRef) (p : Nat) (s : State) (j : Job) (x : Part), (freshOf s r p 4 0 = some (j, x)) ∧ ∃ q, (q = localUnits true r x.floe j.args (partUnits x) s) ∧ (q.2 = none)) ∧
    (∃ (r : JobRef) (p : Nat) (s : State) (j : Job) (x : Part), (freshOf s r p 3 1 = some (j, x))) ∧
    (∃ (r : JobRef) (p : Nat) (s : State) (j : Job) (x : Part), (freshOf s r p 3 2 = some (j, x))) ∧
    (∃ (r : JobRef) (p : Nat) (s : State) (j : Job) (x : Part), (freshOf s r p 4 1 = some (j, x))) ∧
    (∃ (r : JobRef) (p : Nat) (s : State) (j : Job) (x : Part), (freshOf s r p 3 3 = some (j, x))) ∧
    (∃ (r : JobRef) (p : Nat) (s : State) (j : Job) (x : Part), (freshOf s r p 0xB 0 = some (j, x))) ∧
    (∃ (r : JobRef) (p : Nat) (s : State) (j : Job) (x : Part), (freshOf s r p 0xB 1 = some (j, x))) :=
  ⟨⟨.queue 0 0, 0, twith tst (tcpJob 0x30), tcpJob 0x30, tpart .sent, by decide +kernel, _, rfl, by decide +kernel⟩,
   ⟨.queue 0 0, 0, twith tst (tcpJob 0x40), tcpJob 0x40, tpart .sent, by decide +kernel, _, rfl, by decide +kernel⟩,
   ⟨.queue 0 0, 0, twith tst (tcpJob 0x31), tcpJob 0x31, tpart .sent, by decide +kernel⟩,
   ⟨.queue 0 0, 0, twith tst (tcpJob 0x32), tcpJob 0x32, tpart .sent, by decide +kernel⟩,
   ⟨.queue 0 0, 0, twith tst (tcpJob 0x41), tcpJob 0x41, tpart .sent, by decide +kernel⟩,
   ⟨.queue 0 0, 0, twith tst (tcpJob 0x33), tcpJob 0x33, tpart .sent, by decide +kernel⟩,
   ⟨.queue 0 0, 0, twith tst (tjob (.queue 0 0) tfence [] .running (tpart .sent)), tjob (.queue 0 0) tfence [] .running (tpart .sent), tpart .sent, by decide +kernel⟩,
   ⟨.queue 0 0, 0, twith tst (tjob (.queue 0 0) (tdesc 0xB1000000 0x60000000) [] .running (tpart .sent)), tjob (.queue 0 0) (tdesc 0xB1000000 0x60000000) [] .running (tpart .sent), tpart .sent, by decide +kernel⟩⟩

theorem witness_firn_rows :
    (∃ (r : JobRef) (p k : Nat) (s : State) (j : Job) (x : Part), (freshOf s r p 0xC 0 = some (j, x)) ∧ (fpDomains j.args ≠ 0) ∧ (frBusy s (fpRegion s j.args) = false) ∧ ∃ u, (u = packFrom r 0 (fpRegion s j.args) j.args (List.range (fpDomains j.args)) s 64) ∧ (u.2 = .ok k)) ∧
    (∃ (r : JobRef) (p k : Nat) (s : State) (j : Job) (x : Part), (freshOf s r p 0xC 1 = some (j, x)) ∧ (fpDomains j.args ≠ 0) ∧ (frBusy s (fpRegion s j.args) = false) ∧ ∃ u, (u = packFrom r 1 (fpRegion s j.args) j.args (List.range (fpDomains j.args)) s 64) ∧ (u.2 = .ok k)) ∧
    (∃ (r : JobRef) (p k : Nat) (s : State) (j : Job) (x : Part), (freshOf s r p 0xC 2 = some (j, x)) ∧ (fpDomains j.args ≠ 0) ∧ (frBusy s (fpRegion s j.args) = false) ∧ (64 ≤ fpImageLen j.args) ∧ ∃ u, (u = packFrom r 2 (fpRegion s j.args) j.args (List.range (fpDomains j.args)) s 64) ∧ (u.2 = .ok k) ∧ ∃ v, (v = storeBytes u.1 packSource (fpImage j.args) (imageHeader u.1 (fpRegion s j.args) j.args k)) ∧ (v.2 = none)) ∧
    (∃ (r : JobRef) (p k : Nat) (s : State) (j : Job) (x : Part), (freshOf s r p 0xC 3 = some (j, x)) ∧ (fpDomains j.args ≠ 0) ∧ (frBusy s (fpRegion s j.args) = false) ∧ (headerOk s (fpRegion s j.args) j.args = true) ∧ (badIn s (fpImage j.args) 64 = none) ∧ ∃ u, (u = packFrom r 3 (fpRegion s j.args) j.args (List.range (fpDomains j.args)) (noteRead s packSource (fpImage j.args) 64) 64) ∧ (u.2 = .ok k)) ∧
    (∃ (r : JobRef) (p k : Nat) (s : State) (j : Job) (x : Part), (freshOf s r p 0xC 4 = some (j, x)) ∧ (fpDomains j.args ≠ 0) ∧ (frBusy s (fpRegion s j.args) = false) ∧ ∃ u, (u = packFrom r 4 (fpRegion s j.args) j.args (List.range (fpDomains j.args)) s 64) ∧ (u.2 = .ok k)) ∧
    (∀ v ∈ [0, 1, 2, 3, 4], ∃ s : State, ∃ j : Job, s = (twith (putBytes tfirn 0x2000000 (le32 imgMagic ++ le32 1 ++ le32 (frElem tfirn 0) ++ le32 0 ++ le64 576)) { tfpJob v with args := le64 0 ++ le64 0 ++ le64 0x2000000 ++ le64 8192 }) ∧ j = { tfpJob v with args := le64 0 ++ le64 0 ++ le64 0x2000000 ++ le64 8192 } ∧ freshOf s (.queue 0 0) 0 0xC v = some (j, tpart .sent) ∧ fpDomains j.args = 0 ∧ (v = 3 → badIn s (fpImage j.args) 64 = none ∧ headerOk s (fpRegion s j.args) j.args = true)) ∧
    (∃ (a : Nat) (bs : List Byte) (s t : State), (firnTouches s a bs.length = true) ∧ (rangeMapped s.order a bs.length = true) ∧ (firnBusy s a bs.length = false) ∧ (storeBytes s packSource a bs = (t, none))) ∧
    (∃ (n : Nat) (s : State), (frEnabled s n = true) ∧ (frBusy s n = true)) ∧
    (∃ (k : Nat) (h : ScrubHit) (s : State), (rbit s (wreg (winMem k) oMEM_CTRL) 0 = true) ∧ (winPresent s.order (winMem k) = true) ∧ (inHbm s.order h.addr = true) ∧ (hbmCtl s.order h.addr = k) ∧ (h.correctable = true) ∧ (h.found = true)) ∧
    (∃ (k : Nat) (h : ScrubHit) (s : State), (rbit s (wreg (winMem k) oMEM_CTRL) 0 = true) ∧ (winPresent s.order (winMem k) = true) ∧ (inHbm s.order h.addr = true) ∧ (hbmCtl s.order h.addr = k) ∧ (h.correctable = false) ∧ (h.found = true) ∧ ∃ w, (w = codeWord s.order h.addr) ∧ ∃ u, (u = scrubAt s w)) ∧
    (∃ (h : ScrubHit) (s : State), ((inCstore h.addr || inEstore h.addr) = true) ∧ (h.correctable = true) ∧ (h.found = true)) :=
  ⟨⟨.queue 0 0, 0, 64, twith tfirn (tfpJob 0), tfpJob 0, tpart .sent, by decide +kernel, by decide +kernel, by decide +kernel, _, rfl, by decide +kernel⟩,
   ⟨.queue 0 0, 0, 64, twith tfirn (tfpJob 1), tfpJob 1, tpart .sent, by decide +kernel, by decide +kernel, by decide +kernel, _, rfl, by decide +kernel⟩,
   ⟨.queue 0 0, 0, 576, twith tfirn (tfpJob 2), tfpJob 2, tpart .sent, by decide +kernel, by decide +kernel, by decide +kernel, (by decide +kernel), _, rfl, by decide +kernel, _, rfl, by decide +kernel⟩,
   ⟨.queue 0 0, 0, 576, twith (putBytes tfirn 0x2000000 (le32 imgMagic ++ le32 1 ++ le32 (frElem tfirn 0) ++ le32 1 ++ le64 576)) (tfpJob 3), tfpJob 3, tpart .sent, by decide +kernel, by decide +kernel, by decide +kernel, (by decide +kernel), by decide +kernel, _, rfl, by decide +kernel⟩,
   ⟨.queue 0 0, 0, 64, twith tfirn (tfpJob 4), tfpJob 4, tpart .sent, by decide +kernel, by decide +kernel, by decide +kernel, _, rfl, by decide +kernel⟩,
   fun v hv => ⟨_, _, rfl, rfl, by revert v; decide +kernel⟩,
   ⟨0, [5], tfirn, _, by decide +kernel, by decide +kernel, by decide +kernel, rfl⟩,
   ⟨0, rput tfirn (frReg 0 oFR_STAT) 0x80000000, by decide +kernel⟩,
   ⟨0, ⟨0, true, false, false, true⟩, rput tst (wreg (winMem 0) oMEM_CTRL) 1, by decide +kernel⟩,
   ⟨0, ⟨0, false, false, false, true⟩, rput tst (wreg (winMem 0) oMEM_CTRL) 1, by decide +kernel, by decide +kernel, by decide +kernel, (by decide +kernel), by decide +kernel, by decide +kernel, _, rfl, _, rfl⟩,
   ⟨⟨cstoreBase, true, false, false, true⟩, tst, by decide +kernel⟩⟩

theorem witness_re_encode_keeps_content : ∃ (n b : Nat) (s : State), (frEnabled s n = true) ∧ (frBusy s n = false) ∧ (4096 * b < frLen s n) ∧ (domCoded s n (b / 64) = true) ∧ (mapIsRaw (mapOf s n b) = true) ∧ (badIn s (blockAddr s n b) 4096 = none) ∧ ∃ u, (u = correctWhere s (fetches s (blockAddr s n b) 4096)) :=
  ⟨0, 0, putBytes (putBytes tfirn 0x1000008 [1]) 0x1000800 (leBytes mapRaw 2), by decide +kernel, by decide +kernel, by decide +kernel, (by decide +kernel), by decide +kernel, by decide +kernel, _, rfl⟩

theorem witness_upd_rows :
    (∃ (r : JobRef) (p : Nat) (s : State) (j : Job) (x : Part), (freshOf s r p 0x6 0 = some (j, x)) ∧ (commitPending s winUpd = false) ∧ (s.updRuns = [])) ∧
    (∃ (r : JobRef) (p : Nat) (s : State) (j : Job) (x : Part), (freshOf s r p 0x6 1 = some (j, x)) ∧ (commitPending s winUpd = false) ∧ (s.updRuns = [])) ∧
    (∃ (r : JobRef) (p : Nat) (s : State) (j : Job) (x : Part), (freshOf s r p 0x8 0 = some (j, x)) ∧ (commitPending s winUpd = false) ∧ (s.updRuns = [])) ∧
    (∃ (r : JobRef) (p : Nat) (s : State) (j : Job) (x : Part), (freshOf s r p 0xD 0 = some (j, x)) ∧ (commitPending s winUpd = false) ∧ (s.updRuns = [])) ∧
    (∃ (s : State) (r : UpdRun), ((admittedRuns s).length < 4) ∧ (commitPending s winUpd = false) ∧ (s.updRuns.find? (fun r => !r.admitted) = some r)) ∧
    (∃ (v : Word) (s : State), (wbit v 0 = true)) ∧
    (∃ (s : State) (l : LogEntry) (ls : List LogEntry), (commitPending s winUpd = true) ∧ (admittedRuns s = []) ∧ (s.updLog = l :: ls)) ∧
    (∃ (r : JobRef) (k : Nat) (s : State) (j : Job) (u : UpdRun) (x : UpdGrp), (runGrp s r k = some (j, u, x)) ∧ (x.st = .aside) ∧ (x.replay = false) ∧ (dFam j.desc = 8) ∧ (x.genOk = false) ∧ (x.t2Ok = true) ∧ (retireMet s (grpRun s j k x) (uStep j.args) = true)) ∧
    (∃ (r : JobRef) (k : Nat) (s : State) (j : Job) (u : UpdRun) (x : UpdGrp), (runGrp s r k = some (j, u, x)) ∧ (x.st = .aside) ∧ (x.replay = false) ∧ (dFam j.desc = 8) ∧ (x.genOk = false) ∧ (x.since + us (uGenTimeout j.args) ≤ s.clock) ∧ ∃ g, (g = grpRun s j k x)) ∧
    (∃ (r : JobRef) (k : Nat) (s : State) (j : Job) (u : UpdRun) (x : UpdGrp), (runGrp s r k = some (j, u, x)) ∧ (x.todo = []) ∧ (x.left = 0) ∧ (x.replay = false) ∧ (x.st = .aside) ∧ (dFam j.desc = 6) ∧ ∃ g, (g = grpRun s j k x) ∧ (grpStop s j g = none)) ∧
    (∃ (r : JobRef) (k : Nat) (s : State) (j : Job) (u : UpdRun) (x : UpdGrp), (runGrp s r k = some (j, u, x)) ∧ (x.todo = []) ∧ (x.left = 0) ∧ (x.replay = false) ∧ (x.st = .aside) ∧ (dFam j.desc = 8) ∧ (x.t2Ok = false) ∧ (x.genOk = true)) ∧
    (∃ (r : JobRef) (k : Nat) (s : State) (j : Job) (u : UpdRun) (x : UpdGrp), (runGrp s r k = some (j, u, x)) ∧ (x.left ≠ 0) ∧ (x.st = .aside) ∧ (x.issued + us (uTierTimeout j.args) ≤ s.clock)) :=
  ⟨⟨.queue 0 0, 0, twith tst (tupJob 96 0 .sent), tupJob 96 0 .sent, tpart .sent, by decide +kernel⟩,
   ⟨.queue 0 0, 0, twith tst (tupJob 97 0 .sent), tupJob 97 0 .sent, tpart .sent, by decide +kernel⟩,
   ⟨.queue 0 0, 0, twith tst (tupJob 128 0 .sent), tupJob 128 0 .sent, tpart .sent, by decide +kernel⟩,
   ⟨.queue 0 0, 0, twith tst (tupJob 208 0 .sent), tupJob 208 0 .sent, tpart .sent, by decide +kernel⟩,
   ⟨{ tupOn 0x80 {} with updRuns := [{ tupRun {} with admitted := false }] }, { tupRun {} with admitted := false }, by decide +kernel⟩,
   ⟨1, tst, by decide +kernel⟩,
   ⟨rput { tst with updLog := [{ gid := 0, step := 1, half := 0, chunk := 0, hi := [], lo := [], state := [] }] } (wreg winUpd hBLK_COMMIT_STAT) 1, { gid := 0, step := 1, half := 0, chunk := 0, hi := [], lo := [], state := [] }, [], by decide +kernel⟩,
   ⟨.queue 0 0, 0, tupOn 0x80 { st := .aside, t2Ok := true }, tupJob 0x80 1 .busy, tupRun { st := .aside, t2Ok := true }, { st := .aside, t2Ok := true }, by decide +kernel⟩,
   ⟨.queue 0 0, 0, tupOn 0x80 { st := .aside }, tupJob 0x80 1 .busy, tupRun { st := .aside }, { st := .aside }, by decide +kernel, by decide +kernel, by decide +kernel, (by decide +kernel), by decide +kernel, by decide +kernel, _, rfl⟩,
   ⟨.queue 0 0, 0, tupOn 0x60 { st := .aside }, tupJob 0x60 1 .busy, tupRun { st := .aside }, { st := .aside }, by decide +kernel, by decide +kernel, by decide +kernel, (by decide +kernel), by decide +kernel, by decide +kernel, _, rfl, by decide +kernel⟩,
   ⟨.queue 0 0, 0, tupOn 0x80 { st := .aside, genOk := true }, tupJob 0x80 1 .busy, tupRun { st := .aside, genOk := true }, { st := .aside, genOk := true }, by decide +kernel⟩,
   ⟨.queue 0 0, 0, tupOn 0x80 { st := .aside, left := 1 }, tupJob 0x80 1 .busy, tupRun { st := .aside, left := 1 }, { st := .aside, left := 1 }, by decide +kernel⟩⟩

theorem witness_collective_rows :
    (∃ (r : JobRef) (p i : Nat) (s : State) (j : Job) (x : Part), (freshOf s r p 5 0 = some (j, x)) ∧ (groupEntry s (cGroup 5 j.args) = some i)) ∧
    (∃ (r : JobRef) (p i : Nat) (s : State) (j : Job) (x : Part), (freshOf s r p 5 1 = some (j, x)) ∧ (groupEntry s (cGroup 5 j.args) = some i)) ∧
    (∃ (r : JobRef) (p i : Nat) (s : State) (j : Job) (x : Part), (freshOf s r p 5 2 = some (j, x)) ∧ (groupEntry s (cGroup 5 j.args) = some i)) ∧
    (∃ (r : JobRef) (p i : Nat) (s : State) (j : Job) (x : Part), (freshOf s r p 5 3 = some (j, x)) ∧ (groupEntry s (cGroup 5 j.args) = some i)) ∧
    (∃ (r : JobRef) (p i : Nat) (s : State) (j : Job) (x : Part), (freshOf s r p 5 4 = some (j, x)) ∧ (groupEntry s (cGroup 5 j.args) = some i)) ∧
    (∃ (r : JobRef) (p i : Nat) (s : State) (j : Job) (x : Part), (freshOf s r p 5 5 = some (j, x)) ∧ (groupEntry s (cGroup 5 j.args) = some i)) ∧
    (∃ (r : JobRef) (p i : Nat) (s : State) (j : Job) (x : Part), (freshOf s r p 7 0 = some (j, x)) ∧ (groupEntry s (cGroup 7 j.args) = some i)) ∧
    (∃ (pk : Pkt) (s t : State) (o : ColOp), (pkKind pk = ckJOIN) ∧ (fromEjection s opCOL pk = some t) ∧ (pk.poisoned = false) ∧ (getOp t (pkGid pk) (pkSeq pk) = some o) ∧ (pk.arg.toNat = o.sig)) ∧
    (∃ (pk : Pkt) (s t : State) (o : ColOp), (pkKind pk = ckJOIN) ∧ (fromEjection s opCOL pk = some t) ∧ (pk.poisoned = false) ∧ (getOp t (pkGid pk) (pkSeq pk) = some o) ∧ (pk.arg.toNat ≠ o.sig)) ∧
    (∃ (pk : Pkt) (s t : State) (o : ColOp), (pkKind pk = ckGRANT) ∧ (fromEjection s opCOL pk = some t) ∧ (pk.poisoned = false) ∧ (getOp t (pkGid pk) (pkSeq pk) = some o)) ∧
    (∃ (pk : Pkt) (s t : State) (o : ColOp) (x : ColStream), (pkKind pk = ckDATA) ∧ (fromEjection s opCOL pk = some t) ∧ (pk.poisoned = false) ∧ (getOp t (pkGid pk) (pkSeq pk) = some o) ∧ (o.ins.find? (pkIs pk) = some x) ∧ (x.data.length = pk.arg.toNat) ∧ (x.data.length + pk.payload.length ≤ x.granted) ∧ (pk.payload.length ≤ 2048) ∧ ∃ u, (u = rinc64 t rCOL_RXBYTES_LO pk.payload.length) ∧ ∃ v, (v = (if x.phase = 0 then rinc64 u rCOL_OPS_LO (pk.payload.length / cEsz o.var (opArgs t o)) else u))) ∧
    (∃ (pk : Pkt) (s t : State) (o : ColOp), (pkKind pk = ckABORT) ∧ (fromEjection s opCOL pk = some t) ∧ (pk.poisoned = false) ∧ (getOp t (pkGid pk) (pkSeq pk) = some o) ∧ (wbit pk.arg 31 = false)) ∧
    (∃ (pk : Pkt) (s t : State) (o : ColOp), (pkKind pk = ckUP) ∧ (fromEjection s opCOL pk = some t) ∧ (pk.poisoned = false) ∧ (getOp t (pkGid pk) (pkSeq pk) = some o) ∧ (o.ups.contains pk.src = true)) ∧
    (∃ (pk : Pkt) (s t : State) (o : ColOp), (pkKind pk = ckDOWN) ∧ (fromEjection s opCOL pk = some t) ∧ (pk.poisoned = false) ∧ (getOp t (pkGid pk) (pkSeq pk) = some o) ∧ (o.sentUp = true) ∧ (o.parent.map (·.1) = some pk.src)) ∧
    (∃ (r : JobRef) (p : Nat) (s : State) (o : ColOp), (s.colOps.find? (fun o => o.job == r && o.part == p) = some o) ∧ (o.since + us (cTimeout o.fam (opArgs s o)) ≤ s.clock)) ∧
    (∃ (r : JobRef) (p i : Nat) (s : State) (j : Job), (s.colOps.find? (fun o => o.job == r && o.part == p) = none) ∧ (getJob s r = some j) ∧ (freshOp s j = some i) ∧ (j.began + us (cTimeout (dFam j.desc) j.args) ≤ s.clock)) ∧
    (∃ (s : State) (o : ColOp), (s.colOps.find? (fun o => o.ctx.isNone) = some o)) ∧
    (∃ (i m live : Nat) (s : State), (i < 64) ∧ (gValid s i = true) ∧ (gRoot s i = myId s) ∧ (inBox s i m = true)) :=
  ⟨⟨.queue 0 0, 0, 0, twith tgrp (tcoJob 80 .sent), tcoJob 80 .sent, tpart .sent, by decide +kernel⟩,
   ⟨.queue 0 0, 0, 0, twith tgrp (tcoJob 81 .sent), tcoJob 81 .sent, tpart .sent, by decide +kernel⟩,
   ⟨.queue 0 0, 0, 0, twith tgrp (tcoJob 82 .sent), tcoJob 82 .sent, tpart .sent, by decide +kernel⟩,
   ⟨.queue 0 0, 0, 0, twith tgrp (tcoJob 83 .sent), tcoJob 83 .sent, tpart .sent, by decide +kernel⟩,
   ⟨.queue 0 0, 0, 0, twith tgrp (tcoJob 84 .sent), tcoJob 84 .sent, tpart .sent, by decide +kernel⟩,
   ⟨.queue 0 0, 0, 0, twith tgrp (tcoJob 85 .sent), tcoJob 85 .sent, tpart .sent, by decide +kernel⟩,
   ⟨.queue 0 0, 0, 0, twith tgrp (tcoJob 112 .sent), tcoJob 112 .sent, tpart .sent, by decide +kernel⟩,
   ⟨tcoPkt ckJOIN 0 [], { tcoOn tcoOp with ejq := [tcoPkt ckJOIN 0 []] }, tcoOn tcoOp, tcoOp, by decide +kernel⟩,
   ⟨tcoPkt ckJOIN 1 [], { tcoOn tcoOp with ejq := [tcoPkt ckJOIN 1 []] }, tcoOn tcoOp, tcoOp, by decide +kernel⟩,
   ⟨tcoPkt ckGRANT 1 [], { tcoOn tcoOp with ejq := [tcoPkt ckGRANT 1 []] }, tcoOn tcoOp, tcoOp, by decide +kernel⟩,
   ⟨tcoPkt ckDATA 0 [1, 2, 3, 4], { tcoOn tcoOp with ejq := [tcoPkt ckDATA 0 [1, 2, 3, 4]] }, tcoOn tcoOp, tcoOp, tcoStream, by decide +kernel, by decide +kernel, by decide +kernel, (by decide +kernel), by decide +kernel, by decide +kernel, by decide +kernel, (by decide +kernel), _, rfl, _, rfl⟩,
   ⟨tcoPkt ckABORT 1 [], { tcoOn tcoOp with ejq := [tcoPkt ckABORT 1 []] }, tcoOn tcoOp, tcoOp, by decide +kernel⟩,
   ⟨tcoPkt ckUP 1 [], { tcoOn tvoOp with ejq := [tcoPkt ckUP 1 []] }, tcoOn tvoOp, tvoOp, by decide +kernel⟩,
   ⟨tcoPkt ckDOWN 0 [], { tcoOn tvoOp with ejq := [tcoPkt ckDOWN 0 []] }, tcoOn tvoOp, tvoOp, by decide +kernel⟩,
   ⟨.queue 0 0, 0, { tcoOn tcoOp with clock := 5000 }, tcoOp, by decide +kernel⟩,
   ⟨.queue 0 0, 0, 0, { twith tgrp (tcoJob 0x50 .sent) with clock := 5000 }, tcoJob 0x50 .sent, by decide +kernel⟩,
   ⟨tcoOn tcoOp, tcoOp, by decide +kernel⟩,
   ⟨0, 0, 95, tgrp, by decide +kernel⟩⟩

theorem witness_one_addition_satisfies_all : ∃ (s : State) (i n : Nat), ((getC s i).st = .live) ∧ ∃ t, (t = addCounter s i n) :=
  ⟨tsyn, 0, 4, by decide +kernel, _, rfl⟩

theorem witness_waits_signals_preemption :
    (∃ (r : JobRef) (p : Nat) (s : State) (j : Job) (x : Part), (freshOf s r p 9 0 = some (j, x))) ∧
    (∃ (r : JobRef) (p : Nat) (s : State) (j : Job) (x : Part), (freshOf s r p 9 1 = some (j, x)) ∧ (tkModule j.args = myId s) ∧ ((getC s (tkIndex j.args)).st = .live)) ∧
    (∃ (r : JobRef) (p : Nat) (s : State) (j : Job) (x : Part), (freshOf s r p 9 1 = some (j, x)) ∧ (tkModule j.args ≠ myId s) ∧ (canRequest s = true)) ∧
    (∃ (r : JobRef) (p : Nat) (s : State) (j : Job) (x : Part), (freshOf s r p 0xA 0 = some (j, x)) ∧ ((∀ i ∈ sgEntries j.args, sgModule j.args i = myId s))) ∧
    (∃ (r : JobRef) (p : Nat) (s : State) (j : Job) (x : Part), (freshOf s r p 0xA 1 = some (j, x)) ∧ (sgCount j.args ≠ 0) ∧ (sgModule j.args 0 = myId s) ∧ ((getC s (sgIndex j.args 0)).st = .live) ∧ ∃ q, (q = writeResult (fetchAdd s (sgIndex j.args 0) (sgVal j.args 0 % 2 ^ 32)).2.2 (sgResult j.args) (getC s (sgIndex j.args 0)).val) ∧ (q.2 = none)) ∧
    (∃ (r : JobRef) (p : Nat) (s : State) (j : Job) (x : Part), (freshOf s r p 0xA 2 = some (j, x)) ∧ ∃ q, (q = entriesFrom (assignEntry (fromAway s r)) j.args (sgEntries j.args) s) ∧ (q.2 = none)) ∧
    (∃ (r : JobRef) (p : Nat) (s : State) (j : Job) (x : Part), (freshOf s r p 0xA 3 = some (j, x)) ∧ ∃ q, (q = entriesFrom (releaseEntry (fromAway s r)) j.args (sgEntries j.args) s) ∧ (q.2 = none)) ∧
    (∃ (away : Bool) (s : State) (a : List Byte) (i : Nat), (floeValid s (sgAux a i) = true) ∧ (floeHere s (sgAux a i) = true) ∧ ((away && (floeOf (sgAux a i)).isLocal) = false) ∧ ((getC s (sgIndex a i)).st ≠ .live) ∧ (ownedBy s (w32 (localFloe s (sgAux a i))) < quotaOf (floeOf (sgAux a i)).level)) ∧
    (∃ (away : Bool) (s : State) (a : List Byte) (i : Nat), ((getC s (sgIndex a i)).st ≠ .free)) ∧
    (∃ (v : Word) (s : State), (floeValid s v.toNat = true) ∧ (floeHere s v.toNat = true)) :=
  ⟨⟨.queue 0 0, 0, twith tctr (tsyJob 0x90 .sent), tsyJob 0x90 .sent, tpart .sent, by decide +kernel⟩,
   ⟨.queue 0 0, 0, twith tctr (tsyJob 0x91 .sent), tsyJob 0x91 .sent, tpart .sent, by decide +kernel⟩,
   ⟨.queue 0 0, 0, twith tctr { tsyJob 0x91 .sent with args := le32 1 ++ zeroBytes 28 }, { tsyJob 0x91 .sent with args := le32 1 ++ zeroBytes 28 }, tpart .sent, by decide +kernel⟩,
   ⟨.queue 0 0, 0, twith tctr (tsyJob 0xA0 .sent), tsyJob 0xA0 .sent, tpart .sent, by decide +kernel⟩,
   ⟨.queue 0 0, 0, twith tctr (tsyJob 0xA1 .sent), tsyJob 0xA1 .sent, tpart .sent, by decide +kernel, by decide +kernel, by decide +kernel, (by decide +kernel), _, rfl, by decide +kernel⟩,
   ⟨.queue 0 0, 0, twith tst { tsyJob 0xA2 .sent with args := le32 1 ++ zeroBytes 40 ++ le32 0x60000000 ++ zeroBytes 80 }, { tsyJob 0xA2 .sent with args := le32 1 ++ zeroBytes 40 ++ le32 0x60000000 ++ zeroBytes 80 }, tpart .sent, by decide +kernel, _, rfl, by decide +kernel⟩,
   ⟨.queue 0 0, 0, twith tctr (tsyJob 0xA3 .sent), tsyJob 0xA3 .sent, tpart .sent, by decide +kernel, _, rfl, by decide +kernel⟩,
   ⟨false, tst, zeroBytes 44 ++ le32 0x60000000 ++ zeroBytes 80, 0, by decide +kernel⟩,
   ⟨true, tctr, zeroBytes 128, 0, by decide +kernel⟩,
   ⟨0x60000000, tst, by decide +kernel⟩⟩

theorem witness_counter_packets :
    (∃ (pk : Pkt) (s t : State), (fromEjection s opSIG pk = some t) ∧ (pk.poisoned = false) ∧ (synHeld t = false) ∧ ((pk.ordered = false ∨ (onPoisonList t pk = false ∧ t.poisoned.length ≠ 64))) ∧ ∃ i, (i = pk.addr.toNat % 65536) ∧ ∃ u, (u = addCounter t i pk.arg.toNat)) ∧
    (∃ (pk : Pkt) (s t : State), (fromEjection s opFADD pk = some t) ∧ (pk.poisoned = false) ∧ (synHeld t = false) ∧ ((getC t (pk.addr.toNat % 65536)).st = .live)) ∧
    (∃ (pk : Pkt) (s t : State), (fromEjection s opFADD pk = some t) ∧ (pk.poisoned = false) ∧ (synHeld t = false) ∧ ((getC t (pk.addr.toNat % 65536)).st ≠ .live)) ∧
    (∃ (pk : Pkt) (s t : State), (fromEjection s opMGT pk = some t) ∧ (pk.poisoned = false) ∧ (pk.arg = w32 mgtRegister) ∧ ∃ i, (i = pk.addr.toNat % 65536) ∧ ((getC t i).st = .live) ∧ (waitMet (getC t i).val (w64 (leAt pk.payload 8 8)) = true)) ∧
    (∃ (pk : Pkt) (s t : State), (fromEjection s opMGT pk = some t) ∧ (pk.poisoned = false) ∧ (pk.arg = w32 mgtRegister) ∧ ∃ i, (i = pk.addr.toNat % 65536) ∧ ((getC t i).st = .live) ∧ (waitMet (getC t i).val (w64 (leAt pk.payload 8 8)) = false) ∧ (leAt pk.payload 0x10 8 ≠ 0) ∧ (waitRoom t (leAt pk.payload 0 8) (.remote pk.src 0 0 0 0) = true) ∧ ∃ u, (u = dropRefused t (leAt pk.payload 0 8) (.remote pk.src 0 0 0 0))) ∧
    (∃ (pk : Pkt) (s t : State) (r : RemoteWait), (fromEjection s opMGT pk = some t) ∧ (pk.poisoned = false) ∧ (pk.arg = w32 mgtVerdict) ∧ (getRwait t (leAt pk.payload 0 8) = some r) ∧ (r.dest = pk.src) ∧ (leAt pk.payload 0x18 8 ≠ mgtRefused)) ∧
    (∃ (w : Nat) (s : State) (r : WaitRec), (s.waits.find? (fun r => r.wid == w && decide (r.deadline ≤ s.clock)) = some r)) ∧
    (∃ (w : Nat) (s : State) (r : RemoteWait), (getRwait s w = some r) ∧ (r.backstop ≤ s.clock)) ∧
    (∃ (w : Nat) (s : State) (r : RemoteWait), (getRwait s w = some r) ∧ (r.refused = true) ∧ (r.tried + us 1 ≤ s.clock) ∧ (r.dest ≠ myId s) ∧ ∃ u, (u = injectRaw s { op := opMGT, cls := clsMGT, dest := r.dest, addr := w64 r.ctr, arg := w32 mgtRegister, payload := mgtBody w r.thresh.toNat (r.backstop - us 10 - s.clock) r.timeout })) :=
  ⟨⟨{ src := 1, arg := 1 }, { tctr with ejq := [{ src := 1, arg := 1 }] }, tctr, by decide +kernel, by decide +kernel, by decide +kernel, (by decide +kernel), _, rfl, _, rfl⟩,
   ⟨{ op := 5, src := 1, arg := 1 }, { tctr with ejq := [{ op := 5, src := 1, arg := 1 }] }, tctr, by decide +kernel⟩,
   ⟨{ op := 5, src := 1, arg := 1 }, { tst with ejq := [{ op := 5, src := 1, arg := 1 }] }, tst, by decide +kernel⟩,
   ⟨{ op := 11, cls := 3, src := 1, arg := 1, payload := mgtBody 7 5 1000 1 }, { tctr with ejq := [{ op := 11, cls := 3, src := 1, arg := 1, payload := mgtBody 7 5 1000 1 }] }, tctr, by decide +kernel, by decide +kernel, by decide +kernel, _, rfl, by decide +kernel⟩,
   ⟨{ op := 11, cls := 3, src := 1, arg := 1, payload := mgtBody 7 9 1000 1 }, { tctr with ejq := [{ op := 11, cls := 3, src := 1, arg := 1, payload := mgtBody 7 9 1000 1 }] }, tctr, by decide +kernel, by decide +kernel, by decide +kernel, _, rfl, by decide +kernel, by decide +kernel, by decide +kernel, (by decide +kernel), _, rfl⟩,
   ⟨{ op := 11, cls := 3, src := 1, arg := 2, payload := mgtBody 4 9 1 0 }, { tsyn with ejq := [{ op := 11, cls := 3, src := 1, arg := 2, payload := mgtBody 4 9 1 0 }] }, tsyn, trwait, by decide +kernel⟩,
   ⟨3, tsyn, twait, by decide +kernel⟩,
   ⟨4, tsyn, trwait, by decide +kernel⟩,
   ⟨4, { tsyn with clock := 1000, rwaits := [{ trwait with refused := true }] }, { trwait with refused := true }, by decide +kernel, by decide +kernel, by decide +kernel, (by decide +kernel), _, rfl⟩⟩

theorem witness_mailboxes :
    (∃ (o m : Nat) (v : Word) (s : State), (hartHeld s o = false) ∧ (mbxFull s m = false) ∧ ∃ lo, (lo = (latchOf s.wrLatch o winMbx (0x1000 + 0x20 * m)).getD (rget s (mbxReg m rMBX_DATA_LO))) ∧ ∃ u, (u = rput (rput { s with wrLatch := latchDrop s.wrLatch o winMbx } (mbxReg m rMBX_DATA_LO) lo) (mbxReg m rMBX_DATA_HI) v)) ∧
    (∃ (o m : Nat) (v : Word) (s : State), (hartHeld s o = false) ∧ (mbxFull s m = true)) ∧
    (∃ (o m : Nat) (s : State), (hartHeld s o = false) ∧ ∃ u, (u = { s with resp := [rget s (mbxReg m rMBX_DATA_LO)], rdLatch := latchSet s.rdLatch o winMbx (0x1000 + 0x20 * m) (rget s (mbxReg m rMBX_DATA_HI)) })) ∧
    (∃ (a m : Nat) (s : State), (hartHeld s a = false) ∧ (rn s (mbxReg m rMBX_LOCK) = 0)) ∧
    (∃ (a m : Nat) (s : State), (hartHeld s a = false) ∧ (rn s (mbxReg m rMBX_LOCK) ≠ 0)) ∧
    (∃ (a m : Nat) (s : State), (hartHeld s a = false) ∧ (rn s (mbxReg m rMBX_LOCK) ≠ 0) ∧ (rn s (mbxReg m rMBX_LOCK) = a)) ∧
    (∃ (a m : Nat) (s : State), (hartHeld s a = false) ∧ (rn s (mbxReg m rMBX_LOCK) ≠ 0) ∧ (rn s (mbxReg m rMBX_LOCK) ≠ a)) ∧
    (∃ (a m : Nat) (v : Word) (s : State), (v ≠ 0)) ∧
    (∃ (a : Nat) (v : Word) (s : State), (hartHeld s a = false) ∧ ((a = 109 ∨ a = 110))) ∧
    (∃ (a : Nat) (v : Word) (s : State), (hartHeld s a = false)) ∧
    (∃ (a b : Nat) (v : Word) (s : State), (b ≠ a)) ∧
    (∃ (o m off : Nat) (v : Word) (s : State), (hartHeld s o = true)) :=
  ⟨⟨1, 0, 5, tst, by decide +kernel, by decide +kernel, _, rfl, _, rfl⟩,
   ⟨1, 0, 5, rput tst (mbxReg 0 rMBX_STAT) 1, by decide +kernel⟩,
   ⟨1, 0, tst, by decide +kernel, _, rfl⟩,
   ⟨1, 0, tst, by decide +kernel⟩,
   ⟨1, 0, rput tst (mbxReg 0 rMBX_LOCK) 2, by decide +kernel⟩,
   ⟨2, 0, rput tst (mbxReg 0 rMBX_LOCK) 2, by decide +kernel⟩,
   ⟨1, 0, rput tst (mbxReg 0 rMBX_LOCK) 2, by decide +kernel⟩,
   ⟨1, 0, 1, tst, by decide +kernel⟩,
   ⟨109, 1, tst, by decide +kernel⟩,
   ⟨1, 2, tst, by decide +kernel⟩,
   ⟨1, 2, 0, tst, by decide +kernel⟩,
   ⟨110, 0, 0, 0, tst, by decide +kernel⟩⟩

theorem witness_links_and_ports :
    (∃ (p lcw : Nat) (cs : List Nat) (fl : List (Nat × List Byte)) (s : State), (portUp s p = true) ∧ ∃ l, (l = getL s p) ∧ ∃ c, (c = countCorrected s p cs) ∧ ∃ fs, (fs = (if l.rxMark = 128 then [] else flitsIn c.clock lcw fl)) ∧ ∃ u, (u = rinc (rinc64 (putL c p { l with rx := (l.rx + 1) % 4096, rxMark := nextMark l.rxMark, await := false })
      (tfpReg p oTFP_RXFLIT_LO) fs.length) (tfpReg p oTFP_POISON) (fs.filter (·.2.bad)).length)) ∧
    (∃ (p q lcw : Nat) (cs : List Nat) (fl : List (Nat × List Byte)) (s : State), (portUp s p = true) ∧ (q ≠ (getL s p).rx)) ∧
    (∃ (p q lcw : Nat) (cs : List Nat) (fl : List (Nat × List Byte)) (s : State), (portUp s p = true) ∧ (retryLimit s p ≠ 0) ∧ ((getL s p).await = false) ∧ ((recentUes s (getL s p)).length + 1 ≤ ueLimit s p)) ∧
    (∃ (p q : Nat) (s : State), (portUp s p = true) ∧ ∃ b, (b = fromSeq q (getL s p).buf) ∧ (b ≠ []) ∧ (b.any (fun x => decide (retryLimit s p ≤ x.sends)) = false)) ∧
    (∃ (p q : Nat) (s : State), (portUp s p = true) ∧ (fromSeq q (getL s p).buf ≠ [])) ∧
    (∃ (p vc n : Nat) (s : State), (portUp s p = true)) ∧
    (∃ (p : Nat) (s : State), (portEnabled s p = true) ∧ (portAxisLive s p = true) ∧ (lState s p = lsDOWN) ∧ ((getL s p).began.all (fun t => decide (t + 1000000000 ≤ s.clock)) = true)) ∧
    (∃ (p id pp : Nat) (s : State), (lState s p = lsTRAINING) ∧ (trainFailed s p = false) ∧ ((getL s p).loop = false) ∧ ∃ u, (u = rputN s (tfpReg p oTFP_PEER) (2 ^ 31 + pp % 8 * 2 ^ 18 + id % 2 ^ 18)) ∧ (id = neighbour u p) ∧ (pp = (p ^^^ 1))) ∧
    (∃ (p id pp : Nat) (s : State), (lState s p = lsTRAINING) ∧ (trainFailed s p = false) ∧ ((getL s p).loop = false) ∧ ∃ u, (u = rputN s (tfpReg p oTFP_PEER) (2 ^ 31 + pp % 8 * 2 ^ 18 + id % 2 ^ 18)) ∧ ((id ≠ neighbour u p ∨ pp ≠ (p ^^^ 1)))) ∧
    (∃ (p q lcw : Nat) (cs : List Nat) (fl : List (Nat × List Byte)) (s : State), (lState s p = lsTRAINING) ∧ (lcwKind lcw = lcwPEER)) ∧
    (∃ (p lane : Nat) (s : State), (portUp s p = true)) ∧
    (∃ (p : Nat) (s : State), (portUp s p = true)) ∧
    (∃ (p : Nat) (s : State), (portUp s p = true)) ∧
    (∃ (p : Nat) (v : Word) (s : State), (wbit v 0 = true) ∧ (wbit v 2 = false)) :=
  ⟨⟨0, 1, [2], [], tup {}, by decide +kernel, _, rfl, _, rfl, _, rfl, _, rfl⟩,
   ⟨0, 3, 0, [2], [], tup {}, by decide +kernel⟩,
   ⟨0, 0, 0, [], [], tup2 {}, by decide +kernel⟩,
   ⟨0, 7, tup2 { buf := [⟨7, 1, 0, []⟩] }, by decide +kernel, [⟨7, 1, 0, []⟩], rfl, by decide +kernel⟩,
   ⟨0, 7, tup { buf := [⟨7, 1, 0, []⟩] }, by decide +kernel⟩,
   ⟨0, 0, 1, tup {}, by decide +kernel⟩,
   ⟨0, rput (rput tst rTFR_DIM 1) (tfpReg 0 oTFP_CTRL) 1, by decide +kernel⟩,
   ⟨0, 1, 1, rput (rput tst rTFR_DIM 1) (tfpReg 0 oTFP_STATUS) 1, by decide +kernel, by decide +kernel, by decide +kernel, _, rfl, by decide +kernel⟩,
   ⟨0, 0, 1, rput (rput tst rTFR_DIM 1) (tfpReg 0 oTFP_STATUS) 1, by decide +kernel, by decide +kernel, by decide +kernel, _, rfl, by decide +kernel⟩,
   ⟨0, 0, lcwWord 0 lcwPEER 5, [], [], rput tst (tfpReg 0 oTFP_STATUS) 1, by decide +kernel⟩,
   ⟨0, 3, tup {}, by decide +kernel⟩,
   ⟨0, tup {}, by decide +kernel⟩,
   ⟨0, tup {}, by decide +kernel⟩,
   ⟨0, 1, tst, by decide +kernel⟩⟩

theorem witness_route_goes_on : ∃ (s : State) (i : Option Nat) (pk q : Pkt) (p : Nat), (route s i pk = (.port p, q)) :=
  ⟨rput (rput tst rTFR_DIM 1) (axisTabOff 0 0 0) 0x100, none, { dest := 1, ttl := 3 }, { dest := 1, ttl := 2 }, 0, by decide +kernel⟩

theorem witness_router_and_endpoints :
    (∃ (pk x q : Pkt) (o : Nat) (s : State), (s.inj.find? (fun y => y.dest == pk.dest && y.cls == pk.cls && y.epoch == pk.epoch) = some x) ∧ (sameWire x { pk with poisoned := false } = true) ∧ (pktClass x.op = some x.cls) ∧ ∃ u, (u = { s with inj := s.inj.erase x }) ∧ (routeVia u x = (.port o, q)) ∧ (portUp u o = true)) ∧
    (∃ (p : Nat) (pk : Pkt) (s : State), (wormOf s p (vcOf pk) = none) ∧ ∃ b, (b = (flitBytes (streamOf (getL s p) (vcOf pk))).take 32) ∧ (b.length = 32) ∧ (hdrLen b = pk.payload.length) ∧ (sameWire (hdrOf b) { pk with payload := [], poisoned := false } = true) ∧ (pktClass (hdrOf b).op = some (hdrOf b).cls) ∧ ∃ x, (x = takeStream s p (vcOf pk) 32) ∧ ((hdrOf b).dest = myId x.2.2)) ∧
    (∃ (p o : Nat) (pk q : Pkt) (s : State), (wormOf s p (vcOf pk) = none) ∧ ∃ b, (b = (flitBytes (streamOf (getL s p) (vcOf pk))).take 32) ∧ (b.length = 32) ∧ (hdrLen b = pk.payload.length) ∧ (sameWire (hdrOf b) { pk with payload := [], poisoned := false } = true) ∧ (pktClass (hdrOf b).op = some (hdrOf b).cls) ∧ ∃ x, (x = takeStream s p (vcOf pk) 32) ∧ (route x.2.2 (some p) (hdrOf b) = (.port o, q)) ∧ (portUp x.2.2 o = true)) ∧
    (∃ (pk : Pkt) (s t : State), (fromEjection s opACC pk = some t) ∧ (pk.poisoned = false) ∧ (endpointStatus t pk.addr.toNat pk.payload.length = stOK) ∧ (firnBusy t pk.addr.toNat pk.payload.length = false) ∧ (firnTouches t pk.addr.toNat pk.payload.length = false) ∧ ∃ q, (q = accumulate t (.port (cameBy s pk)) pk.addr.toNat pk.payload) ∧ (q.2 = none)) ∧
    (∃ (pk : Pkt) (s t : State), (fromEjection s opRD pk = some t) ∧ (pk.poisoned = false) ∧ ∃ n, (n = min 8192 pk.arg.toNat) ∧ (endpointStatus t pk.addr.toNat n = stOK) ∧ (firnBusy t pk.addr.toNat n = false) ∧ (badIn t pk.addr.toNat n = none)) ∧
    (∃ (pk : Pkt) (s t : State) (k : Slot), (fromEjection s opACK pk = some t) ∧ (pk.poisoned = false) ∧ (getSlot t pk.rtag = some k) ∧ (pk.ctag = k.pk.ctag) ∧ (pk.src = k.pk.dest) ∧ (slotExpired t k = false) ∧ (pk.status = stOK)) ∧
    (∃ (pk : Pkt) (s t : State) (k : Slot), (fromEjection s opRDATA pk = some t) ∧ (pk.poisoned = false) ∧ (getSlot t pk.rtag = some k) ∧ (pk.ctag = k.pk.ctag) ∧ (pk.src = k.pk.dest) ∧ (slotExpired t k = false) ∧ (pk.status = stOK)) ∧
    (∃ (n : Nat) (s : State) (k : Slot), (getSlot s n = some k) ∧ (slotExpired s k = true)) :=
  ⟨⟨{ twr with dest := 1, ttl := 3 }, { twr with dest := 1, ttl := 3 }, { twr with dest := 1, ttl := 2 }, 0, { rput (tup {}) (axisTabOff 0 0 0) 0x100 with inj := [{ twr with dest := 1, ttl := 3 }] }, by decide +kernel, by decide +kernel, by decide +kernel, _, rfl, by decide +kernel⟩,
   ⟨0, { twr with src := 1 }, tup { inp := [[⟨pktBytes twr, false, 0⟩], [], [], [], [], [], [], []] }, by decide +kernel, _, rfl, by decide +kernel, by decide +kernel, by decide +kernel, (by decide +kernel), _, rfl, by decide +kernel⟩,
   ⟨1, 0, { twr with dest := 1, ttl := 3 }, { twr with dest := 1, ttl := 2, payload := [] }, rput (rput (putL (tup {}) 1 { inp := [[⟨pktBytes { twr with dest := 1, ttl := 3 }, false, 0⟩], [], [], [], [], [], [], []] }) (axisTabOff 0 0 0) 0x100) (tfpReg 1 oTFP_STATUS) 2, by decide +kernel, _, rfl, by decide +kernel, by decide +kernel, by decide +kernel, (by decide +kernel), _, rfl, by decide +kernel⟩,
   ⟨{ twr with op := opACC, payload := [0, 0, 0x80, 0x3F] }, { tst with ejq := [{ twr with op := opACC, payload := [0, 0, 0x80, 0x3F] }] }, tst, by decide +kernel, by decide +kernel, by decide +kernel, (by decide +kernel), by decide +kernel, _, rfl, by decide +kernel⟩,
   ⟨{ twr with op := opRD, arg := 4 }, { tst with ejq := [{ twr with op := opRD, arg := 4 }] }, tst, by decide +kernel, by decide +kernel, _, rfl, by decide +kernel⟩,
   ⟨{ op := opACK, cls := clsRSP, src := 1, ctag := 9 }, { tst with slots := [tslot], ejq := [{ op := opACK, cls := clsRSP, src := 1, ctag := 9 }] }, { tst with slots := [tslot] }, tslot, by decide +kernel⟩,
   ⟨{ op := opRDATA, cls := clsRSP, src := 1, ctag := 9 }, { tst with slots := [tslot], ejq := [{ op := opRDATA, cls := clsRSP, src := 1, ctag := 9 }] }, { tst with slots := [tslot] }, tslot, by decide +kernel⟩,
   ⟨0, { tst with slots := [tslot], clock := 10000000000 }, tslot, by decide +kernel⟩⟩

theorem witness_remote_write_stores :
    (∃ (pk : Pkt) (s t : State), (fromEjection s opWR pk = some t) ∧ (pk.poisoned = false) ∧ (endpointStatus t pk.addr.toNat pk.payload.length = stOK) ∧ (firnBusy t pk.addr.toNat pk.payload.length = false) ∧ (memSound t = true) ∧ (t.weak = []) ∧ (firnTouches t pk.addr.toNat pk.payload.length = false) ∧ (quiesced t clsRSP = false)) ∧
    (∃ (pk : Pkt) (s t : State), (fromEjection s opWR pk = some t) ∧ (pk.poisoned = true) ∧ (quiesced t clsRSP = false)) :=
  ⟨⟨twr, { tst with ejq := [twr] }, tst, by decide +kernel⟩,
   ⟨{ twr with poisoned := true }, { tst with ejq := [{ twr with poisoned := true }] }, tst, by decide +kernel⟩⟩

theorem witness_site_round :
    (∃ (r : JobRef) (p : Nat) (s : State) (j : Job) (x : Part), (freshOf s r p 0xF 0 = some (j, x)) ∧ (commitPending s winSxu = false)) ∧
    (∃ (r : JobRef) (p : Nat) (s : State) (j : Job) (x : Part), (freshOf s r p 0xF 1 = some (j, x)) ∧ (commitPending s winSxu = false)) ∧
    (∃ (r : JobRef) (p : Nat) (s : State) (j : Job) (x : Part), (freshOf s r p 0xF 2 = some (j, x)) ∧ (commitPending s winSxu = false)) ∧
    (∃ (r : JobRef) (p : Nat) (s : State) (j : Job) (x : Part), (freshOf s r p 0xF 3 = some (j, x)) ∧ (commitPending s winSxu = false)) ∧
    (∃ (r : JobRef) (p : Nat) (s : State) (j : Job) (x : Part), (freshOf s r p 0xF 4 = some (j, x)) ∧ (commitPending s winSxu = false)) ∧
    (∃ (r : JobRef) (p : Nat) (s : State) (j : Job) (x : Part), (freshOf s r p 0xF 5 = some (j, x)) ∧ (commitPending s winSxu = false) ∧ (isAction s r 0 = true)) ∧
    (∃ (r : JobRef) (p : Nat) (s : State) (j : Job) (x : Part), (freshOf s r p 0xF 5 = some (j, x)) ∧ (commitPending s winSxu = false) ∧ (isAction s r 1 = true)) ∧
    (∃ (s : State) (r : SxRun) (l : List SxRun) (j : Job), (s.sxRuns = r :: l) ∧ (getJob s r.job = some j) ∧ (sxuUp s = true) ∧ (r.begun = false) ∧ (commitPending s winSxu = false) ∧ (siteTimeOk s j = true) ∧ ∃ u : State, (u = { s with sxRuns := s.sxRuns.map (fun x : SxRun => if x.job = r.job then { x with begun := true, since := s.clock } else x) }) ∧ (dVar j.desc = 0)) ∧
    (∃ (s : State) (r : SxRun) (l : List SxRun) (j : Job), (s.sxRuns = r :: l) ∧ (getJob s r.job = some j) ∧ (sxuUp s = true) ∧ (r.begun = false) ∧ (commitPending s winSxu = false) ∧ (siteTimeOk s j = true) ∧ ∃ u : State, (u = { s with sxRuns := s.sxRuns.map (fun x : SxRun => if x.job = r.job then { x with begun := true, since := s.clock } else x) }) ∧ (dVar j.desc = 1)) ∧
    (∃ (s : State) (r : SxRun) (l : List SxRun) (j : Job), (s.sxRuns = r :: l) ∧ (getJob s r.job = some j) ∧ (sxuUp s = true) ∧ (r.begun = false) ∧ (commitPending s winSxu = false) ∧ (siteTimeOk s j = true) ∧ ∃ u : State, (u = { s with sxRuns := s.sxRuns.map (fun x : SxRun => if x.job = r.job then { x with begun := true, since := s.clock } else x) }) ∧ (dVar j.desc = 2)) ∧
    (∃ (s : State) (r : SxRun) (l : List SxRun) (j : Job), (s.sxRuns = r :: l) ∧ (getJob s r.job = some j) ∧ (sxuUp s = true) ∧ (r.begun = false) ∧ (commitPending s winSxu = false) ∧ (siteTimeOk s j = true) ∧ ∃ u : State, (u = { s with sxRuns := s.sxRuns.map (fun x : SxRun => if x.job = r.job then { x with begun := true, since := s.clock } else x) }) ∧ (dVar j.desc = 3)) ∧
    (∃ (s : State) (r : SxRun) (l : List SxRun) (j : Job), (s.sxRuns = r :: l) ∧ (getJob s r.job = some j) ∧ (sxuUp s = true) ∧ (r.begun = false) ∧ (commitPending s winSxu = false) ∧ (siteTimeOk s j = true) ∧ ∃ u : State, (u = { s with sxRuns := s.sxRuns.map (fun x : SxRun => if x.job = r.job then { x with begun := true, since := s.clock } else x) }) ∧ (dVar j.desc = 4)) ∧
    (∃ (s : State) (r : SxRun) (l : List SxRun) (j : Job), (s.sxRuns = r :: l) ∧ (getJob s r.job = some j) ∧ (sxuUp s = false)) ∧
    (∃ (s : State) (r : SxRun) (j : Job) (p : Nat), (srPeer j.args = p) ∧ (srAction j.args ≠ 0) ∧ (pValid s p = true) ∧ (pState s p ≠ psOFF)) ∧
    (∃ (s : State) (r : SxRun) (j : Job), (pState s (srPeer j.args) ≠ psRECONNECTED)) ∧
    (∃ (s : State) (r : SxRun) (j : Job), (pState s (srPeer j.args) ≠ psTHAWING)) :=
  ⟨⟨.queue 0 0, 0, twith (tsx 0) (tsrJob 0 0 .sent), tsrJob 0 0 .sent, tpart .sent, by decide +kernel⟩,
   ⟨.queue 0 0, 0, twith (tsx 0) (tsrJob 1 0 .sent), tsrJob 1 0 .sent, tpart .sent, by decide +kernel⟩,
   ⟨.queue 0 0, 0, twith (tsx 0) (tsrJob 2 0 .sent), tsrJob 2 0 .sent, tpart .sent, by decide +kernel⟩,
   ⟨.queue 0 0, 0, twith (tsx 0) (tsrJob 3 0 .sent), tsrJob 3 0 .sent, tpart .sent, by decide +kernel⟩,
   ⟨.queue 0 0, 0, twith (tsx 0) (tsrJob 4 0 .sent), tsrJob 4 0 .sent, tpart .sent, by decide +kernel⟩,
   ⟨.queue 0 0, 0, twith (tsx 0) (tsrJob 5 0 .sent), tsrJob 5 0 .sent, tpart .sent, by decide +kernel⟩,
   ⟨.queue 0 0, 0, twith (tsx 0) (tsrJob 5 1 .sent), tsrJob 5 1 .sent, tpart .sent, by decide +kernel⟩,
   ⟨{ tsrOn 2 0 0 false with siteTime := 100000000000 }, tsrRun false, [], tsrJob 0 0 .busy, by decide +kernel, by decide +kernel, by decide +kernel, (by decide +kernel), by decide +kernel, by decide +kernel, _, rfl, by decide +kernel⟩,
   ⟨{ tsrOn 2 1 0 false with siteTime := 100000000000 }, tsrRun false, [], tsrJob 1 0 .busy, by decide +kernel, by decide +kernel, by decide +kernel, (by decide +kernel), by decide +kernel, by decide +kernel, _, rfl, by decide +kernel⟩,
   ⟨{ tsrOn 2 2 0 false with siteTime := 100000000000 }, tsrRun false, [], tsrJob 2 0 .busy, by decide +kernel, by decide +kernel, by decide +kernel, (by decide +kernel), by decide +kernel, by decide +kernel, _, rfl, by decide +kernel⟩,
   ⟨{ tsrOn 2 3 0 false with siteTime := 100000000000 }, tsrRun false, [], tsrJob 3 0 .busy, by decide +kernel, by decide +kernel, by decide +kernel, (by decide +kernel), by decide +kernel, by decide +kernel, _, rfl, by decide +kernel⟩,
   ⟨{ tsrOn 2 4 0 false with siteTime := 100000000000 }, tsrRun false, [], tsrJob 4 0 .busy, by decide +kernel, by decide +kernel, by decide +kernel, (by decide +kernel), by decide +kernel, by decide +kernel, _, rfl, by decide +kernel⟩,
   ⟨rput (tsrOn 2 0 0 false) rSXU_CTRL 0, tsrRun false, [], tsrJob 0 0 .busy, by decide +kernel⟩,
   ⟨tsrOn 2 5 1 true, tsrRun true, tsrJob 5 1 .busy, 0, by decide +kernel⟩,
   ⟨tsrOn 2 2 0 true, tsrRun true, tsrJob 2 0 .busy, by decide +kernel⟩,
   ⟨tsrOn 2 3 0 true, tsrRun true, tsrJob 3 0 .busy, by decide +kernel⟩⟩

theorem witness_acnis_probes_and_joins :
    (∃ (m : AMsg) (s : State) (p : Nat), (sxuUp s = true) ∧ (m.typ = mtPROBE) ∧ (s.sxRx.contains m = true) ∧ (msgPeer s m = some p) ∧ ∃ u, (u = { s with sxRx := s.sxRx.erase m }) ∧ (leAt m.body 8 8 = 0)) ∧
    (∃ (m : AMsg) (s : State) (p : Nat), (sxuUp s = true) ∧ (m.typ = mtPROBE) ∧ (s.sxRx.contains m = true) ∧ (msgPeer s m = some p) ∧ ∃ u, (u = { s with sxRx := s.sxRx.erase m }) ∧ (leAt m.body 8 8 ≠ 0) ∧ ∃ v, (v = sendMsg u p { typ := mtPROBE_REPLY, round := m.round, body := fitBytes m.body 8 ++ le64 (siteNow u) ++ le64 (siteNow u) }) ∧ (pState v p = psNEW)) ∧
    (∃ (m : AMsg) (s : State) (p : Nat), (sxuUp s = true) ∧ (m.typ = mtPROBE_REPLY) ∧ (s.sxRx.contains m = true) ∧ (msgPeer s m = some p) ∧ ∃ u, (u = { s with sxRx := s.sxRx.erase m }) ∧ ∃ rtt off srtt var : Nat, ((getSx u p).sampled = false) ∧ (((siteNow u : Int) - leAt m.body 0 8 - (leAt m.body 16 8 - leAt m.body 8 8)).toNat = rtt) ∧ (((leAt m.body 8 8 : Int) - leAt m.body 0 8 + (leAt m.body 16 8 - siteNow u)) / 2 = off) ∧ (off ≤ 1000000) ∧ (srtt = rtt) ∧ (var = rtt / 2) ∧ ∃ t, (t = rputN (rputN (rputN (putSx u p { getSx u p with sampled := true, srtt := srtt, rttvar := var }) (pOff rP_SRTT p) (srtt / 1000)) (pOff rP_RTO p) (max (srtt + 4 * var) 1000000 / 1000)) (pOff rP_OFFSET p) (sat32 off)) ∧ (pState t p ≠ psISOLATED)) ∧
    (∃ s : State, (sxuUp s = true) ∧ (s.sxProbed + 1000000000 ≤ s.clock)) ∧
    (∃ (s : State), (sxuUp s = true) ∧ (s.sxOpened < roundsOpen s) ∧ ((∀ p ∈ validPeers s, pState (probeAll { s with sxOpened := roundsOpen s } (validPeers s)) p ≠ psLISTEN))) ∧
    (∃ (p : Nat) (s : State) (r : SxRun) (l : List SxRun) (j : Job), (s.sxRuns = r :: l) ∧ (getJob s r.job = some j) ∧ (r.begun = true) ∧ (dVar j.desc = 2) ∧ (srPeer j.args = p) ∧ (r.since + us (srTimeout j.args) ≤ s.clock)) ∧
    (∃ (s : State) (r : SxRun) (j : Job), (joinRun s = some (r, j)) ∧ (r.since + us (srTimeout j.args) ≤ s.clock)) ∧
    (∃ (m : AMsg) (s : State) (p : Nat), (sxuUp s = true) ∧ (m.typ = mtJOIN_REQ) ∧ (s.sxRx.contains m = true) ∧ (msgPeer s m = some p) ∧ ∃ u, (u = { s with sxRx := s.sxRx.erase m }) ∧ (u.sxServe = none) ∧ ((pState u p = psNEW ∨ pState u p = psISOLATED))) ∧
    (∃ (m : AMsg) (s : State) (p : Nat), (sxuUp s = true) ∧ (m.typ = mtJOIN_REQ) ∧ (s.sxRx.contains m = true) ∧ (msgPeer s m = some p) ∧ ∃ u, (u = { s with sxRx := s.sxRx.erase m }) ∧ (u.sxServe = none) ∧ (pState u p ≠ psNEW) ∧ (pState u p ≠ psISOLATED)) ∧
    (∃ (s : State) (x : SxJoin) (r : SxRun) (j : Job), (s.sxJoin = some x) ∧ (joinRun s = some (r, j)) ∧ (x.granted = false) ∧ (x.last + pRto s x.peer ≤ s.clock)) ∧
    (∃ (m : AMsg) (s : State) (p : Nat) (x : SxJoin) (r : SxRun) (j : Job), (sxuUp s = true) ∧ (m.typ = mtJOIN_GRANT) ∧ (s.sxRx.contains m = true) ∧ (msgPeer s m = some p) ∧ ∃ u, (u = { s with sxRx := s.sxRx.erase m }) ∧ (u.sxJoin = some x) ∧ (joinRun u = some (r, j)) ∧ (x.peer = p) ∧ (m.arg1 = 0) ∧ (x.granted = false) ∧ ∃ v, (v = probeAll { u with sxJoin := some { x with granted := true, round := m.arg0.toNat }, sxFrom := some (m.arg0.toNat + 2) } (validPeers u))) ∧
    (∃ (s : State) (x : SxJoin), (s.sxServe = some x) ∧ (sxuUp s = true) ∧ (x.started = false) ∧ (pState s x.peer = psSERVING) ∧ (x.round < s.sxSetRound) ∧ (rn s rSXU_LAST_MERGED = x.round) ∧ ∃ u, (u = { s with sxServe := some { x with started := true } })) ∧
    (∃ (s : State) (x : SxJoin), (s.sxServe = some x) ∧ (deadlineAt s (x.round + 1) ≤ siteNow s) ∧ ∃ u, (u = { s with sxServe := none, sxOut := s.sxOut.filter (fun o => !(o.peer == x.peer && o.kind == 2)) })) ∧
    (∃ (m : AMsg) (s : State) (p : Nat), (sxuUp s = true) ∧ (m.typ = mtLEAVE) ∧ (s.sxRx.contains m = true) ∧ (msgPeer s m = some p) ∧ ∃ u, (u = { s with sxRx := s.sxRx.erase m })) :=
  ⟨⟨tam mtPROBE (zeroBytes 16), tsxm 2 mtPROBE (zeroBytes 16), 0, by decide +kernel, by decide +kernel, by decide +kernel, (by decide +kernel), _, rfl, by decide +kernel⟩,
   ⟨tam mtPROBE (le64 0 ++ le64 3), tsxm 1 mtPROBE (le64 0 ++ le64 3), 0, by decide +kernel, by decide +kernel, by decide +kernel, (by decide +kernel), _, rfl, by decide +kernel, _, rfl, by decide +kernel⟩,
   ⟨tam mtPROBE_REPLY (zeroBytes 24), tsxm 2 mtPROBE_REPLY (zeroBytes 24), 0, by decide +kernel, by decide +kernel, by decide +kernel, (by decide +kernel), _, rfl, 0, 0, 0, 0, by decide +kernel, by decide +kernel, by decide +kernel, (by decide +kernel), rfl, rfl, _, rfl, by decide +kernel⟩,
   ⟨{ tsx 4 with clock := 1000000000 }, by decide +kernel⟩,
   ⟨tsx 2, by decide +kernel⟩,
   ⟨0, { tsrOn 6 2 0 true with clock := 5000 }, tsrRun true, [], tsrJob 2 0 .busy, by decide +kernel⟩,
   ⟨{ tsrOn 8 4 0 true with clock := 5000 }, tsrRun true, tsrJob 4 0 .busy, by decide +kernel⟩,
   ⟨tam mtJOIN_REQ [], tsxm 1 mtJOIN_REQ [], 0, by decide +kernel, by decide +kernel, by decide +kernel, (by decide +kernel), _, rfl, by decide +kernel⟩,
   ⟨tam mtJOIN_REQ [], tsxm 2 mtJOIN_REQ [], 0, by decide +kernel, by decide +kernel, by decide +kernel, (by decide +kernel), _, rfl, by decide +kernel⟩,
   ⟨{ tsrOn 8 4 0 true with sxJoin := some { peer := 0, last := 0 }, clock := 10000000000 }, { peer := 0, last := 0 }, tsrRun true, tsrJob 4 0 .busy, by decide +kernel⟩,
   ⟨tam mtJOIN_GRANT [], { tsrOn 8 4 0 true with sxJoin := some { peer := 0 }, sxRx := [tam mtJOIN_GRANT []] }, 0, { peer := 0 }, tsrRun true, tsrJob 4 0 .busy, by decide +kernel, by decide +kernel, by decide +kernel, (by decide +kernel), _, rfl, by decide +kernel, by decide +kernel, by decide +kernel, (by decide +kernel), by decide +kernel, _, rfl⟩,
   ⟨{ tsx 7 with sxServe := some { peer := 0 }, sxSetRound := 1 }, { peer := 0 }, by decide +kernel, by decide +kernel, by decide +kernel, (by decide +kernel), by decide +kernel, by decide +kernel, _, rfl⟩,
   ⟨{ tsx 7 with sxServe := some { peer := 0 }, siteTime := 100000000000 }, { peer := 0 }, by decide +kernel, by decide +kernel, _, rfl⟩,
   ⟨tam mtLEAVE [], tsxm 2 mtLEAVE [], 0, by decide +kernel, by decide +kernel, by decide +kernel, (by decide +kernel), _, rfl⟩⟩

theorem witness_acnis_items_and_sending :
    (∃ (m : AMsg) (s : State) (p t : Nat), (sxuUp s = true) ∧ (m.typ = mtDELTA) ∧ (s.sxRx.contains m = true) ∧ (msgPeer s m = some p) ∧ ∃ u, (u = { s with sxRx := s.sxRx.erase m }) ∧ (kindTaken u 0 p = true) ∧ (roundNear u m.round.toNat = true) ∧ (inEntry u 0 m.item = some t) ∧ ∃ q, (q = openItem u p 0 m) ∧ (q.2.ok = false) ∧ (q.2.segs.contains m.arg0.toNat = false) ∧ (m.arg0.toNat < outCount u 0 t) ∧ ∃ v, (v = storeAll (segWrites (inBase q.1 q.2 t) (stGrp u t).count m.arg0.toNat m.body) q.1) ∧ (v.2 = none)) ∧
    (∃ (m : AMsg) (s : State) (p t : Nat), (sxuUp s = true) ∧ (m.typ = mtTHAW_DELTA) ∧ (s.sxRx.contains m = true) ∧ (msgPeer s m = some p) ∧ ∃ u, (u = { s with sxRx := s.sxRx.erase m }) ∧ (kindTaken u 1 p = true) ∧ (inEntry u 1 m.item = some t) ∧ ∃ q, (q = openItem u p 1 m) ∧ (q.2.ok = false) ∧ (q.2.segs.contains m.arg0.toNat = false) ∧ (m.arg0.toNat < outCount u 1 t) ∧ ∃ v, (v = storeAll (segWrites (inBase q.1 q.2 t) (stGrp u t).count m.arg0.toNat m.body) q.1) ∧ (v.2 = none)) ∧
    (∃ (m : AMsg) (s : State) (p t e k : Nat), (sxuUp s = true) ∧ (m.typ = mtSNAP) ∧ (s.sxRx.contains m = true) ∧ (msgPeer s m = some p) ∧ ∃ u, (u = { s with sxRx := s.sxRx.erase m }) ∧ (kindTaken u 2 p = true) ∧ (inEntry u 2 m.item = some t) ∧ (e = (stGrp u t).count) ∧ (k = m.arg1.toNat * snapChunks e + m.arg0.toNat) ∧ ∃ q, (q = openItem u p 2 m) ∧ (q.2.ok = false) ∧ (q.2.segs.contains k = false) ∧ (k < outCount u 2 t) ∧ (m.arg0.toNat < snapChunks e) ∧ ∃ v, (v = storeAll ((((planeChunk u t e m.arg1.toNat m.arg0.toNat).1, fitBytes m.body (planeChunk u t e m.arg1.toNat m.arg0.toNat).2) ::
      (if m.arg1.toNat = 0 then [((stGrp u t).mwHi + 4096 * m.arg0.toNat, fitBytes m.body (planeChunk u t e m.arg1.toNat m.arg0.toNat).2)]
       else if m.arg1.toNat = 1 then [((stGrp u t).mwLo + 2048 * m.arg0.toNat, fitBytes m.body (planeChunk u t e m.arg1.toNat m.arg0.toNat).2)] else []))) q.1) ∧ (v.2 = none)) ∧
    (∃ (m : AMsg) (s : State) (p : Nat) (x : SxIn), (sxuUp s = true) ∧ (m.typ = mtDONE) ∧ (s.sxRx.contains m = true) ∧ (msgPeer s m = some p) ∧ ∃ u, (u = { s with sxRx := s.sxRx.erase m }) ∧ (doneAlready u 0 p m = some x)) ∧
    (∃ (m : AMsg) (s : State) (p t : Nat), (sxuUp s = true) ∧ (m.typ = mtDONE) ∧ (s.sxRx.contains m = true) ∧ (msgPeer s m = some p) ∧ ∃ u, (u = { s with sxRx := s.sxRx.erase m }) ∧ (kindTaken u 0 p = true) ∧ (roundNear u m.round.toNat = true) ∧ (inEntry u 0 m.item = some t) ∧ (doneAlready u 0 p m = none) ∧ ∃ q, (q = openItem u p 0 m) ∧ (q.2.ok = false) ∧ ∃ x, (x = { q.2 with done := some (m.arg0.toNat, m.arg1.toNat, m.body.take 32, leAt m.body 32 8) }) ∧ ∃ v, (v = checkItem q.1 x t)) ∧
    (∃ (m : AMsg) (s : State) (p : Nat) (x : SxIn), (sxuUp s = true) ∧ (m.typ = mtTHAW_DONE) ∧ (s.sxRx.contains m = true) ∧ (msgPeer s m = some p) ∧ ∃ u, (u = { s with sxRx := s.sxRx.erase m }) ∧ (doneAlready u 1 p m = some x)) ∧
    (∃ (m : AMsg) (s : State) (p t : Nat), (sxuUp s = true) ∧ (m.typ = mtTHAW_DONE) ∧ (s.sxRx.contains m = true) ∧ (msgPeer s m = some p) ∧ ∃ u, (u = { s with sxRx := s.sxRx.erase m }) ∧ (kindTaken u 1 p = true) ∧ (inEntry u 1 m.item = some t) ∧ (doneAlready u 1 p m = none) ∧ ∃ q, (q = openItem u p 1 m) ∧ (q.2.ok = false) ∧ ∃ x, (x = { q.2 with done := some (m.arg0.toNat, m.arg1.toNat, m.body.take 32, leAt m.body 32 8) }) ∧ ∃ v, (v = checkItem q.1 x t)) ∧
    (∃ (m : AMsg) (s : State) (p : Nat) (x : SxIn), (sxuUp s = true) ∧ (m.typ = mtSNAP_DONE) ∧ (s.sxRx.contains m = true) ∧ (msgPeer s m = some p) ∧ ∃ u, (u = { s with sxRx := s.sxRx.erase m }) ∧ (doneAlready u 2 p m = some x)) ∧
    (∃ (m : AMsg) (s : State) (p t : Nat), (sxuUp s = true) ∧ (m.typ = mtSNAP_DONE) ∧ (s.sxRx.contains m = true) ∧ (msgPeer s m = some p) ∧ ∃ u, (u = { s with sxRx := s.sxRx.erase m }) ∧ (kindTaken u 2 p = true) ∧ (inEntry u 2 m.item = some t) ∧ (doneAlready u 2 p m = none) ∧ ∃ q, (q = openItem u p 2 m) ∧ (q.2.ok = false) ∧ ∃ x, (x = { q.2 with done := some (m.arg0.toNat, m.arg1.toNat, m.body.take 32, leAt m.body 32 8) }) ∧ ∃ v, (v = checkItem q.1 x t)) ∧
    (∃ (p k : Nat) (l : List Nat) (s : State) (o : SxOut), (sxuUp s = true) ∧ (rn s rSXU_PACE ≠ 0) ∧ (turnPeer s = some p) ∧ (s.sxOut.find? (toSend s p) = some o) ∧ (o.todo = k :: l) ∧ (o.sentAll = false) ∧ (l ≠ []) ∧ ((outRanges s o).findSome? (fun x => badIn s x.1 x.2) = none) ∧ ∃ u, (u = sendMsg { noteReads s .sxu (outRanges s o) with sxTurn := p } p (segMsg s o k))) ∧
    (∃ (m : AMsg) (s : State) (p : Nat) (o : SxOut), (sxuUp s = true) ∧ (m.typ = mtNACK) ∧ (s.sxRx.contains m = true) ∧ (msgPeer s m = some p) ∧ ∃ u, (u = { s with sxRx := s.sxRx.erase m }) ∧ (outNamed u p m = some o)) ∧
    (∃ (m : AMsg) (s : State) (p : Nat) (o : SxOut), (sxuUp s = true) ∧ (m.typ = mtACK) ∧ (s.sxRx.contains m = true) ∧ (msgPeer s m = some p) ∧ ∃ u, (u = { s with sxRx := s.sxRx.erase m }) ∧ (outNamed u p m = some o)) ∧
    (∃ (p : Nat) (s : State), (sxuUp s = true) ∧ (pValid s p = true) ∧ ∃ u, (u = (s.sxOut.filter (fun o => o.peer == p && o.sentAll && decide (o.lastDone + pRto s p ≤ s.clock) && mayGo s o)).foldl sendDone s)) :=
  ⟨⟨tam mtDELTA (zeroBytes 8), { tsxE 2 with sxRx := [tam mtDELTA (zeroBytes 8)], sxList := [0] }, 0, 0, by decide +kernel, by decide +kernel, by decide +kernel, (by decide +kernel), _, rfl, by decide +kernel, by decide +kernel, by decide +kernel, _, rfl, by decide +kernel, by decide +kernel, by decide +kernel, _, rfl, rfl⟩,
   ⟨tam mtTHAW_DELTA (zeroBytes 8), { tsxE 6 with sxRx := [tam mtTHAW_DELTA (zeroBytes 8)], sxList := [0] }, 0, 0, by decide +kernel, by decide +kernel, by decide +kernel, (by decide +kernel), _, rfl, by decide +kernel, by decide +kernel, _, rfl, by decide +kernel, by decide +kernel, by decide +kernel, _, rfl, rfl⟩,
   ⟨tam mtSNAP (zeroBytes 8), rput { tsxE 8 with sxRx := [tam mtSNAP (zeroBytes 8)], sxJoin := some { peer := 0, granted := true } } rSXU_ST_COUNT 1, 0, 0, 32, 0, by decide +kernel, by decide +kernel, by decide +kernel, (by decide +kernel), _, rfl, by decide +kernel, by decide +kernel, by decide +kernel, (by decide +kernel), _, rfl, by decide +kernel, by decide +kernel, by decide +kernel, (by decide +kernel), _, rfl, by decide +kernel⟩,
   ⟨tam mtDONE (zeroBytes 40), { tsx 2 with sxRx := [tam mtDONE (zeroBytes 40)], sxList := [0], sxIn := [{ peer := 0, kind := 0, round := 0, item := 0, ok := true }] }, 0, { peer := 0, kind := 0, round := 0, item := 0, ok := true }, by decide +kernel, by decide +kernel, by decide +kernel, (by decide +kernel), _, rfl, by decide +kernel⟩,
   ⟨tam mtDONE (zeroBytes 40), { tsx 2 with sxRx := [tam mtDONE (zeroBytes 40)], sxList := [0], sxIn := [{ peer := 0, kind := 0, round := 0, item := 0, ok := false }] }, 0, 0, by decide +kernel, by decide +kernel, by decide +kernel, (by decide +kernel), _, rfl, by decide +kernel, by decide +kernel, by decide +kernel, (by decide +kernel), _, rfl, by decide +kernel, _, rfl, _, rfl⟩,
   ⟨tam mtTHAW_DONE (zeroBytes 40), { tsx 6 with sxRx := [tam mtTHAW_DONE (zeroBytes 40)], sxList := [0], sxIn := [{ peer := 0, kind := 1, round := 0, item := 0, ok := true }] }, 0, { peer := 0, kind := 1, round := 0, item := 0, ok := true }, by decide +kernel, by decide +kernel, by decide +kernel, (by decide +kernel), _, rfl, by decide +kernel⟩,
   ⟨tam mtTHAW_DONE (zeroBytes 40), { tsx 6 with sxRx := [tam mtTHAW_DONE (zeroBytes 40)], sxList := [0], sxIn := [{ peer := 0, kind := 1, round := 0, item := 0, ok := false }] }, 0, 0, by decide +kernel, by decide +kernel, by decide +kernel, (by decide +kernel), _, rfl, by decide +kernel, by decide +kernel, by decide +kernel, _, rfl, by decide +kernel, _, rfl, _, rfl⟩,
   ⟨tam mtSNAP_DONE (zeroBytes 40), rput { tsx 8 with sxRx := [tam mtSNAP_DONE (zeroBytes 40)], sxList := [0], sxIn := [{ peer := 0, kind := 2, round := 0, item := 0, ok := true }], sxJoin := some { peer := 0, granted := true } } rSXU_ST_COUNT 1, 0, { peer := 0, kind := 2, round := 0, item := 0, ok := true }, by decide +kernel, by decide +kernel, by decide +kernel, (by decide +kernel), _, rfl, by decide +kernel⟩,
   ⟨tam mtSNAP_DONE (zeroBytes 40), rput { tsx 8 with sxRx := [tam mtSNAP_DONE (zeroBytes 40)], sxList := [0], sxIn := [{ peer := 0, kind := 2, round := 0, item := 0, ok := false }], sxJoin := some { peer := 0, granted := true } } rSXU_ST_COUNT 1, 0, 0, by decide +kernel, by decide +kernel, by decide +kernel, (by decide +kernel), _, rfl, by decide +kernel, by decide +kernel, by decide +kernel, _, rfl, by decide +kernel, _, rfl, _, rfl⟩,
   ⟨0, 0, [1], rput { tsx 2 with sxOut := [tout 0] } rSXU_PACE 1, tout 0, by decide +kernel, by decide +kernel, by decide +kernel, (by decide +kernel), by decide +kernel, by decide +kernel, by decide +kernel, (by decide +kernel), _, rfl⟩,
   ⟨tam mtNACK [], { tsxm 2 mtNACK [] with sxOut := [tout 0] }, 0, tout 0, by decide +kernel, by decide +kernel, by decide +kernel, (by decide +kernel), _, rfl, by decide +kernel⟩,
   ⟨tam mtACK [], { tsxm 2 mtACK [] with sxOut := [tout 0] }, 0, tout 0, by decide +kernel, by decide +kernel, by decide +kernel, (by decide +kernel), _, rfl, by decide +kernel⟩,
   ⟨0, tsx 2, by decide +kernel, by decide +kernel, _, rfl⟩⟩

theorem witness_cipher_commands :
    (∃ (r : JobRef) (p : Nat) (s : State) (j : Job) (x : Part) (key : List Nat), ∃ u, (u = cphPrune s) ∧ (freshOf u r p 0xE 0 = some (j, x)) ∧ (cphFirst u (.cmd r p) = true) ∧ ∃ w, (w = { u with cphQ := u.cphQ.filter (· != CphReq.cmd r p) }) ∧ (cphUp w = true) ∧ (slotFor w (ciSlot j.args) 0 = .ok key) ∧ ((badIn w (ciIn j.args) (ciLen j.args)).or (badIn w (ciAad j.args) (ciAadLen j.args)) = none) ∧ ∃ g, (g = gcmSealBytes key ((ciIv j.args).take 12) (natsOf (rdBytes w (ciAad j.args) (ciAadLen j.args))) (natsOf (rdBytes w (ciIn j.args) (ciLen j.args)))) ∧ ∃ o, (o = putOut (noteReads w .cph (ciReads j)) (ciIns j.args) (ciOut j.args) (ciLen j.args) (bytesOf g.1)) ∧ (o.2 = none) ∧ ∃ t, (t = putOut o.1 (ciIns j.args) (ciTag j.args) 16 (bytesOf g.2)) ∧ (t.2 = none)) ∧
    (∃ (r : JobRef) (p : Nat) (s : State) (j : Job) (x : Part) (key pt : List Nat), ∃ u, (u = cphPrune s) ∧ (freshOf u r p 0xE 1 = some (j, x)) ∧ (cphFirst u (.cmd r p) = true) ∧ ∃ w, (w = { u with cphQ := u.cphQ.filter (· != CphReq.cmd r p) }) ∧ (cphUp w = true) ∧ (slotFor w (ciSlot j.args) 0 = .ok key) ∧ (((badIn w (ciIn j.args) (ciLen j.args)).or (badIn w (ciAad j.args) (ciAadLen j.args))).or (badIn w (ciTag j.args) 16) = none) ∧ (gcmOpenBytes key ((ciIv j.args).take 12) (natsOf (rdBytes w (ciAad j.args) (ciAadLen j.args))) (natsOf (rdBytes w (ciIn j.args) (ciLen j.args))) (natsOf (rdBytes w (ciTag j.args) 16)) = some pt) ∧ ∃ o, (o = putOut (noteReads w .cph (ciReads j)) ((ciTag j.args, 16) :: ciIns j.args) (ciOut j.args) (ciLen j.args) (bytesOf pt)) ∧ (o.2 = none)) ∧
    (∃ (r : JobRef) (p : Nat) (s : State) (j : Job) (x : Part) (key : List Nat), ∃ u, (u = cphPrune s) ∧ (freshOf u r p 0xE 1 = some (j, x)) ∧ (cphFirst u (.cmd r p) = true) ∧ ∃ w, (w = { u with cphQ := u.cphQ.filter (· != CphReq.cmd r p) }) ∧ (cphUp w = true) ∧ (slotFor w (ciSlot j.args) 0 = .ok key) ∧ (((badIn w (ciIn j.args) (ciLen j.args)).or (badIn w (ciAad j.args) (ciAadLen j.args))).or (badIn w (ciTag j.args) 16) = none) ∧ (gcmOpenBytes key ((ciIv j.args).take 12) (natsOf (rdBytes w (ciAad j.args) (ciAadLen j.args))) (natsOf (rdBytes w (ciIn j.args) (ciLen j.args))) (natsOf (rdBytes w (ciTag j.args) 16)) = none)) ∧
    (∃ (r : JobRef) (p : Nat) (s : State) (j : Job) (x : Part) (e : Nat), ∃ u, (u = cphPrune s) ∧ (freshOf u r p 0xE 0 = some (j, x)) ∧ (cphFirst u (.cmd r p) = true) ∧ ∃ w, (w = { u with cphQ := u.cphQ.filter (· != CphReq.cmd r p) }) ∧ (cphUp w = true) ∧ (slotFor w (ciSlot j.args) 0 = .error e)) ∧
    (∃ (r : JobRef) (p : Nat) (s : State) (j : Job) (x : Part) (key : List Nat), ∃ u, (u = cphPrune s) ∧ (freshOf u r p 0xE 2 = some (j, x)) ∧ (cphFirst u (.cmd r p) = true) ∧ ∃ w, (w = { u with cphQ := u.cphQ.filter (· != CphReq.cmd r p) }) ∧ (cphUp w = true) ∧ (slotFor w (ciSlot j.args) 1 = .ok key) ∧ (badIn w (ciIn j.args) (ciLen j.args) = none) ∧ ∃ o, (o = putOut (noteReads w .cph (ciReads j)) [(ciIn j.args, ciLen j.args)] (ciOut j.args) (ciLen j.args) (bytesOf (aesCtr true key (beNat (ciIv j.args)) (natsOf (rdBytes w (ciIn j.args) (ciLen j.args)))))) ∧ (o.2 = none)) ∧
    (∃ (r : JobRef) (p : Nat) (s : State) (j : Job) (x : Part) (key : List Nat), ∃ u, (u = cphPrune s) ∧ (freshOf u r p 0xE 3 = some (j, x)) ∧ (cphFirst u (.cmd r p) = true) ∧ ∃ w, (w = { u with cphQ := u.cphQ.filter (· != CphReq.cmd r p) }) ∧ (cphUp w = true) ∧ (slotFor w (ciSlot j.args) 2 = .ok key) ∧ (badIn w (ciIn j.args) (ciLen j.args) = none) ∧ ∃ o, (o = putOut (noteReads w .cph (ciReads j)) [(ciIn j.args, ciLen j.args)] (ciTag j.args) 16 (bytesOf (cmacBytes key (natsOf (rdBytes w (ciIn j.args) (ciLen j.args)))))) ∧ (o.2 = none)) ∧
    (∃ (r : JobRef) (p : Nat) (s : State) (j : Job) (x : Part) (key : List Nat), ∃ u, (u = cphPrune s) ∧ (freshOf u r p 0xE 7 = some (j, x)) ∧ (cphFirst u (.cmd r p) = true) ∧ ∃ w, (w = { u with cphQ := u.cphQ.filter (· != CphReq.cmd r p) }) ∧ (cphUp w = true) ∧ (rootKey w (ciRoot j.args) = some key) ∧ (badIn w (ciAad j.args) 48 = none)) ∧
    (∃ (r : JobRef) (p : Nat) (s : State) (j : Job) (x : Part), ∃ u, (u = cphPrune s) ∧ (freshOf u r p 0xE 8 = some (j, x)) ∧ (cphFirst u (.cmd r p) = true) ∧ ∃ w, (w = { u with cphQ := u.cphQ.filter (· != CphReq.cmd r p) }) ∧ (cphUp w = true)) ∧
    (∃ (s : State) (x : JobRef × Nat) (l : List (JobRef × Nat)), ∃ u, (u = cphPrune s) ∧ (u.cphWait = x :: l) ∧ (cphCmds u < 512) ∧ (u.sxuWait = [])) :=
  ⟨⟨.queue 0 0, 0, tciOn 0 (zeroBytes 96), tciJob 0 (zeroBytes 96), tpart .sent, List.replicate 32 7, _, rfl, by decide +kernel, by decide +kernel, _, rfl, by decide +kernel, by decide +kernel, by decide +kernel, ([], ttag.map (·.toNat)), by decide +kernel, _, rfl, by decide +kernel, _, rfl, by decide +kernel⟩,
   ⟨.queue 0 0, 0, putBytes (tciOn 1 (zeroBytes 64 ++ le64 4096 ++ zeroBytes 24)) 4096 ttag, tciJob 1 (zeroBytes 64 ++ le64 4096 ++ zeroBytes 24), tpart .sent, List.replicate 32 7, [], _, rfl, by decide +kernel, by decide +kernel, _, rfl, by decide +kernel, by decide +kernel, by decide +kernel, (by decide +kernel), _, rfl, by decide +kernel⟩,
   ⟨.queue 0 0, 0, tciOn 1 (zeroBytes 96), tciJob 1 (zeroBytes 96), tpart .sent, List.replicate 32 7, _, rfl, by decide +kernel, by decide +kernel, _, rfl, by decide +kernel⟩,
   ⟨.queue 0 0, 0, tciOn 0 (le32 0x100 ++ zeroBytes 92), tciJob 0 (le32 0x100 ++ zeroBytes 92), tpart .sent, eCPH_NOKEY, _, rfl, by decide +kernel, by decide +kernel, _, rfl, by decide +kernel⟩,
   ⟨.queue 0 0, 0, tciOn 2 (zeroBytes 96), tciJob 2 (zeroBytes 96), tpart .sent, List.replicate 32 7, _, rfl, by decide +kernel, by decide +kernel, _, rfl, by decide +kernel, by decide +kernel, by decide +kernel, _, rfl, by decide +kernel⟩,
   ⟨.queue 0 0, 0, tciOn 3 (zeroBytes 96), tciJob 3 (zeroBytes 96), tpart .sent, List.replicate 32 7, _, rfl, by decide +kernel, by decide +kernel, _, rfl, by decide +kernel, by decide +kernel, by decide +kernel, _, rfl, by decide +kernel⟩,
   ⟨.queue 0 0, 0, { tciOn 7 (le32 1 ++ zeroBytes 92) with roots := [(1, List.replicate 32 9)] }, tciJob 7 (le32 1 ++ zeroBytes 92), tpart .sent, List.replicate 32 9, _, rfl, by decide +kernel, by decide +kernel, _, rfl, by decide +kernel⟩,
   ⟨.queue 0 0, 0, tciOn 8 (zeroBytes 96), tciJob 8 (zeroBytes 96), tpart .sent, _, rfl, by decide +kernel, by decide +kernel, _, rfl, by decide +kernel⟩,
   ⟨{ twith (tsx 0) (tciJob 0 (zeroBytes 96)) with cphWait := [(.queue 0 0, 0)] }, (.queue 0 0, 0), [], _, rfl, by decide +kernel⟩⟩

theorem witness_cipher_streams :
    (∃ (r : JobRef) (p : Nat) (s : State) (j : Job) (x : Part) (c : CipherCtx), (freshOf s r p 0xE 4 = some (j, x)) ∧ (streamEarlier s r (ciCtx j.args) = false) ∧ (cphUp s = true) ∧ (streamCtx s j.args = .ok c) ∧ (c.dataTotal + ciLen j.args ≤ 2 ^ 36 - 32) ∧ (c.aadTotal + ciAadLen j.args ≤ 2 ^ 32 - 16) ∧ ((c.smode = 1 → ciLen j.args = 0)) ∧ ((badIn s (ciIn j.args) (ciLen j.args)).or (badIn s (ciAad j.args) (ciAadLen j.args)) = none) ∧ ∃ g, (g = segment (getKs s c.slot).key c (natsOf (rdBytes s (ciAad j.args) (ciAadLen j.args))) (natsOf (rdBytes s (ciIn j.args) (ciLen j.args))) (ciOut j.args)) ∧ ∃ o, (o = putOut (noteReads s .cph (ciReads j)) ((if ciFinal j.args && c.smode == 1 then [(ciTag j.args, 16)] else []) ++ ciIns j.args) (ciOut j.args) (ciLen j.args) (bytesOf g.2)) ∧ (o.2 = none)) ∧
    (∃ (s : State) (r : JobRef) (p c : Nat) (a : List Byte) (key : List Nat) (x : CipherCtx), (ciFinal a = false)) ∧
    (∃ (s : State) (r : JobRef) (p c : Nat) (a : List Byte) (key : List Nat) (x : CipherCtx), (ciFinal a = true) ∧ (x.smode = 1) ∧ (badIn s (ciTag a) 16 = none) ∧ ∃ t, (t = noteRead s .cph (ciTag a) 16)) ∧
    (∃ (r : JobRef) (p : Nat) (s : State) (j : Job) (x : Part), (freshOf s r p 0xE 5 = some (j, x)) ∧ (streamEarlier s r (ciCtx j.args) = false) ∧ (cphUp s = true) ∧ ((getCx s (ciCtx j.args)).isOpen = true) ∧ (ciWrapped j.args = false) ∧ ∃ o, (o = storeBytes s .cph (ciOut j.args) (ctxImage (getCx s (ciCtx j.args)))) ∧ (o.2 = none)) ∧
    (∃ (r : JobRef) (p : Nat) (s : State) (j : Job) (x : Part) (im : List Byte) (c : CipherCtx), (freshOf s r p 0xE 6 = some (j, x)) ∧ (streamEarlier s r (ciCtx j.args) = false) ∧ (cphUp s = true) ∧ ((getCx s (ciCtx j.args)).isOpen = false) ∧ (badIn s (ciIn j.args) (if ciWrapped j.args then 160 else 128) = none) ∧ (readImage (noteReads s .cph (ciReads j)) j.args = .ok im) ∧ (imageCtx im = some c) ∧ (slotKcv (getKs (noteReads s .cph (ciReads j)) c.slot) = c.kcv)) :=
  ⟨⟨.queue 0 0, 0, tciOn 4 (le32 0x0A000000 ++ zeroBytes 92), tciJob 4 (le32 0x0A000000 ++ zeroBytes 92), tpart .sent, { isOpen := true, smode := 2, slot := 0, kcv := kcvOf (List.replicate 32 7), j0 := 0, cb := 0 }, by decide +kernel, by decide +kernel, by decide +kernel, (by decide +kernel), by decide +kernel, by decide +kernel, by decide +kernel, (by decide +kernel), _, rfl, _, rfl, by decide +kernel⟩,
   ⟨tst, .queue 0 0, 0, 0, zeroBytes 96, [], {}, by decide +kernel⟩,
   ⟨tst, .queue 0 0, 0, 0, le32 0x01000000 ++ zeroBytes 92, [], { smode := 1 }, by decide +kernel, by decide +kernel, by decide +kernel, _, rfl⟩,
   ⟨.queue 0 0, 0, { tciOn 5 (zeroBytes 96) with ctxs := [(0, { isOpen := true, smode := 2, kcv := List.replicate 8 0 })] }, tciJob 5 (zeroBytes 96), tpart .sent, by decide +kernel, by decide +kernel, by decide +kernel, (by decide +kernel), by decide +kernel, _, rfl, by decide +kernel⟩,
   ⟨.queue 0 0, 0, putBytes (tciOn 6 (zeroBytes 96)) 0 (ctxImage { isOpen := true, smode := 2, slot := 5, kcv := List.replicate 8 0 }), tciJob 6 (zeroBytes 96), tpart .sent, ctxImage { isOpen := true, smode := 2, slot := 5, kcv := List.replicate 8 0 }, { isOpen := true, smode := 2, slot := 5, kcv := List.replicate 8 0 }, by decide +kernel⟩⟩

theorem witness_context_image_round_trip : ∃ x : CipherCtx, x.isOpen = true ∧ x.smode = 1 ∧ x.slot = 63 ∧ x.kcv.length = 8 ∧ (∀ b ∈ x.kcv, b < 256) ∧ x.j0 < 2 ^ 128 ∧ x.cb < 2 ^ 128 ∧ x.y < 2 ^ 128 ∧
    x.aadTotal < 2 ^ 64 ∧ x.dataTotal < 2 ^ 64 ∧ (∀ b, x.outBase = some b → b < 2 ^ 64) ∧ (x.outBase.isSome = true ↔ x.smode = 1 ∧ 0 < x.dataTotal) :=
  ⟨{ isOpen := true, smode := 1, slot := 63, kcv := List.replicate 8 255, j0 := 2 ^ 128 - 1, cb := 5, y := 7, aadTotal := 1, dataTotal := 2, outBase := some 4096 }, rfl, rfl, rfl, rfl, by decide, by decide, by decide, by decide, by decide, by decide, by decide, by decide⟩

theorem witness_cipher_roots_and_sites :
    (∃ (o r : Nat) (s : State), ((o = 109 ∨ o = 110)) ∧ (hartHeld s o = false) ∧ (winThere s winCph = true) ∧ (cphLatched s = false) ∧ (rfld s rCPH_ROOT_SEL 2 0 = r) ∧ (r ≠ 0)) ∧
    (∃ (o r : Nat) (s : State), ((o = 109 ∨ o = 110)) ∧ (hartHeld s o = false) ∧ (winThere s winCph = true) ∧ (cphLatched s = false) ∧ (rfld s rCPH_ROOT_SEL 2 0 = r) ∧ (r ≠ 0)) ∧
    (∃ (o : Nat) (v : Word) (s : State), (o ≠ 109) ∧ (o ≠ 110) ∧ (winThere s winCph = true)) ∧
    (∃ (v : Word) (s : State), (winThere s winCph = true) ∧ ((wbit v 0 = true ∨ s.keysUsed = false))) ∧
    (∃ (v : Word) (s : State), (wbit v 0 = false) ∧ (s.keysUsed = true)) ∧
    (∃ (m x : AMsg) (ad : SxTo) (key : List Nat) (s : State), (s.cphQ.find? (fun r => match r with | .sxu _ x => x == m | _ => false) = some (.sxu ad x)) ∧ (cphFirst s (.sxu ad x) = true) ∧ (cphUp s = true) ∧ (slotFor s ad.slot 0 = .ok key) ∧ ∃ u, (u = refreshCph { s with cphQ := s.cphQ.erase (.sxu ad x) }) ∧ ∃ g, (g = gcmSealBytes key (acnisIv x) (natsOf (acnisHeader x)) (pad16 (natsOf x.body)))) ∧
    (∃ (m : AMsg) (p : Nat) (key pt : List Nat) (s : State), (sxuUp s = true) ∧ (msgPeer s m = some p) ∧ (replayed (getSx s p) m.keyEpoch m.seq.toNat = false) ∧ (cphLatched s = false) ∧ ((s.cphQ ++ s.sxuWait).any (isOpenReq m) = false) ∧ ∃ t, (t = sxuArrive s (.sxuOpen p (pSlot s p) m)) ∧ (t.cphQ.find? (isOpenReq m) = some (.sxuOpen p (pSlot s p) m)) ∧ (cphFirst t (.sxuOpen p (pSlot s p) m) = true) ∧ ∃ w, (w = refreshCph { t with cphQ := t.cphQ.erase (.sxuOpen p (pSlot s p) m) }) ∧ (replayed (getSx w p) m.keyEpoch m.seq.toNat = false) ∧ (cphUp w = true) ∧ (slotFor w (pSlot s p) 0 = .ok key) ∧ (gcmOpenBytes key (acnisIv m) (natsOf (acnisHeader m)) (natsOf m.body) (natsOf m.tag) = some pt) ∧ ∃ u, (u = putSx (rinc64 (rinc64 w rCPH_REQS_LO 1) rCPH_BYTES_LO (m.body.length + 32)) p (acceptSeq (getSx w p) m.keyEpoch m.seq.toNat))) ∧
    (∃ (m : AMsg) (p : Nat) (s : State), (sxuUp s = true) ∧ (msgPeer s m = some p) ∧ (replayed (getSx s p) m.keyEpoch m.seq.toNat = true)) :=
  ⟨⟨109, 1, rput (tsx 0) rCPH_ROOT_SEL 1, by decide +kernel⟩,
   ⟨109, 1, rput (tsx 0) rCPH_ROOT_SEL 1, by decide +kernel⟩,
   ⟨1, 1, tsx 0, by decide +kernel⟩,
   ⟨1, tsx 0, by decide +kernel⟩,
   ⟨0, { tsx 0 with keysUsed := true }, by decide +kernel⟩,
   ⟨tam 0 [], tam 0 [], ⟨0, 0, 0, 0⟩, List.replicate 32 7, { tsx 2 with cphQ := [.sxu ⟨0, 0, 0, 0⟩ (tam 0 [])] }, by decide +kernel, by decide +kernel, by decide +kernel, (by decide +kernel), _, rfl, _, rfl⟩,
   ⟨tsealed, 0, List.replicate 32 7, [], tsx 2, by decide +kernel, by decide +kernel, by decide +kernel, (by decide +kernel), by decide +kernel, _, rfl, by decide +kernel, by decide +kernel, _, rfl, by decide +kernel, by decide +kernel, by decide +kernel, (by decide +kernel), _, rfl⟩,
   ⟨tam 0 [], 0, putSx (tsx 2) 0 (acceptSeq {} 0 0), by decide +kernel⟩⟩

theorem witness_site_time :
    (∃ (t : DWord) (s : State), (rbit s rTIME_CFG 0 = false)) ∧
    (∃ (t : DWord) (s : State) (e off : Int), (rbit s rTIME_CFG 0 = true) ∧ ∃ u, (u = seen { s with time := { s.time with ppsLast := some s.clock } }) ∧ (u.time.ppsLocked = true) ∧ (u.time.ptpOff = none) ∧ ((t.toNat : Int) - ppsDelay u = e) ∧ (u.time.second + 1000000000 - e = off)) ∧
    (∃ (t : DWord) (s : State) (po y : Int), (rbit s rTIME_CFG 0 = true) ∧ ∃ u, (u = seen { s with time := { s.time with ppsLast := some s.clock } }) ∧ (u.time.ppsLocked = false) ∧ (u.time.ptpOff = some po) ∧ ((t.toNat : Int) - ppsDelay u + po = y) ∧ ((nearSec y - y).natAbs ≤ 100) ∧ (u.time.ppsRun < 3)) ∧
    (∃ (t : DWord) (s : State) (po y : Int), (rbit s rTIME_CFG 0 = true) ∧ ∃ u, (u = seen { s with time := { s.time with ppsLast := some s.clock } }) ∧ (u.time.ppsLocked = false) ∧ (u.time.ptpOff = some po) ∧ ((t.toNat : Int) - ppsDelay u + po = y) ∧ ((nearSec y - y).natAbs ≤ 100) ∧ (3 ≤ u.time.ppsRun)) ∧
    (∃ (t : DWord) (s : State) (po y : Int), (rbit s rTIME_CFG 0 = true) ∧ ∃ u, (u = seen { s with time := { s.time with ppsLast := some s.clock } }) ∧ (u.time.ppsLocked = false) ∧ (u.time.ptpOff = some po) ∧ ((t.toNat : Int) - ppsDelay u + po = y) ∧ (100 < (nearSec y - y).natAbs)) ∧
    (∃ (l : Nat) (s : State), (s.time.ppsLast = some l) ∧ (l + 1500000000 ≤ s.clock) ∧ (s.time.code = 2) ∧ (s.time.ptpOff = none)) ∧
    (∃ (l : Nat) (po : Int) (s : State), (s.time.ppsLast = some l) ∧ (l + 1500000000 ≤ s.clock) ∧ (s.time.code = 2) ∧ (s.time.ptpOff = some po) ∧ (s.time.ptpLocked = true)) ∧
    (∃ (l : Nat) (s : State), (s.time.ppsLast = some l) ∧ (s.clock < l + 1500000000)) ∧
    (∃ (t1 : DWord) (b f : Bool) (d : Nat) (l : Int) (s : State), ((d ≠ ptpDomain s ∨ (b = true ∧ f = false)))) ∧
    (∃ (t1 : DWord) (b f : Bool) (d : Nat) (l : Int) (s : State), (d = ptpDomain s) ∧ ((b = true → f = true)) ∧ ∃ u, (u = emit (seen { s with time := { s.time with ptpSeen := true, syncAt := s.clock, syncNs := intervalNs l } }) (.frame "Delay_Req" [])) ∧ (u.time.delay = none)) ∧
    (∃ (t1 : DWord) (b f : Bool) (d : Nat) (l : Int) (w : Int) (s : State), (d = ptpDomain s) ∧ ((b = true → f = true)) ∧ ∃ u, (u = emit (seen { s with time := { s.time with ptpSeen := true, syncAt := s.clock, syncNs := intervalNs l } }) (.frame "Delay_Req" [])) ∧ (u.time.delay = some w)) ∧
    (∃ (t1 t2 t3 t4 : DWord) (a b : Int) (s : State), (s.time.ptpSeen = true) ∧ ((t2.toNat : Int) - t1.toNat = a) ∧ ((t4.toNat : Int) - t3.toNat = b)) ∧
    (∃ (off : Int) (s : State), (s.time.ptpOff = some off) ∧ (s.time.ptpSeen = true) ∧ (s.time.ptpLocked = false) ∧ (s.time.goodSince + 16000000000 ≤ s.clock) ∧ (ppsHere s = false)) ∧
    (∃ (off : Int) (s : State), (s.time.ptpOff = some off) ∧ (s.time.ptpSeen = true) ∧ (s.time.ptpLocked = false) ∧ (s.time.goodSince + 16000000000 ≤ s.clock) ∧ (ppsHere s = true)) ∧
    (∃ s : State, (s.time.ptpSeen = true) ∧ (s.time.syncAt + 4 * s.time.syncNs ≤ s.clock) ∧ (s.time.code = 3)) ∧
    (∃ s : State, (s.time.ptpSeen = true) ∧ (s.time.syncAt + 4 * s.time.syncNs ≤ s.clock) ∧ (s.time.code = 2)) ∧
    (∃ s : State, ((s.time.ptpSeen = false ∨ s.clock < s.time.syncAt + 4 * s.time.syncNs))) ∧
    (∃ s : State, (s.time.code = 4) ∧ (holdLimit s < timeBound s) ∧ (rbit s rTIME_EVT 2 = false)) ∧
    (∃ (n : Nat) (s : State), (n < 8) ∧ (rbit s (tmr rTMR_CFG n) 31 = true) ∧ (rn64 s (tmr rTMR_AT_LO n) ≤ siteNow s) ∧ (rn64 s (tmr rTMR_PERIOD_LO n) = 0)) ∧
    (∃ (n a per : Nat) (s : State), (n < 8) ∧ (rbit s (tmr rTMR_CFG n) 31 = true) ∧ (rn64 s (tmr rTMR_AT_LO n) = a) ∧ (rn64 s (tmr rTMR_PERIOD_LO n) = per) ∧ (a ≤ siteNow s) ∧ (per ≠ 0)) ∧
    (∃ a per now : Nat, (a ≤ now) ∧ (per ≠ 0)) ∧
    (∃ (n : Nat) (s : State), ((8 ≤ n ∨ rbit s (tmr rTMR_CFG n) 31 = false ∨ siteNow s < rn64 s (tmr rTMR_AT_LO n)))) :=
  ⟨⟨0, rput tst rTIME_CFG 0, by decide +kernel⟩,
   ⟨1000000007, ttime { code := 2, ppsLocked := true }, 1000000007, -7, by decide +kernel, _, rfl, by decide +kernel⟩,
   ⟨1000000007, ttime { code := 1, ptpOff := some 0 }, 0, 1000000007, by decide +kernel, _, rfl, by decide +kernel⟩,
   ⟨1000000007, ttime { code := 1, ptpOff := some 0, ppsRun := 3 }, 0, 1000000007, by decide +kernel, _, rfl, by decide +kernel⟩,
   ⟨1000000107, ttime { code := 1, ptpOff := some 0, ppsRun := 3 }, 0, 1000000107, by decide +kernel, _, rfl, by decide +kernel⟩,
   ⟨0, { ttime { code := 2, ppsLast := some 0 } with clock := 1500000000 }, by decide +kernel⟩,
   ⟨0, 4, { ttime { code := 2, ppsLast := some 0, ptpOff := some 4, ptpLocked := true } with clock := 1500000000 }, by decide +kernel⟩,
   ⟨0, ttime { ppsLast := some 0 }, by decide +kernel⟩,
   ⟨0, true, false, 0, 0, tst, by decide +kernel⟩,
   ⟨0, true, true, 0, -3, tst, by decide +kernel, by decide +kernel, _, rfl, by decide +kernel⟩,
   ⟨0, false, false, 0, 0, 3, ttime { delay := some 3 }, by decide +kernel, by decide +kernel, _, rfl, by decide +kernel⟩,
   ⟨1, 5, 9, 11, 4, 2, ttime { ptpSeen := true }, by decide +kernel⟩,
   ⟨3, { ttime { ptpOff := some 3, ptpSeen := true } with clock := 16000000000 }, by decide +kernel⟩,
   ⟨3, { ttime { ptpOff := some 3, ptpSeen := true, ppsLocked := true } with clock := 16000000000 }, by decide +kernel⟩,
   ⟨ttime { code := 3, ptpSeen := true }, by decide +kernel⟩,
   ⟨ttime { code := 2, ptpSeen := true }, by decide +kernel⟩,
   ⟨tst, by decide +kernel⟩,
   ⟨rput (ttime { code := 4 }) 0x21014 0, by decide +kernel⟩,
   ⟨0, ttmr 0, by decide +kernel⟩,
   ⟨0, 5, 10, ttmr 10, by decide +kernel⟩,
   ⟨5, 10, 17, by decide +kernel⟩,
   ⟨8, tst, by decide +kernel⟩⟩

theorem witness_governor_tick :
    (∃ (p : Nat) (sensors : List Int) (s : State), (s.gov.tickAt + us 10 ≤ s.clock) ∧ (s.gov.f ≤ 64) ∧ (s.gov.trim ≤ 64)) ∧
    (∃ (p : Nat) (sensors : List Int) (s : State), (s.clock < s.gov.tickAt + us 10)) :=
  ⟨⟨0, [], { tst with clock := 10000 }, by decide +kernel⟩,
   ⟨0, [], tst, by decide +kernel⟩⟩

theorem witness_power_events :
    (∃ (t : Nat) (s : State), (s.gov.stagger = some t) ∧ (t ≤ s.clock)) ∧
    (∃ (l : List Int) (s : State), ∃ u, (u = putTemps { s with gov := { s.gov with tS := hottest s.gov.tS l } }) ∧ (critTemp u ≤ u.gov.tS) ∧ (u.gov.thermCrit = false)) ∧
    (∃ (l : List Int) (s : State), ∃ u, (u = putTemps { s with gov := { s.gov with tS := hottest s.gov.tS l } }) ∧ (u.gov.tS < critTemp u) ∧ (u.gov.thermCrit = false)) ∧
    (∃ s : State, (unparked s = true) ∧ (mayPark s = true)) ∧
    (∃ s : State, (blkCode s winTpw = 1)) ∧
    (∃ s : State, (blkCode s winTpw = 3)) ∧
    (∃ s : State, ∃ u, (u = { s with pins := { s.pins with lidOpen := true } })) ∧
    (∃ (c : Nat) (s : State), (winThere s winCph = true) ∧ ∃ u, (u = rputF s rCPH_ALARM 3 0 (rfld s rCPH_ALARM 3 0 ||| c)) ∧ (cphLatched u = false) ∧ ∃ v, (v = cphWipe (rputBit { u with root0Gone := true } rCPH_ALARM 31 true))) :=
  ⟨⟨0, { tst with gov := { stagger := some 0 } }, by decide +kernel⟩,
   ⟨[100000], tst, _, rfl, by decide +kernel⟩,
   ⟨[0], tst, _, rfl, by decide +kernel⟩,
   ⟨tst, by decide +kernel⟩,
   ⟨rputF tst (wreg winTpw hBLK_STATE) 7 0 1, by decide +kernel⟩,
   ⟨rputF tst (wreg winTpw hBLK_STATE) 7 0 3, by decide +kernel⟩,
   ⟨tst, _, rfl⟩,
   ⟨1, tsx 0, by decide +kernel, _, rfl, by decide +kernel, _, rfl⟩⟩

theorem witness_board_and_pins :
    (∃ (a b : Nat) (v : Byte) (s : State), (0x400 ≤ a) ∧ (a < 0x800) ∧ (s.pins.fruWpLow = true)) ∧
    (∃ (a : Nat) (v : Byte) (s : State), ((a < 0x400 ∨ 0x800 ≤ a ∨ s.pins.fruWpLow = false))) ∧
    (∃ (n : Nat) (s : State), ((n = 1 ∨ n = 2 ∨ (3 ≤ n ∧ n ≤ 5 ∧ s.pins.resetLow = true)))) ∧
    (∃ (n : Nat) (s : State), (n ≠ 1) ∧ (n ≠ 2) ∧ ((n < 3 ∨ 5 < n ∨ s.pins.resetLow = false))) ∧
    (∃ (b : List Byte) (s : State), (frameGood b = false) ∧ (brdOn s = true) ∧ (s.resets = [])) ∧
    (∃ (b : List Byte) (s : State), (s.resets.any (fun r => r.dom == 4 || r.dom == 6) = true)) ∧
    (∃ (b : List Byte) (s : State), (frameGood b = true) ∧ (brdOn s = true) ∧ (s.resets = []) ∧ (s.brdLast.contains (leAt b 3 1, leAt b 2 1) = false) ∧ ∃ u, (u = rputN (rinc { s with brdLast := s.brdLast.filter (fun x => x.1 != leAt b 3 1) ++ [(leAt b 3 1, leAt b 2 1)] } rBRD_RX_OK 1) rBRD_LAST (leAt b 3 1 * 2 ^ 24 + leAt b 2 1 * 65536))) ∧
    (∃ (b : List Byte) (s : State), (leAt b 3 1 = 2) ∧ (frameGood b = true) ∧ (brdOn s = true) ∧ (s.resets = []) ∧ (s.brdLast.contains (leAt b 3 1, leAt b 2 1) = false) ∧ ∃ u, (u = rputN (rinc { s with brdLast := s.brdLast.filter (fun x => x.1 != leAt b 3 1) ++ [(leAt b 3 1, leAt b 2 1)] } rBRD_RX_OK 1) rBRD_LAST (leAt b 3 1 * 2 ^ 24 + leAt b 2 1 * 65536))) ∧
    (∃ (b : List Byte) (s : State), (leAt b 3 1 = 3) ∧ (leAt b 4 1 = 1) ∧ (frameGood b = true) ∧ (brdOn s = true) ∧ (s.resets = []) ∧ (s.brdLast.contains (leAt b 3 1, leAt b 2 1) = false) ∧ ∃ u, (u = rputN (rinc { s with brdLast := s.brdLast.filter (fun x => x.1 != leAt b 3 1) ++ [(leAt b 3 1, leAt b 2 1)] } rBRD_RX_OK 1) rBRD_LAST (leAt b 3 1 * 2 ^ 24 + leAt b 2 1 * 65536))) ∧
    (∃ (b : List Byte) (s : State), (leAt b 3 1 = 3) ∧ (leAt b 4 1 = 0) ∧ (s.pins.gridLow = false) ∧ (frameGood b = true) ∧ (brdOn s = true) ∧ (s.resets = []) ∧ (s.brdLast.contains (leAt b 3 1, leAt b 2 1) = false) ∧ ∃ u, (u = rputN (rinc { s with brdLast := s.brdLast.filter (fun x => x.1 != leAt b 3 1) ++ [(leAt b 3 1, leAt b 2 1)] } rBRD_RX_OK 1) rBRD_LAST (leAt b 3 1 * 2 ^ 24 + leAt b 2 1 * 65536)) ∧ (u.gov.battery = true)) ∧
    (∃ (p : Nat) (s : State), (brdOn s = true) ∧ (s.resets = []) ∧ (s.gov.sentAt + us 1000 ≤ s.clock)) ∧
    (∃ (e w u d : Nat) (s : State), (s.gov.heldGrant = some (e, w, u, d)) ∧ (e ≤ siteNow s)) ∧
    (∃ (s : State), (s.gov.safe = false) ∧ (s.gov.grantAt + rfld s rPW_TIMEOUT 15 0 * 1000000 ≤ s.clock)) ∧
    (∃ (s : State), (s.gov.coolLost = false) ∧ (s.gov.coolAt + rfld s rPW_TIMEOUT 31 16 * 1000000 ≤ s.clock)) :=
  ⟨⟨0x400, 0x401, 7, tst, by decide +kernel⟩,
   ⟨0, 7, tst, by decide +kernel⟩,
   ⟨1, tst, by decide +kernel⟩,
   ⟨3, tst, by decide +kernel⟩,
   ⟨[], tbrd, by decide +kernel⟩,
   ⟨[], { tbrd with resets := [⟨4, 0, 1, 0, false, []⟩] }, by decide +kernel⟩,
   ⟨tbrdB 2 (le32 0), tbrd, by decide +kernel, by decide +kernel, by decide +kernel, (by decide +kernel), _, rfl⟩,
   ⟨tbrdB 2 (leBytes 320 2 ++ leBytes 150 2), tbrd, by decide +kernel, by decide +kernel, by decide +kernel, (by decide +kernel), by decide +kernel, _, rfl⟩,
   ⟨tbrdB 3 [1], tbrd, by decide +kernel, by decide +kernel, by decide +kernel, (by decide +kernel), by decide +kernel, by decide +kernel, _, rfl⟩,
   ⟨tbrdB 3 [0], { tbrd with gov := { battery := true } }, by decide +kernel, by decide +kernel, by decide +kernel, (by decide +kernel), by decide +kernel, by decide +kernel, by decide +kernel, _, rfl, by decide +kernel⟩,
   ⟨5, { tbrd with clock := 1000000 }, by decide +kernel⟩,
   ⟨0, 900, 10, 10, { tst with gov := { heldGrant := some (0, 900, 10, 10) } }, by decide +kernel⟩,
   ⟨{ tst with clock := 10000000000000 }, by decide +kernel⟩,
   ⟨{ tst with clock := 10000000000000 }, by decide +kernel⟩⟩

theorem witness_control_requests :
    (∃ (m : CMsg) (s : State) (i : Nat) (x : Sess) (p : List Byte), (m.typ = 0x10) ∧ (ctrlHeard s m = true) ∧ (inRecovery s = false) ∧ (m.sealed = true) ∧ (ofSession s m 2 = true) ∧ (i = m.session % 16) ∧ (x = getSess s i) ∧ (ctrlOpen x m = some p) ∧ (m.seq = x.seqIn + 1) ∧ ((words p 64).any badOff = false) ∧ ((words p 64).any (fun o => winHeld s (offWin o)) = false) ∧ ∃ q, (q = readAll (112 + i) (words p 64) s)) ∧
    (∃ (m : CMsg) (s : State) (i : Nat) (x : Sess) (p : List Byte), (m.typ = 0x12) ∧ (ctrlHeard s m = true) ∧ (inRecovery s = false) ∧ (m.sealed = true) ∧ (ofSession s m 2 = true) ∧ (i = m.session % 16) ∧ (x = getSess s i) ∧ (ctrlOpen x m = some p) ∧ (m.seq = x.seqIn + 1) ∧ (x.role = 1) ∧ (2 ≤ glbStage s) ∧ ((pairsOf (words p 128)).any (fun e => decide (e.1 < 2 ^ 24) && winHeld s (offWin e.1)) = false) ∧ ∃ q, (q = writeEach (112 + i) (pairsOf (words p 128)) s 0)) ∧
    (∃ (m : CMsg) (s : State) (i : Nat) (x : Sess) (p : List Byte), (m.typ = 0x12) ∧ (ctrlHeard s m = true) ∧ (inRecovery s = false) ∧ (m.sealed = true) ∧ (ofSession s m 2 = true) ∧ (i = m.session % 16) ∧ (x = getSess s i) ∧ (ctrlOpen x m = some p) ∧ (m.seq = x.seqIn + 1) ∧ (x.role ≠ 1)) ∧
    (∃ (m : CMsg) (s : State) (i : Nat) (x : Sess) (p : List Byte), (m.typ = 0x19) ∧ (ctrlHeard s m = true) ∧ (inRecovery s = false) ∧ (m.sealed = true) ∧ (ofSession s m 2 = true) ∧ (i = m.session % 16) ∧ (x = getSess s i) ∧ (ctrlOpen x m = some p) ∧ (m.seq = x.seqIn + 1)) ∧
    (∃ (m : CMsg) (s : State) (i : Nat) (x : Sess) (p : List Byte) (r : Nat), (m.typ = 0x20) ∧ (ctrlHeard s m = true) ∧ (inRecovery s = false) ∧ (m.sealed = true) ∧ (ofSession s m 2 = true) ∧ (i = m.session % 16) ∧ (x = getSess s i) ∧ (ctrlOpen x m = some p) ∧ (m.seq = x.seqIn + 1) ∧ (x.role = 1) ∧ (2 ≤ glbStage s) ∧ (winThere s winCph = true) ∧ (winHeld s winCph = false) ∧ (cphLatched s = false) ∧ (leAt p 0 4 = r) ∧ (r ≠ 0) ∧ (r ≤ 7) ∧ ∃ k, (k = natsOf (fitBytes (p.drop 4) 32)) ∧ ∃ u, (u = (List.range 8).foldl (fun s n => rputN s (rCPH_ROOT_DATA + 4 * n) (beNat ((k.drop (4 * n)).take 4))) (rputN s rCPH_ROOT_SEL r))) ∧
    (∃ (m : CMsg) (s : State) (i : Nat) (x : Sess) (p : List Byte), (m.typ = 0x20) ∧ (ctrlHeard s m = true) ∧ (inRecovery s = false) ∧ (m.sealed = true) ∧ (ofSession s m 2 = true) ∧ (i = m.session % 16) ∧ (x = getSess s i) ∧ (ctrlOpen x m = some p) ∧ (m.seq = x.seqIn + 1) ∧ (x.role ≠ 1)) ∧
    (∃ (m : CMsg) (s : State) (i : Nat) (x : Sess) (p : List Byte), (m.typ = 0x30) ∧ (ctrlHeard s m = true) ∧ (inRecovery s = false) ∧ (m.sealed = true) ∧ (ofSession s m 2 = true) ∧ (i = m.session % 16) ∧ (x = getSess s i) ∧ (ctrlOpen x m = some p) ∧ (m.seq = x.seqIn + 1) ∧ (s.rot.owner = []) ∧ (glbStage s = 4) ∧ ∃ n, (n = natsOf (fitBytes p 512)) ∧ (beNat n ≠ 0)) ∧
    (∃ (m : CMsg) (s : State) (i : Nat) (x : Sess) (p : List Byte), (m.typ = 0x3F) ∧ (ctrlHeard s m = true) ∧ (inRecovery s = false) ∧ (m.sealed = true) ∧ (ofSession s m 2 = true) ∧ (i = m.session % 16) ∧ (x = getSess s i) ∧ (ctrlOpen x m = some p) ∧ (m.seq = x.seqIn + 1)) ∧
    (∃ (m : CMsg) (s : State) (i : Nat) (x : Sess) (p : List Byte), (m.typ = 0x38) ∧ (ctrlHeard s m = true) ∧ (inRecovery s = false) ∧ (m.sealed = true) ∧ (ofSession s m 2 = true) ∧ (i = m.session % 16) ∧ (x = getSess s i) ∧ (ctrlOpen x m = some p) ∧ (m.seq = x.seqIn + 1) ∧ ∃ t, (t = finishReq s i m (some {})) ∧ ((getSess t i).st = 2) ∧ ((getSess t i).seqIn = m.seq)) ∧
    (∃ (m : CMsg) (s : State) (i : Nat) (x : Sess) (p : List Byte) (a : CMsg), (m.typ = 0x3F) ∧ (ctrlHeard s m = true) ∧ (inRecovery s = false) ∧ (m.sealed = true) ∧ (ofSession s m 2 = true) ∧ (i = m.session % 16) ∧ (x = getSess s i) ∧ (ctrlOpen x m = some p) ∧ (m.seq = x.seqIn) ∧ (x.stored = some a)) ∧
    (∃ (i : Nat) (s : State) (e : EvtOut) (l : List EvtOut), ((getSess s i).events = e :: l) ∧ ((getSess s i).st = 2) ∧ (e.sent + us 100000 ≤ s.clock)) ∧
    (∃ (i : Nat) (s : State), ((getSess s i).st ≠ 0) ∧ ((getSess s i).lastReq + us 10000000 ≤ s.clock)) :=
  ⟨⟨tcm 0x10 (le32 0), tses 1, 0, getSess (tses 1) 0, le32 0, by decide +kernel, by decide +kernel, by decide +kernel, (by decide +kernel), by decide +kernel, by decide +kernel, by decide +kernel, (by decide +kernel), by decide +kernel, by decide +kernel, by decide +kernel, _, rfl⟩,
   ⟨tcm 0x12 (le32 0x80 ++ le32 1), tses 1, 0, getSess (tses 1) 0, le32 0x80 ++ le32 1, by decide +kernel, by decide +kernel, by decide +kernel, (by decide +kernel), by decide +kernel, by decide +kernel, by decide +kernel, (by decide +kernel), by decide +kernel, by decide +kernel, by decide +kernel, (by decide +kernel), _, rfl⟩,
   ⟨tcm 0x12 ([]), tses 0, 0, getSess (tses 0) 0, [], by decide +kernel⟩,
   ⟨tcm 0x19 ([]), tses 1, 0, getSess (tses 1) 0, [], by decide +kernel⟩,
   ⟨tcm 0x20 (le32 1), tses 1, 0, getSess (tses 1) 0, le32 1, 1, by decide +kernel, by decide +kernel, by decide +kernel, (by decide +kernel), by decide +kernel, by decide +kernel, by decide +kernel, (by decide +kernel), by decide +kernel, by decide +kernel, by decide +kernel, (by decide +kernel), by decide +kernel, by decide +kernel, by decide +kernel, (by decide +kernel), by decide +kernel, _, rfl, _, rfl⟩,
   ⟨tcm 0x20 ([]), tses 0, 0, getSess (tses 0) 0, [], by decide +kernel⟩,
   ⟨tcm 0x30 ([1]), tses 0, 0, getSess (tses 0) 0, [1], by decide +kernel, by decide +kernel, by decide +kernel, (by decide +kernel), by decide +kernel, by decide +kernel, by decide +kernel, (by decide +kernel), by decide +kernel, by decide +kernel, by decide +kernel, _, rfl, by decide +kernel⟩,
   ⟨tcm 0x3F ([]), tses 1, 0, getSess (tses 1) 0, [], by decide +kernel⟩,
   ⟨tcm 0x38 ([]), tses 1, 0, getSess (tses 1) 0, [], by decide +kernel, by decide +kernel, by decide +kernel, (by decide +kernel), by decide +kernel, by decide +kernel, by decide +kernel, (by decide +kernel), by decide +kernel, _, rfl, by decide +kernel⟩,
   ⟨tcm 0x3F [], setSess tst 0 { st := 2, kIn := List.replicate 32 7, seqIn := 1, stored := some {} }, 0, getSess (setSess tst 0 { st := 2, kIn := List.replicate 32 7, seqIn := 1, stored := some {} }) 0, [], {}, by decide +kernel⟩,
   ⟨0, setSess { tst with clock := 100000000 } 0 { st := 2, events := [⟨1, [], 0⟩] }, ⟨1, [], 0⟩, [], by decide +kernel⟩,
   ⟨0, setSess { tst with clock := 10000000000 } 0 { st := 2 }, by decide +kernel⟩⟩

theorem witness_control_opening :
    (∃ (m : CMsg) (s : State), (m.typ = 1) ∧ (ctrlHeard s m = true) ∧ (m.sealed = false) ∧ (ofSession s m 2 = false) ∧ ((glbStage s ≠ 0 ∨ inRecovery s = true))) ∧
    (∃ (m : CMsg) (s : State), (m.typ = 1) ∧ (ctrlHeard s m = true) ∧ (m.sealed = false) ∧ (ofSession s m 2 = false) ∧ (glbStage s = 0) ∧ (inRecovery s = false)) ∧
    (∃ (m : CMsg) (s : State) (i : Nat), (inRecovery s = false) ∧ (s.idKey ≠ none) ∧ (sessIds.find? (fun i => (getSess s i).st == 0) = some i) ∧ ∃ r, (r = makeReport s i (m.body.take 64))) ∧
    ((inRecovery { tst with idKey := none } = false ∧ ({ tst with idKey := none } : State).idKey = none) ∧ (let s := sessIds.foldl (fun s i => putSess s i { st := 1 }) { tst with idKey := some (1, 1) }; inRecovery s = false ∧ s.idKey ≠ none ∧ sessIds.find? (fun i => (getSess s i).st == 0) = none)) ∧
    (∃ (m : CMsg) (s : State) (i : Nat) (x : Sess), (m.typ = 3) ∧ (ctrlHeard s m = true) ∧ (inRecovery s = false) ∧ (m.sealed = false) ∧ (ofSession s m 1 = true) ∧ (i = m.session % 16) ∧ (x = getSess s i) ∧ ∃ b, (b = (Config.certChain.drop (1024 * leAt m.body 0 4)).take 1024)) ∧
    (∃ (m : CMsg) (s : State) (i : Nat) (x : Sess), (m.typ = 5) ∧ (ctrlHeard s m = true) ∧ (inRecovery s = false) ∧ (m.sealed = false) ∧ (ofSession s m 1 = true) ∧ (i = m.session % 16) ∧ (x = getSess s i) ∧ (s.rot.owner = []) ∧ ∃ c ctx : List Nat, (c = natsOf (fitBytes m.body 512)) ∧ (ctx = (sha512 (natsOf (x.report.take 0x400))).take 32)) ∧
    (∃ (o : Nat) (v : Word) (s : State), (hartHeld s o = false) ∧ (isOwner s o = true) ∧ ((wbits v 2 0 = 6 ∨ wbits v 2 0 = 7))) ∧
    (∃ (o : Nat) (v : Word) (s : State), ((isOwner s o = false ∨ (wbits v 2 0 ≠ 6 ∧ wbits v 2 0 ≠ 7)))) :=
  ⟨⟨{ typ := 1 }, tst, by decide +kernel⟩,
   ⟨{ typ := 1 }, State.reset, by decide +kernel⟩,
   ⟨{ typ := 1 }, { tst with idKey := some (1, 1) }, 0, by decide +kernel, by decide +kernel, by decide +kernel, _, rfl⟩,
   by decide +kernel,
   ⟨{ typ := 3 }, setSess tst 0 { st := 1 }, 0, getSess (setSess tst 0 { st := 1 }) 0, by decide +kernel, by decide +kernel, by decide +kernel, (by decide +kernel), by decide +kernel, by decide +kernel, by decide +kernel, _, rfl⟩,
   ⟨{ typ := 5 }, setSess tst 0 { st := 1 }, 0, getSess (setSess tst 0 { st := 1 }) 0, by decide +kernel, by decide +kernel, by decide +kernel, (by decide +kernel), by decide +kernel, by decide +kernel, by decide +kernel, (by decide +kernel), _, _, rfl, rfl⟩,
   ⟨109, 6, tst, by decide +kernel⟩,
   ⟨1, 6, tst, by decide +kernel⟩⟩

theorem witness_firmware_messages :
    (∃ (m : CMsg) (s : State) (i : Nat) (x : Sess) (p : List Byte) (b : Nat), (m.typ = 0x28) ∧ (ctrlHeard s m = true) ∧ (inRecovery s = false) ∧ (m.sealed = true) ∧ (ofSession s m 2 = true) ∧ (i = m.session % 16) ∧ (x = getSess s i) ∧ (ctrlOpen x m = some p) ∧ (m.seq = x.seqIn + 1) ∧ (x.role = 1) ∧ (glbStage s = 4) ∧ (leAt p 0 4 = b) ∧ (b ≤ 1) ∧ (b ≠ s.rot.active) ∧ (s.fwLock.elim false (fun k => k != i) = false) ∧ (leAt p 4 4 + ((p.drop 8).take 1024).length ≤ bankSize)) ∧
    (∃ (m : CMsg) (s : State) (i : Nat) (x : Sess) (p : List Byte) (b : Nat), (m.typ = 0x29) ∧ (ctrlHeard s m = true) ∧ (inRecovery s = false) ∧ (m.sealed = true) ∧ (ofSession s m 2 = true) ∧ (i = m.session % 16) ∧ (x = getSess s i) ∧ (ctrlOpen x m = some p) ∧ (m.seq = x.seqIn + 1) ∧ (x.role = 1) ∧ (glbStage s = 4) ∧ (leAt p 0 4 = b) ∧ (b ≤ 1) ∧ (s.fwLock = none)) ∧
    (∃ (m : CMsg) (s : State) (i : Nat) (x : Sess) (p : List Byte), (m.typ = 0x2A) ∧ (ctrlHeard s m = true) ∧ (inRecovery s = false) ∧ (m.sealed = true) ∧ (ofSession s m 2 = true) ∧ (i = m.session % 16) ∧ (x = getSess s i) ∧ (ctrlOpen x m = some p) ∧ (m.seq = x.seqIn + 1) ∧ (x.role = 1) ∧ (glbStage s = 4) ∧ ∃ r : RotMem, (r = (if s.rot.trial then { s.rot with active := s.rot.booted, trial := false } else s.rot)) ∧ ∃ q : RotMem, (q = (if nbit (leAt p 0 4) 0 then { r with floor := max r.floor (rfld s rTPM_BOOT 31 24) } else r))) ∧
    (∃ (m : CMsg) (s : State) (i : Nat) (x : Sess) (p : List Byte), (m.typ = 0x2A) ∧ (ctrlHeard s m = true) ∧ (inRecovery s = false) ∧ (m.sealed = true) ∧ (ofSession s m 2 = true) ∧ (i = m.session % 16) ∧ (x = getSess s i) ∧ (ctrlOpen x m = some p) ∧ (m.seq = x.seqIn + 1) ∧ (x.role = 1) ∧ (glbStage s ≠ 4)) :=
  ⟨⟨tcm 0x28 (le32 1 ++ le32 0 ++ [7]), tses 1, 0, getSess (tses 1) 0, le32 1 ++ le32 0 ++ [7], 1, by decide +kernel⟩,
   ⟨tcm 0x29 (le32 1), tses 1, 0, getSess (tses 1) 0, le32 1, 1, by decide +kernel⟩,
   ⟨tcm 0x2A (le32 1), tses 1, 0, getSess (tses 1) 0, le32 1, by decide +kernel, by decide +kernel, by decide +kernel, (by decide +kernel), by decide +kernel, by decide +kernel, by decide +kernel, (by decide +kernel), by decide +kernel, by decide +kernel, by decide +kernel, _, rfl, _, rfl⟩,
   ⟨tcm 0x2A ([]), rput (tses 1) 0x14 3, 0, getSess (tses 1) 0, [], by decide +kernel⟩⟩

theorem witness_ethernet_and_roce :
    (∃ (w : Nat) (b : List Byte) (s : State) (q : HostReq) (r : List HostReq), ((getH s w).reqs = q :: r)) ∧
    (∃ (w : Nat) (s : State) (q : HostReq) (r : List HostReq), ((getH s w).reqs = q :: r) ∧ (q.sent + hwAckNs s w ≤ s.clock) ∧ (q.tries < rfld s (hwReg w rHW_TIMEOUT) 2 0)) ∧
    (∃ (w : Nat) (s : State) (q : HostReq) (r : List HostReq), ((getH s w).reqs = q :: r) ∧ (q.sent + hwAckNs s w ≤ s.clock) ∧ (rfld s (hwReg w rHW_TIMEOUT) 2 0 ≤ q.tries)) ∧
    (∃ (w : Nat) (s : State), (w < 64)) ∧
    (∃ (p k n : Nat) (c : EthClass) (s : State), (ethClassNum c = some k) ∧ (p < 2) ∧ (ethUp s p = true) ∧ (ethFits s p k n = true)) ∧
    (∃ (p k n : Nat) (f : Bool) (c : EthClass) (s : State), (ethClassNum c = some k) ∧ (p < 2) ∧ (ethUp s p = true) ∧ (ethFits s p k n = false)) ∧
    (∃ (p n : Nat) (s : State), (p < 2) ∧ (ethUp s p = true) ∧ (ethFits s p 2 n = true)) ∧
    (∃ (p n : Nat) (f : Bool) (c : EthClass) (s : State), (p < 2) ∧ (ethUp s p = false)) ∧
    (∃ (t p : Nat) (s : State), (ethUp s p = true) ∧ (ip6At s (wreg (winEth p) oETH_S_IP6_0) = t)) ∧
    (∃ (p : Nat) (u : Bool) (s : State), (p < 2)) :=
  ⟨⟨0, [], thost treq, treq, [], by decide +kernel⟩,
   ⟨0, rput { thost treq with clock := 1000000000 } (hwReg 0 rHW_TIMEOUT) 1, treq, [], by decide +kernel⟩,
   ⟨0, rput { thost treq with clock := 1000000000 } (hwReg 0 rHW_TIMEOUT) 0, treq, [], by decide +kernel⟩,
   ⟨0, tst, by decide +kernel⟩,
   ⟨0, 1, 100, .roce, teth, by decide +kernel⟩,
   ⟨0, 1, 4194304, false, .roce, teth, by decide +kernel⟩,
   ⟨0, 100, teth, by decide +kernel⟩,
   ⟨0, 100, false, .roce, tst, by decide +kernel⟩,
   ⟨0, 0, teth, by decide +kernel⟩,
   ⟨0, true, tst, by decide +kernel⟩⟩

theorem witness_resets :
    (∃ s : State, (s.resets.any (fun r => containsReset r 0 0 || sameReset r 0 0) = false) ∧ ∃ r : ResetP, (r = { dom := 0, floe := 0, cause := 2, since := s.clock, pinHeld := false, drain := drainOf s 0 0 })) ∧
    (∃ s : State, (s.resets.any (fun r => containsReset r 1 0 || sameReset r 1 0) = false) ∧ ∃ r : ResetP, (r = { dom := 1, floe := 0, cause := 2, since := s.clock, pinHeld := false, drain := drainOf s 1 0 })) ∧
    (∃ s : State, (s.resets.any (fun r => containsReset r 2 0 || sameReset r 2 0) = false) ∧ (winThere s winSxu = true) ∧ ∃ r : ResetP, (r = { dom := 2, floe := 0, cause := 2, since := s.clock, pinHeld := false, drain := drainOf s 2 0 })) ∧
    (∃ s : State, (s.resets.any (fun r => containsReset r 3 0 || sameReset r 3 0) = false) ∧ (winThere s winCph = true) ∧ ∃ r : ResetP, (r = { dom := 3, floe := 0, cause := 2, since := s.clock, pinHeld := false, drain := drainOf s 3 0 })) ∧
    (∃ s : State, (s.resets.any (fun r => containsReset r 4 0 || sameReset r 4 0) = false) ∧ ∃ r : ResetP, (r = { dom := 4, floe := 0, cause := 2, since := s.clock, pinHeld := false, drain := drainOf s 4 0 })) ∧
    (∃ (v : Word) (f : Nat) (s : State), (floeResetTarget s v = some f) ∧ (s.resets.any (fun r => containsReset r 5 f || sameReset r 5 f) = false) ∧ ∃ r : ResetP, (r = { dom := 5, floe := f, cause := 2, since := s.clock, pinHeld := false, drain := drainOf s 5 f })) ∧
    (∃ (v : Word) (s : State), (floeResetTarget s v = none)) ∧
    (∃ (s : State), (s.resets.any (fun r => containsReset r 0 0 || sameReset r 0 0) = true)) ∧
    (∃ (d : Nat) (s : State) (r : ResetP), (s.resets.find? (fun r => r.dom == d && resetDone s r) = some r)) ∧
    (∃ (d : Nat) (s : State), (s.resets.find? (fun r => r.dom == d && resetDone s r) = none)) :=
  ⟨⟨tst, by decide +kernel, _, rfl⟩,
   ⟨tst, by decide +kernel, _, rfl⟩,
   ⟨tst, by decide +kernel, by decide +kernel, _, rfl⟩,
   ⟨tst, by decide +kernel, by decide +kernel, _, rfl⟩,
   ⟨tst, by decide +kernel, _, rfl⟩,
   ⟨0x40000000, 0x40000000, tst, by decide +kernel, by decide +kernel, _, rfl⟩,
   ⟨0xFFFFFFFF, tst, by decide +kernel⟩,
   ⟨{ tst with resets := [trst 0] }, by decide +kernel⟩,
   ⟨0, { tst with resets := [trst 0], clock := 1000000 }, trst 0, by decide +kernel⟩,
   ⟨0, { tst with resets := [trst 0] }, by decide +kernel⟩⟩

theorem witness_reset_effects :
    (∃ s : State, (s.resets.any (fun r => r.dom == 4 || r.dom == 6) = false)) ∧
    (∃ s : State, (s.resets.any (fun r => r.dom == 6) = false)) :=
  ⟨⟨tst, by decide +kernel⟩,
   ⟨tst, by decide +kernel⟩⟩

theorem witness_start_up :
    (∃ s : State, (glbStage s = 0) ∧ (tpmCode s = 0) ∧ (inModReset s = false) ∧ ∃ u, (u = measExt (measExt { s with rot := { s.rot with boots := (s.rot.boots + 1) % 2 ^ 32 } } 0 Config.romHash) 0 (Config.fuseHash s.rot.floor))) ∧
    (∃ s : State, ((glbStage s ≠ 0 ∨ tpmCode s ≠ 0 ∨ inModReset s = true))) ∧
    (∃ s : State, (inModReset s = false) ∧ (s.pins.resetLow = false) ∧ (glbStage s = 0) ∧ (tpmCode s = 1)) ∧
    (∃ s : State, (inModReset s = false) ∧ (s.pins.resetLow = false) ∧ (glbStage s = 1)) ∧
    (∃ s : State, (inModReset s = false) ∧ (s.pins.resetLow = false) ∧ (glbStage s = 2)) ∧
    (∃ s : State, (inModReset s = false) ∧ (s.pins.resetLow = false) ∧ (glbStage s = 3) ∧ (portsStarted s = true) ∧ (checkMet s = true)) ∧
    (∃ s : State, (glbStage s = 3) ∧ (inModReset s = false) ∧ (s.fabricAt + us 2000000 ≤ s.clock)) :=
  ⟨⟨State.reset, by decide +kernel, by decide +kernel, by decide +kernel, _, rfl⟩,
   ⟨tst, by decide +kernel⟩,
   ⟨rputF State.reset (wreg winTpm hBLK_STATE) 7 0 1, by decide +kernel⟩,
   ⟨rput State.reset 0x14 1, by decide +kernel⟩,
   ⟨rput State.reset 0x14 2, by decide +kernel⟩,
   ⟨rput tctr 0x14 3, by decide +kernel⟩,
   ⟨{ rput tst 0x14 3 with clock := 2000000000 }, by decide +kernel⟩⟩

theorem witness_register_reads :
    (∃ (o off : Nat) (s : State), (hartHeld s o = false) ∧ (winOpen s (offWin off) = true) ∧ (isMbxPage off = false) ∧ (pairOf off = none)) ∧
    (∃ (o lo : Nat) (s : State), (hartHeld s o = false) ∧ (winOpen s (offWin lo) = true) ∧ (isMbxPage lo = false) ∧ (pairOf lo = some lo) ∧ ∃ u, (u = otherLatches s o lo)) ∧
    (∃ (o lo off : Nat) (s : State), (hartHeld s o = false) ∧ (winOpen s (offWin off) = true) ∧ (isMbxPage off = false) ∧ (pairOf off = some lo) ∧ (off ≠ lo) ∧ ∃ u, (u = otherLatches s o lo)) ∧
    (∃ (o off : Nat) (s : State), (hartHeld s o = false) ∧ (winHeld s (offWin off) = false) ∧ (winPresent s.order (offWin off) = false)) ∧
    (∃ (o off : Nat) (s : State), (winHeld s (offWin off) = true)) ∧
    (∃ (o off : Nat) (v : Word) (s : State), (hartHeld s o = true)) :=
  ⟨⟨1, 0x90000, tst, by decide +kernel⟩,
   ⟨1, 0xB0, tst, by decide +kernel, by decide +kernel, by decide +kernel, (by decide +kernel), _, rfl⟩,
   ⟨1, 0xB0, 0xB4, tst, by decide +kernel, by decide +kernel, by decide +kernel, (by decide +kernel), by decide +kernel, _, rfl⟩,
   ⟨1, 0xFF0000, tst, by decide +kernel⟩,
   ⟨1, 0, { tst with resets := [trst 4] }, by decide +kernel⟩,
   ⟨110, 0x24, 1, State.reset, by decide +kernel⟩⟩

theorem witness_register_writes :
    (∃ (o off : Nat) (v : Word) (s : State), (hartHeld s o = false) ∧ (off % 4 = 0) ∧ (off < 2 ^ 24) ∧ (winOpen s (offWin off) = true) ∧ (pairOf off = none) ∧ (refusedWrite s o off = none)) ∧
    (∃ (o off : Nat) (v : Word) (s t : State), (hartHeld s o = false) ∧ (off % 4 = 0) ∧ (off < 2 ^ 24) ∧ (winOpen s (offWin off) = true) ∧ (pairOf off = none) ∧ (refusedWrite s o off = some t)) ∧
    (∃ (o lo : Nat) (v : Word) (s : State), (hartHeld s o = false) ∧ (lo % 4 = 0) ∧ (lo < 2 ^ 24) ∧ (winOpen s (offWin lo) = true) ∧ (pairOf lo = some lo) ∧ (pairWritable lo = true) ∧ ∃ u, (u = otherLatches s o lo)) ∧
    (∃ (o lo off : Nat) (v l : Word) (s : State), (hartHeld s o = false) ∧ (off % 4 = 0) ∧ (off < 2 ^ 24) ∧ (winOpen s (offWin off) = true) ∧ (pairOf off = some lo) ∧ (off ≠ lo) ∧ (pairWritable lo = true) ∧ (isMbxPage off = false) ∧ ∃ u, (u = otherLatches s o lo) ∧ (latchOf u.wrLatch o (offWin lo) (offIn lo) = some l) ∧ ∃ w, (w = { u with wrLatch := latchDrop u.wrLatch o (offWin lo) }) ∧ (refusedWrite w o off = none)) ∧
    (∃ (o off e : Nat) (v : Word) (s : State), (hartHeld s o = false) ∧ (off % 4 = 0) ∧ (tableSet off = some e) ∧ (winOpen s (offWin off) = true) ∧ (pairOf off = none) ∧ (setWritable s e = true) ∧ (refusedWrite s o off = none)) ∧
    (∃ (o off e : Nat) (s : State), (offWin off = winTfr) ∧ (tableSet off = some e)) ∧
    (∃ (o off e : Nat) (v : Word) (s : State), (hartHeld s o = false) ∧ (off % 4 = 0) ∧ (tableSet off = some e) ∧ (winOpen s (offWin off) = true) ∧ (pairOf off = none) ∧ (refusedWrite s o off = some (rinc s rTFR_TBL_REJ 1))) ∧
    (∃ (o off lo e : Nat) (v : Word) (s : State), (hartHeld s o = false) ∧ (off % 4 = 0) ∧ (tableSet off = some e) ∧ (winOpen s (offWin off) = true) ∧ (pairOf off = some lo) ∧ (off = lo) ∧ (pairWritable lo = true) ∧ ∃ u, (u = otherLatches s o lo)) ∧
    (∃ (v : Word) (s : State), ∃ u, (u = rputBit (rput s rMOR_CTRL (v &&& 0x80000007)) rREPLAY_STAT 31 false)) :=
  ⟨⟨1, 0x24, 1, tst, by decide +kernel⟩,
   ⟨1, wreg winMbx 0x2008, 1, tst, tst, by decide +kernel⟩,
   ⟨1, 0xB0, 1, tst, by decide +kernel, by decide +kernel, by decide +kernel, (by decide +kernel), by decide +kernel, by decide +kernel, _, rfl⟩,
   ⟨1, 0xB0, 0xB4, 1, 7, { tst with wrLatch := [⟨1, 0, 0xB0, 7⟩] }, by decide +kernel, by decide +kernel, by decide +kernel, (by decide +kernel), by decide +kernel, by decide +kernel, by decide +kernel, (by decide +kernel), _, rfl, by decide +kernel, _, rfl, by decide +kernel⟩,
   ⟨1, wreg winTfr 0x1000, 0, 1, rput tst rTFR_QUIESCE 15, by decide +kernel⟩,
   ⟨1, wreg winTfr 0x1000, 0, tst, by decide +kernel⟩,
   ⟨1, wreg winTfr 0x1000, 0, 1, tst, by decide +kernel⟩,
   ⟨1, wreg winTfr 0x2000, wreg winTfr 0x2000, 0, 1, tst, by decide +kernel, by decide +kernel, by decide +kernel, (by decide +kernel), by decide +kernel, by decide +kernel, by decide +kernel, _, rfl⟩,
   ⟨1, tst, _, rfl⟩⟩

theorem witness_shadow_commit :
    (∃ (w g : Nat) (s : State), (winOpen s w = true) ∧ (hasShadow w = true) ∧ (commitPending s w = false) ∧ (g = blkGen s w)) ∧
    (∃ (w g : Nat) (s : State), (winOpen s w = true) ∧ (hasShadow w = true) ∧ (commitPending s w = false) ∧ (g ≠ blkGen s w) ∧ ∃ u, (u = putOutcome (reloadShadow s w) w 4 0 0)) ∧
    (∃ (w g : Nat) (s : State), (winOpen s w = true) ∧ (hasShadow w = true) ∧ (commitPending s w = true)) ∧
    (∃ (w : Nat) (s : State), (winOpen s w = true) ∧ (commitPending s w = true) ∧ (safePoint s w = true) ∧ (firstRefusal (refusals s (applyShadow s w) w) = none) ∧ ∃ u, (u = bumpGen (commitHooks s (applyShadow s w) w) w)) ∧
    (∃ (w off c : Nat) (s : State), (winOpen s w = true) ∧ (commitPending s w = true) ∧ (safePoint s w = true) ∧ (firstRefusal (refusals s (applyShadow s w) w) = some (off, c))) ∧
    (∃ (w g : Nat) (s : State), (winOpen s w = true) ∧ (g = blkGen s w) ∧ ∃ u, (u = rputBit s (commitStat w) 5 false)) ∧
    (∃ (w g : Nat) (s : State), (winOpen s w = true) ∧ (g ≠ blkGen s w)) :=
  ⟨⟨winTfr, 0, tst, by decide +kernel⟩,
   ⟨winTfr, 1, tst, by decide +kernel, by decide +kernel, by decide +kernel, (by decide +kernel), _, rfl⟩,
   ⟨winTfr, 0, rput tst (commitStat winTfr) 1, by decide +kernel⟩,
   ⟨winUpd, rput tst (commitStat winUpd) 1, by decide +kernel, by decide +kernel, by decide +kernel, (by decide +kernel), _, rfl⟩,
   ⟨winEng 0, oENG_RAMP, cRANGE, shPut (rput tst (commitStat (winEng 0)) 1) (wreg (winEng 0) oENG_RAMP) 4, by decide +kernel⟩,
   ⟨winTfr, 0, tst, by decide +kernel, by decide +kernel, _, rfl⟩,
   ⟨winTfr, 1, tst, by decide +kernel⟩⟩

theorem witness_register_write_fields :
    (∃ (s : State) (off b : Nat) (v : Word), (commitPending s (offWin off) = false) ∧ (b < 32) ∧ ((∀ f ∈ fieldsAt off, f.acc = .rw ∨ f.acc = .wo ∨ f.acc = .w1c → f.hi < 32 ∧ f.lo ≤ f.hi ∧ (b < f.lo ∨ f.hi < b)))) ∧
    (∃ (s : State) (off : Nat) (v : Word) (f : Fld), (commitPending s (offWin off) = false) ∧ (f ∈ fieldsAt off) ∧ (f.acc = .rw) ∧ (f.lo ≤ f.hi) ∧ (f.hi < 32) ∧ ((fieldsAt off).Nodup) ∧ ((∀ g ∈ fieldsAt off, g ≠ f → g.lo ≤ g.hi ∧ g.hi < 32 ∧ (g.hi < f.lo ∨ f.hi < g.lo)))) :=
  ⟨⟨tst, 0x24, 3, 1, by decide +kernel⟩,
   ⟨tst, 0x24, 1, ⟨0, 0, .rw, 1⟩, by decide +kernel⟩⟩

theorem witness_pair_reads_are_whole : ∃ (o lo : Nat) (s u : State), winOpen s (offWin lo) = true ∧ winOpen u (offWin lo) = true ∧ offWin (lo + 4) = offWin lo ∧ isMbxPage lo = false ∧ isMbxPage (lo + 4) = false ∧
    pairOf lo = some lo ∧ pairOf (lo + 4) = some lo ∧ hartHeld s o = false ∧ hartHeld u o = false ∧ (∀ t, exec (.readClear o lo) s = .next t → u.rdLatch = t.rdLatch) :=
  ⟨1, 0xB0, tst, effRead tst 1 0xB0, by decide +kernel, by decide +kernel, by decide +kernel, by decide +kernel, by decide +kernel, by decide +kernel, by decide +kernel, by decide +kernel, by decide +kernel, fun t h => by cases h; rfl⟩

theorem witness_frame_of_commands : ∃ (i : Instr) (s t : State), exec i s = .next t :=
  ⟨.roundDeadline, tst, _, rfl⟩

theorem witness_frame_of_units : ∃ (i : Instr) (s t : State), exec i s = .next t :=
  ⟨.roundDeadline, tst, _, rfl⟩

theorem witness_frame_of_memory :
    (∃ (i : Instr) (s t : State), exec i s = .next t ∧ (match i with
      | .queueEnable .. | .partComplete .. | .partFail .. | .matmul .. | .rampUpStageEnd .. | .holdEnd .. | .rampDownStageEnd .. | .fenceQueue .. | .fenceIcache ..
      | .updAbort .. | .gEnginesRefresh .. | .wait .. | .waitRegistration .. | .mbxPost .. | .mbxReceive .. | .mbxLockAcquire .. | .mbxLockRelease .. | .mbxForce ..
      | .mbxHb .. | .ack .. | .credit .. | .poisonListExpiry .. | .nack .. | .deltaSendStop | .leave .. | .staggerEnd | .grantEffective | .status .. | .coolantTimeout
      | .rootLoad .. | .rootClear .. | .lidEnWrite .. | .openSession .. | .certGet .. | .keyx .. | .read .. | .eventAck .. | .eventResend .. | .keyLoad ..
      | .fwWrite .. | .fwActivate .. | .fwCommit .. | .claim .. | .close .. | .keepalive .. | .sessionIdleTimeout .. | .tpmMeasExt .. | .congestionNotification ..
      | .rateRestore .. | .ethFrameReceive .. | .neighbourSolicitation .. | .morEnable .. | .readClear .. | .fruWrite .. | .testAccessPort .. => True | _ => False)) ∧
    (∃ (i : Instr) (s t : State), exec i s = .next t ∧ (match i with
      | .queueEnable .. | .partComplete .. | .partFail .. | .matmul .. | .holdEnd .. | .rampDownStageEnd .. | .fenceQueue .. | .fenceIcache .. | .wait ..
      | .ack .. | .poisonListExpiry .. | .nack .. | .leave .. | .staggerEnd | .grantEffective | .status .. | .congestionNotification .. | .rateRestore ..
      | .fruWrite .. | .testAccessPort .. => True | _ => False)) ∧
    (∃ (i : Instr) (s t : State), exec i s = .next t ∧ (match i with
      | .queueEnable .. | .resumeRetry .. | .resumeSkip .. | .rampUpStageEnd .. | .holdEnd .. | .rampDownStageEnd .. | .fenceEngine .. | .selftestStart ..
      | .selftestEnd .. | .firnBlockWrite .. | .reEncodeStep .. | .firnInitDone .. | .hbmScrub .. | .storeScrub .. | .idleLogReplay | .updAbort .. | .gEnginesRefresh ..
      | .waitRegistration .. | .mbxPost .. | .mbxReceive .. | .mbxLockAcquire .. | .mbxLockRelease .. | .mbxForce .. | .mbxHb .. | .ack .. | .credit ..
      | .trainingAttempt .. | .route .. | .wr .. | .acc .. | .rd .. | .poisonListExpiry .. | .segmentTransmit .. | .probe .. | .probeReply .. | .probePeriodic
      | .nack .. | .acnisRto .. | .deltaSendStop | .joinReq .. | .joinReqRepeat | .snapSend | .snapDeadline | .leave .. | .ppsEdge .. | .ppsMissing | .ptpSync ..
      | .ptpDelayResp .. | .ptpLock | .ptpLoss | .holdoverLimit | .staggerEnd | .grantEffective | .coolant .. | .grid .. | .status .. | .grantLost | .coolantTimeout
      | .gridLossN .. | .park | .parked | .unpark | .unparkDone | .cmdQueueEntryFreed | .rootLoad .. | .rootClear .. | .lidEnWrite .. | .openSession ..
      | .certGet .. | .keyx .. | .read .. | .eventAck .. | .eventResend .. | .keyLoad .. | .fwWrite .. | .fwActivate .. | .fwCommit .. | .claim .. | .close ..
      | .keepalive .. | .sessionIdleTimeout .. | .tpmMeasExt .. | .congestionNotification .. | .rateRestore .. | .ethFrameReceive .. | .neighbourSolicitation ..
      | .bootRom | .startUpStage | .neighbourCheckTimeout | .boardFrameEnd .. | .blkCommitCommit .. | .blkCommitDiscard .. | .statClr .. | .evtTest .. | .morEnable ..
      | .readClear .. | .ethLink .. | .fruWrite .. | .testAccessPort .. => True | _ => False)) :=
  ⟨⟨.poisonListExpiry 1 2, tst, _, rfl, trivial⟩,
   ⟨.poisonListExpiry 1 2, tst, _, rfl, trivial⟩,
   ⟨.poisonListExpiry 1 2, tst, _, rfl, trivial⟩⟩

theorem witness_step_runs_front : ∃ (c : Instr) (r : List Instr) (s : State), (s.pending = c :: r) :=
  ⟨.roundDeadline, [], { tst with pending := [.roundDeadline] }, by decide +kernel⟩

theorem witness_idle_step :
    (∃ s : State, (s.pending = []) ∧ (s.time.offset = 0)) ∧
    (∃ s : State, (s.pending = [])) :=
  ⟨⟨tst, by decide +kernel⟩,
   ⟨tst, by decide +kernel⟩⟩

theorem witness_step_keeps_canonical : ∃ s t : State, s.canonical = true ∧ step s = .next t ∧ s.pending ≠ [] :=
  ⟨{ tst with pending := [.roundDeadline] }, _, by decide +kernel, rfl, by decide⟩

theorem witness_division_is_a_partition :
    (∃ (r : Nat × Nat) (n k : Nat), (r.1 ≤ r.2) ∧ (0 < n)) ∧
    (∃ (lo hi u : Nat) (kids : List Nat), (kids ≠ []) ∧ (lo ≤ u) ∧ (u < hi)) ∧
    (∃ (lo hi : Nat) (kids : List Nat) (p : Nat × Nat × Nat), (lo ≤ hi) ∧ (p ∈ splitUnits lo hi kids)) :=
  ⟨⟨(0, 10), 3, 1, by decide +kernel⟩,
   ⟨0, 10, 3, [4, 5, 6], by decide +kernel⟩,
   ⟨0, 10, [4, 5, 6], (4, 0, 3), by decide +kernel⟩⟩

theorem witness_absent_windows :
    (∃ w, (winBlk w = none)) ∧
    (∃ (o off : Nat) (s : State), (hartHeld s o = false) ∧ (winPresent s.order (offWin off) = false)) ∧
    (∃ (o off : Nat) (v : Word) (s : State), (winPresent s.order (offWin off) = false)) :=
  ⟨⟨255, by decide +kernel⟩,
   ⟨1, 0xFF0000, tst, by decide +kernel⟩,
   ⟨1, 0xFF0000, 7, tst, by decide +kernel⟩⟩

theorem witness_p8a_conversion : ∃ (neg : Bool) (m : Nat) (e : Int) (d n : Nat) (f : Int), (d < 128) ∧ (p8aDec d = .fin false n f) :=
  ⟨false, 77, -3, 3, _, _, by decide +kernel, rfl⟩

theorem witness_arbitration :
    (∃ (l : Losses MemSource) (ps : List MemSource) (m x : MemSource), (ps.Nodup) ∧ (x ∈ ps) ∧ (x ≠ m)) ∧
    (∃ (l : Losses MemSource) (m : MemSource), (lossOf l m = 63)) ∧
    (∃ (ws : List Nat) (ps : List MemSource) (bg : Bool) (a : ChanArb) (m : MemSource), (a.losses.promoted.find? (fun m => ps.contains m) = some m)) ∧
    (∃ (ws : List Nat) (ps : List MemSource) (bg : Bool) (a : ChanArb) (m : MemSource), (a.losses.promoted.find? (fun m => ps.contains m) = none) ∧ (a.left ≠ 0) ∧ (classTurn a ps a.visit = some m) ∧ ∃ b, (b = noteTurn { a with left := a.left - 1 } a.visit m)) ∧
    (∃ (s : State) (f : Bool) (m : MemSource) (a n c : Nat), (inHbm s.order a = true) ∧ (n ≠ 0) ∧ (a % 4096 + n ≤ 4096) ∧ (hbmChannel s.order a = c)) :=
  ⟨⟨{}, [.engine 0, .core 3], .engine 0, .core 3, by decide +kernel⟩,
   ⟨{ counts := [(.core 0, 63)] }, .core 0, by decide +kernel⟩,
   ⟨[8, 4, 4, 4, 0, 1, 0], [.engine 0, .core 0], true, { losses := { promoted := [.core 0] } }, .core 0, by decide +kernel⟩,
   ⟨[8, 4, 4, 4, 1, 1, 1], [.engine 0, .engine 5, .core 0], false, { left := 2, last := [(0, .engine 0)] }, .engine 5, by decide +kernel, by decide +kernel, by decide +kernel, _, rfl⟩,
   ⟨tst, false, .upd 0, 4096, 64, 1, by decide +kernel⟩⟩

theorem witness_packet_round_trip : ∃ pk : Pkt, pk.wf = true ∧ pk.aux = [] ∧ pk.via = none ∧ pk.payload ≠ [] :=
  ⟨{ op := 15, cls := 3, epoch := true, ordered := true, dlv := true, ttl := 255, dest := 2 ^ 18 - 1, src := 2 ^ 18 - 1, rtag := 65535, ctag := 65535, addr := 0xFFFFFFFFFFFFFFFF, arg := 0xFFFFFFFF, status := 255, payload := [1, 2, 3], poisoned := true }, by decide +kernel, rfl, rfl, by decide⟩

end Sys2Proof.Tests
end

section
/-! SUPPORT. Which areas of the state (Laws/Touch) each command may write, and what a step can do: the frames of the commands and the canonical form follow. -/

namespace Sys2Proof.Machine

/-- The areas of the state that Laws/Touch numbers, in the order of its masks' bits. -/
inductive Area where
  | time | free | resp | regs | shadow | latch | mem | bad
  | queues | jobs | engines | cores | counters | waits | errFifo | slots
  | inj | held | links | resets | poisoned | sess | hosts | upd
  | col | cph | sxu | gov | pins | rot | eth | outs

/-- The mask of a list of areas. -/
def areaMask (l : List Area) : Nat := l.foldr (fun a m => 2 ^ a.ctorIdx ||| m) 0

/-- Where an error's report may go: its record, the head page's registers, the sessions' events, and the words that meet a memory error. -/
def errorAreas : List Area := [.free, .regs, .mem, .bad, .errFifo, .sess, .outs]

def everyArea : List Area :=
  [.time, .free, .resp, .regs, .shadow, .latch, .mem, .bad, .queues, .jobs, .engines, .cores, .counters, .waits, .errFifo, .slots, .inj, .held, .links,
   .resets, .poisoned, .sess, .hosts, .upd, .col, .cph, .sxu, .gov, .pins, .rot, .eth, .outs]

/-- The areas that a command may write. -/
def areas : Instr → List Area
  | .qTailWrite .. | .waitTimeout .. | .waiterBackstop .. => [.queues, .jobs, .waits] ++ errorAreas
  | .queueEnable .. => [.queues]
  | .resumeRetry .. | .resumeSkip .. => [.queues] ++ errorAreas
  | .commandAtHead .. | .counterWaitExpiry .. | .registrationRetry .. => [.queues, .jobs, .waits, .inj] ++ errorAreas
  | .commandDispatch .. => [.queues, .jobs, .waits, .slots, .inj, .cph] ++ errorAreas
  | .commandComplete .. | .ticket .. | .signalAdd .. | .fetchAdd .. => [.queues, .jobs, .counters, .waits, .slots, .inj] ++ errorAreas
  | .commandFail .. => [.queues, .jobs, .waits, .slots, .inj] ++ errorAreas
  | .partComplete .. | .partFail .. | .wait .. => [.jobs]
  | .cmd .. => [.jobs, .waits, .inj, .held, .poisoned] ++ errorAreas
  | .rpt .. => [.jobs, .inj, .held, .poisoned] ++ errorAreas
  | .partReportTimer .. | .dmaCopyRemoteWrite .. | .dmaCopyRemoteRead .. | .accumWriteRemote .. | .replyTimeout .. | .tfrQuiesce .. =>
      [.jobs, .waits, .slots, .inj] ++ errorAreas
  | .reportTimeout .. | .elemwiseAdd .. | .elemwiseSub .. | .elemwiseMul .. | .elemwiseDiv .. | .elemwiseSqrt .. | .elemwiseFma ..
    | .elemwiseMin .. | .elemwiseMax .. | .elemwiseMinnum .. | .elemwiseMaxnum .. | .cmpq .. | .cmps .. | .cvt .. | .cvtToInt .. | .cvtFromInt ..
    | .roundint .. | .augAdd .. | .augMul .. | .classOf .. | .copysign .. | .neg .. | .abs .. | .dmaCopyLocal .. | .accumWriteLocal ..
    | .firnSeal .. | .firnRelearn .. | .firnExport .. | .firnImport .. | .firnDiscard .. => [.jobs] ++ errorAreas
  | .matmul .. => [.jobs, .engines]
  | .pass .. => [.jobs, .engines, .gov] ++ errorAreas
  | .drain .. | .drainStreamResume .. => [.jobs, .engines, .waits, .slots, .inj] ++ errorAreas
  | .rampUpStageEnd .. => [.regs, .engines]
  | .holdEnd .. | .rampDownStageEnd .. => [.engines]
  | .fenceEngine .. => [.shadow, .engines] ++ errorAreas
  | .selftestStart .. | .selftestEnd .. => [.engines] ++ errorAreas
  | .kernel .. | .kernelEcall .. | .kernelFault .. | .kernelTimeout .. => [.jobs, .cores] ++ errorAreas
  | .dmaCopyHost .. => [.jobs, .waits, .hosts] ++ errorAreas
  | .fenceQueue .. | .fenceIcache .. => [.jobs, .cores]
  | .firnBlockWrite .. | .reEncodeStep .. | .hbmScrub .. | .storeScrub .. | .holdoverLimit | .park | .parked | .unpark | .unparkDone
    | .neighbourCheckTimeout | .statClr .. | .evtTest .. | .ethLink .. => errorAreas
  | .firnInitDone .. => [.regs, .mem, .bad]
  | .ingest .. | .init .. | .stepCommit .. | .audit .. | .retirementWaitMet .. | .genTimeout .. | .t2TransferDone .. | .tierTimeout .. | .updAdmit
    | .roceAckTimeout .. | .roceAck .. => [.jobs, .waits, .hosts, .upd] ++ errorAreas
  | .idleLogReplay => [.waits, .hosts, .upd] ++ errorAreas
  | .updAbort .. | .mbxLockRelease .. | .mbxForce .. | .mbxHb .. | .lidEnWrite .. | .tpmMeasExt .. | .morEnable .. => [.regs]
  | .stepVote .. | .allReduce .. | .reduceScatter .. | .allGather .. | .allToAll .. | .broadcast .. | .barrier .. | .colTimeout ..
    | .contextGranted => [.jobs, .inj, .col] ++ errorAreas
  | .voteUp .. | .voteDown .. | .join .. | .grant .. | .data .. | .abort .. => [.jobs, .inj, .held, .col] ++ errorAreas
  | .gEnginesRefresh .. => [.regs, .col]
  | .assign .. => [.jobs, .counters] ++ errorAreas
  | .release .. | .synPreempt .. | .timerFire .. => [.queues, .jobs, .counters, .waits, .inj] ++ errorAreas
  | .sig .. | .fadd .. => [.queues, .jobs, .counters, .waits, .inj, .held, .poisoned] ++ errorAreas
  | .waitRegistration .. => [.regs, .waits, .inj, .held]
  | .verdict .. => [.queues, .jobs, .waits, .held] ++ errorAreas
  | .mbxPost .. => [.regs, .latch, .sess, .outs]
  | .mbxReceive .. => [.resp, .regs, .latch]
  | .mbxLockAcquire .. => [.resp, .regs]
  | .codeword .. => [.queues, .jobs, .counters, .waits, .slots, .inj, .held, .links, .col] ++ errorAreas
  | .nak .. | .laneLockLoss .. | .noCodeword .. | .retrain .. => [.jobs, .inj, .held, .links, .col] ++ errorAreas
  | .ack .. => [.links]
  | .credit .. => [.regs, .held, .links, .outs]
  | .trainingAttempt .. => [.links] ++ errorAreas
  | .peer .. => [.queues, .jobs, .counters, .waits, .slots, .inj, .links] ++ errorAreas
  | .portEnable .. => [.shadow, .jobs, .inj, .held, .links, .col] ++ errorAreas
  | .route .. => [.inj, .held, .links] ++ errorAreas
  | .wr .. | .acc .. | .rd .. => [.inj, .held, .poisoned] ++ errorAreas
  | .rspAck .. | .rdata .. => [.jobs, .waits, .slots, .inj, .held] ++ errorAreas
  | .poisonListExpiry .. => [.poisoned]
  | .tableWrite .. | .write .. | .por | .resetN .. | .computeReset | .fabricReset | .sxuReset | .cphReset | .moduleReset | .glbFloeReset ..
    | .registerWrite .. | .pwrgd .. => everyArea
  | .roundOpen | .roundDeadline | .send .. | .merge .. | .thawExch .. | .thawApply .. | .joinSite .. | .peerCtlIsolate .. | .peerCtlAbandon ..
    | .thawTimeout .. | .joinTimeout | .delta .. | .done .. | .acnisAck .. | .thawDelta .. | .thawDone .. | .joinGrant .. | .snap ..
    | .snapDone .. | .sxuCipherRequest .. => [.jobs, .waits, .hosts, .upd, .cph, .sxu] ++ errorAreas
  | .segmentTransmit .. | .probe .. | .probePeriodic | .acnisRto .. | .joinReq .. | .joinReqRepeat | .snapSend | .snapDeadline =>
      [.cph, .sxu] ++ errorAreas
  | .probeReply .. => [.sxu] ++ errorAreas
  | .nack .. | .leave .. => [.sxu]
  | .deltaSendStop => [.regs, .sxu]
  | .ppsEdge .. | .ppsMissing | .ptpSync .. | .ptpDelayResp .. | .ptpLock | .ptpLoss => [.time] ++ errorAreas
  | .governorTick .. | .thermCrit .. => [.jobs, .waits, .hosts, .upd, .cph, .sxu, .gov, .rot] ++ errorAreas
  | .staggerEnd | .grantEffective => [.gov]
  | .coolant .. | .grid .. | .grantLost | .boardFrameEnd .. => [.gov] ++ errorAreas
  | .status .. => [.gov, .outs]
  | .coolantTimeout => [.regs, .gov]
  | .gridLossN .. => [.gov, .pins] ++ errorAreas
  | .voltageAlarm | .clockAlarm | .lidAlarm => [.jobs, .waits, .hosts, .upd, .cph, .sxu, .pins, .rot] ++ errorAreas
  | .gcmSeal .. | .gcmOpen .. | .ctr .. | .cmac .. | .stream .. | .ctxSave .. | .ctxRestore .. | .derive .. | .erase .. => [.jobs, .cph] ++ errorAreas
  | .cmdQueueEntryFreed => [.cph] ++ errorAreas
  | .rootLoad .. | .rootClear .. => [.regs, .cph]
  | .openSession .. => [.free, .regs, .sess, .rot, .outs]
  | .certGet .. | .eventAck .. | .eventResend .. | .keepalive .. => [.regs, .sess, .outs]
  | .keyx .. => [.regs, .errFifo, .sess, .rot, .outs]
  | .read .. => [.free, .resp, .regs, .latch, .bad, .sess, .outs]
  | .keyLoad .. => [.regs, .sess, .cph, .outs]
  | .fwWrite .. | .fwActivate .. | .fwCommit .. | .claim .. | .close .. => [.regs, .sess, .rot, .outs]
  | .sessionIdleTimeout .. => [.regs, .sess, .rot]
  | .congestionNotification .. | .rateRestore .. => [.hosts]
  | .ethFrameReceive .. => [.regs, .eth]
  | .neighbourSolicitation .. => [.regs, .outs]
  | .resetComplete .. => [.time, .jobs, .counters, .waits, .resets, .hosts, .upd, .cph, .sxu, .pins, .rot] ++ errorAreas
  | .bootRom => [.rot] ++ errorAreas
  | .startUpStage => [.shadow, .cores, .counters, .rot] ++ errorAreas
  | .blkCommitCommit .. | .blkCommitDiscard .. => [.regs, .shadow, .mem, .bad]
  | .commitApply .. => [.shadow, .jobs, .counters, .waits, .slots, .inj, .hosts, .upd, .col, .cph, .sxu] ++ errorAreas
  | .readClear .. => [.free, .resp, .regs, .latch, .bad]
  | .fruWrite .. | .testAccessPort .. => [.pins]

theorem testBit_areaMask (l : List Area) (n : Nat) : (areaMask l).testBit n = l.any (fun a => a.ctorIdx == n) := by
  induction l with
  | nil => simp [areaMask]
  | cons a l ih =>
    rw [List.any_cons, ← ih]
    simp [areaMask, Nat.testBit_two_pow, beq_eq_decide]

/-- What a command can do: it writes its areas only, and keeps the canonical form, the order code and the queue of commands. -/
theorem exec_touches {s t : State} : ∀ {i : Instr}, exec i s = .next t → Touch (areaMask (areas i)) s t
  | .qTailWrite .., h => execQTailWrite_keeps (.touch _ _) (.refl _ _) h
  | .queueEnable .., h => execQueueEnable_keeps (.touch _ _) (.refl _ _) h
  | .resumeRetry .., h => execResumeRetry_keeps (.touch _ _) (.refl _ _) h
  | .resumeSkip .., h => execResumeSkip_keeps (.touch _ _) (.refl _ _) h
  | .commandAtHead .., h => execCommandAtHead_keeps (.touch _ _) (.refl _ _) h
  | .commandDispatch .., h => execCommandDispatch_keeps (.touch _ _) (.refl _ _) h
  | .waitTimeout .., h => execWaitTimeout_keeps (.touch _ _) (.refl _ _) h
  | .commandComplete .., h => execCommandComplete_keeps (.touch _ _) (.refl _ _) h
  | .commandFail .., h => execCommandFail_keeps (.touch _ _) (.refl _ _) h
  | .partComplete .., h => execPartComplete_keeps (.touch _ _) (.refl _ _) h
  | .partFail .., h => execPartFail_keeps (.touch _ _) (.refl _ _) h
  | .cmd .., h => execCmd_keeps (.touch _ _) (.refl _ _) h
  | .rpt .., h => execRpt_keeps (.touch _ _) (.refl _ _) h
  | .partReportTimer .., h => execPartReportTimer_keeps (.touch _ _) (.refl _ _) h
  | .reportTimeout .., h => execReportTimeout_keeps (.touch _ _) (.refl _ _) h
  | .matmul .., h => execMatmul_keeps (.touch _ _) (.refl _ _) h
  | .pass .., h => execPass_keeps (.touch _ _) (.refl _ _) h
  | .drain .., h => execDrain_keeps (.touch _ _) (.refl _ _) h
  | .drainStreamResume .., h => execDrainStreamResume_keeps (.touch _ _) (.refl _ _) h
  | .rampUpStageEnd .., h => execRampUpStageEnd_keeps (.touch _ _) (.refl _ _) h
  | .holdEnd .., h => execHoldEnd_keeps (.touch _ _) (.refl _ _) h
  | .rampDownStageEnd .., h => execRampDownStageEnd_keeps (.touch _ _) (.refl _ _) h
  | .fenceEngine .., h => execFenceEngine_keeps (.touch _ _) (.refl _ _) h
  | .selftestStart .., h => execSelftestStart_keeps (.touch _ _) (.refl _ _) h
  | .selftestEnd .., h => execSelftestEnd_keeps (.touch _ _) (.refl _ _) h
  | .elemwiseAdd .., h => execElemwiseAdd_keeps (.touch _ _) (.refl _ _) h
  | .elemwiseSub .., h => execElemwiseSub_keeps (.touch _ _) (.refl _ _) h
  | .elemwiseMul .., h => execElemwiseMul_keeps (.touch _ _) (.refl _ _) h
  | .elemwiseDiv .., h => execElemwiseDiv_keeps (.touch _ _) (.refl _ _) h
  | .elemwiseSqrt .., h => execElemwiseSqrt_keeps (.touch _ _) (.refl _ _) h
  | .elemwiseFma .., h => execElemwiseFma_keeps (.touch _ _) (.refl _ _) h
  | .elemwiseMin .., h => execElemwiseMin_keeps (.touch _ _) (.refl _ _) h
  | .elemwiseMax .., h => execElemwiseMax_keeps (.touch _ _) (.refl _ _) h
  | .elemwiseMinnum .., h => execElemwiseMinnum_keeps (.touch _ _) (.refl _ _) h
  | .elemwiseMaxnum .., h => execElemwiseMaxnum_keeps (.touch _ _) (.refl _ _) h
  | .cmpq .., h => execCmpq_keeps (.touch _ _) (.refl _ _) h
  | .cmps .., h => execCmps_keeps (.touch _ _) (.refl _ _) h
  | .cvt .., h => execCvt_keeps (.touch _ _) (.refl _ _) h
  | .cvtToInt .., h => execCvtToInt_keeps (.touch _ _) (.refl _ _) h
  | .cvtFromInt .., h => execCvtFromInt_keeps (.touch _ _) (.refl _ _) h
  | .roundint .., h => execRoundint_keeps (.touch _ _) (.refl _ _) h
  | .augAdd .., h => execAugAdd_keeps (.touch _ _) (.refl _ _) h
  | .augMul .., h => execAugMul_keeps (.touch _ _) (.refl _ _) h
  | .classOf .., h => execClassOf_keeps (.touch _ _) (.refl _ _) h
  | .copysign .., h => execCopysign_keeps (.touch _ _) (.refl _ _) h
  | .neg .., h => execNeg_keeps (.touch _ _) (.refl _ _) h
  | .abs .., h => execAbs_keeps (.touch _ _) (.refl _ _) h
  | .kernel .., h => execKernel_keeps (.touch _ _) (.refl _ _) h
  | .kernelEcall .., h => execKernelEcall_keeps (.touch _ _) (.refl _ _) h
  | .kernelFault .., h => execKernelFault_keeps (.touch _ _) (.refl _ _) h
  | .kernelTimeout .., h => execKernelTimeout_keeps (.touch _ _) (.refl _ _) h
  | .dmaCopyLocal .., h => execDmaCopyLocal_keeps (.touch _ _) (.refl _ _) h
  | .dmaCopyRemoteWrite .., h => execDmaCopyRemoteWrite_keeps (.touch _ _) (.refl _ _) h
  | .dmaCopyRemoteRead .., h => execDmaCopyRemoteRead_keeps (.touch _ _) (.refl _ _) h
  | .dmaCopyHost .., h => execDmaCopyHost_keeps (.touch _ _) (.refl _ _) h
  | .accumWriteLocal .., h => execAccumWriteLocal_keeps (.touch _ _) (.refl _ _) h
  | .accumWriteRemote .., h => execAccumWriteRemote_keeps (.touch _ _) (.refl _ _) h
  | .fenceQueue .., h => execFenceQueue_keeps (.touch _ _) (.refl _ _) h
  | .fenceIcache .., h => execFenceIcache_keeps (.touch _ _) (.refl _ _) h
  | .firnSeal .., h => execFirnSeal_keeps (.touch _ _) (.refl _ _) h
  | .firnRelearn .., h => execFirnRelearn_keeps (.touch _ _) (.refl _ _) h
  | .firnExport .., h => execFirnExport_keeps (.touch _ _) (.refl _ _) h
  | .firnImport .., h => execFirnImport_keeps (.touch _ _) (.refl _ _) h
  | .firnDiscard .., h => execFirnDiscard_keeps (.touch _ _) (.refl _ _) h
  | .firnBlockWrite .., h => execFirnBlockWrite_keeps (.touch _ _) (.refl _ _) h
  | .reEncodeStep .., h => execReEncodeStep_keeps (.touch _ _) (.refl _ _) h
  | .firnInitDone .., h => execFirnInitDone_keeps (.touch _ _) (.refl _ _) h
  | .hbmScrub .., h => execHbmScrub_keeps (.touch _ _) (.refl _ _) h
  | .storeScrub .., h => execStoreScrub_keeps (.touch _ _) (.refl _ _) h
  | .ingest .., h => execIngest_keeps (.touch _ _) (.refl _ _) h
  | .init .., h => execInit_keeps (.touch _ _) (.refl _ _) h
  | .stepCommit .., h => execStepCommit_keeps (.touch _ _) (.refl _ _) h
  | .audit .., h => execAudit_keeps (.touch _ _) (.refl _ _) h
  | .idleLogReplay, h => execIdleLogReplay_keeps (.touch _ _) (.refl _ _) h
  | .retirementWaitMet .., h => execRetirementWaitMet_keeps (.touch _ _) (.refl _ _) h
  | .genTimeout .., h => execGenTimeout_keeps (.touch _ _) (.refl _ _) h
  | .t2TransferDone .., h => execT2TransferDone_keeps (.touch _ _) (.refl _ _) h
  | .tierTimeout .., h => execTierTimeout_keeps (.touch _ _) (.refl _ _) h
  | .updAdmit, h => execUpdAdmit_keeps (.touch _ _) (.refl _ _) h
  | .updAbort .., h => execUpdAbort_keeps (.touch _ _) (.refl _ _) h
  | .stepVote .., h => execStepVote_keeps (.touch _ _) (.refl _ _) h
  | .voteUp .., h => execVoteUp_keeps (.touch _ _) (.refl _ _) h
  | .voteDown .., h => execVoteDown_keeps (.touch _ _) (.refl _ _) h
  | .allReduce .., h => execAllReduce_keeps (.touch _ _) (.refl _ _) h
  | .reduceScatter .., h => execReduceScatter_keeps (.touch _ _) (.refl _ _) h
  | .allGather .., h => execAllGather_keeps (.touch _ _) (.refl _ _) h
  | .allToAll .., h => execAllToAll_keeps (.touch _ _) (.refl _ _) h
  | .broadcast .., h => execBroadcast_keeps (.touch _ _) (.refl _ _) h
  | .barrier .., h => execBarrier_keeps (.touch _ _) (.refl _ _) h
  | .join .., h => execJoin_keeps (.touch _ _) (.refl _ _) h
  | .grant .., h => execGrant_keeps (.touch _ _) (.refl _ _) h
  | .data .., h => execData_keeps (.touch _ _) (.refl _ _) h
  | .abort .., h => execAbort_keeps (.touch _ _) (.refl _ _) h
  | .colTimeout .., h => execColTimeout_keeps (.touch _ _) (.refl _ _) h
  | .contextGranted, h => execContextGranted_keeps (.touch _ _) (.refl _ _) h
  | .gEnginesRefresh .., h => execGEnginesRefresh_keeps (.touch _ _) (.refl _ _) h
  | .wait .., h => execWait_keeps (.touch _ _) (.refl _ _) h
  | .ticket .., h => execTicket_keeps (.touch _ _) (.refl _ _) h
  | .signalAdd .., h => execSignalAdd_keeps (.touch _ _) (.refl _ _) h
  | .fetchAdd .., h => execFetchAdd_keeps (.touch _ _) (.refl _ _) h
  | .assign .., h => execAssign_keeps (.touch _ _) (.refl _ _) h
  | .release .., h => execRelease_keeps (.touch _ _) (.refl _ _) h
  | .sig .., h => execSig_keeps (.touch _ _) (.refl _ _) h
  | .fadd .., h => execFadd_keeps (.touch _ _) (.refl _ _) h
  | .waitRegistration .., h => execWaitRegistration_keeps (.touch _ _) (.refl _ _) h
  | .verdict .., h => execVerdict_keeps (.touch _ _) (.refl _ _) h
  | .counterWaitExpiry .., h => execCounterWaitExpiry_keeps (.touch _ _) (.refl _ _) h
  | .waiterBackstop .., h => execWaiterBackstop_keeps (.touch _ _) (.refl _ _) h
  | .registrationRetry .., h => execRegistrationRetry_keeps (.touch _ _) (.refl _ _) h
  | .synPreempt .., h => execSynPreempt_keeps (.touch _ _) (.refl _ _) h
  | .mbxPost .., h => execMbxPost_keeps (.touch _ _) (.refl _ _) h
  | .mbxReceive .., h => execMbxReceive_keeps (.touch _ _) (.refl _ _) h
  | .mbxLockAcquire .., h => execMbxLockAcquire_keeps (.touch _ _) (.refl _ _) h
  | .mbxLockRelease .., h => execMbxLockRelease_keeps (.touch _ _) (.refl _ _) h
  | .mbxForce .., h => execMbxForce_keeps (.touch _ _) (.refl _ _) h
  | .mbxHb .., h => execMbxHb_keeps (.touch _ _) (.refl _ _) h
  | .codeword .., h => execCodeword_keeps (.touch _ _) (.refl _ _) h
  | .nak .., h => execNak_keeps (.touch _ _) (.refl _ _) h
  | .ack .., h => execAck_keeps (.touch _ _) (.refl _ _) h
  | .credit .., h => execCredit_keeps (.touch _ _) (.refl _ _) h
  | .trainingAttempt .., h => execTrainingAttempt_keeps (.touch _ _) (.refl _ _) h
  | .peer .., h => execPeer_keeps (.touch _ _) (.refl _ _) h
  | .laneLockLoss .., h => execLaneLockLoss_keeps (.touch _ _) (.refl _ _) h
  | .noCodeword .., h => execNoCodeword_keeps (.touch _ _) (.refl _ _) h
  | .portEnable .., h => execPortEnable_keeps (.touch _ _) (.refl _ _) h
  | .retrain .., h => execRetrain_keeps (.touch _ _) (.refl _ _) h
  | .route .., h => execRoute_keeps (.touch _ _) (.refl _ _) h
  | .wr .., h => execWr_keeps (.touch _ _) (.refl _ _) h
  | .acc .., h => execAcc_keeps (.touch _ _) (.refl _ _) h
  | .rd .., h => execRd_keeps (.touch _ _) (.refl _ _) h
  | .rspAck .., h => execRspAck_keeps (.touch _ _) (.refl _ _) h
  | .rdata .., h => execRdata_keeps (.touch _ _) (.refl _ _) h
  | .replyTimeout .., h => execReplyTimeout_keeps (.touch _ _) (.refl _ _) h
  | .poisonListExpiry .., h => execPoisonListExpiry_keeps (.touch _ _) (.refl _ _) h
  | .tfrQuiesce .., h => execTfrQuiesce_keeps (.touch _ _) (.refl _ _) h
  | .tableWrite .., h => execTableWrite_keeps (.touch _ _) (.refl _ _) h
  | .roundOpen, h => execRoundOpen_keeps (.touch _ _) (.refl _ _) h
  | .roundDeadline, h => execRoundDeadline_keeps (.touch _ _) (.refl _ _) h
  | .send .., h => execSend_keeps (.touch _ _) (.refl _ _) h
  | .merge .., h => execMerge_keeps (.touch _ _) (.refl _ _) h
  | .thawExch .., h => execThawExch_keeps (.touch _ _) (.refl _ _) h
  | .thawApply .., h => execThawApply_keeps (.touch _ _) (.refl _ _) h
  | .joinSite .., h => execJoinSite_keeps (.touch _ _) (.refl _ _) h
  | .peerCtlIsolate .., h => execPeerCtlIsolate_keeps (.touch _ _) (.refl _ _) h
  | .peerCtlAbandon .., h => execPeerCtlAbandon_keeps (.touch _ _) (.refl _ _) h
  | .thawTimeout .., h => execThawTimeout_keeps (.touch _ _) (.refl _ _) h
  | .joinTimeout, h => execJoinTimeout_keeps (.touch _ _) (.refl _ _) h
  | .segmentTransmit .., h => execSegmentTransmit_keeps (.touch _ _) (.refl _ _) h
  | .probe .., h => execProbe_keeps (.touch _ _) (.refl _ _) h
  | .probeReply .., h => execProbeReply_keeps (.touch _ _) (.refl _ _) h
  | .probePeriodic, h => execProbePeriodic_keeps (.touch _ _) (.refl _ _) h
  | .delta .., h => execDelta_keeps (.touch _ _) (.refl _ _) h
  | .done .., h => execDone_keeps (.touch _ _) (.refl _ _) h
  | .nack .., h => execNack_keeps (.touch _ _) (.refl _ _) h
  | .acnisAck .., h => execAcnisAck_keeps (.touch _ _) (.refl _ _) h
  | .acnisRto .., h => execAcnisRto_keeps (.touch _ _) (.refl _ _) h
  | .deltaSendStop, h => execDeltaSendStop_keeps (.touch _ _) (.refl _ _) h
  | .thawDelta .., h => execThawDelta_keeps (.touch _ _) (.refl _ _) h
  | .thawDone .., h => execThawDone_keeps (.touch _ _) (.refl _ _) h
  | .joinReq .., h => execJoinReq_keeps (.touch _ _) (.refl _ _) h
  | .joinReqRepeat, h => execJoinReqRepeat_keeps (.touch _ _) (.refl _ _) h
  | .joinGrant .., h => execJoinGrant_keeps (.touch _ _) (.refl _ _) h
  | .snapSend, h => execSnapSend_keeps (.touch _ _) (.refl _ _) h
  | .snap .., h => execSnap_keeps (.touch _ _) (.refl _ _) h
  | .snapDone .., h => execSnapDone_keeps (.touch _ _) (.refl _ _) h
  | .snapDeadline, h => execSnapDeadline_keeps (.touch _ _) (.refl _ _) h
  | .leave .., h => execLeave_keeps (.touch _ _) (.refl _ _) h
  | .ppsEdge .., h => execPpsEdge_keeps (.touch _ _) (.refl _ _) h
  | .ppsMissing, h => execPpsMissing_keeps (.touch _ _) (.refl _ _) h
  | .ptpSync .., h => execPtpSync_keeps (.touch _ _) (.refl _ _) h
  | .ptpDelayResp .., h => execPtpDelayResp_keeps (.touch _ _) (.refl _ _) h
  | .ptpLock, h => execPtpLock_keeps (.touch _ _) (.refl _ _) h
  | .ptpLoss, h => execPtpLoss_keeps (.touch _ _) (.refl _ _) h
  | .holdoverLimit, h => execHoldoverLimit_keeps (.touch _ _) (.refl _ _) h
  | .timerFire .., h => execTimerFire_keeps (.touch _ _) (.refl _ _) h
  | .governorTick .., h => execGovernorTick_keeps (.touch _ _) (.refl _ _) h
  | .staggerEnd, h => execStaggerEnd_keeps (.touch _ _) (.refl _ _) h
  | .thermCrit .., h => execThermCrit_keeps (.touch _ _) (.refl _ _) h
  | .grantEffective, h => execGrantEffective_keeps (.touch _ _) (.refl _ _) h
  | .coolant .., h => execCoolant_keeps (.touch _ _) (.refl _ _) h
  | .grid .., h => execGrid_keeps (.touch _ _) (.refl _ _) h
  | .status .., h => execStatus_keeps (.touch _ _) (.refl _ _) h
  | .grantLost, h => execGrantLost_keeps (.touch _ _) (.refl _ _) h
  | .coolantTimeout, h => execCoolantTimeout_keeps (.touch _ _) (.refl _ _) h
  | .gridLossN .., h => execGridLossN_keeps (.touch _ _) (.refl _ _) h
  | .park, h => execPark_keeps (.touch _ _) (.refl _ _) h
  | .parked, h => execParked_keeps (.touch _ _) (.refl _ _) h
  | .unpark, h => execUnpark_keeps (.touch _ _) (.refl _ _) h
  | .unparkDone, h => execUnparkDone_keeps (.touch _ _) (.refl _ _) h
  | .voltageAlarm, h => execVoltageAlarm_keeps (.touch _ _) (.refl _ _) h
  | .clockAlarm, h => execClockAlarm_keeps (.touch _ _) (.refl _ _) h
  | .lidAlarm, h => execLidAlarm_keeps (.touch _ _) (.refl _ _) h
  | .gcmSeal .., h => execGcmSeal_keeps (.touch _ _) (.refl _ _) h
  | .gcmOpen .., h => execGcmOpen_keeps (.touch _ _) (.refl _ _) h
  | .ctr .., h => execCtr_keeps (.touch _ _) (.refl _ _) h
  | .cmac .., h => execCmac_keeps (.touch _ _) (.refl _ _) h
  | .stream .., h => execStream_keeps (.touch _ _) (.refl _ _) h
  | .ctxSave .., h => execCtxSave_keeps (.touch _ _) (.refl _ _) h
  | .ctxRestore .., h => execCtxRestore_keeps (.touch _ _) (.refl _ _) h
  | .derive .., h => execDerive_keeps (.touch _ _) (.refl _ _) h
  | .erase .., h => execErase_keeps (.touch _ _) (.refl _ _) h
  | .cmdQueueEntryFreed, h => execCmdQueueEntryFreed_keeps (.touch _ _) (.refl _ _) h
  | .sxuCipherRequest .., h => execSxuCipherRequest_keeps (.touch _ _) (.refl _ _) h
  | .rootLoad .., h => execRootLoad_keeps (.touch _ _) (.refl _ _) h
  | .rootClear .., h => execRootClear_keeps (.touch _ _) (.refl _ _) h
  | .lidEnWrite .., h => execLidEnWrite_keeps (.touch _ _) (.refl _ _) h
  | .openSession .., h => execOpenSession_keeps (.touch _ _) (.refl _ _) h
  | .certGet .., h => execCertGet_keeps (.touch _ _) (.refl _ _) h
  | .keyx .., h => execKeyx_keeps (.touch _ _) (.refl _ _) h
  | .read .., h => execRead_keeps (.touch _ _) (.refl _ _) h
  | .write .., h => execWrite_keeps (.touch _ _) (.refl _ _) h
  | .eventAck .., h => execEventAck_keeps (.touch _ _) (.refl _ _) h
  | .eventResend .., h => execEventResend_keeps (.touch _ _) (.refl _ _) h
  | .keyLoad .., h => execKeyLoad_keeps (.touch _ _) (.refl _ _) h
  | .fwWrite .., h => execFwWrite_keeps (.touch _ _) (.refl _ _) h
  | .fwActivate .., h => execFwActivate_keeps (.touch _ _) (.refl _ _) h
  | .fwCommit .., h => execFwCommit_keeps (.touch _ _) (.refl _ _) h
  | .claim .., h => execClaim_keeps (.touch _ _) (.refl _ _) h
  | .close .., h => execClose_keeps (.touch _ _) (.refl _ _) h
  | .keepalive .., h => execKeepalive_keeps (.touch _ _) (.refl _ _) h
  | .sessionIdleTimeout .., h => execSessionIdleTimeout_keeps (.touch _ _) (.refl _ _) h
  | .tpmMeasExt .., h => execTpmMeasExt_keeps (.touch _ _) (.refl _ _) h
  | .roceAckTimeout .., h => execRoceAckTimeout_keeps (.touch _ _) (.refl _ _) h
  | .congestionNotification .., h => execCongestionNotification_keeps (.touch _ _) (.refl _ _) h
  | .rateRestore .., h => execRateRestore_keeps (.touch _ _) (.refl _ _) h
  | .ethFrameReceive .., h => execEthFrameReceive_keeps (.touch _ _) (.refl _ _) h
  | .neighbourSolicitation .., h => execNeighbourSolicitation_keeps (.touch _ _) (.refl _ _) h
  | .por, h => execPor_keeps (.touch _ _) (.refl _ _) h
  | .resetN .., h => execResetN_keeps (.touch _ _) (.refl _ _) h
  | .computeReset, h => execComputeReset_keeps (.touch _ _) (.refl _ _) h
  | .fabricReset, h => execFabricReset_keeps (.touch _ _) (.refl _ _) h
  | .sxuReset, h => execSxuReset_keeps (.touch _ _) (.refl _ _) h
  | .cphReset, h => execCphReset_keeps (.touch _ _) (.refl _ _) h
  | .moduleReset, h => execModuleReset_keeps (.touch _ _) (.refl _ _) h
  | .glbFloeReset .., h => execGlbFloeReset_keeps (.touch _ _) (.refl _ _) h
  | .resetComplete .., h => execResetComplete_keeps (.touch _ _) (.refl _ _) h
  | .bootRom, h => execBootRom_keeps (.touch _ _) (.refl _ _) h
  | .startUpStage, h => execStartUpStage_keeps (.touch _ _) (.refl _ _) h
  | .neighbourCheckTimeout, h => execNeighbourCheckTimeout_keeps (.touch _ _) (.refl _ _) h
  | .boardFrameEnd .., h => execBoardFrameEnd_keeps (.touch _ _) (.refl _ _) h
  | .blkCommitCommit .., h => execBlkCommitCommit_keeps (.touch _ _) (.refl _ _) h
  | .blkCommitDiscard .., h => execBlkCommitDiscard_keeps (.touch _ _) (.refl _ _) h
  | .commitApply .., h => execCommitApply_keeps (.touch _ _) (.refl _ _) h
  | .statClr .., h => execStatClr_keeps (.touch _ _) (.refl _ _) h
  | .evtTest .., h => execEvtTest_keeps (.touch _ _) (.refl _ _) h
  | .morEnable .., h => execMorEnable_keeps (.touch _ _) (.refl _ _) h
  | .readClear .., h => execReadClear_keeps (.touch _ _) (.refl _ _) h
  | .registerWrite .., h => execRegisterWrite_keeps (.touch _ _) (.refl _ _) h
  | .pwrgd .., h => execPwrgd_keeps (.touch _ _) (.refl _ _) h
  | .ethLink .., h => execEthLink_keeps (.touch _ _) (.refl _ _) h
  | .roceAck .., h => execRoceAck_keeps (.touch _ _) (.refl _ _) h
  | .fruWrite .., h => execFruWrite_keeps (.touch _ _) (.refl _ _) h
  | .testAccessPort .., h => execTestAccessPort_keeps (.touch _ _) (.refl _ _) h

/-- Whether the area of a bit of the masks is among those that a command may write. -/
def mayWrite (i : Instr) (n : Nat) : Bool := (areas i).any (fun a => a.ctorIdx == n)

/-- What stands under a command's mask stands unless the command may write its area. -/
theorem stands_unless_written {i : Instr} {n : Nat} {q : Prop} (h : (areaMask (areas i)).testBit n = true ∨ q) : q ∨ mayWrite i n = true := by
  rw [mayWrite, ← testBit_areaMask]
  exact h.symm

theorem stands_of_unwritten {i : Instr} {n : Nat} {q : Prop} (h : (areaMask (areas i)).testBit n = true ∨ q) (hn : mayWrite i n = false) : q :=
  (stands_unless_written h).resolve_right (fun e => Bool.false_ne_true (hn.symm.trans e))

theorem rdByte_congr {s t : State} (h : (t.mem, t.undef, t.stored) = (s.mem, s.undef, s.stored)) (a : Nat) : rdByte t a = rdByte s a := by
  simp only [Prod.mk.injEq] at h
  rw [rdByte_eq, rdByte_eq, h.1, h.2.1]

theorem rget_congr {s t : State} (h : t.regs = s.regs) (off : Nat) : rget t off = rget s off := by
  rw [rget, rget, h]

end Sys2Proof.Machine
end

section
/-! The canonical form kept by every step, and the frames of the units, of memory, of the registers and of the commands in flight. -/

namespace Sys2Proof.Machine

/-- The queue of waiting commands is no part of the canonical form. -/
theorem canonical_setPending (s : State) (q : List Instr) (h : s.canonical = true) : ({ s with pending := q } : State).canonical = true :=
  canon_same rfl h

/-- A step leaves the order code, takes the front command off the queue and keeps the canonical form. -/
theorem step_sound {s t : State} (hc : s.canonical = true) (h : step s = .next t) : State.Sound s.order s.pending.tail t := by
  unfold step at h
  split at h
  case h_1 hq =>
    cases h
    exact idle_keeps (.sound _ _ _) ⟨rfl, by rw [hq]; rfl, hc⟩
  case h_2 c r hq =>
    rw [hq]
    exact Keep.sound _ _ _ _ _ (exec_touches h) ⟨rfl, rfl, canonical_setPending s r hc⟩

/-- Settles O52: a step runs one command or idles, and either keeps all three parts. -/
theorem stepKeepsCanonical : Obligations.step_keeps_canonical := by
  intro s t hc h
  obtain ⟨ho, hq, hk⟩ := step_sound hc h
  exact ⟨hk, ho, hq⟩

/-- Settles O47: each clause names every command that writes an area of the kind of state it speaks of, so that of a command left out the areas hold
none of it. -/
theorem frameOfUnits : Obligations.frame_of_units := by
  intro i s t h
  obtain ⟨-, -, -, hstore, -, hnet, hunits⟩ := exec_touches h
  clear h
  refine ⟨(stands_unless_written hstore.shadow).imp_right ?_, (stands_unless_written hstore.time).imp_right ?_,
    (stands_unless_written hunits.col).imp_right ?_, (stands_unless_written hunits.gov).imp_right ?_,
    (stands_unless_written hunits.pins).imp_right ?_, (stands_unless_written hunits.rot).imp ?rot ?_,
    (stands_unless_written hnet.upd).imp_right ?_, (stands_unless_written hunits.cph).imp ?cph ?_,
    (stands_unless_written hunits.sxu).imp ?sxu ?_, (stands_unless_written hunits.eth).imp_right ?_,
    (stands_unless_written hstore.latch).imp_right ?_, (stands_unless_written hstore.bad).imp ?bad ?_⟩ <;> clear hstore hnet hunits
  case rot | cph | sxu | bad => simp +contextual
  all_goals intro hw; cases i
  -- a command that is not named does not write the area (hw); of a named one nothing is said
  all_goals first | contradiction | trivial

/-- Settles O48: none of the commands named for a kind of state has its area among those it writes. -/
theorem frameOfMemory : Obligations.frame_of_memory := by
  refine ⟨fun i s t h hi => rdByte_congr (stands_of_unwritten (exec_touches h).store.mem ?_),
    fun i s t h hi => rget_congr (stands_of_unwritten (exec_touches h).store.regs ?_),
    fun i s t h hi => stands_of_unwritten (exec_touches h).work.jobs ?_⟩
  all_goals clear h; cases i
  -- of a command that is not named nothing is said (hi); a named one does not write the area
  all_goals first | contradiction | rfl

end Sys2Proof.Machine
end

section
/-! Bit fields of a register word, and what a plain write changes in one. -/

namespace Sys2Proof.Machine

/-! ### Bit fields -/

/-- A bit of a number with a field replaced: the field's from the new value, every other as it was. -/
theorem testBit_nput (x hi lo v b : Nat) (h : lo ≤ hi) :
    (nput x hi lo v).testBit b = if lo ≤ b ∧ b ≤ hi then v.testBit (b - lo) else x.testBit b := by
  obtain ⟨n, hn⟩ : ∃ n, hi + 1 = lo + n := ⟨hi + 1 - lo, by omega⟩
  have hlow : x % 2 ^ lo < 2 ^ lo := Nat.mod_lt _ (Nat.two_pow_pos _)
  have hmid : v % 2 ^ n < 2 ^ n := Nat.mod_lt _ (Nat.two_pow_pos _)
  have hsum : nput x hi lo v = 2 ^ lo * (2 ^ n * (x / 2 ^ (lo + n)) + v % 2 ^ n) + x % 2 ^ lo := by
    rw [nput, hn, Nat.add_sub_cancel_left, Nat.pow_add]
    ring
  rw [hsum, Nat.testBit_two_pow_mul_add _ hlow]
  split
  case isTrue hb => rw [if_neg (by omega), Nat.testBit_mod_two_pow, decide_eq_true hb, Bool.true_and]
  case isFalse hb =>
    rw [Nat.testBit_two_pow_mul_add _ hmid]
    split
    case isTrue hc => rw [if_pos (by omega), Nat.testBit_mod_two_pow, decide_eq_true hc, Bool.true_and]
    case isFalse hc => rw [if_neg (by omega), Nat.testBit_div_two_pow, show b - lo - n + (lo + n) = b by omega]

theorem getLsbD_wput (w : Word) (hi lo v b : Nat) (h : lo ≤ hi) (hw : hi < 32) :
    (wput w hi lo v).getLsbD b = if lo ≤ b ∧ b ≤ hi then v.testBit (b - lo) else w.getLsbD b := by
  rw [wput, BitVec.getLsbD_ofNat, testBit_nput _ _ _ _ _ h, BitVec.testBit_toNat]
  by_cases hb : b < 32
  · simp [hb]
  · rw [if_neg (by omega), BitVec.getLsbD_of_ge w b (by omega), Bool.and_false]

theorem testBit_wbits (w : Word) (hi lo b : Nat) : (wbits w hi lo).testBit b = (decide (b < hi + 1 - lo) && w.getLsbD (lo + b)) := by
  rw [wbits, nbits, Nat.testBit_mod_two_pow, Nat.testBit_div_two_pow, BitVec.testBit_toNat, Nat.add_comm b lo]

/-- Words whose bits in a field agree have the same field. -/
theorem wbits_congr {w v : Word} {hi lo : Nat} (h : ∀ b, lo ≤ b → b ≤ hi → w.getLsbD b = v.getLsbD b) : wbits w hi lo = wbits v hi lo := by
  refine Nat.eq_of_testBit_eq fun b => ?_
  rw [testBit_wbits, testBit_wbits]
  by_cases hb : b < hi + 1 - lo
  · rw [h (lo + b) (by omega) (by omega)]
  · simp [hb]

/-! ### A plain write (R13) -/

/-- Whether software's write changes a field at once. -/
def Fld.WrittenAtOnce (f : Fld) : Prop := f.acc = .rw ∨ f.acc = .wo ∨ f.acc = .w1c

/-- A word with one field written. -/
def writeField (v a : Word) (f : Fld) : Word :=
  match f.acc with
  | .rw => wput a f.hi f.lo (wbits v f.hi f.lo)
  | .wo => wput a f.hi f.lo (wbits v f.hi f.lo)
  | .w1c => wput a f.hi f.lo (wbits (a &&& ~~~ v) f.hi f.lo)
  | _ => a

theorem writeField_of_not_written {v a : Word} {f : Fld} (h : ¬ f.WrittenAtOnce) : writeField v a f = a := by
  unfold writeField
  unfold Fld.WrittenAtOnce at h
  split <;> simp_all

theorem writeField_of_rw {v a : Word} {f : Fld} (h : f.acc = .rw) : writeField v a f = wput a f.hi f.lo (wbits v f.hi f.lo) := by
  rw [writeField, h]

/-- A field written changes no bit outside it. -/
theorem getLsbD_writeField_outside {v a : Word} {f : Fld} {b : Nat} (h : f.WrittenAtOnce → f.hi < 32 ∧ f.lo ≤ f.hi ∧ (b < f.lo ∨ f.hi < b)) :
    (writeField v a f).getLsbD b = a.getLsbD b := by
  by_cases hf : f.WrittenAtOnce
  · obtain ⟨hhi, hlo, hb⟩ := h hf
    have hput : ∀ x, (wput a f.hi f.lo x).getLsbD b = a.getLsbD b := fun x => by rw [getLsbD_wput _ _ _ _ _ hlo hhi, if_neg (by omega)]
    rcases hf with hf | hf | hf <;> rw [writeField, hf] <;> exact hput _
  · rw [writeField_of_not_written hf]

theorem getLsbD_writeFields_outside {v : Word} {b : Nat} {fs : List Fld} (a : Word)
    (h : ∀ f ∈ fs, f.WrittenAtOnce → f.hi < 32 ∧ f.lo ≤ f.hi ∧ (b < f.lo ∨ f.hi < b)) : (fs.foldl (writeField v) a).getLsbD b = a.getLsbD b := by
  induction fs generalizing a with
  | nil => rfl
  | cons f fs ih =>
    rw [List.foldl_cons, ih _ fun g hg => h g (List.mem_cons_of_mem _ hg)]
    exact getLsbD_writeField_outside (h f List.mem_cons_self)

/-- An RW field that meets no other holds what was written, whatever else is written with it. -/
theorem wbits_writeFields_rw {v : Word} {fs : List Fld} {f : Fld} (a : Word) (hf : f ∈ fs) (hrw : f.acc = .rw) (hlo : f.lo ≤ f.hi) (hhi : f.hi < 32)
    (hnd : fs.Nodup) (hapart : ∀ g ∈ fs, g ≠ f → g.lo ≤ g.hi ∧ g.hi < 32 ∧ (g.hi < f.lo ∨ f.hi < g.lo)) :
    wbits (fs.foldl (writeField v) a) f.hi f.lo = wbits v f.hi f.lo := by
  obtain ⟨before, after, rfl⟩ := List.append_of_mem hf
  refine wbits_congr fun b hb1 hb2 => ?_
  have hafter : f ∉ after := (List.nodup_cons.1 (List.nodup_append.1 hnd).2.1).1
  rw [List.foldl_append, List.foldl_cons, getLsbD_writeFields_outside, writeField_of_rw hrw, getLsbD_wput _ _ _ _ _ hlo hhi, if_pos ⟨hb1, hb2⟩,
    testBit_wbits, decide_eq_true (by omega), Bool.true_and, Nat.add_sub_cancel' hb1]
  intro g hg _
  obtain ⟨h1, h2, h3⟩ := hapart g (by simp [hg]) fun e => hafter (e ▸ hg)
  exact ⟨h2, h1, by omega⟩

theorem rget_rput_same (s : State) (off : Nat) (v : Word) : rget (rput s off v) off = v := smGet_smSet_same _ _ _ _
theorem rget_rput_other (s : State) {off a : Nat} (v : Word) (h : a ≠ off) : rget (rput s off v) a = rget s a := smGet_smSet_other _ _ _ _ _ h
theorem rget_shPut (s : State) (off a : Nat) (v : Word) : rget (shPut s off v) a = rget s a := rfl

/-- The fields that a plain write changes at once. -/
def writeNow (s : State) (off : Nat) (v : Word) : State :=
  if (fieldsAt off).any (fun f => f.acc = .rw || f.acc = .wo || f.acc = .w1c) then rput s off ((fieldsAt off).foldl (writeField v) (rget s off)) else s

/-- A plain write: the fields it changes at once, then the shadow, which a pending commit holds. -/
theorem plainWrite_eq (s : State) (off : Nat) (v : Word) : plainWrite s off v =
    if rwsFields off = [] then writeNow s off v
    else if commitPending (writeNow s off v) (offWin off) then rputBit (writeNow s off v) (commitStat (offWin off)) 4 true
    else shPut (writeNow s off v) off (rwsMerge off (shGet (writeNow s off v) off) v) := rfl

theorem rget_writeNow_same (s : State) (off : Nat) (v : Word) : rget (writeNow s off v) off = (fieldsAt off).foldl (writeField v) (rget s off) := by
  unfold writeNow
  split
  case isTrue => exact rget_rput_same _ _ _
  case isFalse h =>
    simp only [List.any_eq_true, Bool.or_eq_true, decide_eq_true_eq, not_exists, not_and, or_assoc] at h
    exact (foldl_same _ fun f hf => writeField_of_not_written (h f hf)).symm

theorem rget_writeNow_other (s : State) {off a : Nat} (v : Word) (h : a ≠ off) : rget (writeNow s off v) a = rget s a := by
  unfold writeNow
  split
  · exact rget_rput_other _ _ h
  · rfl

/-- BLK_COMMIT_STAT (R586) has no shadowed field. -/
theorem rwsFields_commitStat (w : Nat) : rwsFields (commitStat w) = [] := by
  have hin : offIn (commitStat w) = 0x1C := by simp only [commitStat, wreg, offIn, hBLK_COMMIT_STAT]; omega
  have hhead : regsHead.find? (fun d => d.covers 0x1C) =
      some ⟨0x1C, 0, 1, [⟨31, 18, .ro, 0⟩, ⟨15, 8, .ro, 0⟩, ⟨5, 5, .ro, 0⟩, ⟨4, 4, .ro, 0⟩, ⟨3, 0, .ro, 0⟩]⟩ := by decide
  unfold rwsFields fieldsAt
  split
  · rfl
  · simp only [hin, List.find?_append, hhead]
    split <;> rfl

/-- What a register holds after a plain write, no commit of its block pending. -/
theorem rget_plainWrite {s : State} {off : Nat} (v : Word) (hc : commitPending s (offWin off) = false) :
    rget (plainWrite s off v) off = (fieldsAt off).foldl (writeField v) (rget s off) := by
  rw [plainWrite_eq, ← rget_writeNow_same]
  split
  case isTrue => rfl
  case isFalse hrws =>
    have hoff : commitStat (offWin off) ≠ off := fun e => hrws (e ▸ rwsFields_commitStat _)
    have hstill : commitPending (writeNow s off v) (offWin off) = false := by
      rw [← hc]
      exact congrArg (fun x => wbits x 3 0 == 1) (rget_writeNow_other s v hoff)
    rw [hstill]
    exact rget_shPut _ _ _ _

/-- Settles O44: a plain write is a fold of its fields over the word, and no field but its own reaches a bit. -/
theorem registerWriteFields : Obligations.register_write_fields := by
  refine ⟨fun s off b v hc _ h => ?_, fun s off v f hc hf hrw hlo hhi hnd hapart => ?_⟩
  · rw [rget_plainWrite v hc]
    exact getLsbD_writeFields_outside _ h
  · rw [rget_plainWrite v hc]
    exact wbits_writeFields_rw _ hf hrw hlo hhi hnd hapart

end Sys2Proof.Machine
end

section
/-! An agent's reads and writes of registers, case by case (R4, R13, R333, R573, R575–R577, R585). -/

namespace Sys2Proof.Machine

variable {s : State} {o off lo : Nat} {v : Word}

/-! ### Windows that do not answer -/

theorem not_winHeld_of_absent {w : Nat} (h : winPresent s.order w = false) : winHeld s w = false := by rw [winHeld, h, Bool.false_and]
theorem not_winOpen_of_absent {w : Nat} (h : winPresent s.order w = false) : winOpen s w = false := by rw [winOpen, h, Bool.false_and]

/-! ### Reads -/

theorem effRead_of_held (h : winHeld s (offWin off) = true ∨ hartHeld s o = true) : effRead s o off = s :=
  if_pos (by simpa using h)

theorem effRead_of_absent (hh : hartHeld s o = false) (hp : winPresent s.order (offWin off) = false) : effRead s o off = { s with resp := [0] } := by
  simp [effRead, hh, hp, not_winHeld_of_absent hp]

theorem effRead_single (hh : hartHeld s o = false) (ho : winOpen s (offWin off) = true) (hm : isMbxPage off = false) (hp : pairOf off = none) :
    effRead s o off = clearRc { s with resp := [w32 (viewReg s off)] } off := by
  obtain ⟨hheld, hpres⟩ := held_of_open ho
  simp [effRead, hh, hheld, hpres, hm, hp]

theorem effRead_low (hh : hartHeld s o = false) (ho : winOpen s (offWin lo) = true) (hm : isMbxPage lo = false) (hp : pairOf lo = some lo)
    {u : State} (hu : u = otherLatches s o lo) :
    effRead s o lo = { u with resp := [w32 (viewReg u lo)], rdLatch := latchSet u.rdLatch o (offWin lo) (offIn lo) (w32 (viewReg u (lo + 4))) } := by
  obtain ⟨hheld, hpres⟩ := held_of_open ho
  simp [effRead, hh, hheld, hpres, hm, hp, hu]

theorem effRead_high (hh : hartHeld s o = false) (ho : winOpen s (offWin off) = true) (hm : isMbxPage off = false) (hp : pairOf off = some lo) (hne : off ≠ lo)
    {u : State} (hu : u = otherLatches s o lo) :
    effRead s o off = { u with resp := [(latchOf u.rdLatch o (offWin lo) (offIn lo)).getD (w32 (viewReg u off))], rdLatch := latchDrop u.rdLatch o (offWin lo) } := by
  obtain ⟨hheld, hpres⟩ := held_of_open ho
  simp [effRead, hh, hheld, hpres, hm, hp, hne, hu]

/-! ### Writes -/

theorem effWrite_of_shut (h : winOpen s (offWin off) = false ∨ hartHeld s o = true) : effWrite s o off v = s :=
  if_pos (by simpa using h)

theorem effWrite_single (hh : hartHeld s o = false) (ho : winOpen s (offWin off) = true) (hp : pairOf off = none) :
    effWrite s o off v = writeAll s o off [(off, v)] := by
  simp [effWrite, hh, ho, hp]

theorem effWrite_low (hh : hartHeld s o = false) (ho : winOpen s (offWin lo) = true) (hp : pairOf lo = some lo) (hw : pairWritable lo = true)
    {u : State} (hu : u = otherLatches s o lo) :
    effWrite s o lo v = { u with wrLatch := latchSet u.wrLatch o (offWin lo) (offIn lo) v } := by
  simp [effWrite, hh, ho, hp, hw, hu]

/-- The high half of a pair whose low half waits: both are written as one. -/
theorem effWrite_high {l : Word} (hh : hartHeld s o = false) (ho : winOpen s (offWin off) = true) (hp : pairOf off = some lo) (hne : off ≠ lo)
    (hw : pairWritable lo = true) (hm : isMbxPage off = false) {u : State} (hu : u = otherLatches s o lo)
    (hl : latchOf u.wrLatch o (offWin lo) (offIn lo) = some l) :
    effWrite s o off v = writeAll { u with wrLatch := latchDrop u.wrLatch o (offWin lo) } o off [(lo, l), (off, v)] := by
  subst hu
  simp [effWrite, hh, ho, hp, hne, hw, hm, hl]

theorem writeAll_accepted {l : List (Nat × Word)} (h : refusedWrite s o off = none) : writeAll s o off l = l.foldl (fun s p => writeWord s o p.1 p.2) s := by
  rw [writeAll, h]

theorem writeAll_refused {l : List (Nat × Word)} {t : State} (h : refusedWrite s o off = some t) : writeAll s o off l = t := by
  rw [writeAll, h]

theorem exec_registerWrite (h1 : off % 4 = 0) (h2 : off < 2 ^ 24) : exec (.registerWrite o off v) s = .next (effWrite s o off v) :=
  congrArg Host.Outcome.next (if_pos ⟨h1, h2⟩)

theorem exec_tableWrite {e : Nat} (h1 : off % 4 = 0) (h2 : tableSet off = some e) : exec (.tableWrite o off v) s = .next (effWrite s o off v) :=
  congrArg Host.Outcome.next (if_pos ⟨h1, by rw [h2]; rfl⟩)

/-- A write command whose access leaves the state leaves it, whether its offset is one it takes or not. -/
theorem exec_writes_of_unchanged (h : effWrite s o off v = s) : exec (.registerWrite o off v) s = .next s ∧ exec (.tableWrite o off v) s = .next s := by
  refine ⟨congrArg Host.Outcome.next ?_, congrArg Host.Outcome.next ?_⟩ <;> rw [h, ite_self]

/-- R333: a route table's write is taken only while its set may change. -/
theorem refusedWrite_table {e : Nat} (hw : offWin off = winTfr) (he : tableSet off = some e) :
    refusedWrite s o off = if setWritable s e then none else some (rinc s rTFR_TBL_REJ 1) := by
  have hpage : 0x1000 ≤ offIn off := by
    simp only [tableSet, hw, ne_eq, not_true_eq_false, if_false] at he
    split_ifs at he <;> omega
  simp only [refusedWrite, hw, hpage, he, true_and, if_true]

end Sys2Proof.Machine
end

section
/-! What registers read as, what a write of one does, and the windows of absent units. -/

namespace Sys2Proof.Machine

/-- Settles O41: one case of a read for each clause. -/
theorem registerReads : Obligations.register_reads :=
  ⟨fun _ _ _ hh ho hm hp => congrArg Host.Outcome.next (effRead_single hh ho hm hp),
   fun _ _ _ hh ho hm hp _ hu => congrArg Host.Outcome.next (effRead_low hh ho hm hp hu),
   fun _ _ _ _ hh ho hm hp hne _ hu => congrArg Host.Outcome.next (effRead_high hh ho hm hp hne hu),
   fun _ _ _ hh _ hp => congrArg Host.Outcome.next (effRead_of_absent hh hp),
   fun _ _ _ hw => congrArg Host.Outcome.next (effRead_of_held (.inl hw)),
   fun _ _ _ _ hh => ⟨congrArg Host.Outcome.next (effRead_of_held (.inr hh)), exec_writes_of_unchanged (effWrite_of_shut (.inr hh))⟩⟩

/-- Settles O42: one case of a write for each clause but the last, which is MOR_CTRL's own effect (R559). -/
theorem registerWrites : Obligations.register_writes := by
  refine ⟨fun o off v s hh h1 h2 ho hp hr => ?_, fun o off v s t hh h1 h2 ho hp hr => ?_, fun o lo v s hh h1 h2 ho hp hw u hu => ?_,
    fun o lo off v l s hh h1 h2 ho hp hne hw hm u hu hl w hw' hr => ?_, fun o off e v s hh h1 he ho hp _ hr => ?_,
    fun o off e s hw he => refusedWrite_table hw he, fun o off e v s hh h1 he ho hp hr => ?_, fun o off lo e v s hh h1 he ho hp heq hw u hu => ?_,
    fun v s u hu => ?_⟩
  · rw [exec_registerWrite h1 h2, effWrite_single hh ho hp, writeAll_accepted hr, List.foldl_cons, List.foldl_nil]
  · rw [exec_registerWrite h1 h2, effWrite_single hh ho hp, writeAll_refused hr]
  · rw [exec_registerWrite h1 h2, effWrite_low hh ho hp hw hu]
  · subst hw'
    rw [exec_registerWrite h1 h2, effWrite_high hh ho hp hne hw hm hu hl, writeAll_accepted hr, List.foldl_cons, List.foldl_cons, List.foldl_nil]
  · rw [exec_tableWrite h1 he, effWrite_single hh ho hp, writeAll_accepted hr, List.foldl_cons, List.foldl_nil]
  · rw [exec_tableWrite h1 he, effWrite_single hh ho hp, writeAll_refused hr]
  · subst heq
    rw [exec_tableWrite h1 he, effWrite_low hh ho hp hw hu]
  · subst hu
    refine congrArg Host.Outcome.next ?_
    simp only [effMorEnable, Bool.and_eq_true, Bool.not_eq_true']

/-- Settles O56: an absent window answers a read with 0, and is not open to a write. -/
theorem absentWindows : Obligations.absent_windows := by
  refine ⟨by decide, fun w hw o => by rw [winPresent, hw], fun o off s hh hp => ?_, fun o off v s hp => ?_⟩
  · have hread := effRead_of_absent hh hp
    exact ⟨congrArg Host.Outcome.next hread, by simp only [readAll, hread, List.append_nil]⟩
  · exact exec_writes_of_unchanged (effWrite_of_shut (.inl (not_winOpen_of_absent hp)))

end Sys2Proof.Machine
end

section
/-! How a command is dispatched, how it and its parts end: one equation for each outcome (R29, R31, R173–R175, R187). -/

namespace Sys2Proof.Machine

variable {s : State} {q n src ctag e p : Nat} {r : JobRef} {h : Head} {j : Job} {x : Part}

/-! ### Dispatch (R174, R187) -/

/-- Whether nothing in the queue, the module, COL or memory keeps the queue from taking its head, index n (R174, R210, R394, R474). -/
structure HeadFree (s : State) (q n : Nat) (h : Head) : Prop where
  index : (getQ s q).head.toNat = n
  active : (getQ s q).st = .active
  noStop : (getQ s q).stopErr = 0
  noFailure : (getQ s q).failedAt = none
  depth : mayDispatch s q h.desc = true
  runs : moduleRuns s = true
  col : colHolds s h.desc h.args = false
  record : progWaits s (.queue q n) = false
  reads : anyBusy s (descReads s h.desc h.args) = false

/-- A head that is free, whose waits are met, whose floe is not fenced and whose operands read well becomes a job of the queue, which moves on. -/
theorem effDispatchQueue_dispatched {g : Option (Nat × Nat)} {t : Nat × State} {v : Job × State} (hh : (getQ s q).headCmd = some h)
    (hfree : HeadFree s q n h) (hwait : waitsHere s h.desc = true → waitsMet h.w0 h.w1 = true ∧ timePassed s h.desc = true)
    (hfence : queueFenced s q = false ∧ fencedOut s h.desc h.args = false) (hbad : descBad s h.desc h.args = none)
    (hgen : (if waitsHere s h.desc then genResolve s h.desc h.args else .ok none) = .ok g)
    (ht : t = newTag (noteDescs s (.core (qHart q)) h.desc h.args))
    (hv : v = takeVote t.2 (makeJob t.2 (.queue q n) h.desc h.args h.arrived t.1 g)) :
    effDispatchQueue s q n = cphArrive (startParts (progressOf (putQ { v.2 with jobs := v.2.jobs ++ [v.1] } q
      { getQ s q with head := (getQ s q).head + 1, headCmd := none }) v.1 prRUNNING 0) v.1.ref) v.1.ref := by
  have hwaits : (waitsHere s h.desc && (!waitsMet h.w0 h.w1 || !timePassed s h.desc)) = false := by
    cases hhere : waitsHere s h.desc
    case false => rfl
    case true =>
      obtain ⟨hmet, htime⟩ := hwait hhere
      rw [hmet, htime]
      rfl
  subst ht hv
  simp [effDispatchQueue, hh, hfree.index, hfree.active, hfree.noStop, hfree.noFailure, hfree.depth, hfree.runs, hfree.col, hfree.record, hfree.reads,
    hwaits, hfence.1, hfence.2, hbad, hgen]

/-! ### A failed wait (R173) -/

theorem effWaitTimeout_queue (hh : (getQ s q).headCmd = some h) (hn : (getQ s q).head.toNat = n) (he : waitErr h.w0 h.w1 ≠ 0) :
    effWaitTimeout s (.queue q n) = failCommand s q (w32 n) (waitErr h.w0 h.w1) := by
  simp only [effWaitTimeout, hh]
  exact if_pos ⟨hn, he⟩

theorem effWaitTimeout_remote (hj : getJob s (.remote src ctag) = some j) (hst : j.st = .held) (he : waitErr j.w0 j.w1 ≠ 0) :
    effWaitTimeout s (.remote src ctag) = putJob (withdraw s (fun w => match w with | .job a b _ => a == src && b == ctag | _ => false))
      { j with st := .failed (waitErr j.w0 j.w1) } := by
  simp only [effWaitTimeout, hj]
  exact if_pos ⟨hst, he⟩

/-! ### The end of a command (R29, R174, R175, R252, R294) -/

/-- The state when a command of its queue is about to be counted and recorded: its reader count released, its COMMIT record journalled where it has one, its signals sent. -/
def signalled (s : State) (q n : Nat) (j : Job) : State :=
  sendDescSignal (sendDescSignal (dropJob (journalCommit (releaseReader s j) j (some q)) j.ref) j q (w32 n) 0) j q (w32 n) 1

/-- The oldest command of its queue, its work done and its signals free to go, completes. -/
theorem effCompleteQueue_completed {v u : State} (hj : getJob s (.queue q n) = some j) (hst : j.st = .worked) (hn : (getQ s q).done.toNat = n)
    (hsig : canSignal s j = true) (hwait : progWaits s j.ref = false) (hbad : progBad s q n = none) (hv : v = signalled s q n j)
    (hu : u = writeProgress (raiseHere v (getQ s q).compCtr 1 (orderedSignal v j (myId v))) q n prCOMPLETE 0 (doneUnits j) (doneUnits j)) :
    effCompleteQueue s q n = settleQueue (putQ u q { getQ u q with done := (getQ u q).done + 1 }) q := by
  have hopen : ¬ (j.st ≠ .worked ∨ (getQ s q).done.toNat ≠ n ∨ (!canSignal s j) = true ∨ progWaits s j.ref = true) := by
    simp [hst, hn, hsig, hwait]
  subst hv hu
  simp only [effCompleteQueue, hj, if_neg hopen, hbad]
  rfl

/-- A served command whose report can go out leaves with it. -/
theorem effCompleteServed_completed {t : State} (hj : getJob s (.remote src ctag) = some j) (hst : j.st = .worked)
    (hgo : src = myId s ∨ canRequest s = true) (ht : t = journalCommit (releaseReader s j) j none) :
    effCompleteServed s src ctag = reportBack (dropJob t j.ref) src ctag 0 (doneUnits j) (doneUnits j) true j.flags (writesOn t j) := by
  have hopen : ¬ (j.st ≠ .worked ∨ src ≠ myId s ∧ (!canRequest s) = true) := by
    rcases hgo with hgo | hgo <;> simp [hst, hgo]
  subst ht
  simp only [effCompleteServed, hj, if_neg hopen]

/-- The first failure of a queue fails it. -/
theorem effFailQueue_first (hj : getJob s (.queue q n) = some j) (hst : j.st = .failed e) (hf : (getQ s q).failedAt = none) :
    effFailQueue s q n = failCommand s q (w32 n) e := by
  simp only [effFailQueue, hj, hst, hf]

theorem effFailServed_failed (hj : getJob s (.remote src ctag) = some j) (hst : j.st = .failed e) (hgo : src = myId s ∨ canRequest s = true) :
    effFailServed s src ctag = reportBack (dropJob s j.ref) src ctag e (jobRetired j) (jobCommitted j) true j.flags [] := by
  simp only [effFailServed, hj, hst]
  exact if_pos hgo

/-! ### The end of a part (R29, R31) -/

theorem effPartComplete_worked (hj : getJob s r = some j) (hx : getPart j p = some x) (hst : x.st = .worked) :
    effPartComplete s r p = closeJob (putJob s (setPart j p { x with st := .done })) r := by
  simp only [effPartComplete, hj, hx]
  exact if_pos hst

/-- R31: with the first part that fails, the parts not yet sent fail too. -/
theorem effPartFail_first {k : Job} (hj : getJob s r = some j) (hx : getPart j p = some x) (hst : x.st = .faulted e) (hfirst : j.firstErr = 0)
    (hk : k = setPart j p { x with st := .failed e }) :
    effPartFail s r p = closeJob (putJob s
      { k with firstErr := e, parts := k.parts.map (fun y => if y.away && y.cursor == 0 then { y with st := .failed e } else y) }) r := by
  have herr : (setPart j p { x with st := .failed e }).firstErr = 0 := hfirst
  subst hk
  simp only [effPartFail, hj, hx, hst, herr, if_true]

end Sys2Proof.Machine
end

section
/-! Dispatch and end of commands and of their parts. -/

namespace Sys2Proof.Machine

/-- Settles O3: one outcome of dispatch, of a failed wait, and of the end of a command or part for each clause. -/
theorem commandPartsAndEnd : Obligations.command_parts_and_end := by
  refine ⟨fun q n s h g hh hn hact hstop hfail hmay hruns hcol hprog hbusy hqf hff hwait hbad hgen t ht v hv j hj => ?_,
    fun q n s h hh hn he => congrArg Host.Outcome.next (effWaitTimeout_queue hh hn he),
    fun src ctag s j hj hst he => congrArg Host.Outcome.next (effWaitTimeout_remote hj hst he),
    fun q n s j hj hst hn hsig hwait hbad v hv u hu => congrArg Host.Outcome.next (effCompleteQueue_completed hj hst hn hsig hwait hbad hv hu),
    fun src ctag s j hj hst hgo t ht => congrArg Host.Outcome.next (effCompleteServed_completed hj hst hgo ht),
    fun q n e s j hj hst hf => congrArg Host.Outcome.next (effFailQueue_first hj hst hf),
    fun src ctag e s j hj hst hgo => congrArg Host.Outcome.next (effFailServed_failed hj hst hgo),
    fun r p s j x hj hx hst => congrArg Host.Outcome.next (effPartComplete_worked hj hx hst),
    fun r p e s j x hj hx hst hfirst k hk => congrArg Host.Outcome.next (effPartFail_first hj hx hst hfirst hk)⟩
  subst hj
  exact congrArg Host.Outcome.next
    (effDispatchQueue_dispatched hh ⟨hn, hact, hstop, hfail, hmay, hruns, hcol, hprog, hbusy⟩ hwait ⟨hqf, hff⟩ hbad hgen ht hv)

end Sys2Proof.Machine
end

section
/-! Rounding on the grids of the number formats: comparisons of m · 2^e, the nearest code, ties to even, and the codes of a grid (R62, R66, R67). -/

namespace Sys2Proof.Machine

/-! ### Values m · 2^e -/

/-- A value in units of a smaller power of two, of which it is a whole number. -/
theorem mul_two_zpow_of_le {q e : Int} (m : Nat) (h : q ≤ e) : (m : ℚ) * 2 ^ e = ((m * 2 ^ (e - q).toNat : Nat) : ℚ) * 2 ^ q := by
  have he : e = ((e - q).toNat : Int) + q := by omega
  conv_lhs => rw [he]
  push_cast
  rw [zpow_add₀ two_ne_zero, zpow_natCast, mul_assoc]

theorem dyLt_iff (m : Nat) (e : Int) (n : Nat) (f : Int) : dyLt m e n f = true ↔ (m : ℚ) * 2 ^ e < n * 2 ^ f := by
  rw [mul_two_zpow_of_le m (min_le_left e f), mul_two_zpow_of_le n (min_le_right e f), mul_lt_mul_iff_left₀ (by positivity), Nat.cast_lt]
  exact decide_eq_true_iff

theorem dyLe_iff (m : Nat) (e : Int) (n : Nat) (f : Int) : dyLe m e n f = true ↔ (m : ℚ) * 2 ^ e ≤ n * 2 ^ f := by
  rw [dyLe, Bool.not_eq_true', ← Bool.not_eq_true, dyLt_iff, not_lt]

/-! ### The nearest code, ties to even -/

/-- Of the values that V gives to codes none is nearer to x than that of c, and one as near is that of c itself unless c is even. -/
def NearestEven (V : Nat → ℚ) (x : ℚ) (c : Nat) : Prop :=
  ∀ d, |x - V c| ≤ |x - V d| ∧ (|x - V c| = |x - V d| → c = d ∨ c % 2 = 0)

/-- Whether x, between the values of code k and the next, goes to the next: that is the nearer one, or as near and k is odd. -/
def RoundsUp (V : Nat → ℚ) (x : ℚ) (k : Nat) : Prop :=
  V (k + 1) - x < x - V k ∨ V (k + 1) - x = x - V k ∧ k % 2 = 1

section
variable {V : Nat → ℚ} {x : ℚ} {b c k : Nat}

theorem nearestEven_of_roundsUp (hV : StrictMono V) (hlo : V k ≤ x) (hhi : x < V (k + 1)) (hup : RoundsUp V x k) : NearestEven V x (k + 1) := by
  intro d
  rw [abs_of_neg (sub_neg.mpr hhi)]
  rcases Nat.lt_or_ge k d with hd | hd
  · have hmono : V (k + 1) ≤ V d := hV.monotone hd
    rw [abs_of_neg (by linarith)]
    exact ⟨by linarith, fun heq => .inl (hV.injective (by linarith))⟩
  · have hmono : V d ≤ V k := hV.monotone hd
    rw [abs_of_nonneg (by linarith)]
    rcases hup with hlt | ⟨heq, hodd⟩
    · exact ⟨by linarith, fun h => absurd h (by linarith)⟩
    · exact ⟨by linarith, fun _ => .inr (by omega)⟩

theorem nearestEven_of_not_roundsUp (hV : StrictMono V) (hlo : V k ≤ x) (hhi : x < V (k + 1)) (hup : ¬ RoundsUp V x k) : NearestEven V x k := by
  obtain ⟨hle, htie⟩ := not_or.mp hup
  rw [not_lt] at hle
  intro d
  rw [abs_of_nonneg (sub_nonneg.mpr hlo)]
  rcases Nat.lt_or_ge k d with hd | hd
  · have hmono : V (k + 1) ≤ V d := hV.monotone hd
    rw [abs_of_neg (by linarith)]
    refine ⟨by linarith, fun heq => .inr ?_⟩
    have heven : ¬ k % 2 = 1 := fun hodd => htie ⟨by linarith, hodd⟩
    omega
  · have hmono : V d ≤ V k := hV.monotone hd
    rw [abs_of_nonneg (by linarith)]
    exact ⟨by linarith, fun heq => .inl (hV.injective (by linarith))⟩

theorem NearestEven.le_of_le (h : NearestEven V x c) (hV : StrictMono V) (hx : x ≤ V b) : c ≤ b := by
  by_contra hbc
  have hlt : V b < V c := hV (by omega)
  have hnear := (h b).1
  rw [abs_of_nonpos (by linarith), abs_of_nonpos (by linarith)] at hnear
  linarith

/-- Where the codes end at b, the nearest of them is the nearest code of all, or b. -/
theorem NearestEven.clamp (h : NearestEven V x c) (hV : StrictMono V) {d : Nat} (hd : d ≤ b) :
    |x - V (min b c)| ≤ |x - V d| ∧ (|x - V (min b c)| = |x - V d| → min b c = d ∨ min b c % 2 = 0) := by
  rcases le_or_gt c b with hcb | hbc
  · rw [min_eq_right hcb]
    exact h d
  · have hx : V b ≤ x := le_of_not_gt fun hlt => absurd (h.le_of_le hV hlt.le) (by omega)
    have hdb : V d ≤ V b := hV.monotone hd
    rw [min_eq_left hbc.le, abs_of_nonneg (by linarith), abs_of_nonneg (by linarith)]
    exact ⟨by linarith, fun heq => .inl (hV.injective (by linarith))⟩

end

/-! ### Rounding to whole numbers of 2^q -/

/-- The k-th whole multiple of 2^q. -/
def multiples (q : Int) (k : Nat) : ℚ := k * 2 ^ q

theorem multiples_strictMono (q : Int) : StrictMono (multiples q) := fun _ _ h =>
  mul_lt_mul_of_pos_right (Nat.cast_lt.mpr h) (by positivity)

theorem multiples_two_pow (q : Int) (n : Nat) : multiples q (2 ^ n) = 2 ^ (q + n) := by
  rw [multiples, zpow_add₀ two_ne_zero, zpow_natCast, mul_comm, Nat.cast_pow, Nat.cast_ofNat]

/-- A magnitude lies in the binade of its leading bit. -/
theorem mem_binade_of_log2 {m : Nat} (hm : m ≠ 0) (e : Int) :
    (2 : ℚ) ^ (e + Nat.log2 m) ≤ m * 2 ^ e ∧ (m : ℚ) * 2 ^ e < 2 ^ (e + Nat.log2 m + 1) := by
  have hpos : (0 : ℚ) < 2 ^ e := by positivity
  have hlt : m < 2 ^ (Nat.log2 m + 1) := Nat.lt_log2_self
  rw [add_assoc, ← Nat.cast_add_one, ← multiples_two_pow, ← multiples_two_pow]
  exact ⟨mul_le_mul_of_nonneg_right (Nat.cast_le.mpr (Nat.log2_self_le hm)) hpos.le, mul_lt_mul_of_pos_right (Nat.cast_lt.mpr hlt) hpos⟩

/-- The distances of m · 2^e to the whole numbers of a larger 2^q below and above it. -/
theorem distances_to_multiples (m : Nat) (e : Int) (i : Nat) :
    m * 2 ^ e - multiples (e + (i + 1 : Nat)) (m / 2 ^ (i + 1)) = (m % 2 ^ (i + 1) : Nat) * 2 ^ e ∧
      multiples (e + (i + 1 : Nat)) (m / 2 ^ (i + 1) + 1) - m * 2 ^ e = (2 ^ (i + 1) - (m % 2 ^ (i + 1) : Nat)) * 2 ^ e := by
  have hm : (m : ℚ) = 2 ^ (i + 1) * (m / 2 ^ (i + 1) : Nat) + (m % 2 ^ (i + 1) : Nat) := by
    exact_mod_cast (Nat.div_add_mod m _).symm
  rw [multiples, multiples, zpow_add₀ two_ne_zero, zpow_natCast, Nat.cast_add_one]
  exact ⟨by linear_combination 2 ^ e * hm, by linear_combination -(2 ^ e) * hm⟩

/-- Rounding to nearest even: m · 2^e lies between k · 2^q and the next, and goes up where RoundsUp says so. -/
theorem roundMag_rne_cases (neg : Bool) (m : Nat) (e q : Int) :
    ∃ k, multiples q k ≤ m * 2 ^ e ∧ (m : ℚ) * 2 ^ e < multiples q (k + 1) ∧
      (RoundsUp (multiples q) (m * 2 ^ e) k ∧ (roundMag .rne neg m e false q).1 = k + 1 ∨
        ¬ RoundsUp (multiples q) (m * 2 ^ e) k ∧ (roundMag .rne neg m e false q).1 = k) := by
  rcases le_or_gt q e with hqe | heq
  · have hx : (m : ℚ) * 2 ^ e = multiples q (m * 2 ^ (e - q).toNat) := mul_two_zpow_of_le m hqe
    have hlt := multiples_strictMono q (Nat.lt_add_one (m * 2 ^ (e - q).toNat))
    refine ⟨m * 2 ^ (e - q).toNat, hx.ge, hx.trans_lt hlt, .inr ⟨?_, by rw [roundMag, if_pos hqe]⟩⟩
    rw [RoundsUp, hx]
    rintro (h | ⟨h, -⟩) <;> linarith
  · obtain ⟨i, rfl⟩ : ∃ i : Nat, q = e + (i + 1 : Nat) := ⟨(q - e).toNat - 1, by omega⟩
    obtain ⟨hlo, hhi⟩ := distances_to_multiples m e i
    have hr : m % 2 ^ (i + 1) < 2 ^ (i + 1) := Nat.mod_lt _ (by positivity)
    have hpos : (0 : ℚ) < 2 ^ e := by positivity
    have hup : RoundsUp (multiples (e + (i + 1 : Nat))) (m * 2 ^ e) (m / 2 ^ (i + 1)) ↔
        2 ^ i < m % 2 ^ (i + 1) ∨ m % 2 ^ (i + 1) = 2 ^ i ∧ m / 2 ^ (i + 1) % 2 = 1 := by
      rw [RoundsUp, hlo, hhi, mul_lt_mul_iff_left₀ hpos, mul_left_inj' hpos.ne', sub_lt_iff_lt_add, sub_eq_iff_eq_add]
      norm_cast
      omega
    refine ⟨m / 2 ^ (i + 1), ?_, ?_, ?_⟩
    · rw [← sub_nonneg, hlo]
      positivity
    · rw [← sub_pos, hhi]
      exact mul_pos (sub_pos.mpr (by exact_mod_cast hr)) hpos
    · have hd : (e + (i + 1 : Nat) - e).toNat = i + 1 := by omega
      rw [hup, roundMag, if_neg heq.not_ge, hd]
      by_cases h : 2 ^ i < m % 2 ^ (i + 1) ∨ m % 2 ^ (i + 1) = 2 ^ i ∧ m / 2 ^ (i + 1) % 2 = 1
      · exact .inl ⟨h, by simp [h]⟩
      · exact .inr ⟨h, by simp [h]⟩

/-! ### Grids -/

/-- The value of a magnitude code on a grid. -/
def gridRat (fb : Nat) (bias : Int) (c : Nat) : ℚ := (gridVal fb bias c).1 * 2 ^ (gridVal fb bias c).2

variable {fb : Nat} {bias : Int}

theorem gridRat_of_lt {c : Nat} (hc : c < 2 ^ fb) : gridRat fb bias c = multiples (1 - bias - fb) c := by
  simp [gridRat, gridVal, multiples, Nat.div_eq_of_lt hc, Nat.mod_eq_of_lt hc]

theorem gridRat_of_exponent (t : Nat) {r : Nat} (hr : r < 2 ^ fb) :
    gridRat fb bias (2 ^ fb * (t + 1) + r) = multiples ((t : Int) + 1 - bias - fb) (r + 2 ^ fb) := by
  have hx : (2 ^ fb * (t + 1) + r) / 2 ^ fb = t + 1 := by
    rw [Nat.mul_add_div (by positivity), Nat.div_eq_of_lt hr, Nat.add_zero]
  rw [gridRat, gridVal, hx, Nat.mul_add_mod, Nat.mod_eq_of_lt hr, if_neg t.succ_ne_zero, multiples, Nat.cast_add_one]

/-- From the first code of a binade to the first of the next, and below the lowest binade too, the codes are evenly spaced. -/
theorem gridRat_binade (t : Nat) {j : Nat} (hj : j ≤ 2 * 2 ^ fb) (ht : t = 0 ∨ 2 ^ fb ≤ j) :
    gridRat fb bias (t * 2 ^ fb + j) = multiples ((t : Int) + 1 - bias - fb) j := by
  rcases lt_or_ge j (2 ^ fb) with hlt | hge
  · obtain rfl : t = 0 := by omega
    simpa using gridRat_of_lt hlt
  rcases hj.lt_or_eq with hlt | rfl
  · obtain ⟨r, rfl⟩ := Nat.exists_eq_add_of_le' hge
    rw [← gridRat_of_exponent t (by omega : r < 2 ^ fb)]
    ring_nf
  · have hc : t * 2 ^ fb + 2 * 2 ^ fb = 2 ^ fb * (t + 1 + 1) + 0 := by ring
    have he : ((t + 1 : Nat) : Int) + 1 - bias - fb = 1 + (t + 1 - bias - fb) := by push_cast; ring
    rw [hc, gridRat_of_exponent (t + 1) (by positivity), multiples, multiples, he, zpow_add₀ two_ne_zero]
    push_cast
    ring

theorem exists_binade (fb c : Nat) : ∃ t j, c = t * 2 ^ fb + j ∧ j < 2 * 2 ^ fb ∧ (t = 0 ∨ 2 ^ fb ≤ j) := by
  have hr : c % 2 ^ fb < 2 ^ fb := Nat.mod_lt _ (by positivity)
  have hc : 2 ^ fb * (c / 2 ^ fb) + c % 2 ^ fb = c := Nat.div_add_mod c _
  rcases Nat.eq_zero_or_eq_succ_pred (c / 2 ^ fb) with h0 | h0
  · rw [h0] at hc
    exact ⟨0, c, by omega, by omega, .inl rfl⟩
  · rw [h0] at hc
    exact ⟨(c / 2 ^ fb).pred, 2 ^ fb + c % 2 ^ fb, by linarith, by omega, .inr (by omega)⟩

theorem gridRat_strictMono (fb : Nat) (bias : Int) : StrictMono (gridRat fb bias) := by
  refine strictMono_nat_of_lt_succ fun c => ?_
  obtain ⟨t, j, rfl, hj, ht⟩ := exists_binade fb c
  rw [add_assoc, gridRat_binade t hj.le ht, gridRat_binade t hj (by omega)]
  exact mul_lt_mul_of_pos_right (by simp) (by positivity)

/-- Within one binade a rounding to whole numbers of its spacing is a rounding to the grid. -/
theorem roundsUp_gridRat {t j : Nat} {x : ℚ} (hfb : fb ≠ 0) (hj : j < 2 * 2 ^ fb) (ht : t = 0 ∨ 2 ^ fb ≤ j) :
    RoundsUp (gridRat fb bias) x (t * 2 ^ fb + j) ↔ RoundsUp (multiples ((t : Int) + 1 - bias - fb)) x j := by
  have hpar : (t * 2 ^ fb + j) % 2 = j % 2 := by
    obtain ⟨i, rfl⟩ := Nat.exists_eq_succ_of_ne_zero hfb
    rw [pow_succ', mul_left_comm, Nat.mul_add_mod]
  rw [RoundsUp, RoundsUp, add_assoc, gridRat_binade t hj.le ht, gridRat_binade t hj (by omega), hpar]

/-- R62, R65: the code that gridMag gives is the nearest one of a grid that does not end, or the largest code where that is less. -/
theorem exists_gridMag_eq_min (hfb : fb ≠ 0) (m : Nat) (e : Int) :
    ∃ c, NearestEven (gridRat fb bias) (m * 2 ^ e) c ∧ ∀ maxC, gridMag fb bias maxC m e = min maxC c := by
  have hV := gridRat_strictMono fb bias
  rcases eq_or_ne m 0 with rfl | hm
  · have h0 : gridRat fb bias 0 = 0 := by simp [gridRat_of_lt (c := 0) (by positivity : 0 < 2 ^ fb), multiples]
    exact ⟨0, fun d => by simp [h0], fun maxC => by simp [gridMag]⟩
  obtain ⟨t, ht⟩ : ∃ t : Nat, max (e + Nat.log2 m) (1 - bias) = (t : Int) + 1 - bias :=
    ⟨(max (e + Nat.log2 m) (1 - bias) + bias - 1).toNat, by omega⟩
  have hx := mem_binade_of_log2 hm e
  obtain ⟨k, hlo, hhi, hK⟩ := roundMag_rne_cases false m e ((t : Int) + 1 - bias - fb)
  have hmag : ∀ maxC, gridMag fb bias maxC m e = min maxC (t * 2 ^ fb + (roundMag .rne false m e false ((t : Int) + 1 - bias - fb)).1) := by
    intro maxC
    rw [gridMag, if_neg hm, ht]
    simp
  have hk : k < 2 * 2 ^ fb := by
    rw [← pow_succ', ← (multiples_strictMono _).lt_iff_lt, multiples_two_pow]
    refine (hlo.trans_lt hx.2).trans_le (zpow_le_zpow_right₀ one_le_two ?_)
    push_cast
    omega
  have hge : t = 0 ∨ 2 ^ fb ≤ k := by
    refine or_iff_not_imp_left.mpr fun h0 => Nat.lt_succ_iff.mp ?_
    rw [← (multiples_strictMono _).lt_iff_lt, multiples_two_pow]
    refine (zpow_le_zpow_right₀ one_le_two ?_).trans_lt (hx.1.trans_lt hhi)
    omega
  rw [← gridRat_binade t hk.le hge] at hlo
  rw [← gridRat_binade t (Nat.succ_le_of_lt hk) (by omega), Nat.succ_eq_add_one, ← add_assoc] at hhi
  refine ⟨_, ?_, hmag⟩
  rw [← roundsUp_gridRat hfb hk hge] at hK
  rcases hK with ⟨hup, hK⟩ | ⟨hup, hK⟩
  · rw [hK, ← add_assoc]
    exact nearestEven_of_roundsUp hV hlo hhi hup
  · rw [hK]
    exact nearestEven_of_not_roundsUp hV hlo hhi hup

end Sys2Proof.Machine
end

section
/-! The values of the short formats' codes, and rounding to P8A, P2 and PT (R53, R54, R62, R66, R67). -/

namespace Sys2Proof.Machine

/-- Settles O54: each of the tables' codes is evaluated. -/
theorem valueTables : Obligations.value_tables := by
  refine ⟨⟨rfl, rfl, by decide, ⟨_, rfl⟩, ⟨_, rfl⟩⟩, ⟨fun p hp => ?positive, fun p hp => ?negative, ⟨_, rfl⟩⟩, rfl, rfl, rfl⟩
  case positive =>
    refine ⟨(gridVal 1 1 (p.1 % 8)).1, (gridVal 1 1 (p.1 % 8)).2, ?_⟩
    decide +revert
  case negative =>
    refine ⟨(gridVal 1 1 (p.1 % 8)).1, (gridVal 1 1 (p.1 % 8)).2, ?_⟩
    decide +revert

theorem p8aDec_magnitude {d : Nat} (hd : d < 128) : p8aDec d = .fin false (gridVal 3 7 d).1 (gridVal 3 7 d).2 := by
  have hsign : d / 128 = 0 := by omega
  have hnan : d % 256 ≠ 0x80 := by omega
  rw [p8aDec, if_neg hnan, Nat.mod_eq_of_lt hd, hsign]
  rfl

/-- Settles O58: the code is the nearest of the grid without an end, and at most 127. -/
theorem p8aConversion : Obligations.p8a_conversion := by
  refine ⟨fun neg m e d n f hd hdec => ?_, ⟨⟨15, 5, rfl, by norm_num⟩, ⟨15, 5, rfl, by norm_num⟩, rfl, rfl, fun _ => rfl, fun _ _ => rfl⟩⟩
  obtain ⟨c, hnear, hmag⟩ := exists_gridMag_eq_min (fb := 3) (bias := 7) three_ne_zero m e
  obtain ⟨-, rfl, rfl⟩ := FV.fin.inj ((p8aDec_magnitude hd).symm.trans hdec)
  have hc : min 127 c < 128 := by omega
  obtain ⟨hle, htie⟩ := hnear.clamp (gridRat_strictMono 3 7) (Nat.le_of_lt_succ hd)
  refine ⟨min 127 c, _, _, hc, p8aDec_magnitude hc, ?_, hle, htie⟩
  rw [p8aEnc, hmag]

theorem blkVal_P2 (neg odd : Bool) : blkVal 8 ((if neg then 2 else 0) + if odd then 1 else 0) = .fin neg (if odd then 3 else 1) 0 := by
  decide +revert

/-- Settles O57: the comparison of blkRound is that of the values. -/
theorem p2AndPtRounding : Obligations.p2_and_pt_rounding := by
  refine ⟨fun neg m e => ?_, fun neg m e => ?_⟩
  · have hcmp : dyLt 2 0 m e = true ↔ ¬ (m : ℚ) * 2 ^ e ≤ 2 := by
      rw [dyLt_iff, not_le]
      norm_num
    have hcode : blkRound 8 neg m e = (if neg then 2 else 0) + if dyLt 2 0 m e then 1 else 0 := rfl
    rw [hcode, blkVal_P2]
    by_cases h : (m : ℚ) * 2 ^ e ≤ 2
    · simp [hcmp, h]
    · simp [hcmp, h]
  · have hcmp : dyLe m e 1 (-1) = true ↔ (m : ℚ) * 2 ^ e ≤ 1 / 2 := by
      rw [dyLe_iff]
      norm_num
    have hcode : blkRound 9 neg m e = if dyLe m e 1 (-1) then 0 else if neg then 3 else 1 := rfl
    rw [hcode]
    by_cases h : (m : ℚ) * 2 ^ e ≤ 1 / 2
    · rw [if_pos (hcmp.mpr h), if_pos h]
      rfl
    · rw [if_neg (mt hcmp.mp h), if_neg h]
      cases neg <;> rfl

end Sys2Proof.Machine
end

section
/-! The activity of an engine, the fence and the self-test: one equation for each case (R100, R101, R111, R113). -/

namespace Sys2Proof.Machine

variable {s : State} {e : Nat} {v : Word}

/-! ### Ramps (R100, R101) -/

/-- The state with the issue cycles that the present stage of RAMP_UP loses counted. -/
def countRampLoss (s : State) (e : Nat) : State :=
  let n := upStage (rampLen s e) (getE s e).stage
  rinc64 s (eReg e oENG_RAMPLOSS_LO) (n.1 - cdiv n.1 n.2)

theorem effRampUp_early (hact : (getE s e).act = .rampUp) (hstage : (getE s e).stage < 2) :
    effRampUp s e = putE (countRampLoss s e) e { getE s e with stage := (getE s e).stage + 1 } :=
  (if_neg (not_not_intro hact)).trans (if_pos hstage)

theorem effRampUp_last {u : State} (hact : (getE s e).act = .rampUp) (hstage : 2 ≤ (getE s e).stage)
    (hu : u = putE (countRampLoss s e) e { getE s e with act := .active, stage := 0 }) :
    effRampUp s e = if vectorsGoOn u e then u else nothingToIssue u e := by
  subst hu
  exact (if_neg (not_not_intro hact)).trans (if_neg (Nat.not_lt.mpr hstage))

theorem effRampDown_early (hact : (getE s e).act = .rampDown) (hstage : (getE s e).stage < 2) :
    effRampDown s e = putE s e { getE s e with stage := (getE s e).stage + 1 } :=
  (if_neg (not_not_intro hact)).trans (if_pos hstage)

theorem effRampDown_last (hact : (getE s e).act = .rampDown) (hstage : 2 ≤ (getE s e).stage) :
    effRampDown s e = putE s e { getE s e with act := .idle, stage := 0 } :=
  (if_neg (not_not_intro hact)).trans (if_neg (Nat.not_lt.mpr hstage))

/-! ### The fence (R111, R586) -/

theorem testing_eq_false_iff : testing s e = false ↔ (getE s e).act ≠ .selftest := beq_eq_false_iff_ne

/-- A register other than the window's BLK_COMMIT_STAT says nothing of its commit. -/
theorem commitPending_rput {w off : Nat} (x : Word) (h : off ≠ wreg w 0x1C) : commitPending (rput s off x) w = commitPending s w :=
  congrArg (fun y => wbits y 3 0 == 1) (rget_rput_other s x h.symm)

theorem eReg_ctrl_ne_commitStat (e : Nat) : eReg e oENG_CTRL ≠ wreg (winEng e) 0x1C := by
  simp only [eReg, wreg, oENG_CTRL]
  omega

/-- With no commit pending CHK_EN reaches its shadow, and with no self-test running FENCE takes effect at once. -/
theorem effFenceEngine_atOnce {u : State} (hcommit : commitPending s (winEng e) = false) (hact : (getE s e).act ≠ .selftest)
    (hu : u = rputBit s (eReg e oENG_CTRL) 3 (wbit v 3)) :
    effFenceEngine s e v = setFence (putE (shPut u (eReg e oENG_CTRL) (wput (shGet s (eReg e oENG_CTRL)) 2 2 (wbits v 2 2))) e
      { getE s e with unfence := false }) e (wbit v 0) := by
  subst hu
  have hpending : commitPending (rputBit s (eReg e oENG_CTRL) 3 (wbit v 3)) (winEng e) = false :=
    (commitPending_rput _ (eReg_ctrl_ne_commitStat e)).trans hcommit
  have hwaits : (testing s e && !wbit v 0) = false := by rw [testing_eq_false_iff.mpr hact, Bool.false_and]
  simp only [effFenceEngine, hpending]
  exact if_neg (Bool.eq_false_iff.mp hwaits)

/-! ### The self-test (R113) -/

theorem effSelftestStart_started (hstart : wbit v 31 = true) (hfence : fenced s e = true) (hact : (getE s e).act = .idle) :
    effSelftestStart s e v = refreshEng (rputBit (putE s e { getE s e with act := .selftest }) (eReg e oENG_SELFTEST) 0 true) e := by
  have htest : testing s e = false := testing_eq_false_iff.mpr (by rw [hact]; decide)
  simp [effSelftestStart, hstart, htest, hfence, hact]

theorem effSelftestEnd_pass (hact : (getE s e).act = .selftest) (hunfence : (getE s e).unfence = false) :
    effSelftestEnd s e none = refreshEng (putE (rputF (rputBit s (eReg e oENG_SELFTEST) 0 false) (eReg e oENG_SELFTEST) 3 2 1) e
      { getE s e with act := .idle, unfence := false }) e := by
  have htest : testing s e = true := beq_iff_eq.mpr hact
  have hrunning : ¬ (!testing s e) = true := by rw [htest]; decide
  exact (if_neg hrunning).trans (if_neg (Bool.eq_false_iff.mp hunfence))

end Sys2Proof.Machine
end

section
/-! Ramps, fencing and the self-test of an engine. -/

namespace Sys2Proof.Machine

/-- Settles O6: one case of a ramp's end, of HOLD's, of the fence and of the self-test for each clause. -/
theorem engineActivity : Obligations.engine_activity := by
  refine ⟨fun e s hact hstage n hn => ?_, fun e s hact hstage n hn u hu => ?_,
    fun e s hact => congrArg Host.Outcome.next (if_pos hact),
    fun e s hact hstage => congrArg Host.Outcome.next (effRampDown_early hact hstage),
    fun e s hact hstage => congrArg Host.Outcome.next (effRampDown_last hact hstage),
    fun e v s he hcommit hact u hu => congrArg Host.Outcome.next ((if_pos he).trans (effFenceEngine_atOnce hcommit hact hu)),
    fun e v s he hstart hfence hact => congrArg Host.Outcome.next ((if_pos he).trans (effSelftestStart_started hstart hfence hact)),
    fun e s hact hunfence => congrArg Host.Outcome.next (effSelftestEnd_pass hact hunfence)⟩
  · subst hn
    exact congrArg Host.Outcome.next (effRampUp_early hact hstage)
  · subst hn
    exact congrArg Host.Outcome.next (effRampUp_last hact hstage hu)

end Sys2Proof.Machine
end

section
/-! A MATMUL part on its engine: how it begins, a pass issued and completed, a block drained, a streamed write sent on
(R89–R91, R107, R108, R130, R132, R143). -/

namespace Sys2Proof.Machine

variable {s u : State} {e : Nat} {y : EngBlk} {j : Job} {x : Part} {b : OutBlk}

theorem effMatmul_begun {r : JobRef} {p : Nat} (hfresh : freshOf s r p 1 0 = some (j, x)) (hblocks : partBlocks s j.args x ≠ [])
    (he : e = floeEngine (floeOf x.floe)) :
    effMatmul s r p = putE (putJob s (setPart j p { x with st := .busy })) e
      { getE s e with loads := (getE s e).loads ++ [⟨r, p, sourceOfPart r e, 0⟩] } := by
  subst he
  simp only [effMatmul, hfresh]
  exact if_neg hblocks

/-! ### A pass issued (R91, R107, R466) -/

/-- A block of the bank that has a pass to issue is the one that issues it: no new block begins. -/
theorem issueNext_of_unissued (hy : (getE s e).blks.find? (unissued s) = some y) (hb : blkOf s y = some (j, x, b)) :
    issueNext s e = issuePass s e y j x b := by
  have hany : (getE s e).blks.any (unissued s) = true :=
    List.any_eq_true.mpr ⟨y, List.mem_of_find?_eq_some hy, List.find?_some hy⟩
  simp only [issueNext, hany, if_true, hy, hb]

theorem issuePass_sound {v : State} {acc : List (Word × Word)} (hbad : passBad s j.args b y.issued = none)
    (hv : v = noteFetches (issueVector s e) e (passReads j.args b y.issued))
    (hu : u = if v.gov.f < 64 then { v with gov := { v.gov with denied := true } } else v)
    (hacc : acc = passAcc u j.args b y.issued y.acc) :
    issuePass s e y j x b =
      putBlk (rinc64 (rinc64 u (eReg e oENG_PASS_LO) 1) (eReg e oENG_BUSY_LO) (passVectors j.args (partMode u j.args x) b y.issued)) e
        { y with issued := y.issued + 1, acc := acc, flight := y.flight ++ [if y.chkEn then passChecks u y.tol j.args b y.issued y.acc acc else {}] } := by
  subst hv hu hacc
  simp only [issuePass, hbad]

/-! ### A pass completed (R107, R108) -/

variable {c : PassRes} {t : List PassRes} {chk : PassCheck}

/-- The oldest pass in flight completes between two turns of issuing passes. -/
theorem effPass_completes (htest : testing s e = false) (hissue : issuePasses 4 (pruneEngine s e) e = u)
    (hy : (getE u e).blks.find? (fun y => y.flight != []) = some y) (hflight : y.flight = c :: t) :
    effPass s e chk = settleEngine (issuePasses 4 (completePass u e y c chk) e) e := by
  simp only [effPass, htest, Bool.false_eq_true, if_false, hissue, hy, hflight]

theorem completePass_clean (hb : blkOf s y = some (j, x, b)) (hflight : y.flight = c :: t) (hbad : c.bad = none) :
    completePass s e y c .clean = putBlk (rinc s (eReg e oENG_CHK_SKIP) (c.skipR.length + c.skipC.length)) e { y with flight := t } := by
  simp only [completePass, hb, hflight, hbad, List.drop_one, List.tail_cons]

/-- R108: the first mismatch of a block starts it again. -/
theorem mismatch_first {pass kind idx : Nat} (hruns : y.runs = 0) :
    mismatch s e y j b pass kind idx = rinc (putE s e { getE s e with blks := (getE s e).blks.filter (fun z => !z.same y) ++
      [{ y with issued := 0, flight := [], acc := clearAcc b, runs := 1 }] }) (eReg e oENG_CHK_RETRY) 1 :=
  if_pos hruns

/-- A row check that is made and fails in a block's first run starts it again. -/
theorem completePass_rowCheck {i : Nat} {v : State} (hb : blkOf s y = some (j, x, b)) (hchk : y.chkEn = true) (hskip : c.skipR.contains i = false)
    (hruns : y.runs = 0) (hv : v = rinc s (eReg e oENG_CHK_SKIP) (c.skipR.length + c.skipC.length)) :
    completePass s e y c (.rowCheck i) = rinc (putE v e { getE v e with blks := (getE v e).blks.filter (fun z => !z.same y) ++
      [{ y with issued := 0, flight := [], acc := clearAcc b, runs := 1 }] }) (eReg e oENG_CHK_RETRY) 1 := by
  have hmade : (y.chkEn && !c.skipR.contains i) = true := by rw [hchk, hskip]; rfl
  subst hv
  simp only [completePass, hb]
  exact (if_pos hmade).trans (mismatch_first hruns)

/-! ### The drain (R130, R132, R143) -/

theorem effDrain_ready (hprune : pruneEngine s e = u) (hready : drainReady u e = some (y, j, b)) : effDrain s e none = drainNow u e y j b := by
  simp only [effDrain, hprune, hready]

/-- R130: a block none of whose tiles overflows is not run again. -/
theorem drainNow_released {v : State} {q : List (Nat × Nat)} {d : DrainBlk} {cs : List TileCtx} (hbad : drainBad s j b = none)
    (hv : v = noteReads s (.engine e) (drainReads j b)) (hq : q = effEngineTiles y ((tilesOf j.args b).map (·.no)))
    (hd : d = drainBlk v j b y.acc) (hcs : cs = (tilesOf j.args b).map (tileCtx v j d q)) (hfit : ∀ c ∈ cs, c.over (kept v j.extra) = false) :
    drainNow s e y j b = releaseBlock v e y j b d cs q := by
  have hretry : cs.filter (fun c => c.over (kept v j.extra) && c.scale.isSome &&
      decide ((q.find? (fun r => r.1 == c.t.no)).elim 0 (·.2) < ddRetry j.extra)) = [] :=
    List.filter_eq_nil_iff.mpr fun c hc => by simp [hfit c hc]
  subst hv hq hd hcs
  simp only [drainNow, hbad]
  exact if_neg (not_not_intro hretry)

/-- The only write of the output buffer leaves where it can. -/
theorem sendOut_single {w : OutWrite} (hbuf : (getE s e).outBuf = [w]) (hlive : partLive s w.job w.part = some (j, x))
    (hcan : canStream s j w.bytes.length = true) :
    sendOut 1 s e = request (putE s e { getE s e with outBuf := [] })
      { op := opWR, dest := neighbour s (ddPort j.extra), addr := w64 w.addr, ctag := j.tag, payload := w.bytes, via := some (ddPort j.extra) }
      (.stream w.job w.part w.tile) := by
  simp [sendOut, hbuf, hlive, hcan]

end Sys2Proof.Machine
end

section
/-! A MATMUL part on its engine. -/

namespace Sys2Proof.Machine

/-- Settles O5: the part's beginning, the two outcomes of its oldest pass, a block's release and the buffer's single write; the pass issued is of the
block that has one to issue. -/
theorem matmulPart : Obligations.matmul_part := by
  refine ⟨fun r p s j x hfresh hblocks e he => congrArg Host.Outcome.next (effMatmul_begun hfresh hblocks he),
    fun e s y j x b hy hb hbad v hv u hu acc hacc => (issueNext_of_unissued hy hb).trans (issuePass_sound hbad hv hu hacc),
    fun e s u y j x b c t htest hissue hy hflight hb hbad => congrArg Host.Outcome.next ?clean,
    fun e i s u y j x b c t htest hissue hy hflight hb hchk hskip hruns v hv => congrArg Host.Outcome.next ?rowCheck,
    fun e s u y j b hprune hready hbad v hv q hq d hd cs hcs hfit =>
      congrArg Host.Outcome.next ((effDrain_ready hprune hready).trans (drainNow_released hbad hv hq hd hcs hfit)),
    fun e s u w j x hprune hbuf hlive hcan => congrArg Host.Outcome.next ?resume⟩
  case clean => rw [effPass_completes htest hissue hy hflight, completePass_clean hb hflight hbad]
  case rowCheck => rw [effPass_completes htest hissue hy hflight, completePass_rowCheck hb hchk hskip hruns hv]
  case resume =>
    simp only [effDrainResume, hprune, hbuf, List.length_singleton]
    rw [sendOut_single hbuf hlive hcan]

end Sys2Proof.Machine
end

section
/-! What a step does with the front of the queue and that each answers a next state; and the state at reset (R316, R543, R547). -/

namespace Sys2Proof.Machine

theorem step_of_pending {s : State} {c : Instr} {r : List Instr} (h : s.pending = c :: r) : step s = exec c { s with pending := r } := by
  simp only [step, h]

theorem step_of_idle {s : State} (h : s.pending = []) : step s = .next (idle s) := by
  simp only [step, h]

/-- Every command is an effect on the state: it has no outcome but a next state. -/
theorem exec_next (i : Instr) (s : State) : ∃ t, exec i s = .next t := by
  cases i <;> exact ⟨_, rfl⟩

theorem step_next (s : State) : ∃ t, step s = .next t := by
  cases h : s.pending with
  | nil => exact ⟨_, step_of_idle h⟩
  | cons c r => rw [step_of_pending h]; exact exec_next c _

theorem safeStep_of_next {s t : State} (h : step s = .next t) : safeStep s = true := by
  simp only [safeStep, h]

theorem canonical_reset : State.reset.canonical = true := by decide

/-- R316: at reset no port is UP. -/
theorem portUp_reset : ∀ p, p < 8 → portUp State.reset p = false := by decide

/-- R547: GLB starts in stage BOOT. -/
theorem glbStage_reset : glbStage State.reset = 0 := by decide

/-- R547: the root of trust is not yet started. -/
theorem tpmCode_reset : tpmCode State.reset = 0 := by decide

end Sys2Proof.Machine
end

section
/-! A step runs the front command and never stops, the state at reset, and the frames of the control path and the fabric. -/

namespace Sys2Proof.Machine

/-- Settles O49: a queue that is not empty gives its front command to exec. -/
theorem stepRunsFront : Obligations.step_runs_front := fun _ _ _ h => step_of_pending h

/-- Settles O51: every command answers a next state, so a step does, with a command or idle. -/
theorem nothingStops : Obligations.nothing_stops := ⟨exec_next, fun s => (step_next s).elim fun _ h => safeStep_of_next h⟩

/-- Settles O53: at reset every map is empty, so what it holds is the default; the registers at their reset values say that no port is up and how far
the start-up is. -/
theorem resetIsCanonical : Obligations.reset_is_canonical :=
  ⟨canonical_reset, rfl, fun _ => ⟨rfl, rfl⟩, fun _ => ⟨rfl, rfl⟩, fun _ => rfl, fun _ => rfl, portUp_reset, rfl, glbStage_reset, tpmCode_reset⟩

/-- Settles O46: as for the units, each clause names every command that writes an area of the kind of state it speaks of. -/
theorem frameOfCommands : Obligations.frame_of_commands := by
  intro i s t h
  obtain ⟨-, -, -, -, hwork, hnet, -⟩ := exec_touches h
  clear h
  refine ⟨(stands_unless_written hwork.queues).imp_right ?_, (stands_unless_written hwork.engines).imp_right ?_,
    (stands_unless_written hwork.cores).imp (congrArg Prod.fst) ?_, (stands_unless_written hwork.counters).imp_right ?_,
    (stands_unless_written hwork.waits).imp ?waits ?_, (stands_unless_written hwork.slots).imp_right ?_,
    (stands_unless_written hnet.held).imp (congrArg Prod.fst) ?_, (stands_unless_written hnet.links).imp_right ?_,
    (stands_unless_written hnet.resets).imp_right ?_, (stands_unless_written hnet.poisoned).imp_right ?_,
    (stands_unless_written hnet.hosts).imp_right ?_⟩ <;> clear hwork hnet
  case waits => exact congrArg (fun w : _ × _ × _ × _ => (w.1, w.2.1))
  all_goals intro hw; cases i
  -- a command that is not named does not write the area (hw); of a named one nothing is said
  all_goals first | contradiction | trivial

end Sys2Proof.Machine
end

section
/-! A range cut into parts, by the floors of R189 and R352. -/

namespace Sys2Proof.Machine

/-- Where the k-th of n parts of a range begins, and the one before it ends. -/
def cutPoint (lo hi n k : Nat) : Nat := lo + k * (hi - lo) / n

variable {lo hi n u : Nat} {kids : List Nat}

theorem cutPoint_zero : cutPoint lo hi n 0 = lo := by simp [cutPoint]

theorem cutPoint_last (hle : lo ≤ hi) (hn : 0 < n) : cutPoint lo hi n n = hi := by
  rw [cutPoint, Nat.mul_div_cancel_left _ hn]
  omega

theorem cutPoint_monotone : Monotone (cutPoint lo hi n) :=
  fun _ _ h => Nat.add_le_add_left (Nat.div_le_div_right (Nat.mul_le_mul_right _ h)) _

theorem chunkOf_eq (r : Nat × Nat) (n k : Nat) : chunkOf r n k = (cutPoint r.1 r.2 n k, cutPoint r.1 r.2 n (k + 1)) := rfl

/-- The i-th part of a split command, where it is not empty. -/
def splitPart (lo hi : Nat) (kids : List Nat) (i : Nat) : Option (Nat × Nat × Nat) :=
  let a := cutPoint lo hi kids.length i
  let b := cutPoint lo hi kids.length (i + 1)
  if a = b then none else (kids[i]?).map (fun c => (c, a, b))

theorem splitUnits_eq (lo hi : Nat) (kids : List Nat) : splitUnits lo hi kids = (List.range kids.length).filterMap (splitPart lo hi kids) := rfl

theorem splitPart_eq_some_iff {i : Nat} {p : Nat × Nat × Nat} : splitPart lo hi kids i = some p ↔
    cutPoint lo hi kids.length i ≠ cutPoint lo hi kids.length (i + 1) ∧ kids[i]? = some p.1 ∧
      cutPoint lo hi kids.length i = p.2.1 ∧ cutPoint lo hi kids.length (i + 1) = p.2.2 := by
  obtain ⟨c, a, b⟩ := p
  simp [splitPart]

/-- A monotone sequence passes a number at one place only. -/
theorem exists_step_over {f : Nat → Nat} (hf : Monotone f) (h0 : f 0 ≤ u) (hn : u < f n) :
    ∃ i < n, ∀ k, f k ≤ u ∧ u < f (k + 1) ↔ k = i := by
  obtain ⟨i, hin, hle, hlt⟩ : ∃ i < n, f i ≤ u ∧ u < f (i + 1) := by
    induction n with
    | zero => exact absurd hn (Nat.not_lt.mpr h0)
    | succ n ih =>
      by_cases h : u < f n
      · obtain ⟨i, hin, hstep⟩ := ih h
        exact ⟨i, Nat.lt_succ_of_lt hin, hstep⟩
      · exact ⟨n, Nat.lt_succ_self n, Nat.not_lt.mp h, hn⟩
  refine ⟨i, hin, fun k => ⟨fun ⟨hk, hk'⟩ => ?_, fun h => h ▸ ⟨hle, hlt⟩⟩⟩
  have hki : k < i → f (k + 1) ≤ f i := fun h => hf h
  have hik : i < k → f (i + 1) ≤ f k := fun h => hf h
  omega

/-- A part of a split command has a unit of the range just where the cut that begins it is not beyond the unit and the next cut is. -/
theorem splitPart_has_unit {i : Nat} (hk : i < kids.length) :
    ((splitPart lo hi kids i).filter (fun p => decide (p.2.1 ≤ u ∧ u < p.2.2))).isSome = true ↔
      cutPoint lo hi kids.length i ≤ u ∧ u < cutPoint lo hi kids.length (i + 1) := by
  simp only [Option.isSome_iff_exists, Option.filter_eq_some_iff, splitPart_eq_some_iff, decide_eq_true_eq]
  constructor
  · rintro ⟨p, ⟨-, -, ha, hb⟩, hu⟩
    rwa [ha, hb]
  · intro hu
    exact ⟨(kids[i], cutPoint lo hi kids.length i, cutPoint lo hi kids.length (i + 1)),
      ⟨by omega, List.getElem?_eq_getElem hk, rfl, rfl⟩, hu⟩

/-- Each unit of the range is in one part of a split command. -/
theorem length_parts_with_unit (hkids : kids ≠ []) (hlo : lo ≤ u) (hhi : u < hi) :
    ((splitUnits lo hi kids).filter (fun p => decide (p.2.1 ≤ u ∧ u < p.2.2))).length = 1 := by
  have hpos : 0 < kids.length := List.length_pos_iff.mpr hkids
  obtain ⟨i, hik, hstep⟩ := exists_step_over (u := u) (cutPoint_monotone (lo := lo) (hi := hi) (n := kids.length))
    (cutPoint_zero.trans_le hlo) (hhi.trans_eq (cutPoint_last (by omega) hpos).symm)
  calc ((splitUnits lo hi kids).filter (fun p => decide (p.2.1 ≤ u ∧ u < p.2.2))).length
      = (List.range kids.length).countP (fun k => ((splitPart lo hi kids k).filter (fun p => decide (p.2.1 ≤ u ∧ u < p.2.2))).isSome) := by
        rw [splitUnits_eq, List.filter_filterMap, List.length_filterMap_eq_countP]
    _ = (List.range kids.length).countP (· == i) :=
        List.countP_congr fun k hk => by rw [splitPart_has_unit (List.mem_range.mp hk), hstep, beq_iff_eq]
    _ = 1 := List.count_eq_one_of_mem List.nodup_range (List.mem_range.mpr hik)

/-- A part of a split command names one of the children, and is a range of the command's that is not empty. -/
theorem mem_splitUnits {p : Nat × Nat × Nat} (hle : lo ≤ hi) (hp : p ∈ splitUnits lo hi kids) :
    p.1 ∈ kids ∧ lo ≤ p.2.1 ∧ p.2.1 < p.2.2 ∧ p.2.2 ≤ hi := by
  obtain ⟨i, hik, hpart⟩ := List.mem_filterMap.mp (splitUnits_eq lo hi kids ▸ hp)
  obtain ⟨hne, hkid, ha, hb⟩ := splitPart_eq_some_iff.mp hpart
  have hlt : i < kids.length := List.mem_range.mp hik
  have hfirst : cutPoint lo hi kids.length 0 ≤ cutPoint lo hi kids.length i := cutPoint_monotone (Nat.zero_le i)
  have hnext : cutPoint lo hi kids.length i ≤ cutPoint lo hi kids.length (i + 1) := cutPoint_monotone (Nat.le_succ i)
  have hlast : cutPoint lo hi kids.length (i + 1) ≤ cutPoint lo hi kids.length kids.length := cutPoint_monotone hlt
  rw [cutPoint_zero] at hfirst
  rw [cutPoint_last hle (Nat.zero_lt_of_lt hlt)] at hlast
  rw [ha] at hne hfirst hnext
  rw [hb] at hne hnext hlast
  exact ⟨List.mem_of_getElem? hkid, hfirst, lt_of_le_of_ne hnext hne, hlast⟩

end Sys2Proof.Machine
end

section
/-! Divisions lose and repeat nothing. -/

namespace Sys2Proof.Machine

/-- Settles O55: both divisions are by the same cuts, which rise from the beginning of the range to its end. -/
theorem divisionIsAPartition : Obligations.division_is_a_partition := by
  refine ⟨fun r n k hle hn => ?_, fun lo hi u kids hkids hlo hhi => length_parts_with_unit hkids hlo hhi,
    fun lo hi kids p hle hp => mem_splitUnits hle hp⟩
  have hlast : n - 1 + 1 = n := Nat.sub_add_cancel hn
  rw [chunkOf_eq, chunkOf_eq, chunkOf_eq, chunkOf_eq]
  exact ⟨cutPoint_zero, (congrArg (cutPoint r.1 r.2 n) hlast).trans (cutPoint_last hle hn), rfl, cutPoint_monotone (Nat.le_succ k)⟩

end Sys2Proof.Machine
end

section
/-! The queue's registers and the command at its head: one equation for each outcome (R172, R173, R179, R180, R185). -/

namespace Sys2Proof.Machine

variable {s : State} {q : Nat} {v f : Word}

/-! ### Q_TAIL, Q_CFG and RESUME (R179, R180, R185) -/

theorem effQTail_handedOver (h : (v - (getQ s q).done).toNat ≤ ringSlots (getQ s q)) : effQTail s q v = putQ s q { getQ s q with tail := v } :=
  if_neg (Nat.not_lt.mpr h)

theorem effQueueEnable_enabled (hoff : (getQ s q).enable = false) (hon : wbit v 31 = true) (hstage : 3 ≤ stage s)
    (hlog : 4 ≤ wbits v 19 16 ∧ wbits v 19 16 ≤ 12) :
    effQueueEnable s q v = putQ s q
      { base := (getQ s q).base, prog := (getQ s q).prog, enable := true, log2 := wbits v 19 16, compCtr := wbits v 15 0, st := .active } := by
  have hup : (wbit v 31 && decide (stage s < 3)) = false := by rw [decide_eq_false (Nat.not_lt.mpr hstage), Bool.and_false]
  have hsize : (wbit v 31 && decide (4 ≤ wbits v 19 16 ∧ wbits v 19 16 ≤ 12)) = true := by rw [hon, decide_eq_true hlog, Bool.and_self]
  simp only [effQueueEnable, hoff, hup, hsize, if_true, Bool.false_eq_true, if_false]

theorem effQueueEnable_disabled (hon : (getQ s q).enable = true) (hoff : wbit v 31 = false)
    (hidle : (queueIdle s q || (getQ s q).st == .stopped) = true) :
    effQueueEnable s q v = putQ s q { getQ s q with enable := false, st := .disabled, err := 0, failedAt := none, stopErr := 0 } := by
  simp only [effQueueEnable, hon, hoff, hidle, if_true, Bool.false_eq_true, if_false]

theorem effResume_retry (hstop : (getQ s q).st = .stopped) (hfail : (getQ s q).failedAt = some f) :
    effResume s q false = putQ s q { getQ s q with st := .active, head := f, err := 0, headCmd := none, failedAt := none, stopErr := 0 } := by
  simp only [effResume, hfail]
  exact if_neg (not_not_intro hstop)

theorem effResume_skip (hstop : (getQ s q).st = .stopped) (hfail : (getQ s q).failedAt = some f)
    (hrec : rangeMapped s.order (progAddr s q f.toNat) 16 = true) :
    effResume s q true = putQ (storeNoted s (.core (qHart q)) (progAddr s q f.toNat + 4) (le32 0x60000000) (qFloe s q) (some (qCmd s q f))) q
      { getQ s q with st := .active, head := f + 1, done := f + 1, err := 0, headCmd := none, failedAt := none, stopErr := 0 } := by
  have hmark : prSKIPPED * 2 ^ 28 = 0x60000000 := rfl
  simp only [effResume, hfail, hrec, hmark, if_true]
  exact if_neg (not_not_intro hstop)

/-! ### A command at the head (R172, R173) -/

theorem getQ_putQ_same (s : State) (q : Nat) (x : Queue) : getQ (putQ s q x) q = x := smGet_smSet_same _ _ _ _

theorem putQ_putQ (s : State) (q : Nat) (x y : Queue) : putQ (putQ s q x) q y = putQ s q y :=
  congrArg (fun m => { s with queues := m }) (smSet_smSet _ _ _ _ _)

/-- A module in its unparked state is not woken. -/
theorem wake_of_unparked (h : unparked s = true) : wake s = s := by
  have hcode : blkCode s winTpw = 0 := beq_iff_eq.mp h
  exact if_neg (by rw [hcode]; decide)

/-- A wait that a command does not enable is met at once. -/
theorem beginOne_first_of_disabled {d : List Byte} {elapsed : Nat} {w : Waiter} (h : dW0 d = false) : beginOne s d 0 elapsed w = (.met, s) :=
  if_neg (by rw [if_pos rfl, h]; exact Bool.false_ne_true)

theorem beginOne_second_of_disabled {d : List Byte} {elapsed : Nat} {w : Waiter} (h : dW1 d = false) : beginOne s d 1 elapsed w = (.met, s) :=
  if_neg (by rw [if_neg one_ne_zero, h]; exact Bool.false_ne_true)

/-- Both waits of a head that is just taken are set. -/
theorem setHeadWaits {x : Queue} {h : Head} {w0 w1 : WaitSt} (hx : x.headCmd = some h) :
    setHeadWait (setHeadWait (putQ s q x) q x.head 0 w0) q x.head 1 w1 = putQ s q { x with headCmd := some { h with w0 := w0, w1 := w1 } } := by
  have h0 : setHeadWait (putQ s q x) q x.head 0 w0 = putQ s q { x with headCmd := some { h with w0 := w0 } } := by
    simp only [setHeadWait, getQ_putQ_same, hx, if_true, putQ_putQ]
  rw [h0]
  simp only [setHeadWait, getQ_putQ_same, if_true, one_ne_zero, if_false, putQ_putQ]

theorem anyBusy_append {l k : List (Nat × Nat)} : anyBusy s (l ++ k) = (anyBusy s l || anyBusy s k) := by
  simp only [anyBusy, mappedOnly, List.filter_append, List.any_append]

/-- Whether the queue runs and has a command at its head that is yet to be taken. -/
structure HeadUntaken (s : State) (q : Nat) : Prop where
  active : (getQ s q).st = .active
  noStop : (getQ s q).stopErr = 0
  noFailure : (getQ s q).failedAt = none
  noHead : (getQ s q).headCmd = none
  waiting : (getQ s q).head ≠ (getQ s q).tail

/-- The head's slot at sa, its descriptor d, its argument block a, and the ranges own that hold them. -/
structure HeadRead (s : State) (q sa : Nat) (d a : List Byte) (own : List (Nat × Nat)) : Prop where
  slot : sa = slotAddr (getQ s q) (getQ s q).head
  desc : d = rdBytes s sa 64
  args : a = headArgs s d
  ranges : own = [(sa, 64)] ++ (if a = [] then [] else [(dArgPtr d, argSize (dFam d) (dVar d))])

/-- Whether nothing keeps the head from being read: the module is not parked, slot and record are mapped, nothing read lies in a region that is
initialising (R210), and no word is uncorrectable (R201). -/
structure HeadReadable (s : State) (q sa : Nat) (d a : List Byte) (own : List (Nat × Nat)) : Prop where
  awake : unparked s = true
  recordFree : progWaits s (.queue q (getQ s q).head.toNat) = false
  slotMapped : rangeMapped s.order sa 64 = true
  recordMapped : rangeMapped s.order (progAddr s q (getQ s q).head.toNat) 16 = true
  readsFree : anyBusy s (own ++ descReads s d a) = false
  sound : ((own.findSome? (fun r => badIn s r.1 r.2)).or (progBad s q (getQ s q).head.toNat)).or (descBad s d a) = none

/-- A head that reads well, passes every check and has no wait to begin here is taken with its waits met. -/
theorem effAtHead_passed {sa : Nat} {d a : List Byte} {own : List (Nat × Nat)} {u : State} (hq : HeadUntaken s q) (hread : HeadRead s q sa d a own)
    (hgood : HeadReadable s q sa d a own) (hu : u = noteDescs (noteReads s (.core (qHart q)) own) (.core (qHart q)) d a)
    (hchecks : headChecks u q d a (waitsHere u d) = none)
    (hwait : waitsHere u d = false ∨ (dW0 d = false ∧ dW1 d = false ∧ dNotBefore d ≤ siteNow u)) :
    effAtHead s q = putQ u q { getQ s q with headCmd := some ⟨d, a, u.clock, .met, .met⟩ } := by
  obtain ⟨hsa, hd, ha, hown⟩ := hread
  obtain ⟨hwake, hprog, hslot, hrec, hbusy, hbad⟩ := hgood
  have hclosed : ¬ ((getQ s q).st ≠ .active ∨ (getQ s q).stopErr ≠ 0 ∨ (getQ s q).failedAt ≠ none ∨ (getQ s q).headCmd ≠ none ∨
      (getQ s q).head = (getQ s q).tail) := by
    simp [hq.active, hq.noStop, hq.noFailure, hq.noHead, hq.waiting]
  have hslotFree : anyBusy s [(sa, 64)] = false := by
    rw [hown, anyBusy_append, anyBusy_append] at hbusy
    simp only [Bool.or_eq_false_iff] at hbusy
    exact hbusy.1.1
  have hmapped : (!rangeMapped s.order sa 64 || !rangeMapped s.order (progAddr s q (getQ s q).head.toNat) 16) = false := by rw [hslot, hrec]; rfl
  unfold effAtHead
  simp only [if_neg hclosed, wake_of_unparked hwake, ← hsa, hslotFree, hprog, hmapped, ← hd, ← ha, ← hown, hbusy, hbad, ← hu, hchecks, Bool.false_eq_true,
    or_self, if_false]
  by_cases hhere : waitsHere u d = true
  · obtain ⟨h0, h1, htime⟩ := hwait.resolve_left (ne_false_of_eq_true hhere)
    simp only [if_pos hhere, beginOne_first_of_disabled h0, beginOne_second_of_disabled h1]
    rw [setHeadWaits (x := { getQ s q with headCmd := some ⟨d, a, u.clock, .none, .none⟩ }) rfl]
    exact if_pos (Bool.and_eq_true_iff.mpr ⟨rfl, decide_eq_true htime⟩)
  · rw [if_neg hhere]

end Sys2Proof.Machine
end

section
/-! The queue's registers, and the command at its head. -/

namespace Sys2Proof.Machine

/-- Settles O1: a write that hands over, enables or disables, and the two ways to resume after a failed command. -/
theorem queueRegisters : Obligations.queue_registers :=
  ⟨fun _ _ _ hq h => congrArg Host.Outcome.next ((if_pos hq).trans (effQTail_handedOver h)),
   fun _ _ _ hq hoff hon hstage h4 h12 => congrArg Host.Outcome.next ((if_pos hq).trans (effQueueEnable_enabled hoff hon hstage ⟨h4, h12⟩)),
   fun _ _ _ hq hon hoff hidle => congrArg Host.Outcome.next ((if_pos hq).trans (effQueueEnable_disabled hon hoff hidle)),
   fun _ _ _ hstop hfail => congrArg Host.Outcome.next (effResume_retry hstop hfail),
   fun _ _ _ hstop hfail hrec => congrArg Host.Outcome.next (effResume_skip hstop hfail hrec)⟩

/-- Settles O2: the head is free to be taken, passes its checks, and no wait that it enables is evaluated here. -/
theorem commandHead : Obligations.command_head :=
  fun _ _ hactive hstop hfail hhead hne hwake hprog _ hsa hslot hrec _ hd _ ha _ hown hbusy hbad _ hu hchecks hwait =>
    congrArg Host.Outcome.next
      (effAtHead_passed ⟨hactive, hstop, hfail, hhead, hne⟩ ⟨hsa, hd, ha, hown⟩ ⟨hwake, hprog, hslot, hrec, hbusy, hbad⟩ hu hchecks hwait)

end Sys2Proof.Machine
end

section
/-! Commands served for another module, the reports of parts sent away, and their timers (R172, R210, R618). -/

namespace Sys2Proof.Machine

variable {s t : State} {pk : Pkt} {r : JobRef} {p : Nat} {j : Job} {x : Part}

theorem ejected_some {op : Nat} {f : State → State} (h : fromEjection s op pk = some t) : ejected s op pk f = f t := by
  simp only [ejected, h]

/-! ### CMD (R172, R210) -/

theorem effCmd_served (hpoison : pk.poisoned = false) (hheld : cmdHeld t = false) (hnew : getJob t (.remote pk.src pk.ctag) = none) :
    effCmd pk t = reply (serveCmd (wake t) pk) pk stOK := by
  simp only [effCmd, hpoison, hheld, hnew, Option.isSome_none, Bool.false_eq_true, if_false]

theorem effCmd_repeated (hpoison : pk.poisoned = false) (hheld : cmdHeld t = false) (hknown : (getJob t (.remote pk.src pk.ctag)).isSome = true) :
    effCmd pk t = reply t pk stOK := by
  simp only [effCmd, hpoison, hheld, hknown, Bool.false_eq_true, if_false, if_true]

/-- A CMD packet of an ejection queue takes its effect, none of its command's descriptors lying in a region that is initialising. -/
theorem execCmd_ejected (h : fromEjection s opCMD pk = some t) (hbusy : anyBusy s (descReads s (pk.payload.take 64) (pk.payload.drop 64)) = false) :
    execCmd pk s = .next (effCmd pk t) :=
  congrArg Host.Outcome.next ((if_neg (Bool.eq_false_iff.mp hbusy)).trans (ejected_some h))

/-! ### RPT (R618) -/

/-- The last report of a part, without an error and without flags, ends the part's work. -/
theorem effReport_last {i : Nat} (hpart : reportedPart t pk.src pk.ctag = some (j, i, x)) (haux : pk.aux = [1, 0]) (herr : leAt pk.payload 0 4 = 0) :
    effReport t pk = markWorked (runProgress (putJob t (setPart j i
      { x with retired := leAt pk.payload 4 4, committed := leAt pk.payload 8 4, lastReport := t.clock })) j.ref) j.ref i := by
  simp [effReport, hpart, haux, herr, flagBad_zero, orFlags_zero]

theorem effRpt_accepted (hpoison : pk.poisoned = false) (hheld : cmdHeld t = false) : effRpt pk t = reply (effReport t pk) pk stOK := by
  simp only [effRpt, hpoison, hheld, Bool.false_eq_true, if_false]

/-! ### Timers (R618) -/

theorem effReportTimer_due {src ctag : Nat} (hj : getJob s (.remote src ctag) = some j) (hst : j.st = .running ∨ j.st = .held)
    (hdue : j.lastSent + rtoNs s / 2 ≤ s.clock) (hgo : src = myId s ∨ canRequest s = true) :
    effReportTimer s src ctag = reportBack (putJob s { j with lastSent := s.clock }) src ctag 0 (jobRetired j) (jobCommitted j) false 0 [] := by
  simp only [effReportTimer, hj]
  exact if_pos ⟨hst, hdue, hgo⟩

/-- Whether a part has been sent to another module, and no report of it has come for RTO (R618). -/
structure ReportMissing (s : State) (j : Job) (x : Part) : Prop where
  running : j.st = .running
  away : x.away = true
  sent : x.cursor = 1
  unanswered : x.st = .sent
  elsewhere : partModule s x ≠ myId s
  late : x.lastReport + rtoNs s ≤ s.clock

theorem effReportTimeout_missing (hj : getJob s r = some j) (hx : getPart j p = some x) (hmissing : ReportMissing s j x) :
    effReportTimeout s r p = markFaulted (reportErr s winTfr eREPLY_TIMEOUT (objOf 4 (partModule s x * 2 ^ 32 + j.tag)) (some (jobCmd s r))
      [j.tag, opCMD * 2 ^ 28 + partModule s x, 0, 0]) r p eREPLY_TIMEOUT := by
  obtain ⟨hrunning, haway, hsent, hst, helse, hlate⟩ := hmissing
  simp only [effReportTimeout, hj, hx]
  exact if_pos ⟨hrunning, haway, hsent, hst, helse, hlate⟩

end Sys2Proof.Machine
end

section
/-! Commands and reports of other modules. -/

namespace Sys2Proof.Machine

/-- Settles O4: a command packet new or repeated, the last report of a part, and the two timers; a report without flags raises none. -/
theorem servedCommands : Obligations.served_commands := by
  refine ⟨fun pk s t h hbusy hpoison hheld hnew => (execCmd_ejected h hbusy).trans (congrArg _ (effCmd_served hpoison hheld hnew)),
    fun pk s t h hbusy hpoison hheld hknown => (execCmd_ejected h hbusy).trans (congrArg _ (effCmd_repeated hpoison hheld hknown)),
    fun pk s t j i x h hpoison hheld haux hpart _ herr => congrArg Host.Outcome.next ?report,
    fun src ctag s j hj hst hdue hgo => congrArg Host.Outcome.next (effReportTimer_due hj hst hdue hgo),
    fun r p s j x hj hx hrunning haway hsent hst helse hlate =>
      congrArg Host.Outcome.next (effReportTimeout_missing hj hx ⟨hrunning, haway, hsent, hst, helse, hlate⟩)⟩
  case report => rw [ejected_some h, effRpt_accepted hpoison hheld, effReport_last hpart haux herr]

end Sys2Proof.Machine
end

section
/-! Parts of ELEMWISE, KERNEL, DMA_COPY, ACCUM_WRITE and FENCE: one equation for each outcome (R154, R164, R168–R171, R182, R204, R205, R534). -/

namespace Sys2Proof.Machine

variable {s t : State} {r : JobRef} {p c fam var : Nat} {j : Job} {x : Part} {k : CoreRun} {ks : List KAccess}

/-! ### ELEMWISE (R168, R182) -/

/-- The ELEMWISE commands with their operation codes and element functions. -/
def elemwiseRows : List ((JobRef → Nat → Instr) × Nat × (State → List Byte → Nat → EwRes)) :=
  [(.elemwiseAdd, 1, ewAdd), (.elemwiseSub, 2, ewSub), (.elemwiseMul, 3, ewMul), (.elemwiseDiv, 4, ewDiv), (.elemwiseSqrt, 5, ewSqrt),
   (.elemwiseFma, 6, ewFma), (.elemwiseMin, 8, ewMin), (.elemwiseMax, 9, ewMax), (.elemwiseMinnum, 10, ewMinnum), (.elemwiseMaxnum, 11, ewMaxnum),
   (.cmpq, 12, ewCmpq), (.cmps, 13, ewCmps), (.cvt, 16, ewCvt), (.cvtToInt, 17, ewToInt), (.cvtFromInt, 18, ewFromInt), (.roundint, 19, ewRoundint),
   (.augAdd, 24, ewAugAdd), (.augMul, 25, ewAugMul), (.classOf, 26, ewClass), (.copysign, 27, ewCopysign), (.neg, 28, ewNeg), (.abs, 29, ewAbs)]

/-- Each row is the shared effect at its operation code and element function. -/
theorem exec_elemwise : ∀ e ∈ elemwiseRows, ∀ r p s, exec (e.1 r p) s = .next (effElemwise s r p e.2.1 e.2.2) := by
  intro e he
  fin_cases he
  all_goals exact fun _ _ _ => rfl

/-- A part whose turn on its core it is, and whose units meet no uncorrectable word, has its work done. -/
theorem effElemwise_worked {op : Nat} {f : State → List Byte → Nat → EwRes} {q : State × Option Nat} (hfresh : freshOf s r p 2 0 = some (j, x))
    (hop : ewOp j.args = op) (hturn : coreTurn s r p x.floe = true)
    (hq : q = runUnits r (coreOf x.floe) j.args op f ((List.range (x.hi - x.lo)).map (x.lo + ·)) s) (hgood : q.2 = none) :
    effElemwise s r p op f = markWorked (runProgress q.1 r) r p := by
  obtain ⟨u, w⟩ := q
  obtain rfl : w = none := hgood
  have hruns : ¬ (ewOp j.args ≠ op ∨ (!coreTurn s r p x.floe) = true) := by simp [hop, hturn]
  simp only [effElemwise, hfresh, if_neg hruns, ← hq]

/-! ### A kernel (R154, R169, R170) -/

theorem effKernel_started (hfresh : freshOf s r p 2 0 = some (j, x)) (hop : ewOp j.args = 0x3F) (hcore : coreOf x.floe = c)
    (hturn : coreTurn s r p x.floe = true) (hfree : getCore s c = none) (hlimit : kRunLimit j.args ≠ 0) :
    effKernel s r p c = putCore (putJob s (setPart j p { x with st := .busy })) c
      { job := r, part := p, pc := w64 (kPc j.args), a0 := w64 (kArg j.args), a1 := p, a2 := j.parts.length, a3 := w64 (ewCount j.args),
        started := s.clock } := by
  have hstarts : ¬ (ewOp j.args ≠ 0x3F ∨ coreOf x.floe ≠ c ∨ (!coreTurn s r p x.floe) = true ∨ (getCore s c).isSome = true) := by
    simp [hop, hcore, hturn, hfree]
  simp only [effKernel, hfresh, if_neg hstarts]
  exact if_neg hlimit

/-- A kernel is on its core, and its accesses meet no region that is initialising (R210). -/
structure KernelFree (s : State) (c : Nat) (k : CoreRun) (ks : List KAccess) : Prop where
  running : getCore s c = some k
  free : ks.any (fun a => firnBusy s a.addr (accSize a)) = false

/-- A kernel all of whose accesses are made ends as its instruction says. -/
theorem kernelEnds_all (h : KernelFree s c k ks) (hacc : kernelAccesses c ks s = (t, .all)) (go : State → CoreRun → State) :
    kernelEnds s c ks go = go t k := by
  simp only [kernelEnds, h.running, h.free, hacc, Bool.false_eq_true, if_false]

/-- A kernel that reaches outside memory ends there, however it goes on. -/
theorem kernelEnds_access {a : KAccess} (h : KernelFree s c k ks) (hacc : kernelAccesses c ks s = (t, .access a)) (go : State → CoreRun → State) :
    kernelEnds s c ks go = kernelTraps t c k (accessCause a.kind) a.pc (w64 a.addr) := by
  simp only [kernelEnds, h.running, h.free, hacc, Bool.false_eq_true, if_false]

theorem kernelDone_live {pc : DWord} (hlive : partLive (trapCore s c causeUEcall pc 0) k.job k.part = some (j, x)) :
    kernelDone s c k pc = markWorked (runProgress (unitRetired (trapCore s c causeUEcall pc 0) k.job x.lo) k.job) k.job k.part := by
  simp only [kernelDone, hlive]

theorem effKernelTimeout_late {pc : DWord} (h : KernelFree s c k ks) (hacc : kernelAccesses c ks s = (t, .all))
    (hlate : k.started + kernelLimit s k ≤ s.clock) :
    effKernelTimeout s c pc ks = kernelFails (putHart (freeCore t c) c { getHart t c with mode := .m, mepc := pc }) c k
      eKERNEL_TIMEOUT 0xFFFFFFFF pc.toNat (getHart t c).mtval.toNat := by
  simp only [effKernelTimeout, h.running, if_neg (Nat.not_lt.mpr hlate)]
  exact kernelEnds_all h hacc _

/-! ### Copies and fences (R164, R171, R204, R205, R534) -/

theorem effLocalCopy_worked {q : State × Option Nat} (hfresh : freshOf s r p fam 0 = some (j, x))
    (hq : q = localUnits (fam == 4) r x.floe j.args (partUnits x) s) (hgood : q.2 = none) :
    effLocalCopy s r p fam = markWorked (runProgress q.1 r) r p := by
  obtain ⟨u, w⟩ := q
  obtain rfl : w = none := hgood
  simp only [effLocalCopy, hfresh, ← hq]

theorem effRemoteCopy_issued (hfresh : freshOf s r p fam var = some (j, x)) : effRemoteCopy s r p fam var = issueUnits (x.hi - x.lo) s r p := by
  simp only [effRemoteCopy, hfresh]

theorem effHostCopy_issued (hfresh : freshOf s r p 3 3 = some (j, x)) : effHostCopy s r p = issueHost (x.hi - x.lo) s r p := by
  simp only [effHostCopy, hfresh]

theorem effFence_worked (hfresh : freshOf s r p 0xB var = some (j, x)) :
    effFence s r p var = markWorked (if var = 1 then dropLines s x.floe else s) r p := by
  simp only [effFence, hfresh]

end Sys2Proof.Machine
end

section
/-! Parts of ELEMWISE and KERNEL, of copies and of fences. -/

namespace Sys2Proof.Machine

/-- Settles O7: every ELEMWISE row is the one effect at its code and element function; a kernel starts, and ends as its ECALL, exception or run limit says once
its accesses are made. -/
theorem elemwiseAndKernel : Obligations.elemwise_and_kernel := by
  refine ⟨fun e he r p s j x hfresh hop hturn q hq hgood =>
      (exec_elemwise e he r p s).trans (congrArg _ (effElemwise_worked hfresh hop hturn hq hgood)),
    fun r p c s j x hfresh hop hcore hturn hfree hlimit => congrArg Host.Outcome.next (effKernel_started hfresh hop hcore hturn hfree hlimit),
    fun c pc k ks s t j x hk hbusy hacc hlive => congrArg Host.Outcome.next ((kernelEnds_all ⟨hk, hbusy⟩ hacc _).trans (kernelDone_live hlive)),
    fun c pc a7 k ks s t hk hbusy hacc ha7 => congrArg Host.Outcome.next ((kernelEnds_all ⟨hk, hbusy⟩ hacc _).trans (if_neg ha7)),
    fun c mc me mt k ks s t hk hbusy hacc => congrArg Host.Outcome.next (kernelEnds_all ⟨hk, hbusy⟩ hacc _),
    fun c pc k ks a s t hk hbusy hacc => congrArg Host.Outcome.next (kernelEnds_access ⟨hk, hbusy⟩ hacc _),
    fun c pc k ks s t hk hbusy hacc hlate => congrArg Host.Outcome.next (effKernelTimeout_late ⟨hk, hbusy⟩ hacc hlate)⟩

/-- Settles O8: a local part works through its units, a remote or host part issues them, a fence has its work done at once. -/
theorem copyPart : Obligations.copy_part :=
  ⟨fun _ _ _ _ _ hfresh _ hq hgood => congrArg Host.Outcome.next (effLocalCopy_worked hfresh hq hgood),
   fun _ _ _ _ _ hfresh _ hq hgood => congrArg Host.Outcome.next (effLocalCopy_worked hfresh hq hgood),
   fun _ _ _ _ _ hfresh => congrArg Host.Outcome.next (effRemoteCopy_issued hfresh),
   fun _ _ _ _ _ hfresh => congrArg Host.Outcome.next (effRemoteCopy_issued hfresh),
   fun _ _ _ _ _ hfresh => congrArg Host.Outcome.next (effRemoteCopy_issued hfresh),
   fun _ _ _ _ _ hfresh => congrArg Host.Outcome.next (effHostCopy_issued hfresh),
   fun _ _ _ _ _ hfresh => congrArg Host.Outcome.next (effFence_worked hfresh),
   fun _ _ _ _ _ hfresh => congrArg Host.Outcome.next (effFence_worked hfresh)⟩

end Sys2Proof.Machine
end

section
/-! Background re-encoding: what a write into a block's slot leaves of memory (R202, R212, R214, R375). -/

namespace Sys2Proof.Machine

variable {s : State} {n b x : Nat}

theorem length_leBytes (v k : Nat) : (leBytes v k).length = k := by
  induction k generalizing v with
  | zero => rfl
  | succ k ih => exact congrArg (· + 1) (ih _)

/-! ### What a slot's write leaves of memory -/

/-- Curing code words is no write of memory (R202). -/
theorem rdByte_cureWords (s : State) (a k x : Nat) : rdByte (cureWords s a k) x = rdByte s x := rfl

/-- A block held for bursts is no write of memory (R375). -/
theorem rdByte_holdFor (s : State) (a k x : Nat) : rdByte (holdFor s a k) x = rdByte s x := rfl

/-- An address outside the two bytes of a block's map entry (R212). -/
def OutsideMapEntry (s : State) (n b x : Nat) : Prop := x < mapEntry s n b ∨ mapEntry s n b + 2 ≤ x

theorem rdByte_setMap_other (v : Nat) (hx : OutsideMapEntry s n b x) : rdByte (setMap s n b v) x = rdByte s x :=
  rdByte_putBytes_other s _ _ x (by rw [length_leBytes]; exact hx)

/-- The coded bytes of a slot stand beside memory: of memory only the map entry changes. -/
theorem rdByte_putSlot_other (e : Nat) (code : List Byte) (hx : OutsideMapEntry s n b x) : rdByte (putSlot s n b e code) x = rdByte s x := by
  unfold putSlot
  by_cases hvalid : mapValid e
  · simp only [if_pos hvalid]
    exact (rdByte_setMap_other e hx).trans (rdByte_cureWords s (blockAddr s n b) (if mapIsRaw e then 4096 else mapBytes e) x)
  · simp only [if_neg hvalid]
    exact rdByte_setMap_other e hx

/-- A block coded or kept raw reads as before. -/
theorem rdByte_codeSlot_other (hx : OutsideMapEntry s n b x) : rdByte (codeSlot s n b) x = rdByte s x := by
  simp only [codeSlot]
  split
  · exact rdByte_putSlot_other _ _ hx
  · exact rdByte_putSlot_other _ _ hx

theorem rdByte_encodeBlock_other (hx : OutsideMapEntry s n b x) : rdByte (encodeBlock s n b) x = rdByte s x := by
  unfold encodeBlock
  split
  · exact (rdByte_holdFor (codeSlot s n b) _ _ x).trans (rdByte_codeSlot_other hx)
  · rfl

/-! ### The step -/

theorem effReEncode_encodes (hon : frEnabled s n = true) (hbusy : frBusy s n = false) (hin : 4096 * b < frLen s n)
    (hcoded : domCoded s n (b / 64) = true) (hraw : mapIsRaw (mapOf s n b) = true) (hgood : badIn s (blockAddr s n b) 4096 = none) :
    effReEncode s n b = encodeBlock (correctWhere s (fetches s (blockAddr s n b) 4096)) n b := by
  simp [effReEncode, hon, hbusy, hin, hcoded, hraw, hgood]

/-- Settles O10: once the block's words have been read and corrected, its coding goes into its slot, which stands beside memory, and its map entry. -/
theorem reEncodeKeepsContent : Obligations.re_encode_keeps_content := by
  intro n b s hon hbusy hin hcoded hraw hgood u hu
  subst hu
  exact ⟨_, congrArg Host.Outcome.next (effReEncode_encodes hon hbusy hin hcoded hraw hgood), fun _ hx => rdByte_encodeBlock_other hx⟩

end Sys2Proof.Machine
end

section
/-! FIRN_PACK's outcomes, writes to windows, initialising and scrubbing: one equation for each (R202, R203, R209, R210, R212, R219–R221). -/

namespace Sys2Proof.Machine

variable {s : State} {r : JobRef} {p var k : Nat} {j : Job} {x : Part} {a : Nat} {bs : List Byte} {h : ScrubHit}

/-! ### FIRN_PACK (R219–R221) -/

/-- A fresh part of a FIRN_PACK whose range has domains, in a region that is not initialising (R210). -/
structure PackReady (s : State) (r : JobRef) (p var : Nat) (j : Job) (x : Part) : Prop where
  fresh : freshOf s r p 0xC var = some (j, x)
  domains : fpDomains j.args ≠ 0
  free : frBusy s (fpRegion s j.args) = false

/-- A variant that uses no image is done with its last domain: SEAL, RELEARN and DISCARD. -/
theorem effPack_domains {u : State × PackEnd} (hready : PackReady s r p var j x) (hnoExport : var ≠ 2) (hnoImport : var ≠ 3)
    (hu : u = packFrom r var (fpRegion s j.args) j.args (List.range (fpDomains j.args)) s 64) (hend : u.2 = .ok k) :
    effPack s r p var = markWorked (runProgress u.1 r) r p := by
  obtain ⟨t, e⟩ := u
  obtain rfl : e = .ok k := hend
  simp [effPack, hready.fresh, hready.domains, hready.free, hnoExport, hnoImport, ← hu, packFails]

/-- EXPORT writes the image's header after the records of its domains. -/
theorem effPack_exported {u : State × PackEnd} {v : State × Option Nat} (hready : PackReady s r p 2 j x) (hroom : 64 ≤ fpImageLen j.args)
    (hu : u = packFrom r 2 (fpRegion s j.args) j.args (List.range (fpDomains j.args)) s 64) (hend : u.2 = .ok k)
    (hv : v = storeBytes u.1 packSource (fpImage j.args) (imageHeader u.1 (fpRegion s j.args) j.args k)) (hstored : v.2 = none) :
    effPack s r p 2 = markWorked (runProgress v.1 r) r p := by
  obtain ⟨t, e⟩ := u
  obtain rfl : e = .ok k := hend
  obtain ⟨w, o⟩ := v
  obtain rfl : o = none := hstored
  simp [effPack, hready.fresh, hready.domains, hready.free, Nat.not_lt.mpr hroom, ← hu, ← hv, packFails]

/-- IMPORT goes through its domains once the image's header has been read and matches. -/
theorem effPack_imported {u : State × PackEnd} (hready : PackReady s r p 3 j x) (hheader : headerOk s (fpRegion s j.args) j.args = true)
    (hgood : badIn s (fpImage j.args) 64 = none)
    (hu : u = packFrom r 3 (fpRegion s j.args) j.args (List.range (fpDomains j.args)) (noteRead s packSource (fpImage j.args) 64) 64)
    (hend : u.2 = .ok k) :
    effPack s r p 3 = markWorked (runProgress u.1 r) r p := by
  obtain ⟨t, e⟩ := u
  obtain rfl : e = .ok k := hend
  simp [effPack, hready.fresh, hready.domains, hready.free, hheader, hgood, ← hu, packFails]

/-- A range without a domain is no work (R14); the header that an IMPORT names must match all the same (R17). -/
theorem effPack_empty (hfresh : freshOf s r p 0xC var = some (j, x)) (hempty : fpDomains j.args = 0)
    (himage : var = 3 → badIn s (fpImage j.args) 64 = none ∧ headerOk s (fpRegion s j.args) j.args = true) :
    effPack s r p var = markWorked (runProgress s r) r p := by
  by_cases hvar : var = 3
  · obtain ⟨hgood, hheader⟩ := himage hvar
    subst hvar
    simp [effPack, hfresh, hempty, hgood, hheader, packFails]
  · simp [effPack, hfresh, hempty, hvar, packFails]

/-- The FIRN_PACK commands with their variants. -/
def packRows : List ((JobRef → Nat → Instr) × Nat) := [(.firnSeal, 0), (.firnRelearn, 1), (.firnExport, 2), (.firnImport, 3), (.firnDiscard, 4)]

/-- Each row is the shared effect at its variant. -/
theorem exec_pack : ∀ e ∈ packRows, ∀ r p s, exec (e.1 r p) s = .next (effPack s r p e.2) := by
  intro e he
  fin_cases he
  all_goals exact fun _ _ _ => rfl

/-! ### The controllers' own events (R202, R203, R209, R210) -/

theorem effFirnWrite_stored {t : State} (htouch : firnTouches s a bs.length = true) (hmapped : rangeMapped s.order a bs.length = true)
    (hfree : firnBusy s a bs.length = false) (hstore : storeBytes s packSource a bs = (t, none)) : effFirnWrite s a bs = t := by
  simp [effFirnWrite, htouch, hmapped, hfree, storeNoted, hstore]

theorem effFirnInit_busy {n : Nat} (hon : frEnabled s n = true) (hbusy : frBusy s n = true) : effFirnInit s n = initRegion s n := by
  simp [effFirnInit, hon, hbusy]

/-- A word that the scrub can correct is read and counted. -/
theorem wordHit_corrected (hcorrectable : h.correctable = true) (hfound : h.found = true) :
    wordHit s h = corrected (scrubAt s (codeWord s.order h.addr)) (codeWord s.order h.addr) := by
  simp [wordHit, hcorrectable, hfound]

/-- A word that the scrub cannot correct is uncorrectable from then on, and reported. -/
theorem wordHit_uncorrectable {w : Nat} {u : State} (hcorrectable : h.correctable = false) (hfound : h.found = true)
    (hw : w = codeWord s.order h.addr) (hu : u = scrubAt s w) :
    wordHit s h = reportUe
      { u with badWords := u.badWords.filter (fun p => p.word != w) ++ [⟨w, h.cellsFailed, h.onDie⟩], weak := u.weak.filter (· != w) } w 0 none := by
  subst hw hu
  simp [wordHit, hcorrectable, hfound]

/-- The patrol scrub of a controller that is present and enabled meets one word of its stack. -/
theorem execHbmScrub_single (hon : rbit s (wreg (winMem k) oMEM_CTRL) 0 = true) (hpresent : winPresent s.order (winMem k) = true)
    (hin : inHbm s.order h.addr = true) (hctl : hbmCtl s.order h.addr = k) : execHbmScrub k [h] s = .next (wordHit s h) := by
  simp [execHbmScrub, hon, hpresent, hbmHit, hin, hctl, ok]

theorem execStoreScrub_single (hin : (inCstore h.addr || inEstore h.addr) = true) : execStoreScrub [h] s = .next (wordHit s h) :=
  congrArg Host.Outcome.next (if_pos hin)

end Sys2Proof.Machine
end

section
/-! FIRN_PACK's rows and the events of the codec. -/

namespace Sys2Proof.Machine

/-- Settles O9: a variant goes through its domains, EXPORT and IMPORT with the image's header; a window is written through the one store operation, a region
initialised; a scrubbed word is corrected, or reported. -/
theorem firnRows : Obligations.firn_rows := by
  refine ⟨fun r p k s j x hfresh hdoms hbusy u hu hend =>
      congrArg Host.Outcome.next (effPack_domains ⟨hfresh, hdoms, hbusy⟩ (by decide) (by decide) hu hend),
    fun r p k s j x hfresh hdoms hbusy u hu hend =>
      congrArg Host.Outcome.next (effPack_domains ⟨hfresh, hdoms, hbusy⟩ (by decide) (by decide) hu hend),
    fun r p k s j x hfresh hdoms hbusy hroom u hu hend v hv hstored =>
      congrArg Host.Outcome.next (effPack_exported ⟨hfresh, hdoms, hbusy⟩ hroom hu hend hv hstored),
    fun r p k s j x hfresh hdoms hbusy hheader hgood u hu hend =>
      congrArg Host.Outcome.next (effPack_imported ⟨hfresh, hdoms, hbusy⟩ hheader hgood hu hend),
    fun r p k s j x hfresh hdoms hbusy u hu hend =>
      congrArg Host.Outcome.next (effPack_domains ⟨hfresh, hdoms, hbusy⟩ (by decide) (by decide) hu hend),
    fun c hc r p s j x hfresh hempty himage => (exec_pack c hc r p s).trans (congrArg _ (effPack_empty hfresh hempty himage)),
    fun a bs s t htouch hmapped hfree hstore => congrArg Host.Outcome.next (effFirnWrite_stored htouch hmapped hfree hstore),
    fun n s hon hbusy => congrArg Host.Outcome.next (effFirnInit_busy hon hbusy),
    fun k h s hon hpresent hin hctl hcorrectable hfound =>
      (execHbmScrub_single hon hpresent hin hctl).trans (congrArg _ (wordHit_corrected hcorrectable hfound)),
    fun k h s hon hpresent hin hctl hcorrectable hfound w hw u hu =>
      (execHbmScrub_single hon hpresent hin hctl).trans (congrArg _ (wordHit_uncorrectable hcorrectable hfound hw hu)),
    fun h s hin hcorrectable hfound => (execStoreScrub_single hin).trans (congrArg _ (wordHit_corrected hcorrectable hfound))⟩

end Sys2Proof.Machine
end

section
/-! Where a packet goes from this module's injection or from an input channel, the endpoints' answers, and the ends of requests (R204, R319, R320, R322,
R326, R328–R330). -/

namespace Sys2Proof.Machine

variable {s t : State} {pk q : Pkt} {p o : Nat} {k : Slot}

/-! ### Where the router puts a packet (R326, R339) -/

/-- A packet of this module, of its class, that routes to an UP port is put on its way there. -/
theorem placed_own_port {w : Worm} {head : Pkt → List Byte} (hclass : pktClass w.pk.op = some w.pk.cls) (hroute : routeVia s w.pk = (.port o, q))
    (hup : portUp s o = true) : placed s none w head = addWorm s { w with out := o, pk := q, data := head q } := by
  simp [placed, hclass, hroute, hup]

/-- So is one of an input channel, which is counted as forwarded. -/
theorem placed_in_port {w : Worm} {head : Pkt → List Byte} (hclass : pktClass w.pk.op = some w.pk.cls) (hroute : route s (some p) w.pk = (.port o, q))
    (hup : portUp s o = true) : placed s (some p) w head = addWorm (rinc64 s rTFR_FWD_LO 1) { w with out := o, pk := q, data := head q } := by
  simp [placed, hclass, hroute, hup]

/-- A packet of its class for this module goes to the ejection queue. -/
theorem placed_eject {w : Worm} {head : Pkt → List Byte} (hclass : pktClass w.pk.op = some w.pk.cls) (hdest : w.pk.dest = myId s) :
    placed s (some p) w head = addWorm (rinc64 s rTFR_EJECT_LO 1) { w with out := 8 } := by
  simp [placed, hclass, route, hdest]

/-- The oldest packet that this module injected for its destination, class and epoch, with the place that it takes in the router. -/
theorem routeOwn_oldest {x : Pkt} {u : State} (hfind : s.inj.find? (fun y => y.dest == pk.dest && y.cls == pk.cls && y.epoch == pk.epoch) = some x)
    (hsame : sameWire x { pk with poisoned := false } = true) (hu : u = { s with inj := s.inj.erase x }) :
    routeOwn s pk = placed u none
      { inp := 8, ivc := 0, out := 9, pk := x, len := x.payload.length, data := pktBytes x, left := (pktBytes x).length, born := x.born,
        spoiled := if pk.poisoned then [0] else [] } pktBytes := by
  simp [routeOwn, hfind, hsame, hu]

/-- The header b stands at the front of the channel of pk at port p, where no packet is on its way through, and is the one of pk. -/
structure HeadAt (s : State) (p : Nat) (pk : Pkt) (b : List Byte) : Prop where
  free : wormOf s p (vcOf pk) = none
  front : b = (flitBytes (streamOf (getL s p) (vcOf pk))).take 32
  whole : b.length = 32
  len : hdrLen b = pk.payload.length
  same : sameWire (hdrOf b) { pk with payload := [], poisoned := false } = true

/-- A head at the front of its channel is taken from its buffer, with the place that its packet takes in the router. -/
theorem routeIn_head {b : List Byte} {x : List Byte × Bool × State} (hhead : HeadAt s p pk b) (hx : x = takeStream s p (vcOf pk) 32) :
    routeIn s p pk = placed x.2.2 (some p)
      { inp := p, ivc := vcOf pk, out := 9, pk := hdrOf b, len := hdrLen b, data := b, badData := x.2.1, left := 32 + hdrLen b,
        born := ((streamOf (getL s p) (vcOf pk)).head?).elim s.clock (·.born),
        spoiled := if !pk.poisoned then [] else if pk.aux = [] then [0] else pk.aux } (hdrOnward b) := by
  obtain ⟨hfree, hfront, hwhole, hlen, hsame⟩ := hhead
  have htaken : ¬ ((wormOf s p (vcOf pk)).isSome = true ∨ b.length < 32 ∨ hdrLen b ≠ pk.payload.length ∨
      (!sameWire (hdrOf b) { pk with payload := [], poisoned := false }) = true) := by
    simp [hfree, hwhole, hlen, hsame]
  simp only [routeIn, ← hfront, ← hx, if_neg htaken]

/-- A packet of this module once placed: packets move on, and the fabric shows it. -/
theorem exec_route_own {u : State} (h : routeOwn s pk = u) : exec (.route none pk) s = .next (refreshFabric (flow u)) :=
  congrArg (fun u => Host.Outcome.next (refreshFabric (flow u))) h

theorem exec_route_in {u : State} (h : routeIn s p pk = u) : exec (.route (some p) pk) s = .next (refreshFabric (flow u)) :=
  congrArg (fun u => Host.Outcome.next (refreshFabric (flow u))) h

/-! ### Endpoints (R319, R321, R322) -/

/-- A request that nothing refuses is served, for the port by which it came. -/
theorem endpoint_served {op n : Nat} {serve : Nat → State → State} (htake : fromEjection s op pk = some t) (hpoison : pk.poisoned = false)
    (hstatus : endpointStatus t pk.addr.toNat n = stOK) (hfree : firnBusy t pk.addr.toNat n = false) :
    endpoint s op pk n serve = serve (cameBy s pk) t := by
  simp [endpoint, htake, hpoison, hstatus, hfree, stOK, stADDR_RANGE]

theorem serveAcc_added {r : State × Option Nat} (hplain : firnTouches s pk.addr.toNat pk.payload.length = false)
    (hr : r = accumulate s (.port p) pk.addr.toNat pk.payload) (hgood : r.2 = none) : serveAcc pk p s = reply r.1 pk stOK := by
  obtain ⟨u, w⟩ := r
  obtain rfl : w = none := hgood
  simp [serveAcc, hplain, ← hr, answerStore]

theorem serveRd_read {n : Nat} (hn : n = min 8192 pk.arg.toNat) (hgood : badIn s pk.addr.toNat n = none) :
    serveRd pk p s = reply (noteRead s (.port p) pk.addr.toNat n) pk stOK (rdBytes s pk.addr.toNat n) := by
  subst hn
  simp only [serveRd, hgood]

/-! ### Replies and time-outs (R328–R330) -/

/-- An OK reply of the module asked, in time, to the request of its slot. -/
structure ReplyOk (s : State) (pk : Pkt) (k : Slot) : Prop where
  slot : getSlot s pk.rtag = some k
  ctag : pk.ctag = k.pk.ctag
  src : pk.src = k.pk.dest
  inTime : slotExpired s k = false
  status : pk.status = stOK

theorem onReply_ok (hok : ReplyOk s pk k) : onReply s pk = pump (requestOk (dropSlot s pk.rtag) k pk.payload) := by
  simp [onReply, hok.slot, hok.ctag, hok.src, hok.inTime, hok.status]

theorem effReply_ok (hpoison : pk.poisoned = false) (hok : ReplyOk s pk k) :
    effReply pk s = refreshFabric (pump (requestOk (dropSlot s pk.rtag) k pk.payload)) := by
  simp [effReply, hpoison, onReply_ok hok]

theorem effReplyTimeout_expired {n : Nat} (hslot : getSlot s n = some k) (hlate : slotExpired s k = true) :
    effReplyTimeout s n = refreshFabric (pump (failSlot s k)) := by
  simp [effReplyTimeout, hslot, hlate, expireSlot]

end Sys2Proof.Machine
end

section
/-! Routing, endpoints and replies. -/

namespace Sys2Proof.Machine

/-- Settles O20: a packet of this module or at the front of a channel is placed by its route; an endpoint serves what nothing refuses; a reply or a time-out
ends its request; the list's expiry and QUIESCE are their own effects (R332, R334). -/
theorem routerAndEndpoints : Obligations.router_and_endpoints := by
  refine ⟨fun pk x q o s hfind hsame hclass u hu hroute hup =>
      exec_route_own ((routeOwn_oldest hfind hsame hu).trans (placed_own_port hclass hroute hup)),
    fun p pk s hfree b hb hwhole hlen hsame hclass x hx hdest =>
      exec_route_in ((routeIn_head ⟨hfree, hb, hwhole, hlen, hsame⟩ hx).trans (placed_eject hclass hdest)),
    fun p o pk q s hfree b hb hwhole hlen hsame hclass x hx hroute hup =>
      exec_route_in ((routeIn_head ⟨hfree, hb, hwhole, hlen, hsame⟩ hx).trans (placed_in_port hclass hroute hup)),
    fun pk s t htake hpoison hstatus hfree hplain q hq hgood =>
      congrArg Host.Outcome.next ((endpoint_served htake hpoison hstatus hfree).trans (serveAcc_added hplain hq hgood)),
    fun pk s t htake hpoison n hn hstatus hfree hgood => congrArg Host.Outcome.next ?read,
    fun pk s t k htake hpoison hslot hctag hsrc htime hstatus =>
      congrArg Host.Outcome.next ((ejected_some htake).trans (effReply_ok hpoison ⟨hslot, hctag, hsrc, htime, hstatus⟩)),
    fun pk s t k htake hpoison hslot hctag hsrc htime hstatus =>
      congrArg Host.Outcome.next ((ejected_some htake).trans (effReply_ok hpoison ⟨hslot, hctag, hsrc, htime, hstatus⟩)),
    fun n s k hslot hlate => congrArg Host.Outcome.next (effReplyTimeout_expired hslot hlate),
    fun a b s => rfl,
    fun v s => rfl⟩
  case read => exact (endpoint_served htake hpoison (hn ▸ hstatus) (hn ▸ hfree)).trans (serveRd_read hn hgood)

end Sys2Proof.Machine
end

section
/-! UPD's commands and the groups they set aside: one equation for each outcome (R248, R253, R257, R263, R383, R394). -/

namespace Sys2Proof.Machine

variable {s : State} {r : JobRef} {p k fam var : Nat} {j : Job} {u : UpdRun} {x : UpdGrp}

/-! ### Admission (R383, R394) -/

/-- A part that nothing is before is admitted as it reaches UPD. -/
theorem effUpd_admitted {y : Part} (hfresh : freshOf s r p fam var = some (j, y)) (hcommit : commitPending s winUpd = false) (hempty : s.updRuns = []) :
    effUpd s r p fam var =
      beginRun (setPartSt { s with updRuns := [⟨r, p, true, List.replicate (uCount j.args) {}, 0, false⟩] } r p .busy) r := by
  have hroom : (admittedRuns s).length < 4 := by simp [admittedRuns, hempty]
  simp only [effUpd, hfresh, hcommit, hroom, hempty, decide_true, List.all_nil, Bool.and_self, List.nil_append, Bool.false_eq_true, if_false, if_true]

/-- The first waiting command is admitted where fewer than four are. -/
theorem effAdmit_waiting {w : UpdRun} (hroom : (admittedRuns s).length < 4) (hcommit : commitPending s winUpd = false)
    (hwaits : s.updRuns.find? (fun r => !r.admitted) = some w) :
    effAdmit s = beginRun (putRun s { w with admitted := true }) w.job := by
  have hadmits : (admittedRuns s).length < 4 ∧ (!commitPending s winUpd) = true := ⟨hroom, by simp [hcommit]⟩
  simp only [effAdmit, if_pos hadmits, hwaits]

/-! ### The log replayed before a pending commit (R248, R263) -/

theorem execIdleLogReplay_entry {l : LogEntry} {ls : List LogEntry} (hcommit : commitPending s winUpd = true) (hidle : admittedRuns s = [])
    (hlog : s.updLog = l :: ls) : execIdleLogReplay s = .next (refreshUpd (replayEntry1 s l)) := by
  have hreplays : commitPending s winUpd = true ∧ admittedRuns s = [] := ⟨hcommit, hidle⟩
  simp only [execIdleLogReplay, if_pos hreplays, hlog, ok]

/-! ### A group whose generation slot is not retired (R253) -/

/-- A STEP_COMMIT's group, taken up and set aside until its slot is retired. -/
structure AwaitsRetirement (s : State) (r : JobRef) (k : Nat) (j : Job) (u : UpdRun) (x : UpdGrp) : Prop where
  named : runGrp s r k = some (j, u, x)
  aside : x.st = .aside
  noReplay : x.replay = false
  commits : dFam j.desc = 8
  unretired : x.genOk = false

/-- The slot retired, a group whose state is at hand is committed. -/
theorem effRetired_met (h : AwaitsRetirement s r k j u x) (hstate : x.t2Ok = true)
    (hmet : retireMet s (grpRun s j k x) (uStep j.args) = true) :
    effRetired s r k =
      settleUpd (commitGo (setGrp (setMarks s (grpRun s j k x) (uStep j.args)) r k { x with genOk := true }) r k) := by
  simp only [effRetired, h.named, h.aside, h.noReplay, h.commits, h.unretired, hstate, hmet, Bool.not_false, and_self, if_true]

theorem effGenTimeout_late (h : AwaitsRetirement s r k j u x) (hlate : x.since + us (uGenTimeout j.args) ≤ s.clock) :
    effGenTimeout s r k = settleUpd (grpFail s r k eGEN_TIMEOUT (uStep j.args - (grpRun s j k x).ngen)
      ((grpRun s j k x).rdctr ((grpRun s j k x).slotOf (uStep j.args)))) := by
  simp only [effGenTimeout, h.named, h.aside, h.noReplay, h.commits, h.unretired, hlate, Bool.not_false, and_self, if_true]

/-! ### A group whose T2 transfer is under way (R257) -/

/-- A group set aside all of whose transfer's requests are made and answered. -/
structure FetchComplete (s : State) (r : JobRef) (k : Nat) (j : Job) (u : UpdRun) (x : UpdGrp) : Prop where
  named : runGrp s r k = some (j, u, x)
  allSent : x.todo = []
  allAnswered : x.left = 0
  noReplay : x.replay = false
  aside : x.st = .aside

/-- Nothing of a complete transfer is awaited any more. -/
theorem FetchComplete.notAwaited (h : FetchComplete s r k j u x) : (!x.todo.isEmpty || x.left != 0 || x.replay) = false := by
  simp [h.allSent, h.allAnswered, h.noReplay]

/-- No uncorrectable word stops the work on a group. -/
theorem grpWork_sound {g : Grp} (go : State → State) (hsound : grpStop s j g = none) :
    grpWork s r k j g go = go (noteReads s updSource (g.reads s j.desc)) := by
  simp only [grpWork, hsound]

/-- An INGEST goes on with the state it fetched. -/
theorem effT2Done_ingest (h : FetchComplete s r k j u x) (hfam : dFam j.desc = 6) (hsound : grpStop s j (grpRun s j k x) = none) :
    effT2Done s r k = settleUpd (ingestGo (noteReads s updSource ((grpRun s j k x).reads s j.desc)) r k (grpRun s j k x) (uStep j.args)
      (bufRd x.buf)) := by
  have hingests : x.st = .aside ∧ dFam j.desc = 6 := ⟨h.aside, hfam⟩
  simp only [effT2Done, h.named, h.notAwaited, if_pos hingests, grpWork_sound _ hsound, Bool.false_eq_true, if_false]

/-- A STEP_COMMIT whose slot is retired goes on with the state it fetched. -/
theorem effT2Done_commit (h : FetchComplete s r k j u x) (hfam : dFam j.desc = 8) (hfetching : x.t2Ok = false) (hretired : x.genOk = true) :
    effT2Done s r k = settleUpd (commitGo (setGrp s r k { x with t2Ok := true }) r k) := by
  have hcommits : dFam j.desc ≠ 6 := by simp [hfam]
  have hfetched : x.st = .aside ∧ (!x.t2Ok) = true := ⟨h.aside, by simp [hfetching]⟩
  simp only [effT2Done, h.named, h.notAwaited, hcommits, and_false, if_pos hfetched, hretired, Bool.false_eq_true, if_false, if_true]

theorem effTierTimeout_late (hnamed : runGrp s r k = some (j, u, x)) (hawaited : x.left ≠ 0) (haside : x.st = .aside)
    (hlate : x.issued + us (uTierTimeout j.args) ≤ s.clock) : effTierTimeout s r k = settleUpd (tierFail s r k) := by
  have hfails : ((!x.todo.isEmpty || x.left != 0 || x.replay) && (x.st == .aside || x.st == .writing) &&
      decide (x.issued + us (uTierTimeout j.args) ≤ s.clock)) = true := by simp [hawaited, haside, hlate]
  simp only [effTierTimeout, hnamed, if_pos hfails]

end Sys2Proof.Machine
end

section
/-! UPD's commands and the groups set aside. -/

namespace Sys2Proof.Machine

/-- Settles O11: each of the four commands is admitted alike, as is the one that waits; UPD_ABORT sets its flag (R258), and a pending commit has the log
replayed (R263); a group set aside goes on, or fails, by the one event it waits for. -/
theorem updRows : Obligations.upd_rows := by
  refine ⟨fun r p s j y hfresh hcommit hempty => congrArg Host.Outcome.next (effUpd_admitted hfresh hcommit hempty),
    fun r p s j y hfresh hcommit hempty => congrArg Host.Outcome.next (effUpd_admitted hfresh hcommit hempty),
    fun r p s j y hfresh hcommit hempty => congrArg Host.Outcome.next (effUpd_admitted hfresh hcommit hempty),
    fun r p s j y hfresh hcommit hempty => congrArg Host.Outcome.next (effUpd_admitted hfresh hcommit hempty),
    fun s w hroom hcommit hwaits => congrArg Host.Outcome.next (effAdmit_waiting hroom hcommit hwaits),
    fun v s hset => congrArg Host.Outcome.next (if_pos hset),
    fun s l ls hcommit hidle hlog => execIdleLogReplay_entry hcommit hidle hlog,
    fun r k s j u x hnamed haside hreplay hfam hgen hstate hmet =>
      congrArg Host.Outcome.next (effRetired_met ⟨hnamed, haside, hreplay, hfam, hgen⟩ hstate hmet),
    fun r k s j u x hnamed haside hreplay hfam hgen hlate g hg => ?genTimeout,
    fun r k s j u x hnamed hsent hleft hreplay haside hfam g hg hsound => ?ingest,
    fun r k s j u x hnamed hsent hleft hreplay haside hfam hfetching hretired =>
      congrArg Host.Outcome.next (effT2Done_commit ⟨hnamed, hsent, hleft, hreplay, haside⟩ hfam hfetching hretired),
    fun r k s j u x hnamed hawaited haside hlate => congrArg Host.Outcome.next (effTierTimeout_late hnamed hawaited haside hlate)⟩
  case genTimeout =>
    subst hg
    exact congrArg Host.Outcome.next (effGenTimeout_late ⟨hnamed, haside, hreplay, hfam, hgen⟩ hlate)
  case ingest =>
    subst hg
    exact congrArg Host.Outcome.next (effT2Done_ingest ⟨hnamed, hsent, hleft, hreplay, haside⟩ hfam hsound)

end Sys2Proof.Machine
end

section
/-! Counters: the wait test, and what an addition does to the counter and to the waits registered on it (R268, R270, R272, R276). -/

namespace Sys2Proof.Machine

variable {s t : State} {i n : Nat}

/-- A difference below 2⁶³ is one whose sign bit is clear. -/
theorem waitMet_iff (c t : DWord) : waitMet c t = true ↔ 0 ≤ (c - t).toInt := by
  have hsign : 2 ^ 63 ≤ (c - t).toNat ↔ (c - t).toInt < 0 :=
    decide_eq_decide.mp ((BitVec.msb_eq_decide (c - t)).symm.trans BitVec.msb_eq_toInt)
  rw [waitMet, decide_eq_true_iff, ← not_le, hsign, not_lt]

theorem getC_congr (h : t.counters = s.counters) (i : Nat) : getC t i = getC s i := congrArg (fun m => smGet counterDefault m i) h

/-- A verdict given to a waiter leaves every counter and every registered wait. -/
theorem counters_giveVerdict (s : State) (r : WaitRec) (err : Nat) : (giveVerdict s r err).counters = s.counters :=
  giveVerdict_keeps (Keep.frame_counters _ rfl) rfl

theorem waits_giveVerdict (s : State) (r : WaitRec) (err : Nat) : (giveVerdict s r err).waits = s.waits :=
  giveVerdict_keeps (Keep.frame_waits _ rfl) rfl

theorem counters_satisfy (s : State) (i : Nat) : (satisfy s i).counters = s.counters := satisfy_keeps (Keep.frame_counters _ rfl) rfl

/-- The waits that the counter's value satisfies end, and the others stay: giving the verdicts registers and withdraws none. -/
theorem waits_satisfy (s : State) (i : Nat) :
    (satisfy s i).waits = s.waits.filter (fun r => !(r.ctr == i && waitMet (getC s i).val r.thresh)) :=
  foldl_keeps (P := fun u => u.waits = s.waits.filter (fun r => !(r.ctr == i && waitMet (getC s i).val r.thresh))) rfl
    (fun u r hu => (waits_giveVerdict u r 0).trans hu)

/-- A LIVE counter with an amount added, counted as one signal. -/
def counterRaised (s : State) (i n : Nat) : State :=
  rinc64 (putC s i { getC s i with val := (getC s i).val + w64 n }) rSYN_SIGNALS_LO 1

theorem getC_counterRaised (s : State) (i n : Nat) : getC (counterRaised s i n) i = { getC s i with val := (getC s i).val + w64 n } := by
  have hregs : (counterRaised s i n).counters = (putC s i { getC s i with val := (getC s i).val + w64 n }).counters :=
    rinc64_keeps (Keep.frame_counters _ rfl) rfl
  rw [getC_congr hregs, getC_putC, if_pos rfl]

theorem waits_counterRaised (s : State) (i n : Nat) : (counterRaised s i n).waits = s.waits := rinc64_keeps (Keep.frame_waits _ rfl) rfl

theorem addCounter_live (h : (getC s i).st = .live) : addCounter s i n = satisfy (counterRaised s i n) i := by
  simp only [addCounter, h, counterRaised]

theorem fetchAdd_live (h : (getC s i).st = .live) : fetchAdd s i n = (0, some (getC s i).val, satisfy (counterRaised s i n) i) := by
  simp only [fetchAdd, h, counterRaised]

theorem fetchAdd_refused (h : (getC s i).st ≠ .live) :
    fetchAdd s i n = (if (getC s i).st = .free then eCTR_FREE else eOWNER_LOST, none, s) := by
  cases hst : (getC s i).st with
  | live => exact absurd hst h
  | free => simp only [fetchAdd, hst, if_true]
  | broken => simp only [fetchAdd, hst, reduceCtorEq, if_false]

theorem val_addCounter_live (h : (getC s i).st = .live) : (getC (addCounter s i n) i).val = (getC s i).val + w64 n := by
  rw [addCounter_live h, getC_congr (counters_satisfy _ i), getC_counterRaised]

theorem waits_addCounter_live (h : (getC s i).st = .live) :
    (addCounter s i n).waits = s.waits.filter (fun r => !(r.ctr == i && waitMet ((getC s i).val + w64 n) r.thresh)) := by
  rw [addCounter_live h, waits_satisfy, getC_counterRaised, waits_counterRaised]

end Sys2Proof.Machine
end

section
/-! The wait test, and an addition to a counter. -/

namespace Sys2Proof.Machine

/-- Settles O13: the test reads the sign bit of the difference. -/
theorem waitTest : Obligations.wait_test := waitMet_iff

/-- Settles O14: the value is raised first, the waits it satisfies are taken off the list, and the verdicts given to their waiters change neither. -/
theorem oneAdditionSatisfiesAll : Obligations.one_addition_satisfies_all := by
  rintro s i n hlive t rfl
  exact ⟨val_addCounter_live hlive, waits_addCounter_live hlive⟩

end Sys2Proof.Machine
end

section
/-! Parts of WAIT and SIGNAL, and a floe pre-empted: one equation for each outcome (R275–R277, R279, R280, R282, R283). -/

namespace Sys2Proof.Machine

variable {s : State} {r : JobRef} {p i : Nat} {j : Job} {x : Part} {away : Bool} {a : List Byte} {v : Word}

/-! ### WAIT (R279, R280) -/

theorem effWait_fresh (h : freshOf s r p 9 0 = some (j, x)) : effWait s r p = markWorked s r p := by
  simp only [effWait, h]

/-- A ticket of this module is the value before the addition. -/
theorem effTicket_here (h : freshOf s r p 9 1 = some (j, x)) (hhere : tkModule j.args = myId s) (hlive : (getC s (tkIndex j.args)).st = .live) :
    effTicket s r p = ticketTaken (fetchAdd s (tkIndex j.args) 1).2.2 r p (getC s (tkIndex j.args)).val := by
  simp only [effTicket, h, hhere, if_true, fetchAdd_live hlive]

theorem effTicket_elsewhere (h : freshOf s r p 9 1 = some (j, x)) (helse : tkModule j.args ≠ myId s) (hgo : canRequest s = true) :
    effTicket s r p = request (putJob s (setPart j p { x with st := .busy }))
      { op := opFADD, dest := tkModule j.args, addr := w64 (tkIndex j.args), arg := 1, ctag := j.tag } (.ticket r p) := by
  simp only [effTicket, h, if_neg helse, if_pos hgo]

/-! ### SIGNAL (R275–R277) -/

/-- Where no entry names another module nothing is awaited: the entries are added, and the work is done. -/
theorem effSignalAdd_here (h : freshOf s r p 0xA 0 = some (j, x)) (hhere : ∀ i ∈ sgEntries j.args, sgModule j.args i = myId s) :
    effSignalAdd s r p = markWorked ((sgEntries j.args).foldl (addEntry r p j.args (dAcked j.desc) j.tag)
      (putJob s (setPart j p { x with st := .busy, unacked := 0 }))) r p := by
  have haway : (sgEntries j.args).filter (fun i => sgModule j.args i != myId s) = [] :=
    List.filter_eq_nil_iff.mpr fun i hi => by simp [hhere i hi]
  simp only [effSignalAdd, h, haway, ne_eq, not_true_eq_false, false_and, if_false, if_true, List.length_nil]

theorem effFetchAdd_here {q : State × Option Nat} (h : freshOf s r p 0xA 1 = some (j, x)) (hcount : sgCount j.args ≠ 0)
    (hhere : sgModule j.args 0 = myId s) (hlive : (getC s (sgIndex j.args 0)).st = .live)
    (hq : q = writeResult (fetchAdd s (sgIndex j.args 0) (sgVal j.args 0 % 2 ^ 32)).2.2 (sgResult j.args) (getC s (sgIndex j.args 0)).val)
    (hgood : q.2 = none) : effFetchAdd s r p = markWorked q.1 r p := by
  obtain ⟨u, w⟩ := q
  obtain rfl : w = none := hgood
  rw [fetchAdd_live hlive] at hq
  simp only [effFetchAdd, h, if_neg hcount, hhere, if_true, fetchAdd_live hlive, ← hq]

/-- An ASSIGN or a RELEASE none of whose entries fails. -/
theorem effEntries_applied {var : Nat} {f : Bool → State → List Byte → Nat → Except Nat State} {q : State × Option (Nat × Nat)}
    (h : freshOf s r p 0xA var = some (j, x)) (hq : q = entriesFrom (f (fromAway s r)) j.args (sgEntries j.args) s) (hgood : q.2 = none) :
    effEntries s r p var f = markWorked q.1 r p := by
  obtain ⟨u, w⟩ := q
  obtain rfl : w = none := hgood
  simp only [effEntries, h, ← hq]

theorem assignEntry_assigned (hvalid : floeValid s (sgAux a i) = true) (hhere : floeHere s (sgAux a i) = true)
    (haway : (away && (floeOf (sgAux a i)).isLocal) = false) (hdead : (getC s (sgIndex a i)).st ≠ .live)
    (hquota : ownedBy s (w32 (localFloe s (sgAux a i))) < quotaOf (floeOf (sgAux a i)).level) :
    assignEntry away s a i = .ok (putC s (sgIndex a i) { st := .live, val := w64 (sgVal a i), owner := w32 (localFloe s (sgAux a i)) }) := by
  have howner : (!floeValid s (sgAux a i) || !floeHere s (sgAux a i) || (away && (floeOf (sgAux a i)).isLocal)) = false := by
    rw [hvalid, hhere, haway]; rfl
  simp only [assignEntry, howner, Bool.false_eq_true, if_false, if_neg hdead, if_neg (Nat.not_le.mpr hquota)]

theorem releaseEntry_released (h : (getC s (sgIndex a i)).st ≠ .free) :
    releaseEntry away s a i =
      .ok (failWaits (putC s (sgIndex a i) { st := .free, val := (getC s (sgIndex a i)).val, owner := 0 }) (sgIndex a i) eCTR_FREE) :=
  if_neg h

/-! ### Pre-emption (R282, R283) -/

theorem effPreempt_here (hvalid : floeValid s v.toNat = true) (hhere : floeHere s v.toNat = true) :
    effPreempt s v = breakCounters (((List.range queueCount).filter (fun q => floeUnder (floeOf (qFloe s q)) (floeOf v.toNat))).foldl preemptQueue s)
      (floeOf v.toNat) := by
  simp only [effPreempt, hvalid, hhere, Bool.not_true, Bool.or_self, Bool.false_eq_true, if_false]

end Sys2Proof.Machine
end

section
/-! Waits, signals and pre-emption. -/

namespace Sys2Proof.Machine

/-- Settles O15: each row has its one outcome on a fresh part, each entry of ASSIGN and RELEASE its own, and SYN_PREEMPT the floe's. -/
theorem waitsSignalsPreemption : Obligations.waits_signals_preemption :=
  ⟨fun _ _ _ _ _ h => congrArg Host.Outcome.next (effWait_fresh h),
   fun _ _ _ _ _ h hhere hlive => congrArg Host.Outcome.next (effTicket_here h hhere hlive),
   fun _ _ _ _ _ h helse hgo => congrArg Host.Outcome.next (effTicket_elsewhere h helse hgo),
   fun _ _ _ _ _ h hhere => congrArg Host.Outcome.next (effSignalAdd_here h hhere),
   fun _ _ _ _ _ h hcount hhere hlive _ hq hgood => congrArg Host.Outcome.next (effFetchAdd_here h hcount hhere hlive hq hgood),
   fun _ _ _ _ _ h _ hq hgood => congrArg Host.Outcome.next (effEntries_applied h hq hgood),
   fun _ _ _ _ _ h _ hq hgood => congrArg Host.Outcome.next (effEntries_applied h hq hgood),
   fun _ _ _ _ hvalid hhere haway hdead hquota => assignEntry_assigned hvalid hhere haway hdead hquota,
   fun _ _ _ _ h => releaseEntry_released h,
   fun _ _ hvalid hhere => congrArg Host.Outcome.next (effPreempt_here hvalid hhere)⟩

end Sys2Proof.Machine
end

section
/-! Signals, fetch-adds and waits of other modules: one equation for each outcome (R270, R276, R286–R289, R332, R382). -/

namespace Sys2Proof.Machine

variable {s t : State} {pk : Pkt} {i wid left timeout : Nat} {c : DWord} {who : Waiter} {r : WaitRec} {w : RemoteWait}

/-! ### SIG and FADD (R270, R276, R332) -/

/-- An ordered signal passes where its source is not on the list of poisoned packets and the list is not full. -/
theorem effSig_added {u : State} (hpoison : pk.poisoned = false) (hup : synHeld t = false)
    (hlist : pk.ordered = false ∨ (onPoisonList t pk = false ∧ t.poisoned.length ≠ 64)) (hi : i = pk.addr.toNat % 65536)
    (hu : u = addCounter t i pk.arg.toNat) :
    effSig pk t = reply (if i = 65535 then { u with checkSigs := u.checkSigs ++ [pk.src] } else u) pk stOK := by
  have hunlisted : (pk.ordered && onPoisonList t pk) = false := by
    rcases hlist with hfree | ⟨hlist, _⟩
    · rw [hfree, Bool.false_and]
    · rw [hlist, Bool.and_false]
  have hroom : (pk.ordered && t.poisoned.length == 64) = false := by
    rcases hlist with hfree | ⟨_, hlen⟩
    · rw [hfree, Bool.false_and]
    · rw [beq_eq_false_iff_ne.mpr hlen, Bool.and_false]
  simp only [effSig, hpoison, hup, hunlisted, hroom, ← hi, ← hu, Bool.false_eq_true, if_false]

theorem effFadd_added (hpoison : pk.poisoned = false) (hup : synHeld t = false) (hlive : (getC t (pk.addr.toNat % 65536)).st = .live) :
    effFadd pk t = reply (fetchAdd t (pk.addr.toNat % 65536) pk.arg.toNat).2.2 pk stOK (le64 (getC t (pk.addr.toNat % 65536)).val.toNat) := by
  simp only [effFadd, hpoison, hup, fetchAdd_live hlive, Bool.false_eq_true, if_false]

theorem effFadd_refused (hpoison : pk.poisoned = false) (hup : synHeld t = false) (hdead : (getC t (pk.addr.toNat % 65536)).st ≠ .live) :
    effFadd pk t = reply t pk (if (getC t (pk.addr.toNat % 65536)).st = .free then stCTR_FREE else stOWNER_LOST) := by
  have hcode : ((if (getC t (pk.addr.toNat % 65536)).st = .free then eCTR_FREE else eOWNER_LOST) = eCTR_FREE) ↔
      (getC t (pk.addr.toNat % 65536)).st = .free := Ne.ite_eq_left_iff (by decide)
  simp only [effFadd, hpoison, hup, fetchAdd_refused hdead, hcode, Bool.false_eq_true, if_false]

/-! ### Registrations (R286, R289, R382) -/

theorem ctrErr_live {k : Counter} (h : k.st = .live) : ctrErr k = 0 := by
  simp only [ctrErr, h]

theorem register_met (hlive : (getC s i).st = .live) (hmet : waitMet (getC s i).val c = true) :
    register s wid i c left timeout who = (.met, dropRefused s wid who) := by
  simp only [register, ctrErr_live hlive, hmet, ne_eq, not_true_eq_false, if_false, if_true]

theorem register_kept (hlive : (getC s i).st = .live) (hunmet : waitMet (getC s i).val c = false) (htime : left ≠ 0)
    (hroom : waitRoom s wid who = true) :
    register s wid i c left timeout who =
      (.kept, { dropRefused s wid who with
        waits := (dropRefused s wid who).waits ++ [⟨wid, i, c, (dropRefused s wid who).clock + left, timeout, who⟩] }) := by
  simp only [register, ctrErr_live hlive, hunmet, if_neg htime, hroom, ne_eq, not_true_eq_false, Bool.false_eq_true, if_false, if_true]

theorem getC_dropRefused (s : State) (wid : Nat) (who : Waiter) (i : Nat) : getC (dropRefused s wid who) i = getC s i := by
  cases who <;> rfl

/-- A packet of a management subtype at the front of its ejection queue takes that subtype's effect. -/
theorem mgtPacket_taken {sub : Nat} {f : State → State} (htake : fromEjection s opMGT pk = some t) (hsub : pk.arg = w32 sub) :
    mgtPacket s pk sub f = f t := (if_pos hsub).trans (ejected_some htake)

theorem effRegistration_met (hpoison : pk.poisoned = false) (hi : i = pk.addr.toNat % 65536) (hlive : (getC t i).st = .live)
    (hmet : waitMet (getC t i).val (w64 (leAt pk.payload 8 8)) = true) :
    effRegistration pk t = sendVerdict (dropRefused t (leAt pk.payload 0 8) (.remote pk.src 0 0 0 0)) pk.src (leAt pk.payload 0 8) (getC t i) 0 := by
  simp only [effRegistration, hpoison, ← hi, register_met hlive hmet, getC_dropRefused, Bool.false_eq_true, if_false]

theorem effRegistration_kept {u : State} (hpoison : pk.poisoned = false) (hi : i = pk.addr.toNat % 65536) (hlive : (getC t i).st = .live)
    (hunmet : waitMet (getC t i).val (w64 (leAt pk.payload 8 8)) = false) (htime : leAt pk.payload 0x10 8 ≠ 0)
    (hroom : waitRoom t (leAt pk.payload 0 8) (.remote pk.src 0 0 0 0) = true)
    (hu : u = dropRefused t (leAt pk.payload 0 8) (.remote pk.src 0 0 0 0)) :
    effRegistration pk t = { u with waits := u.waits ++ [⟨leAt pk.payload 0 8, i, w64 (leAt pk.payload 8 8), u.clock + leAt pk.payload 0x10 8,
      leAt pk.payload 0x18 8, .remote pk.src 0 0 0 0⟩] } := by
  simp only [effRegistration, hpoison, ← hi, register_kept hlive hunmet htime hroom, ← hu, Bool.false_eq_true, if_false]

/-! ### Verdicts, time-outs and refusals (R286–R289) -/

theorem effVerdict_given (hpoison : pk.poisoned = false) (hwait : getRwait t (leAt pk.payload 0 8) = some w) (hfrom : w.dest = pk.src)
    (hgiven : leAt pk.payload 0x18 8 ≠ mgtRefused) :
    effVerdict pk t = endRemoteWait t w (leAt pk.payload 0x18 8) (leAt pk.payload 8 8) (leAt pk.payload 0x10 8) false := by
  simp only [effVerdict, hpoison, hwait, hfrom, if_neg hgiven, ne_eq, not_true_eq_false, Bool.false_eq_true, if_false]

theorem effWaitExpiry_due (h : s.waits.find? (fun r => r.wid == wid && decide (r.deadline ≤ s.clock)) = some r) :
    effWaitExpiry s wid = giveVerdict (rinc { s with waits := s.waits.erase r } rSYN_TIMEOUTS 1) r eWAIT_TIMEOUT := by
  simp only [effWaitExpiry, h]

theorem effBackstop_due (hwait : getRwait s wid = some w) (hlate : w.backstop ≤ s.clock) :
    effBackstop s wid = endRemoteWait (rinc s rSYN_BACKSTOP 1) w eWAIT_TIMEOUT w.val.toNat w.cst true := by
  simp only [effBackstop, hwait, if_pos hlate]

/-- A refused wait on another module's counter is sent again, with the time that remains. -/
theorem effRetry_elsewhere {u : State} (hwait : getRwait s wid = some w) (hrefused : w.refused = true) (hdue : w.tried + us 1 ≤ s.clock)
    (helse : w.dest ≠ myId s)
    (hu : u = injectRaw s { op := opMGT, cls := clsMGT, dest := w.dest, addr := w64 w.ctr, arg := w32 mgtRegister,
                            payload := mgtBody wid w.thresh.toNat (w.backstop - us 10 - s.clock) w.timeout }) :
    effRetry s wid = setWaiter (retried u wid) w.who (.registered wid) := by
  have hrepeats : ¬ ((!w.refused) = true ∨ s.clock < w.tried + us 1) := by
    rw [hrefused]
    exact not_or.mpr ⟨Bool.false_ne_true, Nat.not_lt.mpr hdue⟩
  simp only [effRetry, hwait, if_neg hrepeats, if_neg helse, ← hu]

end Sys2Proof.Machine
end

section
/-! Packets of the counters, and the timers of waits on other modules. -/

namespace Sys2Proof.Machine

/-- Settles O16: a packet taken from its ejection queue has its one outcome, and so has each timer that is due. -/
theorem counterPackets : Obligations.counter_packets :=
  ⟨fun _ _ _ htake hpoison hup hlist _ hi _ hu =>
      congrArg Host.Outcome.next ((ejected_some htake).trans (effSig_added hpoison hup hlist hi hu)),
   fun _ _ _ htake hpoison hup hlive => congrArg Host.Outcome.next ((ejected_some htake).trans (effFadd_added hpoison hup hlive)),
   fun _ _ _ htake hpoison hup hdead => congrArg Host.Outcome.next ((ejected_some htake).trans (effFadd_refused hpoison hup hdead)),
   fun _ _ _ htake hpoison hsub _ hi hlive hmet =>
      congrArg Host.Outcome.next ((mgtPacket_taken htake hsub).trans (effRegistration_met hpoison hi hlive hmet)),
   fun _ _ _ htake hpoison hsub _ hi hlive hunmet htime hroom _ hu =>
      congrArg Host.Outcome.next ((mgtPacket_taken htake hsub).trans (effRegistration_kept hpoison hi hlive hunmet htime hroom hu)),
   fun _ _ _ _ htake hpoison hsub hwait hfrom hgiven =>
      congrArg Host.Outcome.next ((mgtPacket_taken htake hsub).trans (effVerdict_given hpoison hwait hfrom hgiven)),
   fun _ _ _ h => congrArg Host.Outcome.next (effWaitExpiry_due h),
   fun _ _ _ hwait hlate => congrArg Host.Outcome.next (effBackstop_due hwait hlate),
   fun _ _ _ hwait hrefused hdue helse _ hu => congrArg Host.Outcome.next (effRetry_elsewhere hwait hrefused hdue helse hu)⟩

end Sys2Proof.Machine
end

section
/-! Mailboxes, locks and heartbeats: one equation for each outcome (R300, R301, R303, R304, R306). -/

namespace Sys2Proof.Machine

variable {s t : State} {o a m : Nat} {v : Word}

/-! ### The management core in reset (R506) -/

theorem byAgent_running (h : hartHeld s o = false) : byAgent s o t = t := if_neg (Bool.eq_false_iff.mp h)

theorem byAgent_held (h : hartHeld s o = true) : byAgent s o t = s := if_pos h

theorem byAgent_self : byAgent s o s = s := ite_self s

/-! ### Mailboxes (R300, R301) -/

theorem effMbxPost_stored {lo : Word} {u : State} (hempty : mbxFull s m = false)
    (hlo : lo = (latchOf s.wrLatch o winMbx (0x1000 + 0x20 * m)).getD (rget s (mbxReg m rMBX_DATA_LO)))
    (hu : u = rput (rput { s with wrLatch := latchDrop s.wrLatch o winMbx } (mbxReg m rMBX_DATA_LO) lo) (mbxReg m rMBX_DATA_HI) v) :
    effMbxPost s o m v = mbxNotify (rputF (rputF u (mbxReg m rMBX_STAT) 15 8 o) (mbxReg m rMBX_STAT) 0 0 1) m o := by
  have hroom : mbxFull { s with wrLatch := latchDrop s.wrLatch o winMbx } m = false := hempty
  simp only [effMbxPost, hroom, ← hlo, ← hu, Bool.false_eq_true, if_false]

theorem effMbxPost_overrun (hfull : mbxFull s m = true) :
    effMbxPost s o m v = rputBit { s with wrLatch := latchDrop s.wrLatch o winMbx } (mbxReg m rMBX_STAT) 1 true := by
  have hfull' : mbxFull { s with wrLatch := latchDrop s.wrLatch o winMbx } m = true := hfull
  simp only [effMbxPost, hfull', if_true]

/-! ### Locks (R303) -/

theorem effLockAcquire_taken (h : rn s (mbxReg m rMBX_LOCK) = 0) : effLockAcquire s a m = rputN { s with resp := [0] } (mbxReg m rMBX_LOCK) a := by
  have hzero : w32 0 = 0 := rfl
  simp only [effLockAcquire, h, hzero, if_true]

theorem effLockAcquire_busy (h : rn s (mbxReg m rMBX_LOCK) ≠ 0) : effLockAcquire s a m = { s with resp := [w32 (rn s (mbxReg m rMBX_LOCK))] } :=
  if_neg h

/-- A lock is released by a write of 0 alone. -/
theorem effLockRelease_ignored (h : v ≠ 0) : effLockRelease s a m v = s := if_pos (.inl h)

theorem effLockRelease_held (h : rn s (mbxReg m rMBX_LOCK) ≠ 0) :
    effLockRelease s a m 0 = if rn s (mbxReg m rMBX_LOCK) = a then rputN s (mbxReg m rMBX_LOCK) 0 else rinc s rMBX_LOCK_REJ 1 :=
  if_neg (not_or.mpr ⟨not_not_intro rfl, h⟩)

/-- The second force register releases locks 32 to 63, for a management core. -/
theorem effMbxForce_second (hcore : a = 109 ∨ a = 110) :
    effMbxForce s a 0x84 v = (List.range 32).foldl (fun s i => if wbit v i then rputN s (mbxReg (32 + i) rMBX_LOCK) 0 else s) s :=
  if_pos hcore

end Sys2Proof.Machine
end

section
/-! Mailboxes, locks and heartbeats. -/

namespace Sys2Proof.Machine

/-- Settles O17: an agent that runs has the access's one outcome, and the core held in reset none. -/
theorem mailboxes : Obligations.mailboxes := by
  refine ⟨fun o m v s hrun hempty lo hlo u hu => congrArg Host.Outcome.next ((byAgent_running hrun).trans (effMbxPost_stored hempty hlo hu)),
    fun o m v s hrun hfull => congrArg Host.Outcome.next ((byAgent_running hrun).trans (effMbxPost_overrun hfull)),
    fun o m s hrun u hu => ?receive,
    fun a m s hrun hfree => congrArg Host.Outcome.next ((byAgent_running hrun).trans (effLockAcquire_taken hfree)),
    fun a m s hrun hbusy => congrArg Host.Outcome.next ((byAgent_running hrun).trans (effLockAcquire_busy hbusy)),
    fun a m s hrun hbusy hown => congrArg Host.Outcome.next ((byAgent_running hrun).trans ((effLockRelease_held hbusy).trans (if_pos hown))),
    fun a m s hrun hbusy hother => congrArg Host.Outcome.next ((byAgent_running hrun).trans ((effLockRelease_held hbusy).trans (if_neg hother))),
    fun a m v s hv => congrArg Host.Outcome.next ((congrArg (byAgent s a) (effLockRelease_ignored hv)).trans byAgent_self),
    fun a v s hrun hcore =>
      congrArg Host.Outcome.next ((byAgent_running hrun).trans ((if_pos (.inr rfl)).trans (effMbxForce_second hcore))),
    fun a v s hrun => congrArg Host.Outcome.next ((byAgent_running hrun).trans (if_pos rfl)),
    fun a b v s hother => congrArg Host.Outcome.next ((congrArg (byAgent s b) (if_neg hother)).trans byAgent_self),
    fun o m off v s hheld c hc => ?held⟩
  case receive =>
    subst hu
    exact congrArg Host.Outcome.next (byAgent_running hrun)
  case held =>
    simp only [List.mem_cons, List.not_mem_nil, or_false] at hc
    rcases hc with rfl | rfl | rfl | rfl | rfl | rfl
    all_goals exact congrArg Host.Outcome.next (byAgent_held hheld)

end Sys2Proof.Machine
end

section
/-! What a router sends on (R326): the one case in which the routing function names a port. -/

namespace Sys2Proof.Machine

variable {s : State} {i : Option Nat} {pk q : Pkt} {p : Nat}

/-- A packet that `route` sends to port p as q. -/
structure SentOn (s : State) (i : Option Nat) (pk : Pkt) (p : Nat) (q : Pkt) : Prop where
  elsewhere : pk.dest ≠ myId s
  live : pk.ttl ≠ 0
  sameBut : ∃ dlv, q = { pk with ttl := pk.ttl - 1, dlv := dlv }
  onceAcross : ∀ k, i = some k → p = (k ^^^ 1) → pk.dlv = true → crossesDateline s p = false

/-- Whether a packet that came by port k leaves by the port opposite: it stays in its dimension. -/
def goesStraight (i : Option Nat) (out : Nat) : Bool :=
  match i with
  | none => false
  | some k => out == (k ^^^ 1)

/-- Whether a packet of an input would turn into a dimension that does not come later in the order of its epoch. -/
def turnsBack (s : State) (i : Option Nat) (epoch : Bool) (out : Nat) : Bool :=
  match i with
  | none => false
  | some k => !goesStraight i out && decide (rankOf (orderOf s (b2n epoch)) (out / 2) ≤ rankOf (orderOf s (b2n epoch)) (k / 2))

/-- A live packet for another module, of which the tables name a port: the order check, then the dateline. -/
theorem route_of_tableOut {out : Nat} (helsewhere : pk.dest ≠ myId s) (hlive : pk.ttl ≠ 0)
    (hout : tableOut s (b2n pk.epoch) pk.dest = .port out) :
    route s i pk =
      if turnsBack s i pk.epoch out then (.drop, { pk with ttl := pk.ttl - 1 })
      else if crossesDateline s out then
        if goesStraight i out && pk.dlv then (.drop, { pk with ttl := pk.ttl - 1 })
        else (.port out, { pk with ttl := pk.ttl - 1, dlv := true })
      else (.port out, { pk with ttl := pk.ttl - 1, dlv := goesStraight i out && pk.dlv }) := by
  have hkept : (goesStraight i out && pk.dlv) = if goesStraight i out then pk.dlv else false := by cases goesStraight i out <;> rfl
  simp only [route, if_neg helsewhere, if_neg hlive, hout, hkept]
  cases i <;> rfl

/-- A packet for this module, one without TTL, or one of which the tables name no port is not sent to one. -/
theorem tableOut_of_route (h : route s i pk = (.port p, q)) :
    pk.dest ≠ myId s ∧ pk.ttl ≠ 0 ∧ ∃ out, tableOut s (b2n pk.epoch) pk.dest = .port out := by
  by_cases hdest : pk.dest = myId s
  · simp [route, hdest] at h
  · by_cases httl : pk.ttl = 0
    · simp [route, hdest, httl] at h
    · refine ⟨hdest, httl, ?_⟩
      cases hout : tableOut s (b2n pk.epoch) pk.dest with
      | eject => simp [route, hdest, httl, hout] at h
      | drop => simp [route, hdest, httl, hout] at h
      | port out => exact ⟨out, rfl⟩

/-- The tables name the port; the order check and the dateline let it stand. -/
theorem sentOn_of_route (h : route s i pk = (.port p, q)) : SentOn s i pk p q := by
  obtain ⟨helsewhere, hlive, out, hout⟩ := tableOut_of_route h
  rw [route_of_tableOut helsewhere hlive hout] at h
  split at h
  case isTrue => simp at h
  case isFalse =>
  split at h
  case isTrue hcrosses =>
    split at h
    case isTrue => simp at h
    case isFalse hfirst =>
      obtain ⟨hp, hq⟩ := Prod.mk.inj h
      obtain rfl := RouteTo.port.inj hp
      refine ⟨helsewhere, hlive, ⟨true, hq.symm⟩, fun k hk hstraight hdlv => ?_⟩
      subst hk
      exact absurd (by simp [goesStraight, hstraight, hdlv]) hfirst
  case isFalse hstays =>
    obtain ⟨hp, hq⟩ := Prod.mk.inj h
    obtain rfl := RouteTo.port.inj hp
    exact ⟨helsewhere, hlive, ⟨_, hq.symm⟩, fun _ _ _ _ => Bool.eq_false_iff.mpr hstays⟩

/-- Settles O19: what `route` says of a packet that it sends to a port. -/
theorem routeGoesOn : Obligations.route_goes_on := by
  intro s i pk q p h
  obtain ⟨helsewhere, hlive, ⟨dlv, rfl⟩, hdateline⟩ := sentOn_of_route h
  exact ⟨helsewhere, Nat.sub_add_cancel (Nat.pos_of_ne_zero hlive), rfl, hdateline⟩

end Sys2Proof.Machine
end

section
/-! A write of another module at its endpoint (R319, R321): its bytes stored and its answer, or its count and its answer where it is poisoned. -/

namespace Sys2Proof.Machine

variable {s t : State} {pk : Pkt} {p : Nat}

/-! ### Replies (R322, R326, R334) -/

/-- What the router adds to a packet of this module comes from its registers and the clock alone. -/
theorem dressed_congr (hregs : t.regs = s.regs) (hclock : t.clock = s.clock) (pk : Pkt) : dressed t pk = dressed s pk := by
  simp only [dressed, injEpoch, myId, rn, rbit, rfld, rget_congr hregs, hclock]

theorem quiesced_congr (hregs : t.regs = s.regs) (cls : Nat) : quiesced t cls = quiesced s cls :=
  congrArg (fun v => wbit v cls) (rget_congr hregs rTFR_QUIESCE)

theorem rinc_regs_congr (hregs : t.regs = s.regs) (off n : Nat) : (rinc t off n).regs = (rinc s off n).regs := by
  simp only [rinc, rputN, rput, rn, rget, hregs]

/-- The count of poisoned requests is not the register that quiesces. -/
theorem quiesced_rinc_poison (s : State) (n cls : Nat) : quiesced (rinc s rTFR_POISON n) cls = quiesced s cls :=
  congrArg (fun v => wbit v cls) (rget_rput_other s _ (by decide))

/-- A reply is no write of memory, whether it enters the router or is held. -/
theorem reply_memory (s : State) (pk : Pkt) (status : Nat) (payload : List Byte) :
    (reply s pk status payload).mem = s.mem ∧ (reply s pk status payload).undef = s.undef := by
  unfold reply injectRaw
  split
  · exact ⟨rfl, rfl⟩
  · exact ⟨rfl, rfl⟩

theorem rdByte_reply (s : State) (pk : Pkt) (status : Nat) (payload : List Byte) (x : Nat) : rdByte (reply s pk status payload) x = rdByte s x := by
  obtain ⟨hmem, hundef⟩ := reply_memory s pk status payload
  rw [rdByte_eq, rdByte_eq, hmem, hundef]

/-- While replies are not quiesced, the answer to a write enters the router at once. -/
theorem reply_wr_inj {status : Nat} (hop : pk.op = opWR) (hopen : quiesced s clsRSP = false) :
    (reply s pk status).inj =
      s.inj ++ [dressed s { op := opACK, cls := clsRSP, dest := pk.src, rtag := pk.rtag, ctag := pk.ctag, status := status }] := by
  have hpkt : replyPkt pk status [] = { op := opACK, cls := clsRSP, dest := pk.src, rtag := pk.rtag, ctag := pk.ctag, status := status } := by
    simp [replyPkt, hop, opWR, opRD, opFADD]
  rw [reply, hpkt, injectRaw, if_neg (Bool.eq_false_iff.mp hopen)]

/-! ### What neither an ejection nor an access to memory changes -/

/-- t holds the memory, the registers, the clock and the injected packets of s. -/
structure SameOutside (s t : State) : Prop where
  regs : t.regs = s.regs
  clock : t.clock = s.clock
  mem : t.mem = s.mem
  undef : t.undef = s.undef
  inj : t.inj = s.inj

theorem SameOutside.rdByte (h : SameOutside s t) (x : Nat) : rdByte t x = rdByte s x := by
  rw [rdByte_eq, rdByte_eq, h.mem, h.undef]

theorem sameOutside_ejection {op : Nat} (h : fromEjection s op pk = some t) : SameOutside s t := by
  obtain ⟨_, q, rfl⟩ := fromEjection_some h
  exact ⟨rfl, rfl, rfl, rfl, rfl⟩

theorem sameOutside_access (s : State) (fetch : Bool) (m : MemSource) (a n : Nat) : SameOutside s (accessMem s fetch m a n) := by
  obtain ⟨c, b, hgrants⟩ := accessMem_granted s fetch m a n
  rw [hgrants]
  exact ⟨rfl, rfl, rfl, rfl, rfl⟩

/-! ### The write served (R319), and the write poisoned (R321, R332) -/

/-- In sound memory outside Firn windows the whole payload is stored as it stands, and answered OK. -/
theorem serveWr_sound (hsound : memSound s = true) (hweak : s.weak = []) (hplain : firnTouches s pk.addr.toNat pk.payload.length = false) :
    serveWr pk p s =
      reply (putBytes (accessMem s false (.port p) pk.addr.toNat pk.payload.length) pk.addr.toNat pk.payload) pk stOK := by
  rw [serveWr, storeBytes_sound hsound hplain hweak, answerStore]

theorem endpoint_poisoned {op n : Nat} {serve : Nat → State → State} (htake : fromEjection s op pk = some t) (hpoison : pk.poisoned = true) :
    endpoint s op pk n serve = poisonedReq t pk := by
  simp [endpoint, htake, hpoison]

/-- A poisoned request is counted, and listed where the list has room, before its answer. -/
theorem poisonedReq_answers (s : State) (pk : Pkt) : ∃ u, poisonedReq s pk = reply u pk stPOISONED ∧ SameOutside (rinc s rTFR_POISON 1) u := by
  unfold poisonedReq
  dsimp only
  split
  · exact ⟨_, rfl, ⟨rfl, rfl, rfl, rfl, rfl⟩⟩
  · exact ⟨_, rfl, ⟨rfl, rfl, rfl, rfl, rfl⟩⟩

end Sys2Proof.Machine
end

section
/-! A write of another module. -/

namespace Sys2Proof.Machine

/-- Settles O21: served, it is a plain write of its payload, then its answer; poisoned, it is its count and its answer. -/
theorem remoteWriteStores : Obligations.remote_write_stores := by
  refine ⟨fun pk s t htake hpoison hstatus hfree hsound hweak hplain hopen => ?served, fun pk s t htake hpoison hopen => ?poisoned⟩
  case served =>
    have htaken := sameOutside_ejection htake
    have hgranted := sameOutside_access t false (.port (cameBy s pk)) pk.addr.toNat pk.payload.length
    have hrun := (endpoint_served htake hpoison hstatus hfree).trans (serveWr_sound (p := cameBy s pk) hsound hweak hplain)
    refine ⟨_, congrArg Host.Outcome.next hrun, fun i hi => ?_, fun x hx => ?_, ?_⟩
    · rw [rdByte_reply]
      exact rdByte_putBytes _ _ _ i hi
    · rw [rdByte_reply, rdByte_putBytes_other _ _ _ _ hx, hgranted.rdByte, htaken.rdByte]
    · have hregs := (putBytes_regs _ pk.addr.toNat pk.payload).trans hgranted.regs
      rw [reply_wr_inj (fromEjection_some htake).1 ((quiesced_congr hregs _).trans hopen), putBytes_inj, hgranted.inj, htaken.inj,
        dressed_congr (hregs.trans htaken.regs) (hgranted.clock.trans htaken.clock)]
  case poisoned =>
    have htaken := sameOutside_ejection htake
    obtain ⟨u, hanswer, hcounted⟩ := poisonedReq_answers t pk
    have hrun := (endpoint_poisoned (n := pk.payload.length) (serve := serveWr pk) htake hpoison).trans hanswer
    obtain ⟨hmem, hundef⟩ := reply_memory u pk stPOISONED []
    refine ⟨_, congrArg Host.Outcome.next hrun, hmem.trans (hcounted.mem.trans htaken.mem), hundef.trans (hcounted.undef.trans htaken.undef), ?_⟩
    rw [reply_wr_inj (fromEjection_some htake).1 ((quiesced_congr hcounted.regs _).trans ((quiesced_rinc_poison t 1 clsRSP).trans hopen)),
      dressed_congr (hcounted.regs.trans (rinc_regs_congr htaken.regs rTFR_POISON 1)) (hcounted.clock.trans htaken.clock),
      hcounted.inj.trans htaken.inj]

end Sys2Proof.Machine
end

section
/-! A packet read back from the bytes that carry it (R318). -/

namespace Sys2Proof.Machine

variable {pk : Pkt}

/-! ### Little-endian numbers at their offsets (R10) -/

theorem bytesLe_leBytes (v n : Nat) : leAt.bytesLe (leBytes v n) = v % 256 ^ n := by
  induction n generalizing v with
  | zero => simp [leBytes, leAt.bytesLe, Nat.mod_one]
  | succ n ih =>
    rw [leBytes, leAt.bytesLe, ih, Nat.pow_succ', Nat.mod_mul, BitVec.toNat_ofNat]

/-- Numbers, each with its width in bytes, one after another. -/
def wordsBytes (ws : List (Nat × Nat)) : List Byte := ws.flatMap (fun w => leBytes w.1 w.2)

/-- The number that stands first. -/
theorem leAt_leBytes (v n : Nat) (r : List Byte) : leAt (leBytes v n ++ r) 0 n = v % 256 ^ n := by
  rw [leAt, List.drop_zero, List.take_left' (length_leBytes v n), bytesLe_leBytes]

/-- An offset beyond the number that stands first is an offset into the rest. -/
theorem leAt_beyond (v m : Nat) (r : List Byte) (o n : Nat) : leAt (leBytes v m ++ r) (m + o) n = leAt r o n := by
  have hdrop : (leBytes v m ++ r).drop (m + o) = r.drop o := by
    simpa only [length_leBytes] using List.drop_length_add_append (l₁ := leBytes v m) (l₂ := r) (i := o)
  rw [leAt, hdrop, leAt]

/-- Each number reads, cut to its width, at the sum of the widths before it. -/
theorem leAt_wordsBytes (r : List Byte) : ∀ (ws : List (Nat × Nat)) (k : Nat) (h : k < ws.length),
    leAt (wordsBytes ws ++ r) (((ws.take k).map (·.2)).sum) ws[k].2 = ws[k].1 % 256 ^ ws[k].2
  | w :: ws, 0, _ => by
    rw [wordsBytes, List.flatMap_cons, List.append_assoc]
    exact leAt_leBytes w.1 w.2 _
  | w :: ws, k + 1, h => by
    rw [wordsBytes, List.flatMap_cons, List.append_assoc, List.take_succ_cons, List.map_cons, List.sum_cons, leAt_beyond]
    exact leAt_wordsBytes r ws k (Nat.lt_of_succ_lt_succ h)

/-! ### The header's words -/

/-- The words of a packet's header, with their widths in bytes. -/
def hdrWords (pk : Pkt) : List (Nat × Nat) :=
  [(hdrWord0 pk, 4), (pk.dest, 4), (pk.src, 4), (pk.rtag * 65536 + pk.ctag, 4), (pk.addr.toNat, 8), (pk.arg.toNat, 4), (pk.status, 4)]

theorem pktBytes_eq (pk : Pkt) : pktBytes pk = wordsBytes (hdrWords pk) ++ pk.payload := by
  simp only [pktBytes, hdrBytes, wordsBytes, hdrWords, le32, le64, List.flatMap_cons, List.flatMap_nil, List.append_assoc, List.nil_append]

/-- A word of the header reads at its own offset. -/
theorem leAt_pktBytes (pk : Pkt) (k : Nat) (h : k < 7) :
    leAt (pktBytes pk) ((((hdrWords pk).take k).map (·.2)).sum) ((hdrWords pk)[k]'h).2 = ((hdrWords pk)[k]'h).1 % 256 ^ ((hdrWords pk)[k]'h).2 := by
  rw [pktBytes_eq]
  exact leAt_wordsBytes pk.payload (hdrWords pk) k h

theorem drop_pktBytes (pk : Pkt) : (pktBytes pk).drop 32 = pk.payload := rfl

/-! ### Fields that fit their widths -/

/-- R318's widths. -/
structure Fits (pk : Pkt) : Prop where
  op : pk.op < 16
  cls : pk.cls < 4
  ttl : pk.ttl < 256
  dest : pk.dest < 2 ^ 18
  src : pk.src < 2 ^ 18
  rtag : pk.rtag < 65536
  ctag : pk.ctag < 65536
  status : pk.status < 256
  len : pk.payload.length ≤ 8192

theorem fits_of_wf (h : pk.wf = true) : Fits pk := by
  simp only [Pkt.wf, Bool.and_eq_true, decide_eq_true_eq] at h
  obtain ⟨⟨⟨⟨⟨⟨⟨⟨hop, hcls⟩, httl⟩, hdest⟩, hsrc⟩, hrtag⟩, hctag⟩, hstatus⟩, hlen⟩ := h
  exact ⟨hop, hcls, httl, hdest, hsrc, hrtag, hctag, hstatus, hlen⟩

theorem b2n_le_one (b : Bool) : b2n b ≤ 1 := by cases b <;> decide

/-- A bit that was put in as a flag reads as the flag. -/
theorem nbit_of_b2n {x i : Nat} {b : Bool} (h : x / 2 ^ i % 2 = b2n b) : nbit x i = b := by
  rw [nbit, h]
  cases b <;> rfl

/-- The first word is within 32 bits, and each of its fields reads as it was put in. -/
theorem hdrWord0_fields (h : Fits pk) (w : Nat) (hw : w = hdrWord0 pk % 2 ^ 32) :
    nbits w 31 28 = pk.op ∧ nbits w 27 26 = pk.cls ∧ nbit w 25 = pk.epoch ∧ nbit w 24 = pk.ordered ∧ nbit w 23 = pk.dlv ∧
      nbits w 21 14 = pk.ttl ∧ nbits w 13 0 = pk.payload.length := by
  have hop := h.op
  have hcls := h.cls
  have httl := h.ttl
  have hlen := h.len
  have hepoch := b2n_le_one pk.epoch
  have hordered := b2n_le_one pk.ordered
  have hdlv := b2n_le_one pk.dlv
  rw [hdrWord0] at hw
  simp only [nbits]
  refine ⟨?_, ?_, nbit_of_b2n ?_, nbit_of_b2n ?_, nbit_of_b2n ?_, ?_, ?_⟩
  all_goals omega

/-- A number that fits its field, alone in its word, reads as it was put in. -/
theorem nbits_alone {v hi n : Nat} (hfits : v < 2 ^ (hi + 1)) (hin : hi + 1 ≤ n) : nbits (v % 2 ^ n) hi 0 = v := by
  rw [nbits, Nat.pow_zero, Nat.div_one, Nat.sub_zero, Nat.mod_mod_of_dvd v (Nat.pow_dvd_pow 2 hin), Nat.mod_eq_of_lt hfits]

/-- So do two numbers of 16 bits that share a word. -/
theorem nbits_halves {a b w : Nat} (ha : a < 65536) (hb : b < 65536) (hw : w = (a * 65536 + b) % 2 ^ 32) : nbits w 31 16 = a ∧ nbits w 15 0 = b := by
  simp only [nbits]
  omega

theorem w64_toNat_mod (a : DWord) : w64 (a.toNat % 2 ^ 64) = a := by
  rw [w64, Nat.mod_eq_of_lt a.isLt, BitVec.ofNat_toNat, BitVec.setWidth_eq]
theorem w32_toNat_mod (a : Word) : w32 (a.toNat % 2 ^ 32) = a := by
  rw [w32, Nat.mod_eq_of_lt a.isLt, BitVec.ofNat_toNat, BitVec.setWidth_eq]

/-- The bytes of a packet whose fields fit give back every field on the wire; the three that the model keeps beside it come back empty. -/
theorem pktOf_pktBytes (hwf : pk.wf = true) : pktOf (pktBytes pk) pk.poisoned = { pk with aux := [], via := none, born := 0 } := by
  have h := fits_of_wf hwf
  obtain ⟨hop, hcls, hepoch, hordered, hdlv, httl, hlen⟩ := hdrWord0_fields h (leAt (pktBytes pk) 0 4) (leAt_pktBytes pk 0 (by decide))
  have hdest : nbits (leAt (pktBytes pk) 4 4) 17 0 = pk.dest :=
    (congrArg (nbits · 17 0) (leAt_pktBytes pk 1 (by decide))).trans (nbits_alone (n := 32) h.dest (by decide))
  have hsrc : nbits (leAt (pktBytes pk) 8 4) 17 0 = pk.src :=
    (congrArg (nbits · 17 0) (leAt_pktBytes pk 2 (by decide))).trans (nbits_alone (n := 32) h.src (by decide))
  obtain ⟨hrtag, hctag⟩ := nbits_halves (w := leAt (pktBytes pk) 0xC 4) h.rtag h.ctag (leAt_pktBytes pk 3 (by decide))
  have haddr : w64 (leAt (pktBytes pk) 0x10 8) = pk.addr :=
    (congrArg w64 (leAt_pktBytes pk 4 (by decide))).trans (w64_toNat_mod pk.addr)
  have harg : w32 (leAt (pktBytes pk) 0x18 4) = pk.arg :=
    (congrArg w32 (leAt_pktBytes pk 5 (by decide))).trans (w32_toNat_mod pk.arg)
  have hstatus : nbits (leAt (pktBytes pk) 0x1C 4) 7 0 = pk.status :=
    (congrArg (nbits · 7 0) (leAt_pktBytes pk 6 (by decide))).trans (nbits_alone (n := 32) h.status (by decide))
  simp only [pktOf, hdrOf, hdrLen, hop, hcls, hepoch, hordered, hdlv, httl, hlen, hdest, hsrc, hrtag, hctag, haddr, harg, hstatus,
    drop_pktBytes, List.take_length]

/-- A packet that reached injection at time 1 (R385). -/
def bornLater : Pkt := { born := 1 }

/-- Refutes O60: when a packet reached injection is not on the wire either (R318), and nothing in the statement holds that time at 0. One born at time 1
is read back as born at 0, and every field that is on the wire as it was. -/
theorem not_packetRoundTrip : ¬ Obligations.packet_round_trip := by
  intro h
  have hwf : bornLater.wf = true := by decide
  have hback : { bornLater with aux := [], via := none, born := 0 } = bornLater := (pktOf_pktBytes hwf).symm.trans (h bornLater hwf rfl rfl)
  exact absurd (congrArg Pkt.born hback) (by decide)

end Sys2Proof.Machine
end

section
/-! Collective operations: one equation for each outcome of a row, of a COL packet and of a time-out (R347, R352–R354, R357–R359, R361, R366, R369, R387). -/

namespace Sys2Proof.Machine

variable {s t : State} {r : JobRef} {p i m live fam var kind : Nat} {j : Job} {x : Part} {pk : Pkt} {o : ColOp} {y : ColStream}

/-! ### Rows of COLLECTIVE and STEP_VOTE (R352, R354, R357, R366, R369) -/

/-- A fresh part whose group is valid here begins after the operations dispatched before it. -/
theorem effColl_begun (hfresh : freshOf s r p fam var = some (j, x)) (hgroup : groupEntry s (cGroup fam j.args) = some i) :
    effColl s r p fam var = colBegin (beginEarlier s r) r p j i := by
  simp only [effColl, hfresh, hgroup]

/-! ### Packets between members (R353, R354, R358, R359, R361, R366) -/

/-- A sound COL packet of an operation in flight takes the effect of its kind on that operation. -/
theorem colPacket_inFlight {f : State → Option ColOp → State} (hkind : pkKind pk = kind) (htake : fromEjection s opCOL pk = some t)
    (hpoison : pk.poisoned = false) (hop : getOp t (pkGid pk) (pkSeq pk) = some o) : colPacket s pk kind f = f t (some o) := by
  rw [colPacket, if_neg (not_not_intro hkind), ejected_some htake, if_neg (Bool.eq_false_iff.mp hpoison), hop]

/-- A JOIN with the member's own signature is checked off. -/
theorem takeJoin_agreed (hsig : pk.arg.toNat = o.sig) :
    takeJoin s o pk = colStep (putOp s { o with joins := o.joins.filter (· != pk.src) }) o.gid o.seq :=
  if_neg (not_not_intro hsig)

theorem takeJoin_mismatched (hsig : pk.arg.toNat ≠ o.sig) : takeJoin s o pk = colFail s o eCOL_MISMATCH pk.src (myId s) :=
  if_pos hsig

/-- Data is taken where it stands next in its stream, within what was granted and in one packet's length; it counts as reduced in phase 0. -/
theorem effData_inOrder {u v : State} (hstream : o.ins.find? (pkIs pk) = some y) (hnext : y.data.length = pk.arg.toNat)
    (hgranted : y.data.length + pk.payload.length ≤ y.granted) (hshort : pk.payload.length ≤ 2048)
    (hu : u = rinc64 s rCOL_RXBYTES_LO pk.payload.length)
    (hv : v = if y.phase = 0 then rinc64 u rCOL_OPS_LO (pk.payload.length / cEsz o.var (opArgs s o)) else u) :
    effData pk s (some o) =
      colStep (putOp v { o with ins := o.ins.map (fun y => if pkIs pk y then { y with data := y.data ++ pk.payload } else y) }) o.gid o.seq := by
  have htaken : ¬ (y.data.length ≠ pk.arg.toNat ∨ y.granted < y.data.length + pk.payload.length ∨ 2048 < pk.payload.length) := by
    omega
  simp only [effData, hstream, if_neg htaken, ← hu, ← hv]

/-- An ABORT that answers no late JOIN fails the operation with the member that failed first. -/
theorem takeAbort_failed (hflag : wbit pk.arg 31 = false) :
    takeAbort s o pk = colFail s o eCOL_ABORT (wbits pk.arg 17 0) (wbits pk.arg 17 0) := by
  simp only [takeAbort, hflag, Bool.false_eq_true, if_false]

/-- The flags of a member below that has not answered yet are added. -/
theorem takeUp'_awaited (hbelow : o.ups.contains pk.src = true) :
    takeUp' s o pk = colStep (putOp s { o with flags := o.flags ||| wbits pk.arg 3 0, ups := o.ups.filter (· != pk.src) }) o.gid o.seq :=
  if_pos hbelow

/-- The parent's answer to flags sent up is the result. -/
theorem effVoteDown_answered (hsent : o.sentUp = true) (hparent : o.parent.map (·.1) = some pk.src) :
    effVoteDown pk s (some o) = voteResult s o (wbits pk.arg 3 0) :=
  if_pos ⟨hsent, hparent⟩

/-! ### Time-outs (R361) -/

theorem effColTimeout_takenUp (hop : s.colOps.find? (fun o => o.job == r && o.part == p) = some o)
    (hlate : o.since + us (cTimeout o.fam (opArgs s o)) ≤ s.clock) :
    effColTimeout s r p = colFail s o eCOL_TIMEOUT (awaited s o) (myId s) := by
  have hexpired : colExpired s o = true := decide_eq_true hlate
  simp only [effColTimeout, hop, hexpired, if_true]

/-- An operation not taken up yet takes its number, after those dispatched before it, and fails. -/
theorem effColTimeout_notTakenUp (hnone : s.colOps.find? (fun o => o.job == r && o.part == p) = none) (hjob : getJob s r = some j)
    (hfresh : freshOp s j = some i) (hlate : j.began + us (cTimeout (dFam j.desc) j.args) ≤ s.clock) :
    effColTimeout s r p = failFresh (beginEarlier s r) r p j i eCOL_TIMEOUT := by
  simp only [effColTimeout, hnone, hjob, hfresh, if_pos hlate]

/-! ### Contexts and live engines (R347, R387) -/

/-- The list of operations is in the order of their beginning, so that the first without a context is the oldest. -/
theorem effCtxGranted_oldest (hwaits : s.colOps.find? (fun o => o.ctx.isNone) = some o) : effCtxGranted s = takeCtx s o.gid o.seq := by
  simp only [effCtxGranted, hwaits]

theorem effGEngines_member (hentry : i < 64) (hvalid : gValid s i = true) (hroot : gRoot s i = myId s) (hmember : inBox s i m = true) :
    effGEngines s i m live = refreshEngines { s with gLive := smSet gLiveDefault s.gLive (i * 2 ^ 18 + m) (min live 96) } i := by
  rw [effGEngines, if_pos ⟨hentry, hvalid, hroot⟩, if_pos hmember]

end Sys2Proof.Machine
end

section
/-! Collective operations. -/

namespace Sys2Proof.Machine

/-- Settles O12: every row begins its operation alike; a packet of an operation in flight has its kind's one outcome on it, and so has each time-out, a freed
context and a member's report. -/
theorem collectiveRows : Obligations.collective_rows :=
  ⟨fun _ _ _ _ _ _ hfresh hgroup => congrArg Host.Outcome.next (effColl_begun hfresh hgroup),
   fun _ _ _ _ _ _ hfresh hgroup => congrArg Host.Outcome.next (effColl_begun hfresh hgroup),
   fun _ _ _ _ _ _ hfresh hgroup => congrArg Host.Outcome.next (effColl_begun hfresh hgroup),
   fun _ _ _ _ _ _ hfresh hgroup => congrArg Host.Outcome.next (effColl_begun hfresh hgroup),
   fun _ _ _ _ _ _ hfresh hgroup => congrArg Host.Outcome.next (effColl_begun hfresh hgroup),
   fun _ _ _ _ _ _ hfresh hgroup => congrArg Host.Outcome.next (effColl_begun hfresh hgroup),
   fun _ _ _ _ _ _ hfresh hgroup => congrArg Host.Outcome.next (effColl_begun hfresh hgroup),
   fun _ _ _ _ hkind htake hpoison hop hsig =>
      congrArg Host.Outcome.next ((colPacket_inFlight hkind htake hpoison hop).trans (takeJoin_agreed hsig)),
   fun _ _ _ _ hkind htake hpoison hop hsig =>
      congrArg Host.Outcome.next ((colPacket_inFlight hkind htake hpoison hop).trans (takeJoin_mismatched hsig)),
   fun _ _ _ _ hkind htake hpoison hop => congrArg Host.Outcome.next (colPacket_inFlight hkind htake hpoison hop),
   fun _ _ _ _ _ hkind htake hpoison hop hstream hnext hgranted hshort _ hu _ hv =>
      congrArg Host.Outcome.next ((colPacket_inFlight hkind htake hpoison hop).trans (effData_inOrder hstream hnext hgranted hshort hu hv)),
   fun _ _ _ _ hkind htake hpoison hop hflag =>
      congrArg Host.Outcome.next ((colPacket_inFlight hkind htake hpoison hop).trans (takeAbort_failed hflag)),
   fun _ _ _ _ hkind htake hpoison hop hbelow =>
      congrArg Host.Outcome.next ((colPacket_inFlight hkind htake hpoison hop).trans (takeUp'_awaited hbelow)),
   fun _ _ _ _ hkind htake hpoison hop hsent hparent =>
      congrArg Host.Outcome.next ((colPacket_inFlight hkind htake hpoison hop).trans (effVoteDown_answered hsent hparent)),
   fun _ _ _ _ hop hlate => congrArg Host.Outcome.next (effColTimeout_takenUp hop hlate),
   fun _ _ _ _ _ hnone hjob hfresh hlate => congrArg Host.Outcome.next (effColTimeout_notTakenUp hnone hjob hfresh hlate),
   fun _ _ hwaits => congrArg Host.Outcome.next (effCtxGranted_oldest hwaits),
   fun _ _ _ _ hentry hvalid hroot hmember => congrArg Host.Outcome.next (effGEngines_member hentry hvalid hroot hmember)⟩

end Sys2Proof.Machine
end

section
/-! Arbiters: the losses and promotions of a grant, the grants of an HBM channel, and those of a store bank (R373–R375, R377). -/

namespace Sys2Proof.Machine

/-! ### Losses and promotion (R374) -/

section Losses
variable {α : Type} [DecidableEq α] {l : Losses α} {ps : List α} {m x : α}

/-- Sources that lose one after the other: each counter rises by the number of times its source stands among them. -/
theorem lossOf_foldl_loseOne (ps : List α) (l : Losses α) (x : α) : lossOf (ps.foldl loseOne l) x = lossOf l x + ps.count x := by
  induction ps generalizing l with
  | nil => rfl
  | cons y ps ih =>
    rw [List.foldl_cons, ih, lossOf_loseOne, List.count_cons]
    by_cases h : y = x
    · simp only [h, if_true, beq_self_eq_true]
      omega
    · simp only [h, if_false, beq_iff_eq, Nat.add_zero]

/-- The losses with the counter of m at 0, and m not promoted. -/
def clearLoss (l : Losses α) (m : α) : Losses α :=
  { l with counts := l.counts.filter (fun x => x.1 != m), promoted := l.promoted.filter (· != m) }

theorem noteGrant_eq (l : Losses α) (ps : List α) (m : α) : noteGrant l ps m = (ps.filter (· != m)).foldl loseOne (clearLoss l m) := rfl

theorem lossOf_clearLoss_same (l : Losses α) (m : α) : lossOf (clearLoss l m) m = 0 := by
  have hnone : (l.counts.filter (fun x => x.1 != m)).find? (fun x => x.1 == m) = none := by simp
  simp only [lossOf, clearLoss, hnone, Option.map_none, Option.getD_none]

theorem lossOf_clearLoss_other (h : x ≠ m) : lossOf (clearLoss l m) x = lossOf l x := by
  have hpred : (fun y : α × Nat => decide ((y.1 != m) = true ∧ (y.1 == x) = true)) = fun y => y.1 == x := by
    funext y
    by_cases hy : y.1 = x
    · simp [hy, h]
    · simp [hy]
  simp only [lossOf, clearLoss, List.find?_filter, hpred]

theorem lossOf_noteGrant_granted (l : Losses α) (ps : List α) (m : α) : lossOf (noteGrant l ps m) m = 0 := by
  have habsent : m ∉ ps.filter (· != m) := by simp
  rw [noteGrant_eq, lossOf_foldl_loseOne, lossOf_clearLoss_same, List.count_eq_zero_of_not_mem habsent]

theorem lossOf_noteGrant_pending (hnodup : ps.Nodup) (hx : x ∈ ps) (hne : x ≠ m) : lossOf (noteGrant l ps m) x = lossOf l x + 1 := by
  have honce : (ps.filter (· != m)).count x = 1 := by
    rw [List.count_filter (by simpa using hne), List.count_eq_one_of_mem hnodup hx]
  rw [noteGrant_eq, lossOf_foldl_loseOne, lossOf_clearLoss_other hne, honce]

theorem loseOne_promotes (h : lossOf l m = 63) : (loseOne l m).promoted = l.promoted ++ [m] ∧ (loseOne l m).promos = l.promos + 1 := by
  simp [loseOne, h]

/-- Only a source that loses is promoted. -/
theorem promoted_loseOne (h : x ∈ (loseOne l m).promoted) : x ∈ l.promoted ∨ x = m := by
  unfold loseOne at h
  dsimp only at h
  split at h
  · simpa using h
  · exact .inl h

theorem promoted_foldl_loseOne (h : x ∈ (ps.foldl loseOne l).promoted) : x ∈ l.promoted ∨ x ∈ ps := by
  induction ps generalizing l with
  | nil => exact .inl h
  | cons y ps ih =>
    rcases ih h with h | h
    · exact (promoted_loseOne h).imp_right fun (e : x = y) => List.mem_cons.mpr (.inl e)
    · exact .inr (List.mem_cons_of_mem _ h)

theorem not_promoted_noteGrant (l : Losses α) (ps : List α) (m : α) : m ∉ (noteGrant l ps m).promoted := by
  intro h
  rcases promoted_foldl_loseOne h with h | h
  all_goals simp at h

end Losses

/-! ### A channel (R373, R375) -/

section Channel
variable {ws : List Nat} {ps : List MemSource} {a b : ChanArb} {m : MemSource}

theorem chanGrant_of_chanTurn {bg : Bool} (h : chanTurn ws ps a = some (m, b)) :
    chanGrant ws ps bg a = (.source m, countGrant { b with losses := lossesAfter b.losses ps m } m) := by
  simp only [chanGrant, h]

theorem chanGrant_of_chanTurn_none {bg : Bool} (h : chanTurn ws ps a = none) : chanGrant ws ps bg a = (if bg then .background else .idle, a) := by
  simp only [chanGrant, h]

theorem chanTurn_promoted (h : firstPromoted a.losses ps = some m) : chanTurn ws ps a = some (m, a) := by
  simp only [chanTurn, h]

/-- While the weight of the class visited lasts, its next source is granted. -/
theorem visitRound_here (n : Nat) (hleft : a.left ≠ 0) (hturn : classTurn a ps a.visit = some m) :
    visitRound ws ps (n + 1) a = some (m, noteTurn { a with left := a.left - 1 } a.visit m) := by
  simp only [visitRound, if_neg hleft, hturn]

theorem chanTurn_visited (hnone : firstPromoted a.losses ps = none) (hleft : a.left ≠ 0) (hturn : classTurn a ps a.visit = some m) :
    chanTurn ws ps a = some (m, noteTurn { a with left := a.left - 1 } a.visit m) := by
  simp only [chanTurn, hnone, visitRound_here 14 hleft hturn, Option.orElse_some]

theorem nextAfter_nil {α : Type} [DecidableEq α] (order : List α) (last : Option α) : nextAfter order last [] = none := by
  simp [nextAfter]

theorem visitRound_nil (ws : List Nat) (n : Nat) (a : ChanArb) : visitRound ws [] n a = none := by
  induction n generalizing a with
  | zero => rfl
  | succ n ih => simp only [visitRound, classTurn, nextAfter_nil, ite_self, ih]

theorem chanTurn_nil (ws : List Nat) (a : ChanArb) : chanTurn ws [] a = none := by
  have hpromoted : firstPromoted a.losses [] = none := by simp [firstPromoted]
  have hidle : (List.range 7).find? (fun c => weightOf ws c == 0 && classWaits [] c) = none := by simp [classWaits]
  simp only [chanTurn, hpromoted, visitRound_nil, Option.orElse_none, zeroTurn, hidle]

/-! ### The holder of a block (R375) -/

/-- Its own grant leaves the holder of a block promoted. -/
theorem holder_promoted_lossesAfter (l : Losses MemSource) (ps : List MemSource) (k : Nat) : .holder k ∈ (lossesAfter l ps (.holder k)).promoted :=
  List.mem_append_right _ List.mem_cons_self

theorem holder_not_promoted_freeBlock (a : ChanArb) (k : Nat) : .holder k ∉ (freeBlock a k).losses.promoted := by
  simp [freeBlock]

/-! ### The grants of an access (R198, R373) -/

variable {s : State} {f : Bool} {x n : Nat}

/-- An access within one granule of 4 KiB is the bursts of that granule. -/
theorem accessMem_granule (hn : n ≠ 0) (hgranule : x % 4096 + n ≤ 4096) : accessMem s f m x n = bursts s f m x n := by
  have hall : min n (4096 - x % 4096) = n := by omega
  simp only [accessMem, accessFrom, if_neg hn, hall, Nat.sub_self, if_true]

theorem bursts_hbm (h : inHbm s.order x = true) :
    bursts s f m x n = putChan s (hbmChannel s.order x) (chanTimes (arbWeights s (hbmChannel s.order x / 32)) m (cdiv (x + n) 64 - x / 64)
      (getChan s (hbmChannel s.order x))) := if_pos h

end Channel

/-! ### A store bank (R377) -/

section Bank
variable {ps : List BankSource} {a : BankArb}

theorem bankGrant_fetch (h : a.fetched = false) : bankGrant true ps a = (.fetch, { a with fetched := true }) := by
  simp [bankGrant, h]

/-- The cycle after an operand fetch is another source's, or idle. -/
theorem bankGrant_after_fetch (h : a.fetched = true) : (bankGrant true ps a).1 ≠ .fetch ∧ (bankGrant true ps a).2.fetched = false := by
  have hturn : (true && !a.fetched) = false := by rw [h]; rfl
  simp only [bankGrant, hturn, Bool.false_eq_true, if_false]
  split
  · exact ⟨nofun, rfl⟩
  · exact ⟨nofun, rfl⟩

end Bank

end Sys2Proof.Machine
end

section
/-! Grants at an HBM channel and at a store bank. -/

namespace Sys2Proof.Machine

/-- Settles O59: a grant's losses and promotions, then one case of a channel's turn for each clause, and the two cases of a bank's cycle. -/
theorem arbitration : Obligations.arbitration := by
  refine ⟨fun l ps m x hnodup hx hne => lossOf_noteGrant_pending hnodup hx hne,
    fun l ps m => ⟨lossOf_noteGrant_granted l ps m, not_promoted_noteGrant l ps m⟩,
    fun l m h => loseOne_promotes h,
    fun ws ps bg a m h => chanGrant_of_chanTurn (chanTurn_promoted h),
    fun a b ps => ⟨rfl, holder_promoted_lossesAfter _ ps b, holder_not_promoted_freeBlock a b⟩,
    fun ws ps bg a m hnone hleft hturn b hb => ?visited,
    fun s f m x n c hhbm hn hgranule hc => ?access,
    fun ws a => ⟨chanGrant_of_chanTurn_none (chanTurn_nil ws a), chanGrant_of_chanTurn_none (chanTurn_nil ws a)⟩,
    fun ps a => ⟨fun h => ?fetch, bankGrant_after_fetch⟩⟩
  case visited =>
    subst hb
    exact chanGrant_of_chanTurn (chanTurn_visited hnone hleft hturn)
  case access =>
    subst hc
    rw [accessMem_granule hn hgranule, bursts_hbm hhbm]
  case fetch =>
    rw [bankGrant_fetch h]
    exact ⟨rfl, rfl⟩

end Sys2Proof.Machine
end

section
/-! Commits of shadowed registers and the control word of a block: one equation for each outcome (R393, R395, R396, R580, R586, R587). -/

namespace Sys2Proof.Machine

variable {s : State} {w g : Nat} {c d k t : Bool}

/-! ### BLK_COMMIT (R393, R396, R586) -/

/-- While a commit is pending a write of BLK_COMMIT is noted only, whatever it asks for. -/
theorem effBlkCommit_ignored (hopen : winOpen s w = true) (hpending : commitPending s w = true) :
    effBlkCommit s w g c d = rputBit s (commitStat w) 4 true := by
  simp only [effBlkCommit, hopen, hpending, Bool.not_true, Bool.false_eq_true, if_false, if_true]

/-- With another generation nothing it asks for is done: the shadow is reloaded. -/
theorem effBlkCommit_stale (hopen : winOpen s w = true) (hpending : commitPending s w = false) (hgen : g ≠ blkGen s w) :
    effBlkCommit s w g c d = putOutcome (reloadShadow s w) w 4 0 0 := by
  simp only [effBlkCommit, hopen, hpending, Bool.not_true, Bool.false_eq_true, if_false, if_pos hgen]

/-- With its own generation a block that has a shadow discards it, or takes it up to be committed. -/
theorem effBlkCommit_current (hopen : winOpen s w = true) (hshadow : hasShadow w = true) (hpending : commitPending s w = false) :
    effBlkCommit s w (blkGen s w) c d =
      if d then rputN (reloadShadow s w) (commitStat w) 0 else if c then rputN s (commitStat w) 1 else s := by
  simp only [effBlkCommit, hopen, hshadow, hpending, Bool.not_true, Bool.false_eq_true, if_false, ne_eq, not_true_eq_false]

/-! ### The safe point (R393, R395, R586, R587) -/

/-- At its safe point a pending commit that nothing refuses is applied, with GEN one higher. -/
theorem effCommitApply_applied {u : State} (hopen : winOpen s w = true) (hpending : commitPending s w = true) (hsafe : safePoint s w = true)
    (hnone : firstRefusal (refusals s (applyShadow s w) w) = none) (hu : u = bumpGen (commitHooks s (applyShadow s w) w) w) :
    effCommitApply s w = evtSet (putOutcome u w 2 0 0) w 2 (ownEvt u w) := by
  simp only [effCommitApply, hopen, hpending, hsafe, hnone, Bool.not_true, Bool.or_false, Bool.false_eq_true, if_false, ← hu]

theorem effCommitApply_refused {off cause : Nat} (hopen : winOpen s w = true) (hpending : commitPending s w = true) (hsafe : safePoint s w = true)
    (hrefused : firstRefusal (refusals s (applyShadow s w) w) = some (off, cause)) :
    effCommitApply s w = evtSet (putOutcome (reloadShadow s w) w 3 cause off) w 2 (ownEvt s w) := by
  simp only [effCommitApply, hopen, hpending, hsafe, hrefused, Bool.not_true, Bool.or_false, Bool.false_eq_true, if_false]

/-! ### BLK_CTRL (R580, R586) -/

/-- Under the right generation the counts are cleared where STAT_CLR asks for it, and then the event is set where EVT_TEST does. -/
theorem effBlkCtrl_current (hopen : winOpen s w = true) {u v : State} (hu : u = rputBit s (commitStat w) 5 false)
    (hv : v = if k then (rcOffs w).foldl clearRc u else u) :
    effBlkCtrl s w (blkGen s w) k t = if t then evtSet v w 3 (ownEvt v w) else v := by
  simp only [effBlkCtrl, hopen, Bool.not_true, Bool.false_eq_true, if_false, ne_eq, not_true_eq_false, ← hu, ← hv]

theorem effBlkCtrl_stale (hopen : winOpen s w = true) (hgen : g ≠ blkGen s w) :
    effBlkCtrl s w g k t = rputBit s (commitStat w) 5 true := by
  simp only [effBlkCtrl, hopen, Bool.not_true, Bool.false_eq_true, if_false, if_pos hgen]

end Sys2Proof.Machine
end

section
/-! Commits of shadowed registers. -/

namespace Sys2Proof.Machine

/-- Settles O43: COMMIT and DISCARD are one write of BLK_COMMIT, STAT_CLR and EVT_TEST one of BLK_CTRL, each with one case for each clause. -/
theorem shadowCommit : Obligations.shadow_commit := by
  refine ⟨fun w g s hopen hshadow hpending hgen => ?current, fun w g s hopen _ hpending hgen u hu => ?stale,
    fun w g s hopen _ hpending => ?ignored,
    fun w s hopen hpending hsafe hnone u hu => congrArg Host.Outcome.next (effCommitApply_applied hopen hpending hsafe hnone hu),
    fun w off c s hopen hpending hsafe hrefused => congrArg Host.Outcome.next (effCommitApply_refused hopen hpending hsafe hrefused),
    fun w g s hopen hgen u hu => ?control, fun w g s hopen hgen => ?controlStale⟩
  case current =>
    subst hgen
    constructor
    all_goals exact congrArg Host.Outcome.next (effBlkCommit_current hopen hshadow hpending)
  case stale =>
    subst hu
    constructor
    all_goals exact congrArg Host.Outcome.next (effBlkCommit_stale hopen hpending hgen)
  case ignored =>
    constructor
    all_goals exact congrArg Host.Outcome.next (effBlkCommit_ignored hopen hpending)
  case control =>
    subst hgen
    constructor
    all_goals exact congrArg Host.Outcome.next (effBlkCtrl_current hopen hu rfl)
  case controlStale =>
    constructor
    all_goals exact congrArg Host.Outcome.next (effBlkCtrl_stale hopen hgen)

end Sys2Proof.Machine
end

section
/-! Requests to host windows, and frames and links of the Ethernet ports: one equation for each outcome (R389, R390, R421, R444, R532, R535, R581). -/

namespace Sys2Proof.Machine

variable {s : State} {w p k n : Nat} {q : HostReq} {r : List HostReq} {c : EthClass}

/-! ### Requests of a window (R535) -/

/-- The oldest request acknowledged leaves the window, and a negative answer leaves it there. -/
theorem effRoceAck_oldest {err : Bool} {b : List Byte} (h : (getH s w).reqs = q :: r) :
    effRoceAck s w err b = if err then s else pumpWindow (hostAnswered (putH s w { getH s w with reqs := r }) q b) := by
  simp only [effRoceAck, h]

/-- Past its timeout the oldest request is sent again while retries are left; then the window gives up. -/
theorem effRoceTimeout_late (h : (getH s w).reqs = q :: r) (hlate : q.sent + hwAckNs s w ≤ s.clock) :
    effRoceTimeout s w =
      if q.tries < rfld s (hwReg w rHW_TIMEOUT) 2 0 then
        sendRoce (putH s w { getH s w with reqs := { q with tries := q.tries + 1, sent := s.clock } :: r }) w q
      else hostGivesUp s w := by
  simp only [effRoceTimeout, h, if_neg (Nat.not_lt.mpr hlate)]

/-! ### The rate of a window (R532) -/

theorem effCnp_halved (hw : w < 64) :
    effCnp s w = putH s w { getH s w with rate := (getH s w).rate / 2, lost := 1 - (getH s w).rate / 2, rateAt := s.clock } := if_pos hw

theorem effRateRestore_due (hw : w < 64) (hdue : (getH s w).rateAt + us 50 ≤ s.clock) :
    effRateRestore s w = putH s w { getH s w with
      rate := if (getH s w).rate + (getH s w).lost / 8 < 1 then (getH s w).rate + (getH s w).lost / 8 else 1, rateAt := s.clock } :=
  if_pos ⟨hw, hdue⟩

theorem effRateRestore_early (hearly : s.clock < (getH s w).rateAt + us 50) : effRateRestore s w = s :=
  if_neg fun h => Nat.not_le.mpr hearly h.2

/-! ### Frames (R389, R390, R421) -/

theorem effFrame_down {f : Bool} (hdown : ethUp s p = false) : effFrame s p c n f = s := by
  cases hclass : ethClassNum c <;> simp [effFrame, hclass, hdown]

/-- On a port that is up a frame of a class is dropped where its class lacks space, counted and discarded where it is a fragment of site traffic, and
buffered otherwise. -/
theorem effFrame_up {f : Bool} (hclass : ethClassNum c = some k) (hp : p < 2) (hup : ethUp s p = true) :
    effFrame s p c n f =
      if ethFits s p k n = false then rinc s (wreg (winEth p) (oETH_RXDROP + 16 * k)) 1
      else if k = 2 ∧ f = true then rinc (ethCount s p k n) (wreg (winEth p) oETH_FRAG_DROP) 1
      else { ethCount s p k n with ethBuf := smSet (fun _ => 0) (ethCount s p k n).ethBuf (4 * p + k) (ethBufOf (ethCount s p k n) p k + n) } := by
  have hserved : ¬ (2 ≤ p ∨ ethUp s p = false) := not_or.mpr ⟨Nat.not_le.mpr hp, by simp [hup]⟩
  simp only [effFrame, hclass, Bool.not_eq_true', if_neg hserved]

/-! ### Solicitations and links (R444, R581) -/

theorem advertise_addressed {t : Nat} (hup : ethUp s p = true) (haddr : ip6At s (wreg (winEth p) oETH_S_IP6_0) = t) :
    advertise s t p = emit (ethSent s p 0 (90 + tagLen s (wreg (winEth p) oETH_C_TAG)))
      (.frame "NEIGHBOUR_ADVERTISEMENT" (bytesOf (beBytes t 16 ++ beBytes (rn64 s (wreg (winEth p) oETH_MAC_LO) % 2 ^ 48) 6))) :=
  if_pos ⟨hup, haddr⟩

theorem effEthLink_port {u : Bool} (hp : p < 2) :
    effEthLink s p u = setCode (rputBit s (wreg (winEth p) oETH_LINK) 0 u) (winEth p) (b2n u) := if_neg (Nat.not_le.mpr hp)

end Sys2Proof.Machine
end

section
/-! Ethernet and RoCE. -/

namespace Sys2Proof.Machine

/-- Settles O37: one case of an answer, a timeout, a rate, a frame, a solicitation or a link for each clause. -/
theorem ethernetAndRoce : Obligations.ethernet_and_roce :=
  ⟨fun _ _ _ _ _ h => ⟨congrArg Host.Outcome.next (effRoceAck_oldest h), congrArg Host.Outcome.next (effRoceAck_oldest h)⟩,
   fun _ _ _ _ h hlate hleft => congrArg Host.Outcome.next ((effRoceTimeout_late h hlate).trans (if_pos hleft)),
   fun _ _ _ _ h hlate hnone => congrArg Host.Outcome.next ((effRoceTimeout_late h hlate).trans (if_neg (Nat.not_lt.mpr hnone))),
   fun _ _ hw => ⟨congrArg Host.Outcome.next (effCnp_halved hw), fun hdue => congrArg Host.Outcome.next (effRateRestore_due hw hdue),
     fun hearly => congrArg Host.Outcome.next (effRateRestore_early hearly)⟩,
   fun _ _ _ _ _ hclass hp hup hfits => congrArg Host.Outcome.next
     ((effFrame_up hclass hp hup).trans ((if_neg (by simp [hfits])).trans (if_neg (by simp)))),
   fun _ _ _ _ _ _ hclass hp hup hfull => congrArg Host.Outcome.next ((effFrame_up hclass hp hup).trans (if_pos hfull)),
   fun _ _ _ hp hup hfits => congrArg Host.Outcome.next ((effFrame_up rfl hp hup).trans ((if_neg (by simp [hfits])).trans (if_pos ⟨rfl, rfl⟩))),
   fun _ _ _ _ _ _ hdown => congrArg Host.Outcome.next (effFrame_down hdown),
   fun _ _ => rfl,
   fun _ _ _ hup haddr => advertise_addressed hup haddr,
   fun _ _ _ hp => congrArg Host.Outcome.next (effEthLink_port hp)⟩

end Sys2Proof.Machine
end

section
/-! The site rounds' commands, and the set of peers that a merge takes in: one equation for each outcome (R405, R411–R413, R415, R416, R436, R438, R442). -/

namespace Sys2Proof.Machine

variable {s u : State} {r : SxRun} {l : List SxRun} {j : Job} {p v : Nat}

/-! ### The inclusion set (R415) -/

/-- Whatever the set takes in, the round it was fixed for is noted: no peer's change of state touches that note. -/
theorem fixSet_sxSetRound (s : State) (round step : Nat) (items : List Nat) : (fixSet s round step items).sxSetRound = round + 1 := by
  unfold fixSet
  split
  case isTrue hfixed => exact hfixed
  case isFalse =>
    exact foldl_keeps (P := fun t => t.sxSetRound = round + 1) rfl fun _ _ h => afterSet_keeps (Keep.frame_sxSetRound _ rfl) h

theorem fixSet_fixed {round step : Nat} {items : List Nat} (hfixed : s.sxSetRound = round + 1) : fixSet s round step items = s := if_pos hfixed

/-! ### A part reaches SXU (R412) -/

theorem effSite_queued {ref : JobRef} {x : Job × Part} (hfresh : freshOf s ref p 0xF v = some x) (hcommit : commitPending s winSxu = false) :
    effSite s ref p v = settleSites (setPartSt { s with sxRuns := s.sxRuns ++ [{ job := ref, part := p }] } ref p .busy) := by
  simp only [effSite, hfresh, hcommit, Bool.false_eq_true, if_false]

/-! ### The command at the front (R411–R413, R415, R416) -/

theorem driveFront_disabled (hfront : s.sxRuns = r :: l) (hjob : getJob s r.job = some j) (hup : sxuUp s = false) :
    driveFront s = siteFail s r eSXU_DISABLED noItem := by
  simp only [driveFront, hfront, hjob, hup, Bool.not_false, if_true]

/-- The front command is marked as begun, at the clock of now, and its variant's work starts. -/
theorem driveFront_begins (hfront : s.sxRuns = r :: l) (hjob : getJob s r.job = some j) (hup : sxuUp s = true) (hwaits : r.begun = false)
    (hcommit : commitPending s winSxu = false) (htime : siteTimeOk s j = true)
    (hu : u = { s with sxRuns := s.sxRuns.map (fun x : SxRun => if x.job = r.job then { x with begun := true, since := s.clock } else x) }) :
    driveFront s =
      if dVar j.desc = 0 then runSend u r j else if dVar j.desc = 1 then runMerge u r j else if dVar j.desc = 2 then runThaw u r j
      else if dVar j.desc = 3 then runApply u r j else if dVar j.desc = 4 then runJoin u r j else runPeerCtl u r j := by
  subst hu
  simp only [driveFront, hfront, hjob, hup, hwaits, hcommit, htime, Bool.not_true, Bool.false_eq_true, if_false, or_self]

/-! ### Peers in a state that takes the command, or not (R436, R438, R442) -/

theorem runPeerCtl_abandons (hp : srPeer j.args = p) (haction : srAction j.args ≠ 0) (hvalid : pValid s p = true) (hstate : pState s p ≠ psOFF) :
    runPeerCtl s r j = siteDone (unitRetired (setPState (leaveSlot (dropPeerWork s p) p) p psISOLATED) j.ref 0) r := by
  subst hp
  simp only [runPeerCtl, hvalid, hstate, haction, Bool.not_true, Bool.false_eq_true, or_self, if_false]

theorem runThaw_notReconnected (hstate : pState s (srPeer j.args) ≠ psRECONNECTED) : runThaw s r j = siteFail s r ePEER_STATE noItem :=
  if_pos (.inr hstate)

theorem runApply_notThawing (hstate : pState s (srPeer j.args) ≠ psTHAWING) : runApply s r j = siteFail s r ePEER_STATE noItem :=
  if_pos (.inr hstate)

end Sys2Proof.Machine
end

section
/-! Site rounds, and the inclusion set. -/

namespace Sys2Proof.Machine

/-- Settles O25: the first fixing notes the round, and one that finds the round noted changes nothing. -/
theorem inclusionSetOnce : Obligations.inclusion_set_once :=
  fun s r step _ items _ => fixSet_fixed (fixSet_sxSetRound s r step items)

/-- Settles O22: a part of any variant is queued, the front command begins its variant's work, and a peer in the wrong state fails its command. -/
theorem siteRound : Obligations.site_round := by
  refine ⟨fun _ _ _ _ _ h hc => congrArg Host.Outcome.next (effSite_queued h hc), fun _ _ _ _ _ h hc => congrArg Host.Outcome.next (effSite_queued h hc),
    fun _ _ _ _ _ h hc => congrArg Host.Outcome.next (effSite_queued h hc), fun _ _ _ _ _ h hc => congrArg Host.Outcome.next (effSite_queued h hc),
    fun _ _ _ _ _ h hc => congrArg Host.Outcome.next (effSite_queued h hc),
    fun _ _ _ _ _ h hc haction => congrArg Host.Outcome.next ((if_pos haction).trans (effSite_queued h hc)),
    fun _ _ _ _ _ h hc haction => congrArg Host.Outcome.next ((if_pos haction).trans (effSite_queued h hc)),
    fun s r l j hfront hjob hup hwaits hcommit htime u hu hvar => ?send, fun s r l j hfront hjob hup hwaits hcommit htime u hu hvar => ?merge,
    fun s r l j hfront hjob hup hwaits hcommit htime u hu hvar => ?thaw, fun s r l j hfront hjob hup hwaits hcommit htime u hu hvar => ?apply,
    fun s r l j hfront hjob hup hwaits hcommit htime u hu hvar => ?join,
    fun _ _ _ _ hfront hjob hup => driveFront_disabled hfront hjob hup,
    fun _ _ _ _ hp haction hvalid hstate => runPeerCtl_abandons hp haction hvalid hstate,
    fun _ _ _ hstate => runThaw_notReconnected hstate, fun _ _ _ hstate => runApply_notThawing hstate⟩
  all_goals
    rw [driveFront_begins hfront hjob hup hwaits hcommit htime hu, hvar]
    rfl

end Sys2Proof.Machine
end

section
/-! Acnis messages: probes, rounds, joins and snapshots: one equation for each outcome (R408, R413, R415, R429, R435, R436, R439–R441). -/

namespace Sys2Proof.Machine

variable {s u : State} {m : AMsg} {p typ : Nat} {r : SxRun} {l : List SxRun} {j : Job} {x : SxJoin}

/-- A message that stands opened, whose peer is found, leaves the store and takes effect. -/
theorem onMsg_taken {f : State → Nat → State} (hup : sxuUp s = true) (htyp : m.typ = typ) (hopened : s.sxRx.contains m = true)
    (hpeer : msgPeer s m = some p) (hu : u = { s with sxRx := s.sxRx.erase m }) : onMsg s m typ f = f u p := by
  subst hu
  simp only [onMsg, hup, htyp, hopened, hpeer, and_self, if_true]

/-! ### Probes and rounds (R413, R429, R435, R441) -/

theorem effProbe_noJoin (hround : leAt m.body 8 8 = 0) :
    effProbe m s p = sendMsg s p { typ := mtPROBE_REPLY, round := m.round, body := fitBytes m.body 8 ++ le64 (siteNow s) ++ le64 (siteNow s) } :=
  if_neg fun h => h.1 hround

theorem effProbe_join {v : State} (hround : leAt m.body 8 8 ≠ 0)
    (hv : v = sendMsg s p { typ := mtPROBE_REPLY, round := m.round, body := fitBytes m.body 8 ++ le64 (siteNow s) ++ le64 (siteNow s) })
    (hnew : pState v p = psNEW) : effProbe m s p = enterListen v p (leAt m.body 8 8) := by
  subst hv
  exact if_pos ⟨hround, .inl hnew⟩

theorem effProbePeriodic_due (hup : sxuUp s = true) (hdue : s.sxProbed + 1000000000 ≤ s.clock) :
    effProbePeriodic s =
      probeAll { s with sxProbed := s.clock } ((validPeers s).filter (fun p => pState s p == psISOLATED || pState s p == psRECONNECTED)) :=
  if_pos ⟨hup, hdue⟩

/-- The first sample of a peer gives its times as measured; an offset within a millisecond, of a peer not isolated, raises nothing. -/
theorem effProbeReply_first {rtt off : Nat} {t : State} (hfirst : (getSx s p).sampled = false)
    (hrtt : ((siteNow s : Int) - leAt m.body 0 8 - (leAt m.body 16 8 - leAt m.body 8 8)).toNat = rtt)
    (hoff : ((leAt m.body 8 8 : Int) - leAt m.body 0 8 + (leAt m.body 16 8 - siteNow s)) / 2 = off) (hskew : off ≤ 1000000)
    (ht : t = rputN (rputN (rputN (putSx s p { getSx s p with sampled := true, srtt := rtt, rttvar := rtt / 2 }) (pOff rP_SRTT p) (rtt / 1000))
      (pOff rP_RTO p) (max (rtt + 4 * (rtt / 2)) 1000000 / 1000)) (pOff rP_OFFSET p) (sat32 off))
    (hstate : pState t p ≠ psISOLATED) : effProbeReply m s p = t := by
  have hsmall : ¬ 1000000 < ((off : Int)).natAbs := Nat.not_lt.mpr hskew
  subst ht
  simp only [effProbeReply, hfirst, hrtt, hoff, Bool.false_eq_true, if_false, if_neg hsmall, if_neg hstate]

/-- A round that opens probes every valid peer, and makes those that listen for an earlier round ACTIVE. -/
theorem effRoundOpen_opens (hup : sxuUp s = true) (hopens : s.sxOpened < roundsOpen s) :
    effRoundOpen s = settleSites ((validPeers (probeAll { s with sxOpened := roundsOpen s } (validPeers s))).foldl (fun t p =>
      if pState t p = psLISTEN ∧ pJoin t p < roundsOpen s then setMisses (setPState t p psACTIVE) p 0 else t)
      (probeAll { s with sxOpened := roundsOpen s } (validPeers s))) :=
  if_neg (not_or.mpr ⟨by simp [hup], Nat.not_le.mpr hopens⟩)

/-! ### Time-outs (R436, R440) -/

theorem effThawTimeout_late (hfront : s.sxRuns = r :: l) (hjob : getJob s r.job = some j) (hbegun : r.begun = true) (hvar : dVar j.desc = 2)
    (hpeer : srPeer j.args = p) (hlate : r.since + us (srTimeout j.args) ≤ s.clock) :
    effThawTimeout s p = settleSites (siteFail (setPState (dropThaw s p) p psRECONNECTED) r eTHAW_TIMEOUT noItem) := by
  simp only [effThawTimeout, hfront, hjob, hbegun, hvar, hpeer, hlate, and_self, if_true, thawFails]

theorem effJoinTimeout_late (hrun : joinRun s = some (r, j)) (hlate : r.since + us (srTimeout j.args) ≤ s.clock) :
    effJoinTimeout s = settleSites (joinFails s r (srPeer j.args) eJOIN_TIMEOUT) := by
  simp only [effJoinTimeout, hrun, hlate, if_true]

/-! ### Joins (R439, R441) -/

/-- While it serves no joiner this module serves one whose entry is NEW or ISOLATED, and refuses any other. -/
theorem effJoinReq_free (hfree : s.sxServe = none) :
    effJoinReq m s p =
      if pState s p = psNEW ∨ pState s p = psISOLATED then
        sendMsg { setPState (leaveSlot s p) p psSERVING with sxServe := some { peer := p, granted := true, round := firstUnfixed s, last := s.clock } } p
          (grantMsg (firstUnfixed s) 0)
      else sendMsg s p (grantMsg 0 2) := by
  simp only [effJoinReq, hfree]

theorem effJoinRepeat_due (hjoin : s.sxJoin = some x) (hrun : joinRun s = some (r, j)) (hasks : x.granted = false)
    (hdue : x.last + pRto s x.peer ≤ s.clock) :
    effJoinRepeat s = sendMsg { s with sxJoin := some { x with last := s.clock } } x.peer (joinReqMsg (srRound j.args)) := by
  simp only [effJoinRepeat, hjoin, hrun, hasks, hdue, Bool.not_false, and_self, if_true]

/-- The first grant: every valid peer is probed with the round, and those that take no deltas yet listen for it. -/
theorem effJoinGrant_granted {v : State} (hjoin : s.sxJoin = some x) (hrun : joinRun s = some (r, j)) (hpeer : x.peer = p) (hgrant : m.arg1 = 0)
    (hasks : x.granted = false)
    (hv : v = probeAll { s with sxJoin := some { x with granted := true, round := m.arg0.toNat }, sxFrom := some (m.arg0.toNat + 2) } (validPeers s)) :
    effJoinGrant m s p = settleSites ((validPeers v).foldl (fun t q =>
      if pState t q = psNEW ∨ (pState t q = psISOLATED ∧ 4 ≤ pThaw t q) then enterListen t q (m.arg0.toNat + 2) else t) v) := by
  subst hv hpeer
  simp only [effJoinGrant, hjoin, hrun, hgrant, hasks, ne_eq, not_true_eq_false, Bool.false_eq_true, if_false, if_true]
  rfl

/-! ### Snapshots (R440) -/

/-- Once the donor has merged the round it granted, every item of its site table is queued to the joiner. -/
theorem effSnapSend_starts (hserve : s.sxServe = some x) (hup : sxuUp s = true) (hstarts : x.started = false) (hstate : pState s x.peer = psSERVING)
    (hfixed : x.round < s.sxSetRound) (hmerged : rn s rSXU_LAST_MERGED = x.round) (hu : u = { s with sxServe := some { x with started := true } }) :
    effSnapSend s = serveDone ((List.range (rn u rSXU_ST_COUNT)).foldl
      (fun s t => queueOut s { peer := x.peer, kind := 2, round := x.round, item := t, entry := t }) u) x.peer := by
  subst hu
  simp only [effSnapSend, hserve, hup, hstarts, hstate, hfixed, hmerged, Bool.not_false, and_self, if_true]

theorem effSnapDeadline_late (hserve : s.sxServe = some x) (hlate : deadlineAt s (x.round + 1) ≤ siteNow s)
    (hu : u = { s with sxServe := none, sxOut := s.sxOut.filter (fun o => !(o.peer == x.peer && o.kind == 2)) }) :
    effSnapDeadline s = sendMsg (setPState u x.peer psNEW) x.peer (grantMsg x.round 2) := by
  subst hu
  simp only [effSnapDeadline, hserve, hlate, if_true]

end Sys2Proof.Machine
end

section
/-! Probes, rounds, joins and snapshots. -/

namespace Sys2Proof.Machine

/-- Settles O23: each message is taken from its peer and has its one outcome, and each timed event past its time has its own. -/
theorem acnisProbesAndJoins : Obligations.acnis_probes_and_joins := by
  refine ⟨fun m s p hup htyp hopened hpeer u hu hround => congrArg Host.Outcome.next ((onMsg_taken hup htyp hopened hpeer hu).trans (effProbe_noJoin hround)),
    fun m s p hup htyp hopened hpeer u hu hround v hv hnew =>
      congrArg Host.Outcome.next ((onMsg_taken hup htyp hopened hpeer hu).trans (effProbe_join hround hv hnew)),
    fun m s p hup htyp hopened hpeer u hu rtt off srtt var hfirst hrtt hoff hskew hsrtt hvar t ht hstate => ?reply,
    fun s hup hdue => congrArg Host.Outcome.next (effProbePeriodic_due hup hdue),
    fun s hup hopens _ => congrArg Host.Outcome.next (effRoundOpen_opens hup hopens),
    fun s => rfl,
    fun p s r l j hfront hjob hbegun hvar hpeer hlate =>
      congrArg Host.Outcome.next (effThawTimeout_late hfront hjob hbegun hvar hpeer hlate),
    fun s r j hrun hlate => congrArg Host.Outcome.next (effJoinTimeout_late hrun hlate),
    fun m s p hup htyp hopened hpeer u hu hfree hstate =>
      congrArg Host.Outcome.next ((onMsg_taken hup htyp hopened hpeer hu).trans ((effJoinReq_free hfree).trans (if_pos hstate))),
    fun m s p hup htyp hopened hpeer u hu hfree hnew hisolated =>
      congrArg Host.Outcome.next ((onMsg_taken hup htyp hopened hpeer hu).trans ((effJoinReq_free hfree).trans (if_neg (not_or.mpr ⟨hnew, hisolated⟩)))),
    fun s x r j hjoin hrun hasks hdue => congrArg Host.Outcome.next (effJoinRepeat_due hjoin hrun hasks hdue),
    fun m s p x r j hup htyp hopened hpeer u hu hjoin hrun hx hgrant hasks v hv =>
      congrArg Host.Outcome.next ((onMsg_taken hup htyp hopened hpeer hu).trans (effJoinGrant_granted hjoin hrun hx hgrant hasks hv)),
    fun s x hserve hup hstarts hstate hfixed hmerged u hu =>
      congrArg Host.Outcome.next (effSnapSend_starts hserve hup hstarts hstate hfixed hmerged hu),
    fun s x hserve hlate u hu => congrArg Host.Outcome.next (effSnapDeadline_late hserve hlate hu),
    fun m s p hup htyp hopened hpeer u hu => congrArg Host.Outcome.next (onMsg_taken hup htyp hopened hpeer hu)⟩
  case reply =>
    subst hsrtt hvar
    exact congrArg Host.Outcome.next ((onMsg_taken hup htyp hopened hpeer hu).trans (effProbeReply_first hfirst hrtt hoff hskew ht hstate))

end Sys2Proof.Machine
end

section
/-! Acnis items received and sent: one equation for each outcome (R407, R414, R427, R428, R431, R440). -/

namespace Sys2Proof.Machine

variable {s : State} {m : AMsg} {p t k kind : Nat} {x : SxIn} {o : SxOut}

/-! ### Segments received (R407, R427, R431, R440) -/

/-- What a new segment of an item that is taken does once its bytes are stored: it is counted, noted with the item, and the item is checked. The writes
are those of a chunk of a snapshot, or of a segment of a quantised buffer. -/
theorem effSegment_stored {q : State × SxIn} {v : State × Option Nat}
    (hround : kind = 0 → roundNear s m.round.toNat = true) (htaken : kindTaken s kind p = true) (hentry : inEntry s kind m.item = some t)
    (hk : k = if kind = 2 then m.arg1.toNat * snapChunks (stGrp s t).count + m.arg0.toNat else m.arg0.toNat)
    (hq : q = openItem s p kind m) (hopen : q.2.ok = false) (hnew : q.2.segs.contains k = false) (hk_lt : k < outCount s kind t)
    (hchunk : kind = 2 → m.arg0.toNat < snapChunks (stGrp s t).count)
    (hv : v = storeAll (if kind = 2 then
        ((planeChunk s t (stGrp s t).count m.arg1.toNat m.arg0.toNat).1, fitBytes m.body (planeChunk s t (stGrp s t).count m.arg1.toNat m.arg0.toNat).2) ::
          (if m.arg1.toNat = 0 then [((stGrp s t).mwHi + 4096 * m.arg0.toNat, fitBytes m.body (planeChunk s t (stGrp s t).count m.arg1.toNat m.arg0.toNat).2)]
           else if m.arg1.toNat = 1 then
             [((stGrp s t).mwLo + 2048 * m.arg0.toNat, fitBytes m.body (planeChunk s t (stGrp s t).count m.arg1.toNat m.arg0.toNat).2)] else [])
      else segWrites (inBase q.1 q.2 t) (stGrp s t).count k m.body) q.1) (hstored : v.2 = none) :
    effSegment kind m s p = checkItem (rinc64 v.1 rSXU_RX_SEG_LO 1) { q.2 with segs := q.2.segs ++ [k] } t := by
  obtain ⟨v1, v2⟩ := v
  subst hstored hq
  have hnear : ¬ (kind = 0 ∧ (!roundNear s m.round.toNat) = true) := fun h => by simp [hround h.1] at h
  have htakes : ¬ ((openItem s p kind m).2.ok = true ∨ (openItem s p kind m).2.segs.contains k = true ∨ outCount s kind t ≤ k ∨
      (kind = 2 ∧ snapChunks (stGrp s t).count ≤ m.arg0.toNat)) := by
    simp only [hopen, hnew, Bool.false_eq_true, false_or, not_or, not_and, Nat.not_le]
    exact ⟨hk_lt, hchunk⟩
  simp only [effSegment, if_neg hnear, htaken, hentry, Bool.not_true, Bool.false_eq_true, if_false, ← hk, if_neg htakes, ← hv]

/-! ### DONE (R427, R428) -/

theorem effDone_already (h : doneAlready s kind p m = some x) : effDone kind m s p = sendAck s x := by
  simp only [effDone, h]

/-- A DONE of an item that is not complete is noted with it; the item is checked, and what it still misses is asked for. -/
theorem effDone_noted {q : State × SxIn} {v : State} (hround : kind = 0 → roundNear s m.round.toNat = true) (htaken : kindTaken s kind p = true)
    (hentry : inEntry s kind m.item = some t) (hdone : doneAlready s kind p m = none) (hq : q = openItem s p kind m) (hopen : q.2.ok = false)
    (hx : x = { q.2 with done := some (m.arg0.toNat, m.arg1.toNat, m.body.take 32, leAt m.body 32 8) }) (hv : v = checkItem q.1 x t) :
    effDone kind m s p = (match findSxIn v p kind x.round x.item with
      | some y => if y.ok ∨ missing y (outCount v kind t) = [] then v else sendNack v y (outCount v kind t)
      | none => v) := by
  subst hv hx hq
  have hnear : ¬ (kind = 0 ∧ (!roundNear s m.round.toNat) = true) := fun h => by simp [hround h.1] at h
  simp only [effDone, hdone, htaken, hentry, if_neg hnear, Bool.not_true, Bool.false_eq_true, if_false]
  exact if_neg (Bool.eq_false_iff.mp hopen)

/-! ### Sending (R414, R428) -/

/-- The peer in turn sends the next segment of its item, which moves behind the others; it is not the item's last, so that no DONE follows. -/
theorem effTransmit_next {rest : List Nat} {u : State} (hup : sxuUp s = true) (hpace : rn s rSXU_PACE ≠ 0) (hturn : turnPeer s = some p)
    (hitem : s.sxOut.find? (toSend s p) = some o) (htodo : o.todo = k :: rest) (hfirst : o.sentAll = false) (hmore : rest ≠ [])
    (hsound : (outRanges s o).findSome? (fun x => badIn s x.1 x.2) = none)
    (hu : u = sendMsg { noteReads s .sxu (outRanges s o) with sxTurn := p } p (segMsg s o k)) :
    effTransmit s p = { u with sxOut := u.sxOut.filter (fun x => !sameOut x o) ++ [{ o with todo := rest }] } := by
  subst hu
  simp only [effTransmit, hup, hpace, hturn, hitem, htodo, hsound, hfirst, hmore, Bool.not_true, Bool.false_eq_true, ne_eq, not_true_eq_false, or_self,
    false_and, if_false]

theorem effNack_named (h : outNamed s p m = some o) :
    effNack m s p = putOutItem s { o with todo := o.todo ++
      (List.range (outCount s o.kind o.entry)).filter (fun k => (nackRanges m).contains k && !o.todo.contains k) } := by
  simp only [effNack, h]

theorem effItemAck_named (h : outNamed s p m = some o) :
    effItemAck m s p = settleSites (serveDone { s with sxOut := s.sxOut.filter (fun x => !sameOut x o) } p) := by
  simp only [effItemAck, h]

/-- At a peer's timeout its unacknowledged items have their DONE sent again, and then what has not come is asked for again. -/
theorem effRto_due {u : State} (hup : sxuUp s = true) (hvalid : pValid s p = true)
    (hu : u = (s.sxOut.filter (fun o => o.peer == p && o.sentAll && decide (o.lastDone + pRto s p ≤ s.clock) && mayGo s o)).foldl sendDone s) :
    effRto s p = (u.sxIn.filter (fun x => x.peer == p && x.done.isSome && !x.ok && decide (x.lastNack + pRto s p ≤ s.clock))).foldl (fun t x =>
      match inEntry t x.kind x.item with
      | some e => if missing x (outCount t x.kind e) = [] then t else sendNack t x (outCount t x.kind e)
      | none => t) u := by
  subst hu
  exact if_neg (by simp [hup, hvalid])

end Sys2Proof.Machine
end

section
/-! Items received and sent. -/

namespace Sys2Proof.Machine

/-- Settles O24: the three kinds of item have one equation of a stored segment, one of a DONE acknowledged again and one of a DONE noted. -/
theorem acnisItemsAndSending : Obligations.acnis_items_and_sending := by
  refine ⟨fun m s p t hup htyp hopened hpeer u hu htaken hround hentry q hq hopen hnew hlt v hv hstored => ?delta,
    fun m s p t hup htyp hopened hpeer u hu htaken hentry q hq hopen hnew hlt v hv hstored => ?thawDelta,
    fun m s p t e k hup htyp hopened hpeer u hu htaken hentry he hk q hq hopen hnew hlt hchunk v hv hstored => ?snap,
    fun m s p x hup htyp hopened hpeer u hu h => congrArg Host.Outcome.next ((onMsg_taken hup htyp hopened hpeer hu).trans (effDone_already h)),
    fun m s p t hup htyp hopened hpeer u hu htaken hround hentry hdone q hq hopen x hx v hv =>
      congrArg Host.Outcome.next ((onMsg_taken hup htyp hopened hpeer hu).trans
        (effDone_noted (fun _ => hround) htaken hentry hdone hq hopen hx hv)),
    fun m s p x hup htyp hopened hpeer u hu h => congrArg Host.Outcome.next ((onMsg_taken hup htyp hopened hpeer hu).trans (effDone_already h)),
    fun m s p t hup htyp hopened hpeer u hu htaken hentry hdone q hq hopen x hx v hv =>
      congrArg Host.Outcome.next ((onMsg_taken hup htyp hopened hpeer hu).trans
        (effDone_noted (fun h => absurd h (by decide)) htaken hentry hdone hq hopen hx hv)),
    fun m s p x hup htyp hopened hpeer u hu h => congrArg Host.Outcome.next ((onMsg_taken hup htyp hopened hpeer hu).trans (effDone_already h)),
    fun m s p t hup htyp hopened hpeer u hu htaken hentry hdone q hq hopen x hx v hv =>
      congrArg Host.Outcome.next ((onMsg_taken hup htyp hopened hpeer hu).trans
        (effDone_noted (fun h => absurd h (by decide)) htaken hentry hdone hq hopen hx hv)),
    fun p k l s o hup hpace hturn hitem htodo hfirst hmore hsound u hu =>
      congrArg Host.Outcome.next (effTransmit_next hup hpace hturn hitem htodo hfirst hmore hsound hu),
    fun m s p o hup htyp hopened hpeer u hu h => congrArg Host.Outcome.next ((onMsg_taken hup htyp hopened hpeer hu).trans (effNack_named h)),
    fun m s p o hup htyp hopened hpeer u hu h => congrArg Host.Outcome.next ((onMsg_taken hup htyp hopened hpeer hu).trans (effItemAck_named h)),
    fun p s hup hvalid u hu => congrArg Host.Outcome.next (effRto_due hup hvalid hu),
    fun s => rfl⟩
  case delta =>
    exact congrArg Host.Outcome.next ((onMsg_taken hup htyp hopened hpeer hu).trans
      (effSegment_stored (fun _ => hround) htaken hentry rfl hq hopen hnew hlt (fun h => absurd h (by decide)) hv hstored))
  case thawDelta =>
    exact congrArg Host.Outcome.next ((onMsg_taken hup htyp hopened hpeer hu).trans
      (effSegment_stored (fun h => absurd h (by decide)) htaken hentry rfl hq hopen hnew hlt (fun h => absurd h (by decide)) hv hstored))
  case snap =>
    subst he
    exact congrArg Host.Outcome.next ((onMsg_taken hup htyp hopened hpeer hu).trans
      (effSegment_stored (fun h => absurd h (by decide)) htaken hentry hk hq hopen hnew hlt (fun _ => hchunk) hv hstored))

end Sys2Proof.Machine
end

section
/-! The image of a stream context, read back part by part (R500). -/

namespace Sys2Proof.Machine

/-! ### Big-endian numbers and their bytes -/

theorem natsOf_bytesOf {l : List Nat} (h : ∀ b ∈ l, b < 256) : natsOf (bytesOf l) = l := by
  rw [natsOf, bytesOf, List.map_map]
  refine (List.map_congr_left fun b hb => ?_).trans (List.map_id l)
  simp only [Function.comp_apply, BitVec.toNat_ofNat, Nat.mod_eq_of_lt (h b hb), id]

theorem beBytes_lt {v n b : Nat} (h : b ∈ beBytes v n) : b < 256 := by
  obtain ⟨i, _, rfl⟩ := List.mem_map.mp h
  exact Nat.mod_lt _ (by decide)

theorem length_beBytes (v n : Nat) : (beBytes v n).length = n := by simp [beBytes]

/-- The last byte is the number's lowest; those before it are the bytes of the rest. -/
theorem beBytes_succ (v n : Nat) : beBytes v (n + 1) = beBytes (v / 256) n ++ [v % 256] := by
  have hlead : ∀ i ∈ List.range n, v / 256 ^ (n + 1 - 1 - i) % 256 = v / 256 / 256 ^ (n - 1 - i) % 256 := fun i hi => by
    have hexp : n + 1 - 1 - i = (n - 1 - i) + 1 := by have := List.mem_range.mp hi; omega
    rw [hexp, Nat.pow_succ', Nat.div_div_eq_div_mul]
  rw [beBytes, List.range_succ, List.map_append, List.map_congr_left hlead]
  simp [beBytes]

theorem beNat_beBytes (v n : Nat) : beNat (beBytes v n) = v % 256 ^ n := by
  induction n generalizing v with
  | zero => simp [beBytes, beNat, Nat.mod_one]
  | succ n ih =>
    have happend : beNat (beBytes (v / 256) n ++ [v % 256]) = beNat (beBytes (v / 256) n) * 256 + v % 256 := List.foldl_append ..
    rw [beBytes_succ, happend, ih, Nat.pow_succ', Nat.mod_mul]
    omega

/-! ### The parts of the image -/

def imageWord (x : CipherCtx) : Nat := 2 ^ 24 + x.smode * 2 ^ 22 + b2n (decide (0 < x.dataTotal)) * 2 ^ 21 + x.slot * 256

/-- The image's parts in order, and their widths in bytes. -/
def imageParts (x : CipherCtx) : List (List Byte) :=
  [le32 (imageWord x), le32 0, bytesOf x.kcv, bytesOf (beBytes x.j0 16), bytesOf (beBytes x.cb 16), bytesOf (beBytes x.y 16), le64 x.aadTotal,
   le64 x.dataTotal, le64 (x.outBase.getD 0), zeroBytes 40]
def imageWidths : List Nat := [4, 4, 8, 16, 16, 16, 8, 8, 8, 40]

theorem ctxImage_eq_parts (x : CipherCtx) : ctxImage x = (imageParts x).flatten := by
  simp only [ctxImage, imageParts, imageWord, List.flatten_cons, List.flatten_nil, List.append_nil, List.append_assoc]

variable {x : CipherCtx}

theorem imageParts_widths (hkcv : x.kcv.length = 8) : (imageParts x).map List.length = imageWidths := by
  simp [imageParts, imageWidths, le32, le64, length_leBytes, bytesOf, length_beBytes, hkcv, zeroBytes]

/-- A part stands in the image at the sum of the widths before it. -/
theorem ctxImage_part (hkcv : x.kcv.length = 8) (k : Nat) (hk : k < 10) :
    ((ctxImage x).drop ((imageWidths.take k).sum)).take ((imageWidths.take (k + 1)).sum - (imageWidths.take k).sum) = (imageParts x)[k]'hk := by
  rw [ctxImage_eq_parts, ← imageParts_widths hkcv, ← List.drop_take]
  exact List.drop_take_succ_flatten_eq_getElem (imageParts x) k hk

/-- The bytes behind the last field are zero. -/
theorem ctxImage_tail (hkcv : x.kcv.length = 8) : (ctxImage x).drop 0x58 = zeroBytes 40 := by
  have htail := List.drop_sum_flatten (imageParts x) 9
  rw [imageParts_widths hkcv] at htail
  rw [ctxImage_eq_parts]
  exact htail

/-- A little-endian number among the parts reads as the number, cut to its width. -/
theorem leAt_ctxImage (hkcv : x.kcv.length = 8) (k : Nat) (hk : k < 10) {v n o : Nat} (hpart : (imageParts x)[k]'hk = leBytes v n)
    (ho : o = (imageWidths.take k).sum) (hn : n = (imageWidths.take (k + 1)).sum - (imageWidths.take k).sum) :
    leAt (ctxImage x) o n = v % 256 ^ n := by
  have hbytes := ctxImage_part hkcv k hk
  rw [← hn, ← ho, hpart] at hbytes
  rw [leAt, hbytes, bytesLe_leBytes]

/-- So does a block of 16 bytes, most significant byte first. -/
theorem block_ctxImage (hkcv : x.kcv.length = 8) (k : Nat) (hk : k < 10) {v o : Nat} (hpart : (imageParts x)[k]'hk = bytesOf (beBytes v 16))
    (ho : o = (imageWidths.take k).sum) (hn : 16 = (imageWidths.take (k + 1)).sum - (imageWidths.take k).sum) (hfits : v < 2 ^ 128) :
    beNat (natsOf (((ctxImage x).drop o).take 16)) = v := by
  have hbytes := ctxImage_part hkcv k hk
  rw [← hn, ← ho, hpart] at hbytes
  rw [hbytes, natsOf_bytesOf fun _ => beBytes_lt, beNat_beBytes]
  exact Nat.mod_eq_of_lt hfits

/-- Each field of the image's first word reads as it was put in. -/
theorem imageWord_fields (hmode : x.smode < 3) (hslot : x.slot < 64) {w : Nat} (hw : w = imageWord x % 256 ^ 4) :
    nbits w 31 24 = 1 ∧ nbits w 23 22 = x.smode ∧ nbit w 21 = decide (0 < x.dataTotal) ∧ nbits w 20 14 = 0 ∧ nbits w 13 8 = x.slot ∧ nbits w 7 0 = 0 := by
  have hdata := b2n_le_one (decide (0 < x.dataTotal))
  rw [imageWord] at hw
  simp only [nbits]
  refine ⟨?_, ?_, nbit_of_b2n ?_, ?_, ?_, ?_⟩
  all_goals omega

/-- OUT_BASE is there exactly where a decrypting context has taken data, and then it reads as it was. -/
theorem outBase_restored (hsome : x.outBase.isSome = true ↔ x.smode = 1 ∧ 0 < x.dataTotal) (hbase : ∀ b, x.outBase = some b → b < 2 ^ 64) :
    (if (x.smode == 1 && decide (0 < x.dataTotal)) = true then some (x.outBase.getD 0 % 256 ^ 8) else none) = x.outBase := by
  cases hout : x.outBase with
  | none =>
    have hnone : ¬ (x.smode = 1 ∧ 0 < x.dataTotal) := fun h => by simpa [hout] using hsome.mpr h
    exact if_neg (by simpa using hnone)
  | some b =>
    have htaken : x.smode = 1 ∧ 0 < x.dataTotal := hsome.mp (by rw [hout]; rfl)
    have hfits : b % 256 ^ 8 = b := Nat.mod_eq_of_lt (hbase b hout)
    rw [if_pos (by simpa using htaken), Option.getD_some, hfits]

end Sys2Proof.Machine
end

section
/-! A context restored from its image. -/

namespace Sys2Proof.Machine

/-- Settles O28: each part of the image reads as the field it was made from, and the reserved ones read zero. -/
theorem contextImageRoundTrip : Obligations.context_image_round_trip := by
  intro x hopen hmode hslot hkcv hkcvBytes hj0 hcb hy haad hdata hbase hsome
  obtain ⟨hversion, hsmode, hflag, hres1, hslotField, hres0⟩ :=
    imageWord_fields hmode hslot (leAt_ctxImage hkcv 0 (by decide) (n := 4) (o := 0) rfl rfl rfl)
  have hreserved : leAt (ctxImage x) 4 4 = 0 := leAt_ctxImage hkcv 1 (by decide) (n := 4) (o := 4) rfl rfl rfl
  have hzeros : ((ctxImage x).drop 0x58).any (· != 0) = false := by rw [ctxImage_tail hkcv]; decide
  have hkcvField : natsOf (((ctxImage x).drop 8).take 8) = x.kcv :=
    (congrArg natsOf (ctxImage_part hkcv 2 (by decide))).trans (natsOf_bytesOf hkcvBytes)
  have hj0Field : beNat (natsOf (((ctxImage x).drop 0x10).take 16)) = x.j0 := block_ctxImage hkcv 3 (by decide) rfl rfl rfl hj0
  have hcbField : beNat (natsOf (((ctxImage x).drop 0x20).take 16)) = x.cb := block_ctxImage hkcv 4 (by decide) rfl rfl rfl hcb
  have hyField : beNat (natsOf (((ctxImage x).drop 0x30).take 16)) = x.y := block_ctxImage hkcv 5 (by decide) rfl rfl rfl hy
  have haadField : leAt (ctxImage x) 0x40 8 = x.aadTotal :=
    (leAt_ctxImage hkcv 6 (by decide) (n := 8) (o := 0x40) rfl rfl rfl).trans (Nat.mod_eq_of_lt haad)
  have hdataField : leAt (ctxImage x) 0x48 8 = x.dataTotal :=
    (leAt_ctxImage hkcv 7 (by decide) (n := 8) (o := 0x48) rfl rfl rfl).trans (Nat.mod_eq_of_lt hdata)
  have hbaseField : leAt (ctxImage x) 0x50 8 = x.outBase.getD 0 % 256 ^ 8 :=
    leAt_ctxImage hkcv 8 (by decide) (n := 8) (o := 0x50) rfl rfl rfl
  have hmode3 : x.smode ≠ 3 := Nat.ne_of_lt hmode
  simp only [imageCtx, hversion, hsmode, hflag, hres1, hslotField, hres0, hreserved, hzeros, hkcvField, hj0Field, hcbField, hyField, haadField, hdataField,
    hbaseField, hmode3, outBase_restored hsome hbase, ne_eq, not_true_eq_false, Bool.false_eq_true, or_self, if_false]
  rw [← hopen]

end Sys2Proof.Machine
end

section
/-! Commands of the cipher engine, its streams, its roots, and the messages it works on for SXU: one equation for each outcome (R425, R426, R478–R480, R482, R486, R487, R490, R492–R502). -/

namespace Sys2Proof.Machine

variable {s t u w : State} {r : JobRef} {p v c owner : Nat} {j : Job} {x : Part} {y : CipherCtx} {key pt : List Nat} {a : List Byte} {o q : State × Option Nat}
  {m : AMsg}

theorem cphUp_notLatched (h : cphUp s = true) : cphLatched s = false := by
  simp only [cphUp, Bool.and_eq_true, Bool.not_eq_true'] at h
  exact h.2

/-! ### The queued class (R482, R487, R490, R492–R494) -/

/-- At its turn, with the engine up, a command leaves the queue and its variant's work is done. -/
theorem cphRun_turn {f : State → Job → State} (hu : u = cphPrune s) (hfresh : freshOf u r p 0xE v = some (j, x)) (hfirst : cphFirst u (.cmd r p) = true)
    (hw : w = { u with cphQ := u.cphQ.filter (· != CphReq.cmd r p) }) (hup : cphUp w = true) : cphRun s r p v f = refreshCph (f w j) := by
  have hlatched : cphLatched u = false := by
    rw [hw] at hup
    exact cphUp_notLatched hup
  simp only [cphRun, ← hu, hfresh, hlatched, hfirst, ← hw, hup, Bool.not_true, Bool.false_eq_true, if_false, if_true]

theorem doSeal_sealed {g : List Nat × List Nat} (hkey : slotFor s (ciSlot j.args) 0 = .ok key)
    (hsound : (badIn s (ciIn j.args) (ciLen j.args)).or (badIn s (ciAad j.args) (ciAadLen j.args)) = none)
    (hg : g = gcmSealBytes key ((ciIv j.args).take 12) (natsOf (rdBytes s (ciAad j.args) (ciAadLen j.args))) (natsOf (rdBytes s (ciIn j.args) (ciLen j.args))))
    (ho : o = putOut (noteReads s .cph (ciReads j)) (ciIns j.args) (ciOut j.args) (ciLen j.args) (bytesOf g.1)) (hout : o.2 = none)
    (hq : q = putOut o.1 (ciIns j.args) (ciTag j.args) 16 (bytesOf g.2)) (htag : q.2 = none) :
    doSeal r p s j = cphDone q.1 r p (cdiv (ciLen j.args) 4096) (ciLen j.args + ciAadLen j.args) := by
  obtain ⟨o1, o2⟩ := o
  obtain ⟨q1, q2⟩ := q
  subst hout htag
  simp only [doSeal, hkey, hsound, ← hg, ← ho, ← hq]

theorem doSeal_noKey {e : Nat} (hkey : slotFor s (ciSlot j.args) 0 = .error e) : doSeal r p s j = cphFail s r p e := by
  simp only [doSeal, hkey]

theorem doOpen_opened (hkey : slotFor s (ciSlot j.args) 0 = .ok key)
    (hsound : ((badIn s (ciIn j.args) (ciLen j.args)).or (badIn s (ciAad j.args) (ciAadLen j.args))).or (badIn s (ciTag j.args) 16) = none)
    (hopens : gcmOpenBytes key ((ciIv j.args).take 12) (natsOf (rdBytes s (ciAad j.args) (ciAadLen j.args))) (natsOf (rdBytes s (ciIn j.args) (ciLen j.args)))
      (natsOf (rdBytes s (ciTag j.args) 16)) = some pt)
    (ho : o = putOut (noteReads s .cph (ciReads j)) ((ciTag j.args, 16) :: ciIns j.args) (ciOut j.args) (ciLen j.args) (bytesOf pt)) (hout : o.2 = none) :
    doOpen r p s j = cphDone o.1 r p 1 (ciLen j.args + ciAadLen j.args) := by
  obtain ⟨o1, o2⟩ := o
  subst hout
  simp only [doOpen, hkey, hsound, hopens, ← ho]

/-- A wrong tag: zeros are written where the plaintext would be, and the command fails. -/
theorem doOpen_wrongTag (hkey : slotFor s (ciSlot j.args) 0 = .ok key)
    (hsound : ((badIn s (ciIn j.args) (ciLen j.args)).or (badIn s (ciAad j.args) (ciAadLen j.args))).or (badIn s (ciTag j.args) 16) = none)
    (hwrong : gcmOpenBytes key ((ciIv j.args).take 12) (natsOf (rdBytes s (ciAad j.args) (ciAadLen j.args))) (natsOf (rdBytes s (ciIn j.args) (ciLen j.args)))
      (natsOf (rdBytes s (ciTag j.args) 16)) = none) (ht : t = noteReads s .cph (ciReads j)) :
    doOpen r p s j =
      cphFail (rinc (storeNoted t .cph (ciOut j.args) (zeroBytes (ciLen j.args)) (modFloe t) (some (jobCmd t r))) rCPH_AUTH_FAIL 1) r p eCPH_AUTH := by
  subst ht
  simp only [doOpen, hkey, hsound, hwrong]

theorem doCtr_done (hkey : slotFor s (ciSlot j.args) 1 = .ok key) (hsound : badIn s (ciIn j.args) (ciLen j.args) = none)
    (ho : o = putOut (noteReads s .cph (ciReads j)) [(ciIn j.args, ciLen j.args)] (ciOut j.args) (ciLen j.args)
      (bytesOf (aesCtr true key (beNat (ciIv j.args)) (natsOf (rdBytes s (ciIn j.args) (ciLen j.args)))))) (hout : o.2 = none) :
    doCtr r p s j = cphDone o.1 r p (cdiv (ciLen j.args) 4096) (ciLen j.args) := by
  obtain ⟨o1, o2⟩ := o
  subst hout
  simp only [doCtr, hkey, hsound, ← ho]

theorem doCmac_done (hkey : slotFor s (ciSlot j.args) 2 = .ok key) (hsound : badIn s (ciIn j.args) (ciLen j.args) = none)
    (ho : o = putOut (noteReads s .cph (ciReads j)) [(ciIn j.args, ciLen j.args)] (ciTag j.args) 16
      (bytesOf (cmacBytes key (natsOf (rdBytes s (ciIn j.args) (ciLen j.args)))))) (hout : o.2 = none) :
    doCmac r p s j = cphDone o.1 r p 1 (ciLen j.args) := by
  obtain ⟨o1, o2⟩ := o
  subst hout
  simp only [doCmac, hkey, hsound, ← ho]

theorem doDerive_done (hroot : rootKey s (ciRoot j.args) = some key) (hsound : badIn s (ciAad j.args) 48 = none) :
    doDerive r p s j = cphDone (putKs { noteReads s .cph (ciReads j) with keysUsed := true } (ciSlot j.args)
      ⟨true, deriveKey key (natsOf (rdBytes s (ciAad j.args) 16)) (natsOf (rdBytes s (ciAad j.args + 16) 32)), ciUsage j.args, ciRoot j.args,
       ((getKs s (ciSlot j.args)).kgen + 1) % 256⟩) r p 1 0 := by
  simp only [doDerive, hroot, hsound]

/-- With no message of SXU waiting, the entry that has freed goes to the oldest waiting command. -/
theorem effEntryFreed_command {e : JobRef × Nat} {l : List (JobRef × Nat)} (hu : u = cphPrune s) (hwaits : u.cphWait = e :: l) (hroom : cphCmds u < 512)
    (hsxu : u.sxuWait = []) : effEntryFreed s = refreshCph { u with cphQ := u.cphQ ++ [CphReq.cmd e.1 e.2], cphWait := l } := by
  simp only [effEntryFreed, ← hu, hwaits, hroom, hsxu, if_true]

/-! ### The stream class (R496, R498–R500, R502) -/

/-- A stream-class command with no earlier one of its context left does its work, the engine being up. -/
theorem streamRun_turn {f : State → JobRef → Nat → Job → State} (hfresh : freshOf s r p 0xE v = some (j, x))
    (hearlier : streamEarlier s r (ciCtx j.args) = false) (hup : cphUp s = true) : streamRun s r p v f = refreshCph (f s r p j) := by
  simp only [streamRun, hfresh, hearlier, hup, Bool.false_eq_true, if_false, if_true]

/-- A segment within the limits whose output, if it decrypts, is empty: it is written, and the stream goes on or ends. -/
theorem doStream_segment {g : CipherCtx × List Nat} (hctx : streamCtx s j.args = .ok y) (hdata : y.dataTotal + ciLen j.args ≤ 2 ^ 36 - 32)
    (haad : y.aadTotal + ciAadLen j.args ≤ 2 ^ 32 - 16) (hempty : y.smode = 1 → ciLen j.args = 0)
    (hsound : (badIn s (ciIn j.args) (ciLen j.args)).or (badIn s (ciAad j.args) (ciAadLen j.args)) = none)
    (hg : g = segment (getKs s y.slot).key y (natsOf (rdBytes s (ciAad j.args) (ciAadLen j.args))) (natsOf (rdBytes s (ciIn j.args) (ciLen j.args)))
      (ciOut j.args))
    (ho : o = putOut (noteReads s .cph (ciReads j)) ((if ciFinal j.args && y.smode == 1 then [(ciTag j.args, 16)] else []) ++ ciIns j.args) (ciOut j.args)
      (ciLen j.args) (bytesOf g.2)) (hout : o.2 = none) :
    doStream s r p j = finishStream o.1 r p (ciCtx j.args) j.args (getKs s y.slot).key g.1 := by
  obtain ⟨o1, o2⟩ := o
  subst hout
  have hlimits : ¬ (2 ^ 36 - 32 < y.dataTotal + ciLen j.args ∨ 2 ^ 32 - 16 < y.aadTotal + ciAadLen j.args) :=
    not_or.mpr ⟨Nat.not_lt.mpr hdata, Nat.not_lt.mpr haad⟩
  have horder : ¬ (y.smode = 1 ∧ ciLen j.args ≠ 0 ∧ ((y.outBase.map (· + y.dataTotal)).getD (ciOut j.args)) ≠ ciOut j.args) :=
    fun h => h.2.1 (hempty h.1)
  simp only [doStream, hctx, if_neg hlimits, if_neg horder, hsound, ← hg, ← ho]

theorem finishStream_notFinal (hfinal : ciFinal a = false) :
    finishStream s r p c a key y = cphDone (putCx s c y) r p (if y.smode = 1 then 1 else cdiv (ciLen a) 4096) (ciLen a + ciAadLen a) := by
  simp only [finishStream, hfinal, Bool.not_false, if_true]

/-- The last segment of a decrypting context: the tag given is compared with the context's. -/
theorem finishStream_checked (hfinal : ciFinal a = true) (hmode : y.smode = 1) (hsound : badIn s (ciTag a) 16 = none) (ht : t = noteRead s .cph (ciTag a) 16) :
    finishStream s r p c a key y =
      if natsOf (rdBytes t (ciTag a) 16) = ctxTag key y then cphDone (freeCx t c) r p 1 (ciLen a + ciAadLen a)
      else streamFail (rinc (wipeCtx t y) rCPH_AUTH_FAIL 1) r p c eCPH_AUTH := by
  have h12 : (1 : Nat) ≠ 2 := by decide
  simp only [finishStream, hfinal, hmode, hsound, ← ht, h12, Nat.one_ne_zero, Bool.not_true, Bool.false_eq_true, if_false, if_true]

theorem doSave_clear (hopen : (getCx s (ciCtx j.args)).isOpen = true) (hclear : ciWrapped j.args = false)
    (ho : o = storeBytes s .cph (ciOut j.args) (ctxImage (getCx s (ciCtx j.args)))) (hout : o.2 = none) : doSave s r p j = cphDone o.1 r p 1 0 := by
  obtain ⟨o1, o2⟩ := o
  subst hout
  simp only [doSave, hopen, hclear, ← ho, Bool.not_true, Bool.false_eq_true, if_false]

theorem doRestore_restored {im : List Byte} (hclosed : (getCx s (ciCtx j.args)).isOpen = false)
    (hsound : badIn s (ciIn j.args) (if ciWrapped j.args then 160 else 128) = none) (ht : t = noteReads s .cph (ciReads j))
    (hread : readImage t j.args = .ok im) (himage : imageCtx im = some y) (hkcv : slotKcv (getKs t y.slot) = y.kcv) :
    doRestore s r p j = cphDone (putCx t (ciCtx j.args) y) r p 1 0 := by
  simp only [doRestore, hclosed, hsound, ← ht, hread, himage, hkcv, Bool.false_eq_true, ne_eq, not_true_eq_false, if_false]

/-! ### Roots and LID_EN (R478, R479, R486) -/

theorem rootOwner_iff : rootOwner owner = true ↔ owner = 109 ∨ owner = 110 := by simp [rootOwner]

/-- A write of the RoT to an engine that is not latched: CLEAR empties the root that the selector names, then LOAD loads it. -/
theorem effRootCtl_selected {d : Word} {n : Nat} (howner : owner = 109 ∨ owner = 110) (hthere : winThere s winCph = true) (hlatched : cphLatched s = false)
    (hsel : rfld s rCPH_ROOT_SEL 2 0 = n) (hroot : n ≠ 0) (ht : t = if wbit d 1 then setRoot s n [] else s) :
    effRootCtl s owner d =
      if wbit d 0 then (List.range 8).foldl (fun s k => rputN s (rCPH_ROOT_DATA + 4 * k) 0) { setRoot t n (rootData t) with keysUsed := true } else t := by
  subst ht
  simp only [effRootCtl, hthere, rootOwner_iff.mpr howner, hlatched, hsel, hroot, bne_iff_ne, ne_eq, not_false_eq_true, Bool.not_true, Bool.false_eq_true,
    if_false, Bool.and_eq_true, and_true]

theorem effRootCtl_stranger {d : Word} (h109 : owner ≠ 109) (h110 : owner ≠ 110) (hthere : winThere s winCph = true) :
    effRootCtl s owner d = rinc s rCPH_ROOT_REJ 1 := by
  have hstranger : rootOwner owner = false := Bool.eq_false_iff.mpr fun h => (rootOwner_iff.mp h).elim h109 h110
  simp only [effRootCtl, hthere, hstranger, Bool.not_true, Bool.not_false, Bool.false_eq_true, if_false, if_true]

/-- Only owner 110 is a core that a reset can hold. -/
theorem hartHeld_other (h : owner ≠ 110) : hartHeld s owner = false := by simp [hartHeld, h]

theorem effLidEn_written {d : Word} (hthere : winThere s winCph = true) (hallowed : wbit d 0 = true ∨ s.keysUsed = false) :
    effLidEn s d = rputBit s rCPH_ALARM_CFG 0 (wbit d 0) :=
  if_neg (by rcases hallowed with h | h <;> simp [hthere, h])

theorem effLidEn_kept {d : Word} (hzero : wbit d 0 = false) (hused : s.keysUsed = true) : effLidEn s d = s := if_pos (.inr ⟨by simp [hzero], hused⟩)

/-! ### SXU's messages (R425, R426, R494, R495) -/

/-- A request to seal a message. -/
def isSealReq (m : AMsg) (r : CphReq) : Bool := match r with | .sxu _ x => x == m | _ => false

theorem effSeal_sealed {ad : SxTo} {x : AMsg} {g : List Nat × List Nat} (hfind : s.cphQ.find? (isSealReq m) = some (.sxu ad x))
    (hfirst : cphFirst s (.sxu ad x) = true) (hup : cphUp s = true) (hkey : slotFor s ad.slot 0 = .ok key)
    (hu : u = refreshCph { s with cphQ := s.cphQ.erase (.sxu ad x) })
    (hg : g = gcmSealBytes key (acnisIv x) (natsOf (acnisHeader x)) (pad16 (natsOf x.body))) :
    effSeal s m = acnisSend (rinc64 (rinc64 u rCPH_REQS_LO 1) rCPH_BYTES_LO (g.1.length + 32)) ad { x with body := bytesOf g.1, tag := bytesOf g.2 } := by
  subst hu hg
  unfold effSeal
  split
  next ad' x' hfind' =>
    obtain ⟨rfl, rfl⟩ : ad' = ad ∧ x' = x := by simpa using hfind'.symm.trans hfind
    simp only [hfirst, hup, hkey, Bool.not_true, Bool.false_eq_true, if_false, if_true]
  next hother => exact absurd hfind (hother ad x)

theorem effOpen_replayed (hup : sxuUp s = true) (hpeer : msgPeer s m = some p) (hold : replayed (getSx s p) m.keyEpoch m.seq.toNat = true) :
    effOpen s m = rinc s rSXU_REPLAY_DROP 1 := by
  simp only [effOpen, hup, hpeer, hold, Bool.not_true, Bool.false_eq_true, if_false, if_true]

/-- A new message enters the engine's queue; as the first of its slot it is opened at once. -/
theorem effOpen_turn (hup : sxuUp s = true) (hpeer : msgPeer s m = some p) (hnew : replayed (getSx s p) m.keyEpoch m.seq.toNat = false)
    (hlatched : cphLatched s = false) (hfresh : (s.cphQ ++ s.sxuWait).any (isOpenReq m) = false) (ht : t = sxuArrive s (.sxuOpen p (pSlot s p) m))
    (hfind : t.cphQ.find? (isOpenReq m) = some (.sxuOpen p (pSlot s p) m)) (hfirst : cphFirst t (.sxuOpen p (pSlot s p) m) = true)
    (hw : w = refreshCph { t with cphQ := t.cphQ.erase (.sxuOpen p (pSlot s p) m) }) : effOpen s m = openMsg w p (pSlot s p) m := by
  subst hw
  simp only [effOpen, hup, hpeer, hnew, hlatched, hfresh, ← ht, hfind, hfirst, Bool.not_true, Bool.false_eq_true, if_false, if_true]

/-- A message that opens is counted, its number is accepted, and it stands among those opened. -/
theorem openMsg_opened {n : Nat} (hnew : replayed (getSx s p) m.keyEpoch m.seq.toNat = false) (hup : cphUp s = true) (hkey : slotFor s n 0 = .ok key)
    (hopens : gcmOpenBytes key (acnisIv m) (natsOf (acnisHeader m)) (natsOf m.body) (natsOf m.tag) = some pt)
    (hu : u = putSx (rinc64 (rinc64 s rCPH_REQS_LO 1) rCPH_BYTES_LO (m.body.length + 32)) p (acceptSeq (getSx s p) m.keyEpoch m.seq.toNat)) :
    openMsg s p n m = { u with sxRx := u.sxRx ++ [{ m with body := (bytesOf pt).take m.len, tag := [] }] } := by
  subst hu
  simp only [openMsg, hnew, hup, hkey, hopens, Bool.false_eq_true, if_false, if_true]

end Sys2Proof.Machine
end

section
/-! Commands, streams and keys of the cipher engine, and SXU's messages. -/

namespace Sys2Proof.Machine

/-- Settles O26: a command at its turn has its variant's outcome, and an entry that frees lets the oldest waiting command in. -/
theorem cipherCommands : Obligations.cipher_commands := by
  refine ⟨fun r p s j x key u hu hfresh hfirst w hw hup hkey hsound g hg o ho hout t ht htag => ?sealed,
    fun r p s j x key pt u hu hfresh hfirst w hw hup hkey hsound hopens o ho hout => ?opened,
    fun r p s j x key u hu hfresh hfirst w hw hup hkey hsound hwrong => ?wrongTag,
    fun r p s j x e u hu hfresh hfirst w hw hup hkey => ?noKey,
    fun r p s j x key u hu hfresh hfirst w hw hup hkey hsound o ho hout => ?ctr,
    fun r p s j x key u hu hfresh hfirst w hw hup hkey hsound o ho hout => ?cmac,
    fun r p s j x key u hu hfresh hfirst w hw hup hroot hsound => ?derive,
    fun r p s j x u hu hfresh hfirst w hw hup => congrArg Host.Outcome.next (cphRun_turn hu hfresh hfirst hw hup),
    fun s x l u hu hwaits hroom hsxu => congrArg Host.Outcome.next (effEntryFreed_command hu hwaits hroom hsxu)⟩
  all_goals refine congrArg Host.Outcome.next ((cphRun_turn hu hfresh hfirst hw hup).trans (congrArg refreshCph ?_))
  case sealed => exact doSeal_sealed hkey hsound hg ho hout ht htag
  case opened => exact doOpen_opened hkey hsound hopens ho hout
  case wrongTag => exact doOpen_wrongTag hkey hsound hwrong rfl
  case noKey => exact doSeal_noKey hkey
  case ctr => exact doCtr_done hkey hsound ho hout
  case cmac => exact doCmac_done hkey hsound ho hout
  case derive => exact doDerive_done hroot hsound

/-- Settles O27: a segment, the two ends of a stream, and a context saved and restored. -/
theorem cipherStreams : Obligations.cipher_streams :=
  ⟨fun _ _ _ _ _ _ hfresh hearlier hup hctx hdata haad hempty hsound _ hg _ ho hout => congrArg Host.Outcome.next
     ((streamRun_turn hfresh hearlier hup).trans (congrArg refreshCph (doStream_segment hctx hdata haad hempty hsound hg ho hout))),
   fun _ _ _ _ _ _ _ hfinal => finishStream_notFinal hfinal,
   fun _ _ _ _ _ _ _ hfinal hmode hsound _ ht => finishStream_checked hfinal hmode hsound ht,
   fun _ _ _ _ _ hfresh hearlier hup hopen hclear _ ho hout => congrArg Host.Outcome.next
     ((streamRun_turn hfresh hearlier hup).trans (congrArg refreshCph (doSave_clear hopen hclear ho hout))),
   fun _ _ _ _ _ _ _ hfresh hearlier hup hclosed hsound hread himage hkcv => congrArg Host.Outcome.next
     ((streamRun_turn hfresh hearlier hup).trans (congrArg refreshCph (doRestore_restored hclosed hsound rfl hread himage hkcv)))⟩

/-- Settles O29: the RoT's two writes and a stranger's, LID_EN, a message sealed, and an arriving one opened or dropped as a repeat. -/
theorem cipherRootsAndSites : Obligations.cipher_roots_and_sites := by
  refine ⟨fun o r s howner hrun hthere hlatched hsel hroot => congrArg Host.Outcome.next
      ((byAgent_running hrun).trans ((effRootCtl_selected (d := 0 ||| 1) (t := s) howner hthere hlatched hsel hroot (if_neg (by decide)).symm).trans (if_pos (by decide)))),
    fun o r s howner hrun hthere hlatched hsel hroot => congrArg Host.Outcome.next
      ((byAgent_running hrun).trans ((effRootCtl_selected (d := 0 ||| 2) (t := setRoot s r []) howner hthere hlatched hsel hroot (if_pos (by decide)).symm).trans (if_neg (by decide)))),
    fun o v s h109 h110 hthere => ?stranger,
    fun v s hthere hallowed => congrArg Host.Outcome.next (effLidEn_written hthere hallowed),
    fun v s hzero hused => congrArg Host.Outcome.next (effLidEn_kept hzero hused),
    fun m x ad key s hfind hfirst hup hkey u hu g hg => congrArg Host.Outcome.next (effSeal_sealed hfind hfirst hup hkey hu hg),
    fun m p key pt s hup hpeer hnew hlatched hfresh t ht hfind hfirst w hw hnew' hcph hkey hopens u hu => congrArg Host.Outcome.next
      ((effOpen_turn hup hpeer hnew hlatched hfresh ht hfind hfirst hw).trans (openMsg_opened hnew' hcph hkey hopens hu)),
    fun m p s hup hpeer hold => congrArg Host.Outcome.next (effOpen_replayed hup hpeer hold)⟩
  case stranger =>
    constructor
    all_goals exact congrArg Host.Outcome.next ((byAgent_running (hartHeld_other h110)).trans (effRootCtl_stranger h109 h110 hthere))

end Sys2Proof.Machine
end

section
/-! Site time and its timers: one equation for each outcome (R450–R453, R456, R457). -/

namespace Sys2Proof.Machine

variable {s u : State} {t t1 t2 t3 t4 : DWord} {l n : Nat} {off po y li : Int} {b f : Bool}

/-! ### PPS (R450, R452) -/

theorem effPps_disabled (h : rbit s rTIME_CFG 0 = false) : effPps s t = s := by
  simp only [effPps, h, Bool.not_false, if_true]

/-- While PPS is locked an edge is one second after the last, and measures the offset to it; without PTP there is nothing to compare it with. -/
theorem effPps_locked {e : Int} (hcfg : rbit s rTIME_CFG 0 = true) (hu : u = seen { s with time := { s.time with ppsLast := some s.clock } })
    (hlocked : u.time.ppsLocked = true) (hptp : u.time.ptpOff = none) (he : (t.toNat : Int) - ppsDelay u = e) (hoff : u.time.second + 1000000000 - e = off) :
    effPps s t = setTime (rputN { u with time := { u.time with second := u.time.second + 1000000000 } } rTIME_OFFSET (sat32 off))
      { u.time with second := u.time.second + 1000000000, offset := off } := by
  subst hoff he
  simp only [effPps, hcfg, ← hu, hlocked, hptp, Bool.not_true, Bool.false_eq_true, if_false, if_true]
  rfl

/-- Before PPS is locked an edge is held against the second that PTP gives for it: near one it counts, the fourth in a row locks, and any other starts
the count again. -/
theorem effPps_acquiring (hcfg : rbit s rTIME_CFG 0 = true) (hu : u = seen { s with time := { s.time with ppsLast := some s.clock } })
    (hacquiring : u.time.ppsLocked = false) (hptp : u.time.ptpOff = some po) (hy : (t.toNat : Int) - ppsDelay u + po = y) :
    effPps s t =
      if (nearSec y - y).natAbs ≤ 100 then
        if 3 ≤ u.time.ppsRun then
          lockTo { u with time := { u.time with ppsRun := 4, ppsLocked := true, second := nearSec y } } 2 (nearSec y - (t.toNat - ppsDelay u))
        else { u with time := { u.time with ppsRun := u.time.ppsRun + 1 } }
      else { u with time := { u.time with ppsRun := 0 } } := by
  subst hy
  simp only [effPps, hcfg, ← hu, hacquiring, hptp, Bool.not_true, Bool.false_eq_true, if_false]

theorem effPpsMissing_early (hlast : s.time.ppsLast = some l) (hearly : s.clock < l + 1500000000) : effPpsMissing s = s := by
  simp only [effPpsMissing, hlast, hearly, if_true]

/-- 1.5 s without an edge end the lock: PTP takes over where it is locked, and a time that PPS alone kept is held over. -/
theorem effPpsMissing_late (hlast : s.time.ppsLast = some l) (hlate : l + 1500000000 ≤ s.clock)
    (hu : u = { s with time := { s.time with ppsRun := 0, ppsLocked := false, ppsLast := none } }) :
    effPpsMissing s = (match s.time.ptpOff with
      | some po => if s.time.ptpLocked ∧ s.time.code ≠ 3 then lockTo u 3 po else ppsLost u s.time
      | none => ppsLost u s.time) := by
  subst hu
  simp only [effPpsMissing, hlast]
  exact if_neg (Nat.not_lt.mpr hlate)

/-! ### PTP (R451, R452) -/

theorem effSync_ignored (h : n ≠ ptpDomain s ∨ (b = true ∧ f = false)) : effSync s t1 b f n li = s :=
  if_pos (h.imp_right fun ⟨hb, hf⟩ => by simp [hb, hf])

/-- An accepted Sync has the client ask for the delay, and gives an offset where the delay is known. -/
theorem effSync_accepted (hdomain : n = ptpDomain s) (hfollow : b = true → f = true)
    (hu : u = emit (seen { s with time := { s.time with ptpSeen := true, syncAt := s.clock, syncNs := intervalNs li } }) (.frame "Delay_Req" [])) :
    effSync s t1 b f n li = (match u.time.delay with
      | some d => notePtp u ((t1.toNat : Int) + d - (siteNow u : Int))
      | none => u) := by
  subst hu
  have haccepted : ¬ (n ≠ ptpDomain s ∨ (b && !f) = true) := by
    rw [not_or]
    exact ⟨not_not_intro hdomain, by simpa using hfollow⟩
  exact if_neg haccepted

theorem effDelayResp_seen {a c : Int} (hseen : s.time.ptpSeen = true) (ha : (t2.toNat : Int) - t1.toNat = a) (hc : (t4.toNat : Int) - t3.toNat = c) :
    effDelayResp s t1 t2 t3 t4 = notePtp { s with time := { s.time with delay := some ((a + c) / 2) } } ((c - a) / 2) := by
  subst ha hc
  simp only [effDelayResp, hseen, Bool.not_true, Bool.false_eq_true, if_false]

/-- 16 s within 1 µs lock PTP, and site time to it where PPS gives none. -/
theorem effPtpLock_locks (hoff : s.time.ptpOff = some off) (hseen : s.time.ptpSeen = true) (hfree : s.time.ptpLocked = false)
    (hgood : s.time.goodSince + 16000000000 ≤ s.clock) (hu : u = { s with time := { s.time with ptpLocked := true } }) :
    effPtpLock s = if ppsHere s then u else lockTo u 3 off := by
  subst hu
  simp only [effPtpLock, hoff, hseen, hfree, hgood, decide_true, Bool.not_false, Bool.and_self, if_true]

theorem effPtpLoss_early (h : s.time.ptpSeen = false ∨ s.clock < s.time.syncAt + 4 * s.time.syncNs) : effPtpLoss s = s :=
  if_pos (h.imp_left fun hs => by simp [hs])

theorem effPtpLoss_late (hseen : s.time.ptpSeen = true) (hlate : s.time.syncAt + 4 * s.time.syncNs ≤ s.clock)
    (hu : u = { s with time := { s.time with ptpSeen := false, ptpLocked := false, ptpOff := none, delay := none } }) :
    effPtpLoss s = if u.time.code = 3 then toHoldover u else if u.time.code = 1 ∧ u.time.ppsLast = none then setTime u { u.time with code := 0 } else u := by
  subst hu
  exact if_neg (not_or.mpr ⟨by simp [hseen], Nat.not_lt.mpr hlate⟩)

/-! ### Holdover and timers (R452, R453, R456, R457) -/

theorem effHoldLimit_passed (hcode : s.time.code = 4) (hlimit : holdLimit s < timeBound s) (hevt : rbit s rTIME_EVT 2 = false) :
    effHoldLimit s = timeEvt s 2 :=
  if_pos ⟨hcode, hlimit, by simp [hevt]⟩

theorem effTimer_idle (h : 8 ≤ n ∨ rbit s (tmr rTMR_CFG n) 31 = false ∨ siteNow s < rn64 s (tmr rTMR_AT_LO n)) : effTimer s n = s :=
  if_pos (h.imp_right fun h => h.imp_left fun h => by simp [h])

/-- A timer that fires adds its increment and is counted; one without a period is disarmed, and any other is armed for the first of its times after now. -/
theorem effTimer_fires {a per : Nat} (hn : n < 8) (harmed : rbit s (tmr rTMR_CFG n) 31 = true) (ha : rn64 s (tmr rTMR_AT_LO n) = a)
    (hper : rn64 s (tmr rTMR_PERIOD_LO n) = per) (hdue : a ≤ siteNow s)
    (hu : u = rinc (raiseHere s (rfld s (tmr rTMR_CFG n) 15 0) (rn s (tmr rTMR_INC n)) (!effAcked s)) (tmr rTMR_FIRED n) 1) :
    effTimer s n = if per = 0 then rputBit u (tmr rTMR_CFG n) 31 false
      else rinc (rput64 u (tmr rTMR_AT_LO n) (a + ((siteNow s - a) / per + 1) * per)) (tmr rTMR_MISSED n) ((siteNow s - a) / per) := by
  subst ha hper hu
  exact if_neg (not_or.mpr ⟨Nat.not_le.mpr hn, not_or.mpr ⟨by simp [harmed], Nat.not_lt.mpr hdue⟩⟩)

/-- Of the times a, a + per, a + 2 per, … the one that a periodic timer is armed for is the first after now. -/
theorem nextFiring_after {a per now : Nat} (ha : a ≤ now) (hper : per ≠ 0) :
    now < a + ((now - a) / per + 1) * per ∧ a + (now - a) / per * per ≤ now := by
  have hlow : (now - a) / per * per ≤ now - a := Nat.div_mul_le_self _ _
  have hhigh : now - a < ((now - a) / per + 1) * per := Nat.mul_comm .. ▸ Nat.lt_mul_div_succ _ (Nat.pos_of_ne_zero hper)
  omega

end Sys2Proof.Machine
end

section
/-! Site time and timers. -/

namespace Sys2Proof.Machine

/-- Settles O30: an edge, a Sync, a delay response, a lock, a loss and a timer each have one equation, which each clause takes one branch of. -/
theorem siteTime : Obligations.site_time :=
  ⟨fun _ _ h => congrArg Host.Outcome.next (effPps_disabled h),
   fun _ _ _ _ hcfg _ hu hlocked hptp he hoff => congrArg Host.Outcome.next (effPps_locked hcfg hu hlocked hptp he hoff),
   fun _ _ _ _ hcfg _ hu hacquiring hptp hy hnear hrun => congrArg Host.Outcome.next
     ((effPps_acquiring hcfg hu hacquiring hptp hy).trans ((if_pos hnear).trans (if_neg (Nat.not_le.mpr hrun)))),
   fun _ _ _ _ hcfg _ hu hacquiring hptp hy hnear hrun => congrArg Host.Outcome.next
     ((effPps_acquiring hcfg hu hacquiring hptp hy).trans ((if_pos hnear).trans (if_pos hrun))),
   fun _ _ _ _ hcfg _ hu hacquiring hptp hy hfar => congrArg Host.Outcome.next
     ((effPps_acquiring hcfg hu hacquiring hptp hy).trans (if_neg (Nat.not_le.mpr hfar))),
   fun _ _ hlast hlate hcode hptp => congrArg Host.Outcome.next ((effPpsMissing_late hlast hlate rfl).trans (by rw [hptp]; exact if_pos hcode)),
   fun _ _ _ hlast hlate hcode hptp hlocked => congrArg Host.Outcome.next
     ((effPpsMissing_late hlast hlate rfl).trans (by rw [hptp]; exact if_pos ⟨hlocked, by simp [hcode]⟩)),
   fun _ _ hlast hearly => congrArg Host.Outcome.next (effPpsMissing_early hlast hearly),
   fun _ _ _ _ _ _ h => congrArg Host.Outcome.next (effSync_ignored h),
   fun _ _ _ _ _ _ hdomain hfollow _ hu hdelay => congrArg Host.Outcome.next ((effSync_accepted hdomain hfollow hu).trans (by rw [hdelay])),
   fun _ _ _ _ _ _ _ hdomain hfollow _ hu hdelay => congrArg Host.Outcome.next ((effSync_accepted hdomain hfollow hu).trans (by rw [hdelay])),
   fun _ _ _ _ _ _ _ hseen ha hb => congrArg Host.Outcome.next (effDelayResp_seen hseen ha hb),
   fun _ _ hoff hseen hfree hgood hpps => congrArg Host.Outcome.next
     ((effPtpLock_locks hoff hseen hfree hgood rfl).trans (if_neg (Bool.eq_false_iff.mp hpps))),
   fun _ _ hoff hseen hfree hgood hpps => congrArg Host.Outcome.next ((effPtpLock_locks hoff hseen hfree hgood rfl).trans (if_pos hpps)),
   fun _ hseen hlate hcode => congrArg Host.Outcome.next ((effPtpLoss_late hseen hlate rfl).trans (if_pos hcode)),
   fun _ hseen hlate hcode => congrArg Host.Outcome.next
     ((effPtpLoss_late hseen hlate rfl).trans ((if_neg (by simp [hcode])).trans (if_neg (by simp [hcode])))),
   fun _ h => congrArg Host.Outcome.next (effPtpLoss_early h),
   fun _ hcode hlimit hevt => congrArg Host.Outcome.next (effHoldLimit_passed hcode hlimit hevt),
   fun _ _ hn harmed hdue hper => congrArg Host.Outcome.next ((effTimer_fires hn harmed rfl hper hdue rfl).trans (if_pos rfl)),
   fun _ _ _ _ hn harmed ha hper hdue hperiodic => congrArg Host.Outcome.next
     ((effTimer_fires hn harmed ha hper hdue rfl).trans (if_neg hperiodic)),
   fun _ _ _ ha hper => nextFiring_after ha hper,
   fun _ _ h => congrArg Host.Outcome.next (effTimer_idle h)⟩

end Sys2Proof.Machine
end

section
/-! Power events, parking, alarms, board frames and pins: one equation for each outcome (R459–R462, R465, R467, R470, R471, R473, R474, R483, R484, R602, R603, R613). -/

namespace Sys2Proof.Machine

variable {s u : State} {a n t : Nat} {c : Nat} {l : List Int} {b : List Byte} {v : Byte}

/-! ### The die's temperature and the ramp's delay (R465, R467) -/

/-- At the critical temperature issue stops, and the first time the event is raised and the alarm taken. -/
theorem critCheck_critical (hcrit : critTemp s ≤ s.gov.tS) (hfirst : s.gov.thermCrit = false) :
    critCheck s = alarm (pwEvt (showF { s with gov := { s.gov with f := 0, thermCrit := true } }) 3) 4 := by
  simp only [critCheck, if_pos hcrit, hfirst, Bool.false_eq_true, if_false]

theorem critCheck_cool (hcool : s.gov.tS < critTemp s) (hnone : s.gov.thermCrit = false) : critCheck s = s :=
  (if_neg (not_le.mpr hcool)).trans (if_neg (by simp [hnone]))

theorem effStaggerEnd_ended (hstagger : s.gov.stagger = some t) (hended : t ≤ s.clock) :
    effStaggerEnd s = { s with gov := { s.gov with stagger := none, go := true } } := by
  simp only [effStaggerEnd, hstagger, if_pos hended]

/-! ### Parking (R473, R474) -/

theorem effPark_idle (hrun : unparked s = true) (hidle : mayPark s = true) : effPark s = setCode (rputBit s rPW_CTRL 0 true) winTpw 1 :=
  if_pos (by rw [hrun, hidle]; rfl)

theorem effParked_parking (h : blkCode s winTpw = 1) : effParked s = setCode (memCodes s 2) winTpw 2 := if_pos h

/-! ### Alarms (R483, R484, R601) -/

/-- An alarm that finds the engine not latched latches it, wipes it, and has SXU's requests and the identity key go with it. -/
theorem alarm_latches {w : State} (hthere : winThere s winCph = true) (hu : u = rputF s rCPH_ALARM 3 0 (rfld s rCPH_ALARM 3 0 ||| c))
    (hfirst : cphLatched u = false) (hw : w = cphWipe (rputBit { u with root0Gone := true } rCPH_ALARM 31 true)) :
    alarm s c = dropIdentity (returnSxu (evtSet (refreshCph { w with root0Gone := true }) winCph 4 (rn w rCPH_ALARM))) := by
  subst hw
  simp only [alarm, cphAlarm, hthere, ← hu, hfirst, Bool.true_or, Bool.not_true, Bool.false_eq_true, if_false, if_true]

/-- The lid's alarm is taken where LID_EN is 1; the pin's level is no part of that test. -/
theorem effLid_opened (hu : u = { s with pins := { s.pins with lidOpen := true } }) :
    effLid s = if rbit s rCPH_ALARM_CFG 0 then alarm u 8 else u := by
  have hcfg : rbit u rCPH_ALARM_CFG 0 = rbit s rCPH_ALARM_CFG 0 := by subst hu; rfl
  simp only [effLid, ← hu, hcfg]

/-! ### The FRU memory and the test port (R603, R613) -/

theorem effFruWrite_enabled (hlow : 0x400 ≤ a) (hhigh : a < 0x800) (hwp : s.pins.fruWpLow = true) :
    effFruWrite s a v = { s with fru := smSet fruDefault s.fru a v } :=
  if_pos ⟨hlow, hhigh, hwp⟩

theorem effFruWrite_refused (h : a < 0x400 ∨ 0x800 ≤ a ∨ s.pins.fruWpLow = false) : effFruWrite s a v = s :=
  if_neg fun ⟨hlow, hhigh, hwp⟩ => h.elim (Nat.not_lt.mpr hlow) fun h => h.elim (Nat.not_le.mpr hhigh) fun h => absurd hwp (by simp [h])

/-- The user half is read from its map, the rest from what was made. -/
theorem fruByte_user (hlow : 0x400 ≤ a) : fruByte s a = smGet fruDefault s.fru a := by
  have h1 : ¬ a < 0x3FC := by omega
  rw [fruByte, if_neg h1, if_neg (Nat.not_lt.mpr hlow)]

theorem fruByte_made (hmade : a < 0x400) (horder : u.order = s.order) : fruByte u a = fruByte s a := by
  simp only [fruByte, hmade, horder, if_true]

/-- A write of the user half changes the byte written and no other. -/
theorem fruByte_fruWrite (hlow : 0x400 ≤ a) (d : Nat) :
    fruByte { s with fru := smSet fruDefault s.fru a v } d = if d = a then v else fruByte s d := by
  by_cases hd : d < 0x400
  · rw [fruByte_made (u := { s with fru := smSet fruDefault s.fru a v }) (s := s) hd rfl, if_neg (by omega)]
  · have huser : 0x400 ≤ d := Nat.not_lt.mp hd
    rw [fruByte_user huser, fruByte_user huser, smGet_smSet]

theorem effTap_accepted (h : n = 1 ∨ n = 2 ∨ (3 ≤ n ∧ n ≤ 5 ∧ s.pins.resetLow = true)) : effTap s n = { s with pins := { s.pins with tap := some n } } := by
  by_cases hsample : n = 1 ∨ n = 2
  · simp only [effTap, if_pos hsample]
  · obtain ⟨hlow, hhigh, hreset⟩ := (or_assoc.mpr h).resolve_left hsample
    simp only [effTap, if_neg hsample, if_pos (And.intro (And.intro hlow hhigh) hreset)]

theorem effTap_bypass (h1 : n ≠ 1) (h2 : n ≠ 2) (h : n < 3 ∨ 5 < n ∨ s.pins.resetLow = false) : effTap s n = { s with pins := { s.pins with tap := none } } := by
  have hextest : ¬ ((3 ≤ n ∧ n ≤ 5) ∧ s.pins.resetLow = true) := fun ⟨hn, hreset⟩ => by
    rcases h with h | h | h
    · omega
    · omega
    · simp [h] at hreset
  simp only [effTap, if_neg (not_or.mpr ⟨h1, h2⟩), if_neg hextest]

/-! ### Frames (R459, R460, R470, R602) -/

theorem effFrameEnd_held (h : s.resets.any (fun r => r.dom == 4 || r.dom == 6) = true) : effFrameEnd s b = s := if_pos h

theorem effFrameEnd_bad (hbad : frameGood b = false) (hon : brdOn s = true) (hresets : s.resets = []) : effFrameEnd s b = rinc s rBRD_RX_BAD 1 := by
  simp only [effFrameEnd, hresets, List.any_nil, acceptFrame, hon, hbad, Bool.not_true, Bool.not_false, Bool.false_eq_true, if_false, if_true]

/-- A good frame that repeats none is noted and counted, and takes effect. -/
theorem effFrameEnd_accepted (hgood : frameGood b = true) (hon : brdOn s = true) (hresets : s.resets = [])
    (hnew : s.brdLast.contains (leAt b 3 1, leAt b 2 1) = false)
    (hu : u = rputN (rinc { s with brdLast := s.brdLast.filter (fun x => x.1 != leAt b 3 1) ++ [(leAt b 3 1, leAt b 2 1)] } rBRD_RX_OK 1) rBRD_LAST
      (leAt b 3 1 * 2 ^ 24 + leAt b 2 1 * 65536)) : effFrameEnd s b = frameEffect u b := by
  subst hu
  simp only [effFrameEnd, hresets, List.any_nil, acceptFrame, hon, hgood, hnew, Bool.not_true, Bool.false_eq_true, if_false]

theorem frameEffect_coolant (htyp : leAt b 3 1 = 2) :
    frameEffect s b = putCool { s with gov := { s.gov with tIn := sint16 (leAt b 4 2), flow := leAt b 6 2, coolAt := s.clock, coolLost := false } } := by
  simp only [frameEffect, htyp, OfNat.ofNat_ne_one, if_false, if_true]

theorem frameEffect_gridLost (htyp : leAt b 3 1 = 3) (hstate : leAt b 4 1 = 1) : frameEffect s b = onBattery s := by
  simp only [frameEffect, htyp, hstate, OfNat.ofNat_ne_one, Nat.reduceEqDiff, if_false, if_true]

theorem frameEffect_gridBack (htyp : leAt b 3 1 = 3) (hstate : leAt b 4 1 = 0) (hpin : s.pins.gridLow = false) (hbattery : s.gov.battery = true) :
    frameEffect s b = { s with gov := { s.gov with battery := false, rose := none } } := by
  simp only [frameEffect, htyp, hstate, hpin, hbattery, OfNat.ofNat_ne_one, Nat.reduceEqDiff, Nat.zero_ne_one, Bool.not_false, and_self, if_false, if_true]

/-! ### STATUS, grants and coolant (R460–R462) -/

theorem effStatus_sent {p : Nat} (hon : brdOn s = true) (hresets : s.resets = []) (hdue : s.gov.sentAt + us 1000 ≤ s.clock) :
    effStatus s p = emit { s with gov := { s.gov with seq := (s.gov.seq + 1) % 256, sentAt := s.clock } } (.frame "STATUS" (statusFrame s p)) :=
  if_neg (not_or.mpr ⟨by simp [hon], not_or.mpr ⟨Nat.not_lt.mpr hdue, by simp [hresets]⟩⟩)

theorem grantDue_effective {e w p d : Nat} (hheld : s.gov.heldGrant = some (e, w, p, d)) (hdue : e ≤ siteNow s) :
    grantDue s = { s with gov := { s.gov with grant := some (w, p, d), heldGrant := none } } := by
  simp only [grantDue, hheld, if_pos hdue]

theorem effGrantLost_lost (hsafe : s.gov.safe = false) (hlate : s.gov.grantAt + rfld s rPW_TIMEOUT 15 0 * 1000000 ≤ s.clock) :
    effGrantLost s = pwEvt { s with gov := { s.gov with safe := true } } 0 :=
  if_pos ⟨by simp [hsafe], hlate⟩

theorem effCoolLost_lost (hhere : s.gov.coolLost = false) (hlate : s.gov.coolAt + rfld s rPW_TIMEOUT 31 16 * 1000000 ≤ s.clock) :
    effCoolLost s = putCool { s with gov := { s.gov with coolLost := true, tIn := 720, flow := 100 } } :=
  if_pos ⟨by simp [hhere], hlate⟩

end Sys2Proof.Machine
end

section
/-! Power events, and the board's frames and pins. -/

namespace Sys2Proof.Machine

/-- Settles O32: each pin, delay, temperature, parking row and alarm has its one outcome. -/
theorem powerEvents : Obligations.power_events :=
  ⟨fun _ => ⟨rfl, rfl⟩,
   fun _ _ hstagger hended => congrArg Host.Outcome.next (effStaggerEnd_ended hstagger hended),
   fun _ _ _ hu hcrit hfirst => congrArg Host.Outcome.next ((congrArg critCheck hu.symm).trans (critCheck_critical hcrit hfirst)),
   fun _ _ _ hu hcool hnone => congrArg Host.Outcome.next ((congrArg critCheck hu.symm).trans (critCheck_cool hcool hnone)),
   fun _ hrun hidle => congrArg Host.Outcome.next (effPark_idle hrun hidle),
   fun _ h => congrArg Host.Outcome.next (effParked_parking h),
   fun _ => rfl,
   fun _ h => congrArg Host.Outcome.next (if_pos h),
   fun _ => ⟨rfl, rfl⟩,
   fun _ _ hu => congrArg Host.Outcome.next (effLid_opened hu),
   fun _ _ hthere _ hu hfirst _ hv => alarm_latches hthere hu hfirst hv⟩

/-- Settles O33: the FRU memory byte by byte, the test port's two outcomes, and of a frame: discarded, counted as bad, or accepted with its type's effect. -/
theorem boardAndPins : Obligations.board_and_pins := by
  refine ⟨fun a b v s hlow hhigh hwp => ⟨_, congrArg Host.Outcome.next (effFruWrite_enabled hlow hhigh hwp), ?_, fun hother => ?_⟩,
    fun a v s h => congrArg Host.Outcome.next (effFruWrite_refused h),
    fun n s h => congrArg Host.Outcome.next (effTap_accepted h),
    fun n s h1 h2 h => congrArg Host.Outcome.next (effTap_bypass h1 h2 h),
    fun b s hbad hon hresets => congrArg Host.Outcome.next (effFrameEnd_bad hbad hon hresets),
    fun b s hheld => congrArg Host.Outcome.next (effFrameEnd_held hheld),
    fun b s hgood hon hresets hnew u hu => congrArg Host.Outcome.next (effFrameEnd_accepted hgood hon hresets hnew hu),
    fun b s htyp hgood hon hresets hnew u hu => congrArg Host.Outcome.next
      ((if_pos htyp).trans ((effFrameEnd_accepted hgood hon hresets hnew hu).trans (frameEffect_coolant htyp))),
    fun b s htyp hstate hgood hon hresets hnew u hu => congrArg Host.Outcome.next
      ((if_pos htyp).trans ((effFrameEnd_accepted hgood hon hresets hnew hu).trans (frameEffect_gridLost htyp hstate))),
    fun b s htyp hstate hpin hgood hon hresets hnew u hu hbattery => congrArg Host.Outcome.next
      ((if_pos htyp).trans ((effFrameEnd_accepted hgood hon hresets hnew hu).trans (frameEffect_gridBack htyp hstate ?pin hbattery))),
    fun p s hon hresets hdue => congrArg Host.Outcome.next (effStatus_sent hon hresets hdue),
    fun e w u d s hheld hdue => congrArg Host.Outcome.next (grantDue_effective hheld hdue),
    fun s hsafe hlate => congrArg Host.Outcome.next (effGrantLost_lost hsafe hlate),
    fun s hhere hlate => congrArg Host.Outcome.next (effCoolLost_lost hhere hlate)⟩
  · rw [fruByte_fruWrite hlow, if_pos rfl]
  · rw [fruByte_fruWrite hlow, if_neg hother]
  case pin =>
    have hpins : u.pins = s.pins := by
      rw [hu]
      exact rputN_keeps (P := fun t => t.pins = s.pins) (Keep.frame_pins _ rfl) (rinc_keeps (Keep.frame_pins _ rfl) rfl)
    rw [hpins, hpin]

end Sys2Proof.Machine
end

section
/-! A governor tick: what of it moves the issue fraction and the trim (R463–R468). -/

namespace Sys2Proof.Machine

/-- t holds the same issue fraction, trim and critical flag as s. -/
structure SameIssue (s t : State) : Prop where
  f : t.gov.f = s.gov.f
  trim : t.gov.trim = s.gov.trim
  thermCrit : t.gov.thermCrit = s.gov.thermCrit

namespace SameIssue

variable {s t u : State}

theorem of_gov (h : t.gov = s.gov) : SameIssue s t := ⟨by rw [h], by rw [h], by rw [h]⟩

theorem refl : SameIssue s s := of_gov rfl

theorem trans (h : SameIssue s t) (k : SameIssue t u) : SameIssue s u :=
  ⟨k.f.trans h.f, k.trim.trans h.trim, k.thermCrit.trans h.thermCrit⟩

theorem ite {c : Prop} [Decidable c] (h : SameIssue s t) (k : SameIssue s u) : SameIssue s (if c then t else u) := by
  split
  · exact h
  · exact k

end SameIssue

variable {s : State} {p b : Nat} {c : Nat}

theorem pwEvt_gov : (pwEvt s b).gov = s.gov := pwEvt_keeps (P := fun t => t.gov = s.gov) (Keep.frame_gov _ rfl) rfl

theorem alarm_gov : (alarm s c).gov = s.gov := alarm_keeps (P := fun t => t.gov = s.gov) (Keep.frame_gov _ rfl) rfl

theorem onBattery_sameIssue : SameIssue s (onBattery s) :=
  .ite .refl (.trans (t := { s with gov := { s.gov with battery := true } }) ⟨rfl, rfl, rfl⟩ (.of_gov pwEvt_gov))

theorem grantDue_sameIssue : SameIssue s (grantDue s) := by
  unfold grantDue
  split
  · exact .ite ⟨rfl, rfl, rfl⟩ .refl
  · exact .refl

/-- The target moves by its own rules and leaves the issue fraction to R468. -/
theorem moveTarget_sameIssue {dem byTherm : Bool} {cap : Rat} {up dn : Nat} : SameIssue s (moveTarget s dem cap byTherm up dn) := by
  unfold moveTarget
  refine .ite ⟨rfl, rfl, rfl⟩ (.ite ⟨rfl, rfl, rfl⟩ (.ite ⟨rfl, rfl, rfl⟩ ?_))
  split
  · exact .ite ⟨rfl, rfl, rfl⟩ ⟨rfl, rfl, rfl⟩
  · exact .ite ⟨rfl, rfl, rfl⟩ ⟨rfl, rfl, rfl⟩

/-- The check of the critical temperature keeps the trim, does not raise the issue fraction, and keeps it unless the die is critical after it. -/
theorem critCheck_issue : (critCheck s).gov.trim = s.gov.trim ∧ (critCheck s).gov.f ≤ s.gov.f ∧
    ((critCheck s).gov.thermCrit = false → (critCheck s).gov.f = s.gov.f) := by
  by_cases hcrit : critTemp s ≤ s.gov.tS
  case pos =>
    have hgov : (critCheck s).gov = { s.gov with f := 0, thermCrit := true } := by
      simp only [critCheck, if_pos hcrit, alarm_gov]
      split
      · rfl
      · rw [pwEvt_gov]
        rfl
    rw [hgov]
    exact ⟨rfl, Nat.zero_le _, fun h => Bool.noConfusion h⟩
  case neg =>
    simp only [critCheck, if_neg hcrit]
    split
    · exact ⟨rfl, Nat.le_refl _, fun _ => rfl⟩
    · exact ⟨rfl, Nat.le_refl _, fun _ => rfl⟩

/-- A fraction that follows what is wanted of it in steps of at most 2. -/
theorem stepTowards_bounds {f want y : Nat} (hy : y = if f + 2 < want then f + 2 else if want + 2 < f then f - 2 else want) :
    y ≤ f + 2 ∧ f ≤ y + 2 ∧ (f ≤ 64 → want ≤ 64 → y ≤ 64) := by
  split_ifs at hy
  all_goals omega

/-- R468: the issue fraction follows what is wanted of it, from 1 to 64, in steps of at most 2, and is 0 while the die is critical; the trim stays within 64. -/
theorem moveF_bounds (hf : s.gov.f ≤ 64) (htrim : s.gov.trim ≤ 64) :
    (moveF s p).gov.f ≤ 64 ∧ (moveF s p).gov.trim ≤ 64 ∧ (moveF s p).gov.thermCrit = s.gov.thermCrit ∧
      (s.gov.thermCrit = true → (moveF s p).gov.f = 0) ∧
      (s.gov.thermCrit = false → (moveF s p).gov.f ≤ s.gov.f + 2 ∧ s.gov.f ≤ (moveF s p).gov.f + 2) := by
  unfold moveF
  extract_lets g tol trim dyn ff want f
  have hwant : want ≤ 64 := by
    have hint : max 1 (min 64 (ff - (trim : Int))) ≤ 64 := max_le (by decide) (min_le_left _ _)
    exact Int.toNat_le.mpr hint
  have htrim' : trim ≤ 64 := by
    show (if _ then _ else if _ then _ else _) ≤ 64
    split
    · exact min_le_left _ _
    · split
      · exact (Nat.sub_le _ _).trans htrim
      · exact htrim
  have hzero : s.gov.thermCrit = true → f = 0 := fun hcrit => if_pos hcrit
  have hstep : s.gov.thermCrit = false → f ≤ s.gov.f + 2 ∧ s.gov.f ≤ f + 2 ∧ (s.gov.f ≤ 64 → want ≤ 64 → f ≤ 64) := fun hcool =>
    stepTowards_bounds (if_neg (by simp [g, hcool]))
  refine ⟨?_, htrim', rfl, hzero, fun hcool => ⟨(hstep hcool).1, (hstep hcool).2.1⟩⟩
  cases hcrit : s.gov.thermCrit with
  | true => exact (hzero hcrit).trans_le (Nat.zero_le _)
  | false => exact (hstep hcrit).2.2 hf hwant

/-- Before the check of the critical temperature nothing in a tick moves the issue fraction, the trim or the critical flag, and after R468's move nothing
does either. -/
theorem effTick_shape {sensors : List Int} (hdue : s.gov.tickAt + us 10 ≤ s.clock) :
    ∃ x, SameIssue s x ∧ (effTick s p sensors).gov = (moveF (critCheck x) p).gov := by
  unfold effTick
  rw [if_neg (Nat.not_lt.mpr hdue)]
  extract_lets dem g1 s1 s2 s3 ts tHat pt s4 g4 s5 pr grant lim cap was g5 s6 s7 s8 s9 s10 g10 s11 s12
  have h1 : SameIssue s s1 := ⟨rfl, rfl, rfl⟩
  have h2 : SameIssue s1 s2 := .ite onBattery_sameIssue .refl
  have h3 : SameIssue s2 s3 := grantDue_sameIssue.trans (.of_gov rfl)
  have h4 : SameIssue s3 s4 := .ite ⟨rfl, rfl, rfl⟩ .refl
  have h5 : SameIssue s4 s5 := ⟨rfl, rfl, rfl⟩
  have h6 : SameIssue s5 s6 := ⟨rfl, rfl, rfl⟩
  have h7 : SameIssue s6 s7 := .ite (.of_gov pwEvt_gov) .refl
  have h8 : SameIssue s7 s8 := .ite (.of_gov pwEvt_gov) .refl
  have h9 : SameIssue s8 s9 := .ite ⟨rfl, rfl, rfl⟩ .refl
  have h10 : SameIssue s9 s10 := moveTarget_sameIssue
  have hreset : SameIssue s10 { s10 with gov := { s10.gov with go := false, denied := false } } := ⟨rfl, rfl, rfl⟩
  exact ⟨_, h1.trans (h2.trans (h3.trans (h4.trans (h5.trans (h6.trans (h7.trans (h8.trans (h9.trans (h10.trans hreset))))))))), rfl⟩

end Sys2Proof.Machine
end

section
/-! A governor tick. -/

namespace Sys2Proof.Machine

/-- Settles O31: up to the critical check the issue fraction stands, the check alone can make it 0, and R468 then moves it within its bounds. -/
theorem governorTick : Obligations.governor_tick := by
  refine ⟨fun p sensors s hdue hf htrim => ?_, fun p sensors s hearly => congrArg Host.Outcome.next (if_pos hearly)⟩
  obtain ⟨x, hsame, hgov⟩ := effTick_shape (p := p) (sensors := sensors) hdue
  obtain ⟨htrimCheck, hfCheck, hcool⟩ := critCheck_issue (s := x)
  obtain ⟨hf64, htrim64, hcritEq, hzero, hstep⟩ := moveF_bounds (s := critCheck x) (p := p) (hfCheck.trans (hsame.f.trans_le hf))
    ((htrimCheck.trans hsame.trim).trans_le htrim)
  refine ⟨effTick s p sensors, rfl, ?_⟩
  rw [hgov, hcritEq]
  refine ⟨hf64, htrim64, hzero, fun h => ?_⟩
  rw [← hsame.f, ← hcool h]
  exact hstep h

end Sys2Proof.Machine
end

section
/-! A nanosecond with nothing commanded, and the two reads of a pair (R448, R454, R585). -/

namespace Sys2Proof.Machine

variable {s u : State} {o lo : Nat}

/-! ### Time passing (R448, R454) -/

theorem step_idle (h : s.pending = []) : step s = .next (tickNs s) := by
  simp only [step, h, idle]

/-- What a slew moves site time by comes off the offset, and is at most one nanosecond. -/
theorem slew_moves (x : TimeU) (ppm : Nat) : (slew x ppm).2 = x.offset - (slew x ppm).1.offset ∧ (slew x ppm).2.natAbs ≤ 1 := by
  by_cases hzero : x.offset = 0
  · simp [slew, hzero]
  · by_cases hsmall : x.acc + ppm < 1000000
    · simp [slew, hzero, hsmall]
    · by_cases hpos : 0 < x.offset
      · simp [slew, hzero, hsmall, hpos, shiftPtp]
      · simp [slew, hzero, hsmall, hpos, shiftPtp]

theorem slew_done {x : TimeU} {ppm : Nat} (h : x.offset = 0) : (slew x ppm).2 = 0 := by rw [slew, if_pos h]

theorem w64_toNat_of_nonneg {i : Int} (h : 0 ≤ i) : w64 i.toNat = BitVec.ofInt 64 i := by
  rw [w64, ← BitVec.ofInt_natCast, Int.toNat_of_nonneg h]

/-! ### The halves of a pair (R585) -/

/-- Of an agent's latches of a window the one set last is the only one, and an access to the same pair leaves it. -/
theorem latchOf_otherLatches_latchSet {ls : List Latch} {v : Word} (h : u.rdLatch = latchSet ls o (offWin lo) (offIn lo) v) :
    latchOf (otherLatches u o lo).rdLatch o (offWin lo) (offIn lo) = some v := by
  have hnone : ∀ l ∈ (latchDrop ls o (offWin lo)).filter (fun l => !(l.owner == o && l.win == offWin lo) || l.off == offIn lo),
      ¬ (l.owner == o && l.win == offWin lo && l.off == offIn lo) = true := fun l hl heq => by
    have hother := (List.mem_filter.mp (List.mem_filter.mp hl).1).2
    rw [Bool.and_eq_true] at heq
    rw [heq.1] at hother
    exact absurd hother (by decide)
  have hlatches : (otherLatches u o lo).rdLatch =
      (latchDrop ls o (offWin lo)).filter (fun l => !(l.owner == o && l.win == offWin lo) || l.off == offIn lo) ++ [⟨o, offWin lo, offIn lo, v⟩] := by
    simp [otherLatches, h, latchSet]
  rw [latchOf, hlatches, List.find?_append, List.find?_eq_none.mpr hnone]
  simp

/-- What a register shows does not depend on the latches. -/
theorem viewReg_otherLatches (off : Nat) : viewReg (otherLatches s o lo) off = viewReg s off := rfl

end Sys2Proof.Machine
end

section
/-! A step with nothing waiting, and the halves of a pair. -/

namespace Sys2Proof.Machine

/-- Settles O50: the clock moves by one, and site time by one and what is slewed. -/
theorem idleStep : Obligations.idle_step := by
  refine ⟨fun s hidle hzero => ⟨tickNs s, step_idle hidle, rfl, ?_, rfl, rfl, rfl, rfl, rfl, rfl⟩, fun s hidle => ⟨tickNs s, step_idle hidle, ?_, ?_⟩⟩
  · have hmove : (tickNs s).siteTime = s.siteTime + w64 (1 + (slew s.time (rfld s rTIME_CFG 31 16)).2).toNat := rfl
    rw [hmove, slew_done hzero]
    rfl
  · exact (congrArg Int.natAbs (slew_moves s.time _).1.symm).trans_le (slew_moves s.time _).2
  · obtain ⟨hmove, hsmall⟩ := slew_moves s.time (rfld s rTIME_CFG 31 16)
    have htime : (tickNs s).time = (slew s.time (rfld s rTIME_CFG 31 16)).1 := rfl
    rw [htime, ← hmove, ← w64_toNat_of_nonneg (by omega)]
    rfl

/-- Settles O45: the low read latches the high half, and the high read finds that latch. -/
theorem pairReadsAreWhole : Obligations.pair_reads_are_whole := by
  intro o lo s u hs hu hwin hmLo hmHi hpLo hpHi hrunS hrunU hlatch
  have hlow := hlatch _ (congrArg Host.Outcome.next (effRead_low hrunS hs hmLo hpLo rfl))
  refine ⟨_, congrArg Host.Outcome.next (effRead_high hrunU (hwin ▸ hu) hmHi hpHi (by omega) rfl), ?_⟩
  have hheld := latchOf_otherLatches_latchSet hlow
  rw [viewReg_otherLatches] at hheld
  simp only [hheld, Option.getD_some]

end Sys2Proof.Machine
end

section
/-! Resets requested and completed, and start-up stage by stage: one equation for each outcome (R443, R504, R506, R511, R539–R542, R546–R550, R598, R604). -/

namespace Sys2Proof.Machine

variable {s u : State} {d fl cause : Nat} {pin : Bool} {r : ResetP}

/-! ### Requests (R539–R541, R546) -/

/-- A domain of the module's parts with none of it and none that contains it in progress: its effects at once, and the record of it, which takes up those it contains. -/
theorem startReset_begins (hmodule : d ≠ 4) (hpower : d ≠ 6) (hfree : s.resets.any (fun r => containsReset r d fl || sameReset r d fl) = false)
    (hr : r = { dom := d, floe := fl, cause := cause, since := s.clock, pinHeld := pin, drain := drainOf s d fl }) :
    startReset s d fl cause pin = refreshResets { forceAcked (applyReset s d fl) with
      resets := s.resets.filter (fun x => !containsReset r x.dom x.floe) ++ [r] } := by
  simp only [startReset, hfree, Bool.false_eq_true, if_false, hmodule, hpower, or_self, ← hr]

/-- A MODULE or a power-on reset takes up every other. -/
theorem startReset_whole (hwhole : d = 4 ∨ d = 6) (hfree : s.resets.any (fun r => containsReset r d fl || sameReset r d fl) = false)
    (hr : r = { dom := d, floe := fl, cause := cause, since := s.clock, pinHeld := pin, drain := drainOf s d fl }) :
    startReset s d fl cause pin = refreshResets { forceAcked (applyReset s d fl) with resets := [r] } := by
  simp only [startReset, hfree, Bool.false_eq_true, if_false, if_pos hwhole, List.nil_append, ← hr]

theorem startReset_running (hbusy : s.resets.any (fun r => containsReset r d fl || sameReset r d fl) = true) :
    startReset s d fl cause pin =
      { s with resets := s.resets.map (fun r => if sameReset r d fl then { r with pinHeld := r.pinHeld || pin } else r) } := if_pos hbusy

theorem effFloeReset_target {v : Word} {f : Nat} (h : floeResetTarget s v = some f) : effFloeReset s v = startReset s 5 f 2 false := by
  simp only [effFloeReset, h]

theorem applyReset_floe : applyReset s 5 fl = resetFloes s (floeOf fl) := by
  rw [applyReset, if_neg (by decide), if_neg (by decide), if_neg (by decide), if_neg (by decide), if_neg (by decide), if_pos rfl]

theorem effFloeReset_none {v : Word} (h : floeResetTarget s v = none) : effFloeReset s v = s := by
  simp only [effFloeReset, h]

/-! ### Completion (R540) -/

theorem effResetComplete_done (h : s.resets.find? (fun r => r.dom == d && resetDone s r) = some r) : effResetComplete s d = finishReset s r := by
  simp only [effResetComplete, h]

theorem effResetComplete_waits (h : s.resets.find? (fun r => r.dom == d && resetDone s r) = none) : effResetComplete s d = s := by
  simp only [effResetComplete, h]

/-! ### The boot ROM (R506, R511) -/

theorem effBootRom_later (h : glbStage s ≠ 0 ∨ tpmCode s ≠ 0 ∨ inModReset s = true) : effBootRom s = s := if_pos h

/-- In stage BOOT the ROM has counted the boot and measured itself and the fuses before it chooses an image. -/
theorem effBootRom_chooses (hstage : glbStage s = 0) (hcode : tpmCode s = 0) (hreset : inModReset s = false)
    (hu : u = measExt (measExt { s with rot := { s.rot with boots := (s.rot.boots + 1) % 2 ^ 32 } } 0 Config.romHash) 0 (Config.fuseHash s.rot.floor)) :
    (∀ b, u.rot.pending.filter (imageOk u) = some b → effBootRom s = bootBank u b true) ∧
      (u.rot.pending.filter (imageOk u) = none → effBootRom s =
        if imageOk u u.rot.active then bootBank u u.rot.active false
        else answerHeld (putBoot (setCode { u with rot := { u.rot with trial := false } } winTpm 2))) := by
  have hboots : ¬ (glbStage s ≠ 0 ∨ tpmCode s ≠ 0 ∨ inModReset s = true) := by simp [hstage, hcode, hreset]
  constructor
  · intro b hb
    simp only [effBootRom, if_neg hboots, ← hu, hb]
  · intro hnone
    simp only [effBootRom, if_neg hboots, ← hu, hnone]

/-! ### The stages (R547–R549) -/

/-- Outside a reset a stage's end is that of the stage the module is in. -/
theorem effStage_running (hreset : inModReset s = false) (hpin : s.pins.resetLow = false) :
    effStage s =
      if glbStage s = 0 then
        (if tpmCode s = 1 then answerHeld (enterStage (measExt (firmwareUp s) 3 (sha512 (natsOf (flashBytes s 0x40000 0x40000)))) 1 0) else s)
      else if glbStage s = 1 then enterStage (trainMemory s) 2 0
      else if glbStage s = 2 then fabricUp (enterStage (measExt s 4 (sha512 (imgRuntime s s.rot.booted))) 3 0)
      else if glbStage s = 3 ∧ portsStarted s ∧ checkMet s then enterStage s 4 0
      else s :=
  if_neg (by simp [hreset, hpin])

theorem effCheckTimeout_late (hstage : glbStage s = 3) (hreset : inModReset s = false) (hlate : s.fabricAt + us 2000000 ≤ s.clock) :
    effCheckTimeout s = enterStage s 4 (((checkMissing s).map (2 ^ ·)).sum) :=
  if_pos ⟨hstage, by simp [hreset], hlate⟩

/-- Training sets the codes of the stacks only, so that the fill that a power-on reset left due is made. -/
theorem trainMemory_due (hdue : s.fillDue = true) :
    (trainMemory s).mem = [] ∧ (trainMemory s).undef = [] ∧ (trainMemory s).fillDue = false := by
  have htrained : ((memWins s.order).foldl (fun s w => setCode s w 1) s).fillDue = true :=
    foldl_keeps (P := fun t => t.fillDue = true) hdue fun _ _ h => setCode_keeps (Keep.frame_fillDue _ rfl) h
  simp only [trainMemory, if_pos htrained, and_self]

end Sys2Proof.Machine
end

section
/-! Resets, and start-up. -/

namespace Sys2Proof.Machine

/-- Settles O38: every domain's request is one of `startReset`, which begins the reset or finds it running; and a reset completes or waits. -/
theorem resets : Obligations.resets :=
  ⟨fun _ hfree _ hr => congrArg Host.Outcome.next (startReset_begins (by decide) (by decide) hfree hr),
   fun _ hfree _ hr => congrArg Host.Outcome.next (startReset_begins (by decide) (by decide) hfree hr),
   fun _ hfree hthere _ hr => congrArg Host.Outcome.next ((if_pos hthere).trans (startReset_begins (by decide) (by decide) hfree hr)),
   fun _ hfree hthere _ hr => congrArg Host.Outcome.next ((if_pos hthere).trans (startReset_begins (by decide) (by decide) hfree hr)),
   fun _ hfree _ hr => congrArg Host.Outcome.next (startReset_whole (.inl rfl) hfree hr),
   fun _ _ _ htarget hfree _ hr => by
     rw [← applyReset_floe]
     exact congrArg Host.Outcome.next ((effFloeReset_target htarget).trans (startReset_begins (by decide) (by decide) hfree hr)),
   fun _ _ hnone => congrArg Host.Outcome.next (effFloeReset_none hnone),
   fun _ hbusy => congrArg Host.Outcome.next (startReset_running hbusy),
   fun _ => ⟨rfl, rfl⟩,
   fun _ => ⟨rfl, rfl, rfl⟩,
   fun _ _ _ h => congrArg Host.Outcome.next (effResetComplete_done h),
   fun _ _ h => congrArg Host.Outcome.next (effResetComplete_waits h)⟩

/-- Settles O40: the ROM's choice of an image, and one branch of the stage's end for each stage. -/
theorem startUp : Obligations.start_up := by
  refine ⟨fun s hstage hcode hreset u hu => ?rom, fun s h => congrArg Host.Outcome.next (effBootRom_later h),
    fun s hreset hpin hstage hcode => ?boot, fun s hreset hpin hstage => ?train, fun s hreset hpin hstage => ?fabric,
    fun s hreset hpin hstage hports hcheck => ?ready,
    fun s hstage hreset hlate => congrArg Host.Outcome.next (effCheckTimeout_late hstage hreset hlate),
    fun s => trainMemory_due rfl⟩
  case rom =>
    obtain ⟨hpending, hactive⟩ := effBootRom_chooses hstage hcode hreset hu
    cases hchoice : u.rot.pending.filter (imageOk u) with
    | some b => exact congrArg Host.Outcome.next (hpending b hchoice)
    | none => exact congrArg Host.Outcome.next (hactive hchoice)
  all_goals refine congrArg Host.Outcome.next ((effStage_running hreset hpin).trans ?_)
  case boot => rw [if_pos hstage, if_pos hcode]
  case train => rw [hstage, if_neg (by decide), if_pos rfl]
  case fabric => rw [hstage, if_neg (by decide), if_neg (by decide), if_pos rfl]
  case ready =>
    rw [hstage, if_neg (by decide), if_neg (by decide), if_neg (by decide)]
    exact if_pos ⟨rfl, hports, hcheck⟩

end Sys2Proof.Machine
end

section
/-! The control protocol: what a sealed request that is next in its session does, message by message, and how a session opens (R508–R531). -/

namespace Sys2Proof.Machine

variable {s t u : State} {m a : CMsg} {i typ b n o : Nat} {x : Sess} {p : List Byte} {k : List Nat} {v : Word} {e : EvtOut} {l : List EvtOut}
  {run : State → Nat → Sess → List Byte → Option (State × Option Rsp)} {runOwner : State → Nat → List Byte → Option (State × Option Rsp)} {r : Option Rsp}

/-! ### Sealed requests (R518, R520, R523) -/

/-- A request of one type, of an open session, whose tag is right: `x` is the session `i` and `p` the payload. -/
structure Opened (s : State) (m : CMsg) (typ i : Nat) (x : Sess) (p : List Byte) : Prop where
  typed : m.typ = typ
  heard : ctrlHeard s m = true
  running : inRecovery s = false
  isSealed : m.sealed = true
  ofOpen : ofSession s m 2 = true
  index : i = m.session % 16
  session : x = getSess s i
  tag : ctrlOpen x m = some p

/-- With the next sequence number it is executed, and finished with its answer. -/
theorem Opened.runs (h : Opened s m typ i x p) (hseq : m.seq = x.seqIn + 1) (hrun : run s i x p = some (t, r)) :
    sealedReq s m typ run = finishReq t i m r := by
  obtain ⟨htyp, hheard, hrunning, hsealed, hopen, rfl, rfl, htag⟩ := h
  simp [sealedReq, htyp, hheard, hrunning, hsealed, hopen, htag, hseq, hrun]

/-- With the last one executed it is answered again, and not executed. -/
theorem Opened.repeats (h : Opened s m typ i x p) (hseq : m.seq = x.seqIn) (hstored : x.stored = some a) :
    sealedReq s m typ run = sendCtrl (putSess s i { x with lastReq := s.clock }) a := by
  obtain ⟨htyp, hheard, hrunning, hsealed, hopen, rfl, rfl, htag⟩ := h
  simp [sealedReq, htyp, hheard, hrunning, hsealed, hopen, htag, hseq, hstored]

theorem ownerReq_owner (h : x.role = 1) : ownerReq runOwner s i x p = runOwner s i p := if_pos h

theorem ownerReq_denied (h : x.role ≠ 1) : ownerReq runOwner s i x p = some (s, some { status := rDENIED }) := if_neg h

theorem whenReady_ready (h : glbStage s = 4) : whenReady runOwner s i p = runOwner s i p := if_pos h

theorem whenReady_busy (h : glbStage s ≠ 4) : whenReady runOwner s i p = answer s rBUSY := if_neg h

/-! ### Register access and root keys (R526–R528) -/

theorem runRead_open (hoffs : (words p 64).any badOff = false) (hopen : (words p 64).any (fun o => winHeld s (offWin o)) = false) :
    runRead s i p = some ((readAll (112 + i) (words p 64) s).1,
      some { typ := 0x11, body := (readAll (112 + i) (words p 64) s).2.flatMap (fun v => le32 v.toNat) }) := by
  simp only [runRead, hoffs, hopen, Bool.false_eq_true, if_false]

theorem runWrite_open (hstage : 2 ≤ glbStage s)
    (hopen : (pairsOf (words p 128)).any (fun e => decide (e.1 < 2 ^ 24) && winHeld s (offWin e.1)) = false) :
    runWrite s i p = some ((writeEach (112 + i) (pairsOf (words p 128)) s 0).1,
      some { typ := 0x13, status := (writeEach (112 + i) (pairsOf (words p 128)) s 0).2.2, body := le32 (writeEach (112 + i) (pairsOf (words p 128)) s 0).2.1 }) :=
  (if_neg (Nat.not_lt.mpr hstage)).trans (if_neg (Bool.eq_false_iff.mp hopen))

theorem runKeyLoad_loads {root : Nat} (hstage : 2 ≤ glbStage s) (hthere : winThere s winCph = true) (hopen : winHeld s winCph = false)
    (hlatched : cphLatched s = false) (hroot : leAt p 0 4 = root) (hpos : root ≠ 0) (hle : root ≤ 7) (hk : k = natsOf (fitBytes (p.drop 4) 32))
    (hu : u = (List.range 8).foldl (fun s n => rputN s (rCPH_ROOT_DATA + 4 * n) (beNat ((k.drop (4 * n)).take 4))) (rputN s rCPH_ROOT_SEL root)) :
    runKeyLoad s i p = answer (effRootCtl u 109 1) rOK := by
  subst hroot hk hu
  rw [runKeyLoad, if_neg (Nat.not_lt.mpr hstage), if_neg (by simp [hthere]), if_neg (Bool.eq_false_iff.mp hopen),
    if_neg (Bool.eq_false_iff.mp hlatched), if_neg (by omega)]

/-! ### Firmware and ownership (R525, R530, R531) -/

theorem clearHeard_running (h : inRecovery s = false) : clearHeard s m typ = false := by
  simp [clearHeard, h]

theorem execFwWrite_running (h : inRecovery s = false) :
    execFwWrite m s = .next (sealedReq s m 0x28 (ownerReq (whenReady runFwWrite))) :=
  congrArg Host.Outcome.next (if_neg (Bool.eq_false_iff.mp (clearHeard_running h)))

theorem execFwActivate_running (h : inRecovery s = false) :
    execFwActivate m s = .next (sealedReq s m 0x29 (ownerReq (whenReady runFwActivate))) :=
  congrArg Host.Outcome.next (if_neg (Bool.eq_false_iff.mp (clearHeard_running h)))

theorem putImage_fits (hfits : leAt p 4 4 + ((p.drop 8).take 1024).length ≤ bankSize) :
    putImage s p = (putFlash s (bankBase (leAt p 0 4) + leAt p 4 4) ((p.drop 8).take 1024), rOK) := if_neg (Nat.not_lt.mpr hfits)

theorem runFwWrite_writes (hbank : leAt p 0 4 = b) (hle : b ≤ 1) (hother : b ≠ s.rot.active) (hlock : s.fwLock.elim false (fun k => k != i) = false)
    (hfits : leAt p 4 4 + ((p.drop 8).take 1024).length ≤ bankSize) :
    runFwWrite s i p =
      answer (rputF (setFwLock (putFlash s (bankBase b + leAt p 4 4) ((p.drop 8).take 1024)) (some i)) rTPM_FW 7 4 i) rOK := by
  subst hbank
  rw [runFwWrite, if_neg (Nat.not_lt.mpr hle), if_neg hother, if_neg (Bool.eq_false_iff.mp hlock), putImage_fits hfits]
  exact congrArg (answer · rOK) (if_pos rfl)

theorem activate_good (hle : b ≤ 1) (hgood : imageOk s b = true) :
    activate s b = (rputF { s with rot := { s.rot with pending := some b } } rTPM_FW 1 0 b, rOK) := by
  rw [activate, if_neg (Nat.not_lt.mpr hle), if_neg (by simp [hgood])]

theorem activate_bad (hle : b ≤ 1) (hbad : imageOk s b = false) : activate s b = (s, rBAD_IMAGE) := by
  rw [activate, if_neg (Nat.not_lt.mpr hle), if_pos (by simp [hbad])]

/-- The lock that an activation releases is its own session's; with none held it leaves the lock. -/
theorem runFwActivate_unlocked (hlock : s.fwLock = none) : runFwActivate s i p = answer (activate s (leAt p 0 4)).1 (activate s (leAt p 0 4)).2 := by
  rw [runFwActivate, if_neg (by simp [hlock])]

theorem runFwCommit_commits {r q : RotMem} (hr : r = if s.rot.trial then { s.rot with active := s.rot.booted, trial := false } else s.rot)
    (hq : q = if nbit (leAt p 0 4) 0 then { r with floor := max r.floor (rfld s rTPM_BOOT 31 24) } else r) :
    runFwCommit s i p = answer (rputBit (rputF { s with rot := q } rTPM_BOOT 23 16 q.floor) rTPM_BOOT 1 q.trial) rOK := by
  subst hr hq
  rfl

theorem runClaim_unowned {n : List Nat} (howner : s.rot.owner = []) (hstage : glbStage s = 4) (hn : n = natsOf (fitBytes p 512)) (hkey : beNat n ≠ 0) :
    runClaim s i x p = answer { s with rot := { s.rot with owner := sha512 n, ownerMod := beNat n } } rOK := by
  subst hn
  rw [runClaim, if_neg (by simp [howner]), if_neg (by simp [hstage]), if_neg (by simp [howner]), if_neg hkey]

/-! ### Events and the session's end (R518, R520, R529) -/

theorem effEventResend_due (hevents : (getSess s i).events = e :: l) (hst : (getSess s i).st = 2) (hdue : e.sent + us 100000 ≤ s.clock) :
    effEventResend s i = sendCtrl (putSess s i { getSess s i with events := { e with sent := s.clock } :: l }) (eventMsg (getSess s i) i e.seq e.body) := by
  simp only [effEventResend, hevents]
  exact if_pos ⟨hst, hdue⟩

theorem effClose_closes (hindex : i = m.session % 16) (ht : t = sealedReq s m 0x38 (fun s _ _ _ => answer s rOK))
    (hst : (getSess t i).st = 2) (hnew : (getSess t i).seqIn ≠ (getSess s i).seqIn) : effClose s m = closeSess t i := by
  subst hindex ht
  exact if_pos ⟨hst, hnew⟩

/-! ### Opening a session (R521, R523, R524, R547) -/

theorem effOpenSession_taken (htyp : m.typ = 1) (hheard : ctrlHeard s m = true) (hclear : m.sealed = false) (hnew : ofSession s m 2 = false) :
    effOpenSession s m = if glbStage s = 0 ∧ !inRecovery s then { s with openHeld := s.openHeld ++ [m] } else answerOpen s m := by
  simp only [effOpenSession, htyp, hheard, hclear, hnew, ne_eq, not_true_eq_false, Bool.not_true, Bool.false_eq_true, or_self, if_false]

theorem answerOpen_down (hrunning : inRecovery s = false) (hkey : s.idKey = none) : answerOpen s m = clearRsp s m 8 0 :=
  (if_neg (Bool.eq_false_iff.mp hrunning)).trans (if_pos hkey)

theorem answerOpen_full (hrunning : inRecovery s = false) (hkey : s.idKey ≠ none) (hfull : sessIds.find? (fun i => (getSess s i).st == 0) = none) :
    answerOpen s m = clearRsp s m 4 0 := by
  rw [answerOpen, if_neg (Bool.eq_false_iff.mp hrunning), if_neg hkey, hfull]

theorem answerOpen_opens {r : List Byte × State} (hrunning : inRecovery s = false) (hkey : s.idKey ≠ none)
    (hfree : sessIds.find? (fun i => (getSess s i).st == 0) = some i) (hr : r = makeReport s i (m.body.take 64)) :
    answerOpen s m = sendReport (setSess r.2 i
      { st := 1, port := m.via, addr := m.fromAddr, udp := m.fromPort, report := r.1, asked := leAt m.body 64 1, seqOut := 2, lastReq := s.clock }) m i r.1 := by
  rw [answerOpen, if_neg (Bool.eq_false_iff.mp hrunning), if_neg hkey, hfree, hr]

theorem effCertGet_answers (htyp : m.typ = 3) (hheard : ctrlHeard s m = true) (hrunning : inRecovery s = false) (hclear : m.sealed = false)
    (hopening : ofSession s m 1 = true) (hindex : i = m.session % 16) (hsession : x = getSess s i) {b : List Byte}
    (hb : b = (Config.certChain.drop (1024 * leAt m.body 0 4)).take 1024) :
    effCertGet s m = sendCtrl (setSess s i { x with seqOut := x.seqOut + 1, lastReq := s.clock })
      { via := m.via, fromAddr := m.fromAddr, fromPort := m.fromPort, typ := 4, session := i, status := certParts, seq := x.seqOut, ackSeq := m.seq,
        len := b.length, body := b } := by
  subst hindex hsession hb
  rw [effCertGet, if_neg (by simp [htyp, hheard]), if_neg (Bool.eq_false_iff.mp hrunning), if_neg (by simp [hclear, hopening])]

/-- The session that a KEYX with the secret `k` opens, as an OPERATOR's. -/
def operatorSess (s : State) (m : CMsg) (x : Sess) (k : List Nat) : Sess :=
  let ctx := (sha512 (natsOf (x.report.take 0x400))).take 32
  { x with st := 2, role := 0, kIn := deriveKey k labelIn ctx, kOut := deriveKey k labelOut ctx, seqIn := m.seq, lastReq := s.clock }

/-- Its opening: the answer is sealed under its key, and what waits in the event FIFO goes out. -/
def openOperator (s : State) (m : CMsg) (i : Nat) (y : Sess) : State :=
  let a := sealRsp y i m { typ := 6, status := 0 }
  drainFifo (sendCtrl (setSess s i { y with seqOut := y.seqOut + 1, stored := some a }) a)

/-- Where no owner is recorded no session is the owner's, whatever it asked for: the secret alone decides. -/
theorem effKeyx_unowned (htyp : m.typ = 5) (hheard : ctrlHeard s m = true) (hrunning : inRecovery s = false) (hclear : m.sealed = false)
    (hopening : ofSession s m 1 = true) (hindex : i = m.session % 16) (hsession : x = getSess s i) (howner : s.rot.owner = []) :
    effKeyx s m = ((s.idKey.bind (fun k => oaepDecrypt k.1 k.2 (natsOf (fitBytes m.body 512)))).elim (keyxDenied s m i) (fun k =>
      if k.length ≠ 32 then keyxDenied s m i else openOperator s m i (operatorSess s m x k))) := by
  subst hindex hsession
  have hoperator : ((getSess s (m.session % 16)).asked == 1 && s.rot.owner != []) = false := by simp [howner]
  rw [effKeyx, if_neg (by simp [htyp, hheard]), if_neg (Bool.eq_false_iff.mp hrunning), if_neg (by simp [hclear, hopening])]
  simp only [hoperator, Bool.false_and, Bool.false_eq_true, if_false]
  cases s.idKey.bind (fun k => oaepDecrypt k.1 k.2 (natsOf (fitBytes m.body 512))) with
  | none => rfl
  | some k => rfl

/-! ### Measurements that an owner extends (R512, R536) -/

theorem effMeasExt_owner (howner : isOwner s o = true) (hmeas : wbits v 2 0 = 6 ∨ wbits v 2 0 = 7) :
    effMeasExt s o v = measExt s (wbits v 2 0) ((List.range 16).flatMap (fun k => natsOf (le32 (rn s (rTPM_MEAS_DATA + 4 * k))))) :=
  if_pos ⟨howner, hmeas⟩

theorem effMeasExt_refused (h : isOwner s o = false ∨ (wbits v 2 0 ≠ 6 ∧ wbits v 2 0 ≠ 7)) : effMeasExt s o v = s := by
  refine if_neg fun hboth => ?_
  obtain ⟨howner, hmeas⟩ := hboth
  rcases h with hstranger | ⟨hnot6, hnot7⟩
  · exact Bool.eq_false_iff.mp hstranger howner
  · exact hmeas.elim hnot6 hnot7

end Sys2Proof.Machine
end

section
/-! The control protocol: requests, opening and firmware. -/

namespace Sys2Proof.Machine

/-- Settles O34: each request that is next in its session runs as its own equation says; the repeat of one is answered again. -/
theorem controlRequests : Obligations.control_requests := by
  refine ⟨fun m s i x p htyp hheard hrec hsealed hopen hi hx htag hseq hoffs hheld q hq => ?read,
    fun m s i x p htyp hheard hrec hsealed hopen hi hx htag hseq hrole hstage hheld q hq => ?write,
    fun m s i x p htyp hheard hrec hsealed hopen hi hx htag hseq hrole => ?denied,
    fun m s i x p htyp hheard hrec hsealed hopen hi hx htag hseq => ?ack,
    fun m s i x p r htyp hheard hrec hsealed hopen hi hx htag hseq hrole hstage hthere hheld hlatched hr hpos hle k hk u hu => ?load,
    fun m s i x p htyp hheard hrec hsealed hopen hi hx htag hseq hrole => ?loadDenied,
    fun m s i x p htyp hheard hrec hsealed hopen hi hx htag hseq howner hstage n hn hkey => ?claim,
    fun m s i x p htyp hheard hrec hsealed hopen hi hx htag hseq => ?alive,
    fun m s i x p htyp hheard hrec hsealed hopen hi hx htag hseq t ht hst hlast => ?close,
    fun m s i x p a htyp hheard hrec hsealed hopen hi hx htag hseq hstored => ?again,
    fun i s e l hevents hst hdue => congrArg Host.Outcome.next (effEventResend_due hevents hst hdue),
    fun i s hst hidle => congrArg Host.Outcome.next (if_pos ⟨hst, hidle⟩)⟩
  case close =>
    have hopened : Opened s m 0x38 i x p := ⟨htyp, hheard, hrec, hsealed, hopen, hi, hx, htag⟩
    have hrun := hopened.runs (run := fun s _ _ _ => answer s rOK) hseq rfl
    refine congrArg Host.Outcome.next (effClose_closes hi (ht.trans hrun.symm) hst ?_)
    rw [hlast, ← hx, hseq]
    bv_omega
  all_goals have hopened : Opened s m _ i x p := ⟨htyp, hheard, hrec, hsealed, hopen, hi, hx, htag⟩
  case again => exact congrArg Host.Outcome.next (hopened.repeats hseq hstored)
  all_goals refine congrArg Host.Outcome.next (hopened.runs hseq ?_)
  case read => exact (runRead_open hoffs hheld).trans (hq ▸ rfl)
  case write => exact (if_pos hrole).trans ((runWrite_open hstage hheld).trans (hq ▸ rfl))
  case denied => exact if_neg hrole
  case ack => rfl
  case load => exact (ownerReq_owner hrole).trans (runKeyLoad_loads hstage hthere hheld hlatched hr hpos hle hk hu)
  case loadDenied => exact ownerReq_denied hrole
  case claim => exact runClaim_unowned howner hstage hn hkey
  case alive => rfl

/-- Settles O35: an OPEN's three outcomes, the certificate's part, the KEYX where there is no owner, and the measurements that are extended. -/
theorem controlOpening : Obligations.control_opening := by
  refine ⟨fun m s htyp hheard hclear hnew hstage => ?now, fun m s htyp hheard hclear hnew hboot hrec => ?waits,
    fun m s i hrec hkey hfree r hr => answerOpen_opens hrec hkey hfree hr,
    fun m s hrec => ⟨answerOpen_down hrec, answerOpen_full hrec⟩,
    fun m s i x htyp hheard hrec hclear hopening hi hx b hb =>
      congrArg Host.Outcome.next (effCertGet_answers htyp hheard hrec hclear hopening hi hx hb),
    fun m s i x htyp hheard hrec hclear hopening hi hx howner c ctx hc hctx => ?keyx,
    fun o v s hrun howner hmeas => congrArg Host.Outcome.next ((byAgent_running hrun).trans (effMeasExt_owner howner hmeas)),
    fun o v s h => congrArg Host.Outcome.next ((congrArg (byAgent s o) (effMeasExt_refused h)).trans byAgent_self)⟩
  case now =>
    refine congrArg Host.Outcome.next ((effOpenSession_taken htyp hheard hclear hnew).trans (if_neg ?_))
    rcases hstage with hstage | hrec
    · simp [hstage]
    · simp [hrec]
  case waits =>
    exact congrArg Host.Outcome.next ((effOpenSession_taken htyp hheard hclear hnew).trans (if_pos ⟨hboot, by simp [hrec]⟩))
  case keyx =>
    refine congrArg Host.Outcome.next ((effKeyx_unowned htyp hheard hrec hclear hopening hi hx howner).trans ?_)
    subst hc hctx
    cases s.idKey.bind (fun k => oaepDecrypt k.1 k.2 (natsOf (fitBytes m.body 512))) with
    | none => rfl
    | some k => rfl

/-- Settles O36: outside recovery the firmware messages are sealed requests of an owner, and admitted in READY alone. -/
theorem firmwareMessages : Obligations.firmware_messages := by
  refine ⟨fun m s i x p b htyp hheard hrec hsealed hopen hi hx htag hseq hrole hready hbank hle hother hlock hfits => ?write,
    fun m s i x p b htyp hheard hrec hsealed hopen hi hx htag hseq hrole hready hbank hle hlock => ?activate,
    fun m s i x p htyp hheard hrec hsealed hopen hi hx htag hseq hrole hready r hr q hq => ?commit,
    fun m s i x p htyp hheard hrec hsealed hopen hi hx htag hseq hrole hbusy => ?busy⟩
  all_goals have hopened : Opened s m _ i x p := ⟨htyp, hheard, hrec, hsealed, hopen, hi, hx, htag⟩
  case write =>
    refine (execFwWrite_running hrec).trans (congrArg Host.Outcome.next (hopened.runs hseq ?_))
    exact (ownerReq_owner hrole).trans ((whenReady_ready hready).trans (runFwWrite_writes hbank hle hother hlock hfits))
  case activate =>
    have hruns : ∀ {t : State} {r : Nat}, activate s b = (t, r) → exec (.fwActivate m) s = .next (finishReq t i m (some { status := r })) := by
      intro t r hres
      refine (execFwActivate_running hrec).trans (congrArg Host.Outcome.next (hopened.runs hseq ?_))
      rw [ownerReq_owner hrole, whenReady_ready hready, runFwActivate_unlocked hlock, hbank, hres]
      rfl
    by_cases hgood : imageOk s b = true
    · exact (hruns (activate_good hle hgood)).trans (congrArg Host.Outcome.next (if_pos hgood).symm)
    · exact (hruns (activate_bad hle (Bool.not_eq_true _ ▸ hgood))).trans (congrArg Host.Outcome.next (if_neg hgood).symm)
  case commit =>
    refine congrArg Host.Outcome.next (hopened.runs hseq ?_)
    exact (ownerReq_owner hrole).trans ((whenReady_ready hready).trans (runFwCommit_commits hr hq))
  case busy =>
    refine congrArg Host.Outcome.next (hopened.runs hseq ?_)
    exact (ownerReq_owner hrole).trans (whenReady_busy hbusy)

end Sys2Proof.Machine
end

section
/-! What a MODULE reset and a power-on reset leave (R543, R544, R548): past the cleared state only registers change, since the blocks' events are disabled; and memory outside the Firn windows stands. -/

namespace Sys2Proof.Machine

variable {P : State → Prop} {s t u : State} {w off code own a n d cause : Nat} {v : Word} {pin : Bool} {j : Job} {z z' : Undef}

/-! ### Changes of registers alone -/

/-- From `s` to `t` only registers and their shadow changed, and no block's event enables. -/
structure RegsOnly (s t : State) : Prop where
  same : ∃ r h, t = { s with regs := r, shadow := h }
  enables : ∀ w, rget t (wreg w hEVT_EN) = rget s (wreg w hEVT_EN)

theorem RegsOnly.refl (s : State) : RegsOnly s s := ⟨⟨s.regs, s.shadow, rfl⟩, fun _ => rfl⟩

theorem RegsOnly.trans (hst : RegsOnly s t) (htu : RegsOnly t u) : RegsOnly s u := by
  obtain ⟨⟨r, h, rfl⟩, hen⟩ := hst
  obtain ⟨⟨r', h', rfl⟩, hen'⟩ := htu
  exact ⟨⟨r', h', rfl⟩, fun w => (hen' w).trans (hen w)⟩

theorem RegsOnly.disabled (h : RegsOnly s t) (hoff : rbit s (wreg w hEVT_EN) 1 = false) : rbit t (wreg w hEVT_EN) 1 = false :=
  (congrArg (wbit · 1) (h.enables w)).trans hoff

theorem offIn_wreg {o : Nat} (h : o < 65536) : offIn (wreg w o) = o := by
  simp only [offIn, wreg]
  omega

theorem rput_regsOnly (h : offIn off ≠ hEVT_EN) : RegsOnly s (rput s off v) := by
  refine ⟨⟨_, s.shadow, rfl⟩, fun w => rget_rput_other s v fun heq => h ?_⟩
  rw [← heq, offIn_wreg (by decide)]

theorem shPut_regsOnly : RegsOnly s (shPut s off v) := ⟨⟨s.regs, _, rfl⟩, fun w => rget_shPut s off (wreg w hEVT_EN) v⟩

/-- An event that is not enabled posts no record. -/
theorem evtSet_disabled {bit : Nat} (h : rbit s (wreg w hEVT_EN) bit = false) : evtSet s w bit own = rputBit s (wreg w hEVT_STAT) bit true := by
  rw [evtSet, evtMark, h, Bool.and_false, if_neg Bool.false_ne_true]
  rfl

theorem bumpGen_regsOnly : RegsOnly s (bumpGen s w) := rput_regsOnly (by rw [offIn_wreg (by decide)]; decide)

/-- A change of a state code whose event is disabled. -/
theorem setCode_regsOnly (h : rbit s (wreg w hEVT_EN) 1 = false) : RegsOnly s (setCode s w code) := by
  unfold setCode
  split
  · exact .refl s
  · have hcode : RegsOnly s (bumpGen (rputF s (wreg w hBLK_STATE) 7 0 code) w) :=
      (rput_regsOnly (by rw [offIn_wreg (by decide)]; decide)).trans bumpGen_regsOnly
    rw [evtSet_disabled (hcode.disabled h)]
    exact hcode.trans (rput_regsOnly (by rw [offIn_wreg (by decide)]; decide))

theorem refreshFabric_regsOnly (htfr : rbit s (wreg winTfr hEVT_EN) 1 = false) (hsyn : rbit s (wreg winSyn hEVT_EN) 1 = false) :
    RegsOnly s (refreshFabric s) :=
  have hcode := setCode_regsOnly htfr
  hcode.trans (setCode_regsOnly (hcode.disabled hsyn))

theorem forceAcked_regsOnly (htfr : rbit s (wreg winTfr hEVT_EN) 1 = false) (hsyn : rbit s (wreg winSyn hEVT_EN) 1 = false) :
    RegsOnly s (forceAcked s) :=
  have hmode : RegsOnly s (shPut (rputBit s rSYN_MODE 0 true) rSYN_MODE (wput (shGet (rputBit s rSYN_MODE 0 true) rSYN_MODE) 0 0 1)) :=
    (rput_regsOnly (by decide)).trans shPut_regsOnly
  hmode.trans (refreshFabric_regsOnly (hmode.disabled htfr) (hmode.disabled hsyn))

theorem bumpGens_regsOnly : RegsOnly t (bumpGens s t) :=
  foldl_keeps (P := RegsOnly t) (.refl t) fun _ _ h => h.trans (rput_regsOnly (by rw [offIn_wreg (by decide)]; decide))

theorem refreshResets_regsOnly : RegsOnly s (refreshResets s) := rput_regsOnly (by decide)

/-! ### Sparse maps and undefined ranges -/

theorem smGet_filter_kept {α : Type} {f : Nat → α} {m : SMap α} {q : Nat × α → Bool} (h : ∀ x, q (a, x) = true) :
    smGet f (m.filter q) a = smGet f m a := by
  induction m with
  | nil => rfl
  | cons e m ih =>
    obtain ⟨k, x⟩ := e
    by_cases hk : a = k
    · subst hk
      rw [List.filter_cons_of_pos (h x), smGet, smGet, if_pos rfl, if_pos rfl]
    · rw [smGet, if_neg hk, ← ih, List.filter_cons]
      split
      · exact if_neg hk
      · rfl

theorem smGet_filter_dropped {α : Type} {f : Nat → α} {m : SMap α} {q : Nat × α → Bool} (h : ∀ x, q (a, x) = false) :
    smGet f (m.filter q) a = f a := by
  induction m with
  | nil => rfl
  | cons e m ih =>
    obtain ⟨k, x⟩ := e
    rw [List.filter_cons]
    split
    next hkept =>
      have hk : a ≠ k := fun hk => by subst hk; rw [h x] at hkept; exact Bool.false_ne_true hkept
      rw [smGet, if_neg hk, ih]
    next => exact ih

theorem rdByte_defined (h : ∀ z ∈ s.undef, z.has a = false) : rdByte s a = memByte s.mem a := by
  have hnone : s.undef.find? (fun z => z.has a) = none := by simpa using h
  simp only [rdByte, hnone]

/-- What a write leaves of an undefined range lies in the range. -/
theorem Undef.has_of_cut {lo len : Nat} (hcut : z' ∈ Undef.cut lo len z) (hhas : z'.has a = true) : z.has a = true := by
  unfold Undef.cut at hcut
  split at hcut
  · rwa [← List.mem_singleton.mp hcut]
  · simp only [Undef.has, decide_eq_true_eq] at hhas ⊢
    rcases List.mem_append.mp hcut with hleft | hright
    · split at hleft
      · rw [List.mem_singleton.mp hleft] at hhas
        simp only at hhas
        omega
      · cases hleft
    · split at hright
      · rw [List.mem_singleton.mp hright] at hhas
        simp only at hhas
        omega
      · cases hright

/-! ### Firn windows dropped (R544) -/

/-- `t` has the registers of `s`, holds its byte at `a`, and has no undefined range there. -/
structure ByteStands (s : State) (a : Nat) (t : State) : Prop where
  regs : t.regs = s.regs
  defined : ∀ z ∈ t.undef, z.has a = false
  byte : memByte t.mem a = memByte s.mem a

theorem makeUndef_byteStands {lo len : Nat} (hout : ¬ (lo ≤ a ∧ a < lo + len)) (h : ByteStands s a t) : ByteStands s a (makeUndef t lo len) := by
  unfold makeUndef
  split
  · exact h
  · refine ⟨h.regs, fun z hz => ?_, (smGet_filter_kept fun _ => by simp [hout]).trans h.byte⟩
    rcases List.mem_append.mp hz with hcut | hnew
    · obtain ⟨z', hz', hz⟩ := List.mem_flatMap.mp hcut
      refine Bool.eq_false_iff.mpr fun hhas => ?_
      exact Bool.eq_false_iff.mp (h.defined z' hz') (Undef.has_of_cut hz hhas)
    · rw [List.mem_singleton.mp hnew]
      exact decide_eq_false hout

theorem firn_congr (h : t.regs = s.regs) (k : Nat) : frEnabled t k = frEnabled s k ∧ frBase t k = frBase s k ∧ frLen t k = frLen s k := by
  simp only [frEnabled, frBase, frLen, rbit, rn64, rn, rget_congr h, and_self]

/-- A byte outside the windows of the enabled regions stands when the windows are dropped. -/
theorem dropFirn_byteStands (hout : ∀ k, k < 16 → frEnabled s k = true → ¬ (frBase s k ≤ a ∧ a < frBase s k + frLen s k)) (hundef : s.undef = []) :
    ByteStands s a (dropFirn s) := by
  refine List.foldlRecOn (motive := ByteStands s a) (List.range 16) _ ⟨rfl, by simp [hundef], rfl⟩ fun t h k hk => ?_
  obtain ⟨henabled, hbase, hlen⟩ := firn_congr h.regs k
  split
  next hon => exact makeUndef_byteStands (by rw [hbase, hlen]; exact hout k (List.mem_range.mp hk) (henabled ▸ hon)) h
  next => exact h

/-! ### The state that a MODULE reset clears -/

/-- What it spoils first: output of open contexts, destinations of collectives, and the windows of Firn regions. -/
def spoiled (s : State) : State :=
  let u := s.ctxs.foldl (fun s e => wipeCtx s e.2) s
  dropFirn (u.jobs.foldl spoilFresh (u.colOps.foldl (fun s o => spoilDst s (opArgs s o) o) u))

theorem foldl_spoilFresh_keeps (K : Keep P 2166375114) {l : List Job} (hP : P s) : P (l.foldl spoilFresh s) :=
  foldl_keeps hP fun _ _ h => spoilFresh_keeps K h

theorem spoiled_keeps (K : Keep P 2166375114) (hP : P s) : P (spoiled s) :=
  dropFirn_keeps (K.sub rfl) (foldl_spoilFresh_keeps K
    (foldl_keeps (foldl_keeps hP fun _ _ h => wipeCtx_keeps (K.sub rfl) h) fun _ _ h => spoilDst_keeps (K.sub rfl) h))

theorem flash_spoiled : (spoiled s).flash = s.flash := spoiled_keeps (Keep.frame_flash _ rfl) rfl

theorem fru_spoiled : (spoiled s).fru = s.fru := spoiled_keeps (Keep.frame_fru _ rfl) rfl

theorem updLog_spoiled : (spoiled s).updLog = s.updLog := spoiled_keeps (Keep.frame_updLog _ rfl) rfl

theorem siteTime_spoiled : (spoiled s).siteTime = s.siteTime := spoiled_keeps (Keep.frame_siteTime _ rfl) rfl

theorem pending_spoiled : (spoiled s).pending = s.pending := spoiled_keeps (Keep.frame_pending _ _) rfl

theorem order_spoiled : (spoiled s).order = s.order := spoiled_keeps (Keep.frame_order _ _) rfl

theorem spoilFresh_none (h : freshOp s j = none) : spoilFresh s j = s := by
  simp only [spoilFresh, h]

theorem foldl_spoilFresh_none {l : List Job} (h : ∀ j ∈ l, freshOp s j = none) : l.foldl spoilFresh s = s := by
  induction l with
  | nil => rfl
  | cons j l ih =>
    rw [List.foldl_cons, spoilFresh_none (h j List.mem_cons_self)]
    exact ih fun x hx => h x (List.mem_cons_of_mem j hx)

/-- With no context and no operation open only the windows of Firn regions are spoiled. -/
theorem spoiled_quiet (hctxs : s.ctxs = []) (hcol : s.colOps = []) (hfresh : ∀ j ∈ s.jobs, freshOp s j = none) : spoiled s = dropFirn s := by
  simp only [spoiled, hctxs, List.foldl_nil, hcol, foldl_spoilFresh_none hfresh]

/-! ### The resets' effects (R543, R548) -/

theorem rget_moduleKept (hdropped : keepGlb (offIn off) = false) : rget (moduleKept s) off = regReset off :=
  smGet_filter_dropped fun _ => by simp [hdropped]

theorem rget_porKept : rget (porKept s) off = regReset off := rfl

theorem regReset_tfr_disabled : wbit (regReset (wreg winTfr hEVT_EN)) 1 = false := by decide

theorem regReset_syn_disabled : wbit (regReset (wreg winSyn hEVT_EN)) 1 = false := by decide

theorem moduleKept_disabled (h : wbit (regReset (wreg w hEVT_EN)) 1 = false) : rbit (moduleKept s) (wreg w hEVT_EN) 1 = false :=
  (congrArg (wbit · 1) (rget_moduleKept (by rw [offIn_wreg (by decide)]; decide))).trans h

theorem resetModule_regsOnly : RegsOnly (moduleKept (spoiled s)) (resetModule s) := by
  change RegsOnly _ (if winThere (spoiled s) winCph then rputN (bumpGens (spoiled s) (moduleKept (spoiled s))) rCPH_ALARM (rfld (spoiled s) rCPH_ALARM 3 0)
    else bumpGens (spoiled s) (moduleKept (spoiled s)))
  split
  · exact bumpGens_regsOnly.trans (rput_regsOnly (by decide))
  · exact bumpGens_regsOnly

/-- A whole reset whose effects leave the two events disabled changes, past those effects, registers and the list of resets alone. -/
theorem startReset_of_regsOnly (hwhole : d = 4 ∨ d = 6) (hfree : s.resets.any (fun r => containsReset r d 0 || sameReset r d 0) = false)
    (heffects : RegsOnly t (applyReset s d 0)) (htfr : rbit t (wreg winTfr hEVT_EN) 1 = false) (hsyn : rbit t (wreg winSyn hEVT_EN) 1 = false) :
    ∃ r h l, startReset s d 0 cause pin = { t with regs := r, shadow := h, resets := l } := by
  rw [startReset_whole hwhole hfree rfl]
  obtain ⟨⟨r, h, hforced⟩, -⟩ := heffects.trans (forceAcked_regsOnly (heffects.disabled htfr) (heffects.disabled hsyn))
  rw [hforced]
  obtain ⟨⟨r', h', hshown⟩, -⟩ := refreshResets_regsOnly (s := { t with regs := r, shadow := h, resets := _ })
  exact ⟨r', h', _, hshown⟩

theorem applyReset_module : applyReset s 4 0 = resetModule s := by
  rw [applyReset, if_neg (by decide), if_neg (by decide), if_neg (by decide), if_neg (by decide), if_pos rfl]

theorem applyReset_por : applyReset s 6 0 = porKept s := by
  rw [applyReset, if_neg (by decide), if_neg (by decide), if_neg (by decide), if_neg (by decide), if_neg (by decide), if_neg (by decide), resetPor]

theorem contains_or_same_module (r : ResetP) : (containsReset r 4 0 || sameReset r 4 0) = (r.dom == 4 || r.dom == 6) := by
  simp [containsReset, sameReset, Bool.or_comm]

theorem contains_or_same_por (r : ResetP) : (containsReset r 6 0 || sameReset r 6 0) = (r.dom == 6) := by
  simp [containsReset, sameReset]

theorem startReset_module_effects (hfree : s.resets.any (fun r => r.dom == 4 || r.dom == 6) = false) :
    ∃ r h l, startReset s 4 0 cause pin = { moduleKept (spoiled s) with regs := r, shadow := h, resets := l } :=
  startReset_of_regsOnly (.inl rfl) (by simpa only [contains_or_same_module] using hfree) (applyReset_module ▸ resetModule_regsOnly)
    (moduleKept_disabled regReset_tfr_disabled) (moduleKept_disabled regReset_syn_disabled)

theorem startReset_por_effects (hfree : s.resets.any (fun r => r.dom == 6) = false) :
    ∃ r h l, startReset s 6 0 cause pin = { porKept s with regs := r, shadow := h, resets := l } :=
  startReset_of_regsOnly (.inr rfl) (by simpa only [contains_or_same_por] using hfree) (applyReset_por ▸ .refl _)
    regReset_tfr_disabled regReset_syn_disabled

/-- Outside the stores and the Firn windows a byte reads as before once the module's state is cleared. -/
theorem rdByte_moduleKept_spoiled (hctxs : s.ctxs = []) (hcol : s.colOps = []) (hfresh : ∀ j ∈ s.jobs, freshOp s j = none) (hhbm : isStore a = false)
    (hout : ∀ k, k < 16 → frEnabled s k = true → ¬ (frBase s k ≤ a ∧ a < frBase s k + frLen s k)) (hundef : s.undef = []) :
    rdByte (moduleKept (spoiled s)) a = rdByte s a := by
  obtain ⟨-, hdefined, hbyte⟩ := dropFirn_byteStands hout hundef
  rw [spoiled_quiet hctxs hcol hfresh, rdByte_defined (s := s) (by simp [hundef]),
    rdByte_defined fun z hz => hdefined z (List.mem_of_mem_filter hz)]
  exact (smGet_filter_kept fun _ => by simp [hhbm]).trans hbyte

end Sys2Proof.Machine
end

section
/-! MODULE and power-on resets. -/

namespace Sys2Proof.Machine

/-- Settles O39: what is kept is kept by the state that the reset clears, and from there only registers and the list of resets change. -/
theorem resetEffects : Obligations.reset_effects := by
  refine ⟨fun s hfree => ?module, fun s hfree => ?por⟩
  case module =>
    obtain ⟨r, h, l, hreset⟩ := startReset_module_effects (cause := 2) (pin := false) hfree
    refine ⟨_, congrArg Host.Outcome.next hreset, rfl, rfl, rfl, rfl, rfl, rfl, rfl, rfl, rfl, rfl, rfl, rfl, rfl, rfl,
      ?flash, ?fru, ?log, ?pending, ?time, ?order, fun hctxs hcol hfresh a hhbm hout hundef => ?memory⟩
    case flash => exact flash_spoiled (s := s)
    case fru => exact fru_spoiled (s := s)
    case log => exact congrArg (List.map fun e : LogEntry => { e with todo := [], left := 0 }) (updLog_spoiled (s := s))
    case pending => exact pending_spoiled (s := s)
    case time => exact siteTime_spoiled (s := s)
    case order => exact order_spoiled (s := s)
    case memory => exact rdByte_moduleKept_spoiled hctxs hcol hfresh hhbm hout hundef
  case por =>
    obtain ⟨r, h, l, hreset⟩ := startReset_por_effects (s := { s with pins := { s.pins with pwrgd := false } }) (cause := 0) (pin := true) hfree
    exact ⟨_, congrArg Host.Outcome.next hreset, rfl, rfl, rfl, rfl, rfl, rfl, rfl⟩

end Sys2Proof.Machine
end
